-- ==== Sys2Proof/Word.lean ====
section
/-! DEFINITION. The word types of the model (00_scope.md R1, R2, R5; 10_coding_tiles_and_microcode.md R209). -/
namespace Sys2Proof

/-- One byte of memory or of a stream. -/
abbrev Byte := BitVec 8
/-- One register word (R54). -/
abbrev U32 := BitVec 32
/-- One lane word: 36 bits (R209, R248). -/
abbrev LW := BitVec 36
/-- Device time in units of 2^-16 ns: a 64-bit nanosecond count with its 16-bit fraction (R5). -/
abbrev Time := Nat

end Sys2Proof
end

