-- ==== Sys2Proof/Syntax.lean ====
section
/-! DEFINITION. The commands of the block: one constructor per row of spec/opcode_table.json. The operands carry what
the outside gives with a command: the requester, an address, a value, the bytes received, the identity of the engine
concerned, or what a monitor measured. -/
namespace Sys2Proof

/-- Who makes a register access: the host, a Steward, or the cascade master over MGMT (R58, R71). -/
inductive Requester where
  | host
  | steward (n : Fin 4)
  | master
  deriving DecidableEq, Repr

/-- The trigger of a WARM reset (R419): RST_CMD, PCIe Hot Reset, or PCIe link down. -/
inductive WarmCause where
  | register (rq : Requester)
  | hotReset
  | linkDown
  deriving DecidableEq, Repr

/-- One packet received on an ETH port after its link, IP and UDP headers (R205, R319): the fields a decode context
matches, the colour marks, and the UDP payload, which begins with the RTP header. -/
structure NetPacket where
  ipv6 : Bool
  dstIp : List Byte
  udpDst : Nat
  ptp : Bool
  dei : Bool
  dscp : Nat
  payload : List Byte
  deriving DecidableEq, Repr

/-- A command frame of ISL_SPI (R388) after its opcode byte: the length field, the argument bytes and the CRC-32C sent. -/
structure SpiFrame where
  len : Nat
  args : List Byte
  crc : BitVec 32
  deriving DecidableEq, Repr

/-- One HBM request as the fabric presents it (R230, R233, R235, R237): a read or a write of `len` bytes inside one
256-B block; `ctx` is the admitted context it is made for, or none for bulk. -/
structure HbmReq where
  wr : Bool
  addr : Nat
  len : Nat
  data : List Byte
  /-- Byte enables of a write; none listed enables every byte (R235). -/
  en : List Bool := []
  ctx : Option Nat
  /-- The frame of the context that the access works for. -/
  frame : Nat := 0
  deriving DecidableEq, Repr

/-- An error a Commons scrub read meets (R249). -/
structure CommonsErr where
  addr : Nat
  double : Bool
  deriving DecidableEq, Repr

/-- What an ADMIT message asks of its device (R360, R363): to admit a member contract whose home is a device, to take the
stream as its home, to withdraw either, to take a device in a member's place, or to reserve the member's flow rate on the hop from
this device towards the home. -/
inductive MgmtOp where
  | member (home : Nat)
  | home
  | withdraw
  | replace (dev : Nat)
  | hop (home : Nat)
  deriving DecidableEq, Repr

/-- The commands. Each constructor's docstring gives its row and rule. -/
inductive Instr where
  /-- REG_WRITE (R56). A register write to a field with no behaviour of its own stores the value, or is discarded and counted when the access is unmapped, badly sized, HELD or denied. -/
  | regWrite (rq : Requester) (addr : Nat) (be : BitVec 4) (data : BitVec 32)
  /-- REG_READ_CLEAR (R6). A read of an RC register returns its state and then clears it. -/
  | regReadClear (rq : Requester) (addr : Nat) (umode : Bool)
  /-- LO_READ_LATCH (R74). A read of the LO word of a 64-bit pair, of a device-time fraction word or of a chained counter latches the higher word for the next read. -/
  | loReadLatch (rq : Requester) (addr : Nat) (umode : Bool)
  /-- EVT_FORCE (R60). A write to EVT_FORCE sets the EVT_PEND bits as if their events had occurred. -/
  | evtForce (rq : Requester) (page : Nat) (mask : BitVec 32)
  /-- COMMIT (R66). A COMMIT write snapshots the page's or the selected instance's shadows, records GEN and sets SHADOW_PENDING. -/
  | commit (rq : Requester) (page : Nat) (gen : BitVec 16)
  /-- SHADOW_APPLY (R66). At the block's next natural boundary the pending snapshot becomes operative, or fails its checks, and COMMIT_GEN takes GEN. -/
  | shadowApply (page bank : Nat)
  /-- PAGE_ENABLE (R62). A write of PAGE_CTRL.ENABLE enables the block, or makes it act as quiesced until it reaches IDLE. -/
  | pageEnable (rq : Requester) (page : Nat) (on : Bool)
  /-- PAGE_QUIESCE (R489). PAGE_CTRL.QUIESCE makes the block accept no new work while it finishes the work it has accepted. -/
  | pageQuiesce (rq : Requester) (page : Nat) (on : Bool)
  /-- PAGE_ABORT (R62). PAGE_CTRL.ABORT ends the block's accepted work by the block's abort rules. -/
  | pageAbort (rq : Requester) (page : Nat) (enable quiesce : Bool)
  /-- BLOCK_RESET (R62). PAGE_CTRL.BLOCK_RESET sets IN_RESET and applies the BLOCK reset kind to the page's block. -/
  | blockReset (rq : Requester) (page : Nat)
  /-- BLOCK_RESET_END (R62). Within 2 µs of its start a block reset completes and IN_RESET clears. -/
  | blockResetEnd (page : Nat)
  /-- BLOCK_REACHES_IDLE (R62). A block that was disabled or quiesced while ACTIVE reaches IDLE and drops ENABLE. -/
  | blockReachesIdle (page : Nat)
  /-- LOCK_ACQUIRE (R70). A LOCK write with OP ACQUIRE grants the semaphore to the writer when it is free. -/
  | lockAcquire (rq : Requester) (page : Nat) (owner : BitVec 11)
  /-- LOCK_RELEASE (R70). A LOCK write with OP RELEASE by the owner frees the semaphore. -/
  | lockRelease (rq : Requester) (page : Nat) (owner : BitVec 11)
  /-- LOCK_FORCE_RELEASE (R71). A Steward LOCK write with OP FORCE_RELEASE frees the semaphore with BROKEN set. -/
  | lockForceRelease (rq : Requester) (page : Nat)
  /-- ADMIT (R32). The Ticket Booth reads a contract, runs its checks in order, and either reserves every resource and writes an ADMITTED reply or writes a refusal. -/
  | tkbAdmit (rq : Requester) (ctx : Nat)
  /-- RELEASE (R34). The booth stops a context at its next frame boundary and returns its resources after its last completion is published. -/
  | release (rq : Requester) (ctx : Nat)
  /-- RELIST (R46). The booth reads a list block and commits the Carousel list only when no admitted reservation would suffer. -/
  | relist (rq : Requester)
  /-- CAR_LIST_START (R44). At the start instant a committed Carousel list replaces the operative list and PENDING clears. -/
  | carListStart (list : Nat)
  /-- CAR_ENTRY_END (R43). When an entry's duration or the cycle ends, the list moves to its next entry or starts a new cycle. -/
  | carEntryEnd (list : Nat)
  /-- L24_WINDOW (R238). An L24 window opens, every pseudo-channel receives an all-bank refresh, and in the first window one pseudo-channel starts its retraining pause. -/
  | l24Window
  /-- RETRAINING_PAUSE_END (R239). A 600 ns retraining pause ends, and a failure to converge raises HBM_TRAIN or fences after three failed visits. -/
  | retrainingPauseEnd (pc : Nat) (converged : Bool)
  /-- TJ_SAMPLE (R415). Every 10 µs the on-die sensors are read and the thermal responses are applied to Tj. -/
  | tjSample (temps : List Int) (stack0 stack1 : Nat)
  /-- SYNC_HEADER_LOCK (R150). After 64 consecutive valid sync headers on every lane a port goes from LOCK to ALIGN. -/
  | syncHeaderLock (port : Nat)
  /-- LINK_TRAIN (R150). With TRAIN_EN set and TRAIN blocks seen on every bonded lane a port goes from DOWN to LOCK. -/
  | linkTrain (port : Nat)
  /-- SYNC_HEADER_LOSS (R150). Sixteen invalid sync headers within 64 blocks on any lane take the port to DOWN. -/
  | syncHeaderLoss (port : Nat)
  /-- ALIGN_ROUND (R150). An ALIGN round is received; consistent rounds take the port to UP, and excess skew or a misplaced round take it to DOWN. -/
  | alignRound (port skew : Nat) (consistent inPlace : Bool)
  /-- ALIGN_ROUND_MISSING (R150). An ALIGN round that fails to arrive in UP takes the port to DOWN. -/
  | alignRoundMissing (port : Nat)
  /-- LINE_PACKET (R153). A line packet is received, checked, accepted into its frame or discarded, and copied to the Island. -/
  | linePacket (port laneErrs : Nat) (bytes : List Byte)
  /-- FMARK (R149). A pair of identical FMARK blocks opens or ends a frame on the port. -/
  | fmark (port laneErrs : Nat) (first second : List Byte)
  /-- FRAME_CLOSE_TIMEOUT (R155). SNS_CLOSE_TMO after the last accepted packet closes the frame with fills. -/
  | frameCloseTimeout (ctx : Nat)
  /-- FSYNC_EDGE (R160). At each scheduled device-time instant FSYNCn makes its active edge. -/
  | fsyncEdge (n : Nat)
  /-- FSYNC_PULSE_END (R160). WIDTH ns after its active edge the FSYNC pulse ends. -/
  | fsyncPulseEnd (n : Nat)
  /-- I3C_CMD (R161). A write to I3C_CMD starts an I3C or I2C transfer on the port's controller. -/
  | i3cCmd (rq : Requester) (n : Nat) (word : BitVec 32)
  /-- I3C_TRANSFER_DONE (R163). An I3C transfer ends and I3C_STATUS shows done or NACK. -/
  | i3cTransferDone (n : Nat) (nack : Bool) (rx : List Byte)
  /-- I3C_TX (R163). A write to I3C_TX queues the next byte to send. -/
  | i3cTx (rq : Requester) (n : Nat) (byte : Byte)
  /-- I3C_RX (R163). A read of I3C_RX returns and removes the next received byte. -/
  | i3cRx (rq : Requester) (n : Nat)
  /-- ROW_COMPLETE (R164). When every segment of a key has its lines written, the event fires, rate control allocates it and its row jobs are released. -/
  | rowComplete (ctx frame : Nat)
  /-- ROW_TICKET (R342). A job at the head of the release order is granted buffer, memory slot, tile and egress place together and its program starts. -/
  | rowTicket (bulk : Bool) (ctx : Nat)
  /-- JOB_END (R165). A tile job ends, frees its tile and slot tag, and the rate controller charges its event when it was the last job. -/
  | jobEnd (job : Nat)
  /-- UNIT_ENTER_FIFO (R167). A coded unit enters its flow's egress FIFO once every unit before it in canonical order has entered. -/
  | unitEnterFifo (ctx : Nat)
  /-- DEMOTED_PICTURE_EMIT (R180). A demoted picture's units enter the egress FIFO between two pictures once β covers them, taking a PIC_NUM. -/
  | demotedPictureEmit (ctx : Nat)
  /-- DEMOTED_PICTURE_DISCARD (R180). A demoted picture still waiting when the next frame has been pending for PERIOD is discarded and completes NONCONFORMING. -/
  | demotedPictureDiscard (ctx : Nat)
  /-- NOP (R292). A NOP submission entry runs nothing and completes OK. -/
  | nop (queue : Nat)
  /-- ENCODE (R185). An ENCODE submission entry is validated and queued for its context. -/
  | encode (queue : Nat)
  /-- ENCODE_START (R188). With the slot group open and PERIOD since the previous start, a host-fed entry's input DMA begins. -/
  | encodeStart (ctx : Nat)
  /-- ENCODE_INPUT_DONE (R188). The input DMA of a host-fed frame completes, which is t0 of its bound. -/
  | encodeInputDone (ctx : Nat)
  /-- ENC_CONFIG (R187). An ENC_CONFIG entry reads its configuration block and applies it to the context's next picture. -/
  | encConfig (queue : Nat)
  /-- OPEN_BULK (R183). An ENC_CONFIG with OPEN_BULK opens the named context as a bulk context. -/
  | openBulk (queue : Nat)
  /-- ENC_CONFIG_CLOSE (R183). An ENC_CONFIG with CLOSE writes the SE unit after the last picture and frees the bulk context. -/
  | encConfigClose (queue : Nat)
  /-- BULK_SLOT_TAKE (R184). A free bulk slot takes the next frame of the next BULK queue, switching context records in the Commons. -/
  | bulkSlotTake (slot : Nat)
  /-- DEC_CONFIG_OPEN (R191). A DEC_CONFIG with OPEN checks its block and opens a decode context. -/
  | decConfigOpen (queue : Nat)
  /-- DEC_CONFIG_CLOSE (R191). A DEC_CONFIG with CLOSE discards held pictures, returns buffers and frees the context. -/
  | decConfigClose (queue : Nat)
  /-- DECODE (R192). A DECODE entry is validated, its input parsed and checked, and one job released per segment. -/
  | decode (queue : Nat)
  /-- DECODE_FINISH (R194). When every job of a decode picture has ended, concealment completes, the bitmap and slots are written and the status is settled. -/
  | decodeFinish (ctx : Nat)
  /-- INGRESS_PACKET (R205). A packet on an ETH port is matched to a decode context, policed and reassembled into units. -/
  | ingressPacket (port : Nat) (pkt : NetPacket)
  /-- INGRESS_PIC_TIMEOUT (R206). PIC_TMO after its last accepted packet closes a network-fed picture with PE missing. -/
  | ingressPicTimeout (ctx : Nat)
  /-- MOP_NOP (R215). The NOP microword does nothing for one TCLK. -/
  | mopNop (tile : Nat)
  /-- ALU (R215). The ALU microword combines two general registers into a third. -/
  | alu (tile : Nat) (d a b : Fin 32) (fn : BitVec 6)
  /-- ALUI (R215). The ALUI microword adds a sign-extended immediate to a general register. -/
  | alui (tile : Nat) (d a : Fin 32) (imm : BitVec 17)
  /-- LDS (R215). The LDS microword loads a general register from the tile store. -/
  | lds (tile : Nat) (g base : Fin 32) (offset : BitVec 17) (err : Nat)
  /-- STS (R215). The STS microword stores a general register to the tile store. -/
  | sts (tile : Nat) (g base : Fin 32) (offset : BitVec 17)
  /-- VLD (R215). The VLD microword loads 16 LW into a vector register. -/
  | vld (tile : Nat) (v : Fin 16) (base : Fin 32) (offset : BitVec 18) (err : Nat)
  /-- VST (R215). The VST microword stores a vector register to the tile store. -/
  | vst (tile : Nat) (v : Fin 16) (base : Fin 32) (offset : BitVec 18)
  /-- VOP (R215). The VOP microword performs a vector operation. -/
  | vop (tile : Nat) (vd va vb : Fin 16) (fn : BitVec 7)
  /-- UNIT (R215). The UNIT microword issues a command to a functional unit. -/
  | unit (tile : Nat) (u : BitVec 3) (cmd : BitVec 8) (p : Fin 32)
  /-- BR (R215). The BR microword branches on its condition. -/
  | br (tile : Nat) (cond : BitVec 5) (g : Fin 32) (target : BitVec 17)
  /-- CALL (R216). The CALL microword pushes a return address and jumps. -/
  | call (tile : Nat) (target : BitVec 17)
  /-- RET (R216). The RET microword pops a return address and jumps to it. -/
  | ret (tile : Nat)
  /-- WAIT (R217). The WAIT microword starts waiting on its condition with a timeout. -/
  | wait (tile : Nat) (cond : BitVec 6) (exp : Bool) (tmo : BitVec 12) (tsh : BitVec 4) (holds : Bool)
  /-- WAIT_CONDITION_MET (R217). The waited condition holds, TO is cleared and execution continues. -/
  | waitConditionMet (tile cycles : Nat)
  /-- WAIT_TIMEOUT (R217). The WAIT timeout expires, TO is set and execution continues. -/
  | waitTimeout (tile : Nat)
  /-- SAFEPT (R221). The SAFEPT microword takes a pending ABORT, HALT or PREEMPT and writes the resume record. -/
  | safept (tile : Nat)
  /-- OPDONE (R212). The OPDONE microword ends a tile operation and the next op word is fetched. -/
  | opdone (tile : Nat)
  /-- JEND (R215). The JEND microword ends the job with the status in a general register. -/
  | jend (tile : Nat) (g : Fin 32)
  /-- SP_TMO (R222). A request pending 65,536 TCLK without a safe point raises a machine check. -/
  | spTmo (tile : Nat)
  /-- BUDGET_EXPIRY (R214). A job's TCLK count reaches its budget: an encode job takes a machine check, a decode job an abort request. -/
  | budgetExpiry (tile : Nat)
  /-- MACHINE_CHECK (R225). A machine check stops the sequencer, records the cause, raises TILE_MCHK, fences and gates the tile. -/
  | machineCheck (tile cause addr : Nat)
  /-- PREEMPT (R221). TILE_CMD PREEMPT requests suspension of a diagnostic job at its next safe point. -/
  | preempt (rq : Requester) (tile : Nat)
  /-- RESUME (R223). TILE_CMD RESUME reloads a suspended or halted job from its resume record and continues it. -/
  | resume (rq : Requester) (tile : Nat)
  /-- HALT (R221). TILE_CMD HALT requests a debug halt at the next safe point when debug is unlocked. -/
  | halt (rq : Requester) (tile : Nat)
  /-- STEP (R228). TILE_CMD STEP executes one tile operation on a halted tile and halts it again. -/
  | step (rq : Requester) (tile : Nat)
  /-- RETIRE (R227). TILE_CMD RETIRE clears ENABLED on a fenced tile and optionally programs its RET fuse. -/
  | retire (rq : Requester) (tile : Nat) (permanent : Bool)
  /-- PROMOTE (R227). TILE_CMD PROMOTE enables a spare tile, which joins the bulk pool. -/
  | promote (rq : Requester) (tile : Nat)
  /-- TILE_TS_DATA_READ (R228). A read of TILE_TS_DATA returns a tile-store LW when debug is unlocked, otherwise 0 and a count. -/
  | tileTsDataRead (rq : Requester) (tile : Nat) (hi : Bool)
  /-- HBM_INGRESS_PASS (R237). A request waiting at a partition ingress passes into a pseudo-channel queue once its slot group is open and it will issue before the gate closes. -/
  | hbmIngressPass (req : Option HbmReq)
  /-- HBM_ACCESS (R233). A pseudo-channel issues the next queued 256-B closed-page access in an access period. -/
  | hbmAccess (pc : Nat)
  /-- HBM_READ_COMPLETE (R241). Read data is complete at the controller, corrected, replayed or delivered poisoned. -/
  | hbmReadComplete (pc corrected : Nat) (uncorrectable replayBad : Bool)
  /-- HBM_WRITE_ACK (R233). A write is acknowledged 48 MCLK after issue. -/
  | hbmWriteAck (pc : Nat)
  /-- HBM_SPARE_PERIOD (R236). A spare access period carries a pending replay, a patrol-scrub read, or stays idle, and lowers the replay debt. -/
  | hbmSparePeriod (pc corrected : Nat) (uncorrectable : Bool)
  /-- HBM_PARITY_ALERT (R242). A command and address parity alert reissues commands from the retry buffer and raises the debt. -/
  | hbmParityAlert (pc : Nat)
  /-- COMMONS_SCRUB (R249). Every 1,024 FCLK the Commons scrub reads one word of every bank. -/
  | commonsScrub (errs : List CommonsErr)
  /-- ALLOC (R257). A Granary ALLOC grants a buffer from the minimum or shared region, returns EMPTY, or joins the wait list. -/
  | alloc (rq : Requester) (owner : BitVec 11) (pool : Nat) (wait : Bool)
  /-- FREE (R260). A Granary FREE checks the address and owner, pushes the buffer and tests the head waiter. -/
  | free (rq : Requester) (owner : BitVec 11) (pool addr : Nat)
  /-- CANCEL (R259). A Granary CANCEL removes the requester's waiting operation from its wait list. -/
  | cancel (rq : Requester)
  /-- RECLAIM (R261). A Steward RECLAIM frees every buffer of a pool owned by a given owner. -/
  | reclaim (rq : Requester) (owner : BitVec 11) (pool : Nat)
  /-- GRN_MIN (R256). A write to GRN_MIN changes an owner's minimum only when the pool's sums allow it. -/
  | grnMin (rq : Requester) (owner : BitVec 11) (pool min : Nat)
  /-- GRN_WAIT_TIMEOUT (R259). A waiter that has waited GRN_WAIT_TMO leaves the wait list with TIMEOUT. -/
  | grnWaitTimeout (pool : Nat)
  /-- POOL_ENABLE (R254). Enabling a pool checks its range and starts filling its stack and clearing its tags. -/
  | poolEnable (rq : Requester) (pool : Nat)
  /-- POOL_READY (R254). A pool's stack fill ends and READY is set. -/
  | poolReady (pool : Nat)
  /-- POOL_DISABLE (R254). Disabling a pool with no allocated buffer releases every waiter with NOT_READY. -/
  | poolDisable (rq : Requester) (pool : Nat)
  /-- FIFO_WRITE (R268). A producer writes a word into a FIFO when its limit allows, otherwise stalls. -/
  | fifoWrite (fifo : Nat) (word : BitVec 36)
  /-- FIFO_READ (R267). A consumer reads the next word of a FIFO once cut-through or the packet end permits. -/
  | fifoRead (fifo err : Nat)
  /-- FIFO_RELEASE (R267). The consumer advances Rel up to Rd. -/
  | fifoRelease (fifo words : Nat)
  /-- FIFO_MARK (R267). The consumer sets the mark at Rd. -/
  | fifoMark (fifo : Nat)
  /-- FIFO_REWIND (R267). The consumer sets Rd back to the mark. -/
  | fifoRewind (fifo : Nat)
  /-- FIFO_UNMARK (R267). The consumer clears the mark. -/
  | fifoUnmark (fifo : Nat)
  /-- FIFO_MARK_STALL (R268). A producer stalled by the mark for longer than FIFO_STALL_LIM raises FIFO_MARK_STALL. -/
  | fifoMarkStall (fifo : Nat)
  /-- DMA_TAIL (R271). A write to DMA_TAIL posts descriptors, or is discarded when it would overfill the ring. -/
  | dmaTail (rq : Requester) (ch : Nat) (tail : BitVec 17)
  /-- DESCRIPTOR_FETCH (R272). A channel fetches descriptors ahead of HEAD and validates them. -/
  | descriptorFetch (ch : Nat)
  /-- TIMER_TICK (R277). A DMA timer ticks and fires the descriptor waiting on it, or counts a lost trigger. -/
  | timerTick (timer : Nat)
  /-- DESCRIPTOR_END (R280). A descriptor's transfer and optional confirm read complete, its status is written, HEAD advances and DONE_SEQ increments. -/
  | descriptorEnd (ch : Nat)
  /-- DMA_BUS_ERR (R281). A bus error stops the current descriptor, which ends BAD after its issued writes. -/
  | dmaBusErr (ch written cls : Nat)
  /-- DMA_FETCH_ERR (R281). A bus error on a descriptor fetch halts the channel at HEAD. -/
  | dmaFetchErr (ch : Nat)
  /-- START (R284). CRC_CMD START loads INIT into VAL and starts a scan. -/
  | start (rq : Requester) (unit : Nat)
  /-- CONTINUE (R284). CRC_CMD CONTINUE starts a scan from the current VAL. -/
  | continue_ (rq : Requester) (unit : Nat)
  /-- STOP (R284). CRC_CMD STOP ends a scan at the next 32-byte boundary. -/
  | stop (rq : Requester) (unit fed : Nat)
  /-- LOAD_INIT (R286). CRC_CMD LOAD_INIT sets VAL to INIT without a scan. -/
  | loadInit (rq : Requester) (unit : Nat)
  /-- SCAN_DONE (R284). A CRC scan feeds its last byte and ends. -/
  | scanDone (unit : Nat)
  /-- SCAN_ERR (R284). A bus error or poison stops a CRC scan and raises CRC_BUS_ERR. -/
  | scanErr (unit fed cls : Nat)
  /-- SQ_DB (R289). A write to SQ_DB posts submission entries, or is discarded and signalled DB_BAD. -/
  | sqDb (queue : Nat) (be : BitVec 4) (tail : BitVec 17)
  /-- CR_DONE (R290). A write to CR_DONE returns completion-ring entries to the device, or is discarded. -/
  | crDone (queue : Nat) (be : BitVec 4) (done : BitVec 17)
  /-- SE_FETCH (R296). The device reads posted submission entries into the prefetch cache. -/
  | seFetch (queue : Nat) (err : Bool)
  /-- SQ_INVAL (R297). A write to SQ_INVAL discards cached entries of the range from its first unstarted entry and reports FIRST_LIVE. -/
  | sqInval (rq : Requester) (queue : Nat) (count : BitVec 17)
  /-- ENTRY_START (R300). A startable entry is chosen by weighted round robin or by its bound queue and started, taking a completion slot. -/
  | entryStart (bound : Option Nat)
  /-- CE_READY (R302). A finished CE becomes ready when every earlier slot is ready, and is written to the ring or staged. -/
  | ceReady (queue : Nat)
  /-- HEAD_PUBLISH (R303). The device writes the head word after ready CEs and sends the MSI-X message that CR_CFG.IRQ selects. -/
  | headPublish (queue : Nat)
  /-- QUEUE_ENABLE (R309). Enabling a disabled queue reads its geometry, zeroes its indices, increments GEN and writes the head word. -/
  | queueEnable (rq : Requester) (queue : Nat)
  /-- QUEUE_QUIESCE (R310). Q_CTRL.QUIESCE makes the queue start no further entry. -/
  | queueQuiesce (rq : Requester) (queue : Nat) (on : Bool)
  /-- QUEUE_ABORT (R310). Q_CTRL.ABORT aborts started entries at safe points and completes posted entries ABORTED. -/
  | queueAbort (rq : Requester) (queue : Nat)
  /-- IDLE_REACHED (R310). A quiescing or aborting queue has nothing outstanding or staged and enters IDLE. -/
  | idleReached (queue : Nat)
  /-- EGRESS_PACKET_START (R321). At a transmit opportunity the port chooses the next guaranteed or bulk packet whose gate is open and starts it. -/
  | egressPacketStart (port : Nat)
  /-- EGRESS_PACKET_DONE (R312). A packet is handed to its destination, which is t_data for its last byte, and output-ring pointers and status blocks are written. -/
  | egressPacketDone (port : Nat) (busErr : Bool)
  /-- ETH_LINK_DOWN (R492). An ETH link goes down and the MAC discards every frame it is handed until it is up. -/
  | ethLinkDown (port : Nat)
  /-- PTP_EVENT_MESSAGE (R327). A MAC sends or receives a PTP event message and timestamps it. -/
  | ptpEventMessage (port : Nat) (tx : Bool) (msgType seqId : Nat)
  /-- PTP_TX_ID_READ (R331). A read of PTP_TX_ID with VALID set removes the head transmit timestamp. -/
  | ptpTxIdRead (rq : Requester) (port : Nat)
  /-- GRANT_REVOCATION (R339). A higher-rank request revokes a bulk grant at the next flit boundary, keeping its progress count. -/
  | grantRevocation (arbiter requester delivered total : Nat)
  /-- FAB_ETA_MISS (R340). A grant not accepted within 2 FCLK is withdrawn and counted. -/
  | fabEtaMiss (arbiter requester : Nat)
  /-- DATA (R350). A sequenced DATA flit is received, checked, taken or NAKed, and policed. -/
  | data (port : Nat) (flit : List Byte)
  /-- LINK (R350). A LINK flit acknowledges flits per class, and a NAK rewinds and resends. -/
  | link (port : Nat) (flit : List Byte)
  /-- LINK_ACK_TIMER (R350). At least every 250 ns with unacknowledged taken flits, the receiver sends a LINK flit. -/
  | linkAckTimer (port : Nat)
  /-- RETRY_TIMEOUT (R351). An unacknowledged flit that waits SF_RETRY.TMO rewinds its class, or takes the link down past the retry limit. -/
  | retryTimeout (port cls : Nat)
  /-- ENUMERATE (R352). CASC_CMD ENUMERATE on the master builds the cascade tree breadth-first. -/
  | enumerate (rq : Requester)
  /-- ENUM (R352). A device receives ENUM, fixes its parent or standby port and takes an ID. -/
  | enum (port id depth parent via : Nat) (spares : List Nat)
  /-- ENUM_REPLY (R352). The master records the fuse serial of a replying device against its ID. -/
  | enumReply (port serial dev : Nat) (standby : Bool) (ports : List Nat)
  /-- EPOCH (R357). A device adopts and forwards a new epoch and its list of dead IDs. -/
  | epoch (port : Nat) (newEpoch : BitVec 8) (dead : List Nat)
  /-- CASC_ADMIT (R360). CASC_CMD ADMIT reads a plan, admits each member over MGMT, reserves hop rates and computes the cascade bound. -/
  | cascAdmit (rq : Requester)
  /-- MGMT_ADMIT (R360). A member receives an ADMIT message and runs its booth on the member contract. -/
  | mgmtAdmit (stream member : Nat) (op : MgmtOp) (plan contract : List Byte)
  /-- ADMIT_REPLY (R360). The master receives a member's admission reply. -/
  | admitReply (stream member : Nat) (reply : List Byte)
  /-- CASC_RELEASE (R368). CASC_CMD RELEASE releases a cascade stream of the named home context. -/
  | cascRelease (rq : Requester) (ctx : Nat)
  /-- RESET_DEVICE (R368). CASC_CMD RESET_DEVICE sends a reset to the target device. -/
  | resetDevice (rq : Requester) (target : Nat)
  /-- BUDGET (R362). A widen member receives its size budget for the next frame. -/
  | budget (ctx frame bytes target : Nat)
  /-- CASC_SEM_ACQUIRE (R364). CASC_SEM_OP ACQUIRE sends a request for a cascade semaphore. -/
  | cascSemAcquire (rq : Requester) (owner : BitVec 11) (sem : Nat)
  /-- CASC_SEM_RELEASE (R364). CASC_SEM_OP RELEASE sends a release of a cascade semaphore. -/
  | cascSemRelease (rq : Requester) (owner : BitVec 11) (sem : Nat)
  /-- CASC_SEM_FORCE_RELEASE (R364). CASC_SEM_OP FORCE_RELEASE from a master Steward frees a semaphore with BROKEN set. -/
  | cascSemForceRelease (rq : Requester) (sem : Nat)
  /-- SEM_REQ (R364). The master decides a semaphore request without waiting and replies. -/
  | semReq (port dev op : Nat) (owner : BitVec 11) (sem : Nat)
  /-- SEM_REPLY (R364). A device receives the master's semaphore reply into CASC_SEM_RESULT. -/
  | semReply (granted broken : Bool) (owner : BitVec 11) (dev : Nat)
  /-- XREQ (R365). A target receives a remote Granary allocation in WAIT mode. -/
  | xreq (dev tag issued : Nat) (owner : BitVec 11) (pool : Nat)
  /-- XREPLY (R365). A requester receives the answer to its cross-device request. -/
  | xreply (tag code addr : Nat)
  /-- XREQ_TIMEOUT (R365). An XREQ waiting CASC_XDEV_TMO is aborted with TIMEOUT. -/
  | xreqTimeout (dev tag : Nat)
  /-- MGMT_RESET (R419). A device receives the master's RESET message and takes a CASCADE reset. -/
  | mgmtReset
  /-- SYNC_REQ_TIMER (R354). Every 10 µs a non-master device sends SYNC_REQ to its parent. -/
  | syncReqTimer
  /-- SYNC_REQ (R354). A parent answers a SYNC_REQ with SYNC_RSP. -/
  | syncReq (port : Nat) (t1 : Nat)
  /-- SYNC_RSP (R354). A child computes its offset and corrects device time by step or slew. -/
  | syncRsp (port : Nat) (t1 t2 t3 : Nat)
  /-- HEARTBEAT_TIMER (R355). Every 10 µs a device sends a HEARTBEAT towards the master, and the master sends one down every link. -/
  | heartbeatTimer
  /-- HEARTBEAT (R355). A HEARTBEAT flit is forwarded, or restarts the master's timer for its device. -/
  | heartbeat (port dev count : Nat) (status : BitVec 32) (epoch : BitVec 8)
  /-- CASC_MASTER_LOST (R355). A device that receives no master heartbeat for 32 µs raises CASC_MASTER_LOST. -/
  | cascMasterLost
  /-- CASC_DEVICE_DEAD (R356). A device's heartbeat timer reaches CASC_DEAD_TMO and the master declares it dead, bumps the epoch and re-parents. -/
  | cascDeviceDead (dev : Nat)
  /-- FENCE (R358). A device that receives FENCE stops its cascade streams, sets FENCED and takes a CASCADE reset. -/
  | fence (port : Nat) (epoch : BitVec 8) (dev : Nat)
  /-- FENCE_REPEAT (R357). Every 10 µs while a dead peer keeps sending, FENCE is sent again. -/
  | fenceRepeat (port : Nat)
  /-- ISL_TAP_PACKET (R376). The Island takes a tapped packet, opens or closes its group's frame and digests it. -/
  | islTapPacket (port : Nat) (dtNs : Nat) (colour : Nat) (bytes : List Byte) (room : Bool)
  /-- ISL_TAP_UNIT (R377). The Island hashes a tapped coded unit into CODED_ROOT. -/
  | islTapUnit (ctx picNum frame : Nat) (bytes : List Byte) (last room : Bool)
  /-- ISL_TAP_TMO (R375). TAP_TMO after the last tapped packet closes the Island frame. -/
  | islTapTmo (group : Nat)
  /-- CODED_TMO (R377). When the picture's PE is not tapped within CODED_TMO the record completes with CODED_MISSING. -/
  | codedTmo (group : Nat)
  /-- SIGNATURE_DONE (R381). The signing engine completes a record's ECDSA signature. -/
  | signatureDone
  /-- EXPO_EDGE (R373). An edge on an EXPO input is timestamped in Island time. -/
  | expoEdge (input : Nat) (rising : Bool) (sinceIclk : Nat)
  /-- PPS_EDGE (R371). An ISL_PPS edge starts a new Island second and updates the timebase lock. -/
  | ppsEdge (iclk : Nat) (predictErr : Int)
  /-- PPS_MISSING (R372). No PPS edge 1.1 s after the previous one clears TB_LOCK. -/
  | ppsMissing
  /-- REF_LOSS (R372). Loss of ISL_REF10M clears TB_LOCK. -/
  | refLoss
  /-- SEAL_CHANGE (R388). The debounced seal state changes, and closing discards staged changes. -/
  | sealChange (open_ : Bool)
  /-- READ_STATUS (R388). The Island returns its status over ISL_SPI. -/
  | readStatus (frame : SpiFrame)
  /-- READ_RECORD (R388). The Island returns a record by index or NOT_HELD. -/
  | readRecord (frame : SpiFrame)
  /-- READ_MEAS (R388). The Island returns its measurements and public key. -/
  | readMeas (frame : SpiFrame)
  /-- READ_PARAM (R388). The Island returns its operative parameter block. -/
  | readParam (frame : SpiFrame)
  /-- READ_AUDIT (R388). The Island returns an audit-log entry. -/
  | readAudit (frame : SpiFrame)
  /-- WRITE_PARAM (R388). With the seal open, bytes are written into the staged parameter block. -/
  | writeParam (frame : SpiFrame)
  /-- COMMIT_PARAM (R388). With the seal open, the staged block is validated, written to NVM and AUDIT increments. -/
  | commitParam (frame : SpiFrame)
  /-- DISCARD (R388). Staged Island changes are dropped. -/
  | discard (frame : SpiFrame)
  /-- SET_TIME (R388). With the seal open, a seconds count is set for the next PPS edge and AUDIT increments. -/
  | setTime (frame : SpiFrame)
  /-- LOAD_FW (R388). With the seal open, a firmware image is staged. -/
  | loadFw (frame : SpiFrame)
  /-- COMMIT_FW (R388). With the seal open, a staged image is verified, written, counted and followed by an ISL reset. -/
  | commitFw (frame : SpiFrame)
  /-- RESET (R388). With the seal open, the ISL_SPI RESET command takes an ISL reset. -/
  | reset (frame : SpiFrame)
  /-- ISL (R369). The Island resets by its power-on or ISL_RST_N and starts, resolving its NVM copies. -/
  | isl (powerOn : Bool)
  /-- ISL_MEAS_RELAY (R398). A change of the Island measurement block extends MR6. -/
  | islMeasRelay (block : List Byte)
  /-- BOOT (R395). The ROM senses fuses, chooses and verifies a bundle, loads tiles, prepares memory and releases the Stewards. -/
  | boot (pllLocks hbmTrains crcsEqual : Bool)
  /-- REC_LOAD (R404). In RECOVERY, BOOT_CMD REC_LOAD reads a host bundle by DMA, validates it and boots it. -/
  | recLoad (rq : Requester) (dmaOk hbmTrains crcsEqual : Bool)
  /-- MR_EXTEND (R398). A Steward extends MR7 with a digest and logs the extend. -/
  | mrExtend (rq : Requester) (mr : Nat)
  /-- UNLOCK_CHALLENGE (R407). The device places a fresh nonce in BOOT_NONCE. -/
  | unlockChallenge (rq : Requester)
  /-- UNLOCK_SUBMIT (R407). A debug-unlock token is checked and, when accepted, sets UNLOCK_PENDING or programs RMA. -/
  | unlockSubmit (rq : Requester)
  /-- SVN_COMMIT (R405). A Steward raises SVN_MIN by programming its fuse. -/
  | svnCommit (rq : Requester) (svn : Nat)
  /-- BOOT_MR_SEL (R408). A write to BOOT_MR_SEL latches the selected measurement register for reading. -/
  | bootMrSel (rq : Requester) (mr : Nat)
  /-- GET_VERSION (R401). The SPDM responder answers GET_VERSION. -/
  | getVersion
  /-- GET_CAPABILITIES (R401). The SPDM responder answers GET_CAPABILITIES. -/
  | getCapabilities
  /-- NEGOTIATE_ALGORITHMS (R401). The SPDM responder answers NEGOTIATE_ALGORITHMS. -/
  | negotiateAlgorithms (asym hash : Bool)
  /-- GET_DIGESTS (R401). The SPDM responder returns certificate digests. -/
  | getDigests
  /-- GET_CERTIFICATE (R401). The SPDM responder returns the slot 0 certificate chain. -/
  | getCertificate (slot offset length : Nat)
  /-- CHALLENGE (R401). The SPDM responder signs a challenge, or refuses it in RMA. -/
  | challenge (slot : Nat) (nonce : List Byte)
  /-- GET_MEASUREMENTS (R402). The SPDM responder returns measurement indices from one snapshot. -/
  | getMeasurements (index : Nat) (signed : Bool) (nonce : List Byte)
  /-- IVR_ADJUST (R410). Every 1 µs each rail's controller reads its monitors and moves its voltage target. -/
  | ivrAdjust (rail : Nat) (margin : Int) (overcurrent : Bool)
  /-- VIN_UV (R410). VIN_IVR below 1.71 V for 2 µs raises VIN_UV. -/
  | vinUv
  /-- AVS_POLL (R411). Every 100 µs the device reads VIN_IVR voltage and current into PWR_VIN. -/
  | avsPoll (mv ca : Nat)
  /-- BULK_TILE_GATE (R412). 50 µs after its last job a bulk-pool tile is gated. -/
  | bulkTileGate (tile : Nat)
  /-- PWR_BULK_TILES (R414). A write to PWR_BULK_TILES is taken or refused against the power cap. -/
  | pwrBulkTiles (rq : Requester) (n : Nat)
  /-- RUN (R416). PWR_CMD RUN returns the device from STANDBY to RUN. -/
  | run (rq : Requester)
  /-- STANDBY (R416). PWR_CMD STANDBY requests STANDBY after bulk pictures end. -/
  | standby (rq : Requester)
  /-- STANDBY_ENTER (R416). Once the bulk pictures in progress end, the device gates unheld tiles and enters STANDBY. -/
  | standbyEnter
  /-- DOZE (R417). PWR_CMD DOZE is refused or puts HBM in self-refresh and gates the device. -/
  | doze (rq : Requester)
  /-- WAKE (R418). An enabled wake source brings the device from DOZE back to RUN and restores retained state. -/
  | wake (source : Nat)
  /-- POR (R419). VDD_SOC rising resets the main die and reruns boot. -/
  | por
  /-- COLD (R419). RESET_N held low for 1 µs or more resets the main die and reruns boot. -/
  | cold
  /-- WARM (R419). RST_CMD WARM, PCIe Hot Reset or link down stops ingresses, optionally preserves HBM and resets the main die. -/
  | warm (cause : WarmCause)
  /-- FLR (R419). A PCIe Function Level Reset resets the main die and reruns boot. -/
  | flr
  /-- RST_TILE (R419). A Steward write to RST_TILE resets the named tiles and zero-fills their stores. -/
  | rstTile (rq : Requester) (word : Nat) (mask : BitVec 32)
  /-- ROOT_PLL_LOL (R430). Loss of root PLL lock stops every core domain and enters the fault state. -/
  | rootPllLol
  /-- REF_CLOCK_LOSS (R431). Loss of REFCLK_PCIE or REFCLK_ETH takes its link down and raises a notice. -/
  | refClockLoss (eth : Bool)
  /-- DT_ADJ (R433). A Steward write to DT_ADJ sets the device-time rate offset, or waits for a running slew to end. -/
  | dtAdj (rq : Requester) (ppb : BitVec 32)
  /-- DT_STEP (R433). DT_CMD STEP schedules a signed offset of device time at the common edge. -/
  | dtStep (rq : Requester)
  /-- DT_SET (R433). DT_CMD SET schedules an absolute device time at the common edge. -/
  | dtSet (rq : Requester)
  /-- DT_CMD_DONE (R432). At the common edge a pending STEP or SET takes effect in every replica, or becomes a slew while a reservation exists. -/
  | dtCmdDone
  /-- SLEW_DONE (R434). A converted slew removes its offset and device time returns to DT_ADJ. -/
  | slewDone
  /-- CDC_EVT_OVF (R438). An event crosser counter saturates and lost pulses are counted. -/
  | cdcEvtOvf (id lost : Nat)
  /-- FAULT_RAISE (R446). A raised fault source sets its bit, appends a log entry and applies its severity. -/
  | faultRaise (page source info : Nat)
  /-- FLT_HB (R450). A Steward write to FLT_HB counts as its heartbeat. -/
  | fltHb (rq : Requester)
  /-- HB_MISS (R450). A masked Steward that has not beaten within FLT_HB_CFG.TMO stops BELL and raises HB_MISS. -/
  | hbMiss (steward : Nat)
  /-- BELL_TOGGLE (R450). At each multiple of BELL_CFG.HALF µs BELL toggles while the device is healthy. -/
  | bellToggle
  /-- CRIER_TAKE (R453). A Steward takes a pending Crier source, becoming its owner, or fails. -/
  | crierTake (rq : Requester) (src : Nat)
  /-- CRIER_DONE (R453). The owner clears a source's active state, or the write is ignored as spurious. -/
  | crierDone (rq : Requester) (src : Nat)
  /-- CRIER_SET (R452). A write to CRIER_SET asserts a software source. -/
  | crierSet (rq : Requester) (src : Nat)
  /-- CRIER_CLR (R452). A write to CRIER_CLR deasserts a software source. -/
  | crierClr (rq : Requester) (src : Nat)
  /-- COUNTER_WRAP (R461). A performance counter wraps, sets OVF, carries to a chained counter and may freeze counting. -/
  | counterWrap (tile : Option Nat) (counter : Nat)
  /-- SAMPLE_PERIOD (R463). The sampler's count reaches SMP_PERIOD and its operation writes a sample entry at its end. -/
  | samplePeriod (tile endKind latency sinceStart : Nat) (extra : Nat)
  /-- TMUX_SEL (R467). A write to TMUX_SEL selects a debug bus for the pins in debug states, or is discarded. -/
  | tmuxSel (rq : Requester) (word : BitVec 32)
  /-- BYPASS (R469). The TAP loads the BYPASS instruction. -/
  | bypass
  /-- IDCODE (R469). The TAP loads IDCODE and shifts out 0x1962_05AF. -/
  | idcode
  /-- SAMPLE_PRELOAD (R469). The TAP samples or preloads the boundary cells. -/
  | samplePreload (cells : List Bool)
  /-- EXTEST (R469). The TAP drives the boundary cells with the main die held in COLD reset. -/
  | extest (cells : List Bool)
  /-- EXTEST_PULSE (R469). The TAP drives IEEE 1149.6 pulses on AC-coupled lanes. -/
  | extestPulse (cells : List Bool)
  /-- EXTEST_TRAIN (R469). The TAP drives IEEE 1149.6 pulse trains on AC-coupled lanes. -/
  | extestTrain (cells : List Bool)
  /-- CLAMP (R469). The TAP clamps the outputs and selects bypass. -/
  | clamp
  /-- HIGHZ (R469). The TAP places every output in high impedance. -/
  | highz
  /-- TAP_RESET (R469). A TAP reset ends an EXTEST-class instruction and releases the main die from its held reset. -/
  | tapReset
  /-- MAIN_POWER_LOSS (R416). Removal of VDD_SOC or VIN_IVR takes the main die to OFF, losing HBM and all main-die state. -/
  | mainPowerLoss
  /-- ISL_POWER_LOSS (R369). Removal of VDD_ISL stops the Island, which the main die then sees as STATE OFF with mailbox offsets reading 0. -/
  | islPowerLoss
  /-- ETH_LINK_UP (R492). An ETH link comes up, LINK_UP is set and the MAC again puts frames on the wire. -/
  | ethLinkUp (port : Nat)
  /-- REF_CLOCK_RETURN (R431). REFCLK_PCIE or REFCLK_ETH returns to tolerance, its REF_OK bit is set and its link may come up again. -/
  | refClockReturn (eth : Bool)
  /-- SERDES_PLL_LOL (R431). A sensor or Selfold SerDes PLL loses lock and takes only its own port to DOWN. -/
  | serdesPllLol (port : Nat)
  /-- ISL_REF_RETURN (R372). ISL_REF10M returns, REF_OK is set and the Island may count in-tolerance PPS intervals towards TB_LOCK again. -/
  | islRefReturn
  /-- TILE_RESET_DONE (R427). A TILE reset completes its tile-store zero-fill within 20 µs and TILE_RESET_DONE is set. -/
  | tileResetDone
  /-- INVAL_DONE (R297). Within 1 µs of an SQ_INVAL write the device reports FIRST_LIVE and sets INVAL_DONE. -/
  | invalDone (queue : Nat)
  /-- PCIE_LINK_UP (R397). The PCIe link comes up, and configuration space and the DOE mailbox respond from then on. -/
  | pcieLinkUp
  deriving DecidableEq, Repr

end Sys2Proof
end

