-- ==== Sys2Proof/Config.lean ====
section
/-! DEFINITION. What the spec leaves open or takes from a published standard: opaque functions without a body, so that no
proof can rest on a value of them. Each is named in the assumption log. -/
namespace Sys2Proof.Config

/-- SHA-384 of FIPS 180-4 (R393, R398), taken from its standard (assumption 20). -/
opaque sha384 : List Byte → BitVec 384
/-- BLAKE3 with its 256-bit output (R375, R376), taken from its standard (assumption 20). -/
opaque blake3 : List Byte → BitVec 256
/-- ECDSA P-384 verification: public key, digest, signature (R393, R407), by its standard (assumption 20). -/
opaque ecdsa384Verify : List Byte → BitVec 384 → List Byte → Bool
/-- The security version of an Island firmware image whose ECDSA P-384 signature verifies (R386, R388); the image's layout is
not given (assumption 37). -/
opaque islandFw : List Byte → Option Nat
/-- The attestation key's ECDSA P-384 signature over a message, with the n-th fresh nonce (R401), 96 bytes (assumption 20). -/
opaque attestSign : List Byte → Nat → BitVec 768
/-- The Island key's ECDSA P-256 signature over a message, with the n-th fresh nonce (R381), 64 bytes (assumption 20). -/
opaque islandSign : List Byte → Nat → BitVec 512
/-- The Island's public key (R381, R388): 64 bytes (assumption 21). -/
opaque islandPubKey : BitVec 512
/-- AES-256-GCM decryption of the encrypted patch content under the unit's patch key: none when the tag fails (R393,
R396), by its standard (assumption 20). -/
opaque gcmDecrypt : List Byte → List Byte → List Byte → Option (List Byte)
/-- The device certificate chain (R400, R401) (assumption 21). -/
opaque certChain : List Byte
/-- The n-th fresh random or unstated 64-bit value (assumption 2). -/
opaque freeWord : Nat → BitVec 64
/-- The n-th unstated byte (assumption 2). -/
opaque freeByte : Nat → Byte
/-- ALU functions: FN and operands (R215 names FN without a table, assumption 22). -/
opaque aluFn : BitVec 6 → LW → LW → LW
/-- Vector functions: FN and operands of 16 LW (R215 names FN without a table, assumption 22). -/
opaque vopFn : BitVec 7 → BitVec 576 → BitVec 576 → BitVec 576
/-- Whether a unit command is one the functional unit does not have (R225 cause ILLEGAL; the spec lists no command codes,
assumption 22). -/
opaque unitReserved : BitVec 3 → BitVec 8 → Bool
/-- Where a unit command acts (R208): the first lane word it writes and their number, and of the load engine the HBM bytes and the
Commons lane words that it reads, and how many it writes there. -/
structure UnitMove where
  lw : Nat := 0
  count : Nat := 0
  hbm : Nat := 0
  len : Nat := 0
  com : Nat := 0
  comLen : Nat := 0
  put : Nat := 0
  comPut : Nat := 0
  deriving DecidableEq, Repr, Inhabited
/-- The places of a unit command, by unit, command and parameters (assumption 22). -/
opaque unitMove : Nat → Nat → List LW → UnitMove
/-- The lane words a unit command writes, by unit, command, parameters, the tile store, the HBM bytes and Commons lane words read,
and place (assumption 22). -/
opaque unitWord : Nat → Nat → List LW → List (Nat × LW) → List Byte → List LW → Nat → LW
/-- The bytes that the load engine writes to HBM, and the lane words to the Commons, by command, parameters, the tile store and
place (assumption 22). -/
opaque unitByte : Nat → List LW → List (Nat × LW) → Nat → Byte
opaque unitLane : Nat → List LW → List (Nat × LW) → Nat → LW
/-- Where a picture's buffers lie (R211): context, picture, and which buffer (assumption 50). -/
opaque bufAddr : Nat → Nat → Nat → BitVec 64
/-- Samples of a reference slot whose picture lost a job (R224): tag, plane, line, place in the line. -/
opaque lostSample : Nat → Nat → Nat → Nat → BitVec 18
/-- The coded bytes of an HEVC row job, by H.265 within R181 (assumption 23): block, source lines of its planes, reference
pictures, row, column, QP, limit, emergency form. -/
opaque hevcJob : List Byte → List (List (List Nat)) → List (List (List (List Nat))) → Nat × Nat × Nat × Nat × Bool → List Byte
/-- The reconstruction of an HEVC picture from its jobs' bytes, with its reference pictures (assumption 23). -/
opaque hevcRecon : List Byte → List (List (List (List Nat))) → List (List Byte) → List (List (List Nat))
/-- HEVC parameter sets and slice header of a picture: block, picture number, IRAP (assumption 23). -/
opaque hevcHeader : List Byte → Nat → Bool → List Byte
/-- The vectors over the coding blocks' first samples that a coded HEVC job chose, by plane (R170): configuration, unit, plane. -/
opaque hevcMvs : List Byte → List Byte → Nat → List (Option (Int × Int))
/-- In WPP form a row's job has coded its first two CTUs (R182): configuration, row, TCLK its tile has spent on it. -/
opaque hevcTwoCtus : List Byte → Nat → Nat → Bool
/-- HEVC emergency size in bytes of the job at a row and column of a P or an I picture, computed at admission (R182,
assumption 23). -/
opaque hevcEmerg : List Byte → Bool → Nat → Nat → Nat
/-- What a parser of H.265 syntax finds in an access unit (R203, R204, assumption 23): the profile and level codes of R181, layout
(R83), depth and coded luma size, the conformance window (left, top, width, height), CTB size, WPP, widths of the tile columns and
heights of the tile rows in CTBs, B slices, slice segments, reference pictures the stream holds, this picture's number and those
its RPS names, that it is kept for reference, and for each job in decoding order the bytes of its substream (none where it
cannot be located) and of the rest of its slice segment. -/
structure HevcSyn where
  profile : Nat
  level : Nat
  layout : Nat
  depth : Nat
  w : Nat
  h : Nat
  window : Nat × Nat × Nat × Nat
  ctb : Nat
  wpp : Bool
  cols : List Nat
  rows : List Nat
  bSlice : Bool
  slices : Nat
  dpb : Nat
  poc : Nat
  rps : List Nat
  kept : Bool
  sub : List (Option Nat × Nat)
  deriving DecidableEq, Repr
/-- The parser, from the decode block and the bytes; none where the bytes hold no picture of H.265. -/
opaque hevcParse : List Byte → List Byte → Option HevcSyn
/-- Decoding of a job by H.265: from the bytes, the pictures of the RPS, the samples decoded so far, the job's number, and that
its budget expired; the samples of its rectangle by plane, and the first CTU in error with its damage kind. -/
opaque hevcDecJob : List Byte → List (List (List (List Nat))) → List (List (List Nat)) → Nat → Bool →
  List (List (List Nat)) × Option (Nat × Nat)
/-- The CTU of a job at which its budget expires (R204): bytes, job. -/
opaque hevcLate : List Byte → Nat → Nat
/-- The RPS entries that a job reads. -/
opaque hevcReads : List Byte → Nat → List Nat
/-- Deblocking and SAO over a picture's samples. -/
opaque hevcFilter : List Byte → List (List (List Nat)) → List (List (List Nat))
/-- The payload of an RFC 7798 single NAL unit or FU packet that carries a piece of an HEVC picture (R319): whether it is the
first and the last piece (assumption 23). -/
opaque hevcPay : Bool → Bool → List Byte → List Byte
/-- Memory bandwidth in MB/s that a contract's stream needs (R32, R36; no formula is given, assumption 26). -/
opaque memDemand : List Byte → Nat
/-- What a contract's tiles load from and store to its pseudo-channels, MB/s each (R334; no traffic figure is given,
assumption 26). -/
opaque tileTraffic : List Byte → Nat × Nat
/-- Whether, at an arbiter with more than one privileged requester, given by its router and way out, the Carousel windows of two
of them coincide when these partitions' contracts are admitted (R334, R335; what counts as inside reservations there is not
stated, assumption 26). -/
opaque fabricPrivileged : List (Nat × List Byte) → Nat × Nat × Nat → Bool
/-- The entries that the booth installs in a partition's slot list for a slot group and a contract, from the entries and the
cycle of the operative list; none listed installs none (R27, R31 and R490 give no rule for them, assumption 25). -/
opaque slotEntries : List Nat → Nat → Nat → List Byte → List Nat
/-- The 32-bit debug word a TMUX selection presents (R467) (assumption 24). -/
opaque debugBus : Nat → BitVec 32
/-- The fused minimum and target margin of a rail's critical-path monitors (R410 names them without a value): rail; (least,
target) (assumption 36). -/
opaque ivrMargin : Nat → Int × Int
/-- The mask ROM's version word (R398 names it without a value, assumption 37). -/
opaque romVersion : BitVec 32
/-- The op word at an index of the TPR that the loader makes of the tile-program and catalogue components (R212 and R392 give
the components no inner layout, assumption 37). -/
opaque tprWord : List Byte → List Byte → Nat → BitVec 64
/-- Bytes of the largest memory write TLP the device sends (R281 sends TLPs without giving their size, assumption 69). -/
opaque tlpBytes : Nat
/-- What a read of a Commons address past the last lane word delivers (R248 gives such an address no word, assumption 6). -/
opaque noLane : Nat → BitVec 36
/-- The IPv6 flow label of a flow (R319 gives IPv6 headers no label, assumption 68). -/
opaque flowLabel : Nat → BitVec 20
/-- log2 of the size, less 8, that boot firmware chooses for a FIFO instance (R264 leaves it to the firmware, assumption 29). -/
opaque bootFifoLog : Nat → Nat
/-- The time in microseconds that the n-th boot from flash took (R422 uses it; its length is not the model's, assumption 2). -/
opaque bootMicros : Nat → Nat

end Sys2Proof.Config
end

