-- ==== Sys2Proof/Machine/NMap.lean ====
section
/-! DEFINITION. Sparse tables keyed by a number (a register's key, a byte address, an instance number), held as plain
data: a list of pairs with strictly rising keys. `nget` reads, `nset` writes, `ndel` removes; `bset` writes a byte of a
memory whose unlisted bytes read 0 and keeps the canonical form (no listed zero). -/
namespace Sys2Proof.Machine

/-- A table from numbers to values: pairs in strictly rising key order. -/
abbrev NMap (α : Type) := List (Nat × α)

/-- The entry with key `k`. -/
def nget {α : Type} : NMap α → Nat → Option α
  | [], _ => none
  | (j, v) :: t, k => if j = k then some v else nget t k

/-- The entry with key `k`, or the default `d`. -/
def ngetD {α : Type} (m : NMap α) (k : Nat) (d : α) : α := (nget m k).getD d

/-- Set the entry with key `k`. -/
def nset {α : Type} : NMap α → Nat → α → NMap α
  | [], k, v => [(k, v)]
  | (j, w) :: t, k, v =>
    if k < j then (k, v) :: (j, w) :: t else if k = j then (k, v) :: t else (j, w) :: nset t k v

/-- Remove the entry with key `k`. -/
def ndel {α : Type} (m : NMap α) (k : Nat) : NMap α := m.filter fun e => e.1 != k

/-- The keys rise strictly. -/
def nsorted {α : Type} : NMap α → Bool
  | [] => true
  | [_] => true
  | (j, _) :: (k, w) :: t => decide (j < k) && nsorted ((k, w) :: t)

/-- One byte of a memory whose unlisted bytes read 0. -/
def bget (m : NMap Byte) (a : Nat) : Byte := ngetD m a 0

/-- Write one byte, keeping the canonical form: a zero is not listed. -/
def bset (m : NMap Byte) (a : Nat) (b : Byte) : NMap Byte := if b = 0 then ndel m a else nset m a b

/-- Canonical form of a byte memory: keys rise strictly and no listed byte is 0. -/
def memWf (m : NMap Byte) : Bool := nsorted m && m.all (fun p => p.2 != 0)

end Sys2Proof.Machine
end

