-- ==== Sys2Proof/Machine/State.lean ====
section
/-! DEFINITION. The whole state of the MV9620-H48 as plain data. Each structure names the chapter and rules of spec/ that
give the machine that state; the default value of a field is its reset value. Instance-numbered engines are sparse tables
(`NMap`) whose unlisted entries stand at their defaults. Times are device time in 2^-16 ns unless a field says TBCLK. -/
namespace Sys2Proof.Machine

/-- Picture samples: planes of lines of samples (R86). -/
abbrev PicBuf := List (List (List Nat))

/-- What the device puts on a pin or sends to the host outside memory; a record of outputs (assumption 3). -/
inductive Emit where
  /-- A Selfold flit on port SFn (R347). -/
  | flit (port : Nat) (bytes : List Byte)
  /-- An ETH frame or PTP message handed to the wire (R319, R327). -/
  | frame (port : Nat) (bytes : List Byte)
  /-- One ETH frame ended with an invalid FCS (R422, R448). -/
  | badFcs (port : Nat)
  /-- A Memory Read request of a submission entry: address, bytes, and its No Snoop attribute (R295). -/
  | memRd (addr len : Nat) (noSnoop : Bool)
  /-- An MSI-X message (R303, R455). -/
  | msix (vector : Nat)
  /-- An SPDM response: its name, status and bytes (R401). -/
  | spdm (name : String) (bytes : List Byte)
  /-- An ISL_SPI response: its bytes (R388). -/
  | spi (bytes : List Byte)
  /-- Bytes sent by I3C controller n (R161). -/
  | i3c (n : Nat) (i2c : Bool) (bytes : List Byte)
  /-- An Uncorrectable Internal Error or bus error reported through AER (R314, R448). -/
  | aer
  /-- A Function Readiness Status message (R422). -/
  | frs
  /-- Bits shifted out of the TAP (R469). -/
  | tdo (bits : Nat)
  deriving DecidableEq, Repr

/-- The data crossing between a block's clock and its neighbours' (R439, R440): its words, and that its pointers are being
brought to zero after a reset, while the writer sees full and the reader empty. -/
structure Xing where
  words : List LW := []
  wr : Nat := 0
  rd : Nat := 0
  resync : Bool := false
  deriving DecidableEq, Repr

/-- The common page header's own state (R60), except FLT_SEV, which lies in the register file. -/
structure PageHdr where
  enable : Bool := false
  quiesce : Bool := false
  /-- ENABLE was written 0 while ACTIVE and drops at IDLE (R62). -/
  dropEnable : Bool := false
  inReset : Bool := false
  fenced : Bool := false
  evtPend : U32 := 0
  evtEn : U32 := 0
  fltSrc : BitVec 16 := 0
  /-- The severity kept of each pending source, two bits a source (R14). -/
  sevKept : U32 := 0
  commitGen : BitVec 16 := 0
  lockHeld : Bool := false
  lockBroken : Bool := false
  lockOwner : BitVec 11 := 0x7FF
  lockGrants : BitVec 16 := 0
  /-- The requester class recorded with the grant (R71). -/
  lockClass : Option Requester := none
  /-- VIEW.OPER, one bit per requester (R69). -/
  view : BitVec 6 := 0
  xing : Xing := {}
  deriving DecidableEq, Repr

/-- A small arbiter (R336): the requester granted last, and its grants since one went to the longest waiter. -/
structure SmallArb where
  last : Nat := 7
  grants : Nat := 0
  deriving DecidableEq, Repr

/-- A line packet copied to the Island (R159): its port, arrival time, colour and bytes. -/
structure Tap where
  port : Nat
  dtNs : Nat
  colour : Nat
  bytes : List Byte
  deriving DecidableEq, Repr

/-- A coded unit copied to the Island as it enters the egress FIFO (R374, R377): its context, PIC_NUM, SRC_FRAME and bytes, and
that it ends its picture. -/
structure UnitTap where
  ctx : Nat
  picNum : Nat
  frame : Nat
  bytes : List Byte
  last : Bool
  /-- The ports of its context. -/
  ports : Nat := 0
  deriving DecidableEq, Repr

/-- A committed shadow set awaiting its boundary (R66): all RWS words of a page or of one instance of it. -/
structure Snap where
  page : Nat
  bank : Nat
  gen : BitVec 16
  vals : NMap U32
  /-- Instant of the COMMIT. -/
  at_ : Time
  deriving DecidableEq, Repr

/-- A Carousel list (R42): base time, cycle in ns, entries. Unlisted entries are all gates open, 50 us. -/
structure CarList where
  base : Time := 0
  cycle : Nat := 0xC350
  len : Nat := 1
  ents : NMap U32 := []
  deriving DecidableEq, Repr

/-- A committed admin list awaiting its start instant (R44). -/
structure CarPend where
  list : CarList
  gen : BitVec 16
  start : Time
  deriving DecidableEq, Repr

/-- One of the 25 Carousel lists with its registers (R42). -/
structure Car where
  shadow : CarList := {}
  oper : CarList := {}
  pend : Option CarPend := none
  start : Time := 0
  cur : Nat := 0
  late : Bool := false
  lateCount : Nat := 0
  deriving DecidableEq, Repr

/-- Ticket Booth state (R30, R51, R414). -/
structure Booth where
  busy : Bool := false
  thermClosed : Bool := false
  seq : BitVec 8 := 0
  lastFail : Nat := 0
  lastResult : Nat := 0
  /-- TKB_PWR_ADM in mW. -/
  admMw : Nat := 0
  deriving DecidableEq, Repr

/-- One line packet accepted into a frame (R151, R153). -/
structure RxPkt where
  plane : Nat
  line : Nat
  x0 : Nat
  samples : List Nat
  deriving DecidableEq, Repr

/-- A sensor frame being received or held (R154, R155); colour 0 green, 1 yellow, 2 red. -/
structure Frame where
  num : Nat := 0
  colour : Nat := 0
  pkts : List RxPkt := []
  lastAt : Time := 0
  endPorts : List Nat := []
  deriving DecidableEq, Repr

/-- A reference slot (R93). -/
structure Slot where
  valid : Bool := false
  tag : Nat := 0
  pic : PicBuf := []
  deriving DecidableEq, Repr

/-- Row rate controller state of a context (R174, R175). beta is in 10^-6 B with an exact remainder. -/
structure Rate where
  mI : Nat := 0x4000
  mP : Nat := 0x4000
  chatI : List Nat := []
  chatP : List Nat := []
  qpPrev : Nat := 36
  beta : Int := 0
  betaRem : Nat := 0
  betaTick : Nat := 0
  deriving DecidableEq, Repr

/-- One row-complete event of a picture (R164, R175). -/
structure Ev where
  key : Nat
  emerg : Bool
  alloc : Nat
  qp : Nat
  /-- Jobs of the event that have not ended. -/
  left : Nat
  bytes : Nat := 0
  bytesOk : Nat := 0
  cOk : Nat := 0
  /-- A job of the event was aborted or lost: the event is charged its alloc and the model is not updated (R224). -/
  lost : Bool := false
  deriving DecidableEq, Repr

/-- A segment's finished job (R165): its unit, or none when it was lost (R224). -/
structure SegOut where
  plane : Nat
  row : Nat
  seg : Nat
  unit : Option (List Byte)
  /-- Granary pool and address of its buffer. -/
  buf : Option (Nat × Nat)
  emerg : Bool
  raw : Bool
  recon : List (List Nat)
  /-- Vectors over the coding blocks' first samples (R170). -/
  mvs : List (Option (Int × Int)) := []
  /-- The unit was cut short by its job (R329). -/
  trunc : Bool := false
  deriving DecidableEq, Repr

/-- The vectors of a segment's leaves over its coding blocks' first samples (R170). -/
structure SegMvs where
  plane : Nat
  row : Nat
  seg : Nat
  mvs : List (Option (Int × Int))
  deriving DecidableEq, Repr

/-- A picture in flight (R164–R180). -/
structure Pic where
  id : Nat
  src : Nat
  frame : Frame := {}
  /-- The frame has closed (or its input DMA is done); t0 is then set. -/
  closed : Bool := false
  /-- Host-fed input samples (R185); empty for sensor frames. -/
  input : PicBuf := []
  demoted : Bool := false
  bulk : Bool := false
  filled : Bool := false
  tag : Nat := 0
  /-- Completion slot (R301), and that there was none for it, its completion being dropped (R307). -/
  slot : Option Nat := none
  noSlot : Bool := false
  /-- The picture's type and slots are fixed at its first event (R94). -/
  begun : Bool := false
  isP : Bool := false
  flush : Bool := false
  sh : Bool := false
  picNum : Option Nat := none
  refMask : Nat := 0
  refTags : List Nat := []
  storeSlot : Nat := 0xFF
  cfg : List Byte := []
  t0 : Option Time := none
  capNs : Nat := 0
  capFrac : Nat := 0
  /-- The capture instant is known: the Island's or the entry's (R91). -/
  capKnown : Bool := false
  fired : Nat := 0
  compl : List Nat := []
  spent : Nat := 0
  committed : Nat := 0
  emergFrom : Option Nat := none
  evs : List Ev := []
  segs : List SegOut := []
  /-- Units of the canonical order already entered in the FIFO (R167). -/
  entered : Nat := 0
  bytesOut : Nat := 0
  /-- The ENCODE entry of a host-fed picture, and its EFLAGS.FORCE_I (R185). -/
  se : List Byte := []
  forceI : Bool := false
  /-- Instant at which the picture was created, and its egress FIFO instance. -/
  at_ : Time := 0
  fifo : Nat := 0
  /-- First cause of breach detected (R50), 0 none. -/
  cause : Nat := 0
  aborted : Bool := false
  noBuf : Bool := false
  busErr : Bool := false
  /-- The status with which a job of the picture ended without output (R215), 0 none. -/
  endSt : Nat := 0
  firstEmerg : Option Nat := none
  rawSeen : Bool := false
  qpSum : Nat := 0
  qpCnt : Nat := 0
  /-- The budget of R362 for a widen member: cap and target. -/
  capD : Option (Nat × Nat) := none
  /-- Every unit has been handed to its destination: t_data. -/
  tData : Option Time := none
  done : Bool := false
  deriving DecidableEq, Repr

/-- What kind of context holds a number C0000–C1023 (R27, R183, R191). -/
inductive CtxKind where
  | admitted
  | bulk
  | decode
  deriving DecidableEq, Repr

/-- What admission reserved for a context (R31, R32, R35–R40). -/
structure Adm where
  tiles : List Nat := []
  mp : Nat := 0
  grp : Nat := 0
  grnMin : Nat := 0
  dAdm : Nat := 0
  firstDt : Time := 0
  carLists : List Nat := []
  pwrMw : Nat := 0
  fifo : Nat := 0
  /-- g in ns and the open fraction f = fNum/fDen of its class gate used at admission (R39). -/
  g : Nat := 0
  fNum : Nat := 1
  fDen : Nat := 1
  /-- The wire factor w = wNum/wDen used at admission (R29, R41). -/
  wNum : Nat := 1
  wDen : Nat := 1
  tSlot : Nat := 0
  /-- Reserved memory bandwidth and fabric load, MB/s. -/
  bw : Nat := 0
  /-- Egress reservation r_eg + a_frag, Mb/s (R313). -/
  rsv : Nat := 0
  /-- Pseudo-channels the booth took into the partition for this stream (R232). -/
  pcs : List Nat := []
  deriving DecidableEq, Repr

/-- A picture held from the network, or being reassembled (R206). -/
structure HeldPic where
  tag : Nat := 0
  units : List (List Byte) := []
  peMissing : Bool := false
  /-- Granary buffers that hold its units: (pool, address). -/
  bufs : List (Nat × Nat) := []
  /-- Headers of segment units that came whole and failed their CRC (R198). -/
  bad : List (List Byte) := []
  deriving DecidableEq, Repr

/-- A fragmented unit being reassembled (R109): its bytes, the next FRAG_OFFSET, and that it has failed already. -/
structure FragSt where
  data : List Byte := []
  next : Nat := 0
  bad : Bool := false
  deriving DecidableEq, Repr

/-- A segment unit by its address (R96). -/
structure DecSeg where
  plane : Nat
  row : Nat
  seg : Nat
  unit : List Byte := []
  deriving DecidableEq, Repr

/-- What the parser found of a picture (R194): an SH, the PH, accepted segments, addresses that failed their header checks,
the PE, units after it, and a duplicate. -/
structure DecParse where
  sh : Bool := false
  ph : Option (List Byte) := none
  segs : List DecSeg := []
  hdr : List DecSeg := []
  pe : Bool := false
  after : Bool := false
  dup : Bool := false
  deriving DecidableEq, Repr

/-- The decode picture in progress (R194). -/
structure DecRun where
  /-- Completion slot. -/
  slot : Nat
  se : List Byte
  input : List Byte
  parse : DecParse := {}
  /-- Jobs not yet ended. -/
  left : Nat
  /-- Segment numbers whose budget expired (R195). -/
  timeouts : List Nat := []
  aborted : Bool := false
  peMissing : Bool := false
  bufs : List (Nat × Nat) := []
  deriving DecidableEq, Repr

/-- Decode context state (R191–R206). Tokens of its policer are in 10^-6 B. -/
structure Dec where
  firstSh : Option (List Byte) := none
  /-- Rule 2 of R200 has applied. -/
  dead : Bool := false
  /-- An SE unit has ended the stream, and no SH has followed it. -/
  ended : Bool := false
  prev : Option PicBuf := none
  held : List HeldPic := []
  cur : Option HeldPic := none
  /-- Stream end units received between pictures; they precede the next picture's units. -/
  pre : List (List Byte) := []
  frag : Option FragSt := none
  lastSeq : Option Nat := none
  /-- Sequence number of the last accepted packet (R109). -/
  accSeq : Option Nat := none
  lastPkt : Time := 0
  /-- PIC_TAG of a newer picture being discarded for want of room (R206). -/
  dropTag : Option Nat := none
  tokC : Nat := 0
  tokP : Nat := 0
  tokTick : Nat := 0
  queue : List (Nat × List Byte) := []
  run : Option DecRun := none
  count : Nat := 0
  slotBufs : List (Nat × Nat) := []
  deriving DecidableEq, Repr

/-- Statistics of a context's record (R184): pictures and bytes coded, EMERG and raw segments, and segments by QP. -/
structure EncStats where
  pics : Nat := 0
  bytes : Nat := 0
  emerg : Nat := 0
  raw : Nat := 0
  qp : NMap Nat := []
  deriving DecidableEq, Repr

/-- The record that a switch of a bulk slot saves to the Commons and loads from it (R184). -/
structure EncRec where
  block : List Byte
  rate : Rate
  slots : List Slot
  picNum : Nat
  sinceFlush : Nat
  sid : Nat
  stats : EncStats
  deriving DecidableEq, Repr

/-- A context (R9, R27, R183, R191). -/
structure Ctx where
  kind : CtxKind
  /-- Contract format bytes 0x00–0x7F and configuration bytes 0x80–0xFF (R28, R186), or a decode block (R191). -/
  block : List Byte
  queue : Nat
  adm : Adm := {}
  /-- ENC_CONFIG blocks accepted and not yet applied, oldest first, with their completion slots (R187). -/
  cfgPend : List (Nat × List Byte) := []
  picNum : Nat := 0
  /-- k of R94: non-demoted pictures since the FLUSH picture; none before the first. -/
  kIdx : Option Nat := none
  sinceFlush : Nat := 0
  forceI : Bool := false
  /-- A stream is open: an SH has been written and no SE since (R81, R104). -/
  strm : Bool := false
  /-- STREAM_ID of the open stream: every SH of it carries this one (R81). -/
  sid : Nat := 0
  /-- The most recently stored slot (R93, R170). -/
  stored : Option Nat := none
  stats : EncStats := {}
  slots : List Slot := [{}, {}, {}, {}]
  rate : Rate := {}
  /-- Frame policer tokens (R156), in 1/PERIOD frames and 1/(PERIOD × 10^6) frames. -/
  polC : Nat := 0
  polP : Nat := 0
  polTick : Nat := 0
  frame : Option Frame := none
  lastClosed : Option Nat := none
  /-- Colour of the last closed frame. -/
  lastColour : Nat := 0
  pics : List Pic := []
  /-- 0 not released, 1 RELEASE waits for the frame boundary, 2 boundary passed (R34). -/
  rel : Nat := 0
  /-- ENCODE entries queued: completion slot and entry bytes (R188). -/
  encQ : List (Nat × List Byte) := []
  lastStart : Option Time := none
  /-- Picture id whose input DMA runs. -/
  dma : Option Nat := none
  /-- The machine check of a reserved tile left the stream without a replacement (R50). -/
  lame : Bool := false
  /-- Vectors of the previous picture by segment, empty when it was no P picture (R170). -/
  coloc : List SegMvs := []
  /-- A widen member (R362). -/
  widen : Bool := false
  /-- 0 an ordinary context, 1 a member whose home is another device, 2 a member at its home, 3 a home context (R359). -/
  role : Nat := 0
  /-- Cap and target budgets received for frames (R362): frame, bytes, target. -/
  budgets : List (Nat × Nat × Nat) := []
  dec : Dec := {}
  deriving DecidableEq, Repr

/-- A row job (R165, R211). -/
structure Job where
  id : Nat
  ctx : Nat
  pic : Nat
  key : Nat
  plane : Nat
  row : Nat
  seg : Nat
  chained : Bool := false
  dec : Bool := false
  emerg : Bool := false
  qp : Nat := 0
  /-- limit[s] and C_s of each of its segments, in plane order (R170, R175). -/
  limits : List Nat := []
  css : List Nat := []
  budget : Nat := 0
  /-- Of a decode job: its rectangle and depth, REF_MASK, and the segment numbers it waits for (R194). -/
  jw : Nat := 0
  jh : Nat := 0
  depth : Nat := 0
  refMask : Nat := 0
  deps : List Nat := []
  tile : Option Nat := none
  buf : Option (Nat × Nat) := none
  /-- TBCLK of the first ALLOC that met EMPTY (R342). -/
  emptyAt : Option Nat := none
  deriving DecidableEq, Repr

/-- A Malys Sensor Link port or the link layer of a Selfold port (R150, R345): 0 DOWN, 1 LOCK, 2 ALIGN, 3 UP. -/
structure LinkSt where
  st : Nat := 0
  skew : Nat := 0
  locked : BitVec 8 := 0
  rounds : Nat := 0
  deriving DecidableEq, Repr

/-- A SENSOR page's engine state (R149–R163). -/
structure Sensor where
  link : LinkSt := {}
  lastMark : Option (List Byte) := none
  lastPseq : Option Nat := none
  fillLast : Nat := 0
  fsyncNext : Option Time := none
  fsyncFrom : Time := 0
  fsyncHigh : Bool := false
  fsyncFall : Time := 0
  /-- FSYNC's pulse is on; fsyncHigh is the level of the pin. -/
  fsyncOn : Bool := false
  /-- FRAME of the last accepted packet (R68). -/
  lastFrame : Option Nat := none
  i3cBusy : Bool := false
  /-- Bytes that the running read was commanded to take. -/
  i3cLen : Nat := 0
  i3cNack : Bool := false
  i3cDone : Bool := false
  i3cTx : List Byte := []
  i3cRx : List Byte := []
  deriving DecidableEq, Repr

/-- A WAIT in progress (R217). -/
structure WaitSt where
  cond : Nat
  exp : Bool
  timeout : Nat
  /-- TCLK of the wait already counted (R214). -/
  gone : Nat := 0
  /-- A request has been pending since they were counted (R222). -/
  req : Bool := false
  deriving DecidableEq, Repr

/-- A coding tile (R208–R228). run: 0 IDLE, 1 RUN, 2 SUSPENDED, 3 HALTED, 4 MCHK, 5 LOAD, 6 GATED. -/
structure Tile where
  run : Nat := 0
  enabled : Bool := false
  patchLocked : Bool := false
  job : Option Nat := none
  kind : Nat := 0
  ctx : Nat := 0x7FF
  g : List LW := List.replicate 32 0
  v : List (List LW) := List.replicate 16 (List.replicate 16 0)
  store : NMap LW := []
  poison : List Nat := []
  stack : List Nat := []
  toFlag : Bool := false
  poisonFlag : Bool := false
  upc : Nat := 0
  opaddr : Nat := 0
  used : Nat := 0
  budget : Option Nat := none
  wait : Option WaitSt := none
  reqP : Bool := false
  reqH : Bool := false
  reqA : Bool := false
  /-- An abort for the expiry of a decode budget is pending (R214). -/
  reqB : Bool := false
  /-- TCLK a request has been pending (R222). -/
  reqAge : Nat := 0
  stepping : Bool := false
  /-- The last command issued to each functional unit: unit, command, parameters (R215). -/
  units : NMap (Nat × List LW) := []
  mchk : Nat := 0
  mchkU : Nat := 0
  mchkTs : Nat := 0
  crc : U32 := 0
  /-- Op words, patch words and match registers, each with its parity bit on top (R208, R215, R219). -/
  tpr : NMap (BitVec 65) := []
  patch : NMap (BitVec 33) := []
  mtch : NMap (BitVec 33) := []
  /-- RETIRE has taken the tile out since it was last classified (R227). -/
  retired : Bool := false
  /-- TBCLK of the last bulk job's end (R412). -/
  idleAt : Nat := 0
  /-- The tile is lent to the bulk pool and ungated. -/
  ungated : Bool := false
  deriving DecidableEq, Repr

/-- A read, or the read half of a partial write, whose data is on its way (R233): what it read when it issued, that it is a
replay, and that a later whole-block write has replaced its block. -/
structure HbmRd where
  req : HbmReq
  data : List Byte := []
  again : Bool := false
  gone : Bool := false
  deriving DecidableEq, Repr

/-- A replay that waits for its access period (R243): of a read, with what it read the first time, or after a parity alert; its
command, none for a scrub access. -/
structure Replay where
  parity : Bool
  cmd : Option HbmReq
  rd : Option HbmRd := none
  deriving DecidableEq, Repr

/-- A pseudo-channel of the HBM (R233–R245). -/
structure Pc where
  queue : List HbmReq := []
  reads : List HbmRd := []
  writes : List HbmReq := []
  /-- The command of the present access period, which a parity alert flags (R242); its inner none is a scrub access. -/
  last : Option (Option HbmReq) := none
  /-- The block of the last scrub access. -/
  lastBlk : Nat := 0
  debt : Nat := 0
  replays : List Replay := []
  trainFails : Nat := 0
  scrubPos : Nat := 0
  scrubBack : Bool := false
  failed : Bool := false
  /-- Access periods issued in the current run of 32 (R236). -/
  period : Nat := 0
  /-- The debt has reached 2 and has not returned to 0 since (R243). -/
  debtBad : Bool := false
  deriving DecidableEq, Repr

/-- One HBM PHY (R251): 0 DOWN, 1 INIT, 2 RUN, 3 SELF_REFRESH. -/
structure Phy where
  st : Nat := 0
  preserved : Bool := false
  temp : Nat := 0
  deriving DecidableEq, Repr

/-- What the HBM delivered to a reader last: bytes and the poison mark (R241). -/
structure HbmOut where
  data : List Byte := []
  poison : Bool := false
  deriving DecidableEq, Repr

/-- Who waits on a Granary pool: a register requester, or a remote device's XREQ (R259, R365). -/
inductive Who where
  | req (rq : Requester)
  | remote (dev tag issued : Nat)
  deriving DecidableEq, Repr

/-- A waiter of a pool (R257, R259); at is the TBCLK it joined. -/
structure Waiter where
  who : Who
  owner : Nat
  at_ : Nat
  deriving DecidableEq, Repr

/-- A Granary pool (R253–R257): stack top first; tags of allocated buffers by index. -/
structure Pool where
  enable : Bool := false
  ready : Bool := false
  stack : List Nat := []
  tags : NMap Nat := []
  mins : NMap Nat := []
  waiters : List Waiter := []
  deriving DecidableEq, Repr

/-- GRN_RESULT and GRN_ADDR of one requester (R263). -/
structure GrnRes where
  done : Bool := false
  waiting : Bool := false
  nfreed : Nat := 0
  code : Nat := 0
  addr : BitVec 64 := 0
  deriving DecidableEq, Repr

/-- A FIFO instance (R265–R269): pointers with their wrap bit. -/
structure Fifo where
  w : Nat := 0
  rd : Nat := 0
  rel : Nat := 0
  m : Nat := 0
  marked : Bool := false
  stalled : Bool := false
  stallAt : Nat := 0
  /-- Words that the stalled producer waits to write. -/
  need : Nat := 1
  stallTold : Bool := false
  above : Bool := false
  /-- The producer is inside a packet. -/
  inPkt : Bool := false
  deriving DecidableEq, Repr

/-- A fetched DMA descriptor (R273) at its ring position. -/
structure Desc where
  pos : Nat
  bytes : List Byte
  deriving DecidableEq, Repr

/-- A DMA channel (R271–R285): 0 IDLE, 1 FETCH, 2 WAIT_TRIG, 3 RUN, 4 CONFIRM, 5 HALTED. -/
structure Dma where
  head : Nat := 0
  tail : Nat := 0
  seq : BitVec 16 := 0
  st : Nat := 0
  fetched : List Desc := []
  bound : Option Nat := none
  deriving DecidableEq, Repr

/-- A DMA timer (R277): its next tick, and the earliest instant at which it may tick after its COMMIT. -/
structure Timer where
  next : Option Time := none
  from_ : Time := 0
  deriving DecidableEq, Repr

/-- A check-value unit's engine state (R283, R284). -/
structure CrcU where
  val : BitVec 64 := 0
  pos : Nat := 0
  busy : Bool := false
  err : Bool := false
  cls : Nat := 0
  deriving DecidableEq, Repr

/-- A completion slot (R301): st 0 running, 1 finished, 2 staged, 3 written. -/
structure CSlot where
  id : Nat
  se : Bool
  irq : Bool
  st : Nat := 0
  ce : List Byte := []
  /-- Publication limit t0 + D_adm − 1.5 us of an admitted frame (R308). -/
  limit : Option Time := none
  deriving DecidableEq, Repr

/-- A cached submission entry (R296) at its position, or a fetch error (R295). -/
structure SeEnt where
  pos : Nat
  bytes : Option (List Byte)
  deriving DecidableEq, Repr

/-- A queue pair (R287–R311): 0 DISABLED, 1 RUN, 2 QUIESCING, 3 IDLE, 4 ABORTING. Positions are those of R288. -/
structure Queue where
  st : Nat := 0
  enable : Bool := false
  gen : BitVec 8 := 0
  bound : Option Nat := none
  sqBase : Nat := 0
  sqCfg : U32 := 0
  crBase : Nat := 0
  crCfg : U32 := 0
  headAddr : Nat := 0
  guar : Bool := false
  m : Nat := 4
  n : Nat := 4
  tail : Nat := 0
  fetch : Nat := 0
  rel : Nat := 0
  next : Nat := 0
  head : Nat := 0
  done : Nat := 0
  wr : Nat := 0
  cache : List SeEnt := []
  slots : List CSlot := []
  /-- Positions of SEs whose slot is unpublished, by slot id: (id, position). -/
  sePos : NMap Nat := []
  /-- Entries started and not yet run by their opcode's step: (slot id, entry). -/
  started : List (Nat × List Byte) := []
  stalled : Bool := false
  invalDone : Bool := true
  firstLive : Nat := 0
  invalLive : Nat := 0
  quota : Nat := 0
  /-- Q_CTRL.QUIESCE, and ENABLE written 0 that drops at IDLE (R309, R310). -/
  quiesce : Bool := false
  drop : Bool := false
  /-- Entries before this position complete ABORTED (R310). -/
  abortTo : Option Nat := none
  deriving DecidableEq, Repr

/-- A unit in an egress FIFO (R167, R321), with what its packets need of its picture: PIC_NUM and the RTP timestamp. -/
structure EgUnit where
  ctx : Nat
  pic : Nat
  num : Nat
  ts : Nat
  bytes : List Byte
  /-- Bytes already packed. -/
  sent : Nat := 0
  /-- First and last unit of its picture. -/
  first : Bool
  last : Bool
  buf : Option (Nat × Nat)
  /-- Egress FIFO instance, and the instant the unit entered it. -/
  fifo : Nat
  at_ : Time
  acs : Bool := true
  /-- Cut short by its job and filled (R329). -/
  trunc : Bool := false
  /-- A stream end unit, which travels alone (R104, R108). -/
  se : Bool := false
  deriving DecidableEq, Repr

/-- A flow's scheduling state (R322–R328). -/
structure Flow where
  units : List EgUnit := []
  seq : Nat := 0
  /-- Last finish time of a guaranteed flow, times RATE, kept exactly; last virtual finish tag of a bulk flow. -/
  fLast : Nat := 0
  tag : Nat := 0
  tagSet : Bool := false
  tok : Nat := 0
  tokTick : Nat := 0
  pkts : Nat := 0
  /-- FLOW_PKTS. -/
  total : Nat := 0
  depthLast : Nat := 0
  depthMin : Nat := 0xFFFF_FFFF
  depthMax : Nat := 0
  delayLast : Nat := 0
  delayMin : Nat := 0xFFFF_FFFF
  delayMax : Nat := 0
  deriving DecidableEq, Repr

/-- A service's bulk scheduling state (R323, R324). -/
structure Svc where
  tag : Nat := 0
  tagSet : Bool := false
  fLast : Nat := 0
  vFlow : Nat := 0
  tok : Nat := 0
  tokTick : Nat := 0
  deriving DecidableEq, Repr

/-- A packet started on a port (R321): its data bytes, what goes out, and the units whose last byte it carries. -/
structure Pkt where
  flow : Nat
  data : List Byte
  bytes : List Byte
  done : List EgUnit
  /-- Context of its units, and the FIFO words it releases. -/
  ctx : Nat
  fifo : Nat
  words : Nat
  /-- Instant its first data byte entered the FIFO, when the packet is sampled (R328). -/
  sampled : Option Time
  depth : Nat := 0
  /-- An Ethernet frame that is on the wire, and that the link failed under it (R492). -/
  wire : Bool := false
  lost : Bool := false
  deriving DecidableEq, Repr

/-- An egress port (R312, R321). -/
structure EPort where
  cur : Option Pkt := none
  v : Nat := 0
  deriving DecidableEq, Repr

/-- An output ring (R314, R315): byte positions with the wrap bit at bit n, and the starts of the pictures in it. -/
structure Ring where
  wr : Nat := 0
  oldest : Nat := 0
  lastPic : Nat := 0
  starts : List Nat := []
  /-- Start of the picture being written, and that it has overwritten its own start (R315). -/
  curStart : Nat := 0
  big : Bool := false
  deriving DecidableEq, Repr

/-- One transmit timestamp (R327, R331). -/
structure PtpTs where
  at_ : Time
  msgType : Nat
  seqId : Nat
  deriving DecidableEq, Repr

/-- An ETH MAC (R331, R492). -/
structure Eth where
  linkUp : Bool := false
  fecLock : Bool := false
  ptp : List PtpTs := []
  deriving DecidableEq, Repr

/-- Receive state of one Selfold class (R350). -/
structure RxCls where
  next : Nat := 0
  taken : Nat := 0
  seen : Bool := false
  deriving DecidableEq, Repr

/-- A transmitted flit kept for retry (R349): sent counts its transmissions. -/
structure TxFlit where
  seq : Nat
  bytes : List Byte
  sent : Nat
  at_ : Time
  /-- Context and picture of a unit of a guaranteed stream. -/
  ctx : Option (Nat × Nat)
  deriving DecidableEq, Repr

/-- Transmit state of one Selfold class (R349). -/
structure TxCls where
  next : Nat := 0
  unacked : List TxFlit := []
  deriving DecidableEq, Repr

/-- A Selfold port (R345–R366). Role: 0 unused, 1 to parent, 2 to child, 3 standby. -/
structure SfPort where
  link : LinkSt := {}
  role : Nat := 0
  peer : Nat := 0x7FF
  rx : List RxCls := List.replicate 8 {}
  tx : List TxCls := List.replicate 8 {}
  tokC : Nat := 0
  tokP : Nat := 0
  tokTick : Nat := 0
  deadPeer : Bool := false
  heard : Bool := false
  /-- TBCLK of the last FENCE sent to a dead peer (R357). -/
  fenceAt : Option Nat := none
  deriving DecidableEq, Repr

/-- A device in the master's table (R352, R356). -/
structure Node where
  serial : Nat := 0
  parent : Nat := 0
  port : Nat := 0
  depth : Nat := 0
  last : Time := 0
  dead : Bool := false
  /-- Devices at the far ends of its standby links (R352). -/
  standby : List Nat := []
  deriving DecidableEq, Repr

/-- A cascade semaphore (R364): owner's device and owner ID while held. -/
structure Sem where
  held : Bool := false
  broken : Bool := false
  dev : Nat := 0x7FF
  owner : Nat := 0x7FF
  deriving DecidableEq, Repr

/-- A cascade stream being admitted or admitted, in the master (R359, R360): st 0 members asked, 1 home asked, 2 admitted. -/
structure CascStream where
  id : Nat
  plan : List Byte
  contract : List Byte
  /-- Devices now in the members' places. -/
  devs : List Nat := []
  /-- Replies of the members, by index; of the home at index 16. -/
  replies : NMap (List Byte) := []
  st : Nat := 0
  homeCtx : Nat := 0x7FF
  /-- Places of dead members that have no spare (R363). -/
  lost : List Nat := []
  /-- The devices on the members' ways that reserve a hop, by its number (R360). -/
  hops : List (Nat × Nat) := []
  deriving DecidableEq, Repr

/-- A member's part of a stream that this device is the home of (R359): its device, the picture and frame its units belong
to now, the last frame it began, that its stream has ended, and that it is dead. -/
structure Member where
  dev : Nat
  cur : Option Nat := none
  last : Option Nat := none
  ended : Bool := false
  dead : Bool := false
  /-- Units of the present HEVC picture that have come (multiply). -/
  count : Nat := 0
  /-- When the next frame period of a lost role ends (R363). -/
  lostNext : Option Time := none
  /-- A spare in the place, no frame of which has come. -/
  joining : Bool := false
  deriving DecidableEq, Repr

/-- A stream whose home is this device (R359): stream number, context, plan, members, and in multiply the units that wait for
the egress FIFO: picture, bytes, that it is the picture's last and that it is the stream end. -/
structure Home where
  stream : Nat
  ctx : Nat
  plan : List Byte
  members : List Member
  relay : List (Nat × List Byte × Bool × Bool) := []
  /-- A withdrawal waits for the members' last pictures. -/
  leaving : Bool := false
  /-- The members' CAPTURE is their t0: a sensor-fed contract with TIME_SRC 0 (R91, R359). -/
  capT0 : Bool := false
  /-- The last frame of a widen stream that was lost with a role (R363). -/
  lostSrc : Option Nat := none
  deriving DecidableEq, Repr

/-- A member role of this device: stream number, place, context (R360). -/
structure Role where
  stream : Nat
  place : Nat
  ctx : Nat
  deriving DecidableEq, Repr

/-- A hop that this device reserves for a stream whose units pass through it (R360): stream, number, port, Mb/s. -/
structure Transit where
  stream : Nat
  key : Nat
  port : Nat
  rate : Nat
  deriving DecidableEq, Repr

/-- Bytes of a packet being put together from the flits of one source and class on a port (R347). -/
structure RxBuf where
  port : Nat
  cls : Nat
  src : Nat
  bytes : List Byte
  deriving DecidableEq, Repr

/-- A probe of the enumeration (R352): the device that sends ENUM, its port, the ID and depth offered. -/
structure Probe where
  parent : Nat
  port : Nat
  id : Nat
  depth : Nat
  deriving DecidableEq, Repr

/-- Cascade control (R352–R368). -/
structure Casc where
  devId : Nat := 0x7FF
  depth : Nat := 0
  parentPort : Option Nat := none
  epoch : BitVec 8 := 0
  syncLock : Bool := false
  syncMiss : Nat := 0
  syncOut : Bool := false
  syncOfs : Int := 0
  fenced : Bool := false
  spare : Bool := false
  enumDone : Bool := false
  cmdBusy : Bool := false
  nodes : NMap Node := []
  /-- The port on the way to a device, learnt from ENUM and HEARTBEAT (assumption 42). -/
  routes : NMap Nat := []
  nextId : Nat := 1
  /-- Ports still to be probed, breadth-first, and the probe that is out (R352). -/
  enumWork : List (Nat × Nat) := []
  enumCur : Option Probe := none
  /-- The serials counted in CASC_ENUM_SKIP by this enumeration. -/
  skipped : List Nat := []
  sems : NMap Sem := []
  semDone : Bool := false
  semGranted : Bool := false
  semBroken : Bool := false
  semOwner : Nat := 0x7FF
  semDev : Nat := 0x7FF
  streams : List CascStream := []
  nextStream : Nat := 0
  homes : List Home := []
  roles : List Role := []
  transit : List Transit := []
  rxBuf : List RxBuf := []
  hbCount : Nat := 0
  masterHb : Time := 0
  masterLost : Bool := false
  /-- Answers to this device's own XREQs: (tag, code, address). -/
  xans : List (Nat × Nat × Nat) := []
  /-- Devices declared dead at the epoch in force, and in the master the serials of dead devices (R356, R358). -/
  deadList : List Nat := []
  deadSerials : List Nat := []
  deriving DecidableEq, Repr

/-- One copy of the Island NVM (R386); good: its CRC verifies. -/
structure IslNvm where
  param : List Byte := []
  audit : Nat := 0
  boots : Nat := 0
  wgen : Nat := 0
  log : List (List Byte) := []
  good : Bool := false
  /-- Written in UNVERIFIED by a command other than COMMIT_PARAM, which alone ends it (R386; assumption 58). -/
  unver : Bool := false
  deriving DecidableEq, Repr

/-- One copy of the Island firmware (R386). -/
structure IslFw where
  image : List Byte := []
  svn : Nat := 0
  wgen : Nat := 0
  good : Bool := false
  deriving DecidableEq, Repr

/-- A packet digest of an unfinalised row (R376). -/
structure IslPkt where
  plane : Nat
  line : Nat
  x0 : Nat
  digest : List Byte
  ord : Nat
  deriving DecidableEq, Repr

/-- A frame open, or closed and waiting for its coded root, in a tap group (R375–R378). -/
structure IslFrame where
  group : Nat
  num : Nat
  params : List Byte
  colour : Nat := 0
  flags : Nat := 0
  pkts : List IslPkt := []
  /-- Keys of packets taken: (plane, line, x0). -/
  keys : List (Nat × Nat × Nat) := []
  /-- Finalised row digests: (row, plane, digest). -/
  rows : List (Nat × Nat × List Byte) := []
  nPkts : Nat := 0
  forced : Nat := 0
  ppsErr : Int := 0
  audit : Nat := 0
  dtFirst : Nat := 0
  dtLast : Nat := 0
  expStart : Time := 0
  expEnd : Time := 0
  /-- The exposure start before the sealed delays; none with NO_EXPO. -/
  expRaw : Option Nat := none
  coded : List Byte := []
  codedPic : Nat := 0xFFFF_FFFF
  codedEnd : Bool := false
  closed : Bool := false
  closedAt : Time := 0
  deriving DecidableEq, Repr

/-- The edges of an EXPO input and phase as a tap group counts them (R373, R378), in Island time before the sealed delays: latest
start, first end after it, starts since the group's last frame opened. -/
structure Expo where
  start : Nat := 0
  stop : Nat := 0
  hasStop : Bool := false
  count : Nat := 0
  deriving DecidableEq, Repr

/-- The Island's timebase (R371, R372). -/
structure IslTb where
  secs : Nat := 0
  todSrc : Nat := 0
  good : Nat := 0
  ppsOk : Bool := false
  refOk : Bool := false
  lock : Bool := false
  ppsErr : Int := 0
  /-- ICLK count of the last complete second. -/
  iclk : Nat := 400000000
  seen : Bool := false
  setPend : Option Nat := none
  dtOfs : Int := 0
  deriving DecidableEq, Repr

/-- The Wilvor Island (R369–R388). st: 0 OFF, 1 BOOT, 2 RUN, 3 UNVERIFIED, 4 NOFW. -/
structure Isl where
  st : Nat := 1
  sealOpen : Bool := true
  staged : Bool := false
  stParam : NMap Byte := []
  stFw : NMap Byte := []
  nvm : List IslNvm := [{}, {}, {}]
  fw : List IslFw := [{}, {}, {}]
  cur : IslNvm := {}
  curFw : IslFw := {}
  repaired : Bool := false
  otpSvn : Nat := 0
  tb : IslTb := {}
  /-- Per group eight: its inputs 0–3 with the high phase, then with the low phase. -/
  expo : List Expo := List.replicate 32 {}
  /-- Parameter block in force per group (R385). -/
  grpParam : List (List Byte) := [[], [], [], []]
  frames : List IslFrame := []
  /-- Frames closed since the Island's start, per group (R375). -/
  closedFrames : NMap (List Nat) := []
  ring : NMap (List Byte) := []
  recIdx : Nat := 0
  prev : List Byte := []
  signing : Option Nat := none
  signDue : Bool := false
  signedIdx : Nat := 0
  tapDrop : Nat := 0
  tapLate : Nat := 0
  /-- Latest exposure start and its frame number per group, given to the main die (R382); none before the first frame. -/
  expoOut : List (Option (Nat × Time)) := [none, none, none, none]
  ordCtr : Nat := 0
  deriving DecidableEq, Repr

/-- Fuses (R226, R393, R405, R406). -/
structure Fuses where
  en : BitVec 104 := BitVec.ofNat 104 (2 ^ 96 - 1)
  ret : BitVec 104 := 0
  /-- RET fuses programmed since the fuses were last sensed (R227). -/
  retBurnt : BitVec 104 := 0
  keyHash : List (List Byte) := List.replicate 4 (List.replicate 48 0)
  revoked : BitVec 4 := 0
  permDebug : BitVec 4 := 0
  permRma : BitVec 4 := 0
  svnMin : Nat := 0
  serial : Nat := 0
  rma : Bool := false
  patchKey : Bool := true
  deriving DecidableEq, Repr

/-- Straps (R389, R480). -/
structure Straps where
  bootSrc : Nat := 0
  lifecycleLock : Bool := true
  cascadeRoot : Bool := false
  deriving DecidableEq, Repr

/-- Boot state (R389–R408). -/
structure Boot where
  st : Nat := 0
  err : Nat := 0
  source : Nat := 0
  srcOdd : Bool := false
  chosen : Nat := 0
  oneCopy : Bool := false
  aRes : Nat := 0
  bRes : Nat := 0
  svn : Nat := 0
  /-- SVN_MIN as sensed when boot began (R405). -/
  svnMin : Nat := 0
  doneFlag : Bool := false
  lifecycle : Nat := 0
  unlockPend : Bool := false
  mrs : List (List Byte) := List.replicate 8 (List.replicate 48 0)
  log : List (List Byte) := []
  full : Bool := false
  nonce : List Byte := List.replicate 48 0
  nonceOk : Bool := false
  busy : Bool := false
  code : Nat := 0
  /-- The value latched by BOOT_MR_SEL (R408). -/
  mrLatch : List Byte := List.replicate 48 0
  startTick : Nat := 0
  /-- Device configuration and Steward firmware as loaded (R395). -/
  config : List Byte := []
  firmware : List Byte := []
  islBlock : List Byte := List.replicate 256 0
  /-- Changed Island blocks that wait for step 7 (R400). -/
  islPend : List (List Byte) := []
  pcieUp : Bool := false
  deriving DecidableEq, Repr

/-- Power state (R409–R418, R426). st: 0 RUN, 1 STANDBY, 2 DOZE. -/
structure Pwr where
  st : Nat := 0
  want : Bool := false
  denyWhy : Nat := 0
  tj : Int := 0
  tjMax : Int := -32768
  vin : Nat := 0
  iin : Nat := 0
  ivrLast : Nat := 0xFF
  /-- Regulator targets in 2.5 mV steps above 0.600 V (0–120), by rail. -/
  targets : NMap Nat := []
  mainOn : Bool := true
  deriving DecidableEq, Repr

/-- Reset bookkeeping (R422, R425, R427). -/
structure Rst where
  kind : Nat := 0
  hbmKept : Bool := false
  fromFault : Bool := false
  count : Nat := 0
  flrMs : Nat := 22000
  tiles : List Nat := []
  deriving DecidableEq, Repr

/-- Device-time control (R430–R434, R438, R443). -/
structure Clk where
  rootLock : Bool := false
  coreOk : Bool := false
  pcieOk : Bool := false
  ethOk : Bool := false
  adj : Int := 0
  adjWait : Option Int := none
  /-- A STEP (false) or SET (true) waiting for its common edge: value, due TBCLK. -/
  cmd : Option (Bool × Int × Nat) := none
  /-- Remaining offset of a converted slew, 2^-16 ns, scaled by 10^9 for exactness. -/
  slew : Option Int := none
  converted : Bool := false
  /-- Remaining cascade correction of R354, scaled like `slew`. -/
  sync : Int := 0
  ovf : List Nat := []
  ovfId : Nat := 0
  ovfValid : Bool := false
  deriving DecidableEq, Repr

/-- A fault log entry (R451). -/
structure LogEnt where
  info : Nat
  entered : Bool
  sev : Nat
  id : Nat
  at_ : Time
  deriving DecidableEq, Repr

/-- Fault collector and BELL (R446–R451). The log is newest first, at most 64 entries. -/
structure Flt where
  log : List LogEnt := []
  head : Nat := 0
  wrapped : Bool := false
  fault : Bool := false
  first : Option (Nat × Time) := none
  hbAt : List Nat := [0, 0, 0, 0]
  missed : List Bool := [false, false, false, false]
  bell : Bool := false
  half : Nat := 500
  deriving DecidableEq, Repr

/-- One Crier source's latched state (R452–R455): level of software and Island sources, owner while active. -/
structure CSrc where
  level : Bool := false
  owner : Option Nat := none
  told : Bool := false
  deriving DecidableEq, Repr

/-- One performance sampler (R463, R464): pending sample marks, write index, entries by slot. -/
structure Smp where
  widx : Nat := 0
  ents : NMap (List U32) := []
  deriving DecidableEq, Repr

/-- The TAP (R469): the instruction in force (0 IDCODE at reset) and the boundary cells. -/
structure Jtag where
  instr : Nat := 1
  held : Bool := false
  cells : List Bool := []
  deriving DecidableEq, Repr

/-- The MSI-X structures behind BAR4 (R53): the words of the table, four a vector, and the vectors pending. A word not listed
stands as PCIe's MSI-X resets it: address and data 0, the vector masked (assumption 66). -/
structure Msix where
  table : NMap U32 := []
  pend : List Nat := []
  deriving DecidableEq, Repr

/-- The whole state. -/
structure State where
  /-- Commands waiting, first in first out (assumption 1). -/
  pending : List Instr := []
  /-- The model's own counter for free values (assumption 2); not the spec's. -/
  freeCtr : Nat := 0
  /-- The word or bytes returned to the last reader (assumption 3). -/
  out : Nat := 0
  emitted : List Emit := []
  dt : Time := 0
  dtRem : Nat := 0
  tick : Nat := 0
  nextId : Nat := 0
  hdrs : NMap PageHdr := []
  regs : NMap U32 := []
  shadow : NMap U32 := []
  snaps : List Snap := []
  latches : NMap U32 := []
  loHeld : NMap U32 := []
  /-- Last SCHED entry written per requester index: offset class and entry number (R330). -/
  schedRec : NMap (Nat × Nat) := []
  hostMem : NMap Byte := []
  /-- Host address ranges that answer with a bus error: (first, length, class of R280). -/
  hostErr : List (Nat × Nat × Nat) := []
  hostPoison : List (Nat × Nat) := []
  hbm : NMap Byte := []
  hbmPoison : List Nat := []
  commons : NMap LW := []
  comPoison : List Nat := []
  comScrub : Nat := 0
  flash : NMap Byte := []
  flashSize : Nat := 0
  flashOk : Bool := false
  booth : Booth := {}
  cars : NMap Car := []
  ctxs : NMap Ctx := []
  jobs : List Job := []
  /-- Context whose record each bulk slot holds, and the records saved to the Commons by context (R184). -/
  slotCtx : NMap Nat := []
  slotRecs : NMap EncRec := []
  bulkSlots : NMap (Nat × Nat) := []
  bulkTurn : Nat := 0
  /-- Entries started in the present turn of the weighted round robin (R300). -/
  bulkBurst : Nat := 0
  sensors : NMap Sensor := []
  tiles : NMap Tile := []
  pcs : NMap Pc := []
  ingress : List HbmReq := []
  /-- Of the requesters at the HBM ingresses, the TBCLK since which each waits; by region, the one granted last (R337). -/
  hbmWait : NMap Nat := []
  hbmGrant : NMap Nat := []
  hbmOut : HbmOut := {}
  phys : List Phy := [{}, {}]
  /-- After a wake the controllers issue nothing before the next L24 window (R247). -/
  hbmHold : Bool := false
  pools : NMap Pool := []
  grnRes : NMap GrnRes := []
  fifos : NMap Fifo := []
  dmas : NMap Dma := []
  timers : NMap Timer := []
  crcs : NMap CrcU := []
  queues : NMap Queue := []
  flows : NMap Flow := []
  svcs : NMap Svc := []
  eports : NMap EPort := []
  rings : NMap Ring := []
  eths : NMap Eth := []
  bursts : NMap Nat := []
  sfs : NMap SfPort := []
  casc : Casc := {}
  isl : Isl := {}
  boot : Boot := {}
  fuses : Fuses := {}
  straps : Straps := {}
  pwr : Pwr := {}
  rst : Rst := {}
  clk : Clk := {}
  flt : Flt := {}
  crier : NMap CSrc := []
  takeRes : NMap Bool := []
  /-- Copies on their way to the Island, oldest first (R159, R374). -/
  taps : List Tap := []
  unitTaps : List UnitTap := []
  /-- The small arbiters (R336): Commons bank ports 0–47, line-buffer read ports from 64, tile-store ports from 128. -/
  arbs : NMap SmallArb := []
  smps : NMap Smp := []
  jtag : Jtag := {}
  msix : Msix := {}
  deriving DecidableEq, Repr

/-- The machine right after a power-on reset, before the boot ROM has run (R395, R419, R423): every register at its reset
value, no context, no command waiting. -/
def State.reset : State := {}

/-- Reasons a command could stop the model with a fault. The spec gives every command an effect in every state, so there
is none: faults of the machine (R445) are effects on State. -/
inductive Fault
  deriving DecidableEq, Repr

/-- Reasons a command has no meaning. -/
inductive Refusal where
  /-- Raised by Dispatch for a command that has no meaning yet: the model stops where the hardware goes on, which is safe. -/
  | notModelled (mnemonic : String)
  deriving DecidableEq, Repr

end Sys2Proof.Machine
end

