-- ==== Sys2Proof/Machine/Pages.lean ====
section
/-! DEFINITION. The register pages: where they lie (R57), their constants (R60, R61, R489, R445), and the register tables
of every page as the chapters' field maps give them (access type, reset value, writable bits, storing rules). -/
namespace Sys2Proof.Machine

/-- The block of a page (R57, R61). -/
inductive PageKind where
  | top | clk | pwr | rst | boot | flt | crier | tkb | carousel | qmgr | tile | hbm | phy | grn | dma | crc | fifo
  | sensor | eth | sched | selfold | cascade | isl | perf | debug | tmux
  deriving DecidableEq, Repr

/-- The page ranges of R57: first page number, pages, block, first instance. -/
def pageRanges : List (Nat × Nat × PageKind × Nat) :=
  [(0x000, 1, .top, 0), (0x001, 1, .clk, 0), (0x002, 1, .pwr, 0), (0x003, 1, .rst, 0), (0x004, 1, .boot, 0),
   (0x005, 1, .flt, 0), (0x006, 1, .crier, 0), (0x007, 1, .tkb, 0), (0x010, 8, .carousel, 0), (0x020, 1, .qmgr, 0),
   (0x100, 104, .tile, 0), (0x180, 16, .hbm, 0), (0x190, 1, .grn, 0), (0x1A0, 16, .dma, 0), (0x1B0, 8, .crc, 0),
   (0x1C0, 1, .fifo, 0), (0x1D0, 8, .sensor, 0), (0x1E0, 2, .eth, 0), (0x1E2, 1, .sched, 0), (0x1F0, 4, .selfold, 0),
   (0x1F4, 1, .cascade, 0), (0x200, 16, .isl, 0), (0x210, 1, .perf, 0), (0x220, 1, .debug, 0), (0x221, 1, .tmux, 0),
   (0x300, 16, .hbm, 16), (0x310, 2, .phy, 0), (0x320, 16, .dma, 16)]

/-- The first range that holds page p, with its instance. -/
def findPage (p : Nat) : List (Nat × Nat × PageKind × Nat) → Option (PageKind × Nat)
  | [] => none
  | (b, n, k, i) :: t => if b ≤ p ∧ p < b + n then some (k, i + (p - b)) else findPage p t

/-- The block and instance at BAR0 page number p (R57). -/
def pageAt (p : Nat) : Option (PageKind × Nat) := findPage p pageRanges

/-- Page numbers of instances (R57). -/
def tilePage (n : Nat) : Nat := 0x100 + n
def hbmPage (c : Nat) : Nat := if c < 16 then 0x180 + c else 0x300 + (c - 16)
def phyPage (n : Nat) : Nat := 0x310 + n
def dmaPage (c : Nat) : Nat := if c < 16 then 0x1A0 + c else 0x320 + (c - 16)
def crcPage (n : Nat) : Nat := 0x1B0 + n
def sensorPage (n : Nat) : Nat := 0x1D0 + n
def ethPage (n : Nat) : Nat := 0x1E0 + n
def sfPage (n : Nat) : Nat := 0x1F0 + n
def carPage (n : Nat) : Nat := 0x10 + n
def topPg : Nat := 0x000
def clkPg : Nat := 0x001
def pwrPg : Nat := 0x002
def rstPg : Nat := 0x003
def bootPg : Nat := 0x004
def fltPg : Nat := 0x005
def crierPg : Nat := 0x006
def tkbPg : Nat := 0x007
def qmgrPg : Nat := 0x020
def grnPg : Nat := 0x190
def fifoPg : Nat := 0x1C0
def schedPg : Nat := 0x1E2
def cascPg : Nat := 0x1F4
def perfPg : Nat := 0x210
def debugPg : Nat := 0x220
def tmuxPg : Nat := 0x221

/-- PAGE_ID.TYPE (R61). -/
def typeCode : PageKind → Nat
  | .top => 1 | .clk => 2 | .pwr => 3 | .rst => 4 | .boot => 5 | .flt => 6 | .crier => 7 | .tkb => 8 | .carousel => 9
  | .qmgr => 0xA | .tile => 0x10 | .hbm => 0x11 | .phy => 0x12 | .grn => 0x13 | .dma => 0x14 | .crc => 0x15
  | .fifo => 0x16 | .sensor => 0x17 | .eth => 0x18 | .sched => 0x19 | .selfold => 0x1A | .cascade => 0x1B
  | .isl => 0x1C | .perf => 0x1D | .debug => 0x1E | .tmux => 0x1F

/-- PAGE_CAP.N_FLT (R445, R489): how many fault sources a page has. -/
def nFlt : PageKind → Nat
  | .clk => 4 | .pwr => 6 | .boot => 3 | .flt => 3 | .qmgr => 2 | .tile => 2 | .hbm => 6 | .phy => 2 | .grn => 4
  | .dma => 3 | .crc => 1 | .fifo => 4 | .sensor => 1 | .eth => 1 | .sched => 2 | .selfold => 2 | .cascade => 4
  | _ => 0

/-- A page has the fault source (R445): its sources are numbered from 0, but the FIFO page's two Commons sources are 14 and
15 (R252, R270). -/
def hasFlt (k : PageKind) (src : Nat) : Bool :=
  if k = .fifo then src == 0 || src == 1 || src == 14 || src == 15 else decide (src < nFlt k)

/-- FLT_SEV at reset: the catalogue defaults of R445 and the chapters' source lists, two bits a source. -/
def fltSevReset : PageKind → Nat
  | .clk => 0x57            -- ROOT_PLL_LOL 3, CDC_EVT_OVF 1, REF_PCIE_LOSS 1, REF_ETH_LOSS 1
  | .pwr => 0x3ED           -- THERM_WARN 1, THERM_CRIT 3, IVR_TILE 2, IVR_FABRIC 3, VIN_UV 3, PMBUS_ERR 0
  | .boot => 0x11           -- BOOT_ONE_COPY 1, BOOT_ROLLBACK 0, BOOT_ISL_MEAS 1
  | .flt => 0x1F            -- FAB_UE 3, LOCKSTEP 3, HB_MISS 1
  | .qmgr => 0x5
  | .tile => 0x6            -- TILE_MCHK 2, TILE_CE_LIMIT 1
  | .hbm => 0x645           -- UE 1, CE_LIMIT 1, PARITY 0, DEBT 1, TRAIN 2, RANGE 1
  | .phy => 0x7             -- PHY_INIT 3, STACK_TEMP 1
  | .grn => 0xD5            -- DOUBLE 1, FOREIGN 1, BAD 1, UE 3
  | .dma => 0x5             -- BUS_ERR 1, FETCH_ERR 1, POISON 0
  | .crc => 0x1
  | .fifo => 0x50000005     -- MARK_STALL 1, UE 1, COM_UE 1, COM_CE_LIMIT 1
  | .sensor => 0x1
  | .eth => 0x1
  | .sched => 0x1           -- TRUNC 1, RING_OVR 0
  | .selfold => 0x5
  | .cascade => 0x55
  | _ => 0

/-- Sources fixed at FATAL (R445): their FLT_SEV field reads 3 and ignores writes (R14). -/
def fltFixed (k : PageKind) (b : Nat) : Bool :=
  match k with
  | .clk => b == 0
  | .pwr => b == 1 || b == 3
  | .flt => b == 0 || b == 1
  | _ => false

/-- PAGE_CAP.FENCE (R445). -/
def canFence : PageKind → Bool
  | .tile | .hbm | .grn | .dma | .crc | .fifo | .selfold => true
  | _ => false

/-- PAGE_CAP.QUIESCE, and whether ENABLE is implemented (R489). -/
def canQuiesce : PageKind → Bool
  | .tile | .dma | .crc | .sensor => true
  | _ => false

/-- PAGE_CAP.ABORT (R489). -/
def canAbort : PageKind → Bool
  | .tile | .dma => true
  | _ => false

/-- PAGE_CAP.BLOCK_RESET (R489). -/
def canReset : PageKind → Bool
  | .top | .pwr | .rst | .boot | .tkb | .phy | .cascade | .isl => false
  | _ => true

/-- PAGE_CAP.SHADOW (R489): pages whose field maps hold an RWS field; CAROUSEL page 7 has only CAR_RESERVED. -/
def hasShadow : PageKind → Nat → Bool
  | .carousel, i => i != 7
  | k, _ => rwsKind k
where
  /-- Blocks with an RWS field on every page. -/
  rwsKind : PageKind → Bool
  | .qmgr | .hbm | .phy | .grn | .dma | .fifo | .sensor | .sched | .selfold => true
  | _ => false

/-- The page's Crier source (R452). -/
def crierSrc : PageKind → Nat → Option Nat
  | .tile, n => some n
  | .hbm, n => some (104 + n)
  | .phy, n => some (136 + n)
  | .dma, n => some (138 + n)
  | .crc, n => some (170 + n)
  | .sensor, n => some (178 + n)
  | .eth, n => some (186 + n)
  | .sched, _ => some 188
  | .selfold, n => some (189 + n)
  | .cascade, _ => some 193
  | .top, _ => some 194 | .clk, _ => some 195 | .pwr, _ => some 196 | .rst, _ => some 197 | .boot, _ => some 198
  | .flt, _ => some 199
  | .tkb, _ => some 201
  | .carousel, n => some (202 + n)
  | .qmgr, _ => some 210 | .grn, _ => some 211 | .fifo, _ => some 212 | .perf, _ => some 213 | .debug, _ => some 214
  | .tmux, _ => some 215
  | .crier, _ => none
  | .isl, _ => none

/-- Access types of R6. -/
inductive Acc where
  | ro | rw | rws | w1c | wo | rc
  deriving DecidableEq, Repr

/-- A storing rule of a field [hi:lo]: values outside [min, max] store the nearer limit (R65), or the value `other`. -/
structure FieldRule where
  hi : Nat
  lo : Nat
  min : Nat
  max : Nat
  other : Option Nat := none
  deriving DecidableEq, Repr

/-- One row of a register table: `count` words from `off`, their access, reset value, writable bits and storing rules.
`pair` marks the LO word of a LO/HI pair, `triple` the fraction word of a device-time value (R74, R76). -/
structure RegRow where
  off : Nat
  count : Nat := 1
  acc : Acc
  rst : Nat := 0
  mask : Nat := 0xFFFFFFFF
  rules : List FieldRule := []
  pair : Bool := false
  triple : Bool := false
  deriving DecidableEq, Repr

/-- Two consecutive words LO and HI. -/
def loHi (off : Nat) (acc : Acc) : List RegRow :=
  [⟨off, 1, acc, 0, 0xFFFFFFFF, [], true, false⟩, ⟨off + 4, 1, acc, 0, 0xFFFFFFFF, [], false, false⟩]

/-- Three words fraction, LO, HI of a device time (R5). -/
def dtWords (off : Nat) (acc : Acc) : List RegRow :=
  [⟨off, 1, acc, 0, 0xFFFF, [], false, true⟩, ⟨off + 4, 2, acc, 0, 0xFFFFFFFF, [], false, false⟩]

/-- `n` words of one access type. -/
def regs (off n : Nat) (acc : Acc) : List RegRow := [⟨off, n, acc, 0, 0xFFFFFFFF, [], false, false⟩]

/-- One word with its reset value and writable bits. -/
def reg (off : Nat) (acc : Acc) (rst mask : Nat) (rules : List FieldRule := []) : List RegRow :=
  [⟨off, 1, acc, rst, mask, rules, false, false⟩]

/-- Storing rules. -/
def near (hi lo min max : Nat) : FieldRule := ⟨hi, lo, min, max, none⟩
def orElse (hi lo min max v : Nat) : FieldRule := ⟨hi, lo, min, max, some v⟩

/-- The DMA timer registers of the channel 0 page (R285). -/
def timerRows : Nat → List RegRow
  | 0 => []
  | n + 1 => timerRows n ++ reg (0x180 + n * 0x20) .rws 0 1 ++ dtWords (0x184 + n * 0x20) .rws ++
      loHi (0x190 + n * 0x20) .rws

/-- The block-specific register table of a page (instance i): R30, R344, R42, R78, R163, R228, R250–R252, R263, R270,
R285, R286, R311, R330, R331, R207, R367, R368, R408, R426, R427, R442, R443, R451, R458, R466–R468. -/
def regTable : PageKind → Nat → List RegRow
  | .top, _ => regs 0x100 3 .rc ++ reg 0x10C .ro 0 0 ++ reg 0x110 .ro 0x96200148 0 ++ dtWords 0x120 .ro
  | .clk, _ => regs 0x100 2 .ro ++ regs 0x108 1 .rw ++ dtWords 0x10C .rw ++ regs 0x118 1 .wo ++ regs 0x11C 2 .rc
  | .pwr, _ => regs 0x100 1 .wo ++ regs 0x104 1 .ro ++ reg 0x108 .rw 8 0x7F [near 6 0 0 96] ++ regs 0x10C 1 .ro ++
      reg 0x110 .rc 0x8000 0 ++ regs 0x114 2 .ro ++ reg 0x11C .rw 0xF 0xF ++ regs 0x120 1 .rc
  | .rst, _ => regs 0x100 1 .wo ++ regs 0x104 2 .ro ++ regs 0x110 4 .wo
  | .boot, _ => regs 0x100 4 .ro ++ loHi 0x110 .rw ++ reg 0x118 .rw 0 0x7FFFFFF [near 26 0 0 0x4000000] ++
      regs 0x11C 1 .wo ++ regs 0x120 1 .ro ++ reg 0x124 .rw 0 7 ++ regs 0x128 1 .ro ++ regs 0x12C 1 .rc ++
      regs 0x140 12 .wo ++ regs 0x180 12 .ro ++ regs 0x1B0 12 .ro
  | .flt, _ => regs 0x100 2 .ro ++ dtWords 0x108 .ro ++ reg 0x114 .rw 0 0x3F ++ regs 0x118 1 .ro ++ dtWords 0x11C .ro ++
      regs 0x128 1 .rc ++ regs 0x12C 1 .wo ++ reg 0x130 .rw 0x3E801 0xFFFF0F [near 23 8 10 65535] ++
      reg 0x134 .rw 500 0x1FF [near 8 0 50 500] ++ regs 0x138 1 .rc
  | .crier, _ => regs 0x100 32 .ro ++ reg 0x180 .rw 0 0x3FF ++ reg 0x184 .rw 0xF0 0x07FF00F3 ++ regs 0x188 1 .ro ++
      reg 0x18C .rw 0 0x800000FF ++ regs 0x190 1 .wo ++ regs 0x194 1 .ro ++ regs 0x198 1 .wo ++ regs 0x19C 1 .rc ++
      regs 0x1A0 2 .wo
  | .tkb, _ => regs 0x100 1 .wo ++ regs 0x104 1 .ro ++ loHi 0x108 .rw ++ loHi 0x110 .rw ++
      reg 0x118 .rw 8 0xFF [near 7 0 0 50] ++ reg 0x11C .rw 1850 0xFFF [near 11 0 0 1850] ++ regs 0x120 1 .ro ++
      regs 0x124 1 .rc ++ reg 0x200 .rw 0x0808 0x7F7F [near 14 8 4 64, near 6 0 4 64] ++
      [⟨0x210, 16, .rw, 64, 0x1FFF, [near 12 0 64 4096], false, false⟩] ++
      reg 0x250 .rw 1024 0x1FFF [near 12 0 16 4096] ++ reg 0x254 .rw 256 0x1FFF [near 12 0 16 4096] ++ regs 0x260 4 .rc
  | .carousel, 7 => regs 0x100 1 .ro
  | .carousel, _ => reg 0x100 .rw 0 3 ++ dtWords 0x104 .rws ++
      reg 0x110 .rws 0xC350 0xFFFFFFFF [near 31 0 1000 16777215] ++ reg 0x114 .rws 1 0x1FF [near 8 0 1 256] ++
      reg 0x118 .rw 0 0x1FF ++ reg 0x11C .rws 0xFF00C350 0xFFFFFFFF ++ regs 0x120 1 .ro ++ dtWords 0x124 .ro ++
      reg 0x130 .w1c 0 1 ++ regs 0x134 1 .ro ++ regs 0x138 1 .rc
  | .qmgr, _ => reg 0x100 .rw 0 0x1FFF ++ reg 0x104 .ro 0 0x1FFF ++ reg 0x200 .rws 0 0x2 ++ loHi 0x204 .rws ++
      reg 0x20C .rws 4 0x31F [orElse 4 0 4 16 4] ++ loHi 0x210 .rws ++
      reg 0x218 .rws 4 0x07FF311F [orElse 13 12 0 2 0, orElse 4 0 4 16 4] ++ loHi 0x21C .rws ++
      reg 0x224 .rws 0x101 0x7FFF [orElse 14 8 1 64 1, orElse 7 0 1 255 1] ++ regs 0x228 6 .ro ++
      reg 0x240 .rw 0 0x1FFFF ++ regs 0x244 1 .wo ++ regs 0x248 1 .ro ++ regs 0x24C 3 .rc ++ regs 0x258 1 .ro ++
      regs 0x2FC 1 .ro
  | .tile, _ => regs 0x100 1 .ro ++ regs 0x104 1 .wo ++ regs 0x108 5 .ro ++ regs 0x11C 1 .rc ++
      reg 0x120 .rw 0x400 0xFFFFFFFF ++ regs 0x124 1 .ro ++ regs 0x128 1 .rc ++ reg 0x130 .rw 0 0x7FFFF ++
      [⟨0x134, 1, .ro, 0, 0, [], true, false⟩] ++ regs 0x138 1 .ro
  | .hbm, _ => reg 0x100 .rws 0x1F1F 0x1F1F [orElse 12 8 0 16 31, orElse 4 0 0 16 31] ++ regs 0x104 1 .ro ++
      regs 0x108 4 .rc ++ regs 0x118 1 .ro ++ loHi 0x11C .ro ++ reg 0x124 .rw 0x1000 0xFFFFFFFF
  | .phy, 0 => regs 0x100 1 .ro ++ reg 0x104 .rw 0 1 ++
      [⟨0x108, 2, .rws, 0x44444444, 0xFFFFFFFF, [near 31 28 0 8, near 27 24 0 8, near 23 20 0 8, near 19 16 0 8,
        near 15 12 0 8, near 11 8 0 8, near 7 4 0 8, near 3 0 0 8], false, false⟩] ++
      reg 0x110 .rws 4 0xF [near 3 0 0 8] ++ reg 0x114 .rw 1 1 ++ regs 0x118 1 .ro ++ regs 0x11C 1 .rc
  | .phy, _ => regs 0x100 1 .ro ++ regs 0x104 5 .ro ++ regs 0x118 1 .ro ++ regs 0x11C 1 .rc
  | .grn, _ => reg 0x100 .rw 0 0x3F ++ reg 0x104 .rw 0xC0000 0x1F0101 [orElse 20 16 12 24 12] ++ loHi 0x108 .rw ++
      reg 0x110 .rw 0 0x3FFFF ++ reg 0x114 .rw 0 0x7FFFF [near 18 0 1 262144] ++ regs 0x118 2 .ro ++
      reg 0x120 .rws 0 0xFFFFFF ++ reg 0x130 .rw 0x7FF 0x7FF ++ reg 0x134 .rw 0 0x7FFFF ++ regs 0x138 1 .ro ++
      regs 0x140 1 .wo ++ regs 0x144 1 .ro ++ loHi 0x148 .rw ++ regs 0x150 6 .rc ++ regs 0x168 1 .ro ++ loHi 0x16C .ro
  | .dma, i => loHi 0x100 .rws ++ reg 0x108 .rws 4 0x11F [orElse 4 0 4 16 4] ++ reg 0x10C .rw 0 0x1FFFF ++
      regs 0x110 3 .ro ++ regs 0x11C 3 .rc ++ (if i = 0 then timerRows 8 else [])
  | .crc, _ => loHi 0x100 .rw ++ loHi 0x108 .rw ++ loHi 0x110 .rw ++
      reg 0x118 .rw 32 0x3037F [orElse 17 16 0 1 0, orElse 6 0 1 64 32] ++ regs 0x11C 1 .wo ++ loHi 0x120 .rw ++
      loHi 0x128 .rw ++ loHi 0x130 .rw ++ loHi 0x138 .ro ++ regs 0x140 1 .ro ++ loHi 0x148 .ro ++ regs 0x150 1 .rc
  | .fifo, _ => reg 0x100 .rw 0 0xFF ++ regs 0x180 2 .rc ++ regs 0x188 1 .ro ++ reg 0x18C .rw 0x1000 0xFFFFFFFF ++
      regs 0x190 1 .ro ++ regs 0x1A0 8 .w1c ++ reg 0x200 .rws 0x800 0x1F01 [orElse 12 8 8 20 8] ++
      reg 0x204 .rws 0 0xFFFFFF ++ reg 0x208 .rws 0 0x1FFFFF ++ reg 0x20C .rws 0 0xFFFFFF ++
      reg 0x210 .rws 0x640 0xFFFFFF ++ regs 0x214 5 .ro ++ regs 0x228 4 .rc ++ regs 0x2FC 1 .ro
  | .sensor, i => reg 0x100 .rw 8 0x1FF0F [near 3 0 1 8] ++ regs 0x104 1 .ro ++ reg 0x108 .rws 0x7FF 0xFF07FF ++
      reg 0x10C .rws 0x4E20 0xFFFFFF ++ regs 0x110 7 .rc ++ regs 0x12C 1 .ro ++ regs 0x130 1 .rw ++ regs 0x134 1 .rws ++
      (if i < 4 then reg 0x140 .rws 0x3E800 0xFFFFFF03 ++ dtWords 0x144 .rws ++ loHi 0x150 .rws ++
        reg 0x180 .rw 0 0x1FF ++ regs 0x184 1 .wo ++ regs 0x188 1 .ro ++ regs 0x18C 1 .wo ++ regs 0x190 1 .rc else []) ++
      (if i = 0 then reg 0x160 .rws 400 0x103FF [near 9 0 96 1023] else [])
  | .eth, _ => reg 0x100 .rw 0 3 ++ regs 0x104 1 .ro ++ reg 0x108 .rw 0 0xFFFFF ++ reg 0x10C .rw 0 0xFFFFF ++
      dtWords 0x110 .ro ++ regs 0x11C 1 .ro ++ regs 0x120 3 .rc ++ reg 0x400 .rw 0x7FF 0x7FF ++ regs 0x404 9 .rc
  | .sched, _ => reg 0x100 .rw 0 0xFFF ++ reg 0x104 .rw 0 0x3F ++ reg 0x108 .rw 0 0x1F ++ regs 0x10C 3 .rc ++
      regs 0x120 8 .ro ++ regs 0x200 32 .rws ++ regs 0x280 1 .ro ++ regs 0x284 2 .rc ++ regs 0x28C 1 .ro ++
      regs 0x290 2 .rc ++ loHi 0x298 .ro ++ regs 0x300 4 .rws ++ loHi 0x380 .rws ++
      reg 0x388 .rws 20 0x13F [orElse 5 0 20 35 20] ++ loHi 0x38C .rws ++ loHi 0x394 .ro ++ loHi 0x39C .ro ++
      loHi 0x3A4 .ro ++ regs 0x3AC 1 .rc
  | .selfold, _ => reg 0x100 .rw 0 7 ++ regs 0x104 1 .ro ++
      reg 0x108 .rws 0x207D0 0xFFFFF [orElse 19 16 1 8 2, near 15 0 500 65535] ++
      [⟨0x10C, 2, .rws, 0, 0x7FFFF, [near 18 0 1 400000], false, false⟩,
       ⟨0x114, 2, .rws, 0x5DC, 0x1FFFFFF, [near 24 0 1500 16777216], false, false⟩] ++ regs 0x120 7 .rc
  | .cascade, _ => regs 0x100 1 .ro ++ regs 0x104 1 .wo ++ loHi 0x108 .rw ++ loHi 0x110 .rw ++
      reg 0x118 .rw 0x7D00 0x1FFFF [near 16 0 22000 100000] ++ regs 0x11C 1 .ro ++ regs 0x120 1 .wo ++ regs 0x124 1 .ro ++
      reg 0x128 .rw 0x186A0 0xFFFFFF ++ regs 0x12C 4 .rc ++ loHi 0x140 .rw ++ loHi 0x148 .rw ++ loHi 0x150 .rw ++
      loHi 0x158 .rw ++ loHi 0x160 .rw ++ loHi 0x168 .rw ++ loHi 0x170 .rw ++ loHi 0x178 .rw ++ loHi 0x180 .rw ++
      loHi 0x188 .rw ++ loHi 0x190 .rw ++ loHi 0x198 .rw ++ loHi 0x1A0 .rw ++ loHi 0x1A8 .rw ++ loHi 0x1B0 .rw ++
      loHi 0x1B8 .rw
  | .isl, _ => []
  | .perf, _ => reg 0x100 .rw 0 3 ++ reg 0x104 .rw 0 0x7F [orElse 6 0 0 103 0] ++ regs 0x108 1 .w1c ++
      reg 0x10C .w1c 0 0xFFFF ++ regs 0x110 4 .ro ++ reg 0x120 .rw 0x7FC00000 0xFFC0FFFF ++ regs 0x124 1 .ro ++
      reg 0x128 .rw 0 0xFF ++ regs 0x12C 4 .ro ++ regs 0x13C 2 .rc ++
      [⟨0x200, 32, .rw, 0x100, 0x1FFF, [], false, false⟩] ++ regs 0x280 32 .rw ++
      [⟨0x300, 16, .rw, 0, 0x1FFF, [], false, false⟩] ++ regs 0x340 16 .rw ++ reg 0x800 .rw 0 0x7F [orElse 6 0 0 103 0] ++
      regs 0x900 32 .ro ++ regs 0xA00 16 .ro
  | .debug, _ => reg 0x100 .rw 0 1 ++ regs 0x104 1 .rc
  | .tmux, _ => reg 0x100 .rw 0x200000 0x87FF03FF [near 26 20 2 64]

/-- The row that assigns offset `off`. -/
def findRow (off : Nat) : List RegRow → Option RegRow
  | [] => none
  | r :: t => if r.off ≤ off ∧ off < r.off + 4 * r.count then some r else findRow off t

/-- The row of a block-specific register. -/
def regRow (k : PageKind) (i off : Nat) : Option RegRow := findRow off (regTable k i)

/-- Bits [hi:lo] of a number. -/
def bits (x hi lo : Nat) : Nat := (x >>> lo) % 2 ^ (hi + 1 - lo)

/-- Replace bits [hi:lo] of a number. -/
def setBits (x hi lo v : Nat) : Nat := x - (bits x hi lo) * 2 ^ lo + (v % 2 ^ (hi + 1 - lo)) * 2 ^ lo

/-- Apply one storing rule (R65 or the field's own rule). -/
def applyRule (x : Nat) (r : FieldRule) : Nat :=
  let v := bits x r.hi r.lo
  if v < r.min then setBits x r.hi r.lo (r.other.getD r.min)
  else if r.max < v then setBits x r.hi r.lo (r.other.getD r.max)
  else x

/-- The value a write stores: writable bits, then the storing rules. -/
def stored (r : RegRow) (v : U32) : U32 :=
  BitVec.ofNat 32 (r.rules.foldl applyRule (v.toNat &&& r.mask))

end Sys2Proof.Machine
end

