-- ==== Sys2Proof/Machine/Operands.lean ====
section
/-! DEFINITION. Operand forms: numeric fields of byte structures in both byte orders (R2), ceilings, requester numbers,
the CRC of R283, and the 17-bit ring positions of R288. -/
namespace Sys2Proof.Machine

/-- Byte `i` of a structure, 0 beyond its end. -/
def byteAt (b : List Byte) (i : Nat) : Nat := ((b[i]?).getD 0).toNat

/-- The little-endian number of a byte list (R2). -/
def leNat : List Byte → Nat
  | [] => 0
  | x :: t => x.toNat + 256 * leNat t

/-- The little-endian field of `n` bytes at `off` (R2). -/
def leAt (b : List Byte) (off n : Nat) : Nat := leNat ((b.drop off).take n)

/-- The big-endian number of a byte list (R2). -/
def beNat (b : List Byte) : Nat := b.foldl (fun a x => a * 256 + x.toNat) 0

/-- The big-endian field of `n` bytes at `off` (R2). -/
def beAt (b : List Byte) (off n : Nat) : Nat := beNat ((b.drop off).take n)

/-- `n` little-endian bytes of `v` (R2). -/
def toLE : Nat → Nat → List Byte
  | 0, _ => []
  | n + 1, v => BitVec.ofNat 8 v :: toLE n (v / 256)

/-- `n` big-endian bytes of `v` (R2). -/
def toBE (n v : Nat) : List Byte := (toLE n v).reverse

/-- Replace the bytes at `off` by `v`. -/
def putAt (b : List Byte) (off : Nat) (v : List Byte) : List Byte := b.take off ++ v ++ b.drop (off + v.length)

/-- A list padded with zeros, or cut, to `n` bytes. -/
def padTo (n : Nat) (b : List Byte) : List Byte := (b ++ List.replicate (n - b.length) 0).take n

/-- Every byte of a range is 0. -/
def zeroAt (b : List Byte) (off n : Nat) : Bool := ((b.drop off).take n).all (· == 0)

/-- Quotient rounded up. -/
def cdiv (a b : Nat) : Nat := (a + b - 1) / b

/-- The nearest value of a range. -/
def clampN (lo hi x : Nat) : Nat := if x < lo then lo else if hi < x then hi else x

/-- clip3 on integers (R111). -/
def clip3 (lo hi x : Int) : Int := if x < lo then lo else if hi < x then hi else x

/-- A number as a signed two's-complement value of `w` bits. -/
def signed (w v : Nat) : Int := if v % 2 ^ w < 2 ^ (w - 1) then (v % 2 ^ w : Nat) else (v % 2 ^ w : Nat) - (2 ^ w : Nat)

/-- A signed value as its two's-complement number of `w` bits. -/
def unsigned (w : Nat) (v : Int) : Nat := (v % (2 ^ w : Nat)).toNat

/-- Requester numbers of banked state: host 0, Steward n at n + 1, cascade master 5 (R69, R72). -/
def rqIx : Requester → Nat
  | .host => 0
  | .steward n => n.val + 1
  | .master => 5

/-- The writer is a Steward. -/
def isSteward : Requester → Bool
  | .steward _ => true
  | _ => false

/-- `n` bits of `v`, lowest first. -/
def bitsLow : Nat → Nat → List Bool
  | 0, _ => []
  | n + 1, v => (v % 2 = 1) :: bitsLow n (v / 2)

/-- The bit reversal of a `w`-bit value (R283). -/
def reflect (w v : Nat) : Nat := (bitsLow w v).foldl (fun a b => a * 2 + if b then 1 else 0) 0

/-- One bit fed to the register of R283. -/
def crcBit (w poly val : Nat) (b : Bool) : Nat :=
  let top := bits val (w - 1) (w - 1) = 1
  let v := (val * 2) % 2 ^ w
  if (top != b) then v ^^^ poly % 2 ^ w else v

/-- One byte fed most or least significant bit first (R283). -/
def crcByte (w poly : Nat) (refin : Bool) (val : Nat) (b : Byte) : Nat :=
  (if refin then bitsLow 8 b.toNat else (bitsLow 8 b.toNat).reverse).foldl (crcBit w poly) val

/-- The register after a byte string (R283). -/
def crcFeed (w poly : Nat) (refin : Bool) (val : Nat) (bs : List Byte) : Nat := bs.foldl (crcByte w poly refin) val

/-- The RESULT of R283. -/
def crcResult (w xorout : Nat) (refout : Bool) (val : Nat) : Nat :=
  (if refout then reflect w val else val % 2 ^ w) ^^^ xorout % 2 ^ w

/-- CRC-32C (R82, R284). -/
def crc32c (bs : List Byte) : Nat :=
  crcResult 32 0xFFFFFFFF true (crcFeed 32 0x1EDC6F41 true 0xFFFFFFFF bs)

/-- The frame check sequence of IEEE 802.3 (R318, R422). -/
def crc32e (bs : List Byte) : Nat :=
  crcResult 32 0xFFFFFFFF true (crcFeed 32 0x04C11DB7 true 0xFFFFFFFF bs)

/-- The sum of the big-endian 16-bit words of a list, a last odd byte filled with 0. -/
def sum16 : List Byte → Nat
  | [] => 0
  | [a] => a.toNat * 256
  | a :: b :: t => a.toNat * 256 + b.toNat + sum16 t

/-- The internet checksum of IPv4 and UDP (R319): the complement of the one's complement sum. -/
def inetSum (bs : List Byte) : Nat :=
  let fold := fun x => x % 65536 + x / 65536
  0xFFFF - fold (fold (sum16 bs))

/-- CRC-64/XZ (R284, R347). -/
def crc64 (bs : List Byte) : Nat :=
  crcResult 64 (2 ^ 64 - 1) true (crcFeed 64 0x42F0E1EBA9EA3693 true (2 ^ 64 - 1) bs)

/-- The index of R288 of a ring position: wrap bit at bit 16, index in the low s bits. -/
def idxOf (s p : Nat) : Nat := (p / 2 ^ s % 2) * 0x10000 + p % 2 ^ s

/-- The position of an index value (R288). -/
def posOf (s v : Nat) : Nat := bits v 16 16 * 2 ^ s + v % 2 ^ s

/-- The index value is valid: bits [15:s] are 0 (R288). -/
def idxValid (s v : Nat) : Bool := v % 2 ^ 16 < 2 ^ s

/-- The distance from position a to position b of a ring of 2^s (R266, R288). -/
def ringDist (s a b : Nat) : Nat := (b + 2 ^ (s + 1) - a % 2 ^ (s + 1)) % 2 ^ (s + 1)

/-- The first element of a list that satisfies a test, with its index. -/
def findIx {α : Type} (p : α → Bool) : List α → Nat → Option (Nat × α)
  | [], _ => none
  | x :: t, i => if p x then some (i, x) else findIx p t (i + 1)

/-- Replace the element at an index; `d` fills the places before it that the list does not have. -/
def setIx {α : Type} (l : List α) (i : Nat) (x d : α) : List α :=
  if i < l.length then l.set i x else l ++ List.replicate (i - l.length) d ++ [x]

/-- The element at an index, or a default. -/
def getIx {α : Type} (l : List α) (i : Nat) (d : α) : α := (l[i]?).getD d

/-- The sum of a list. -/
def sumN (l : List Nat) : Nat := l.foldl (· + ·) 0

/-- The largest of a list, 0 when empty. -/
def maxN (l : List Nat) : Nat := l.foldl max 0

/-- Ones in the low `n` bits of a number. -/
def ones (n w : Nat) : Nat := ((List.range n).filter fun i => w.testBit i).length

/-- A word of `n` bits with its parity bit on top: odd over all `n + 1` bits, or even. -/
def withParity (odd : Bool) (n w : Nat) : Nat := w % 2 ^ n + (if (ones n w % 2 == 1) == odd then 0 else 2 ^ n)

/-- The parity of a word of `n` bits and its parity bit is right. -/
def parityOk (odd : Bool) (n w : Nat) : Bool := (ones (n + 1) w % 2 == 1) == odd

end Sys2Proof.Machine
end

