-- ==== Sys2Proof/Machine/Ops.lean ====
section
/-! DEFINITION. The named operations every meaning is built from: outcomes, registers and headers, memory (host, HBM,
Commons), device time and the tick, Carousel gates, token buckets. -/
namespace Sys2Proof.Machine

/-- What a command answers. -/
abbrev Out := Host.Outcome State Fault Refusal

/-- The main die's engines run: it is powered, not in the fault state (R448), and no EXTEST-class instruction holds it in
reset (R469). -/
def alive (s : State) : Bool := s.pwr.mainOn && !s.flt.fault && !s.jtag.held

/-- The register bus answers: the main die is powered and not held in reset (R448, R469). -/
def busUp (s : State) : Bool := s.pwr.mainOn && !s.jtag.held

/-- An engine's step: it acts while the main die's engines run. -/
def act (op : State → State) (s : State) : Out := .next (if alive s then op s else s)

/-- A step of the register bus. -/
def actBus (op : State → State) (s : State) : Out := .next (if busUp s then op s else s)

/-! ## Registers -/

/-- The key of a register in the sparse register file: page number, bank (requester or selected instance), offset. -/
def rkey (page bank off : Nat) : Nat := (page * 8192 + bank) * 4096 + off

/-- The reset value of a register (R7, R456). -/
def rreset (page bank off : Nat) : U32 :=
  match pageAt page with
  | none => 0
  | some (.crier, _) => if off = 0x184 then BitVec.ofNat 32 (0xF0 + bank % 2048 * 0x10000) else 0
  | some (k, i) =>
    match regRow k i off with
    | none => if off = 0x020 then BitVec.ofNat 32 (fltSevReset k) else 0
    | some r =>
      if k = .tkb ∧ 0x210 ≤ off ∧ off < 0x250 then 64
      else if k = .sched ∧ (off = 0x288 ∨ off = 0x294) then 0
      else BitVec.ofNat 32 r.rst

/-- The operative or plain word of a register. -/
def rget (s : State) (page bank off : Nat) : U32 := (nget s.regs (rkey page bank off)).getD (rreset page bank off)

/-- Its value as a number. -/
def rgetN (s : State) (page bank off : Nat) : Nat := (rget s page bank off).toNat

/-- Bits [hi:lo] of a register. -/
def rbits (s : State) (page bank off hi lo : Nat) : Nat := bits (rgetN s page bank off) hi lo

/-- Write the operative or plain word. -/
def rput (s : State) (page bank off : Nat) (v : U32) : State := { s with regs := nset s.regs (rkey page bank off) v }

/-- Write a number. -/
def rputN (s : State) (page bank off v : Nat) : State := rput s page bank off (BitVec.ofNat 32 v)

/-- The 64-bit value of a LO/HI pair (R74). -/
def rget64 (s : State) (page bank off : Nat) : Nat := rgetN s page bank off + rgetN s page bank (off + 4) * 2 ^ 32

/-- Write a LO/HI pair. -/
def rput64 (s : State) (page bank off v : Nat) : State :=
  rputN (rputN s page bank off (v % 2 ^ 32)) page bank (off + 4) (v / 2 ^ 32 % 2 ^ 32)

/-- The device time of three words, in 2^-16 ns (R5). -/
def rgetDt (s : State) (page bank off : Nat) : Time := rbits s page bank off 15 0 + rget64 s page bank (off + 4) * 65536

/-- The shadow word of an RWS register; without one it follows the operative word (R66). -/
def sget (s : State) (page bank off : Nat) : U32 := (nget s.shadow (rkey page bank off)).getD (rget s page bank off)

/-- Write a shadow word (R66). -/
def sput (s : State) (page bank off : Nat) (v : U32) : State := { s with shadow := nset s.shadow (rkey page bank off) v }

/-- Add to a counter that saturates at 0xFFFF_FFFF. -/
def bump (s : State) (page bank off n : Nat) : State :=
  rputN s page bank off (min 0xFFFFFFFF (rgetN s page bank off + n))

/-- Add to a 16-bit counter field at bit `lo` that saturates. -/
def bump16 (s : State) (page bank off lo n : Nat) : State :=
  let v := rgetN s page bank off
  rputN s page bank off (setBits v (lo + 15) lo (min 0xFFFF (bits v (lo + 15) lo + n)))

/-- Write bits [hi:lo] of operative word and shadow together, the other bits of each as they stood, and discard a pending
snapshot of that page and bank, as the booth does (R490). -/
def boothField (s : State) (page bank off hi lo v : Nat) : State :=
  let shadow := setBits (sget s page bank off).toNat hi lo v
  { sput (rputN s page bank off (setBits (rgetN s page bank off) hi lo v)) page bank off (BitVec.ofNat 32 shadow) with
    snaps := s.snaps.filter fun n => !(n.page == page && (n.bank == bank || (sensorPage 0 ≤ page && page ≤ sensorPage 7))) }

/-- The same for a whole word. -/
def boothPut (s : State) (page bank off v : Nat) : State := boothField s page bank off 31 0 v

/-- The header of a page (R60). -/
def hdr (s : State) (page : Nat) : PageHdr := ngetD s.hdrs page {}

/-- Write a header. -/
def setHdr (s : State) (page : Nat) (h : PageHdr) : State := { s with hdrs := nset s.hdrs page h }

/-- A register discard counted on the TOP page, with the offset recorded (R78). -/
def topCount (s : State) (off addr : Nat) : State := rputN (bump s topPg 0 off 1) topPg 0 0x10C (addr % 2 ^ 26)

/-- Count a write in TOP_UNMAPPED (R55). -/
def unmapped (s : State) (addr : Nat) : State := topCount s 0x100 addr
/-- Count a write in TOP_BAD_SIZE (R54). -/
def badSize (s : State) (addr : Nat) : State := topCount s 0x104 addr
/-- Count a write in TOP_HOST_DENY (R64). -/
def hostDeny (s : State) (addr : Nat) : State := topCount s 0x108 addr

/-- Record an output. -/
def emit (s : State) (e : Emit) : State := { s with emitted := s.emitted ++ [e] }

/-- Vector Control of an MSI-X vector: the vector is masked (R53, R303, R455). -/
def msixMasked (s : State) (v : Nat) : Bool := (ngetD s.msix.table (4 * v + 3) 1).toNat % 2 == 1

/-- Send the MSI-X message of a vector; of a masked vector the pending bit is set instead (R303, R455). -/
def sendMsix (s : State) (v : Nat) : State :=
  if msixMasked s v then
    { s with msix := { s.msix with pend := if s.msix.pend.contains v then s.msix.pend else s.msix.pend ++ [v] } }
  else emit s (.msix v)

/-- Take a fresh number for a free value (assumption 2). -/
def fresh (s : State) : Nat × State := (s.freeCtr, { s with freeCtr := s.freeCtr + 1 })

/-- The lifecycle state is debug-unlocked (R406): 1 DEBUG_UNLOCKED or 2 RMA. -/
def debugUnlocked (s : State) : Bool := s.boot.lifecycle = 1 ∨ s.boot.lifecycle = 2

/-! ## Engines by number -/

def getCtx (s : State) (c : Nat) : Option Ctx := nget s.ctxs c
def setCtx (s : State) (c : Nat) (x : Ctx) : State := { s with ctxs := nset s.ctxs c x }
def getQ (s : State) (q : Nat) : Queue := ngetD s.queues q {}
def setQ (s : State) (q : Nat) (x : Queue) : State := { s with queues := nset s.queues q x }
def getTile (s : State) (t : Nat) : Tile := ngetD s.tiles t {}
def setTile (s : State) (t : Nat) (x : Tile) : State := { s with tiles := nset s.tiles t x }
def getPool (s : State) (p : Nat) : Pool := ngetD s.pools p {}
def setPool (s : State) (p : Nat) (x : Pool) : State := { s with pools := nset s.pools p x }
def getFifo (s : State) (f : Nat) : Fifo := ngetD s.fifos f {}
def setFifo (s : State) (f : Nat) (x : Fifo) : State := { s with fifos := nset s.fifos f x }
def getDma (s : State) (c : Nat) : Dma := ngetD s.dmas c {}
def setDma (s : State) (c : Nat) (x : Dma) : State := { s with dmas := nset s.dmas c x }
def getCrc (s : State) (u : Nat) : CrcU := ngetD s.crcs u {}
def setCrc (s : State) (u : Nat) (x : CrcU) : State := { s with crcs := nset s.crcs u x }
def getPc (s : State) (p : Nat) : Pc := ngetD s.pcs p {}
def setPc (s : State) (p : Nat) (x : Pc) : State := { s with pcs := nset s.pcs p x }
def getFlow (s : State) (f : Nat) : Flow := ngetD s.flows f {}
def setFlow (s : State) (f : Nat) (x : Flow) : State := { s with flows := nset s.flows f x }
def getSvc (s : State) (v : Nat) : Svc := ngetD s.svcs v {}
def setSvc (s : State) (v : Nat) (x : Svc) : State := { s with svcs := nset s.svcs v x }
def getPort (s : State) (p : Nat) : EPort := ngetD s.eports p {}
def setPort (s : State) (p : Nat) (x : EPort) : State := { s with eports := nset s.eports p x }
def getRing (s : State) (r : Nat) : Ring := ngetD s.rings r {}
def setRing (s : State) (r : Nat) (x : Ring) : State := { s with rings := nset s.rings r x }
def getEth (s : State) (p : Nat) : Eth := ngetD s.eths p {}
def setEth (s : State) (p : Nat) (x : Eth) : State := { s with eths := nset s.eths p x }
def getSf (s : State) (p : Nat) : SfPort := ngetD s.sfs p {}
def setSf (s : State) (p : Nat) (x : SfPort) : State := { s with sfs := nset s.sfs p x }
def getSensor (s : State) (p : Nat) : Sensor := ngetD s.sensors p {}
def setSensor (s : State) (p : Nat) (x : Sensor) : State := { s with sensors := nset s.sensors p x }
def getCar (s : State) (l : Nat) : Car := ngetD s.cars l {}
def setCar (s : State) (l : Nat) (x : Car) : State := { s with cars := nset s.cars l x }
def getSrc (s : State) (n : Nat) : CSrc := ngetD s.crier n {}
def setSrc (s : State) (n : Nat) (x : CSrc) : State := { s with crier := nset s.crier n x }

/-! ## Contract fields (R28) and configuration fields (R186) -/

namespace Ct
def source (b : List Byte) : Nat := byteAt b 2
def ports (b : List Byte) : Nat := byteAt b 3
def width (b : List Byte) : Nat := leAt b 4 2
def height (b : List Byte) : Nat := leAt b 6 2
def layout (b : List Byte) : Nat := byteAt b 8
def cfaPhase (b : List Byte) : Nat := byteAt b 9
def depth (b : List Byte) : Nat := byteAt b 0xA
def segW (b : List Byte) : Nat := byteAt b 0xB
def cond (b : List Byte) : Nat := leAt b 0xC 2
def outW (b : List Byte) : Nat := leAt b 0x10 2
def outH (b : List Byte) : Nat := leAt b 0x12 2
/-- PERIOD in 2^-16 ns. -/
def period (b : List Byte) : Time := leAt b 0x18 8
def mode (b : List Byte) : Nat := byteAt b 0x20
def nref (b : List Byte) : Nat := byteAt b 0x21
def errE (b : List Byte) : Nat := leAt b 0x22 2
def hevcProfile (b : List Byte) : Nat := byteAt b 0x24
def hevcLevel (b : List Byte) : Nat := byteAt b 0x25
def codeFlags (b : List Byte) : Nat := byteAt b 0x26
def srchH (b : List Byte) : Nat := leAt b 0x28 2
def srchV (b : List Byte) : Nat := leAt b 0x2A 2
def catalogue (b : List Byte) : Nat := leAt b 0x2C 2
def frameCap (b : List Byte) : Nat := leAt b 0x30 8
def egBurst (b : List Byte) : Nat := leAt b 0x38 8
def egRate (b : List Byte) : Nat := leAt b 0x40 4
def port (b : List Byte) : Nat := byteAt b 0x44 % 8
def svc (b : List Byte) : Nat := byteAt b 0x45
def flow (b : List Byte) : Nat := leAt b 0x46 2
def dReq (b : List Byte) : Nat := leAt b 0x48 4
def timeSrc (b : List Byte) : Nat := byteAt b 0x4C
def mpReq (b : List Byte) : Nat := byteAt b 0x4D
def queue (b : List Byte) : Nat := leAt b 0x4E 2
def polPir (b : List Byte) : Nat := leAt b 0x50 4
def polPbs (b : List Byte) : Nat := byteAt b 0x54
def polFlags (b : List Byte) : Nat := byteAt b 0x55
def pool (b : List Byte) : Nat := byteAt b 0x56
def streamId (b : List Byte) : Nat := leAt b 0x80 4
def refresh (b : List Byte) : Nat := leAt b 0x84 2
def qpMin (b : List Byte) : Nat := byteAt b 0x86
def qpMax (b : List Byte) : Nat := if byteAt b 0x87 = 0 then 87 else byteAt b 0x87
def qpInit (b : List Byte) : Nat := if byteAt b 0x88 = 0 then 36 else byteAt b 0x88
def qpStep (b : List Byte) : Nat := if byteAt b 0x89 = 0 then 4 else byteAt b 0x89
def minSegB (b : List Byte) : Nat := if leAt b 0x8A 2 = 0 then 64 else leAt b 0x8A 2
def rcTarget (b : List Byte) : Nat := leAt b 0x8C 8
def lambdaK (b : List Byte) : Nat := if leAt b 0x94 2 = 0 then 146 else leAt b 0x94 2
def demoteQp (b : List Byte) : Nat := if byteAt b 0x96 = 0 then 60 else byteAt b 0x96
def hevcCfg (b : List Byte) : Nat := byteAt b 0x97
def m0 (b : List Byte) : Nat := if leAt b 0x98 4 = 0 then 0x4000 else leAt b 0x98 4
end Ct

/-! ## Host memory and HBM -/

/-- Bytes of host memory. -/
def hostRead (s : State) (a n : Nat) : List Byte := (List.range n).map fun i => bget s.hostMem ((a + i) % 2 ^ 64)

/-- Write consecutive bytes of a byte memory. -/
def bsetAll (m : NMap Byte) (a : Nat) : List Byte → NMap Byte
  | [] => m
  | b :: t => bsetAll (bset m a b) (a + 1) t

/-- Write bytes to host memory. -/
def hostWrite (s : State) (a : Nat) (bs : List Byte) : State := { s with hostMem := bsetAll s.hostMem a bs }

/-- Two ranges overlap. -/
def overlaps (a n b m : Nat) : Bool := 0 < n && 0 < m && decide (a < b + m) && decide (b < a + n)

/-- The error class with which the host answers an access, if any (R280). -/
def hostErrAt (s : State) (a n : Nat) : Option Nat :=
  (s.hostErr.find? fun r => overlaps r.1 r.2.1 a n).map fun r => r.2.2

/-- A read completion from this range carries poison (R281). -/
def hostPoisonAt (s : State) (a n : Nat) : Bool := s.hostPoison.any fun r => overlaps r.1 r.2 a n

/-- The region of a pseudo-channel: HBM_PC_MAP of its controller page (R250). -/
def pcRegion (s : State) (pc : Nat) : Nat :=
  let r := rgetN s (hbmPage (pc / 2)) 0 0x100
  let v := if pc % 2 = 0 then bits r 4 0 else bits r 12 8
  if v ≤ 16 then v else 31

/-- The members of a region in ascending PC number (R231). -/
def regionPcs (s : State) (win : Nat) : List Nat := (List.range 64).filter fun p => pcRegion s p == win

/-- The grain of a region in bytes (R231, R251). -/
def grain (s : State) (win : Nat) : Nat :=
  let v := if win < 8 then bits (rgetN s (phyPage 0) 0 0x108) (4 * win + 3) (4 * win)
    else if win < 16 then bits (rgetN s (phyPage 0) 0 0x10C) (4 * (win - 8) + 3) (4 * (win - 8))
    else bits (rgetN s (phyPage 0) 0 0x110) 3 0
  256 * 2 ^ min v 8

/-- Bytes of one pseudo-channel (R229). -/
def pcBytes : Nat := 0x2D000000

/-- Where an HBM byte lies: pseudo-channel and offset in it (R230, R231), none when out of range. -/
def hbmLocIn (pcs : List Nat) (g addr : Nat) : Option (Nat × Nat) :=
  let off := addr % 2 ^ 36
  let k := pcs.length
  if 2 ^ 41 ≤ addr ∨ 16 < bits addr 40 36 ∨ k * pcBytes ≤ off then none
  else
    let i := off / g
    some (getIx pcs (i % k) 0, (i / k) * g + off % g)

def hbmLoc (s : State) (addr : Nat) : Option (Nat × Nat) :=
  hbmLocIn (regionPcs s (bits addr 40 36)) (grain s (bits addr 40 36)) addr

/-- The linear key of a byte of a pseudo-channel. -/
def hbmKey (pc off : Nat) : Nat := pc * pcBytes + off

/-- The 256-B block number of a linear key. -/
def hbmBlock (key : Nat) : Nat := key / 256

/-- Where each byte of a transfer lies: a transfer may run on into the next window (R230). -/
def hbmLocs (s : State) (addr n : Nat) : Nat → Option (Nat × Nat) :=
  let pcs := regionPcs s (bits addr 40 36)
  let g := grain s (bits addr 40 36)
  if addr % 2 ^ 36 + n ≤ 2 ^ 36 then fun i => hbmLocIn pcs g (addr + i)
  else fun i => if bits (addr + i) 40 36 = bits addr 40 36 then hbmLocIn pcs g (addr + i) else hbmLoc s (addr + i)

/-- Read bytes of HBM: data, whether any byte is poisoned, whether any is out of range (R230, R241). -/
def hbmRead (s : State) (addr n : Nat) : List Byte × Bool × Bool :=
  let locs := (List.range n).map (hbmLocs s addr n)
  (locs.map fun l => match l with | some (p, o) => bget s.hbm (hbmKey p o) | none => 0,
   locs.any fun l => match l with | some (p, o) => s.hbmPoison.contains (hbmBlock (hbmKey p o)) | none => true,
   locs.any fun l => l.isNone)

/-- The poison list after a write of whole or partial blocks: a write that covers a whole block clears it, a poisoned byte
sets it, and a partial write leaves a poisoned block poisoned (R235, R281). -/
def hbmPoisonAfter (pl : List Nat) (block : Nat) (whole poison : Bool) : List Nat :=
  if poison then (if pl.contains block then pl else pl ++ [block])
  else if whole then pl.filter (· != block) else pl

/-- Write bytes to HBM; out-of-range bytes are discarded (R230). -/
def hbmWriteB (s : State) (addr : Nat) (bs : List Byte) (poison : Bool) : State :=
  let loc := hbmLocs s addr bs.length
  let step := fun (acc : NMap Byte × List (Nat × Nat)) (ib : Nat × Byte) =>
    match loc ib.1 with
    | some (p, o) =>
      let key := hbmKey p o
      let cnt := match acc.2 with
        | (b, c) :: t => if b = hbmBlock key then (b, c + 1) :: t else (hbmBlock key, 1) :: acc.2
        | [] => [(hbmBlock key, 1)]
      (bset acc.1 key ib.2, cnt)
    | none => acc
  let r := ((List.range bs.length).zip bs).foldl step (s.hbm, [])
  { s with hbm := r.1, hbmPoison := r.2.foldl (fun pl bc => hbmPoisonAfter pl bc.1 (bc.2 == 256) poison) s.hbmPoison }

/-- Read a location: 0 host memory, 1 HBM. Data, error class if any (R280), poison. -/
def memRead (s : State) (loc addr n : Nat) : List Byte × Option Nat × Bool :=
  if loc = 0 then (hostRead s addr n, hostErrAt s addr n, hostPoisonAt s addr n)
  else
    let r := hbmRead s addr n
    (r.1, if r.2.2 then some 5 else none, r.2.1)

/-- What is left of a range when the bytes [a, a + n) are taken out of it. -/
def cutRange (a n : Nat) (r : Nat × Nat) : List (Nat × Nat) :=
  (if r.1 < a then [(r.1, min r.2 (a - r.1))] else []) ++
    (if a + n < r.1 + r.2 then [(max r.1 (a + n), r.1 + r.2 - max r.1 (a + n))] else [])

/-- Write bytes to host memory: a poisoned write leaves them poisoned, a clean one clean (R281). -/
def hostPut (s : State) (a : Nat) (bs : List Byte) (poison : Bool) : State :=
  let s1 := hostWrite s a bs
  { s1 with hostPoison := s1.hostPoison.flatMap (cutRange a bs.length) ++ (if poison && !bs.isEmpty then [(a, bs.length)] else []) }

/-- Write a location; a host range that answers an error, and bytes outside HBM, lose their bytes (R230, R280). -/
def memWrite (s : State) (loc addr : Nat) (bs : List Byte) (poison : Bool) : State :=
  if loc = 0 then (if (hostErrAt s addr bs.length).isSome then s else hostPut s addr bs poison)
  else hbmWriteB s addr bs poison

/-- The error class a write meets, if any. -/
def memWriteErr (s : State) (loc addr n : Nat) : Option Nat :=
  if loc = 0 then hostErrAt s addr n
  else if (hbmRead s addr n).2.2 then some 5 else none

/-- Lane words of the Commons: 48 banks of 262,144 (R248). -/
def comWords : Nat := 12582912

/-- The bank in which lane word `a` lies (R248). -/
def comBank (a : Nat) : Nat := a / 16 % 48

/-- The 16-LW word of its bank in which lane word `a` lies (R248, R249). -/
def comRow (a : Nat) : Nat := a / 16 / 48

/-! ## Small arbiters (R336) -/

/-- The requester that a small arbiter of `k` requesters grants among those that wait, each with its wait: round-robin from the
one after the last, and every `n`th grant the one that has waited longest, a tie going to the lower index. -/
def smallPick (k n : Nat) (a : SmallArb) (reqs : List (Nat × Nat)) : Option Nat :=
  if n ≤ a.grants + 1 then
    (reqs.foldl (fun (b : Option (Nat × Nat)) r => match b with
      | some c => if c.2 < r.2 ∨ (c.2 = r.2 ∧ r.1 < c.1) then some r else b
      | none => some r) none).map (·.1)
  else ((List.range k).map fun i => (a.last + 1 + i) % k).find? fun r => reqs.any fun q => q.1 == r

/-- The arbiter after the grant: its pointer has moved past the requester granted. -/
def smallGrant (k n : Nat) (a : SmallArb) (reqs : List (Nat × Nat)) : SmallArb :=
  match smallPick k n a reqs with
  | some r => { last := r, grants := if n ≤ a.grants + 1 then 0 else a.grants + 1 }
  | none => a

/-- A lone request at a small arbiter is granted. -/
def arbTake (s : State) (key r n : Nat) : State :=
  { s with arbs := nset s.arbs key (smallGrant 8 n (ngetD s.arbs key {}) [(r, 0)]) }

/-- Requester `r` accesses a lane word at its Commons bank port, with FAB_SMALL_N.N_COM (R336). DESIGN CHOICE (assumption 71): the
writer of a FIFO is requester 0, its reader 1 and the scrubber 2. -/
def comTake (s : State) (a r : Nat) : State := arbTake s (a / 16 % 48) r (rbits s tkbPg 0 0x200 14 8)

/-- Write a lane word of the Commons, keeping the sparse form; an address past the last word stores nothing. -/
def comPut (s : State) (a : Nat) (w : LW) : State :=
  if comWords ≤ a then s
  else { s with commons := (if w = 0 then ndel s.commons a else nset s.commons a w),
                comPoison := s.comPoison.filter (· != a) }

/-- A lane word of the Commons; past the last word a free value. -/
def comGet (s : State) (a : Nat) : LW := if comWords ≤ a then Config.noLane a else ngetD s.commons a 0

/-! ## Time -/

/-- Device-time nanoseconds. -/
def nowNs (s : State) : Nat := s.dt / 65536
/-- Microseconds and nanoseconds as device time. -/
def usT (n : Nat) : Time := n * 65536000
def nsT (n : Nat) : Time := n * 65536

/-- The cascade correction of a tick: at most 50 ppm (R354). -/
def syncStep (x : Int) : Int := clip3 (-(655360 * 50000)) (655360 * 50000) x

/-- What a tick adds beyond 10 ns, in 2^-16 ns × 10^-9: DT_ADJ, or the slew at its full rate until its offset is used up
(R433, R434), and the cascade correction (R354). -/
def tickExtra (s : State) : Int :=
  (match s.clk.slew with
   | some x => if x = 0 then 655360 * s.clk.adj else clip3 (-(655360 * 500000)) (655360 * 500000) x
   | none => 655360 * s.clk.adj) + syncStep s.clk.sync

/-- What is left of a slew's offset after one tick (R434). -/
def slewLeft (x : Int) : Int := x - clip3 (-(655360 * 500000)) (655360 * 500000) x

/-- The counter runs: the root PLL is locked and the main die has power and is not held in reset (R430, R432). -/
def clockRuns (s : State) : Bool := s.clk.rootLock && s.pwr.mainOn && !s.jtag.held

/-- One TBCLK passes (R432): device time adds 10 ns scaled by the rate, with the remainder carried exactly. -/
def clockTick (s : State) : State :=
  if !clockRuns s then s
  else
    let inc : Nat := (655360 * 1000000000 + tickExtra s).toNat + s.dtRem
    { s with
      tick := s.tick + 1
      dt := (s.dt + inc / 1000000000) % 2 ^ 80
      dtRem := inc % 1000000000
      clk := { s.clk with slew := s.clk.slew.map slewLeft, sync := s.clk.sync - syncStep s.clk.sync } }

/-! ## Carousel gates (R43) -/

/-- Entry `i` of a list: gates and duration. -/
def carEnt (l : CarList) (i : Nat) : Nat := (ngetD l.ents i 0xFF00C350).toNat
def carDur (l : CarList) (i : Nat) : Nat := bits (carEnt l i) 23 0
def carGates (l : CarList) (i : Nat) : Nat := bits (carEnt l i) 31 24

/-- Offset in the cycle at which entry `i` starts. -/
def carOff (l : CarList) : Nat → Nat
  | 0 => 0
  | i + 1 => carOff l i + carDur l i

/-- Offset at which entry `i` ends: the last entry holds to the cycle end, and the cycle end cuts the list (R43). -/
def carEnd (l : CarList) (i : Nat) : Nat := if l.len ≤ i + 1 then l.cycle else min l.cycle (carOff l (i + 1))

/-- The first entry from `i` on whose end lies beyond `pos`. -/
def carFind (l : CarList) (pos : Nat) : Nat → Nat → Nat
  | 0, i => i
  | f + 1, i => if pos < carEnd l i then i else carFind l pos f (i + 1)

/-- Position in the cycle at device time `t`, in 2^-16 ns; a list runs from its base in whole cycles (R44). -/
def carPos (l : CarList) (t : Time) : Nat :=
  let c := l.cycle * 65536
  (t + c - l.base % c) % c

/-- The entry at device time `t`. -/
def carAt (l : CarList) (t : Time) : Nat := carFind l (carPos l t / 65536) l.len 0

/-- The start of the cycle that holds `t`. -/
def carCycleStart (l : CarList) (t : Time) : Time := t - carPos l t

/-- The entries that take time in a cycle, in order: index, start and end as offsets (R43). An entry of DURATION 0 takes none,
and the cycle end cuts the list. -/
def carRuns (l : CarList) : List (Nat × Nat × Nat) :=
  (List.range l.len).filterMap fun i =>
    let st := min l.cycle (carOff l i)
    let en := carEnd l i
    if en ≤ st then none else some (i, st, en)

/-- The instant, as an offset from the present cycle's start, at which the first entry from `cur` on starts whose index fails
a test; none when this cycle and the next hold none, and so no later one does. -/
def carUntil (l : CarList) (ok : Nat → Bool) (cur : Nat) : Option Nat :=
  let rs := carRuns l
  (((rs.filter fun r => decide (cur ≤ r.1)) ++ rs.map fun r => (r.1, r.2.1 + l.cycle, r.2.2)).find? fun r => !ok r.1).map
    fun r => r.2.1

/-- Gate `b` of list `n` is open now: the bit of the operative entry CUR. -/
def gateOpen (s : State) (n b : Nat) : Bool :=
  let c := getCar s n
  carGates c.oper c.cur / 2 ^ b % 2 = 1

/-- The instant at which gate `b` closes, or the operative list ends at a pending start (R325); none when never. -/
def gateClose (s : State) (n b : Nat) : Option Time :=
  let c := getCar s n
  let st := carCycleStart c.oper s.dt
  let close := (carUntil c.oper (fun i => carGates c.oper i / 2 ^ b % 2 == 1) c.cur).map fun o => st + nsT o
  match close, c.pend with
  | none, none => none
  | some t, none => some t
  | none, some p => some p.start
  | some t, some p => some (min t p.start)

/-- An activity of length `d` started now with gate `b` of list `n` open ends before the gate closes. -/
def gateFits (s : State) (n b : Nat) (d : Time) : Bool :=
  gateOpen s n b && (match gateClose s n b with | none => true | some t => decide (s.dt + d ≤ t))

/-- The intervals of a cycle with gate `b`: (duration ns, open), in entry order. -/
def carSegs (l : CarList) (b : Nat) : List (Nat × Bool) :=
  (carRuns l).map fun r => (r.2.2 - r.2.1, carGates l r.1 / 2 ^ b % 2 = 1)

/-- Merge neighbouring intervals of one kind. -/
def mergeSegs : List (Nat × Bool) → List (Nat × Bool)
  | [] => []
  | (d, o) :: t =>
    match mergeSegs t with
    | (d2, o2) :: t2 => if o = o2 then (d + d2, o) :: t2 else (d, o) :: (d2, o2) :: t2
    | [] => [(d, o)]

/-- The cyclic intervals: the last one joins the first when of one kind. -/
def cycSegs (l : List (Nat × Bool)) : List (Nat × Bool) :=
  match mergeSegs l with
  | (d, o) :: t =>
    match t.reverse with
    | (dl, ol) :: tr => if ol = o then (d + dl, o) :: tr.reverse else (d, o) :: t
    | [] => [(d, o)]
  | [] => []

/-- Open intervals shorter than `m` count as closed (R325). -/
def dropShort (m : Nat) (l : List (Nat × Bool)) : List (Nat × Bool) :=
  match l with
  | [(d, o)] => [(d, o)]
  | l => l.map fun p => if p.2 && decide (p.1 < m) then (p.1, false) else p

/-- The longest closed interval g of gate `b` in ns, and its open time per cycle; `m` is the shortest open interval that
counts (5,000 ns for egress, R325). A gate that never opens has g equal to the cycle. -/
def gateGF (l : CarList) (b m : Nat) : Nat × Nat :=
  let sg := cycSegs (dropShort m (cycSegs (carSegs l b)))
  (maxN ((sg.filter fun p => !p.2).map (·.1)), sumN ((sg.filter fun p => p.2).map (·.1)))

/-- The instant at which the last L24 window opened; none before the list of R45 runs. -/
def lastL24 (s : State) : Option Time :=
  let c := getCar s 24
  if c.oper.ents.isEmpty then none
  else
    let st := carCycleStart c.oper s.dt
    ((((List.range c.oper.len).filter fun i => carGates c.oper i % 2 = 1).map fun i => st + nsT (carOff c.oper i)).filter
      fun t => decide (t ≤ s.dt)).getLast?

/-- The instant the next L24 window opens: the next entry of L24 with gate bit 0 set that starts after now (R45, R238). -/
def nextL24 (s : State) : Option Time :=
  let c := getCar s 24
  if c.oper.ents.isEmpty then none
  else
    let st := carCycleStart c.oper s.dt
    let starts := ((List.range c.oper.len).filter fun i => carGates c.oper i % 2 = 1).map fun i => st + nsT (carOff c.oper i)
    match starts.filter (fun t => s.dt < t) with
    | t :: _ => some t
    | [] => some (st + nsT c.oper.cycle)

/-! ## Token buckets (R324, R326) -/

/-- Tokens after `ticks` TBCLK at `rate` units each, capped. -/
def refill (tok ticks rate cap : Nat) : Nat := min cap (tok + ticks * rate)

/-- The two-rate three-colour marker of RFC 2698 (R326): colour 0 green, 1 yellow, 2 red, and the tokens left. `aware` with
pre-colour `pre`. -/
def trTcm (aware : Bool) (pre size tc tp : Nat) : Nat × Nat × Nat :=
  let pre := if aware then (if 3 ≤ pre then 2 else pre) else 0
  if pre = 2 ∨ tp < size then (2, tc, tp)
  else if pre = 1 ∨ tc < size then (1, tc, tp - size)
  else (0, tc - size, tp - size)

end Sys2Proof.Machine
end

