-- ==== Sys2Proof/Machine/Flags.lean ====
section
/-! DEFINITION. Every flag and event of the device: page events and their Crier sources (R60, R63, R452–R455), fault
sources with their log and severities (R444–R447), and the fault state (R448). -/
namespace Sys2Proof.Machine

/-- The page of a Crier page source: the inverse of R452. -/
def srcPage (n : Nat) : Option Nat :=
  if n < 104 then some (tilePage n)
  else if n < 136 then some (hbmPage (n - 104))
  else if n < 138 then some (phyPage (n - 136))
  else if n < 170 then some (dmaPage (n - 138))
  else if n < 178 then some (crcPage (n - 170))
  else if n < 186 then some (sensorPage (n - 178))
  else if n < 188 then some (ethPage (n - 186))
  else if n = 188 then some schedPg
  else if n < 193 then some (sfPage (n - 189))
  else if n = 193 then some cascPg
  else if n < 200 then some (n - 194)
  else if n = 201 then some tkbPg
  else if 202 ≤ n ∧ n < 210 then some (carPage (n - 202))
  else if n = 210 then some qmgrPg
  else if n = 211 then some grnPg
  else if n = 212 then some fifoPg
  else if n = 213 then some perfPg
  else if n = 214 then some debugPg
  else if n = 215 then some tmuxPg
  else none

/-- A Crier source that exists (R452). -/
def srcExists (n : Nat) : Bool :=
  (srcPage n).isSome || n == 216 || n == 217 || n == 224 || n == 225 || (decide (256 ≤ n) && decide (n < 512))

/-- A source is asserted (R452, R63). -/
def srcLevel (s : State) (n : Nat) : Bool :=
  match srcPage n with
  | some p => (hdr s p).evtPend &&& (hdr s p).evtEn != 0
  | none => srcExists n && (getSrc s n).level

/-- CRIER_SRC_CFG of a source (R458). -/
def srcCfg (s : State) (n : Nat) : Nat := rgetN s crierPg n 0x184

/-- A source is pending: asserted, enabled and not taken (R453). -/
def srcPending (s : State) (n : Nat) : Bool := srcLevel s n && srcCfg s n % 2 == 1 && (getSrc s n).owner.isNone

/-- When a source with HOST_EN becomes asserted the Crier sends the MSI-X message of HOST_VEC (R455). -/
def tell (s : State) (n : Nat) : State :=
  let c := getSrc s n
  let l := srcLevel s n
  if l = c.told then s
  else
    let s1 := setSrc s n { c with told := l }
    if l && srcCfg s n / 2 % 2 == 1 then sendMsix s1 (bits (srcCfg s n) 26 16) else s1

/-- The Crier source of a page, told of a change of its level. -/
def tellPage (s : State) (page : Nat) : State :=
  match pageAt page with
  | some (k, i) => match crierSrc k i with
    | some n => tell s n
    | none => s
  | none => s

/-- Set EVT_PEND bits of a page (R60). -/
def setEvts (s : State) (page : Nat) (mask : U32) : State :=
  let h := hdr s page
  tellPage (setHdr s page { h with evtPend := h.evtPend ||| mask }) page

/-- Set one EVT_PEND bit. -/
def setEvt (s : State) (page bit : Nat) : State := setEvts s page (BitVec.ofNat 32 (2 ^ bit))

/-- Clear EVT_PEND bits (W1C). -/
def clearEvts (s : State) (page : Nat) (mask : U32) : State :=
  let h := hdr s page
  tellPage (setHdr s page { h with evtPend := h.evtPend &&& ~~~mask }) page

/-- Write EVT_EN. -/
def putEvtEn (s : State) (page : Nat) (v : U32) : State :=
  tellPage (setHdr s page { hdr s page with evtEn := v }) page

/-- Assert or deassert a software, Island or fault source. -/
def setLevel (s : State) (n : Nat) (l : Bool) : State := tell (setSrc s n { getSrc s n with level := l }) n

/-- The fault ID of a source (R444). -/
def faultId (page src : Nat) : Nat := page * 16 + src

/-- FLT_SEV of a source (R14, R445). -/
def sevOf (s : State) (page src : Nat) : Nat := rbits s page 0 0x020 (2 * src + 1) (2 * src)

/-- Whether CONTAIN is accepted for a source (R445): pages that can be fenced, and IVR_TILE. -/
def sevContain (k : PageKind) (src : Nat) : Bool := canFence k || (k == .pwr && src == 2)

/-- What an FLT_SEV field of a source stores when `v` is written (R14, R225, R445). -/
def sevStore (k : PageKind) (src v : Nat) : Nat :=
  if !hasFlt k src then 0
  else if fltFixed k src then 3
  else if k = .tile ∧ src = 0 then (if v < 2 then 2 else v)
  else if v = 2 ∧ !sevContain k src then 1
  else v % 4

/-- Append an entry to the fault log (R446, R451). -/
def logFault (s : State) (e : LogEnt) : State :=
  let f := s.flt
  let full := decide (64 ≤ f.log.length)
  let s1 := setEvt { s with flt := { f with
    log := (e :: f.log).take 64, head := (f.head + 1) % 256, wrapped := f.wrapped || full } } fltPg 0
  if full then setEvt s1 fltPg 2 else s1

/-- An Ethernet frame on a wire ends with an invalid FCS (R422, R448). -/
def dropFrames (s : State) : State :=
  [0, 1].foldl (fun s p =>
    if (getPort s p).cur.isSome then
      setPort (if (getEth s p).linkUp && rbits s (ethPage p) 0 0x100 0 0 == 1 then emit s (.badFcs p) else s) p
        { getPort s p with cur := none }
    else s) s

/-- Enter the fault state (R448): the first fatal record, the AER report, and the end of Ethernet frames on the wire. -/
def enterFault (s : State) (id : Nat) : State :=
  if s.flt.fault then s
  else
    let s1 := dropFrames s
    emit { s1 with flt := { s1.flt with fault := true, first := s1.flt.first.orElse fun _ => some (id, s.dt) } } .aer

/-- Fence a page's block (R447). -/
def fencePage (s : State) (page : Nat) : State := setHdr s page { hdr s page with fenced := true }

/-- The page a CONTAIN severity fences: the raising page, or for IVR_TILE the tile named by the rail (R445). -/
def fenceTarget (k : PageKind) (page src info : Nat) : Option Nat :=
  if k = .pwr ∧ src = 2 then (if info < 104 then some (tilePage info) else none)
  else if canFence k then some page else none

/-- The effects of a severity except the breaches of CONTAIN (R447): every severity includes the ones below it. -/
def applySev (s : State) (k : PageKind) (page src info sev : Nat) : State :=
  let s1 := if 1 ≤ sev then setLevel s 224 true else s
  let s2 := if 2 ≤ sev then
      setLevel (match fenceTarget k page src info with
        | some p => fencePage s1 p
        | none => s1) 225 true
    else s1
  if sev = 3 then enterFault s2 (faultId page src) else s2

/-- A forced release of a lock (R71). -/
def breakLock (h : PageHdr) : PageHdr :=
  if h.lockHeld then { h with lockHeld := false, lockBroken := true, lockOwner := 0x7FF, lockClass := none } else h

/-- Break every page lock recorded with a requester class that took a reset (R71). -/
def breakClass (s : State) (rq : Requester) : State :=
  { s with hdrs := s.hdrs.map fun e => if e.2.lockClass == some rq then (e.1, breakLock e.2) else e }

/-- A lockstep fault of a Steward breaks the locks recorded with it (R71); the log info names the Steward (R445). -/
def lockstepBreak (s : State) (page src info : Nat) : State :=
  if page = fltPg ∧ src = 1 then
    (match ([0, 1, 2, 3] : List (Fin 4)).find? fun n => n.val == info with
     | some n => breakClass s (.steward n)
     | none => s)
  else s

/-- The severity that a raise has (R14, R446): what FLT_SEV holds now, and of a source that is still pending the higher of
that and the severity kept. -/
def raiseSev (s : State) (page src : Nat) : Nat :=
  let h := hdr s page
  if h.fltSrc.getLsbD src then max (sevOf s page src) (bits h.sevKept.toNat (2 * src + 1) (2 * src)) else sevOf s page src

/-- Keep a severity as the pending one of a source (R14). -/
def keepSev (h : PageHdr) (src sev : Nat) : PageHdr :=
  { h with sevKept := BitVec.ofNat 32 (setBits h.sevKept.toNat (2 * src + 1) (2 * src) sev) }

/-- Raise a fault source (R446), without the breaches of CONTAIN: set the bit, log it or count a repeat, apply the
severity. -/
def raiseBase (s : State) (page src info : Nat) : State :=
  match pageAt page with
  | none => s
  | some (k, _) =>
    if !hasFlt k src then s
    else
      let sev := raiseSev s page src
      let h := keepSev (hdr s page) src sev
      let s1 := if h.fltSrc.getLsbD src then bump (setHdr s page h) fltPg 0 0x128 1
        else logFault (setHdr s page { h with fltSrc := h.fltSrc ||| BitVec.ofNat 16 (2 ^ src) })
          ⟨info % 256, decide (sev = 3 ∧ !s.flt.fault), sev, faultId page src, s.dt⟩
      lockstepBreak (applySev s1 k page src info sev) page src info

/-! ## Breaches (R50, R447) -/

/-- The channel bound to a host-fed context (R282). -/
def boundDma (s : State) (c : Nat) : Option Nat := (s.dmas.find? fun d => d.2.bound == some c).map (·.1)

/-- The pages of the blocks other than tiles that an admitted context needs (R445, R447). -/
def ctxPages (s : State) (c : Nat) (x : Ctx) : List Nat :=
  (regionPcs s x.adm.mp).map (fun p => hbmPage (p / 2)) ++ [grnPg, fifoPg] ++
    (if 3 ≤ Ct.port x.block ∧ Ct.port x.block ≤ 6 then [sfPage (Ct.port x.block - 3)] else []) ++
    (match boundDma s c with | some d => [dmaPage d] | none => [])

/-- The cause of a CONTAIN breach of a page's fault (R445). -/
def containCause (k : PageKind) : Nat :=
  match k with
  | .tile | .pwr => 2
  | .selfold => 4
  | _ => 1

/-- Give every selected picture of a context that has no cause yet this cause (R50: the first detected stands, and of two
at one instant the lower code). -/
def markPics (x : Ctx) (sel : Pic → Bool) (cause : Nat) : Ctx :=
  { x with pics := x.pics.map fun p => if !p.done && p.cause == 0 && sel p then { p with cause := cause } else p }

/-- Mark the selected pictures of every admitted context that satisfies a test. -/
def markCtxs (s : State) (which : Nat → Ctx → Bool) (sel : Nat → Pic → Bool) (cause : Nat) : State :=
  { s with ctxs := s.ctxs.map fun e =>
      if e.2.kind = .admitted ∧ which e.1 e.2 = true then (e.1, markPics e.2 (sel e.1) cause) else e }

/-- The pictures with a job on tile `t`. -/
def picOnTile (s : State) (t c : Nat) (p : Pic) : Bool :=
  s.jobs.any fun j => j.ctx == c && j.pic == p.id && j.tile == some t

/-- The breaches of a CONTAIN raise: the frames in flight that use the fenced block (R447). -/
def containBreach (s : State) (k : PageKind) (page src info : Nat) : State :=
  match k with
  | .tile => markCtxs s (fun _ _ => true) (picOnTile s (page - tilePage 0)) 2
  | .pwr => if src = 2 then markCtxs s (fun _ _ => true) (picOnTile s info) 2 else s
  | _ => if canFence k then markCtxs s (fun c x => (ctxPages s c x).contains page) (fun _ _ => true) (containCause k) else s

/-- Raise a fault source with everything its severity does (R446, R447); the fault state stops completions, so a FATAL
raise marks no frame. -/
def raiseFault (s : State) (page src info : Nat) : State :=
  match pageAt page with
  | none => s
  | some (k, _) =>
    let sev := raiseSev s page src
    let s1 := raiseBase s page src info
    if sev = 2 ∧ hasFlt k src = true ∧ !s.flt.fault then containBreach s1 k page src info else s1

/-- The cause with which a frame of a context breaches because a block it needs is fenced or a tile of it has no
replacement (R50, R447); 0 none. -/
def fenceCause (s : State) (c : Nat) (x : Ctx) : Nat :=
  let ps := (ctxPages s c x).filter fun p => (hdr s p).fenced
  if ps.any (fun p => p < sfPage 0 ∨ sfPage 3 < p) then 1
  else if x.lame then 2
  else if !ps.isEmpty then 4
  else 0

/-- A block performs no operation while it is fenced or in reset (R62, R447, assumption 11), or while its data crossing shows full
to the writer and empty to the reader (R440). -/
def blockUp (s : State) (page : Nat) : Bool :=
  !(hdr s page).fenced && !(hdr s page).inReset && !(hdr s page).xing.resync

/-! ## Errors of memory accesses (R230, R235, R241, R250) -/

/-- The page of a pseudo-channel. -/
def pcPage (pc : Nat) : Nat := hbmPage (pc / 2)

/-- A fault of a controller page with its EVT_PEND bit (R250). -/
def hbmFault (s : State) (page src : Nat) : State := setEvt (raiseFault s page src 0) page src

/-- Blocks of one pseudo-channel (R229). -/
def pcBlocks : Nat := 0x2D0000

/-- Record the most recent error of a pseudo-channel (R250): kind 1 corrected, 2 poisoned, 3 parity; its block by the linear
number. -/
def hbmInfo (s : State) (pc kind block : Nat) : State :=
  rput64 (rputN s (pcPage pc) 0 0x118 (2 ^ 31 + kind * 2 ^ 29 + pc % 2 * 2 ^ 28 + block % pcBlocks)) (pcPage pc) 0 0x11C (nowNs s)

/-- A poisoned delivery (R241): the UE count and HBM_UE. -/
def hbmUe (s : State) (pc block : Nat) : State :=
  hbmFault (hbmInfo (bump16 s (pcPage pc) 0 0x10C (16 * (pc % 2)) 1) pc 2 block) (pcPage pc) 0

/-- An access out of range raises HBM_RANGE on the page of channel 0 (R230). -/
def rangeFault (s : State) : State := hbmFault s (hbmPage 0) 5

/-- The same, when the class of an access to a location says so. -/
def noteRange (s : State) (loc : Nat) (err : Option Nat) : State := if loc != 0 && err == some 5 then rangeFault s else s

/-- The poisoned blocks that the bytes of an HBM access touch: linear number, once for each byte in it. -/
def badBlocks (s : State) (addr n : Nat) : List Nat :=
  if s.hbmPoison.isEmpty then []
  else
    let loc := hbmLocs s addr n
    ((List.range n).filterMap fun i => (loc i).map fun l => hbmBlock (hbmKey l.1 l.2)).filter s.hbmPoison.contains

/-- Count and raise the poisoned blocks of a list, each once (R241). -/
def ueBlocks (s : State) (l : List Nat) : State := l.eraseDups.foldl (fun s b => hbmUe s (b / pcBlocks) b) s

/-- Poisoned blocks that a write of HBM bytes alters in part: its read half meets them (R235). -/
def partBad (s : State) (loc addr n : Nat) : List Nat :=
  if loc = 0 then [] else (badBlocks s addr n).filter fun b => (badBlocks s addr n).count b != 256

/-- Read a location with what the access raises: data, error class, poison. -/
def readLoc (s : State) (loc addr n : Nat) : (List Byte × Option Nat × Bool) × State :=
  let r := memRead s loc addr n
  (r, noteRange (if loc = 0 then s else ueBlocks s (badBlocks s addr n)) loc r.2.1)

/-- Some bytes of a write fall on a part of a poisoned block (R235). -/
def meetsPoison (s : State) (loc addr n : Nat) : Bool := !(partBad s loc addr n).isEmpty

/-- The frame of a picture is reported with cause MEM_UE (R50, R235, R241). -/
def markUe (s : State) (c pic : Nat) : State := markCtxs s (fun k _ => k == c) (fun _ p => p.id == pic) 1

/-- Write a location with what the access raises. -/
def writeLoc (s : State) (loc addr : Nat) (bs : List Byte) (poison : Bool) : State :=
  noteRange (ueBlocks (memWrite s loc addr bs poison) (partBad s loc addr bs.length)) loc (memWriteErr s loc addr bs.length)

end Sys2Proof.Machine
end

