-- ==== Sys2Proof/Machine/Counters.lean ====
section
/-! DEFINITION. The performance counters (R459–R462): global counters GC0–GC31 (`none`) and a tile's TC0–TC15 (`some t`). The
meanings count the events that a command shows; cycles and events inside a tile or the fabric that no command shows reach a
counter through COUNTER_WRAP only (assumption 47). -/
namespace Sys2Proof.Machine

/-- The bank of a set of counters on the PERF page: that of the named tile, or the page's own (R466). -/
def perfBank : Option Nat → Nat
  | none => 0
  | some t => 16 + t

/-- How many counters a set has (R459). -/
def perfCount : Option Nat → Nat
  | none => 32
  | some _ => 16

/-- Offsets of a counter's configuration, its value and the set's OVF word (R466). -/
def cfgOff (t : Option Nat) (n : Nat) : Nat := (if t.isSome then 0x300 else 0x200) + 4 * n
def cntOff (t : Option Nat) (n : Nat) : Nat := (if t.isSome then 0x340 else 0x280) + 4 * n
def ovfOff (t : Option Nat) : Nat := if t.isSome then 0x10C else 0x108

/-- PERF_CTRL.RUN (R462). -/
def perfRun (s : State) : Bool := rbits s perfPg 0 0x100 0 0 == 1

/-- The configuration word of a counter. -/
def perfCfg (s : State) (t : Option Nat) (n : Nat) : Nat := rgetN s perfPg (perfBank t) (cfgOff t n)

/-- The counter counts: RUN and its own EN (R462). -/
def counts (s : State) (t : Option Nat) (n : Nat) : Bool := perfRun s && perfCfg s t n / 2 ^ 10 % 2 == 1

/-- The counter has CHAIN set (R461). -/
def chained (s : State) (t : Option Nat) (n : Nat) : Bool := perfCfg s t n / 2 ^ 11 % 2 == 1

/-- A counter's overflow (R461, R462): its OVF bit; with OVF_IE the page event, and with FRZ_OVF the end of RUN. -/
def overflow (s : State) (t : Option Nat) (n : Nat) : State :=
  let b := perfBank t
  let s1 := rputN s perfPg b (ovfOff t) (rgetN s perfPg b (ovfOff t) ||| 2 ^ n)
  if perfCfg s t n / 2 ^ 12 % 2 = 1 then
    let s2 := setEvt s1 perfPg (if t.isSome then 1 else 0)
    if rbits s2 perfPg 0 0x100 1 1 = 1 then rputN s2 perfPg 0 0x100 (setBits (rgetN s2 perfPg 0 0x100) 0 0 0) else s2
  else s1

/-- Counter `n` adds `k`; its wraps are counted by the counter that chains from it (R461). The first argument bounds the
chain. -/
def perfAdd (t : Option Nat) : Nat → State → Nat → Nat → State
  | 0, s, _, _ => s
  | f + 1, s, n, k =>
    let v := rgetN s perfPg (perfBank t) (cntOff t n) + k
    let s1 := rputN s perfPg (perfBank t) (cntOff t n) (v % 2 ^ 32)
    if v < 2 ^ 32 then s1
    else
      let up := decide (n + 1 < perfCount t) && chained s t (n + 1) && counts s t (n + 1)
      overflow (if up then perfAdd t f s1 (n + 1) (v / 2 ^ 32) else s1) t n

/-- `k` occurrences of an event are counted by every counter of a set that selects it (R459, R460). -/
def perfEvt (t : Option Nat) (ev k : Nat) (s : State) : State :=
  if !perfRun s || k == 0 then s
  else
    ((List.range (perfCount t)).filter fun n => counts s t n && !chained s t n && perfCfg s t n % 2 ^ 10 == ev).foldl
      (fun s n => perfAdd t 32 s n k) s

/-- A global event (0x100–0x3FF). -/
def evG (ev : Nat) (s : State) : State := perfEvt none ev 1 s

/-- A tile event (0x000–0x0FF). -/
def evT (t ev : Nat) (s : State) : State := perfEvt (some t) ev 1 s

/-- COUNTER_WRAP (R461): a counter that counts passes 0xFFFF_FFFF; a chained one wraps only through the counter before it. -/
def counterWrap (t : Option Nat) (n : Nat) (s : State) : State :=
  if decide (n < perfCount t) && t.all (fun i => decide (i < 104)) && counts s t n && !chained s t n then
    perfAdd t 32 s n (2 ^ 32 - rgetN s perfPg (perfBank t) (cntOff t n))
  else s

def execCounterWrap (tile : Option Nat) (counter : Nat) (s : State) : Out := act (counterWrap tile counter) s

end Sys2Proof.Machine
end

