-- ==== Sys2Proof/Machine/Fifos.lean ====
section
/-! DEFINITION. The Commons error handling (R249, R252) and the FIFO engine (R264–R270). -/
namespace Sys2Proof.Machine

/-! ## Commons errors -/

/-- A corrected Commons word (R249, R252). -/
def comCe (s : State) (a : Nat) : State :=
  let s1 := rputN (bump s fifoPg 0 0x180 1) fifoPg 0 0x188 a
  let lim := rgetN s1 fifoPg 0 0x18C
  if lim ≠ 0 ∧ rgetN s1 fifoPg 0 0x180 = lim then raiseFault s1 fifoPg 15 0 else s1


/-! ## FIFO geometry and pointers -/

/-- The instance is operatively enabled. -/
def fifoOn (s : State) (f : Nat) : Bool := rbits s fifoPg f 0x200 0 0 == 1
/-- SIZE_LOG2 of an instance. -/
def fifoLog (s : State) (f : Nat) : Nat := rbits s fifoPg f 0x200 12 8
/-- The Commons address of a pointer. -/
def fifoAddr (s : State) (f p : Nat) : Nat := rgetN s fifoPg f 0x204 + p % 2 ^ fifoLog s f

/-- Occupancy: the distance from Rel to W (R269). -/
def fifoOcc (n : Nat) (x : Fifo) : Nat := ringDist n x.rel x.w

/-- The mark is set and lies at or behind Rel (R268). -/
def fifoHeld (n : Nat) (x : Fifo) : Bool := x.marked && decide (ringDist n x.rel x.w ≤ ringDist n x.m x.w)

/-- The producer's limit L (R268). -/
def fifoLimit (n : Nat) (x : Fifo) : Nat := if fifoHeld n x then x.m else x.rel

/-- Words the producer may write before it stalls (R268). -/
def fifoRoom (n : Nat) (x : Fifo) : Nat := 2 ^ n - ringDist n (fifoLimit n x) x.w

/-- Advance a pointer. -/
def fifoAdd (n p k : Nat) : Nat := (p + k) % 2 ^ (n + 1)

/-- Words of an egress FIFO that a unit takes, and those of them that no packet has taken yet. -/
def unitWords (u : EgUnit) : Nat := (u.bytes.length + 3) / 4
def leftWords (u : EgUnit) : Nat := unitWords u - (u.sent + 3) / 4

/-- The unit, of those in an egress FIFO newest first, whose words hold the word `d` words before W. -/
def unitAt : List EgUnit → Nat → Option EgUnit
  | [], _ => none
  | u :: t, d => if d ≤ unitWords u then some u else unitAt t (d - unitWords u)

/-- The frame whose data a Commons word holds (R241, R249): of an egress FIFO the picture of the unit written there, of an
input row FIFO the open frames of the context its port feeds. -/
def markWord (s : State) (f a : Nat) : State :=
  let n := fifoLog s f
  let x := getFifo s f
  let d := ringDist n (a - rgetN s fifoPg f 0x204 + (if a - rgetN s fifoPg f 0x204 < x.rel % 2 ^ n then 2 ^ n else 0) +
    x.rel / 2 ^ n * 2 ^ n) x.w
  if !fifoOn s f || decide (a < rgetN s fifoPg f 0x204) || decide (rgetN s fifoPg f 0x204 + 2 ^ n ≤ a) || d == 0 ||
      decide (fifoOcc n x < d) then s
  else if f < 32 then
    markCtxs s (fun c _ => c == rbits s (sensorPage (f / 4)) 0 0x108 10 0) (fun _ p => !p.closed) 1
  else match unitAt ((s.flows.flatMap fun e => e.2.units.filter fun u => u.fifo == f).reverse) d with
    | some u => markCtxs s (fun c _ => c == u.ctx) (fun _ p => p.id == u.pic) 1
    | none => s

/-- An uncorrectable Commons word: it is delivered poisoned, and its frame is reported with cause MEM_UE (R241, R249, R252). -/
def comUe (s : State) (a : Nat) : State :=
  let s1 := rputN (bump s fifoPg 0 0x184 1) fifoPg 0 0x188 a
  let s2 := (List.range 216).foldl (fun s f => markWord s f a) s1
  raiseFault { s2 with comPoison := if s2.comPoison.contains a then s2.comPoison else s2.comPoison ++ [a] } fifoPg 14 0

/-- Store an instance and note its level crossing and highest occupancy (R269, R270). -/
def fifoStore (s : State) (f : Nat) (x : Fifo) : State :=
  let n := fifoLog s f
  let occ := fifoOcc n x
  let lvl := rbits s fifoPg f 0x208 20 0
  let up := decide (lvl ≠ 0 ∧ lvl ≤ occ)
  let x1 := { x with above := up, stalled := x.stalled && decide (fifoRoom n x < x.need) }
  let s1 := setFifo s f x1
  let i := f % 256
  let s2 := if rgetN s1 fifoPg i 0x228 < occ then rputN s1 fifoPg i 0x228 occ else s1
  if up && !x.above then
    rputN s2 fifoPg 0 (0x1A0 + 4 * (i / 32)) (rgetN s2 fifoPg 0 (0x1A0 + 4 * (i / 32)) ||| 2 ^ (i % 32))
  else s2

/-- The producer stalls for room of `k` words (R268); a stall that lasts goes on. -/
def fifoStall (s : State) (f k : Nat) : State :=
  let x := getFifo s f
  if x.stalled then s else setFifo s f { x with stalled := true, stallAt := s.tick, need := k, stallTold := false }

/-- Write one word: markers in bits 32 and 33, valid bytes of a packet end in bits [35:34] (R265). -/
def fifoPut (s : State) (f : Nat) (w : LW) : State :=
  let n := fifoLog s f
  let x := getFifo s f
  fifoStore (comPut (comTake s (fifoAddr s f x.w) 0) (fifoAddr s f x.w) w) f
    { x with w := fifoAdd n x.w 1, inPkt := !w.getLsbD 33, stalled := false, stallTold := false }

/-- The words of a packet of bytes (R265). -/
def pktWords (first : Bool) : List Byte → List LW
  | [] => []
  | [a] => [BitVec.ofNat 36 (leNat [a] + (if first then 2 ^ 32 else 0) + 2 ^ 33)]
  | [a, b] => [BitVec.ofNat 36 (leNat [a, b] + (if first then 2 ^ 32 else 0) + 2 ^ 33 + 2 ^ 34)]
  | [a, b, c] => [BitVec.ofNat 36 (leNat [a, b, c] + (if first then 2 ^ 32 else 0) + 2 ^ 33 + 2 * 2 ^ 34)]
  | [a, b, c, d] => [BitVec.ofNat 36 (leNat [a, b, c, d] + (if first then 2 ^ 32 else 0) + 2 ^ 33 + 3 * 2 ^ 34)]
  | a :: b :: c :: d :: t => BitVec.ofNat 36 (leNat [a, b, c, d] + (if first then 2 ^ 32 else 0)) :: pktWords false t

/-- Write a whole packet when it fits (R268). -/
def fifoPush (s : State) (f : Nat) (bs : List Byte) : State := (pktWords true bs).foldl (fun s w => fifoPut s f w) s

/-- A packet of `n` bytes fits now. -/
def fifoFits (s : State) (f n : Nat) : Bool :=
  fifoOn s f && decide ((n + 3) / 4 ≤ fifoRoom (fifoLog s f) (getFifo s f))

/-- The next `k` words of a FIFO from Rd, at most those written. -/
def fifoNext (s : State) (f k : Nat) : List Nat :=
  let x := getFifo s f
  (List.range (min k (ringDist (fifoLog s f) x.rd x.w))).map fun i => fifoAddr s f (x.rd + i)

/-- Some of the next `k` words is poisoned (R265). -/
def fifoPoison (s : State) (f k : Nat) : Bool := (fifoNext s f k).any s.comPoison.contains

/-- Bytes of the packet from pointer `p` on, and whether its end is written (R269); `k` words at most. -/
def fifoPkt (s : State) (f p w : Nat) : Nat → Nat × Bool
  | 0 => (0, false)
  | k + 1 =>
    if p = w then (0, false)
    else
      let x := comGet s (fifoAddr s f p)
      if x.getLsbD 33 then (bits x.toNat 35 34 + 1, true)
      else
        let r := fifoPkt s f (fifoAdd (fifoLog s f) p 1) w k
        (r.1 + 4, r.2)

/-- The consumer may read the word at Rd: there is one, and a packet's first word waits for CT bytes or the packet end
(R267, R269). -/
def fifoReadable (s : State) (f : Nat) : Bool :=
  let x := getFifo s f
  let n := fifoLog s f
  if !fifoOn s f || x.rd == x.w then false
  else if (comGet s (fifoAddr s f x.rd)).getLsbD 32 then
    let p := fifoPkt s f x.rd x.w (ringDist n x.rd x.w)
    let ct := rbits s fifoPg f 0x20C 23 0
    p.2 || (ct != 0 && decide (ct ≤ p.1))
  else true

/-- Name the instance of the most recent fault. -/
def fifoFault (s : State) (f src : Nat) : State := raiseFault (rputN s fifoPg 0 0x190 f) fifoPg src f

/-- An uncorrectable word read from an instance (R265). -/
def fifoUe (s : State) (f a : Nat) : State := fifoFault (comUe (bump s fifoPg f 0x230 1) a) f 1

/-- The consumer reads and releases `k` words of a packet that egress or the link engine takes; poisoned ones are counted and
raised as FIFO_READ does (R265). -/
def fifoTake (s : State) (f k : Nat) : State :=
  let n := fifoLog s f
  let x := getFifo s f
  let k := min k (ringDist n x.rd x.w)
  let s0 := (fifoNext s f k).foldl (fun s a => comTake s a 1) s
  let s1 := ((fifoNext s f k).filter s.comPoison.contains).foldl (fun s a => fifoUe s f a) s0
  fifoStore s1 f { x with rd := fifoAdd n x.rd k, rel := fifoAdd n x.rd k }

/-- `k` words of a FIFO from Rd on are discarded unread (R318). -/
def fifoSkip (s : State) (f k : Nat) : State :=
  let n := fifoLog s f
  let x := getFifo s f
  let k := min k (ringDist n x.rd x.w)
  fifoStore s f { x with rd := fifoAdd n x.rd k, rel := fifoAdd n x.rd k }

/-! ## Meanings -/

/-- FIFO_WRITE (R268): write the word, or stall the producer. -/
def fifoWrite (f : Nat) (w : LW) (s : State) : State :=
  let n := fifoLog s f
  let x := getFifo s f
  if 256 ≤ f ∨ !fifoOn s f ∨ !blockUp s fifoPg then s
  else if fifoRoom n x = 0 then
    fifoStall s f 1
  else fifoPut s f w

/-- FIFO_READ (R267, R265): the next word, corrected (err 1) or delivered poisoned (err 2, bit 36 of the output). -/
def fifoRead (f err : Nat) (s : State) : State :=
  if 256 ≤ f ∨ !blockUp s fifoPg ∨ !fifoReadable s f then s
  else
    let n := fifoLog s f
    let x := getFifo s f
    let a := fifoAddr s f x.rd
    let bad := err = 2 ∨ s.comPoison.contains a = true
    let s0 := comTake s a 1
    let s1 := if bad then fifoUe s0 f a else if err = 1 then comCe (bump s0 fifoPg f 0x22C 1) a else s0
    fifoStore { s1 with out := (comGet s a).toNat + (if bad then 2 ^ 36 else 0) } f { x with rd := fifoAdd n x.rd 1 }

/-- FIFO_RELEASE (R267): advance Rel, at most to Rd. -/
def fifoRelease (f words : Nat) (s : State) : State :=
  if 256 ≤ f ∨ !fifoOn s f then s
  else
    let n := fifoLog s f
    let x := getFifo s f
    fifoStore s f { x with rel := fifoAdd n x.rel (min words (ringDist n x.rel x.rd)) }

/-- FIFO_MARK (R267); a limit that moves forward ends a stall (R268). -/
def fifoMark (f : Nat) (s : State) : State :=
  if 256 ≤ f ∨ !fifoOn s f then s else fifoStore s f { getFifo s f with m := (getFifo s f).rd, marked := true }

/-- FIFO_REWIND (R267): back to the mark, Rel too when it lies beyond it; discarded with no mark. -/
def fifoRewind (f : Nat) (s : State) : State :=
  let n := fifoLog s f
  let x := getFifo s f
  if 256 ≤ f ∨ !fifoOn s f ∨ !x.marked then s
  else fifoStore s f { x with rd := x.m, rel := if fifoHeld n x then x.m else x.rel }

/-- FIFO_UNMARK (R267). -/
def fifoUnmark (f : Nat) (s : State) : State :=
  if 256 ≤ f ∨ !fifoOn s f then s else fifoStore s f { getFifo s f with marked := false }

/-- FIFO_MARK_STALL (R268): a stall held by the mark for longer than FIFO_STALL_LIM FCLK (16 to a TBCLK), once a stall. -/
def fifoMarkStall (f : Nat) (s : State) : State :=
  let n := fifoLog s f
  let x := getFifo s f
  if f < 256 ∧ x.stalled = true ∧ fifoRoom n x < x.need ∧ fifoHeld n x = true ∧ x.stallTold = false ∧
      rbits s fifoPg f 0x210 23 0 < (s.tick - x.stallAt) * 16 then
    fifoFault (bump (setFifo s f { x with stallTold := true }) fifoPg f 0x234 1) f 0
  else s

def execFifoRead (fifo err : Nat) (s : State) : Out := act (fifoRead fifo err) s
def execFifoRelease (fifo words : Nat) (s : State) : Out := act (fifoRelease fifo words) s
def execFifoMark (fifo : Nat) (s : State) : Out := act (fifoMark fifo) s
def execFifoRewind (fifo : Nat) (s : State) : Out := act (fifoRewind fifo) s
def execFifoUnmark (fifo : Nat) (s : State) : Out := act (fifoUnmark fifo) s
def execFifoMarkStall (fifo : Nat) (s : State) : Out := act (fifoMarkStall fifo) s

/-- COMMONS_SCRUB (R249): one word of every bank is read every 1,024 FCLK; of the lane words read, corrected ones count, and
uncorrectable ones, those found so before among them, are poisoned. The position moves on by one word of 16 LW. -/
def commonsScrub (errs : List CommonsErr) (s : State) : State :=
  let here := errs.filter fun e => comRow e.addr == s.comScrub
  let old := s.comPoison.filter fun a => comRow a == s.comScrub && !here.any fun e => e.addr == a
  (here ++ old.map fun a => (⟨a, true⟩ : CommonsErr)).foldl (fun s (e : CommonsErr) => if e.double then comUe s e.addr else comCe s e.addr)
    { (List.range 48).foldl (fun s b => comTake s (16 * b) 2) s with comScrub := (s.comScrub + 1) % 16384 }

def execCommonsScrub (errs : List CommonsErr) (s : State) : Out := act (commonsScrub errs) s

end Sys2Proof.Machine
end

