-- ==== Sys2Proof/Machine/Links.lean ====
section
/-! DEFINITION. Selfold flits and the link engine's sending side (R347–R351). -/
namespace Sys2Proof.Machine

/-- A flit's header and payload with its CRC (R347). `epoch` is stamped at every transmission. -/
def flitBytes (typ cls colour seq dst src : Nat) (sop eop : Bool) (payload : List Byte) (epoch : Nat) : List Byte :=
  let h := toBE 1 (typ * 32 + cls * 4 + colour) ++ toBE 1 epoch ++ toBE 1 seq ++ toBE 1 payload.length ++
    toBE 2 (dst * 32 + (if sop then 16 else 0) + (if eop then 8 else 0)) ++ toBE 2 (src * 32) ++ padTo 240 payload
  h ++ toBE 8 (crc64 h)

/-- A flit with the epoch in force stamped and its CRC renewed. -/
def restamp (epoch : Nat) (b : List Byte) : List Byte :=
  let h := (putAt b 1 (toBE 1 epoch)).take 248
  h ++ toBE 8 (crc64 h)

/-- The port is UP (R345) and not fenced. -/
def sfUp (s : State) (p : Nat) : Bool := (getSf s p).link.st == 3 && blockUp s (sfPage p)

/-- The retry FIFO of a class of a port (R349). -/
def retryFifo (p c : Nat) : Nat := 224 + 8 * p + c

/-- Put a flit that has not been sent on the wire, once its retry FIFO takes it (R349). -/
def sfTransmit (s : State) (p c : Nat) (t : TxFlit) : TxFlit × State :=
  if fifoFits s (retryFifo p c) 256 then
    let b := restamp s.casc.epoch.toNat t.bytes
    let s1 := fifoPush s (retryFifo p c) b
    let f := getFifo s1 (retryFifo p c)
    let s2 := setFifo s1 (retryFifo p c)
      { f with marked := true, m := (if f.marked then f.m else f.rd), rd := fifoAdd (fifoLog s1 (retryFifo p c)) f.rd 64 }
    ({ t with bytes := b, sent := 1, at_ := s.dt }, emit s2 (.flit p b))
  else (t, fifoStall s (retryFifo p c) 64)

/-- Send the flits of a class that wait for room, in order (R349). -/
def sfPump (s : State) (p c : Nat) : List TxFlit → List TxFlit × State
  | [] => ([], s)
  | t :: rest =>
    if t.sent = 0 then
      let r := sfTransmit s p c t
      if r.1.sent = 0 then (t :: rest, r.2)
      else
        let q := sfPump r.2 p c rest
        (r.1 :: q.1, q.2)
    else
      let q := sfPump s p c rest
      (t :: q.1, q.2)

/-- Write the transmit state of a class. -/
def setTx (s : State) (p c : Nat) (t : TxCls) : State :=
  let x := getSf s p
  setSf s p { x with tx := setIx x.tx c t {} }

/-- The transmit state of a class. -/
def getTx (s : State) (p c : Nat) : TxCls := getIx (getSf s p).tx c {}

/-- Send a sequenced flit of source `src` (R349): it takes the class's next SEQ and waits when the class's retry FIFO is
full. A port that is not UP sends nothing. -/
def sendSrc (s : State) (p typ cls colour dst src : Nat) (sop eop : Bool) (payload : List Byte) (ctx : Option (Nat × Nat)) : State :=
  if !sfUp s p then s
  else
    let t := getTx s p cls
    let b := flitBytes typ cls colour t.next dst src sop eop payload s.casc.epoch.toNat
    let r := sfPump s p cls (t.unacked ++ [⟨t.next, b, 0, s.dt, ctx⟩])
    setTx r.2 p cls { next := (t.next + 1) % 256, unacked := r.1 }

/-- Send a sequenced flit of this device. -/
def sendSeq (s : State) (p typ cls colour dst : Nat) (sop eop : Bool) (payload : List Byte) (ctx : Option (Nat × Nat)) : State :=
  sendSrc s p typ cls colour dst s.casc.devId sop eop payload ctx

/-- Send an unsequenced flit (R348). -/
def sendPlain (s : State) (p typ dst : Nat) (payload : List Byte) : State :=
  if !sfUp s p then s
  else emit s (.flit p (flitBytes typ 0 0 0 dst s.casc.devId true true payload s.casc.epoch.toNat))

/-- The master: the CASCADE_ROOT strap (R352). -/
def isMaster (s : State) : Bool := s.straps.cascadeRoot

/-- The port on the way to a device: the branch learnt for a descendant, else the parent (assumption 42). -/
def routeTo (s : State) (dev : Nat) : Option Nat := (nget s.casc.routes dev).orElse fun _ => s.casc.parentPort

/-- Send a MGMT message (R348): class 7, message code in byte 0. -/
def sendMgmt (s : State) (p dst : Nat) (msg : List Byte) : State := sendSeq s p 1 7 0 dst true true msg none

/-- Send a MGMT message to a device by its route. -/
def mgmtTo (s : State) (dst : Nat) (msg : List Byte) : State :=
  match routeTo s dst with
  | some p => sendMgmt s p dst msg
  | none => s

/-- Ports with a role (R352). -/
def portsOfRole (s : State) (r : Nat) : List Nat := (List.range 4).filter fun p => (getSf s p).role == r && sfUp s p

/-- Every port is UP with a tree link. -/
def treePorts (s : State) : List Nat := portsOfRole s 2

/-- A link leaves UP (R351): every unacknowledged flit is discarded, its FIFOs are emptied, and frames of guaranteed streams with
units among the flits complete DEVICE_LOST; a demoted frame, coded on the bulk pool, keeps its own status. -/
def sfLinkLost (s : State) (p : Nat) : State :=
  let x := getSf s p
  let pics := x.tx.flatMap fun t => t.unacked.filterMap (·.ctx)
  let s1 := setSf s p { x with tx := x.tx.map fun _ => {}, rx := List.replicate 8 {} }
  let s2 := (List.range 8).foldl (fun s c =>
    let f := getFifo s (retryFifo p c)
    fifoStore s (retryFifo p c) { f with rd := f.w, rel := f.w, marked := false, stalled := false }) s1
  markCtxs s2 (fun c _ => pics.any (·.1 == c)) (fun c q => pics.contains (c, q.id) && !q.demoted) 4

end Sys2Proof.Machine
end

