-- ==== Sys2Proof/Machine/Granary.lean ====
section
/-! DEFINITION. The Granary (R253–R263): pools, minima, the allocation pipeline, waiters, free checks. Every operation is one
pass of the pipeline (R258). -/
namespace Sys2Proof.Machine

/-! ## Geometry and counts -/

def poolCount (s : State) (p : Nat) : Nat := rbits s grnPg p 0x114 18 0
def poolSize (s : State) (p : Nat) : Nat := 2 ^ rbits s grnPg p 0x104 20 16
def poolBase (s : State) (p : Nat) : Nat := rget64 s grnPg p 0x108
def poolStk (s : State) (p : Nat) : Nat := rbits s grnPg p 0x110 17 0
/-- LOC of a pool as a location of memRead: 0 host memory, 1 HBM (the register has 0 HBM, 1 host memory). -/
def poolLoc (s : State) (p : Nat) : Nat := if rbits s grnPg p 0x104 8 8 = 1 then 0 else 1

/-- u(o,p): buffers in use by an owner. -/
def inUse (x : Pool) (o : Nat) : Nat := (x.tags.filter fun t => t.2 == o).length
/-- m(o,p). -/
def minOf (x : Pool) (o : Nat) : Nat := ngetD x.mins o 0
/-- FREE. -/
def freeCnt (x : Pool) : Nat := x.stack.length
/-- RSV: the sum of the minima. -/
def rsvOf (x : Pool) : Nat := sumN (x.mins.map (·.2))
/-- UNUSED: the sum over owners of max(0, m − u). -/
def unusedOf (x : Pool) : Nat := sumN (x.mins.map fun m => m.2 - inUse x m.1)

/-- An owner ID that may own (R10, R262). -/
def ownerOk (o : Nat) : Bool := decide (o < 0x440)

/-! ## The pipeline's decisions -/

/-- Pop a buffer for owner `o` (R255, R257). -/
def popFor (x : Pool) (o : Nat) : Option (Nat × Pool) :=
  match x.stack with
  | [] => none
  | i :: t => some (i, { x with stack := t, tags := nset x.tags i o })

/-- R257: a grant within the minimum or from the shared region; none is EMPTY. -/
def grnDecide (x : Pool) (o : Nat) : Option (Nat × Pool) :=
  if inUse x o < minOf x o ∨ unusedOf x < freeCnt x then popFor x o else none

/-- The pool answers operations (R254). -/
def poolUp (x : Pool) : Bool := x.enable && x.ready

/-- An IMMEDIATE ALLOC: the granted address. -/
def grnAlloc (s : State) (p o : Nat) : Option (Nat × State) :=
  let x := getPool s p
  if !poolUp x || !blockUp s grnPg then none
  else match grnDecide x o with
    | some (i, x1) => some (poolBase s p + i * poolSize s p, evG 0x108 (setPool s p x1))
    | none => none

/-- The result registers of a requester. -/
def getRes (s : State) (r : Nat) : GrnRes := ngetD s.grnRes r {}
def setRes (s : State) (r : Nat) (x : GrnRes) : State := { s with grnRes := nset s.grnRes r x }

/-- A finished register operation: DONE, the code, and OP_DONE. -/
def grnDone (s : State) (r code nfreed : Nat) (addr : Option Nat) : State :=
  let x := getRes s r
  setEvt (setRes s r { x with
    done := true, waiting := false, code := code, nfreed := nfreed,
    addr := match addr with | some a => BitVec.ofNat 64 a | none => x.addr }) grnPg 0

/-- Answer a waiter: a register requester reads its result, a remote device gets XREPLY (R259, R365): tag, code, address. -/
def answerWaiter (s : State) (w : Waiter) (code addr : Nat) : State :=
  match w.who with
  | .req rq => grnDone s (rqIx rq) code 0 (if code = 0 then some addr else none)
  | .remote dev tag _ => mgmtTo s dev ([0x0A] ++ toLE 4 tag ++ toLE 1 code ++ toLE 8 addr)

/-- Which of two waiting cross-device requests is aborted when they contend for the last buffer: the later-issued (R365). -/
def laterRemote : List Waiter → Option Waiter
  | [] => none
  | w :: t =>
    match w.who, laterRemote t with
    | .remote _ _ i, some v =>
      (match v.who with
       | .remote _ _ j => if j < i then some w else some v
       | _ => some w)
    | .remote _ _ _, none => some w
    | _, r => r

/-- The waiter is a remote device's. -/
def isRemote (w : Waiter) : Bool := match w.who with | .remote _ _ _ => true | .req _ => false

/-- Two waiting XREQs contend for the last buffer: the later-issued one is aborted with TIMEOUT and counted (R365). -/
def xreqContend (s : State) (p : Nat) : State :=
  let x := getPool s p
  if decide (2 ≤ (x.waiters.filter isRemote).length) && freeCnt x == 1 then
    match laterRemote x.waiters with
    | some w => bump (answerWaiter (evG 0x109 <| setPool s p { x with waiters := x.waiters.filter fun v => v != w }) w 8 0) cascPg 0 0x130 1
    | none => s
  else s

/-- After each FREE or RECLAIM the head waiter is tested once by R257, ahead of any new operation; one that receives nothing
stays (R259). -/
def testHead (s0 : State) (p : Nat) : State :=
  let s := xreqContend s0 p
  let x := getPool s p
  match x.waiters with
  | [] => s
  | w :: rest =>
    match grnDecide x w.owner with
    | some (i, x1) => answerWaiter (evG 0x108 (setPool s p { x1 with waiters := rest })) w 0 (poolBase s p + i * poolSize s p)
    | none => s

/-- The free checks of R260: 0 accepted, or the code and the pool unchanged. -/
def freeCheck (s : State) (p a o : Nat) : Nat :=
  let x := getPool s p
  let size := poolSize s p
  let base := poolBase s p
  if !poolUp x then 6
  else if a < base ∨ base + poolCount s p * size ≤ a then 2
  else if (a - base) % size ≠ 0 then 3
  else match nget x.tags ((a - base) / size) with
    | none => 4
    | some t => if t = o then 0 else 5

/-- Push a buffer back (R260). -/
def pushBack (x : Pool) (i : Nat) : Pool := { x with stack := i :: x.stack, tags := ndel x.tags i }

/-- Count and report a rejected free (R260). -/
def rejectFree (s : State) (p a o code : Nat) : State :=
  let off := if code = 4 then 0x150 else if code = 5 then 0x154 else 0x158
  let src := if code = 4 then 0 else if code = 5 then 1 else 2
  let s1 := bump s grnPg 0 off 1
  let s2 := rputN s1 grnPg 0 0x168 (code * 2 ^ 28 + p * 2 ^ 22 + o)
  raiseFault (rput64 s2 grnPg 0 0x16C a) grnPg src 0

/-- A FREE on behalf of an owner: its code and effect (R260). -/
def grnFree (s : State) (p a o : Nat) : Nat × State :=
  let code := freeCheck s p a o
  if code = 0 then (0, testHead (setPool s p (pushBack (getPool s p) ((a - poolBase s p) / poolSize s p))) p)
  else if code = 6 then (6, s)
  else (code, testHead (rejectFree s p a o code) p)

/-- Free a buffer a job or unit of context `c` holds. -/
def freeBuf (s : State) (c : Nat) (b : Option (Nat × Nat)) : State :=
  match b with
  | some (p, a) => (grnFree s p a c).2
  | none => s

/-- Free several buffers. -/
def freeBufs (s : State) (c : Nat) (bs : List (Nat × Nat)) : State := bs.foldl (fun s b => freeBuf s c (some b)) s

/-- Push every buffer an owner holds, in ascending index order (R261). -/
def reclaimPool (x : Pool) (o : Nat) : Pool :=
  ((x.tags.filter fun t => t.2 == o).map (·.1)).foldl pushBack x

/-- R256: a minimum takes effect when the new RSV is at most COUNT and the new UNUSED at most FREE. -/
def setMin (s : State) (p o m : Nat) : Option State :=
  let x := getPool s p
  let x1 := { x with mins := if m = 0 then ndel x.mins o else nset x.mins o m }
  if rsvOf x1 ≤ poolCount s p ∧ unusedOf x1 ≤ freeCnt x1 then some (setPool s p x1) else none

/-! ## Operations of a register requester -/

/-- A host operation is permitted with OWNER in SO32–SO63 (R262). -/
def hostOwner (o : Nat) : Bool := decide (0x420 ≤ o) && decide (o < 0x440)

/-- Whether an operation other than CANCEL is DENIED, and whether that is counted in GRN_HOST_DENY (R262); RECLAIM is for
Stewards only (R261). -/
def grnDenied (rq : Requester) (o : Nat) (reclaim : Bool) : Option Bool :=
  if !ownerOk o then some false
  else if rq = .host ∧ (!hostOwner o ∨ reclaim = true) then some true
  else if reclaim && !isSteward rq then some false
  else none

/-- Enter an operation: discarded while the requester's previous one waits (R263), answered DENIED by R262, else run. -/
def grnEnter (rq : Requester) (o : Nat) (reclaim : Bool) (op : State → State) (s : State) : State :=
  let r := rqIx rq
  if (getRes s r).waiting || !blockUp s grnPg then s
  else match grnDenied rq o reclaim with
    | some counted => grnDone (if counted then bump s grnPg 0 0x15C 1 else s) r 7 0 none
    | none => op s

/-- ALLOC (R257). -/
def grnAllocOp (rq : Requester) (o p : Nat) (wait : Bool) (s : State) : State :=
  let r := rqIx rq
  let x := getPool s p
  if !poolUp x then grnDone s r 6 0 none
  else match grnDecide x o with
    | some (i, x1) => grnDone (evG 0x108 (setPool s p x1)) r 0 0 (some (poolBase s p + i * poolSize s p))
    | none =>
      if wait && decide (x.waiters.length < 64) then
        setRes (setPool s p { x with waiters := x.waiters ++ [⟨.req rq, o, s.tick⟩] }) r
          { getRes s r with done := false, waiting := true }
      else grnDone (evG 0x109 s) r 1 0 none

/-- FREE (R260). -/
def grnFreeOp (rq : Requester) (o p a : Nat) (s : State) : State :=
  let f := grnFree s p a o
  grnDone f.2 (rqIx rq) f.1 0 none

/-- RECLAIM (R261). -/
def grnReclaimOp (rq : Requester) (o p : Nat) (s : State) : State :=
  let x := getPool s p
  if !poolUp x then grnDone s (rqIx rq) 6 0 none
  else
    let n := inUse x o
    grnDone (testHead (setPool s p (reclaimPool x o)) p) (rqIx rq) 0 n none

/-- CANCEL (R259): remove the requester's own waiting operation, in whichever pool it waits. -/
def grnCancelOp (rq : Requester) (s : State) : State :=
  if (getRes s (rqIx rq)).waiting && blockUp s grnPg then
    grnDone { s with pools := s.pools.map fun e => (e.1, { e.2 with waiters := e.2.waiters.filter fun w => w.who != .req rq }) }
      (rqIx rq) 9 0 none
  else s

/-- GRN_MIN (R256, R262): Stewards only. A minimum that does not fit, or of an ID that is no owner, is counted. -/
def grnMinOp (rq : Requester) (o p m : Nat) (s : State) : State :=
  if !isSteward rq then bump s grnPg 0 0x15C 1
  else if !blockUp s grnPg then s
  else match (if ownerOk o then setMin s p o m else none) with
    | some s1 => s1
    | none => setEvt (bump s grnPg 0 0x160 1) grnPg 2

/-- GRN_WAIT_TIMEOUT (R259): a waiter that has waited GRN_WAIT_TMO leaves with TIMEOUT. 100 TBCLK are 1 µs. -/
def grnTimeoutOp (p : Nat) (s : State) : State :=
  let tmo := rbits s grnPg 0 0x120 23 0
  let x := getPool s p
  match x.waiters.find? fun w => decide (tmo ≠ 0 ∧ tmo * 100 ≤ s.tick - w.at_) with
  | none => s
  | some w =>
    setEvt (answerWaiter (evG 0x109 <| setPool s p { x with waiters := x.waiters.filter fun v => v != w }) w 8 0) grnPg 1

/-- The range of a pool in the pointer store overlaps that of another enabled pool, or passes its end (R253). -/
def rangeBad (s : State) (p : Nat) : Bool :=
  decide (262144 < poolStk s p + poolCount s p) ||
    s.pools.any fun e => e.1 != p && e.2.enable && overlaps (poolStk s p) (poolCount s p) (poolStk s e.1) (poolCount s e.1)

/-- POOL_ENABLE (R253, R254): check the range; clear tags and minima; the stack fill begins. -/
def poolEnableOp (p : Nat) (s : State) : State :=
  if (getPool s p).enable then s
  else if rangeBad s p then bump s grnPg 0 0x164 1
  else setPool s p { enable := true }

/-- POOL_READY (R254): the fill ends with indices COUNT − 1 down to 0 pushed, so that buffer 0 comes first. -/
def poolReadyOp (p : Nat) (s : State) : State :=
  let x := getPool s p
  if x.enable && !x.ready then setPool s p { x with ready := true, stack := List.range (poolCount s p) } else s

/-- POOL_DISABLE (R254): only while no buffer is allocated; every waiter leaves with NOT_READY. -/
def poolDisableOp (p : Nat) (s : State) : State :=
  let x := getPool s p
  if !x.enable then s
  else if !x.tags.isEmpty then bump s grnPg 0 0x164 1
  else x.waiters.foldl (fun s w => answerWaiter s w 6 0) (setPool s p {})

end Sys2Proof.Machine
end

