-- ==== Sys2Proof/Machine/Regs.lean ====
section
/-! DEFINITION. The common page header at work (R54–R73): the gate every register write passes, HELD pages, events, locks,
commits and their boundaries, Carousel commits (R44), ENABLE and QUIESCE. -/
namespace Sys2Proof.Machine

/-! ## Holding and gating -/

/-- Some admitted context satisfies a test. -/
def anyAdm (s : State) (p : Nat → Ctx → Bool) : Bool := s.ctxs.any fun e => e.2.kind == .admitted && p e.1 e.2

/-- PAGE_STATUS.HELD: an admitted contract holds the page's resource (R64). -/
def pageHeld (s : State) (page : Nat) : Bool :=
  match pageAt page with
  | some (.tile, n) => anyAdm s fun _ x => x.adm.tiles.contains n
  | some (.sensor, n) => anyAdm s fun _ x => Ct.source x.block == 0 && Ct.ports x.block / 2 ^ n % 2 == 1
  | some (.hbm, n) => anyAdm s fun _ x => pcRegion s (2 * n) == x.adm.mp || pcRegion s (2 * n + 1) == x.adm.mp
  | some (.dma, n) => (getDma s n).bound.isSome
  | _ => false

/-- A window instance that admitted work holds: a bound queue, a bound egress FIFO, a flow with GUAR (R72, R270, R318). -/
def bankHeld (s : State) (page bank : Nat) : Bool :=
  if page = qmgrPg then (getQ s bank).bound.isSome
  else if page = fifoPg then anyAdm s fun _ x => x.adm.fifo == bank && decide (32 ≤ bank)
  else if page = schedPg then rbits s schedPg bank 0x200 7 7 == 1
  else false

/-- R64 filters this offset of a HELD page for the host. -/
def heldOffset (page off : Nat) : Bool :=
  off == 0x008 || off == 0x020 || off == 0x028 ||
    (match pageAt page with
     | some (k, i) => (match regRow k i off with
       | some r => r.acc == .rw || r.acc == .rws || r.acc == .wo
       | none => false)
     | none => false)

/-- The selector bank of a requester (R69, R72). -/
def selBank (rq : Requester) : Nat := rqIx rq

/-- The instance a requester's selector names on a page with a window. -/
def selOf (s : State) (rq : Requester) (page off : Nat) : Nat :=
  if page = qmgrPg then rbits s qmgrPg (selBank rq) 0x100 12 0
  else if page = fifoPg then rbits s fifoPg (selBank rq) 0x100 7 0
  else if page = schedPg then
    (if off < 0x300 then rbits s schedPg (selBank rq) 0x100 11 0
     else if off < 0x380 then rbits s schedPg (selBank rq) 0x104 5 0
     else rbits s schedPg (selBank rq) 0x108 4 0)
  else 0

/-- The offset lies in a window of instances. -/
def inWindow (page off : Nat) : Bool :=
  ((page == qmgrPg || page == fifoPg) && decide (0x200 ≤ off) && decide (off < 0x300)) ||
    (page == schedPg && decide (0x200 ≤ off) && decide (off < 0x3B0))

/-- The requester's write to instance `bank` is discarded by R64, R72 or R73 (a host COMMIT judges the selected
instance); CLKOUT_CTRL while a contract holds any sensor port (R162). -/
def hostHeld (s : State) (rq : Requester) (page off bank : Nat) : Bool :=
  rq == .host && heldOffset page off &&
    (pageHeld s page || (page == sensorPage 0 && off == 0x160 && (List.range 8).any fun n => pageHeld s (sensorPage n)) ||
      ((inWindow page off && decide (page ≠ schedPg ∨ off < 0x280) ||
        (off == 0x028 && (page == qmgrPg || page == fifoPg))) && bankHeld s page bank))

/-- BAR0 answers this page now: before BOOT_STATUS.STATE is RUN only TOP and BOOT respond (R397). -/
def pageLive (s : State) (page : Nat) : Bool :=
  (pageAt page).isSome && (s.boot.st == 7 || page == topPg || page == bootPg)

/-- The layout of a page assigns no register to an offset (R55), or no write to any: the ISL mailboxes (R59). The host's writes to
the fabric range of the TKB page are denied whether or not an offset is assigned (R344). -/
def unassigned (rq : Requester) (page off : Nat) : Bool :=
  match pageAt page with
  | none => true
  | some (k, i) => k == .isl || (decide (0x038 ≤ off) && (regRow k i off).isNone &&
      !(k == .tkb && decide (0x200 ≤ off) && decide (off < 0x260) && rq == .host))

/-- A Steward that does not run yet: ROM runs on ST0 alone, and ST0–ST3 are released as boot reaches RUN (R395). -/
def stHeld (s : State) : Requester → Bool
  | .steward n => n.val != 0 && s.boot.st != 7
  | _ => false

/-- The discards every register write may meet before its effect: `some` is the state after a discard. A Steward that does not run
writes nothing. Order: an address
that is not mapped or not assigned (R55, R59, R397), the fault state (R448), a block in reset (R62), a HELD page or instance (R64, R72), the PERF page while
PERF_USER_EN is 1 (R465). -/
def gateB (s : State) (rq : Requester) (page off bank : Nat) : Option State :=
  let addr := page * 4096 + off
  if stHeld s rq then some s
  else if !pageLive s page then some (unmapped s addr)
  else if unassigned rq page off then some (unmapped s addr)
  else if s.flt.fault && page != rstPg then some (bump s fltPg 0 0x138 1)
  else if (hdr s page).inReset && off != 0x030 then some s
  else if hostHeld s rq page off bank then some (hostDeny s addr)
  else if rq == .host && page == perfPg && off != 0x800 && rbits s debugPg 0 0x100 0 0 == 1 then some (bump s perfPg 0 0x140 1)
  else none

/-- The gate for the instance that the requester's selector names. -/
def gate (s : State) (rq : Requester) (page off : Nat) : Option State := gateB s rq page off (selOf s rq page off)

/-- Wake the device from DOZE (R418): regulators and Stewards resume, the retained state is restored, HBM leaves
self-refresh, STATE reads RUN and WAKE is signalled. Queue caches were discarded at entry. -/
def wakeUp (s : State) : State :=
  if s.pwr.st ≠ 2 then s
  else
    let s1 := { s with
      pwr := { s.pwr with st := 0, want := false }
      phys := s.phys.map fun p => if p.st = 3 then { p with st := 2 } else p
      hbmHold := true }
    setEvts s1 pwrPg 3

/-- A register write in DOZE wakes the device when PWR_WAKE_EN bit 1 allows, and takes effect then (R418). -/
def wakeByWrite (s : State) : State := if s.pwr.st = 2 ∧ rbits s pwrPg 0 0x11C 1 1 = 1 then wakeUp s else s

/-- A register write: it wakes the device, passes the gate, and has its effect. -/
def regOp (rq : Requester) (page off : Nat) (op : State → State) (s : State) : State :=
  if !busUp s || stHeld s rq then s
  else
    let s0 := wakeByWrite s
    match gate s0 rq page off with
    | some s1 => s1
    | none => op s0

/-- A register write of a named instance of a page with a window. -/
def regOpB (rq : Requester) (page off bank : Nat) (op : State → State) (s : State) : State :=
  if !busUp s || stHeld s rq then s
  else
    let s0 := wakeByWrite s
    match gateB s0 rq page off bank with
    | some s1 => s1
    | none => op s0

/-! ## Events and locks -/

def execEvtForce (rq : Requester) (page : Nat) (mask : BitVec 32) (s : State) : Out :=
  .next (regOp rq page 0x018 (fun s => setEvts s page mask) s)

/-- LOCK with OP ACQUIRE (R70): granted when free; an owner ID from 0x440 is discarded. -/
def lockAcquire (rq : Requester) (page : Nat) (owner : BitVec 11) (s : State) : State :=
  let h := hdr s page
  if h.lockHeld ∨ !ownerOk owner.toNat then s
  else setHdr s page { h with lockHeld := true, lockOwner := owner, lockGrants := h.lockGrants + 1, lockClass := some rq }

/-- LOCK with OP RELEASE (R70): by the current owner. -/
def lockRelease (page : Nat) (owner : BitVec 11) (s : State) : State :=
  let h := hdr s page
  if h.lockHeld ∧ h.lockOwner = owner ∧ ownerOk owner.toNat = true then
    setHdr s page { h with lockHeld := false, lockBroken := false, lockOwner := 0x7FF, lockClass := none }
  else s

/-- LOCK with OP FORCE_RELEASE (R71): Stewards only; a host write is counted in TOP_HOST_DENY. -/
def lockForce (rq : Requester) (page : Nat) (s : State) : State :=
  if isSteward rq then setHdr s page (breakLock (hdr s page))
  else if rq = .host then hostDeny s (page * 4096 + 0x030)
  else s

def execLockAcquire (rq : Requester) (page : Nat) (owner : BitVec 11) (s : State) : Out :=
  .next (regOp rq page 0x030 (lockAcquire rq page owner) s)
def execLockRelease (rq : Requester) (page : Nat) (owner : BitVec 11) (s : State) : Out :=
  .next (regOp rq page 0x030 (lockRelease page owner) s)
def execLockForceRelease (rq : Requester) (page : Nat) (s : State) : Out :=
  .next (regOp rq page 0x030 (lockForce rq page) s)

/-- Release with BROKEN set the cascade semaphores whose owner satisfies a test (R364). -/
def breakSems (s : State) (sel : Sem → Bool) : State :=
  let l := s.casc.sems.map fun e => if sel e.2 && e.2.held then (e.1, { broken := true }) else e
  { s with casc := { s.casc with sems := l } }

/-- Break every page lock and cascade semaphore whose owner is a context (R71, R364): the master's own at once, another
device's by a SEM_REQ with op 4 (assumption 43). -/
def breakOwner (s : State) (o : Nat) : State :=
  let s1 := { s with hdrs := s.hdrs.map fun e => if e.2.lockHeld && e.2.lockOwner.toNat == o then (e.1, breakLock e.2) else e }
  if isMaster s1 then breakSems s1 (fun m => m.dev == s1.casc.devId && m.owner == o)
  else if s1.casc.enumDone then mgmtTo s1 0 ([0x07, 4, 0] ++ toLE 2 o)
  else s1

/-! ## Carousel commits (R42–R46) -/

/-- The list a CAROUSEL page's CAR_LSEL selects; none on page 7 and on the three empty selections of page 6. -/
def carSel (s : State) (page : Nat) : Option Nat :=
  let p := page - carPage 0
  let l := rbits s page 0 0x100 1 0
  if p < 6 then some (4 * p + l) else if p = 6 ∧ l = 0 then some 24 else none

/-- L24 has been committed by boot firmware (R45). -/
def l24Done (s : State) : Bool := (getCar s 24).pend.isSome || !(getCar s 24).oper.ents.isEmpty

/-- The list that admin writes and COMMIT of a CAROUSEL page reach (R42). -/
def carTarget (s : State) (page : Nat) : Option Nat :=
  match carSel s page with
  | some 24 => if l24Done s then none else some 24
  | r => r

/-- A list holds a reservation (R42 CAR_RESERVED). -/
def carReserved (s : State) (l : Nat) : Bool := anyAdm s fun _ x => x.adm.carLists.contains l

/-- The start instant of a list committed now, and whether it is late (R44). -/
def carStart (now base : Time) (cycle : Nat) : Time × Bool :=
  let earliest := now + nsT 10000
  if earliest ≤ base then (base, false) else (base + cdiv (earliest - base) (nsT cycle) * nsT cycle, true)

/-- Make a list the pending admin list (R44). -/
def carCommit (s : State) (l : Nat) (list : CarList) (gen : BitVec 16) : State :=
  let c := getCar s l
  let st := carStart s.dt list.base list.cycle
  setCar s l { c with
    pend := some ⟨list, gen, st.1⟩
    late := c.late || st.2
    lateCount := if st.2 then min 0xFFFFFFFF (c.lateCount + 1) else c.lateCount }

/-- A Carousel list starts at its start instant (R44): the operative list ends, entry 0 takes effect, COMMIT_GEN takes the
generation. DESIGN CHOICE (assumption 67): so does a list committed before an ADMIT reserved its list. -/
def carListStart (l : Nat) (s : State) : State :=
  let c := getCar s l
  match c.pend with
  | some p =>
    if s.dt < p.start then s
    else
      let pg := carPage (l / 4)
      setHdr (setCar s l { c with oper := p.list, pend := none, start := p.start, cur := carAt p.list s.dt }) pg
        { hdr s pg with commitGen := p.gen }
  | none => s

/-- CAR_ENTRY_END (R43): the list moves to the entry at the present position. -/
def carEntryEnd (l : Nat) (s : State) : State :=
  let c := getCar s l
  setCar s l { c with cur := carAt c.oper s.dt }

/-! ## COMMIT and its boundary (R66–R73, R330) -/

/-- The shadow words of a page and bank whose offset satisfies a test. -/
def shadowOf (s : State) (page bank : Nat) (p : Nat → Bool) : NMap U32 :=
  s.shadow.filter fun e => e.1 / 4096 == page * 8192 + bank && p (e.1 % 4096)

/-- Replace the pending snapshot of a page's instance (R67). -/
def putSnap (s : State) (page tag : Nat) (gen : BitVec 16) (vals : NMap U32) : State :=
  { s with snaps := s.snaps.filter (fun n => !(n.page == page && n.bank == tag)) ++ [⟨page, tag, gen, vals, s.dt⟩] }

/-- The offsets of a SCHED entry kind: 0 flow, 1 service, 2 ring. -/
def schedOff (kind off : Nat) : Bool :=
  if kind = 0 then decide (0x200 ≤ off ∧ off < 0x280)
  else if kind = 1 then decide (0x300 ≤ off ∧ off < 0x310)
  else decide (0x380 ≤ off ∧ off < 0x394)

/-- The snapshot tag of a SCHED entry: flows 0–4095, services from 4096, rings from 4160. -/
def schedTag (kind n : Nat) : Nat := if kind = 0 then n else if kind = 1 then 4096 + n else 4160 + n

/-- COMMIT (R66): by page, the selected instance (R73), the recorded SCHED entry (R330), or the selected Carousel list
(R44). DESIGN CHOICE (assumption 66): on CAROUSEL page 7, which has neither list nor RWS field, it does nothing. -/
def commitOp (rq : Requester) (page : Nat) (gen : BitVec 16) (s : State) : State :=
  match pageAt page with
  | some (.carousel, 7) => s
  | some (.carousel, _) =>
    (match carTarget s page with
     | none => unmapped s (page * 4096 + 0x028)
     | some l =>
       if rq = .host ∧ carReserved s l = true then bump s page 0 0x138 1
       else carCommit s l (getCar s l).shadow gen)
  | some (.qmgr, _) => putSnap s page (selOf s rq page 0x200) gen (shadowOf s page (selOf s rq page 0x200) fun _ => true)
  | some (.fifo, _) => putSnap s page (selOf s rq page 0x200) gen (shadowOf s page (selOf s rq page 0x200) fun _ => true)
  | some (.sched, _) =>
    (match nget s.schedRec (rqIx rq) with
     | none => s
     | some (k, n) =>
       let s1 := { s with schedRec := ndel s.schedRec (rqIx rq) }
       if rq = .host ∧ k = 0 ∧ bankHeld s page n = true then hostDeny s1 (page * 4096 + 0x028)
       else putSnap s1 page (schedTag k n) gen (shadowOf s page n (schedOff k)))
  | some (.dma, 0) =>
    let s1 := putSnap s page 0 gen (shadowOf s page 0 fun o => decide (o < 0x180))
    putSnap s1 page 1 gen (shadowOf s page 0 fun o => decide (0x180 ≤ o))
  | some (.sensor, _) =>
    let all := s.shadow.filter fun e => e.1 / 4096 / 8192 == page
    let s1 := putSnap s page 0 gen (all.filter fun e => decide (e.1 % 4096 < 0x140))
    putSnap s1 page 1 gen (all.filter fun e => decide (0x140 ≤ e.1 % 4096))
  | some (_, _) => putSnap s page 0 gen (shadowOf s page 0 fun _ => true)
  | none => s

def execCommit (rq : Requester) (page : Nat) (gen : BitVec 16) (s : State) : Out :=
  .next (regOp rq page 0x028 (commitOp rq page gen) s)

/-- Make the words of a snapshot operative. -/
def applyVals (s : State) (vals : NMap U32) : State :=
  { s with regs := vals.foldl (fun m e => nset m e.1 e.2) s.regs }

/-- The word of a snapshot, or the operative one. -/
def snapGet (s : State) (vals : NMap U32) (page bank off : Nat) : Nat :=
  ((nget vals (rkey page bank off)).getD (rget s page bank off)).toNat

/-- The bytes of a table entry of `n` words as a snapshot would make them. -/
def snapBytes (s : State) (vals : NMap U32) (page bank off n : Nat) : List Byte :=
  (List.range n).flatMap fun i => toLE 4 (snapGet s vals page bank (off + 4 * i))

/-- A flow entry, VALID or not, passes its checks (R317, R318). -/
def flowOk (b : List Byte) (svcPort : Nat → Option Nat) : Bool :=
  let port := byteAt b 1
  let eth := decide (port < 2)
  let hevc := byteAt b 0 / 8 % 2 == 1
  let hmin := (if byteAt b 0 / 2 % 2 = 1 then 106 else 86) + (if byteAt b 0 / 4 % 2 = 1 then 4 else 0) - (if hevc then 5 else 0)
  let p := leAt b 4 2
  let h := leAt b 6 2
  let bur := leAt b 0xC 4
  let w := leAt b 0x10 2
  byteAt b 0 / 16 % 8 == 0 && decide (port < 8) && decide (byteAt b 2 < 64) && decide (byteAt b 3 < 32) &&
  (!eth || (decide (hmin ≤ h) && decide (256 ≤ p) && decide (p + h ≤ 1600))) &&
  decide (leAt b 8 4 ≤ 400000) && decide (1500 ≤ bur) && decide (bur ≤ 16777216) &&
  decide (1 ≤ w) && decide (w ≤ 4095) && decide (byteAt b 0x12 ≤ 15) && decide (96 ≤ byteAt b 0x13) &&
  decide (byteAt b 0x13 ≤ 127) && decide (leAt b 0x18 2 < 2048) && decide (leAt b 0x1C 2 < 2048) &&
  zeroAt b 0x32 14 && zeroAt b 0x60 32 && svcPort (byteAt b 2) == some port

/-- A service entry, VALID or not, passes its checks (R320). -/
def svcOk (b : List Byte) : Bool :=
  decide (byteAt b 0 < 2) && decide (byteAt b 1 < 8) && decide (byteAt b 2 < 8) && zeroAt b 3 1 && zeroAt b 6 2 &&
  decide (1 ≤ leAt b 4 2) && decide (leAt b 4 2 ≤ 4095) && decide (leAt b 8 4 ≤ 400000) &&
  decide (1500 ≤ leAt b 0xC 4) && decide (leAt b 0xC 4 ≤ 16777216)

/-- The bytes of a flow or service entry in force. -/
def flowBytes (s : State) (f : Nat) : List Byte := snapBytes s [] schedPg f 0x200 32
def svcBytes (s : State) (v : Nat) : List Byte := snapBytes s [] schedPg v 0x300 4

/-- The port of a VALID service (R320). -/
def svcPortOf (s : State) (v : Nat) : Option Nat :=
  if byteAt (svcBytes s v) 0 % 2 = 1 then some (byteAt (svcBytes s v) 1) else none

/-- An admitted flow uses this service (R320). -/
def svcHeld (s : State) (v : Nat) : Bool := anyAdm s fun _ x => Ct.svc x.block == v

/-- A failed SCHED commit: counted, CFG_BAD, COMMIT_GEN as it stood (R318, R320). -/
def cfgBad (s : State) : State := setEvt (bump s schedPg 0 0x10C 1) schedPg 2

/-- COMMIT_GEN of a page takes GEN. -/
def genSet (s : State) (page : Nat) (g : BitVec 16) : State := setHdr s page { hdr s page with commitGen := g }

/-- Queued units of a flow whose VALID a commit cleared are discarded, each counted in SCHED_NOFLOW (R318); a unit's
Granary buffer and its words of the FIFO are freed. The flow, and a service left without a packet, hold no tag then (R323). -/
def dropUnits (s : State) (f : Nat) : State :=
  let x := getFlow s f
  let v := byteAt (flowBytes s f) 2 % 64
  let s0 := setFlow s f { x with units := [], tagSet := false }
  let left := s0.flows.any fun e => !e.2.units.isEmpty && byteAt (flowBytes s0 e.1) 2 % 64 == v
  let s1 := bump (if left then s0 else setSvc s0 v { getSvc s0 v with tagSet := false }) schedPg 0 0x114 x.units.length
  x.units.foldl (fun s u => fifoSkip (freeBuf s u.ctx u.buf) u.fifo (leftWords u)) s1

/-- The tokens of a bucket now, by the rate and burst of an entry in force: at 0x08 and 0x0C of both kinds (R324). -/
def bucketNow (s : State) (b : List Byte) (tok tokTick : Nat) : Nat :=
  refill tok (s.tick - tokTick) (leAt b 8 4 * 1250) (leAt b 0xC 4 * 1000000)

/-- Another VALID flow of HOST or VAULT writes to the ring (R314). -/
def ringTaken (s : State) (f r : Nat) : Bool :=
  (List.range 4096).any fun g =>
    g != f && rbits s schedPg g 0x200 0 0 == 1 && (let p := rbits s schedPg g 0x200 10 8; p == 2 || p == 7) &&
      rbits s schedPg g 0x200 28 24 == r

/-- Apply a flow snapshot (R314, R318, R324, R328): a bucket is full when the entry becomes valid and keeps its tokens, capped,
otherwise; a changed SAMPLE_K restarts the count. -/
def applyFlow (s : State) (f : Nat) (n : Snap) : State :=
  let old := flowBytes s f
  let new := snapBytes s n.vals schedPg f 0x200 32
  let ring := byteAt new 0 % 2 == 1 && (byteAt new 1 == 2 || byteAt new 1 == 7)
  if !flowOk new (svcPortOf s) || (ring && ringTaken s f (byteAt new 3 % 32)) then cfgBad s
  else
    let was := byteAt old 0 % 2 == 1
    let isV := byteAt new 0 % 2 == 1
    let s1 := applyVals s n.vals
    let x := getFlow s1 f
    let cap := leAt new 0xC 4 * 1000000
    let x1 := if isV && !was then { x with tok := cap, tokTick := s.tick, seq := leAt new 0x1A 2, pkts := 0 }
      else { x with tok := min (bucketNow s old x.tok x.tokTick) cap, tokTick := s.tick, pkts := if byteAt old 0x12 ≠ byteAt new 0x12 then 0 else x.pkts }
    let s2 := setFlow s1 f x1
    genSet (if was && !isV then dropUnits s2 f else s2) schedPg n.gen

/-- Apply a service snapshot (R320, R324). -/
def applySvc (s : State) (v : Nat) (n : Snap) : State :=
  let old := svcBytes s v
  let new := snapBytes s n.vals schedPg v 0x300 4
  let keeps := byteAt new 0 % 2 = 1 ∧ byteAt new 1 = byteAt old 1 ∧ byteAt new 2 = byteAt old 2
  if !svcOk new ∨ (svcHeld s v = true ∧ ¬ keeps) then cfgBad s
  else
    let x := getSvc s v
    let cap := leAt new 0xC 4 * 1000000
    let s1 := applyVals s n.vals
    let tok := if byteAt old 0 % 2 = 0 then cap else min (bucketNow s old x.tok x.tokTick) cap
    genSet (setSvc s1 v { x with tok := tok, tokTick := s.tick }) schedPg n.gen

/-- A Selfold policer's tokens now, by the registers in force (R326, R366). -/
def sfTokens (s : State) (page : Nat) (x : SfPort) : Nat × Nat :=
  let n := s.tick - x.tokTick
  (refill x.tokC n (rbits s page 0 0x10C 18 0 * 1250) (rbits s page 0 0x114 24 0 * 1000000),
    refill x.tokP n (rbits s page 0 0x110 18 0 * 1250) (rbits s page 0 0x118 24 0 * 1000000))

/-- Apply a Selfold port snapshot: the policer keeps its tokens, within the new bursts (R326, R366). -/
def applySf (s : State) (page p : Nat) (n : Snap) : State :=
  let x := getSf s p
  let tok := sfTokens s page x
  let s1 := applyVals s n.vals
  genSet (setSf s1 p { x with tokC := min tok.1 (rbits s1 page 0 0x114 24 0 * 1000000),
                              tokP := min tok.2 (rbits s1 page 0 0x118 24 0 * 1000000), tokTick := s.tick }) page n.gen

/-- Apply a ring snapshot: a changed base or size sets its positions to 0 (R330). -/
def applyRing (s : State) (r : Nat) (n : Snap) : State :=
  let moved := [0x380, 0x384, 0x388].any fun o =>
    let m := if o = 0x388 then 0x3F else 0xFFFFFFFF
    (snapGet s n.vals schedPg r o) &&& m != (rgetN s schedPg r o) &&& m
  let s1 := applyVals s n.vals
  genSet (if moved then setRing s1 r {} else s1) schedPg n.gen

/-- Every unreleased word of a FIFO is discarded (R270): the units of an egress FIFO that no packet has taken, the flits of a retry
FIFO that wait for their acknowledgement. -/
def dropFifo (s : State) (f : Nat) : State :=
  { s with
    flows := s.flows.map fun e => (e.1, { e.2 with units := e.2.units.filter fun u => u.fifo != f })
    sfs := s.sfs.map fun e => (e.1, { e.2 with
      tx := ((List.range e.2.tx.length).zip e.2.tx).map fun t =>
        if 224 + 8 * e.1 + t.1 = f then { t.2 with unacked := t.2.unacked.filter fun u => u.sent == 0 } else t.2 }) }

/-- Apply a FIFO snapshot: a changed base or size resets the pointers, clears the mark and discards what is unreleased (R270);
ABOVE follows the new LEVEL, which is no rise of the occupancy (R269). -/
def applyFifo (s : State) (f : Nat) (n : Snap) : State :=
  let moved := snapGet s n.vals fifoPg f 0x204 ≠ rgetN s fifoPg f 0x204 ∨
    bits (snapGet s n.vals fifoPg f 0x200) 12 8 ≠ fifoLog s f
  let s1 := applyVals s n.vals
  let s2 := if moved then dropFifo (setFifo s1 f {}) f else s1
  let x := getFifo s2 f
  let lvl := rbits s2 fifoPg f 0x208 20 0
  let s3 := setFifo s2 f { x with above := decide (lvl ≠ 0 ∧ lvl ≤ fifoOcc (fifoLog s2 f) x) }
  genSet (rputN s3 fifoPg f 0x2FC n.gen.toNat) fifoPg n.gen

/-- Apply a DMA ring snapshot: a changed base or RSIZE resets HEAD and TAIL (R285). -/
def applyDma (s : State) (page ch : Nat) (n : Snap) : State :=
  let moved := [0x100, 0x104].any (fun o => snapGet s n.vals page 0 o != rgetN s page 0 o) ||
    bits (snapGet s n.vals page 0 0x108) 4 0 != rbits s page 0 0x108 4 0
  let s1 := applyVals s n.vals
  let x := getDma s1 ch
  let s2 := if moved then
      rputN (setDma s1 ch { x with head := 0, tail := 0, fetched := [], st := if x.st = 5 then 5 else 0 }) page 0 0x10C 0
    else s1
  genSet s2 page n.gen

/-- The period of timer `t` in 2^-16 ns, its base and its enable (R277, R285). -/
def tmrBase (s : State) (t : Nat) : Time := rgetDt s (dmaPage 0) 0 (0x184 + t * 0x20)
def tmrPeriod (s : State) (t : Nat) : Time := rget64 s (dmaPage 0) 0 (0x190 + t * 0x20)
def tmrOn (s : State) (t : Nat) : Bool := rbits s (dmaPage 0) 0 (0x180 + t * 0x20) 0 0 == 1

/-- The first instant base + k × period, k ≥ 0, that is at least `t` (R277); none for a period of 0. -/
def firstTick (base period t : Time) : Option Time :=
  if t ≤ base then some base else if period = 0 then none else some (base + cdiv (t - base) period * period)

/-- Apply the timers of channel 0's page (R277): an enabled timer ticks at its instants at least 1 µs after the COMMIT; one
that was enabled with the same base and period goes on. -/
def applyTimers (s : State) (n : Snap) : State :=
  let s1 := genSet (applyVals s n.vals) (dmaPage 0) n.gen
  (List.range 8).foldl (fun s2 t =>
    let x : Timer := ngetD s2.timers t {}
    let same := tmrOn s t && tmrBase s1 t == tmrBase s t && tmrPeriod s1 t == tmrPeriod s t && x.next.isSome
    let nx : Timer := if !tmrOn s1 t then {}
      else if same then x
      else ⟨firstTick (tmrBase s1 t) (tmrPeriod s1 t) (n.at_ + usT 1), n.at_ + usT 1⟩
    { s2 with timers := nset s2.timers t nx }) s1

/-- An admitted stream uses this partition (R232). -/
def mpHeld (s : State) (mp : Nat) : Bool := decide (mp < 16) && anyAdm s fun _ x => x.adm.mp == mp

/-- The bytes of a pseudo-channel are lost with its power (R232). -/
def losePc (s : State) (pc : Nat) : State :=
  { s with
    hbm := s.hbm.filter fun e => e.1 / pcBytes != pc
    hbmPoison := s.hbmPoison.filter fun b => b / pcBlocks != pc }

/-- The region that a committed HBM_PC_MAP field gives a pseudo-channel: only the booth changes a partition that holds an
admitted stream (R232). -/
def newRegion (s : State) (pc v : Nat) : Nat :=
  let old := pcRegion s pc
  if old ≠ v ∧ (mpHeld s old = true ∨ mpHeld s v = true) then old else v

/-- Apply the snapshot of an HBM controller page (R232): a pseudo-channel that comes into no region loses its contents. -/
def applyHbm (s : State) (page c : Nat) (n : Snap) : State :=
  let w := snapGet s n.vals page 0 0x100
  let r0 := newRegion s (2 * c) (bits w 4 0)
  let r1 := newRegion s (2 * c + 1) (bits w 12 8)
  let s1 := rputN (genSet (applyVals s n.vals) page n.gen) page 0 0x100 (setBits (setBits w 4 0 r0) 12 8 r1)
  let s2 := if 16 < r0 then losePc s1 (2 * c) else s1
  if 16 < r1 then losePc s2 (2 * c + 1) else s2

/-- Apply the FSYNC and CLKOUT registers of a SENSOR page (R160, R163): FSYNC runs from its first instant at least 1 µs
after the COMMIT; a driven pin rests at the level that POL makes idle. -/
def applyFsync (s : State) (page i : Nat) (n : Snap) : State :=
  let s1 := genSet (applyVals s n.vals) page n.gen
  let nx := if rbits s1 page 0 0x140 0 0 = 1 then firstTick (rgetDt s1 page 0 0x144) (rget64 s1 page 0 0x150) (n.at_ + usT 1)
    else none
  let x := getSensor s1 i
  setSensor s1 i { x with
    fsyncNext := nx, fsyncFrom := n.at_ + usT 1, fsyncHigh := (rbits s1 page 0 0x140 1 1 == 1 && nx.isSome) != (x.fsyncOn && nx.isSome), fsyncOn := x.fsyncOn && nx.isSome }

/-- A pending snapshot becomes operative, or fails its checks (R66). A fenced block's snapshot applies too: registers are not
stopped by a fence. -/
def snapApply (s : State) (n : Snap) : State :=
  let page := n.page
  let bank := n.bank
  let s1 := { s with snaps := s.snaps.filter fun m => !(m.page == page && m.bank == bank) }
  match pageAt page with
  | some (.sched, _) =>
    if bank < 4096 then applyFlow s1 bank n else if bank < 4160 then applySvc s1 (bank - 4096) n else applyRing s1 (bank - 4160) n
  | some (.fifo, _) => applyFifo s1 bank n
  | some (.qmgr, _) => genSet (rputN (applyVals s1 n.vals) qmgrPg bank 0x2FC n.gen.toNat) qmgrPg n.gen
  | some (.sensor, i) => if bank = 1 then applyFsync s1 page i n else genSet (applyVals s1 n.vals) page n.gen
  | some (.dma, ch) => if bank = 1 then applyTimers s1 n else applyDma s1 page ch n
  | some (.hbm, c) => applyHbm s1 page c n
  | some (.selfold, p) => applySf s1 page p n
  | some _ => genSet (applyVals s1 n.vals) page n.gen
  | none => s1

/-- The pending snapshots that satisfy a test apply: the natural boundary of their blocks has come (R68). -/
def applySnaps (s : State) (sel : Snap → Bool) : State := (s.snaps.filter sel).foldl snapApply s

/-- The block accepts new work: enabled, not quiesced, not about to drop ENABLE, not fenced or in reset. -/
def takesWork (s : State) (page : Nat) : Bool :=
  let h := hdr s page
  h.enable && !h.quiesce && !h.dropEnable && blockUp s page

/-- DMA_STATUS.STATE (R285): an idle channel with posted descriptors and none fetched is fetching. CONFIRM lasts only inside
the step that ends a descriptor (assumption 12). -/
def dmaState (s : State) (ch : Nat) : Nat :=
  let x := getDma s ch
  if x.st == 0 && x.fetched.isEmpty && x.head != x.tail && x.bound.isNone && takesWork s (dmaPage ch) then 1 else x.st

/-! ## Natural boundaries (R68) -/

/-- The block has accepted work outstanding (PAGE_STATUS.ACTIVE when enabled). -/
def blockActive (s : State) (page : Nat) : Bool :=
  match pageAt page with
  | some (.tile, n) => (getTile s n).job.isSome || (getTile s n).run == 1 || (getTile s n).run == 2 || (getTile s n).run == 3
  | some (.dma, n) => dmaState s n != 0 && dmaState s n != 5
  | some (.crc, n) => (getCrc s n).busy
  | some (.sensor, n) => anyAdm s fun _ x =>
      Ct.source x.block == 0 && Ct.ports x.block / 2 ^ n % 2 == 1 && x.frame.isSome
  | _ => false

/-- The port whose Carousel list gives a snapshot of an ETH, SCHED or SELFOLD page its boundary: the page's own port, the one
named in a flow or service, L02 or L07 by the LOC of a ring (R68, R330). -/
def snapPort (s : State) (n : Snap) : Option Nat :=
  match pageAt n.page with
  | some (.eth, i) => some i
  | some (.selfold, i) => some (3 + i)
  | some (.sched, _) =>
    if n.bank < 4096 then some (bits (snapGet s n.vals schedPg n.bank 0x200) 10 8)
    else if n.bank < 4160 then some (bits (snapGet s n.vals schedPg (n.bank - 4096) 0x300) 10 8)
    else some (if bits (snapGet s n.vals schedPg (n.bank - 4160) 0x388) 8 8 = 1 then 7 else 2)
  | _ => none

/-- A cycle of a port's list has started since a snapshot was committed. -/
def cycleSince (s : State) (p : Nat) (n : Snap) : Bool := decide (n.at_ < carCycleStart (getCar s p).oper s.dt)

/-- The natural boundary of a snapshot has come (R68): a cycle start for a port's pages, an L24 window for memory, a queue with
nothing to fetch, a FIFO instance between packets, a block that is disabled or idle. The boundaries inside work (a job's or
descriptor's end, a new frame, an entry fetch, a packet's end) come with the command that ends it. -/
def atBoundary (s : State) (n : Snap) : Bool :=
  match pageAt n.page with
  | some (.eth, _) | some (.selfold, _) | some (.sched, _) =>
    (match snapPort s n with | some p => cycleSince s p n | none => false)
  | some (.hbm, _) | some (.phy, _) => (match lastL24 s with | some t => decide (n.at_ < t) | none => false)
  | some (.qmgr, _) => (getQ s n.bank).st == 0 || (getQ s n.bank).fetch == (getQ s n.bank).tail
  | some (.fifo, _) => !fifoOn s n.bank || !(getFifo s n.bank).inPkt
  | some (.dma, _) | some (.sensor, _) => n.bank == 1 || !(hdr s n.page).enable || !blockActive s n.page
  | some (.tile, _) => !(hdr s n.page).enable || !blockActive s n.page
  | some _ => true
  | none => false

/-- SHADOW_APPLY (R66, R68): at its natural boundary the pending snapshot of a page's instance applies. -/
def shadowApply (page bank : Nat) (s : State) : State :=
  match s.snaps.find? fun n => n.page == page && n.bank == bank with
  | none => s
  | some n => if atBoundary s n then snapApply s n else s

/-- The snapshots that wait for the cycle of list `l` apply when one has started (R68). -/
def cycleSnaps (l : Nat) (s : State) : State := applySnaps s fun n => snapPort s n == some l && cycleSince s l n

/-- FIFO_WRITE (R268, R68): a word that ends its packet is the write side's packet boundary. -/
def fifoWriteEnd (f : Nat) (w : LW) (s : State) : State :=
  let s1 := fifoWrite f w s
  if (getFifo s f).inPkt && !(getFifo s1 f).inPkt then applySnaps s1 fun n => n.page == fifoPg && n.bank == f else s1

def execFifoWrite (fifo : Nat) (word : BitVec 36) (s : State) : Out := act (fifoWriteEnd fifo word) s

/-! ## ENABLE, QUIESCE, IDLE (R62, R489) -/

def pageKindOf (page : Nat) : Option PageKind := (pageAt page).map (·.1)

/-- PAGE_CTRL.ENABLE written (R62, R489): ignored on a page without QUIESCE; 0 while ACTIVE waits for IDLE; 0 to 1 lets a
HALTED DMA channel fetch again at HEAD (R281). -/
def pageEnable (page : Nat) (on : Bool) (s : State) : State :=
  match pageAt page with
  | some (k, i) =>
    if !canQuiesce k then s
    else
      let h := hdr s page
      if on then
        let s1 := setHdr s page { h with enable := true, dropEnable := false }
        if k = .dma ∧ !h.enable ∧ (getDma s i).st = 5 then setDma s1 i { getDma s i with st := 0, fetched := [] } else s1
      else if h.enable && blockActive s page then setHdr s page { h with dropEnable := true }
      else setHdr s page { h with enable := false, dropEnable := false }
  | none => s

/-- PAGE_CTRL.QUIESCE written (R62, R489). -/
def pageQuiesce (page : Nat) (on : Bool) (s : State) : State :=
  match pageKindOf page with
  | some k => if canQuiesce k then setHdr s page { hdr s page with quiesce := on } else s
  | none => s

/-- BLOCK_REACHES_IDLE (R62): ENABLE drops once nothing accepted is outstanding. -/
def reachesIdle (page : Nat) (s : State) : State :=
  let h := hdr s page
  if h.dropEnable && !blockActive s page then setHdr s page { h with enable := false, dropEnable := false } else s

def execPageEnable (rq : Requester) (page : Nat) (on : Bool) (s : State) : Out :=
  .next (regOp rq page 0x008 (pageEnable page on) s)
def execPageQuiesce (rq : Requester) (page : Nat) (on : Bool) (s : State) : Out :=
  .next (regOp rq page 0x008 (pageQuiesce page on) s)
def execBlockReachesIdle (page : Nat) (s : State) : Out := act (reachesIdle page) s

/-! ## Granary commands (R258–R263): register writes of GRN_OP and GRN_MIN, and the engine's own events -/

def execAlloc (rq : Requester) (owner : BitVec 11) (pool : Nat) (wait : Bool) (s : State) : Out :=
  .next (regOp rq grnPg 0x140 (grnEnter rq owner.toNat false (grnAllocOp rq owner.toNat pool wait)) s)
def execFree (rq : Requester) (owner : BitVec 11) (pool addr : Nat) (s : State) : Out :=
  .next (regOp rq grnPg 0x140 (grnEnter rq owner.toNat false (grnFreeOp rq owner.toNat pool addr)) s)
def execCancel (rq : Requester) (s : State) : Out := .next (regOp rq grnPg 0x140 (grnCancelOp rq) s)
def execReclaim (rq : Requester) (owner : BitVec 11) (pool : Nat) (s : State) : Out :=
  .next (regOp rq grnPg 0x140 (grnEnter rq owner.toNat true (grnReclaimOp rq owner.toNat pool)) s)
def execGrnMin (rq : Requester) (owner : BitVec 11) (pool min : Nat) (s : State) : Out :=
  .next (regOp rq grnPg 0x134 (grnMinOp rq owner.toNat pool min) s)
def execGrnWaitTimeout (pool : Nat) (s : State) : Out := act (grnTimeoutOp pool) s
def execPoolEnable (rq : Requester) (pool : Nat) (s : State) : Out := .next (regOp rq grnPg 0x104 (poolEnableOp pool) s)
def execPoolReady (pool : Nat) (s : State) : Out := act (poolReadyOp pool) s
def execPoolDisable (rq : Requester) (pool : Nat) (s : State) : Out := .next (regOp rq grnPg 0x104 (poolDisableOp pool) s)

end Sys2Proof.Machine
end

