-- ==== Sys2Proof/Machine/Dma.lean ====
section
/-! DEFINITION. DMA channels and their timers (R271–R282, R285) and the check-value units (R283, R284, R286). A transfer's
bytes move at the command that ends it (assumption 12). -/
namespace Sys2Proof.Machine

/-- Bytes of a location, each with its poison mark and the error class its read meets (R230, R278, R280, R281). Host memory
answers in completions of 64 aligned bytes, the unit to which reads are rounded (assumption 69). -/
def rdBytes (s : State) (loc addr n : Nat) : List (Byte × Bool × Option Nat) :=
  if loc = 0 then
    (List.range n).map fun i =>
      let a := addr + i
      (bget s.hostMem a, hostPoisonAt s (a / 64 * 64) 64, hostErrAt s (a / 64 * 64) 64)
  else
    let at_ := hbmLocs s addr n
    (List.range n).map fun i =>
      match at_ i with
      | some (p, o) => (bget s.hbm (hbmKey p o), s.hbmPoison.contains (hbmBlock (hbmKey p o)), none)
      | none => (0, true, some 5)

/-- Write a line of bytes to host memory TLP by TLP (R281): one that carries a poisoned byte is sent poisoned, one that the host
refuses is lost. The first argument bounds the TLPs. -/
def wrTlps : Nat → State → Nat → List (Byte × Bool) → State
  | 0, s, _, _ => s
  | f + 1, s, a, bs =>
    match bs with
    | [] => s
    | _ =>
      let size := max 1 Config.tlpBytes
      let n := size - a % size
      let t := bs.take n
      wrTlps f (memWrite s 0 a (t.map (·.1)) (t.any (·.2))) (a + n) (bs.drop n)

/-- Write a line of bytes with their poison marks (R281); bytes that a host range refuses are lost. -/
def wrBytes (s : State) (loc addr : Nat) (bs : List (Byte × Bool)) : State :=
  if loc = 0 then
    if bs.any (·.2) || (hostErrAt s addr bs.length).isSome then wrTlps bs.length s addr bs
    else memWrite s 0 addr (bs.map (·.1)) false
  else
    let s1 := writeLoc s loc addr (bs.map (·.1)) false
    let at_ := hbmLocs s addr bs.length
    ((List.range bs.length).zip bs).foldl (fun s ib =>
      if ib.2.2 then
        match at_ ib.1 with
        | some (p, o) => { s with hbmPoison := hbmPoisonAfter s.hbmPoison (hbmBlock (hbmKey p o)) false true }
        | none => s
      else s) s1

/-! ## Descriptors (R273–R275) -/

/-- One side of a descriptor: address, line length, stride, line count, location. -/
structure DSide where
  addr : Nat
  line : Nat
  stride : Int
  count : Nat
  loc : Nat
  deriving DecidableEq, Repr

/-- The source side, and the destination side. -/
def dSrc (d : List Byte) : DSide :=
  ⟨leAt d 8 8, leAt d 0x18 4 % 2 ^ 24 + 1, signed 32 (leAt d 0x1C 4), leAt d 0x28 2 + 1, bits (leAt d 0x18 4) 25 24⟩
def dDst (d : List Byte) : DSide :=
  ⟨leAt d 0x10 8, leAt d 0x20 4 % 2 ^ 24 + 1, signed 32 (leAt d 0x24 4), leAt d 0x2A 2 + 1, bits (leAt d 0x20 4) 25 24⟩

/-- The start of line i (R274). -/
def DSide.at (x : DSide) (i : Nat) : Int := (x.addr : Int) + (i : Int) * x.stride

/-- The stream length of a side. -/
def DSide.total (x : DSide) : Nat := x.line * x.count

/-- Every line lies in the 64-bit address space; lines rise or fall evenly, so the first and last decide. -/
def DSide.inSpace (x : DSide) : Bool :=
  decide (0 ≤ x.at 0) && decide (0 ≤ x.at (x.count - 1)) && decide (x.at 0 + x.line ≤ 2 ^ 64) &&
    decide (x.at (x.count - 1) + x.line ≤ 2 ^ 64)

/-- TRIG of a descriptor. -/
def dTrig (d : List Byte) : Nat := byteAt d 1

/-- TRIG_ARG keeps only the fields of its trigger. -/
def dArgOk (ch trig a : Nat) : Bool :=
  if trig = 9 then bits a 15 5 == 0 && bits a 4 0 != ch
  else if trig = 10 then bits a 31 4 == 0
  else a == 0

/-- A descriptor passes validation (R275). -/
def descOk (ch : Nat) (d : List Byte) : Bool :=
  decide (byteAt d 0 < 4) && decide (dTrig d ≤ 10) && dArgOk ch (dTrig d) (leAt d 4 4) &&
    decide (leAt d 0x18 4 < 2 ^ 25) && decide (leAt d 0x20 4 < 2 ^ 25) && decide (bits (leAt d 0x18 4) 25 24 < 2) &&
    decide (bits (leAt d 0x20 4) 25 24 < 2) && zeroAt d 0x2C 4 && (dSrc d).total == (dDst d).total &&
    (dSrc d).inSpace && (dDst d).inSpace

/-! ## A channel's ring -/

def dmaLog (s : State) (ch : Nat) : Nat := rbits s (dmaPage ch) 0 0x108 4 0
def dmaLoc (s : State) (ch : Nat) : Nat := rbits s (dmaPage ch) 0 0x108 8 8
/-- Where the descriptor at a position lies. -/
def descAddr (s : State) (ch p : Nat) : Nat :=
  rget64 s (dmaPage ch) 0 0x100 + p % 2 ^ dmaLog s ch * 64

/-- Channels whose descriptor at HEAD chains on a reached count start (R276). -/
def dmaChains (s : State) : State :=
  { s with dmas := s.dmas.map fun e =>
      match e.2.fetched with
      | d :: _ =>
        let a := leAt d.bytes 4 4
        if e.2.st = 2 ∧ dTrig d.bytes = 9 ∧
            ((getDma s (bits a 4 0)).seq - BitVec.ofNat 16 (bits a 31 16)).toNat < 2 ^ 15
        then (e.1, { e.2 with st := 3 }) else e
      | [] => e }

/-- End the descriptor at HEAD (R280): write back, advance HEAD, count; a committed ring takes effect (R68). Status 1 DONE, 2
BAD, 3 POISONED. -/
def descEnd (s : State) (ch status cls off : Nat) : State :=
  let x := getDma s ch
  match x.fetched with
  | [] => s
  | d :: rest =>
    let pg := dmaPage ch
    let n := dmaLog s ch
    let a := descAddr s ch d.pos
    let loc := dmaLoc s ch
    let s1 := writeLoc s loc (a + 0x30) (toLE 8 (nowNs s) ++ toLE 8 off) false
    let s2 := writeLoc s1 loc a (putAt (d.bytes.take 8) 2 (toLE 1 status ++ toLE 1 cls)) false
    let h := fifoAdd n x.head 1
    let s3 := setDma s2 ch { x with head := h, seq := x.seq + 1, st := 0, fetched := rest }
    let s4 := if byteAt d.bytes 0 / 2 % 2 = 1 then setEvt s3 pg 0 else s3
    let s5 := if status = 2 then setEvt (bump s4 pg 0 0x11C 1) pg 1 else s4
    let s6 := if h = x.tail then setEvt s5 pg 2 else s5
    let s7 := if status = 2 ∧ 2 ≤ cls ∧ cls ≤ 6 then raiseFault s6 pg 0 0 else s6
    let s8 := if status = 3 then raiseFault s7 pg 2 0 else s7
    dmaChains (applySnaps s8 fun n => n.page == pg && n.bank == 0)

/-- Take up the descriptor at HEAD (R275, R276): an invalid one ends BAD, the next is looked at; else it waits for its
trigger or runs. -/
def dmaHead : Nat → State → Nat → State
  | 0, s, _ => s
  | f + 1, s, ch =>
    let x := getDma s ch
    if x.st ≠ 0 ∨ !takesWork s (dmaPage ch) then s
    else match x.fetched with
      | [] => s
      | d :: _ =>
        if !descOk ch d.bytes then dmaHead f (descEnd s ch 2 1 0) ch
        else if dTrig d.bytes = 0 then setDma s ch { x with st := 3 }
        else dmaChains (setDma s ch { x with st := 2 })

/-- The channel stops at HEAD in HALTED (R281). -/
def dmaHalt (s : State) (ch : Nat) : State :=
  raiseFault (setDma s ch { getDma s ch with st := 5, fetched := [] }) (dmaPage ch) 1 0

/-- DESCRIPTOR_FETCH (R272): the next posted descriptor, up to two ahead of HEAD. -/
def descFetch (ch : Nat) (s : State) : State :=
  let x := getDma s ch
  let n := dmaLog s ch
  let p := fifoAdd n x.head x.fetched.length
  if 32 ≤ ch ∨ !takesWork s (dmaPage ch) ∨ x.st = 5 ∨ x.bound.isSome then s
  else if p = x.tail ∨ 2 < x.fetched.length then dmaHead 4 s ch
  else
    let r := readLoc s (dmaLoc s ch) (descAddr s ch p) 64
    match r.1.2.1 with
    | some _ => if x.fetched.isEmpty then dmaHalt r.2 ch else r.2
    | none => dmaHead 4 (setDma r.2 ch { x with fetched := x.fetched ++ [⟨p, r.1.1⟩] }) ch

/-! ## The transfer (R274, R278–R281) -/

/-- The source stream, line by line. -/
def srcStream (s : State) (x : DSide) : List (Byte × Bool × Option Nat) :=
  (List.range x.count).flatMap fun i => rdBytes s x.loc (x.at i).toNat x.line

/-- The class of the first destination error at or after an offset, with its offset: HBM range only, since a posted host
write returns no status. -/
def dstErr (s : State) (x : DSide) : Option Nat :=
  if x.loc = 0 then none
  else (findIx (fun i => (hbmLoc s ((x.at (i / x.line)).toNat + i % x.line)).isNone) (List.range x.total) 0).map (·.1)

/-- Write the first part of a stream to the destination lines, in order. -/
def writeLines (s : State) (x : DSide) : Nat → Nat → List (Byte × Bool) → State
  | 0, _, _ => s
  | f + 1, i, bs =>
    match bs with
    | [] => s
    | _ => writeLines (wrBytes s x.loc (x.at i).toNat (bs.take x.line)) x f (i + 1) (bs.drop x.line)

/-- The first and the last byte address of a side's pattern. -/
def DSide.span (x : DSide) : Int × Int :=
  (min (x.at 0) (x.at (x.count - 1)), max (x.at 0) (x.at (x.count - 1)) + x.line)

/-- A byte address lies in a side's pattern (R274). -/
def DSide.holds (x : DSide) (a : Nat) : Bool :=
  (List.range x.count).any fun i => decide (x.at i ≤ (a : Int)) && decide ((a : Int) < x.at i + x.line)

/-- Source and destination lie in one memory and their spans meet, so that bytes of them may overlap (R274). -/
def dMeets (d : List Byte) : Bool :=
  (dSrc d).loc == (dDst d).loc && decide ((dSrc d).span.1 < (dDst d).span.2) && decide ((dDst d).span.1 < (dSrc d).span.2)

/-- Where byte `k` of the stream goes. -/
def DSide.byteAt_ (x : DSide) (k : Nat) : Nat := (x.at (k / x.line)).toNat + k % x.line

/-- A stream with free values, numbered from `c`, in the destination bytes that overlap the source (R274, assumption 2). -/
def freeOverlap (d : List Byte) (c : Nat) (bs : List (Byte × Bool)) : List (Byte × Bool) :=
  ((List.range bs.length).zip bs).map fun e =>
    if (dSrc d).holds ((dDst d).byteAt_ e.1) then (Config.freeByte (c + e.1), e.2.2) else e.2

/-- Move the first `n` bytes of the stream of a descriptor. -/
def moveBytes (s : State) (d : List Byte) (n : Nat) : State :=
  let bs := ((srcStream s (dSrc d)).take n).map fun b => (b.1, b.2.1)
  if dMeets d then writeLines { s with freeCtr := s.freeCtr + bs.length } (dDst d) (dDst d).count 0 (freeOverlap d s.freeCtr bs)
  else writeLines s (dDst d) (dDst d).count 0 bs

/-- What the reads of the first `n` stream bytes raise at the HBM controllers (R230, R241): each line reads its own blocks
(R278). -/
def readNotes (s : State) (x : DSide) (n : Nat) : State :=
  if x.loc = 0 then s
  else (List.range x.count).foldl (fun s i => ueBlocks s (badBlocks s (x.at i).toNat (min x.line (n - i * x.line)))) s

/-- The first error of a descriptor: the stream offset before it and its class. -/
def moveErr (s : State) (d : List Byte) : Option (Nat × Nat) :=
  let se := (findIx (fun b => b.2.2.isSome) (srcStream s (dSrc d)) 0).map fun r => (r.1, r.2.2.2.getD 0)
  match se, dstErr s (dDst d) with
  | none, none => none
  | some a, none => some a
  | none, some k => some (k, 5)
  | some a, some k => if k < a.1 then some (k, 5) else some a

/-- A descriptor asks for the read-back of its last write (R279). -/
def dConfirm (d : List Byte) : Bool := byteAt d 0 % 2 == 1

/-- The read-back of CONFIRM (R279) meets an error, and what the read raises (R230, R241). -/
def confirmRead (s : State) (d : List Byte) : Bool × State :=
  let x := dDst d
  if dConfirm d then
    let r := readLoc s x.loc (((x.at (x.count - 1)).toNat + x.line - 1) / 4 * 4) 4
    (r.1.2.1.isSome, r.2)
  else (false, s)

/-- The transfer stops at an error after `k` bytes (R281); an access out of range raises HBM_RANGE (R230). -/
def dmaStop (s : State) (ch : Nat) (d : List Byte) (k cls : Nat) : State :=
  let s1 := readNotes (moveBytes s d k) (dSrc d) k
  descEnd (if cls = 5 then rangeFault s1 else s1) ch 2 cls k

/-- The whole transfer, and whether a byte of it was poisoned. -/
def dmaMove (s : State) (d : List Byte) : State × Bool :=
  (readNotes (moveBytes s d (dSrc d).total) (dSrc d) (dSrc d).total, (srcStream s (dSrc d)).any fun b => b.2.1)

/-- DESCRIPTOR_END (R280): the transfer, its error or poison, the optional confirm, and the end. -/
def descRun (ch : Nat) (s : State) : State :=
  let x := getDma s ch
  match x.fetched with
  | [] => s
  | d :: _ =>
    if 32 ≤ ch ∨ x.st ≠ 3 ∨ !blockUp s (dmaPage ch) then s
    else
      let total := (dSrc d.bytes).total
      dmaHead 4 (match moveErr s d.bytes with
        | some (k, c) => dmaStop s ch d.bytes k c
        | none =>
          let m := dmaMove s d.bytes
          let c := confirmRead m.1 d.bytes
          if c.1 then descEnd c.2 ch 2 6 total
          else if m.2 then descEnd c.2 ch 3 8 0
          else descEnd c.2 ch 1 0 0) ch

/-- DMA_BUS_ERR (R281): the bytes of the stream written before the error, and its class; an error that comes earlier in the
stream stops the transfer there. A failed read-back needs CONFIRM (R279). -/
def dmaBusErr (ch written cls : Nat) (s : State) : State :=
  let x := getDma s ch
  match x.fetched with
  | [] => s
  | d :: _ =>
    if 32 ≤ ch ∨ x.st ≠ 3 ∨ !blockUp s (dmaPage ch) ∨ cls < 2 ∨ 6 < cls ∨ (cls = 6 ∧ dConfirm d.bytes = false) then s
    else
      let total := (dSrc d.bytes).total
      let k := if cls = 6 then total else min written total
      dmaHead 4 (match moveErr s d.bytes with
        | some (e, c) => if e ≤ k then dmaStop s ch d.bytes e c else dmaStop s ch d.bytes k cls
        | none => if cls = 6 then descEnd (dmaMove s d.bytes).1 ch 2 6 total else dmaStop s ch d.bytes k cls) ch

/-- DMA_FETCH_ERR (R281): the fetch at HEAD fails. -/
def dmaFetchErr (ch : Nat) (s : State) : State :=
  let x := getDma s ch
  if 32 ≤ ch ∨ !takesWork s (dmaPage ch) ∨ x.st = 5 ∨ x.bound.isSome ∨ x.head = x.tail ∨ !x.fetched.isEmpty then s
  else dmaHalt s ch

/-- PAGE_CTRL.ABORT of a channel (R282): the current descriptor stops with class ABORTED after a number of bytes that the
spec leaves open (assumption 2) but that lies before any bus error, then ENABLE clears. -/
def dmaAbort (s : State) (ch : Nat) : State :=
  let x := getDma s ch
  let s1 := match x.fetched with
    | d :: _ =>
      if x.st = 3 then
        let f := fresh s
        let most := match moveErr s d.bytes with | some (e, _) => e | none => (dSrc d.bytes).total
        let k := (Config.freeWord f.1).toNat % (most + 1)
        dmaStop f.2 ch d.bytes k 7
      else if x.st = 2 then descEnd s ch 2 7 0
      else s
    | [] => s
  setHdr s1 (dmaPage ch) { hdr s1 (dmaPage ch) with enable := false, dropEnable := false }

/-! ## Triggers -/

/-- An event that fires one trigger reaches every enabled channel: the descriptor waiting on it at HEAD runs; a channel
without one counts a lost trigger (R276). -/
def dmaFire (s : State) (waits : List Byte → Bool) : State :=
  (List.range 32).foldl (fun s ch =>
    let x := getDma s ch
    let pg := dmaPage ch
    if !(hdr s pg).enable || x.bound.isSome || !blockUp s pg then s
    else if x.st == 2 && (match x.fetched with | d :: _ => waits d.bytes | [] => false) then setDma s ch { x with st := 3 }
    else setEvt (bump s pg 0 0x120 1) pg 3) s

/-- A frame opens (edge 0) or closes (edge 1) on the sensor ports of a mask (R276). -/
def dmaFrameEvent (s : State) (ports edge : Nat) : State :=
  ((List.range 8).filter fun p => ports / 2 ^ p % 2 == 1).foldl (fun s p =>
    dmaFire s fun d => dTrig d == 10 && bits (leAt d 4 4) 2 0 == p && bits (leAt d 4 4) 3 3 == edge) s

/-- TIMER_TICK (R277): the timer's instant has come; the next is one period on. -/
def timerTick (t : Nat) (s : State) : State :=
  let x : Timer := ngetD s.timers t {}
  match x.next with
  | some at_ =>
    if 8 ≤ t ∨ !tmrOn s t ∨ s.dt < at_ ∨ !blockUp s (dmaPage 0) then s
    else
      let p := tmrPeriod s t
      dmaFire { s with timers := nset s.timers t { x with next := if p = 0 then none else some (at_ + p) } } fun d => dTrig d == t + 1
  | none => s

/-- DMA_TAIL written (R271). -/
def dmaTailOp (ch : Nat) (tail : Nat) (s : State) : State :=
  let n := dmaLog s ch
  let x := getDma s ch
  let t := posOf n tail
  if 2 ^ n < ringDist n x.head t then bump s (dmaPage ch) 0 0x124 1
  else setDma (rputN s (dmaPage ch) 0 0x10C (idxOf n t)) ch { x with tail := t }

def execDmaTail (rq : Requester) (ch : Nat) (tail : BitVec 17) (s : State) : Out :=
  .next (regOp rq (dmaPage ch) 0x10C (fun s => if ch < 32 then dmaTailOp ch tail.toNat s else s) s)
def execDescriptorFetch (ch : Nat) (s : State) : Out := act (descFetch ch) s
def execTimerTick (timer : Nat) (s : State) : Out := act (timerTick timer) s
def execDescriptorEnd (ch : Nat) (s : State) : Out := act (descRun ch) s
def execDmaBusErr (ch written cls : Nat) (s : State) : Out := act (dmaBusErr ch written cls) s
def execDmaFetchErr (ch : Nat) (s : State) : Out := act (dmaFetchErr ch) s

/-! ## Check-value units (R283, R284) -/

def crcWidth (s : State) (u : Nat) : Nat := rbits s (crcPage u) 0 0x118 6 0
def crcMask (s : State) (u v : Nat) : Nat := v % 2 ^ crcWidth s u
def crcLen (s : State) (u : Nat) : Nat := rget64 s (crcPage u) 0 0x128

/-- VAL after the first `n` bytes of the scan. -/
def crcOver (s : State) (u n : Nat) : Nat :=
  crcFeed (crcWidth s u) (crcMask s u (rget64 s (crcPage u) 0 0x100)) (rbits s (crcPage u) 0 0x118 8 8 == 1)
    (getCrc s u).val.toNat
    ((rdBytes s (rbits s (crcPage u) 0 0x118 17 16) (rget64 s (crcPage u) 0 0x120) n).map (·.1))

/-- RESULT of a unit. -/
def crcRes (s : State) (u : Nat) : Nat :=
  crcResult (crcWidth s u) (rget64 s (crcPage u) 0 0x110) (rbits s (crcPage u) 0 0x118 9 9 == 1) (getCrc s u).val.toNat

/-- A write of POLY, INIT, XOROUT or VAL: the bits at and above WIDTH are ignored (R283). -/
def crcKeep (s : State) (u old v : Nat) : Nat := old - crcMask s u old + crcMask s u v

/-- A command that a busy or quiesced unit denies (R284, R489); a disabled or fenced unit takes no work. -/
def crcCmd (u : Nat) (op : CrcU → CrcU) (s : State) : State :=
  let x := getCrc s u
  let h := hdr s (crcPage u)
  if x.busy || h.quiesce || h.dropEnable then bump s (crcPage u) 0 0x150 1
  else if !takesWork s (crcPage u) then s
  else setCrc s u (op x)

def crcInit (s : State) (u : Nat) : BitVec 64 := BitVec.ofNat 64 (crcMask s u (rget64 s (crcPage u) 0 0x108))

/-- The scan stops with an error after `fed` bytes (R284). -/
def crcFail (s : State) (u fed cls : Nat) : State :=
  let x := getCrc s u
  let n := min fed (crcLen s u)
  raiseFault (setEvt (setCrc s u { x with
    val := BitVec.ofNat 64 (crcOver s u n), pos := n, busy := false, err := true, cls := cls }) (crcPage u) 1) (crcPage u) 0 0

/-- The first of the first `n` bytes of a scan that meets an error or poison, and its class (R280, R284). -/
def scanBad (s : State) (u n : Nat) : Option (Nat × Nat) :=
  (findIx (fun b => b.2.2.isSome || b.2.1)
    (rdBytes s (rbits s (crcPage u) 0 0x118 17 16) (rget64 s (crcPage u) 0 0x120) n) 0).map fun r => (r.1, r.2.2.2.getD 8)

/-- The scan meets that error: the memory controller raises what the access raises (R230, R241), the unit stops. -/
def scanStop (s : State) (u : Nat) (e : Nat × Nat) : State :=
  let loc := rbits s (crcPage u) 0 0x118 17 16
  let s1 := noteRange s loc (some e.2)
  crcFail (if loc = 0 then s1 else ueBlocks s1 (badBlocks s1 (rget64 s (crcPage u) 0 0x120 + e.1) 1)) u e.1 e.2

/-- SCAN_DONE: every byte is fed, unless memory answers an error or poison first. -/
def scanDone (u : Nat) (s : State) : State :=
  let x := getCrc s u
  if 8 ≤ u ∨ !x.busy ∨ !blockUp s (crcPage u) then s
  else
    let n := crcLen s u
    match scanBad s u n with
    | some e => scanStop s u e
    | none => setEvt (setCrc s u { x with val := BitVec.ofNat 64 (crcOver s u n), pos := n, busy := false }) (crcPage u) 0

/-- What an HBM controller raises for a read of a scan's byte that it answers with an error or poison (R230, R241). -/
def scanMeet (s : State) (u fed cls : Nat) : State :=
  if rbits s (crcPage u) 0 0x118 17 16 = 0 then s
  else if cls = 8 then
    match hbmLoc s (rget64 s (crcPage u) 0 0x120 + fed) with
    | some l => ueBlocks s [hbmBlock (hbmKey l.1 l.2)]
    | none => s
  else noteRange s 1 (some cls)

/-- SCAN_ERR: a bus error or poison stops the scan; one that memory holds at or before the failing byte comes first. -/
def scanErr (u fed cls : Nat) (s : State) : State :=
  if 8 ≤ u ∨ !(getCrc s u).busy ∨ !blockUp s (crcPage u) ∨ cls < 2 ∨ 8 < cls then s
  else match scanBad s u (min (fed + 1) (crcLen s u)) with
    | some e => scanStop s u e
    | none => crcFail (scanMeet s u fed cls) u fed cls

/-- STOP: the scan ends at the 32-byte boundary it reached, unless memory answers an error or poison first. -/
def crcStop (u fed : Nat) (s : State) : State :=
  let x := getCrc s u
  let n := min (cdiv fed 32 * 32) (crcLen s u)
  if !x.busy then s
  else match scanBad s u n with
    | some e => scanStop s u e
    | none => setCrc s u { x with val := BitVec.ofNat 64 (crcOver s u n), pos := n, busy := false }

/-- START and CONTINUE: a scan of LEN bytes begins. -/
def crcGo (x : CrcU) (v : BitVec 64) : CrcU := { x with val := v, pos := 0, busy := true, err := false, cls := 0 }

def onUnit (u : Nat) (op : State → State) (s : State) : State := if u < 8 then op s else s

def execStart (rq : Requester) (u : Nat) (s : State) : Out :=
  .next (regOp rq (crcPage u) 0x11C (onUnit u fun s => crcCmd u (fun x => crcGo x (crcInit s u)) s) s)
def execContinue (rq : Requester) (u : Nat) (s : State) : Out :=
  .next (regOp rq (crcPage u) 0x11C (onUnit u (crcCmd u fun x => crcGo x x.val)) s)
def execStop (rq : Requester) (u fed : Nat) (s : State) : Out :=
  .next (regOp rq (crcPage u) 0x11C (onUnit u (crcStop u fed)) s)
/-- LOAD_INIT: VAL := INIT with no scan; a busy unit denies it as it denies a write of VAL (assumption 12). -/
def crcLoad (u : Nat) (s : State) : State :=
  if (getCrc s u).busy then bump s (crcPage u) 0 0x150 1 else setCrc s u { getCrc s u with val := crcInit s u }

def execLoadInit (rq : Requester) (u : Nat) (s : State) : Out :=
  .next (regOp rq (crcPage u) 0x11C (onUnit u (crcLoad u)) s)
def execScanDone (u : Nat) (s : State) : Out := act (scanDone u) s
def execScanErr (u fed cls : Nat) (s : State) : Out := act (scanErr u fed cls) s

end Sys2Proof.Machine
end

