-- ==== Sys2Proof/Machine/Release.lean ====
section
/-! DEFINITION. What an admitted context holds and how its resources return to the pools at the end of a RELEASE (R34,
R35, R71, R232, R299, R318, R412, R414, R490). -/
namespace Sys2Proof.Machine

/-- The context's slot group is open in its partition's slot list (R42, R43, R237). -/
def slotOpen (s : State) (x : Ctx) : Bool := gateOpen s (8 + x.adm.mp) x.adm.grp

/-- A tile is reserved by an admitted contract. -/
def tileHeld (s : State) (t : Nat) : Bool := anyAdm s fun _ x => x.adm.tiles.contains t

/-- A tile is gated (R412): neither reserved nor lent to the bulk pool. -/
def tileGated (s : State) (t : Nat) : Bool :=
  (getTile s t).run == 0 && !(getTile s t).ungated && !tileHeld s t

/-- Gate a tile that returns to the bulk pool: its store is lost (R412). -/
def gateTile (s : State) (t : Nat) : State := setTile s t { getTile s t with store := [], poison := [], ungated := false }

/-- PORT_RSVn (R313, R330): the summed reservations of a port's admitted flows. -/
def portRsv (s : State) (p : Nat) : Nat :=
  sumN ((s.ctxs.filter fun e => e.2.kind == .admitted && Ct.port e.2.block == p).map fun e => e.2.adm.rsv) +
    sumN ((s.casc.transit.filter fun t => 3 + t.port == p).map (·.rate))

/-- Set the region of a pseudo-channel (R490). -/
def mapPc (s : State) (pc region : Nat) : State :=
  let pg := hbmPage (pc / 2)
  if pc % 2 = 0 then boothField s pg 0 0x100 4 0 region else boothField s pg 0 0x100 12 8 region

/-- Power off a pseudo-channel that leaves every region: its contents are lost (R232). -/
def dropPc (s : State) (pc : Nat) : State := losePc (mapPc s pc 31) pc

/-- Pseudo-channels of a released stream leave its partition when no other admitted stream uses it; else another stream of
the partition takes them over. -/
def releasePcs (s : State) (x : Ctx) : State :=
  match s.ctxs.find? fun e => e.2.kind == .admitted && e.2.adm.mp == x.adm.mp with
  | some (c, y) => setCtx s c { y with adm := { y.adm with pcs := y.adm.pcs ++ x.adm.pcs } }
  | none => x.adm.pcs.foldl dropPc s

/-- The resources of an admitted context return to the pools (R34). -/
def releaseDone (s : State) (c : Nat) : State :=
  match getCtx s c with
  | none => s
  | some x =>
    let b := x.block
    let s1 := { s with ctxs := ndel s.ctxs c, booth := { s.booth with admMw := s.booth.admMw - x.adm.pwrMw } }
    let s2 := x.adm.tiles.foldl gateTile s1
    let p := Ct.pool b
    let s3 := (setMin s2 p c 0).getD s2
    let s4 := if x.role = 2 then s3
      else boothField s3 schedPg (Ct.flow b) 0x200 7 7 0
    let s5 := setFifo (boothField s4 fifoPg x.adm.fifo 0x200 0 0 0) x.adm.fifo {}
    let s6 := if x.queue < 8192 then setQ s5 x.queue { getQ s5 x.queue with bound := none } else s5
    let s8 := { s6 with dmas := s6.dmas.map fun e => if e.2.bound = some c then (e.1, { e.2 with bound := none }) else e }
    breakOwner (releasePcs s8 x) c

/-- A stream end unit is still to be written for the context (R104); HEVC streams have none (R182). -/
def seDue (x : Ctx) : Bool := x.strm && Ct.mode x.block != 4

/-- Units of a context wait for egress or are on a port. -/
def unitsLeft (s : State) (c : Nat) : Bool :=
  (s.flows.any fun e => e.2.units.any fun u => u.ctx == c) ||
    (s.eports.any fun e => e.2.cur.any fun p => p.ctx == c)

/-- Entries of a host-fed context wait in its queue, which complete ABORTED before the release ends (R34). -/
def entriesLeft (s : State) (x : Ctx) : Bool :=
  Ct.source x.block == 1 && decide (x.queue < 8192) && (getQ s x.queue).next != (getQ s x.queue).tail

/-- A context past its RELEASE boundary with no picture left, its SE unit gone and every completion published returns its
resources (R34, R104). -/
def releaseCheck (s : State) (c : Nat) : State :=
  match getCtx s c with
  | some x =>
    if x.kind = .admitted ∧ x.rel = 2 ∧ x.pics.isEmpty = true ∧ x.encQ.isEmpty = true ∧ seDue x = false ∧
        unitsLeft s c = false ∧ (getQ s x.queue).slots.isEmpty = true ∧ entriesLeft s x = false then releaseDone s c
    else s
  | none => s

/-- The boundary of a RELEASE (R34): the context accepts nothing more, and the booth disconnects its sensor ports (R163). -/
def releaseBoundary (s : State) (c : Nat) : State :=
  match getCtx s c with
  | some x =>
    let s1 := setCtx s c { x with rel := 2 }
    releaseCheck (((List.range 8).filter fun n => Ct.source x.block == 0 && Ct.ports x.block / 2 ^ n % 2 == 1).foldl (fun s n =>
      let s' := boothField s (sensorPage n) 0 0x108 10 0 0x7FF
      setHdr s' (sensorPage n) { hdr s' (sensorPage n) with enable := false, dropEnable := false }) s1) c
  | none => s

end Sys2Proof.Machine
end

