-- ==== Sys2Proof/Machine/Queues.lean ====
section
/-! DEFINITION. Work queues and completion rings (R287–R311): doorbells, fetching, invalidation, starting entries by
weighted round robin, completion slots, staging, publication, enabling and quiescing. -/
namespace Sys2Proof.Machine

/-- A queue event with its number recorded in QMGR_LAST_Q (R311). -/
def qEvt (s : State) (q bit : Nat) : State := setEvt (rputN s qmgrPg 0 0x104 q) qmgrPg bit
/-- A queue fault with its number recorded. -/
def qFault (s : State) (q src : Nat) : State := raiseFault (rputN s qmgrPg 0 0x104 q) qmgrPg src 0

/-! ## Completion entries and slots (R301–R308) -/

/-- A completion entry (R304). -/
def mkCe (status cause ctx tag : Nat) (spec : List Byte) (doneNs : Nat) : List Byte :=
  toLE 1 status ++ toLE 1 cause ++ toLE 2 ctx ++ toLE 4 tag ++ padTo 16 spec ++ toLE 8 doneNs

/-- Bytes 0x08–0x17 of an encode completion (R189). -/
def encSpec (frame picNum bytes firstEmerg flags qp : Nat) : List Byte :=
  toLE 4 frame ++ toLE 4 picNum ++ toLE 4 bytes ++ toLE 2 firstEmerg ++ toLE 1 flags ++ toLE 1 qp

/-- Those of an entry that encoded no picture. -/
def encNone (frame flags : Nat) : List Byte := encSpec frame 0xFFFFFFFF 0 0xFFFF flags 0

/-- Bytes 0x08–0x17 of a decode completion (R201). -/
def decSpec (frame picNum bad kinds miss derr flags : Nat) : List Byte :=
  toLE 4 frame ++ toLE 4 picNum ++ toLE 4 bad ++ toLE 1 kinds ++ toLE 1 miss ++ toLE 1 derr ++ toLE 1 flags

def decNone (flags : Nat) : List Byte := decSpec 0xFFFFFFFF 0xFFFFFFFF 0 0 0 0 flags

/-- The opcode-specific bytes of an entry that ran nothing. -/
def seSpec (se : List Byte) : List Byte :=
  match byteAt se 0 with
  | 0x10 => encNone (leAt se 0x24 4) 0
  | 0x11 => encNone 0 8
  | 0x20 => decNone 0
  | 0x21 => decNone 8
  | _ => []

/-- CTX of an entry's completion: 0x7FF for NOP (R304). -/
def seCtx (se : List Byte) : Nat := if byteAt se 0 = 0 then 0x7FF else leAt se 2 2 % 2048

/-- The completion of an entry that ends with a status and ran nothing. -/
def seCe (s : State) (se : List Byte) (status : Nat) : List Byte :=
  mkCe status 0 (seCtx se) (leAt se 4 4) (seSpec se) (nowNs s)

/-- Take a completion slot at the end of a queue's order. -/
def takeSlot (s : State) (q : Nat) (se irq : Bool) (limit : Option Time) : Nat × State :=
  let x := getQ s q
  (s.nextId, setQ { s with nextId := s.nextId + 1 } q
    { x with slots := x.slots ++ [{ id := s.nextId, se := se, irq := irq, limit := limit }] })

/-- A slot's CE is finished; a slot that is no longer held changes nothing. -/
def finishSlot (s : State) (q id : Nat) (ce : List Byte) : State :=
  let x := getQ s q
  setQ s q { x with slots := x.slots.map fun c => if c.id = id ∧ c.st = 0 then { c with st := 1, ce := ce } else c }

/-- A frame's slot (R301, R307): none for a cascade member without a queue (R359), and none when 320 completions are unpublished, which is counted and raised. -/
def frameSlot (s : State) (q : Nat) (limit : Option Time) : Option Nat × State :=
  if 8192 ≤ q then (none, s)
  else if 320 ≤ (getQ s q).slots.length then (none, qFault (bump s qmgrPg q 0x250 1) q 0)
  else
    let r := takeSlot s q false false limit
    (some r.1, r.2)

/-- Finish a frame's completion when it has a slot. -/
def finishFrame (s : State) (q : Nat) (id : Option Nat) (ce : List Byte) : State :=
  match id with
  | some i => finishSlot s q i ce
  | none => s

/-- Staged CEs of a queue. -/
def stagedN (x : Queue) : Nat := (x.slots.filter fun c => c.st == 2).length

/-- Room in the completion ring (R290). -/
def crRoom (x : Queue) : Bool := x.st != 0 && decide (ringDist x.n x.done x.wr < 2 ^ x.n)

/-- Location of the completion ring and head word. -/
def crLoc (x : Queue) : Nat := bits x.crCfg.toNat 8 8
def sqLoc (x : Queue) : Nat := bits x.sqCfg.toNat 8 8

/-- Write the CE of the slot at index `i` to the ring. -/
def writeCe (s : State) (q i : Nat) (ce : List Byte) : State :=
  let x := getQ s q
  let s1 := writeLoc s (crLoc x) (x.crBase + 32 * (x.wr % 2 ^ x.n)) ce false
  evG 0x10E <| setQ s1 q { x with
    wr := fifoAdd x.n x.wr 1
    slots := x.slots.set i { getIx x.slots i { id := 0, se := false, irq := false } with st := 3, ce := ce } }

/-- A CE that leaves staging (R308). -/
def starved (s : State) (c : CSlot) : List Byte :=
  match c.limit with
  | some t => if t < s.dt ∧ byteAt c.ce 0 < 8 then putAt c.ce 0 [0x0B, 0x06] else c.ce
  | none => c.ce

/-- Write staged CEs oldest first while there is room; CR_STALLED clears once none is staged (R306). -/
def unstage : Nat → State → Nat → State
  | 0, s, _ => s
  | f + 1, s, q =>
    let x := getQ s q
    match findIx (fun c => c.st == 2) x.slots 0 with
    | none => setQ s q { x with stalled := false }
    | some (i, c) => if crRoom x then unstage f (writeCe s q i (starved s c)) q else s

/-- CE_READY (R302, R306): the first finished CE whose earlier slots are all ready is written, or staged. -/
def ceReady (q : Nat) (s : State) : State :=
  let x := getQ s q
  match findIx (fun c => c.st < 2) x.slots 0 with
  | none => s
  | some (i, c) =>
    if c.st = 0 then s
    else if crRoom x && stagedN x == 0 then writeCe s q i c.ce
    else
      let y := { x with slots := x.slots.set i { c with st := 2 } }
      evG 0x10F (if stagedN y = 64 ∧ x.stalled = false then qEvt (bump (setQ s q { y with stalled := true }) qmgrPg q 0x254 1) q 0 else setQ s q y)

/-- SQ_REL (R289): the oldest entry whose completion is unpublished. -/
def relOf (x : Queue) : Nat :=
  match (x.slots.filter fun c => c.se).head? with
  | some c => ngetD x.sePos c.id x.next
  | none => x.next

/-- HEAD_PUBLISH (R303): the head word after the CEs written, and the interrupt message. -/
def headPublish (q : Nat) (s : State) : State :=
  let x := getQ s q
  let pub := x.slots.takeWhile fun c => c.st == 3
  if pub.isEmpty then s
  else
    let rest := x.slots.drop pub.length
    let y := { x with head := x.wr, slots := rest, sePos := x.sePos.filter fun e => rest.any fun c => c.id == e.1 }
    let s1 := writeLoc (setQ s q { y with rel := relOf y }) (crLoc x) x.headAddr
      (toLE 4 (x.gen.toNat * 2 ^ 24 + idxOf x.n x.wr)) false
    let mode := rbits s qmgrPg q 0x218 13 12
    let s2 := if mode = 1 ∨ (mode = 2 ∧ pub.any (fun c => c.irq || !c.se) = true)
      then sendMsix s1 (rbits s qmgrPg q 0x218 26 16) else s1
    match x.bound with
    | some c => releaseCheck s2 c
    | none => s2

def execCeReady (q : Nat) (s : State) : Out := act (fun s => if blockUp s qmgrPg then ceReady q s else s) s
def execHeadPublish (q : Nat) (s : State) : Out := act (fun s => if blockUp s qmgrPg then headPublish q s else s) s

/-! ## Doorbells (R77, R288–R291) -/

/-- A BAR2 write (R54, R77, R291, R418, R448): it wakes the device, and is counted when it comes in the fault state, with
fewer than four byte enables, or for a disabled queue. DESIGN CHOICE (assumption 66): TOP_LAST_BAD, which R78 gives a BAR0
offset, records the BAR2 offset of a badly sized doorbell write. -/
def doorbell (q off : Nat) (be : BitVec 4) (op : State → State) (s : State) : State :=
  if !busUp s || s.boot.st != 7 || be == 0 then s
  else
    let s0 := if s.pwr.st = 2 ∧ rbits s pwrPg 0 0x11C 0 0 = 1 then wakeUp s else s
    if s0.flt.fault then bump s0 fltPg 0 0x138 1
    else if be != 15 then badSize s0 (q * 4096 + off)
    else if (hdr s0 qmgrPg).inReset then s0
    else if !(getQ s0 q).enable then bump s0 qmgrPg q 0x24C 1
    else op s0

/-- Discard a doorbell or invalidation value (R289, R290). -/
def dbBad (s : State) (q : Nat) : State := qEvt (bump s qmgrPg q 0x24C 1) q 2

/-- SQ_DB (R289). -/
def sqDb (q t : Nat) (s : State) : State :=
  let x := getQ s q
  let d := ringDist x.m x.rel (posOf x.m t)
  if idxValid x.m t && decide (d ≤ 2 ^ x.m) && decide (ringDist x.m x.rel x.tail ≤ d) then
    let y := { x with tail := posOf x.m t }
    setQ s q y
  else dbBad s q

/-- CR_DONE (R290, R306). -/
def crDone (q v : Nat) (s : State) : State :=
  let x := getQ s q
  if idxValid x.n v && decide (ringDist x.n x.done (posOf x.n v) ≤ ringDist x.n x.done x.head) then
    unstage 321 (setQ s q { x with done := posOf x.n v }) q
  else dbBad s q

def execSqDb (q : Nat) (be : BitVec 4) (tail : BitVec 17) (s : State) : Out := .next (doorbell q 0 be (sqDb q tail.toNat) s)
def execCrDone (q : Nat) (be : BitVec 4) (done : BitVec 17) (s : State) : Out :=
  .next (doorbell q 4 be (crDone q done.toNat) s)

/-! ## Fetching and invalidation (R295–R299) -/

/-- A bound queue. -/
def boundCtx (s : State) (q : Nat) : Option Ctx :=
  match (getQ s q).bound with
  | some c => getCtx s c
  | none => none

/-- Bound guaranteed queues. -/
def boundN (s : State) : Nat := (s.queues.filter fun e => e.2.bound.isSome).length
/-- Cached entries of BULK queues. -/
def bulkCached (s : State) : Nat := sumN ((s.queues.filter fun e => !e.2.guar).map fun e => e.2.cache.length)

/-- The cached entry at the next position. -/
def nextSe (x : Queue) : Option SeEnt := x.cache.find? fun e => e.pos == x.next

/-- Completions held by BULK queues (R305). -/
def bulkSlotsUsed (s : State) : Nat := sumN ((s.queues.filter fun e => !e.2.guar).map fun e => e.2.slots.length)

/-- The entry waits behind earlier ones: FENCE, and always for DEC_CONFIG (R293). -/
def seFenced (b : Option (List Byte)) : Bool :=
  match b with
  | some se => byteAt se 1 % 2 == 1 || byteAt se 0 == 0x21
  | none => false

/-- The entry lies before the position up to which an ABORT completes entries (R310). -/
def toAbort (x : Queue) : Bool :=
  match x.abortTo with
  | some p => x.next != p
  | none => false

/-- Every earlier entry of the queue has finished. -/
def earlierDone (x : Queue) : Bool := x.slots.all fun c => !c.se || c.st != 0

/-- What a queue needs before its next entry, whichever it is, may start (R300, R301, R305, R306, R310). -/
def mayStart (s : State) (q : Nat) : Bool :=
  let x := getQ s q
  ((x.st == 1 && !x.quiesce) || toAbort x) && x.next != x.tail && !x.stalled && decide (x.slots.length < 256) &&
    (x.guar || decide (bulkSlotsUsed s < 32768 - 320 * boundN s))

/-- A queue's next entry is startable, apart from a bulk slot. -/
def startable (s : State) (q : Nat) : Bool :=
  mayStart s q &&
    (match nextSe (getQ s q) with
     | some e => toAbort (getQ s q) || !seFenced e.bytes || earlierDone (getQ s q)
     | none => false)

/-- Bulk frames started and not yet in a slot, and frames in slots. -/
def bulkFrames (s : State) : Nat :=
  s.bulkSlots.length +
    sumN ((s.ctxs.filter fun e => e.2.kind != .admitted).map fun e => e.2.encQ.length + e.2.dec.queue.length) +
    sumN ((s.queues.filter fun e => !e.2.guar).map fun e =>
      (e.2.started.filter fun t => byteAt t.2 0 == 0x10 || byteAt t.2 0 == 0x20).length)

/-- A bulk slot can take another frame; in STANDBY none takes a new picture (R416). -/
def slotFree (s : State) : Bool := decide (bulkFrames s < 8) && s.pwr.st == 0 && !s.pwr.want

/-- The BULK queues that are enabled, in ascending number. -/
def bulkQueues (s : State) : List Nat := (s.queues.filter fun e => e.2.enable && !e.2.guar).map (·.1)

/-- The address of the entry at SQ_FETCH. -/
def seAddr (x : Queue) : Nat := x.sqBase + 64 * (x.fetch % 2 ^ x.m)

/-- The bytes of an entry, followed for a configuration entry by its block, which is read with it (R186). -/
def fetchSe (s : State) (x : Queue) : Option (List Byte) :=
  let r := memRead s (sqLoc x) (seAddr x) 64
  if r.2.1.isSome || r.2.2 then none
  else if byteAt r.1 0 = 0x11 ∨ byteAt r.1 0 = 0x21 then
    let b := memRead s 0 (leAt r.1 8 8) 256
    some (if b.2.1.isSome || b.2.2 then r.1 else r.1 ++ b.1)
  else some r.1

/-- A queue that the round robin serves: its next entry is startable, or, where it has not been read yet, is posted and will be
startable once it is: its FENCE is the one that it has in memory (R300). -/
def serves (s : State) (q : Nat) : Bool :=
  startable s q || (mayStart s q && (nextSe (getQ s q)).isNone &&
    (toAbort (getQ s q) || !seFenced (fetchSe s { getQ s q with fetch := (getQ s q).next }) || earlierDone (getQ s q)))

/-- Scan queues in order for one with quota and a startable entry; each queue passed over loses its quota (R300). -/
def wrrScan (s : State) : List Nat → Option Nat × State
  | [] => (none, s)
  | q :: t =>
    if 0 < (getQ s q).quota && serves s q then (some q, s)
    else wrrScan (setQ s q { getQ s q with quota := 0 }) t

/-- A new round: every queue's quota becomes its weight. -/
def wrrRound (s : State) (qs : List Nat) : State :=
  qs.foldl (fun s q => setQ s q { getQ s q with quota := rbits s qmgrPg q 0x224 7 0 }) s

/-- The queue that the weighted round robin serves next (R300): the present turn while its burst lasts, then the queues
after it, then a further pass, then a new round. Where no queue has a startable entry, none keeps a quota and a new round
begins. -/
def wrrPick (s : State) : Option Nat × State :=
  let qs := bulkQueues s
  let t := s.bulkTurn
  if 0 < s.bulkBurst ∧ s.bulkBurst < rbits s qmgrPg t 0x224 14 8 ∧ 0 < (getQ s t).quota ∧ serves s t = true ∧
      qs.contains t = true then (some t, s)
  else
    let a := wrrScan s (qs.filter fun q => decide (t < q) || (q == t && s.bulkBurst == 0))
    match a.1 with
    | some q => (some q, { a.2 with bulkTurn := q, bulkBurst := 0 })
    | none =>
      let b := wrrScan a.2 qs
      match b.1 with
      | some q => (some q, { b.2 with bulkTurn := q, bulkBurst := 0 })
      | none =>
        let c := wrrScan (wrrRound b.2 qs) qs
        match c.1 with
        | some q => (some q, { c.2 with bulkTurn := q, bulkBurst := 0 })
        | none => (none, { c.2 with bulkTurn := 0, bulkBurst := 0 })

/-- A BULK queue's next entry is about to start (R296): the round robin serves the queue, and a bulk slot is free. -/
def aboutToStart (s : State) (q : Nat) : Bool := serves s q && (wrrPick s).1 == some q && (slotFree s || toAbort (getQ s q))

/-- The device may read another entry of the queue now (R296, R298, R299): a BULK queue without a free cache entry only the
one that is about to start. -/
def mayFetch (s : State) (q : Nat) : Bool :=
  let x := getQ s q
  x.enable && ((x.st == 1 && !x.quiesce) || x.abortTo.isSome) && x.fetch != x.tail && decide (x.cache.length < 8) &&
    (if x.guar then (match boundCtx s q with | some c => slotOpen s c | none => false)
     else decide (bulkCached s < 16384 - 8 * boundN s) || (x.cache.isEmpty && aboutToStart s q))

/-- The read of an entry: what the access raises, and for host memory the Memory Read request with its No Snoop attribute,
which SQ_CFG.NO_SNOOP gives (R295). -/
def seRead (s : State) (x : Queue) : State :=
  let s1 := (readLoc s (sqLoc x) (seAddr x) 64).2
  if sqLoc x = 0 then emit s1 (.memRd (seAddr x) 64 (x.sqCfg.getLsbD 9)) else s1

/-- SE_FETCH (R295, R296); the fetch is the boundary of the queue's shadow registers (R68). -/
def seFetch (q : Nat) (err : Bool) (s : State) : State :=
  if !blockUp s qmgrPg || !mayFetch s q then s
  else
    let s0 := applySnaps s fun n => n.page == qmgrPg && n.bank == q
    let x := getQ s0 q
    let b := if err then none else fetchSe s0 x
    let s1 := setQ (seRead s0 x) q { x with fetch := fifoAdd x.m x.fetch 1, cache := x.cache ++ [⟨x.fetch, b⟩] }
    evG 0x110 (if b.isNone then qFault s1 q 1 else s1)

def execSeFetch (q : Nat) (err : Bool) (s : State) : Out := act (seFetch q err) s

/-- SQ_INVAL (R297). -/
def sqInval (q count : Nat) (s : State) : State :=
  let x := getQ s q
  if !x.invalDone ∨ count = 0 ∨ 2 ^ x.m < count then bump s qmgrPg q 0x24C 1
  else
    let st := posOf x.m (rgetN s qmgrPg q 0x240)
    let d := ringDist x.m x.rel
    let fl := if d x.next ≤ d st then st else if d x.next < d st + count then x.next else fifoAdd x.m st count
    setQ s q { x with
      invalDone := false
      firstLive := fl
      cache := x.cache.filter fun e => decide (d e.pos < d fl)
      fetch := if d fl < d x.fetch then fl else x.fetch }

/-- INVAL_DONE (R297): within 1 µs the range is reported. -/
def invalDone (q : Nat) (s : State) : State :=
  let x := getQ s q
  if x.invalDone then s else qEvt (setQ s q { x with invalDone := true, invalLive := x.firstLive }) q 3

def execSqInval (rq : Requester) (q : Nat) (count : BitVec 17) (s : State) : Out :=
  .next (regOpB rq qmgrPg 0x244 q (sqInval q count.toNat) s)
def execInvalDone (q : Nat) (s : State) : Out := act (fun s => if blockUp s qmgrPg then invalDone q s else s) s

/-! ## Starting entries (R292, R293, R300, R301, R305) -/

/-- An ENCODE or DECODE entry of a BULK queue needs a bulk slot (R184, R300). -/
def needsSlot (x : Queue) : Bool :=
  !x.guar && !toAbort x && (match nextSe x with
    | some e => (match e.bytes with
      | some se => byteAt se 0 == 0x10 || byteAt se 0 == 0x20
      | none => false)
    | none => false)

/-- R292's checks that need only the entry and the queue's class and binding (R299). NOP ignores CTX, reserved bits and all
(assumption 49). -/
def seBad (s : State) (q : Nat) (se : List Byte) : Bool :=
  let x := getQ s q
  let op := byteAt se 0
  let sensor := match boundCtx s q with | some c => Ct.source c.block == 0 | none => false
  !(op == 0 || op == 0x10 || op == 0x11 || op == 0x20 || op == 0x21) ||
    (x.guar && (op == 0x20 || op == 0x21)) || decide (4 ≤ byteAt se 1) || (op != 0 && decide (2048 ≤ leAt se 2 2)) ||
    (sensor && op == 0x10)

/-- Start the next entry: it takes a slot; an unread, aborted or invalid one completes at once. -/
def startSe (s : State) (q : Nat) : State :=
  let x := getQ s q
  match nextSe x with
  | none => s
  | some e =>
    let se := e.bytes.getD []
    let r := takeSlot s q true (byteAt se 1 / 2 % 2 == 1) none
    let y := getQ r.2 q
    let n := fifoAdd x.m x.next 1
    let z := { y with
      next := n, sePos := nset y.sePos r.1 x.next
      cache := y.cache.filter fun d => d.pos != x.next
      abortTo := if x.abortTo = some n then none else x.abortTo }
    let s1 := setQ r.2 q z
    if e.bytes.isNone then finishSlot s1 q r.1 (mkCe 0x09 0 0x7FF 0 [] (nowNs s))
    else if toAbort x then finishSlot s1 q r.1 (seCe s se 0x0D)
    else if seBad s q se then finishSlot s1 q r.1 (seCe s se 0x08)
    else setQ s1 q { z with started := z.started ++ [(r.1, se)] }

/-- Start the entry of the queue whose turn it is, and pass on to the queue whose turn comes next; an entry that waits for a
bulk slot, or for its read, holds the turn (R300). -/
def startBulk (s : State) : State :=
  match wrrPick s with
  | (some q, s1) =>
    if (nextSe (getQ s1 q)).isNone || (needsSlot (getQ s1 q) && !slotFree s1) then s1
    else
      let s2 := setQ s1 q { getQ s1 q with quota := (getQ s1 q).quota - 1 }
      (wrrPick (startSe { s2 with bulkBurst := s2.bulkBurst + 1 } q)).2
  | (none, s1) => s1

/-- PERIOD has passed since the context's last ENCODE start, or FIRST_DT has come (R188). -/
def startDue (s : State) (x : Ctx) : Bool :=
  match x.lastStart with
  | some t => decide (t + Ct.period x.block ≤ s.dt)
  | none => decide (x.adm.firstDt ≤ s.dt)

/-- The input DMA of a host-fed context's next ENCODE entry may begin (R188): its slot group is open, its start is due, and
the entry before has been read. -/
def encodeFree (s : State) (x : Ctx) : Bool := slotOpen s x && startDue s x && x.dma.isNone

/-- The bound queue's next entry may start: an ENCODE entry of a host-fed context that is not being released waits in the
submission queue until its input DMA may begin (R188). -/
def boundFree (s : State) (q : Nat) : Bool :=
  match boundCtx s q, (nextSe (getQ s q)).bind (·.bytes) with
  | some x, some se =>
    byteAt se 0 != 0x10 || Ct.source x.block != 1 || x.rel == 2 || toAbort (getQ s q) ||
      (encodeFree s x && x.encQ.isEmpty && !((getQ s q).started.any fun t => byteAt t.2 0 == 0x10))
  | _, _ => true

/-- An entry that an ABORT ends on a GUARANTEED queue without a context (R310): nothing is fetched there (R298), so the CTX and
TAG of its completion are free values (assumption 49). -/
def abortUnread (s : State) (q : Nat) : State :=
  let x := getQ s q
  let r := takeSlot { s with freeCtr := s.freeCtr + 1 } q true false none
  let n := fifoAdd x.m x.next 1
  let y := { getQ r.2 q with
    next := n, fetch := if x.fetch = x.next then n else x.fetch, sePos := nset (getQ r.2 q).sePos r.1 x.next
    abortTo := if x.abortTo = some n then none else x.abortTo }
  let w := (Config.freeWord s.freeCtr).toNat
  finishSlot (setQ r.2 q y) q r.1 (mkCe 0x0D 0 (w % 2048) (w / 2048 % 2 ^ 32) [] (nowNs s))

/-- ENTRY_START (R300): the next entry of a GUARANTEED queue, which is bound unless an ABORT ends the entry, or that of the bulk
queue whose turn it is. -/
def entryStart (bound : Option Nat) (s : State) : State :=
  if !blockUp s qmgrPg then s
  else match bound with
    | none => startBulk s
    | some q =>
      if !(getQ s q).guar then s
      else if (getQ s q).bound.isSome then (if startable s q && boundFree s q then startSe s q else s)
      else if !toAbort (getQ s q) then s
      else if startable s q then startSe s q
      else if mayStart s q && (getQ s q).cache.isEmpty then abortUnread s q else s

def execEntryStart (bound : Option Nat) (s : State) : Out := act (entryStart bound) s

/-- The first started entry of a queue with an opcode and its test, taken from the started entries. -/
def takeStarted (s : State) (q : Nat) (p : List Byte → Bool) : Option (Nat × List Byte × State) :=
  let x := getQ s q
  match x.started.find? fun t => p t.2 with
  | some t => some (t.1, t.2, setQ s q { x with started := x.started.filter fun u => u.1 != t.1 })
  | none => none

/-- NOP (R292): completes OK. -/
def nopOp (q : Nat) (s : State) : State :=
  match takeStarted s q fun se => byteAt se 0 == 0 with
  | some (id, se, s1) => finishSlot s1 q id (seCe s se 0)
  | none => s

def execNop (q : Nat) (s : State) : Out := act (fun s => if blockUp s qmgrPg then nopOp q s else s) s

/-! ## Enabling and shutting a queue (R309, R310) -/

/-- ENABLE from 0 to 1 on a DISABLED queue (R309, R307). It enters RUN whatever QUIESCE is, which goes on to keep it from starting
entries. -/
def queueEnable (q : Nat) (s : State) : State :=
  let x := getQ s q
  if x.st = 0 then
    let g := x.gen + 1
    let y := { x with
      st := 1, enable := true, drop := false, gen := g
      sqBase := rget64 s qmgrPg q 0x204, sqCfg := rget s qmgrPg q 0x20C, crBase := rget64 s qmgrPg q 0x210
      crCfg := rget s qmgrPg q 0x218, headAddr := rget64 s qmgrPg q 0x21C, guar := rbits s qmgrPg q 0x200 1 1 == 1
      m := rbits s qmgrPg q 0x20C 4 0, n := rbits s qmgrPg q 0x218 4 0
      tail := 0, fetch := 0, rel := 0, next := 0, head := 0, done := 0, wr := 0, cache := [], abortTo := none }
    unstage 321 (writeLoc (setQ s q y) (crLoc y) y.headAddr (toLE 4 (g.toNat * 2 ^ 24)) false) q
  else if x.drop then setQ s q { x with drop := false, st := if x.quiesce then x.st else 1 }
  else s

/-- ENABLE written 0 (R309): as QUIESCE, dropping ENABLE at IDLE. -/
def queueDisable (q : Nat) (s : State) : State :=
  let x := getQ s q
  if x.st = 0 then s
  else if x.st = 3 then setQ s q { x with st := 0, enable := false, drop := false, cache := [] }
  else setQ s q { x with drop := true, st := if x.st = 1 then 2 else x.st }

/-- QUIESCE written (R310). -/
def queueQuiesce (q : Nat) (on : Bool) (s : State) : State :=
  let x := getQ s q
  if x.st = 4 then s
  else if on then setQ s q { x with quiesce := true, st := if x.st = 1 then 2 else x.st }
  else setQ s q { x with quiesce := false, st := if (x.st = 2 ∨ x.st = 3) ∧ !x.drop then 1 else x.st }

/-- IDLE_REACHED (R310): nothing outstanding or staged is left; a queue being disabled drops ENABLE and its cache. -/
def idleReached (q : Nat) (s : State) : State :=
  let x := getQ s q
  if (x.st = 2 ∨ x.st = 4 ∨ (x.st = 1 ∧ x.quiesce = true)) ∧ x.slots.isEmpty = true ∧ toAbort x = false then
    let y := { x with quiesce := x.quiesce || !x.drop || x.st == 4, abortTo := none }
    if x.drop then qEvt (setQ s q { y with st := 0, enable := false, drop := false, cache := [] }) q 1
    else qEvt (setQ s q { y with st := 3 }) q 1
  else s

def execQueueEnable (rq : Requester) (q : Nat) (s : State) : Out :=
  .next (regOpB rq qmgrPg 0x200 q (queueEnable q) s)
def execQueueQuiesce (rq : Requester) (q : Nat) (on : Bool) (s : State) : Out :=
  .next (regOpB rq qmgrPg 0x200 q (queueQuiesce q on) s)
def execIdleReached (q : Nat) (s : State) : Out := act (fun s => if blockUp s qmgrPg then idleReached q s else s) s

/-- ABORT of a queue's own state (R310): entries started and not yet run complete ABORTED; those posted complete ABORTED
as they come to start. -/
def queueAbortBase (q : Nat) (s : State) : State :=
  let x := getQ s q
  if !x.enable ∨ x.st = 0 ∨ x.st = 4 then s
  else
    let s1 := setQ s q { x with st := 4, quiesce := true, started := [], abortTo := if x.next = x.tail then none else some x.tail }
    x.started.foldl (fun s t => finishSlot s q t.1 (seCe s t.2 0x0D)) s1

end Sys2Proof.Machine
end

