-- ==== Sys2Proof/Machine/Hbm.lean ====
section
/-! DEFINITION. The in-package memory (R229–R245): the ingress, the access queue of each pseudo-channel, replay debt, spare
periods with the patrol scrub, parity alerts, L24 windows and retraining. A byte is sampled or stored when its access issues;
the mark of an uncorrectable word follows at completion (assumption 13). -/
namespace Sys2Proof.Machine

/-- Corrected words (R240). -/
def hbmCe (s : State) (pc n block : Nat) : State :=
  if n = 0 then s
  else
    let lo := 16 * (pc % 2)
    let pg := pcPage pc
    let old := rbits s pg 0 0x108 (lo + 15) lo
    let s1 := hbmInfo (bump16 s pg 0 0x108 lo n) pc 1 block
    let lim := rgetN s1 pg 0 0x124
    if lim ≠ 0 ∧ old < lim ∧ lim ≤ rbits s1 pg 0 0x108 (lo + 15) lo then hbmFault s1 pg 1 else s1

/-- The frame of an access is reported with cause MEM_UE (R50, R241). -/
def memUe (s : State) (r : HbmReq) : State :=
  match r.ctx with
  | some c => markCtxs s (fun d _ => d == c) (fun _ p => p.src == r.frame) 1
  | none => s

/-! ## The ingress (R230, R231, R234, R237) -/

/-- The bytes of a write that are enabled (R235). -/
def reqOn (r : HbmReq) : Nat := if r.en.isEmpty then r.len else ((r.en.take r.len).filter id).length

/-- The fabric cuts a transfer at block boundaries, and so at granule boundaries (R231); the first argument bounds the
pieces. -/
def cutReq : Nat → HbmReq → List HbmReq
  | 0, _ => []
  | f + 1, r =>
    let n := 256 - r.addr % 256
    if r.len ≤ n then [r]
    else { r with len := n, data := r.data.take n, en := r.en.take n } ::
      cutReq f { r with addr := r.addr + n, len := r.len - n, data := r.data.drop n, en := r.en.drop n }

/-- The pseudo-channel of a request; an out-of-range one goes to the controller of channel 0, which answers it (R230). -/
def reqPc (s : State) (r : HbmReq) : Nat :=
  match hbmLoc s r.addr with
  | some l => l.1
  | none => 0

/-- Access periods a request takes (R235). -/
def reqPeriods (r : HbmReq) : Nat := if r.wr && decide (reqOn r < 256) then 2 else 1

/-- n access periods of 100/3 ns (R233). -/
def accTime (n : Nat) : Time := cdiv (n * 6553600) 3

/-- Entry `i` of L24 stalls a pseudo-channel: a refresh, or the retraining pause of the one named (R45, R238). -/
def l24Entry (s : State) (pc i : Nat) : Bool :=
  let c := getCar s 24
  carGates c.oper i % 2 == 1 || (carGates c.oper i / 2 % 2 == 1 && carCycleStart c.oper s.dt / nsT 62400 % 64 == pc)

/-- An L24 window stalls a pseudo-channel now. -/
def l24Stalls (s : State) (pc : Nat) : Bool := !(getCar s 24).oper.ents.isEmpty && l24Entry s pc (getCar s 24).cur

/-- The instant at which a pseudo-channel can issue again: now, or the end of the refresh or pause it is in (R238). -/
def stallEnd (s : State) (pc : Nat) : Time :=
  if l24Stalls s pc then
    match carUntil (getCar s 24).oper (l24Entry s pc) (getCar s 24).cur with
    | some o => max s.dt (carCycleStart (getCar s 24).oper s.dt + nsT o)
    | none => s.dt
  else s.dt

/-- An access of `n` periods that issues at an instant ends before the next L24 window opens (R238). -/
def beforeL24 (s : State) (t : Time) (n : Nat) : Bool :=
  match nextL24 s with | some w => decide (t + accTime n ≤ w) | none => true

/-- The stack of a pseudo-channel runs, and no wake holds its controllers back (R247, R251). -/
def pcRuns (s : State) (pc : Nat) : Bool := (getIx s.phys (pc / 32) {}).st == 2 && !s.hbmHold

/-- The access periods that pass before a request of `n` periods issues behind requests of the lengths listed, from position
`pos` of the run of 32: one that does not fit before the spare period waits until after it (R236). -/
def periodsTo (n pos : Nat) : List Nat → Nat
  | [] => if pos + n ≤ 31 then 0 else 32 - pos
  | l :: t => if pos + l ≤ 31 then l + periodsTo n (pos + l) t else 32 - pos + l + periodsTo n l t

/-- The instant at which a request that enters a queue now will issue, with spare periods, waiting replays and the replay debt
charged (R236, R243). -/
def issueAt (s : State) (pc n : Nat) : Time :=
  let p := getPc s pc
  stallEnd s pc + accTime (periodsTo n p.period (List.replicate (p.debt + p.replays.length) 1 ++ p.queue.map reqPeriods))

/-- A request may enter its queue now (R36, R234, R237): an admitted stream's stays in its partition. -/
def mayPass (s : State) (r : HbmReq) : Bool :=
  let pc := reqPc s r
  let t := issueAt s pc (reqPeriods r)
  blockUp s (pcPage pc) && pcRuns s pc && decide ((getPc s pc).queue.length < 16) && beforeL24 s t (reqPeriods r) &&
    (match r.ctx.bind fun c => (getCtx s c).filter fun x => x.kind == .admitted with
     | some x => (decide (pcRegion s pc = x.adm.mp) || (hbmLoc s r.addr).isNone) && slotOpen s x &&
         (match gateClose s (8 + x.adm.mp) x.adm.grp with | some w => decide (t < w) | none => true)
     | none => decide (pcRegion s pc = 16) || (hbmLoc s r.addr).isNone)

/-- The requester of a request at an ingress: its context, or the one that stands for all else (assumption 64). -/
def ingKey (r : HbmReq) : Nat := match r.ctx with | some c => c % 2048 | none => 2048

/-- The wait limit of a requester: FAB_LIM of its virtual channel, its partition's or the bulk one (R333, R337, R344). -/
def ingLimit (s : State) (r : HbmReq) : Nat :=
  let vc := match r.ctx.bind fun c => (getCtx s c).filter fun x => x.kind == .admitted with
    | some x => x.adm.mp
    | none => 16
  rbits s tkbPg 0 (0x210 + 4 * vc) 12 0

/-- A requester's wait counter, FCLK: 16 a TBCLK (R337). -/
def ingWait (s : State) (r : HbmReq) : Nat := (s.tick - ngetD s.hbmWait (ingKey r) s.tick) * 16

/-- The waiting requests that may pass, with their places: of each requester only the first (R237). -/
def ingCands (s : State) : Nat → List HbmReq → List Nat → List (Nat × HbmReq)
  | _, [], _ => []
  | i, r :: t, seen =>
    let rest := ingCands s (i + 1) t (ingKey r :: seen)
    if !seen.contains (ingKey r) && mayPass s r then (i, r) :: rest else rest

/-- The best of some candidates: the first that none of the others precedes. -/
def bestOf (before : Nat × HbmReq → Nat × HbmReq → Bool) : List (Nat × HbmReq) → Option (Nat × HbmReq)
  | [] => none
  | e :: t =>
    match bestOf before t with
    | some b => if before b e then some b else some e
    | none => some e

/-- The grant of the large arbiter at a partition's ingress (R337), of the partition with the oldest request that may pass: the
requester whose counter has reached its limit, the highest count first, and that its limit decided; else round-robin. -/
def ingGrant (s : State) : Option ((Nat × HbmReq) × Bool) :=
  match ingCands s 0 s.ingress [] with
  | [] => none
  | c :: t =>
    let reg := pcRegion s (reqPc s c.2)
    let cs := (c :: t).filter fun e => pcRegion s (reqPc s e.2) == reg
    let last := ngetD s.hbmGrant reg 2048
    let turn := fun (e : Nat × HbmReq) => (ingKey e.2 + 2048 - last) % 2049
    match bestOf (fun a b => decide (ingWait s b.2 < ingWait s a.2 ∨ (ingWait s a.2 = ingWait s b.2 ∧ ingKey a.2 < ingKey b.2)))
        (cs.filter fun e => decide (ingLimit s e.2 ≤ ingWait s e.2)) with
    | some e => some (e, true)
    | none => (bestOf (fun a b => decide (turn a < turn b)) cs).map (·, false)

/-- A request leaves the ingress for its queue; its requester's counter clears (R337). -/
def ingEnter (s : State) (i : Nat) (r : HbmReq) : State :=
  let pc := reqPc s r
  let rest := s.ingress.eraseIdx i
  let k := ingKey r
  setPc { s with
    ingress := rest, hbmGrant := nset s.hbmGrant (pcRegion s pc) k
    hbmWait := if rest.any fun q => ingKey q == k then nset s.hbmWait k s.tick else ndel s.hbmWait k } pc
    { getPc s pc with queue := (getPc s pc).queue ++ [r] }

/-- HBM_INGRESS_PASS: a request reaches the ingress, cut at block boundaries, and the one that the arbiter grants enters its
queue. -/
def ingressPass (req : Option HbmReq) (s : State) : State :=
  let new := (req.map fun r => cutReq (r.len + 1) r).getD []
  let s1 := { s with
    ingress := s.ingress ++ new
    hbmWait := new.foldl (fun m r => if (nget m (ingKey r)).isSome then m else nset m (ingKey r) s.tick) s.hbmWait }
  match ingGrant s1 with
  | some (e, lim) => ingEnter (if lim then bump s1 tkbPg 0 0x264 1 else s1) e.1 e.2
  | none => s1

/-! ## Accesses (R230, R233, R235, R243) -/

/-- The linear block of a request. -/
def reqBlock (s : State) (r : HbmReq) : Nat :=
  match hbmLoc s r.addr with
  | some (p, o) => hbmBlock (hbmKey p o)
  | none => 0

/-- The bytes of a write enter the memory: those enabled, the others as they stand (R235). -/
def storeReq (s : State) (r : HbmReq) : State :=
  let data := r.data.take r.len
  if r.en.isEmpty || reqOn r == data.length then hbmWriteB s r.addr data false
  else ((List.range data.length).zip (data.zip r.en)).foldl (fun s e =>
    if e.2.2 then hbmWriteB s (r.addr + e.1) [e.2.1] false else s) s

/-- Issue a request in its access period; `again` marks the replay of a read. -/
def issue (s : State) (pc : Nat) (r : HbmReq) (again : Bool) : State :=
  let s0 := setPc s pc { getPc s pc with last := some (some r) }
  let s1 := evG 0x105 (if (getPc s0 pc).debtBad then memUe s0 r else s0)
  match hbmLoc s r.addr with
  | none =>
    let s2 := rangeFault s1
    if r.wr then s2 else { s2 with hbmOut := { data := List.replicate r.len 0, poison := true } }
  | some _ =>
    if r.wr && !again then
      let s2 := storeReq s1 r
      let q := getPc s2 pc
      if reqOn r < 256 then setPc s2 pc { q with reads := q.reads ++ [{ req := r }] }
      else
        let b := reqBlock s r
        setPc s2 pc { q with
          writes := q.writes ++ [r]
          reads := q.reads.map fun d => if reqBlock s d.req = b then { d with gone := true } else d
          replays := q.replays.map fun d => { d with rd := d.rd.map fun e => if reqBlock s e.req = b then { e with gone := true } else e } }
    else
      let q := getPc s1 pc
      setPc s1 pc { q with reads := q.reads ++ [{ req := r, data := (hbmRead s1 r.addr r.len).1, again := again }] }

/-- A read, or the read half of a partial write, is over (R235, R241): its data is delivered, poisoned where `bad`. -/
def deliver (s : State) (pc : Nat) (d : HbmRd) (bad : Bool) : State :=
  let r := d.req
  let b := reqBlock s r
  let s1 := if bad then memUe (hbmUe s pc b) r else s
  let s2 := if bad && !d.gone && !s1.hbmPoison.contains b then { s1 with hbmPoison := s1.hbmPoison ++ [b] } else s1
  if r.wr then setPc s2 pc { getPc s2 pc with writes := (getPc s2 pc).writes ++ [r] }
  else { s2 with hbmOut := { data := d.data, poison := bad } }

/-- Send the replay at the head of a pseudo-channel's list (R243): its command goes out again and the debt rises; at 2 HBM_DEBT
is raised and the frames with accesses here are reported. -/
def sendReplay (s : State) (pc : Nat) (r : Replay) (rest : List Replay) : State :=
  let p := getPc s pc
  let d := min 2 (p.debt + 1)
  let s1 := evG 0x106 <| setPc s pc { p with replays := rest, debt := d, debtBad := p.debtBad || d == 2, last := some none }
  let s2 := if d = 2 ∧ p.debt < 2 then
      (p.queue ++ p.reads.map (·.req) ++ p.writes).foldl memUe (hbmFault s1 (pcPage pc) 3)
    else s1
  match r.cmd with
  | some q => issue s2 pc q (!r.parity)
  | none => s2

/-- Take the replay at the head of a pseudo-channel's list (R243): a read replay only when the debt is 0; where a parity replay
has raised the debt before it, its read is delivered poisoned (assumption 13). -/
def takeReplay (s : State) (pc : Nat) (r : Replay) (rest : List Replay) : State :=
  match (if r.parity || (getPc s pc).debt == 0 then none else r.rd) with
  | some d => deliver (setPc s pc { getPc s pc with replays := rest, last := none }) pc d true
  | none => sendReplay s pc r rest

/-- No request issues in this access period. -/
def idlePeriod (s : State) (pc : Nat) : State := setPc s pc { getPc s pc with period := (getPc s pc).period + 1, last := none }

/-- HBM_ACCESS (R233, R236): one access period of the 31 before a spare one. A replay goes first, else the next queued request
that fits before the spare period; a period in which none may issue passes idle. In an L24 window, in self-refresh and before
the first window after a wake there are no access periods (R238, R247). -/
def hbmAccess (pc : Nat) (s : State) : State :=
  let p := getPc s pc
  if 64 ≤ pc ∨ !blockUp s (pcPage pc) ∨ !pcRuns s pc ∨ 31 ≤ p.period ∨ l24Stalls s pc = true then s
  else match p.replays, p.queue with
    | r :: rest, _ =>
      if beforeL24 s s.dt 1 then takeReplay (setPc s pc { p with period := p.period + 1 }) pc r rest else idlePeriod s pc
    | [], r :: t =>
      if p.period + reqPeriods r ≤ 31 ∧ beforeL24 s s.dt (reqPeriods r) = true then
        issue (setPc s pc { p with period := p.period + reqPeriods r, queue := t }) pc r false
      else idlePeriod s pc
    | [], [] => idlePeriod s pc

/-- HBM_READ_COMPLETE (R240, R241, R235): the oldest read, or the read half of a partial write, completes. `uncorrectable` says it
of a first read, which is replayed once when the debt allows, else delivered poisoned; `replayBad` of a replay's data. -/
def readComplete (pc corrected : Nat) (uncorrectable replayBad : Bool) (s : State) : State :=
  let p := getPc s pc
  match p.reads with
  | [] => s
  | d :: t =>
    let r := d.req
    let b := reqBlock s r
    let held := s.hbmPoison.contains b && !d.gone
    let s1 := hbmCe (setPc s pc { p with reads := t }) pc corrected b
    let bad := (if d.again then replayBad else uncorrectable) || held
    if bad && !d.again && p.debt == 0 && p.replays.isEmpty then
      setPc (bump16 s1 (pcPage pc) 0 (0x110 + 4 * (pc % 2)) 0 1) pc { getPc s1 pc with replays := [⟨false, some r, some d⟩] }
    else deliver s1 pc d bad

/-- Every access that a pseudo-channel has queued or issued finishes (R247). -/
def drainPc (s : State) (pc : Nat) : State :=
  let p := getPc s pc
  let s1 := p.queue.foldl (fun s r => issue s pc r false)
    (p.replays.foldl (fun s r => match r.cmd with | some q => issue s pc q (!r.parity) | none => s)
      (setPc s pc { p with queue := [], replays := [] }))
  let s2 := (getPc s1 pc).reads.foldl (fun s d => deliver s pc d (s.hbmPoison.contains (reqBlock s d.req) && !d.gone)) s1
  setPc s2 pc { getPc s2 pc with reads := [], writes := [], last := none }

/-- HBM_WRITE_ACK (R233). -/
def writeAck (pc : Nat) (s : State) : State := setPc s pc { getPc s pc with writes := (getPc s pc).writes.drop 1 }

/-- One scrub access: a read, or the write-back after a corrected one (R245). -/
def scrub (pc corrected : Nat) (uncorrectable : Bool) (s : State) : State :=
  let p := getPc s pc
  if p.scrubBack then setPc s pc { p with scrubBack := false, last := some none }
  else
    let b := pc * pcBlocks + p.scrubPos
    let bad := uncorrectable || s.hbmPoison.contains b
    let last := p.scrubPos + 1 == pcBlocks
    let s1 := hbmCe (setPc s pc { p with
      scrubPos := if last then 0 else p.scrubPos + 1, scrubBack := decide (0 < corrected) && !bad, last := some none, lastBlk := b }) pc corrected b
    let s2 := if bad then hbmUe (if s1.hbmPoison.contains b then s1 else { s1 with hbmPoison := s1.hbmPoison ++ [b] }) pc b else s1
    if last && pc == 0 then bump (bump s2 (phyPage 0) 0 0x118 1) (phyPage 1) 0 0x118 1 else s2

/-- HBM_SPARE_PERIOD (R236, R243, R245): the last of 32 access periods; it carries a pending replay, else a scrub read when
enabled, and lowers the debt. -/
def sparePeriod (pc corrected : Nat) (uncorrectable : Bool) (s : State) : State :=
  let p := getPc s pc
  if 64 ≤ pc ∨ !blockUp s (pcPage pc) ∨ !pcRuns s pc ∨ p.period < 31 ∨ l24Stalls s pc = true then s
  else
    let s0 := setPc s pc { p with period := 0, last := none }
    let s1 := if beforeL24 s s.dt 1 then
        (match p.replays with
         | r :: rest => takeReplay s0 pc r rest
         | [] => if rbits s0 (phyPage 0) 0 0x114 0 0 = 1 ∧ pcRegion s0 pc ≤ 16 then scrub pc corrected uncorrectable s0
             else evG 0x107 s0)
      else evG 0x107 s0
    let q := getPc s1 pc
    setPc s1 pc { q with debt := q.debt - 1, debtBad := q.debtBad && decide (1 < q.debt) }

/-- The flagged command has not taken place (R242, R244): its data or acknowledgement comes from the reissue. -/
def unissue (p : Pc) (r : HbmReq) : Pc :=
  { p with reads := if (p.reads.getLast?).any (·.req == r) then p.reads.dropLast else p.reads
           writes := if p.writes.getLast? == some r then p.writes.dropLast else p.writes }

/-- HBM_PARITY_ALERT (R242): counted and raised; the command of the present access period goes out again in the next one. An
error in a refresh command is replayed within its window (R244). -/
def parityAlert (pc : Nat) (s : State) : State :=
  let p := getPc s pc
  let told := fun (s : State) (b : Nat) =>
    hbmFault (hbmInfo (bump16 s (pcPage pc) 0 (0x110 + 4 * (pc % 2)) 16 1) pc 3 b) (pcPage pc) 2
  if 64 ≤ pc ∨ !blockUp s (pcPage pc) then s
  else if l24Stalls s pc then told s 0
  else match p.last with
    | none => s
    | some none => told (setPc s pc { p with last := none, replays := p.replays ++ [⟨true, none, none⟩] }) p.lastBlk
    | some (some r) =>
      told (setPc s pc { unissue p r with last := none, replays := ⟨true, some r, none⟩ :: p.replays }) (reqBlock s r)

/-- L24_WINDOW (R45, R68, R238): the window generator moves to its present entry; after a wake, accesses may issue again; what
was committed on the memory pages takes effect. -/
def l24Window (s : State) : State :=
  applySnaps { carEntryEnd 24 s with hbmHold := false } fun n => match pageAt n.page with
    | some (.hbm, _) | some (.phy, _) => true
    | _ => false

/-- RETRAINING_PAUSE_END (R239). -/
def retrainEnd (pc : Nat) (converged : Bool) (s : State) : State :=
  if 64 ≤ pc then s
  else
    let p := getPc s pc
    if converged then setPc s pc { p with trainFails := 0 }
    else
      let s1 := bump (bump (setPc s pc { p with trainFails := p.trainFails + 1 }) (phyPage 0) 0 0x11C 1) (phyPage 1) 0 0x11C 1
      let s2 := hbmFault s1 (pcPage pc) 4
      if 3 ≤ p.trainFails + 1 then
        containBreach (fencePage (setPc s2 pc { getPc s2 pc with failed := true }) (pcPage pc)) .hbm (pcPage pc) 4 0
      else s2

def onPc (pc : Nat) (op : State → State) (s : State) : State := if pc < 64 ∧ blockUp s (pcPage pc) = true then op s else s

def execHbmIngressPass (req : Option HbmReq) (s : State) : Out := act (ingressPass req) s
def execHbmAccess (pc : Nat) (s : State) : Out := act (hbmAccess pc) s
def execHbmReadComplete (pc corrected : Nat) (uncorrectable replayBad : Bool) (s : State) : Out :=
  act (onPc pc (readComplete pc corrected uncorrectable replayBad)) s
def execHbmWriteAck (pc : Nat) (s : State) : Out := act (onPc pc (writeAck pc)) s
def execHbmSparePeriod (pc corrected : Nat) (uncorrectable : Bool) (s : State) : Out :=
  act (sparePeriod pc corrected uncorrectable) s
def execHbmParityAlert (pc : Nat) (s : State) : Out := act (parityAlert pc) s
def execL24Window (s : State) : Out := act l24Window s
def execRetrainingPauseEnd (pc : Nat) (converged : Bool) (s : State) : Out := act (retrainEnd pc converged) s

end Sys2Proof.Machine
end

