-- ==== Sys2Proof/Machine/Pictures.lean ====
section
/-! DEFINITION. The end of a picture: its completion entry (R12, R13, R48, R50, R177, R189, R314) and what its end frees. -/
namespace Sys2Proof.Machine

/-- Change the picture with an id. -/
def updPic (x : Ctx) (id : Nat) (f : Pic → Pic) : Ctx :=
  { x with pics := x.pics.map fun p => if p.id = id then f p else p }

/-- Change a picture of a context. -/
def withPic (s : State) (c id : Nat) (f : Pic → Pic) : State :=
  match getCtx s c with
  | some x => setCtx s c (updPic x id f)
  | none => s

def getPic (x : Ctx) (id : Nat) : Option Pic := x.pics.find? fun p => p.id == id

/-- The picture is lossy (R174, R178). -/
def lossy (x : Ctx) : Bool := Ct.mode x.block != 2 && Ct.mode x.block != 3

/-- STATUS and CAUSE of a finished picture: a ring bus error replaces any other status (R314); then an abort, then a breach
(R50), then want of buffers, then emergency rows (R177). -/
def picStatus (p : Pic) : Nat × Nat :=
  if p.busErr then (0x09, 0)
  else if p.endSt ≠ 0 then (p.endSt, 0)
  else if p.aborted then (0x0D, 0)
  else if p.cause ≠ 0 then (0x0B, p.cause)
  else if p.noBuf then (0x0A, 0)
  else if p.firstEmerg.isSome then (0x02, 0)
  else (0, 0)

/-- CFLAGS (R189). -/
def picFlags (p : Pic) : Nat :=
  (if p.demoted then 1 else 0) + (if p.filled then 2 else 0) + (if p.rawSeen then 4 else 0) +
    (if 2 ^ 32 ≤ p.bytesOut then 16 else 0)

/-- The completion entry of a picture with a status (R189). -/
def picCe (x : Ctx) (c : Nat) (p : Pic) (st : Nat × Nat) (doneNs : Nat) : List Byte :=
  mkCe st.1 st.2 c p.tag
    (encSpec p.src (p.picNum.getD 0xFFFFFFFF) (if p.picNum.isSome then min 0xFFFFFFFF p.bytesOut else 0)
      (p.firstEmerg.getD 0xFFFF) (picFlags p) (if lossy x && 0 < p.qpCnt then p.qpSum / p.qpCnt else 0)) doneNs

/-- A picture ends with a status: its completion is finished and the picture leaves its context. -/
def endPic (s : State) (c id : Nat) (st : Nat × Nat) : State :=
  match getCtx s c with
  | none => s
  | some x => match getPic x id with
    | none => s
    | some p =>
      let done := (p.tData.map (· / 65536)).getD (nowNs s)
      let s1 := finishFrame s x.queue p.slot (picCe x c p st done)
      releaseCheck (setCtx s1 c { x with pics := x.pics.filter fun q => q.id != id }) c

/-- A picture ends with the status its course gives it. -/
def finishPic (s : State) (c id : Nat) : State :=
  match (getCtx s c).bind fun x => getPic x id with
  | some p => endPic s c id (picStatus p)
  | none => s

/-- The units that `s` held in its flows and `t` holds no more, which a commit discarded: a picture whose last unit was among
them completes as usual, and a stream whose end unit was may be released (R34, R318). -/
def finishGone (s t : State) : State :=
  let left := t.flows.flatMap fun e => e.2.units
  ((s.flows.flatMap fun e => e.2.units).filter fun u =>
      (u.last || u.se) && !left.any fun v => v.ctx == u.ctx && v.pic == u.pic && v.last == u.last).foldl (fun t u =>
    if u.last then finishPic (withPic t u.ctx u.pic fun p => { p with tData := some t.dt }) u.ctx u.pic
    else releaseCheck t u.ctx) t

/-- A command under which table commits can come to apply. -/
def applying (op : State → State) (s : State) : State := finishGone s (op s)

def execShadowApply (page bank : Nat) (s : State) : Out := actBus (applying (shadowApply page bank)) s
def execCarListStart (list : Nat) (s : State) : Out :=
  act (applying fun s => if list < 25 then cycleSnaps list (carListStart list s) else s) s
def execCarEntryEnd (list : Nat) (s : State) : Out :=
  act (applying fun s => if list < 25 then cycleSnaps list (carEntryEnd list s) else s) s

/-- Drop the jobs of a picture that no tile runs. -/
def dropJobs (s : State) (c id : Nat) : State :=
  { s with jobs := s.jobs.filter fun j => !(j.ctx == c && j.pic == id && j.tile.isNone) }

end Sys2Proof.Machine
end

