-- ==== Sys2Proof/Machine/Egress.lean ====
section
/-! DEFINITION. Egress (R106–R108, R312–R331, R351, R492): forming packets, the two tiers of choice, gates, shapers, output
rings, sampling, truncated units and PTP timestamps. -/
namespace Sys2Proof.Machine

/-! ## Flow and service entries in force -/

namespace Fl
def valid (b : List Byte) : Bool := byteAt b 0 % 2 == 1
def guar (b : List Byte) : Bool := byteAt b 0 / 128 % 2 == 1
def hevc (b : List Byte) : Bool := byteAt b 0 / 8 % 2 == 1
def port (b : List Byte) : Nat := byteAt b 1 % 8
def svc (b : List Byte) : Nat := byteAt b 2 % 64
def ring (b : List Byte) : Nat := byteAt b 3 % 32
def p (b : List Byte) : Nat := leAt b 4 2
def h (b : List Byte) : Nat := leAt b 6 2
def rate (b : List Byte) : Nat := leAt b 8 4
def burst (b : List Byte) : Nat := leAt b 0xC 4
def weight (b : List Byte) : Nat := max 1 (leAt b 0x10 2)
def sampleK (b : List Byte) : Nat := byteAt b 0x12 % 16
def pt (b : List Byte) : Nat := byteAt b 0x13
def ssrc (b : List Byte) : Nat := leAt b 0x14 4
def ctx (b : List Byte) : Nat := leAt b 0x18 2 % 2048
def sfDest (b : List Byte) : Nat := leAt b 0x1C 2 % 2048
def ipv6 (b : List Byte) : Bool := byteAt b 0 / 2 % 2 == 1
def vlan (b : List Byte) : Bool := byteAt b 0 / 4 % 2 == 1
def tci (b : List Byte) : Nat := leAt b 0x1E 2
/-- Destination and source address as they are sent (R2, R317). -/
def macs (b : List Byte) : List Byte := (b.drop 0x20).take 12
def tos (b : List Byte) : Nat := byteAt b 0x2C
def ttl (b : List Byte) : Nat := byteAt b 0x2D
def udpSrc (b : List Byte) : Nat := leAt b 0x2E 2
def udpDst (b : List Byte) : Nat := leAt b 0x30 2
/-- Source then destination IP address, of 4 or 16 bytes, as they are sent. -/
def ips (b : List Byte) : List Byte :=
  if ipv6 b then (b.drop 0x40).take 32 else (b.drop 0x4C).take 4 ++ (b.drop 0x5C).take 4
end Fl

/-- Traffic class of a service, its weight, rate and burst (R320). -/
def svcTc (s : State) (v : Nat) : Nat := byteAt (svcBytes s v) 2 % 8
def svcWeight (s : State) (v : Nat) : Nat := max 1 (leAt (svcBytes s v) 4 2)
def svcRate (s : State) (v : Nat) : Nat := leAt (svcBytes s v) 8 4

/-- The port is ETH0 or ETH1, or a Selfold port (R11). -/
def isEth (p : Nat) : Bool := decide (p < 2)
def isSf (p : Nat) : Bool := decide (3 ≤ p ∧ p ≤ 6)

/-- Line rate in Mb/s (R312). -/
def lineRate (p : Nat) : Nat := if p = 2 then 968000 else if p = 7 then 1600000 else 400000

/-! ## Truncated units (R329) -/

/-- A unit cut short after `sent` and filled to `decl` bytes. -/
def truncFill (sent : List Byte) (decl : Nat) : List Byte :=
  let n := decl - sent.length
  let fill := if 8 ≤ n then List.replicate (n - 8) (0 : Byte) ++ [0x54, 0x52, 0x55, 0x4E] ++ toBE 4 sent.length
    else List.replicate n 0
  let u := sent ++ fill
  let body := u.take 12 ++ u.drop 16
  if beAt u 12 4 = crc32c body then u.take (decl - 1) ++ ((u.drop (decl - 1)).map fun b => ~~~b) else u

/-! ## Forming packets (R106–R108, R312, R319) -/

/-- The head packet of a flow: the units it completes, its data, how many units it takes wholly, the new `sent` of the unit
it leaves, its payload header fields (FRAG, NUNITS, FRAG_OFFSET) and whether it ends a picture. -/
structure Head where
  data : List Byte
  done : List EgUnit
  rest : List EgUnit
  frag : Nat
  nunits : Nat
  off : Nat
  lead : EgUnit
  endPic : Bool
  deriving DecidableEq, Repr

/-- Gather whole units that fit in the room left (R108): the units taken, those left, and whether the packet is closed. -/
def gather (pic : Nat) (room n : Nat) : List EgUnit → List EgUnit × List EgUnit × Bool
  | [] => ([], [], false)
  | u :: t =>
    if u.pic ≠ pic ∨ room < u.bytes.length ∨ n = 0 then ([], u :: t, true)
    else if u.last || u.se then ([u], t, true)
    else
      let r := gather pic (room - u.bytes.length) (n - 1) t
      (u :: r.1, r.2.1, r.2.2)

/-- The next ACS packet of a flow with payload size P on ETH, when it is closed or a fragment (R107, R108). -/
def headEth (p : Nat) (us : List EgUnit) : Option Head :=
  match us with
  | [] => none
  | u :: t =>
    let len := u.bytes.length
    if u.sent = 0 ∧ len ≤ p then
      let g := gather u.pic p 255 (u :: t)
      if g.2.2 then
        some ⟨g.1.flatMap (·.bytes), g.1, g.2.1, 0, g.1.length, 0, u, g.1.any (·.last)⟩
      else none
    else
      let d := (u.bytes.drop u.sent).take p
      let fin := decide (len ≤ u.sent + p)
      some ⟨d, if fin then [u] else [], if fin then t else { u with sent := u.sent + p } :: t,
        if u.sent = 0 then 1 else if fin then 3 else 2, 1, u.sent, u, fin && u.last⟩

/-- Length of the start code at the front of a byte stream, 0 where there is none. -/
def startCode (b : List Byte) : Nat := if b.take 3 = [0, 0, 1] then 3 else if b.take 4 = [0, 0, 0, 1] then 4 else 0

/-- Bytes before the next start code of a byte stream. -/
def nalEnd : List Byte → Option Nat
  | [] => none
  | b :: t => if startCode (b :: t) ≠ 0 then some 0 else (nalEnd t).map (· + 1)

/-- The units of a picture at the front of a flow, up to the one that closes its last NAL unit: the picture's last unit, or one
cut short (R329). -/
def nalRun (pic : Nat) : List EgUnit → List EgUnit
  | [] => []
  | u :: t => if u.pic ≠ pic then [] else if u.last || u.trunc then [u] else u :: nalRun pic t

/-- Take `k` bytes off the front of a flow: the units taken wholly, and those left. -/
def takeBytes : List EgUnit → Nat → List EgUnit × List EgUnit
  | [], _ => ([], [])
  | u :: t, k =>
    let n := u.bytes.length - u.sent
    if k = 0 then ([], u :: t)
    else if k < n then ([], { u with sent := u.sent + k } :: t)
    else
      let r := takeBytes t (k - n)
      (u :: r.1, r.2)

/-- The next HEVC packet of a flow with payload size P on ETH (R319): a whole NAL unit, or at most P bytes of one, without its
start code. NAL units run on across the job boundaries of a picture. -/
def headHevc (p : Nat) (us : List EgUnit) : Option Head :=
  match us with
  | [] => none
  | u :: _ =>
    let run := nalRun u.pic us
    let bs := (run.flatMap (·.bytes)).drop u.sent
    let sc := startCode bs
    let body := bs.drop sc
    let e := nalEnd body
    let n := e.getD body.length
    let fin := e.isSome || run.any fun u => u.last || u.trunc
    if n ≤ p ∧ fin = false then none
    else
      let r := takeBytes us (sc + min p n)
      some ⟨body.take (min p n), r.1, r.2, if n ≤ p then (if sc = 0 then 3 else 0) else if sc = 0 then 2 else 1, 1, u.sent, u,
        r.1.any (·.last)⟩

/-- The next packet on any other port: one unit (R312). -/
def headUnit (us : List EgUnit) : Option Head :=
  match us with
  | [] => none
  | u :: t => some ⟨u.bytes, [u], t, 0, 1, 0, u, u.last⟩

/-- The next packet of flow `f`. -/
def headOf (s : State) (f : Nat) (b : List Byte) : Option Head :=
  if !isEth (Fl.port b) then headUnit (getFlow s f).units
  else if Fl.hevc b then headHevc (Fl.p b) (getFlow s f).units
  else headEth (Fl.p b) (getFlow s f).units

/-- The RTP header (R106). -/
def rtpHdr (b : List Byte) (marker : Bool) (seq ts : Nat) : List Byte :=
  [0x80] ++ toBE 1 ((if marker then 128 else 0) + Fl.pt b % 128) ++ toBE 2 seq ++ toBE 4 ts ++ toBE 4 (Fl.ssrc b)

/-- The UDP payload of an ETH packet. -/
def udpPayload (b : List Byte) (seq : Nat) (h : Head) : List Byte :=
  rtpHdr b h.endPic seq h.lead.ts ++
    (if Fl.hevc b then Config.hevcPay (h.frag == 0 || h.frag == 1) (h.frag == 0 || h.frag == 3) h.data
     else toBE 1 (h.frag * 64) ++ toBE 1 h.nunits ++ toBE 2 h.lead.num ++ toBE 4 h.off ++ h.data)

/-- The UDP datagram of a payload: checksum 0 over IPv4, computed over IPv6 with its pseudo-header, a sum of 0 sent as 0xFFFF
(R319). -/
def udpBytes (b pay : List Byte) : List Byte :=
  let n := pay.length + 8
  let h := toBE 2 (Fl.udpSrc b) ++ toBE 2 (Fl.udpDst b) ++ toBE 2 n
  let ck := inetSum (Fl.ips b ++ toBE 4 n ++ toBE 4 17 ++ h ++ pay)
  h ++ toBE 2 (if !Fl.ipv6 b then 0 else if ck = 0 then 0xFFFF else ck) ++ pay

/-- The IP packet (R319): IPv4 without options, DF set, Identification 0 and its header checksum, or IPv6 without extension
headers. The flow label of IPv6 is stated nowhere: a free value of the flow (assumption 68). -/
def ipBytes (f : Nat) (b udp : List Byte) : List Byte :=
  if Fl.ipv6 b then
    toBE 4 (6 * 2 ^ 28 + Fl.tos b * 2 ^ 20 + (Config.flowLabel f).toNat) ++ toBE 2 udp.length ++ [17] ++ toBE 1 (Fl.ttl b) ++
      Fl.ips b ++ udp
  else
    let a := [0x45] ++ toBE 1 (Fl.tos b) ++ toBE 2 (udp.length + 20) ++ [0, 0, 0x40, 0] ++ toBE 1 (Fl.ttl b) ++ [17]
    a ++ toBE 2 (inetSum (a ++ Fl.ips b)) ++ Fl.ips b ++ udp

/-- The Ethernet II frame (R319), from the destination address to the FCS, with an 802.1Q tag when VLAN is 1; a frame under the
64 bytes of IEEE 802.3 is filled with zeros. -/
def ethFrame (f : Nat) (b pay : List Byte) : List Byte :=
  let m := Fl.macs b ++ (if Fl.vlan b then [0x81, 0] ++ toBE 2 (Fl.tci b) else []) ++
    (if Fl.ipv6 b then [0x86, 0xDD] else [8, 0]) ++ ipBytes f b (udpBytes b pay)
  let m := m ++ List.replicate (60 - m.length) 0
  m ++ toLE 4 (crc32e m)

/-! ## Charges, times and gates (R313, R321–R325) -/

/-- A guaranteed packet's charge (R313), and a bulk packet's wire bytes (R323). -/
def gCharge (b : List Byte) (d : Nat) : Nat := if isEth (Fl.port b) then cdiv (d * (Fl.p b + Fl.h b)) (Fl.p b) else d
def bCharge (b : List Byte) (d : Nat) : Nat := if isEth (Fl.port b) then d + Fl.h b else d

/-- Bytes whose transmission must end before the gate closes (R325): the frame, the first 256-B write of a unit or its first
flit. DESIGN CHOICE (assumption 68): EGRESS_PACKET_DONE stands for a unit's later writes or flits, each of which waits for the
gate in the same way. -/
def gateBytes (b : List Byte) (d : Nat) : Nat :=
  if isEth (Fl.port b) then d + Fl.h b else if isSf (Fl.port b) then min d 240 else min d 256

/-- Their time at the line rate, in 2^-16 ns. -/
def wireTime (port n : Nat) : Time := cdiv (n * 8 * 1000 * 65536) (lineRate port)

/-- The flow's class gate is open and the packet fits (R321, R325). -/
def gateOk (s : State) (b : List Byte) (d : Nat) : Bool :=
  gateFits s (Fl.port b) (svcTc s (Fl.svc b)) (wireTime (Fl.port b) (gateBytes b d))

/-- The instant at which every data byte of a packet is in the FIFO. -/
def headAt (h : Head) : Time :=
  maxN ((h.lead :: h.done ++ (h.rest.take 1).filter fun u => u.sent != 0).map (·.at_))

/-- Eligibility instant and finish time of a guaranteed packet, both times RATE (R322). -/
def gElig (s : State) (f : Nat) (b : List Byte) (h : Head) : Nat := max (headAt h * Fl.rate b) (getFlow s f).fLast
def gFinish (s : State) (f : Nat) (b : List Byte) (h : Head) : Nat :=
  gElig s f b h + gCharge b h.data.length * 8 * 1000 * 65536

/-- The flows with units on a port, ascending, with their entries. -/
def portFlows (s : State) (port : Nat) : List (Nat × List Byte) :=
  ((s.flows.filter fun e => !e.2.units.isEmpty).map fun e => (e.1, flowBytes s e.1)).filter fun e =>
    Fl.valid e.2 && Fl.port e.2 == port

/-- The guaranteed packet with the least finish time that may start; ties go to the lower flow (R321). -/
def pickGuar (s : State) : List (Nat × List Byte) → Option (Nat × List Byte × Head)
  | [] => none
  | (f, b) :: t =>
    let r := pickGuar s t
    match (if Fl.guar b then headOf s f b else none) with
    | some h =>
      if gElig s f b h ≤ s.dt * Fl.rate b ∧ gateOk s b h.data.length = true then
        match r with
        | some (g, c, k) => if gFinish s g c k * Fl.rate b < gFinish s f b h * Fl.rate c then some (g, c, k) else some (f, b, h)
        | none => some (f, b, h)
      else r
    | none => r

/-! ## Bulk scheduling (R323, R324) -/

/-- The least common multiple of 1 to 4095: virtual tags are held exactly in units of 1/wScale byte. -/
def wScale : Nat := (List.range 4095).foldl (fun a i => Nat.lcm a (i + 1)) 1

/-- Tokens of a flow's or service's bucket now (R324). -/
def flowTok (s : State) (f : Nat) (b : List Byte) : Nat :=
  bucketNow s b (getFlow s f).tok (getFlow s f).tokTick
def svcTok (s : State) (v : Nat) : Nat :=
  bucketNow s (svcBytes s v) (getSvc s v).tok (getSvc s v).tokTick

/-- Both buckets hold the charge (R321). -/
def bucketOk (s : State) (f : Nat) (b : List Byte) (c : Nat) : Bool :=
  (Fl.rate b == 0 || decide (c * 1000000 ≤ flowTok s f b)) &&
    (svcRate s (Fl.svc b) == 0 || decide (c * 1000000 ≤ svcTok s (Fl.svc b)))

/-- Give the flow at the head of which a packet stands its tag (R323). -/
def tagFlow (s : State) (e : Nat × List Byte) : State :=
  let x := getFlow s e.1
  match (if Fl.guar e.2 || x.tagSet then none else headOf s e.1 e.2) with
  | some h =>
    let v := (getSvc s (Fl.svc e.2)).vFlow
    setFlow s e.1 { x with tagSet := true, tag := max v x.fLast + bCharge e.2 h.data.length * (wScale / Fl.weight e.2) }
  | none => s

/-- The flow of a service with the least tag among those that satisfy a test; ties go to the lower number. -/
def leastFlow (s : State) (ok : Nat × List Byte → Head → Bool) : List (Nat × List Byte) → Option (Nat × List Byte × Head)
  | [] => none
  | e :: t =>
    let r := leastFlow s ok t
    match (if (getFlow s e.1).tagSet && !Fl.guar e.2 then headOf s e.1 e.2 else none) with
    | some h =>
      if ok e h then
        match r with
        | some q => if (getFlow s q.1).tag < (getFlow s e.1).tag then some q else some (e.1, e.2, h)
        | none => some (e.1, e.2, h)
      else r
    | none => r

/-- A bulk flow is eligible (R321). -/
def bulkOk (s : State) (e : Nat × List Byte) (h : Head) : Bool := bucketOk s e.1 e.2 (bCharge e.2 h.data.length)

/-- Give a service its tag from the packet its flow level would choose next (R323); where no flow's buckets hold their charge, the
flow with the least tag counts (assumption 68). -/
def tagSvc (s : State) (port v : Nat) (fl : List (Nat × List Byte)) : State :=
  let x := getSvc s v
  if x.tagSet then s
  else
    let of := fl.filter fun e => Fl.svc e.2 == v
    match (leastFlow s (bulkOk s) of).or (leastFlow s (fun _ _ => true) of) with
    | some q => setSvc s v { x with
        tagSet := true
        tag := max (getPort s port).v x.fLast + bCharge q.2.1 q.2.2.data.length * (wScale / svcWeight s v) }
    | none => s

/-- The services of the flows listed. -/
def svcsOf (fl : List (Nat × List Byte)) : List Nat := (List.range 64).filter fun v => fl.any fun e => Fl.svc e.2 == v

/-- Bring every tag of a port up to date. -/
def tagAll (s : State) (port : Nat) : State :=
  let fl := portFlows s port
  let s1 := fl.foldl tagFlow s
  (svcsOf fl).foldl (fun s v => tagSvc s port v fl) s1

/-- The service with the least tag that has an eligible flow whose gate is open and whose packet fits, with that flow. -/
def pickBulk (s : State) (fl : List (Nat × List Byte)) : List Nat → Option (Nat × (Nat × List Byte × Head))
  | [] => none
  | v :: t =>
    let r := pickBulk s fl t
    match (if (getSvc s v).tagSet then
        leastFlow s (fun e h => bulkOk s e h && gateOk s e.2 h.data.length) (fl.filter fun e => Fl.svc e.2 == v) else none) with
    | some q =>
      (match r with
       | some (w, k) => if (getSvc s w).tag < (getSvc s v).tag then some (w, k) else some (v, q)
       | none => some (v, q))
    | none => r

/-! ## Starting a packet -/

/-- Take a packet from its flow and put it on the port (R321, R328). -/
def startPkt (s : State) (port f : Nat) (b : List Byte) (h : Head) : State :=
  let x := getFlow s f
  let smp := Fl.sampleK b < 15 && x.pkts % 2 ^ Fl.sampleK b == 0
  let e := getEth s port
  let pk : Pkt := {
    flow := f, data := h.data, ctx := h.lead.ctx, done := h.done, fifo := h.lead.fifo
    words := sumN (x.units.map leftWords) - sumN (h.rest.map leftWords)
    bytes := if isEth port then ethFrame f b (udpPayload b x.seq h) else h.data
    sampled := if smp then some h.lead.at_ else none
    depth := fifoOcc (fifoLog s h.lead.fifo) (getFifo s h.lead.fifo) * 4
    wire := isEth port && e.linkUp && rbits s (ethPage port) 0 0x100 0 0 == 1 }
  setPort (setFlow s f { x with units := h.rest, seq := (x.seq + 1) % 65536, pkts := x.pkts + 1, total := x.total + 1, tagSet := false }) port
    { getPort s port with cur := some pk }

/-- A guaranteed packet starts: its flow's clock moves on (R322). -/
def startGuar (s : State) (port : Nat) (q : Nat × List Byte × Head) : State :=
  let s1 := setFlow s q.1 { getFlow s q.1 with fLast := gFinish s q.1 q.2.1 q.2.2 }
  startPkt s1 port q.1 q.2.1 q.2.2

/-- A bulk packet starts: virtual times, which never decrease, and buckets move on (R323, R324). -/
def startBulkPkt (s : State) (port v : Nat) (q : Nat × List Byte × Head) : State :=
  let c := bCharge q.2.1 q.2.2.data.length * 1000000
  let x := getFlow s q.1
  let y := getSvc s v
  let s1 := setFlow s q.1 { x with fLast := x.tag, tok := (flowTok s q.1 q.2.1) - c, tokTick := s.tick }
  let s2 := setSvc s1 v { y with fLast := y.tag, vFlow := max y.vFlow x.tag, tok := (svcTok s v) - c, tokTick := s.tick, tagSet := false }
  let s3 := setPort s2 port { getPort s2 port with v := max (getPort s2 port).v y.tag }
  tagAll (startPkt s3 port q.1 q.2.1 q.2.2) port

/-! ## The end of units and pictures -/

/-- A unit's last byte is handed over: its buffer is freed, a truncation is counted (R329), and the picture's last unit
is its t_data (R25, R189). -/
def unitDone (port : Nat) (s : State) (u : EgUnit) : State :=
  let s1 := freeBuf s u.ctx u.buf
  let s2 := if u.trunc then
      let a := bump s1 schedPg 0 0x110 1
      let b := if isEth port then bump a (ethPage port) 0 0x124 1 else a
      setEvt (raiseFault b schedPg 0 0) schedPg 0
    else s1
  if u.last then finishPic (withPic s2 u.ctx u.pic fun p => { p with tData := some s.dt }) u.ctx u.pic
  else if u.se then releaseCheck s2 u.ctx
  else s2

/-- Record a sample (R328). -/
def sample (s : State) (pk : Pkt) : State :=
  match pk.sampled with
  | some t =>
    let x := getFlow s pk.flow
    let d := (s.dt - t) / 65536
    setFlow s pk.flow { x with
      depthLast := pk.depth, depthMin := min x.depthMin pk.depth, depthMax := max x.depthMax pk.depth
      delayLast := d, delayMin := min x.delayMin d, delayMax := max x.delayMax d }
  | none => s

/-- Frames of guaranteed streams on a port complete DEVICE_LOST (R351), but for those coded on the bulk pool. -/
def lostOn (s : State) (port : Nat) : State :=
  markCtxs s (fun _ x => Ct.port x.block == port) (fun _ p => p.begun && !p.demoted) 4

/-- Units handed to a Selfold port that is not UP are discarded at the link layer (R351). -/
def sfDrop (s : State) (port : Nat) (pk : Pkt) : State :=
  let s1 := lostOn (bump s (sfPage (port - 3)) 0 0x138 pk.done.length) port
  pk.done.foldl (unitDone port) (setPort (sample (fifoTake s1 pk.fifo pk.words) pk) port { getPort s1 port with cur := none })

/-- EGRESS_PACKET_START (R321). -/
def packetStart (port : Nat) (s : State) : State :=
  if 8 ≤ port ∨ (getPort s port).cur.isSome = true then s
  else
    let s0 := tagAll s port
    let fl := portFlows s0 port
    let s1 := match pickGuar s0 fl with
      | some q => startGuar s0 port q
      | none => match pickBulk s0 fl (svcsOf fl) with
        | some (v, q) => startBulkPkt s0 port v q
        | none => s0
    match (getPort s1 port).cur with
    | some pk => if isSf port && !sfUp s1 (port - 3) then sfDrop s1 port pk else s1
    | none => s1

/-! ## Output rings (R314–R316) -/

def ringLog (s : State) (r : Nat) : Nat := rbits s schedPg r 0x388 5 0
/-- Where a ring lies. DESIGN CHOICE (assumption 68): LOC decides also where it names the other memory than R11 and R314 give
the flow's port. -/
def ringLoc (s : State) (r : Nat) : Nat := rbits s schedPg r 0x388 8 8

/-- Make room for the new write position (R315): OLDEST moves to the start of the next picture, past a stream end unit or over
the picture at it, and the pictures dropped are counted. Behind the last picture a stream end unit, `se`, is kept from its own
start on; the picture being written overwrites its own start. -/
def ringRoom : Nat → Nat → Ring → Nat → Bool → Ring × Nat
  | 0, _, x, _, _ => (x, 0)
  | f + 1, n, x, w, se =>
    if ringDist n x.oldest w ≤ 2 ^ n then (x, 0)
    else match x.starts with
      | a :: t =>
        if a ≠ x.oldest then ringRoom f n { x with oldest := a } w se
        else match t with
          | b :: _ =>
            let r := ringRoom f n { x with starts := t, oldest := b } w se
            (r.1, r.2 + 1)
          | [] =>
            if se then ({ x with starts := [], oldest := x.wr }, 1)
            else ({ x with big := true, starts := [], oldest := (w + 2 ^ n) % 2 ^ (n + 1) }, 1)
      | [] => ({ x with big := x.big || !se, oldest := (w + 2 ^ n) % 2 ^ (n + 1) }, if x.big || se then 0 else 1)

/-- The drops of an output ring: each is counted, and SCHED_RING_OVR raised at each increment (R315, R330). -/
def ringDrops (s : State) (r : Nat) : Nat → State
  | 0 => s
  | n + 1 => ringDrops (raiseFault (setEvt (bump s schedPg r 0x3AC 1) schedPg 1) schedPg 1 0) r n

/-- Write bytes in writes of at most 256 aligned bytes (R312): a poisoned byte makes its write poisoned (R241, R281), and a
write that meets an error, as those of `lost` do, loses its bytes (R314). The first argument bounds the writes. -/
def wrBlocks : Nat → State → Nat → Nat → List (Byte × Bool) → (Nat → Bool) → State
  | 0, s, _, _, _, _ => s
  | f + 1, s, loc, a, bs, lost =>
    if bs.isEmpty then s
    else
      let n := 256 - a % 256
      let t := bs.take n
      wrBlocks f (if lost a then s else writeLoc s loc a (t.map (·.1)) (t.any (·.2))) loc (a + n) (bs.drop n) lost

/-- The bytes of a unit in the ring: up to the end, and from its start. -/
def ringStore (s : State) (r : Nat) (w : Nat) (bs : List (Byte × Bool)) (lost : Nat → Bool) : State :=
  let n := ringLog s r
  let base := rget64 s schedPg r 0x380
  let o := w % 2 ^ n
  let k := min bs.length (2 ^ n - o)
  wrBlocks bs.length (wrBlocks bs.length s (ringLoc s r) (base + o) (bs.take k) lost) (ringLoc s r) base (bs.drop k) lost

/-- The writes of a unit that meet the error of EGRESS_PACKET_DONE's `busErr`, by address: a unit written in one write loses
that; of more than one, at least one is lost, and which are is a free value (assumption 2). -/
def ringLost (s : State) (r w len : Nat) (a : Nat) : Bool :=
  let n := ringLog s r
  let base := rget64 s schedPg r 0x380
  let one := base + (w + (Config.freeWord s.freeCtr).toNat % max 1 len) % 2 ^ n
  a / 256 == one / 256 || (Config.freeWord (s.freeCtr + 1 + a)).getLsbD 0

/-- A write of a unit falls on a part of a poisoned block (R235). -/
def ringPart (s : State) (r w len : Nat) : Bool :=
  let n := ringLog s r
  let o := w % 2 ^ n
  let base := rget64 s schedPg r 0x380
  let k := min len (2 ^ n - o)
  meetsPoison s (ringLoc s r) (base + o) k || meetsPoison s (ringLoc s r) base (len - k)

/-- A write of a unit meets an error (R314). -/
def ringBad (s : State) (r w len : Nat) : Bool :=
  let n := ringLog s r
  let o := w % 2 ^ n
  let base := rget64 s schedPg r 0x380
  let k := min len (2 ^ n - o)
  (memWriteErr s (ringLoc s r) (base + o) k).isSome || (len != k && (memWriteErr s (ringLoc s r) base (len - k)).isSome)

/-- A unit's bytes go to the ring: `bad` marks those of poisoned words; with `busErr` writes of the unit meet an error and their
bytes are lost. An error is reported through AER for host memory, as HBM_RANGE for HBM (R314). -/
def ringPut (s : State) (r w : Nat) (busErr : Bool) (u : EgUnit) (bad : List Bool) : State :=
  let host := ringLoc s r == 0
  let s0 := if busErr && !host then rangeFault s else s
  let s1 := ringStore (if busErr then (fresh s0).2 else s0) r w
    ((List.range u.bytes.length).zip u.bytes |>.map fun e => (e.2, getIx bad (e.1 / 4) false))
    (if busErr then ringLost s r w u.bytes.length else fun _ => false)
  let s2 := if ringPart s r w u.bytes.length then markUe s1 u.ctx u.pic else s1
  if busErr || ringBad s r w u.bytes.length then
    withPic (if host then emit s2 .aer else s2) u.ctx u.pic fun p => { p with busErr := true }
  else s2

/-- The status block after a picture's last byte (R316). -/
def ringStatus (s : State) (r num : Nat) : State :=
  let z := getRing s r
  let a := rget64 s schedPg r 0x38C
  if a = 0 then s
  else writeLoc s (ringLoc s r) a (toLE 8 z.wr ++ toLE 8 z.oldest ++ toLE 8 z.lastPic ++ toLE 4 num ++ toLE 4 0) false

/-- A picture ends in an output ring (R315, R316). -/
def ringEnd (s : State) (r num : Nat) : State :=
  let y := getRing s r
  ringStatus (setRing s r { y with lastPic := y.curStart, big := false, oldest := if y.big then y.wr else y.oldest }) r num

/-- Write a unit into an output ring, and the status block after a picture's last byte (R314–R316). -/
def ringUnit (r : Nat) (busErr : Bool) (bad : List Bool) (s : State) (u : EgUnit) : State :=
  let n := ringLog s r
  let x := getRing s r
  let x0 := if u.first && !u.se then { x with starts := x.starts ++ [x.wr], curStart := x.wr } else x
  let w := (x.wr + u.bytes.length) % 2 ^ (n + 1)
  let m := ringRoom (2 * x0.starts.length + 2) n x0 w u.se
  let s1 := ringDrops (ringPut s r x.wr busErr u bad) r m.2
  let s2 := setRing s1 r { m.1 with wr := w }
  if u.last then ringEnd s2 r u.num else s2

/-! ## Handing a packet over -/

/-- Cut a packet into flits of at most 240 bytes (R347). -/
def flitParts (f : Nat) (bs : List Byte) : List (List Byte) :=
  match f with
  | 0 => []
  | f + 1 => if bs.length ≤ 240 then [bs] else bs.take 240 :: flitParts f (bs.drop 240)

/-- Send a packet as DATA flits of the flow's class (R347, R348). -/
def sendPacket (s : State) (p cls dest : Nat) (bs : List Byte) (ctx : Option (Nat × Nat)) : State :=
  let parts := flitParts (bs.length / 240 + 1) bs
  ((List.range parts.length).zip parts).foldl (fun s e =>
    sendSeq s p 0 cls 0 dest (e.1 == 0) (e.1 + 1 == parts.length) e.2 ctx) s

/-- EGRESS_PACKET_DONE (R312, R314, R349, R492): the packet is handed to its destination. -/
def packetDone (port : Nat) (busErr : Bool) (s : State) : State :=
  match (getPort s port).cur with
  | none => s
  | some pk =>
    if 8 ≤ port then s
    else
      let b := flowBytes s pk.flow
      let s1 := setPort (sample (fifoTake s pk.fifo pk.words) pk) port { getPort s port with cur := none }
      let s2 :=
        if isEth port then
          if !pk.wire then bump s1 (ethPage port) 0 0x128 1
          else if (getEth s1 port).linkUp && !pk.lost then evG (0x10C + port) (emit s1 (.frame port pk.bytes))
          else s1
        else if isSf port then
          (if sfUp s1 (port - 3) then
            sendPacket s1 (port - 3) (svcTc s1 (Fl.svc b)) (Fl.sfDest b) pk.data 
              (if Fl.guar b then (pk.done.head?).map fun u => (u.ctx, u.pic) else none)
           else lostOn (bump s1 (sfPage (port - 3)) 0 0x138 pk.done.length) port)
        else pk.done.foldl (ringUnit (Fl.ring b) busErr ((fifoNext s pk.fifo pk.words).map s.comPoison.contains)) s1
      pk.done.foldl (unitDone port) s2

def execEgressPacketStart (port : Nat) (s : State) : Out := act (packetStart port) s
def execEgressPacketDone (port : Nat) (busErr : Bool) (s : State) : Out := act (packetDone port busErr) s

/-! ## ETH links and PTP (R327, R331, R492) -/

/-- ETH_LINK_DOWN (R492, R445): a frame on the wire is lost with the link. -/
def ethDown (port : Nat) (s : State) : State :=
  if 2 ≤ port ∨ !(getEth s port).linkUp then s
  else
    let s1 := setPort s port { getPort s port with cur := (getPort s port).cur.map fun pk => { pk with lost := true } }
    raiseFault (setEth s1 port { getEth s1 port with linkUp := false, fecLock := false }) (ethPage port) 0 0

/-- The port is enabled, in one direction at least, and so its SerDes quads are not gated (R52, R412). -/
def ethOn (s : State) (port : Nat) : Bool := rbits s (ethPage port) 0 0x100 1 0 != 0

/-- ETH_LINK_UP (R331): not while the port's quads are gated (R52, R412). -/
def ethUp (port : Nat) (s : State) : State :=
  if 2 ≤ port ∨ !ethOn s port then s else setEth s port { getEth s port with linkUp := true, fecLock := true }

/-- The MAC may send a control frame now (R327): ahead of every bulk service and behind every guaranteed packet, between two
packets of the port. -/
def ctlTurn (s : State) (port : Nat) : Bool :=
  (getPort s port).cur.isNone && (pickGuar s (portFlows s port)).isNone

/-- PTP_EVENT_MESSAGE (R327, R492): a message that the firmware sends is discarded and counted while the link is down or TX_EN
is 0; else, in its turn, its timestamp enters the FIFO. A receive timestamp is given to the firmware. -/
def ptpEvent (port : Nat) (tx : Bool) (msgType seqId : Nat) (s : State) : State :=
  let e := getEth s port
  if 2 ≤ port then s
  else if tx then
    let t := (s.dt + rbits s (ethPage port) 0 0x108 19 0 * 256) % 2 ^ 80
    if !ctlTurn s port then s
    else if !e.linkUp ∨ rbits s (ethPage port) 0 0x100 0 0 = 0 then bump s (ethPage port) 0 0x128 1
    else if 64 ≤ e.ptp.length then bump s (ethPage port) 0 0x120 1
    else setEth s port { e with ptp := e.ptp ++ [⟨t, msgType % 16, seqId % 65536⟩] }
  else if !e.linkUp ∨ rbits s (ethPage port) 0 0x100 1 1 = 0 then s
  else { s with out := (s.dt + rbits s (ethPage port) 0 0x10C 19 0 * 256) % 2 ^ 80 }

/-- PTP_TX_ID as read (R331). -/
def ptpId (e : Eth) : Nat :=
  match e.ptp with
  | t :: _ => 2 ^ 31 + t.msgType * 2 ^ 24 + t.seqId
  | [] => 0

/-- PTP_TX_ID_READ (R331): a read with VALID set removes the head timestamp. -/
def ptpRead (port : Nat) (s : State) : State :=
  if 2 ≤ port ∨ !pageLive s (ethPage port) ∨ (hdr s (ethPage port)).inReset = true then { s with out := 0 }
  else
    let e := getEth s port
    setEth { s with out := ptpId e } port { e with ptp := e.ptp.drop 1 }

def execEthLinkDown (port : Nat) (s : State) : Out := act (ethDown port) s
def execEthLinkUp (port : Nat) (s : State) : Out := act (ethUp port) s
def execPtpEventMessage (port : Nat) (tx : Bool) (msgType seqId : Nat) (s : State) : Out :=
  act (ptpEvent port tx msgType seqId) s
def execPtpTxIdRead (_rq : Requester) (port : Nat) (s : State) : Out := actBus (ptpRead port) s

end Sys2Proof.Machine
end

