-- ==== Sys2Proof/Machine/Acs.lean ====
section
/-! DEFINITION. Aglux Coded Stream structure (R79–R104) and emergency sizes (R112, R173): geometry, canonical order, unit
headers. Units are written most significant byte first (R79). -/
namespace Sys2Proof.Machine

/-! ## Geometry (R86–R88, R97) -/

/-- What fixes the division of a picture: layout, plane 0 width and height, SEG_W code, depth. -/
structure Geo where
  layout : Nat
  w : Nat
  h : Nat
  segc : Nat
  depth : Nat
  deriving DecidableEq, Repr

/-- Planes of a layout (R86). -/
def nPlanes (layout : Nat) : Nat := if layout = 0 then 1 else if layout = 5 then 4 else 3

/-- Chroma planes are halved across (YCC422, YCC420) or down (YCC420). -/
def halfW (layout p : Nat) : Bool := (layout == 3 || layout == 4) && (p == 1 || p == 2)
def halfH (layout p : Nat) : Bool := layout == 4 && (p == 1 || p == 2)

namespace Geo
def planes (g : Geo) : Nat := nPlanes g.layout
def pw (g : Geo) (p : Nat) : Nat := if halfW g.layout p then cdiv g.w 2 else g.w
def ph (g : Geo) (p : Nat) : Nat := if halfH g.layout p then cdiv g.h 2 else g.h
/-- SEG_W in samples (R83). -/
def segW (g : Geo) : Nat := 256 * 2 ^ (g.segc % 4)
def nr (g : Geo) (p : Nat) : Nat := cdiv (g.ph p) 32
def ns (g : Geo) (p : Nat) : Nat := cdiv (g.pw p) g.segW
def segCount (g : Geo) : Nat := sumN ((List.range g.planes).map fun p => g.nr p * g.ns p)
/-- The rectangle of a segment: first column, first line, width, height. -/
def x0 (g : Geo) (i : Nat) : Nat := i * g.segW
def y0 (r : Nat) : Nat := r * 32
def sw (g : Geo) (p i : Nat) : Nat := min g.segW (g.pw p - i * g.segW)
def sh (g : Geo) (p r : Nat) : Nat := min 32 (g.ph p - r * 32)
/-- The key of a segment row (R97). -/
def key (g : Geo) (p r : Nat) : Nat := min ((r + 1) * (if halfH g.layout p then 2 else 1) - 1) (g.nr 0 - 1)
/-- Segments of event `k` in canonical order: (plane, row, segment). -/
def event (g : Geo) (k : Nat) : List (Nat × Nat × Nat) :=
  (List.range g.planes).flatMap fun p =>
    (((if halfH g.layout p then [(k - 1) / 2, k / 2] else [k]).eraseDups).filter fun r => r < g.nr p && g.key p r == k).flatMap
      fun r => (List.range (g.ns p)).map fun i => (p, r, i)
/-- Canonical order of the picture (R97). -/
def order (g : Geo) : List (Nat × Nat × Nat) := (List.range (g.nr 0)).flatMap g.event
/-- The address is one of the picture (R96). -/
def addrOk (g : Geo) (p r i : Nat) : Bool := p < g.planes && r < g.nr p && i < g.ns p
end Geo

/-- Raw size R of `n` samples and escape bound L (R99). -/
def rawSize (n d : Nat) : Nat := cdiv (n * d) 8
def escBound (n d : Nat) : Nat := cdiv (rawSize n d * 251) 250

/-- The geometry of a contract's coded picture (R84). -/
def ctGeo (b : List Byte) : Geo := ⟨Ct.layout b, Ct.outW b, Ct.outH b, Ct.segW b, Ct.depth b⟩

/-- The largest unit of a contract's pictures (R99). -/
def maxUnit (g : Geo) : Nat :=
  16 + maxN ((List.range g.planes).map fun p => escBound (min g.segW (g.pw p) * min 32 (g.ph p)) g.depth)

/-! ## Emergency form (R112, R173) -/

/-- Bits of an emergency quadtree node of size `n` at (x0, y0) of a w × h segment, with `leaf` bits a leaf. -/
def emergNode (w h leaf : Nat) : Nat → Nat → Nat → Nat → Nat
  | 0, _, _, _ => leaf
  | f + 1, n, x0, y0 =>
    if w ≤ x0 ∨ h ≤ y0 then 0
    else if n ≤ 4 then leaf
    else if w < x0 + n ∨ h < y0 + n then
      let m := n / 2
      emergNode w h leaf f m x0 y0 + emergNode w h leaf f m (x0 + m) y0 + emergNode w h leaf f m x0 (y0 + m) +
        emergNode w h leaf f m (x0 + m) (y0 + m)
    else 1 + leaf

/-- Bits of the coding block at column `x`: cb_qp_delta and its quadtree. -/
def emergCb (w h leaf x : Nat) : Nat := 1 + emergNode w h leaf 4 32 x 0

/-- The emergency body in bytes (R173): whole coding blocks count alike. -/
def emergBody (isP : Bool) (w h : Nat) : Nat :=
  let leaf := if isP then 2 else 6
  let full := w / 32
  cdiv ((if 0 < full then full * emergCb w h leaf 0 else 0) + (if w % 32 = 0 then 0 else emergCb w h leaf (full * 32))) 8

/-- The emergency unit size of a segment. -/
def emergUnit (isP : Bool) (w h : Nat) : Nat := emergBody isP w h + 16

/-- The emergency size of an event (R174). -/
def emergRow (g : Geo) (isP : Bool) (k : Nat) : Nat :=
  sumN ((g.event k).map fun s => emergUnit isP (g.sw s.1 s.2.2) (g.sh s.1 s.2.1))

/-- The sizes that R39 takes in a mode: emergency sizes in lossy modes (the I form, which is the larger), escape bounds in
MODE 2 and 3 (R178). -/
def eventSize (mode : Nat) (g : Geo) (k : Nat) : Nat :=
  if mode = 2 ∨ mode = 3 then sumN ((g.event k).map fun s => escBound (g.sw s.1 s.2.2 * g.sh s.1 s.2.1) g.depth + 16)
  else emergRow g false k

/-- SH, PH and PE (R103), with the wide PE of R102. -/
def fixedUnits (bodies : Nat) : Nat := if 2 ^ 32 ≤ bodies + 108 then 116 else 108

/-! ## Unit headers (R80–R104) -/

/-- Append a CRC-32C over what stands before it. -/
def withCrc (b : List Byte) : List Byte := b ++ toBE 4 (crc32c b)

/-- The stream header (R83, R84). -/
def shUnit (b : List Byte) : List Byte :=
  withCrc ([0xA1, 0, 0, 0, 1] ++ toBE 1 (Ct.layout b) ++ toBE 1 (Ct.cfaPhase b) ++ toBE 1 (Ct.depth b) ++
    toBE 2 (Ct.outW b) ++ toBE 2 (Ct.outH b) ++ toBE 1 (Ct.segW b) ++ toBE 1 (Ct.mode b) ++ toBE 2 (Ct.errE b) ++
    toBE 1 (Ct.nref b) ++ toBE 1 (Ct.codeFlags b % 2) ++ toBE 2 0 ++ toBE 8 (Ct.period b) ++ toBE 4 (Ct.streamId b) ++
    List.replicate 12 0)

/-- The picture header (R89). -/
def phUnit (picNum src capNs capFrac : Nat) (isP flush island demoted : Bool) (refMask store : Nat) (tags : List Nat)
    (segs : Nat) : List Byte :=
  withCrc ([0xA2, 0, 0, 0] ++ toBE 4 picNum ++ toBE 4 src ++ toBE 8 capNs ++ toBE 2 capFrac ++
    toBE 1 (if isP then 1 else 0) ++
    toBE 1 ((if flush then 1 else 0) + (if island then 2 else 0) + (if demoted then 4 else 0)) ++
    toBE 1 refMask ++ toBE 1 store ++ toBE 2 0 ++ (List.range 4).flatMap (fun i => toBE 2 (getIx tags i 0)) ++ toBE 4 segs)

/-- A segment unit around its body (R95). -/
def sgUnit (raw emerg : Bool) (qp p i r picNum : Nat) (body : List Byte) : List Byte :=
  let h := [0xA3] ++ toBE 3 body.length ++ toBE 1 ((if raw then 128 else 0) + (if emerg then 64 else 0)) ++
    toBE 1 (if raw then 0 else qp) ++ toBE 1 p ++ toBE 1 i ++ toBE 2 r ++ toBE 2 (picNum % 65536)
  h ++ toBE 4 (crc32c (h ++ body)) ++ body

/-- The picture end after `n` bytes of SH, PH and segments (R102). -/
def peUnit (picNum n : Nat) : List Byte :=
  if 2 ^ 32 ≤ n + 16 then
    let h := [0xA4, 0, 0, 8] ++ toBE 4 picNum ++ toBE 4 0xFFFFFFFF
    let v := toBE 8 (n + 24)
    h ++ toBE 4 (crc32c (h ++ v)) ++ v
  else withCrc ([0xA4, 0, 0, 0] ++ toBE 4 picNum ++ toBE 4 (n + 16))

/-- The stream end (R104). -/
def seUnit (last : Nat) : List Byte := [0xA5, 0, 0, 0] ++ toBE 4 last

/-- `n` bits of a value, most significant first. -/
def bitsHi (n v : Nat) : List Bool := (bitsLow n v).reverse

/-- Pack bits into bytes, most significant first, the last byte filled with zeros. -/
def packBits : Nat → List Bool → List Byte
  | 0, _ => []
  | f + 1, l =>
    if l.isEmpty then []
    else
      let t := l.take 8
      BitVec.ofNat 8 ((t ++ List.replicate (8 - t.length) false).foldl (fun a b => a * 2 + if b then 1 else 0) 0) ::
        packBits f (l.drop 8)

/-- The raw body of a segment's samples (R100). -/
def rawBody (d : Nat) (rows : List (List Nat)) : List Byte :=
  let l := rows.flatMap fun r => r.flatMap (bitsHi d)
  packBits (l.length / 8 + 1) l

/-- The samples of a rectangle of a plane. -/
def rectOf (pl : List (List Nat)) (x y w h : Nat) : List (List Nat) :=
  ((pl.drop y).take h).map fun r => (r.drop x).take w

/-- Write a rectangle into a plane. -/
def putRect (pl : List (List Nat)) (x y : Nat) (rows : List (List Nat)) : List (List Nat) :=
  ((List.range rows.length).zip rows).foldl (fun pl e =>
    match pl[y + e.1]? with
    | some l => pl.set (y + e.1) (l.take x ++ e.2 ++ l.drop (x + e.2.length))
    | none => pl) pl

end Sys2Proof.Machine
end

