-- ==== Sys2Proof/Machine/Fabric.lean ====
section
/-! DEFINITION. The mesh (R332–R334): its nodes, the dimension-ordered routes, and what a stream's traffic lays on each
arbiter, which ADMIT's FABRIC_VC check needs. -/
namespace Sys2Proof.Machine

/-- A router's coordinates (x, y), x = 0–11 and y = 0–9 (R332). -/
abbrev Node2 := Nat × Nat

/-- An endpoint of the mesh (R332). -/
inductive Endpoint where
  | hbm (channel : Nat)
  | pcie
  /-- ST0 and ST1, or ST2 and ST3. -/
  | stewards (high : Bool)
  /-- ETH0, ETH1 and SCHED. -/
  | eth
  | sensor (port : Nat)
  | selfold (port : Nat)
  | granary
  | qmgr
  | tickets
  | crc
  | bridge
  | islTap
  | perf
  | boot
  | commons (bank : Nat)
  | tile (n : Nat)
  | fifo (port : Nat)
  | conditioning (port : Nat)
  deriving DecidableEq, Repr

/-- The columns of the interior that hold no Commons banks. -/
def tileColumns : List Nat := [1, 2, 4, 5, 6, 7, 9, 10]

/-- The node of an endpoint (the table of R332). -/
def nodeOf : Endpoint → Node2
  | .hbm c => if c < 16 then (0, c / 2) else (11, (c - 16) / 2)
  | .pcie => (0, 8)
  | .stewards h => if h then (11, 9) else (0, 9)
  | .eth => (11, 8)
  | .sensor p => (p + 1, 0)
  | .selfold p => if p < 2 then (p + 9, 0) else (p - 1, 9)
  | .granary => (3, 9)
  | .qmgr => (4, 9)
  | .tickets => (5, 9)
  | .crc => (6, 9)
  | .bridge => (7, 9)
  | .islTap => (8, 9)
  | .perf => (9, 9)
  | .boot => (10, 9)
  | .commons b => if b < 24 then (3, b / 3 + 1) else (8, (b - 24) / 3 + 1)
  | .tile n => (getIx tileColumns (n / 2 % 8) 0, n / 16 + 1)
  | .fifo p => (getIx [6, 7, 9, 10] p 0, 7)
  | .conditioning p => (getIx tileColumns p 0, 8)

/-- A way out of a router: to a neighbour, y rising to the north, or to its local ports. -/
inductive Dir where
  | east
  | west
  | north
  | south
  | here
  deriving DecidableEq, Repr

/-- An arbiter of the mesh: one way out of one router (R337). -/
structure Arb where
  x : Nat
  y : Nat
  out : Dir
  deriving DecidableEq, Repr

/-- The input by which the route from `p` to `q` meets an arbiter; none where the route does not pass it. A route runs along x
first, then along y (R332). -/
def routeIn (p q : Node2) (a : Arb) : Option Dir :=
  let along : Dir := if p.1 < a.x then .west else if a.x < p.1 then .east else .here
  match a.out with
  | .east => if p.2 = a.y ∧ p.1 ≤ a.x ∧ a.x < q.1 then some along else none
  | .west => if p.2 = a.y ∧ q.1 < a.x ∧ a.x ≤ p.1 then some along else none
  | .north => if q.1 = a.x ∧ p.2 ≤ a.y ∧ a.y < q.2 then some (if p.2 = a.y then along else .south) else none
  | .south => if q.1 = a.x ∧ q.2 < a.y ∧ a.y ≤ p.2 then some (if p.2 = a.y then along else .north) else none
  | .here =>
    if q.1 = a.x ∧ q.2 = a.y then some (if p.2 = a.y then along else if p.2 < a.y then .south else .north) else none

/-- Hops of a route (R332). -/
def hops (p q : Node2) : Nat := (p.1 - q.1) + (q.1 - p.1) + (p.2 - q.2) + (q.2 - p.2)

/-- The mesh's arbiters. -/
def meshArbs : List Arb :=
  (List.range 12).flatMap fun x => (List.range 10).flatMap fun y =>
    [⟨x, y, .east⟩, ⟨x, y, .west⟩, ⟨x, y, .north⟩, ⟨x, y, .south⟩, ⟨x, y, .here⟩]

/-- A stream as the booth counts it on the mesh (R334): its partition, contract, tiles and pseudo-channels. -/
structure FabUse where
  mp : Nat
  block : List Byte
  tiles : List Nat
  pcs : List Nat
  deriving DecidableEq, Repr

/-- The routes of a stream's loads, from a pseudo-channel's controller to a tile, or of its stores, the other way: its traffic
spreads evenly over them (R334). -/
def fabRoutes (u : FabUse) (store : Bool) : List (Node2 × Node2) :=
  u.tiles.flatMap fun t => u.pcs.map fun p =>
    let a := nodeOf (.hbm (p / 2))
    let b := nodeOf (.tile t)
    if store then (b, a) else (a, b)

/-- Bytes of a host-fed stream's input pictures that its guaranteed DMA channel moves in a microsecond (R188, R333): the samples
of a picture at their depth, once in a PERIOD. -/
def fabDma (b : List Byte) : Nat :=
  let g : Geo := ⟨Ct.layout b, Ct.width b, Ct.height b, Ct.segW b, Ct.depth b⟩
  if Ct.source b = 1 then
    cdiv (sumN ((List.range g.planes).map fun p => g.pw p * g.ph p) * Ct.depth b * 1000) (8 * max 1 (Ct.period b))
  else 0

/-- The routes of a host-fed stream's guaranteed DMA: from the DMA engines to its partition's pseudo-channels (R282, R332). -/
def fabDmaRoutes (u : FabUse) : List (Node2 × Node2) :=
  if Ct.source u.block = 1 then u.pcs.map fun p => (nodeOf .pcie, nodeOf (.hbm (p / 2))) else []

/-- The routes of a stream's privileged requesters (R335): its guaranteed DMA, and the fetches of its bound queue between the
PCIe endpoint and QMGR (R299). -/
def fabPrivRoutes (u : FabUse) : List (Node2 × Node2) :=
  fabDmaRoutes u ++
    (if Ct.source u.block = 1 then [(nodeOf .qmgr, nodeOf .pcie), (nodeOf .pcie, nodeOf .qmgr)] else [])

/-- What a stream lays on an arbiter, MB/s. -/
def fabLoad (u : FabUse) (a : Arb) : Nat :=
  let n := u.tiles.length * u.pcs.length
  let cnt := fun st => ((fabRoutes u st).filter fun r => (routeIn r.1 r.2 a).isSome).length
  let tr := Config.tileTraffic u.block
  let dma := ((fabDmaRoutes u).filter fun r => (routeIn r.1 r.2 a).isSome).length
  (if n = 0 then 0 else cdiv (tr.1 * cnt false + tr.2 * cnt true) n) +
    (if u.pcs.length = 0 then 0 else cdiv (fabDma u.block * dma) u.pcs.length)

/-- The inputs by which a stream's routes meet an arbiter. -/
def fabInputs (u : FabUse) (a : Arb) : List Dir :=
  ([.east, .west, .north, .south, .here] : List Dir).filter fun d =>
    (fabRoutes u false ++ fabRoutes u true ++ fabDmaRoutes u).any fun r => routeIn r.1 r.2 a == some d

/-- Rank-2 requesters with reservations of an arbiter: an input and a partition's virtual channel each (R334, R337). -/
def fabRank2 (us : List FabUse) (a : Arb) : Nat := ((us.flatMap fun u => (fabInputs u a).map fun d => (d, u.mp)).eraseDups).length

/-- Privileged requesters of an arbiter: an input and a partition's virtual channel each (R335). -/
def fabPriv (us : List FabUse) (a : Arb) : Nat :=
  ((us.flatMap fun u => (fabPrivRoutes u).filterMap fun r => (routeIn r.1 r.2 a).map fun d => (d, u.mp)).eraseDups).length

/-- The greatest partition traffic that streams lay on one link (R334). -/
def fabPeak (us : List FabUse) : Nat :=
  maxN ((meshArbs.filter fun a => a.out != .here).map fun a => sumN (us.map fun u => fabLoad u a))

/-- An arbiter with more rank-2 requesters than four, or more privileged requesters inside reservations than one (R334): a
stream's are privileged inside its Carousel window only, and which windows coincide is a free value (assumption 26). -/
def fabCrowd (us : List FabUse) : Option Arb :=
  meshArbs.find? fun a => decide (4 < fabRank2 us a) || decide (1 < fabPriv us a) &&
    Config.fabricPrivileged (us.map fun u => (u.mp, u.block)) (a.x, a.y, match a.out with
      | .east => 0 | .west => 1 | .north => 2 | .south => 3 | .here => 4)

/-- FABRIC_VC for a stream beside the admitted ones (R32, R334): its SHORTFALL when the check fails, the excess over 80% of a
link, or the stream's own rate at the crowded arbiter. -/
def fabCheck (us : List FabUse) (new : FabUse) : Option Nat :=
  let all := us ++ [new]
  if 81920 < fabPeak all then some (fabPeak all - 81920)
  else (fabCrowd all).map fun a => fabLoad new a

end Sys2Proof.Machine
end

