-- ==== Sys2Proof/Machine/Booth.lean ====
section
/-! DEFINITION. The Ticket Booth (R24–R52, R168, R344): the catalogue, contract validation, the checks in order, what
admission reserves, RELEASE, RELIST, and the fabric's counters (R338–R340). -/
namespace Sys2Proof.Machine

/-! ## The catalogue (R19, R168, R413) -/

/-- A catalogue entry: cost in half TCLK per sample, exposure count, Msample/s, mW a tile, chained. -/
structure Prog where
  mode : Nat
  nref : Nat
  c2 : Nat
  e : Nat
  rate : Nat
  mw : Nat
  chained : Bool := false
  deriving DecidableEq, Repr

/-- R168 with the rates of R19 and the powers of R413. -/
def progOf (n : Nat) : Option Prog :=
  if n = 0 then some ⟨0, 0, 3, 1, 800, 1650, false⟩
  else if n = 1 then some ⟨2, 0, 2, 1, 1200, 1400, false⟩
  else if n = 2 then some ⟨3, 0, 2, 1, 1200, 1400, false⟩
  else if n = 5 then some ⟨0, 0, 3, 2, 800, 1650, true⟩
  else if n = 6 then some ⟨2, 0, 2, 2, 1200, 1400, true⟩
  else if n = 7 then some ⟨3, 0, 2, 2, 1200, 1400, true⟩
  else if 0x11 ≤ n ∧ n ≤ 0x14 then some ⟨1, n - 0x10, 6, n - 0x10, 400, 950, false⟩
  else if n = 0x20 then some ⟨4, 0, 6, 1, 400, 1500, false⟩
  else if 0x21 ≤ n ∧ n ≤ 0x24 then some ⟨4, n - 0x20, 12, n - 0x20 + 1, 200, 1100, false⟩
  else none

/-- The catalogue entry of a contract (R28, R168). -/
def entryOf (b : List Byte) : Nat :=
  if Ct.catalogue b ≠ 0xFFFF then Ct.catalogue b
  else match Ct.mode b with
    | 0 => 0
    | 1 => 0x10 + Ct.nref b
    | 2 => 1
    | 3 => 2
    | _ => 0x20 + Ct.nref b

/-- Its program, when the entry suits the contract (R168, R169). -/
def ctProg (b : List Byte) : Option Prog :=
  match progOf (entryOf b) with
  | some p => if p.mode = Ct.mode b ∧ p.nref = Ct.nref b ∧ (!p.chained || Ct.layout b == 5) = true then some p else none
  | none => none

/-- The job shapes of an event: sample counts with every segment costed at 32 lines, in release order (R164, R168, R169,
R182: an HEVC event is a CTU row, with one job a tile column). -/
def jobShapes (b : List Byte) (p : Prog) (k : Nat) : List Nat :=
  let g := ctGeo b
  if p.mode = 4 then
    (List.range (g.ns 0)).map fun i =>
      sumN ((List.range g.planes).map fun q =>
        (if q = 0 then g.sw 0 i else if halfW g.layout q then cdiv (g.sw 0 i) 2 else g.sw 0 i) *
          (if halfH g.layout q then 16 else 32))
  else
    ((g.event k).filter fun s => !p.chained || s.1 == 0).map fun s =>
      g.sw s.1 s.2.2 * 32 * (if p.chained then g.planes else 1)

/-- W_prog of a job of `n` samples in TCLK (R168). -/
def wProg (p : Prog) (n : Nat) : Nat := 248 + p.c2 * n / 2

/-! ## Contract arithmetic (R35–R41) -/

/-- Samples of the input picture over all planes (R19, R35). -/
def inSamples (b : List Byte) : Nat :=
  let g : Geo := ⟨Ct.layout b, Ct.width b, Ct.height b, Ct.segW b, Ct.depth b⟩
  sumN ((List.range g.planes).map fun p => g.pw p * g.ph p)

/-- N_need and N_res (R35). -/
def nNeed (b : List Byte) (p : Prog) : Nat := cdiv (inSamples b * 1000 * 65536) (Ct.period b * p.rate)
def nRes (need margin : Nat) : Nat := need + cdiv (need * margin) 100

/-- Rotation by 90° or 270° (R28); a vertical mirror, which a 180° rotation contains, completes the top row last. -/
def rot90 (b : List Byte) : Bool := bits (Ct.cond b) 3 2 % 2 == 1
def lateTop (b : List Byte) : Bool := (bits (Ct.cond b) 5 5 == 1) != (bits (Ct.cond b) 3 2 == 2)

/-- t_wave in sixths of a nanosecond, for a worst-case cycle count and t_slot in ns (R41). -/
def tWave6 (w e tSlot : Nat) : Nat := 6000 + 5 * w + 6 * (e * (tSlot + 950))

/-- What the booth sum needs beside the contract. -/
structure SumIn where
  nres : Nat
  tSlot : Nat
  /-- Longest closed interval and open time of the class gate, and the list's cycle, ns. -/
  g : Nat
  fOpen : Nat
  cycle : Nat
  /-- w = wNum / wDen. -/
  wNum : Nat
  wDen : Nat
  deriving DecidableEq, Repr

/-- The figures of the booth sum: times over the denominator `den` (in ns), and the rest of R38. -/
structure SumOut where
  dCalc : Nat
  occ : Nat
  grnMin : Nat
  jEv : Nat
  wave6 : Nat
  deriving DecidableEq, Repr

/-- T_hand in ns by port (R41). -/
def tHand (port : Nat) : Nat := if port < 2 then 100 else if port = 2 then 1200 else if port = 7 then 1500 else 400

/-- T_in in ns (R41). -/
def tIn (b : List Byte) : Nat :=
  (if Ct.source b = 0 then 800 else 500) + 200 * (Ct.cond b % 2) + 2400 * (Ct.cond b / 2 % 2) + (if rot90 b then 1600 else 0)

/-- The booth sum of R41 with R35's occupancy (tiles needed) and R38. For a host-fed frame, and where the whole frame is
released together, every job of the frame can be unfinished at t0. -/
def boothSum (b : List Byte) (p : Prog) (i : SumIn) : SumOut :=
  let g := ctGeo b
  let n := g.nr 0
  let evs := (List.range n).map fun k => (jobShapes b p k).map (wProg p)
  let wmax := maxN (evs.map maxN)
  let wave6 := tWave6 wmax p.e i.tSlot
  let per := evs.map (·.length)
  let tail :=
    if rot90 b || lateTop b || Ct.source b == 1 then sumN per
    else sumN (((List.range n).zip per).map fun e =>
      if (g.h - min (32 * (e.1 + 1)) g.h) * Ct.period b * 6 < wave6 * 65536 * g.h then e.2 else 0)
  let tile6 := cdiv tail (max 1 i.nres) * wave6
  -- T_eg over den6 = 6 × r_eg × open × wDen, in ns
  let den := Ct.egRate b * i.fOpen * i.wDen
  let eg := 6 * i.g * den + 6 * (Ct.egBurst b * 8 * 1000 * i.cycle * i.wNum) + tile6 * den
  let total := (6 * (tIn b + tHand (Ct.port b) + 1500) + tile6) * den + eg
  let jEv := maxN per
  let mem6 := 6 * (p.e * (i.tSlot + 950))
  { dCalc := if den = 0 then 0xFFFFFFFF else min 0xFFFFFFFF (cdiv total (6 * den))
    occ := cdiv (sumN (evs.map fun l => sumN (l.map fun w => 5 * w + mem6)) * 65536) (6 * Ct.period b)
    grnMin := if den = 0 then 0xFFFFFFFF else i.nres + jEv * cdiv (eg * 65536 * g.h) (6 * den * Ct.period b * 32)
    jEv := jEv
    wave6 := wave6 }

/-- The emergency size of an HEVC event in tile form, of the picture type that has the larger (R182). -/
def hevcEvent (b : List Byte) (k : Nat) : Nat :=
  let size := fun isP => sumN ((List.range ((ctGeo b).ns 0)).map fun i => Config.hevcEmerg b isP k i)
  if Ct.nref b = 0 then size false else max (size false) (size true)

/-- The worst-case event and frame sizes of R39 and R178; HEVC sizes follow R182. -/
def maxEvent (b : List Byte) : Nat :=
  maxN ((List.range ((ctGeo b).nr 0)).map fun k =>
    if Ct.mode b = 4 then hevcEvent b k else eventSize (Ct.mode b) (ctGeo b) k)

def frameSize (b : List Byte) : Nat :=
  let n := sumN ((List.range ((ctGeo b).nr 0)).map fun k =>
    if Ct.mode b = 4 then hevcEvent b k else eventSize (Ct.mode b) (ctGeo b) k)
  if Ct.mode b = 4 then n else n + fixedUnits n

/-- The least FRAME_CAP of a lossy contract (R174): fixed units and Σ nmin, at the default MIN_SEG_B. -/
def leastCap (b : List Byte) (p : Prog) : Nat :=
  frameSize b + 64 * (if p.mode = 4 then sumN ((List.range ((ctGeo b).nr 0)).map fun k => (jobShapes b p k).length)
    else (ctGeo b).segCount)

/-- a_frag in Mb/s (R313). -/
def aFrag (b : List Byte) (h : Nat) : Nat :=
  if 2 ≤ Ct.port b then 0
  else cdiv (h * (if Ct.mode b = 4 then 4 else (ctGeo b).segCount + 3) * 8 * 1000 * 65536) (Ct.period b)

/-- Reservable rate of a port in Mb/s (R312). -/
def reservable (p : Nat) : Nat := if p < 2 then 360000 else if p = 2 then 480000 else if p = 7 then 1280000 else 320000

/-! ## HEVC limits (R181; the level table is that of H.265, assumption 27) -/

/-- Of a level: MaxLumaPs and MaxLumaSr. -/
def levelOf (idc : Nat) : Option (Nat × Nat) :=
  match idc with
  | 30 => some (36864, 552960) | 60 => some (122880, 3686400) | 63 => some (245760, 7372800)
  | 90 => some (552960, 16588800) | 93 => some (983040, 33177600)
  | 120 => some (2228224, 66846720) | 123 => some (2228224, 133693440)
  | 150 => some (8912896, 267386880) | 153 => some (8912896, 534773760) | 156 => some (8912896, 1069547520)
  | 180 => some (35651584, 1069547520) | 183 => some (35651584, 2139095040) | 186 => some (35651584, 4278190080)
  | _ => none

/-- The picture keeps the size and sample rate limits of its level; the tile columns of R181 are the configuration's. -/
def levelOk (b : List Byte) : Bool :=
  match levelOf (Ct.hevcLevel b) with
  | some (ps, sr) =>
    let w := Ct.outW b
    let h := Ct.outH b
    decide (w * h ≤ ps) && decide (w * w ≤ 8 * ps) && decide (h * h ≤ 8 * ps) &&
      decide (w * h * 1000000000 * 65536 ≤ sr * Ct.period b)
  | none => false

/-- Bits of depth and layouts of a profile (R181). -/
def profileDepth (p : Nat) : Nat := match p with | 1 => 8 | 2 => 10 | 3 => 12 | 4 => 10 | 5 => 12 | 6 => 12 | _ => 16
def profileLayout (p layout : Nat) : Bool :=
  layout == 4 || (layout == 0 && decide (3 ≤ p)) || (layout == 3 && decide (4 ≤ p)) ||
    ((layout == 1 || layout == 2) && decide (6 ≤ p))

/-! ## Validation (R28, R31) -/

/-- A dimension after conditioning (R83, R157). -/
def dimOk (o i top : Nat) (scale : Bool) : Bool :=
  decide (16 ≤ o) && decide (o ≤ top) && (if scale then decide (o ≤ i) && decide (i ≤ 8 * o) else o == i)

/-- The flow is VALID on PORT and SVC and not held by another contract, and the service exists on the port (R318). -/
def flowFit (s : State) (b : List Byte) : Bool :=
  let f := flowBytes s (Ct.flow b % 4096)
  decide (Ct.flow b < 4096) && Fl.valid f && Fl.port f == Ct.port b && Fl.svc f == Ct.svc b && !Fl.guar f &&
    svcPortOf s (Ct.svc b) == some (Ct.port b)

/-- A ring flow's ring holds twice the largest picture (R315). -/
def ringFit (s : State) (b : List Byte) : Bool :=
  if Ct.port b = 2 ∨ Ct.port b = 7 then
    decide (2 * (if Ct.mode b = 2 ∨ Ct.mode b = 3 then frameSize b else Ct.frameCap b) ≤
      2 ^ ringLog s (Fl.ring (flowBytes s (Ct.flow b))))
  else true

/-- The fields of the contract whose checks need nothing else, as (offset, valid), in offset order. -/
def fieldTests (b : List Byte) : List (Nat × Bool) :=
  let lay := Ct.layout b
  let mode := Ct.mode b
  let iw := if rot90 b then Ct.height b else Ct.width b
  let ih := if rot90 b then Ct.width b else Ct.height b
  let sc := Ct.cond b / 2 % 2 == 1
  [(0x00, leAt b 0 2 == 1), (0x02, Ct.source b < 2), (0x03, Ct.source b == 0 || Ct.ports b == 0),
   (0x04, 16 ≤ Ct.width b && Ct.width b ≤ 32768), (0x06, 16 ≤ Ct.height b && Ct.height b ≤ 24576), (0x08, lay < 6),
   (0x09, if lay = 5 then Ct.cfaPhase b < 4 else Ct.cfaPhase b == 0), (0x0A, 8 ≤ Ct.depth b && Ct.depth b ≤ 18),
   (0x0B, Ct.segW b < 4 && (mode != 4 || Ct.hevcCfg b % 2 == 1 || decide ((ctGeo b).ns 0 ≤ 20))),
   (0x0C, Ct.cond b < 64 && (Ct.cond b % 2 == 0 || lay == 5)), (0x0E, zeroAt b 0xE 2),
   (0x10, dimOk (Ct.outW b) iw 32768 sc), (0x12, dimOk (Ct.outH b) ih 24576 sc), (0x14, zeroAt b 0x14 4),
   (0x18, Ct.period b != 0), (0x20, mode < 5),
   (0x21, if mode = 1 then 1 ≤ Ct.nref b && Ct.nref b ≤ 4 else if mode = 4 then Ct.nref b ≤ 4 else Ct.nref b == 0),
   (0x22, if mode = 2 then 1 ≤ Ct.errE b && Ct.errE b ≤ 1023 else Ct.errE b == 0),
   (0x24, if mode = 4 then 1 ≤ Ct.hevcProfile b && Ct.hevcProfile b ≤ 7 && profileLayout (Ct.hevcProfile b) lay &&
      Ct.depth b ≤ profileDepth (Ct.hevcProfile b) && (Ct.hevcProfile b != 7 || Ct.nref b == 0) else Ct.hevcProfile b == 0),
   (0x25, if mode = 4 then levelOk b else Ct.hevcLevel b == 0),
   (0x26, Ct.codeFlags b < 4), (0x27, zeroAt b 0x27 1), (0x28, Ct.srchH b ≤ 2048), (0x2A, Ct.srchV b ≤ 512),
   (0x2C, (ctProg b).isSome), (0x2E, zeroAt b 0x2E 2)]

/-- The later fields, judged once the earlier ones are valid. A member at its own home (role 2) has no flow of its own
(R359). DESIGN CHOICE (assumption 67): POL_FLAGS bits [7:2], which R28 neither describes nor reserves, must be 0. -/
def laterTests (s : State) (role : Nat) (b : List Byte) (p : Prog) : List (Nat × Bool) :=
  let mode := Ct.mode b
  [(0x30, if mode = 2 ∨ mode = 3 then Ct.frameCap b == 0 else leastCap b p ≤ Ct.frameCap b),
   (0x40, 1 ≤ Ct.egRate b && Ct.egRate b ≤ 400000), (0x44, byteAt b 0x44 < 8), (0x45, Ct.svc b < 64),
   (0x46, role == 2 || (flowFit s b && ringFit s b)), (0x48, 1000 ≤ Ct.dReq b && Ct.dReq b ≤ 100000000),
   (0x4C, Ct.timeSrc b < 2 && (Ct.timeSrc b == 0 || s.isl.st == 2 || s.isl.st == 3)),
   (0x4D, Ct.mpReq b < 16 || Ct.mpReq b == 0xFF), (0x4E, Ct.queue b < 8192),
   (0x54, 1 ≤ Ct.polPbs b && Ct.polPbs b ≤ 16), (0x55, Ct.polFlags b < 4),
   (0x56, Ct.pool b < 64 && maxUnit (ctGeo b) ≤ poolSize s (Ct.pool b % 64)),
   (0x57, zeroAt b 0x57 41)]

/-- The offset of the first invalid field, or the program of a valid contract (R28, R31). -/
def validate (s : State) (role : Nat) (b : List Byte) : Sum Nat Prog :=
  match (fieldTests b).find? fun t => !t.2 with
  | some t => .inl t.1
  | none => match ctProg b with
    | none => .inl 0x2C
    | some p => match (laterTests s role b p).find? fun t => !t.2 with
      | some t => .inl t.1
      | none => .inr p

/-! ## Replies (R31) -/

/-- Write a reply, count it, and finish the command (R30, R31). -/
def boothReply (s : State) (b : List Byte) : State :=
  let r := padTo 64 b
  let s1 := writeLoc s 0 (rget64 s tkbPg 0 0x110) r false
  let s2 := if byteAt r 0 = 1 then bump s1 tkbPg 0 0x124 1 else s1
  setEvt { s2 with booth := { s2.booth with
    busy := false, seq := s2.booth.seq + 1, lastResult := byteAt r 0, lastFail := byteAt r 1 } } tkbPg 0

/-- INVALID at an offset. -/
def invalidReply (off : Nat) : List Byte := [2, 0] ++ toLE 2 off

/-- REFUSED by a check, with its shortfall and, once computed, the sum. -/
def refusedReply (fail short dCalc : Nat) : List Byte :=
  [1] ++ toLE 1 fail ++ toLE 2 0 ++ toLE 4 (min 0xFFFFFFFF short) ++ toLE 4 0 ++ toLE 4 dCalc

def replyInvalid (s : State) (off : Nat) : State := boothReply s (invalidReply off)
def replyRefused (s : State) (fail short dCalc : Nat) : State := boothReply s (refusedReply fail short dCalc)

/-! ## The checks of R32 -/

/-- Context numbers in use: admitted, bulk open, decode open. -/
def freeCtxs (s : State) : List Nat := (List.range 1024).filter fun c => (getCtx s c).isNone

/-- A tile is in the bulk pool (R35, R184): enabled, locked, taking jobs, not reserved. -/
def bulkTile (s : State) (t : Nat) : Bool :=
  (getTile s t).enabled && (getTile s t).patchLocked && takesWork s (tilePage t) && !tileHeld s t && (getTile s t).run != 4

/-- A tile has no job. -/
def tileIdle (s : State) (t : Nat) : Bool := (getTile s t).run == 0 && (getTile s t).job.isNone

/-- The tiles R35 would take, best first. -/
def tileChoice (s : State) : List Nat :=
  let all := (List.range 104).filter (bulkTile s)
  all.filter (tileIdle s) ++ all.filter fun t => !tileIdle s t

/-- TCLK that a tile's job can still run (R214, R195). -/
def tileLeft (s : State) (t : Nat) : Nat :=
  match (getTile s t).budget with
  | some n => if tileIdle s t then 0 else n - (getTile s t).used
  | none => 0

/-- Members of a partition with an admitted stream are fixed; others can take free pseudo-channels (R232). -/
def mpUsed (s : State) (mp : Nat) : Bool := anyAdm s fun _ x => x.adm.mp == mp
def freePcs (s : State) : List Nat := (List.range 64).filter fun p => pcRegion s p == 31 && !(getPc s p).failed

/-- The partition of a contract: the one asked for, else the lowest with members and no admitted stream, else the lowest
with neither (assumption 28). -/
def chooseMp (s : State) (b : List Byte) : Option Nat :=
  if Ct.mpReq b < 16 then some (Ct.mpReq b)
  else
    let un := (List.range 16).filter fun m => !mpUsed s m
    ((un.filter fun m => !(regionPcs s m).isEmpty) ++ un).head?

/-- Free slot groups of a partition. -/
def freeGroups (s : State) (mp : Nat) : List Nat :=
  (List.range 8).filter fun k => !(anyAdm s fun _ x => x.adm.mp == mp && x.adm.grp == k)

/-- Window of the region that holds a VAULT flow's ring. -/
def ringWin (s : State) (b : List Byte) : Nat := bits (rget64 s schedPg (Fl.ring (flowBytes s (Ct.flow b))) 0x380) 40 36

/-- VAULT writes of a contract on region `w`, MB/s. -/
def vaultLoad (s : State) (b : List Byte) (w : Nat) : Nat :=
  if Ct.port b = 7 ∧ ringWin s b = w then cdiv (Ct.egRate b) 8 else 0

/-- Reserved memory load of a partition, MB/s. -/
def mpLoad (s : State) (w : Nat) : Nat :=
  sumN ((s.ctxs.filter fun e => e.2.kind == .admitted).map fun e =>
    (if e.2.adm.mp = w then e.2.adm.bw else 0) + vaultLoad s e.2.block w)

/-- Everything an ADMIT has worked out. -/
structure Plan where
  ctx : Nat
  tiles : List Nat
  mp : Nat
  pcs : List Nat
  take : List Nat
  grp : Nat
  sum : SumOut
  inp : SumIn
  mw : Nat
  bw : Nat
  afrag : Nat
  /-- The slot list with the entries that the booth installs, if it installs any. -/
  slots : Option CarList
  /-- Commons word address of the egress FIFO. -/
  place : Nat
  deriving DecidableEq, Repr

/-- The power added (R40, R413, R414): pseudo-channels of a partition that no contract has counted, sensor quads, the port. -/
def planMw (s : State) (b : List Byte) (p : Prog) (nres mp : Nat) (pcs : List Nat) : Nat :=
  p.mw * nres + (if mpUsed s mp then 0 else 500 * pcs.length) +
    1600 * ((List.range 8).filter fun n => Ct.source b == 0 && Ct.ports b / 2 ^ n % 2 == 1).length +
    (if anyAdm s (fun _ x => Ct.port x.block == Ct.port b) then 0
     else if Ct.port b < 2 then 3000 else if isSf (Ct.port b) then 2800 else 0)

/-- The greatest minimum that a pool would accept of an owner (R256). -/
def grnRoom (s : State) (p o : Nat) : Nat :=
  let x := getPool s p
  if poolUp x && blockUp s grnPg then
    min (poolCount s p - (rsvOf x - minOf x o)) (inUse x o + (freeCnt x - (unusedOf x - (minOf x o - inUse x o))))
  else 0

/-! ## Slot windows and their bandwidth (R27, R36, R236) -/

/-- The lists of a Carousel list number under which an admitted stream can come to run (R27, R44): the operative one, and one
committed before and still pending. -/
def carBoth (s : State) (l : Nat) : List CarList := (getCar s l).oper :: ((getCar s l).pend.map (·.list)).toList

/-- The worst of some lists for gate `k` with `m` the shortest open interval that counts: the longest closed interval, and the
least open time with its cycle, ns. -/
def worstGate (ls : List CarList) (k m : Nat) : Nat × Nat × Nat :=
  match ls with
  | [] => (0, 0, 1)
  | [l] => ((gateGF l k m).1, (gateGF l k m).2, l.cycle)
  | l :: t =>
    let r := gateGF l k m
    let w := worstGate t k m
    (max r.1 w.1, if r.2 * w.2.2 < w.2.1 * l.cycle then (r.2, l.cycle) else w.2)

/-- The time a cycle in which some slot group of a set is open, ns. -/
def openAny (l : CarList) (mask : Nat) : Nat :=
  sumN (((carRuns l).filter fun r => carGates l r.1 &&& mask != 0).map fun r => r.2.2 - r.2.1)

/-- By how much the bandwidth of some set of slot groups exceeds what `n` pseudo-channels deliver in the windows of that set,
MB/s (R36, R236): every reservation of the partition is met in its own windows just when no set of groups asks for more than
its windows give. -/
def slotExcess (l : CarList) (n : Nat) (load : Nat → Nat) : Nat :=
  maxN ((List.range 256).map fun mask =>
    sumN ((List.range 8).map fun k => if mask / 2 ^ k % 2 = 1 then load k else 0) - n * 6700 * openAny l mask / l.cycle)

/-- The bandwidth that admitted streams reserve in a slot group of a partition, MB/s. -/
def grpLoad (s : State) (mp k : Nat) : Nat :=
  sumN ((s.ctxs.filter fun e => e.2.kind == .admitted && e.2.adm.mp == mp && e.2.adm.grp == k).map fun e => e.2.adm.bw)

/-- The slot list of a partition with the entries that the booth installs for a slot group (R27, R490), made from the list that
comes to run last. It installs none that would lengthen the closed time of an admitted slot group or leave the admitted groups
less open time than their reserved bandwidth needs. -/
def slotPlan (s : State) (mp grp : Nat) (b : List Byte) : Option CarList :=
  let l := (carBoth s (8 + mp)).getLast?.getD {}
  let e := Config.slotEntries ((List.range l.len).map (carEnt l)) l.cycle grp b
  let new : CarList := { l with len := e.length, ents := (List.range e.length).zip (e.map (BitVec.ofNat 32)) }
  if e.isEmpty || decide (0 < slotExcess new (regionPcs s mp).length (grpLoad s mp)) ||
      anyAdm s fun _ x => x.adm.mp == mp && decide (x.adm.tSlot < (gateGF new x.adm.grp 0).1) then none
  else some new

/-- The queue check (R299). -/
def queueFree (s : State) (q : Nat) : Bool :=
  let x := getQ s q
  x.enable && x.guar && x.bound.isNone && x.tail == x.rel && x.slots.isEmpty

/-- A sensor-fed cascade member has no queue: its completions are the home's (R359). -/
def noQueue (role : Nat) (b : List Byte) : Bool := role != 0 && Ct.source b == 0

/-- Commons words of the egress FIFOs: a size exponent for twice the largest unit (R264), at most 20. -/
def fifoExp (n : Nat) : Nat := ((List.range 13).find? fun i => decide (2 * n ≤ 4 * 2 ^ (8 + i))).getD 12 + 8

/-- The size exponent of a contract's egress FIFO. A unit of an HEVC stream is a job's output, at most a buffer of its pool
(R182, R264). -/
def egressExp (s : State) (b : List Byte) : Nat :=
  fifoExp (if Ct.mode b = 4 then poolSize s (Ct.pool b % 64) else maxUnit (ctGeo b))

/-- Commons ranges of the enabled FIFO instances. -/
def fifoRanges (s : State) : List (Nat × Nat) :=
  ((List.range 256).filter fun f => fifoOn s f).map fun f => (rgetN s fifoPg f 0x204, 2 ^ fifoLog s f)

/-- The first of the `k` aligned places of 2^n words from the `i`th on that overlaps none of the ranges. -/
def placeFrom (rs : List (Nat × Nat)) (n : Nat) : Nat → Nat → Option Nat
  | 0, _ => none
  | k + 1, i => if rs.all fun r => !overlaps (i * 2 ^ n) (2 ^ n) r.1 r.2 then some (i * 2 ^ n) else placeFrom rs n k (i + 1)

/-- The first aligned place for 2^n words among the FIFO ranges, none when no such place is free (assumption 29). -/
def fifoPlace (rs : List (Nat × Nat)) (n : Nat) : Option Nat := placeFrom rs n (12582912 / 2 ^ n) 0

/-- The checks in the order of R32: the first that fails with its shortfall and the sum if computed, or the plan. A cascade
member has no queue when it is sensor-fed, and at its own home (role 2) no egress (R359). Where a list of the port or of the
partition is pending, the contract must pass under it as under the operative one (R27). DESIGN CHOICE (assumption 29): a
contract for whose egress FIFO no aligned range of the Commons is left fails CONTEXT. -/
def checks (s : State) (named role : Nat) (b : List Byte) (p : Prog) : Sum (Nat × Nat × Nat) Plan :=
  let ctx? := if named = 0x7FF then (freeCtxs s).head? else if named < 1024 ∧ (getCtx s named).isNone = true then some named else none
  let nres := nRes (nNeed b p) (rbits s tkbPg 0 0x118 7 0)
  let tiles := (tileChoice s).take nres
  let mp? := chooseMp s b
  let mp := mp?.getD 0
  let grp? := (freeGroups s mp).head?
  let grp := grp?.getD 0
  let plan := slotPlan s mp grp b
  let slots := match plan with | some l => [l] | none => carBoth s (8 + mp)
  let gs := worstGate slots grp 0
  let ge := if role = 2 then (0, 1, 1) else worstGate (carBoth s (Ct.port b)) (svcTc s (Ct.svc b)) 5000
  let fl := flowBytes s (Ct.flow b)
  let eth := role != 2 && decide (Ct.port b < 2)
  let inp : SumIn := {
    nres := nres, tSlot := gs.1, g := ge.1, fOpen := ge.2.1, cycle := ge.2.2
    wNum := if eth then Fl.p fl + Fl.h fl else 1
    wDen := if eth then max 1 (Fl.p fl) else 1 }
  let sum := boothSum (if role = 2 then putAt b 0x44 (toLE 1 3) else b) p inp
  let ports := (List.range 8).filter fun n => Ct.source b == 0 && Ct.ports b / 2 ^ n % 2 == 1
  let busyPorts := ports.filter fun n => pageHeld s (sensorPage n)
  let laneNeed := if Ct.source b = 0 then cdiv (inSamples b * Ct.depth b * 65536 * 11) (Ct.period b * 128) else 0
  let lanes := sumN (ports.map fun n => rbits s (sensorPage n) 0 0x100 3 0)
  let demand := Config.memDemand b
  let need := if gs.2.1 = 0 then 64 else max 1 (cdiv (demand * gs.2.2) (6700 * gs.2.1))
  let have_ := regionPcs s mp
  let take := if mpUsed s mp then [] else (freePcs s).take (need - have_.length)
  let pcs := (List.range 64).filter fun n => have_.contains n || take.contains n
  let vaults := sumN ((s.ctxs.filter fun e => e.2.kind == .admitted).map fun e => vaultLoad s e.2.block mp)
  let load := fun k => grpLoad s mp k + if k = grp then demand + vaultLoad s b mp + vaults else 0
  let excess := maxN (slots.map fun l => slotExcess l pcs.length load)
  let vw := ringWin s b
  let other := if Ct.port b = 7 ∧ vw ≠ mp ∧ vw < 16 then
    mpLoad s vw + vaultLoad s b vw - (regionPcs s vw).length * 6700 else 0
  let uses := (s.ctxs.filter fun e => e.2.kind == .admitted).map fun e =>
    { mp := e.2.adm.mp, block := e.2.block, tiles := e.2.adm.tiles, pcs := regionPcs s e.2.adm.mp : FabUse }
  let fabric := fabCheck uses ⟨mp, b, tiles, pcs⟩
  let afrag := aFrag b (Fl.h fl)
  let rsv := portRsv s (Ct.port b) + Ct.egRate b + afrag
  -- ρ × PERIOD in bytes over den: r_eg × f × PERIOD / (8000 w)
  let perFrame := Ct.egRate b * ge.2.1 * Ct.period b * inp.wDen
  let frameNeed := frameSize b * 8000 * 65536 * ge.2.2 * inp.wNum
  let mw := planMw s b p nres mp pcs
  let cap := rbits s tkbPg 0 0x11C 11 0 * 100
  match ctx?, fifoPlace (fifoRanges s) (egressExp s b) with
  | none, _ => .inl (1, 1, 0)
  | some _, none => .inl (1, 1, 0)
  | some ctx, some place =>
    if s.booth.thermClosed then .inl (2, (s.pwr.tj - 970).toNat, 0)
    else if tiles.length < nres then .inl (3, nres - tiles.length, 0)
    else if nres < sum.occ then .inl (3, sum.occ - nres, 0)
    else if !busyPorts.isEmpty then .inl (4, busyPorts.length, 0)
    else if lanes < laneNeed then .inl (4, cdiv (laneNeed - lanes) 8, 0)
    else if mp?.isNone || pcs.isEmpty then .inl (5, max 1 (need - pcs.length), 0)
    else if !mpUsed s mp && decide (pcs.length < need) then .inl (5, need - pcs.length, 0)
    else if 0 < excess then .inl (6, excess, 0)
    else if 0 < other then .inl (6, other, 0)
    else if grp?.isNone then .inl (7, 1, 0)
    else if fabric.isSome then .inl (8, fabric.getD 0, 0)
    else if grnRoom s (Ct.pool b) ctx < sum.grnMin then .inl (9, sum.grnMin - grnRoom s (Ct.pool b) ctx, 0)
    else if role ≠ 2 ∧ reservable (Ct.port b) < rsv then .inl (10, rsv - reservable (Ct.port b), 0)
    else if role ≠ 2 ∧ Ct.egBurst b < maxEvent b then .inl (10, 0, 0)
    else if role ≠ 2 ∧ perFrame < frameNeed then
      .inl (10, if ge.2.1 = 0 then 0xFFFFFFFF else cdiv (frameNeed - perFrame) (ge.2.1 * Ct.period b * inp.wDen), 0)
    else if 256 < maxN (slots.map (·.len)) then .inl (11, maxN (slots.map (·.len)) - 256, 0)
    else if cap < s.booth.admMw + mw then .inl (12, s.booth.admMw + mw - cap, 0)
    else if Ct.dReq b < sum.dCalc then .inl (13, sum.dCalc - Ct.dReq b, sum.dCalc)
    else if !noQueue role b ∧ queueFree s (Ct.queue b) = false then .inl (14, 1, sum.dCalc)
    else .inr ⟨ctx, tiles, mp, pcs, take, grp, sum, inp, mw, demand, afrag, plan, place⟩

/-! ## What admission reserves -/

/-- The lowest free egress FIFO instance (R264). -/
def freeFifo (s : State) : Nat :=
  (((List.range 184).map (· + 32)).find? fun f => !(anyAdm s fun _ x => x.adm.fifo == f)).getD 32

/-- CT of an egress FIFO: the data bytes of one packet (R264). -/
def fifoCt (port : Nat) (fl : List Byte) : Nat := if isEth port then Fl.p fl else if isSf port then 240 else 256

/-- Configure an egress FIFO instance under R490. -/
def setupFifo (s : State) (f n base ct : Nat) : State :=
  let s1 := boothPut s fifoPg f 0x204 base
  let s2 := boothPut (boothPut s1 fifoPg f 0x208 0) fifoPg f 0x20C ct
  setFifo (boothField (boothPut s2 fifoPg f 0x210 0x640) fifoPg f 0x200 12 0 (n * 256 + 1)) f {}

/-- The earliest instant a stream's tiles and pseudo-channels are ready (R35, R412). -/
def readyAt (s : State) (pl : Plan) : Time :=
  let left := maxN (pl.tiles.map (tileLeft s))
  s.dt + max (max (if pl.tiles.any (tileGated s) then usT 5 else 0) (cdiv (left * 10 * 65536) 12))
    (if pl.take.isEmpty then 0 else usT 2000)

/-- FIRST_DT (R35, R44): the stream's engines are ready and the slot list that was installed has started. -/
def firstDt (s : State) (pl : Plan) : Time :=
  max (readyAt s pl) (match pl.slots with | some l => (carStart s.dt l.base l.cycle).1 | none => 0)

/-- A sensor port is connected to the context (R163). -/
def joinPort (c ports : Nat) (s : State) (n : Nat) : State :=
  let s1 := boothField (boothField s (sensorPage n) 0 0x108 23 16 ports) (sensorPage n) 0 0x108 10 0 c
  setHdr s1 (sensorPage n) { hdr s1 (sensorPage n) with enable := true, dropEnable := false }

/-- Bind the lowest free DMA channel to a host-fed context (R282, R489). DESIGN CHOICE (assumption 67): where all 32 channels
are bound, the contract is admitted without one, for which the rules name no check. -/
def bindDma (s : State) (c : Nat) : State :=
  match ((List.range 32).filter fun d => (getDma s d).bound.isNone && (getDma s d).st == 0 && !(hdr s (dmaPage d)).enable) ++
      ((List.range 32).filter fun d => (getDma s d).bound.isNone) with
  | d :: _ => setHdr (setDma s d { getDma s d with bound := some c }) (dmaPage d)
      { hdr s (dmaPage d) with enable := true, dropEnable := false }
  | [] => s

/-- The bound of an admitted contract (R33). -/
def planAdm (b : List Byte) (pl : Plan) : Nat := min (Ct.dReq b) (cdiv pl.sum.dCalc 10000 * 10000)

/-- The egress flow of an admitted contract (R318, R490). -/
def grantFlow (s : State) (b : List Byte) (c : Nat) : State :=
  let s5 := boothField s schedPg (Ct.flow b) 0x200 7 7 1
  let s6 := boothPut s5 schedPg (Ct.flow b) 0x208 (Ct.egRate b)
  let s7 := boothField s6 schedPg (Ct.flow b) 0x218 15 0 c
  setFlow s7 (Ct.flow b) { getFlow s7 (Ct.flow b) with fLast := 0, tagSet := false }

/-- Install an admitted contract (R27, R35–R41, R163, R264, R282, R299, R318, R490). -/
def grantState (s : State) (role : Nat) (b : List Byte) (pl : Plan) : State :=
  let c := pl.ctx
  let f := freeFifo s
  let first := firstDt s pl
  let dAdm := planAdm b pl
  let adm : Adm := {
    tiles := pl.tiles, mp := pl.mp, grp := pl.grp, grnMin := pl.sum.grnMin, dAdm := dAdm, firstDt := first
    carLists := [Ct.port b, 8 + pl.mp], pwrMw := pl.mw, fifo := f, g := pl.inp.g, fNum := pl.inp.fOpen, fDen := pl.inp.cycle
    wNum := pl.inp.wNum, wDen := pl.inp.wDen, tSlot := pl.inp.tSlot, bw := pl.bw, rsv := if role = 2 then 0 else Ct.egRate b + pl.afrag, pcs := pl.take }
  let x : Ctx := {
    kind := .admitted, block := b ++ List.replicate 128 0, adm := adm, role := role
    queue := if noQueue role b then 8192 else Ct.queue b
    rate := { beta := Ct.egBurst b * 1000000, betaTick := s.tick }
    polC := Ct.period b, polP := Ct.polPbs b * Ct.period b * 1000000, polTick := s.tick }
  let s0 := match pl.slots with
    | some l => carCommit s (8 + pl.mp) l (hdr s (carPage ((8 + pl.mp) / 4))).commitGen
    | none => s
  let s1 := pl.take.foldl (fun s p => mapPc s p pl.mp) s0
  let s2 := { setCtx s1 c x with booth := { s1.booth with admMw := s1.booth.admMw + pl.mw } }
  let s3 := pl.tiles.foldl (fun s t => setTile s t { getTile s t with ungated := false }) s2
  let s4 := (setMin s3 (Ct.pool b) c pl.sum.grnMin).getD s3
  let fl := flowBytes s (Ct.flow b)
  let s8 := if role = 2 then s4 else grantFlow s4 b c
  let s9 := setupFifo s8 f (egressExp s b) pl.place (fifoCt (Ct.port b) fl)
  let s10 := if noQueue role b then s9 else setQ s9 (Ct.queue b) { getQ s9 (Ct.queue b) with bound := some c }
  let s11 := ((List.range 8).filter fun n => Ct.source b == 0 && Ct.ports b / 2 ^ n % 2 == 1).foldl (joinPort c (Ct.ports b)) s10
  if Ct.source b = 1 then bindDma s11 c else s11

/-- The ADMITTED reply (R31). -/
def grantReply (b : List Byte) (pl : Plan) (dAdm : Nat) (first : Time) : List Byte :=
  [0, 0] ++ toLE 2 0 ++ toLE 4 0 ++ toLE 4 dAdm ++ toLE 4 pl.sum.dCalc ++ toLE 2 pl.ctx ++ toLE 1 pl.mp ++
    toLE 1 pl.tiles.length ++ toLE 13 (sumN (pl.tiles.map fun t => 2 ^ t)) ++ toLE 3 0 ++ toLE 1 (Ct.pool b) ++ toLE 1 0 ++
    toLE 2 (min 0xFFFF pl.sum.grnMin) ++ toLE 1 (min 255 ((pl.slots.map (·.len)).getD 0)) ++ toLE 3 0 ++
    toLE 4 (if pl.slots.isSome then 2 ^ (8 + pl.mp) else 0) ++
    (toLE 2 (first % 65536) ++ toLE 2 0 ++ toLE 8 (first / 65536)) ++ toLE 4 pl.mw

/-- The address of the request structure. -/
def reqAddr (s : State) : Nat := rget64 s tkbPg 0 0x108

/-- A booth command (R30): discarded while one is executing. -/
def boothCmd (op : State → State) (s : State) : State := if s.booth.busy then setEvt s tkbPg 1 else op s

/-- Admission of a contract (R28–R41): the state, and the reply. -/
def decide_ (s : State) (named role : Nat) (b : List Byte) : State × List Byte :=
  match validate s role b with
  | .inl off => (s, invalidReply off)
  | .inr p => match checks s named role b p with
    | .inl (fail, short, d) => (s, refusedReply fail short d)
    | .inr pl => (grantState s role b pl, grantReply b pl (planAdm b pl) (firstDt s pl))

/-- ADMIT (R28–R41). The command's up to 5 ms are one step (assumption 30). -/
def admitOp (named : Nat) (s : State) : State :=
  let r := memRead s 0 (reqAddr s) 128
  if r.2.1.isSome || r.2.2 then replyInvalid s 0
  else
    let d := decide_ s named 0 r.1
    boothReply d.1 d.2

/-- A context stops at its next boundary (R34): the open frame's close, or now. -/
def releaseCtx (s : State) (c : Nat) (x : Ctx) : State :=
  if x.rel ≠ 0 then s
  else if x.frame.isSome then setCtx s c { x with rel := 1 }
  else
    let s2 := x.encQ.foldl (fun s e => finishSlot s x.queue e.1 (seCe s e.2 0x0D)) (setCtx s c { x with encQ := [] })
    releaseBoundary s2 c

/-- RELEASE (R34). -/
def releaseOp (c : Nat) (s : State) : State :=
  match getCtx s c with
  | some x =>
    if x.kind ≠ .admitted then replyInvalid s 0 else releaseCtx (boothReply s (padTo 16 [0] ++ toLE 2 c)) c x
  | none => replyInvalid s 0

/-! ## RELIST (R46, R47) -/

/-- The list of a list block. -/
def blockList (b : List Byte) : CarList :=
  let n := leAt b 2 2
  { base := leAt b 8 2 + leAt b 0xC 8 * 65536
    cycle := leAt b 4 4
    len := n
    ents := (List.range n).map fun i => (i, BitVec.ofNat 32 (leAt b (0x20 + 4 * i) 4)) }

/-- The offset of the first invalid field of a list block. DESIGN CHOICE (assumption 67): the unused half-word inside BASE is
judged as a field of its own, at 0x0A. -/
def listBad (b : List Byte) : Option Nat :=
  let tests : List (Nat × Bool) := [(0x00, byteAt b 0 < 24), (0x01, byteAt b 1 == 0),
    (0x02, 1 ≤ leAt b 2 2 && leAt b 2 2 ≤ 256), (0x04, 1000 ≤ leAt b 4 4 && leAt b 4 4 ≤ 16777215),
    (0x0A, zeroAt b 0xA 2), (0x14, zeroAt b 0x14 12)]
  (tests.find? fun t => !t.2).map (·.1)

/-- How far an admitted stream would lose by a list: growth of g or t_slot in ns, and open time lost per cycle in ns
(R46, R47). -/
def listLoss (s : State) (l : Nat) (new : CarList) (x : Ctx) : Nat × Nat :=
  if l < 8 then
    if Ct.port x.block ≠ l then (0, 0)
    else
      let r := gateGF new (svcTc s (Ct.svc x.block)) 5000
      (r.1 - x.adm.g, cdiv (x.adm.fNum * new.cycle - r.2 * x.adm.fDen) (max 1 x.adm.fDen))
  else if 8 + x.adm.mp ≠ l then (0, 0)
  else ((gateGF new x.adm.grp 0).1 - x.adm.tSlot, 0)

/-- RELIST (R46, R47). -/
def relistOp (s : State) : State :=
  let h := memRead s 0 (reqAddr s) 32
  let n := min 256 (leAt h.1 2 2)
  let e := memRead s 0 (reqAddr s + 32) (4 * n)
  if h.2.1.isSome || h.2.2 then replyInvalid s 0
  else match listBad h.1 with
    | some off => replyInvalid s off
    | none =>
      if e.2.1.isSome || e.2.2 then replyInvalid s 0
      else
        let new := blockList (h.1 ++ e.1)
        let l := byteAt h.1 0
        let losses := (s.ctxs.filter fun e => e.2.kind == .admitted).map fun e => listLoss s l new e.2
        let grow := maxN (losses.map (·.1))
        let lose := maxN (losses.map (·.2))
        if 0 < grow then replyRefused s 0x0B grow 0
        else if 0 < lose then replyRefused s 0x0B lose 0
        else boothReply (carCommit s l new (hdr s (carPage (l / 4))).commitGen) [0]

def execTkbAdmit (rq : Requester) (ctx : Nat) (s : State) : Out :=
  .next (regOp rq tkbPg 0x100 (boothCmd (admitOp (ctx % 2048))) s)
def execRelease (rq : Requester) (ctx : Nat) (s : State) : Out :=
  .next (regOp rq tkbPg 0x100 (boothCmd (releaseOp (ctx % 2048))) s)
def execRelist (rq : Requester) (s : State) : Out := .next (regOp rq tkbPg 0x100 (boothCmd relistOp) s)

/-! ## Fabric (R338–R340, R344) -/

/-- GRANT_REVOCATION (R339): a bulk grant is revoked at a flit boundary and the flits that its burst has delivered are kept as its
progress count; a burst that has been delivered whole has no count. -/
def grantRevocation (arbiter requester delivered total : Nat) (s : State) : State :=
  let k := arbiter * 65536 + requester
  if total ≤ delivered then { s with bursts := ndel s.bursts k }
  else evG 0x10A (bump { s with bursts := nset s.bursts k delivered } tkbPg 0 0x260 1)

/-- FAB_ETA_MISS (R340): a grant not accepted within 2 FCLK is withdrawn and counted. -/
def fabEtaMiss (s : State) : State := bump s tkbPg 0 0x268 1

def execGrantRevocation (arbiter requester delivered total : Nat) (s : State) : Out :=
  act (grantRevocation arbiter requester delivered total) s
def execFabEtaMiss (_arbiter _requester : Nat) (s : State) : Out := act fabEtaMiss s

end Sys2Proof.Machine
end

