-- ==== Sys2Proof/Machine/Formats.lean ====
section
/-! DEFINITION. The host picture formats (R15): 0 P18, 1 U16, 2 P12, 3 P10, 4 U8, 5 LW36. Samples fill from the least
significant bit upward. -/
namespace Sys2Proof.Machine

/-- Bits of a sample's field. -/
def fmtBits (f : Nat) : Nat := getIx [18, 16, 12, 10, 8, 18] f 18
/-- Samples of a group, and its bytes. -/
def fmtGroup (f : Nat) : Nat := getIx [4, 1, 2, 4, 1, 2] f 1
def fmtBytes (f : Nat) : Nat := getIx [9, 2, 3, 5, 1, 5] f 1

/-- Bytes lb of a line of `w` samples (R193). -/
def lineBytes (f w : Nat) : Nat := fmtBytes f * cdiv w (fmtGroup f)

/-- The offset in a line at which the group of sample `x` starts. -/
def fmtOff (f x : Nat) : Nat := x / fmtGroup f * fmtBytes f

/-- A group of samples as one number. -/
def fmtWord (f : Nat) : List Nat → Nat
  | [] => 0
  | v :: t => v % 2 ^ fmtBits f + 2 ^ fmtBits f * fmtWord f t

/-- Pack samples; `n` bounds the groups. -/
def packFmt (f : Nat) : Nat → List Nat → List Byte
  | 0, _ => []
  | n + 1, l =>
    if l.isEmpty then [] else toLE (fmtBytes f) (fmtWord f (l.take (fmtGroup f))) ++ packFmt f n (l.drop (fmtGroup f))

/-- The bytes of a line of samples. -/
def packLine (f : Nat) (l : List Nat) : List Byte := packFmt f l.length l

/-- Unpack `n` groups, keeping `d` bits of each sample. -/
def unpackFmt (f d : Nat) : Nat → List Byte → List Nat
  | 0, _ => []
  | n + 1, b =>
    let v := leNat (b.take (fmtBytes f))
    (List.range (fmtGroup f)).map (fun i => v / 2 ^ (fmtBits f * i) % 2 ^ min d (fmtBits f)) ++
      unpackFmt f d n (b.drop (fmtBytes f))

/-- The `w` samples of a line; bits above DEPTH are ignored (R185). -/
def unpackLine (f d w : Nat) (b : List Byte) : List Nat := (unpackFmt f d (cdiv w (fmtGroup f)) b).take w

end Sys2Proof.Machine
end

