-- ==== Sys2Proof/Machine/Codec.lean ====
section
/-! DEFINITION. Aglux Coded Stream bodies: what coder and decoder share (R111–R129, R139–R143) and the decoder of a segment
body (R115, R134–R146). Positions inside a segment are relative to its first sample. -/
namespace Sys2Proof.Machine

/-- A grid of `n` × `n` values by (x, y). -/
def tab {α : Type} (n : Nat) (f : Nat → Nat → α) : List (List α) :=
  (List.range n).map fun y => (List.range n).map fun x => f x y

/-- The value of a grid at (x, y), 0 outside. -/
def at2 (g : List (List Int)) (x y : Nat) : Int := getIx (getIx g y []) x 0

/-- The sample of a plane at (x, y), 0 outside. -/
def smp (g : List (List Nat)) (x y : Nat) : Nat := getIx (getIx g y []) x 0

/-- The sum of integers. -/
def sumI (l : List Int) : Int := l.foldl (· + ·) 0

/-- clip1 at a depth (R111). -/
def clip1 (d : Nat) (v : Int) : Nat := (clip3 0 (2 ^ d - 1 : Nat) v).toNat

/-- What a segment's coding depends on besides its samples. -/
structure CEnv where
  mode : Nat
  isP : Bool
  plane : Nat
  cfa : Bool
  depth : Nat
  errE : Nat
  /-- BASE_QP. -/
  qp : Nat
  refMask : Nat
  /-- Segment size and first sample, and the plane's size. -/
  w : Nat
  h : Nat
  xs : Nat
  ys : Nat
  pw : Nat
  ph : Nat
  /-- Line ys − 1 of the plane when ROW_LINK lets the segment read it (R98, R118). -/
  up : Option (List Nat)
  /-- For each lower plane of a CFA2X2 picture: its co-located segment and its line ys − 1 (R121). -/
  cross : List (List (List Nat) × Option (List Nat))
  /-- The plane's picture in each slot; none for a missing slot (R493). -/
  refs : List (Option (List (List Nat)))

/-- A coded leaf: place, size, and its motion when it is an inter or skip leaf (R122). -/
structure Leaf where
  x : Nat
  y : Nat
  n : Nat
  mot : Option (Nat × Int × Int)
  deriving DecidableEq, Repr

/-- Coding state of a segment: reconstructed samples, contexts (A, N), last_dc, leaves so far, whether a missing slot was
read, and the coding block's QP. -/
structure CSt where
  seg : List (List (Option Nat))
  ctx : List (Nat × Nat) := List.replicate 16 (4, 1)
  lastDc : Nat := 0
  leaves : List Leaf := []
  miss : Bool := false
  qp : Nat := 0
  deriving DecidableEq, Repr

/-- The state at the first bit of a body (R139). -/
def cst0 (e : CEnv) : CSt := { seg := List.replicate e.h (List.replicate e.w none), qp := e.qp }

/-! ## Neighbours (R118, R119) -/

/-- The available sample at a segment-relative position. -/
def sampleAt (e : CEnv) (up : Option (List Nat)) (seg : List (List (Option Nat))) (x y : Int) : Option Nat :=
  if 0 ≤ y then
    if 0 ≤ x then getIx (getIx seg y.toNat []) x.toNat none else none
  else if y = -1 ∧ -1 ≤ x ∧ x ≤ e.w ∧ 0 ≤ e.xs + x ∧ e.xs + x < e.pw then up.bind fun l => l[(e.xs + x).toNat]?
  else none

/-- The positions of the sequence S of R119: L upward, the corner, A rightward. -/
def nbrPos (x0 y0 n : Nat) : List (Int × Int) :=
  ((List.range (2 * n)).reverse.map fun j => ((x0 : Int) - 1, (y0 + j : Int))) ++
    (List.range (2 * n + 1)).map fun (i : Nat) => ((x0 : Int) + i - 1, (y0 : Int) - 1)

/-- Give each unavailable entry the value before it. -/
def carryOn (d : Nat) : List (Option Nat) → List Nat
  | [] => []
  | none :: t => d :: carryOn d t
  | some v :: t => v :: carryOn v t

/-- The substitution of R119. -/
def substNbr (depth : Nat) (s : List (Option Nat)) : List Nat :=
  match s.find? (·.isSome) with
  | some (some v) => carryOn v s
  | _ => s.map fun _ => 2 ^ (depth - 1)

/-- The sequence S of a leaf before substitution. -/
def nbrs (e : CEnv) (s : CSt) (x0 y0 n : Nat) : List (Option Nat) :=
  (nbrPos x0 y0 n).map fun p => sampleAt e e.up s.seg p.1 p.2

/-- Plane q's sequence, available exactly where the leaf's own is (R121). -/
def nbrsQ (e : CEnv) (s : CSt) (q x0 y0 n : Nat) : List (Option Nat) :=
  let c := getIx e.cross q ([], none)
  let sg := c.1.map fun r => r.map some
  ((nbrs e s x0 y0 n).zip (nbrPos x0 y0 n)).map fun p =>
    if p.1.isSome then some ((sampleAt e c.2 sg p.2.1 p.2.2).getD 0) else none

/-- L[j] and A[i], i from −1, of a substituted sequence. -/
def nbL (sub : List Nat) (n j : Nat) : Int := getIx sub (2 * n - 1 - j) 0
def nbA (sub : List Nat) (n : Nat) (i : Int) : Int := getIx sub ((2 * n : Nat) + 1 + i).toNat 0

/-! ## Intra prediction (R120, R121) -/

/-- The DC value on a substituted sequence. -/
def dcVal (sub : List Nat) (n k : Nat) : Int :=
  (sumI ((List.range n).map fun (i : Nat) => nbA sub n i + nbL sub n i) + n) / 2 ^ (k + 1)

/-- log2 of a leaf size. -/
def lg (n : Nat) : Nat := if n = 4 then 2 else if n = 8 then 3 else if n = 16 then 4 else 5

/-- P(x, y) of modes 0–7 (R120). -/
def intraAt (sub : List Nat) (n mode : Nat) (x y : Nat) : Int :=
  let k := lg n
  let A := nbA sub n
  let L := nbL sub n
  match mode with
  | 0 => dcVal sub n k
  | 1 => (((n - 1 - x : Nat) : Int) * L y + (x + 1 : Nat) * A n + ((n - 1 - y : Nat) : Int) * A x + (y + 1 : Nat) * L n + n) / 2 ^ (k + 1)
  | 2 => L y
  | 3 => A x
  | 4 => A (x + y + 1 : Nat)
  | 5 => if y < x then A (x - y - 1 : Nat) else if x < y then L (y - x - 1) else A (-1)
  | 6 => L (x + y + 1)
  | _ => (A (x + y + 1 : Nat) + L (x + y + 1) + 1) / 2

/-- Plane q's reconstruction at a position of the segment. -/
def crossAt (e : CEnv) (q x y : Nat) : Int := smp (getIx e.cross q ([], none)).1 x y

/-- The prediction of an intra leaf (R120). -/
def intraPred (e : CEnv) (s : CSt) (x0 y0 n mode q : Nat) : List (List Int) :=
  let sub := substNbr e.depth (nbrs e s x0 y0 n)
  if mode = 8 then
    let dq := dcVal (substNbr e.depth (nbrsQ e s q x0 y0 n)) n (lg n)
    let dc := dcVal sub n (lg n)
    tab n fun x y => clip1 e.depth (crossAt e q (x0 + x) (y0 + y) + dc - dq)
  else tab n (intraAt sub n mode)

/-! ## Inter prediction (R122–R124) -/

/-- Interpolation taps at offsets −3 to 4 (R124). -/
def taps : Nat → List Int
  | 0 => [0, 0, 0, 64, 0, 0, 0, 0]
  | 1 => [-1, 3, -9, 57, 19, -7, 3, -1]
  | 2 => [-2, 5, -12, 41, 41, -12, 5, -2]
  | _ => [-1, 3, -7, 19, 57, -9, 3, -1]

/-- Ref(x, y) with clamped coordinates; grey for a missing slot (R123, R199). -/
def refAt (e : CEnv) (slot : Nat) (x y : Int) : Int :=
  match getIx e.refs slot none with
  | none => (2 ^ (e.depth - 1) : Nat)
  | some pl => smp pl (clip3 0 ((e.pw : Int) - 1) x).toNat (clip3 0 ((e.ph : Int) - 1) y).toNat

/-- The prediction of an inter or skip leaf (R123). -/
def interPred (e : CEnv) (slot : Nat) (mx my : Int) (x0 y0 n : Nat) : List (List Int) :=
  let fx := (mx % 4).toNat
  let fy := (my % 4).toNat
  tab n fun x y =>
    let xi : Int := (e.xs + x0 + x : Nat) + mx / 4
    let yi : Int := (e.ys + y0 + y : Nat) + my / 4
    if fx = 0 ∧ fy = 0 then refAt e slot xi yi
    else
      let t := fun (j : Int) => sumI (((List.range 8).zip (taps fx)).map fun p => p.2 * refAt e slot (xi + p.1 - 3) (yi + j))
      let u := sumI (((List.range 8).zip (taps fy)).map fun p => p.2 * t ((p.1 : Int) - 3))
      (clip1 e.depth ((u + 2048) / 4096) : Int)

/-- Slots of REF_MASK in ascending order. -/
def maskSlots (m : Nat) : List Nat := (List.range 4).filter fun i => m / 2 ^ i % 2 = 1

/-- The motion of the leaf covering a segment position, when it is an inter or skip leaf of the segment (R122). -/
def motionAt (s : CSt) (x y : Int) : Option (Nat × Int × Int) :=
  if x < 0 ∨ y < 0 then none
  else (s.leaves.find? fun l => decide (l.x ≤ x.toNat) && decide (x.toNat < l.x + l.n) && decide (l.y ≤ y.toNat) &&
    decide (y.toNat < l.y + l.n)).bind (·.mot)

/-- Left and above candidates of a leaf. -/
def candL (s : CSt) (x0 y0 : Nat) : Option (Nat × Int × Int) := motionAt s ((x0 : Int) - 1) y0
def candA (s : CSt) (x0 y0 : Nat) : Option (Nat × Int × Int) := motionAt s x0 ((y0 : Int) - 1)

/-- The motion of a skip leaf (R122). -/
def mergeMot (e : CEnv) (s : CSt) (x0 y0 : Nat) (above : Bool) : Nat × Int × Int :=
  ((if above then candA s x0 y0 else candL s x0 y0)).getD (getIx (maskSlots e.refMask) 0 0, 0, 0)

/-- The motion vector predictor (R122). -/
def mvp (s : CSt) (x0 y0 : Nat) : Int × Int :=
  match candL s x0 y0, candA s x0 y0 with
  | some m, _ => m.2
  | none, some m => m.2
  | none, none => (0, 0)

/-- A vector is within R122. -/
def mvOk (m : Int × Int) : Bool := decide (-8192 ≤ m.1) && decide (m.1 ≤ 8192) && decide (-2048 ≤ m.2) && decide (m.2 ≤ 2048)

/-! ## Quantiser and transforms (R125–R128) -/

/-- The quantiser scale (R125). -/
def qsOf (qp : Nat) : Nat := getIx [64, 72, 81, 91, 102, 114] (qp % 6) 0 * 2 ^ (qp / 6)

/-- Dequantisation (R125). -/
def dequant (depth qp : Nat) (lv : Int) : Int :=
  clip3 (-(2 ^ (depth + 6) : Nat)) ((2 ^ (depth + 6) : Nat) - 1) ((lv * qsOf qp + 32) / 64)

/-- The constants A[0..32] of R126 (A[0] is not used). -/
def trA : List Int := [0, 90, 90, 90, 89, 88, 87, 85, 84, 82, 80, 78, 75, 73, 70, 67, 64, 61, 57, 54, 50, 47, 43, 39, 35, 30,
  26, 22, 18, 13, 9, 4, 0]

/-- T_N[k][n] (R126). -/
def trT (N k n : Nat) : Int :=
  if k = 0 then 64
  else
    let m := (2 * n + 1) * k * (32 / N) % 128
    if m ≤ 32 then getIx trA m 0
    else if m ≤ 64 then -(getIx trA (64 - m) 0)
    else if m ≤ 96 then -(getIx trA (m - 64) 0)
    else getIx trA (128 - m) 0

/-- The inverse transform (R127) of dequantised coefficients at (u, v). -/
def invT (depth n : Nat) (c : List (List Int)) : List (List Int) :=
  let k := lg n
  let g := tab n fun u y => clip3 (-(2 ^ (depth + 6) : Nat)) ((2 ^ (depth + 6) : Nat) - 1)
    ((sumI ((List.range n).map fun v => trT n v y * at2 c u v) + 64) / 128)
  tab n fun x y => (sumI ((List.range n).map fun u => trT n u x * at2 g u y) + 2 ^ (4 + k)) / 2 ^ (5 + k)

/-- Scan order (R127): increasing u + v, then increasing u. -/
def scanPos (n : Nat) : List (Nat × Nat) :=
  (List.range (2 * n - 1)).flatMap fun d => ((List.range n).filter fun u => decide (u ≤ d) && decide (d - u < n)).map fun u => (u, d - u)

/-- Raster order of a w × h rectangle. -/
def rasterPos (w h : Nat) : List (Nat × Nat) := (List.range h).flatMap fun y => (List.range w).map fun x => (x, y)

/-- The residual of a leaf from its levels (R125, R127, R128). -/
def residual (depth qp n : Nat) (ts : Bool) (lv : List (List Int)) : List (List Int) :=
  let c := lv.map fun r => r.map (dequant depth qp)
  if ts then c else invT depth n c

/-! ## Contexts and classes (R139–R143) -/

/-- mag of a measure (R141). -/
def magOf (m : Nat) : Nat := if m = 0 then 0 else if m ≤ 2 then 1 else if m ≤ 8 then 2 else 3

/-- cls of a coefficient position (R140). -/
def clsOf (ts : Bool) (p : Nat × Nat) : Nat := if ts then 3 else if p.1 + p.2 = 0 then 0 else if p.1 + p.2 ≤ 3 then 1 else 2

/-- The measure of a coefficient position (R141). -/
def measOf (ts : Bool) (lastDc : Nat) (lv : List (List Int)) (p : Nat × Nat) : Nat :=
  if !ts && p.1 + p.2 == 0 then 2 * lastDc
  else (if p.1 = 0 then 0 else (at2 lv (p.1 - 1) p.2).natAbs) + (if p.2 = 0 then 0 else (at2 lv p.1 (p.2 - 1)).natAbs)

/-- The Rice parameter of a context (R143). -/
def riceK (a n : Nat) : Nat := ((List.range 24).find? fun k => decide (a ≤ n * 2 ^ k)).getD 24

/-- The context update of R143. -/
def ctxUpd (ctx : List (Nat × Nat)) (i z : Nat) : List (Nat × Nat) :=
  let c := getIx ctx i (4, 1)
  ctx.set i (if c.2 + 1 = 64 then ((c.1 + z) / 2, 32) else (c.1 + z, c.2 + 1))

/-- The mapping of R136 and its inverse. -/
def zig (v : Int) : Nat := if 0 < v then 2 * v.toNat - 1 else 2 * v.natAbs
def unzig (z : Nat) : Int := if z % 2 = 1 then ((z + 1) / 2 : Nat) else -((z / 2 : Nat) : Int)

/-! ## DPCM (R129) -/

/-- The quantiser step of DPCM. -/
def dpcmQ (e : CEnv) : Nat := if e.mode = 2 then 2 * e.errE + 1 else 1

/-- a, b and c of a position of a DPCM leaf, from the leaf's reconstruction so far and its neighbours. -/
def dpcmNb (sub : List Nat) (n : Nat) (rec : List (List Int)) (p : Nat × Nat) : Int × Int × Int :=
  let (x, y) := p
  (if x = 0 then nbL sub n y else at2 rec (x - 1) y,
   if y = 0 then nbA sub n x else at2 rec x (y - 1),
   if x = 0 then (if y = 0 then nbA sub n (-1) else nbL sub n (y - 1))
   else if y = 0 then nbA sub n ((x : Int) - 1) else at2 rec (x - 1) (y - 1))

/-- The DPCM prediction (R129); `subQ` is plane q's substituted sequence. -/
def dpcmPred (e : CEnv) (subQ : List Nat) (q x0 y0 n pred : Nat) (abc : Int × Int × Int) (p : Nat × Nat) : Int :=
  let (a, b, c) := abc
  match pred with
  | 0 => if max a b ≤ c then min a b else if c ≤ min a b then max a b else a + b - c
  | 1 => a
  | 2 => b
  | 3 => (a + b) / 2
  | _ => clip1 e.depth (a + crossAt e q (x0 + p.1) (y0 + p.2) -
      (if p.1 = 0 then nbL subQ n p.2 else crossAt e q (x0 + p.1 - 1) (y0 + p.2)))

/-- The measure of a DPCM level (R141). -/
def dpcmMeas (e : CEnv) (abc : Int × Int × Int) : Nat :=
  ((abc.1 - abc.2.2).natAbs + (abc.2.1 - abc.2.2).natAbs) / dpcmQ e

/-- A DPCM level is in range (R129). -/
def dpcmOk (e : CEnv) (p lv : Int) : Bool :=
  if e.mode = 2 then decide (lv.natAbs ≤ (2 ^ e.depth - 1 + e.errE) / dpcmQ e)
  else decide (0 ≤ p + lv) && decide (p + lv ≤ (2 ^ e.depth - 1 : Nat))

/-! ## Storing a leaf -/

/-- Put a leaf's real positions into the segment. -/
def putLeaf (e : CEnv) (seg : List (List (Option Nat))) (x0 y0 n : Nat) (rec : Nat → Nat → Nat) : List (List (Option Nat)) :=
  ((List.range e.h).zip seg).map fun r =>
    if y0 ≤ r.1 ∧ r.1 < y0 + n then
      r.2.take x0 ++ ((List.range (min n (e.w - x0))).map fun x => some (rec x (r.1 - y0))) ++ r.2.drop (x0 + n)
    else r.2

/-- A leaf is done. -/
def doneLeaf (e : CEnv) (s : CSt) (x0 y0 n : Nat) (rec : Nat → Nat → Nat) (mot : Option (Nat × Int × Int)) : CSt :=
  { s with seg := putLeaf e s.seg x0 y0 n rec
           leaves := s.leaves ++ [⟨x0, y0, n, mot⟩]
           miss := s.miss || (mot.any fun m => (getIx e.refs m.1 none).isNone) }

/-- P + r clipped (R132). -/
def addRes (e : CEnv) (p r : List (List Int)) : Nat → Nat → Nat := fun x y => clip1 e.depth (at2 p x y + at2 r x y)

/-- The segment's samples. -/
def segOut (s : CSt) : List (List Nat) := s.seg.map fun r => r.map fun v => v.getD 0

/-! ## Reading (R134–R137, R143–R145) -/

/-- Read `n` bits. -/
def rdBits (n : Nat) (b : List Bool) : Option (Nat × List Bool) :=
  if b.length < n then none else some ((b.take n).foldl (fun a x => a * 2 + if x then 1 else 0) 0, b.drop n)

/-- Count up to `f` zero bits before a one. -/
def rdZeros : Nat → List Bool → Nat → Option (Nat × List Bool)
  | _, [], _ => none
  | _, true :: t, n => some (n, t)
  | 0, false :: _, _ => none
  | f + 1, false :: t, n => rdZeros f t (n + 1)

/-- Exp-Golomb of order k (R135). -/
def rdEg (k : Nat) (b : List Bool) : Option (Nat × List Bool) := do
  let (lz, b) ← rdZeros 26 b 0
  let (v, b) ← rdBits (lz + k) b
  pure (2 ^ (lz + k) + v - 2 ^ k, b)

/-- Count one bits, at most 16; a count below 16 takes its zero bit. -/
def rdOnes : Nat → List Bool → Nat → Option (Nat × List Bool)
  | 0, b, n => some (n, b)
  | _ + 1, [], _ => none
  | f + 1, true :: t, n => rdOnes f t (n + 1)
  | _ + 1, false :: t, n => some (n, t)

/-- An adaptive Rice code in a context (R143). -/
def rdRice (ctx : List (Nat × Nat)) (i : Nat) (b : List Bool) : Option (Nat × List (Nat × Nat) × List Bool) := do
  let c := getIx ctx i (4, 1)
  let k := riceK c.1 c.2
  let (qt, b) ← rdOnes 16 b 0
  let (z, b) ← if qt < 16 then (rdBits k b).map fun r => (qt * 2 ^ k + r.1, r.2)
    else (rdEg k b).map fun r => (16 * 2 ^ k + r.1, r.2)
  pure (z, ctxUpd ctx i z, b)

/-- Levels in order with run mode (R144). `cm` gives class and mag of a position from what is decoded so far, `put` takes a
level; the second argument is a run in progress. -/
def rdLevels {α : Type} (cm : α → Nat × Nat → Nat × Nat) (put : α → Nat × Nat → Int → Option α) :
    List (Nat × Nat) → Option Nat → List (Nat × Nat) → List Bool → α → Option (α × List (Nat × Nat) × List Bool)
  | [], _, ctx, b, a => some (a, ctx, b)
  | p :: ps, run, ctx, b, a => do
    let (cls, mag) := cm a p
    let (run, ctx, b) ← match run with
      | some r => some (some r, ctx, b)
      | none =>
        if mag = 0 then
          (rdRice ctx (4 * cls) b).bind fun r => if (p :: ps).length < r.1 then none else some (some r.1, r.2.1, r.2.2)
        else some (none, ctx, b)
    match run with
    | some (r + 1) =>
      let a ← put a p 0
      rdLevels cm put ps (some r) ctx b a
    | some 0 =>
      let (m1, ctx, b) ← rdRice ctx (4 * cls + 1) b
      let (sg, b) ← rdBits 1 b
      let a ← put a p ((m1 + 1 : Nat) * (1 - 2 * (sg : Int)))
      rdLevels cm put ps none ctx b a
    | none =>
      let (z, ctx, b) ← rdRice ctx (4 * cls + mag) b
      let a ← put a p (unzig z)
      rdLevels cm put ps none ctx b a

/-- Set a value of a grid. -/
def set2 {α : Type} (g : List (List α)) (p : Nat × Nat) (v : α) : List (List α) := g.set p.2 ((getIx g p.2 []).set p.1 v)

/-- Coefficient levels of a leaf (R144): levels and the new last_dc. -/
def rdCoefs (e : CEnv) (s : CSt) (n : Nat) (ts : Bool) (b : List Bool) : Option (List (List Int) × CSt × List Bool) := do
  let lim := 2 ^ (e.depth + 6) - 1
  let (lv, ctx, b) ← rdLevels (fun lv p => (clsOf ts p, magOf (measOf ts s.lastDc lv p)))
    (fun lv p v => if v.natAbs ≤ lim then some (set2 lv p v) else none)
    (if ts then rasterPos n n else scanPos n) none s.ctx b (tab n fun _ _ => 0)
  pure (lv, { s with ctx := ctx, lastDc := if ts then s.lastDc else (at2 lv 0 0).natAbs }, b)

/-- Raw samples of a leaf (R131). -/
def rdRaw (d : Nat) : List (Nat × Nat) → List Bool → List (List Int) → Option (List (List Int) × List Bool)
  | [], b, g => some (g, b)
  | p :: ps, b, g => do
    let (v, b) ← rdBits d b
    rdRaw d ps b (set2 g p v)

/-- Real positions of a leaf in raster order. -/
def realPos (e : CEnv) (x0 y0 n : Nat) : List (Nat × Nat) := rasterPos (min n (e.w - x0)) (min n (e.h - y0))

/-- xp_ref (R116, R137): read when `plane` ≥ 2. -/
def rdXp (e : CEnv) (b : List Bool) : Option (Nat × List Bool) := do
  if e.plane < 2 then pure (0, b)
  else
    let (q, b) ← rdBits (if e.plane = 2 then 1 else 2) b
    if q < e.plane then pure (q, b) else none

/-- The residual part of a leaf and its reconstruction (R115, R132). -/
def rdRes (e : CEnv) (s : CSt) (x0 y0 n : Nat) (p : List (List Int)) (mot : Option (Nat × Int × Int)) (b : List Bool) :
    Option (CSt × List Bool) := do
  let (coded, b) ← rdBits 1 b
  if coded = 0 then pure (doneLeaf e s x0 y0 n (addRes e p []) mot, b)
  else
    let (ts, b) ← if n ≤ 8 then rdBits 1 b else pure (0, b)
    let (lv, s, b) ← rdCoefs e s n (ts == 1) b
    pure (doneLeaf e s x0 y0 n (addRes e p (residual e.depth s.qp n (ts == 1) lv)) mot, b)

/-- A DPCM leaf (R115, R129, R144). -/
def rdDpcm (e : CEnv) (s : CSt) (x0 y0 n : Nat) (b : List Bool) : Option (CSt × List Bool) := do
  let (pred, b) ← rdBits 3 b
  if 4 < pred ∨ (pred = 4 ∧ ¬(e.cfa = true ∧ 1 ≤ e.plane)) then none
  else
    let (q, b) ← if pred = 4 then rdXp e b else pure (0, b)
    let sub := substNbr e.depth (nbrs e s x0 y0 n)
    let subQ := if pred = 4 then substNbr e.depth (nbrsQ e s q x0 y0 n) else []
    let (rec, ctx, b) ← rdLevels (fun rec p => (3, magOf (dpcmMeas e (dpcmNb sub n rec p))))
      (fun rec p v =>
        let pv := dpcmPred e subQ q x0 y0 n pred (dpcmNb sub n rec p) p
        if dpcmOk e pv v then some (set2 rec p (clip1 e.depth (pv + v * dpcmQ e) : Int)) else none)
      (realPos e x0 y0 n) none s.ctx b (tab n fun _ _ => 0)
    pure (doneLeaf e { s with ctx := ctx } x0 y0 n (fun x y => (at2 rec x y).toNat) none, b)

/-- A leaf (R115). -/
def rdLeaf (e : CEnv) (s : CSt) (x0 y0 n : Nat) (b : List Bool) : Option (CSt × List Bool) := do
  let (skip, b) ← if e.isP then rdBits 1 b else pure (0, b)
  if skip = 1 then
    let (ab, b) ← rdBits 1 b
    let m := mergeMot e s x0 y0 (ab == 1)
    pure (doneLeaf e s x0 y0 n (addRes e (interPred e m.1 m.2.1 m.2.2 x0 y0 n) []) (some m), b)
  else
    let (raw, b) ← rdBits 1 b
    if raw = 1 then
      let (g, b) ← rdRaw e.depth (realPos e x0 y0 n) b (tab n fun _ _ => 0)
      pure (doneLeaf e s x0 y0 n (fun x y => (at2 g x y).toNat) none, b)
    else if 2 ≤ e.mode then rdDpcm e s x0 y0 n b
    else
      let (inter, b) ← if e.isP then rdBits 1 b else pure (0, b)
      if inter = 1 then
        let sl := maskSlots e.refMask
        let (ri, b) ← if 1 < sl.length then rdBits (if sl.length = 2 then 1 else 2) b else pure (0, b)
        let (zx, b) ← rdEg 1 b
        let (zy, b) ← rdEg 1 b
        let d := (unzig zx, unzig zy)
        let pm := mvp s x0 y0
        let mv := (pm.1 + d.1, pm.2 + d.2)
        if sl.length ≤ ri ∨ 16384 < d.1.natAbs ∨ 4096 < d.2.natAbs ∨ mvOk mv = false then none
        else
          let slot := getIx sl ri 0
          rdRes e s x0 y0 n (interPred e slot mv.1 mv.2 x0 y0 n) (some (slot, mv)) b
      else
        let (im, b) ← rdBits 4 b
        if 8 < im ∨ (im = 8 ∧ ¬(e.cfa = true ∧ 1 ≤ e.plane)) then none
        else
          let (q, b) ← if im = 8 then rdXp e b else pure (0, b)
          rdRes e s x0 y0 n (intraPred e s x0 y0 n im q) none b

/-- Coding state with the bits left, none after a failure: the state then holds the leaves read before it. -/
abbrev Rd := CSt × Option (List Bool)

/-- Read on unless reading has failed. -/
def Rd.andThen (r : Rd) (k : CSt → List Bool → Rd) : Rd :=
  match r.2 with
  | some b => k r.1 b
  | none => r

/-- A quadtree node of at most `f` further splits (R112, R115). -/
def rdNode (e : CEnv) : Nat → Nat → Nat → Nat → CSt → List Bool → Rd
  | f, x0, y0, n, s, b =>
    if e.w ≤ x0 ∨ e.h ≤ y0 then (s, some b)
    else
      let sp : Option (Nat × List Bool) := if n ≤ 4 then some (0, b)
        else if e.w < x0 + n ∨ e.h < y0 + n then some (1, b)
        else rdBits 1 b
      match sp, f with
      | none, _ => (s, none)
      | some (1, b), f + 1 =>
        let m := n / 2
        (rdNode e f x0 y0 m s b).andThen fun s b => (rdNode e f (x0 + m) y0 m s b).andThen fun s b =>
          (rdNode e f x0 (y0 + m) m s b).andThen fun s b => rdNode e f (x0 + m) (y0 + m) m s b
      | some (_, b), _ =>
        match rdLeaf e s x0 y0 n b with
        | some (s, b) => (s, some b)
        | none => (s, none)

/-- cb_qp_delta (R116, R117): read, and held to its range, in MODE 0 and 1 only; the block's QP and the bits left. -/
def rdQp (e : CEnv) (b : List Bool) : Option (Nat × List Bool) :=
  if 2 ≤ e.mode then some (e.qp, b)
  else (rdEg 0 b).bind fun r =>
    let dq := unzig r.1
    if 26 < dq.natAbs ∨ e.qp + dq < 0 ∨ 87 < e.qp + dq then none else some ((e.qp + dq).toNat, r.2)

/-- The coding blocks of a segment from column `32 i` on (R115–R117). -/
def rdBlocks (e : CEnv) : Nat → Nat → CSt → List Bool → Rd
  | 0, _, s, b => (s, some b)
  | k + 1, x, s, b =>
    match rdQp e b with
    | none => (s, none)
    | some (qp, b) => (rdNode e 3 x 0 32 { s with qp := qp } b).andThen fun s b => rdBlocks e k (x + 32) s b

/-- The bits of a byte string (R134). -/
def bodyBits (b : List Byte) : List Bool := b.flatMap fun x => bitsHi 8 x.toNat

/-- Decode a coded body: the segment, and the damage kinds of R198 (2 RANGE, 4 TERM, 32 MISSREF). -/
def decodeBody (e : CEnv) (body : List Byte) : List (List Nat) × Nat :=
  let r := rdBlocks e (cdiv e.w 32) 0 (cst0 e) (bodyBits body)
  let dmg := match r.2 with
    | none => 2
    | some rest => if rest.length < 8 ∧ rest.all (· == false) = true then 0 else 4
  (segOut r.1, dmg + if r.1.miss then 32 else 0)

/-- Decode a raw body (R100): its length is the raw size and its fill bits are 0. -/
def decodeRaw (d w h : Nat) (body : List Byte) : List (List Nat) × Nat :=
  let bs := bodyBits body
  let v := fun i => ((bs.drop (i * d)).take d).foldl (fun a x => a * 2 + if x then 1 else 0) 0
  ((List.range h).map fun y => (List.range w).map fun x => v (y * w + x),
   if body.length = rawSize (w * h) d ∧ (bs.drop (w * h * d)).all (· == false) = true then 0 else 4)

end Sys2Proof.Machine
end

