-- ==== Sys2Proof/Machine/Encoder.lean ====
section
/-! DEFINITION. The device's encoder of a segment: complexity (R170), motion search (R171), mode decision (R172), levels
(R491), emergency form (R173), escapes (R131, R176). The body it writes is one that Codec.decodeBody reads. -/
namespace Sys2Proof.Machine

/-! ## Writing (R135–R137, R143, R144) -/

/-- Floor of log2. -/
def log2N (n : Nat) : Nat := Nat.log2 n

/-- Exp-Golomb of order k (R135). -/
def wrEg (k x : Nat) : List Bool :=
  let y := x + 2 ^ k
  let b := log2N y
  List.replicate (b - k) false ++ bitsHi (b + 1) y

/-- An adaptive Rice code (R143): its bits and the contexts after. -/
def wrRice (ctx : List (Nat × Nat)) (i z : Nat) : List Bool × List (Nat × Nat) :=
  let c := getIx ctx i (4, 1)
  let k := riceK c.1 c.2
  let qt := z / 2 ^ k
  ((if qt < 16 then List.replicate qt true ++ false :: bitsHi k (z % 2 ^ k)
    else List.replicate 16 true ++ wrEg k (z - 16 * 2 ^ k)), ctxUpd ctx i z)

/-- Levels with run mode (R144): class, magnitude class and level of each position in order. -/
def wrLevels : List (Nat × Nat × Int) → Option Nat → List (Nat × Nat) → List Bool × List (Nat × Nat)
  | [], _, ctx => ([], ctx)
  | (cls, mag, lv) :: t, run, ctx =>
    let start := run.isNone && mag == 0
    let r0 := (((cls, mag, lv) :: t).takeWhile fun x => x.2.2 == 0).length
    let (b0, ctx) := if start then wrRice ctx (4 * cls) r0 else ([], ctx)
    match (if start then some r0 else run) with
    | some (r + 1) =>
      let (b, ctx) := wrLevels t (some r) ctx
      (b0 ++ b, ctx)
    | some 0 =>
      let (b1, ctx) := wrRice ctx (4 * cls + 1) (lv.natAbs - 1)
      let (b, ctx) := wrLevels t none ctx
      (b0 ++ b1 ++ decide (lv < 0) :: b, ctx)
    | none =>
      let (b1, ctx) := wrRice ctx (4 * cls + mag) (zig lv)
      let (b, ctx) := wrLevels t none ctx
      (b1 ++ b, ctx)

/-! ## Levels (R491) -/

/-- The forward transform of a residual. -/
def fwdT (n : Nat) (e : List (List Int)) : List (List Int) :=
  let k := lg n
  let hh := tab n fun u y => sumI ((List.range n).map fun x => trT n u x * at2 e x y)
  tab n fun u v => (sumI ((List.range n).map fun y => trT n v y * at2 hh u y) + 2 ^ (11 + k)) / 2 ^ (12 + k)

/-- The dead-zone rule. -/
def quant (depth qp : Nat) (intra : Bool) (c : Int) : Int :=
  let m := min (2 ^ (depth + 6) - 1) ((384 * c.natAbs + (if intra then 2 else 1) * qsOf qp) / (6 * qsOf qp))
  if c < 0 then -(m : Int) else m

/-! ## The encoder's surroundings -/

/-- What coding decisions take besides the coding environment. -/
structure EEnv where
  c : CEnv
  /-- The segment's source samples. -/
  src : List (List Nat)
  /-- A chained entry (R169): XPLANE and XGRAD may be used. -/
  chained : Bool
  lamK : Nat
  srchH : Nat
  srchV : Nat
  /-- Co-located vectors by coding block (R170). -/
  coloc : List (Option (Int × Int))
  /-- Each slot's plane decimated by 4 and by 2; none for a missing slot. -/
  l2 : List (Option (List (List Nat)))
  l1 : List (Option (List (List Nat)))
  /-- The segment's source decimated by 4 and by 2. -/
  s2 : List (List Nat)
  s1 : List (List Nat)

/-- A coded piece: state after it, its bits, its sum of squared differences. -/
structure Cand where
  st : CSt
  bits : List Bool
  sse : Nat

/-- Means of k × k blocks, rounded down; cut blocks use their real samples (R170). -/
def decim (k : Nat) (g : List (List Nat)) : List (List Nat) :=
  let w := (getIx g 0 []).length
  (List.range (cdiv g.length k)).map fun y => (List.range (cdiv w k)).map fun x =>
    let l := ((g.drop (y * k)).take k).flatMap fun r => (r.drop (x * k)).take k
    sumN l / l.length

/-- λ × bits + distortion, times 2^20 (R172). -/
def cost (e : EEnv) (dist bits : Nat) : Nat := dist * 2 ^ 20 + e.lamK * qsOf e.c.qp ^ 2 * bits

/-- J of a candidate; in MODE 2 and 3 its bits alone (R172). -/
def jOf (e : EEnv) (c : Cand) : Nat := if 2 ≤ e.c.mode then c.bits.length else cost e c.sse c.bits.length

/-- The earliest of the candidates with the least J. -/
def bestJ (e : EEnv) : Cand → List Cand → Cand
  | b, [] => b
  | b, c :: t => bestJ e (if jOf e c < jOf e b then c else b) t

/-- SSE of a leaf over its real positions. -/
def leafSse (e : EEnv) (x0 y0 n : Nat) (s : CSt) : Nat :=
  sumN ((realPos e.c x0 y0 n).map fun p =>
    let d := ((smp e.src (x0 + p.1) (y0 + p.2) : Int) - ((getIx (getIx s.seg (y0 + p.2) []) (x0 + p.1) none).getD 0 : Nat)).natAbs
    d * d)

/-- Source minus prediction, 0 at virtual positions. -/
def diffOf (e : EEnv) (x0 y0 n : Nat) (p : List (List Int)) : List (List Int) :=
  tab n fun x y => if x0 + x < e.c.w ∧ y0 + y < e.c.h then (smp e.src (x0 + x) (y0 + y) : Int) - at2 p x y else 0

/-- The 4 × 4 Hadamard sum of a difference (R172). -/
def satd4 (d : List (List Int)) (bx by_ : Nat) : Nat :=
  let had := fun (l : List Int) =>
    match l with
    | [a, b, c, e] => [a + b + c + e, a - b + c - e, a + b - c - e, a - b - c + e]
    | l => l
  let rows := (List.range 4).map fun y => had ((List.range 4).map fun x => at2 d (4 * bx + x) (4 * by_ + y))
  sumN ((List.range 4).flatMap fun x => (had (rows.map fun r => getIx r x 0)).map Int.natAbs)

/-- SATD of a leaf's difference. -/
def satd (n : Nat) (d : List (List Int)) : Nat :=
  sumN ((List.range (n / 4)).flatMap fun y => (List.range (n / 4)).map fun x => satd4 d x y)

/-! ## Leaves -/

/-- The residual part of a leaf (R491, R115): coded_flag is 1 exactly when a level is not 0 (assumption 33). -/
def wrRes (e : EEnv) (s : CSt) (x0 y0 n : Nat) (p : List (List Int)) (mot : Option (Nat × Int × Int)) (ts : Bool) :
    CSt × List Bool :=
  let r := diffOf e x0 y0 n p
  let lv := (if ts then r else fwdT n r).map fun l => l.map (quant e.c.depth s.qp mot.isNone)
  if lv.all (fun l => l.all (· == 0)) then (doneLeaf e.c s x0 y0 n (addRes e.c p []) mot, [false])
  else
    let t := (if ts then rasterPos n n else scanPos n).map fun q =>
      (clsOf ts q, magOf (measOf ts s.lastDc lv q), at2 lv q.1 q.2)
    let (b, ctx) := wrLevels t none s.ctx
    let s1 := { s with ctx := ctx, lastDc := if ts then s.lastDc else (at2 lv 0 0).natAbs }
    (doneLeaf e.c s1 x0 y0 n (addRes e.c p (residual e.c.depth s.qp n ts lv)) mot,
     true :: (if n ≤ 8 then [ts] else []) ++ b)

/-- skip_flag = 0 in P pictures. -/
def preBits (e : EEnv) : List Bool := if e.c.isP then [false] else []

/-- A raw leaf (R131). -/
def rawLeaf (e : EEnv) (s : CSt) (x0 y0 n : Nat) : Cand :=
  ⟨doneLeaf e.c s x0 y0 n (fun x y => smp e.src (x0 + x) (y0 + y)) none,
   preBits e ++ true :: (realPos e.c x0 y0 n).flatMap (fun p => bitsHi e.c.depth (smp e.src (x0 + p.1) (y0 + p.2))), 0⟩

/-- The raw escape of a coded leaf (R131): `b` are the bits after blk_raw. -/
def escLeaf (e : EEnv) (s : CSt) (x0 y0 n : Nat) (b : List Bool) (t : CSt) : Cand :=
  if e.c.depth * (realPos e.c x0 y0 n).length < b.length then rawLeaf e s x0 y0 n
  else ⟨t, preBits e ++ false :: b, leafSse e x0 y0 n t⟩

/-- A skip leaf (R122). -/
def skipLeaf (e : EEnv) (s : CSt) (x0 y0 n : Nat) (above : Bool) : Cand :=
  let m := mergeMot e.c s x0 y0 above
  let t := doneLeaf e.c s x0 y0 n (addRes e.c (interPred e.c m.1 m.2.1 m.2.2 x0 y0 n) []) (some m)
  ⟨t, [true, above], leafSse e x0 y0 n t⟩

/-- Bits of a vector difference (R137). -/
def mvdBits (d : Int × Int) : List Bool := wrEg 1 (zig d.1) ++ wrEg 1 (zig d.2)

/-- An inter leaf of a slot and vector, before the escape: state, bits after blk_raw. -/
def interLeaf (e : EEnv) (s : CSt) (x0 y0 n slot : Nat) (mv : Int × Int) (ts : Bool) : CSt × List Bool :=
  let sl := maskSlots e.c.refMask
  let pm := mvp s x0 y0
  let ri := if sl.length ≤ 1 then [] else bitsHi (if sl.length = 2 then 1 else 2) ((findIx (· == slot) sl 0).map (·.1) |>.getD 0)
  let (t, b) := wrRes e s x0 y0 n (interPred e.c slot mv.1 mv.2 x0 y0 n) (some (slot, mv)) ts
  (t, true :: ri ++ mvdBits (mv.1 - pm.1, mv.2 - pm.2) ++ b)

/-- xp_ref as written (R137). -/
def wrXp (e : EEnv) (q : Nat) : List Bool := if e.c.plane < 2 then [] else bitsHi (if e.c.plane = 2 then 1 else 2) q

/-- An intra leaf of a mode, before the escape. -/
def intraLeaf (e : EEnv) (s : CSt) (x0 y0 n mode q : Nat) (ts : Bool) : CSt × List Bool :=
  let (t, b) := wrRes e s x0 y0 n (intraPred e.c s x0 y0 n mode q) none ts
  (t, (if e.c.isP then [false] else []) ++ bitsHi 4 mode ++ (if mode = 8 then wrXp e q else []) ++ b)

/-- A DPCM leaf of a predictor, before the escape (R129, R130). -/
def dpcmLeaf (e : EEnv) (s : CSt) (x0 y0 n pred q : Nat) : CSt × List Bool :=
  let sub := substNbr e.c.depth (nbrs e.c s x0 y0 n)
  let subQ := if pred = 4 then substNbr e.c.depth (nbrsQ e.c s q x0 y0 n) else []
  let stepq := dpcmQ e.c
  let er := if e.c.mode = 2 then e.c.errE else 0
  let r := (realPos e.c x0 y0 n).foldl (fun (a : List (List Int) × List (Nat × Nat × Int)) p =>
    let abc := dpcmNb sub n a.1 p
    let pv := dpcmPred e.c subQ q x0 y0 n pred abc p
    let d := (smp e.src (x0 + p.1) (y0 + p.2) : Int) - pv
    let m : Int := ((d.natAbs + er) / stepq : Nat)
    let lv := if d < 0 then -m else m
    (set2 a.1 p (clip1 e.c.depth (pv + lv * stepq) : Int), a.2 ++ [(3, magOf (dpcmMeas e.c abc), lv)]))
    (tab n fun _ _ => 0, [])
  let (b, ctx) := wrLevels r.2 none s.ctx
  (doneLeaf e.c { s with ctx := ctx } x0 y0 n (fun x y => (at2 r.1 x y).toNat) none,
   bitsHi 3 pred ++ (if pred = 4 then wrXp e q else []) ++ b)

/-- Insert into a list sorted by key, after equal keys. -/
def insKey {α : Type} (k : Nat) (a : α) : List (Nat × α) → List (Nat × α)
  | [] => [(k, a)]
  | (k2, b) :: t => if k < k2 then (k, a) :: (k2, b) :: t else (k2, b) :: insKey k a t

/-- The `n` elements of least key, earlier ones first among equals. -/
def leastN {α : Type} (n : Nat) (key : α → Nat) (l : List α) : List α :=
  ((l.foldl (fun acc a => insKey (key a) a acc) []).take n).map (·.2)

/-- Reference planes an XPLANE or XGRAD leaf may name (R116, R172). -/
def xpRefs (e : EEnv) : List Nat := if e.chained && 1 ≤ e.c.plane then List.range e.c.plane else []

/-- Intra candidates: the three of least SATD (R172). -/
def intraCands (e : EEnv) (s : CSt) (x0 y0 n : Nat) : List (Nat × Nat) :=
  leastN 3 (fun m => satd n (diffOf e x0 y0 n (intraPred e.c s x0 y0 n m.1 m.2)))
    ((List.range 8).map (fun m => (m, 0)) ++ (xpRefs e).map fun q => (8, q))

/-! ## Motion search (R171) -/

/-- The order of equal-cost vectors: |x| + |y|, then y, then x. -/
def mvLess (a b : Int × Int) : Bool :=
  let sa := a.1.natAbs + a.2.natAbs
  let sb := b.1.natAbs + b.2.natAbs
  sa < sb || (sa == sb && (decide (a.2 < b.2) || (a.2 == b.2 && decide (a.1 < b.1))))

/-- Insert a costed vector in order, without repeats. -/
def insMv (c : Nat) (v : Int × Int) : List (Nat × (Int × Int)) → List (Nat × (Int × Int))
  | [] => [(c, v)]
  | (c2, v2) :: t =>
    if v = v2 then (c2, v2) :: t
    else if c < c2 ∨ (c = c2 ∧ mvLess v v2 = true) then (c, v) :: (c2, v2) :: t
    else (c2, v2) :: insMv c v t

/-- The `n` best vectors of a list under a cost. -/
def bestMv (n : Nat) (f : Int × Int → Nat) (l : List (Int × Int)) : List (Int × Int) :=
  ((l.foldl (fun acc v => (insMv (f v) v acc).take n) []).take n).map (·.2)

/-- Clamp a vector to ±h × ±v. -/
def clampMv (h v : Nat) (m : Int × Int) : Int × Int := (clip3 (-(h : Int)) h m.1, clip3 (-(v : Int)) v m.2)

/-- The square of step `st` and radius `r` around a vector. -/
def around (st : Nat) (r : Nat) (c : Int × Int) : List (Int × Int) :=
  let o := (List.range (2 * r + 1)).map fun (i : Nat) => ((i : Int) - r) * st
  o.flatMap fun y => o.map fun x => (c.1 + x, c.2 + y)

/-- SAD of a decimated block of the segment against a decimated plane: block at (bx, by) of size n, plane position (ox, oy)
of the segment's first sample. -/
def sadAt (depth : Nat) (src : List (List Nat)) (ref : Option (List (List Nat))) (ox oy bx by_ n : Nat) (mv : Int × Int) : Nat :=
  let rows := ((src.drop by_).take n).map fun r => (r.drop bx).take n
  match ref with
  | none => sumN (rows.flatMap fun r => r.map fun v => ((v : Int) - (2 ^ (depth - 1) : Nat)).natAbs)
  | some pl =>
    let hh := pl.length
    let ww := (getIx pl 0 []).length
    sumN (((List.range rows.length).zip rows).flatMap fun r =>
      ((List.range r.2.length).zip r.2).map fun c =>
        let x := (clip3 0 ((ww : Int) - 1) ((ox + bx + c.1 : Nat) + mv.1)).toNat
        let y := (clip3 0 ((hh : Int) - 1) ((oy + by_ + r.1 : Nat) + mv.2)).toNat
        ((c.2 : Int) - smp pl x y).natAbs)

/-- The grid step of level L2. -/
def gridStep (h2 v2 : Nat) : Nat :=
  ([1, 2, 4, 8].find? fun s => decide ((2 * (h2 / s) + 1) * (2 * (v2 / s) + 1) ≤ 4257)).getD 8

/-- The best level-1 vector of a coding block for a slot, in units of 2 samples (levels L2 and L1). -/
def searchL1 (e : EEnv) (s : CSt) (x0 slot : Nat) : Int × Int :=
  let h2 := cdiv e.srchH 4
  let v2 := cdiv e.srchV 4
  let st := gridStep h2 v2
  let f2 := sadAt e.c.depth e.s2 (getIx e.l2 slot none) (e.c.xs / 4) (e.c.ys / 4) (x0 / 4) 0 8
  let ox := (List.range (2 * (h2 / st) + 1)).map fun (i : Nat) => ((i : Int) - (h2 / st : Nat)) * st
  let oy := (List.range (2 * (v2 / st) + 1)).map fun (i : Nat) => ((i : Int) - (v2 / st : Nat)) * st
  let grid := oy.flatMap fun y => ox.map fun x => (x, y)
  let lf := if x0 = 0 then none else motionAt s ((x0 : Int) - 32) 0
  let ext := ([lf.map (·.2), getIx e.coloc (x0 / 32) none].filterMap id).map fun m => clampMv h2 v2 (m.1 / 16, m.2 / 16)
  let fine := if 1 < st then ((bestMv 1 f2 grid).flatMap (around 1 (st / 2))).map (clampMv h2 v2) else []
  let two := bestMv 2 f2 (grid ++ ext ++ fine)
  let f1 := sadAt e.c.depth e.s1 (getIx e.l1 slot none) (e.c.xs / 2) (e.c.ys / 2) (x0 / 2) 0 16
  getIx (bestMv 1 f1 ((two.flatMap fun v => around 1 4 (2 * v.1, 2 * v.2)).map (clampMv (cdiv e.srchH 2) (cdiv e.srchV 2)))) 0 (0, 0)

/-- Bits of a quarter-sample vector of a leaf. -/
def mvCost (s : CSt) (x0 y0 : Nat) (mv : Int × Int) : Nat :=
  let pm := mvp s x0 y0
  (mvdBits (mv.1 - pm.1, mv.2 - pm.2)).length

/-- Level L0: the best whole-sample vector of a node around a centre. -/
def searchL0 (e : EEnv) (s : CSt) (x0 y0 n slot r : Nat) (c : Int × Int) : Int × Int :=
  getIx (bestMv 1 (fun v => cost e (sadAt e.c.depth e.src (getIx e.c.refs slot none) e.c.xs e.c.ys x0 y0 n v)
    (mvCost s x0 y0 (4 * v.1, 4 * v.2))) ((around 1 r c).map (clampMv e.srchH e.srchV))) 0 (0, 0)

/-- The quarter-sample level of a leaf: the 8 half-sample neighbours, then the 8 quarter-sample neighbours. -/
def searchQ (e : EEnv) (s : CSt) (x0 y0 n slot : Nat) (c : Int × Int) : Int × Int :=
  let f := fun (v : Int × Int) => cost e (satd n (diffOf e x0 y0 n (interPred e.c slot v.1 v.2 x0 y0 n))) (mvCost s x0 y0 v)
  let lim := clampMv (4 * e.srchH) (4 * e.srchV)
  let b1 := getIx (bestMv 1 f ((around 2 1 (4 * c.1, 4 * c.2)).map lim)) 0 (0, 0)
  getIx (bestMv 1 f ((around 1 1 b1).map lim)) 0 (0, 0)

/-- No search range: only the zero vector and the merge candidates (R171). -/
def noSearch (e : EEnv) : Bool := e.srchH == 0 && e.srchV == 0

/-- The whole-sample vectors of a node by slot: around the best L1 vector for a coding block, around the parent's best for
a child. -/
def nodeMvs (e : EEnv) (s : CSt) (x0 y0 n : Nat) (par : List (Nat × (Int × Int))) : List (Nat × (Int × Int)) :=
  if !e.c.isP || n == 4 then []
  else if noSearch e then (maskSlots e.c.refMask).map fun sl => (sl, ((0 : Int), (0 : Int)))
  else if n = 32 then (maskSlots e.c.refMask).map fun sl =>
    let v := searchL1 e s x0 sl
    (sl, searchL0 e s x0 y0 32 sl 2 (2 * v.1, 2 * v.2))
  else par.map fun p => (p.1, searchL0 e s x0 y0 n p.1 1 p.2)

/-! ## Decisions (R172) -/

/-- A leaf in MODE 0 or 1. Raw is a candidate by its cost; the transform skip is tried for the
chosen mode, then the count of R131 (assumption 33). -/
def lossyLeaf (e : EEnv) (s : CSt) (x0 y0 n : Nat) (mvs : List (Nat × (Int × Int))) : Cand :=
  let mk := fun (r : CSt × List Bool) => (⟨r.1, preBits e ++ false :: r.2, leafSse e x0 y0 n r.1⟩ : Cand)
  let skips := if e.c.isP && n != 4 then [skipLeaf e s x0 y0 n false, skipLeaf e s x0 y0 n true] else []
  let inter := mvs.map fun m =>
    let v := if noSearch e then (0, 0) else searchQ e s x0 y0 n m.1 m.2
    fun ts => interLeaf e s x0 y0 n m.1 v ts
  -- the three candidates of least SATD, in the order of modes and xp_ref
  let intra := (leastN 3 (fun m => m.1 * 4 + m.2) (intraCands e s x0 y0 n)).map fun m =>
    fun ts => intraLeaf e s x0 y0 n m.1 m.2 ts
  let full := (inter ++ intra).map fun f => (mk (f false), f)
  match full with
  | [] => ⟨s, [], 0⟩
  | f0 :: ft =>
    let b := ft.foldl (fun b c => if jOf e c.1 < jOf e b.1 then c else b) f0
    let raw := rawLeaf e s x0 y0 n
    let coded := fun (_ : Unit) =>
      let t := b.2 true
      let r := if n ≤ 8 && decide (jOf e (mk t) < jOf e b.1) then (mk t, t) else (b.1, b.2 false)
      if jOf e raw < jOf e r.1 then raw else escLeaf e s x0 y0 n r.2.2 r.2.1
    match skips with
    | [] => coded ()
    | k :: ks =>
      let k := bestJ e k ks
      if jOf e k ≤ jOf e b.1 then bestJ e k [raw] else coded ()

/-- A leaf in MODE 2 or 3: the predictor with the fewest bits (R172). -/
def exactLeaf (e : EEnv) (s : CSt) (x0 y0 n : Nat) : Cand :=
  let ps : List (Nat × Nat) := (List.range 4).map (fun p => (p, 0)) ++ (xpRefs e).map fun q => (4, q)
  let cs : List (CSt × List Bool) := ps.map fun p => dpcmLeaf e s x0 y0 n p.1 p.2
  match cs with
  | [] => ⟨s, [], 0⟩
  | c :: t =>
    let b := t.foldl (fun b c => if c.2.length < b.2.length then c else b) c
    escLeaf e s x0 y0 n b.2 b.1

/-- A quadtree node (R112, R172). -/
def encNode (e : EEnv) : Nat → Nat → Nat → Nat → List (Nat × (Int × Int)) → CSt → Cand
  | f, x0, y0, n, par, s =>
    if e.c.w ≤ x0 ∨ e.c.h ≤ y0 then ⟨s, [], 0⟩
    else
      let mvs := nodeMvs e s x0 y0 n par
      let leaf := fun (_ : Unit) => if 2 ≤ e.c.mode then exactLeaf e s x0 y0 n else lossyLeaf e s x0 y0 n mvs
      match f with
      | 0 => leaf ()
      | f + 1 =>
        let m := n / 2
        let c1 := encNode e f x0 y0 m mvs s
        let c2 := encNode e f (x0 + m) y0 m mvs c1.st
        let c3 := encNode e f x0 (y0 + m) m mvs c2.st
        let c4 := encNode e f (x0 + m) (y0 + m) m mvs c3.st
        let sb := c1.bits ++ c2.bits ++ c3.bits ++ c4.bits
        let ss := c1.sse + c2.sse + c3.sse + c4.sse
        if e.c.w < x0 + n ∨ e.c.h < y0 + n then ⟨c4.st, sb, ss⟩
        else
          let l := leaf ()
          bestJ e ⟨l.st, false :: l.bits, l.sse⟩ [⟨c4.st, true :: sb, ss⟩]

/-- The coding blocks from column `x` on: cb_qp_delta = 0 (R117) and each quadtree. -/
def encBlocks (e : EEnv) : Nat → Nat → CSt → CSt × List Bool
  | 0, _, s => (s, [])
  | k + 1, x, s =>
    let c := encNode e 3 x 0 32 [] s
    let (t, b) := encBlocks e k (x + 32) c.st
    (t, (if e.c.mode ≤ 1 then [true] else []) ++ c.bits ++ b)

/-! ## Emergency form (R173) -/

/-- A node of the emergency form. -/
def emergEnc (e : CEnv) : Nat → Nat → Nat → Nat → CSt → CSt × List Bool
  | f, x0, y0, n, s =>
    if e.w ≤ x0 ∨ e.h ≤ y0 then (s, [])
    else
      let cut := decide (e.w < x0 + n) || decide (e.h < y0 + n)
      let leaf := fun (_ : Unit) =>
        if e.isP then
          let m := mergeMot e s x0 y0 false
          (doneLeaf e s x0 y0 n (addRes e (interPred e m.1 m.2.1 m.2.2 x0 y0 n) []) (some m), [true, false])
        else (doneLeaf e s x0 y0 n (addRes e (intraPred e s x0 y0 n 0 0) []) none, [false, false, false, false, false, false])
      match f with
      | 0 => leaf ()
      | f + 1 =>
        if cut then
          let m := n / 2
          let (s1, b1) := emergEnc e f x0 y0 m s
          let (s2, b2) := emergEnc e f (x0 + m) y0 m s1
          let (s3, b3) := emergEnc e f x0 (y0 + m) m s2
          let (s4, b4) := emergEnc e f (x0 + m) (y0 + m) m s3
          (s4, b1 ++ b2 ++ b3 ++ b4)
        else
          let (s1, b) := leaf ()
          (s1, false :: b)

/-- The coding blocks of the emergency form. -/
def emergBlocks (e : CEnv) : Nat → Nat → CSt → CSt × List Bool
  | 0, _, s => (s, [])
  | k + 1, x, s =>
    let (s1, b1) := emergEnc e 3 x 0 32 s
    let (s2, b2) := emergBlocks e k (x + 32) s1
    (s2, true :: b1 ++ b2)

/-! ## Segments -/

/-- A coded segment: its form, body, reconstruction, and the vectors covering its coding blocks' first samples. -/
structure SegRes where
  raw : Bool
  emerg : Bool
  body : List Byte
  recon : List (List Nat)
  mvs : List (Option (Int × Int))

/-- Vectors of the leaves over the coding blocks' first samples (R170). -/
def cbMvs (e : CEnv) (s : CSt) : List (Option (Int × Int)) :=
  (List.range (cdiv e.w 32)).map fun (i : Nat) => (motionAt s (32 * i : Nat) 0).map (·.2)

/-- Bits as a body (R146). -/
def bodyOf (b : List Bool) : List Byte := packBits (b.length / 8 + 1) b

/-- The emergency form of a segment. -/
def emergSeg (e : CEnv) : SegRes :=
  let (s, b) := emergBlocks e (cdiv e.w 32) 0 (cst0 e)
  ⟨false, true, bodyOf b, segOut s, cbMvs e s⟩

/-- The coded form with the escape of R131: a body past the bound L becomes a raw segment. -/
def codedSeg (e : EEnv) : SegRes :=
  let (s, b) := encBlocks e (cdiv e.c.w 32) 0 (cst0 e.c)
  let body := bodyOf b
  if escBound (e.c.w * e.c.h) e.c.depth < body.length then ⟨true, false, rawBody e.c.depth e.src, e.src, []⟩
  else ⟨false, false, body, segOut s, cbMvs e.c s⟩

/-- A NORMAL segment under its limit (R176); no limit in MODE 2 and 3 (R178). -/
def normalSeg (e : EEnv) (limit : Option Nat) : SegRes :=
  let r := codedSeg e
  match limit with
  | some l => if l < 16 + r.body.length then emergSeg e.c else r
  | none => r

/-! ## Complexity (R170) -/

/-- The activity of an L2 block. -/
def activity (b : List (List Nat)) : Nat :=
  sumN (((List.range b.length).zip b).flatMap fun r => ((List.range r.2.length).zip r.2).map fun c =>
    (if c.1 = 0 then 0 else ((c.2 : Int) - getIx r.2 (c.1 - 1) 0).natAbs) +
    (if r.1 = 0 then 0 else ((c.2 : Int) - getIx (getIx b (r.1 - 1) []) c.1 0).natAbs))

/-- C_s of a segment: its samples and place, and for a P picture the newest slot's plane and the co-located vectors. -/
def complexity (depth : Nat) (src : List (List Nat)) (xs ys : Nat) (ref : Option (List (List Nat)))
    (coloc : List (Option (Int × Int))) : Nat :=
  let s2 := decim 4 src
  let w := (getIx src 0 []).length
  let l2 := ref.map (decim 4)
  max 1 (sumN ((List.range (cdiv w 32)).map fun i =>
    let a := activity (s2.map fun r => (r.drop (8 * i)).take 8)
    match l2 with
    | none => a
    | some pl =>
      let f := sadAt depth s2 (some pl) (xs / 4) (ys / 4) (8 * i) 0 8
      let sad := match getIx coloc i none with
        | some m => min (f (0, 0)) (f (m.1 / 16, m.2 / 16))
        | none => f (0, 0)
      min a sad))

end Sys2Proof.Machine
end

