-- ==== Sys2Proof/Machine/Frames.lean ====
section
/-! DEFINITION. Frames on the sensor ports (R48, R151–R158): packets, coverage, filling, the cadence policer, opening and
closing, and the conditioning that makes the picture the encoder codes. -/
namespace Sys2Proof.Machine

/-! ## Source geometry (R86, R87, R157) -/

/-- The packets carry mosaic lines (R157). -/
def mosaic (b : List Byte) : Bool := Ct.cond b % 2 == 1

/-- Planes of the received frame, and their dimensions. -/
def srcPlanes (b : List Byte) : Nat := if mosaic b then 1 else nPlanes (Ct.layout b)
def inGeo (b : List Byte) : Geo := ⟨Ct.layout b, Ct.width b, Ct.height b, Ct.segW b, Ct.depth b⟩
def srcW (b : List Byte) (p : Nat) : Nat := if mosaic b then 2 * Ct.width b else (inGeo b).pw p
def srcH (b : List Byte) (p : Nat) : Nat := if mosaic b then 2 * Ct.height b else (inGeo b).ph p

/-- Position (dy, dx) of plane `p` in the mosaic of a CFA phase (R87). -/
def cfaPos (phase p : Nat) : Nat × Nat :=
  let at_ := fun (l : List Nat) => let i := (findIx (· == p) l 0).map (·.1) |>.getD 0; (i / 2, i % 2)
  match phase with
  | 0 => at_ [0, 1, 2, 3]
  | 1 => at_ [1, 0, 3, 2]
  | 2 => at_ [2, 3, 0, 1]
  | _ => at_ [3, 2, 1, 0]

/-! ## Line packets (R151, R152) -/

/-- `n` samples of `d` bits, most significant first. -/
def unpackMsb : Nat → Nat → Nat → List Byte → List Nat
  | 0, _, _, _ => []
  | n + 1, d, off, b =>
    let first := off / 8
    let last := (off + d + 7) / 8
    let v := beNat ((b.drop first).take (last - first))
    (v / 2 ^ (last * 8 - off - d) % 2 ^ d) :: unpackMsb n d (off + d) b

namespace Lp
def kind (b : List Byte) : Nat := byteAt b 0
def plane (b : List Byte) : Nat := byteAt b 1 % 4
def depth (b : List Byte) : Nat := byteAt b 2
def frame (b : List Byte) : Nat := beAt b 4 4
def line (b : List Byte) : Nat := beAt b 8 2
def x0 (b : List Byte) : Nat := beAt b 0xA 2
def nsamp (b : List Byte) : Nat := beAt b 0xC 2
def pseq (b : List Byte) : Nat := beAt b 0xE 2
/-- Payload bytes (R152). -/
def pay (b : List Byte) : Nat := 4 * cdiv (nsamp b * depth b) 32
/-- The CRC-32C after the payload passes (R151). -/
def crcOk (b : List Byte) : Bool :=
  decide (20 + pay b ≤ b.length) && crc32c (b.take (16 + pay b)) == beAt b (16 + pay b) 4
def samples (b : List Byte) : List Nat := unpackMsb (nsamp b) (depth b) 0 (b.drop 16)
end Lp

/-- The received packet's place fits the contract (R151, R153). -/
def lpFits (b pk : List Byte) : Bool :=
  Lp.kind pk == 1 && Lp.depth pk == Ct.depth b && decide (Lp.plane pk < srcPlanes b) && decide (1 ≤ Lp.nsamp pk) &&
    decide (Lp.nsamp pk ≤ 8192) && decide (Lp.x0 pk + Lp.nsamp pk ≤ srcW b (Lp.plane pk)) &&
    decide (Lp.line pk < srcH b (Lp.plane pk))

/-! ## Coverage and filling (R155) -/

/-- Put a packet's samples into a line; a sample already there stays. -/
def layLine (x : Nat) (sm : List Nat) (l : List (Option Nat)) : List (Option Nat) :=
  l.take x ++ (((l.drop x).take sm.length).zip sm).map (fun e => e.1.orElse fun _ => some e.2) ++ l.drop (x + sm.length)

/-- The samples accepted of a line. -/
def lineOf (w plane line : Nat) (pk : List RxPkt) : List (Option Nat) :=
  (pk.filter fun q => q.plane == plane && q.line == line).foldl (fun l q => layLine q.x0 q.samples l) (List.replicate w none)

/-- Every sample of a line has been accepted. -/
def lineFull (w plane line : Nat) (pk : List RxPkt) : Bool := (lineOf w plane line pk).all (·.isSome)

/-- Fill a line from the last accepted samples of its columns, or mid-grey. -/
def fillLine (mid : Nat) (prev l : List (Option Nat)) : List Nat :=
  (l.zip prev).map fun e => match e.1, e.2 with
    | some v, _ => v
    | none, some v => v
    | none, none => mid

/-- The last accepted sample of each column. -/
def carry (prev l : List (Option Nat)) : List (Option Nat) := (l.zip prev).map fun e => e.1.orElse fun _ => e.2

/-- A plane with its missing samples filled; `a` and `b` carry the last accepted samples of this line's parity and the
other's. -/
def fillFrom (w plane mid : Nat) (two : Bool) (pk : List RxPkt) :
    Nat → Nat → List (Option Nat) → List (Option Nat) → List (List Nat)
  | 0, _, _, _ => []
  | n + 1, y, a, b =>
    let l := lineOf w plane y pk
    fillLine mid a l :: (if two then fillFrom w plane mid two pk n (y + 1) b (carry a l)
      else fillFrom w plane mid two pk n (y + 1) (carry a l) b)

/-- The received picture with missing samples filled. -/
def filledPic (b : List Byte) (pk : List RxPkt) : PicBuf :=
  (List.range (srcPlanes b)).map fun p =>
    let w := srcW b p
    fillFrom w p (2 ^ (Ct.depth b - 1)) (mosaic b) pk (srcH b p) 0 (List.replicate w none) (List.replicate w none)

/-- Lines that lack samples. -/
def missingLines (b : List Byte) (pk : List RxPkt) : Nat :=
  sumN ((List.range (srcPlanes b)).map fun p =>
    ((List.range (srcH b p)).filter fun y => !lineFull (srcW b p) p y pk).length)

/-- Every sample of every line has been accepted (R155 event 1). -/
def frameFull (b : List Byte) (pk : List RxPkt) : Bool :=
  decide (sumN ((List.range (srcPlanes b)).map fun p => srcW b p * srcH b p) ≤ sumN (pk.map fun q => q.samples.length)) &&
    missingLines b pk == 0

/-! ## Conditioning (R157, R158) -/

/-- The samples of one parity of a list. -/
def everyOther {α : Type} (k : Nat) : List α → List α
  | [] => []
  | x :: t => if k = 0 then x :: everyOther 1 t else everyOther 0 t

/-- CFA unpack (R87). -/
def cfaUnpack (phase : Nat) (m : List (List Nat)) : PicBuf :=
  (List.range 4).map fun p => (everyOther (cfaPos phase p).1 m).map (everyOther (cfaPos phase p).2)

/-- Integer part and phase of the source position of output `j` (R158). -/
def sclPos (i o j : Nat) : Int × Nat :=
  let n : Int := (2 * j + 1 : Int) * i - o
  (n / (2 * o), ((n % (2 * o)) * 64 / (2 * o)).toNat)

/-- The eight coefficients of a phase and axis (0 horizontal, 1 vertical): SNS_SCL_DATA at index (axis × 64 + phase) × 8 +
tap (assumption 31). -/
def sclRow (s : State) (page axis phase : Nat) : List Int :=
  (List.range 8).map fun t => signed 10 (rgetN s page ((axis * 64 + phase) * 8 + t) 0x134)

/-- A clamped element. -/
def clampIx {α : Type} (l : List α) (i : Int) (d : α) : α := getIx l (clip3 0 (l.length - 1) i).toNat d

/-- One axis of the filter, times 256: an axis with equal lengths passes exactly. -/
def sclAxis (s : State) (page axis o : Nat) (l : List Int) : List Int :=
  if l.length = o then l.map (· * 256)
  else (List.range o).map fun j =>
    let q := sclPos l.length o j
    ((List.range 8).zip (sclRow s page axis q.2)).foldl (fun a e => a + e.2 * clampIx l (q.1 - 3 + e.1) 0) 0

/-- Transpose of rows of length `w`. -/
def transpose {α : Type} (w : Nat) (d : α) (m : List (List α)) : List (List α) :=
  (List.range w).map fun x => m.map fun r => getIx r x d

/-- Scale a plane to ow × oh (R158). -/
def sclPlane (s : State) (page depth ow oh : Nat) (m : List (List Nat)) : List (List Nat) :=
  let rows := m.map fun r => sclAxis s page 0 ow (r.map fun v => (v : Int))
  let cols := (transpose ow 0 rows).map (sclAxis s page 1 oh)
  transpose oh 0 (cols.map fun c => c.map fun v => (clip3 0 (2 ^ depth - 1) ((v + 32768) / 65536)).toNat)

/-- Flips and rotation of a plane (R157): 180° is both mirrors, 90° and 270° are clockwise. -/
def turnPlane (cond : Nat) (m : List (List Nat)) : List (List Nat) :=
  let r := bits cond 3 2
  let hf := (bits cond 4 4 == 1) != (r == 2)
  let vf := (bits cond 5 5 == 1) != (r == 2)
  let a := if hf then m.map (·.reverse) else m
  let b := if vf then a.reverse else a
  let w := (b.head?.map (·.length)).getD 0
  if r = 1 then transpose w 0 b.reverse else if r = 3 then (transpose w 0 b).reverse else b

/-- The lowest sensor port of a contract: its page holds the group's coefficients and frame counts (R163). -/
def groupPort (b : List Byte) : Nat := ((List.range 8).find? fun n => Ct.ports b / 2 ^ n % 2 == 1).getD 0

/-- The coded picture's planes from the received planes (R157). -/
def condition (s : State) (b : List Byte) (m : PicBuf) : PicBuf :=
  let g := ctGeo b
  let planes := if mosaic b then cfaUnpack (Ct.cfaPhase b % 4) (getIx m 0 []) else m
  ((List.range planes.length).zip planes).map fun e =>
    let ow := if rot90 b then g.ph e.1 else g.pw e.1
    let oh := if rot90 b then g.pw e.1 else g.ph e.1
    turnPlane (Ct.cond b) (if Ct.cond b / 2 % 2 = 1 then sclPlane s (sensorPage (groupPort b)) (Ct.depth b) ow oh e.2 else e.2)

/-- The source lines that output line `y` of plane `p` needs, without rotation by 90° or 270° (R157, R158). -/
def linesFor (b : List Byte) (p y : Nat) : List Nat :=
  let g := ctGeo b
  let oh := g.ph p
  let y1 := if (bits (Ct.cond b) 5 5 == 1) != (bits (Ct.cond b) 3 2 == 2) then oh - 1 - y else y
  let ih := if mosaic b then Ct.height b else (inGeo b).ph p
  let ls := if Ct.cond b / 2 % 2 = 1 ∧ ih ≠ oh then
      (List.range 8).map fun t => (clip3 0 (ih - 1) ((sclPos ih oh y1).1 - 3 + t)).toNat
    else [y1]
  if mosaic b then ls.map fun l => 2 * l + (cfaPos (Ct.cfaPhase b % 4) p).1 else ls

/-- Every line that the segments of event `k` need has been accepted (R164, R166). -/
def rowsIn (b : List Byte) (pk : List RxPkt) (k : Nat) : Bool :=
  let g := ctGeo b
  if rot90 b then false
  else (List.range g.planes).all fun p =>
    (List.range (g.nr p)).all fun r =>
      g.key p r != k || (List.range (g.sh p r)).all fun i =>
        (linesFor b p (r * 32 + i)).all fun l => lineFull (srcW b (if mosaic b then 0 else p)) (if mosaic b then 0 else p) l pk

/-! ## The cadence policer (R48, R156, R326) -/

/-- The policer's buckets at a frame opening: colour and the context with its tokens taken. -/
def police (s : State) (x : Ctx) (pre : Nat) : Nat × Ctx :=
  let b := x.block
  let per := Ct.period b
  let n := s.tick - x.polTick
  let tc := refill x.polC n 655360 per
  let tp := refill x.polP n (655360 * (1000000 + Ct.polPir b)) (Ct.polPbs b * per * 1000000)
  let r := trTcm (Ct.polFlags b % 2 == 1) pre (per * 1000000) (tc * 1000000) tp
  (r.1, { x with polC := r.2.1 / 1000000, polP := r.2.2, polTick := s.tick })

/-! ## Opening and closing (R34, R154, R155) -/

/-- Frame `n` lies at or behind the last closed frame (R154). -/
def frameLate (x : Ctx) (n : Nat) : Bool :=
  match x.lastClosed with
  | some l => (n + 2 ^ 32 - l) % 2 ^ 32 == 0 || decide (2 ^ 31 ≤ (n + 2 ^ 32 - l) % 2 ^ 32)
  | none => false

/-- A frame of this colour is coded: green, or yellow under POL_FLAGS bit 1 (R48, R153). -/
def frameCoded (b : List Byte) (colour : Nat) : Bool := colour == 0 || (colour == 1 && Ct.polFlags b / 2 % 2 == 1)

/-- The Island's timebase is lost to the main die: TB_LOCK is 0, or the Island is not in RUN (R50, R372). -/
def islLost (s : State) : Bool := !s.isl.tb.lock || s.isl.st != 2

/-- The budget with which a widen member codes a frame that opens now (R362): E_d, the emergency size of its whole band,
when it holds none. -/
def widenCap (x : Ctx) (num : Nat) : Option (Nat × Nat) :=
  let g := ctGeo x.block
  if x.widen then some (match x.budgets.find? fun t => t.1 == num with
    | some t => t.2
    | none => (sumN ((List.range (g.nr 0)).map (emergRow g false)), 0))
  else none

/-- The cause of a frame that begins while the master is lost (R355): one of a member context needs another device. -/
def needCause (s : State) (x : Ctx) : Nat := if s.casc.masterLost && x.role == 1 then 4 else 0

/-- A reserved tile took a machine check or is fenced (R50). -/
def tileDown (s : State) (t : Nat) : Bool := (hdr s (tilePage t)).fenced || (getTile s t).run == 4

/-- The lowest idle bulk-pool tile that may take a reserved tile's place (R50). -/
def spareTile (s : State) (tiles : List Nat) : Option Nat :=
  (List.range 104).find? fun t => bulkTile s t && tileIdle s t && !tileDown s t && !tiles.contains t

/-- At a frame boundary every reserved tile that is down is replaced by an idle bulk-pool tile; while one has no
replacement the stream's frames breach (R50). -/
def replaceTiles (s : State) (x : Ctx) : Ctx :=
  let ts := x.adm.tiles.foldl (fun ts t =>
    if tileDown s t then (match spareTile s ts with
      | some n => ts.map fun u => if u = t then n else u
      | none => ts)
    else ts) x.adm.tiles
  { x with adm := { x.adm with tiles := ts }, lame := ts.any (tileDown s) }

/-- The ports of a tap group in a parameter block (R385). -/
def grpPorts (b : List Byte) (g : Nat) : Nat := byteAt b (0x20 + 16 * g)

/-- The exposure start of a frame that the Island has named for a group of a contract's ports (R382, R385). -/
def namedStart (s : State) (b : List Byte) (num : Nat) : Option Time :=
  (List.range 4).findSome? fun g =>
    if grpPorts (getIx s.isl.grpParam g []) g &&& Ct.ports b = 0 then none
    else ((getIx s.isl.expoOut g none).filter fun e => e.1 == num).map (·.2)

/-- The Island has given the exposure start of the picture's frame, which its CAPTURE_NS is (R91, R378, R382). -/
def takeCapture (s : State) (b : List Byte) (p : Pic) : Pic :=
  if Ct.source b = 0 ∧ Ct.timeSrc b = 1 ∧ p.capKnown = false then
    match namedStart s b p.src with
    | some t => { p with capNs := t / 65536, capFrac := t % 65536, capKnown := true }
    | none => p
  else p

/-- The Island may still open a picture's frame and name its exposure start: it makes records, a group holds a port of the
contract, and the frame's packets come or their copies wait (R374, R378). -/
def tapWaits (s : State) (x : Ctx) (num : Nat) : Bool :=
  (s.isl.st == 2 || s.isl.st == 3) &&
    ((List.range 4).any fun g => grpPorts s.isl.cur.param g &&& Ct.ports x.block != 0 ||
      grpPorts (getIx s.isl.grpParam g []) g &&& Ct.ports x.block != 0) &&
    (x.frame.any (fun f => f.num == num) ||
      s.taps.any fun t => Lp.frame t.bytes == num && Ct.ports x.block / 2 ^ t.port % 2 == 1)

/-- The pictures waiting for their exposure start take it. -/
def takeCaptures (s : State) : State :=
  { s with ctxs := s.ctxs.map fun e => (e.1, { e.2 with pics := e.2.pics.map (takeCapture s e.2.block) }) }

/-- Open a frame (R48, R154, R301): a dropped frame completes NONCONFORMING, a coded one begins a picture. -/
def openFrame (s : State) (c : Nat) (x0 : Ctx) (num pre : Nat) : State :=
  let r := police s (replaceTiles s x0) pre
  let x := { r.2 with frame := some { num := num, colour := r.1, lastAt := s.dt } }
  let s1 := dmaFrameEvent s (Ct.ports x.block) 0
  if frameCoded x.block r.1 then
    let dem := r.1 == 1
    let t := if dem then frameSlot s1 x.queue none else (none, s1)
    let p : Pic := {
      id := t.2.nextId, src := num, demoted := dem, bulk := dem, slot := t.1, at_ := s.dt, capD := widenCap x0 num
      cause := if dem then 0 else
        let f := fenceCause s c x
        if f ≠ 0 then f else if Ct.timeSrc x.block = 1 ∧ islLost s = true then 5 else needCause s x }
    setCtx { t.2 with nextId := t.2.nextId + 1 } c { x with pics := x.pics ++ [takeCapture s x.block p] }
  else
    let t := frameSlot s1 x.queue none
    finishFrame (setCtx t.2 c x) x.queue t.1 (mkCe 0x0F 0 c 0 (encNone num 0) (nowNs s))

/-- The picture of the open frame takes its slot when its first event fires (R301), or its completion is dropped (R307). -/
def slotPic (s : State) (c : Nat) (x : Ctx) (p : Pic) : State :=
  if p.slot.isSome || p.noSlot || Ct.source x.block == 1 || p.demoted then s
  else
    let t := frameSlot s x.queue (p.t0.map fun t => t + nsT x.adm.dAdm - nsT 1500)
    withPic t.2 c p.id fun q => { q with slot := t.1, noSlot := t.1.isNone }

/-- Set the publication limit of a slot (R308). -/
def slotLimit (s : State) (q : Nat) (id : Option Nat) (t : Time) : State :=
  match id with
  | some i =>
    let x := getQ s q
    setQ s q { x with slots := x.slots.map fun c => if c.id = i then { c with limit := some t } else c }
  | none => s

/-- Close the open frame of a context (R155): fill, count, fix t0, and reach a RELEASE boundary (R34). -/
def closeFrame (s : State) (c : Nat) (x : Ctx) (f : Frame) : State :=
  let b := x.block
  let s1 := dmaFrameEvent (setCtx s c { x with frame := none, lastClosed := some f.num, lastColour := f.colour }) (Ct.ports b) 1
  let s2 :=
    if frameCoded b f.colour then
      let miss := missingLines b f.pkts
      let g := groupPort b
      let s2 := if miss = 0 then s1 else
        let a := bump s1 (sensorPage g) 0 0x120 miss
        setEvt (setSensor a g { getSensor a g with fillLast := f.num }) (sensorPage g) 0
      let lost := decide (Ct.timeSrc b = 1) && islLost s
      match x.pics.find? fun p => p.src == f.num && !p.closed with
      | some p =>
        let pic := condition s b (filledPic b f.pkts)
        let s3 := withPic s2 c p.id fun p => { p with
          closed := true, input := pic, t0 := some s.dt, filled := miss != 0
          cause := if p.cause = 0 ∧ !p.demoted ∧ lost = true then 5 else p.cause }
        match getCtx s3 c with
        | some y => (match getPic y p.id with
          | some q => if q.demoted then s3
              else
                let s4 := slotPic s3 c y q
                match (getCtx s4 c).bind fun z => getPic z p.id with
                | some q2 => slotLimit s4 x.queue q2.slot (s.dt + nsT x.adm.dAdm - nsT 1500)
                | none => s4
          | none => s3)
        | none => s3
      | none => s2
    else s1
  if x.rel = 1 then releaseBoundary s2 c else s2

/-- The sensor ports take frames of the context now (R34, R48). -/
def feeds (s : State) (x : Ctx) : Bool := x.kind == .admitted && x.rel != 2 && decide (x.adm.firstDt ≤ s.dt)

/-- Make frame `num` the open frame where R154 allows it: the state, and whether it is open. -/
def enterFrame (s : State) (port c num pre : Nat) : State × Bool :=
  match getCtx s c with
  | none => (s, false)
  | some x =>
    if !takesWork s (sensorPage port) then (s, false)
    else
      let s1 := match x.frame with
        | some f => closeFrame s c x f
        | none => s
      match getCtx s1 c with
      | some y => if y.kind = .admitted ∧ y.rel = 0 then (openFrame s1 c y num pre, true) else (s1, false)
      | none => (s1, false)

end Sys2Proof.Machine
end

