-- ==== Sys2Proof/Machine/RateCtl.lean ====
section
/-! DEFINITION. Pictures of a context (R90–R94, R179, R180, R187), the row rate controller (R174, R175) and the release of
row jobs (R164, R165, R169, R182). -/
namespace Sys2Proof.Machine

/-! ## Jobs of an event -/

/-- WPP form of an HEVC stream (R181). -/
def wpp (b : List Byte) : Bool := Ct.hevcCfg b % 2 == 1

/-- The contract's entry is chained (R169). -/
def isChained (b : List Byte) : Bool := (progOf (entryOf b)).any (·.chained)

/-- Row jobs of event `k` in release order (R164, R165, R169, R182). -/
def evJobs (b : List Byte) (k : Nat) : List (Nat × Nat × Nat) :=
  let g := ctGeo b
  if Ct.mode b = 4 then (if wpp b then [(0, k, 0)] else (List.range (g.ns 0)).map fun i => (0, k, i))
  else (g.event k).filter fun t => !isChained b || t.1 == 0

/-- The segments a job codes, in plane order. -/
def jobSegs (b : List Byte) (t : Nat × Nat × Nat) : List (Nat × Nat × Nat) :=
  if isChained b then (List.range (ctGeo b).planes).map fun p => (p, t.2) else [t]

/-- The rectangle (x, y, w, h) of plane `p` that an HEVC job covers. -/
def hevcRect (b : List Byte) (p row col : Nat) : Nat × Nat × Nat × Nat :=
  let g := ctGeo b
  let dx := if halfW g.layout p then 2 else 1
  let dy := if halfH g.layout p then 2 else 1
  let x := if wpp b then 0 else g.x0 col / dx
  let w := if wpp b then g.pw p else min (g.segW / dx) (g.pw p - x)
  (x, row * (32 / dy), w, min (32 / dy) (g.ph p - row * (32 / dy)))

/-- Units of a picture in canonical order (R167, R182): none stands for the SH, PH and PE around the segments. -/
def canonSegs (b : List Byte) : List (Nat × Nat × Nat) :=
  if Ct.mode b = 4 then (List.range ((ctGeo b).nr 0)).flatMap (evJobs b) else (ctGeo b).order

/-- Emergency size of a segment or HEVC job, without a segment header for HEVC (R173, R182). -/
def segEmerg (b : List Byte) (isP : Bool) (t : Nat × Nat × Nat) : Nat :=
  if Ct.mode b = 4 then Config.hevcEmerg b isP t.2.1 t.2.2
  else emergUnit isP ((ctGeo b).sw t.1 t.2.2) ((ctGeo b).sh t.1 t.2.1)

/-- The segments of event `k` in canonical order; HEVC jobs count as segments. -/
def evSegs (b : List Byte) (k : Nat) : List (Nat × Nat × Nat) :=
  if Ct.mode b = 4 then evJobs b k else (ctGeo b).event k

/-- emerg_row and nmin_row (R174). -/
def rowEmerg (b : List Byte) (isP : Bool) (k : Nat) : Nat := sumN ((evSegs b k).map (segEmerg b isP))
def rowMin (b : List Byte) (isP : Bool) (k : Nat) : Nat := rowEmerg b isP k + Ct.minSegB b * (evSegs b k).length

/-! ## Pictures (R90–R94, R179) -/

/-- Every event has been released and every job has ended. -/
def codedDone (b : List Byte) (p : Pic) : Bool :=
  p.begun && decide ((ctGeo b).nr 0 ≤ p.evs.length) && p.evs.all fun e => e.left == 0

/-- Earlier non-demoted pictures of the context are coded (the references of a P picture are whole). -/
def refsReady (x : Ctx) (p : Pic) : Bool := (x.pics.filter fun q => q.id < p.id && !q.demoted).all (codedDone x.block)

/-- Accepted configurations whose completions precede the picture's apply to the block, oldest first (R187). -/
def applyCfg (x : Ctx) (p : Pic) : Ctx :=
  let now := x.cfgPend.filter fun c => p.slot.all fun i => decide (c.1 < i)
  now.foldl (fun x c =>
    let b := x.block.take 128 ++ c.2.drop 128
    { x with block := b, rate := { x.rate with qpPrev := Ct.qpInit b, mI := Ct.m0 b, mP := Ct.m0 b } })
    { x with cfgPend := x.cfgPend.filter fun c => !(p.slot.all fun i => decide (c.1 < i)) }

/-- NREF references are kept (R94, R181). -/
def interCtx (b : List Byte) : Bool := (Ct.mode b == 1 || Ct.mode b == 4) && 0 < Ct.nref b

/-- The picture's capture instant is the Island's (R91). -/
def islTimed (b : List Byte) : Bool := Ct.source b == 0 && Ct.timeSrc b == 1

/-- The capture instant of a picture that has begun: one of the Island that can no longer come is a free value
(assumption 34). -/
def capOf (s : State) (x : Ctx) (b : List Byte) (p : Pic) : Pic × State :=
  if islTimed b && !p.capKnown && !tapWaits s x p.src then
    let r := fresh s
    let r2 := fresh r.2
    ({ p with capNs := (Config.freeWord r.1).toNat, capFrac := (Config.freeWord r2.1).toNat % 65536, capKnown := true }, r2.2)
  else (p, s)

/-- CAPTURE_NS and CAPTURE_FRAC as far as they are known: the Island's, the entry's, or t0, which a frame has from its close
on (R24, R91). -/
def capNow (p : Pic) : Option (Nat × Nat) :=
  if p.capKnown then some (p.capNs, p.capFrac) else if islTimed p.cfg then none else p.t0.map fun t => (t / 65536, t % 65536)

/-- A configuration with the STREAM_ID of the open stream, or that of its own for a stream about to open (R81). -/
def withSid (x : Ctx) (b : List Byte) : List Byte := if x.strm then putAt b 0x80 (toLE 4 x.sid) else b

/-- FLUSH of a demoted picture: 0 (R180), but 1 in a stream that holds I pictures only (R85). -/
def demotedFlush (b : List Byte) : Bool := Ct.mode b != 1 && Ct.mode b != 4

/-- A picture's type, slots and number are fixed at its first event (R94, R179, R187); a demoted picture is an I picture
outside the pattern (R180). -/
def beginPic (s : State) (c : Nat) (x0 : Ctx) (p : Pic) : State :=
  let cap := capOf s x0 x0.block p
  let s := cap.2
  let p1 := { cap.1 with begun := true }
  let x := applyCfg x0 p
  let b := withSid x x.block
  if p.demoted then
    let flush := demotedFlush b
    setCtx s c (updPic x p.id fun _ => { p1 with
      cfg := b, storeSlot := 0xFF, flush := flush, sh := Ct.mode b != 4 && (flush || !x.strm) })
  else
    let flush := if Ct.mode b = 1 ∨ Ct.mode b = 4 then
        x.kIdx.isNone || x.forceI || p.forceI || (Ct.refresh b != 0 && decide (Ct.refresh b ≤ x.sinceFlush))
      else true
    let k := if flush then 0 else (x.kIdx.getD 0) + 1
    let isP := interCtx b && decide (0 < k)
    let n := Ct.nref b
    let mask := if isP then (if n ≤ k then 2 ^ n - 1 else 2 ^ k - 1) else 0
    let store := if interCtx b then k % n else 0xFF
    let sl := if flush then x.slots.map fun t => { t with valid := false } else x.slots
    let p2 := { p1 with
      isP := isP, flush := flush, sh := Ct.mode b != 4 && (flush || !x.strm), picNum := some x.picNum, refMask := mask
      refTags := (List.range 4).map fun i => if mask / 2 ^ i % 2 = 1 then (getIx sl i {}).tag else 0
      storeSlot := store, cfg := b }
    setCtx s c (updPic { x with
      picNum := (x.picNum + 1) % 2 ^ 32, kIdx := some k, sinceFlush := if flush then 1 else x.sinceFlush + 1
      forceI := false, strm := true, sid := Ct.streamId b
      slots := if store < 4 then sl.set store { getIx sl store {} with valid := true, tag := x.picNum % 65536 } else sl }
      p.id fun _ => p2)

/-! ## Envelope and budgets (R29, R175) -/

/-- ρ as units of 10^-6 B per TBCLK, a fraction: r_eg × f × 1,250 / w, with the f and w of admission (R29). -/
def rhoOf (x : Ctx) : Nat × Nat :=
  (Ct.egRate x.block * 1250 * x.adm.fNum * x.adm.wDen, max 1 (x.adm.fDen * x.adm.wNum))

/-- β brought up to now: it rises at ρ with the remainder carried exactly, up to σ (R175). -/
def betaNow (s : State) (x : Ctx) : Rate :=
  let r := rhoOf x
  let add := (s.tick - x.rate.betaTick) * r.1 + x.rate.betaRem
  let top : Int := Ct.egBurst x.block * 1000000
  let b := x.rate.beta + (add / r.2 : Nat)
  { x.rate with beta := if top < b then top else b, betaRem := if top < b then 0 else add % r.2, betaTick := s.tick }

/-- β applies to a picture: a non-demoted picture of an admitted context. -/
def hasBeta (x : Ctx) (p : Pic) : Bool := x.kind == .admitted && !p.demoted

/-- Lower β by bytes. -/
def betaSub (s : State) (x : Ctx) (n : Nat) : Ctx :=
  let r := betaNow s x
  { x with rate := { r with beta := r.beta - (n * 1000000 : Nat) } }

/-- Bytes of SH, PH and PE, or of the HEVC headers. -/
def headBytes (p : Pic) : Nat :=
  if Ct.mode p.cfg = 4 then (Config.hevcHeader p.cfg (p.picNum.getD 0) p.flush).length
  else (if p.sh then 48 else 0) + 44
def tailBytes (p : Pic) : Nat := if Ct.mode p.cfg = 4 then 0 else 16

/-- The bytes that the wide PE adds to a picture of `n` bytes with the short one (R102, R103). -/
def wideExtra (p : Pic) (n : Nat) : Nat := if Ct.mode p.cfg ≠ 4 ∧ 2 ^ 32 ≤ n then 8 else 0

/-- Bytes of a coded picture (R103). -/
def picTotal (p : Pic) : Nat :=
  let n := headBytes p + tailBytes p + sumN (p.segs.map fun o => (o.unit.map (·.length)).getD 0)
  n + wideExtra p n

/-- cap of a picture (R174, R183, R362); none without a cap. -/
def picCap (x : Ctx) (p : Pic) : Option Nat :=
  match p.capD with
  | some c => some c.1
  | none =>
    if Ct.frameCap p.cfg = 0 ∧ x.kind ≠ .admitted then none
    else some (Ct.frameCap p.cfg - headBytes p - tailBytes p - wideExtra p (Ct.frameCap p.cfg))

/-- tgt (R174, R362); none without one. -/
def picTgt (x : Ctx) (p : Pic) : Option Nat :=
  let t := match p.capD with | some c => c.2 | none => Ct.rcTarget p.cfg
  match picCap x p with
  | some c => some (if t = 0 then c else min t c)
  | none => if t = 0 then none else some t

/-- The least QP whose step meets M × c / share (R175). -/
def qpFor (m c share : Nat) : Nat :=
  ((List.range 88).find? fun q => decide (m * c ≤ qsOf q * share * 1024)).getD 87

/-! ## Complexity of an event (R170) -/

/-- The picture's samples as they stand: its conditioned input, or what the open frame holds. -/
def picInput (s : State) (x : Ctx) (p : Pic) : PicBuf :=
  if p.closed then p.input
  else match x.frame with
    | some f => condition s x.block (filledPic x.block f.pkts)
    | none => p.input

/-- The plane of the most recently stored slot that a P picture's analysis takes (R170). -/
def anaRef (x : Ctx) (p : Pic) (plane : Nat) : Option (List (List Nat)) :=
  if p.isP then x.stored.map fun i => getIx (getIx x.slots i {}).pic plane [] else none

/-- The vectors of a coded P picture by plane and segment (R170). -/
def picMvs (p : Pic) : List SegMvs :=
  if Ct.mode p.cfg = 4 then
    (List.range (ctGeo p.cfg).planes).flatMap fun q => p.segs.map fun t => ⟨q, t.row, t.seg, Config.hevcMvs p.cfg (t.unit.getD []) q⟩
  else p.segs.map fun t => ⟨t.plane, t.row, t.seg, t.mvs⟩

/-- The picture of a context before another, while it is unfinished. -/
def prevPic (x : Ctx) (p : Pic) : Option Pic := (x.pics.filter fun q => q.begun && decide (q.id < p.id)).getLast?

/-- The co-located vectors of a segment, of the previous picture (R170): those of an HEVC job are kept by plane too. DESIGN CHOICE
(assumption 35): a segment of the previous picture that is not coded yet gives the zero vector only. -/
def colocOf (x : Ctx) (p : Pic) (t : Nat × Nat × Nat) : List (Option (Int × Int)) :=
  let l := match prevPic x p with | some q => if q.isP then picMvs q else [] | none => x.coloc
  ((l.find? fun m => m.plane == t.1 && m.row == t.2.1 && m.seg == t.2.2).map (·.mvs)).getD []

/-- C_s of a segment or HEVC job. -/
def segComplexity (x : Ctx) (p : Pic) (inp : PicBuf) (t : Nat × Nat × Nat) : Nat :=
  let b := p.cfg
  let g := ctGeo b
  if Ct.mode b = 4 then
    max 1 (sumN ((List.range g.planes).map fun q =>
      let r := hevcRect b q t.2.1 t.2.2
      complexity g.depth (rectOf (getIx inp q []) r.1 r.2.1 r.2.2.1 r.2.2.2) r.1 r.2.1 (anaRef x p q)
        (colocOf x p (q, t.2))))
  else
    let src := rectOf (getIx inp t.1 []) (g.x0 t.2.2) (32 * t.2.1) (g.sw t.1 t.2.2) (g.sh t.1 t.2.1)
    complexity g.depth src (g.x0 t.2.2) (32 * t.2.1) (anaRef x p t.1) (colocOf x p t)

/-- The complexities of event `k`: against the slot whose store finished last, and free before the first store (assumption 35). -/
def evComplexity (s : State) (x : Ctx) (p : Pic) (k : Nat) : List Nat × State :=
  let segs := evSegs p.cfg k
  if p.isP && x.stored.isNone then
    segs.foldl (fun a _ => let r := fresh a.2; (a.1 ++ [max 1 ((Config.freeWord r.1).toNat % 2 ^ 32)], r.2)) ([], s)
  else
    let inp := picInput s x p
    (segs.map (segComplexity x p inp), s)

/-! ## Release of an event (R164, R175) -/

/-- What rate control decides for an event. -/
structure EvRate where
  emerg : Bool
  alloc : Nat
  qp : Nat
  limits : List Nat
  deriving DecidableEq, Repr

/-- The decision on release of event `k` with complexities `cs` (R175, R178, R180). -/
def rateEvent (x : Ctx) (r : Rate) (p : Pic) (k : Nat) (cs : List Nat) : EvRate :=
  let b := p.cfg
  let c := sumN cs
  let nr := (ctGeo b).nr 0
  let res := sumN ((List.range (nr - (k + 1))).map fun j => rowEmerg b p.isP (k + 1 + j))
  let em := rowEmerg b p.isP k
  let nm := rowMin b p.isP k
  let capA : Option Int := (picCap x p).map fun cap => (cap : Int) - p.spent - p.committed - res
  let betaA : Int := r.beta / 1000000 - p.committed
  let a : Option Int := match capA with
    | none => if hasBeta x p then some betaA else none
    | some v => if hasBeta x p then some (min v betaA) else some v
  let tight := match a with | some v => decide (v < nm) | none => false
  let prev := if p.demoted then Ct.demoteQp b else r.qpPrev
  if p.emergFrom.isSome || tight then ⟨true, em, prev, []⟩
  else
    let av := match a with | some v => v.toNat | none => 0
    let chat := if p.isP then r.chatP else r.chatI
    let later := sumN ((List.range (nr - (k + 1))).map fun j => getIx chat (k + 1 + j) c)
    let q := match picTgt x p with
      | none => 0
      | some t => qpFor (if p.isP then r.mP else r.mI) c (max 1 ((max 1 ((t : Int) - p.spent - p.committed)).toNat * c / (c + later)))
    let lo := max (Ct.qpMin b : Int) ((r.qpPrev : Int) - Ct.qpStep b)
    let hi := min (Ct.qpMax b : Int) ((r.qpPrev : Int) + Ct.qpStep b)
    let qp := if p.demoted then prev else (clip3 lo hi q).toNat
    let lim := match a with
      | none => []
      | some _ => ((evSegs b k).zip cs).map fun t => segEmerg b p.isP t.1 + Ct.minSegB b + (av - nm) * t.2 / c
    ⟨false, av, qp, lim⟩

/-- Jobs of an event with their segments' limits and complexities. -/
def mkJobs (s : State) (c : Nat) (p : Pic) (k : Nat) (e : EvRate) (cs : List Nat) (pr : Prog) : List Job :=
  let segs := evSegs p.cfg k
  let ix := fun (t : Nat × Nat × Nat) => (findIx (· == t) segs 0).map (·.1) |>.getD 0
  let js := evJobs p.cfg k
  let sh := jobShapes p.cfg pr k
  ((List.range js.length).zip js).map fun j =>
    let own := jobSegs p.cfg j.2
    let n := if wpp p.cfg && Ct.mode p.cfg == 4 then sumN sh else getIx sh j.1 0
    { id := s.nextId + j.1, ctx := c, pic := p.id, key := k, plane := j.2.1, row := j.2.2.1, seg := j.2.2.2
      chained := isChained p.cfg, emerg := e.emerg, qp := e.qp
      limits := if e.limits.isEmpty then [] else own.map fun t => getIx e.limits (ix t) 0
      css := own.map fun t => getIx cs (ix t) 1, budget := wProg pr n }

/-- Event `k` of a begun picture fires: rate control, then its jobs are released (R164, R175). -/
def fireEvent (s0 : State) (c : Nat) (x : Ctx) (p : Pic) (k : Nat) : State :=
  let pr := (ctProg p.cfg).getD ⟨0, 0, 3, 1, 800, 1650, false⟩
  let nr := (ctGeo p.cfg).nr 0
  let cc := evComplexity s0 x p k
  let cs := cc.1
  let s := cc.2
  -- β is lowered by the units released with the event (R29, R175)
  let fixed := (if k = 0 then headBytes p else 0) + (if k + 1 = nr then tailBytes p else 0)
  let x1 := if hasBeta x p then betaSub s x fixed else x
  let exact := Ct.mode p.cfg = 2 ∨ Ct.mode p.cfg = 3
  let e : EvRate := if exact then ⟨false, 0, 0, []⟩ else rateEvent x1 x1.rate p k cs
  let js := mkJobs s c p k e cs pr
  let ev : Ev := { key := k, emerg := e.emerg, alloc := e.alloc, qp := e.qp, left := js.length }
  let p1 := { p with
    fired := k + 1, compl := p.compl ++ [sumN cs], evs := p.evs ++ [ev], committed := p.committed + e.alloc
    emergFrom := if p.emergFrom.isNone && e.emerg then some k else p.emergFrom
    qpSum := if e.emerg || exact then p.qpSum else p.qpSum + e.qp
    qpCnt := if e.emerg || exact then p.qpCnt else p.qpCnt + 1 }
  let r1 := if e.emerg || p.demoted || exact then x1.rate else { x1.rate with qpPrev := e.qp }
  let r2 := if k + 1 = nr ∧ p.demoted = false then
      (if p.isP then { r1 with chatP := p1.compl } else { r1 with chatI := p1.compl }) else r1
  let x2 := updPic { x1 with rate := r2 } p.id fun _ => p1
  evG 0x103 (setCtx { s with jobs := s.jobs ++ js, nextId := s.nextId + js.length } c x2)

/-- The end of the last job of an event (R175, R224). -/
def chargeEvent (s : State) (x : Ctx) (p : Pic) (e : Ev) : Ctx × Pic :=
  let n := if e.lost then e.alloc else e.bytes
  let x1 := if hasBeta x p then betaSub s x n else x
  let p1 := { p with committed := p.committed - e.alloc, spent := p.spent + n }
  if e.emerg || e.lost || p.demoted || e.cOk == 0 || Ct.mode p.cfg == 2 || Ct.mode p.cfg == 3 then (x1, p1)
  else
    let obs : Int := (e.bytesOk * qsOf e.qp * 1024 / e.cOk : Nat)
    let upd := fun (m : Nat) => (clip3 0 0xFFFFFFFF ((m : Int) + (obs - m) / 4)).toNat
    (({ x1 with rate := if p.isP then { x1.rate with mP := upd x1.rate.mP } else { x1.rate with mI := upd x1.rate.mI } }), p1)

/-- The next picture whose event may fire (R165): of a frame number, or the oldest with events left. Demoted pictures do
not hold up others. -/
def firePic (x : Ctx) (src : Nat) : Option Pic :=
  x.pics.find? fun p => p.src == src && decide (p.fired < (ctGeo x.block).nr 0) &&
    (p.demoted || (x.pics.filter fun q => q.id < p.id && !q.demoted).all fun q => decide ((ctGeo x.block).nr 0 ≤ q.fired))

/-- The lines of the picture's next event are in (R164, R166). -/
def eventReady (x : Ctx) (p : Pic) : Bool :=
  p.closed || (match x.frame with | some f => f.num == p.src && rowsIn x.block f.pkts p.fired | none => false)

/-- A picture's slot, type and first figures before its first event. -/
def startPic (s : State) (c : Nat) (x : Ctx) (p : Pic) : State :=
  let s1 := slotPic s c x p
  match getCtx s1 c with
  | some y => (match getPic y p.id with
    | some q => if q.begun then s1 else
        beginPic s1 c y { q with fifo := if y.kind = .admitted then y.adm.fifo else q.fifo }
    | none => s1)
  | none => s1

/-- Fire up to `n` events of a picture in key order. -/
def fireN : Nat → State → Nat → Nat → State
  | 0, s, _, _ => s
  | n + 1, s, c, id =>
    match getCtx s c with
    | some x => (match getPic x id with
      | some p => if p.fired < (ctGeo x.block).nr 0 then fireN n (fireEvent s c x p p.fired) c id else s
      | none => s)
    | none => s

/-- ROW_COMPLETE (R164, R166): the next event of the frame's picture fires; with a rotation of 90° or 270° all of them. -/
def rowComplete (c src : Nat) (s : State) : State :=
  match getCtx s c with
  | none => s
  | some x => match firePic x src with
    | none => s
    | some p =>
      if x.role == 3 || !eventReady x p then s
      else
        let s1 := if p.begun then s else startPic s c x p
        fireN (if rot90 x.block then (ctGeo x.block).nr 0 else 1) s1 c p.id

def execRowComplete (ctx frame : Nat) (s : State) : Out := act (rowComplete ctx frame) s

end Sys2Proof.Machine
end

