-- ==== Sys2Proof/Machine/Jobs.lean ====
section
/-! DEFINITION. Row jobs on tiles: row tickets (R342), job start (R211, R214), coding (R131–R133, R165, R176), the end of jobs
and their loss (R224, R225, R329), and units entering an egress FIFO (R167, R183, R318). -/
namespace Sys2Proof.Machine

/-! ## Tiles -/

/-- A tile can be given a job. -/
def tileReady (s : State) (t : Nat) : Bool :=
  (getTile s t).enabled && (getTile s t).patchLocked && takesWork s (tilePage t) && tileIdle s t

/-- The tile has no job any more: the boundary at which a committed snapshot of its page applies (R68). -/
def tileFree (s : State) (t : Nat) : State :=
  applySnaps (setTile s t { getTile s t with
    run := 0, job := none, kind := 0, ctx := 0x7FF, budget := none, used := 0, wait := none, stack := []
    reqP := false, reqH := false, reqA := false, reqB := false, reqAge := 0, stepping := false, poisonFlag := false, toFlag := false
    idleAt := s.tick }) fun n => n.page == tilePage t

/-! ## The fetch of microwords and op words (R212, R213, R215, R219) -/

/-- A request is pending (R221). -/
def reqPending (x : Tile) : Bool := x.reqP || x.reqH || x.reqA || x.reqB

/-- TCLK pass: the budget counts them, unless a WAIT with EXP = 1 of an encode job does not (R214), and a pending request
ages (R222). -/
def spend (x : Tile) (n : Nat) (counts : Bool) : Tile :=
  { x with used := if counts then x.used + n else x.used, reqAge := if reqPending x then x.reqAge + n else x.reqAge }

/-- The parity of every match register is right: even, which the spec does not state (assumption 66). -/
def matchOk (x : Tile) : Bool := x.mtch.all fun e => parityOk false 32 e.2.toNat

/-- The match register that redirects ROM address `a`: the lowest-numbered valid one (R219), in the layout of R396. -/
def matchAt (x : Tile) (a : Nat) : Option Nat :=
  ((List.range 32).find? fun i =>
    let m := (ngetD x.mtch i 0).toNat
    bits m 31 31 == 1 && bits m 15 0 == a).map fun i => 0x10000 + bits (ngetD x.mtch i 0).toNat 25 16

/-- Fetch from microaddress `a` next: a match redirects a ROM fetch, at one TCLK more (R215, R219). With a parity error in a
match register the fetch stays at `a`, where `fetchFault` finds it. -/
def goTo (x : Tile) (a : Nat) : Tile :=
  match if a < 0x10000 ∧ matchOk x = true then matchAt x a else none with
  | some p => spend { x with upc := p } 1 true
  | none => { x with upc := a }

/-- The op word's code has a routine (R213). -/
def opcOk (v : Nat) : Bool := (decide (1 ≤ v) && decide (v ≤ 0x18)) || v == 0x3F

/-- The machine check that fetching op word `a` raises: its parity (even, assumption 66), or a code without a routine. -/
def opFault (x : Tile) (a : Nat) : Option Nat :=
  let w := (ngetD x.tpr a 0).toNat
  if !parityOk false 64 w then some 3 else if !opcOk (bits w 63 58) then some 5 else none

/-- A 256-byte aligned HBM address of the partition that a context's data lies in, by a free value (R32, R229, R230). -/
def hbmFree (s : State) (c : Nat) (w : Nat) : Nat :=
  let mp := match getCtx s c with | some x => if x.kind = .admitted then x.adm.mp else 16 | none => 16
  mp * 2 ^ 36 + w % max 1 ((regionPcs s mp).length * pcBytes) / 256 * 256

/-- The input, reconstruction and reference addresses of a job's descriptor (R211), free values that the jobs of one picture share:
a decode job's slots and current picture lie in the context's buffers and its input in [IN_ADDR, IN_ADDR + IN_LEN), which of them is
not stated; an encode job's lie in its partition of HBM, where firmware put them. -/
def jobAddrs (s : State) (j : Job) : Nat × Nat × (Nat → Nat) :=
  let f := fun (i : Nat) => (Config.bufAddr j.ctx j.pic i).toNat
  match if j.dec then (getCtx s j.ctx).map (·.dec) else none with
  | some d =>
    let at_ := fun (i : Nat) => if d.slotBufs.isEmpty then hbmFree s j.ctx (f i) else (getIx d.slotBufs (f i % d.slotBufs.length) (0, 0)).2
    let n := (d.run.map fun r => leAt r.se 0x20 4).getD 0
    (if n = 0 then f 9 else (d.run.map fun r => leAt r.se 8 8).getD 0 + f (16 + j.key) % n, at_ 8, at_)
  | none => (hbmFree s j.ctx (f (4 + j.plane)), hbmFree s j.ctx (f 8), fun i => hbmFree s j.ctx (f i))

/-- The job descriptor (R211). The TPR start address and the buffers' HBM addresses are not stated: free values from
`k` on. -/
def jobDesc (j : Job) (entry w h depth ps refMask : Nat) (k : Nat) (ad : Nat × Nat × (Nat → Nat)) : List Nat :=
  let f := fun (i n : Nat) => (Config.freeWord (k + i)).toNat % 2 ^ n
  let buf := (j.buf.map (·.2)).getD 0
  [j.ctx + (if j.dec then 1 else 0) * 2 ^ 11 + f 0 10 * 2 ^ 15, entry + j.plane * 2 ^ 16 + j.seg * 2 ^ 18,
   j.row + w * 2 ^ 10 + h * 2 ^ 22 + depth * 2 ^ 28,
   j.qp + (if j.emerg then 128 else 0) + (j.limits.headD 0 % 2 ^ 24) * 2 ^ 8,
   buf % 2 ^ 36, buf / 2 ^ 36 + (if j.buf.isSome then ps else 0) * 2 ^ 28,
   ad.1 % 2 ^ 36, ad.1 / 2 ^ 36 % 2 ^ 28, ad.2.1 % 2 ^ 36, ad.2.1 / 2 ^ 36 % 2 ^ 28] ++
  ((List.range 4).map fun i => ad.2.2 i / 256 % 2 ^ 33 + (refMask / 2 ^ i % 2) * 2 ^ 33) ++ [j.budget, 0]

/-- Words a tile's program starts on: the descriptor at LW 0–15 (R211). -/
def storeFrom (m : NMap LW) (a : Nat) : List Nat → NMap LW
  | [] => m
  | w :: t => storeFrom (if w % 2 ^ 36 = 0 then ndel m a else nset m a (BitVec.ofNat 36 w)) (a + 1) t

/-- The tile a bulk ticket names (R184): the lowest idle ungated bulk-pool tile, else the lowest gated one while fewer
than PWR_BULK_TILES are ungated. -/
def bulkPick (s : State) : Option Nat :=
  let all := (List.range 104).filter (bulkTile s)
  let idle := all.filter (tileReady s)
  match idle.filter fun t => (getTile s t).ungated with
  | t :: _ => some t
  | [] => if (all.filter fun t => (getTile s t).ungated).length < rbits s pwrPg 0 0x108 6 0 then idle.head? else none

/-! ## Losing a job (R224) -/

/-- Unstated samples of a rectangle. -/
def freeRect (s : State) (w h d : Nat) : List (List Nat) × State :=
  ((List.range h).map fun y => (List.range w).map fun x => (Config.freeWord (s.freeCtr + y * w + x)).toNat % 2 ^ d,
   { s with freeCtr := s.freeCtr + w * h })

/-- Put a picture's reconstruction together from its segments. -/
def gatherRecon (b : List Byte) (p : Pic) : PicBuf :=
  let g := ctGeo b
  (List.range g.planes).map fun q =>
    (p.segs.filter fun t => t.plane == q).foldl (fun pl t => putRect pl (g.x0 t.seg) (32 * t.row) t.recon)
      (List.replicate (g.ph q) (List.replicate (g.pw q) 0))

/-- The content of a reference slot: one that lost its picture to an aborted job (R224) holds samples that nothing states. -/
def slotContent (x : Ctx) (b : List Byte) (i : Nat) : PicBuf :=
  let l := getIx x.slots i {}
  if l.valid then l.pic
  else
    let g := ctGeo b
    (List.range g.planes).map fun q => (List.range (g.ph q)).map fun y => (List.range (g.pw q)).map fun v =>
      (Config.lostSample l.tag q y v).toNat % 2 ^ g.depth

/-- The reference pictures of a P picture by slot. -/
def refPics (x : Ctx) (p : Pic) : List PicBuf := (maskSlots p.refMask).map (slotContent x p.cfg)

/-- A picture is counted in its context's statistics (R184). -/
def countPic (x : Ctx) (n : Nat) : Ctx := { x with stats := { x.stats with pics := x.stats.pics + 1, bytes := x.stats.bytes + n } }

/-- Segment outputs of a job are counted in the statistics (R184): the EMERG and raw ones, and the others by their QP. -/
def countSegs (x : Ctx) (qp : Nat) (outs : List SegOut) : Ctx :=
  let n := (outs.filter fun o => !o.emerg && !o.raw && o.unit.isSome).length
  { x with stats := { x.stats with
      emerg := x.stats.emerg + (outs.filter (·.emerg)).length, raw := x.stats.raw + (outs.filter (·.raw)).length
      qp := if n = 0 then x.stats.qp else nset x.stats.qp qp (ngetD x.stats.qp qp 0 + n) } }

/-- A coded picture is stored in its slot, and its vectors are those of the previous picture (R93, R133, R170). One that lost a
job never becomes a reference: its slot is left empty (R224). -/
def storePic (x : Ctx) (p : Pic) : Ctx :=
  let y :=
    if 4 ≤ p.storeSlot then x
    else if p.evs.any (·.lost) then
      { x with slots := x.slots.set p.storeSlot { getIx x.slots p.storeSlot {} with valid := false } }
    else
      let pic := if Ct.mode p.cfg = 4 then Config.hevcRecon p.cfg (refPics x p) (p.segs.map fun t => t.unit.getD [])
        else gatherRecon p.cfg p
      { x with slots := x.slots.set p.storeSlot { getIx x.slots p.storeSlot {} with pic := pic }, stored := some p.storeSlot }
  { y with coloc := if p.isP then picMvs p else [] }

/-- A picture whose jobs have all ended: its bulk slot is free, it is counted, and stored. -/
def picCoded (s : State) (c : Nat) (id : Nat) : State :=
  match getCtx s c with
  | none => s
  | some x => match getPic x id with
    | none => s
    | some p =>
      if !codedDone x.block p then s
      else
        let n := picTotal p
        let x1 := countPic (if hasBeta x p then betaSub s x (wideExtra p (n - 8)) else x) n
        let s1 := setCtx { s with bulkSlots := s.bulkSlots.filter fun e => e.2 != (c, id) } c x1
        if p.demoted then s1 else setCtx s1 c (storePic x1 p)

/-- A job of an event has ended with these segment outputs: the event is counted, and charged with its last job (R175). -/
def jobOut (s : State) (c : Nat) (x : Ctx) (p : Pic) (j : Job) (outs : List SegOut) (lost : Bool) : State :=
  let n := sumN (outs.map fun o => (o.unit.map (·.length)).getD 0)
  let ok := (outs.zip j.css).filter fun e => !e.1.emerg && e.1.unit.isSome
  let upd := fun (e : Ev) => if e.key = j.key then { e with
      left := e.left - 1, bytes := e.bytes + n, lost := e.lost || lost
      bytesOk := e.bytesOk + sumN (ok.map fun e => (e.1.unit.map (·.length)).getD 0)
      cOk := e.cOk + sumN (ok.map (·.2)) } else e
  let p1 := { p with
    segs := p.segs ++ outs, evs := p.evs.map upd
    rawSeen := p.rawSeen || outs.any (·.raw)
    firstEmerg := if outs.any (·.emerg) then some (match p.firstEmerg with | some k => min k j.key | none => j.key) else p.firstEmerg }
  let x1 := countSegs x j.qp outs
  let r := match p1.evs.find? fun e => e.key == j.key with
    | some e => if e.left = 0 then chargeEvent s x1 p1 e else (x1, p1)
    | none => (x1, p1)
  picCoded { setCtx s c (updPic r.1 p.id fun _ => r.2) with jobs := s.jobs.filter fun i => i.id != j.id } c p.id

/-- The segments a job covers with their rectangles: HEVC jobs stand for one. -/
def jobRects (p : Pic) (j : Job) : List ((Nat × Nat × Nat) × Nat × Nat) :=
  let g := ctGeo p.cfg
  (jobSegs p.cfg (j.plane, j.row, j.seg)).map fun t =>
    (t, if Ct.mode p.cfg = 4 then ((hevcRect p.cfg 0 t.2.1 t.2.2).2.2.1, (hevcRect p.cfg 0 t.2.1 t.2.2).2.2.2)
        else (g.sw t.1 t.2.2, g.sh t.1 t.2.1))

/-- The outputs of a lost job: no units, unstated reconstruction; the buffer was freed. -/
def lostOuts (s : State) (p : Pic) (j : Job) : List SegOut × State :=
  (jobRects p j).foldl (fun a e =>
    let r := freeRect a.2 e.2.1 e.2.2 (Ct.depth p.cfg)
    (a.1 ++ [{ plane := e.1.1, row := e.1.2.1, seg := e.1.2.2, unit := none, buf := none, emerg := false, raw := false
               recon := r.1 }], r.2)) ([], s)

/-! ## Coding a job -/

/-- Line y of a plane as the finished segments of the row above give it. -/
def upLine (g : Geo) (p : Pic) (plane row : Nat) : List Nat :=
  (List.range (g.ns plane)).flatMap fun i =>
    match p.segs.find? fun t => t.plane == plane && t.row + 1 == row && t.seg == i with
    | some t => (t.recon.getLast?).getD []
    | none => List.replicate (g.sw plane i) 0

/-- The coding environment of a segment of a picture. -/
def segEnv (x : Ctx) (p : Pic) (qp : Nat) (t : Nat × Nat × Nat) (done : List SegOut) : CEnv :=
  let b := p.cfg
  let g := ctGeo b
  let link := fun (q : Nat) => if Ct.codeFlags b % 2 = 1 ∧ 0 < t.2.1 then some (upLine g p q t.2.1) else none
  { mode := Ct.mode b, isP := p.isP, plane := t.1, cfa := g.layout == 5, depth := g.depth, errE := Ct.errE b, qp := qp
    refMask := p.refMask, w := g.sw t.1 t.2.2, h := g.sh t.1 t.2.1, xs := g.x0 t.2.2, ys := 32 * t.2.1
    pw := g.pw t.1, ph := g.ph t.1, up := link t.1
    cross := done.map fun o => (o.recon, link o.plane)
    refs := (List.range 4).map fun i =>
      if p.refMask / 2 ^ i % 2 = 1 then some (getIx (slotContent x b i) t.1 []) else none }

/-- The encoder's view of a segment. -/
def segEnc (x : Ctx) (p : Pic) (inp : PicBuf) (qp : Nat) (t : Nat × Nat × Nat) (done : List SegOut) : EEnv :=
  let b := p.cfg
  let c := segEnv x p qp t done
  let src := rectOf (getIx inp t.1 []) c.xs c.ys c.w c.h
  { c := c, src := src, chained := isChained b, lamK := Ct.lambdaK b, srchH := Ct.srchH b, srchV := Ct.srchV b
    coloc := colocOf x p t, l2 := c.refs.map fun r => r.map (decim 4), l1 := c.refs.map fun r => r.map (decim 2)
    s2 := decim 4 src, s1 := decim 2 src }

/-- Code one segment and wrap it in its unit (R95, R176). -/
def codeSeg (x : Ctx) (p : Pic) (inp : PicBuf) (j : Job) (done : List SegOut) (i : Nat) (t : Nat × Nat × Nat) : SegOut :=
  let qp := if Ct.mode p.cfg = 2 ∨ Ct.mode p.cfg = 3 then 0 else j.qp
  let e := segEnc x p inp qp t done
  let r := if j.emerg then emergSeg e.c else normalSeg e (if j.limits.isEmpty then none else some (getIx j.limits i 0))
  { plane := t.1, row := t.2.1, seg := t.2.2
    unit := some (sgUnit r.raw r.emerg qp t.1 t.2.2 t.2.1 (p.picNum.getD 0) r.body)
    buf := none, emerg := r.emerg, raw := r.raw, recon := r.recon, mvs := r.mvs }

/-- Code an HEVC job: its bytes, or the emergency form when they pass the limit (R182). -/
def codeHevc (x : Ctx) (p : Pic) (inp : PicBuf) (j : Job) : SegOut :=
  let b := p.cfg
  let src := (List.range (ctGeo b).planes).map fun q =>
    let r := hevcRect b q j.row j.seg
    rectOf (getIx inp q []) r.1 r.2.1 r.2.2.1 r.2.2.2
  let go := fun (em : Bool) => Config.hevcJob b src (refPics x p) (j.row, j.seg, j.qp, j.limits.headD 0, em)
  let a := go j.emerg
  let past := !j.emerg && !j.limits.isEmpty && decide (j.limits.headD 0 < a.length)
  { plane := 0, row := j.row, seg := j.seg, unit := some (if past then go true else a), buf := none
    emerg := j.emerg || past, raw := false, recon := [] }

/-- The outputs of a job; the last one holds its Granary buffer. -/
def codeJob (s : State) (x : Ctx) (p : Pic) (j : Job) : List SegOut :=
  let inp := picInput s x p
  let outs := if Ct.mode p.cfg = 4 then [codeHevc x p inp j]
    else
      let ts := jobSegs p.cfg (j.plane, j.row, j.seg)
      ((List.range ts.length).zip ts).foldl (fun done e => done ++ [codeSeg x p inp j done e.1 e.2]) []
  ((List.range outs.length).zip outs).map fun e => if e.1 + 1 = outs.length then { e.2 with buf := j.buf } else e.2

/-! ## The end of a job -/

/-- The picture of a job. -/
def jobPic (s : State) (j : Job) : Option (Ctx × Pic) :=
  (getCtx s j.ctx).bind fun x => (getPic x j.pic).map fun p => (x, p)

/-- The job's first unit is the next of its picture to enter the FIFO. -/
def unitNext (p : Pic) (j : Job) : Bool :=
  let pre := if Ct.mode p.cfg = 4 then 1 else if p.sh then 2 else 1
  p.picNum.isSome && !p.demoted && (canonSegs p.cfg)[p.entered - pre]? == some (j.plane, j.row, j.seg) && decide (pre ≤ p.entered)

/-- A job ends without its whole output (R224): nothing of its unit had entered the FIFO, or a free number of its bytes had
and the unit is filled and closed by the trailer; an HEVC unit ends there (R329). Cause 0 is an abort. -/
def loseJob (s : State) (j : Job) (cause : Nat) : State :=
  let s0 := { s with jobs := s.jobs.filter fun i => i.id != j.id }
  if j.dec then
    match getCtx s0 j.ctx with
    | some x => (match x.dec.run with
      | some r => setCtx s0 j.ctx { x with dec := { x.dec with run := some { r with left := r.left - 1, aborted := true } } }
      | none => s0)
    | none => s0
  else match jobPic s0 j with
    | none => freeBuf s0 j.ctx j.buf
    | some (x, p) =>
      let p1 := { p with aborted := p.aborted || cause == 0, cause := if p.cause = 0 then cause else p.cause }
      let x1 := { x with forceI := x.forceI || (interCtx p.cfg && !p.demoted) }
      let f := fresh s0
      let l := lostOuts f.2 p j
      let cut := if unitNext p j && refsReady x p && (Config.freeWord f.1).getLsbD 0 then
          ((codeJob s0 x p j).head?.bind (·.unit)).map fun u =>
            (u, (Config.freeWord l.2.freeCtr).toNat % (u.length + 1))
        else none
      match cut, l.1 with
      | some (u, n), o :: t =>
        if n = 0 then jobOut (freeBuf l.2 j.ctx j.buf) j.ctx x1 p1 j l.1 true
        else jobOut { l.2 with freeCtr := l.2.freeCtr + 1 } j.ctx x1 p1 j
          ({ o with unit := some (if Ct.mode p.cfg = 4 then u.take n else truncFill (u.take n) u.length), trunc := true, buf := j.buf } :: t) true
      | _, _ => jobOut (freeBuf l.2 j.ctx j.buf) j.ctx x1 p1 j l.1 true

/-- The job on a tile. -/
def tileJob (s : State) (t : Nat) : Option Job :=
  match (getTile s t).job with
  | some id => s.jobs.find? fun j => j.id == id
  | none => none

/-- The cause a lost job of this kind breaches with: TILE_MCHK for a guaranteed stream, else it ends as aborted (R225). -/
def lostCause (s : State) (j : Job) : Nat :=
  match jobPic s j with
  | some (x, p) => if x.kind = .admitted ∧ p.demoted = false then 2 else 0
  | none => 0

/-- A machine check (R225): the sequencer stops, the cause is recorded, TILE_MCHK is raised and the tile is fenced; its job
is lost. -/
def tileMchk (s : State) (t cause addr : Nat) : State :=
  let x := getTile s t
  let s1 := setEvt (setTile s t { x with
    mchk := cause % 256, mchkU := x.upc, mchkTs := if cause = 4 ∨ cause = 9 then addr % 2 ^ 19 else 0 }) (tilePage t) 1
  let s2 := fencePage (raiseFault s1 (tilePage t) 0 0) (tilePage t)
  let s3 := match tileJob s2 t with
    | some j => loseJob s2 j (lostCause s2 j)
    | none => s2
  setTile (tileFree s3 t) t { getTile (tileFree s3 t) t with run := 4 }

/-- Write a job's descriptor to a tile and start its program (R165, R211, R214). -/
def putJob (s : State) (t : Nat) (j : Job) (entry w h depth refMask : Nat) : State :=
  let k := s.freeCtr
  let ps := match j.buf with | some b => rbits s grnPg b.1 0x104 20 16 | none => 0
  let d := jobDesc j entry w h depth ps refMask k (jobAddrs s j)
  let x := getTile s t
  let y := { x with
    run := 1, job := some j.id, kind := if j.dec then 1 else 0, ctx := j.ctx, used := 0, budget := some j.budget
    store := storeFrom x.store 0 d, poison := x.poison.filter fun a => 16 ≤ a
    opaddr := (Config.freeWord k).toNat % 1024
    stack := [], wait := none, poisonFlag := false, toFlag := false, ungated := !tileHeld s t }
  let s1 := setTile { s with freeCtr := k + 10 } t (goTo y ((Config.freeWord (k + 9)).toNat % 2 ^ 17))
  evG 0x102 { s1 with jobs := s1.jobs.map fun i => if i.id = j.id then { j with tile := some t } else i }

/-- Start a job on a tile: a first op word that its parity or code refuses is a machine check (R212, R225). -/
def startJob (s : State) (t : Nat) (j : Job) (entry w h depth refMask : Nat) : State :=
  let s1 := putJob s t j entry w h depth refMask
  match opFault (getTile s1 t) (getTile s1 t).opaddr with
  | some c => tileMchk s1 t c 0
  | none => s1

/-- A reset ends the job on a tile at once (R225). -/
def tileDropJob (s : State) (t : Nat) : State :=
  let s1 := match tileJob s t with
    | some j => loseJob s j (lostCause s j)
    | none => s
  tileFree s1 t

/-- The tile met poison during the job (R210): a guaranteed frame is reported under MEM_UE. -/
def poisonMark (s : State) (t : Nat) (x : Ctx) (p : Pic) : Pic :=
  if (getTile s t).poisonFlag ∧ p.cause = 0 ∧ x.kind = .admitted ∧ p.demoted = false then { p with cause := 1 } else p

/-- JOB_END (R133, R165, R175, R194): the job's unit goes to its buffer, its tile and tag are free. A P picture's job ends
once its references are whole. -/
def jobEnd (id : Nat) (s : State) : State :=
  match s.jobs.find? fun j => j.id == id with
  | none => s
  | some j => match j.tile with
    | none => s
    | some t =>
      if (getTile s t).run ≠ 1 ∨ (getTile s t).job ≠ some id ∨ blockUp s (tilePage t) = false then s
      else
        let done := fun (s : State) => evT t 0x00B (setEvt (tileFree s t) (tilePage t) 0)
        if j.dec then
          match getCtx s j.ctx with
          | some x =>
            let s1 := { s with jobs := s.jobs.filter fun i => i.id != id }
            done (match x.dec.run with
              | some r => setCtx s1 j.ctx { x with dec := { x.dec with run := some { r with left := r.left - 1 } } }
              | none => s1)
          | none => done { s with jobs := s.jobs.filter fun i => i.id != id }
        else match jobPic s j with
          | none => done (freeBuf { s with jobs := s.jobs.filter fun i => i.id != id } j.ctx j.buf)
          | some (x, p) =>
            if p.isP && !refsReady x p then s
            else
              let outs := codeJob s x p j
              let bytes := outs.flatMap fun o => o.unit.getD []
              match j.buf with
              | some (pool, a) =>
                if poolSize s pool < bytes.length then tileMchk s t 0x0A 0
                else done (perfEvt (some t) 0x00F (outs.filter (·.emerg)).length <| jobOut (writeLoc s (poolLoc s pool) a bytes false) j.ctx x (poisonMark s t x p) j outs false)
              | none => done (jobOut s j.ctx x (poisonMark s t x p) j outs false)

/-! ## Row tickets (R341, R342) -/

/-- The jobs this job depends on have ended (R166, R194): every one was released earlier. In WPP form the row above need only
have coded its first two CTUs (R182), which its tile does after a time that the spec does not state (assumption 27). -/
def depsDone (s : State) (b : List Byte) (j : Job) : Bool :=
  if j.dec then !s.jobs.any fun i => i.dec && i.ctx == j.ctx && i.pic == j.pic && j.deps.contains i.key else
  let mine := s.jobs.filter fun i => i.ctx == j.ctx && i.pic == j.pic && i.dec == j.dec && i.id != j.id
  let cols := if Ct.mode b = 4 then [j.seg] else if Ct.codeFlags b % 2 = 1 then [j.seg - 1, j.seg, j.seg + 1] else []
  mine.all fun i => !(i.plane == j.plane && i.row + 1 == j.row && cols.contains i.seg) ||
    (Ct.mode b == 4 && wpp b && i.tile.any fun t => Config.hevcTwoCtus b i.row (getTile s t).used)

/-- The guaranteed jobs of a context on tiles: a demoted picture's jobs are bulk work and delay no guaranteed one (R180). -/
def guarOnTiles (s : State) (c : Nat) (x : Ctx) : Nat :=
  (s.jobs.filter fun j => j.ctx == c && j.tile.isSome && (getPic x j.pic).any fun p => !p.bulk).length

/-- Egress places in use by guaranteed pictures: jobs on tiles and outputs not yet entered (R342). -/
def placesUsed (s : State) (c : Nat) (x : Ctx) : Nat :=
  guarOnTiles s c x + sumN ((x.pics.filter fun p => !p.bulk).map fun p => (p.segs.filter fun o => o.buf.isSome).length)

/-- The lowest-numbered idle tile of a reservation (R165). -/
def idleTile (s : State) (tiles : List Nat) : Option Nat := (List.range 104).find? fun t => tiles.contains t && tileReady s t

/-- The size figures of a job's descriptor. -/
def startEnc (s : State) (t : Nat) (p : Pic) (j : Job) : State :=
  let r := ((jobRects p j).head?.map (·.2)).getD (0, 0)
  startJob s t j (entryOf p.cfg) r.1 r.2 (Ct.depth p.cfg) p.refMask

/-- The ticket of the guaranteed job at the head of a context's order (R165, R342). -/
def guarTicket (c : Nat) (s : State) : State :=
  match getCtx s c with
  | none => s
  | some x =>
    match s.jobs.find? fun j => j.ctx == c && j.tile.isNone && !j.dec && ((getPic x j.pic).any fun p => !p.bulk) with
    | none => s
    | some j => match getPic x j.pic, idleTile s x.adm.tiles with
      | some p, some t =>
        if depsDone s p.cfg j && decide (guarOnTiles s c x < x.adm.tiles.length) &&
            decide (placesUsed s c x < x.adm.grnMin) then
          match grnAlloc s (Ct.pool x.block) c with
          | some (a, s1) => startEnc s1 t p { j with buf := some (Ct.pool x.block, a) }
          | none => s
        else s
      | _, _ => s

/-- GRN_WAIT_TMO has expired since a bulk job first met EMPTY (R259, R342). -/
def bulkOverdue (s : State) (j : Job) : Bool :=
  let tmo := rbits s grnPg 0 0x120 23 0
  tmo != 0 && (match j.emptyAt with | some at_ => decide (tmo * 100 ≤ s.tick - at_) | none => false)

/-- A bulk job that met EMPTY for GRN_WAIT_TMO completes its picture OUT_OF_BUFFERS (R259, R342). -/
def bulkEmpty (s : State) (x : Ctx) (p : Pic) (j : Job) : State :=
  let l := lostOuts s p j
  jobOut l.2 j.ctx { x with forceI := x.forceI || interCtx p.cfg } { p with noBuf := true } j l.1 true

/-- The ticket of the bulk job at the head of the order across slots (R184, R342). -/
def bulkTicket (s : State) : State :=
  match s.jobs.find? fun j => j.tile.isNone && (j.dec || ((jobPic s j).any fun e => e.2.bulk)) with
  | none => s
  | some j => match bulkPick s with
    | none => s
    | some t =>
      if j.dec then
        match getCtx s j.ctx with
        | some x =>
          if depsDone s x.block j then
            let k := fresh s
            startJob k.2 t j ((Config.freeWord k.1).toNat % 65536) j.jw j.jh j.depth j.refMask
          else s
        | none => s
      else match jobPic s j with
        | some (x, p) =>
          if !depsDone s p.cfg j || !poolUp (getPool s (Ct.pool x.block)) || !blockUp s grnPg then s
          else if bulkOverdue s j then bulkEmpty s x p j
          else match grnAlloc s (Ct.pool x.block) j.ctx with
            | some (a, s1) => startEnc s1 t p { j with buf := some (Ct.pool x.block, a) }
            | none => { s with jobs := s.jobs.map fun i =>
                if i.id = j.id then { i with emptyAt := some (i.emptyAt.getD s.tick) } else i }
        | none => { s with jobs := s.jobs.filter fun i => i.id != j.id }

def execRowTicket (bulk : Bool) (ctx : Nat) (s : State) : Out := act (if bulk then bulkTicket else guarTicket ctx) s
def execJobEnd (job : Nat) (s : State) : Out := act (jobEnd job) s

/-! ## Units enter the FIFO (R104, R167, R183, R318) -/

/-- A unit about to enter: its bytes, buffer, and whether it was truncated. -/
structure NextUnit where
  bytes : List Byte
  buf : Option (Nat × Nat)
  trunc : Bool
  seg : Option (Nat × Nat × Nat)
  deriving DecidableEq, Repr

/-- Units of a picture. -/
def unitCount (p : Pic) : Nat :=
  if Ct.mode p.cfg = 4 then 1 + (canonSegs p.cfg).length else (if p.sh then 1 else 0) + 2 + (canonSegs p.cfg).length

/-- The picture's next unit: none while its job has not ended, and none while its capture instant, which its PH and its RTP
timestamps carry, is not known (R91, R106); `bytes` empty where its job was lost (R224). -/
def nextUnit (p : Pic) : Option NextUnit :=
  if (capNow p).isNone then none else
  let b := p.cfg
  let num := p.picNum.getD 0
  let seg := fun (i : Nat) => match (canonSegs b)[i]? with
    | some t => (p.segs.find? fun o => (o.plane, o.row, o.seg) == t).map fun o =>
        (⟨o.unit.getD [], o.buf, o.trunc, some t⟩ : NextUnit)
    | none => none
  let plain := fun (l : List Byte) => some (⟨l, none, false, none⟩ : NextUnit)
  let cap := (capNow p).getD (0, 0)
  let ph := phUnit num p.src cap.1 cap.2 p.isP p.flush
    (Ct.timeSrc b == 1 && Ct.source b == 0) p.demoted p.refMask p.storeSlot p.refTags (canonSegs b).length
  if Ct.mode b = 4 then
    if p.entered = 0 then plain (Config.hevcHeader b num p.flush) else seg (p.entered - 1)
  else
    let pre := if p.sh then 2 else 1
    if p.sh = true ∧ p.entered = 0 then plain (shUnit b)
    else if p.entered < pre then plain ph
    else if p.entered + 1 < unitCount p then seg (p.entered - pre)
    else plain (peUnit num p.bytesOut)

/-- Skip the units of lost jobs (R224). -/
def skipLost : Nat → Pic → Pic
  | 0, p => p
  | n + 1, p =>
    match nextUnit p with
    | some u => if u.bytes.isEmpty && u.seg.isSome then skipLost n { p with entered := p.entered + 1 } else p
    | none => p

/-- The flow of a context's units: its contract's, or the lowest VALID bulk flow that names a bulk context (R318). -/
def flowOf (s : State) (c : Nat) (x : Ctx) : Option Nat :=
  if x.kind = .admitted then some (Ct.flow x.block)
  else (List.range 4096).find? fun f =>
    let b := flowBytes s f
    Fl.valid b && !Fl.guar b && Fl.ctx b == c

/-- The 90 kHz media clock of a capture instant (R106). -/
def rtpTs (capNs : Nat) : Nat := capNs * 9 / 100000 % 2 ^ 32

/-- Append a unit to a flow; a flow or service that wakes takes its tag from the packet then at its head (R323). -/
def pushUnit (s : State) (f : Nat) (u : EgUnit) : State :=
  let x := getFlow s f
  evG 0x104 <| tagAll (setFlow (fifoPush s u.fifo u.bytes) f { x with units := x.units ++ [u] }) (Fl.port (flowBytes s f))

/-- The egress FIFO has no room for a unit: its producer stalls (R268). -/
def unitStall (s : State) (f n : Nat) : State := if fifoOn s f then fifoStall s f (cdiv n 4) else s

/-- The picture whose units enter next: the numbered one with the oldest PIC_NUM not wholly entered (R167, R180). -/
def enterPic (x : Ctx) : Option Pic :=
  (x.pics.filter fun p => p.picNum.isSome && decide (p.entered < unitCount p)).foldl (fun (a : Option Pic) p =>
    match a with
    | none => some p
    | some q => if (x.picNum + 2 ^ 32 - q.picNum.getD 0) % 2 ^ 32 < (x.picNum + 2 ^ 32 - p.picNum.getD 0) % 2 ^ 32 then some p
        else some q) none

/-- The stream end unit of a context whose pictures have all been handed over (R104). DESIGN CHOICE (assumption 68): the RTP
timestamp of its packet is 0, for which R106 names no picture. -/
def seEnter (s : State) (c : Nat) (x : Ctx) (fifo : Nat) : State :=
  let last := (x.picNum + 2 ^ 32 - 1) % 2 ^ 32
  let bytes := seUnit last
  match flowOf s c x with
  | none => releaseCheck (setCtx (bump s schedPg 0 0x114 1) c { x with strm := false }) c
  | some f =>
    if !fifoFits s fifo bytes.length then unitStall s fifo bytes.length
    else
      pushUnit (setCtx s c { x with strm := false }) f
        { ctx := c, pic := s.nextId, num := last, ts := 0, bytes := bytes, first := true, last := false, buf := none
          fifo := fifo, at_ := s.dt, se := true }

/-- A unit of a sensor-fed contract is copied to the Island as it enters the FIFO (R374, R377). -/
def tapUnitCopy (s : State) (c : Nat) (x : Ctx) (p : Pic) (u : List Byte) (last : Bool) : State :=
  if x.kind = .admitted ∧ Ct.source x.block = 0 then
    { s with unitTaps := s.unitTaps ++ [⟨c, p.picNum.getD 0, p.src, u, last, Ct.ports x.block⟩] }
  else s

/-- Put a unit of a picture into its flow, or discard it where no flow names the bulk context (R318). -/
def enterUnit (s : State) (c : Nat) (x : Ctx) (p : Pic) (u : NextUnit) : State :=
  let lastU := decide (p.entered + 1 = unitCount p)
  let p1 := { p with
    entered := p.entered + 1, bytesOut := p.bytesOut + u.bytes.length
    segs := match u.seg with
      | some t => p.segs.map fun o => if (o.plane, o.row, o.seg) = t then { o with buf := none } else o
      | none => p.segs }
  let y := updPic x p.id fun _ => p1
  match flowOf s c x with
  | none =>
    let s1 := freeBuf (bump (setCtx s c y) schedPg 0 0x114 1) c u.buf
    if lastU then finishPic (withPic s1 c p.id fun q => { q with tData := some s.dt }) c p.id else s1
  | some f =>
    if !fifoFits s p.fifo u.bytes.length then unitStall s p.fifo u.bytes.length
    else
      pushUnit (tapUnitCopy (setCtx s c y) c x p u.bytes lastU) f
        { ctx := c, pic := p.id, num := p.picNum.getD 0, ts := rtpTs ((capNow p).getD (0, 0)).1, bytes := u.bytes, first := p.entered == 0
          last := lastU, buf := u.buf, fifo := p.fifo, at_ := s.dt, acs := Ct.mode p.cfg != 4, trunc := u.trunc }

/-- A picture whose last job was lost ends with the unit before it (R224, R316, R319): where that one still waits or is being
sent, it becomes the last; else the picture ends now, with the status block of its ring. -/
def endLost (s : State) (c : Nat) (x : Ctx) (p : Pic) : State :=
  let mine := fun (u : EgUnit) => u.ctx == c && u.pic == p.id
  let mark := fun (us : List EgUnit) => match us.reverse with
    | u :: t => if mine u then (t.reverse ++ [{ u with last := true }]) else us
    | [] => us
  match flowOf s c x with
  | none => finishPic (withPic s c p.id fun q => { q with tData := some s.dt }) c p.id
  | some f =>
    let y := getFlow s f
    let port := Fl.port (flowBytes s f)
    let e := getPort s port
    if y.units.any mine then setFlow s f { y with units := mark y.units }
    else if e.cur.any fun k => k.flow == f && (k.done.getLast?.any mine) then
      setPort s port { e with cur := e.cur.map fun k => { k with done := mark k.done } }
    else
      let s1 := if port = 2 ∨ port = 7 then ringEnd s (Fl.ring (flowBytes s f)) (p.picNum.getD 0) else s
      finishPic (withPic s1 c p.id fun q => { q with tData := some s.dt }) c p.id

/-- UNIT_ENTER_FIFO (R167): the next unit in canonical order, or the stream end after the last picture of a released
context. -/
def unitEnter (c : Nat) (s : State) : State :=
  match getCtx s c with
  | none => s
  | some x =>
    if !blockUp s fifoPg then s
    else match enterPic x with
      | some p0 =>
        let cap := capOf s x p0.cfg p0
        let s := cap.2
        let p := skipLost (unitCount p0) cap.1
        let y := updPic x p.id fun _ => p
        (match nextUnit p with
         | some u => enterUnit s c y p u
         | none =>
           if unitCount p ≤ p.entered then endLost (setCtx s c y) c y p else setCtx s c y)
      | none =>
        if x.kind = .admitted ∧ x.rel = 2 ∧ x.pics.isEmpty = true ∧ x.encQ.isEmpty = true ∧ seDue x = true then
          seEnter s c x x.adm.fifo
        else s

/-! ## Demoted pictures (R180) -/

/-- A unit of a picture with its PIC_TAG set to a number (R95). -/
def retag (num : Nat) (u : List Byte) : List Byte :=
  let h := u.take 10 ++ toBE 2 (num % 65536)
  h ++ toBE 4 (crc32c (h ++ u.drop 16)) ++ u.drop 16

/-- The oldest demoted picture still waiting. -/
def waitingDemoted (x : Ctx) : Option Pic := x.pics.find? fun p => p.demoted && p.picNum.isNone

/-- DEMOTED_PICTURE_EMIT (R180): between two pictures and once β covers its units, it takes its PIC_NUM and β is charged;
its units then enter in order. -/
def demotedEmit (c : Nat) (s : State) : State :=
  match getCtx s c with
  | none => s
  | some x => match waitingDemoted x with
    | none => s
    | some p =>
      let p1 := { p with
        sh := Ct.mode p.cfg != 4 && (p.flush || !x.strm), cfg := if x.strm then withSid x p.cfg else p.cfg }
      let n := picTotal p1
      let between := x.pics.all fun q => !q.begun || q.id == p.id || q.picNum.isNone || decide (unitCount q ≤ q.entered)
      if !codedDone x.block p || !between || decide ((betaNow s x).beta < (n * 1000000 : Nat)) then s
      else
        let y := betaSub s x n
        setCtx s c (updPic { y with picNum := (x.picNum + 1) % 2 ^ 32, strm := true, sid := Ct.streamId p1.cfg } p.id fun _ => { p1 with
          picNum := some x.picNum, fifo := x.adm.fifo
          segs := if Ct.mode p.cfg = 4 then p.segs else p.segs.map fun o => { o with unit := o.unit.map (retag x.picNum) } })

/-- DEMOTED_PICTURE_DISCARD (R180): still waiting when the next frame has been pending for PERIOD. -/
def demotedDiscard (c : Nat) (s : State) : State :=
  match getCtx s c with
  | none => s
  | some x => match waitingDemoted x with
    | none => s
    | some p =>
      if x.pics.any fun q => decide (p.id < q.id) && decide (q.at_ + Ct.period x.block ≤ s.dt) then
        let s1 := p.segs.foldl (fun s o => freeBuf s c o.buf) s
        endPic (dropJobs s1 c p.id) c p.id (0x0F, 0)
      else if x.rel = 2 ∧ x.pics.all (fun q => q.id == p.id || decide (q.id < p.id)) = true ∧ p.at_ + Ct.period x.block ≤ s.dt then
        let s1 := p.segs.foldl (fun s o => freeBuf s c o.buf) s
        endPic (dropJobs s1 c p.id) c p.id (0x0F, 0)
      else s

def execDemotedPictureEmit (ctx : Nat) (s : State) : Out := act (demotedEmit ctx) s
def execDemotedPictureDiscard (ctx : Nat) (s : State) : Out := act (demotedDiscard ctx) s

end Sys2Proof.Machine
end

