-- ==== Sys2Proof/Machine/Decoder.lean ====
section
/-! DEFINITION. Decoding (R191–R204): the parser (R80–R105), the checks of a picture (R92, R193, R200), its jobs (R194, R195),
concealment (R198, R199), the outcome, the bitmap and the output window (R197, R201, R202). -/
namespace Sys2Proof.Machine

/-! ## Unit fields (R80, R83, R89, R95) -/

namespace Sh
def layout (u : List Byte) : Nat := byteAt u 5
def phase (u : List Byte) : Nat := byteAt u 6
def depth (u : List Byte) : Nat := byteAt u 7
def width (u : List Byte) : Nat := beAt u 8 2
def height (u : List Byte) : Nat := beAt u 0xA 2
def segW (u : List Byte) : Nat := byteAt u 0xC
def mode (u : List Byte) : Nat := byteAt u 0xD
def errE (u : List Byte) : Nat := beAt u 0xE 2
def nref (u : List Byte) : Nat := byteAt u 0x10
def rowLink (u : List Byte) : Bool := byteAt u 0x11 % 2 == 1
def geo (u : List Byte) : Geo := ⟨layout u, width u, height u, segW u, depth u⟩
/-- Every field lies in its range (R83, R84); reserved bits are ignored (R79). -/
def ok (u : List Byte) : Bool :=
  byteAt u 4 == 1 && decide (layout u ≤ 5) && (layout u == 5 || phase u == 0) && decide (8 ≤ depth u) &&
    decide (depth u ≤ 18) && decide (16 ≤ width u) && decide (width u ≤ 32768) && decide (16 ≤ height u) &&
    decide (height u ≤ 24576) && decide (segW u ≤ 3) && decide (mode u ≤ 3) &&
    (if mode u = 2 then decide (1 ≤ errE u) && decide (errE u ≤ 1023) else errE u == 0) &&
    (if mode u = 1 then decide (1 ≤ nref u) && decide (nref u ≤ 4) else nref u == 0)
end Sh

namespace Ph
def num (u : List Byte) : Nat := beAt u 4 4
def src (u : List Byte) : Nat := beAt u 8 4
def type (u : List Byte) : Nat := byteAt u 0x16
def flush (u : List Byte) : Bool := byteAt u 0x17 % 2 == 1
def mask (u : List Byte) : Nat := byteAt u 0x18 % 16
def store (u : List Byte) : Nat := byteAt u 0x19
def tag (u : List Byte) (i : Nat) : Nat := beAt u (0x1C + 2 * i) 2
end Ph

namespace Sg
def len (u : List Byte) : Nat := beAt u 1 3
def raw (u : List Byte) : Bool := decide (128 ≤ byteAt u 4)
def qp (u : List Byte) : Nat := byteAt u 5 % 128
def plane (u : List Byte) : Nat := byteAt u 6
def seg (u : List Byte) : Nat := byteAt u 7
def row (u : List Byte) : Nat := beAt u 8 2
def tag (u : List Byte) : Nat := beAt u 0xA 2
def body (u : List Byte) : List Byte := (u.drop 16).take (len u)
end Sg

/-! Decode block fields (R191). -/
namespace Db
def format (b : List Byte) : Nat := byteAt b 0
def planes (b : List Byte) : Nat := byteAt b 1
def depth (b : List Byte) : Nat := byteAt b 2
def nref (b : List Byte) : Nat := byteAt b 3
def w (b : List Byte) : Nat := leAt b 4 2
def h (b : List Byte) : Nat := leAt b 6 2
def slotPool (b : List Byte) : Nat := byteAt b 8
def ingPool (b : List Byte) : Nat := byteAt b 9
def ingDepth (b : List Byte) : Nat := byteAt b 0xA
def ingPort (b : List Byte) : Nat := byteAt b 0xB
def ingUdp (b : List Byte) : Nat := leAt b 0xC 2
def ingPt (b : List Byte) : Nat := byteAt b 0xE
def ingFlags (b : List Byte) : Nat := byteAt b 0xF
def ingAddr (b : List Byte) : List Byte := (b.drop 0x10).take 16
def ingSsrc (b : List Byte) : Nat := leAt b 0x20 4
def cir (b : List Byte) : Nat := leAt b 0x24 4
def pir (b : List Byte) : Nat := leAt b 0x28 4
def cbs (b : List Byte) : Nat := leAt b 0x2C 4
def pbs (b : List Byte) : Nat := leAt b 0x30 4
def picTmo (b : List Byte) : Nat := leAt b 0x34 4
def dscp (b : List Byte) (i : Nat) : Nat := byteAt b (0x38 + i / 4) / 4 ^ (i % 4) % 4
end Db

/-! ## Units and resynchronisation (R80, R82, R105) -/

/-- A unit's whole length by its prefix (R80). -/
def unitLen (b : List Byte) : Nat :=
  beAt b 1 3 + (match byteAt b 0 with
    | 0xA1 => 48
    | 0xA2 => 44
    | 0xA3 => 16
    | 0xA4 => 16
    | 0xA5 => 8
    | _ => 4)

/-- The byte is a unit type. -/
def isType (v : Nat) : Bool := decide (0xA1 ≤ v) && decide (v ≤ 0xAF)

/-- The unit at the head of the input is there and its CRC verifies; units without a CRC need only be there (R82). -/
def unitOk (b : List Byte) : Bool :=
  let n := unitLen b
  match byteAt b 0 with
  | 0xA1 => decide (48 ≤ b.length) && crc32c (b.take 44) == beAt b 44 4
  | 0xA2 => decide (44 ≤ b.length) && crc32c (b.take 40) == beAt b 40 4
  | 0xA3 => decide (n ≤ b.length) && crc32c (b.take 12 ++ (b.take n).drop 16) == beAt b 12 4
  | 0xA4 => decide (n ≤ b.length) && crc32c (b.take 12 ++ (b.take n).drop 16) == beAt b 12 4
  | 0xA5 => decide (8 ≤ b.length)
  | v => isType v && decide (4 ≤ b.length)

/-- The first position that holds an SH or a PH which verifies (R105). -/
def resync : List Byte → List Byte
  | [] => []
  | x :: t =>
    if (x == 0xA1 || x == 0xA2) && unitOk (x :: t) then x :: t else resync t

/-! ## The parser (R81, R194) -/

/-- The stream header lies within the context's maxima (R191, R200). -/
def shFits (b u : List Byte) : Bool :=
  Sh.ok u && decide (nPlanes (Sh.layout u) ≤ Db.planes b) && decide (Sh.depth u ≤ Db.depth b) &&
    decide (Sh.width u ≤ Db.w b) && decide (Sh.height u ≤ Db.h b)

/-- Two stream headers have the same geometry (R199): layout, depth and dimensions. -/
def sameGeo (u v : List Byte) : Bool :=
  Sh.layout u == Sh.layout v && Sh.depth u == Sh.depth v && Sh.width u == Sh.width v && Sh.height u == Sh.height v

/-- An SH between pictures (R81, R200): it repeats the stream's first SH, or starts a new stream after a stream end, which
invalidates the slots and clears a previous picture of other geometry. -/
def takeSh (x : Ctx) (u : List Byte) : Ctx :=
  let d := x.dec
  if (d.firstSh.isSome || d.dead) && !d.ended then
    (if d.firstSh = some u && !d.dead then x else { x with dec := { d with dead := true } })
  else if !shFits x.block u then { x with dec := { d with dead := true, ended := false } }
  else
    { x with
      slots := x.slots.map fun l => { l with valid := false }
      dec := { d with
        firstSh := some u, dead := false, ended := false
        prev := if d.firstSh.any fun v => sameGeo u v then d.prev else none } }

/-- An accepted or damaged segment's address. -/
def segAddr (u : List Byte) : DecSeg := { plane := Sg.plane u, row := Sg.row u, seg := Sg.seg u }

/-- The address is that of a segment. -/
def atSeg (a b : DecSeg) : Bool := a.plane == b.plane && a.row == b.row && a.seg == b.seg

/-- Note a segment whose header checks fail at its address, when that lies in the picture (R96, R198). -/
def noteBad (g : Geo) (u : List Byte) (r : DecParse) : DecParse :=
  if g.addrOk (Sg.plane u) (Sg.row u) (Sg.seg u) then { r with hdr := r.hdr ++ [segAddr u] } else r

/-- A segment that verifies, inside the picture `ph` (R96). -/
def takeSeg (sh ph u : List Byte) (r : DecParse) : DecParse :=
  let g := Sh.geo sh
  let a := segAddr u
  if !g.addrOk a.plane a.row a.seg then r
  else if Sg.tag u ≠ Ph.num ph % 65536 ∨ escBound (g.sw a.plane a.seg * g.sh a.plane a.row) g.depth < Sg.len u then
    noteBad g u r
  else if r.segs.any (atSeg a) then { r with dup := true }
  else { r with segs := r.segs ++ [{ a with unit := u }] }

/-- A verified unit. -/
def takeUnit (x : Ctx) (u : List Byte) (r : DecParse) : Ctx × DecParse :=
  match byteAt u 0 with
  | 0xA1 => (if r.ph.isSome then { x with dec := { x.dec with dead := true } } else takeSh x u, { r with sh := true })
  | 0xA2 => (x, { r with ph := some u })
  | 0xA3 => (x, match x.dec.firstSh, r.ph with
      | some sh, some ph => takeSeg sh ph u r
      | _, _ => r)
  | 0xA4 => (x, if r.ph.any fun ph => Ph.num ph == beAt u 4 4 then { r with pe := true } else r)
  | 0xA5 => ({ x with dec := { x.dec with ended := true } }, r)
  | _ => (x, r)

/-- Parse one picture's input (R194): every unit is verified; after a failure the parser resynchronises; a second PH, or the
end of the input, ends the picture. -/
def parseUnits : Nat → List Byte → Ctx → DecParse → Ctx × DecParse
  | 0, _, x, r => (x, r)
  | n + 1, b, x, r =>
    if b.isEmpty then (x, r)
    else if !isType (byteAt b 0) || !unitOk b then
      let r1 := match x.dec.firstSh with
        | some sh => if byteAt b 0 = 0xA3 ∧ unitLen b ≤ b.length ∧ r.ph.isSome = true ∧ r.pe = false then noteBad (Sh.geo sh) b r else r
        | none => r
      parseUnits n (resync (b.drop 1)) x r1
    else if r.pe then (x, { r with after := true })
    else if byteAt b 0 = 0xA2 ∧ r.ph.isSome = true then (x, r)
    else
      let u := b.take (unitLen b)
      let a := takeUnit x u r
      parseUnits n (b.drop (unitLen b)) a.1 a.2

/-! ## The checks of a picture (R92, R193, R200) -/

/-- The PH satisfies R92 and names no slot at or above MAX_NREF (R200). -/
def phOk (b sh ph : List Byte) : Bool :=
  let m := Ph.mask ph
  let lim := Db.nref b
  (if Ph.type ph = 0 then m == 0
   else Ph.type ph == 1 && Sh.mode sh == 1 && decide (m ≠ 0) && decide ((maskSlots m).length ≤ Sh.nref sh)) &&
    decide (m < 2 ^ min lim 4) && (Ph.store ph == 0xFF || decide (Ph.store ph < lim))

/-! DECODE entry fields (R192). -/
namespace De
def inAddr (e : List Byte) : Nat := leAt e 8 8
def outAddr (e : List Byte) : Nat := leAt e 0x10 8
def mapAddr (e : List Byte) : Nat := leAt e 0x18 8
def inLen (e : List Byte) : Nat := leAt e 0x20 4
def pitch (e : List Byte) : Nat := leAt e 0x24 4
def limit (e : List Byte) : Nat := 64 * leAt e 0x28 4
def off (e : List Byte) (p : Nat) : Nat := if p = 0 then 0 else 64 * leAt e (0x2C + 4 * (p - 1)) 4
def inLoc (e : List Byte) : Nat := byteAt e 0x38
def outLoc (e : List Byte) : Nat := byteAt e 0x39
def fmt (e : List Byte) : Nat := byteAt e 0x3A
def grey (e : List Byte) : Bool := byteAt e 0x3B % 2 == 1
def mapLen (e : List Byte) : Nat := leAt e 0x3C 2
def maxBad (e : List Byte) : Nat := leAt e 0x3E 2
end De

/-- Planes of these sizes fit the window (R193). -/
def winFits (e : List Byte) (sizes : List (Nat × Nat)) : Bool :=
  ((List.range sizes.length).zip sizes).all fun t =>
    let lb := lineBytes (De.fmt e) t.2.1
    decide (lb ≤ De.pitch e) && decide (De.off e t.1 + (t.2.2 - 1) * De.pitch e + lb ≤ De.limit e)

/-- Plane sizes of an ACS stream. -/
def geoSizes (g : Geo) : List (Nat × Nat) := (List.range g.planes).map fun p => (g.pw p, g.ph p)

/-- DERR of rules 2 to 5 of R200, 0 when the picture is decoded. Input without any SH or PH falls under rule 3; a PH of a stream
that never had an SH cannot be decoded, and the model takes rule 2 for it (assumption 51). -/
def acsErr (x : Ctx) (e : List Byte) (r : DecParse) : Nat :=
  match x.dec.firstSh, x.dec.dead with
  | some sh, false =>
    (match r.ph with
     | none => 2
     | some ph =>
       if !phOk x.block sh ph then 2
       else if !winFits e (geoSizes (Sh.geo sh)) then 3
       else if fmtBits (De.fmt e) < Sh.depth sh then 4
       else 0)
  | some _, true => 1
  | none, dead => if dead || r.ph.isSome then 1 else 2

/-! ## Starting a picture (R192, R194, R195, R204) -/

/-- Segment numbers the segment at an address waits for (R98, R194). -/
def segDeps (rowLink : Bool) (g : Geo) (order : List (Nat × Nat × Nat)) (t : Nat × Nat × Nat) : List Nat :=
  let up := if rowLink && decide (0 < t.2.1) then
      (order.filter fun u => u.1 == t.1 && u.2.1 + 1 == t.2.1 && decide (t.2.2 ≤ u.2.2 + 1) && decide (u.2.2 ≤ t.2.2 + 1)) else []
  let low := if g.layout = 5 then order.filter fun u => decide (u.1 < t.1) && u.2.1 == t.2.1 && u.2.2 == t.2.2 else []
  (up ++ low).filterMap fun u => (findIx (· == u) order 0).map (·.1)

/-- The jobs of an ACS picture, one per segment in canonical order, with budget B (R194, R195). -/
def acsJobs (c slot id0 : Nat) (sh : List Byte) (r : DecParse) : List Job :=
  let g := Sh.geo sh
  let order := g.order
  ((List.range order.length).zip order).map fun e =>
    let t := e.2
    let u := r.segs.find? (atSeg { plane := t.1, row := t.2.1, seg := t.2.2 })
    let w := g.sw t.1 t.2.2
    let h := g.sh t.1 t.2.1
    { id := id0 + e.1, ctx := c, pic := slot, key := e.1, plane := t.1, row := t.2.1, seg := t.2.2, dec := true
      qp := (u.map fun v => Sg.qp v.unit).getD 0
      budget := 2 * (248 + w * h + cdiv ((u.map fun v => Sg.len v.unit).getD 0) 8)
      jw := w, jh := h, depth := g.depth, refMask := (r.ph.map Ph.mask).getD 0
      deps := segDeps (Sh.rowLink sh) g order t }

/-! ### HEVC (R203, R204) -/

/-- A job of an HEVC picture: its rectangle in luma samples, and that it waits for the job before it, which is the CTU row above
of the same tile or picture. -/
structure HevcRect where
  x : Nat
  y : Nat
  w : Nat
  h : Nat
  waits : Bool
  deriving DecidableEq, Repr

/-- Starts and lengths of consecutive spans. -/
def spans : Nat → List Nat → List (Nat × Nat)
  | _, [] => []
  | a, n :: t => (a, n) :: spans (a + n) t

/-- The rows of CTBs of a tile. -/
def tileRects (h : Config.HevcSyn) (x w y n : Nat) : List HevcRect :=
  (List.range n).map fun r =>
    let y0 := (y + r) * h.ctb
    { x := x * h.ctb, y := y0, w := min (w * h.ctb) (h.w - x * h.ctb), h := min h.ctb (h.h - y0), waits := r != 0 }

/-- The jobs in decoding order (R204): CTU rows in WPP form, else the CTU rows of each tile, tile by tile. -/
def hevcRects (h : Config.HevcSyn) : List HevcRect :=
  if h.wpp then tileRects h 0 (cdiv h.w (max 1 h.ctb)) 0 (cdiv h.h (max 1 h.ctb))
  else (spans 0 h.rows).flatMap fun r => (spans 0 h.cols).flatMap fun c => tileRects h c.1 c.2 r.1 r.2

/-- The rectangle of a job in a plane: x, y, width, height. -/
def HevcRect.inPlane (r : HevcRect) (layout p : Nat) : Nat × Nat × Nat × Nat :=
  let dx := if halfW layout p then 2 else 1
  let dy := if halfH layout p then 2 else 1
  (r.x / dx, r.y / dy, cdiv r.w dx, cdiv r.h dy)

/-- The samples of a job. -/
def HevcRect.samples (r : HevcRect) (layout : Nat) : Nat :=
  sumN ((List.range (nPlanes layout)).map fun p => (r.inPlane layout p).2.2.1 * (r.inPlane layout p).2.2.2)

/-- The jobs of an HEVC picture (R204): a substream that cannot be located counts as the rest of its slice segment. -/
def hevcJobsOf (c slot id0 : Nat) (h : Config.HevcSyn) : List Job :=
  let l := hevcRects h
  ((List.range l.length).zip l).map fun e =>
    let b := getIx h.sub e.1 (none, 0)
    { id := id0 + e.1, ctx := c, pic := slot, key := e.1, plane := 0, row := e.1, seg := 0, dec := true
      budget := 2 * (248 + 2 * e.2.samples h.layout + cdiv (b.1.getD b.2) 8), jw := e.2.w, jh := e.2.h, depth := h.depth
      deps := if e.2.waits then [e.1 - 1] else [] }

/-- The picture's layout and depth belong to its profile (R181). -/
def hevcProfileOk (profile layout depth : Nat) : Bool :=
  decide (1 ≤ profile) && decide (profile ≤ 7) && decide (depth ≤ getIx [0, 8, 10, 12, 10, 12, 12, 16] profile 0) &&
    (layout == 4 || (layout == 0 && decide (3 ≤ profile)) || (layout == 3 && decide (4 ≤ profile)) ||
      ((layout == 1 || layout == 2) && decide (6 ≤ profile)))

/-- The syntax lies inside the capability table, and the picture within the context's maxima (R203). -/
def hevcOk (b : List Byte) (h : Config.HevcSyn) : Bool :=
  hevcProfileOk h.profile h.layout h.depth && decide (h.level ≤ 186) && !h.bSlice &&
    (h.ctb == 16 || h.ctb == 32 || h.ctb == 64) && decide (h.cols.length ≤ 20) && decide (h.rows.length ≤ 22) &&
    decide (h.slices ≤ 600) && decide (h.dpb ≤ Db.nref b) && decide (nPlanes h.layout ≤ Db.planes b) &&
    decide (h.depth ≤ Db.depth b) && decide (h.w ≤ Db.w b) && decide (h.h ≤ Db.h b)

/-- The conformance window in a plane. -/
def hevcWindow (h : Config.HevcSyn) (p : Nat) : Nat × Nat × Nat × Nat :=
  HevcRect.inPlane ⟨h.window.1, h.window.2.1, h.window.2.2.1, h.window.2.2.2, false⟩ h.layout p

/-- Plane sizes of the output, which is cropped to the conformance window (R203). -/
def hevcSizes (h : Config.HevcSyn) : List (Nat × Nat) :=
  (List.range (nPlanes h.layout)).map fun p => ((hevcWindow h p).2.2.1, (hevcWindow h p).2.2.2)

/-- DERR of rules 4 to 6 of R200 for HEVC, 0 when the picture is decoded. -/
def hevcErr (b e : List Byte) : Option Config.HevcSyn → Nat
  | none => 6
  | some h =>
    if !winFits e (hevcSizes h) then 3
    else if fmtBits (De.fmt e) < h.depth then 4
    else if !hevcOk b h then 6
    else 0

/-- DFLAGS of a decode picture (R201). -/
def decFlags (held : Bool) (r : DecParse) : Nat :=
  (if r.sh then 1 else 0) + (if held || !r.pe then 2 else 0) + (if r.after then 4 else 0) + (if r.dup then 32 else 0)

/-- A decode completion (R201); CAUSE is 0. -/
def decCe (s : State) (se : List Byte) (status : Nat) (spec : List Byte) : List Byte :=
  mkCe status 0 (seCtx se) (leAt se 4 4) spec (nowNs s)

/-- SRC_FRAME and PIC_NUM that a completion reports: the PH's, and none under rule 3 of R200. -/
def phNums (derr : Nat) (r : DecParse) : Nat × Nat :=
  match r.ph with
  | some ph => if derr = 2 then (0xFFFFFFFF, 0xFFFFFFFF) else (Ph.src ph, Ph.num ph)
  | none => (0xFFFFFFFF, 0xFFFFFFFF)

/-- A block of a bulk picture was fenced before it started (R12): the Granary, the bulk partition's controllers, or the tiles'
FIFOs. -/
def bulkFenced (s : State) : Bool :=
  (hdr s grnPg).fenced || (hdr s fifoPg).fenced || (regionPcs s 16).any fun p => (hdr s (hbmPage (p / 2))).fenced

/-- End a decode entry at once: its buffers are free with its completion (R206). -/
def decEnd (s : State) (c q id : Nat) (bufs : List (Nat × Nat)) (ce : List Byte) : State :=
  finishSlot (freeBufs { s with bulkSlots := s.bulkSlots.filter fun e => e.2 != (c, id) } c bufs) q id ce

/-- Start the decode entry at the head of a context's order in a bulk slot: parse, check, and release its jobs. An entry of an
ingress flow waits until a picture is held (R206). -/
def decStart (s0 : State) (slot c : Nat) (x : Ctx) : State :=
  match x.dec.queue, x.dec.run with
  | (id, e) :: rest, none =>
    let src := if De.inLen e = 0 then x.dec.held.head? else some {}
    match src with
    | none => s0
    | some h =>
      let ac := if De.inLen e = 0 then ((h.units.flatten, none, false), s0) else readLoc s0 (De.inLoc e) (De.inAddr e) (De.inLen e)
      let rd := ac.1
      let s := ac.2
      let x1 := { x with dec := { x.dec with queue := rest, held := if De.inLen e = 0 then x.dec.held.drop 1 else x.dec.held } }
      let stop := fun (y : Ctx) (st : Nat) (spec : List Byte) => decEnd (setCtx s c y) c x.queue id h.bufs (decCe s e st spec)
      if bulkFenced s then stop x1 0x0C (decNone 0)
      else if rd.2.1.isSome then stop x1 0x09 (decNone 0)
      else if Db.format x.block = 1 then
        let y := Config.hevcParse x.block rd.1
        let derr := hevcErr x.block e y
        if derr ≠ 0 then
          let f := fresh s
          decEnd (setCtx f.2 c x1) c x.queue id h.bufs (decCe f.2 e 0x0E
            (decSpec ((Config.freeWord f.1).toNat % 2 ^ 32) (x.dec.count % 2 ^ 32) 0 0 0 derr (if h.peMissing then 2 else 0)))
        else
        let js := (y.map (hevcJobsOf c id s.nextId)).getD []
        let run : DecRun := { slot := id, se := e, input := rd.1, left := js.length, peMissing := h.peMissing, bufs := h.bufs }
        setCtx { s with nextId := s.nextId + js.length, jobs := s.jobs ++ js, bulkSlots := nset s.bulkSlots slot (c, id) } c
          { x1 with dec := { x1.dec with run := some run } }
      else
        let p0 := parseUnits (rd.1.length + 1) rd.1 x1 {}
        let p := (p0.1, match p0.1.dec.firstSh with
          | some sh => h.bad.foldl (fun r u => noteBad (Sh.geo sh) u r) p0.2
          | none => p0.2)
        let derr := acsErr p.1 e p.2
        if derr ≠ 0 then
          let n := phNums derr p.2
          stop p.1 0x0E (decSpec n.1 n.2 0 0 0 derr (decFlags h.peMissing p.2))
        else
          let js := acsJobs c id s.nextId (p.1.dec.firstSh.getD []) p.2
          let run : DecRun := {
            slot := id, se := e, input := rd.1, parse := p.2, left := js.length, peMissing := h.peMissing, bufs := h.bufs }
          setCtx { s with nextId := s.nextId + js.length, jobs := s.jobs ++ js, bulkSlots := nset s.bulkSlots slot (c, id) } c
            { p.1 with dec := { p.1.dec with run := some run } }
  | _, _ => s0

/-- The lowest free bulk slot (R184). -/
def freeSlot (s : State) : Option Nat := (List.range 8).find? fun i => (nget s.bulkSlots i).isNone

/-- The entry is BAD_DESCRIPTOR (R192); a location code above 1 names none. -/
def decBad (s : State) (q : Nat) (e : List Byte) : Bool :=
  let win := De.outAddr e + De.limit e
  !((getCtx s (leAt e 2 2)).any fun x => x.kind == .decode && x.queue == q &&
      (De.inLen e != 0 || Db.ingDepth x.block != 0)) ||
    De.outAddr e % 64 != 0 || De.pitch e == 0 || De.pitch e % 64 != 0 || decide (5 < De.fmt e) ||
    decide (2 ^ 64 < De.inAddr e + De.inLen e) || decide (2 ^ 64 < win) || (De.mapAddr e != 0 && De.mapLen e == 0) ||
    decide (1 < De.inLoc e) || decide (1 < De.outLoc e)

/-- An earlier started configuration entry of the queue for this context has not run yet: entries run in the order of their
starts, so a frame entry is judged after it. -/
def cfgAhead (s : State) (q id ctx : Nat) : Bool :=
  (getQ s q).started.any fun t => decide (t.1 < id) && (byteAt t.2 0 == 0x11 || byteAt t.2 0 == 0x21) && leAt t.2 2 2 == ctx

/-- DECODE (R192, R194): a started entry is validated and queued for its context; with the context idle it starts in a free
slot. -/
def decodeOp (q : Nat) (s : State) : State :=
  match takeStarted s q fun se => byteAt se 0 == 0x20 with
  | none => s
  | some (id, e, s1) =>
    if cfgAhead s q id (leAt e 2 2) then s
    else if decBad s q e then finishSlot s1 q id (decCe s e 0x08 (decNone 0))
    else match getCtx s1 (leAt e 2 2) with
      | none => s1
      | some x =>
        let y := { x with dec := { x.dec with queue := x.dec.queue ++ [(id, e)] } }
        let s2 := setCtx s1 (leAt e 2 2) y
        match freeSlot s2 with
        | some i => decStart s2 i (leAt e 2 2) y
        | none => s2

def execDecode (queue : Nat) (s : State) : Out := act (decodeOp queue) s

/-! ## Finishing a picture (R198–R202) -/

/-- The line above a block row as finished segments give it. -/
def lineAbove (g : Geo) (done : List SegOut) (plane row : Nat) : List Nat :=
  (List.range (g.ns plane)).flatMap fun i =>
    match done.find? fun t => t.plane == plane && t.row + 1 == row && t.seg == i with
    | some t => (t.recon.getLast?).getD []
    | none => List.replicate (g.sw plane i) 0

/-- The pictures of the slots a P picture may read, none where missing (R93, R493). -/
def phRefs (slots : List Slot) (ph : List Byte) : List (Option PicBuf) :=
  (List.range 4).map fun i =>
    let l := getIx slots i {}
    if Ph.mask ph / 2 ^ i % 2 = 1 ∧ l.valid = true ∧ Ph.flush ph = false ∧ l.tag = Ph.tag ph i then some l.pic else none

/-- MISS_REFS (R93, R201). -/
def missRefs (slots : List Slot) (ph : List Byte) : Nat :=
  let r := phRefs slots ph
  sumN ((List.range 4).map fun i =>
    if Ph.mask ph / 2 ^ i % 2 = 1 ∧ (getIx r i none).isNone = true then 2 ^ i else 0)

/-- Concealment of a rectangle (R199). -/
def conceal (prev : Option PicBuf) (g : Geo) (p x y w h : Nat) : List (List Nat) :=
  match prev with
  | some pic => rectOf (getIx pic p []) x y w h
  | none => List.replicate h (List.replicate w (2 ^ (g.depth - 1)))

/-- The environment of a segment's body (R98). -/
def decEnv (sh ph : List Byte) (refs : List (Option PicBuf)) (done : List SegOut) (t : Nat × Nat × Nat) (qp : Nat) : CEnv :=
  let g := Sh.geo sh
  let link := fun (q : Nat) => if Sh.rowLink sh && decide (0 < t.2.1) then some (lineAbove g done q t.2.1) else none
  { mode := Sh.mode sh, isP := Ph.type ph == 1, plane := t.1, cfa := g.layout == 5, depth := g.depth, errE := Sh.errE sh
    qp := qp, refMask := Ph.mask ph, w := g.sw t.1 t.2.2, h := g.sh t.1 t.2.1, xs := g.x0 t.2.2, ys := 32 * t.2.1
    pw := g.pw t.1, ph := g.ph t.1, up := link t.1
    cross := if g.layout = 5 then
        (done.filter fun o => decide (o.plane < t.1) && o.row == t.2.1 && o.seg == t.2.2).map fun o => (o.recon, link o.plane)
      else []
    refs := refs.map fun r => r.map fun pic => getIx pic t.1 [] }

/-- Decode or conceal one segment: its samples and damage kinds (R198, R199). -/
def decSegOne (sh ph : List Byte) (refs : List (Option PicBuf)) (prev : Option PicBuf) (r : DecParse) (late : Bool)
    (done : List SegOut) (t : Nat × Nat × Nat) : List (List Nat) × Nat :=
  let g := Sh.geo sh
  let a : DecSeg := { plane := t.1, row := t.2.1, seg := t.2.2 }
  let w := g.sw t.1 t.2.2
  let h := g.sh t.1 t.2.1
  let hide := conceal prev g t.1 (g.x0 t.2.2) (32 * t.2.1) w h
  let tmo := if late then 8 else 0
  match r.segs.find? (atSeg a) with
  | none => (hide, (if r.hdr.any (atSeg a) then 1 else 16) + tmo)
  | some u =>
    if late then (hide, 8)
    else
      let out := if Sg.raw u.unit then decodeRaw g.depth w h (Sg.body u.unit)
        else decodeBody (decEnv sh ph refs done t (Sg.qp u.unit)) (Sg.body u.unit)
      if out.2 = 0 ∨ out.2 = 32 then out else (hide, out.2)

/-- Every segment of the picture in canonical order, with the damage kinds (R97, R199). -/
def decSegs (sh ph : List Byte) (refs : List (Option PicBuf)) (prev : Option PicBuf) (r : DecParse) (late : List Nat) :
    List SegOut × List Nat :=
  let order := (Sh.geo sh).order
  ((List.range order.length).zip order).foldl (fun acc e =>
    let v := decSegOne sh ph refs prev r (late.contains e.1) acc.1 e.2
    (acc.1 ++ [{ plane := e.2.1, row := e.2.2.1, seg := e.2.2.2, unit := none, buf := none, emerg := false, raw := false
                 recon := v.1 }], acc.2 ++ [v.2])) ([], [])

/-- The picture of its segments. -/
def segsPic (g : Geo) (done : List SegOut) : PicBuf :=
  (List.range g.planes).map fun q =>
    (done.filter fun t => t.plane == q).foldl (fun pl t => putRect pl (g.x0 t.seg) (32 * t.row) t.recon)
      (List.replicate (g.ph q) (List.replicate (g.pw q) 0))

/-- The segment's samples lie inside its rectangle of the plane, and their lines inside the window (R197). -/
def segInside (e : List Byte) (g : Geo) (t : SegOut) : Bool :=
  let n := (t.recon.map (·.length)).foldl max 0
  decide (g.x0 t.seg + n ≤ g.pw t.plane) && decide (32 * t.row + t.recon.length ≤ g.ph t.plane) &&
    decide (De.off e t.plane + (32 * t.row + t.recon.length - 1) * De.pitch e + fmtOff (De.fmt e) (g.x0 t.seg) +
      lineBytes (De.fmt e) n ≤ De.limit e)

/-- A segment with a blocked write is damaged with kind OOB and concealed (R197, R198). -/
def guardOob (e : List Byte) (g : Geo) (prev : Option PicBuf) (t : SegOut) (kind : Nat) : SegOut × Nat :=
  if segInside e g t then (t, kind)
  else ({ t with recon := conceal prev g t.plane (g.x0 t.seg) (32 * t.row) (g.sw t.plane t.seg) (g.sh t.plane t.row) }, kind ||| 64)

/-- One line of output: location, address, bytes. -/
structure OutLine where
  addr : Nat
  bytes : List Byte
  deriving DecidableEq, Repr

/-- The output lines of a rectangle whose first column starts a packing group (R193). -/
def rectLines (e : List Byte) (p x y : Nat) (rows : List (List Nat)) : List OutLine :=
  ((List.range rows.length).zip rows).map fun t =>
    ⟨De.outAddr e + De.off e p + (y + t.1) * De.pitch e + fmtOff (De.fmt e) x, packLine (De.fmt e) t.2⟩

/-- The line lies inside the window (R197). -/
def lineInside (e : List Byte) (l : OutLine) : Bool :=
  decide (De.outAddr e ≤ l.addr) && decide (l.addr + l.bytes.length ≤ De.outAddr e + De.limit e)

/-- Two planes of the window share bytes (R193). -/
def planesMeet (e : List Byte) (sizes : List (Nat × Nat)) : Bool :=
  let span := fun (t : Nat × Nat × Nat) => (t.2.2 - 1) * De.pitch e + lineBytes (De.fmt e) t.2.1
  let l := (List.range sizes.length).zip sizes
  l.any fun a => l.any fun b => decide (a.1 < b.1) && overlaps (De.off e a.1) (span a) (De.off e b.1) (span b)

/-- Insert by key. -/
def insFree {α : Type} (k : Nat) (v : α) : List (Nat × α) → List (Nat × α)
  | [] => [(k, v)]
  | h :: t => if k < h.1 then (k, v) :: h :: t else h :: insFree k v t

/-- Order lines by free keys. -/
def anyOrder {α : Type} (k : Nat) (l : List α) : List α :=
  (((List.range l.length).zip l).foldl (fun a e => insFree (Config.freeWord (k + e.1)).toNat e.2 a) []).map (·.2)

/-- Write output lines: no line outside the window is written (R197); overlapping planes receive their writes in an unspecified
order (R193); of an aborted picture an unstated part is written (R200). -/
def putOutput (s : State) (e : List Byte) (sizes : List (Nat × Nat)) (part : Bool) (all : List OutLine) : State × Bool :=
  let ls := all.filter (lineInside e)
  let k := s.freeCtr
  let s1 := { s with freeCtr := k + 2 * ls.length }
  let kept := if part then (((List.range ls.length).zip ls).filter fun t => (Config.freeWord (k + t.1)).getLsbD 0).map (·.2)
    else ls
  let seq := if planesMeet e sizes then anyOrder (k + ls.length) kept else kept
  (seq.foldl (fun s l => writeLoc s (De.outLoc e) l.addr l.bytes false) s1,
   seq.any fun l => (memWriteErr s1 (De.outLoc e) l.addr l.bytes.length).isSome)

/-- Pack bits into bytes, least significant first (R202). -/
def bitmapBytes (kinds : List Nat) : List Byte :=
  (List.range (cdiv kinds.length 8)).map fun j =>
    BitVec.ofNat 8 (sumN ((List.range 8).map fun i => if getIx kinds (8 * j + i) 0 = 0 then 0 else 2 ^ i))

/-- Write the bitmap (R202): the state, MAP_SHORT, and whether the write met a bus error. -/
def writeMap (s : State) (e : List Byte) (kinds : List Nat) : State × Bool × Bool :=
  if De.mapAddr e = 0 then (s, false, false)
  else
    let b := bitmapBytes kinds
    let w := b.take (De.mapLen e)
    (writeLoc s 0 (De.mapAddr e) w false, decide (De.mapLen e < b.length), (memWriteErr s 0 (De.mapAddr e) w.length).isSome)

/-- The status of a picture whose samples are written (R200, rules 7 to 9). -/
def decStatus (bad maxBad : Nat) : Nat × Nat :=
  if maxBad < bad ∧ maxBad ≠ 0xFFFF then (0x0E, 5) else if 0 < bad then (0x01, 0) else (0x00, 0)

/-- The kinds OR-ed together. -/
def orN (l : List Nat) : Nat := l.foldl (· ||| ·) 0

/-- A decoded picture's output: bitmap, window and completion, and what the context keeps of it. -/
def decOutput (s : State) (c : Nat) (x : Ctx) (r : DecRun) (nums : Nat × Nat) (flags miss : Nat) (kinds : List Nat)
    (sizes : List (Nat × Nat)) (ls : List OutLine) : State :=
  let e := r.se
  let w := putOutput s e sizes false ls
  let m := writeMap w.1 e kinds
  let bad := (kinds.filter (· != 0)).length
  let st := decStatus bad (De.maxBad e)
  let status := if w.2 || m.2.2 then 0x09 else st.1
  decEnd (setCtx m.1 c { x with dec := { x.dec with run := none, count := x.dec.count + 1 } }) c x.queue r.slot r.bufs
    (decCe s e status (decSpec nums.1 nums.2 bad (orN kinds) miss st.2 (flags + if m.2.1 then 16 else 0)))

/-- Finish an ACS picture (R93, R199, R200). -/
def acsFinish (s : State) (c : Nat) (x : Ctx) (r : DecRun) (sh ph : List Byte) : State :=
  let g := Sh.geo sh
  let refs := phRefs x.slots ph
  let prev := if De.grey r.se then none else x.dec.prev
  let d0 := decSegs sh ph refs prev r.parse r.timeouts
  let d := ((d0.1.zip d0.2).map fun t => guardOob r.se g prev t.1 t.2).unzip
  let ls := d.1.flatMap fun t => rectLines r.se t.plane (g.x0 t.seg) (32 * t.row) t.recon
  let flags := decFlags r.peMissing r.parse
  if r.aborted then
    let w := putOutput s r.se (geoSizes g) true ls
    decEnd (setCtx w.1 c { x with dec := { x.dec with run := none } }) c x.queue r.slot r.bufs
      (decCe s r.se 0x0D (decSpec (Ph.src ph) (Ph.num ph) 0 0 (missRefs x.slots ph) 0 flags))
  else
    let pic := segsPic g d.1
    let sl := if Ph.flush ph then x.slots.map fun l => { l with valid := false } else x.slots
    let sl := if Ph.store ph < 4 then sl.set (Ph.store ph) { valid := true, tag := Ph.num ph % 65536, pic := pic } else sl
    decOutput s c { x with slots := sl, dec := { x.dec with prev := some pic } } r (Ph.src ph, Ph.num ph) flags
      (missRefs x.slots ph) d.2 (geoSizes g) ls

/-- The geometry stamp of an HEVC picture, which takes the SH's place in the test of R199. -/
def hevcStamp (h : Config.HevcSyn) : List Byte := toBE 1 h.layout ++ toBE 1 h.depth ++ toBE 2 h.w ++ toBE 2 h.h

/-- The held picture that an RPS entry names. -/
def hevcHeld (slots : List Slot) (poc : Nat) : Option PicBuf := (slots.find? fun l => l.valid && l.tag == poc).map (·.pic)

/-- A picture of one sample value. -/
def greyPic (h : Config.HevcSyn) : PicBuf :=
  let g : Geo := ⟨h.layout, h.w, h.h, 0, h.depth⟩
  (List.range g.planes).map fun p => List.replicate (g.ph p) (List.replicate (g.pw p) (2 ^ (h.depth - 1)))

/-- The CTU from which a job is concealed (R204): its first in error, or the one at which its budget expired. -/
def hevcCut (h : Config.HevcSyn) (bytes : List Byte) (w i : Nat) (tmo : Bool) (err : Option (Nat × Nat)) : Option Nat :=
  match err with
  | some e => some e.1
  | none => if tmo then some (Config.hevcLate bytes i % max 1 (cdiv w (max 1 h.ctb))) else none

/-- The damage of a job with a syntax error (R198, R204): RANGE where the parser names none of the first three kinds. -/
def hevcKind (err : Option (Nat × Nat)) : Nat := match err with | some e => if e.2 % 8 = 0 then 2 else e.2 % 8 | none => 0

/-- Decode or conceal a job (R204): from its first CTU in error on it is concealed by R199. The picture so far and its damage kinds. -/
def hevcJobDec (h : Config.HevcSyn) (bytes : List Byte) (refs : List (Option PicBuf)) (prev : Option PicBuf) (late : List Nat)
    (acc : PicBuf × List Nat) (e : Nat × HevcRect) : PicBuf × List Nat :=
  let g : Geo := ⟨h.layout, h.w, h.h, 0, h.depth⟩
  let tmo := late.contains e.1
  let out := Config.hevcDecJob bytes (refs.map fun r => r.getD (greyPic h)) acc.1 e.1 tmo
  let miss := (Config.hevcReads bytes e.1).any fun i => decide (i < refs.length) && (getIx refs i none).isNone
  let pic := ((List.range acc.1.length).zip acc.1).map fun p =>
    let r := e.2.inPlane h.layout p.1
    let cut := match hevcCut h bytes (e.2.inPlane h.layout 0).2.2.1 e.1 tmo out.2 with
      | some k => k * h.ctb / (if halfW h.layout p.1 then 2 else 1)
      | none => r.2.2.1
    let hide := conceal prev g p.1 r.1 r.2.1 r.2.2.1 r.2.2.2
    putRect p.2 r.1 r.2.1 ((List.range r.2.2.2).map fun y => (List.range r.2.2.1).map fun x =>
      if x < cut then getIx (getIx (getIx out.1 p.1 []) y []) x 0 else getIx (getIx hide y []) x 0)
  (pic, acc.2 ++ [hevcKind out.2 ||| (if tmo then 8 else 0) ||| (if miss then 32 else 0)])

/-- The pictures held after a picture (R191, R203): those its RPS names and, when it is kept, itself; at most MAX_NREF. -/
def hevcHold (b : List Byte) (h : Config.HevcSyn) (slots : List Slot) (pic : PicBuf) : List Slot :=
  let l := slots.filter (fun t => t.valid && h.rps.contains t.tag) ++ (if h.kept then [{ valid := true, tag := h.poc, pic := pic }] else [])
  let k := l.drop (l.length - min 4 (Db.nref b))
  k ++ List.replicate (4 - k.length) ({} : Slot)

/-- Finish an HEVC picture (R200, R203, R204). PIC_NUM is the decoded-picture count; SRC_FRAME, which HEVC has not, is a free
value. -/
def hevcFinish (s0 : State) (c : Nat) (x : Ctx) (r : DecRun) : State :=
  let f := fresh s0
  let s := f.2
  let nums := ((Config.freeWord f.1).toNat % 2 ^ 32, x.dec.count % 2 ^ 32)
  let flags := if r.peMissing then 2 else 0
  match Config.hevcParse x.block r.input with
  | none => s0
  | some h =>
    let prev := if De.grey r.se ∨ x.dec.firstSh ≠ some (hevcStamp h) then none else x.dec.prev
    let refs := h.rps.map (hevcHeld x.slots)
    let l := hevcRects h
    let d := ((List.range l.length).zip l).foldl (hevcJobDec h r.input refs prev r.timeouts) (greyPic h, [])
    let pic := Config.hevcFilter r.input d.1
    let ls := (List.range (nPlanes h.layout)).flatMap fun p =>
      let w := hevcWindow h p
      rectLines r.se p 0 0 (rectOf (getIx pic p []) w.1 w.2.1 w.2.2.1 w.2.2.2)
    if r.aborted then
      let w := putOutput s r.se (hevcSizes h) true ls
      decEnd (setCtx w.1 c { x with dec := { x.dec with run := none } }) c x.queue r.slot r.bufs
        (decCe s r.se 0x0D (decSpec nums.1 nums.2 0 0 0 0 flags))
    else
      let miss := sumN ((List.range 4).map fun i => if i < refs.length ∧ (getIx refs i none).isNone = true then 2 ^ i else 0)
      decOutput s c { x with
        slots := hevcHold x.block h x.slots pic
        dec := { x.dec with prev := some pic, firstSh := some (hevcStamp h) } } r nums flags miss d.2 (hevcSizes h) ls

/-- DECODE_FINISH (R194): when every job of the context's picture has ended. -/
def decodeFinish (c : Nat) (s : State) : State :=
  match getCtx s c with
  | some x => (match x.dec.run with
    | some r =>
      if r.left ≠ 0 then s
      else if Db.format x.block = 1 then hevcFinish s c x r
      else (match x.dec.firstSh, r.parse.ph with
        | some sh, some ph => acsFinish s c x r sh ph
        | _, _ => s)
    | none => s)
  | none => s

def execDecodeFinish (ctx : Nat) (s : State) : Out := act (decodeFinish ctx) s

/-! ## Opening and closing decode contexts (R191) -/

/-- Every field of the block lies in its range, those of the ingress flow too when ING_DEPTH is 0; what an IPv4 address leaves
unused is judged where there is a flow (R191, assumption 51). -/
def decBlockOk (b : List Byte) : Bool :=
  decide (Db.format b ≤ 1) && decide (1 ≤ Db.planes b) && decide (Db.planes b ≤ 4) && decide (8 ≤ Db.depth b) &&
    decide (Db.depth b ≤ 18) && decide (Db.nref b ≤ 4) && decide (16 ≤ Db.w b) && decide (Db.w b ≤ 32768) &&
    decide (16 ≤ Db.h b) && decide (Db.h b ≤ 24576) && decide (Db.slotPool b < 64) && decide (Db.ingDepth b ≤ 16) &&
    (Db.ingDepth b == 0 || Db.ingFlags b % 2 == 1 || zeroAt b 0x10 12) &&
    decide (Db.ingPool b < 64) && decide (Db.ingPort b ≤ 1) && decide (96 ≤ Db.ingPt b) && decide (Db.ingPt b ≤ 127) &&
    decide (1 ≤ Db.cir b) && decide (Db.cir b ≤ 400000) && decide (Db.cir b ≤ Db.pir b) && decide (Db.pir b ≤ 400000) &&
    decide (1500 ≤ Db.cbs b) && decide (Db.cbs b ≤ 16777216) && decide (Db.cbs b ≤ Db.pbs b) &&
    decide (Db.pbs b ≤ 16777216) && decide (1000 ≤ Db.picTmo b) && decide (Db.picTmo b ≤ 100000000)

/-- An open context already matches the flow (R191). -/
def ingTaken (s : State) (b : List Byte) : Bool :=
  Db.ingDepth b != 0 && s.ctxs.any fun e => e.2.kind == .decode && Db.ingDepth e.2.block != 0 &&
    Db.ingPort e.2.block == Db.ingPort b && Db.ingUdp e.2.block == Db.ingUdp b && Db.ingAddr e.2.block == Db.ingAddr b &&
    Db.ingFlags e.2.block % 2 == Db.ingFlags b % 2

/-- Take `n` buffers of a pool. -/
def takeBufs (s : State) (p o : Nat) : Nat → Option (List (Nat × Nat) × State)
  | 0 => some ([], s)
  | n + 1 => match takeBufs s p o n with
    | some (l, s1) => (grnAlloc s1 p o).map fun a => ((p, a.1) :: l, a.2)
    | none => none

/-- The buffer size a decode context needs (R191). -/
def decBufSize (b : List Byte) : Nat := cdiv (Db.planes b * Db.w b * Db.h b) 2 * 8

/-- DEC_CONFIG with OPEN, or with flags that select no one action (R191). -/
def decOpen (q : Nat) (s : State) : State :=
  match takeStarted s q fun se => byteAt se 0 == 0x21 && leAt se 0x10 2 % 4 != 2 with
  | none => s
  | some (id, e, s1) =>
    let b := e.drop 64
    let c := leAt e 2 2
    let bad := finishSlot s1 q id (seCe s e 0x08)
    if leAt e 0x10 2 % 4 ≠ 1 ∨ 1024 ≤ c ∨ (getCtx s c).isSome = true then bad
    else if b.length < 256 then finishSlot s1 q id (seCe s e 0x09)
    else if !decBlockOk b || ingTaken s b || decide (poolSize s (Db.slotPool b) < decBufSize b) then bad
    else match takeBufs s1 (Db.slotPool b) c (Db.nref b + 2) with
      | none => bad
      | some (l, s2) =>
        finishSlot (setCtx s2 c { kind := .decode, block := b, queue := q, dec := {
          slotBufs := l, tokC := Db.cbs b * 1000000, tokP := Db.pbs b * 1000000, tokTick := s.tick } }) q id (seCe s e 0)

/-- The completions of every earlier entry of the queue are published. -/
def oldestSlot (s : State) (q id : Nat) : Bool :=
  match ((getQ s q).slots.filter fun c => c.se).head? with
  | some c => c.id == id
  | none => true

/-- An ingress counter of a context on its port's page (R207). -/
def ingBump (s : State) (c : Nat) (b : List Byte) (off n : Nat) : State := bump s (ethPage (Db.ingPort b)) c off n

/-- DEC_CONFIG with CLOSE (R191): held pictures are discarded and counted, the buffers return, the context is free once
every earlier completion is published. -/
def decClose (q : Nat) (s : State) : State :=
  match takeStarted s q fun se => byteAt se 0 == 0x21 && leAt se 0x10 2 % 4 == 2 with
  | none => s
  | some (id, e, s1) =>
    let c := leAt e 2 2
    match getCtx s1 c with
    | some x =>
      if x.kind ≠ .decode ∨ x.queue ≠ q then finishSlot s1 q id (seCe s e 0x08)
      else if !oldestSlot s q id then s
      else
        let s2 := if x.dec.held.isEmpty then s1 else ingBump s1 c x.block 0x420 x.dec.held.length
        let bufs := x.dec.held.flatMap (·.bufs) ++ (x.dec.cur.map (·.bufs)).getD [] ++ x.dec.slotBufs
        let s3 := freeBufs s2 c bufs
        finishSlot (breakOwner { s3 with ctxs := ndel s3.ctxs c } c) q id (seCe s e 0)
    | none => finishSlot s1 q id (seCe s e 0x08)

def execDecConfigOpen (queue : Nat) (s : State) : Out := act (decOpen queue) s
def execDecConfigClose (queue : Nat) (s : State) : Out := act (decClose queue) s

end Sys2Proof.Machine
end

