-- ==== Sys2Proof/Machine/Ingress.lean ====
section
/-! DEFINITION. Pictures from the network (R205–R207): matching, policing, reassembly (R106–R109; RFC 7798 for HEVC) and the
closing of pictures. -/
namespace Sys2Proof.Machine

/-! RTP and ACS payload header fields (R106, R107). -/
namespace Rtp
def marker (p : List Byte) : Bool := decide (128 ≤ byteAt p 1)
def pt (p : List Byte) : Nat := byteAt p 1 % 128
def seq (p : List Byte) : Nat := beAt p 2 2
def ts (p : List Byte) : Nat := beAt p 4 4
def ssrc (p : List Byte) : Nat := beAt p 8 4
def frag (p : List Byte) : Nat := byteAt p 12 / 64
def nunits (p : List Byte) : Nat := byteAt p 13
def picTag (p : List Byte) : Nat := beAt p 14 2
def off (p : List Byte) : Nat := beAt p 16 4
end Rtp

/-- The packet belongs to the context (R205). -/
def ingMatch (port : Nat) (k : NetPacket) (x : Ctx) : Bool :=
  let b := x.block
  let v6 := Db.ingFlags b % 2 == 1
  x.kind == .decode && Db.ingDepth b != 0 && Db.ingPort b == port && Db.ingUdp b == k.udpDst && v6 == k.ipv6 &&
    k.dstIp == (if v6 then Db.ingAddr b else (Db.ingAddr b).drop 12) && decide (12 ≤ k.payload.length) &&
    Rtp.pt k.payload == Db.ingPt b && (Db.ingFlags b / 4 % 2 == 0 || Rtp.ssrc k.payload == Db.ingSsrc b)

/-- The pre-colour of a packet in colour-aware mode (R205): 0 green, 1 yellow, 2 red. -/
def preColour (b : List Byte) (k : NetPacket) : Nat :=
  if Db.ingFlags b / 16 % 2 = 1 then (let v := Db.dscp b (k.dscp % 64); if v = 3 then 0 else v)
  else if k.dei then 1 else 0

/-- The policer's colour, and the context with its tokens taken (R205, R326). Tokens are in 10^-6 B; CIR Mb/s gives
1,250 × CIR of them a TBCLK. -/
def ingColour (s : State) (x : Ctx) (k : NetPacket) : Nat × Ctx :=
  let b := x.block
  let d := x.dec
  let n := s.tick - d.tokTick
  let tc := refill d.tokC n (1250 * Db.cir b) (Db.cbs b * 1000000)
  let tp := refill d.tokP n (1250 * Db.pir b) (Db.pbs b * 1000000)
  let r := trTcm (Db.ingFlags b / 2 % 2 == 1) (preColour b k) (k.payload.length * 1000000) tc tp
  (r.1, { x with dec := { d with tokC := r.2.1, tokP := r.2.2, tokTick := s.tick } })

/-- Bytes of the units of a picture. -/
def heldBytes (h : HeldPic) : Nat := sumN (h.units.map (·.length))

/-- Bytes of a unit in reassembly. -/
def fragBytes (f : Option FragSt) : Nat := (f.map fun g => g.data.length).getD 0

/-- Buffers of ING_POOL for `n` more bytes of a picture, whose unit in reassembly lies in them too (R205, R206): none when the
pool has none free. -/
def ingRoom (s : State) (c : Nat) (b : List Byte) (h : HeldPic) (f : Option FragSt) (n : Nat) : Option (HeldPic × State) :=
  let need := cdiv (heldBytes h + fragBytes f + n) (poolSize s (Db.ingPool b)) - h.bufs.length
  (takeBufs s (Db.ingPool b) c need).map fun r => ({ h with bufs := h.bufs ++ r.1 }, r.2)

/-- The picture in reassembly closes and is held (R206). -/
def ingClose (s : State) (c : Nat) (x : Ctx) (missing : Bool) : State × Ctx :=
  match x.dec.cur with
  | none => (s, x)
  | some h =>
    let s1 := if x.dec.frag.any fun f => !f.bad then ingBump s c x.block 0x418 1 else s
    (s1, { x with dec := { x.dec with cur := none, frag := none, held := x.dec.held ++ [{ h with peMissing := missing }] } })

/-- The header of a segment unit that came whole and fails its CRC: it is discarded (R206), and its segment is damaged by HDR
(R96, R198, R329). -/
def badHead (b : List Byte) : List (List Byte) :=
  if byteAt b 0 = 0xA3 ∧ unitLen b ≤ b.length ∧ 16 ≤ b.length then [b.take 16] else []

/-- Whole units from packet data: those whose CRC verifies up to the first that fails, how many are discarded, and the header
of that first one (R105, R206). -/
def cutUnits : Nat → List Byte → List (List Byte) × Nat × List (List Byte)
  | 0, _ => ([], 0, [])
  | n + 1, b =>
    if isType (byteAt b 0) && unitOk b && decide (unitLen b ≤ b.length) then
      let r := cutUnits n (b.drop (unitLen b))
      (b.take (unitLen b) :: r.1, r.2)
    else ([], n + 1, badHead b)

/-- What a packet adds to a picture: finished units, units discarded, the fragment state, and the headers of segment units that
fail their CRC. -/
structure Reasm where
  units : List (List Byte) := []
  drop : Nat := 0
  frag : Option FragSt := none
  bad : List (List Byte) := []

/-- A fragment in progress that has not failed counts once when it is given up. -/
def lostFrag (f : Option FragSt) : Nat := if f.any fun f => !f.bad then 1 else 0

/-- Reassemble an ACS packet (R107, R109): `inOrder` says that its sequence number and PIC_TAG follow the last packet's. -/
def acsPacket (inOrder : Bool) (f : Option FragSt) (p : List Byte) : Reasm :=
  let data := p.drop 20
  match Rtp.frag p with
  | 0 =>
    let r := cutUnits (Rtp.nunits p) data
    { units := r.1, drop := r.2.1 + lostFrag f, bad := r.2.2 }
  | 1 => { drop := lostFrag f, frag := some { data := data, next := data.length } }
  | v =>
    match f with
    | some g =>
      if g.bad then { frag := if v = 3 then none else f }
      else if inOrder ∧ Rtp.off p = g.next then
        let all := g.data ++ data
        if v = 2 then { frag := some { data := all, next := all.length } }
        else if isType (byteAt all 0) && unitOk all && unitLen all == all.length then { units := [all] }
        else { drop := 1, bad := if unitLen all = all.length then badHead all else [] }
      else { drop := 1, frag := if v = 3 then none else some { bad := true } }
    | none => { drop := 1, frag := if v = 3 then none else some { bad := true } }

/-- Reassemble an RFC 7798 packet (R203): a single NAL unit, or a fragmentation unit; other packets are discarded. NAL units
are kept as an Annex B byte stream. -/
def hevcPacket (inOrder : Bool) (f : Option FragSt) (p : List Byte) : Reasm :=
  let d := p.drop 12
  let code : List Byte := [0, 0, 0, 1]
  let t := byteAt d 0 / 2 % 64
  if t < 48 then { units := [code ++ d], drop := lostFrag f }
  else if t ≠ 49 then { drop := 1 + lostFrag f }
  else
    let fu := byteAt d 2
    let more := d.drop 3
    if 128 ≤ fu then
      { drop := lostFrag f
        frag := some { data := code ++ toBE 1 (byteAt d 0 / 128 * 128 + fu % 64 * 2 + byteAt d 0 % 2) ++ (d.drop 1).take 1 ++ more } }
    else match f with
      | some g =>
        let last := fu / 64 % 2 == 1
        if g.bad then { frag := if last then none else f }
        else if inOrder then (if last then { units := [g.data ++ more] } else { frag := some { g with data := g.data ++ more } })
        else { drop := 1, frag := if last then none else some { bad := true } }
      | none => { drop := 1, frag := if fu / 64 % 2 = 1 then none else some { bad := true } }

/-- The tag that separates pictures: PIC_TAG, or for HEVC the RTP timestamp. -/
def pktTag (x : Ctx) (p : List Byte) : Nat := if Db.format x.block = 1 then Rtp.ts p else Rtp.picTag p

/-- The packet holds stream ends alone (R108). -/
def onlySe (r : Reasm) : Bool := !r.units.isEmpty && r.units.all (fun u => byteAt u 0 == 0xA5) && r.frag.isNone

/-- Put an accepted packet into the context's pictures (R205, R206). One dropped for want of a buffer is a lost packet: its units,
and the unit in reassembly, are discarded (R109). -/
def ingTake (s : State) (c : Nat) (x0 : Ctx) (inSeq : Bool) (p : List Byte) : State :=
  let tag := pktTag x0 p
  let hevc := Db.format x0.block == 1
  let same := x0.dec.cur.any fun h => h.tag == tag
  let a := if x0.dec.cur.isSome && !same then ingClose s c x0 true else (s, x0)
  let x := a.2
  let r := if hevc then hevcPacket (inSeq && same) x.dec.frag p else acsPacket (inSeq && same) x.dec.frag p
  let x := { x with dec := { x.dec with lastPkt := s.dt } }
  let s1 := if r.drop = 0 then a.1 else ingBump a.1 c x.block 0x418 r.drop
  if x.dec.cur.isNone && !hevc && onlySe r then
    setCtx s1 c { x with dec := { x.dec with pre := x.dec.pre ++ r.units, frag := none } }
  else if x.dec.cur.isNone && x.dec.dropTag == some tag then setCtx a.1 c { x with dec := { x.dec with frag := none } }
  else if x.dec.cur.isNone && decide (Db.ingDepth x.block ≤ x.dec.held.length) then
    setCtx (ingBump a.1 c x.block 0x420 1) c { x with dec := { x.dec with dropTag := some tag, frag := none } }
  else
    let h0 : HeldPic := x.dec.cur.getD { tag := tag, units := x.dec.pre }
    match ingRoom s1 c x.block h0 x.dec.frag (p.length - (if hevc then 12 else 20)) with
    | none =>
      let lost := r.units.length + r.drop + lostFrag r.frag
      let s2 := ingBump a.1 c x.block 0x41C 1
      setCtx (if lost = 0 then s2 else ingBump s2 c x.block 0x418 lost) c
        { x with dec := { x.dec with frag := r.frag.map fun _ => { bad := true } } }
    | some (h, s2) =>
      let y := { x with dec := { x.dec with
        cur := some { h with units := h.units ++ r.units, bad := h.bad ++ r.bad }, frag := r.frag, dropTag := none
        pre := if x.dec.cur.isSome then x.dec.pre else [] } }
      let e := if Rtp.marker p then ingClose s2 c y false else (s2, y)
      setCtx e.1 c e.2

/-- INGRESS_PACKET (R205, R331), while RX_EN is 1: match, police, count and reassemble; a fragment follows when its sequence number is the next after the
last accepted packet's (R109). -/
def ingressPacket (port : Nat) (k : NetPacket) (s : State) : State :=
  if 2 ≤ port ∨ !blockUp s (ethPage port) ∨ rbits s (ethPage port) 0 0x100 1 1 = 0 then s
  else match s.ctxs.find? fun e => ingMatch port k e.2 with
    | none => if k.ptp then s else bump s (ethPage port) 0 0x424 1
    | some (c, x0) =>
      let b := x0.block
      let seq := Rtp.seq k.payload
      let gap := match x0.dec.lastSeq with
        | some l => (seq + 65535 - l) % 65536
        | none => 0
      let s1 := if 0 < gap ∧ gap < 32768 then ingBump s c b 0x414 gap else s
      let col := ingColour s x0 k
      let x := { col.2 with dec := { col.2.dec with lastSeq := some seq } }
      if col.1 = 2 then setCtx (ingBump s1 c b 0x40C 1) c x
      else if col.1 = 1 ∧ Db.ingFlags b / 8 % 2 = 1 then setCtx (ingBump s1 c b 0x410 1) c x
      else
        let inSeq := match x0.dec.accSeq with
          | some l => seq == (l + 1) % 65536
          | none => true
        ingTake (ingBump s1 c b (if col.1 = 0 then 0x404 else 0x408) 1) c { x with dec := { x.dec with accSeq := some seq } }
          inSeq k.payload

def execIngressPacket (port : Nat) (pkt : NetPacket) (s : State) : Out := act (ingressPacket port pkt) s

/-- INGRESS_PIC_TIMEOUT (R206). -/
def ingressPicTimeout (c : Nat) (s : State) : State :=
  match getCtx s c with
  | some x =>
    if x.kind = .decode ∧ x.dec.cur.isSome = true ∧ x.dec.lastPkt + nsT (Db.picTmo x.block) ≤ s.dt then
      let e := ingClose s c x true
      setCtx e.1 c e.2
    else s
  | none => s

def execIngressPicTimeout (ctx : Nat) (s : State) : Out := act (ingressPicTimeout ctx) s

end Sys2Proof.Machine
end

