-- ==== Sys2Proof/Machine/Homes.lean ====
section
/-! DEFINITION. The home of a cascade stream (R97, R167, R356, R359, R363): taking the units of the members, merging them into
canonical order, numbering pictures in frame order, relaying a multiply stream, and frames lost with a device. A member's
segments carry its own SEG_IDX; the home adds the start of its band. -/
namespace Sys2Proof.Machine

/-! ## The plan (R360) -/

namespace Plan_
def mode (p : List Byte) : Nat := byteAt p 0
def nmem (p : List Byte) : Nat := byteAt p 1
def home (p : List Byte) : Nat := leAt p 2 2
def contract (p : List Byte) : Nat := leAt p 8 8
def member (p : List Byte) (i : Nat) : Nat := leAt p (0x10 + 2 * i) 2
def band (p : List Byte) (i : Nat) : Nat := byteAt p (0x30 + i)
end Plan_

/-- First SEG_IDX of a member's band, and of the next one. -/
def bandOf (plan b : List Byte) (i : Nat) : Nat × Nat :=
  if Plan_.mode plan ≠ 1 then (0, (ctGeo b).ns 0)
  else (Plan_.band plan i, if i + 1 < Plan_.nmem plan then Plan_.band plan (i + 1) else (ctGeo b).ns 0)

/-! ## Homes -/

/-- Write a home. -/
def setHome (s : State) (h : Home) : State :=
  let l := s.casc.homes.map fun g => if g.stream = h.stream then h else g
  { s with casc := { s.casc with homes := l } }

/-- The context of a home, while it stands. -/
def homeCtx (s : State) (h : Home) : Option Ctx := (getCtx s h.ctx).filter fun x => x.role == 3

/-- The home of a stream. -/
def homeBy (s : State) (stream : Nat) : Option Home :=
  (s.casc.homes.find? fun h => h.stream == stream).filter fun h => (homeCtx s h).isSome

/-- The home and place to which packets of a source and class belong: a stream of that class before any other (assumption 45). -/
def homeOf (s : State) (dev cls : Nat) : Option (Home × Nat) :=
  let l := s.casc.homes.filter fun h => (homeCtx s h).isSome && h.members.any (·.dev == dev)
  ((l.find? fun h => (homeCtx s h).any fun x => svcTc s (Ct.svc x.block) == cls).orElse fun _ => l.head?).bind fun h =>
    (findIx (fun m : Member => m.dev == dev) h.members 0).map fun m => (h, m.1)

/-- Change a member of a home. -/
def setMember (h : Home) (i : Nat) (m : Member) : Home := { h with members := h.members.set i m }

/-- A frame numbered `n` precedes or is `m` modulo 2^32. -/
def frameLe (n m : Nat) : Bool := decide ((m + 2 ^ 32 - n) % 2 ^ 32 < 2 ^ 31)

/-- No member can still send a frame before `n` (R359: frame n goes to member n mod N, so a member's next frame lies N on). -/
def numReady (h : Home) (n : Nat) : Bool :=
  Plan_.mode h.plan != 2 || h.members.all fun m =>
    m.dead || m.ended || (match m.last with | some f => frameLe n (f + h.members.length) | none => false)

/-- The picture without a number whose frame comes first. -/
def firstFrame (x : Ctx) : Option Pic :=
  (x.pics.filter fun p => p.picNum.isNone).foldl (fun (a : Option Pic) p =>
    match a with
    | none => some p
    | some q => if frameLe q.src p.src then some q else some p) none

/-- Give pictures their PIC_NUM in frame order (R359), with an SH before the first and before every FLUSH picture (R81). -/
def numberPics : Nat → State → Home → State
  | 0, s, _ => s
  | n + 1, s, h =>
    match homeCtx s h with
    | none => s
    | some x => match (firstFrame x).filter fun p => numReady h p.src with
      | none => s
      | some p =>
        let y := { x with picNum := (x.picNum + 1) % 2 ^ 32, strm := true, lastClosed := some p.src }
        numberPics n (setCtx s h.ctx (updPic y p.id fun p => { p with
          picNum := some x.picNum, sh := !x.strm || p.flush
          segs := p.segs.map fun o => { o with unit := o.unit.map (retag x.picNum) } })) h

/-- A new picture of a home context: it takes a completion slot. While the master is lost, one that needs another device is lost
(R355). -/
def newPic (s : State) (h : Home) (x : Ctx) (src : Nat) : Nat × State :=
  let t := frameSlot s x.queue none
  let id := t.2.nextId
  let p : Pic := {
    id := id, src := src, slot := t.1, begun := true, closed := true, cfg := x.block, at_ := s.dt, fifo := x.adm.fifo
    cause := if s.casc.masterLost && h.members.any (fun m => m.dev != s.casc.devId) then 4 else 0 }
  (id, setCtx { t.2 with nextId := id + 1 } h.ctx { x with pics := x.pics ++ [p] })

/-- What a PH unit says of its picture (R89). -/
def readPh (u : List Byte) (p : Pic) : Pic :=
  let fl := byteAt u 23
  { p with
    src := beAt u 8 4, capNs := beAt u 12 8, capFrac := beAt u 20 2, capKnown := true, isP := byteAt u 22 == 1
    flush := fl % 2 == 1, demoted := fl / 4 % 2 == 1, refMask := byteAt u 24, storeSlot := byteAt u 25
    refTags := (List.range 4).map fun i => beAt u (28 + 2 * i) 2 }

/-- t0 of a picture is the latest of its members' (R359): where CAPTURE is t0 (R91) their PH units carry it, and with it goes the
limit of R308. -/
def noteT0 (s : State) (h : Home) (x : Ctx) (id : Nat) (u : List Byte) : State :=
  match (getCtx s h.ctx).bind fun y => getPic y id with
  | some p =>
    if h.capT0 then
      let t := max (p.t0.getD 0) (beAt u 12 8 * 65536 + beAt u 20 2)
      slotLimit (withPic s h.ctx id fun p => { p with t0 := some t }) x.queue p.slot (t + nsT x.adm.dAdm - nsT 1500)
    else s
  | none => s

/-- The marks of a segment unit (R95, R177). -/
def noteSeg (key : Nat) (u : List Byte) (p : Pic) : Pic :=
  { p with
    rawSeen := p.rawSeen || byteAt u 4 / 128 == 1
    firstEmerg := if byteAt u 4 / 64 % 2 = 1 then some (match p.firstEmerg with | some k => min k key | none => key)
      else p.firstEmerg }

/-- The segments of a member's part of a picture that have not come. -/
def absentSegs (plan b : List Byte) (i : Nat) (p : Pic) : List (Nat × Nat × Nat) :=
  let r := bandOf plan b i
  (canonSegs b).filter fun t => decide (r.1 ≤ t.2.2) && decide (t.2.2 < r.2) &&
    !p.segs.any fun o => (o.plane, o.row, o.seg) == t

/-- A segment output that only carries its unit. -/
def unitOut (t : Nat × Nat × Nat) (u : Option (List Byte)) : SegOut :=
  { plane := t.1, row := t.2.1, seg := t.2.2, unit := u, buf := none, emerg := false, raw := false, recon := [] }

/-- A frame of a widen stream has no part of a role that is lost, and ends with it (R356, R363). -/
def roleLost (h : Home) (src : Nat) : Bool :=
  Plan_.mode h.plan == 1 && (h.members.any (·.dead) || h.lostSrc == some src)

/-- A PH unit of a member (R359): its picture is found by SRC_FRAME, or begun. The first PH of a spare ends the frames before its
own, of which it has no part (R363). -/
def mergePh (s : State) (h : Home) (x : Ctx) (i : Nat) (m : Member) (u : List Byte) : State :=
  let src := beAt u 8 4
  let gone := if m.joining && Plan_.mode h.plan == 1 then
    (x.pics.filter fun p => !p.done && p.src != src && frameLe p.src src).map (·.id) else []
  let s := gone.foldl (fun s id => endPic s h.ctx id (0x0B, 4)) s
  let r : Option Nat × State := match x.pics.find? fun p => p.src == src with
    | some p => (some p.id, noteT0 s h x p.id u)
    | none =>
      if frameLate x src || h.lostSrc == some src then (none, s)
      else
        let n := newPic s h x src
        if roleLost h src then (none, endPic n.2 h.ctx n.1 (0x0B, 4))
        else (some n.1, noteT0 (withPic n.2 h.ctx n.1 (readPh u)) h x n.1 u)
  let g := { setMember h i { m with cur := r.1, last := some src, joining := false } with
    lostSrc := if roleLost h src then some src else h.lostSrc }
  numberPics (x.pics.length + 1) (setHome r.2 g) g

/-- A segment unit of a member: SEG_IDX and PIC_TAG become the picture's. -/
def mergeSg (s : State) (h : Home) (x : Ctx) (i : Nat) (m : Member) (u : List Byte) : State :=
  match m.cur.bind (getPic x) with
  | none => s
  | some p =>
    let t := (byteAt u 6, beAt u 8 2, byteAt u 7 + (bandOf h.plan x.block i).1)
    let g := ctGeo x.block
    if !g.addrOk t.1 t.2.1 t.2.2 || p.segs.any (fun o => (o.plane, o.row, o.seg) == t) then s
    else
      let v := retag (p.picNum.getD 0) (putAt u 7 (toBE 1 t.2.2))
      withPic s h.ctx p.id fun p => { noteSeg (g.key t.1 t.2.1) u p with segs := p.segs ++ [unitOut t (some v)] }

/-- A PE unit of a member: segments of its part that did not come are lost with it. -/
def mergePe (s : State) (h : Home) (x : Ctx) (i : Nat) (m : Member) : State :=
  let s1 := setHome s (setMember h i { m with cur := none })
  match m.cur.bind (getPic x) with
  | none => s1
  | some p =>
    let lost := absentSegs h.plan x.block i p
    withPic s1 h.ctx p.id fun p => { p with
      segs := p.segs ++ lost.map (unitOut · none)
      cause := if lost.isEmpty || p.cause != 0 then p.cause else 4 }

/-- Put a unit of a multiply stream behind the others (R359). -/
def relayPut (s : State) (h : Home) (i : Nat) (m : Member) (id : Nat) (u : List Byte) (last se : Bool) : State :=
  setHome s { setMember h i (if last || se then { m with cur := none, count := 0 } else { m with cur := some id, count := m.count + 1 }) with
    relay := h.relay ++ [(id, u, last, se)] }

/-- A unit of a multiply stream: it keeps its bytes; its picture ends with its PE, an HEVC picture with its last unit. -/
def relayUnit (s : State) (h : Home) (x : Ctx) (i : Nat) (m : Member) (u : List Byte) : State :=
  if Ct.mode x.block ≠ 4 ∧ byteAt u 0 = 0xA5 then
    relayPut s h i { m with ended := true } s.nextId u false true
  else
    let hevc := Ct.mode x.block == 4
    let f := fresh s
    let r : Nat × State := match m.cur with
      | some id => (id, s)
      | none => newPic (if hevc then f.2 else s) h x (if hevc then (Config.freeWord f.1).toNat % 2 ^ 32 else 0)
    let s1 := if hevc then r.2
      else if byteAt u 0 = 0xA2 then
        noteT0 (withPic r.2 h.ctx r.1 fun p => { readPh u p with picNum := some (beAt u 4 4) }) h x r.1 u
      else if byteAt u 0 = 0xA3 then withPic r.2 h.ctx r.1 (noteSeg (beAt u 8 2) u)
      else r.2
    let last := if hevc then decide ((canonSegs x.block).length ≤ m.count) else byteAt u 0 == 0xA4
    relayPut s1 h i (if !hevc && byteAt u 0 == 0xA2 then { m with last := some (beAt u 8 4) } else m) r.1 u last false

/-- A unit of a member reaches the home (R359). -/
def homeUnit (s : State) (stream i : Nat) (u : List Byte) : State :=
  match homeBy s stream with
  | none => s
  | some h => match homeCtx s h, h.members[i]? with
    | some x, some m =>
      if Plan_.mode h.plan = 3 then relayUnit s h x i m u
      else
        let t := byteAt u 0
        if t = 0xA2 then mergePh s h x i m u
        else if t = 0xA3 then mergeSg s h x i m u
        else if t = 0xA4 then mergePe s h x i m
        else if t = 0xA5 then
          let g := setMember h i { m with ended := true }
          numberPics (x.pics.length + 1) (setHome s g) g
        else s
    | _, _ => s

/-- A withdrawn stream leaves once every member has ended it (R34, R360). -/
def homeLeave (s : State) (stream : Nat) : State :=
  match homeBy s stream with
  | none => s
  | some h => match homeCtx s h with
    | some x =>
      if h.leaving && h.relay.isEmpty && x.rel != 2 &&
          (if Ct.mode x.block = 4 then x.pics.isEmpty
           else h.members.all fun m => m.ended || m.dead || m.last.isNone) then releaseBoundary s h.ctx
      else s
    | none => s

/-! ## Frames lost with a device (R351, R355, R356) -/

/-- Pictures that wait for work of a member. -/
def waitsOn (h : Home) (x : Ctx) (i : Nat) (m : Member) (p : Pic) : Bool :=
  if Plan_.mode h.plan = 1 then !p.done && !(absentSegs h.plan x.block i p).isEmpty else m.cur == some p.id

/-- A frame of a lost role completes DEADLINE_BREACH with cause DEVICE_LOST (R363): the frame after the last of the role. -/
def lostFrame (s : State) (stream i : Nat) : State :=
  match homeBy s stream with
  | none => s
  | some h => match homeCtx s h, h.members[i]? with
    | some x, some m =>
      let k := if Plan_.mode h.plan = 2 then h.members.length else 1
      let src := match m.last with | some f => (f + k) % 2 ^ 32 | none => if Plan_.mode h.plan = 2 then i else 0
      let n := newPic s h x src
      setHome (endPic n.2 h.ctx n.1 (0x0B, 4)) (setMember h i { m with last := some src })
    | _, _ => s

/-- A role of a home is lost with its device (R356, R363): of a frame in flight of which no unit had come, the completion is
written now, and the next when a frame period has passed. DESIGN CHOICE (assumption 60): the periods count from the death. -/
def loseRole (s : State) (stream i : Nat) (hadPic : Bool) : State :=
  match homeBy s stream with
  | none => s
  | some h => match homeCtx s h, h.members[i]? with
    | some x, some m =>
      let per := Ct.period x.block * (if Plan_.mode h.plan = 2 then h.members.length else 1)
      let s1 := setHome s (setMember h i { m with lostNext := some (s.dt + per) })
      if Plan_.mode h.plan = 1 ∨ hadPic = true ∨ h.leaving = true then s1 else lostFrame s1 stream i
    | _, _ => s

/-- The frame periods of lost roles that have passed (R363): each writes its completion. The frames of a widen stream that has
other members are known from these. -/
def lostPeriods (s : State) : State :=
  s.casc.homes.foldl (fun s h0 => (List.range h0.members.length).foldl (fun s i =>
    match homeBy s h0.stream with
    | none => s
    | some h => match homeCtx s h, h.members[i]? with
      | some x, some m =>
        let per := Ct.period x.block * (if Plan_.mode h.plan = 2 then h.members.length else 1)
        match m.lostNext with
        | some t =>
          if t ≤ s.dt ∧ h.leaving = false ∧ (Plan_.mode h.plan ≠ 1 ∨ (i = 0 ∧ h.members.all (·.dead) = true)) then
            lostFrame (setHome s (setMember h i { m with lostNext := some (t + per) })) h.stream i
          else s
        | none => s
      | _, _ => s) s) s

/-- End the pictures of a home that wait for the members selected, as DEADLINE_BREACH with cause DEVICE_LOST. -/
def loseMembers (s : State) (h : Home) (sel : Member → Bool) (dead : Bool) : State :=
  match homeCtx s h with
  | none => s
  | some x =>
    let ms := (List.range h.members.length).zip h.members
    let ids := (x.pics.filter fun p => ms.any fun e => sel e.2 && waitsOn h x e.1 e.2 p).map (·.id)
    let g := { h with
      members := h.members.map fun m =>
        { m with dead := m.dead || (dead && sel m), cur := if sel m || m.cur.any ids.contains then none else m.cur }
      relay := h.relay.filter fun e => !ids.contains e.1 }
    let s1 := ids.foldl (fun s id => endPic s h.ctx id (0x0B, 4)) (setHome s g)
    let s2 := numberPics (x.pics.length + 1) s1 g
    if dead then (ms.filter fun e => sel e.2 && !e.2.dead).foldl (fun s e =>
        loseRole s h.stream e.1 (x.pics.any fun p => ids.contains p.id && waitsOn h x e.1 e.2 p)) s2
    else s2

/-- The same in every home. -/
def loseAll (s : State) (sel : Member → Bool) (dead : Bool) : State :=
  s.casc.homes.foldl (fun s h => if (homeBy s h.stream).isSome && h.members.any sel then
    homeLeave (loseMembers s h sel dead) h.stream else s) s

/-! ## UNIT_ENTER_FIFO of the three kinds of context -/

/-- A relayed unit may enter: the PH that names its picture and its timestamp has come, for an SH before it (R106, R107). -/
def relayKnown (x : Ctx) (id : Nat) (se : Bool) : Bool :=
  Ct.mode x.block == 4 || se || (getPic x id).any fun p => p.picNum.isSome

/-- The next unit of a relayed stream enters its egress FIFO; a stream end unit carries the PIC_TAG of the last picture (R108). -/
def relayEnter (s : State) (h : Home) (x : Ctx) : State :=
  match h.relay with
  | [] => s
  | (id, u, last, se) :: t =>
    if !relayKnown x id se then s
    else if !fifoFits s x.adm.fifo u.length then unitStall s x.adm.fifo u.length
    else
      let p := (getPic x id).getD { id := id, src := 0 }
      let s1 := withPic (setHome s { h with relay := t }) h.ctx id fun p =>
        { p with entered := p.entered + 1, bytesOut := p.bytesOut + u.length }
      homeLeave (pushUnit s1 (Ct.flow x.block)
        { ctx := h.ctx, pic := id, num := if se then beAt u 4 4 else p.picNum.getD 0, ts := rtpTs p.capNs, bytes := u, first := p.entered == 0, last := last
          buf := none, fifo := x.adm.fifo, at_ := s.dt, acs := Ct.mode x.block != 4, se := se }) h.stream

/-- The next unit of a member at its own home goes straight to the merge (R359). -/
def localEnter (s : State) (c : Nat) (x : Ctx) : State :=
  match s.casc.roles.find? fun r => r.ctx == c with
  | none => s
  | some r => match enterPic x with
    | some p0 =>
      let cap := capOf s x p0.cfg p0
      let s := cap.2
      let p := skipLost (unitCount p0) cap.1
      let fin := fun (s : State) => finishPic (withPic s c p.id fun q => { q with tData := some s.dt }) c p.id
      (match nextUnit p with
       | some u =>
         let y := setCtx s c (updPic x p.id fun _ => { p with
           entered := p.entered + 1, bytesOut := p.bytesOut + u.bytes.length
           segs := match u.seg with
             | some t => p.segs.map fun o => if (o.plane, o.row, o.seg) = t then { o with buf := none } else o
             | none => p.segs })
         let s1 := homeUnit (freeBuf y c u.buf) r.stream r.place u.bytes
         if p.entered + 1 = unitCount p then fin s1 else s1
       | none => if unitCount p ≤ p.entered then fin (setCtx s c (updPic x p.id fun _ => p)) else setCtx s c (updPic x p.id fun _ => p))
    | none =>
      if x.rel = 2 ∧ x.pics.isEmpty = true ∧ x.encQ.isEmpty = true ∧ seDue x = true then
        let s1 := homeUnit (setCtx s c { x with strm := false }) r.stream r.place (seUnit ((x.picNum + 2 ^ 32 - 1) % 2 ^ 32))
        homeLeave (releaseCheck s1 c) r.stream
      else s

/-- UNIT_ENTER_FIFO (R167, R359). -/
def unitEnterAny (c : Nat) (s : State) : State :=
  match getCtx s c with
  | none => s
  | some x =>
    if x.role = 2 then localEnter s c x
    else if x.role = 3 then
      match s.casc.homes.find? fun h => h.ctx == c with
      | some h => if !blockUp s fifoPg then s
          else if Plan_.mode h.plan = 3 then (if h.relay.isEmpty then homeLeave s h.stream else relayEnter s h x)
          else unitEnter c (homeLeave s h.stream)
      | none => s
    else unitEnter c s

def execUnitEnterFifo (ctx : Nat) (s : State) : Out := act (unitEnterAny ctx) s

end Sys2Proof.Machine
end

