-- ==== Sys2Proof/Machine/Sensors.lean ====
section
/-! DEFINITION. Malys Sensor Link ports (R147–R163): the link machine, line packets, frame marks, the close timeout, FSYNC
and the I3C controllers. -/
namespace Sys2Proof.Machine

/-! ## The link machine (R150), shared by the sensor and Selfold ports -/

/-- What happens to a link. -/
inductive LinkEv where
  | train
  | lock
  | loss
  | align (skew : Nat) (consistent inPlace : Bool)
  | missing
  /-- TRAIN_EN cleared, or the port's PLL loses lock. -/
  | down
  deriving DecidableEq, Repr

/-- Lanes 0 to n − 1. -/
def laneMask (n : Nat) : BitVec 8 := BitVec.ofNat 8 (2 ^ n - 1)

/-- One step of a link with `n` lanes and its TRAIN_EN: the new state, and whether an ALIGN skew error is counted. -/
def linkStep (trainEn : Bool) (n : Nat) (l : LinkSt) (e : LinkEv) : LinkSt × Bool :=
  match e with
  | .train => if l.st = 0 ∧ trainEn = true then ({ l with st := 1, locked := 0, rounds := 0 }, false) else (l, false)
  | .lock => if l.st = 1 then ({ l with st := 2, locked := laneMask n, rounds := 0 }, false) else (l, false)
  | .loss => if l.st = 1 ∨ l.st = 3 then ({}, false) else (l, false)
  | .align skew ok place =>
    if l.st = 2 then
      if 64 < skew then ({ skew := skew }, true)
      else if ok then
        if l.rounds = 0 then ({ l with rounds := 1, skew := skew }, false)
        else ({ l with st := 3, rounds := 0, skew := skew }, false)
      else ({ l with rounds := 0, skew := skew }, false)
    else if l.st = 3 then (if place then ({ l with skew := skew }, false) else ({}, false))
    else (l, false)
  | .missing => if l.st = 3 then ({}, false) else (l, false)
  | .down => ({}, false)

/-- A link event on sensor port `n` (R150, R163): LINK_CHANGE on entering or leaving UP, SNS_LINK_DOWN on leaving it. -/
def sensorLink (n : Nat) (e : LinkEv) (s : State) : State :=
  let pg := sensorPage n
  if !blockUp s pg then s
  else
    let x := getSensor s n
    let r := linkStep (rbits s pg 0 0x100 16 16 == 1) (rbits s pg 0 0x100 3 0) x.link e
    let s1 := setSensor s n { x with link := r.1 }
    let s2 := if r.2 then bump s1 pg 0 0x124 1 else s1
    if x.link.st = 3 ∧ r.1.st ≠ 3 then
      raiseFault (setEvt (setSensor s2 n { x with link := r.1, lastMark := none }) pg 1) pg 0 0
    else if x.link.st ≠ 3 ∧ r.1.st = 3 then setEvt s2 pg 1
    else s2

/-- The port delivers packets (R150). -/
def sensorUp (s : State) (n : Nat) : Bool := (getSensor s n).link.st == 3 && blockUp s (sensorPage n)

/-! ## Line packets (R148, R151–R155) -/

/-- The context a port feeds (R163). -/
def portCtx (s : State) (n : Nat) : Nat := rbits s (sensorPage n) 0 0x108 10 0

/-- Follow PSEQ over the packets that pass their CRC (R153). -/
def notePseq (s : State) (n seq : Nat) : State :=
  let x := getSensor s n
  let s1 := match x.lastPseq with
    | some p => if seq = (p + 1) % 65536 then s else bump s (sensorPage n) 0 0x128 1
    | none => s
  setSensor s1 n { getSensor s1 n with lastPseq := some seq }

/-- The first accepted packet with a new frame number is the boundary of its port's shadow registers (R68). -/
def newFrame (s : State) (port num : Nat) : State :=
  if (getSensor s port).lastFrame = some num then s
  else
    let s1 := applySnaps s fun n => n.page == sensorPage port && n.bank == 0
    setSensor s1 port { getSensor s1 port with lastFrame := some num }

/-- Judge a packet of the open frame (R153). -/
def judge (s : State) (port c : Nat) (x : Ctx) (f : Frame) (pk : List Byte) : State :=
  let pg := sensorPage port
  if f.pkts.any fun q => q.plane == Lp.plane pk && q.line == Lp.line pk && q.x0 == Lp.x0 pk then bump s pg 0 0x114 1
  else if !lpFits x.block pk || !frameCoded x.block f.colour then bump s pg 0 0x11C 1
  else
    let g := { f with
      pkts := f.pkts ++ [⟨Lp.plane pk, Lp.line pk, Lp.x0 pk, Lp.samples pk⟩]
      lastAt := s.dt }
    let x1 := { x with frame := some g }
    let s1 := setCtx (newFrame s port f.num) c x1
    if frameFull x.block g.pkts then closeFrame s1 c x1 g else s1

/-- A packet that passed its CRC (R48, R154). -/
def goodPacket (s : State) (port : Nat) (pk : List Byte) : State :=
  let pg := sensorPage port
  let c := portCtx s port
  match getCtx s c with
  | none => bump s pg 0 0x11C 1
  | some x =>
    if !feeds s x || !(hdr s pg).enable then bump s pg 0 0x11C 1
    else
      let n := Lp.frame pk
      match x.frame.filter fun f => f.num == n with
      | some f => judge s port c x f pk
      | none =>
        if frameLate x n then bump s pg 0 0x118 1
        else
          let r := enterFrame s port c n 0
          (match (getCtx r.1 c).bind fun y => y.frame.map fun g => (y, g) with
           | some (y, g) => if r.2 then judge r.1 port c y g pk else bump r.1 pg 0 0x11C 1
           | none => bump r.1 pg 0 0x11C 1)

/-- The colour of a packet's frame: that of the open frame, or of the frame that it closed; none where it belongs to neither. -/
def pktColour (s : State) (port num : Nat) : Option Nat :=
  match getCtx s (portCtx s port) with
  | some x => (match x.frame.filter fun f => f.num == num with
    | some f => some f.colour
    | none => if x.lastClosed = some num then some x.lastColour else none)
  | none => none

/-- A packet is copied to the Island with its port, arrival time and colour, whatever becomes of it (R159, R374). The copy reads
the port's line buffer (R336). The colour of a packet without a frame is free (assumption 72). -/
def tapCopy (s : State) (port : Nat) (pk : List Byte) : State :=
  let col := match pktColour s port (Lp.frame pk) with
    | some c => (c, s)
    | none => let r := fresh s; ((Config.freeWord r.1).toNat % 3, r.2)
  { arbTake col.2 (64 + port) 0 (rbits s tkbPg 0 0x200 14 8) with
    taps := s.taps ++ [⟨port, nowNs s, col.1, pk⟩] }

/-- LINE_PACKET (R148, R153): lane errors are counted, a packet that fails its CRC is counted, others are judged and copied to
the Island. -/
def linePacket (port laneErrs : Nat) (pk : List Byte) (s : State) : State :=
  if 8 ≤ port ∨ sensorUp s port = false then s
  else
    let s1 := bump s (sensorPage port) 0 0x124 laneErrs
    if !Lp.crcOk pk then bump s1 (sensorPage port) 0 0x110 1
    else tapCopy (goodPacket (notePseq s1 port (Lp.pseq pk)) port pk) port pk

def execLinePacket (port laneErrs : Nat) (bytes : List Byte) (s : State) : Out := act (linePacket port laneErrs bytes) s

/-! ## Frame marks and the close timeout (R148, R149, R154, R155) -/

/-- Ports of a group that have seen the end mark of the open frame. -/
def allEnded (b : List Byte) (f : Frame) : Bool :=
  (List.range 8).all fun n => Ct.ports b / 2 ^ n % 2 == 0 || f.endPorts.contains n

/-- A frame-start or frame-end mark taken on a port. -/
def takeMark (s : State) (port kind num pre : Nat) : State :=
  let c := portCtx s port
  match getCtx s c with
  | none => s
  | some x =>
    if !feeds s x then s
    else if kind = 1 then
      (if frameLate x num || (match x.frame with | some f => f.num == num | none => false) then s
       else (enterFrame s port c num pre).1)
    else if kind = 2 then
      match x.frame with
      | some f =>
        if f.num ≠ num then s
        else
          let g := { f with endPorts := if f.endPorts.contains port then f.endPorts else f.endPorts ++ [port] }
          let x1 := { x with frame := some g }
          let s1 := setCtx s c x1
          if allEnded x.block g then closeFrame s1 c x1 g else s1
      | none => s
    else s

/-- FMARK (R149): two identical blocks in consecutive slots, unless the pair was taken before. The blocks' bytes 1–7. DESIGN
CHOICE (assumption 68): the frame number is read most significant byte first, as in a line packet's header (R2). -/
def fmarkOp (port laneErrs : Nat) (a b : List Byte) (s : State) : State :=
  if 8 ≤ port ∨ sensorUp s port = false then s
  else
    let s1 := bump s (sensorPage port) 0 0x124 laneErrs
    let x := getSensor s1 port
    if a ≠ b ∨ x.lastMark = some a then s1
    else
      let pre := byteAt a 6 % 4
      takeMark (setSensor s1 port { x with lastMark := some a }) port (byteAt a 0) (beAt a 1 4) (if pre = 3 then 2 else pre)

/-- FRAME_CLOSE_TIMEOUT (R155): SNS_CLOSE_TMO, of the group's lowest port, after the last accepted packet. -/
def closeTimeout (c : Nat) (s : State) : State :=
  match (getCtx s c).bind fun x => x.frame.map fun f => (x, f) with
  | some (x, f) =>
    if s.dt < f.lastAt + nsT (rbits s (sensorPage (groupPort x.block)) 0 0x10C 23 0) then s else closeFrame s c x f
  | none => s

def execFmark (port laneErrs : Nat) (first second : List Byte) (s : State) : Out := act (fmarkOp port laneErrs first second) s
def execFrameCloseTimeout (ctx : Nat) (s : State) : Out := act (closeTimeout ctx) s

/-! ## FSYNC (R160) -/

/-- The idle level of a driven FSYNC pin: high when its falling edge is the active one (R160). -/
def fsyncIdle (s : State) (n : Nat) : Bool := rbits s (sensorPage n) 0 0x140 1 1 == 1

/-- FSYNC_EDGE: the scheduled instant has come; the pulse begins and the next edge is a period on. -/
def fsyncEdge (n : Nat) (s : State) : State :=
  let x := getSensor s n
  let pg := sensorPage n
  match x.fsyncNext with
  | some t =>
    if s.dt < t ∨ !blockUp s pg then s
    else
      let p := rget64 s pg 0 0x150
      setSensor s n { x with
        fsyncOn := true, fsyncHigh := !fsyncIdle s n, fsyncFall := t + nsT (rbits s pg 0 0x140 31 8)
        fsyncNext := if p = 0 then none else some (t + p) }
  | none => s

/-- FSYNC_PULSE_END. -/
def fsyncPulseEnd (n : Nat) (s : State) : State :=
  let x := getSensor s n
  if x.fsyncOn ∧ x.fsyncFall ≤ s.dt then setSensor s n { x with fsyncOn := false, fsyncHigh := fsyncIdle s n } else s

def execFsyncEdge (n : Nat) (s : State) : Out := act (fun s => if n < 4 then fsyncEdge n s else s) s
def execFsyncPulseEnd (n : Nat) (s : State) : Out := act (fun s => if n < 4 then fsyncPulseEnd n s else s) s

/-! ## I3C (R161, R163) -/

/-- I3C_CMD: a transfer starts, in I3C SDR or as legacy I2C by I3C_CFG bit 8; a write sends the queued bytes. A command while one
runs is discarded, and a legacy transfer, which has no CCC, ignores bit 20 (assumption 32). -/
def i3cCmd (n : Nat) (w : Nat) (s : State) : State :=
  let x := getSensor s n
  if x.i3cBusy then s
  else
    let len := bits w 19 8
    let rd := bits w 7 7 == 1
    let sent := if rd then [] else x.i3cTx.take len
    let i2c := rbits s (sensorPage n) 0 0x180 8 8 == 1
    let head := (if bits w 20 20 = 1 ∧ i2c = false then toLE 1 (bits w 31 24) else []) ++ toLE 1 (bits w 6 0 * 2 + if rd then 1 else 0)
    emit (setSensor s n { x with
      i3cBusy := true, i3cLen := if rd then len else 0, i3cNack := false, i3cDone := false, i3cTx := if rd then x.i3cTx else x.i3cTx.drop len })
      (.i3c n i2c (head ++ sent))

/-- I3C_TRANSFER_DONE: a read gives at most the bytes commanded, a write none. -/
def i3cDone (n : Nat) (nack : Bool) (rx : List Byte) (s : State) : State :=
  let x := getSensor s n
  if !x.i3cBusy then s
  else setSensor s n { x with
    i3cBusy := false, i3cNack := nack, i3cDone := true, i3cRx := if nack then x.i3cRx else x.i3cRx ++ rx.take x.i3cLen }

/-- I3C_TX: queue a byte. -/
def i3cTx (n : Nat) (b : Byte) (s : State) : State :=
  let x := getSensor s n
  setSensor s n { x with i3cTx := x.i3cTx ++ [b] }

/-- I3C_RX: the next byte with bit 31 set, or 0. -/
def i3cRx (n : Nat) (s : State) : State :=
  let x := getSensor s n
  if !pageLive s (sensorPage n) || (hdr s (sensorPage n)).inReset then { s with out := 0 }
  else match x.i3cRx with
    | b :: t => setSensor { s with out := 2 ^ 31 + b.toNat } n { x with i3cRx := t }
    | [] => { s with out := 0 }

def execI3cCmd (rq : Requester) (n : Nat) (word : BitVec 32) (s : State) : Out :=
  .next (if n < 4 then regOp rq (sensorPage n) 0x184 (i3cCmd n word.toNat) s else s)
def execI3cTransferDone (n : Nat) (nack : Bool) (rx : List Byte) (s : State) : Out :=
  act (fun s => if n < 4 ∧ blockUp s (sensorPage n) = true then i3cDone n nack rx s else s) s
def execI3cTx (rq : Requester) (n : Nat) (byte : Byte) (s : State) : Out :=
  .next (if n < 4 then regOp rq (sensorPage n) 0x18C (i3cTx n byte) s else s)
def execI3cRx (_rq : Requester) (n : Nat) (s : State) : Out := actBus (fun s => if n < 4 then i3cRx n s else s) s

end Sys2Proof.Machine
end

