-- ==== Sys2Proof/Machine/SfLink.lean ====
section
/-! DEFINITION. Selfold ports (R345–R351, R357, R366): the link machine, received flits, acknowledgement and retry, policing,
forwarding and delivery. Ports 0–7 of a link command are MSL0–7 and 8–11 are SF0–3. -/
namespace Sys2Proof.Machine

/-! ## The link (R345, R351) -/

/-- The policer's buckets are full (R326). -/
def sfFill (s : State) (p : Nat) : State :=
  let pg := sfPage p
  setSf s p { getSf s p with
    tokC := rbits s pg 0 0x114 24 0 * 1000000, tokP := rbits s pg 0 0x118 24 0 * 1000000, tokTick := s.tick }

/-- The link has left UP (R351): unacknowledged flits and half-received packets are gone, frames that were crossing it are
lost, here and in the homes of this device. -/
def sfLost (s : State) (p : Nat) : State :=
  let s1 := sfLinkLost s p
  let s2 := { s1 with casc := { s1.casc with rxBuf := s1.casc.rxBuf.filter fun b => b.port != p } }
  loseAll s2 (fun m => m.dev != s2.casc.devId && routeTo s2 m.dev == some p) false

/-- The link goes down by itself: its event and fault (R367). -/
def sfDown (s : State) (p : Nat) : State := raiseFault (setEvt (sfLost s p) (sfPage p) 1) (sfPage p) 0 0

/-- A link event on port SFp. -/
def sfLink (p : Nat) (e : LinkEv) (s : State) : State :=
  let pg := sfPage p
  if !blockUp s pg then s
  else
    let x := getSf s p
    let l := (linkStep (rbits s pg 0 0x100 0 0 == 1) 4 x.link e).1
    let s1 := setSf s p { x with link := l }
    if x.link.st = 3 ∧ l.st ≠ 3 then sfDown s1 p
    else if x.link.st ≠ 3 ∧ l.st = 3 then setEvt (sfFill s1 p) pg 0
    else s1

/-- A link event on a bonded port. -/
def anyLink (port : Nat) (e : LinkEv) (s : State) : State :=
  if port < 8 then sensorLink port e s else if port < 12 then sfLink (port - 8) e s else s

def execLinkTrain (port : Nat) (s : State) : Out := act (anyLink port .train) s
def execSyncHeaderLock (port : Nat) (s : State) : Out := act (anyLink port .lock) s
def execSyncHeaderLoss (port : Nat) (s : State) : Out := act (anyLink port .loss) s
def execAlignRound (port skew : Nat) (consistent inPlace : Bool) (s : State) : Out :=
  act (anyLink port (.align skew consistent inPlace)) s
def execAlignRoundMissing (port : Nat) (s : State) : Out := act (anyLink port .missing) s
/-- SERDES_PLL_LOL (R431): only the port of the PLL goes to DOWN. -/
def execSerdesPllLol (port : Nat) (s : State) : Out := act (anyLink port .down) s

/-! ## LINK flits (R348, R350) -/

/-- The payload of a LINK flit; `nak` names the class that asks for the rest. -/
def linkPayload (x : SfPort) (nak : Option Nat) : List Byte :=
  (List.range 8).flatMap fun c =>
    let r := getIx x.rx c {}
    toBE 1 (if r.seen then (r.next + 255) % 256 else 0) ++ toBE 1 ((if nak = some c then 1 else 0) + (if r.seen then 2 else 0))

/-- Send a LINK flit: every taken flit is then acknowledged. -/
def sendLink (s : State) (p : Nat) (nak : Option Nat) : State :=
  let x := getSf s p
  sendPlain (setSf s p { x with rx := x.rx.map fun r => { r with taken := 0 } }) p 2 x.peer (linkPayload x nak)

/-- A NAK for a class, at once (R350). -/
def sendNak (s : State) (p c : Nat) : State := sendLink (bump s (sfPage p) 0 0x124 1) p (some c)

/-- FENCE to the peer (R357). -/
def sendFence (s : State) (p : Nat) : State :=
  let d := (getSf s p).peer
  setEvt (sendPlain (setSf s p { getSf s p with fenceAt := some s.tick, heard := false }) p 6 d
    (toLE 1 s.casc.epoch.toNat ++ toLE 2 d)) (sfPage p) 2

/-- 10 µs have passed since the last FENCE to the peer (R357). -/
def fenceDue (s : State) (p : Nat) : Bool := match (getSf s p).fenceAt with | some t => decide (t + 1000 ≤ s.tick) | none => true

/-- A flit of another epoch (R357): counted, and answered with FENCE when the peer has been declared dead, every 10 µs while it
keeps sending. -/
def epochDrop (s : State) (p : Nat) : State :=
  let s1 := setEvt (bump s (sfPage p) 0 0x12C 1) (sfPage p) 3
  if !(getSf s1 p).deadPeer then s1
  else if fenceDue s1 p then sendFence s1 p
  else setSf s1 p { getSf s1 p with heard := true }

namespace Flit
def typ (b : List Byte) : Nat := byteAt b 0 / 32
def cls (b : List Byte) : Nat := byteAt b 0 / 4 % 8
def colour (b : List Byte) : Nat := byteAt b 0 % 4
def epoch (b : List Byte) : Nat := byteAt b 1
def seq (b : List Byte) : Nat := byteAt b 2
def valid (b : List Byte) : Nat := min 240 (byteAt b 3)
def dst (b : List Byte) : Nat := beAt b 4 2 / 32
def sop (b : List Byte) : Bool := beAt b 4 2 / 16 % 2 == 1
def eop (b : List Byte) : Bool := beAt b 4 2 / 8 % 2 == 1
def src (b : List Byte) : Nat := beAt b 6 2 / 32
def payload (b : List Byte) : List Byte := (b.drop 8).take (valid b)
def crcOk (b : List Byte) : Bool := b.length == 256 && crc64 (b.take 248) == beAt b 248 8
end Flit

/-- The message is EPOCH, which is taken at any epoch (R357, assumption 44). -/
def isEpochMsg (b : List Byte) : Bool := Flit.typ b == 1 && byteAt b 8 == 3

/-- A received flit is discarded before its type matters: a failed CRC asks for the class again, a reserved type is counted,
another epoch is dropped. -/
def flitReject (s : State) (p : Nat) (b : List Byte) : Option State :=
  if !Flit.crcOk b then some (sendNak (bump s (sfPage p) 0 0x120 1) p (Flit.cls b))
  else if Flit.typ b = 7 then some (bump s (sfPage p) 0 0x120 1)
  else if Flit.epoch b ≠ s.casc.epoch.toNat ∧ isEpochMsg b = false then some (epochDrop s p)
  else none

/-! ## Acknowledgement and retry (R349–R351) -/

/-- SF_RETRY.TMO and MAX (R367). -/
def sfTmo (s : State) (p : Nat) : Nat := rbits s (sfPage p) 0 0x108 15 0
def sfMax (s : State) (p : Nat) : Nat := rbits s (sfPage p) 0 0x108 19 16

/-- Release `k` acknowledged flits of a class: Rel moves on and the mark with it (R349). -/
def sfFree (s : State) (p c k : Nat) : State :=
  let f := getFifo s (retryFifo p c)
  let r := fifoAdd (fifoLog s (retryFifo p c)) f.rel (64 * k)
  if k = 0 then s else fifoStore s (retryFifo p c) { f with rel := r, m := r }

/-- Send the flits of a class again from its mark, under the epoch in force. -/
def resend (s : State) (p : Nat) : List TxFlit → List TxFlit × State
  | [] => ([], s)
  | t :: rest =>
    if t.sent = 0 then (t :: rest, s)
    else
      let b := restamp s.casc.epoch.toNat t.bytes
      let q := resend (emit s (.flit p b)) p rest
      ({ t with bytes := b, sent := t.sent + 1, at_ := s.dt } :: q.1, q.2)

/-- The words of the retry FIFO that the flits sent of a class hold, from its mark on, are read again: uncorrectable ones count and
raise FIFO_UE (R265). -/
def rereadRetry (s : State) (p c : Nat) : State :=
  let f := retryFifo p c
  let n := 64 * ((getTx s p c).unacked.filter (·.sent != 0)).length
  let l := (List.range n).map fun i => fifoAddr s f ((getFifo s f).m + i)
  (l.filter s.comPoison.contains).foldl (fun s a => fifoUe s f a) s

/-- Rewind a class (R351), or give up: the link goes DOWN and SF_RETRY_LIMIT is raised. -/
def sfRewind (s : State) (p c : Nat) : State :=
  let t := getTx s p c
  if !t.unacked.any (·.sent != 0) then s
  else
    if t.unacked.any fun f => decide (sfMax s p + 1 ≤ f.sent) then raiseFault (sfLink p .down s) (sfPage p) 1 0
    else
      let r := resend (rereadRetry (bump s (sfPage p) 0 0x128 1) p c) p t.unacked
      setTx r.2 p c { t with unacked := r.1 }

/-- What a LINK flit says of a class (R350): it acknowledges up to a SEQ, or with NAK before it, and asks for the rest. -/
def linkCls (p : Nat) (b : List Byte) (s : State) (c : Nat) : State :=
  let fl := byteAt b (8 + 2 * c + 1)
  let nak := fl % 2 == 1
  if !sfUp s p then s
  else
    let t := getTx s p c
    let k := if fl / 2 % 2 = 1 then
        match findIx (fun f : TxFlit => f.seq == byteAt b (8 + 2 * c) && f.sent != 0) t.unacked 0 with
        | some (i, _) => if nak then i else i + 1
        | none => 0
      else 0
    let s1 := setTx (sfFree s p c k) p c { t with unacked := t.unacked.drop k }
    let s2 := if nak then sfRewind s1 p c else s1
    if sfUp s2 p then
      let t2 := getTx s2 p c
      let r := sfPump s2 p c t2.unacked
      setTx r.2 p c { t2 with unacked := r.1 }
    else s2

/-- LINK (R350). -/
def linkFlit (p : Nat) (b : List Byte) (s : State) : State :=
  if 4 ≤ p ∨ sfUp s p = false then s
  else match flitReject s p b with
    | some s1 => s1
    | none => if Flit.typ b = 2 then (List.range 8).foldl (linkCls p b) s else s

/-- LINK_ACK_TIMER (R350). -/
def linkAckTimer (p : Nat) (s : State) : State :=
  if p < 4 ∧ sfUp s p = true ∧ (getSf s p).rx.any (·.taken != 0) = true then sendLink s p none else s

/-- RETRY_TIMEOUT (R351). -/
def retryTimeout (p c : Nat) (s : State) : State :=
  match ((getTx s p c).unacked.filter (·.sent != 0)).head? with
  | some f => if p < 4 ∧ sfUp s p = true ∧ f.at_ + nsT (sfTmo s p) ≤ s.dt then sfRewind s p c else s
  | none => s

def execLink (port : Nat) (flit : List Byte) (s : State) : Out := act (linkFlit port flit) s
def execLinkAckTimer (port : Nat) (s : State) : Out := act (linkAckTimer port) s
def execRetryTimeout (port cls : Nat) (s : State) : Out := act (retryTimeout port (cls % 8)) s

/-! ## DATA and MGMT flits (R350, R366) -/

/-- The marker on a DATA flit (R326, R366): its colour and the port's buckets. -/
def sfPolice (s : State) (p : Nat) (b : List Byte) : Nat × State :=
  let pg := sfPage p
  if rbits s pg 0 0x100 1 1 = 0 then (Flit.colour b, s)
  else
    let x := getSf s p
    let tok := sfTokens s pg x
    let r := trTcm (rbits s pg 0 0x100 2 2 == 1) (Flit.colour b) (Flit.valid b * 1000000) tok.1 tok.2
    let s1 := setSf s p { x with tokC := r.2.1, tokP := r.2.2, tokTick := s.tick }
    (r.1, if r.1 = 2 then bump s1 pg 0 0x134 1 else if r.1 = 1 then bump s1 pg 0 0x130 1 else s1)

/-- A flit of a packet for this device (R359): a whole packet is one unit for its home. -/
def sfCollect (s : State) (p : Nat) (b : List Byte) : State :=
  let mine := fun (r : RxBuf) => r.port == p && r.cls == Flit.cls b && r.src == Flit.src b
  let old := if Flit.sop b then some [] else (s.casc.rxBuf.find? mine).map (·.bytes)
  let rest := s.casc.rxBuf.filter fun r => !mine r
  let drop_ := { s with casc := { s.casc with rxBuf := rest } }
  match old with
  | none => s
  | some l =>
    let u := l ++ Flit.payload b
    if !Flit.eop b then { s with casc := { s.casc with rxBuf := rest ++ [⟨p, Flit.cls b, Flit.src b, u⟩] } }
    else match homeOf drop_ (Flit.src b) (Flit.cls b) with
      | some (h, i) => homeLeave (homeUnit drop_ h.stream i u) h.stream
      | none => drop_

/-- A flit for another device goes on along its route, with its source kept. -/
def sfForward (s : State) (b : List Byte) (colour : Nat) : State :=
  match routeTo s (Flit.dst b) with
  | some q => sendSrc s q (Flit.typ b) (Flit.cls b) colour (Flit.dst b) (Flit.src b) (Flit.sop b) (Flit.eop b) (Flit.payload b) none
  | none => s

/-- A taken flit: MGMT for this device is acted on by the message's own command, and wakes it from DOZE (R418); MGMT is not
policed. -/
def sfTaken (s : State) (p : Nat) (b : List Byte) : State :=
  if Flit.typ b = 1 then
    let s1 := if s.pwr.st = 2 ∧ rbits s pwrPg 0 0x11C 3 3 = 1 then wakeUp s else s
    if s1.casc.enumDone && Flit.dst b != s1.casc.devId && decide (Flit.dst b < 0x7FF) then sfForward s1 b (Flit.colour b) else s1
  else
    let r := sfPolice s p b
    if r.1 = 2 ∧ rbits s (sfPage p) 0 0x100 1 1 = 1 then r.2
    else if Flit.dst b = r.2.casc.devId then sfCollect r.2 p b
    else sfForward r.2 b r.1

/-- DATA (R350): checked, taken in order or refused with NAK, acknowledged after every 32. -/
def dataFlit (p : Nat) (b : List Byte) (s : State) : State :=
  if 4 ≤ p ∨ sfUp s p = false then s
  else match flitReject s p b with
    | some s1 => s1
    | none =>
      if 2 ≤ Flit.typ b then s
      else
        let c := Flit.cls b
        let x := getSf s p
        let r := getIx x.rx c {}
        if Flit.seq b ≠ r.next then sendNak s p c
        else
          let r1 := { r with next := (r.next + 1) % 256, taken := r.taken + 1, seen := true }
          let s1 := setSf s p { x with rx := setIx x.rx c r1 {} }
          let s2 := if sumN ((getSf s1 p).rx.map (·.taken)) = 32 then sendLink s1 p none else s1
          sfTaken s2 p b

def execData (port : Nat) (flit : List Byte) (s : State) : Out := act (dataFlit port flit) s

end Sys2Proof.Machine
end

