-- ==== Sys2Proof/Machine/Tiles.lean ====
section
/-! DEFINITION. The tiles' microcode (R209–R225): microwords, WAIT, safe points, budgets, machine checks, and TILE_CMD
(R221, R223, R227, R228). The ROM and the tile programs are not in the spec: each microword command is one word executed by a
tile that runs. -/
namespace Sys2Proof.Machine

/-! ## The sequencer -/

/-- A general register. -/
def gReg (x : Tile) (i : Nat) : LW := getIx x.g i 0
def setG (x : Tile) (i : Nat) (v : LW) : Tile := { x with g := setIx x.g i v 0 }

/-- The next word. -/
def nextWord (x : Tile) : Tile := goTo x ((x.upc + 1) % 2 ^ 17)

/-- A microword of R215: its MOP in bits [31:27] and its fields. -/
def mopWord (mop : Nat) (fields : List (Nat × Nat)) : Nat := mop * 2 ^ 27 + sumN (fields.map fun f => f.1 * 2 ^ f.2)

/-- A microword without its reserved bits. -/
def mopClean (w : Nat) : Nat :=
  match bits w 31 27 with
  | 0x00 | 0x0B | 0x0E => w / 2 ^ 27 * 2 ^ 27
  | 0x01 => w / 2 ^ 6 * 2 ^ 6
  | 0x07 => w / 2 ^ 8 * 2 ^ 8
  | 0x08 => w / 2 ^ 11 * 2 ^ 11
  | 0x0A => w / 2 ^ 27 * 2 ^ 27 + w % 2 ^ 17
  | 0x0C => w / 2 ^ 4 * 2 ^ 4
  | 0x0F => w / 2 ^ 22 * 2 ^ 22
  | _ => w

/-- The patch word at the tile's microaddress, where patch RAM has one; the ROM is not in the spec. -/
def patchWord (x : Tile) : Option Nat :=
  if 0x10000 ≤ x.upc ∧ x.upc < 0x10400 then some (ngetD x.patch (x.upc - 0x10000) 0).toNat else none

/-- The machine check that the fetch of the tile's microword raises (R215, R219, R225): the parity of a patch word or of a match
register compared, or a reserved MOP. -/
def fetchFault (x : Tile) : Option Nat :=
  match patchWord x with
  | some w => if !parityOk true 32 w then some 2 else if 0x0F < bits w 31 27 then some 5 else none
  | none => if x.upc < 0x10000 ∧ matchOk x = false then some 2 else none

/-- The tile's microword can be `w`: the patch word fetched; any, where it comes from the ROM. -/
def fetches (x : Tile) (w : Nat) : Bool :=
  match patchWord x with
  | some v => mopClean (v % 2 ^ 32) == w
  | none => true

/-- A tile's sequencer fetches: it runs, is not waiting, and neither fenced nor in reset. -/
def sequencing (s : State) (t : Nat) : Bool :=
  decide (t < 104) && (getTile s t).run == 1 && (getTile s t).wait.isNone && blockUp s (tilePage t)

/-- A tile executes microword `w`. -/
def microOk (s : State) (t w : Nat) : Bool :=
  sequencing s t && (fetchFault (getTile s t)).isNone && fetches (getTile s t) w

/-- Execute a microword, which the counters count (R460), or meet the machine check of its fetch. -/
def micro (t w : Nat) (op : State → State) (s : State) : State :=
  if microOk s t w then op (evT t 0x003 (if 0x10000 ≤ (getTile s t).upc then evT t 0x004 s else s))
  else match if sequencing s t then fetchFault (getTile s t) else none with
    | some c => tileMchk s t c 0
    | none => s

/-- The tile changes, `n` TCLK pass and the next word follows. -/
def thenNext (t n : Nat) (f : Tile → Tile) (s : State) : State := setTile s t (nextWord (spend (f (getTile s t)) n true))

/-- A microword of `n` TCLK that only changes its tile. -/
def plain (t w n : Nat) (f : Tile → Tile) (s : State) : State := micro t w (thenNext t n f) s

/-! ## The tile store (R209, R210) -/

/-- Lane words of a tile store. -/
def tsSize : Nat := 0x50000

/-- A lane word of the store. -/
def tsGet (x : Tile) (a : Nat) : LW := ngetD x.store a 0

/-- Write a lane word: the sparse form is kept and a poison mark goes. -/
def tsPut (x : Tile) (a : Nat) (w : LW) : Tile :=
  { x with store := if w = 0 then ndel x.store a else nset x.store a w, poison := x.poison.filter (· != a) }

/-- Write consecutive lane words. -/
def tsPutAll (x : Tile) (a : Nat) : List LW → Tile
  | [] => x
  | w :: r => tsPutAll (tsPut x a w) (a + 1) r

/-- The address of a load or store: a general register and an offset, in the 36 bits of a lane word. -/
def tsAddr (x : Tile) (base off : Nat) : Nat := ((gReg x base).toNat + off) % 2 ^ 36

/-- A corrected error of the tile store (R210, R228). -/
def tileCe (s : State) (t : Nat) : State :=
  let pg := tilePage t
  let s1 := bump (evT t 0x010 s) pg 0 0x11C 1
  let lim := rgetN s1 pg 0 0x120
  if lim ≠ 0 ∧ rgetN s1 pg 0 0x11C = lim then raiseFault (setEvt s1 pg 4) pg 1 0 else s1

/-- Access `n` lane words from address `a` at the tile-store port (R210, R336); `err` 1 is a corrected single-bit error, 2 a double-bit error, of a read. -/
def access (t a n err : Nat) (op : State → State) (s : State) : State :=
  if tsSize < a + n then tileMchk s t 9 (if tsSize ≤ a then a else tsSize)
  else if err = 2 then tileMchk s t 4 a
  else op (arbTake (if err = 1 then tileCe s t else s) (128 + t) 0 (rbits s tkbPg 0 0x200 6 0))

/-- A poisoned lane word was read: the job ends with its POISON flag set (R210). -/
def notePoison (x : Tile) (a n : Nat) : Tile :=
  if x.poison.any fun p => decide (a ≤ p) && decide (p < a + n) then { x with poisonFlag := true } else x

/-! ## Microwords (R215, R216) -/

def execMopNop (tile : Nat) (s : State) : Out := act (plain tile 0 1 id) s

def execAlu (tile : Nat) (d a b : Fin 32) (fn : BitVec 6) (s : State) : Out :=
  act (plain tile (mopWord 1 [(d.val, 22), (a.val, 17), (b.val, 12), (fn.toNat, 6)]) 1 fun x => setG x d (Config.aluFn fn (gReg x a) (gReg x b))) s

def execAlui (tile : Nat) (d a : Fin 32) (imm : BitVec 17) (s : State) : Out :=
  act (plain tile (mopWord 2 [(d.val, 22), (a.val, 17), (imm.toNat, 0)]) 1 fun x => setG x d (gReg x a + imm.signExtend 36)) s

/-- LDS. -/
def lds (t g base off err : Nat) (s : State) : State :=
  let a := tsAddr (getTile s t) base off
  access t a 1 err (thenNext t 3 fun x => setG (notePoison x a 1) g (tsGet x a)) s

def execLds (tile : Nat) (g base : Fin 32) (offset : BitVec 17) (err : Nat) (s : State) : Out :=
  act (micro tile (mopWord 3 [(g.val, 22), (base.val, 17), (offset.toNat, 0)]) (lds tile g base offset.toNat err)) s

/-- STS. -/
def sts (t g base off : Nat) (s : State) : State :=
  let a := tsAddr (getTile s t) base off
  access t a 1 0 (thenNext t 2 fun x => tsPut x a (gReg x g)) s

def execSts (tile : Nat) (g base : Fin 32) (offset : BitVec 17) (s : State) : Out :=
  act (micro tile (mopWord 4 [(g.val, 22), (base.val, 17), (offset.toNat, 0)]) (sts tile g base offset.toNat)) s

/-- A vector register, and its replacement. -/
def vReg (x : Tile) (i : Nat) : List LW := getIx x.v i (List.replicate 16 0)
def setV (x : Tile) (i : Nat) (l : List LW) : Tile := { x with v := setIx x.v i l (List.replicate 16 0) }

/-- VLD: 16 lane words. -/
def vld (t v base off err : Nat) (s : State) : State :=
  let a := tsAddr (getTile s t) base off
  access t a 16 err (thenNext t 2 fun x => setV (notePoison x a 16) v ((List.range 16).map fun i => tsGet x (a + i))) s

def execVld (tile : Nat) (v : Fin 16) (base : Fin 32) (offset : BitVec 18) (err : Nat) (s : State) : Out :=
  act (micro tile (mopWord 5 [(v.val, 23), (base.val, 18), (offset.toNat, 0)]) (vld tile v base offset.toNat err)) s

/-- VST: 16 lane words. -/
def vst (t v base off : Nat) (s : State) : State :=
  let a := tsAddr (getTile s t) base off
  access t a 16 0 (thenNext t 2 fun x => tsPutAll x a (vReg x v)) s

def execVst (tile : Nat) (v : Fin 16) (base : Fin 32) (offset : BitVec 18) (s : State) : Out :=
  act (micro tile (mopWord 6 [(v.val, 23), (base.val, 18), (offset.toNat, 0)]) (vst tile v base offset.toNat)) s

/-- A vector register as one value, lane word 0 lowest, and back. -/
def vPack (l : List LW) : BitVec 576 := BitVec.ofNat 576 (l.reverse.foldl (fun a w => a * 2 ^ 36 + w.toNat) 0)
def vUnpack (v : BitVec 576) : List LW := (List.range 16).map fun i => BitVec.ofNat 36 (v.toNat / 2 ^ (36 * i))

def execVop (tile : Nat) (vd va vb : Fin 16) (fn : BitVec 7) (s : State) : Out :=
  act (plain tile (mopWord 7 [(vd.val, 23), (va.val, 19), (vb.val, 15), (fn.toNat, 8)]) 1 fun x => setV x vd (vUnpack (Config.vopFn fn (vPack (vReg x va)) (vPack (vReg x vb))))) s

/-- The parameters G[P]–G[P+3] of a unit command; one past G31 is a free value. -/
def unitPar (x : Tile) (p k : Nat) : List LW :=
  (List.range 4).map fun i => if p + i < 32 then gReg x (p + i) else BitVec.ofNat 36 (Config.freeWord (k + i)).toNat

/-- What a unit does in the tile store at a command (R208, R210): it writes lane words from what the store holds and, where it is
the load engine, from HBM bytes or Commons lane words; those whose share of the bytes is poisoned are stored with their mark and set
the POISON flag. The commands, and so the places and the words, are not in the spec (assumption 22). -/
def unitAct (s : State) (x : Tile) (u : Nat) (cmd : Nat) (par : List LW) : Tile :=
  let m := Config.unitMove u cmd par
  let n := m.count
  let src := if u = 4 then (memRead s 1 m.hbm m.len).1 else []
  let com := if u = 4 then (List.range m.comLen).map fun i => comGet s (m.com + i) else []
  let bad := if u = 4 then (List.range n).filter fun i => (memRead s 1 (m.hbm + i * m.len / n) ((i + 1) * m.len / n - i * m.len / n)).2.2
    else []
  let y := tsPutAll x m.lw ((List.range n).map (Config.unitWord u cmd par x.store src com))
  { y with poison := bad.map (m.lw + ·) ++ y.poison, poisonFlag := y.poisonFlag || !bad.isEmpty }

/-- What the load engine writes to HBM and to the Commons at a command (R208). -/
def loadOut (s : State) (x : Tile) (u cmd : Nat) (par : List LW) : State :=
  if u ≠ 4 then s
  else
    let m := Config.unitMove u cmd par
    let s1 := if m.put = 0 then s
      else writeLoc s 1 m.hbm ((List.range m.put).map (Config.unitByte cmd par x.store)) false
    (List.range m.comPut).foldl (fun s i => comPut (comTake s (m.com + i) 0) (m.com + i) (Config.unitLane cmd par x.store i)) s1

/-- A unit command's lane words lie in the tile store (R209). -/
def unitFits (u cmd : Nat) (par : List LW) : Bool :=
  let m := Config.unitMove u cmd par
  m.count == 0 || decide (m.lw + m.count ≤ tsSize)

/-- UNIT: the unit takes the command with its parameters. Unit 7 and reserved commands are ILLEGAL, lane words outside the store
TS_BOUNDS (R209, R225). -/
def unitCmd (t u : Nat) (rsv : Bool) (cmd p : Nat) (s0 : State) : State :=
  if 6 < u ∨ rsv = true then tileMchk s0 t 5 0
  else
    let par := unitPar (getTile s0 t) p s0.freeCtr
    let s := { s0 with freeCtr := s0.freeCtr + 4 }
    if unitFits u cmd par then
      thenNext t 1 (fun x => { unitAct s x u cmd par with units := nset x.units u (cmd, par) })
        (loadOut (arbTake s (128 + t) 1 (rbits s tkbPg 0 0x200 6 0)) (getTile s t) u cmd par)
    else tileMchk s t 9 (max (Config.unitMove u cmd par).lw tsSize)

def execUnit (tile : Nat) (u : BitVec 3) (cmd : BitVec 8) (p : Fin 32) (s : State) : Out :=
  act (micro tile (mopWord 8 [(u.toNat, 24), (cmd.toNat, 16), (p.val, 11)]) (unitCmd tile u.toNat (Config.unitReserved u cmd) cmd.toNat p)) s

/-- Whether a branch condition holds; none for a reserved one (R215). -/
def brHolds (x : Tile) (cond g : Nat) : Option Bool :=
  match cond with
  | 0 => some true
  | 1 => some (gReg x g == 0)
  | 2 => some (gReg x g != 0)
  | 3 => some (gReg x g).msb
  | 4 => some x.toFlag
  | 5 => some x.poisonFlag
  | 6 => some (reqPending x)
  | _ => none

/-- BR. -/
def branch (t cond g target : Nat) (s : State) : State :=
  let x := getTile s t
  match brHolds x cond g with
  | none => tileMchk s t 5 0
  | some true => setTile s t (goTo (spend x 2 true) target)
  | some false => setTile s t (nextWord (spend x 1 true))

def execBr (tile : Nat) (cond : BitVec 5) (g : Fin 32) (target : BitVec 17) (s : State) : Out :=
  act (micro tile (mopWord 9 [(cond.toNat, 22), (g.val, 17), (target.toNat, 0)]) (branch tile cond.toNat g target.toNat)) s

/-- CALL (R216): a third return address is STACK. -/
def callTo (t target : Nat) (s : State) : State :=
  let x := getTile s t
  if 2 ≤ x.stack.length then tileMchk s t 6 0
  else setTile s t (goTo (spend { x with stack := x.stack ++ [(x.upc + 1) % 2 ^ 17] } 2 true) target)

def execCall (tile : Nat) (target : BitVec 17) (s : State) : Out := act (micro tile (mopWord 0x0A [(target.toNat, 0)]) (callTo tile target.toNat)) s

/-- RET (R216). -/
def retFrom (t : Nat) (s : State) : State :=
  let x := getTile s t
  match x.stack.getLast? with
  | none => tileMchk s t 6 0
  | some a => setTile s t (goTo (spend { x with stack := x.stack.dropLast } 2 true) a)

def execRet (tile : Nat) (s : State) : Out := act (micro tile (mopWord 0x0B []) (retFrom tile)) s

/-! ## WAIT (R217, R218) -/

/-- The cycles of a WAIT count against the budget: not with EXP = 1 in an encode job (R214). -/
def waitCounts (x : Tile) (exp : Bool) : Bool := !exp || x.kind == 1

/-- Go on after a WAIT with TO as given. -/
def waitEnd (x : Tile) (late : Bool) : Tile := nextWord { x with wait := none, toFlag := late }

/-- DEP_DONE (R217): every job that the tile's job depends on has ended. -/
def tileDeps (s : State) (t : Nat) : Bool :=
  match tileJob s t with
  | some j => depsDone s (((jobPic s j).map (·.2.cfg)).getD []) j
  | none => true

/-- Whether a WAIT condition holds: those that the state shows are its own, and `holds` tells the others. -/
def condHolds (s : State) (t cond : Nat) (holds : Bool) : Bool :=
  match cond with
  | 0 => false
  | 0x09 => tileDeps s t
  | 0x0B => reqPending (getTile s t)
  | _ => holds

/-- WAIT: a reserved condition is ILLEGAL; TMO = 0 checks once. -/
def waitOn (t cond : Nat) (exp : Bool) (timeout : Nat) (holds : Bool) (s : State) : State :=
  let x := getTile s t
  let h := condHolds s t cond holds
  let y := spend x 1 (waitCounts x exp)
  if 0x0C ≤ cond then tileMchk s t 5 0
  else if h then setTile s t (waitEnd y false)
  else if timeout = 0 then evT t 0x008 (setTile s t (waitEnd y true))
  else setTile s t { y with wait := some { cond := cond, exp := exp, timeout := timeout, req := reqPending x } }

def execWait (tile : Nat) (cond : BitVec 6) (exp : Bool) (tmo : BitVec 12) (tsh : BitVec 4) (holds : Bool) (s : State) : Out :=
  act (micro tile (mopWord 0x0C [(cond.toNat, 21), (if exp then 1 else 0, 20), (tmo.toNat, 8), (tsh.toNat, 4)]) (waitOn tile cond.toNat exp (tmo.toNat * 2 ^ tsh.toNat) holds)) s

/-- A tile that waits. -/
def waiting (s : State) (t : Nat) : Option WaitSt :=
  if t < 104 ∧ (getTile s t).run = 1 ∧ blockUp s (tilePage t) = true then (getTile s t).wait else none

/-- The cycles of a WAIT, as the counters count them (R460). -/
def waitEv (t : Nat) (w : WaitSt) (n : Nat) (s : State) : State := perfEvt (some t) (if w.exp then 0x006 else 0x007) n s

/-- `n` more TCLK of a WAIT pass. A request that arrived meanwhile has been pending for a part of them that nothing tells: its
age is a free value up to `n` (R222). -/
def waitSpend (s : State) (t : Nat) (w : WaitSt) (n : Nat) : Tile × State :=
  let x := getTile s t
  let y := { x with used := if waitCounts x w.exp then x.used + n else x.used }
  if w.req then ({ y with reqAge := x.reqAge + n }, s)
  else if reqPending x then ({ y with reqAge := (Config.freeWord s.freeCtr).toNat % (n + 1) }, { s with freeCtr := s.freeCtr + 1 })
  else (y, s)

/-- WAIT_CONDITION_MET (R217): after `cycles` of the wait; at its last TCLK the condition wins. -/
def waitMet (t cycles : Nat) (s : State) : State :=
  match waiting s t with
  | some w =>
    if w.timeout < cycles ∨ cycles < w.gone ∨ condHolds s t w.cond true = false then s
    else
      let y := waitSpend s t w (cycles - w.gone)
      waitEv t w cycles (setTile y.2 t (waitEnd y.1 false))
  | none => s

/-- WAIT_TIMEOUT (R217): a condition that the state shows to hold wins. -/
def waitExpires (t : Nat) (s : State) : State :=
  match waiting s t with
  | some w =>
    let y := waitSpend s t w (w.timeout - w.gone)
    if condHolds s t w.cond false then waitEv t w w.timeout (setTile y.2 t (waitEnd y.1 false))
    else evT t 0x008 (waitEv t w w.timeout (setTile y.2 t (waitEnd y.1 true)))
  | none => s

def execWaitConditionMet (tile cycles : Nat) (s : State) : Out := act (waitMet tile cycles) s
def execWaitTimeout (tile : Nat) (s : State) : Out := act (waitExpires tile) s

/-! ## Safe points (R221–R224) -/

/-- The resume record (R223) for a request code. -/
def resumeRec (x : Tile) (req : Nat) : List LW :=
  let ret := fun (i : Nat) => getIx x.stack i 0
  [BitVec.ofNat 36 (x.upc + x.opaddr * 2 ^ 17 + req * 2 ^ 27 + x.stack.length * 2 ^ 29), BitVec.ofNat 36 (ret 0 + ret 1 * 2 ^ 17)] ++
    (List.range 8).map (gReg x) ++ [BitVec.ofNat 36 x.used] ++ List.replicate 5 0

/-- Write the resume record at LW 0x10–0x1F. -/
def putRecord (x : Tile) (req : Nat) : Tile := tsPutAll x 0x10 (resumeRec x req)

/-- The budget of a decode job has expired: its segment is damaged by TIMEOUT (R195, R214), and `ends` says that the job ends
for nothing else. -/
def timeoutJob (s : State) (j : Job) (ends : Bool) : State :=
  let s0 := if ends then { s with jobs := s.jobs.filter fun i => i.id != j.id } else s
  match getCtx s0 j.ctx with
  | some x => (match x.dec.run with
    | some r => setCtx s0 j.ctx { x with dec := { x.dec with
        run := some { r with left := if ends then r.left - 1 else r.left, timeouts := r.timeouts ++ [j.key] } } }
    | none => s0)
  | none => s0

/-- An ABORT is taken (R221, R224): the job ends, as aborted unless it was the budget's alone. -/
def takeAbort (s : State) (t : Nat) : State :=
  let x := getTile s t
  let s1 := setTile s t (putRecord (spend x 12 true) 3)
  let s2 := match tileJob s1 t with
    | some j =>
      let s2 := if x.reqB then timeoutJob s1 j (!x.reqA) else s1
      if x.reqA then loseJob s2 j 0 else s2
    | none => s1
  evT t 0x00B (evT t 0x00A (setEvt (tileFree s2 t) (tilePage t) 0))

/-- SAFEPT (R221): the pending request of the highest priority is taken: ABORT, HALT, PREEMPT; its record passes the tile-store
port (R336). -/
def safePoint (t : Nat) (s0 : State) : State :=
  let x := getTile s0 t
  let s := if reqPending x then arbTake s0 (128 + t) 0 (rbits s0 tkbPg 0 0x200 6 0) else s0
  if x.reqA || x.reqB then takeAbort s t
  else if x.reqH then
    evT t 0x00A <| setEvt (setTile s t { putRecord (spend x 12 true) 2 with
      run := 3, reqH := false, reqAge := 0, stepping := false }) (tilePage t) 3
  else if x.reqP then
    evT t 0x00A <| setEvt (setTile s t { putRecord (spend x 12 true) 1 with run := 2, reqP := false, reqAge := 0 }) (tilePage t) 2
  else setTile s t (nextWord (spend x 1 true))

def execSafept (tile : Nat) (s : State) : Out := act (micro tile (mopWord 0x0D []) fun s => safePoint tile (evT tile 0x009 s)) s

/-- OPDONE (R212): the next op word is fetched and its routine starts, at a microaddress the ROM gives (a free value); one
without a routine is ILLEGAL. A tile that steps halts again (R228), with a record from which RESUME goes on. -/
def opDone (t : Nat) (s : State) : State :=
  let x := getTile s t
  let a := (x.opaddr + 1) % 1024
  match opFault x a with
  | some c => tileMchk s t c 0
  | none =>
    let k := fresh s
    let y := goTo (spend { x with opaddr := a } 2 true) ((Config.freeWord k.1).toNat % 2 ^ 17)
    if x.stepping then
      let z := putRecord { y with upc := (y.upc + 2 ^ 17 - 1) % 2 ^ 17 } 2
      setEvt (setTile k.2 t { z with run := 3, stepping := false }) (tilePage t) 3
    else setTile k.2 t y

def execOpdone (tile : Nat) (s : State) : Out := act (micro tile (mopWord 0x0E []) fun s => opDone tile (evT tile 0x005 s)) s

/-- The job of a picture ends without output, by a status code of R12 that says so; any other code is no status of a completion
entry, and the job ends as aborted. -/
def jobFails (s : State) (j : Job) (st : Nat) : State :=
  if j.dec = false ∧ [0x08, 0x09, 0x0A, 0x0C, 0x0E, 0x0F].contains st ∧ (jobPic s j).any (fun e => lostCause s j == 0 && e.2.endSt == 0) then
    loseJob (withPic s j.ctx j.pic fun p => { p with endSt := st }) j 0
  else loseJob s j 0

/-- JEND (R215): the job ends with the status in a general register: 0 to 2 deliver its output (R12). A diagnostic job only frees
its tile. -/
def jobEndWord (t g : Nat) (s : State) : State :=
  let s1 := setTile s t (spend (getTile s t) 4 true)
  match tileJob s1 t with
  | none => evT t 0x00B (setEvt (tileFree s1 t) (tilePage t) 0)
  | some j =>
    let st := (gReg (getTile s t) g).toNat % 256
    if st ≤ 2 then jobEnd j.id s1 else evT t 0x00B (setEvt (tileFree (jobFails s1 j st) t) (tilePage t) 0)

def execJend (tile : Nat) (g : Fin 32) (s : State) : Out := act (micro tile (mopWord 0x0F [(g.val, 22)]) (jobEndWord tile g)) s

/-! ## Budgets and machine checks (R214, R222, R225) -/

/-- A tile whose program runs or waits. -/
def tileRuns (s : State) (t : Nat) : Bool := decide (t < 104) && (getTile s t).run == 1 && blockUp s (tilePage t)

/-- TCLK that may still pass in the tile's WAIT, if it waits. -/
def waitLeft (x : Tile) : Nat := (x.wait.map fun w => w.timeout - w.gone).getD 0

/-- SP_TMO (R222): the request has been pending for 65,536 TCLK, those of a WAIT that runs among them. -/
def spTimeout (t : Nat) (s : State) : State :=
  if tileRuns s t && reqPending (getTile s t) && decide (65536 ≤ (getTile s t).reqAge + waitLeft (getTile s t)) then tileMchk s t 8 0
  else s

/-- The count of a tile reaches `b`, inside a WAIT where it does so there. -/
def reachBudget (s : State) (t b : Nat) : State :=
  let x := getTile s t
  match x.wait with
  | some w =>
    let n := b - x.used
    let y := waitSpend s t w n
    setTile y.2 t { y.1 with wait := some { w with gone := w.gone + n, req := w.req || reqPending x } }
  | none => s

/-- BUDGET_EXPIRY (R214): a machine check of an encode job, an abort request of a decode job. -/
def budgetEnds (t : Nat) (s : State) : State :=
  let x := getTile s t
  let room := if x.wait.any fun w => waitCounts x w.exp then waitLeft x else 0
  match if tileRuns s t then x.budget else none with
  | none => s
  | some b =>
    if x.used + room < b then s
    else
      let s1 := reachBudget s t b
      let y := getTile s1 t
      if x.kind = 1 then setTile s1 t { y with reqB := true, wait := y.wait.map fun w => { w with req := true } }
      else if x.kind = 0 then tileMchk s1 t 7 0 else s

/-- MACHINE_CHECK (R225): of a cause of the table. -/
def machineCheck (t cause addr : Nat) (s : State) : State :=
  if tileRuns s t && decide (1 ≤ cause) && decide (cause ≤ 0x0B) then tileMchk s t cause addr else s

def execSpTmo (tile : Nat) (s : State) : Out := act (spTimeout tile) s
def execBudgetExpiry (tile : Nat) (s : State) : Out := act (budgetEnds tile) s
def execMachineCheck (tile cause addr : Nat) (s : State) : Out := act (machineCheck tile cause addr) s

/-! ## TILE_CMD (R221, R223, R227, R228) -/

/-- A request or command discarded and counted in TILE_REQ_DENY. -/
def tileDeny (s : State) (t : Nat) : State := bump s (tilePage t) 0 0x128 1

/-- A TILE_CMD write: it takes effect from a Steward only (R227). -/
def tileCmd (rq : Requester) (t : Nat) (op : State → State) (s : State) : State :=
  if 104 ≤ t then s
  else regOp rq (tilePage t) 0x104 (fun s => if isSteward rq then op s else tileDeny s t) s

/-- The tile holds a job that runs, is suspended or halted: an idle tile discards requests (R221). -/
def tileBusy (x : Tile) : Bool := x.run == 1 || x.run == 2 || x.run == 3

/-- PREEMPT (R221). -/
def preemptOp (t : Nat) (s : State) : State :=
  let x := getTile s t
  if !tileBusy x then s else if x.kind ≠ 2 then tileDeny s t else setTile s t { x with reqP := true }

/-- HALT (R221). -/
def haltOp (t : Nat) (s : State) : State :=
  let x := getTile s t
  if !tileBusy x then s
  else if !debugUnlocked s || pageHeld s (tilePage t) then tileDeny s t
  else setTile s t { x with reqH := true }

/-- RESUME (R223): G00–G07 and the call stack return from the record, and the tile goes on after the SAFEPT. -/
def resumeOp (t : Nat) (s : State) : State :=
  let x := getTile s t
  if x.run ≠ 2 ∧ x.run ≠ 3 then tileDeny s t
  else
    let w0 := (tsGet x 0x10).toNat
    let w1 := (tsGet x 0x11).toNat
    let g := (List.range 8).foldl (fun l i => setIx l i (tsGet x (0x12 + i)) 0) x.g
    setTile s t (nextWord { x with
      run := 1, stepping := false, g := g, upc := bits w0 16 0
      stack := [bits w1 16 0, bits w1 33 17].take (bits w0 30 29) })

/-- STEP (R228): a halted tile executes one tile operation. -/
def stepOp (t : Nat) (s : State) : State :=
  let x := getTile s t
  if x.run ≠ 3 then tileDeny s t else setTile s t (nextWord { x with run := 1, stepping := true })

/-- RETIRE (R227): of a fenced tile; with PERMANENT it programs the RET fuse, which the next boot senses. -/
def retireOp (t : Nat) (perm : Bool) (s : State) : State :=
  if !(hdr s (tilePage t)).fenced then tileDeny s t
  else
    let s1 := if (tileJob s t).isSome then tileDropJob s t else s
    let s2 := setTile s1 t { getTile s1 t with enabled := false, run := 6, ungated := false, retired := true }
    if perm then { s2 with fuses := { s2.fuses with retBurnt := s2.fuses.retBurnt ||| BitVec.ofNat 104 (2 ^ t) } } else s2

/-- A spare tile (R226): EN = 0, RET = 0 as sensed, not enabled, and not retired since. -/
def isSpare (s : State) (t : Nat) : Bool :=
  !s.fuses.en.getLsbD t && !s.fuses.ret.getLsbD t && !(getTile s t).enabled && !(getTile s t).retired

/-- PROMOTE (R227). -/
def promoteOp (t : Nat) (s : State) : State :=
  if isSpare s t && (getTile s t).patchLocked && decide (((List.range 104).filter fun i => (getTile s i).enabled).length < 96) then
    setTile s t { getTile s t with enabled := true, run := if (getTile s t).run = 6 then 0 else (getTile s t).run }
  else tileDeny s t

def execPreempt (rq : Requester) (tile : Nat) (s : State) : Out := .next (tileCmd rq tile (preemptOp tile) s)
def execResume (rq : Requester) (tile : Nat) (s : State) : Out := .next (tileCmd rq tile (resumeOp tile) s)
def execHalt (rq : Requester) (tile : Nat) (s : State) : Out := .next (tileCmd rq tile (haltOp tile) s)
def execStep (rq : Requester) (tile : Nat) (s : State) : Out := .next (tileCmd rq tile (stepOp tile) s)
def execRetire (rq : Requester) (tile : Nat) (permanent : Bool) (s : State) : Out :=
  .next (tileCmd rq tile (retireOp tile permanent) s)
def execPromote (rq : Requester) (tile : Nat) (s : State) : Out := .next (tileCmd rq tile (promoteOp tile) s)

/-! ## TILE_TS_DATA (R74, R228) -/

/-- The latch of a LO/HI pair for a requester: named by its HI word (R74). DESIGN CHOICE (assumption 66): a windowed register
has one latch for all its instances. -/
def latchKey (rq : Requester) (page hiOff : Nat) : Nat := rqIx rq * 2 ^ 28 + page * 4096 + hiOff

/-- A register read reaches the page: it is powered, live and not in reset. -/
def readable (s : State) (page : Nat) : Bool := busUp s && pageLive s page && !(hdr s page).inReset

/-- The lane word that TILE_TS_ADDR names; one beyond the store, which the spec does not describe, is a free value. -/
def tsWord (s : State) (t : Nat) : Nat × State :=
  let a := rbits s (tilePage t) 0 0x130 18 0
  if a < tsSize then ((tsGet (getTile s t) a).toNat, s)
  else
    let k := fresh s
    ((Config.freeWord k.1).toNat % 2 ^ 36, k.2)

/-- A read of TILE_TS_DATA_LO or _HI: the LW while debug is unlocked and the tile does not run, else 0 and a count. LO latches
HI. -/
def tsRead (rq : Requester) (t : Nat) (hi : Bool) (s : State) : State :=
  let pg := tilePage t
  let key := latchKey rq pg 0x138
  if 104 ≤ t ∨ readable s pg = false then { s with out := 0 }
  else if !debugUnlocked s || (getTile s t).run == 1 then tileDeny { s with out := 0 } t
  else if hi then
    match nget s.latches key with
    | some v => { s with out := v.toNat, latches := ndel s.latches key }
    | none =>
      let w := tsWord s t
      { w.2 with out := w.1 / 2 ^ 32 }
  else
    let w := tsWord s t
    { w.2 with out := w.1 % 2 ^ 32, latches := nset s.latches key (BitVec.ofNat 32 (w.1 / 2 ^ 32)) }

def execTileTsDataRead (rq : Requester) (tile : Nat) (hi : Bool) (s : State) : Out := .next (tsRead rq tile hi s)

end Sys2Proof.Machine
end

