-- ==== Sys2Proof/Machine/Reset.lean ====
section
/-! DEFINITION. Resets (R71, R247, R391, R419–R427, R449): the resets of the main die, TILE and BLOCK resets, and the page and
queue aborts (R62, R221, R282, R310). -/
namespace Sys2Proof.Machine

/-! ## Locks (R71, R424) -/

/-- The requester classes that a main-die reset resets: 0 POR, 1 COLD, 2 and 3 WARM, 4 FLR, 5 CASCADE. A Steward takes every
one; COLD includes what WARM and CASCADE do (R421). -/
def classReset (kind : Nat) : Option Requester → Bool
  | some .host => kind != 5
  | some (.steward _) => true
  | some .master => kind == 1 || kind == 5
  | none => false

/-- A page header after a main-die reset: its lock is released as R71 states, all else takes its reset value. -/
def resetHdr (kind : Nat) (h : PageHdr) : PageHdr :=
  if kind = 0 then {}
  else
    let k := if h.lockHeld && (classReset kind h.lockClass || decide (h.lockOwner.toNat < 1024)) then breakLock h else h
    { lockHeld := k.lockHeld, lockBroken := k.lockBroken, lockOwner := k.lockOwner, lockGrants := k.lockGrants, lockClass := k.lockClass }

/-! ## Resets of the main die -/

/-- The reset is a WARM or FLR and HBM_PRESERVE is 1 (R247). -/
def keepsHbm (s : State) (kind : Nat) : Bool := decide (2 ≤ kind) && decide (kind ≤ 4) && rbits s (phyPage 0) 0 0x104 0 0 == 1

/-- The queued accesses of every pseudo-channel finish before self-refresh, with what they raise (R247). -/
def drainHbm (s : State) : State := s.pcs.foldl (fun s e => drainPc s e.1) s

/-- The Island sees the main die in reset or unpowered (R379). -/
def islSeesReset (x : Isl) : Isl :=
  { x with frames := x.frames.map fun f => if f.closed then f else { f with flags := f.flags ||| 2 ^ 9 } }

/-- The cascade semaphores after a reset of the master (R364, assumption 60): a COLD or CASCADE reset of the device that owns one
releases it with BROKEN set, as the release of an owning context does, which every reset of the main die brings. -/
def resetSems (kind : Nat) (s : State) : NMap Sem :=
  if kind = 0 then []
  else (breakSems s fun m => m.dev == s.casc.devId && (kind == 1 || kind == 5 || decide (m.owner < 1024))).casc.sems

/-- A reset of the main die (R391, R419, R422–R424): every class takes the value its column of R423 gives it, and boot is to
run again. What lies outside the main die stays: commands waiting, host memory, flash, fuses, straps, the Island and, but for POR, the TAP. -/
def mainReset (kind : Nat) (s : State) : State :=
  let keep := keepsHbm s kind
  let s0 := if keep then drainHbm s else s
  { State.reset with
    pending := s.pending, freeCtr := s.freeCtr, nextId := s.nextId, out := s.out, emitted := (dropFrames s0).emitted
    hostMem := s.hostMem, hostErr := s.hostErr, hostPoison := s.hostPoison
    flash := s.flash, flashSize := s.flashSize, flashOk := s.flashOk, fuses := s.fuses, straps := s.straps
    isl := islSeesReset s.isl, jtag := if kind = 0 then {} else s.jtag
    hdrs := if kind = 0 then [] else s.hdrs.map fun e => (e.1, resetHdr kind e.2)
    regs := if (kind = 2 ∨ kind = 3 ∨ kind = 4) ∧ rbits s (phyPage 0) 0 0x104 0 0 = 1 then [(rkey (phyPage 0) 0 0x104, 1)] else []
    hbm := if keep then s0.hbm else [], hbmPoison := if keep then s0.hbmPoison else []
    phys := if keep then s.phys.map fun p => { p with st := 3 } else [{}, {}]
    casc := { State.reset.casc with fenced := kind == 5 && s.casc.fenced, sems := resetSems kind s }
    boot := { State.reset.boot with
      unlockPend := s.boot.unlockPend && (kind == 2 || kind == 3 || kind == 4)
      lifecycle := if s.fuses.rma then 2 else 0, svnMin := s.fuses.svnMin
      islBlock := s.boot.islPend.getLast?.getD s.boot.islBlock, pcieUp := s.boot.pcieUp && (kind == 4 || kind == 5) }
    rst := if kind = 0 then {} else { State.reset.rst with
      kind := kind, hbmKept := keep, fromFault := s0.flt.fault, count := min 0xFFFF (s.rst.count + 1)
      flrMs := if kind = 1 then 22000 else s.rst.flrMs }
    clk := { State.reset.clk with pcieOk := s.clk.pcieOk, ethOk := s.clk.ethOk }
    flt := if kind = 0 then {} else { State.reset.flt with
      log := s0.flt.log, head := s0.flt.head, wrapped := s0.flt.wrapped, first := s0.flt.first } }

/-- The main die has power and is not held in COLD reset by the TAP, whose wider reset absorbs others (R421, R469). -/
def resettable (s : State) : Bool := s.pwr.mainOn && !s.jtag.held

/-- POR (R419): power rises, from OFF too. -/
def porOp (s : State) : State := mainReset 0 { s with pwr := {} }

/-- COLD (R419). -/
def coldOp (s : State) : State := if resettable s then mainReset 1 s else s

/-- WARM (R419): RST_CMD from the host or a Steward, PCIe Hot Reset, or link down. -/
def warmOp (cause : WarmCause) (s : State) : State :=
  if !resettable s then s
  else match cause with
    | .register rq => regOp rq rstPg 0x100 (fun s => if rq = .master then s else mainReset 2 s) s
    | .hotReset => mainReset 3 s
    | .linkDown => mainReset 3 { s with boot := { s.boot with pcieUp := false } }

/-- FLR (R419); in the fault state it is discarded and counted (R449). -/
def flrOp (s : State) : State :=
  if !resettable s then s else if s.flt.fault then bump s fltPg 0 0x138 1 else mainReset 4 s

/-- CASCADE (R358, R419). -/
def cascadeReset (s : State) : State :=
  if !resettable s then s else if s.flt.fault then bump s fltPg 0 0x138 1 else mainReset 5 s

/-- MAIN_POWER_LOSS (R416): the main die is OFF and has lost all it held. -/
def powerLoss (s : State) : State :=
  let s1 := mainReset 0 s
  { s1 with pwr := { s1.pwr with mainOn := false }, boot := { s1.boot with pcieUp := false }
            clk := {}, emitted := s.emitted }

def execPor (s : State) : Out := .next (porOp s)
def execCold (s : State) : Out := .next (coldOp s)
def execWarm (cause : WarmCause) (s : State) : Out := .next (warmOp cause s)
def execFlr (s : State) : Out := .next (flrOp s)
def execMainPowerLoss (s : State) : Out := .next (powerLoss s)
def execMgmtReset (s : State) : Out := .next (cascadeReset s)

/-! ## BLOCK and TILE resets (R62, R67, R71, R225, R420, R423) -/

/-- The page of a register-file key, and its bank. -/
def keyPage (k : Nat) : Nat := k / 4096 / 8192
def keyBank (k : Nat) : Nat := k / 4096 % 8192

/-- Drop the settings, shadows, snapshots and latches of a page, apart from the keys that stay. -/
def clearRegs (s : State) (page : Nat) (stays : Nat → Bool) : State :=
  { s with
    regs := s.regs.filter fun e => keyPage e.1 != page || stays e.1
    shadow := s.shadow.filter fun e => keyPage e.1 != page || stays e.1
    snaps := s.snaps.filter fun n => n.page != page
    latches := s.latches.filter fun e => e.1 % 2 ^ 28 / 4096 != page
    loHeld := s.loHeld.filter fun e => e.1 % 2 ^ 28 / 4096 != page }

/-- A data crossing one side of which is reset: its words are discarded, and its pointers go to zero by a handshake (R440). -/
def xingReset : Xing := { resync := true }

/-- What the two sides of a crossing of 2^`n` words see (R266, R440). -/
def xingFull (n : Nat) (x : Xing) : Bool := x.resync || ringDist n x.rd x.wr == 2 ^ n
def xingEmpty (x : Xing) : Bool := x.resync || x.rd == x.wr

/-- The reset of a page's block ends, and with it the resynchronisation of its crossing (R62, R440). -/
def hdrUp (s : State) (page : Nat) : State :=
  setHdr s page { hdr s page with inReset := false, xing := { (hdr s page).xing with resync := false } }

/-- The header of a page whose block takes a reset: IN_RESET is set, the lock is broken, all else is at its reset value. -/
def hdrReset (s : State) (page : Nat) : State :=
  let h := breakLock (hdr s page)
  tellPage (setHdr s page {
    inReset := true, lockBroken := h.lockBroken, lockGrants := h.lockGrants, xing := xingReset }) page

/-- A tile after a reset of its page: patch, programs, EN and, for a BLOCK reset, the store stay (R220, R227, R423). -/
def tileAfter (x : Tile) (wipe : Bool) : Tile :=
  { ({} : Tile) with
    run := if x.run = 6 then 6 else 0, enabled := x.enabled, patchLocked := x.patchLocked, tpr := x.tpr, patch := x.patch
    mtch := x.mtch, retired := x.retired, crc := x.crc, store := if wipe then [] else x.store, poison := if wipe then [] else x.poison
    ungated := x.ungated, idleAt := x.idleAt }

/-- The bank of the registers marked "tile" of the PERF page (R466). -/
def perfTile (t : Nat) : Nat := 16 + t

/-- A TILE or BLOCK reset of a tile (R225, R423). -/
def tileReset (s : State) (t : Nat) (wipe : Bool) : State :=
  let s1 := hdrReset (clearRegs (tileDropJob s t) (tilePage t) fun _ => false) (tilePage t)
  let s2 := setTile s1 t (tileAfter (getTile s1 t) wipe)
  if wipe then
    { s2 with regs := s2.regs.filter (fun e => !(keyPage e.1 == perfPg && keyBank e.1 == perfTile t)), smps := ndel s2.smps t }
  else s2

/-- Lists of a CAROUSEL page that a BLOCK reset spares: L24, and those with a reservation (R420, R423). -/
def carStays (s : State) (l : Nat) : Bool := l == 24 || carReserved s l

/-- Flows that the SCHED page's BLOCK reset spares, with their services and rings (R420). -/
def heldFlows (s : State) : List Nat := (List.range 4096).filter fun f => bankHeld s schedPg f

/-- The BLOCK reset of the SCHED page (R420): a held service keeps its tokens, and its bulk tags are reset. -/
def schedReset (s : State) : State :=
  let fl := heldFlows s
  let sv := fl.map fun f => Fl.svc (flowBytes s f)
  let rg := (fl.filter fun f => Fl.port (flowBytes s f) = 2 ∨ Fl.port (flowBytes s f) = 7).map fun f => Fl.ring (flowBytes s f)
  let s1 := (s.flows.filter fun e => !fl.contains e.1).foldl (fun s e => dropUnits s e.1) s
  let stays := fun (k : Nat) =>
    (fl.contains (keyBank k) && schedOff 0 (k % 4096)) || (sv.contains (keyBank k) && schedOff 1 (k % 4096)) ||
      (rg.contains (keyBank k) && schedOff 2 (k % 4096))
  finishGone s { clearRegs s1 schedPg stays with
    flows := s1.flows.filter fun e => fl.contains e.1
    svcs := (s1.svcs.filter fun e => sv.contains e.1).map fun e => (e.1, { tok := e.2.tok, tokTick := e.2.tokTick })
    rings := s1.rings.filter fun e => rg.contains e.1
    eports := s1.eports.map fun e => (e.1, { e.2 with v := 0 })
    schedRec := [] }

/-- The engines of a page's block at their reset values (R423). -/
def engineReset (s : State) (k : PageKind) (i page : Nat) : State :=
  match k with
  | .tile => tileReset s i false
  | .carousel =>
    { clearRegs s page (fun _ => false) with cars := s.cars.filter fun e => e.1 / 4 != i || carStays s e.1 }
  | .sched => schedReset s
  | .qmgr => { clearRegs s page (fun _ => false) with queues := [], bulkTurn := 0, bulkBurst := 0 }
  | .grn => { clearRegs s page (fun _ => false) with pools := [], grnRes := [] }
  | .fifo => { clearRegs s page (fun _ => false) with fifos := [] }
  | .dma => dmaChains <| setDma { clearRegs s page (fun _ => false) with
      timers := if i = 0 then [] else s.timers } i { bound := (getDma s i).bound }
  | .crc => { clearRegs s page (fun _ => false) with crcs := ndel s.crcs i }
  | .sensor => { clearRegs s page (fun _ => false) with sensors := ndel s.sensors i }
  | .eth => { clearRegs s page (fun _ => false) with eths := ndel s.eths i }
  | .selfold =>
    let s1 := sfLost s i
    { clearRegs s1 page (fun _ => false) with sfs := ndel s1.sfs i }
  | .hbm =>
    let s1 := clearRegs s page fun _ => false
    { s1 with
      pcs := ndel (ndel s1.pcs (2 * i)) (2 * i + 1)
      hbm := s1.hbm.filter fun e => e.1 / pcBytes / 2 != i
      hbmPoison := s1.hbmPoison.filter fun b => b / pcBlocks / 2 != i }
  | .crier => { clearRegs s page (fun _ => false) with crier := [], takeRes := [] }
  | .flt => { clearRegs s page (fun _ => false) with flt := { s.flt with
      log := [], head := 0, wrapped := false, hbAt := List.replicate 4 s.tick, missed := [false, false, false, false], half := 500 } }
  | .clk => { clearRegs s page (fun _ => false) with clk := { s.clk with
      adj := 0, adjWait := none, cmd := none, slew := none, converted := false, ovf := [], ovfId := 0, ovfValid := false } }
  | .perf => clearRegs s page fun k => decide (16 ≤ keyBank k)
  | _ => clearRegs s page fun _ => false

/-- A BLOCK_RESET write that R420 discards and counts. -/
def resetDenied (s : State) (rq : Requester) (page : Nat) : Bool :=
  (page == grnPg && anyAdm s fun _ _ => true) || (page == qmgrPg && s.queues.any fun e => e.2.bound.isSome) ||
    (match pageAt page with
     | some (.carousel, i) => rq == .host && (List.range 4).any fun l => decide (4 * i + l < 25) && carReserved s (4 * i + l)
     | _ => false)

/-- PAGE_CTRL.BLOCK_RESET (R62, R420, R489). -/
def blockResetOp (rq : Requester) (page : Nat) (s : State) : State :=
  match pageAt page with
  | some (k, i) =>
    if !canReset k then s
    else if resetDenied s rq page then hostDeny s (page * 4096 + 0x008)
    else hdrReset (engineReset s k i page) page
  | none => s

/-- BLOCK_RESET_END (R62): the reset completes; a tile still under its TILE reset waits for TILE_RESET_DONE. -/
def blockResetEnd (page : Nat) (s : State) : State :=
  if s.rst.tiles.any fun t => tilePage t == page then s else hdrUp s page

/-- RST_TILEn (R419, R427, R449): Stewards only. -/
def rstTileOp (rq : Requester) (n : Nat) (mask : BitVec 32) (s : State) : State :=
  if s.flt.fault then bump s fltPg 0 0x138 1
  else if rq = .host then hostDeny s (rstPg * 4096 + 0x110 + 4 * n)
  else if !isSteward rq then s
  else
    let ts := (List.range 32).filterMap fun k => if mask.getLsbD k && decide (32 * n + k < 104) then some (32 * n + k) else none
    let s1 := ts.foldl (fun s t => tileReset s t true) s
    { s1 with rst := { s1.rst with tiles := s1.rst.tiles ++ ts.filter fun t => !s1.rst.tiles.contains t } }

/-- TILE_RESET_DONE (R427). -/
def tileResetDone (s : State) : State :=
  if s.rst.tiles.isEmpty then s
  else
    let s1 := s.rst.tiles.foldl (fun s t => hdrUp s (tilePage t)) s
    setEvt { s1 with rst := { s1.rst with tiles := [] } } rstPg 0

def execBlockReset (rq : Requester) (page : Nat) (s : State) : Out := .next (regOp rq page 0x008 (blockResetOp rq page) s)
def execBlockResetEnd (page : Nat) (s : State) : Out := actBus (blockResetEnd page) s
def execRstTile (rq : Requester) (word : Nat) (mask : BitVec 32) (s : State) : Out :=
  .next (if word < 4 then regOp rq rstPg (0x110 + 4 * word) (rstTileOp rq word mask) s else s)
def execTileResetDone (s : State) : Out := actBus tileResetDone s

/-! ## Aborts (R62, R221, R282, R310) -/

/-- An ABORT request to a tile: an idle one discards it (R221), and one that is suspended or halted, at its SAFEPT, takes it at
once (R223). -/
def tileAbort (s : State) (t : Nat) : State :=
  let x := getTile s t
  if !tileBusy x then s
  else
    let s1 := setTile s t { x with reqA := true }
    if x.run = 1 then s1 else takeAbort s1 t

/-- PAGE_CTRL.ABORT (R62): QUIESCE and ENABLE of the same write are stored, then the block's abort rules act. -/
def pageAbortOp (page : Nat) (en qui : Bool) (s : State) : State :=
  let s1 := pageQuiesce page qui (pageEnable page en s)
  match pageAt page with
  | some (.tile, t) => tileAbort s1 t
  | some (.dma, ch) => dmaAbort s1 ch
  | _ => s1

def execPageAbort (rq : Requester) (page : Nat) (enable quiesce : Bool) (s : State) : Out :=
  .next (regOp rq page 0x008 (pageAbortOp page enable quiesce) s)

/-- The jobs of some work: those on tiles receive ABORT, those that wait are lost at once. -/
def abortJobs (s : State) (sel : Job → Bool) : State :=
  (s.jobs.filter sel).foldl (fun s j => match j.tile with
    | some t => tileAbort s t
    | none => loseJob s j 0) s

/-- The pictures of a host-fed context that a queue ABORT ends (R310): one whose input DMA runs ends at once, one with
events to come is marked, and one whose jobs have all ended keeps its status. -/
def abortPic (s : State) (c : Nat) (p : Pic) : State :=
  match getCtx s c with
  | some x =>
    if x.dma = some p.id then endPic (setCtx s c { x with dma := none }) c p.id (0x0D, 0)
    else
      let s1 := if codedDone x.block p then s else withPic s c p.id fun q => { q with aborted := true }
      abortJobs s1 fun j => j.ctx == c && j.pic == p.id
  | none => s

/-- The work of a context's entries ends (R310): those queued complete ABORTED, those begun are aborted. -/
def abortCtx (s : State) (c : Nat) (x : Ctx) : State :=
  let s1 := (x.encQ ++ x.dec.queue).foldl (fun s e => finishSlot s x.queue e.1 (seCe s e.2 0x0D))
    (setCtx s c { x with encQ := [], dec := { x.dec with queue := [] } })
  let s2 := (x.pics.filter fun p => !p.se.isEmpty && !p.done).foldl (fun s p => abortPic s c p) s1
  let s3 := if x.dec.run.isSome then abortJobs s2 (fun j => j.ctx == c && j.dec) else s2
  breakOwner s3 c

/-- Q_CTRL.ABORT (R310). -/
def queueAbort (q : Nat) (s : State) : State :=
  let x := getQ s q
  if !x.enable ∨ x.st = 0 ∨ x.st = 4 then s
  else
    let s1 := queueAbortBase q s
    (s1.ctxs.filter fun e => e.2.queue == q).foldl (fun s e => abortCtx s e.1 e.2) s1

def execQueueAbort (rq : Requester) (queue : Nat) (s : State) : Out := .next (regOpB rq qmgrPg 0x200 queue (queueAbort queue) s)

end Sys2Proof.Machine
end

