-- ==== Sys2Proof/Machine/Boot.lean ====
section
/-! DEFINITION. Boot, measurement and attestation (R226, R389–R408, R414, R422): the bundle checks, the choice of a copy, loading,
the measurement registers, recovery, security version, lifecycle and the SPDM responder. -/
namespace Sys2Proof.Machine

/-! ## Measurement registers (R398, R399) -/

/-- SHA-384 as 48 bytes. -/
def sha (b : List Byte) : List Byte := toBE 48 (Config.sha384 b).toNat

/-- Extend register `i` by a digest, and log it: source 0 ROM, 1 relay, 2 Steward. -/
def extend (src i : Nat) (d : List Byte) (s : State) : State :=
  let b := s.boot
  let room := decide (b.log.length < 64)
  setEvt { s with boot := { b with
    mrs := setIx b.mrs i (sha (getIx b.mrs i [] ++ d)) []
    log := if room then b.log ++ [[BitVec.ofNat 8 i, BitVec.ofNat 8 src, 0, 0] ++ d] else b.log
    full := b.full || !room } } bootPg 3

/-! ## Bundles (R392, R393) -/

/-- What a bundle is read from: bytes at an offset, and the room for a copy. -/
structure Media where
  loc : Bool
  base : Nat
  limit : Nat
  deriving DecidableEq, Repr

/-- Bytes of the flash (`loc`) or of host memory. -/
def mediaRead (s : State) (m : Media) (off n : Nat) : List Byte :=
  if m.loc then (List.range n).map fun i => bget s.flash (m.base + off + i) else hostRead s (m.base + off) n

namespace Bd
def ncomp (h : List Byte) : Nat := leAt h 6 2
def svn (h : List Byte) : Nat := leAt h 8 4
def total (h : List Byte) : Nat := leAt h 0x10 8
def slot (h : List Byte) : Nat := byteAt h 0x18
def pubkey (h : List Byte) : List Byte := (h.drop 0x20).take 96
/-- Bytes of the signed region. -/
def signed (h : List Byte) : Nat := 0x80 + 64 * ncomp h
/-- Component table entry `i`. -/
def comp (h : List Byte) (i : Nat) : List Byte := (h.drop (0x80 + 64 * i)).take 64
end Bd

namespace Cmp
def typ (c : List Byte) : Nat := byteAt c 0
def len (c : List Byte) : Nat := leAt c 4 4
def off (c : List Byte) : Nat := leAt c 8 8
def digest (c : List Byte) : List Byte := (c.drop 0x10).take 48
end Cmp

/-- The components of a bundle. -/
def comps (h : List Byte) : List (List Byte) := (List.range (Bd.ncomp h)).map (Bd.comp h)

/-- The component of a type. -/
def compOf (h : List Byte) (t : Nat) : Option (List Byte) := (comps h).find? fun c => Cmp.typ c == t

/-- The signed region and its table, as read. -/
def header (s : State) (m : Media) : List Byte :=
  let h := mediaRead s m 0 0x80
  h ++ mediaRead s m 0x80 (64 * min 5 (Bd.ncomp h))

/-- Ranges of a bundle that must not overlap. -/
def ranges (h : List Byte) : List (Nat × Nat) :=
  (0, Bd.signed h + 96) :: (comps h).map fun c => (Cmp.off c, Cmp.len c)

/-- No two ranges of a list overlap. -/
def apart : List (Nat × Nat) → Bool
  | [] => true
  | r :: t => t.all (fun q => !overlaps r.1 r.2 q.1 q.2) && apart t

/-- R392: format, reserved fields, types, flags, offsets and lengths. -/
def formatOk (h : List Byte) (rma : Bool) : Bool :=
  leAt h 4 2 == 1 && decide (4 ≤ Bd.ncomp h) && decide (Bd.ncomp h ≤ 5) && zeroAt h 0x19 7 && decide (Bd.slot h < 4) &&
    [1, 2, 3, 4].all (fun t => ((comps h).filter fun c => Cmp.typ c == t).length == 1) &&
    (comps h).all (fun c => decide (1 ≤ Cmp.typ c) && decide (Cmp.typ c ≤ 5) && zeroAt c 2 2 && Cmp.off c % 4096 == 0 &&
      byteAt c 1 == (if Cmp.typ c = 4 ∧ rma = false then 1 else 0) && decide (Cmp.off c + Cmp.len c ≤ Bd.total h)) &&
    decide (((comps h).filter fun c => Cmp.typ c == 5).length ≤ 1) && decide (Bd.signed h + 96 ≤ Bd.total h) && apart (ranges h)

/-- KEY_HASH of a slot equals the hash of a key, and the slot is not revoked (R393, R407). -/
def keyOk (s : State) (slot : Nat) (key : List Byte) : Bool :=
  decide (slot < 4) && getIx s.fuses.keyHash slot [] == sha key && !s.fuses.revoked.getLsbD slot

/-- The stored bytes of a component. -/
def compBytes (s : State) (m : Media) (c : List Byte) : List Byte := mediaRead s m (Cmp.off c) (Cmp.len c)

/-- The patch plaintext of a bundle (R396): none when the tag is wrong. -/
def patchOf (s : State) (m : Media) (h : List Byte) (rma : Bool) : Option (List Byte) :=
  match compOf h 4 with
  | some c =>
    let b := compBytes s m c
    if rma then some b else Config.gcmDecrypt (b.take 12) (toLE 4 (Bd.svn h) ++ [4]) (b.drop 12)
  | none => none

/-- The result code of a copy (R393). -/
def copyResult (s : State) (m : Media) (rma : Bool) : Nat :=
  let h := header s m
  let sgn := h.take (Bd.signed h)
  if leAt h 0 4 ≠ 0x3142564D then 1
  else if !formatOk h rma then 2
  else if m.limit < Bd.total h then 3
  else if !keyOk s (Bd.slot h) (Bd.pubkey h) || (rma && !s.fuses.permRma.getLsbD (Bd.slot h)) then 4
  else if !Config.ecdsa384Verify (Bd.pubkey h) (Config.sha384 sgn) (mediaRead s m (Bd.signed h) 96) then 5
  else if Bd.svn h < s.boot.svnMin then 6
  else if !(comps h).all (fun c => sha (compBytes s m c) == Cmp.digest c) then 7
  else if (patchOf s m h rma).isNone then 8
  else 0

/-- BUNDLE_DIGEST. -/
def bundleDigest (s : State) (m : Media) : List Byte :=
  let h := header s m
  sha (h.take (Bd.signed h))

/-! ## Loading (R220, R226, R395, R396) -/

/-- The tiles enabled by the fuses (R226). -/
def fusedTiles (f : Fuses) : List Nat :=
  let all := List.range 104
  let spares := all.filter fun t => !f.en.getLsbD t && !f.ret.getLsbD t
  let lost := all.filter fun t => f.en.getLsbD t && f.ret.getLsbD t
  (all.filter fun t => f.en.getLsbD t && !f.ret.getLsbD t) ++ spares.take lost.length

/-- The nonzero words of a list as a table. -/
def wordTab {w : Nat} (l : List (BitVec w)) : NMap (BitVec w) := ((List.range l.length).zip l).filter fun e => e.2 != 0

/-- Load every physical tile, lock it, and classify it (R220, R226). -/
def loadTiles (s : State) (prog cat patch : List Byte) : State :=
  let tpr := (List.range 1024).map (Config.tprWord prog cat)
  let par := fun (odd : Bool) (n : Nat) (w : Nat) => BitVec.ofNat (n + 1) (withParity odd n w)
  let mtch := (List.range 32).map fun i => BitVec.ofNat 32 (leAt patch (4 * i) 4)
  let pat := (List.range 1024).map fun i => BitVec.ofNat 32 (leAt patch (128 + 4 * i) 4)
  let crc := crc32c (tpr.flatMap (fun w => toLE 8 w.toNat) ++ pat.flatMap (fun w => toLE 4 w.toNat) ++
    mtch.flatMap fun w => toLE 4 (w.toNat &&& 0x83FFFFFF))
  let on := fusedTiles s.fuses
  (List.range 104).foldl (fun s t =>
    setHdr (setTile s t { getTile s t with
      enabled := on.contains t, patchLocked := true, crc := BitVec.ofNat 32 crc
      retired := false, tpr := wordTab (tpr.map fun w => par false 64 w.toNat)
      patch := wordTab (pat.map fun w => par true 32 w.toNat)
      mtch := wordTab (mtch.map fun w => par false 32 (w.toNat &&& 0x83FFFFFF)) }) (tilePage t)
      { hdr s (tilePage t) with enable := true }) s

/-- The entries of L24 (R45): gates in bits [31:24], nanoseconds below. -/
def l24Ents : List Nat :=
  (List.range 16).flatMap fun i => if i = 0 then [0x1000000 + 350, 0x2000000 + 600, 2950] else [0x1000000 + 350, 3550]

/-- Boot firmware writes and commits L24 (R45); its start is not counted as late. -/
def writeL24 (s : State) : State :=
  let l : CarList := { base := 0, cycle := 62400, len := l24Ents.length
                       ents := ((List.range l24Ents.length).zip l24Ents).map fun e => (e.1, BitVec.ofNat 32 e.2) }
  setCar s 24 { getCar s 24 with
    shadow := l, pend := some ⟨l, (hdr s (carPage 6)).commitGen, (carStart s.dt 0 62400).1⟩ }

/-- Boot firmware configures the input row FIFOs, the egress FIFOs of the bulk slots and the Selfold retry FIFOs (R264), in
Commons space of 2^16 words each; their sizes are its choice (assumption 29). -/
def bootFifos (s : State) : State :=
  let l := List.range 32 ++ (List.range 40).map (· + 216)
  ((List.range l.length).zip l).foldl (fun s e =>
    setupFifo s e.2 (8 + Config.bootFifoLog e.2 % 9) (e.1 * 2 ^ 16) (rgetN s fifoPg e.2 0x20C)) s

/-- PHY_INIT on the page of each stack that fails to train (R251). BOOT does not tell which do: a free value, one at least. -/
def phyFails (s : State) : State :=
  let f := fresh s
  let k := (Config.freeWord f.1).toNat % 3 + 1
  let s1 := if k % 2 = 1 then raiseFault f.2 (phyPage 0) 0 0 else f.2
  if 2 ≤ k then raiseFault s1 (phyPage 1) 0 0 else s1

/-- Boot stops with HW_INIT (R395). -/
def hwInit (s : State) (st : Nat) : State := { s with boot := { s.boot with err := 4, st := st } }

/-- Step 8 (R395, R414, R422): RUN, the booth's power sum, heartbeats from now, and FLR's readiness. -/
def bootDone (s : State) : State :=
  let n := rbits s pwrPg 0 0x108 6 0
  let f := fresh s
  let ms := max 1000 (cdiv (Config.bootMicros f.1 * 11) 100000 * 10)
  let s1 := { (if s.boot.source = 0 then f.2 else s) with
    boot := { s.boot with st := 7, doneFlag := true }
    booth := { s.booth with admMw := 72000 + 1650 * n + 500 * (regionPcs s 16).length }
    flt := { s.flt with hbAt := List.replicate 4 s.tick }
    rst := if s.boot.source = 0 then { s.rst with flrMs := ms } else s.rst }
  setEvt (if s.rst.kind = 4 then emit s1 .frs else s1) bootPg 0

/-- The relay of a changed Island block into MR6 (R398, R408). -/
def relayBlock (s : State) (block : List Byte) : State :=
  raiseFault (extend 1 6 (sha block) { s with boot := { s.boot with islBlock := block } }) bootPg 2 0

/-- The Island's changes that came during boot are relayed after step 7 (R400). -/
def relayPend (s : State) : State :=
  let l := s.boot.islPend
  l.foldl relayBlock { s with boot := { s.boot with islPend := [] } }

/-- Steps 3 to 8 with the chosen copy (R395): a patch without a good tag at step 5 stops boot (R396). -/
def bootCopy (m : Media) (hbmTrains crcsEqual : Bool) (s : State) : State :=
  let h := header s m
  let rma := s.boot.lifecycle == 2
  let b := s.boot
  let dig := fun (t : Nat) => (compOf h t).map Cmp.digest
  let ext := fun (i t : Nat) (s : State) => match dig t with | some d => extend 0 i d s | none => s
  let bytes := fun (t : Nat) => match compOf h t with | some c => compBytes s m c | none => []
  let s1 := extend 0 0 (sha (padTo 64 ([b.aRes, b.bRes, b.chosen, Bd.slot h, b.source].map (BitVec.ofNat 8)))) s
  let s2 := ext 5 4 (ext 4 3 (ext 3 5 (ext 3 2 (ext 2 1 (extend 0 1 (bundleDigest s m) s1)))))
  let s3 := { s2 with boot := { s2.boot with svn := Bd.svn h, config := bytes 5, firmware := bytes 1 } }
  match patchOf s m h rma with
  | none => hwInit s3 3
  | some patch =>
  let s4 := loadTiles s3 (bytes 3) (bytes 2) patch
  if !crcsEqual then hwInit s4 3
  else
    let s5 := writeL24 s4
    if !hbmTrains then hwInit (phyFails s5) 4
    else
      let s6 := { s5 with phys := s5.phys.map fun p => { p with st := 2, preserved := s5.rst.hbmKept } }
      bootDone (relayPend (extend 1 6 (sha s6.boot.islBlock) (bootFifos s6)))

/-- Recovery with an error (R390, R394). -/
def recovery (s : State) (err : Nat) : State := { s with boot := { s.boot with st := 5, err := err } }

/-- The straps as the boot record holds them. -/
def strapByte (s : State) : Nat := s.straps.bootSrc % 4 + (if s.straps.lifecycleLock then 4 else 0)

/-- The first part of step 1 (R389, R395, R406, R407): fuses and straps are sensed. -/
def romSense (s : State) : State :=
  let life := if s.fuses.rma then 2 else if s.boot.unlockPend then 1 else 0
  { s with
    fuses := { s.fuses with ret := s.fuses.ret ||| s.fuses.retBurnt, retBurnt := 0 }
    boot := { s.boot with
      lifecycle := life, unlockPend := false, svnMin := s.fuses.svnMin, srcOdd := decide (2 ≤ s.straps.bootSrc % 4)
      source := if s.straps.bootSrc % 4 = 1 then 1 else 0, startTick := s.tick } }

/-- The rest of step 1 (R395, R398): the root PLL locks, MR0 is extended. -/
def romInit (s : State) : State :=
  let rec_ := toLE 4 Config.romVersion.toNat ++ toLE 1 s.boot.lifecycle ++ toLE 1 (strapByte s) ++ toLE 1 s.boot.svnMin ++
    toLE 1 s.boot.source ++ toLE 8 s.fuses.serial ++ List.replicate 48 0
  extend 0 0 (sha rec_) { s with clk := { s.clk with rootLock := true, coreOk := true } }

/-- The flash copies A and B (R390). -/
def copyA (s : State) : Media := ⟨true, 0, min (s.flashSize / 2) (64 * 2 ^ 20)⟩
def copyB (s : State) : Media := ⟨true, s.flashSize / 2, min (s.flashSize / 2) (64 * 2 ^ 20)⟩

/-- The choice between A and B (R394): 1 A, 2 B, or 0 and the error. -/
def choose (s : State) (a b : Nat) : Nat × Nat :=
  if a = 0 ∧ b = 0 then
    let va := Bd.svn (header s (copyA s))
    let vb := Bd.svn (header s (copyB s))
    if va < vb then (2, 0) else if vb < va then (1, 0)
    else if bundleDigest s (copyA s) = bundleDigest s (copyB s) then (1, 0) else (0, 2)
  else if a = 0 then (1, 0) else if b = 0 then (2, 0) else (0, 1)

/-- A copy that fails with ROLLBACK raises BOOT_ROLLBACK (R394). -/
def rollback (result : Nat) (s : State) : State := if result = 6 then raiseFault s bootPg 1 0 else s

/-- BOOT (R395): what the reset that precedes it reruns. -/
def bootOp (pllLocks hbmTrains crcsEqual : Bool) (s : State) : State :=
  if s.boot.st ≠ 0 ∨ s.boot.err ≠ 0 then s
  else if !pllLocks then hwInit (romSense s) 0
  else
    let s1 := romInit (romSense s)
    if s1.straps.bootSrc % 4 = 1 then recovery s1 0
    else if !s1.flashOk then recovery { s1 with boot := { s1.boot with source := 1 } } 3
    else
      let rma := s1.boot.lifecycle == 2
      let a := copyResult s1 (copyA s1) rma
      let b := copyResult s1 (copyB s1) rma
      let c := choose s1 a b
      let one := decide (a = 0) != decide (b = 0)
      let s2 := { s1 with boot := { s1.boot with aRes := a, bRes := b, chosen := c.1, oneCopy := one } }
      let s3 := if one then raiseFault s2 bootPg 0 0 else s2
      let s4 := rollback b (rollback a s3)
      if c.1 = 0 then recovery { s4 with boot := { s4.boot with source := 1 } } c.2
      else bootCopy (if c.1 = 1 then copyA s4 else copyB s4) hbmTrains crcsEqual s4

def execBoot (pllLocks hbmTrains crcsEqual : Bool) (s : State) : Out :=
  .next (if resettable s then bootOp pllLocks hbmTrains crcsEqual s else s)

/-! ## BOOT_CMD (R398, R404–R408) -/

/-- A discarded command, counted. -/
def bootDeny (s : State) (code : Nat) : State := bump { s with boot := { s.boot with code := code } } bootPg 0 0x12C 1

/-- A command that has run: its code and CMD_DONE. -/
def bootEnd (s : State) (code : Nat) : State := setEvt { s with boot := { s.boot with code := code } } bootPg 2

/-- A BOOT_CMD write: discarded while a command runs, or from a requester that may not make it (R408). -/
def bootCmd (rq : Requester) (may : Bool) (op : State → State) (s : State) : State :=
  regOp rq bootPg 0x11C (fun s => if s.boot.busy || !may then bootDeny s 1 else op s) s

/-- Address of the bundle or token: 4,096-byte aligned. -/
def recAddr (s : State) : Nat := rget64 s bootPg 0 0x110 / 4096 * 4096

/-- REC_LOAD (R404). -/
def recLoadOp (dmaOk hbmTrains crcsEqual : Bool) (s : State) : State :=
  if s.boot.st ≠ 5 then bootDeny s 1
  else
    let len := rbits s bootPg 0 0x118 26 0
    let m : Media := ⟨false, recAddr s, min len (64 * 2 ^ 20)⟩
    let r := if !dmaOk || (hostErrAt s m.base len).isSome then 1 else copyResult s m (s.boot.lifecycle == 2)
    let s1 := rollback r (bootEnd (setEvt { s with boot := { s.boot with bRes := r } } bootPg 1) 0)
    if r ≠ 0 then s1
    else bootCopy m hbmTrains crcsEqual { s1 with boot := { s1.boot with chosen := 3, source := 1, err := 0 } }

/-- MR_EXTEND (R398): MR7 by BOOT_MR_IN. -/
def mrExtendOp (mr : Nat) (s : State) : State :=
  if mr ≠ 7 then bootEnd s 4
  else bootEnd (extend 2 7 ((List.range 12).flatMap fun i => toLE 4 (rgetN s bootPg 0 (0x140 + 4 * i))) s) 0

/-- UNLOCK_CHALLENGE (R407): a fresh nonce. -/
def challengeOp (s : State) : State :=
  bootEnd { s with
    freeCtr := s.freeCtr + 48
    boot := { s.boot with nonce := (List.range 48).map fun i => Config.freeByte (s.freeCtr + i), nonceOk := true } } 0

/-- The token is good (R407). -/
def tokenOk (s : State) (t : List Byte) : Bool :=
  let slot := byteAt t 7
  let rma := byteAt t 6 == 2
  leAt t 0 4 == 0x4B544C55 && leAt t 4 2 == 1 && (byteAt t 6 == 1 || rma) && leAt t 8 8 == s.fuses.serial &&
    s.boot.nonceOk && (t.drop 0x10).take 48 == s.boot.nonce && keyOk s slot ((t.drop 0x40).take 96) &&
    (if rma then s.fuses.permRma else s.fuses.permDebug).getLsbD slot &&
    Config.ecdsa384Verify ((t.drop 0x40).take 96) (Config.sha384 (t.take 0xA0)) ((t.drop 0xA0).take 96)

/-- UNLOCK_SUBMIT (R407): every submission consumes the nonce. The RMA fuses count from the next boot. -/
def submitOp (s : State) : State :=
  let r := memRead s 0 (recAddr s) 256
  let s1 := { s with boot := { s.boot with nonceOk := false } }
  if s.straps.lifecycleLock then bootEnd s1 3
  else if r.2.1.isSome || r.2.2 || !tokenOk s r.1 then bootEnd s1 2
  else if byteAt r.1 6 = 1 then bootEnd { s1 with boot := { s1.boot with unlockPend := true } } 0
  else bootEnd { s1 with fuses := { s1.fuses with rma := true, patchKey := false } } 0

/-- SVN_COMMIT (R405): the fuses, a thermometer, are programmed, and their value holds from the next boot. -/
def svnCommitOp (v : Nat) (s : State) : State :=
  if s.boot.svnMin < v ∧ v ≤ s.boot.svn ∧ v ≤ 128 ∧ s.boot.st = 7 then
    bootEnd { s with fuses := { s.fuses with svnMin := max s.fuses.svnMin v } } 0
  else bootDeny s 4

/-- BOOT_MR_SEL (R408): the latch that BOOT_MR_DATA reads. -/
def mrSelOp (mr : Nat) (s : State) : State :=
  let s1 := rputN s bootPg 0 0x124 (mr % 8)
  { s1 with boot := { s1.boot with mrLatch := getIx s1.boot.mrs (mr % 8) [] } }

def execRecLoad (rq : Requester) (dmaOk hbmTrains crcsEqual : Bool) (s : State) : Out :=
  .next (bootCmd rq (rq == .host) (recLoadOp dmaOk hbmTrains crcsEqual) s)
def execMrExtend (rq : Requester) (mr : Nat) (s : State) : Out := .next (bootCmd rq (isSteward rq) (mrExtendOp mr) s)
def execUnlockChallenge (rq : Requester) (s : State) : Out := .next (bootCmd rq (rq == .host) challengeOp s)
def execUnlockSubmit (rq : Requester) (s : State) : Out := .next (bootCmd rq (rq == .host) submitOp s)
def execSvnCommit (rq : Requester) (svn : Nat) (s : State) : Out := .next (bootCmd rq (isSteward rq) (svnCommitOp svn) s)
def execBootMrSel (rq : Requester) (mr : Nat) (s : State) : Out := .next (regOp rq bootPg 0x124 (mrSelOp mr) s)

/-- ISL_MEAS_RELAY (R398, R400): a changed block extends MR6; one that comes while boot waits for a bundle is relayed after
step 7, and one that stands before boot by step 7. -/
def islRelay (block : List Byte) (s : State) : State :=
  let b := s.boot
  if block = b.islPend.getLast?.getD b.islBlock then s
  else if b.st = 7 then relayBlock s block
  else if b.st = 0 then { s with boot := { b with islBlock := block } }
  else { s with boot := { b with islPend := b.islPend ++ [block] } }

def execIslMeasRelay (block : List Byte) (s : State) : Out := actBus (islRelay block) s

/-! ## The SPDM responder (R401, R402; message layouts by DMTF SPDM 1.2, assumption 20) -/

/-- PCIE_LINK_UP (R397). -/
def execPcieLinkUp (s : State) : Out := actBus (fun s => { s with boot := { s.boot with pcieUp := true } }) s

/-- ERROR with a code: 1 InvalidRequest, 7 UnsupportedRequest, 13 ResponseTooLarge. -/
def spdmErr (code : Nat) (s : State) : String × List Byte × State := ("ERROR", [0x12, 0x7F, BitVec.ofNat 8 code, 0], s)

/-- The longest message of a DOE object of 4 KiB, beside its header of 8 bytes (R401, assumption 20). -/
def spdmMax : Nat := 4088

/-- Answer an SPDM request once the link is up. -/
def spdm (f : State → String × List Byte × State) (s : State) : State :=
  if s.boot.pcieUp then
    let a := f s
    let r := if spdmMax < a.2.1.length then spdmErr 13 s else a
    emit r.2.2 (.spdm r.1 r.2.1)
  else s

/-- A 32-byte fresh nonce. -/
def spdmNonce (s : State) : List Byte × State :=
  ((List.range 32).map fun i => Config.freeByte (s.freeCtr + i), { s with freeCtr := s.freeCtr + 32 })

/-- VERSION: 1.2. -/
def spdmVersion (s : State) : String × List Byte × State := ("VERSION", [0x10, 0x04, 0, 0, 0, 1, 0, 0x12], s)

/-- CAPABILITIES: CERT, CHAL and MEAS with signature; objects of 4 KiB; the response time is not stated. -/
def spdmCaps (s : State) : String × List Byte × State :=
  let f := fresh s
  ("CAPABILITIES", [0x12, 0x61, 0, 0, 0, Config.freeByte f.1, 0, 0] ++ toLE 4 0x16 ++ toLE 4 4096 ++ toLE 4 4096, f.2)

/-- ALGORITHMS: P-384 and SHA-384 only. -/
def spdmAlgs (asym hash : Bool) (s : State) : String × List Byte × State :=
  if asym && hash then
    ("ALGORITHMS", [0x12, 0x63, 0, 0] ++ toLE 2 36 ++ [1, 0] ++ toLE 4 4 ++ toLE 4 0x80 ++ toLE 4 2 ++ List.replicate 16 0, s)
  else spdmErr 1 s

/-- DIGESTS: slot 0. -/
def spdmDigests (s : State) : String × List Byte × State := ("DIGESTS", [0x12, 0x01, 0, 1] ++ sha Config.certChain, s)

/-- CERTIFICATE: a portion of the chain of slot 0. -/
def spdmCert (slot off len : Nat) (s : State) : String × List Byte × State :=
  let c := Config.certChain
  if slot ≠ 0 ∨ c.length ≤ off then spdmErr 1 s
  else
    let p := (c.drop off).take (min len (spdmMax - 8))
    ("CERTIFICATE", [0x12, 0x02, 0, 0] ++ toLE 2 p.length ++ toLE 2 (c.length - off - p.length) ++ p, s)

/-- CHALLENGE_AUTH; in RMA the device key is gone (R406). -/
def spdmChallenge (slot : Nat) (nonce : List Byte) (s : State) : String × List Byte × State :=
  if s.fuses.rma || s.boot.lifecycle == 2 then spdmErr 7 s
  else if slot ≠ 0 then spdmErr 1 s
  else
    let n := spdmNonce s
    let f := fresh n.2
    let b := [0x12, 0x03, 0, 1] ++ sha Config.certChain ++ n.1 ++ toLE 2 0
    ("CHALLENGE_AUTH", b ++ toBE 96 (Config.attestSign (nonce ++ b) f.1).toNat, f.2)

/-- The value of a measurement index and its type (R402). -/
def measValue (s : State) (i : Nat) : Nat × List Byte :=
  if i = 9 then (0x81, s.boot.islBlock)
  else if i = 10 then (0x84, s.boot.log.flatMap id)
  else (if i = 1 then 2 else if i = 2 then 4 else if i = 4 ∨ i = 8 then 3 else 1, getIx s.boot.mrs (i - 1) [])

/-- A measurement block. -/
def measBlock (s : State) (i : Nat) : List Byte :=
  let v := measValue s i
  [BitVec.ofNat 8 i, 1] ++ toLE 2 (v.2.length + 3) ++ toLE 1 v.1 ++ toLE 2 v.2.length ++ v.2

/-- MEASUREMENTS of one snapshot (R402): index 0 the count, 0xFF all. -/
def spdmMeas (index : Nat) (signed : Bool) (nonce : List Byte) (s : State) : String × List Byte × State :=
  if signed && (s.fuses.rma || s.boot.lifecycle == 2) then spdmErr 7 s
  else if 10 < index ∧ index ≠ 0xFF then spdmErr 1 s
  else
    let ix := if index = 0 then [] else if index = 0xFF then (List.range 10).map (· + 1) else [index]
    let rec_ := ix.flatMap (measBlock s)
    let n := spdmNonce s
    let b := [0x12, 0x60, if index = 0 then 10 else 0, 0] ++ toLE 1 ix.length ++ toLE 3 rec_.length ++ rec_ ++ n.1 ++ toLE 2 0
    if signed then
      let f := fresh n.2
      ("MEASUREMENTS", b ++ toBE 96 (Config.attestSign (nonce ++ b) f.1).toNat, f.2)
    else ("MEASUREMENTS", b, n.2)

def execGetVersion (s : State) : Out := actBus (spdm spdmVersion) s
def execGetCapabilities (s : State) : Out := actBus (spdm spdmCaps) s
def execNegotiateAlgorithms (asym hash : Bool) (s : State) : Out := actBus (spdm (spdmAlgs asym hash)) s
def execGetDigests (s : State) : Out := actBus (spdm spdmDigests) s
def execGetCertificate (slot offset length : Nat) (s : State) : Out := actBus (spdm (spdmCert slot offset length)) s
def execChallenge (slot : Nat) (nonce : List Byte) (s : State) : Out := actBus (spdm (spdmChallenge slot nonce)) s
def execGetMeasurements (index : Nat) (signed : Bool) (nonce : List Byte) (s : State) : Out :=
  actBus (spdm (spdmMeas index signed nonce)) s

end Sys2Proof.Machine
end

