-- ==== Sys2Proof/Machine/Clocks.lean ====
section
/-! DEFINITION. Clocks and device time (R430–R434, R438, R442, R443): PLL and reference monitors, rate, steps and slews, and the
event crossers' overflow. -/
namespace Sys2Proof.Machine

/-- ROOT_PLL_LOL (R430): device time and every core domain stop, and the fault state is entered. -/
def rootPllLol (s : State) : State :=
  if s.clk.rootLock then raiseFault { s with clk := { s.clk with rootLock := false } } clkPg 0 0 else s

/-- REF_CLOCK_LOSS (R431): the links that the reference serves go down. -/
def refClockLoss (eth : Bool) (s : State) : State :=
  if eth then
    (if s.clk.ethOk then raiseFault (ethDown 1 (ethDown 0 { s with clk := { s.clk with ethOk := false } })) clkPg 3 0 else s)
  else if s.clk.pcieOk then
    raiseFault { s with clk := { s.clk with pcieOk := false }, boot := { s.boot with pcieUp := false } } clkPg 2 0
  else s

/-- REF_CLOCK_RETURN (R431). -/
def refClockReturn (eth : Bool) (s : State) : State :=
  if eth then { s with clk := { s.clk with ethOk := true } } else { s with clk := { s.clk with pcieOk := true } }

def execRootPllLol (s : State) : Out := actBus rootPllLol s
def execRefClockLoss (eth : Bool) (s : State) : Out := actBus (refClockLoss eth) s
def execRefClockReturn (eth : Bool) (s : State) : Out := actBus (refClockReturn eth) s

/-! ## Device time (R432–R434) -/

/-- A write that only a Steward may make (R433, R443). -/
def clkWrite (rq : Requester) (off : Nat) (op : State → State) (s : State) : State :=
  regOp rq clkPg off (fun s => if isSteward rq then op s else bump s clkPg 0 0x120 1) s

/-- DT_ADJ (R433, R434): the nearer limit of ±500,000 ppb; it waits for a running slew. -/
def dtAdj (ppb : BitVec 32) (s : State) : State :=
  let v := clip3 (-500000) 500000 ppb.toInt
  let s1 := rput s clkPg 0 0x108 (BitVec.ofInt 32 v)
  { s1 with clk := if s1.clk.slew.isSome then { s1.clk with adjWait := some v } else { s1.clk with adj := v } }

/-- DT_CMD (R433): the offset or value of DT_STEP is taken at the common edge 2 µs ahead. -/
def dtCmd (set : Bool) (s : State) : State :=
  if s.clk.cmd.isSome then bump s clkPg 0 0x120 1
  else
    let v := rgetDt s clkPg 0 0x10C
    { s with clk := { s.clk with cmd := some (set, if set then (v : Int) else signed 80 v, s.tick + 200) } }

/-- Some Carousel list holds a reservation (R42, R434). -/
def anyReserved (s : State) : Bool := (List.range 25).any (carReserved s)

/-- A list after device time has moved at once (R434): the entry at the new position; a pending list whose start has been
passed starts now, late. -/
def carMoved (s : State) (l : Nat) : State :=
  let c := getCar s l
  match c.pend with
  | some p =>
    if p.start ≤ s.dt then
      carListStart l (setCar s l { c with late := true, lateCount := min 0xFFFFFFFF (c.lateCount + 1) })
    else setCar s l { c with cur := carAt c.oper s.dt }
  | none => setCar s l { c with cur := carAt c.oper s.dt }

/-- The timers of DMA channel 0 and the FSYNC pins after device time has moved at once (R277, R160): each next acts at its first
instant from the new time on. DEDUCED (assumption 12). -/
def retime (s : State) : State :=
  let s1 := (List.range 8).foldl (fun s2 t =>
    let x : Timer := ngetD s2.timers t {}
    if x.next.isSome then { s2 with timers := nset s2.timers t { x with
      next := firstTick (tmrBase s2 t) (tmrPeriod s2 t) (max x.from_ s2.dt) } }
    else s2) s
  (List.range 4).foldl (fun s2 n =>
    let x := getSensor s2 n
    if x.fsyncNext.isSome then setSensor s2 n { x with
      fsyncNext := firstTick (rgetDt s2 (sensorPage n) 0 0x144) (rget64 s2 (sensorPage n) 0 0x150) (max x.fsyncFrom s2.dt) }
    else s2) s1

/-- Every replica moves by an offset at once. -/
def moveTime (s : State) (ofs : Int) : State :=
  (List.range 25).foldl carMoved (retime { s with dt := (((s.dt : Int) + ofs) % (2 ^ 80 : Nat)).toNat })

/-- Remove an offset as a slew (R434). -/
def slewTime (s : State) (ofs : Int) : State :=
  { s with clk := { s.clk with slew := some (ofs * 1000000000), converted := true } }

/-- What is left of a running slew, in 2^-16 ns. -/
def slewRest (s : State) : Int := match s.clk.slew with | some x => x / 1000000000 | none => 0

/-- DT_CMD_DONE (R432–R434). -/
def dtCmdDone (s : State) : State :=
  match s.clk.cmd with
  | none => s
  | some (set, v, due) =>
    if s.tick < due then s
    else
      let s1 := { s with clk := { s.clk with cmd := none, converted := false } }
      let ofs := if set then v - (s.dt : Int) else v
      setEvt (if anyReserved s then slewTime s1 (if set then ofs else slewRest s + ofs) else moveTime s1 ofs) clkPg 0

/-- SLEW_DONE (R434): the rate returns to DT_ADJ, with a value that waited. -/
def slewDone (s : State) : State :=
  if s.clk.slew = some 0 then
    setEvt { s with clk := { s.clk with slew := none, adj := s.clk.adjWait.getD s.clk.adj, adjWait := none } } clkPg 1
  else s

def execDtAdj (rq : Requester) (ppb : BitVec 32) (s : State) : Out := .next (clkWrite rq 0x108 (dtAdj ppb) s)
def execDtStep (rq : Requester) (s : State) : Out := .next (clkWrite rq 0x118 (dtCmd false) s)
def execDtSet (rq : Requester) (s : State) : Out := .next (clkWrite rq 0x118 (dtCmd true) s)
def execDtCmdDone (s : State) : Out := act dtCmdDone s
def execSlewDone (s : State) : Out := act slewDone s

/-- CDC_EVT_OVF (R438): the crosser's sticky bit is set, lost pulses are counted and the crosser named. -/
def cdcEvtOvf (id lost : Nat) (s : State) : State :=
  let k := s.clk
  raiseFault { bump s clkPg 0 0x11C lost with
    clk := { k with ovf := if k.ovf.contains id then k.ovf else k.ovf ++ [id], ovfId := id % 4096, ovfValid := true } } clkPg 1 0

def execCdcEvtOvf (id lost : Nat) (s : State) : Out := actBus (cdcEvtOvf id lost) s

end Sys2Proof.Machine
end

