-- ==== Sys2Proof/Machine/Cascade.lean ====
section
/-! DEFINITION. The cascade (R352–R366, R368): enumeration, device time, heartbeats, epochs and fencing, streams across devices,
semaphores and cross-device requests. R348 gives the layouts of SYNC, HEARTBEAT and FENCE flits; the layouts of MGMT messages
after the message code, and their little-endian numbers, are the model's (assumption 38). A MGMT command is the message taken
at its destination or, for ENUM, ENUM_REPLY and EPOCH, at a device on its way. -/
namespace Sys2Proof.Machine

/-- CASC_STATUS (R368); a depth of 8 does not fit DEPTH, which shows its low bits (assumption 39). -/
def cascStatus (s : State) : Nat :=
  let c := s.casc
  c.epoch.toNat * 2 ^ 24 + c.depth % 8 * 2 ^ 21 + (if isMaster s then 2 ^ 20 else 0) + (if c.syncLock then 2 ^ 19 else 0) +
    (if c.fenced then 2 ^ 18 else 0) + (if c.spare then 2 ^ 17 else 0) + (if c.enumDone then 2 ^ 16 else 0) + c.devId % 2048

/-- Change the cascade control. -/
def withCasc (s : State) (f : Casc → Casc) : State := { s with casc := f s.casc }

/-- Set role and peer of a port (R367). -/
def setRole (s : State) (p role peer : Nat) : State := setSf s p { getSf s p with role := role, peer := peer }

/-- UP ports but one, ascending. -/
def upPorts (s : State) (but : Option Nat) : List Nat := (List.range 4).filter fun p => sfUp s p && some p != but

/-- A CASC_CMD (R368): on the master, with no command running; else discarded and counted. -/
def cascCmd (rq : Requester) (op : State → State) (s : State) : State :=
  regOp rq cascPg 0x104 (fun s => if !isMaster s || s.casc.cmdBusy then bump s cascPg 0 0x138 1 else op s) s

/-- A CASC_CMD is done. -/
def cascDone (s : State) : State := setEvt (withCasc s fun c => { c with cmdBusy := false }) cascPg 0

/-! ## Enumeration (R352, R353) -/

/-- CASC_SPAREn. -/
def spareReg (s : State) (n : Nat) : Nat := rget64 s cascPg 0 (0x140 + 8 * n)

/-- The spare list with the dead devices that will be recorded in it (R353, R358). -/
def spareList (s : State) : List Nat :=
  (((List.range 16).map (spareReg s)).filter (· != 0) ++ s.casc.deadSerials).take 29

/-- A serial stands in the spare list (R353). -/
def spareSerial (s : State) (serial : Nat) : Bool := serial != 0 && (List.range 16).any fun n => spareReg s n == serial

/-- Record a serial in the first empty spare entry. -/
def addSpare (s : State) (serial : Nat) : State :=
  if spareSerial s serial then s
  else match (List.range 16).find? fun n => spareReg s n == 0 with
    | some n => rput64 s cascPg 0 (0x140 + 8 * n) serial
    | none => s

/-- ENUM: the ID and depth offered, the parent, the parent's port or 4 once it is sent on it, and the spares. -/
def enumMsg (id depth parent via : Nat) (spares : List Nat) : List Byte :=
  [0x01] ++ toLE 2 id ++ toLE 1 depth ++ toLE 2 parent ++ toLE 1 via ++ spares.flatMap (toLE 8)

/-- ENUM_REPLY: serial, the device's ID (2,048 none), whether the link is a standby one, and its other UP ports. -/
def enumReplyMsg (serial dev : Nat) (standby : Bool) (ports : List Nat) : List Byte :=
  [0x02, if standby then 1 else 0] ++ toLE 8 serial ++ toLE 2 dev ++ toLE 1 (sumN (ports.map (2 ^ ·)))

/-- Send ENUM on a port of this device: the port has no role until the reply. -/
def enumSend (s : State) (port id depth : Nat) (spares : List Nat) : State :=
  let s1 := setRole s port 0 0x7FF
  sendMgmt (withCasc s1 fun c => { c with routes := if id < 2048 then nset c.routes id port else c.routes }) port 0x7FF
    (enumMsg id depth s.casc.devId 4 spares)

/-- The depth of a device in the master's table. -/
def nodeDepth (s : State) (d : Nat) : Nat := match nget s.casc.nodes d with | some n => n.depth | none => 0

/-- The master sends the next probe, or ends the command (R352): depth 8 and 2,048 devices are the limits. -/
def enumNext : Nat → State → State
  | 0, s => cascDone s
  | f + 1, s =>
    match s.casc.enumWork with
    | [] => cascDone (withCasc s fun c => { c with enumCur := none })
    | (d, p) :: rest =>
      let depth := nodeDepth s d + 1
      let id := if depth ≤ 8 ∧ s.casc.nextId < 2048 then s.casc.nextId else 2048
      let s1 := withCasc s fun c => { c with enumWork := rest, enumCur := some ⟨d, p, id, depth⟩ }
      if d = 0 then (if sfUp s1 p then enumSend s1 p id depth (spareList s1) else enumNext f s1)
      else
        let s2 := withCasc s1 fun c => { c with routes := match routeTo s1 d with
          | some q => if id < 2048 then nset c.routes id q else c.routes
          | none => c.routes }
        mgmtTo s2 d (enumMsg id depth d p (spareList s2))

/-- ENUMERATE (R352): the master takes ID 0 and builds the tree anew. -/
def enumerateOp (s : State) : State :=
  let s1 := (List.range 4).foldl (fun s p => setRole s p 0 0x7FF) s
  let ports := upPorts s1 none
  enumNext (ports.length + 1) (withCasc s1 fun c => { c with
    devId := 0, depth := 0, parentPort := none, enumDone := true, cmdBusy := true, nodes := [], routes := [], nextId := 1, skipped := []
    enumWork := ports.map fun p => (0, p), enumCur := none })

def execEnumerate (rq : Requester) (s : State) : Out := .next (cascCmd rq enumerateOp s)

/-- ENUM (R352): on its way it goes on to the parent, which sends it on the port named; at a new device it fixes the parent
port, or, at another port, a standby link. -/
def enumOp (port id depth parent via : Nat) (spares : List Nat) (s : State) : State :=
  if 4 ≤ port ∨ sfUp s port = false then s
  else if via < 4 then
    if !s.casc.enumDone then s
    else if parent = s.casc.devId then (if sfUp s via then enumSend s via id depth spares else s)
    else match routeTo s parent with
      | some q => sendMgmt (withCasc s fun c => { c with routes := if id < 2048 then nset c.routes id q else c.routes }) q parent
          (enumMsg id depth parent via spares)
      | none => s
  else if !isMaster s ∧ (s.casc.parentPort = none ∨ s.casc.parentPort = some port) then
    if id < 2048 then
      let s1 := setRole (withCasc s fun c => { c with
        devId := id, depth := depth, enumDone := true, parentPort := some port, spare := spares.contains s.fuses.serial
        masterHb := s.dt, masterLost := false, routes := [] }) port 1 parent
      sendMgmt (setSf s1 port { getSf s1 port with deadPeer := false, heard := false }) port parent
        (enumReplyMsg s.fuses.serial id false (upPorts s (some port)))
    else sendMgmt (withCasc s fun c => { c with devId := 0x7FF, depth := 0, enumDone := false, parentPort := none }) port parent
      (enumReplyMsg s.fuses.serial 2048 false [])
  else
    sendMgmt (setRole s port 3 parent) port parent (enumReplyMsg s.fuses.serial (if s.casc.enumDone then s.casc.devId else 2048) true [])

def execEnum (port id depth parent via : Nat) (spares : List Nat) (s : State) : Out :=
  act (enumOp port id depth parent via spares) s

/-- Change a node of the master's table. -/
def withNode (c : Casc) (d : Nat) (f : Node → Node) : Casc :=
  match nget c.nodes d with
  | some n => { c with nodes := nset c.nodes d (f n) }
  | none => c

/-- The master takes the reply to its probe. -/
def enumTake (serial dev : Nat) (standby : Bool) (ports : List Nat) (s : State) : State :=
  match s.casc.enumCur with
  | none => s
  | some q =>
    let s1 :=
      if standby then withCasc s fun c =>
        withNode (withNode c dev fun n => { n with standby := n.standby ++ [q.parent] }) q.parent fun n =>
          { n with standby := n.standby ++ [dev] }
      else if q.id = 2048 then
        (if s.casc.skipped.contains serial then s
         else withCasc (bump s cascPg 0 0x134 1) fun c => { c with skipped := c.skipped ++ [serial] })
      else
        let a := if s.casc.deadSerials.contains serial then addSpare s serial else s
        withCasc a fun c => { c with
          nodes := nset c.nodes q.id { serial := serial, parent := q.parent, port := q.port, depth := q.depth, last := s.dt }
          nextId := c.nextId + 1, enumWork := c.enumWork ++ ports.map fun p => (q.id, p)
          deadSerials := c.deadSerials.filter (· != serial) }
    enumNext (s1.casc.enumWork.length + 1) (withCasc s1 fun c => { c with enumCur := none })

/-- ENUM_REPLY (R352): the device next to the replying one learns the link's role; the master records the serial. -/
def enumReplyOp (port serial dev : Nat) (standby : Bool) (ports : List Nat) (s : State) : State :=
  if 4 ≤ port ∨ sfUp s port = false then s
  else
    let s1 := if (getSf s port).role = 0 ∧ (standby = true ∨ dev < 2048) then setRole s port (if standby then 3 else 2) (dev % 2048) else s
    if isMaster s1 then enumTake serial dev standby ports s1
    else match s1.casc.parentPort with
      | some q => sendMgmt s1 q 0 (enumReplyMsg serial dev standby ports)
      | none => s1

def execEnumReply (port serial dev : Nat) (standby : Bool) (ports : List Nat) (s : State) : Out :=
  act (enumReplyOp port serial dev standby ports) s

/-! ## Device time (R354) -/

/-- Device time as the 12 bytes of R5. -/
def dtBytes (t : Nat) : List Byte := toLE 2 (t % 65536) ++ toLE 2 0 ++ toLE 8 (t / 65536)

/-- SYNC_REQ_TIMER (R354): six missing answers in a row lose the lock. -/
def syncReqTimer (s : State) : State :=
  match s.casc.parentPort with
  | none => s
  | some p =>
    let s1 :=
      if s.casc.syncOut then
        let m := s.casc.syncMiss + 1
        let a := withCasc s fun c => { c with syncMiss := m, syncLock := c.syncLock && decide (m < 6) }
        if m = 6 then raiseFault a cascPg 2 0 else a
      else s
    sendPlain (withCasc s1 fun c => { c with syncOut := true }) p 3 (getSf s1 p).peer (dtBytes s1.dt)

/-- SYNC_REQ (R354): t2 and t3 are the device time of this step. -/
def syncReqOp (port t1 : Nat) (s : State) : State :=
  if 4 ≤ port ∨ sfUp s port = false then s
  else sendPlain s port 4 (getSf s port).peer (dtBytes t1 ++ dtBytes s.dt ++ dtBytes s.dt)

/-- The offset of R354 in 2^-16 ns. -/
def syncOffset (t1 t2 t3 t4 : Nat) : Int := (((t2 : Int) - t1) + ((t3 : Int) - t4)) / 2

/-- Correct device time by an offset (R354): a step beyond 1 µs, which becomes a slew while a reservation exists (R434);
else a slew of at most 50 ppm. -/
def syncCorrect (s : State) (o : Int) : State :=
  if (usT 1 : Int) < o ∨ o < -(usT 1 : Int) then
    let s1 := { s with clk := { s.clk with sync := 0 } }
    if anyReserved s then slewTime s1 o else moveTime s1 o
  else { s with clk := { s.clk with sync := o * 1000000000 } }

/-- SYNC_RSP (R354): from the parent, in answer to a request. -/
def syncRspOp (port t1 t2 t3 : Nat) (s : State) : State :=
  if s.casc.parentPort ≠ some port ∨ sfUp s port = false ∨ s.casc.syncOut = false then s
  else
    let o := syncOffset t1 t2 t3 s.dt
    syncCorrect (withCasc s fun c => { c with
      syncOut := false, syncMiss := 0, syncOfs := o, syncLock := decide (-(nsT 4 : Int) < o) && decide (o < (nsT 4 : Int)) }) o

def execSyncReqTimer (s : State) : Out := act syncReqTimer s
def execSyncReq (port t1 : Nat) (s : State) : Out := act (syncReqOp port t1) s
def execSyncRsp (port t1 t2 t3 : Nat) (s : State) : Out := act (syncRspOp port t1 t2 t3) s

/-! ## Heartbeats (R355) -/

/-- A HEARTBEAT payload. -/
def hbBytes (dev count status : Nat) : List Byte := toLE 2 dev ++ toLE 4 count ++ toLE 4 status

/-- HEARTBEAT_TIMER (R355): up to the parent, or down every tree link. DESIGN CHOICE (assumption 60): a home writes the
completions of lost frame periods (R363) at it. -/
def heartbeatTimer (s0 : State) : State :=
  if !s0.casc.enumDone then s0
  else
    let s := lostPeriods s0
    let s1 := withCasc s fun c => { c with hbCount := (c.hbCount + 1) % 2 ^ 32 }
    let b := hbBytes s.casc.devId s1.casc.hbCount (cascStatus s1)
    if isMaster s1 then (treePorts s1).foldl (fun s p => sendPlain s p 5 (getSf s p).peer b) s1
    else match s1.casc.parentPort with
      | some p => sendPlain s1 p 5 0 b
      | none => s1

/-- HEARTBEAT (R355–R357): of another epoch it is dropped; the master's goes on down the tree; another's restarts the master's
timer or goes on to the parent, and shows the way to its device. A standby link that carries one has become a tree link. -/
def heartbeatOp (port dev count : Nat) (status : BitVec 32) (epoch : BitVec 8) (s : State) : State :=
  if 4 ≤ port ∨ sfUp s port = false then s
  else if epoch ≠ s.casc.epoch then epochDrop s port
  else if !s.casc.enumDone then s
  else
    let b := hbBytes dev count status.toNat
    if dev = 0 then
      if isMaster s then s
      else (treePorts s).foldl (fun s p => sendPlain s p 5 (getSf s p).peer b)
        (withCasc s fun c => { c with masterHb := s.dt, masterLost := false })
    else
      let s1 := if (getSf s port).role = 3 then setSf s port { getSf s port with role := 2 } else s
      let s2 := withCasc s1 fun c => { withNode c dev (fun n => { n with last := s.dt }) with routes := nset c.routes dev port }
      if isMaster s2 then s2
      else match s2.casc.parentPort with
        | some p => sendPlain s2 p 5 0 b
        | none => s2

/-- CASC_MASTER_LOST (R355): once for each loss; frames that need another device are lost, in the homes here and in the contexts
whose home is elsewhere. -/
def masterLostOp (s : State) : State :=
  if !s.casc.enumDone || isMaster s || s.casc.masterLost || decide (s.dt < s.casc.masterHb + usT 32) then s
  else
    let s1 := raiseFault (withCasc s fun c => { c with masterLost := true }) cascPg 3 0
    loseAll (markCtxs s1 (fun _ x => x.role == 1) (fun _ _ => true) 4) (fun m => m.dev != s1.casc.devId) false

def execHeartbeatTimer (s : State) : Out := act heartbeatTimer s
def execHeartbeat (port dev count : Nat) (status : BitVec 32) (epoch : BitVec 8) (s : State) : Out :=
  act (heartbeatOp port dev count status epoch) s
def execCascMasterLost (s : State) : Out := act masterLostOp s

/-! ## Epochs and fencing (R356–R358) -/

/-- EPOCH: the new epoch and the dead devices, at most 118 to a message. -/
def epochMsg (epoch : Nat) (dead : List Nat) : List Byte :=
  [0x03] ++ toLE 1 epoch ++ toLE 1 (min 118 dead.length) ++ (dead.take 118).flatMap (toLE 2)

/-- The dead devices of an epoch, in messages of at most 118. -/
def epochParts (dead : List Nat) : List (List Nat) :=
  (List.range (max 1 (cdiv dead.length 118))).map fun k => (dead.drop (118 * k)).take 118

/-- Take an epoch and its dead devices: ports to dead peers are watched, the parent of an orphan becomes the peer of a standby
link, and frames with work on a dead device are lost. -/
def takeEpoch (epoch : BitVec 8) (dead : List Nat) (s : State) : State :=
  let s1 := withCasc s fun c => { c with
    epoch := epoch, deadList := if epoch = c.epoch then c.deadList ++ dead else dead
    parentPort := match c.parentPort with
      | some p => if dead.contains (getSf s p).peer then
          (List.range 4).find? fun q => (getSf s q).role == 3 && sfUp s q && !dead.contains (getSf s q).peer
        else some p
      | none => none }
  let s2 := (List.range 4).foldl (fun s p =>
    let x := getSf s p
    if x.role != 0 && dead.contains x.peer then setSf s p { x with deadPeer := true, role := 0 }
    else if s.casc.parentPort = some p then setSf s p { x with role := 1 }
    else s) s1
  setEvt (loseAll s2 (fun m => dead.contains m.dev) true) cascPg 2

/-- Send EPOCH down the tree, and over standby links, but not back. -/
def forwardEpoch (s : State) (dead : List Nat) (but : Option Nat) : State :=
  ((List.range 4).filter fun p => ((getSf s p).role == 2 || (getSf s p).role == 3) && sfUp s p && some p != but).foldl (fun s p =>
    (epochParts dead).foldl (fun s l => sendMgmt s p (getSf s p).peer (epochMsg s.casc.epoch.toNat l)) s) s

/-- EPOCH (R357). A message that brings nothing new is not forwarded. -/
def epochOp (port : Nat) (epoch : BitVec 8) (dead : List Nat) (s : State) : State :=
  if 4 ≤ port ∨ sfUp s port = false ∨ isMaster s = true ∨
      (epoch = s.casc.epoch ∧ dead.all s.casc.deadList.contains = true) then s
  else forwardEpoch (takeEpoch epoch dead s) dead (some port)

def execEpoch (port : Nat) (newEpoch : BitVec 8) (dead : List Nat) (s : State) : Out := act (epochOp port newEpoch dead) s

/-- FENCE (R358): the device named is fenced and takes a CASCADE reset, which ends every cascade stream on it. -/
def fenceOp (port dev : Nat) (s : State) : State :=
  if 4 ≤ port ∨ sfUp s port = false ∨ s.casc.enumDone = false ∨ dev ≠ s.casc.devId ∨ isMaster s = true then s
  else cascadeReset (raiseFault (withCasc s fun c => { c with fenced := true }) cascPg 1 0)

/-- FENCE_REPEAT (R357): 10 µs on, the dead peer has sent again. -/
def fenceRepeat (p : Nat) (s : State) : State :=
  let x := getSf s p
  if p < 4 ∧ x.deadPeer = true ∧ x.heard = true ∧ fenceDue s p = true ∧ sfUp s p = true then sendFence s p else s

def execFence (port : Nat) (_epoch : BitVec 8) (dev : Nat) (s : State) : Out := act (fenceOp port dev) s
def execFenceRepeat (port : Nat) (s : State) : Out := act (fenceRepeat port) s

/-! ## Admission across devices (R359–R361) -/

/-- The width in plane 0 samples of a member's band. -/
def bandWidth (plan b : List Byte) (i : Nat) : Nat :=
  let g := ctGeo b
  let r := bandOf plan b i
  min (g.pw 0) (r.2 * g.segW) - r.1 * g.segW

/-- The contract of a member (R360–R362): its band, or its own period and share of the envelope. Across a scaler the band's
input width keeps the contract's ratio (assumption 40). -/
def memberContract (plan b : List Byte) (i : Nat) : List Byte :=
  if Plan_.mode plan = 1 then
    let w := bandWidth plan b i
    let b1 := putAt b 0x10 (toLE 2 w)
    if rot90 b then putAt b1 6 (toLE 2 (cdiv (Ct.height b * w) (max 1 (Ct.outW b))))
    else putAt b1 4 (toLE 2 (cdiv (Ct.width b * w) (max 1 (Ct.outW b))))
  else if Plan_.mode plan = 2 then
    let n := max 1 (Plan_.nmem plan)
    putAt (putAt (putAt b 0x18 (toLE 8 (Ct.period b * n))) 0x38 (toLE 8 (Ct.egBurst b / n))) 0x40 (toLE 4 (Ct.egRate b / n))
  else b

/-- A live device that may take a role: the master or one in the table, not dead, not a spare (R353). -/
def roleFit (s : State) (d : Nat) : Bool :=
  if d = 0 then !spareSerial s s.fuses.serial else (nget s.casc.nodes d).any fun n => !n.dead && !spareSerial s n.serial

/-- The checks of a plan's fields, by offset (R360). -/
def planTests (s : State) (plan : List Byte) : List (Nat × Bool) :=
  let m := Plan_.mode plan
  let n := Plan_.nmem plan
  let ds := (List.range n).map (Plan_.member plan)
  [(0x00, 1 ≤ m && m ≤ 3), (0x01, 1 ≤ n && n ≤ 16 && (m != 3 || n == 1)), (0x02, roleFit s (Plan_.home plan)),
   (0x04, zeroAt plan 4 4), (0x10, ds.all (roleFit s) && ds.eraseDups.length == n)]

/-- The checks that need the contract: the modes of coding of each mode, and the bands (R359, R360). -/
def planTests2 (plan b : List Byte) : List (Nat × Bool) :=
  let m := Plan_.mode plan
  let n := Plan_.nmem plan
  let c := Ct.mode b
  [(0x00, m == 3 || ((c == 0 || c == 2 || c == 3) && (m == 2 || Ct.codeFlags b % 2 == 0))),
   (0x30, if m = 1 then Plan_.band plan 0 == 0 && (List.range (n - 1)).all (fun i => Plan_.band plan i < Plan_.band plan (i + 1)) &&
      decide (Plan_.band plan (n - 1) < (ctGeo b).ns 0) else zeroAt plan 0x30 16)]

/-- A member runs its booth (R360): PORT leads towards the home. -/
def memberAdmit (s : State) (stream i home : Nat) (plan b : List Byte) : State × List Byte :=
  let own := home == s.casc.devId
  match (if own then some (byteAt b 0x44) else (routeTo s home).map (3 + ·)) with
  | none => (s, invalidReply 0x44)
  | some port =>
    let d := decide_ s 0x7FF (if own then 2 else 1) (putAt b 0x44 (toLE 1 port))
    let r := padTo 64 d.2
    if byteAt r 0 = 0 then
      let c := leAt r 0x10 2
      let s1 := withCasc d.1 fun k => { k with roles := k.roles.filter (fun r => r.ctx != c) ++ [⟨stream, i, c⟩] }
      ((match getCtx s1 c with | some x => setCtx s1 c { x with widen := Plan_.mode plan == 1 } | none => s1), r)
    else ((if byteAt r 0 = 1 then bump d.1 tkbPg 0 0x124 1 else d.1), r)

/-- The home's egress and hand-off terms of R361 in ns, with the wire factor of its port. -/
def homeTerm (s : State) (b : List Byte) (g fOpen cycle : Nat) : Nat :=
  let fl := flowBytes s (Ct.flow b)
  let wn := if Ct.port b < 2 then Fl.p fl + Fl.h fl else 1
  let wd := if Ct.port b < 2 then max 1 (Fl.p fl) else 1
  let den := Ct.egRate b * fOpen * wd
  if den = 0 then 0xFFFFFFFF else g + cdiv (Ct.egBurst b * 8 * 1000 * cycle * wn) den + tHand (Ct.port b)

/-- The home takes the stream (R359, R360): a context with the stream's queue and egress, and no tile or memory of its own. Its
D_CALC holds only the home's terms. -/
def homeAdmit (s : State) (stream : Nat) (plan b : List Byte) : State × List Byte :=
  match validate s 0 b with
  | .inl off => (s, invalidReply off)
  | .inr _ =>
    let pt := Ct.port b
    let ge := worstGate (carBoth s pt) (svcTc s (Ct.svc b)) 5000
    let fl := flowBytes s (Ct.flow b)
    let rsv := Ct.egRate b + aFrag b (Fl.h fl)
    let mw := if anyAdm s (fun _ x => Ct.port x.block == pt) then 0
      else if pt < 2 then 3000 else if isSf pt then 2800 else 0
    let cap := rbits s tkbPg 0 0x11C 11 0 * 100
    let term := homeTerm s b ge.1 ge.2.1 ge.2.2
    match (freeCtxs s).head?, fifoPlace (fifoRanges s) (egressExp s b) with
    | none, _ => (s, refusedReply 1 1 0)
    | some _, none => (s, refusedReply 1 1 0)
    | some c, some place =>
      if s.booth.thermClosed then (s, refusedReply 2 (s.pwr.tj - 970).toNat 0)
      else if reservable pt < portRsv s pt + rsv then (s, refusedReply 10 (portRsv s pt + rsv - reservable pt) 0)
      else if Ct.egBurst b < maxEvent b then (s, refusedReply 10 0 0)
      else if cap < s.booth.admMw + mw then (s, refusedReply 12 (s.booth.admMw + mw - cap) 0)
      else if !queueFree s (Ct.queue b) then (s, refusedReply 14 1 term)
      else
        let f := freeFifo s
        let blk := putAt (putAt b 2 [0, 0]) 0x4C (toLE 1 (if Ct.source b = 0 then Ct.timeSrc b else 0))
        let x : Ctx := {
          kind := .admitted, block := blk ++ List.replicate 128 0, queue := Ct.queue b, role := 3
          adm := { mp := 99, grp := 99, dAdm := Ct.dReq b, firstDt := s.dt, carLists := [pt], pwrMw := mw, fifo := f
                   g := ge.1, fNum := ge.2.1, fDen := ge.2.2, rsv := rsv
                   wNum := if pt < 2 then Fl.p fl + Fl.h fl else 1, wDen := if pt < 2 then max 1 (Fl.p fl) else 1 }
          rate := { beta := Ct.egBurst b * 1000000, betaTick := s.tick } }
        let s1 := { setCtx s c x with booth := { s.booth with admMw := s.booth.admMw + mw } }
        let s2 := grantFlow s1 b c
        let s3 := setupFifo s2 f (egressExp s b) place (fifoCt pt fl)
        let s4 := setQ s3 (Ct.queue b) { getQ s3 (Ct.queue b) with bound := some c }
        let h : Home := {
          stream := stream, ctx := c, plan := plan
          members := (List.range (Plan_.nmem plan)).map fun i => { dev := Plan_.member plan i }
          capT0 := Ct.source b == 0 && Ct.timeSrc b == 0 }
        (withCasc s4 fun k => { k with homes := k.homes.filter (fun g => g.ctx != c && g.stream != stream) ++ [h] },
         [0, 0] ++ toLE 2 0 ++ toLE 4 0 ++ toLE 4 0 ++ toLE 4 term ++ toLE 2 c ++ toLE 1 0xFF ++ toLE 1 0 ++ toLE 13 0 ++ toLE 3 0 ++
           toLE 1 (Ct.pool b) ++ toLE 1 0 ++ toLE 2 0 ++ toLE 1 0 ++ toLE 3 0 ++ toLE 4 0 ++ dtBytes s.dt ++ toLE 4 mw)

/-- The number of a hop of a stream: place of the member, and how many hops lie before it (R360); members are 0–15, the home 16. -/
def hopKey (i j : Nat) : Nat := 32 * (i + 1) + j

/-- A device on a member's way to the home reserves the member's flow rate on its port towards the home (R360). -/
def hopAdmit (s : State) (stream key home : Nat) (plan b : List Byte) : State × List Byte :=
  let rate := Ct.egRate (memberContract plan b (key / 32 - 1))
  match routeTo s home with
  | none => (s, refusedReply 0x0F (min 0xFFFFFFFF rate) 0)
  | some p =>
    if reservable (3 + p) < portRsv s (3 + p) + rate then (s, refusedReply 0x0F (portRsv s (3 + p) + rate - reservable (3 + p)) 0)
    else (withCasc s fun c => { c with
      transit := (c.transit.filter fun t => !(t.stream == stream && t.key == key)) ++ [⟨stream, key, p, rate⟩] }, [0])

/-- A withdrawal: a member's context stops at its boundary, a home waits for its members, a hop is free again. -/
def withdraw (s : State) (stream member : Nat) : State :=
  if 32 ≤ member then
    withCasc s fun c => { c with transit := c.transit.filter fun t => !(t.stream == stream && t.key == member) }
  else if member = 16 then
    match homeBy s stream with
    | some h => homeLeave (setHome s { h with leaving := true }) stream
    | none => s
  else match s.casc.roles.find? fun r => r.stream == stream && r.place == member with
    | some r => (match getCtx s r.ctx with
      | some x => if x.role = 1 ∨ x.role = 2 then releaseCtx s r.ctx x else s
      | none => s)
    | none => s

/-- What an ADMIT message asks, and its reply if it has one. -/
def mgmtAdmitCore (s : State) (stream member : Nat) (op : MgmtOp) (plan b : List Byte) : State × Option (List Byte) :=
  match op with
  | .member home => let r := memberAdmit s stream member home plan b; (r.1, some (padTo 64 r.2))
  | .home => let r := homeAdmit s stream plan b; (r.1, some (padTo 64 r.2))
  | .withdraw => (withdraw s stream member, none)
  | .replace dev =>
    (match homeBy s stream with
     | some h =>
       let m : Member := { dev := dev, last := (h.members[member]?).bind (·.last), joining := true }
       setHome s { h with members := h.members.set member m }
     | none => s, none)
  | .hop home => let r := hopAdmit s stream member home plan b; (r.1, some (padTo 64 r.2))

/-- The bytes of an ADMIT message. -/
def admitMsg (stream member : Nat) (op : MgmtOp) (plan b : List Byte) : List Byte :=
  let k := match op with | .member h => (0, h) | .home => (1, 0) | .withdraw => (2, 0) | .replace d => (3, d) | .hop h => (4, h)
  [0x04] ++ toLE 4 stream ++ toLE 2 member ++ toLE 1 k.1 ++ toLE 2 k.2 ++ padTo 64 plan ++ padTo 128 b

/-- MGMT_ADMIT (R360). -/
def mgmtAdmitOp (stream member : Nat) (op : MgmtOp) (plan b : List Byte) (s : State) : State :=
  let r := mgmtAdmitCore s stream member op plan b
  match r.2 with
  | some reply => mgmtTo r.1 0 ([0x05] ++ toLE 4 stream ++ toLE 2 member ++ reply)
  | none => r.1

def execMgmtAdmit (stream member : Nat) (op : MgmtOp) (plan contract : List Byte) (s : State) : Out :=
  act (mgmtAdmitOp stream member op plan contract) s

/-! ### The master's side -/

/-- Write a stream of the master's list. -/
def setStream (s : State) (x : CascStream) : State :=
  withCasc s fun c => { c with streams := c.streams.map fun y => if y.id = x.id then x else y }

/-- The device of a member's place, of the home at place 16, or of a hop. -/
def placeDev (x : CascStream) (i : Nat) : Nat :=
  if 32 ≤ i then ((x.hops.find? fun e => e.1 == i).map (·.2)).getD 0 else if i = 16 then Plan_.home x.plan else getIx x.devs i 0

/-- A reply to the promotion of a spare (R363): once it is admitted the home takes it in the dead member's place; a refusal leaves
the place lost. -/
def placeReply (s : State) (x : CascStream) (i : Nat) (reply : List Byte) : State :=
  if byteAt reply 0 ≠ 0 then setStream s { x with lost := x.lost ++ [if i < 32 then i else i / 32 - 1] }
  else
    let s1 := setStream s { x with replies := nset x.replies i (padTo 64 reply) }
    if 16 ≤ i then s1
    else if Plan_.home x.plan = 0 then (mgmtAdmitCore s1 x.id i (.replace (placeDev x i)) x.plan x.contract).1
    else mgmtTo s1 (Plan_.home x.plan) (admitMsg x.id i (.replace (placeDev x i)) x.plan x.contract)

/-- Send an ADMIT message, or act on it here. A reply given here is recorded at once. -/
def askDev (s : State) (stream i : Nat) (op : MgmtOp) : State :=
  match s.casc.streams.find? fun x => x.id == stream with
  | none => s
  | some x =>
    let b := match op with | .member _ => memberContract x.plan x.contract i | _ => x.contract
    if placeDev x i = 0 then
      let r := mgmtAdmitCore s stream i op x.plan b
      match r.2 with
      | some reply => if x.st = 2 then placeReply r.1 x i reply else setStream r.1 { x with replies := nset x.replies i reply }
      | none => r.1
    else mgmtTo s (placeDev x i) (admitMsg stream i op x.plan b)

/-- Write the reply of CASC_CMD ADMIT and end the command. -/
def cascReply (s : State) (b : List Byte) : State :=
  cascDone (memWrite s 0 (rget64 s cascPg 0 0x110) (padTo 64 b) false)

/-- Withdraw every reservation of a stream and drop it. -/
def dropStream (s : State) (x : CascStream) : State :=
  let s1 := (x.replies.filter fun e => byteAt e.2 0 == 0).foldl (fun s e => askDev s x.id e.1 .withdraw) s
  withCasc s1 fun c => { c with streams := c.streams.filter fun y => y.id != x.id }

/-- A refusal: the reply of the device that refused, with FAIL_DEV. -/
def cascRefuse (s : State) (x : CascStream) (reply : List Byte) (dev : Nat) : State :=
  cascReply (dropStream s x) (putAt (padTo 64 reply) 0x21 (toLE 2 dev ++ toLE 1 0))

/-- A device and its ancestors, up to the master. -/
def ancestors (c : Casc) : Nat → Nat → List Nat
  | 0, d => [d]
  | f + 1, d => if d = 0 then [0] else d :: (match nget c.nodes d with | some n => ancestors c f n.parent | none => [])

/-- The hops of a route, as (from, to). -/
def hopsOf (c : Casc) (a b : Nat) : List (Nat × Nat) :=
  let up := ancestors c 2048 a
  let dn := ancestors c 2048 b
  let u := up.takeWhile fun d => !dn.contains d
  let d := dn.takeWhile fun d => !up.contains d
  let top := (up.find? dn.contains).getD 0
  let chain := fun (l : List Nat) => l.zip (l.drop 1)
  chain (u ++ [top]) ++ (chain (d ++ [top])).map fun e => (e.2, e.1)

/-- The hops of a member's way behind its own port, numbered, with the device that reserves each (R360). -/
def wayHops (c : Casc) (home i dev : Nat) : List (Nat × Nat) :=
  let l := (hopsOf c dev home).drop 1
  ((List.range l.length).zip l).map fun e => (hopKey i (e.1 + 1), e.2.1)

/-- The cascade bound (R361), from the members' sums and the home's terms. -/
def cascBound (s : State) (x : CascStream) (home : List Byte) : Nat :=
  let h := Plan_.home x.plan
  let ds := (List.range x.devs.length).zip x.devs
  let skew := 4 * maxN ((h :: x.devs).map (nodeDepth s))
  let member := maxN (ds.map fun e => leAt (ngetD x.replies e.1 []) 0xC 4 - 1500)
  let hops := maxN (ds.map fun e => (hopsOf s.casc e.2 h).length)
  min 0xFFFFFFFF (skew + member + hops * (400 + sfMax s 0 * 1000) + leAt home 0xC 4 + 1500)

/-- An INVALID reply: no member has failed. -/
def cascInvalid (s : State) (off : Nat) : State := cascReply s (putAt (padTo 64 (invalidReply off)) 0x21 (toLE 2 0x7FF ++ toLE 1 0))

/-- The home has answered: the bound decides (R33, R361). -/
def cascFinish (s : State) (x : CascStream) (home : List Byte) : State :=
  if byteAt home 0 ≠ 0 then cascRefuse s x home 0x7FF
  else
    let d := cascBound s x home
    let req := Ct.dReq x.contract
    if req < d then cascRefuse s x (refusedReply 13 (d - req) d) 0x7FF
    else
      let first := (x.replies.map fun e => leAt e.2 0x30 2 + leAt e.2 0x34 8 * 65536).foldl max 0
      let r := putAt (putAt (putAt (putAt home 8 (toLE 4 (min req (cdiv d 10000 * 10000)))) 0xC (toLE 4 d)) 0x21 (toLE 2 0x7FF ++ toLE 1 0))
        0x30 (dtBytes first)
      cascReply (setStream s { x with st := 2, homeCtx := leAt home 0x10 2 }) r

/-- Go on with an admission once the replies asked for are in (R360). -/
def cascAdvance (s : State) (id : Nat) : State :=
  match s.casc.streams.find? fun x => x.id == id with
  | none => s
  | some x =>
    let ds := (List.range x.devs.length).zip x.devs
    if x.st = 0 ∧ (ds ++ x.hops).all (fun e => (nget x.replies e.1).isSome) = true then
      match (ds ++ x.hops).find? fun e => byteAt (ngetD x.replies e.1 []) 0 != 0 with
      | some e => cascRefuse s x (ngetD x.replies e.1 []) (if e.1 < 16 then e.2 else 0x7FF)
      | none =>
          let s1 := askDev (setStream s { x with st := 1 }) id 16 .home
          match s1.casc.streams.find? fun y => y.id == id with
          | some y => (match nget y.replies 16 with | some r => cascFinish s1 y r | none => s1)
          | none => s1
    else if x.st = 1 then (match nget x.replies 16 with | some r => cascFinish s x r | none => s)
    else s

/-- A number that no stream of the master's list has. -/
def streamId (s : State) : Nat := max s.casc.nextStream (maxN (s.casc.streams.map fun x => x.id + 1))

/-- CASC_ADMIT (R360): read the plan and the contract, and ask every member. -/
def cascAdmitOp (s : State) : State :=
  let r := memRead s 0 (rget64 s cascPg 0 0x108) 64
  if r.2.1.isSome || r.2.2 then cascInvalid s 0
  else
    let plan := r.1
    let b := memRead s 0 (Plan_.contract plan) 128
    match (planTests s plan).find? fun t => !t.2 with
    | some t => cascInvalid s t.1
    | none =>
      if b.2.1.isSome || b.2.2 then cascInvalid s 8
      else match (planTests2 plan b.1).find? fun t => !t.2 with
        | some t => cascInvalid s t.1
        | none =>
          let id := streamId s
          let devs := (List.range (Plan_.nmem plan)).map (Plan_.member plan)
          let x : CascStream := {
            id := id, plan := plan, contract := b.1, devs := devs
            hops := ((List.range devs.length).zip devs).flatMap fun e => wayHops s.casc (Plan_.home plan) e.1 e.2 }
          let s1 := withCasc s fun c => { c with streams := c.streams ++ [x], nextStream := id + 1, cmdBusy := true }
          let s2 := (List.range x.devs.length).foldl (fun s i => askDev s id i (.member (Plan_.home plan))) s1
          cascAdvance (x.hops.foldl (fun s e => askDev s id e.1 (.hop (Plan_.home plan))) s2) id

/-- ADMIT_REPLY (R360, R363). -/
def admitReplyOp (stream member : Nat) (reply : List Byte) (s : State) : State :=
  match s.casc.streams.find? fun x => x.id == stream with
  | none => s
  | some x =>
    if !isMaster s then s
    else if x.st = 2 then placeReply s x member reply
    else cascAdvance (setStream s { x with replies := nset x.replies member (padTo 64 reply) }) stream

/-- CASC_RELEASE (R368): the stream of the home context named. -/
def cascReleaseOp (ctx : Nat) (s : State) : State :=
  match s.casc.streams.find? fun x => x.st == 2 && x.homeCtx == ctx with
  | some x => cascDone (dropStream s x)
  | none => cascDone s

/-- RESET_DEVICE (R364, R368): the RESET message; the target's semaphores are broken. -/
def resetDeviceOp (target : Nat) (s : State) : State :=
  if target = 0 then cascadeReset s
  else cascDone (mgmtTo (breakSems s fun m => m.dev == target) target [0x0B])

def execCascAdmit (rq : Requester) (s : State) : Out := .next (cascCmd rq cascAdmitOp s)
def execAdmitReply (stream member : Nat) (reply : List Byte) (s : State) : Out := act (admitReplyOp stream member reply) s
def execCascRelease (rq : Requester) (ctx : Nat) (s : State) : Out := .next (cascCmd rq (cascReleaseOp ctx) s)
def execResetDevice (rq : Requester) (target : Nat) (s : State) : Out := .next (cascCmd rq (resetDeviceOp target) s)

/-- BUDGET (R362): a widen member holds the budget of a frame. -/
def budgetOp (ctx frame bytes target : Nat) (s : State) : State :=
  match getCtx s ctx with
  | some x =>
    if x.widen then setCtx s ctx { x with
      budgets := (x.budgets.filter fun t => t.1 != frame && !frameLe t.1 ((frame + 2 ^ 32 - 8) % 2 ^ 32)) ++ [(frame, bytes, target)] }
    else s
  | none => s

def execBudget (ctx frame bytes target : Nat) (s : State) : Out := act (budgetOp ctx frame bytes target) s

/-! ## Deaths (R356, R363) -/

/-- The devices still reached from the master, and the table with orphans re-parented over standby links. -/
def survivors : Nat → NMap Node → List Nat → List Nat → NMap Node × List Nat
  | 0, ns, _, live => (ns, live)
  | f + 1, ns, dead, live =>
    let out := fun (e : Nat × Node) => !live.contains e.1 && !dead.contains e.1 && !e.2.dead
    match ns.find? fun e => out e && live.contains e.2.parent with
    | some e => survivors f ns dead (live ++ [e.1])
    | none => match ns.find? fun e => out e && e.2.standby.any live.contains with
      | some e => survivors f (nset ns e.1 { e.2 with parent := (e.2.standby.find? live.contains).getD 0 }) dead (live ++ [e.1])
      | none => (ns, live)

/-- The first device of the spare list that is alive (R363): its entry and ID. -/
def firstSpare (s : State) : Option (Nat × Nat) :=
  (List.range 16).findSome? fun n =>
    if spareReg s n = 0 then none
    else (s.casc.nodes.find? fun e => e.2.serial == spareReg s n && !e.2.dead).map fun e => (n, e.1)

/-- Ask a spare to take a dead member's place (R363), and its way to reserve the member's rate in place of the old one. -/
def promote (d : Nat) (s : State) (e : Nat × Nat) : State :=
  match s.casc.streams.find? fun x => x.id == e.1 with
  | none => s
  | some x =>
    let home := Plan_.home x.plan
    let mine := fun (k : Nat × Nat) => 32 ≤ k.1 && k.1 / 32 - 1 == e.2
    let s1 := (x.hops.filter mine).foldl (fun s k => askDev s x.id k.1 .withdraw) s
    let new := wayHops s.casc home e.2 d
    let s2 := setStream s1 { x with
      devs := x.devs.set e.2 d, hops := x.hops.filter (fun k => !mine k) ++ new
      replies := x.replies.filter fun r => !(r.1 == e.2 || (32 ≤ r.1 && r.1 / 32 - 1 == e.2)) }
    new.foldl (fun s k => askDev s x.id k.1 (.hop home)) (askDev s2 x.id e.2 (.member home))

/-- A death (R363): the first spare of the list takes every place of the dead device; with no spare they stay lost. -/
def promoteAll (s : State) (places : List (Nat × Nat)) : State :=
  if places.isEmpty then s
  else match firstSpare s with
    | none => places.foldl (fun s e => match s.casc.streams.find? fun x => x.id == e.1 with
        | some x => setStream s { x with lost := x.lost ++ [e.2] }
        | none => s) s
    | some (n, d) => places.foldl (promote d) (rput64 s cascPg 0 (0x140 + 8 * n) 0)

/-- The places of streams that dead devices held. -/
def deadPlaces (s : State) (dead : List Nat) : List (Nat × Nat) :=
  s.casc.streams.flatMap fun x => if x.st ≠ 2 then [] else
    (((List.range x.devs.length).zip x.devs).filter fun e => dead.contains e.2).map fun e => (x.id, e.1)

/-- CASC_DEVICE_DEAD (R356), in the order of the rule. -/
def deviceDead (dev : Nat) (s : State) : State :=
  match nget s.casc.nodes dev with
  | none => s
  | some n =>
    if !isMaster s || n.dead || decide (s.dt < n.last + nsT (rbits s cascPg 0 0x118 16 0)) then s
    else
      let r := survivors (2 * s.casc.nodes.length + 2) s.casc.nodes [dev] [0]
      let dead := (r.1.filter fun e => !r.2.contains e.1 && !e.2.dead).map (·.1)
      let s1 := bump (withCasc s fun c => { c with
        nodes := r.1.map fun e => if dead.contains e.1 then (e.1, { e.2 with dead := true }) else e
        deadSerials := c.deadSerials ++ (r.1.filter fun e => dead.contains e.1).map (·.2.serial)
        routes := c.routes.filter fun e => !dead.contains e.1 }) cascPg 0 0x12C dead.length
      let s2 := breakSems (takeEpoch (s1.casc.epoch + 1) dead s1) fun m => dead.contains m.dev
      let s3 := raiseFault (forwardEpoch s2 dead none) cascPg 0 (dev % 256)
      let s4 := (s3.casc.streams.filter fun x => x.st != 2 && (Plan_.home x.plan :: x.devs).any dead.contains).foldl (fun s x =>
        cascRefuse s x (refusedReply 0x0F 0 0) ((x.devs.find? dead.contains).getD 0x7FF)) s3
      dead.foldl (fun s d => promoteAll s (deadPlaces s [d])) s4

def execCascDeviceDead (dev : Nat) (s : State) : Out := act (deviceDead dev) s

/-! ## Semaphores (R364) -/

/-- A reply into CASC_SEM_RESULT. -/
def semResult (granted broken : Bool) (owner dev : Nat) (s : State) : State :=
  setEvt (withCasc s fun c => { c with
    semDone := true, semGranted := granted, semBroken := broken, semOwner := owner, semDev := dev }) cascPg 1

/-- The master decides an operation: 1 ACQUIRE, 2 RELEASE, 3 FORCE_RELEASE, 4 every semaphore of a released context. The
semaphore after it, and whether the requester now holds it. -/
def semStep (op dev owner : Nat) (m : Sem) : Sem × Bool :=
  let mine := m.held && m.dev == dev && m.owner == owner
  if op = 1 then
    if m.held || !ownerOk owner then (m, mine) else ({ held := true, broken := m.broken, dev := dev, owner := owner }, true)
  else if op = 2 then (if mine then ({}, false) else (m, false))
  else if op = 3 then (if m.held then ({ broken := true }, false) else (m, false))
  else (m, mine)

/-- Decide in the master: the state, GRANTED and the semaphore after. -/
def semDecide (s : State) (op dev owner sem : Nat) : State × Bool × Sem :=
  if op = 4 then (breakSems s fun m => m.dev == dev && m.owner == owner, false, {})
  else
    let r := semStep op dev owner (ngetD s.casc.sems sem {})
    (withCasc s fun c => { c with sems := nset c.sems sem r.1 }, r.2, r.1)

/-- A write of CASC_SEM_OP: DONE drops; the master decides at once, another device asks it. -/
def semAsk (op owner sem : Nat) (s : State) : State :=
  let s1 := withCasc s fun c => { c with semDone := false }
  if isMaster s1 then
    let r := semDecide s1 op s1.casc.devId owner sem
    semResult r.2.1 r.2.2.broken r.2.2.owner r.2.2.dev r.1
  else mgmtTo s1 0 ([0x07] ++ toLE 1 op ++ toLE 1 sem ++ toLE 2 owner)

/-- FORCE_RELEASE: a Steward on the master only. -/
def semForce (rq : Requester) (sem : Nat) (s : State) : State :=
  if isSteward rq && isMaster s then semAsk 3 0x7FF sem s else s

/-- SEM_REQ (R364): at the master. -/
def semReqOp (dev op owner sem : Nat) (s : State) : State :=
  if !isMaster s || op == 3 then s
  else
    let r := semDecide s op dev owner sem
    if op = 4 then r.1
    else mgmtTo r.1 dev ([0x08, if r.2.1 then 1 else 0, if r.2.2.broken then 1 else 0] ++ toLE 2 r.2.2.owner ++ toLE 2 r.2.2.dev)

def execCascSemAcquire (rq : Requester) (owner : BitVec 11) (sem : Nat) (s : State) : Out :=
  .next (regOp rq cascPg 0x120 (semAsk 1 owner.toNat (sem % 64)) s)
def execCascSemRelease (rq : Requester) (owner : BitVec 11) (sem : Nat) (s : State) : Out :=
  .next (regOp rq cascPg 0x120 (semAsk 2 owner.toNat (sem % 64)) s)
def execCascSemForceRelease (rq : Requester) (sem : Nat) (s : State) : Out :=
  .next (regOp rq cascPg 0x120 (semForce rq (sem % 64)) s)
def execSemReq (_port dev op : Nat) (owner : BitVec 11) (sem : Nat) (s : State) : Out := act (semReqOp dev op owner.toNat (sem % 64)) s
def execSemReply (granted broken : Bool) (owner : BitVec 11) (dev : Nat) (s : State) : Out :=
  act (semResult granted broken owner.toNat dev) s

/-! ## Cross-device requests (R365) -/

/-- Answer an XREQ: tag, code, address. -/
def xanswer (s : State) (dev tag code addr : Nat) : State := mgmtTo s dev ([0x0A] ++ toLE 4 tag ++ toLE 1 code ++ toLE 8 addr)

/-- XREQ: a remote ALLOC in mode WAIT by R257, with the codes of R263. -/
def xreqOp (dev tag issued owner p : Nat) (s : State) : State :=
  let x := getPool s p
  if !blockUp s grnPg || !poolUp x then xanswer s dev tag 6 0
  else if !ownerOk owner then xanswer s dev tag 7 0
  else match grnDecide x owner with
    | some (i, x1) => xanswer (evG 0x108 (setPool s p x1)) dev tag 0 (poolBase s p + i * poolSize s p)
    | none =>
      if x.waiters.length < 64 then
        xreqContend (setPool s p { x with waiters := x.waiters ++ [⟨.remote dev tag issued, owner, s.tick⟩] }) p
      else xanswer (evG 0x109 s) dev tag 1 0

/-- XREPLY: the answer to this device's own request. -/
def xreplyOp (tag code addr : Nat) (s : State) : State := withCasc s fun c => { c with xans := c.xans ++ [(tag, code, addr)] }

/-- XREQ_TIMEOUT: a request that has waited CASC_XDEV_TMO is aborted and counted. -/
def xreqTimeoutOp (dev tag : Nat) (s : State) : State :=
  let tmo := rbits s cascPg 0 0x128 23 0
  let mine := fun (w : Waiter) => (match w.who with | .remote d t _ => d == dev && t == tag | .req _ => false) &&
    decide (tmo ≤ (s.tick - w.at_) * 10)
  match s.pools.find? fun e => e.2.waiters.any mine with
  | some (p, x) =>
    bump (xanswer (evG 0x109 <| setPool s p { x with waiters := x.waiters.filter fun w => !mine w }) dev tag 8 0) cascPg 0 0x130 1
  | none => s

def execXreq (dev tag issued : Nat) (owner : BitVec 11) (pool : Nat) (s : State) : Out :=
  act (xreqOp dev tag issued owner.toNat pool) s
def execXreply (tag code addr : Nat) (s : State) : Out := act (xreplyOp tag code addr) s
def execXreqTimeout (dev tag : Nat) (s : State) : Out := act (xreqTimeoutOp dev tag) s

end Sys2Proof.Machine
end

