-- ==== Sys2Proof/Machine/Crier.lean ====
section
/-! DEFINITION. The fault collector's own commands, BELL and the heartbeat (R446–R451), and the Crier's takes, dones and software
sources (R452–R458). -/
namespace Sys2Proof.Machine

/-- FAULT_RAISE (R446): a block raises one of its sources; a block held in reset raises none. -/
def faultRaise (page src info : Nat) (s : State) : State :=
  if (hdr s page).inReset then s else raiseFault s page src info

def execFaultRaise (page source info : Nat) (s : State) : Out := actBus (faultRaise page source info) s

/-! ## Heartbeat and BELL (R450, R451) -/

/-- FLT_HB_CFG.MASK and TMO. -/
def hbMask (s : State) : Nat := rbits s fltPg 0 0x130 3 0
def hbTmo (s : State) : Nat := rbits s fltPg 0 0x130 23 8

/-- A write of FLT_HB (R450, R451): a Steward's heartbeat; the host's is denied. -/
def fltHb (rq : Requester) (s : State) : State :=
  match rq with
  | .steward n => { s with flt := { s.flt with hbAt := setIx s.flt.hbAt n.val s.tick 0, missed := setIx s.flt.missed n.val false false } }
  | .host => hostDeny s (fltPg * 4096 + 0x12C)
  | .master => s

def execFltHb (rq : Requester) (s : State) : Out := .next (regOp rq fltPg 0x12C (fltHb rq) s)

/-- Steward `n` is watched and its deadline has passed (R450). -/
def hbLate (s : State) (n : Nat) : Bool :=
  decide (n < 4) && s.boot.doneFlag && hbMask s / 2 ^ n % 2 == 1 && decide (getIx s.flt.hbAt n 0 + hbTmo s * 100 < s.tick)

/-- HB_MISS (R450, R451): raised once a miss. -/
def hbMiss (n : Nat) (s : State) : State :=
  if hbLate s n && !getIx s.flt.missed n false then
    setEvt (raiseFault { s with flt := { s.flt with missed := setIx s.flt.missed n true false } } fltPg 2 n) fltPg 1
  else s

def execHbMiss (steward : Nat) (s : State) : Out := act (hbMiss steward) s

/-- BELL holds: before BOOT_DONE, in the fault state, or while a masked Steward is late with its heartbeat (R450). -/
def bellHolds (s : State) : Bool :=
  !s.boot.doneFlag || s.flt.fault || (List.range 4).any fun n => hbMask s / 2 ^ n % 2 == 1 && (getIx s.flt.missed n false || hbLate s n)

/-- Device time is within 10 ns of a multiple of BELL's half period in force (R450). -/
def bellDue (s : State) : Bool :=
  let p := usT s.flt.half
  decide (s.dt % p ≤ nsT 10) || decide (p - s.dt % p ≤ nsT 10)

/-- BELL_TOGGLE (R450): the level changes unless BELL holds; BELL_CFG as written since takes effect at this instant. -/
def bellToggle (s : State) : State :=
  if !bellDue s then s
  else { s with flt := { s.flt with
    bell := if bellHolds s then s.flt.bell else !s.flt.bell
    half := rbits s fltPg 0 0x134 8 0 } }

def execBellToggle (s : State) : Out := actBus bellToggle s

/-! ## The Crier (R452–R458) -/

/-- The Steward a source is routed to: among those in ROUTE with IE set the lowest PRIO, a tie to the lower number (R454). -/
def routedTo (s : State) (n : Nat) : Option Nat :=
  let prio := fun k => rgetN s crierPg (k + 1) 0x18C
  let l := (List.range 4).filter fun k => srcCfg s n / 2 ^ (4 + k) % 2 == 1 && decide (2 ^ 31 ≤ prio k)
  l.foldl (fun b k => match b with
    | none => some k
    | some j => if prio k % 256 < prio j % 256 then some k else some j) none

/-- A Steward's external interrupt is asserted: some pending source is routed to it (R454). -/
def interruptOf (s : State) (k : Nat) : Bool := (List.range 512).any fun n => srcPending s n && routedTo s n == some k

/-- CRIER_TAKE (R453): the source becomes active under the writer, or the take fails; the host may not take. -/
def crierTake (rq : Requester) (n : Nat) (s : State) : State :=
  match rq with
  | .steward k =>
    let ok := decide (n < 1024) && srcPending s n
    let s1 := { s with takeRes := nset s.takeRes (rqIx rq) ok }
    if ok then evG 0x111 (setSrc s1 n { getSrc s1 n with owner := some k.val }) else s1
  | .host => hostDeny s (crierPg * 4096 + 0x190)
  | .master => s

/-- CRIER_DONE (R453): from the owner it clears active, and an Island or fault-severity source is asserted no more (R452); any
other is spurious. -/
def crierDone (rq : Requester) (n : Nat) (s : State) : State :=
  match rq with
  | .steward k =>
    let c := getSrc s n
    if c.owner ≠ some k.val then bump s crierPg 0 0x19C 1
    else
      let s1 := setSrc s n { c with owner := none }
      if n = 216 ∨ n = 217 ∨ n = 224 ∨ n = 225 then setLevel s1 n false else s1
  | .host => hostDeny s (crierPg * 4096 + 0x198)
  | .master => s

/-- CRIER_SET and CRIER_CLR (R452): a software source 256–511; other values are discarded. -/
def crierSoft (n : Nat) (l : Bool) (s : State) : State := if 256 ≤ n ∧ n < 512 then setLevel s n l else s

def execCrierTake (rq : Requester) (src : Nat) (s : State) : Out := .next (regOp rq crierPg 0x190 (crierTake rq src) s)
def execCrierDone (rq : Requester) (src : Nat) (s : State) : Out := .next (regOp rq crierPg 0x198 (crierDone rq src) s)
def execCrierSet (rq : Requester) (src : Nat) (s : State) : Out := .next (regOp rq crierPg 0x1A0 (crierSoft src true) s)
def execCrierClr (rq : Requester) (src : Nat) (s : State) : Out := .next (regOp rq crierPg 0x1A4 (crierSoft src false) s)

end Sys2Proof.Machine
end

