-- ==== Sys2Proof/Machine/Debug.lean ====
section
/-! DEFINITION. Precise sampling (R463, R464), the test multiplexers (R467, R468) and boundary scan (R469). The counters are in
Counters.lean. -/
namespace Sys2Proof.Machine

/-! ## Precise sampling (R463, R464) -/

/-- PERF_SMP_CTRL of a tile. -/
def smpCtrl (s : State) (t : Nat) : Nat := rgetN s perfPg (perfTile t) 0x120

/-- The sampler of a tile counts: EN, and TCFG15 selects an event that counts (R460, R463). -/
def sampling (s : State) (t : Nat) : Bool :=
  decide (t < 104) && bits (smpCtrl s t) 31 31 == 1 && rbits s perfPg (perfTile t) (0x300 + 4 * 15) 9 0 != 0

/-- SMP_LOST of a tile. -/
def smpLost (s : State) (t n : Nat) : State := if n = 0 then s else bump s perfPg (perfTile t) 0x13C n

/-- The entry of an operation (R463): its address, code, context, end, operand A, latency and time since program start. -/
def smpEntry (x : Tile) (endKind latency since : Nat) : List U32 :=
  let op := (ngetD x.tpr x.opaddr 0).toNat
  [x.opaddr % 1024 + bits op 63 58 * 2 ^ 10 + x.ctx % 2048 * 2 ^ 16 + endKind * 2 ^ 27, bits op 57 38,
   min 0xFFFFFFFF latency, min 0xFFFFFFFF since].map (BitVec.ofNat 32)

/-- Write an entry, then advance the index; the index reaching THRESH raises SMP_FULL. With STOP a full buffer takes none
(R464). -/
def smpPut (s : State) (t : Nat) (e : List U32) : State :=
  let x : Smp := ngetD s.smps t {}
  if bits (smpCtrl s t) 30 30 = 1 ∧ 256 ≤ x.widx then smpLost s t 1
  else
    let w := (x.widx + 1) % 512
    let s1 := { s with smps := nset s.smps t { widx := w, ents := nset x.ents (x.widx % 256) e } }
    if w % 256 = bits (smpCtrl s t) 29 22 then setEvt s1 perfPg 2 else s1

/-- SAMPLE_PERIOD (R463): at its end the operation in which a period fell writes one entry; `extra` further periods of the same
operation are lost samples. -/
def samplePeriod (t endKind latency since extra : Nat) (s : State) : State :=
  if sampling s t && decide (endKind < 3) then smpLost (smpPut s t (smpEntry (getTile s t) endKind latency since)) t extra else s

def execSamplePeriod (tile endKind latency sinceStart extra : Nat) (s : State) : Out :=
  act (samplePeriod tile endKind latency sinceStart extra) s

/-! ## Test multiplexers (R467, R468) -/

/-- The row of TMUX_SEL. -/
def tmuxRow : RegRow := ⟨0x100, 1, .rw, 0x200000, 0x87FF03FF, [near 26 20 2 64], false, false⟩

/-- A write of TMUX_SEL: it takes effect in DEBUG_UNLOCKED and RMA, else it is counted in DBG_DENY. -/
def tmuxWrite (v : BitVec 32) (s : State) : State :=
  if debugUnlocked s then rput s tmuxPg 0 0x100 (stored tmuxRow v) else bump s debugPg 0 0x104 1

/-- What TMUX_SEL reads. -/
def tmuxRead (s : State) : Nat := if debugUnlocked s then rgetN s tmuxPg 0 0x100 else 0

/-- DBG_OUT[15:0] at a sample: the selected group of the page's debug bus; zeros for no page and for the Island's. -/
def dbgOut (s : State) : Nat :=
  let w := tmuxRead s
  let page := bits w 9 0
  if bits w 31 31 = 0 ∨ (pageAt page).all (fun k => k.1 == .isl) = true then 0
  else (Config.debugBus (bits w 19 16 + 16 * page + 16384 * s.tick)).toNat % 2 ^ 16

def execTmuxSel (rq : Requester) (word : BitVec 32) (s : State) : Out := .next (regOp rq tmuxPg 0x100 (tmuxWrite word) s)

/-! ## Boundary scan (R469) -/

/-- The instructions that hold the main die in COLD reset. -/
def tapHolds (i : Nat) : Bool := decide (3 ≤ i)

/-- Load an instruction (0 BYPASS, 1 IDCODE, 2 SAMPLE/PRELOAD, 3 EXTEST, 4 EXTEST_PULSE, 5 EXTEST_TRAIN, 6 CLAMP, 7 HIGHZ): the
main die enters its held COLD reset, or leaves it, which is the same reset's end. -/
def tapLoad (i : Nat) (s : State) : State :=
  if !s.pwr.mainOn then s
  else
    let r := mainReset 1 s
    let s1 := if tapHolds i == s.jtag.held then s else if s.jtag.held then { r with rst := { s.rst with kind := 1 } } else r
    { s1 with jtag := { s1.jtag with instr := i, held := tapHolds i } }

/-- Load an instruction with the boundary cells shifted in. -/
def tapCells (i : Nat) (c : List Bool) (s : State) : State :=
  if !s.pwr.mainOn then s
  else
    let s1 := tapLoad i s
    { s1 with jtag := { s1.jtag with cells := c } }

def execBypass (s : State) : Out := .next (tapLoad 0 s)
def execIdcode (s : State) : Out := .next (if s.pwr.mainOn then emit (tapLoad 1 s) (.tdo 0x196205AF) else s)
def execSamplePreload (cells : List Bool) (s : State) : Out := .next (tapCells 2 cells s)
def execExtest (cells : List Bool) (s : State) : Out := .next (tapCells 3 cells s)
def execExtestPulse (cells : List Bool) (s : State) : Out := .next (tapCells 4 cells s)
def execExtestTrain (cells : List Bool) (s : State) : Out := .next (tapCells 5 cells s)
def execClamp (s : State) : Out := .next (tapLoad 6 s)
def execHighz (s : State) : Out := .next (tapLoad 7 s)
def execTapReset (s : State) : Out := .next (tapLoad 1 s)

end Sys2Proof.Machine
end

