-- ==== Sys2Proof/Machine/EncQueue.lean ====
section
/-! DEFINITION. Work that a queue brings to encode contexts (R183–R189): ENCODE entries and their input, configuration blocks,
opening and closing bulk contexts, and the bulk slots (R184). -/
namespace Sys2Proof.Machine

/-! ENCODE entry fields (R185). -/
namespace En
def inAddr (e : List Byte) : Nat := leAt e 8 8
def pitch (e : List Byte) : Nat := leAt e 0x10 4
def fmt (e : List Byte) : Nat := byteAt e 0x14
def loc (e : List Byte) : Nat := byteAt e 0x15
def forceI (e : List Byte) : Bool := byteAt e 0x16 % 2 == 1
/-- First byte of a plane; the offset counts bytes. -/
def plane (e : List Byte) (p : Nat) : Nat := inAddr e + (if p = 0 then 0 else leAt e (0x18 + 4 * (p - 1)) 4)
def frame (e : List Byte) : Nat := leAt e 0x24 4
def capNs (e : List Byte) : Nat := leAt e 0x28 8
def capFrac (e : List Byte) : Nat := leAt e 0x30 2
end En

/-- The context is fed by this queue and takes ENCODE entries (R185, R294): admitted host-fed, or bulk. -/
def hostFed (x : Ctx) (q : Nat) : Bool :=
  x.queue == q && ((x.kind == .admitted && Ct.source x.block == 1) || x.kind == .bulk)

/-- A plane would pass the 64-bit address space (R185). -/
def planePast (b e : List Byte) : Bool :=
  (List.range (srcPlanes b)).any fun p =>
    decide (2 ^ 64 < En.plane e p + (srcH b p - 1) * En.pitch e + lineBytes (En.fmt e) (srcW b p))

/-- The entry is BAD_DESCRIPTOR (R185); a location code above 1 names none. -/
def encBad (s : State) (q : Nat) (e : List Byte) : Bool :=
  match getCtx s (leAt e 2 2) with
  | some x =>
    !hostFed x q || decide (5 < En.fmt e) || decide (fmtBits (En.fmt e) < Ct.depth x.block) || En.inAddr e % 64 != 0 ||
      decide (1 < En.loc e) || planePast x.block e
  | none => true

/-- ENCODE (R185, R188): a started entry is validated and queued for its context; after a RELEASE boundary it is ABORTED
(R34). -/
def encodeOp (q : Nat) (s : State) : State :=
  match takeStarted s q fun se => byteAt se 0 == 0x10 with
  | none => s
  | some (id, e, s1) =>
    if cfgAhead s q id (leAt e 2 2) then s
    else if encBad s q e then finishSlot s1 q id (seCe s e 0x08)
    else match getCtx s1 (leAt e 2 2) with
      | none => s1
      | some x =>
        if x.rel ≠ 0 then finishSlot s1 q id (seCe s e 0x0D)
        else setCtx s1 (leAt e 2 2) { x with encQ := x.encQ ++ [(id, e)] }

def execEncode (queue : Nat) (s : State) : Out := act (encodeOp queue) s

/-- The picture of an ENCODE entry. -/
def encPic (s : State) (slot : Nat) (e : List Byte) : Pic :=
  { id := s.nextId, src := En.frame e, slot := some slot, tag := leAt e 4 4, se := e, forceI := En.forceI e
    capNs := En.capNs e, capFrac := if En.capNs e = 0 then 0 else En.capFrac e, capKnown := En.capNs e != 0, at_ := s.dt }

/-- ENCODE_START (R188): with the slot group open and PERIOD past since the last start, the input DMA of the next entry
begins. -/
def encodeStart (c : Nat) (s : State) : State :=
  match getCtx s c with
  | none => s
  | some x0 => match x0.encQ with
    | [] => s
    | (id, e) :: rest =>
      if x0.kind ≠ .admitted ∨ encodeFree s x0 = false then s
      else
        let x := replaceTiles s x0
        let p := { encPic s id e with
          cause := (if fenceCause s c x = 0 then needCause s x else fenceCause s c x), capD := widenCap x (encPic s id e).src }
        setCtx { s with nextId := s.nextId + 1 } c
          { x with encQ := rest, pics := x.pics ++ [p], dma := some p.id, lastStart := some s.dt }

def execEncodeStart (ctx : Nat) (s : State) : Out := act (encodeStart ctx) s

/-- The lines of an entry's planes: the samples, whether a read met a bus error, and whether one carried poison (R12, R185,
R241). -/
def readPlanes (s : State) (b e : List Byte) : PicBuf × Bool × Bool :=
  let rd := fun (p y : Nat) => memRead s (En.loc e) (En.plane e p + y * En.pitch e) (lineBytes (En.fmt e) (srcW b p))
  let all := (List.range (srcPlanes b)).map fun p => (List.range (srcH b p)).map fun y => (p, rd p y)
  (all.map fun l => l.map fun t => unpackLine (En.fmt e) (Ct.depth b) (srcW b t.1) t.2.1,
   all.any fun l => l.any fun t => t.2.2.1.isSome, all.any fun l => l.any fun t => t.2.2.2)

/-- What the reads of an entry's planes raise (R230, R241). -/
def readEffects (s : State) (b e : List Byte) : State :=
  (List.range (srcPlanes b)).foldl (fun s p => (List.range (srcH b p)).foldl (fun s y =>
    (readLoc s (En.loc e) (En.plane e p + y * En.pitch e) (lineBytes (En.fmt e) (srcW b p))).2) s) s

/-- ENCODE_INPUT_DONE (R24, R188): the input DMA ends; a bus error ends the picture, poisoned input is reported under MEM_UE,
and a frame accepted while the Island's timebase is lost under TIMEBASE (R50). -/
def encodeInputDone (c : Nat) (s0 : State) : State :=
  match getCtx s0 c with
  | none => s0
  | some x => match x.dma.bind (getPic x) with
    | none => s0
    | some p =>
      let r := readPlanes s0 x.block p.se
      let s := readEffects s0 x.block p.se
      let y := { x with dma := none }
      if r.2.1 then
        endPic { setCtx s c y with bulkSlots := s.bulkSlots.filter fun e => e.2 != (c, p.id) } c p.id (0x09, 0)
      else
        let s1 := setCtx s c (updPic y p.id fun p => { p with
          closed := true, input := condition s x.block r.1, t0 := some s.dt
          cause := if p.cause ≠ 0 ∨ x.kind ≠ .admitted then p.cause else if r.2.2 then 1
            else if Ct.timeSrc x.block = 1 ∧ islLost s = true then 5 else 0 })
        if x.kind = .admitted then slotLimit s1 x.queue p.slot (s.dt + nsT x.adm.dAdm - nsT 1500) else s1

def execEncodeInputDone (ctx : Nat) (s : State) : Out := act (encodeInputDone ctx) s

/-! ## Bulk slots (R184) -/

/-- The waiting frame of a context that is in no slot: its completion slot. -/
def bulkHead (s : State) (c : Nat) (x : Ctx) : Option Nat :=
  if s.bulkSlots.any fun e => e.2.1 == c then none
  else match x.kind with
    | .admitted => none
    | .bulk => x.encQ.head?.map (·.1)
    | .decode => match x.dec.run, x.dec.queue with
      | none, (id, e) :: _ => if De.inLen e = 0 ∧ x.dec.held.isEmpty = true then none else some id
      | _, _ => none

/-- The waiting bulk frame started first. -/
def nextBulk (s : State) : Option Nat :=
  (s.ctxs.foldl (fun (a : Option (Nat × Nat)) e =>
    match bulkHead s e.1 e.2, a with
    | some i, some (j, c) => if i < j then some (i, e.1) else some (j, c)
    | some i, none => some (i, e.1)
    | none, a => a) none).map (·.2)

/-- The bulk scheduler sets CT of the slot's FIFO from the flow of the incoming context (R264, R490). -/
def slotCt (s : State) (slot c : Nat) (x : Ctx) : State :=
  match flowOf s c x with
  | some f =>
    let fl := flowBytes s f
    boothPut s fifoPg (216 + slot) 0x20C (fifoCt (Fl.port fl) fl)
  | none => s

/-- The record of a context (R184). -/
def encRec (x : Ctx) : EncRec :=
  { block := x.block, rate := x.rate, slots := x.slots, picNum := x.picNum, sinceFlush := x.sinceFlush, sid := x.sid, stats := x.stats }

/-- Save the record of an encode context to the Commons. -/
def saveRec (s : State) (c : Nat) : State :=
  match getCtx s c with
  | some x => if x.kind = .bulk then { s with slotRecs := nset s.slotRecs c (encRec x) } else s
  | none => s

/-- Load the record of a context from the Commons, if it has been saved. -/
def loadRec (s : State) (c : Nat) : State :=
  match nget s.slotRecs c, getCtx s c with
  | some r, some x => setCtx s c { x with
      rate := r.rate, slots := r.slots, picNum := r.picNum, sinceFlush := r.sinceFlush, sid := r.sid, stats := r.stats }
  | _, _ => s

/-- Switch a slot to a context (R184): the outgoing record, and the incoming one where another slot still holds it, are saved,
and the incoming one is loaded. -/
def slotSwitch (s : State) (slot c : Nat) : State :=
  if nget s.slotCtx slot = some c then s
  else
    let s1 := (s.slotCtx.filter fun e => e.1 == slot || e.2 == c).foldl (fun s e => saveRec s e.2) s
    loadRec { s1 with slotCtx := nset (s.slotCtx.filter fun e => e.2 != c) slot c } c

/-- The record of a context that closes is lost. -/
def dropRec (s : State) (c : Nat) : State :=
  { s with slotRecs := ndel s.slotRecs c, slotCtx := s.slotCtx.filter fun e => e.2 != c }

/-- BULK_SLOT_TAKE (R184): a free slot takes the next bulk frame; no new picture starts on the way to STANDBY (R416). -/
def bulkSlotTake (slot : Nat) (s0 : State) : State :=
  if 8 ≤ slot ∨ (nget s0.bulkSlots slot).isSome = true ∨ s0.pwr.st ≠ 0 ∨ s0.pwr.want = true then s0
  else match nextBulk s0 with
    | none => s0
    | some c =>
      let s := slotSwitch s0 slot c
      match getCtx s c with
      | none => s
      | some x =>
        if x.kind = .decode then decStart s slot c x
        else match x.encQ with
          | [] => s
          | (id, e) :: rest =>
            if bulkFenced s then finishSlot (setCtx s c { x with encQ := rest }) x.queue id (seCe s e 0x0C)
            else
              let p := { encPic s id e with bulk := true, fifo := 216 + slot }
              let s1 := slotCt s slot c x
              setCtx { s1 with nextId := s.nextId + 1, bulkSlots := nset s.bulkSlots slot (c, p.id) } c
                { x with encQ := rest, pics := x.pics ++ [p], dma := some p.id }

def execBulkSlotTake (slot : Nat) (s : State) : Out := act (bulkSlotTake slot) s

/-! ## Configuration entries (R183, R186, R187) -/

/-- The configuration half of a block lies in its ranges, a field of 0 taking its default (R186). -/
def cfgOk (b : List Byte) : Bool :=
  decide (Ct.qpMin b ≤ 87) && decide (Ct.qpMin b ≤ Ct.qpMax b) && decide (Ct.qpMax b ≤ 87) &&
    decide (Ct.qpMin b ≤ Ct.qpInit b) && decide (Ct.qpInit b ≤ Ct.qpMax b) && decide (1 ≤ Ct.qpStep b) &&
    decide (Ct.qpStep b ≤ 12) && decide (16 ≤ Ct.minSegB b) && decide (Ct.minSegB b ≤ 4096) && decide (1 ≤ Ct.lambdaK b) &&
    decide (Ct.lambdaK b ≤ 4095) && decide (Ct.demoteQp b ≤ 87)

/-- The tile form has at most 20 columns (R181): a configuration that asks for it for a wider picture is out of range
(assumption 48). -/
def tileForm (b cfg : List Byte) : Bool := Ct.mode b != 4 || wpp cfg || decide ((ctGeo b).ns 0 ≤ 20)

/-- CFG_FLAGS of a configuration entry: 1 OPEN_BULK, 2 CLOSE. -/
def cfgFlags (e : List Byte) : Nat := leAt e 0x10 2 % 4

/-- A block could be read with its entry: 256 bytes follow the entry. -/
def cfgBlock (e : List Byte) : List Byte := e.drop 64

/-- ENC_CONFIG without OPEN_BULK or CLOSE (R187): the block waits for the context's next picture. Both flags together ask for
nothing and are BAD_DESCRIPTOR. -/
def encConfig (q : Nat) (s : State) : State :=
  match takeStarted s q fun se => byteAt se 0 == 0x11 && (cfgFlags se == 0 || cfgFlags se == 3) with
  | none => s
  | some (id, e, s1) =>
    let bad := finishSlot s1 q id (seCe s e 0x08)
    match getCtx s1 (leAt e 2 2) with
    | none => bad
    | some x =>
      if cfgFlags e ≠ 0 ∨ x.queue ≠ q ∨ x.kind = .decode then bad
      else if (cfgBlock e).length < 256 then finishSlot s1 q id (seCe s e 0x09)
      else if !cfgOk (cfgBlock e) || !tileForm x.block (cfgBlock e) then bad
      else finishSlot (setCtx s1 (leAt e 2 2) { x with cfgPend := x.cfgPend ++ [(id, cfgBlock e)] }) q id (seCe s e 0)

def execEncConfig (queue : Nat) (s : State) : Out := act (encConfig queue) s

/-- The contract half of a bulk context's block is valid (R183, R28): fields that admission alone uses are ignored, FRAME_CAP
0 means no cap. -/
def bulkBlockOk (s : State) (b : List Byte) : Bool :=
  Ct.source b == 1 && ((fieldTests b).filter fun t => t.1 != 0x18).all (·.2) &&
    (match ctProg b with
     | none => false
     | some p => (Ct.frameCap b == 0 || (lossyMode b && decide (leastCap b p ≤ Ct.frameCap b))) && decide (Ct.pool b < 64) &&
        decide (maxUnit (ctGeo b) ≤ poolSize s (Ct.pool b % 64)))
where
  /-- Modes with a cap (R174, R178). -/
  lossyMode (b : List Byte) : Bool := Ct.mode b != 2 && Ct.mode b != 3

/-- ENC_CONFIG with OPEN_BULK (R183). -/
def openBulk (q : Nat) (s : State) : State :=
  match takeStarted s q fun se => byteAt se 0 == 0x11 && cfgFlags se == 1 with
  | none => s
  | some (id, e, s1) =>
    let b := cfgBlock e
    let c := leAt e 2 2
    let bad := finishSlot s1 q id (seCe s e 0x08)
    if 1024 ≤ c ∨ (getCtx s c).isSome = true then bad
    else if b.length < 256 then finishSlot s1 q id (seCe s e 0x09)
    else if !cfgOk b || !tileForm b b || !bulkBlockOk s b then bad
    else
      finishSlot (setCtx s1 c { kind := .bulk, block := b, queue := q, rate := {
        qpPrev := Ct.qpInit b, mI := Ct.m0 b, mP := Ct.m0 b, betaTick := s.tick } }) q id (seCe s e 0)

def execOpenBulk (queue : Nat) (s : State) : Out := act (openBulk queue) s

/-- ENC_CONFIG with CLOSE (R183, R104): after the last picture the SE unit enters the flow and the context is free. The SE
travels through the FIFO of the lowest free slot. -/
def encClose (q : Nat) (s : State) : State :=
  match takeStarted s q fun se => byteAt se 0 == 0x11 && cfgFlags se == 2 with
  | none => s
  | some (id, e, s1) =>
    let c := leAt e 2 2
    match getCtx s1 c with
    | none => finishSlot s1 q id (seCe s e 0x08)
    | some x =>
      if x.kind ≠ .bulk ∨ x.queue ≠ q then finishSlot s1 q id (seCe s e 0x08)
      else if !x.pics.isEmpty || !x.encQ.isEmpty || cfgAhead s q id c then s
      else match freeSlot s with
        | none => s
        | some i =>
          let s2 := if seDue x then seEnter s1 c x (216 + i) else s1
          match getCtx s2 c with
          | some y => if seDue y then s
              else finishSlot (breakOwner (dropRec { s2 with ctxs := ndel s2.ctxs c } c) c) q id (seCe s e 0)
          | none => s2

def execEncConfigClose (queue : Nat) (s : State) : Out := act (encClose queue) s

end Sys2Proof.Machine
end

