-- ==== Sys2Proof/Machine/Island.lean ====
section
/-! DEFINITION. The Wilvor Island (R369–R388): time, taps, digests and records, sealed parameters, non-volatile copies, and the
verifier port. The Island acts whatever the main die does (R369). Instants at which its time-outs fall are given by their
commands: the Island's own free-running count is not held between PPS edges (assumption 46). -/
namespace Sys2Proof.Machine

/-! ## The parameter block (R385) -/

namespace Ip
def signN (b : List Byte) : Nat := max 1 (leAt b 2 2)
/-- Picoseconds. -/
def ppsDelay (b : List Byte) : Int := signed 32 (leAt b 4 4)
def expoDelay (b : List Byte) (e : Nat) : Int := signed 32 (leAt b (0x10 + 4 * e) 4)
def ports (b : List Byte) (g : Nat) : Nat := byteAt b (0x20 + 16 * g)
def rowLines (b : List Byte) (g : Nat) : Nat := max 1 (byteAt b (0x21 + 16 * g))
def perRow (b : List Byte) (g : Nat) : Nat := leAt b (0x22 + 16 * g) 2
def expo (b : List Byte) (g : Nat) : Nat := byteAt b (0x24 + 16 * g)
def coded (b : List Byte) (g : Nat) : Bool := byteAt b (0x25 + 16 * g) % 2 == 1
end Ip

/-- A group's fields are in range; those of a group that is off are not judged, but for reserved bytes. -/
def groupOk (b : List Byte) (g : Nat) : Bool :=
  let o := 0x20 + 16 * g
  zeroAt b (o + 6) 2 && decide (byteAt b (o + 5) < 2) && (byteAt b (o + 4) &&& 0x7C) == 0 &&
    (Ip.ports b g == 0 || ((byteAt b (o + 1) == 32 || byteAt b (o + 1) == 64) && decide (1 ≤ Ip.perRow b g) &&
      decide (Ip.perRow b g ≤ 4096) && decide (1000 ≤ leAt b (o + 8) 4) && decide (leAt b (o + 8) 4 ≤ 10000000) &&
      decide (1 ≤ leAt b (o + 12) 4) && decide (leAt b (o + 12) 4 ≤ 1000000)))

/-- A delay lies within ±1,000,000 ps. -/
def delayOk (v : Int) : Bool := decide (-1000000 ≤ v) && decide (v ≤ 1000000)

/-- A complete block that R385 allows. -/
def paramOk (b : List Byte) : Bool :=
  b.length == 256 && leAt b 0 2 == 1 && decide (1 ≤ leAt b 2 2) && decide (leAt b 2 2 ≤ 1024) && delayOk (Ip.ppsDelay b) &&
    decide (byteAt b 8 < 2) && zeroAt b 9 7 && (List.range 4).all (fun e => delayOk (Ip.expoDelay b e)) &&
    (List.range 4).all (groupOk b) && zeroAt b 0x60 160 &&
    (List.range 4).all fun g => (List.range g).all fun h => Ip.ports b g &&& Ip.ports b h == 0

/-! ## Values the Island shows (R380, R383) -/

/-- BLAKE3 as 32 bytes. -/
def blake (b : List Byte) : List Byte := toBE 32 (Config.blake3 b).toNat

/-- FW_MEAS and PARAM_DIGEST. -/
def fwMeas (x : Isl) : List Byte := sha x.curFw.image
def paramDigest (b : List Byte) : List Byte := blake b

/-- ISL_STATE. -/
def islState (x : Isl) : Nat :=
  x.st + (if x.sealOpen then 8 else 0) + (if x.tb.lock then 16 else 0) + x.tb.todSrc * 32 + (if x.staged then 128 else 0) +
    (if x.repaired then 256 else 0) + (if x.cur.audit = 0xFFFFFFFF then 512 else 0) +
    sumN ((List.range 4).map fun g => if Ip.ports x.cur.param g = 0 then 0 else 2 ^ (12 + g))

/-- ISL_TB. -/
def islTb (x : Isl) : Nat :=
  (if x.tb.lock then 1 else 0) + (if x.tb.refOk then 2 else 0) + (if x.tb.ppsOk then 4 else 0) + x.tb.good * 256 +
    unsigned 16 x.tb.ppsErr * 65536

/-- The Island makes records (R386). -/
def islRuns (x : Isl) : Bool := x.st == 2 || x.st == 3

/-- ISL_ALERT is driven low (R370): a powered Island that is not in RUN with TB_LOCK = 1 and the seal closed. -/
def islAlertLow (x : Isl) : Bool := x.st != 0 && !(x.st == 2 && x.tb.lock && !x.sealOpen)

/-- Change the Island. -/
def withIsl (s : State) (f : Isl → Isl) : State := { s with isl := f s.isl }

/-- An Island event reaches the Crier of a powered main die (R382, R452). -/
def islEvent (s : State) (src : Nat) : State := if busUp s then setLevel s src true else s

/-- The effects of a change of state or lock on the main die: ISL_STATE, and the frames that use the timebase (R50, R372). -/
def islNote (old s : State) : State :=
  if old.isl.st = s.isl.st ∧ old.isl.tb.lock = s.isl.tb.lock then s
  else
    let s1 := islEvent s 217
    if islLost s1 && !islLost old && alive s1 then
      markCtxs s1 (fun _ x => Ct.timeSrc x.block == 1) (fun _ p => !p.closed && !p.demoted) 5
    else s1

/-! ## Island time (R371–R373) -/

/-- Set a flag on every open frame. -/
def flagOpen (x : Isl) (bit : Nat) : Isl :=
  { x with frames := x.frames.map fun f => if f.closed then f else { f with flags := f.flags ||| 2 ^ bit } }

/-- The lock is cleared. -/
def unlock (x : Isl) : Isl := flagOpen { x with tb := { x.tb with lock := false, good := 0 } } 4

/-- Device time rounded to the nearest second. -/
def dtSeconds (s : State) : Nat := (nowNs s + 500000000) / 1000000000

/-- PPS_EDGE (R371, R372): the interval since the last edge is judged, the second begins, a waiting SET_TIME or the first lock
sets the count, and the offset to device time is taken. -/
def ppsEdge (iclk : Nat) (predictErr : Int) (s : State) : State :=
  let x := s.isl
  if x.st = 0 ∨ x.st = 1 then s
  else
    let tb := x.tb
    let ok := decide (399999200 ≤ iclk) && decide (iclk ≤ 400000800)
    let good := if !tb.seen then 0 else if ok then min 255 (tb.good + 1) else 0
    let lock := tb.refOk && (if tb.seen then ok && (tb.lock || decide (3 ≤ good)) else tb.lock)
    let valid := clockRuns s
    let first := lock && tb.todSrc == 0 && tb.setPend.isNone && valid
    let secs := match tb.setPend with
      | some v => v
      | none => if first then dtSeconds s else tb.secs + 1
    let ofs := if valid then (secs * 1000000000 : Nat) + Ip.ppsDelay x.cur.param / 1000 - (nowNs s : Int) else 0
    let tb1 := { tb with
      secs := secs % 2 ^ 64, todSrc := if tb.setPend.isSome then 2 else if first then 1 else tb.todSrc
      good := good, ppsOk := tb.seen && ok, lock := lock, ppsErr := clip3 (-32768) 32767 predictErr
      iclk := if tb.seen then iclk else tb.iclk, seen := true, setPend := none, dtOfs := ofs }
    let y := { x with tb := tb1 }
    islNote s { s with isl := if lock then y else flagOpen y 4 }

/-- PPS_MISSING (R372): the next edge has no interval to judge. -/
def ppsMissing (s : State) : State :=
  islNote s (withIsl s fun x => unlock { x with tb := { x.tb with ppsOk := false, seen := false } })

/-- REF_LOSS and ISL_REF_RETURN (R372). -/
def refLoss (s : State) : State := islNote s (withIsl s fun x => unlock { x with tb := { x.tb with refOk := false } })
def islRefReturn (s : State) : State := withIsl s fun x => { x with tb := { x.tb with refOk := true, good := 0 } }

/-- Island time of an edge `n` tenths of an ICLK cycle after the last PPS edge, before the sealed delays (R371). -/
def islRaw (x : Isl) (n : Nat) : Nat :=
  x.tb.secs * 1000000000 * 65536 + n * 1000000000 * 65536 / (10 * max 1 x.tb.iclk)

/-- The timestamp of an edge on an EXPO input under a parameter block (R371, R373). -/
def islStamp (p : List Byte) (input raw : Nat) : Time :=
  ((raw : Int) + (Ip.ppsDelay p - Ip.expoDelay p (input % 4)) * 65536 / 1000).toNat % 2 ^ 80

/-- The exposure that a group counts after an edge. -/
def expoStep (start : Bool) (t : Nat) (e : Expo) : Expo :=
  if start then { start := t, stop := 0, hasStop := false, count := e.count + 1 }
  else if e.hasStop || e.start == 0 then e
  else { e with stop := t, hasStop := true }

/-- The entry of a group for an input and a phase, the low one last. -/
def expoIx (g input : Nat) (low : Bool) : Nat := 8 * g + (if low then 4 else 0) + input % 4

/-- The entry that a group uses under a parameter block. -/
def expoSel (p : List Byte) (g : Nat) : Nat := expoIx g (Ip.expo p g % 4) (Ip.expo p g / 128 == 1)

/-- The first end after a frame's exposure start is the frame's, with the delays it opened with (R378, R385). -/
def frameEnd (old : List Expo) (input t : Nat) (low : Bool) (f : IslFrame) : IslFrame :=
  let k := expoIx f.group input low
  let e := getIx old k {}
  if expoSel f.params f.group = k ∧ f.expEnd = 0 ∧ f.expRaw = some e.start ∧ e.hasStop = false then
    { f with expEnd := islStamp f.params input t }
  else f

/-- EXPO_EDGE (R373, R378): it starts the exposure of one phase of its input and ends that of the other, in every group. -/
def expoEdge (input : Nat) (rising : Bool) (since : Nat) (s : State) : State :=
  withIsl s fun x =>
    let t := islRaw x since
    if !islRuns x then x
    else
      let step := fun (l : List Expo) (g : Nat) (low : Bool) =>
        let k := expoIx g input low
        setIx l k (expoStep (rising != low) t (getIx l k {})) {}
      { x with
        expo := (List.range 4).foldl (fun l g => step (step l g false) g true) x.expo
        frames := x.frames.map (frameEnd x.expo input t rising) }

def execPpsEdge (iclk : Nat) (predictErr : Int) (s : State) : Out := .next (ppsEdge iclk predictErr s)
def execPpsMissing (s : State) : Out := .next (ppsMissing s)
def execRefLoss (s : State) : Out := .next (refLoss s)
def execIslRefReturn (s : State) : Out := .next (islRefReturn s)
def execExpoEdge (input : Nat) (rising : Bool) (sinceIclk : Nat) (s : State) : Out := .next (expoEdge input rising sinceIclk s)

/-! ## Records (R378–R381, R384) -/

/-- Row digests in ascending order of row and then plane. -/
def insRow (r : Nat × Nat × List Byte) : List (Nat × Nat × List Byte) → List (Nat × Nat × List Byte)
  | [] => [r]
  | q :: t => if r.1 < q.1 ∨ (r.1 = q.1 ∧ r.2.1 < q.2.1) then r :: q :: t else q :: insRow r t

/-- Packets in ascending order of line and then X0. -/
def insPkt (p : IslPkt) : List IslPkt → List IslPkt
  | [] => [p]
  | q :: t => if p.line < q.line ∨ (p.line = q.line ∧ p.x0 < q.x0) then p :: q :: t else q :: insPkt p t

/-- The row and plane of a packet. -/
def pktRow (f : IslFrame) (p : IslPkt) : Nat × Nat := (p.line / Ip.rowLines f.params f.group, p.plane)

/-- Finalise a row of a frame (R376). -/
def finalise (f : IslFrame) (k : Nat × Nat) : IslFrame :=
  let mine := f.pkts.filter fun p => pktRow f p == k
  let d := blake ((mine.foldl (fun l p => insPkt p l) []).flatMap (·.digest))
  if mine.isEmpty then f
  else { f with pkts := f.pkts.filter fun p => pktRow f p != k, rows := insRow (k.1, k.2, d) f.rows }

/-- Finalise every row. -/
def finaliseAll : Nat → IslFrame → IslFrame
  | 0, f => f
  | n + 1, f => match f.pkts with
    | [] => f
    | p :: _ => finaliseAll n (finalise f (pktRow f p))

/-- The bytes 0x000–0x10F of a record (R379). -/
def recordBody (x : Isl) (f : IslFrame) (flags : Nat) : List Byte :=
  let n := f.coded.length
  let has := Ip.coded f.params f.group && f.codedEnd
  toLE 2 1 ++ toLE 1 f.group ++ toLE 1 f.colour ++ toLE 2 flags ++ toLE 2 f.rows.length ++
    toLE 8 (x.cur.boots % 2 ^ 24 * 2 ^ 40 + x.recIdx) ++ toLE 4 f.num ++ toLE 4 f.nPkts ++
    (toLE 2 (f.expStart % 65536) ++ toLE 2 0 ++ toLE 8 (f.expStart / 65536)) ++
    (toLE 2 (f.expEnd % 65536) ++ toLE 2 0 ++ toLE 8 (f.expEnd / 65536)) ++
    toLE 8 f.dtFirst ++ toLE 8 f.dtLast ++ toLE 2 (min 0xFFFF f.forced) ++ toLE 2 (unsigned 16 f.ppsErr) ++ toLE 4 f.audit ++
    toLE 4 (if has then f.codedPic else 0xFFFFFFFF) ++ toLE 4 (if has then n else 0) ++
    blake (f.rows.flatMap (·.2.2)) ++ (if has then blake f.coded else List.replicate 32 0) ++ fwMeas x ++ paramDigest f.params ++
    padTo 32 x.prev ++ toLE 4 (if has then n / 2 ^ 32 else 0) ++ List.replicate 12 0

/-- Write the record of a completed frame (R378–R381, R384): it is due for signing at every SIGN_N-th index and at the start of
a chain, or when an earlier one fell due while the engine was busy. -/
def writeRecord (s : State) (f0 : IslFrame) (missing : Bool) : State :=
  let x := s.isl
  let f := finaliseAll (f0.pkts.length + 1) f0
  let due := x.recIdx % Ip.signN f.params == 0 || x.recIdx == 0 || x.signDue
  let sign := due && x.signing.isNone
  let flags := f.flags ||| (if sign then 1 else 0) ||| (if x.recIdx = 0 then 2 else 0) ||| (if missing then 0x100 else 0) |||
    x.tb.todSrc * 2048
  let body := recordBody x f flags
  let y := { x with
    frames := x.frames.filter fun g => !(g.group == f.group && g.num == f.num)
    ring := nset x.ring (x.recIdx % 150) (padTo 384 body), recIdx := (x.recIdx + 1) % 2 ^ 40, prev := blake body
    signing := if sign then some x.recIdx else x.signing, signDue := due && !sign }
  islEvent { s with isl := y } 216

/-- SIGNATURE_DONE (R381): the signature enters the record, while the ring still holds it. -/
def signatureDone (s : State) : State :=
  match s.isl.signing with
  | none => s
  | some i =>
    let x := s.isl
    let f := fresh s
    let rec_ := ngetD x.ring (i % 150) []
    let sig := toBE 64 (Config.islandSign (rec_.take 0x110) f.1).toNat
    let held := decide (x.recIdx ≤ i + 150)
    { f.2 with isl := { x with
        signing := none, signedIdx := i, ring := if held then nset x.ring (i % 150) (putAt rec_ 0x110 sig) else x.ring } }

/-- A frame that is closed and whose coded root is settled is recorded. -/
def recordIf (s : State) (f : IslFrame) : State :=
  if !Ip.coded f.params f.group || f.codedEnd then writeRecord s f false else s

/-- Replace a frame. -/
def setFrame (x : Isl) (f : IslFrame) : Isl :=
  { x with frames := x.frames.map fun g => if g.group = f.group ∧ g.num = f.num then f else g }

/-- The open frame of a group. -/
def openOf (x : Isl) (g : Nat) : Option IslFrame := x.frames.find? fun f => f.group == g && !f.closed

/-- Close a frame (R375). -/
def closeIsl (s : State) (f : IslFrame) : State :=
  let c := { finaliseAll (f.pkts.length + 1) f with closed := true }
  recordIf (withIsl s fun x => { setFrame x c with closedFrames := nset x.closedFrames f.group (ngetD x.closedFrames f.group [] ++ [f.num]) }) c

/-! ## Taps (R374–R377) -/

/-- The group of a port: by the parameters its open frame began with, else those committed (R385). -/
def portGroup (x : Isl) (port : Nat) : Option Nat :=
  (List.range 4).find? fun g =>
    Ip.ports (match openOf x g with | some f => f.params | none => x.cur.param) g / 2 ^ port % 2 == 1

/-- A lost copy (R374). -/
def tapLost (x : Isl) (g : Option Nat) : Isl :=
  { x with
    tapDrop := min 0xFFFFFFFF (x.tapDrop + 1)
    frames := x.frames.map fun f => if !f.closed && some f.group == g then { f with flags := f.flags ||| 0x80 } else f }

/-- Open a frame (R375, R378); its picture takes the exposure start (R91). -/
def openIsl (s : State) (g num colour dtNs : Nat) : State :=
  takeCaptures <| withIsl s fun x =>
    let p := x.cur.param
    let e := getIx x.expo (expoSel p g) {}
    let inp := Ip.expo p g % 4
    let fl := (if x.st = 3 then 4 else 0) + (if x.sealOpen then 8 else 0) + (if x.tb.lock then 0 else 16) +
      (if e.count = 0 then 32 else 0) + (if 1 < e.count then 64 else 0)
    let st := if e.count = 0 then 0 else islStamp p inp e.start
    { x with
      grpParam := setIx x.grpParam g p []
      frames := x.frames ++ [{
        group := g, num := num, params := p, colour := colour, flags := fl, ppsErr := x.tb.ppsErr, audit := x.cur.audit
        dtFirst := dtNs, dtLast := dtNs, expStart := st, expEnd := if e.count ≠ 0 ∧ e.hasStop = true then islStamp p inp e.stop else 0
        expRaw := if e.count = 0 then none else some e.start }]
      expo := (List.range 8).foldl (fun l k => setIx l (8 * g + k) { getIx l (8 * g + k) {} with count := 0 } {}) x.expo
      expoOut := setIx x.expoOut g (some (num, st)) none }

/-- The oldest unfinalised row of all groups: its frame and key (R376). -/
def oldestRow (x : Isl) : Option (IslFrame × (Nat × Nat)) :=
  (x.frames.flatMap fun f => f.pkts.map fun p => (f, p)).foldl (fun (a : Option (IslFrame × IslPkt)) e =>
    match a with
    | some b => if e.2.ord < b.2.ord then some e else some b
    | none => some e) none |>.map fun e => (e.1, pktRow e.1 e.2)

/-- Make room for a packet digest (R376). -/
def hashRoom (x : Isl) : Isl :=
  if sumN (x.frames.map fun f => f.pkts.length) < 4096 then x
  else match oldestRow x with
    | some (f, k) => setFrame x { finalise f k with forced := f.forced + 1 }
    | none => x

/-- Digest a packet of the open frame (R375, R376). -/
def takePkt (x0 : Isl) (f0 : IslFrame) (dtNs : Nat) (pk : List Byte) : Isl :=
  let key := (Lp.plane pk, Lp.line pk, Lp.x0 pk)
  if f0.keys.contains key then setFrame x0 { f0 with flags := f0.flags ||| 0x400 }
  else
    let x := hashRoom x0
    let f := (openOf x f0.group).getD f0
    let p : IslPkt := ⟨Lp.plane pk, Lp.line pk, Lp.x0 pk, blake (pk.take (16 + Lp.pay pk)), x.ordCtr⟩
    let g := { f with pkts := f.pkts ++ [p], keys := f.keys ++ [key], nPkts := f.nPkts + 1, dtLast := dtNs }
    let k := pktRow g p
    let h := if Ip.perRow g.params g.group ≤ (g.pkts.filter fun q => pktRow g q == k).length then finalise g k else g
    { setFrame x h with ordCtr := x.ordCtr + 1 }

/-- A frame of a group has closed already (R375). -/
def tapLate (x : Isl) (g n : Nat) : Bool := (ngetD x.closedFrames g []).contains n

/-- ISL_TAP_PACKET (R374–R376). -/
def tapPacket (port dtNs colour : Nat) (pk : List Byte) (room : Bool) (s : State) : State :=
  let x := s.isl
  let n := Lp.frame pk
  if x.st = 1 then withIsl s fun x => tapLost x none
  else if !islRuns x then s
  else match portGroup x port with
    | none => s
    | some g =>
      if !room then withIsl s fun x => tapLost x (some g)
      else
        let late := withIsl s fun x => { x with tapLate := min 0xFFFFFFFF (x.tapLate + 1) }
        let take := fun (s : State) => match openOf s.isl g with
          | some f => withIsl s fun x => takePkt x f dtNs pk
          | none => s
        match openOf x g with
        | some f =>
          if f.num = n then take s
          else if tapLate x g n then late
          else
            let s1 := closeIsl s f
            if Ip.ports s1.isl.cur.param g / 2 ^ port % 2 = 1 then take (openIsl s1 g n colour dtNs) else s1
        | none => if tapLate x g n then late else take (openIsl s g n colour dtNs)

/-- The CODED group that a context's ports feed, by the parameters its open frame began with, else those committed. -/
def codedGroup (x : Isl) (ports : Nat) : Option Nat :=
  (List.range 4).find? fun g =>
    let p := match openOf x g with | some f => f.params | none => x.cur.param
    Ip.ports p g &&& ports != 0 && Ip.coded p g

/-- ISL_TAP_UNIT (R377): a coded unit of a context fed by a group's ports; without room its copy is lost (R374). -/
def tapUnit (ports picNum frame : Nat) (bytes : List Byte) (last room : Bool) (s : State) : State :=
  let x := s.isl
  let hit := x.frames.find? fun f =>
    f.num == frame && Ip.ports f.params f.group &&& ports != 0 && Ip.coded f.params f.group && !f.codedEnd
  if x.st = 1 then withIsl s fun x => tapLost x none
  else if !islRuns x then s
  else match hit with
    | none => if !room && (codedGroup x ports).isSome then withIsl s fun x => tapLost x (codedGroup x ports) else s
    | some f =>
      if !room then withIsl s fun x => tapLost x (some f.group)
      else
        let g := { f with coded := f.coded ++ bytes, codedPic := picNum, codedEnd := last }
        let s1 := withIsl s fun x => setFrame x g
        if last && f.closed then writeRecord s1 g false else s1

/-- ISL_TAP_TMO (R375). -/
def tapTmo (g : Nat) (s : State) : State :=
  match openOf s.isl g with
  | some f => closeIsl s f
  | none => s

/-- CODED_TMO (R377): the record is completed without a coded root. -/
def codedTmo (g : Nat) (s : State) : State :=
  match s.isl.frames.find? fun f => f.group == g && f.closed with
  | some f => writeRecord s { f with coded := [], codedEnd := false } true
  | none => s

/-- The Island takes the oldest copy of a line packet (R374), which is the one the command names; `room`: its input buffer can. -/
def tapNext (x : Tap) (room : Bool) (s : State) : State :=
  match s.taps with
  | t :: r => if t = x then tapPacket t.port t.dtNs t.colour t.bytes room { s with taps := r } else s
  | [] => s

/-- The Island takes the oldest copy of a coded unit, likewise (R377). -/
def unitNextTap (x : UnitTap) (room : Bool) (s : State) : State :=
  match s.unitTaps with
  | t :: r => if t = { x with ports := t.ports } then tapUnit t.ports t.picNum t.frame t.bytes t.last room { s with unitTaps := r } else s
  | [] => s

def execIslTapPacket (port : Nat) (dtNs : Nat) (colour : Nat) (bytes : List Byte) (room : Bool) (s : State) : Out :=
  .next (tapNext ⟨port, dtNs, colour, bytes⟩ room s)
def execIslTapUnit (ctx picNum frame : Nat) (bytes : List Byte) (last room : Bool) (s : State) : Out :=
  .next (unitNextTap { ctx, picNum, frame, bytes, last } room s)
def execIslTapTmo (group : Nat) (s : State) : Out := .next (tapTmo group s)
def execCodedTmo (group : Nat) (s : State) : Out := .next (codedTmo group s)
def execSignatureDone (s : State) : Out := .next (signatureDone s)

/-! ## Non-volatile copies and the start (R386) -/

/-- What the rule makes of three copies: the one in use, whether it was resolved, and whether a copy was rewritten. -/
def resolve {α : Type} [DecidableEq α] (good : α → Bool) (wgen : α → Nat) (eq : α → α → Bool) (cs : List α) : Option α × Bool × Bool :=
  match cs.filter good with
  | [a, b, c] =>
    if eq a b && eq b c then (some a, true, false)
    else if eq a b || eq a c then (some a, true, true)
    else if eq b c then (some b, true, true)
    else (some (if wgen b ≤ wgen a ∧ wgen c ≤ wgen a then a else if wgen c ≤ wgen b then b else c), false, false)
  | [a, b] =>
    if eq a b then (some a, true, true)
    else if wgen a = wgen b + 1 then (some a, true, true)
    else if wgen b = wgen a + 1 then (some b, true, true)
    else (some (if wgen b ≤ wgen a then a else b), false, false)
  | [a] => (some a, false, false)
  | _ => (none, false, false)

/-- The two resolutions. -/
def resolveNvm (x : Isl) : Option IslNvm × Bool × Bool := resolve (·.good) (·.wgen) (fun a b => a == b) x.nvm
def resolveFw (x : Isl) : Option IslFw × Bool × Bool := resolve (·.good) (·.wgen) (fun a b => a == b) x.fw

/-- The Island starts (R369, R380, R386): its state passes BOOT, the copies are resolved, BOOT_COUNT goes up, and the chain
begins. What is not resolved is not written, and copies written in UNVERIFIED say so, so that only COMMIT_PARAM ends it. -/
def islStart (s : State) : State :=
  let x := s.isl
  let n := resolveNvm x
  let f := resolveFw x
  let fw := f.1.getD {}
  let fwGood := f.2.1 && (match Config.islandFw fw.image with | some v => decide (x.otpSvn ≤ v) | none => false)
  let base := n.1.getD {}
  let unver := !n.2.1 || base.unver
  let cur := { base with unver := unver, boots := (base.boots + 1) % 2 ^ 24, wgen := if n.2.1 then base.wgen + 1 else base.wgen }
  let y : Isl := {
    st := if !fwGood then 4 else if unver then 3 else 2, sealOpen := x.sealOpen, otpSvn := x.otpSvn
    nvm := if n.2.1 then List.replicate 3 { cur with good := true } else x.nvm
    fw := if f.2.1 then List.replicate 3 fw else x.fw
    cur := cur, curFw := fw, repaired := n.2.2 || f.2.2, grpParam := List.replicate 4 cur.param
    tb := {} }
  let boot := islNote s (withIsl s fun x => { x with st := 1, tb := { x.tb with lock := false } })
  islNote boot { boot with isl := { y with
    prev := blake (toLE 4 cur.boots ++ toLE 4 cur.audit ++ fwMeas y ++ paramDigest cur.param) } }

/-- ISL (R369): by power-on, ISL_RST_N or RESET; the reference is not yet seen after it (R383). -/
def islReset (powerOn : Bool) (s : State) : State := if s.isl.st = 0 ∧ powerOn = false then s else islStart s

/-- ISL_POWER_LOSS (R369): only the non-volatile memory stays. -/
def islPowerLoss (s : State) : State :=
  islNote s (withIsl s fun x => { st := 0, sealOpen := x.sealOpen, otpSvn := x.otpSvn, nvm := x.nvm, fw := x.fw })

def execIsl (powerOn : Bool) (s : State) : Out := .next (islReset powerOn s)
def execIslPowerLoss (s : State) : Out := .next (islPowerLoss s)

/-! ## ISL_SPI (R385–R388) -/

/-- SEAL_CHANGE (R388): closing discards staged changes; an open seal marks open frames (R379). -/
def sealChange (op : Bool) (s : State) : State :=
  withIsl s fun x =>
    if op then flagOpen { x with sealOpen := true } 3
    else { x with sealOpen := false, staged := false, stParam := [], stFw := [] }

def execSealChange (open_ : Bool) (s : State) : Out := .next (sealChange open_ s)

/-- A response: status byte, length, payload and CRC-32C, most significant byte first as the command (R388). -/
def spiAns (st : Nat) (p : List Byte) : Emit :=
  let b := toBE 1 st ++ toBE 2 p.length ++ p
  .spi (b ++ toBE 4 (crc32c b))

/-- Answer a command: status and payload. -/
def spiOut (s : State) (st : Nat) (p : List Byte) : State := emit s (spiAns st p)

/-- A command on ISL_SPI: no answer while the Island is off or starting, or without firmware for a command that needs it; then
its CRC, then the seal; then its action. -/
def spi (code : Nat) (f : SpiFrame) (fw needOpen : Bool) (op : List Byte → State → State) (s : State) : State :=
  let x := s.isl
  if x.st = 0 ∨ x.st = 1 ∨ (x.st = 4 ∧ fw = true) then s
  else if f.args.length ≠ f.len ∨ crc32c (toBE 1 code ++ toBE 2 f.len ++ f.args) ≠ f.crc.toNat then spiOut s 2 []
  else if needOpen && !x.sealOpen then spiOut s 1 []
  else op f.args s

/-- A command without arguments. -/
def noArgs (op : State → State) (a : List Byte) (s : State) : State := if a.isEmpty then op s else spiOut s 3 []

/-- Write the three copies of the NVM with a new generation. -/
def putNvm (x : Isl) (n : IslNvm) : Isl :=
  let m := { n with wgen := x.cur.wgen + 1, good := true }
  { x with cur := m, nvm := List.replicate 3 m }

/-- Count a change (R387): AUDIT and its log entry, newest first, 32 kept. -/
def audited (x : Isl) (code : Nat) (digest : List Byte) (n : IslNvm) : IslNvm :=
  let e := toLE 4 (n.audit + 1) ++ toLE 8 x.tb.secs ++ toLE 1 code ++ [0, 0, 0] ++ digest.take 16
  { n with audit := n.audit + 1, log := (e :: n.log).take 32 }

/-- The counter is exhausted. -/
def auditFull (s : State) : Bool := s.isl.cur.audit == 0xFFFFFFFF

def readStatusOp (s : State) : State :=
  let x := s.isl
  spiOut s 0 (toLE 4 (islState x) ++ toLE 4 (islTb x) ++ toLE 4 x.cur.audit ++ toLE 4 x.cur.boots ++ toLE 8 x.recIdx)

def readRecordOp (a : List Byte) (s : State) : State :=
  if a.length ≠ 8 then spiOut s 3 []
  else
    let i := leNat a
    let x := s.isl
    if i < x.recIdx ∧ x.recIdx ≤ i + 150 then spiOut s 0 (ngetD x.ring (i % 150) []) else spiOut s 5 []

def readMeasOp (s : State) : State :=
  let x := s.isl
  spiOut s 0 (fwMeas x ++ toLE 4 x.curFw.svn ++ paramDigest x.cur.param ++ toBE 64 Config.islandPubKey.toNat)

def readParamOp (s : State) : State := spiOut s 0 s.isl.cur.param

def readAuditOp (a : List Byte) (s : State) : State :=
  if a.length ≠ 1 ∨ 31 < byteAt a 0 then spiOut s 3 []
  else match s.isl.cur.log[byteAt a 0]? with
    | some e => spiOut s 0 e
    | none => spiOut s 5 []

/-- Put bytes into a staged table. -/
def stage (m : NMap Byte) (a : Nat) : List Byte → NMap Byte
  | [] => m
  | b :: t => stage (nset m a b) (a + 1) t

def writeParamOp (a : List Byte) (s : State) : State :=
  let o := leAt a 0 2
  let b := a.drop 2
  if a.length < 3 ∨ 256 < o + b.length then spiOut s 3 []
  else spiOut (withIsl s fun x => { x with stParam := stage x.stParam o b, staged := true }) 0 []

/-- The bytes of a staged table, when it has no gap from 0 on. -/
def staged (m : NMap Byte) : Option (List Byte) :=
  let b := m.map (·.2)
  if m.map (·.1) = List.range b.length then some b else none

def commitParamOp (s : State) : State :=
  match staged s.isl.stParam with
  | some b =>
    if !paramOk b then spiOut s 3 []
    else if auditFull s then spiOut s 7 []
    else
      let x := s.isl
      let y := putNvm x (audited x 0x11 (paramDigest b) { x.cur with param := b, unver := false })
      spiOut (islNote s { s with isl := { y with
        stParam := [], staged := !x.stFw.isEmpty, st := if x.st = 3 then 2 else x.st } }) 0 []
  | none => spiOut s 3 []

def discardOp (s : State) : State := spiOut (withIsl s fun x => { x with stParam := [], stFw := [], staged := false }) 0 []

def setTimeOp (a : List Byte) (s : State) : State :=
  if a.length ≠ 8 then spiOut s 3 []
  else if auditFull s then spiOut s 7 []
  else spiOut (withIsl s fun x =>
    { putNvm x (audited x 0x13 (paramDigest x.cur.param) x.cur) with tb := { x.tb with setPend := some (leNat a) } }) 0 []

def loadFwOp (a : List Byte) (s : State) : State :=
  if a.length < 5 then spiOut s 3 []
  else spiOut (withIsl s fun x => { x with stFw := stage x.stFw (leAt a 0 4) (a.drop 4), staged := true }) 0 []

def commitFwOp (s : State) : State :=
  match staged s.isl.stFw with
  | none => spiOut s 6 []
  | some b => match Config.islandFw b with
    | none => spiOut s 6 []
    | some v =>
      if v < s.isl.otpSvn ∨ b.isEmpty = true then spiOut s 6 []
      else if auditFull s then spiOut s 7 []
      else
        let x := s.isl
        let y := putNvm x (audited x 0x21 (sha b) x.cur)
        islReset false (spiOut { s with isl := { y with
          fw := List.replicate 3 { image := b, svn := v, wgen := x.curFw.wgen + 1, good := true } } } 0 [])

def execReadStatus (frame : SpiFrame) (s : State) : Out := .next (spi 0x01 frame false false (noArgs readStatusOp) s)
def execReadRecord (frame : SpiFrame) (s : State) : Out := .next (spi 0x02 frame true false readRecordOp s)
def execReadMeas (frame : SpiFrame) (s : State) : Out := .next (spi 0x03 frame false false (noArgs readMeasOp) s)
def execReadParam (frame : SpiFrame) (s : State) : Out := .next (spi 0x04 frame true false (noArgs readParamOp) s)
def execReadAudit (frame : SpiFrame) (s : State) : Out := .next (spi 0x05 frame true false readAuditOp s)
def execWriteParam (frame : SpiFrame) (s : State) : Out := .next (spi 0x10 frame true true writeParamOp s)
def execCommitParam (frame : SpiFrame) (s : State) : Out := .next (spi 0x11 frame true true (noArgs commitParamOp) s)
def execDiscard (frame : SpiFrame) (s : State) : Out := .next (spi 0x12 frame true false (noArgs discardOp) s)
def execSetTime (frame : SpiFrame) (s : State) : Out := .next (spi 0x13 frame true true setTimeOp s)
def execLoadFw (frame : SpiFrame) (s : State) : Out := .next (spi 0x20 frame false true loadFwOp s)
def execCommitFw (frame : SpiFrame) (s : State) : Out := .next (spi 0x21 frame false true (noArgs commitFwOp) s)
def execReset (frame : SpiFrame) (s : State) : Out :=
  .next (spi 0x30 frame false true (noArgs fun s => islReset false (spiOut s 0 [])) s)

end Sys2Proof.Machine
end

