-- ==== Sys2Proof/Machine/Power.lean ====
section
/-! DEFINITION. Voltage, temperature, gating and the power states (R51, R409–R418, R426). -/
namespace Sys2Proof.Machine

/-! ## Voltage (R410, R411) -/

/-- A regulator's target after one microsecond (R410): it moves by at most 10 mV (4 steps) towards the fused target margin, down
where the smallest margin is above it and up where it is below; by how much the spec leaves open. -/
def ivrMove (s : State) (rail : Nat) (margin : Int) : State :=
  let f := fresh s
  let d := (Config.freeWord f.1).toNat % 5
  let t := ngetD s.pwr.targets rail 0
  let goal := (Config.ivrMargin rail).2
  let u := if margin < goal then min 120 (t + d) else if goal < margin then t - d else t
  { f.2 with pwr := { s.pwr with targets := nset s.pwr.targets rail u } }

/-- IVR_ADJUST (R410): the faults of a rail at 0.900 V with too little margin, or with overcurrent, else its adjustment. -/
def ivrAdjust (rail : Nat) (margin : Int) (over_ : Bool) (s : State) : State :=
  if 105 ≤ rail then s
  else if over_ || (ngetD s.pwr.targets rail 0 == 120 && decide (margin < (Config.ivrMargin rail).1)) then
    let s1 := { s with pwr := { s.pwr with ivrLast := rail } }
    raiseFault s1 pwrPg (if rail = 104 then 3 else 2) rail
  else ivrMove s rail margin

def execIvrAdjust (rail : Nat) (margin : Int) (overcurrent : Bool) (s : State) : Out := act (ivrAdjust rail margin overcurrent) s
def execVinUv (s : State) : Out := act (fun s => raiseFault s pwrPg 4 0) s
def execAvsPoll (mv ca : Nat) (s : State) : Out :=
  act (fun s => { s with pwr := { s.pwr with vin := mv % 65536, iin := ca % 65536 } }) s

/-! ## Temperature (R51, R251, R415) -/

/-- The completions of every frame in flight at 110 °C are written and the heads published (R50); a frame still open takes its
slot now. -/
def thermalEnd (s : State) : State :=
  let s1 := (s.ctxs.filter fun e => e.2.kind == .admitted).foldl (fun s e =>
    (e.2.pics.filter fun p => !p.done).foldl (fun s p =>
      let t := if p.slot.isSome || p.noSlot then (p.slot, s) else frameSlot s e.2.queue none
      finishFrame t.2 e.2.queue t.1 (picCe e.2 e.1 p (0x0B, if p.cause = 0 then 3 else p.cause) (nowNs s))) s) s
  let qs := (s1.ctxs.filter fun e => e.2.kind == .admitted).map fun e => e.2.queue
  qs.foldl (fun s q => headPublish q ((List.range 320).foldl (fun s _ => ceReady q s) s)) s1

/-- Stack temperatures (R251): STACK_TEMP at 95 °C. -/
def stackTemps (s : State) (a b : Nat) : State :=
  [(0, a), (1, b)].foldl (fun s e =>
    let p := getIx s.phys e.1 {}
    let s1 := { s with phys := setIx s.phys e.1 { p with temp := e.2 % 256 } {} }
    if p.temp < 95 ∧ 95 ≤ e.2 then raiseFault s1 (phyPage e.1) 1 0 else s1) s

/-- TJ_SAMPLE (R415): Tj is the highest reading, in 0.1 °C. -/
def tjSample (temps : List Int) (a b : Nat) (s : State) : State :=
  match temps with
  | [] => stackTemps s a b
  | t0 :: ts =>
    let t := ts.foldl max t0
    let s1 := stackTemps { s with pwr := { s.pwr with tj := t, tjMax := max s.pwr.tjMax t } } a b
    if 1100 ≤ t then
      let s2 := if s1.booth.thermClosed then s1
        else setEvt (raiseFault { s1 with booth := { s1.booth with thermClosed := true } } pwrPg 0 0) pwrPg 2
      raiseFault (thermalEnd s2) pwrPg 1 0
    else if 1000 ≤ t ∧ s1.booth.thermClosed = false then
      setEvt (raiseFault { s1 with booth := { s1.booth with thermClosed := true } } pwrPg 0 0) pwrPg 2
    else if t ≤ 970 ∧ s1.booth.thermClosed = true then
      setEvt { s1 with booth := { s1.booth with thermClosed := false } } pwrPg 3
    else s1

def execTjSample (temps : List Int) (stack0 stack1 : Nat) (s : State) : Out := act (tjSample temps stack0 stack1) s

/-! ## Gating (R412, R414) -/

/-- BULK_TILE_GATE (R412): 50 µs after its last job. -/
def bulkGate (t : Nat) (s : State) : State :=
  let x := getTile s t
  if t < 104 ∧ x.ungated = true ∧ tileHeld s t = false ∧ tileIdle s t = true ∧ x.idleAt + 5000 ≤ s.tick then gateTile s t else s

def execBulkTileGate (tile : Nat) (s : State) : Out := act (bulkGate tile) s

/-- PWR_BULK_TILES (R414): a write that would raise TKB_PWR_ADM above the cap is discarded and counted. -/
def bulkTilesOp (n : Nat) (s : State) : State :=
  let old := rbits s pwrPg 0 0x108 6 0
  let new := min 96 (n % 128)
  let adm := s.booth.admMw - 1650 * old + 1650 * new
  if s.booth.admMw < adm ∧ rbits s tkbPg 0 0x11C 11 0 * 100 < adm then bump s pwrPg 0 0x120 1
  else
    let s1 := rputN s pwrPg 0 0x108 new
    { s1 with booth := { s1.booth with admMw := adm } }

def execPwrBulkTiles (rq : Requester) (n : Nat) (s : State) : Out := .next (regOp rq pwrPg 0x108 (bulkTilesOp n) s)

/-! ## Power states (R416–R418) -/

/-- Enter a power state, signalled by STATE_CHANGED. -/
def setPower (s : State) (st : Nat) : State :=
  if s.pwr.st = st then { s with pwr := { s.pwr with want := false } }
  else setEvt { s with pwr := { s.pwr with st := st, want := false } } pwrPg 0

/-- PWR_CMD RUN: DOZE is left only by a wake source (R416), which a write that may wake the device has been already. -/
def runOp (s : State) : State := if s.pwr.st = 2 then s else setPower s 0

/-- PWR_CMD STANDBY: entered once the bulk pictures in progress end. -/
def standbyOp (s : State) : State := if s.pwr.st = 0 then { s with pwr := { s.pwr with want := true } } else s

/-- Gate every tile that no contract holds. -/
def gateFree (s : State) : State :=
  ((List.range 104).filter fun t => !tileHeld s t).foldl gateTile s

/-- STANDBY_ENTER (R416). -/
def standbyEnter (s : State) : State :=
  if s.pwr.want && s.bulkSlots.isEmpty then setPower (gateFree s) 1 else s

/-- Why DOZE is refused (R417): 0 it is not. -/
def dozeWhy (s : State) : Nat :=
  if !s.ctxs.isEmpty then 1
  else if s.queues.any fun e => !e.2.slots.isEmpty then 2
  else if (s.dmas.any fun e => dmaState s e.1 != 0 && dmaState s e.1 != 5) || s.crcs.any fun e => e.2.busy then 3
  else 0

/-- The device is enumerated in a cascade (R411, R416). -/
def enumerated (s : State) : Bool := s.casc.enumDone

/-- PWR_CMD DOZE (R416–R418): queued HBM accesses finish, the stacks enter self-refresh, tiles and SerDes quads are gated,
and prefetch caches are discarded. The Selfold quads of an enumerated device stay. -/
def dozeOp (s : State) : State :=
  let why := dozeWhy s
  if s.pwr.st = 2 then s
  else if why ≠ 0 then bump { s with pwr := { s.pwr with denyWhy := why } } pwrPg 0 0x120 1
  else
    let s1 := (List.range 104).foldl gateTile (drainHbm s)
    let s2 := (List.range 8).foldl (fun s n => sensorLink n .down s)
      (if enumerated s1 then s1 else (List.range 4).foldl (fun s p => sfLink p .down s) s1)
    let s3 := ethDown 1 (ethDown 0 s2)
    let s4 := { s3 with
      pcs := s3.pcs.map fun e => (e.1, { e.2 with queue := [], reads := [], writes := [] })
      phys := s3.phys.map fun p => if p.st = 2 then { p with st := 3 } else p
      queues := s3.queues.map fun e => (e.1, { e.2 with cache := [], fetch := e.2.next })
      pwr := { s3.pwr with denyWhy := 0 } }
    setPower s4 2

/-- WAKE (R418): a pending Crier source (2) or a Selfold MGMT flit (3), when enabled. Writes wake by themselves. -/
def wakeOp (source : Nat) (s : State) : State :=
  if s.pwr.st = 2 ∧ (source = 2 ∨ source = 3) ∧ rbits s pwrPg 0 0x11C source source = 1 ∧
      (source = 3 ∨ (List.range 1024).any (srcPending s) = true) then wakeUp s else s

def execRun (rq : Requester) (s : State) : Out := .next (regOp rq pwrPg 0x100 runOp s)
def execStandby (rq : Requester) (s : State) : Out := .next (regOp rq pwrPg 0x100 standbyOp s)
def execStandbyEnter (s : State) : Out := act standbyEnter s
def execDoze (rq : Requester) (s : State) : Out := .next (regOp rq pwrPg 0x100 dozeOp s)
def execWake (source : Nat) (s : State) : Out := act (wakeOp source) s

end Sys2Proof.Machine
end

