-- ==== Sys2Proof/Machine/Views.lean ====
section
/-! DEFINITION. Register reads (R6, R54–R56, R59–R63, R69, R74–R76): the value every register shows, the latches a read loads, and
what a read clears or removes. -/
namespace Sys2Proof.Machine

/-! ## Banks (R69, R72) -/

/-- The bank of a context's ingress counters on an ETH page: a context whose flow is on the other port reads 0, as the bank that
no context counts in does (R207). -/
def ingBank (s : State) (page ctx : Nat) : Nat :=
  match getCtx s ctx with
  | some x => if x.kind = .decode ∧ Db.ingDepth x.block ≠ 0 ∧ ethPage (Db.ingPort x.block) ≠ page then 0x7FF else ctx
  | none => ctx

/-- The bank of the register that a requester reaches at an offset: its own copy, the instance its selector names, or 0. -/
def regBank (s : State) (rq : Requester) (page off : Nat) : Nat :=
  let me := selBank rq
  match pageKindOf page with
  | some .crier =>
    if off = 0x184 ∨ off = 0x188 then rbits s crierPg me 0x180 9 0 else if off = 0x180 ∨ off = 0x18C then me else 0
  | some .flt => if off = 0x114 then me else 0
  | some .qmgr | some .fifo => if off = 0x100 then me else if inWindow page off then selOf s rq page off else 0
  | some .sched => if off < 0x10C then me else if 0x200 ≤ off then selOf s rq page off else 0
  | some .grn =>
    if off = 0x100 ∨ off = 0x130 then me else if 0x104 ≤ off ∧ off < 0x120 then rbits s grnPg me 0x100 5 0 else 0
  | some .perf =>
    if off = 0x104 ∨ off = 0x128 ∨ off = 0x800 then me
    else if off = 0x10C ∨ off = 0x120 ∨ off = 0x124 ∨ (0x12C ≤ off ∧ off < 0x140) ∨ (0x300 ≤ off ∧ off < 0x380) then
      perfTile (rbits s perfPg me 0x104 6 0)
    else 0
  | some .eth => if off = 0x400 then me else if 0x404 ≤ off ∧ off < 0x424 then ingBank s page (rbits s page me 0x400 10 0) else 0
  | some .sensor => if off = 0x134 then rgetN s page 0 0x130 % 8192 else 0
  | _ => 0

/-! ## The common header (R59–R63) -/

/-- A bit as a number. -/
def b2n (b : Bool) : Nat := if b then 1 else 0

/-- PAGE_CAP of a page's kind and instance (R60, R489). -/
def pageCap (k : PageKind) (i : Nat) : Nat :=
  if k = .isl then 0
  else nFlt k * 256 + 32 + b2n (hasShadow k i) * 16 + b2n (canFence k) * 8 + b2n (canReset k) * 4 + b2n (canAbort k) * 2 +
    b2n (canQuiesce k)

/-- A committed shadow awaits its boundary on a page (R66, R73, R44). -/
def shadowPending (s : State) (page : Nat) : Bool :=
  (s.snaps.any fun n => n.page == page) ||
    (match pageAt page with
     | some (.carousel, i) => (List.range 4).any fun l => decide (4 * i + l < 25) && (getCar s (4 * i + l)).pend.isSome
     | _ => false)

/-- PAGE_STATUS. -/
def pageStatus (s : State) (page : Nat) (k : PageKind) : Nat :=
  let h := hdr s page
  let on := h.enable && canQuiesce k
  b2n h.lockHeld * 128 + b2n h.inReset * 64 + b2n (pageHeld s page) * 32 + b2n h.fenced * 16 + b2n (shadowPending s page) * 8 +
    b2n (h.fltSrc != 0) * 4 + b2n (on && blockActive s page) * 2 + b2n (on && !blockActive s page)

/-- A header word (R59, R60); the Island's pages have only the first two. -/
def hdrWord (s : State) (rq : Requester) (page off : Nat) (k : PageKind) (i : Nat) : Nat :=
  let h := hdr s page
  if off = 0x000 then typeCode k * 65536 + i * 256 + 1
  else if off = 0x004 then pageCap k i
  else if k = .isl then 0
  else if off = 0x008 then (if canQuiesce k then b2n h.quiesce * 2 + b2n h.enable else 0)
  else if off = 0x00C then pageStatus s page k
  else if off = 0x010 then h.evtPend.toNat
  else if off = 0x014 then h.evtEn.toNat
  else if off = 0x01C then h.fltSrc.toNat
  else if off = 0x020 then rgetN s page 0 0x020
  else if off = 0x02C then h.commitGen.toNat
  else if off = 0x030 then
    b2n h.lockHeld * 2 ^ 31 + b2n h.lockBroken * 2 ^ 30 + h.lockOwner.toNat * 65536 + h.lockGrants.toNat
  else if off = 0x034 then b2n (h.view.getLsbD (rqIx rq))
  else 0

/-! ## Words of larger values -/

/-- Word `i` of a number. -/
def wordOf (v i : Nat) : Nat := v / 2 ^ (32 * i) % 2 ^ 32

/-- Word `i` of a device time (R5): the fraction, then the nanoseconds. -/
def dtWord (t : Time) (i : Nat) : Nat := if i = 0 then t % 65536 else wordOf (t / 65536) (i - 1)

/-- The word at byte `o` of a byte string as it stands in memory (R383). -/
def wordAt (b : List Byte) (o : Nat) : Nat := leAt b o 4

/-! ## Computed registers, by page -/

/-- CLK_STATUS and CLK_EVT_OVF_ID (R443). -/
def clkWord (c : Clk) (off : Nat) : Option Nat :=
  if off = 0x100 then
    some (b2n c.rootLock + b2n c.coreOk * 2 + b2n c.pcieOk * 4 + b2n c.ethOk * 8 + b2n c.slew.isSome * 16 + b2n c.converted * 32 +
      b2n c.cmd.isSome * 64)
  else if off = 0x104 then some (b2n c.ovfValid * 2 ^ 31 + c.ovfId % 4096)
  else none

/-- PWR registers (R426). -/
def pwrWord (p : Pwr) (off : Nat) : Option Nat :=
  if off = 0x104 then some (p.denyWhy * 16 + p.st)
  else if off = 0x10C then some (unsigned 16 p.tj)
  else if off = 0x110 then some (unsigned 16 p.tjMax)
  else if off = 0x114 then some (p.iin * 65536 + p.vin)
  else if off = 0x118 then some p.ivrLast
  else none

/-- RST registers (R427). -/
def rstWord (r : Rst) (off : Nat) : Option Nat :=
  if off = 0x104 then some (b2n r.hbmKept * 512 + b2n r.fromFault * 256 + r.kind)
  else if off = 0x108 then some r.count
  else none

/-- BOOT registers (R408). -/
def bootWord (s : State) (off : Nat) : Option Nat :=
  let b := s.boot
  if off = 0x100 then some (b2n b.srcOdd * 65536 + b.err * 4096 + b.source * 256 + b.st)
  else if off = 0x104 then some (b.chosen * 4096 + b2n b.oneCopy * 2048 + b.bRes * 16 + b.aRes)
  else if off = 0x108 then some (b.svnMin % 256 * 65536 + b.svn % 65536)
  else if off = 0x10C then some (b2n s.straps.lifecycleLock * 16 + b2n b.unlockPend * 8 + b.lifecycle)
  else if off = 0x120 then some (b2n b.busy * 256 + b.code)
  else if off = 0x128 then some (b2n b.full * 128 + b.log.length)
  else if 0x180 ≤ off ∧ off < 0x1B0 then some (wordAt b.mrLatch (off - 0x180))
  else if 0x1B0 ≤ off ∧ off < 0x1E0 then some (wordAt b.nonce (off - 0x1B0))
  else none

/-- The log entry in a slot (R451): the newest stands at slot (HEAD − 1) mod 64. -/
def logSlot (f : Flt) (n : Nat) : Option LogEnt := f.log[(f.head + 63 - n) % 64]?

/-- FLT registers (R451). -/
def fltWord (s : State) (rq : Requester) (off : Nat) : Option Nat :=
  let f := s.flt
  let e := logSlot f (rbits s fltPg (selBank rq) 0x114 5 0)
  if off = 0x100 then some (f.head % 256 * 256 + b2n f.wrapped * 4 + b2n f.first.isSome * 2 + b2n f.fault)
  else if off = 0x104 then some ((f.first.map (·.1)).getD 0)
  else if 0x108 ≤ off ∧ off < 0x114 then some (dtWord ((f.first.map (·.2)).getD 0) ((off - 0x108) / 4))
  else if off = 0x118 then
    some (match e with | some e => e.info * 2 ^ 24 + b2n e.entered * 2 ^ 18 + e.sev * 65536 + e.id | none => 0)
  else if 0x11C ≤ off ∧ off < 0x128 then some (dtWord ((e.map (·.at_)).getD 0) ((off - 0x11C) / 4))
  else none

/-- CRIER_SRC_STATUS (R458). -/
def srcStatus (s : State) (n : Nat) : Nat :=
  let o := (getSrc s n).owner
  let r := if srcPending s n then routedTo s n else none
  r.getD 0 * 256 + b2n (srcPending s n && r.isNone) * 128 + o.getD 0 * 16 + b2n o.isSome * 2 + b2n (srcLevel s n)

/-- CRIER registers (R458). -/
def crierWord (s : State) (rq : Requester) (off : Nat) : Option Nat :=
  if 0x100 ≤ off ∧ off < 0x180 then
    some (sumN ((List.range 32).map fun k => b2n (srcPending s (8 * (off - 0x100) + k)) * 2 ^ k))
  else if off = 0x188 then some (srcStatus s (rbits s crierPg (selBank rq) 0x180 9 0))
  else if off = 0x18C ∧ rq = .host then some 0
  else if off = 0x194 then some (match nget s.takeRes (rqIx rq) with | some ok => 2 ^ 31 + b2n ok | none => 0)
  else none

/-- TKB registers (R30). -/
def tkbWord (s : State) (off : Nat) : Option Nat :=
  let b := s.booth
  if off = 0x104 then
    some (b.seq.toNat * 2 ^ 24 + b.lastFail % 256 * 65536 + b.lastResult % 256 * 256 + b2n b.thermClosed * 4 +
      b2n (!b.thermClosed) * 2 + b2n b.busy)
  else if off = 0x120 then some (b.admMw / 100 % 4096)
  else none

/-- CAROUSEL registers (R42, R69): the selected list's admin values, or its operative ones under VIEW.OPER. DESIGN CHOICE
(assumption 67): CAR_START shows the operative list's start, also while a committed list is pending. -/
def carWord (s : State) (rq : Requester) (page inst off : Nat) : Option Nat :=
  if inst = 7 then
    (if off = 0x100 then some (sumN ((List.range 25).map fun l => b2n (carReserved s l) * 2 ^ l)) else none)
  else if off = 0x100 ∨ off = 0x118 ∨ off = 0x138 then none
  else match carSel s page with
    | none => some 0
    | some l =>
      let c := getCar s l
      let a := if (hdr s page).view.getLsbD (rqIx rq) then c.oper else c.shadow
      let ix := rgetN s page 0 0x118
      if 0x104 ≤ off ∧ off < 0x110 then some (dtWord a.base ((off - 0x104) / 4))
      else if off = 0x110 then some a.cycle
      else if off = 0x114 then some a.len
      else if off = 0x11C then some (carEnt (if ix / 256 % 2 = 1 then c.oper else c.shadow) (ix % 256))
      else if off = 0x120 then some (c.cur % 256 * 256 + b2n c.pend.isSome)
      else if 0x124 ≤ off ∧ off < 0x130 then some (dtWord c.start ((off - 0x124) / 4))
      else if off = 0x130 then some (b2n c.late)
      else if off = 0x134 then some c.lateCount
      else none

/-- The bits of a flow or service entry's word that are not reserved (R317, R320). The reserved ones are held until the commit
checks them and read 0 (R6). -/
def entryMask (off : Nat) : Nat :=
  if off = 0x200 then 0x1F3F078F
  else if off = 0x218 ∨ off = 0x21C then 0xFFFF07FF
  else if off = 0x230 ∨ off = 0x304 then 0xFFFF
  else if (0x234 ≤ off ∧ off < 0x240) ∨ (0x260 ≤ off ∧ off < 0x280) then 0
  else if off = 0x300 then 0x70701
  else 0xFFFFFFFF

/-- The word a requester reads of an RWS register: the shadow, or under VIEW.OPER the operative value (R6, R69). -/
def rwsWord (s : State) (rq : Requester) (page bank off : Nat) : Nat :=
  let v := if (hdr s page).view.getLsbD (rqIx rq) then rgetN s page bank off else (sget s page bank off).toNat
  if page = schedPg then v &&& entryMask off else v

/-- QMGR window registers (R311). -/
def qWord (s : State) (rq : Requester) (q off : Nat) : Option Nat :=
  let x := getQ s q
  if off = 0x200 then
    some (x.gen.toNat * 2 ^ 24 + b2n x.quiesce * 4 + rwsWord s rq qmgrPg q 0x200 / 2 % 2 * 2 + b2n x.enable)
  else if off = 0x228 then
    some (min 255 (stagedN x) * 2 ^ 24 + x.slots.length % 512 * 2 ^ 15 + x.st * 4096 + b2n x.stalled * 2048 + x.bound.getD 0x7FF)
  else if off = 0x22C then some (idxOf x.m x.tail)
  else if off = 0x230 then some (idxOf x.m x.fetch)
  else if off = 0x234 then some (idxOf x.m x.rel)
  else if off = 0x238 then some (idxOf x.n x.head)
  else if off = 0x23C then some (idxOf x.n x.done)
  else if off = 0x248 then some (b2n x.invalDone * 2 ^ 31 + idxOf x.m x.invalLive)
  else if off = 0x258 then some (stagedN x)
  else none

/-- TILE registers (R228); RUN reads GATED while the tile has no power (R412). TILE_TS_DATA is read by `tsRead`. -/
def tileWord (s : State) (t off : Nat) : Option Nat :=
  let x := getTile s t
  if off = 0x100 then
    some (b2n (s.fuses.en.getLsbD t) * 512 + b2n (s.fuses.ret.getLsbD t) * 256 + b2n x.enabled * 128 + b2n x.patchLocked * 64 +
      (if tileGated s t then 6 else x.run))
  else if off = 0x108 then some (x.ctx % 2048 * 2 ^ 15 + x.kind % 16 * 2 ^ 11)
  else if off = 0x10C then some (x.opaddr % 1024)
  else if off = 0x110 then some (x.upc % 2 ^ 17)
  else if off = 0x114 then some (x.mchkU % 2 ^ 17 * 256 + x.mchk % 256)
  else if off = 0x118 then some (x.mchkTs % 2 ^ 19)
  else if off = 0x124 then some x.crc.toNat
  else none

/-- HBM_STATUS (R250). -/
def hbmWord (s : State) (c off : Nat) : Option Nat :=
  let p0 := getPc s (2 * c)
  let p1 := getPc s (2 * c + 1)
  if off = 0x104 then
    some (b2n ((getIx s.phys (c / 16) {}).st == 3) * 2 ^ 18 + p1.debt % 4 * 2 ^ 16 + p0.debt % 4 * 2 ^ 14 +
      p1.queue.length % 32 * 256 + p0.queue.length % 32)
  else none

/-- HBM_PHY_STATUS (R251). -/
def phyWord (s : State) (n off : Nat) : Option Nat :=
  let p := getIx s.phys n {}
  if off = 0x100 then some (p.temp % 256 * 65536 + b2n p.preserved * 256 + p.st) else none

/-- GRN registers (R263). -/
def grnWord (s : State) (rq : Requester) (off : Nat) : Option Nat :=
  let me := selBank rq
  let p := rbits s grnPg me 0x100 5 0
  let o := rbits s grnPg me 0x130 10 0
  let x := getPool s p
  let r := getRes s (rqIx rq)
  if off = 0x104 then some (rgetN s grnPg p 0x104 + b2n x.ready * 2 + b2n x.enable)
  else if off = 0x118 then some (x.waiters.length * 2 ^ 25 + freeCnt x)
  else if off = 0x11C then some (rsvOf x)
  else if off = 0x134 then some (minOf x o)
  else if off = 0x138 then some (if o = 0x7FF then unusedOf x else inUse x o)
  else if off = 0x144 then
    some (b2n r.done * 2 ^ 31 + b2n r.waiting * 2 ^ 30 + r.nfreed % 2 ^ 19 * 256 + r.code % 16)
  else if off = 0x148 then some (wordOf r.addr.toNat 0)
  else if off = 0x14C then some (wordOf r.addr.toNat 1)
  else none

/-- DMA channel registers (R285); TRIG is that of the descriptor at HEAD. -/
def dmaWord (s : State) (ch off : Nat) : Option Nat :=
  let x := getDma s ch
  if off = 0x10C then some (idxOf (dmaLog s ch) x.tail)
  else if off = 0x110 then some (idxOf (dmaLog s ch) x.head)
  else if off = 0x114 then
    some ((if x.st = 2 then ((x.fetched.head?).map fun d => dTrig d.bytes).getD 0 % 16 else 0) * 16 + dmaState s ch)
  else if off = 0x118 then some x.seq.toNat
  else none

/-- CRC unit registers (R286). -/
def crcWord (s : State) (u off : Nat) : Option Nat :=
  let x := getCrc s u
  if 0x100 ≤ off ∧ off < 0x118 then
    some (wordOf (crcMask s u (rget64 s (crcPage u) 0 (off / 8 * 8))) (off / 4 % 2))
  else if off = 0x130 then some (wordOf (crcMask s u x.val.toNat) 0)
  else if off = 0x134 then some (wordOf (crcMask s u x.val.toNat) 1)
  else if off = 0x138 then some (wordOf (crcRes s u) 0)
  else if off = 0x13C then some (wordOf (crcRes s u) 1)
  else if off = 0x140 then some (x.cls * 16 + b2n x.err * 2 + b2n x.busy)
  else if off = 0x148 then some (wordOf x.pos 0)
  else if off = 0x14C then some (wordOf x.pos 1)
  else none

/-- A FIFO pointer: index and wrap bit (R266, R270). -/
def fifoPtr (n p : Nat) : Nat := p / 2 ^ n % 2 * 2 ^ 20 + p % 2 ^ n

/-- FIFO instance registers (R270). -/
def fifoWord (s : State) (f off : Nat) : Option Nat :=
  let x := getFifo s f
  let n := fifoLog s f
  if off = 0x214 then some (fifoPtr n x.w)
  else if off = 0x218 then some (fifoPtr n x.rd)
  else if off = 0x21C then some (fifoPtr n x.rel)
  else if off = 0x220 then some (b2n x.marked * 2 ^ 31 + fifoPtr n x.m)
  else if off = 0x224 then
    some (fifoOcc n x * 16 + b2n x.stalled * 8 + b2n x.above * 4 + b2n (fifoOcc n x == 2 ^ n) * 2 + b2n (x.rd == x.w))
  else none

/-- SENSOR registers (R150, R163). -/
def snsWord (s : State) (n off : Nat) : Option Nat :=
  let x := getSensor s n
  if off = 0x104 then some (x.link.skew % 256 * 65536 + x.link.locked.toNat * 256 + x.link.st)
  else if off = 0x12C then some x.fillLast
  else if 4 ≤ n then none
  else if off = 0x188 then some (min 255 x.i3cRx.length * 256 + b2n x.i3cDone * 4 + b2n x.i3cNack * 2 + b2n x.i3cBusy)
  else if off = 0x190 then some (match x.i3cRx with | b :: _ => 2 ^ 31 + b.toNat | [] => 0)
  else none

/-- ETH registers (R331). -/
def ethWord (s : State) (n off : Nat) : Option Nat :=
  let x := getEth s n
  let t := x.ptp.head?
  if off = 0x104 then some (b2n x.fecLock * 2 + b2n x.linkUp)
  else if 0x110 ≤ off ∧ off < 0x11C then some (dtWord ((t.map (·.at_)).getD 0) ((off - 0x110) / 4))
  else if off = 0x11C then
    some (match t with | some e => 2 ^ 31 + e.msgType % 16 * 2 ^ 24 + e.seqId % 65536 | none => 0)
  else none

/-- SCHED registers (R328, R330). -/
def schedWord (s : State) (bank off : Nat) : Option Nat :=
  if 0x120 ≤ off ∧ off < 0x140 then some (portRsv s ((off - 0x120) / 4))
  else if 0x280 ≤ off ∧ off < 0x300 then
    let x := getFlow s bank
    if off = 0x280 then some x.depthLast
    else if off = 0x284 then some x.depthMin
    else if off = 0x288 then some x.depthMax
    else if off = 0x28C then some x.delayLast
    else if off = 0x290 then some x.delayMin
    else if off = 0x294 then some x.delayMax
    else if off = 0x298 then some (wordOf x.total 0)
    else if off = 0x29C then some (wordOf x.total 1)
    else none
  else if 0x394 ≤ off ∧ off < 0x3AC then
    let r := getRing s bank
    let v := if off < 0x39C then r.wr else if off < 0x3A4 then r.oldest else r.lastPic
    some (wordOf v ((off - 0x394) / 4 % 2))
  else none

/-- SF_STATUS (R367). -/
def sfWord (s : State) (p off : Nat) : Option Nat :=
  let x := getSf s p
  if off = 0x104 then some (x.peer % 2048 * 2 ^ 21 + x.role % 4 * 65536 + x.link.st) else none

/-- CASCADE registers (R368). -/
def cascWord (s : State) (off : Nat) : Option Nat :=
  let c := s.casc
  if off = 0x100 then some (cascStatus s)
  else if off = 0x11C then some (unsigned 32 (c.syncOfs / 256))
  else if off = 0x124 then
    some (b2n c.semDone * 2 ^ 31 + b2n c.semGranted * 2 ^ 30 + b2n c.semBroken * 2 ^ 29 + c.semOwner % 2048 * 65536 + c.semDev % 2048)
  else none

/-- The Island's mailbox from 0x100 on (R383, R384): page 0 its registers, pages 1–15 the record ring; all 0 while it is off. -/
def islWord (s : State) (page off : Nat) : Nat :=
  let x := s.isl
  if x.st = 0 then 0
  else if page ≠ 0 then
    wordAt (ngetD x.ring (10 * (page - 1) + (off - 0x100) / 384) []) ((off - 0x100) % 384)
  else if off = 0x100 then islState x
  else if off = 0x104 then islTb x
  else if off = 0x108 ∨ off = 0x10C then wordOf x.recIdx ((off - 0x108) / 4)
  else if off = 0x110 then x.cur.audit % 2 ^ 32
  else if off = 0x114 then x.cur.boots % 2 ^ 24
  else if off = 0x118 then x.tapDrop % 2 ^ 32
  else if off = 0x11C then x.tapLate % 2 ^ 32
  else if off = 0x120 ∨ off = 0x124 then wordOf (unsigned 64 x.tb.dtOfs) ((off - 0x120) / 4)
  else if off = 0x128 ∨ off = 0x12C then wordOf x.signedIdx ((off - 0x128) / 4)
  else if off = 0x130 then x.curFw.svn % 2 ^ 32
  else if 0x140 ≤ off ∧ off < 0x170 then wordAt (fwMeas x) (off - 0x140)
  else if 0x170 ≤ off ∧ off < 0x190 then wordAt (paramDigest x.cur.param) (off - 0x170)
  else if 0x190 ≤ off ∧ off < 0x1D0 then wordAt (toBE 64 Config.islandPubKey.toNat) (off - 0x190)
  else if 0x200 ≤ off ∧ off < 0x300 then wordAt s.boot.islBlock (off - 0x200)
  else 0

/-- The user view is open to a reader (R465): PERF_USER_EN, or a Steward not in U-mode. -/
def userView (s : State) (rq : Requester) (umode : Bool) : Bool :=
  rbits s debugPg 0 0x100 0 0 == 1 || (isSteward rq && !umode)

/-- PERF registers (R466). -/
def perfWord (s : State) (rq : Requester) (umode : Bool) (off : Nat) : Option Nat :=
  let t := rbits s perfPg (selBank rq) 0x104 6 0
  let x : Smp := ngetD s.smps t {}
  if 0x110 ≤ off ∧ off < 0x120 then
    some (sumN ((List.range 32).map fun k => b2n (rgetN s perfPg (perfTile (8 * (off - 0x110) + k)) 0x10C != 0) * 2 ^ k))
  else if off = 0x124 then some x.widx
  else if 0x12C ≤ off ∧ off < 0x13C then
    some (getIx (ngetD x.ents (rbits s perfPg (selBank rq) 0x128 7 0) []) ((off - 0x12C) / 4) 0).toNat
  else if 0x900 ≤ off ∧ off < 0x980 then some (if userView s rq umode then rgetN s perfPg 0 (off - 0x680) else 0)
  else if 0xA00 ≤ off ∧ off < 0xA40 then
    some (if userView s rq umode then rgetN s perfPg (perfTile (rbits s perfPg (selBank rq) 0x800 6 0)) (off - 0x6C0) else 0)
  else none

/-- The computed value of a register, where it is not the stored word. -/
def compWord (s : State) (rq : Requester) (umode : Bool) (page off : Nat) (k : PageKind) (i : Nat) : Option Nat :=
  match k with
  | .top => if 0x120 ≤ off ∧ off < 0x12C then some (dtWord s.dt ((off - 0x120) / 4)) else none
  | .clk => clkWord s.clk off
  | .pwr => pwrWord s.pwr off
  | .rst => rstWord s.rst off
  | .boot => bootWord s off
  | .flt => fltWord s rq off
  | .crier => crierWord s rq off
  | .tkb => tkbWord s off
  | .carousel => carWord s rq page i off
  | .qmgr => if 0x200 ≤ off then qWord s rq (selOf s rq page off) off else none
  | .tile => tileWord s i off
  | .hbm => hbmWord s i off
  | .phy => phyWord s i off
  | .grn => grnWord s rq off
  | .dma => dmaWord s i off
  | .crc => crcWord s i off
  | .fifo => if 0x200 ≤ off then fifoWord s (selOf s rq page off) off else none
  | .sensor => snsWord s i off
  | .eth => ethWord s i off
  | .sched => schedWord s (selOf s rq page off) off
  | .selfold => sfWord s i off
  | .cascade => cascWord s off
  | .isl => some (islWord s i off)
  | .perf => perfWord s rq umode off
  | .debug => none
  | .tmux => if off = 0x100 then some (tmuxRead s) else none

/-- The live value of a word, read with no effect (R6, R54, R55, R62). -/
def liveWord (s : State) (rq : Requester) (umode : Bool) (page off : Nat) : Nat :=
  match pageAt page with
  | none => 0
  | some (k, i) =>
    if off < 0x100 then hdrWord s rq page off k i
    else if (hdr s page).inReset then 0
    else match compWord s rq umode page off k i with
      | some v => v
      | none => match regRow k i off with
        | none => 0
        | some r => match r.acc with
          | .wo => 0
          | .rws => rwsWord s rq page (regBank s rq page off) off
          | _ => rgetN s page (regBank s rq page off) off

/-- The offsets whose words a read latches: the HI word of a pair (R74), the nanoseconds of a device time (R76), a chained
counter (R461), the other words of a sample (R466). -/
def latchSpan (s : State) (rq : Requester) (page off : Nat) : List Nat :=
  match pageAt page with
  | some (.isl, 0) => if off = 0x108 ∨ off = 0x120 ∨ off = 0x128 then [off + 4] else []
  | some (.perf, _) =>
    let t := rbits s perfPg (selBank rq) 0x104 6 0
    if 0x280 ≤ off ∧ off < 0x2FC then (if chained s none ((off - 0x280) / 4 + 1) then [off + 4] else [])
    else if 0x340 ≤ off ∧ off < 0x37C then (if chained s (some t) ((off - 0x340) / 4 + 1) then [off + 4] else [])
    else if off = 0x12C then [0x130, 0x134, 0x138]
    else []
  | some (k, i) =>
    (match regRow k i off with
     | some r => if r.pair then [off + 4] else if r.triple then [off + 4, off + 8] else []
     | none => [])
  | none => []

/-- What a read clears or removes: an RC register takes its reset value; the extremes of a flow, the highest Tj, the next byte
of an I3C FIFO and the head timestamp of a MAC go (R6, R161, R328, R331, R426). -/
def readEffect (s : State) (rq : Requester) (page off : Nat) : State :=
  match pageAt page with
  | some (.pwr, _) =>
    if off = 0x110 then { s with pwr := { s.pwr with tjMax := -32768 } }
    else if off = 0x120 then rputN s page 0 off 0 else s
  | some (.sched, _) =>
    let f := selOf s rq page off
    let x := getFlow s f
    if off = 0x284 then setFlow s f { x with depthMin := 0xFFFFFFFF }
    else if off = 0x288 then setFlow s f { x with depthMax := 0 }
    else if off = 0x290 then setFlow s f { x with delayMin := 0xFFFFFFFF }
    else if off = 0x294 then setFlow s f { x with delayMax := 0 }
    else if off = 0x10C ∨ off = 0x110 ∨ off = 0x114 ∨ off = 0x3AC then rputN s page (regBank s rq page off) off 0
    else s
  | some (.sensor, n) =>
    if off = 0x190 ∧ n < 4 then setSensor s n { getSensor s n with i3cRx := (getSensor s n).i3cRx.drop 1 }
    else if 0x110 ≤ off ∧ off < 0x12C then rputN s page 0 off 0 else s
  | some (.eth, n) =>
    if off = 0x11C then setEth s n { getEth s n with ptp := (getEth s n).ptp.drop 1 }
    else if (0x120 ≤ off ∧ off < 0x12C) ∨ (0x404 ≤ off ∧ off < 0x428) then rputN s page (regBank s rq page off) off 0 else s
  | some (k, i) =>
    (match regRow k i off with
     | some r => if r.acc = .rc then rputN s page (regBank s rq page off) off 0 else s
     | none => s)
  | none => s

/-- Load latches with live words (R74). -/
def loadLatches (s : State) (rq : Requester) (umode : Bool) (page : Nat) : List Nat → State
  | [] => s
  | o :: t =>
    let s1 := loadLatches s rq umode page t
    { s1 with latches := nset s1.latches (latchKey rq page o) (BitVec.ofNat 32 (liveWord s rq umode page o)) }

/-- A register read (R6, R54, R74, R76): a word whose latch is valid comes from the latch, which it uses up; any other is the
live word, latches the words that belong to it, and clears what a read clears. -/
def readReg (rq : Requester) (addr : Nat) (umode : Bool) (s : State) : State :=
  let page := addr / 4096
  let off := addr % 4096 / 4 * 4
  if 2 ^ 26 ≤ addr ∨ readableHdr s page = false then { s with out := 0 }
  else match pageAt page with
    | some (.tile, t) =>
      if (off = 0x134 ∨ off = 0x138) ∧ (hdr s page).inReset = false then tsRead rq t (off == 0x138) s
      else plainRead rq umode page off s
    | _ => plainRead rq umode page off s
where
  /-- The page answers: it is powered and live; in reset its header still reads (R62, R397). -/
  readableHdr (s : State) (page : Nat) : Bool := busUp s && pageLive s page
  /-- The read of a word that is not TILE_TS_DATA. -/
  plainRead (rq : Requester) (umode : Bool) (page off : Nat) (s : State) : State :=
    let key := latchKey rq page off
    match nget s.latches key with
    | some v => { s with out := v.toNat, latches := ndel s.latches key }
    | none =>
      let v := liveWord s rq umode page off
      let s1 := loadLatches s rq umode page (latchSpan s rq page off)
      let s2 := if (hdr s page).inReset && 0x100 ≤ off then s1 else readEffect s1 rq page off
      { s2 with out := v }

def execRegReadClear (rq : Requester) (addr : Nat) (umode : Bool) (s : State) : Out := .next (readReg rq addr umode s)
def execLoReadLatch (rq : Requester) (addr : Nat) (umode : Bool) (s : State) : Out := .next (readReg rq addr umode s)

end Sys2Proof.Machine
end

