-- ==== Sys2Proof/Machine/Router.lean ====
section
/-! DEFINITION. Register writes (R6, R54–R56, R60–R66, R69, R75): the gate, the common header, and every block register: a field
with no behaviour of its own stores the value; a field that has one acts as its command does. -/
namespace Sys2Proof.Machine

/-! ## The common header -/

/-- PAGE_CTRL (R60, R62): BLOCK_RESET before ABORT before QUIESCE; an action the page does not have is ignored. -/
def pageCtrl (rq : Requester) (page : Nat) (k : PageKind) (v : Nat) (s : State) : State :=
  let en := v % 2 == 1
  let qui := v / 2 % 2 == 1
  if v / 8 % 2 = 1 ∧ canReset k = true then blockResetOp rq page s
  else if v / 4 % 2 = 1 ∧ canAbort k = true then pageAbortOp page en qui s
  else pageQuiesce page qui (pageEnable page en s)

/-- FLT_SEV (R14, R445): each source's field stores by its own rule. -/
def sevWrite (page : Nat) (k : PageKind) (v : Nat) (s : State) : State :=
  rputN s page 0 0x020 (sumN ((List.range 16).map fun n => sevStore k n (bits v (2 * n + 1) (2 * n)) * 2 ^ (2 * n)))

/-- LOCK (R70, R71). -/
def lockWrite (rq : Requester) (page : Nat) (v : Nat) (s : State) : State :=
  let o := BitVec.ofNat 11 (bits v 26 16)
  match bits v 29 28 with
  | 1 => lockAcquire rq page o s
  | 2 => lockRelease page o s
  | 3 => lockForce rq page s
  | _ => s

/-- VIEW.OPER of a requester (R69). -/
def viewWrite (rq : Requester) (page : Nat) (on : Bool) (s : State) : State :=
  let h := hdr s page
  let m := BitVec.ofNat 6 (2 ^ rqIx rq)
  setHdr s page { h with view := if on then h.view ||| m else h.view &&& ~~~m }

/-- A write of a header word (R59, R60). -/
def hdrWrite (rq : Requester) (page off : Nat) (k : PageKind) (v : U32) (s : State) : State :=
  if off = 0x008 then pageCtrl rq page k v.toNat s
  else if off = 0x010 then clearEvts s page v
  else if off = 0x014 then putEvtEn s page v
  else if off = 0x018 then setEvts s page v
  else if off = 0x01C then setHdr s page { hdr s page with fltSrc := (hdr s page).fltSrc &&& ~~~(v.setWidth 16) }
  else if off = 0x020 then sevWrite page k v.toNat s
  else if off = 0x028 then commitOp rq page (v.setWidth 16) s
  else if off = 0x030 then lockWrite rq page v.toNat s
  else if off = 0x034 then viewWrite rq page (v.getLsbD 0) s
  else s

/-! ## Plain storing (R6, R65, R66, R75) -/

/-- The LO row of the pair whose HI word lies at `off`. -/
def pairLo (k : PageKind) (i off : Nat) : Option RegRow :=
  match regRow k i (off - 4) with
  | some r => if r.pair && r.off + 4 == off then some r else none
  | none => none

/-- Hold the LO half of an RW pair (R75). -/
def holdLo (s : State) (rq : Requester) (page off : Nat) (v : U32) : State :=
  { s with loHeld := nset s.loHeld (latchKey rq page off) v }

/-- The LO half held for a HI write, and the state without it. -/
def takeLo (s : State) (rq : Requester) (page off : Nat) : Option U32 × State :=
  (nget s.loHeld (latchKey rq page (off - 4)), { s with loHeld := ndel s.loHeld (latchKey rq page (off - 4)) })

/-- A write with no behaviour of its own, by its access type. -/
def plainWrite (rq : Requester) (page off : Nat) (k : PageKind) (i : Nat) (r : RegRow) (v : U32) (s : State) : State :=
  let b := regBank s rq page off
  match r.acc with
  | .ro | .rc | .wo => s
  | .w1c => rput s page b off (rget s page b off &&& ~~~v)
  | .rws => sput s page b off (stored r v)
  | .rw =>
    if r.pair then holdLo s rq page off (stored r v)
    else match pairLo k i off with
      | none => rput s page b off (stored r v)
      | some _ =>
        let t := takeLo s rq page off
        rput (match t.1 with | some lo => rput t.2 page b (off - 4) lo | none => t.2) page b off (stored r v)

/-! ## Blocks whose registers have behaviours -/

/-- CLK (R433, R443): only a Steward writes 0x108–0x118. -/
def clkRegWrite (rq : Requester) (off : Nat) (v : U32) (plain : State → State) (s : State) : State :=
  if !isSteward rq then (if 0x108 ≤ off ∧ off < 0x11C then bump s clkPg 0 0x120 1 else plain s)
  else if off = 0x108 then dtAdj v s
  else if off = 0x118 then (if v.toNat % 4 = 1 then dtCmd false s else if v.toNat % 4 = 2 then dtCmd true s else s)
  else plain s

/-- PWR (R414, R426). -/
def pwrRegWrite (off : Nat) (v : Nat) (plain : State → State) (s : State) : State :=
  if off = 0x100 then (if v % 4 = 1 then runOp s else if v % 4 = 2 then standbyOp s else if v % 4 = 3 then dozeOp s else s)
  else if off = 0x108 then bulkTilesOp (v % 128) s
  else plain s

/-- RST (R427). -/
def rstRegWrite (rq : Requester) (off : Nat) (v : U32) (s : State) : State :=
  if off = 0x100 then (if v.toNat % 4 = 1 ∧ rq ≠ .master then mainReset 2 s else s)
  else if 0x110 ≤ off then rstTileOp rq ((off - 0x110) / 4) v s
  else s

/-- BOOT_CMD (R404–R408). What the read of a recovery bundle and the training meet is not in the word: free values. -/
def bootRegCmd (rq : Requester) (v : Nat) (s : State) : State :=
  let arg := v / 256
  let coin := fun (n : Nat) => (Config.freeWord n).toNat % 2 == 1
  match v % 8 with
  | 1 => bootCmd rq (rq == .host)
      (fun s => recLoadOp (coin s.freeCtr) (coin (s.freeCtr + 1)) (coin (s.freeCtr + 2)) { s with freeCtr := s.freeCtr + 3 }) s
  | 2 => bootCmd rq (isSteward rq) (mrExtendOp (arg % 8)) s
  | 3 => bootCmd rq (rq == .host) challengeOp s
  | 4 => bootCmd rq (rq == .host) submitOp s
  | 5 => bootCmd rq (isSteward rq) (svnCommitOp arg) s
  | _ => s

/-- BOOT (R408). -/
def bootRegWrite (rq : Requester) (off : Nat) (v : U32) (plain : State → State) (s : State) : State :=
  if off = 0x11C then bootRegCmd rq v.toNat s
  else if off = 0x124 then mrSelOp (v.toNat % 8) s
  else if 0x140 ≤ off ∧ off < 0x170 then rput s bootPg 0 off v
  else plain s

/-- FLT (R450, R451). -/
def fltRegWrite (rq : Requester) (off : Nat) (plain : State → State) (s : State) : State :=
  if off = 0x12C then fltHb rq s
  else if off = 0x130 ∧ rq = .host then hostDeny s (fltPg * 4096 + off)
  else plain s

/-- CRIER (R452–R458). -/
def crierRegWrite (rq : Requester) (off : Nat) (v : Nat) (plain : State → State) (s : State) : State :=
  let src := v % 1024
  if off = 0x18C then (if rq = .host then hostDeny s (crierPg * 4096 + off) else plain s)
  else if off = 0x190 then crierTake rq src s
  else if off = 0x198 then crierDone rq src s
  else if off = 0x1A0 then crierSoft src true s
  else if off = 0x1A4 then crierSoft src false s
  else plain s

/-- TKB (R30, R344). -/
def tkbRegWrite (rq : Requester) (off : Nat) (v : Nat) (plain : State → State) (s : State) : State :=
  let ctx := bits v 26 16
  if off = 0x100 then
    (match v % 16 with
     | 1 => boothCmd (admitOp ctx) s
     | 2 => boothCmd (releaseOp ctx) s
     | 3 => boothCmd relistOp s
     | _ => s)
  else if 0x200 ≤ off ∧ off < 0x260 ∧ rq = .host then bump s tkbPg 0 0x26C 1
  else plain s

/-- Change the list that admin writes of a CAROUSEL page reach; none is reached by some selections, and the host's writes to a
list with a reservation are denied (R42, R46). DESIGN CHOICE (assumption 67): CAR_HOST_DENY is one counter of the page. -/
def carAdmin (rq : Requester) (page off : Nat) (f : CarList → CarList) (s : State) : State :=
  match carTarget s page with
  | none => unmapped s (page * 4096 + off)
  | some l =>
    if rq = .host ∧ carReserved s l = true then bump s page 0 0x138 1
    else setCar s l { getCar s l with shadow := f (getCar s l).shadow }

/-- Replace word `i` of a device time. -/
def setDtWord (t : Time) (i v : Nat) : Time :=
  if i = 0 then t / 65536 * 65536 + v % 65536 else t - wordOf (t / 65536) (i - 1) * 2 ^ (32 * i - 16) + v * 2 ^ (32 * i - 16)

/-- CAROUSEL (R42). -/
def carRegWrite (rq : Requester) (page inst off : Nat) (v : U32) (plain : State → State) (s : State) : State :=
  let n := v.toNat
  let ix := rgetN s page 0 0x118
  if inst = 7 then plain s
  else if 0x104 ≤ off ∧ off < 0x110 then carAdmin rq page off (fun l => { l with base := setDtWord l.base ((off - 0x104) / 4) n }) s
  else if off = 0x110 then carAdmin rq page off (fun l => { l with cycle := clampN 1000 16777215 n }) s
  else if off = 0x114 then carAdmin rq page off (fun l => { l with len := clampN 1 256 (n % 512) }) s
  else if off = 0x11C then
    (if ix / 256 % 2 = 1 then s else carAdmin rq page off (fun l => { l with ents := nset l.ents (ix % 256) v }) s)
  else if off = 0x130 then
    (match carSel s page with
     | some l => if n % 2 = 1 then setCar s l { getCar s l with late := false } else s
     | none => s)
  else plain s

/-- Q_CTRL (R309–R311): CLASS goes to the shadow, ENABLE acts, then QUIESCE, then ABORT. -/
def qCtrlWrite (q : Nat) (v : Nat) (s : State) : State :=
  let s1 := sput s qmgrPg q 0x200 (BitVec.ofNat 32 (v / 2 % 2 * 2))
  let s2 := if v % 2 = 1 then queueEnable q s1 else queueDisable q s1
  let s3 := queueQuiesce q (v / 4 % 2 == 1) s2
  if v / 8 % 2 = 1 then queueAbort q s3 else s3

/-- QMGR (R311). -/
def qmgrRegWrite (rq : Requester) (off : Nat) (v : Nat) (plain : State → State) (s : State) : State :=
  let q := selOf s rq qmgrPg off
  if off = 0x200 then qCtrlWrite q v s
  else if off = 0x244 then sqInval q (v % 2 ^ 17) s
  else plain s

/-- TILE (R227, R228). -/
def tileRegWrite (rq : Requester) (t off : Nat) (v : Nat) (plain : State → State) (s : State) : State :=
  if off = 0x104 then
    if !isSteward rq then tileDeny s t
    else match v % 8 with
      | 1 => preemptOp t s
      | 2 => resumeOp t s
      | 3 => haltOp t s
      | 4 => stepOp t s
      | 5 => retireOp t (v / 256 % 2 == 1) s
      | 6 => promoteOp t s
      | _ => s
  else plain s

/-- GRN_POOL_CTRL (R253, R254): the geometry of an enabled pool is not written; a refused ENABLE write stores nothing. -/
def poolCtrlWrite (p : Nat) (v : U32) (s : State) : State :=
  let old := rgetN s grnPg p 0x104
  let geo := (match regRow .grn 0 0x104 with | some r => (stored r v).toNat | none => 0) / 2 * 2
  if (getPool s p).enable then
    if v.toNat % 2 = 0 then poolDisableOp p s
    else if geo ≠ old then bump s grnPg 0 0x164 1 else s
  else
    let s1 := rputN s grnPg p 0x104 geo
    if v.toNat % 2 = 0 then s1 else if rangeBad s1 p then bump s grnPg 0 0x164 1 else poolEnableOp p s1

/-- GRN_OP (R257–R263). -/
def grnOpWrite (rq : Requester) (v : Nat) (s : State) : State :=
  let o := bits v 26 16
  let p := bits v 13 8
  match v % 16 with
  | 1 => grnEnter rq o false (grnAllocOp rq o p (v / 16 % 2 == 1)) s
  | 2 => grnEnter rq o false (grnFreeOp rq o p (getRes s (rqIx rq)).addr.toNat) s
  | 3 => grnCancelOp rq s
  | 4 => grnEnter rq o true (grnReclaimOp rq o p) s
  | _ => s

/-- GRN (R263). -/
def grnRegWrite (rq : Requester) (off : Nat) (v : U32) (plain : State → State) (s : State) : State :=
  let me := selBank rq
  let p := rbits s grnPg me 0x100 5 0
  if off = 0x104 then poolCtrlWrite p v s
  else if 0x108 ≤ off ∧ off < 0x118 ∧ (getPool s p).enable = true then bump s grnPg 0 0x164 1
  else if off = 0x134 then grnMinOp rq (rbits s grnPg me 0x130 10 0) p (v.toNat % 2 ^ 19) s
  else if off = 0x140 then grnOpWrite rq v.toNat s
  else if off = 0x14C then
    let t := takeLo s rq grnPg off
    let r := getRes s (rqIx rq)
    let lo := (t.1.map (·.toNat)).getD (r.addr.toNat % 2 ^ 32)
    setRes t.2 (rqIx rq) { r with addr := BitVec.ofNat 64 (v.toNat * 2 ^ 32 + lo) }
  else plain s

/-- CRC_CMD (R283, R284, R286). How far a stopped scan had come is not in the word: a free value. -/
def crcCmdWrite (u : Nat) (v : Nat) (s : State) : State :=
  match v % 8 with
  | 1 => crcCmd u (fun x => crcGo x (crcInit s u)) s
  | 2 => crcCmd u (fun x => crcGo x x.val) s
  | 3 => crcStop u ((Config.freeWord s.freeCtr).toNat % (crcLen s u + 1)) { s with freeCtr := s.freeCtr + 1 }
  | 4 => crcLoad u s
  | _ => s

/-- CRC (R283, R284, R286): the parameters, ADDR, LEN and VAL of a busy unit are not written; POLY, INIT, XOROUT and VAL take
only the bits below WIDTH; LEN is at most 2^40. -/
def crcRegWrite (rq : Requester) (u off : Nat) (v : U32) (plain : State → State) (s : State) : State :=
  let pg := crcPage u
  if off = 0x11C then crcCmdWrite u v.toNat s
  else if off < 0x138 ∧ (getCrc s u).busy = true then bump s pg 0 0x150 1
  else if off = 0x12C then
    let t := takeLo s rq pg off
    let lo := (t.1.map (·.toNat)).getD (rgetN s pg 0 0x128)
    rput64 t.2 pg 0 0x128 (min (2 ^ 40) (v.toNat * 2 ^ 32 + lo))
  else if off = 0x104 ∨ off = 0x10C ∨ off = 0x114 then
    let t := takeLo s rq pg off
    let lo := (t.1.map (·.toNat)).getD (rgetN s pg 0 (off - 4))
    rput64 t.2 pg 0 (off - 4) (crcKeep s u (rget64 s pg 0 (off - 4)) (v.toNat * 2 ^ 32 + lo))
  else if off = 0x134 then
    let t := takeLo s rq pg off
    let lo := (t.1.map (·.toNat)).getD ((getCrc s u).val.toNat % 2 ^ 32)
    setCrc t.2 u { getCrc s u with val := BitVec.ofNat 64 (crcKeep s u (getCrc s u).val.toNat (v.toNat * 2 ^ 32 + lo)) }
  else plain s

/-- SENSOR (R150, R161, R163): a link that may not train goes down. -/
def snsRegWrite (n off : Nat) (v : U32) (plain : State → State) (s : State) : State :=
  if off = 0x100 then (if v.getLsbD 16 then plain s else sensorLink n .down (plain s))
  else if off = 0x134 ∧ 8192 ≤ rgetN s (sensorPage n) 0 0x130 then s
  else if off = 0x184 ∧ n < 4 then i3cCmd n v.toNat s
  else if off = 0x18C ∧ n < 4 then i3cTx n (v.setWidth 8) s
  else plain s

/-- A write of a flow, service or ring window register is the requester's last entry (R330). -/
def noteEntry (rq : Requester) (off : Nat) (s : State) : State :=
  let kind := if off < 0x280 then 0 else if off < 0x310 then 1 else 2
  { s with schedRec := nset s.schedRec (rqIx rq) (kind, selOf s rq schedPg off) }

/-- SCHED (R317, R330): GUAR is read-only, and CTX while GUAR is 1. -/
def schedRegWrite (rq : Requester) (off : Nat) (v : U32) (plain : U32 → State → State) (s : State) : State :=
  let f := selOf s rq schedPg off
  let old := sget s schedPg f off
  let guar := rbits s schedPg f 0x200 7 7 == 1
  let w := if off = 0x200 then (v &&& 0xFFFFFF7F) ||| (old &&& 0x80)
    else if off = 0x218 ∧ guar = true then (v &&& 0xFFFF0000) ||| (old &&& 0xFFFF)
    else v
  if (0x200 ≤ off ∧ off < 0x280) ∨ (0x300 ≤ off ∧ off < 0x310) ∨ (0x380 ≤ off ∧ off < 0x394) then noteEntry rq off (plain w s)
  else plain w s

/-- ETH (R52, R331, R412): a port that is enabled in neither direction gates its quads, and its link goes down. -/
def ethRegWrite (p off : Nat) (plain : State → State) (s : State) : State :=
  let s1 := plain s
  if off = 0x100 ∧ ethOn s1 p = false then ethDown p s1 else s1

/-- SELFOLD (R345, R366, R367): a link that may not train goes down; policing that begins starts with full buckets. -/
def sfRegWrite (p off : Nat) (v : U32) (plain : State → State) (s : State) : State :=
  if off = 0x100 then
    let was := rbits s (sfPage p) 0 0x100 1 1 == 1
    let s1 := plain s
    let s2 := if v.getLsbD 1 && !was then sfFill s1 p else s1
    if v.getLsbD 0 then s2 else sfLink p .down s2
  else plain s

/-- CASCADE (R352–R368). -/
def cascRegWrite (rq : Requester) (off : Nat) (v : Nat) (plain : State → State) (s : State) : State :=
  let hi := bits v 26 16
  if off = 0x104 then
    (match v % 8 with
     | 1 => cascCmd rq enumerateOp s
     | 2 => cascCmd rq cascAdmitOp s
     | 3 => cascCmd rq (cascReleaseOp hi) s
     | 4 => cascCmd rq (resetDeviceOp hi) s
     | _ => cascCmd rq id s)
  else if off = 0x120 then
    (match bits v 29 28 with
     | 1 => semAsk 1 hi (v % 64) s
     | 2 => semAsk 2 hi (v % 64) s
     | 3 => semForce rq (v % 64) s
     | _ => s)
  else plain s

/-- The event numbers of R460 that a tile counter (`tile`) or a global counter accepts. -/
def eventOk (tile : Bool) (ev : Nat) : Bool := if tile then decide (ev ≤ 0x012) else decide (0x100 ≤ ev) && decide (ev ≤ 0x112)

/-- What a counter's configuration stores (R460, R461, R466): an event it does not accept stores the one that never counts;
counter 0 has no CHAIN. -/
def perfCfgStore (tile : Bool) (n v : Nat) : Nat :=
  let ev := if eventOk tile (v % 1024) then v % 1024 else if tile then 0 else 0x100
  v / 4096 % 2 * 4096 + (if n = 0 then 0 else v / 2048 % 2 * 2048) + v / 1024 % 2 * 1024 + ev

/-- PERF (R460–R466). -/
def perfRegWrite (rq : Requester) (off : Nat) (v : U32) (plain : State → State) (s : State) : State :=
  let b := regBank s rq perfPg off
  if 0x200 ≤ off ∧ off < 0x280 then rputN s perfPg b off (perfCfgStore false ((off - 0x200) / 4) v.toNat)
  else if 0x300 ≤ off ∧ off < 0x340 then rputN s perfPg b off (perfCfgStore true ((off - 0x300) / 4) v.toNat)
  else plain s

/-- A write of a block register. -/
def blockWrite (rq : Requester) (page off : Nat) (k : PageKind) (i : Nat) (r : RegRow) (v : U32) (s : State) : State :=
  let plainV := fun (w : U32) (s : State) => plainWrite rq page off k i r w s
  let plain := plainV v
  match k with
  | .clk => clkRegWrite rq off v plain s
  | .pwr => pwrRegWrite off v.toNat plain s
  | .rst => rstRegWrite rq off v s
  | .boot => bootRegWrite rq off v plain s
  | .flt => fltRegWrite rq off plain s
  | .crier => crierRegWrite rq off v.toNat plain s
  | .tkb => tkbRegWrite rq off v.toNat plain s
  | .carousel => carRegWrite rq page i off v plain s
  | .qmgr => qmgrRegWrite rq off v.toNat plain s
  | .tile => tileRegWrite rq i off v.toNat plain s
  | .grn => grnRegWrite rq off v plain s
  | .dma => if off = 0x10C then dmaTailOp i (v.toNat % 2 ^ 17) s else plain s
  | .crc => crcRegWrite rq i off v plain s
  | .sensor => snsRegWrite i off v plain s
  | .sched => schedRegWrite rq off v plainV s
  | .selfold => sfRegWrite i off v plain s
  | .cascade => cascRegWrite rq off v.toNat plain s
  | .perf => perfRegWrite rq off v plain s
  | .tmux => tmuxWrite v s
  | .eth => ethRegWrite i off plain s
  | .top | .hbm | .phy | .fifo | .isl | .debug => plain s

/-- A write that has passed the gate: a header word or a block register. The host's writes to the fabric range of the TKB page
are denied whether or not an offset is assigned (R344). -/
def writeWord (rq : Requester) (page off : Nat) (v : U32) (s : State) : State :=
  match pageAt page with
  | none => unmapped s (page * 4096 + off)
  | some (k, i) =>
    if off < 0x038 then hdrWrite rq page off k v s
    else match regRow k i off with
      | some r => blockWrite rq page off k i r v s
      | none =>
        if k = .tkb ∧ 0x200 ≤ off ∧ off < 0x260 ∧ rq = .host then bump s tkbPg 0 0x26C 1
        else unmapped s (page * 4096 + off)

/-- REG_WRITE (R6, R54–R56): a word without byte enables is no write, one with some but not all is discarded and counted. -/
def regWrite (rq : Requester) (addr : Nat) (be : BitVec 4) (v : U32) (s : State) : State :=
  let page := addr / 4096
  let off := addr % 4096 / 4 * 4
  if be = 0 ∨ 2 ^ 26 ≤ addr then s
  else if be ≠ 15 then
    if !busUp s || stHeld s rq then s
    else
      let s0 := wakeByWrite s
      if s0.flt.fault && page != rstPg then bump s0 fltPg 0 0x138 1 else badSize s0 (page * 4096 + off)
  else regOp rq page off (writeWord rq page off v) s

def execRegWrite (rq : Requester) (addr : Nat) (be : BitVec 4) (data : BitVec 32) (s : State) : Out :=
  .next (regWrite rq addr be data s)

end Sys2Proof.Machine
end

