-- ==== Sys2Proof/Machine/Dispatch.lean ====
section
/-! DEFINITION. One arm per command: the direct call of its meaning. -/
namespace Sys2Proof.Machine

/-- What a command does to everything but the queue. -/
def exec (i : Instr) (s : State) : Host.Outcome State Fault Refusal :=
  match i with
  | .regWrite rq addr be data => Sys2Proof.Machine.execRegWrite rq addr be data s
  | .regReadClear rq addr umode => Sys2Proof.Machine.execRegReadClear rq addr umode s
  | .loReadLatch rq addr umode => Sys2Proof.Machine.execLoReadLatch rq addr umode s
  | .evtForce rq page mask => Sys2Proof.Machine.execEvtForce rq page mask s
  | .commit rq page gen => Sys2Proof.Machine.execCommit rq page gen s
  | .shadowApply page bank => Sys2Proof.Machine.execShadowApply page bank s
  | .pageEnable rq page on => Sys2Proof.Machine.execPageEnable rq page on s
  | .pageQuiesce rq page on => Sys2Proof.Machine.execPageQuiesce rq page on s
  | .pageAbort rq page enable quiesce => Sys2Proof.Machine.execPageAbort rq page enable quiesce s
  | .blockReset rq page => Sys2Proof.Machine.execBlockReset rq page s
  | .blockResetEnd page => Sys2Proof.Machine.execBlockResetEnd page s
  | .blockReachesIdle page => Sys2Proof.Machine.execBlockReachesIdle page s
  | .lockAcquire rq page owner => Sys2Proof.Machine.execLockAcquire rq page owner s
  | .lockRelease rq page owner => Sys2Proof.Machine.execLockRelease rq page owner s
  | .lockForceRelease rq page => Sys2Proof.Machine.execLockForceRelease rq page s
  | .tkbAdmit rq ctx => Sys2Proof.Machine.execTkbAdmit rq ctx s
  | .release rq ctx => Sys2Proof.Machine.execRelease rq ctx s
  | .relist rq => Sys2Proof.Machine.execRelist rq s
  | .carListStart list => Sys2Proof.Machine.execCarListStart list s
  | .carEntryEnd list => Sys2Proof.Machine.execCarEntryEnd list s
  | .l24Window => Sys2Proof.Machine.execL24Window s
  | .retrainingPauseEnd pc converged => Sys2Proof.Machine.execRetrainingPauseEnd pc converged s
  | .tjSample temps stack0 stack1 => Sys2Proof.Machine.execTjSample temps stack0 stack1 s
  | .syncHeaderLock port => Sys2Proof.Machine.execSyncHeaderLock port s
  | .linkTrain port => Sys2Proof.Machine.execLinkTrain port s
  | .syncHeaderLoss port => Sys2Proof.Machine.execSyncHeaderLoss port s
  | .alignRound port skew consistent inPlace => Sys2Proof.Machine.execAlignRound port skew consistent inPlace s
  | .alignRoundMissing port => Sys2Proof.Machine.execAlignRoundMissing port s
  | .linePacket port laneErrs bytes => Sys2Proof.Machine.execLinePacket port laneErrs bytes s
  | .fmark port laneErrs first second => Sys2Proof.Machine.execFmark port laneErrs first second s
  | .frameCloseTimeout ctx => Sys2Proof.Machine.execFrameCloseTimeout ctx s
  | .fsyncEdge n => Sys2Proof.Machine.execFsyncEdge n s
  | .fsyncPulseEnd n => Sys2Proof.Machine.execFsyncPulseEnd n s
  | .i3cCmd rq n word => Sys2Proof.Machine.execI3cCmd rq n word s
  | .i3cTransferDone n nack rx => Sys2Proof.Machine.execI3cTransferDone n nack rx s
  | .i3cTx rq n byte => Sys2Proof.Machine.execI3cTx rq n byte s
  | .i3cRx rq n => Sys2Proof.Machine.execI3cRx rq n s
  | .rowComplete ctx frame => Sys2Proof.Machine.execRowComplete ctx frame s
  | .rowTicket bulk ctx => Sys2Proof.Machine.execRowTicket bulk ctx s
  | .jobEnd job => Sys2Proof.Machine.execJobEnd job s
  | .unitEnterFifo ctx => Sys2Proof.Machine.execUnitEnterFifo ctx s
  | .demotedPictureEmit ctx => Sys2Proof.Machine.execDemotedPictureEmit ctx s
  | .demotedPictureDiscard ctx => Sys2Proof.Machine.execDemotedPictureDiscard ctx s
  | .nop queue => Sys2Proof.Machine.execNop queue s
  | .encode queue => Sys2Proof.Machine.execEncode queue s
  | .encodeStart ctx => Sys2Proof.Machine.execEncodeStart ctx s
  | .encodeInputDone ctx => Sys2Proof.Machine.execEncodeInputDone ctx s
  | .encConfig queue => Sys2Proof.Machine.execEncConfig queue s
  | .openBulk queue => Sys2Proof.Machine.execOpenBulk queue s
  | .encConfigClose queue => Sys2Proof.Machine.execEncConfigClose queue s
  | .bulkSlotTake slot => Sys2Proof.Machine.execBulkSlotTake slot s
  | .decConfigOpen queue => Sys2Proof.Machine.execDecConfigOpen queue s
  | .decConfigClose queue => Sys2Proof.Machine.execDecConfigClose queue s
  | .decode queue => Sys2Proof.Machine.execDecode queue s
  | .decodeFinish ctx => Sys2Proof.Machine.execDecodeFinish ctx s
  | .ingressPacket port pkt => Sys2Proof.Machine.execIngressPacket port pkt s
  | .ingressPicTimeout ctx => Sys2Proof.Machine.execIngressPicTimeout ctx s
  | .mopNop tile => Sys2Proof.Machine.execMopNop tile s
  | .alu tile d a b fn => Sys2Proof.Machine.execAlu tile d a b fn s
  | .alui tile d a imm => Sys2Proof.Machine.execAlui tile d a imm s
  | .lds tile g base offset err => Sys2Proof.Machine.execLds tile g base offset err s
  | .sts tile g base offset => Sys2Proof.Machine.execSts tile g base offset s
  | .vld tile v base offset err => Sys2Proof.Machine.execVld tile v base offset err s
  | .vst tile v base offset => Sys2Proof.Machine.execVst tile v base offset s
  | .vop tile vd va vb fn => Sys2Proof.Machine.execVop tile vd va vb fn s
  | .unit tile u cmd p => Sys2Proof.Machine.execUnit tile u cmd p s
  | .br tile cond g target => Sys2Proof.Machine.execBr tile cond g target s
  | .call tile target => Sys2Proof.Machine.execCall tile target s
  | .ret tile => Sys2Proof.Machine.execRet tile s
  | .wait tile cond exp tmo tsh holds => Sys2Proof.Machine.execWait tile cond exp tmo tsh holds s
  | .waitConditionMet tile cycles => Sys2Proof.Machine.execWaitConditionMet tile cycles s
  | .waitTimeout tile => Sys2Proof.Machine.execWaitTimeout tile s
  | .safept tile => Sys2Proof.Machine.execSafept tile s
  | .opdone tile => Sys2Proof.Machine.execOpdone tile s
  | .jend tile g => Sys2Proof.Machine.execJend tile g s
  | .spTmo tile => Sys2Proof.Machine.execSpTmo tile s
  | .budgetExpiry tile => Sys2Proof.Machine.execBudgetExpiry tile s
  | .machineCheck tile cause addr => Sys2Proof.Machine.execMachineCheck tile cause addr s
  | .preempt rq tile => Sys2Proof.Machine.execPreempt rq tile s
  | .resume rq tile => Sys2Proof.Machine.execResume rq tile s
  | .halt rq tile => Sys2Proof.Machine.execHalt rq tile s
  | .step rq tile => Sys2Proof.Machine.execStep rq tile s
  | .retire rq tile permanent => Sys2Proof.Machine.execRetire rq tile permanent s
  | .promote rq tile => Sys2Proof.Machine.execPromote rq tile s
  | .tileTsDataRead rq tile hi => Sys2Proof.Machine.execTileTsDataRead rq tile hi s
  | .hbmIngressPass req => Sys2Proof.Machine.execHbmIngressPass req s
  | .hbmAccess pc => Sys2Proof.Machine.execHbmAccess pc s
  | .hbmReadComplete pc corrected uncorrectable replayBad => Sys2Proof.Machine.execHbmReadComplete pc corrected uncorrectable replayBad s
  | .hbmWriteAck pc => Sys2Proof.Machine.execHbmWriteAck pc s
  | .hbmSparePeriod pc corrected uncorrectable => Sys2Proof.Machine.execHbmSparePeriod pc corrected uncorrectable s
  | .hbmParityAlert pc => Sys2Proof.Machine.execHbmParityAlert pc s
  | .commonsScrub errs => Sys2Proof.Machine.execCommonsScrub errs s
  | .alloc rq owner pool wait => Sys2Proof.Machine.execAlloc rq owner pool wait s
  | .free rq owner pool addr => Sys2Proof.Machine.execFree rq owner pool addr s
  | .cancel rq => Sys2Proof.Machine.execCancel rq s
  | .reclaim rq owner pool => Sys2Proof.Machine.execReclaim rq owner pool s
  | .grnMin rq owner pool min => Sys2Proof.Machine.execGrnMin rq owner pool min s
  | .grnWaitTimeout pool => Sys2Proof.Machine.execGrnWaitTimeout pool s
  | .poolEnable rq pool => Sys2Proof.Machine.execPoolEnable rq pool s
  | .poolReady pool => Sys2Proof.Machine.execPoolReady pool s
  | .poolDisable rq pool => Sys2Proof.Machine.execPoolDisable rq pool s
  | .fifoWrite fifo word => Sys2Proof.Machine.execFifoWrite fifo word s
  | .fifoRead fifo err => Sys2Proof.Machine.execFifoRead fifo err s
  | .fifoRelease fifo words => Sys2Proof.Machine.execFifoRelease fifo words s
  | .fifoMark fifo => Sys2Proof.Machine.execFifoMark fifo s
  | .fifoRewind fifo => Sys2Proof.Machine.execFifoRewind fifo s
  | .fifoUnmark fifo => Sys2Proof.Machine.execFifoUnmark fifo s
  | .fifoMarkStall fifo => Sys2Proof.Machine.execFifoMarkStall fifo s
  | .dmaTail rq ch tail => Sys2Proof.Machine.execDmaTail rq ch tail s
  | .descriptorFetch ch => Sys2Proof.Machine.execDescriptorFetch ch s
  | .timerTick timer => Sys2Proof.Machine.execTimerTick timer s
  | .descriptorEnd ch => Sys2Proof.Machine.execDescriptorEnd ch s
  | .dmaBusErr ch written cls => Sys2Proof.Machine.execDmaBusErr ch written cls s
  | .dmaFetchErr ch => Sys2Proof.Machine.execDmaFetchErr ch s
  | .start rq unit => Sys2Proof.Machine.execStart rq unit s
  | .continue_ rq unit => Sys2Proof.Machine.execContinue rq unit s
  | .stop rq unit fed => Sys2Proof.Machine.execStop rq unit fed s
  | .loadInit rq unit => Sys2Proof.Machine.execLoadInit rq unit s
  | .scanDone unit => Sys2Proof.Machine.execScanDone unit s
  | .scanErr unit fed cls => Sys2Proof.Machine.execScanErr unit fed cls s
  | .sqDb queue be tail => Sys2Proof.Machine.execSqDb queue be tail s
  | .crDone queue be done => Sys2Proof.Machine.execCrDone queue be done s
  | .seFetch queue err => Sys2Proof.Machine.execSeFetch queue err s
  | .sqInval rq queue count => Sys2Proof.Machine.execSqInval rq queue count s
  | .entryStart bound => Sys2Proof.Machine.execEntryStart bound s
  | .ceReady queue => Sys2Proof.Machine.execCeReady queue s
  | .headPublish queue => Sys2Proof.Machine.execHeadPublish queue s
  | .queueEnable rq queue => Sys2Proof.Machine.execQueueEnable rq queue s
  | .queueQuiesce rq queue on => Sys2Proof.Machine.execQueueQuiesce rq queue on s
  | .queueAbort rq queue => Sys2Proof.Machine.execQueueAbort rq queue s
  | .idleReached queue => Sys2Proof.Machine.execIdleReached queue s
  | .egressPacketStart port => Sys2Proof.Machine.execEgressPacketStart port s
  | .egressPacketDone port busErr => Sys2Proof.Machine.execEgressPacketDone port busErr s
  | .ethLinkDown port => Sys2Proof.Machine.execEthLinkDown port s
  | .ptpEventMessage port tx msgType seqId => Sys2Proof.Machine.execPtpEventMessage port tx msgType seqId s
  | .ptpTxIdRead rq port => Sys2Proof.Machine.execPtpTxIdRead rq port s
  | .grantRevocation arbiter requester delivered total => Sys2Proof.Machine.execGrantRevocation arbiter requester delivered total s
  | .fabEtaMiss arbiter requester => Sys2Proof.Machine.execFabEtaMiss arbiter requester s
  | .data port flit => Sys2Proof.Machine.execData port flit s
  | .link port flit => Sys2Proof.Machine.execLink port flit s
  | .linkAckTimer port => Sys2Proof.Machine.execLinkAckTimer port s
  | .retryTimeout port cls => Sys2Proof.Machine.execRetryTimeout port cls s
  | .enumerate rq => Sys2Proof.Machine.execEnumerate rq s
  | .enum port id depth parent via spares => Sys2Proof.Machine.execEnum port id depth parent via spares s
  | .enumReply port serial dev standby ports => Sys2Proof.Machine.execEnumReply port serial dev standby ports s
  | .epoch port newEpoch dead => Sys2Proof.Machine.execEpoch port newEpoch dead s
  | .cascAdmit rq => Sys2Proof.Machine.execCascAdmit rq s
  | .mgmtAdmit stream member op plan contract => Sys2Proof.Machine.execMgmtAdmit stream member op plan contract s
  | .admitReply stream member reply => Sys2Proof.Machine.execAdmitReply stream member reply s
  | .cascRelease rq ctx => Sys2Proof.Machine.execCascRelease rq ctx s
  | .resetDevice rq target => Sys2Proof.Machine.execResetDevice rq target s
  | .budget ctx frame bytes target => Sys2Proof.Machine.execBudget ctx frame bytes target s
  | .cascSemAcquire rq owner sem => Sys2Proof.Machine.execCascSemAcquire rq owner sem s
  | .cascSemRelease rq owner sem => Sys2Proof.Machine.execCascSemRelease rq owner sem s
  | .cascSemForceRelease rq sem => Sys2Proof.Machine.execCascSemForceRelease rq sem s
  | .semReq port dev op owner sem => Sys2Proof.Machine.execSemReq port dev op owner sem s
  | .semReply granted broken owner dev => Sys2Proof.Machine.execSemReply granted broken owner dev s
  | .xreq dev tag issued owner pool => Sys2Proof.Machine.execXreq dev tag issued owner pool s
  | .xreply tag code addr => Sys2Proof.Machine.execXreply tag code addr s
  | .xreqTimeout dev tag => Sys2Proof.Machine.execXreqTimeout dev tag s
  | .mgmtReset => Sys2Proof.Machine.execMgmtReset s
  | .syncReqTimer => Sys2Proof.Machine.execSyncReqTimer s
  | .syncReq port t1 => Sys2Proof.Machine.execSyncReq port t1 s
  | .syncRsp port t1 t2 t3 => Sys2Proof.Machine.execSyncRsp port t1 t2 t3 s
  | .heartbeatTimer => Sys2Proof.Machine.execHeartbeatTimer s
  | .heartbeat port dev count status epoch => Sys2Proof.Machine.execHeartbeat port dev count status epoch s
  | .cascMasterLost => Sys2Proof.Machine.execCascMasterLost s
  | .cascDeviceDead dev => Sys2Proof.Machine.execCascDeviceDead dev s
  | .fence port epoch dev => Sys2Proof.Machine.execFence port epoch dev s
  | .fenceRepeat port => Sys2Proof.Machine.execFenceRepeat port s
  | .islTapPacket port dtNs colour bytes room => Sys2Proof.Machine.execIslTapPacket port dtNs colour bytes room s
  | .islTapUnit ctx picNum frame bytes last room => Sys2Proof.Machine.execIslTapUnit ctx picNum frame bytes last room s
  | .islTapTmo group => Sys2Proof.Machine.execIslTapTmo group s
  | .codedTmo group => Sys2Proof.Machine.execCodedTmo group s
  | .signatureDone => Sys2Proof.Machine.execSignatureDone s
  | .expoEdge input rising sinceIclk => Sys2Proof.Machine.execExpoEdge input rising sinceIclk s
  | .ppsEdge iclk predictErr => Sys2Proof.Machine.execPpsEdge iclk predictErr s
  | .ppsMissing => Sys2Proof.Machine.execPpsMissing s
  | .refLoss => Sys2Proof.Machine.execRefLoss s
  | .sealChange open_ => Sys2Proof.Machine.execSealChange open_ s
  | .readStatus frame => Sys2Proof.Machine.execReadStatus frame s
  | .readRecord frame => Sys2Proof.Machine.execReadRecord frame s
  | .readMeas frame => Sys2Proof.Machine.execReadMeas frame s
  | .readParam frame => Sys2Proof.Machine.execReadParam frame s
  | .readAudit frame => Sys2Proof.Machine.execReadAudit frame s
  | .writeParam frame => Sys2Proof.Machine.execWriteParam frame s
  | .commitParam frame => Sys2Proof.Machine.execCommitParam frame s
  | .discard frame => Sys2Proof.Machine.execDiscard frame s
  | .setTime frame => Sys2Proof.Machine.execSetTime frame s
  | .loadFw frame => Sys2Proof.Machine.execLoadFw frame s
  | .commitFw frame => Sys2Proof.Machine.execCommitFw frame s
  | .reset frame => Sys2Proof.Machine.execReset frame s
  | .isl powerOn => Sys2Proof.Machine.execIsl powerOn s
  | .islMeasRelay block => Sys2Proof.Machine.execIslMeasRelay block s
  | .boot pllLocks hbmTrains crcsEqual => Sys2Proof.Machine.execBoot pllLocks hbmTrains crcsEqual s
  | .recLoad rq dmaOk hbmTrains crcsEqual => Sys2Proof.Machine.execRecLoad rq dmaOk hbmTrains crcsEqual s
  | .mrExtend rq mr => Sys2Proof.Machine.execMrExtend rq mr s
  | .unlockChallenge rq => Sys2Proof.Machine.execUnlockChallenge rq s
  | .unlockSubmit rq => Sys2Proof.Machine.execUnlockSubmit rq s
  | .svnCommit rq svn => Sys2Proof.Machine.execSvnCommit rq svn s
  | .bootMrSel rq mr => Sys2Proof.Machine.execBootMrSel rq mr s
  | .getVersion => Sys2Proof.Machine.execGetVersion s
  | .getCapabilities => Sys2Proof.Machine.execGetCapabilities s
  | .negotiateAlgorithms asym hash => Sys2Proof.Machine.execNegotiateAlgorithms asym hash s
  | .getDigests => Sys2Proof.Machine.execGetDigests s
  | .getCertificate slot offset length => Sys2Proof.Machine.execGetCertificate slot offset length s
  | .challenge slot nonce => Sys2Proof.Machine.execChallenge slot nonce s
  | .getMeasurements index signed nonce => Sys2Proof.Machine.execGetMeasurements index signed nonce s
  | .ivrAdjust rail margin overcurrent => Sys2Proof.Machine.execIvrAdjust rail margin overcurrent s
  | .vinUv => Sys2Proof.Machine.execVinUv s
  | .avsPoll mv ca => Sys2Proof.Machine.execAvsPoll mv ca s
  | .bulkTileGate tile => Sys2Proof.Machine.execBulkTileGate tile s
  | .pwrBulkTiles rq n => Sys2Proof.Machine.execPwrBulkTiles rq n s
  | .run rq => Sys2Proof.Machine.execRun rq s
  | .standby rq => Sys2Proof.Machine.execStandby rq s
  | .standbyEnter => Sys2Proof.Machine.execStandbyEnter s
  | .doze rq => Sys2Proof.Machine.execDoze rq s
  | .wake source => Sys2Proof.Machine.execWake source s
  | .por => Sys2Proof.Machine.execPor s
  | .cold => Sys2Proof.Machine.execCold s
  | .warm cause => Sys2Proof.Machine.execWarm cause s
  | .flr => Sys2Proof.Machine.execFlr s
  | .rstTile rq word mask => Sys2Proof.Machine.execRstTile rq word mask s
  | .rootPllLol => Sys2Proof.Machine.execRootPllLol s
  | .refClockLoss eth => Sys2Proof.Machine.execRefClockLoss eth s
  | .dtAdj rq ppb => Sys2Proof.Machine.execDtAdj rq ppb s
  | .dtStep rq => Sys2Proof.Machine.execDtStep rq s
  | .dtSet rq => Sys2Proof.Machine.execDtSet rq s
  | .dtCmdDone => Sys2Proof.Machine.execDtCmdDone s
  | .slewDone => Sys2Proof.Machine.execSlewDone s
  | .cdcEvtOvf id lost => Sys2Proof.Machine.execCdcEvtOvf id lost s
  | .faultRaise page source info => Sys2Proof.Machine.execFaultRaise page source info s
  | .fltHb rq => Sys2Proof.Machine.execFltHb rq s
  | .hbMiss steward => Sys2Proof.Machine.execHbMiss steward s
  | .bellToggle => Sys2Proof.Machine.execBellToggle s
  | .crierTake rq src => Sys2Proof.Machine.execCrierTake rq src s
  | .crierDone rq src => Sys2Proof.Machine.execCrierDone rq src s
  | .crierSet rq src => Sys2Proof.Machine.execCrierSet rq src s
  | .crierClr rq src => Sys2Proof.Machine.execCrierClr rq src s
  | .counterWrap tile counter => Sys2Proof.Machine.execCounterWrap tile counter s
  | .samplePeriod tile endKind latency sinceStart extra => Sys2Proof.Machine.execSamplePeriod tile endKind latency sinceStart extra s
  | .tmuxSel rq word => Sys2Proof.Machine.execTmuxSel rq word s
  | .bypass => Sys2Proof.Machine.execBypass s
  | .idcode => Sys2Proof.Machine.execIdcode s
  | .samplePreload cells => Sys2Proof.Machine.execSamplePreload cells s
  | .extest cells => Sys2Proof.Machine.execExtest cells s
  | .extestPulse cells => Sys2Proof.Machine.execExtestPulse cells s
  | .extestTrain cells => Sys2Proof.Machine.execExtestTrain cells s
  | .clamp => Sys2Proof.Machine.execClamp s
  | .highz => Sys2Proof.Machine.execHighz s
  | .tapReset => Sys2Proof.Machine.execTapReset s
  | .mainPowerLoss => Sys2Proof.Machine.execMainPowerLoss s
  | .islPowerLoss => Sys2Proof.Machine.execIslPowerLoss s
  | .ethLinkUp port => Sys2Proof.Machine.execEthLinkUp port s
  | .refClockReturn eth => Sys2Proof.Machine.execRefClockReturn eth s
  | .serdesPllLol port => Sys2Proof.Machine.execSerdesPllLol port s
  | .islRefReturn => Sys2Proof.Machine.execIslRefReturn s
  | .tileResetDone => Sys2Proof.Machine.execTileResetDone s
  | .invalDone queue => Sys2Proof.Machine.execInvalDone queue s
  | .pcieLinkUp => Sys2Proof.Machine.execPcieLinkUp s

end Sys2Proof.Machine
end

