-- ==== Sys2Proof/Safety.lean ====
section
/-! DEFINITION. What a safe run is, and the words the statements use: a command's next state, and an accepted register write. -/
namespace Sys2Proof
open Sys2Proof.Machine

/-- The device is not in the fault state (R448). -/
def Healthy (s : State) : Prop := s.flt.fault = false

/-- A step that answers a next state. -/
def Steps (s t : State) : Prop := Machine.step s = .next t

/-- The command answers this next state. -/
abbrev Runs (c : Instr) (s t : State) : Prop := Machine.exec c s = .next t

/-- A register write passes everything that could discard it: the bus answers, the device is not in DOZE, and no rule of R54–R73,
R397, R448 or R465 discards it. -/
abbrev Accepts (s : State) (rq : Requester) (page off : Nat) : Prop :=
  busUp s = true ∧ s.pwr.st ≠ 2 ∧ gate s rq page off = none

/-- The same for a register of a named instance of a page with a window (R72). -/
abbrev AcceptsB (s : State) (rq : Requester) (page off bank : Nat) : Prop :=
  busUp s = true ∧ s.pwr.st ≠ 2 ∧ gateB s rq page off bank = none

/-- The commands of the verifier port with their codes (R387). -/
abbrev spiCommands (f : SpiFrame) : List (Nat × Instr) :=
  [(0x01, .readStatus f), (0x02, .readRecord f), (0x03, .readMeas f), (0x04, .readParam f), (0x05, .readAudit f), (0x10, .writeParam f),
   (0x11, .commitParam f), (0x12, .discard f), (0x13, .setTime f), (0x20, .loadFw f), (0x21, .commitFw f), (0x30, .reset f)]

/-- Those that change something, and so need an open seal (R388). -/
abbrev spiSealed (f : SpiFrame) : List (Nat × Instr) :=
  [(0x10, .writeParam f), (0x11, .commitParam f), (0x13, .setTime f), (0x20, .loadFw f), (0x21, .commitFw f), (0x30, .reset f)]

/-- A frame whose length and CRC are right for its code. -/
abbrev SpiGood (code : Nat) (f : SpiFrame) : Prop :=
  f.args.length = f.len ∧ crc32c (toBE 1 code ++ toBE 2 f.len ++ f.args) = f.crc.toNat

/-- The host's memory, the stacks and the Commons store are in their canonical form: addresses rise and no zero is listed. -/
abbrev MemForm (s : State) : Prop :=
  memWf s.hostMem = true ∧ memWf s.hbm = true ∧ nsorted s.commons = true ∧ ∀ e ∈ s.commons, e.2 ≠ 0

end Sys2Proof
end

