-- ==== Sys2Proof/Certificates/Slice0/Obligations.lean ====
section
/-! DEFINITION. The statements for the provers: what each command does, what every step keeps, what reset leaves. -/
open Sys2Proof Sys2Proof.Machine

/-- For every command c and state s whose queue begins with c, a step is exec of c on the state with the queue's rest. -/
def Obligations.StepRunsFront : Prop :=
  ∀ (c : Instr) (rest : List Instr) (s : State), s.pending = c :: rest → step s = exec c { s with pending := rest }

/-- With no command waiting a step answers the state one tick later (the model's choice, assumption 4). While the root PLL is locked and the main die runs, the tick count rises by 1 and device time by 10 ns plus the rate adjustment, with the remainder carried exactly (R432); with no slew and no cascade correction the sum of time and remainder rises by 655360 · (10^9 + DT_ADJ) units of 10^-9 / 65536 ns. While it does not run nothing changes. -/
def Obligations.IdleStepTicks : Prop :=
  (∀ s : State, s.pending = [] → clockRuns s = false → step s = .next s) ∧
  (∀ s : State, s.pending = [] → clockRuns s = true → s.clk.slew = none → s.clk.sync = 0 →
    ∃ t, step s = .next t ∧ t = { s with tick := t.tick, dt := t.dt, dtRem := t.dtRem } ∧ t.tick = s.tick + 1 ∧
      t.dtRem < 1000000000 ∧
      ∃ k : Nat, ((t.dt + 2 ^ 80 * k) * 1000000000 + t.dtRem : Int) =
        s.dt * 1000000000 + s.dtRem + (655360 * (1000000000 + s.clk.adj)).toNat)

/-- A word with no byte enables changes nothing; one with some but not all is counted in TOP_BAD_SIZE (R54); a write to an address outside every page that responds, or at an offset its page does not assign, is counted in TOP_UNMAPPED in whatever state the page is (R55); in the fault state a write to any page but RST is counted in FLT_DENY (R448); a host write to PAGE_CTRL, FLT_SEV or COMMIT of a HELD page is counted in TOP_HOST_DENY (R64). Each discard changes the register file only. A Steward that the boot has not released yet writes nothing. -/
def Obligations.RegWriteDiscards : Prop :=
  (∀ s rq addr v, Runs (.regWrite rq addr 0 v) s s) ∧
  (∀ s rq addr be v, stHeld s rq = true → Runs (.regWrite rq addr be v) s s) ∧
  (∀ s rq addr be v, stHeld s rq = false → addr < 2 ^ 26 → be ≠ 0 → be ≠ 15 → busUp s = true → s.pwr.st ≠ 2 → s.flt.fault = false →
    ∃ t, Runs (.regWrite rq addr be v) s t ∧ t = { s with regs := t.regs } ∧
      rgetN t topPg 0 0x104 = min 0xFFFFFFFF (rgetN s topPg 0 0x104 + 1) ∧
      rgetN t topPg 0 0x10C = addr / 4 * 4 ∧
      ∀ page bank off, bank < 8192 → off < 4096 → ¬ (page = topPg ∧ bank = 0 ∧ (off = 0x104 ∨ off = 0x10C)) →
        rget t page bank off = rget s page bank off) ∧
  (∀ s rq addr v, stHeld s rq = false → addr < 2 ^ 26 → busUp s = true → s.pwr.st ≠ 2 →
    pageLive s (addr / 4096) = false ∨ unassigned rq (addr / 4096) (addr % 4096 / 4 * 4) = true →
    ∃ t, Runs (.regWrite rq addr 15 v) s t ∧ t = { s with regs := t.regs } ∧
      rgetN t topPg 0 0x100 = min 0xFFFFFFFF (rgetN s topPg 0 0x100 + 1) ∧
      rgetN t topPg 0 0x10C = addr / 4 * 4) ∧
  (∀ s rq addr v, stHeld s rq = false → addr < 2 ^ 26 → busUp s = true → s.pwr.st ≠ 2 → s.flt.fault = true → pageLive s (addr / 4096) = true →
    addr / 4096 ≠ rstPg → unassigned rq (addr / 4096) (addr % 4096 / 4 * 4) = false →
    ∃ t, Runs (.regWrite rq addr 15 v) s t ∧ t = { s with regs := t.regs } ∧
      rgetN t fltPg 0 0x138 = min 0xFFFFFFFF (rgetN s fltPg 0 0x138 + 1)) ∧
  (∀ s page off v, off = 0x008 ∨ off = 0x020 ∨ off = 0x028 → page * 4096 + off < 2 ^ 26 → busUp s = true → s.pwr.st ≠ 2 →
    s.flt.fault = false → pageLive s page = true → (hdr s page).inReset = false → pageHeld s page = true →
    ∃ t, Runs (.regWrite .host (page * 4096 + off) 15 v) s t ∧ t = { s with regs := t.regs } ∧
      rgetN t topPg 0 0x108 = min 0xFFFFFFFF (rgetN s topPg 0 0x108 + 1))

/-- An accepted whole-word write of an RW register of a TMUX-free page kind (TOP, HBM, PHY, FIFO, ETH or DEBUG) that is no 64-bit pair stores the storable value in its bank; of an RWS register it goes to the shadow and the operative value stands (R66); an RO register keeps its value (R6); a write of EVT_PEND clears the bits that are 1 and no other (R60); a write of EVT_EN stores it. A write of ETH_CFG stores it, and a write that enables neither direction takes the link down (R331, R412). -/
def Obligations.RegWriteStores : Prop :=
  (∀ s rq page off v k i r, off < 4096 → off % 4 = 0 → page * 4096 + off < 2 ^ 26 → Accepts s rq page off →
    pageAt page = some (k, i) → 0x038 ≤ off → regRow k i off = some r →
    k = .top ∨ k = .hbm ∨ k = .phy ∨ k = .fifo ∨ k = .eth ∧ off ≠ 0x100 ∨ k = .debug →
    (r.acc = .ro → Runs (.regWrite rq (page * 4096 + off) 15 v) s s) ∧
    (r.acc = .rws → Runs (.regWrite rq (page * 4096 + off) 15 v) s (sput s page (regBank s rq page off) off (stored r v))) ∧
    (r.acc = .rw → r.pair = false → pairLo k i off = none →
      Runs (.regWrite rq (page * 4096 + off) 15 v) s (rput s page (regBank s rq page off) off (stored r v)))) ∧
  (∀ s rq page v, page * 4096 + 0x010 < 2 ^ 26 → Accepts s rq page 0x010 → ∃ t, Runs (.regWrite rq (page * 4096 + 0x010) 15 v) s t ∧
    hdr t page = { hdr s page with evtPend := (hdr s page).evtPend &&& ~~~v } ∧
    t = { s with hdrs := t.hdrs, crier := t.crier, emitted := t.emitted, msix := t.msix }) ∧
  (∀ s rq page v, page * 4096 + 0x014 < 2 ^ 26 → Accepts s rq page 0x014 → ∃ t, Runs (.regWrite rq (page * 4096 + 0x014) 15 v) s t ∧
    hdr t page = { hdr s page with evtEn := v } ∧
    t = { s with hdrs := t.hdrs, crier := t.crier, emitted := t.emitted, msix := t.msix }) ∧
  (∀ s rq p v r, p < 2 → Accepts s rq (ethPage p) 0x100 → regRow .eth p 0x100 = some r →
    Runs (.regWrite rq (ethPage p * 4096 + 0x100) 15 v) s
      (if ethOn (rput s (ethPage p) (regBank s rq (ethPage p) 0x100) 0x100 (stored r v)) p = true
       then rput s (ethPage p) (regBank s rq (ethPage p) 0x100) 0x100 (stored r v)
       else ethDown p (rput s (ethPage p) (regBank s rq (ethPage p) 0x100) 0x100 (stored r v))))

/-- A read by either command of any word of a live page but TILE_TS_DATA, whose latch holds nothing, returns the live word, latches for that requester every word that belongs to it as it then stands, and changes no state but registers and the counters, extremes and FIFOs that a read clears or pops. The read of an RC register leaves it 0 (R6), of a flow's extremes and the highest Tj leaves their start values, of I3C_RX and the MAC's PTP stamp takes the head away. A read of the LO word of a 64-bit pair (outside the Island, PERF and tile pages) latches the HI word and changes nothing else (R74), a read of a device-time fraction word latches both nanosecond words (R76). A word whose latch is valid is returned from the latch, which it uses up, and nothing else changes. A word of a page that does not answer reads 0. -/
def Obligations.RegReads : Prop :=
  (∀ s rq um page off k i, pageAt page = some (k, i) → (k = .tile → off ≠ 0x134 ∧ off ≠ 0x138) → off < 4096 → off % 4 = 0 →
    page * 4096 + off < 2 ^ 26 → busUp s = true → pageLive s page = true → nget s.latches (latchKey rq page off) = none →
    ∃ t, Runs (.regReadClear rq (page * 4096 + off) um) s t ∧ Runs (.loReadLatch rq (page * 4096 + off) um) s t ∧
      t.out = liveWord s rq um page off ∧
      (∀ o ∈ latchSpan s rq page off, nget t.latches (latchKey rq page o) = some (BitVec.ofNat 32 (liveWord s rq um page o))) ∧
      t = { s with out := t.out, latches := t.latches, regs := t.regs, pwr := t.pwr, flows := t.flows, sensors := t.sensors, eths := t.eths }) ∧
  (∀ s rq um page off k i r, pageAt page = some (k, i) → off < 4096 → off % 4 = 0 → page * 4096 + off < 2 ^ 26 →
    busUp s = true → pageLive s page = true → (hdr s page).inReset = false → 0x100 ≤ off → regRow k i off = some r →
    r.acc = .rc → r.pair = false → r.triple = false →
    k ≠ .pwr → k ≠ .sched → k ≠ .sensor → k ≠ .eth → k ≠ .perf → k ≠ .isl → (k = .tile → off ≠ 0x134 ∧ off ≠ 0x138) →
    nget s.latches (latchKey rq page off) = none →
    ∃ t, Runs (.regReadClear rq (page * 4096 + off) um) s t ∧ t = { s with out := t.out, regs := t.regs } ∧
      t.out = liveWord s rq um page off ∧ rget t page (regBank s rq page off) off = 0) ∧
  (∀ s rq um page off k i, pageAt page = some (k, i) → off % 4 = 0 → page * 4096 + off < 2 ^ 26 →
    (k = .pwr ∧ off = 0x120) ∨ (k = .sched ∧ (off = 0x10C ∨ off = 0x110 ∨ off = 0x114 ∨ off = 0x3AC)) ∨
      (k = .sensor ∧ 0x110 ≤ off ∧ off < 0x12C) ∨ (k = .eth ∧ ((0x120 ≤ off ∧ off < 0x12C) ∨ (0x404 ≤ off ∧ off < 0x428))) →
    busUp s = true → pageLive s page = true → (hdr s page).inReset = false → nget s.latches (latchKey rq page off) = none →
    ∃ t, Runs (.regReadClear rq (page * 4096 + off) um) s t ∧ t = { s with out := t.out, regs := t.regs } ∧
      t.out = liveWord s rq um page off ∧ rget t page (regBank s rq page off) off = 0) ∧
  (∀ s rq um page off i f, pageAt page = some (.sched, i) → f = selOf s rq page off → busUp s = true → pageLive s page = true →
    (hdr s page).inReset = false → nget s.latches (latchKey rq page off) = none → page * 4096 + off < 2 ^ 26 →
    off ∈ [0x284, 0x288, 0x290, 0x294] →
    ∃ t, Runs (.regReadClear rq (page * 4096 + off) um) s t ∧ t = { s with out := t.out, flows := t.flows } ∧
      t.out = liveWord s rq um page off ∧ (∀ g, g ≠ f → getFlow t g = getFlow s g) ∧
      getFlow t f = (if off = 0x284 then { getFlow s f with depthMin := 0xFFFFFFFF } else if off = 0x288 then { getFlow s f with depthMax := 0 }
        else if off = 0x290 then { getFlow s f with delayMin := 0xFFFFFFFF } else { getFlow s f with delayMax := 0 })) ∧
  (∀ s rq um, busUp s = true → (hdr s pwrPg).inReset = false → nget s.latches (latchKey rq pwrPg 0x110) = none →
    Runs (.regReadClear rq (pwrPg * 4096 + 0x110) um) s
      { s with out := liveWord s rq um pwrPg 0x110, pwr := { s.pwr with tjMax := -32768 } }) ∧
  (∀ s rq um page n, pageAt page = some (.sensor, n) → n < 4 → busUp s = true → pageLive s page = true → (hdr s page).inReset = false →
    nget s.latches (latchKey rq page 0x190) = none → page * 4096 + 0x190 < 2 ^ 26 →
    Runs (.regReadClear rq (page * 4096 + 0x190) um) s
      { setSensor s n { getSensor s n with i3cRx := (getSensor s n).i3cRx.drop 1 } with out := liveWord s rq um page 0x190 }) ∧
  (∀ s rq um page off k i r, pageAt page = some (k, i) → off < 4096 → off % 4 = 0 → page * 4096 + off < 2 ^ 26 →
    busUp s = true → pageLive s page = true → (hdr s page).inReset = false → 0x100 ≤ off → regRow k i off = some r →
    r.acc ≠ .rc → r.pair = true → k ≠ .perf → k ≠ .tile → k ≠ .isl →
    nget s.latches (latchKey rq page off) = none →
    ∃ t, Runs (.loReadLatch rq (page * 4096 + off) um) s t ∧ t = { s with out := t.out, latches := t.latches } ∧
      t.out = liveWord s rq um page off ∧
      nget t.latches (latchKey rq page (off + 4)) = some (BitVec.ofNat 32 (liveWord s rq um page (off + 4)))) ∧
  (∀ s rq um, busUp s = true → (hdr s topPg).inReset = false → nget s.latches (latchKey rq topPg 0x120) = none →
    ∃ t, Runs (.loReadLatch rq 0x120 um) s t ∧ t = { s with out := t.out, latches := t.latches } ∧ t.out = s.dt % 65536 ∧
      nget t.latches (latchKey rq topPg 0x124) = some (BitVec.ofNat 32 (s.dt / 65536)) ∧
      nget t.latches (latchKey rq topPg 0x128) = some (BitVec.ofNat 32 (s.dt / 65536 / 2 ^ 32))) ∧
  (∀ s rq um page off k i v, pageAt page = some (k, i) → (k = .tile → off ≠ 0x134 ∧ off ≠ 0x138) → off < 4096 → off % 4 = 0 →
    page * 4096 + off < 2 ^ 26 → busUp s = true → pageLive s page = true → nget s.latches (latchKey rq page off) = some v →
    Runs (.regReadClear rq (page * 4096 + off) um) s { s with out := v.toNat, latches := ndel s.latches (latchKey rq page off) } ∧
    Runs (.loReadLatch rq (page * 4096 + off) um) s { s with out := v.toNat, latches := ndel s.latches (latchKey rq page off) }) ∧
  (∀ s rq um addr, 2 ^ 26 ≤ addr ∨ busUp s = false ∨ pageLive s (addr / 4096) = false →
    Runs (.regReadClear rq addr um) s { s with out := 0 } ∧ Runs (.loReadLatch rq addr um) s { s with out := 0 })

/-- An accepted EVT_FORCE write sets the EVT_PEND bits it names and no other, on its page alone; besides that only the Crier's told levels and MSI-X messages can change (R60, R455). While the bus does not answer nothing changes. -/
def Obligations.EventsForced : Prop :=
  (∀ s rq page m, Accepts s rq page 0x018 → ∃ t, Runs (.evtForce rq page m) s t ∧
    t = { s with hdrs := t.hdrs, crier := t.crier, emitted := t.emitted, msix := t.msix } ∧
    hdr t page = { hdr s page with evtPend := (hdr s page).evtPend ||| m } ∧ ∀ q, q ≠ page → hdr t q = hdr s q) ∧
  (∀ s rq page m, busUp s = false → Runs (.evtForce rq page m) s s)

/-- An accepted ACQUIRE of a free lock by an owner ID below 0x440 makes that owner the holder, counts a grant and records the requester class; a held lock or an owner ID from 0x440 up discards it. A RELEASE by the current owner clears HELD and BROKEN and leaves OWNER 0x7FF; by any other it is discarded (R70). A Steward's FORCE_RELEASE of a held lock clears HELD and sets BROKEN; the host's is counted in TOP_HOST_DENY (R71). BROKEN outlives the next ACQUIRE. The other headers stand. -/
def Obligations.PageLocks : Prop :=
  (∀ s rq page o, Accepts s rq page 0x030 → (hdr s page).lockHeld = false → o.toNat < 0x440 →
    ∃ t, Runs (.lockAcquire rq page o) s t ∧ t = { s with hdrs := t.hdrs } ∧ (∀ q, q ≠ page → hdr t q = hdr s q) ∧
      hdr t page = { hdr s page with lockHeld := true, lockOwner := o, lockGrants := (hdr s page).lockGrants + 1, lockClass := some rq }) ∧
  (∀ s rq page o, Accepts s rq page 0x030 → (hdr s page).lockHeld = true ∨ 0x440 ≤ o.toNat → Runs (.lockAcquire rq page o) s s) ∧
  (∀ s rq page o, Accepts s rq page 0x030 → (hdr s page).lockHeld = true → (hdr s page).lockOwner = o → o.toNat < 0x440 →
    ∃ t, Runs (.lockRelease rq page o) s t ∧ t = { s with hdrs := t.hdrs } ∧ (∀ q, q ≠ page → hdr t q = hdr s q) ∧
      hdr t page = { hdr s page with lockHeld := false, lockBroken := false, lockOwner := 0x7FF, lockClass := none }) ∧
  (∀ s rq page o, Accepts s rq page 0x030 → (hdr s page).lockHeld = false ∨ (hdr s page).lockOwner ≠ o ∨ 0x440 ≤ o.toNat →
    Runs (.lockRelease rq page o) s s) ∧
  (∀ s n page, Accepts s (.steward n) page 0x030 → (hdr s page).lockHeld = true →
    ∃ t, Runs (.lockForceRelease (.steward n) page) s t ∧ t = { s with hdrs := t.hdrs } ∧ (∀ q, q ≠ page → hdr t q = hdr s q) ∧
      hdr t page = { hdr s page with lockHeld := false, lockBroken := true, lockOwner := 0x7FF, lockClass := none }) ∧
  (∀ s page, Accepts s .host page 0x030 → ∃ t, Runs (.lockForceRelease .host page) s t ∧ t = { s with regs := t.regs } ∧
    rgetN t topPg 0 0x108 = min 0xFFFFFFFF (rgetN s topPg 0 0x108 + 1))

/-- An accepted COMMIT of a page of one shadow set (HBM, PHY, GRN or SELFOLD) makes the page's shadows and GEN its pending snapshot, in place of an earlier one, and changes nothing else (R66, R67). At its boundary, and not before it, every word of the snapshot becomes operative, COMMIT_GEN takes GEN and nothing of the page stays pending (R66, R68); HBM_PC_MAP takes a pseudo-channel's new region unless an admitted stream uses the old or the new one, and memory is lost only where the region becomes none (R232); a SELFOLD port's token counts are cut to the new bursts. Without a pending snapshot the boundary changes nothing. -/
def Obligations.CommitAndBoundary : Prop :=
  (∀ s rq page g k i, Accepts s rq page 0x028 → pageAt page = some (k, i) → k = .hbm ∨ k = .phy ∨ k = .grn ∨ k = .selfold →
    Runs (.commit rq page g) s { s with snaps := s.snaps.filter (fun n => !(n.page == page && n.bank == 0)) ++
      [⟨page, 0, g, s.shadow.filter fun e => e.1 / 4096 == page * 8192, s.dt⟩] }) ∧
  (∀ s page n k i, busUp s = true → pageAt page = some (k, i) → k = .phy ∨ k = .grn →
    s.snaps.find? (fun m => m.page == page && m.bank == 0) = some n → atBoundary s n = true →
    ∃ t, Runs (.shadowApply page 0) s t ∧ t = { s with regs := t.regs, hdrs := t.hdrs, snaps := t.snaps } ∧
      t.regs = n.vals.foldl (fun m e => nset m e.1 e.2) s.regs ∧
      hdr t page = { hdr s page with commitGen := n.gen } ∧ (∀ q, q ≠ page → hdr t q = hdr s q) ∧
      t.snaps = s.snaps.filter fun m => !(m.page == page && m.bank == 0)) ∧
  (∀ s page n c, busUp s = true → pageAt page = some (.hbm, c) → s.snaps.find? (fun m => m.page == page && m.bank == 0) = some n →
    atBoundary s n = true →
    ∃ t, Runs (.shadowApply page 0) s t ∧ t = { s with regs := t.regs, hdrs := t.hdrs, snaps := t.snaps, hbm := t.hbm, hbmPoison := t.hbmPoison } ∧
      (∀ key, key ≠ rkey page 0 0x100 → nget t.regs key = nget (n.vals.foldl (fun m e => nset m e.1 e.2) s.regs) key) ∧
      rbits t page 0 0x100 4 0 = newRegion s (2 * c) (bits (snapGet s n.vals page 0 0x100) 4 0) ∧
      (newRegion s (2 * c) (bits (snapGet s n.vals page 0 0x100) 4 0) ≤ 16 →
        newRegion s (2 * c + 1) (bits (snapGet s n.vals page 0 0x100) 12 8) ≤ 16 → t.hbm = s.hbm ∧ t.hbmPoison = s.hbmPoison) ∧
      hdr t page = { hdr s page with commitGen := n.gen } ∧ (∀ q, q ≠ page → hdr t q = hdr s q) ∧
      t.snaps = s.snaps.filter fun m => !(m.page == page && m.bank == 0)) ∧
  (∀ s page n p, busUp s = true → pageAt page = some (.selfold, p) → s.snaps.find? (fun m => m.page == page && m.bank == 0) = some n →
    atBoundary s n = true →
    ∃ t, Runs (.shadowApply page 0) s t ∧ t = { s with regs := t.regs, hdrs := t.hdrs, snaps := t.snaps, sfs := t.sfs } ∧
      t.regs = n.vals.foldl (fun m e => nset m e.1 e.2) s.regs ∧
      (getSf t p).tokC ≤ rbits t page 0 0x114 24 0 * 1000000 ∧ (getSf t p).tokP ≤ rbits t page 0 0x118 24 0 * 1000000 ∧
      hdr t page = { hdr s page with commitGen := n.gen } ∧ (∀ q, q ≠ page → hdr t q = hdr s q) ∧
      t.snaps = s.snaps.filter fun m => !(m.page == page && m.bank == 0)) ∧
  (∀ s page bank n, busUp s = true → s.snaps.find? (fun m => m.page == page && m.bank == bank) = some n → atBoundary s n = false →
    Runs (.shadowApply page bank) s s) ∧
  (∀ s page bank, busUp s = true → (∀ n ∈ s.snaps, ¬ (n.page = page ∧ n.bank = bank)) → Runs (.shadowApply page bank) s s)

/-- On a page with QUIESCE (TILE, DMA, CRC, SENSOR), an accepted write of ENABLE = 0 while the block is ACTIVE leaves ENABLE until IDLE and is remembered; while it is not, ENABLE clears at once; ENABLE = 1 sets it on a block that is no HALTED DMA channel; QUIESCE stores. The drop happens when nothing accepted is outstanding. With ABORT, QUIESCE and ENABLE are stored as written; an idle tile then discards the abort, a running one has it pending (R62, R221). On a DMA channel an ABORT ends with ENABLE clear: one without a current descriptor changes nothing else; one that waits for its trigger ends its descriptor BAD with class ABORTED and offset 0, and one that moves bytes ends its descriptor, each advancing HEAD and the count by one (R62, R280, R282). Other headers and every other state stand. -/
def Obligations.PageControl : Prop :=
  (∀ s rq page k i, Accepts s rq page 0x008 → pageAt page = some (k, i) → canQuiesce k = true → (hdr s page).enable = true →
    ∃ t, Runs (.pageEnable rq page false) s t ∧ t = { s with hdrs := t.hdrs } ∧ (∀ q, q ≠ page → hdr t q = hdr s q) ∧
      hdr t page = (if blockActive s page then { hdr s page with dropEnable := true }
        else { hdr s page with enable := false, dropEnable := false })) ∧
  (∀ s rq page k i, Accepts s rq page 0x008 → pageAt page = some (k, i) → canQuiesce k = true →
    (k = .dma → (getDma s i).st ≠ 5) →
    ∃ t, Runs (.pageEnable rq page true) s t ∧ t = { s with hdrs := t.hdrs } ∧ (∀ q, q ≠ page → hdr t q = hdr s q) ∧
      hdr t page = { hdr s page with enable := true, dropEnable := false }) ∧
  (∀ s rq page on k i, Accepts s rq page 0x008 → pageAt page = some (k, i) → canQuiesce k = true →
    ∃ t, Runs (.pageQuiesce rq page on) s t ∧ t = { s with hdrs := t.hdrs } ∧ (∀ q, q ≠ page → hdr t q = hdr s q) ∧
      hdr t page = { hdr s page with quiesce := on }) ∧
  (∀ s page, alive s = true → (hdr s page).dropEnable = true → blockActive s page = false →
    ∃ t, Runs (.blockReachesIdle page) s t ∧ t = { s with hdrs := t.hdrs } ∧ (∀ q, q ≠ page → hdr t q = hdr s q) ∧
      hdr t page = { hdr s page with enable := false, dropEnable := false }) ∧
  (∀ s rq page n en qui, Accepts s rq page 0x008 → pageAt page = some (.tile, n) → blockActive s page = false →
    tileBusy (getTile s n) = false →
    ∃ t, Runs (.pageAbort rq page en qui) s t ∧ t = { s with hdrs := t.hdrs } ∧ (∀ q, q ≠ page → hdr t q = hdr s q) ∧
      hdr t page = { hdr s page with enable := en, dropEnable := false, quiesce := qui }) ∧
  (∀ s rq page n en qui, Accepts s rq page 0x008 → pageAt page = some (.tile, n) → (getTile s n).run = 1 → (hdr s page).enable = true →
    ∃ t, Runs (.pageAbort rq page en qui) s t ∧ t = { s with hdrs := t.hdrs, tiles := t.tiles } ∧
      getTile t n = { getTile s n with reqA := true } ∧ (∀ u, u ≠ n → getTile t u = getTile s u) ∧ (∀ q, q ≠ page → hdr t q = hdr s q) ∧
      hdr t page = (if en then { hdr s page with dropEnable := false, quiesce := qui }
        else { hdr s page with dropEnable := true, quiesce := qui })) ∧
  (∀ s rq page i en qui, Accepts s rq page 0x008 → pageAt page = some (.dma, i) → (getDma s i).fetched = [] → (getDma s i).st ≠ 5 →
    ∃ t, Runs (.pageAbort rq page en qui) s t ∧ t = { s with hdrs := t.hdrs } ∧ (∀ q, q ≠ page → hdr t q = hdr s q) ∧
      hdr t page = { hdr s page with enable := false, dropEnable := false, quiesce := qui }) ∧
  (∀ s rq page i en qui, Accepts s rq page 0x008 → pageAt page = some (.dma, i) → (getDma s i).fetched = [] → (getDma s i).st = 5 →
    ∃ t, Runs (.pageAbort rq page en qui) s t ∧ t = { s with hdrs := t.hdrs, dmas := t.dmas } ∧
      (∀ c, c ≠ i → getDma t c = getDma s c) ∧
      hdr t page = { hdr s page with enable := false, dropEnable := false, quiesce := qui }) ∧
  (∀ s rq page i d en qui, Accepts s rq page 0x008 → pageAt page = some (.dma, i) → (getDma s i).fetched = [d] → (getDma s i).st = 2 →
    (s.snaps.filter fun n => n.page == page && n.bank == 0) = [] →
    ∃ t, Runs (.pageAbort rq page en qui) s t ∧ (hdr t page).enable = false ∧ (hdr t page).quiesce = qui ∧
      (getDma t i).head = fifoAdd (dmaLog s i) (getDma s i).head 1 ∧ (getDma t i).seq = (getDma s i).seq + 1 ∧
      (getDma t i).st = 0 ∧ (getDma t i).fetched = [] ∧
      let a := descAddr s i d.pos
      let w := writeLoc (writeLoc s (dmaLoc s i) (a + 0x30) (toLE 8 (nowNs s) ++ toLE 8 0) false) (dmaLoc s i) a
        (putAt (d.bytes.take 8) 2 [2, 7]) false
      t.hostMem = w.hostMem ∧ t.hbm = w.hbm) ∧
  (∀ s rq page i d en qui, Accepts s rq page 0x008 → pageAt page = some (.dma, i) → (getDma s i).fetched = [d] → (getDma s i).st = 3 →
    (s.snaps.filter fun n => n.page == page && n.bank == 0) = [] →
    ∃ t, Runs (.pageAbort rq page en qui) s t ∧ (hdr t page).enable = false ∧ (hdr t page).quiesce = qui ∧
      (getDma t i).head = fifoAdd (dmaLog s i) (getDma s i).head 1 ∧ (getDma t i).seq = (getDma s i).seq + 1 ∧
      (getDma t i).st = 0 ∧ (getDma t i).fetched = [])

/-- An accepted BLOCK_RESET of a DMA, CRC, FIFO, SENSOR or ETH page clears EVT_PEND, EVT_EN, FLT_SRC, ENABLE and FENCED, sets IN_RESET, breaks a held lock and keeps GRANTS (R62, R71), and discards the words of its crossings, whose two sides see them full and empty (R440); every register of the page reads its reset value, operative and shadow, no snapshot of it stays pending (R67), and the registers of every other page, the other headers, memories and contexts stand. BLOCK_RESET_END clears IN_RESET and ends the resynchronisation of the crossings, and changes nothing else. On a page without BLOCK_RESET the bit does nothing; on the GRN page with a context admitted it is counted in TOP_HOST_DENY (R420). -/
def Obligations.BlockResetClears : Prop :=
  (∀ s rq page k i, Accepts s rq page 0x008 → pageAt page = some (k, i) →
    k = .dma ∨ k = .crc ∨ k = .fifo ∨ k = .sensor ∨ k = .eth →
    ∃ t, Runs (.blockReset rq page) s t ∧
      (hdr t page).inReset = true ∧ (hdr t page).enable = false ∧ (hdr t page).fenced = false ∧ (hdr t page).evtPend = 0 ∧
      (hdr t page).evtEn = 0 ∧ (hdr t page).fltSrc = 0 ∧ (hdr t page).lockHeld = false ∧ (hdr t page).lockOwner = 0x7FF ∧
      (hdr t page).lockBroken = ((hdr s page).lockHeld || (hdr s page).lockBroken) ∧
      (hdr t page).lockGrants = (hdr s page).lockGrants ∧ (hdr t page).xing = xingReset ∧ (∀ q, q ≠ page → hdr t q = hdr s q) ∧
      (∀ bank off, bank < 8192 → off < 4096 → rget t page bank off = rreset page bank off ∧ sget t page bank off = rreset page bank off) ∧
      (∀ q bank off, q ≠ page → bank < 8192 → off < 4096 → rget t q bank off = rget s q bank off) ∧
      (∀ n ∈ t.snaps, n.page ≠ page) ∧ t.hostMem = s.hostMem ∧ t.hbm = s.hbm ∧ t.ctxs = s.ctxs ∧ t.jobs = s.jobs ∧
      t.queues = s.queues ∧ t.tiles = s.tiles ∧ t.pools = s.pools) ∧
  (∀ s page, busUp s = true → s.rst.tiles = [] → ∃ t, Runs (.blockResetEnd page) s t ∧ t = { s with hdrs := t.hdrs } ∧
    hdr t page = { hdr s page with inReset := false, xing := { (hdr s page).xing with resync := false } } ∧ ∀ q, q ≠ page → hdr t q = hdr s q) ∧
  (∀ s rq page k i, Accepts s rq page 0x008 → pageAt page = some (k, i) → canReset k = false → Runs (.blockReset rq page) s s) ∧
  (∀ s rq, Accepts s rq grnPg 0x008 → anyAdm s (fun _ _ => true) = true →
    ∃ t, Runs (.blockReset rq grnPg) s t ∧ t = { s with regs := t.regs } ∧
      rgetN t topPg 0 0x108 = min 0xFFFFFFFF (rgetN s topPg 0 0x108 + 1))

/-- An accepted ADMIT while no command executes reads the 128-byte contract at TKB_REQ_ADDR. If every check passes, the chosen context is admitted with the contract, its tiles, memory partition, slot group and bound D_ADM = min(D_REQ, D_CALC rounded up to 10 us) (R27, R33), no other context changes, and the admitted power grows by the plan's. A failed check answers REFUSED with that check's FAIL_RES, shortfall and sum, and is counted; an invalid field answers INVALID with its offset, and a contract that cannot be read answers INVALID with offset 0; these leave every context, tile, queue and pool as it was. Each command that ends so increments SEQ, shows RESULT and FAIL_RES, and sets CMD_DONE (R30, R31). While a command executes, another is discarded and sets its event. -/
def Obligations.BoothAdmit : Prop :=
  (∀ s rq ctx b p pl, Accepts s rq tkbPg 0x100 → s.booth.busy = false → memRead s 0 (reqAddr s) 128 = (b, none, false) →
    validate s 0 b = .inr p → checks s (ctx % 2048) 0 b p = .inr pl →
    ∃ t x, Runs (.tkbAdmit rq ctx) s t ∧ getCtx t pl.ctx = some x ∧ x.kind = .admitted ∧ x.block = b ++ List.replicate 128 0 ∧
      x.adm.tiles = pl.tiles ∧ x.adm.mp = pl.mp ∧ x.adm.grp = pl.grp ∧ x.adm.dAdm = min (Ct.dReq b) (cdiv pl.sum.dCalc 10000 * 10000) ∧
      x.pics = [] ∧ t.booth.admMw = s.booth.admMw + pl.mw ∧
      t.booth.seq = s.booth.seq + 1 ∧ t.booth.lastResult = 0 ∧ t.booth.lastFail = 0 ∧
      (hdr t tkbPg).evtPend.getLsbD 0 = true ∧ (∀ c, c ≠ pl.ctx → getCtx t c = getCtx s c)) ∧
  (∀ s rq ctx b p fail short d, Accepts s rq tkbPg 0x100 → s.booth.busy = false →
    memRead s 0 (reqAddr s) 128 = (b, none, false) → validate s 0 b = .inr p →
    checks s (ctx % 2048) 0 b p = .inl (fail, short, d) →
    ∃ t, Runs (.tkbAdmit rq ctx) s t ∧ t.booth.lastResult = 1 ∧ t.booth.lastFail = fail % 256 ∧ t.booth.seq = s.booth.seq + 1 ∧
      t.hostMem = (memWrite s 0 (rget64 s tkbPg 0 0x110) (padTo 64 (refusedReply fail short d)) false).hostMem ∧
      t.booth.admMw = s.booth.admMw ∧ rgetN t tkbPg 0 0x124 = min 0xFFFFFFFF (rgetN s tkbPg 0 0x124 + 1) ∧
      (hdr t tkbPg).evtPend = (hdr s tkbPg).evtPend ||| 1 ∧
      t = { s with hostMem := t.hostMem, hostPoison := t.hostPoison, regs := t.regs, booth := t.booth, hdrs := t.hdrs, crier := t.crier, emitted := t.emitted, msix := t.msix }) ∧
  (∀ s rq ctx b off, Accepts s rq tkbPg 0x100 → s.booth.busy = false → memRead s 0 (reqAddr s) 128 = (b, none, false) →
    validate s 0 b = .inl off →
    ∃ t, Runs (.tkbAdmit rq ctx) s t ∧ t.booth.lastResult = 2 ∧ t.booth.lastFail = 0 ∧ t.booth.seq = s.booth.seq + 1 ∧
      t.hostMem = (memWrite s 0 (rget64 s tkbPg 0 0x110) (padTo 64 ([2, 0] ++ toLE 2 off)) false).hostMem ∧
      (hdr t tkbPg).evtPend = (hdr s tkbPg).evtPend ||| 1 ∧
      t = { s with hostMem := t.hostMem, hostPoison := t.hostPoison, booth := t.booth, hdrs := t.hdrs, crier := t.crier, emitted := t.emitted, msix := t.msix }) ∧
  (∀ s rq ctx, Accepts s rq tkbPg 0x100 → s.booth.busy = false →
    (memRead s 0 (reqAddr s) 128).2.1.isSome = true ∨ (memRead s 0 (reqAddr s) 128).2.2 = true →
    ∃ t, Runs (.tkbAdmit rq ctx) s t ∧ t.booth.lastResult = 2 ∧ t.booth.lastFail = 0 ∧ t.booth.seq = s.booth.seq + 1 ∧
      (hdr t tkbPg).evtPend = (hdr s tkbPg).evtPend ||| 1 ∧
      t = { s with hostMem := t.hostMem, hostPoison := t.hostPoison, booth := t.booth, hdrs := t.hdrs, crier := t.crier
                   emitted := t.emitted, msix := t.msix }) ∧
  (∀ s rq ctx, Accepts s rq tkbPg 0x100 → s.booth.busy = true → ∃ t, Runs (.tkbAdmit rq ctx) s t ∧
    (hdr t tkbPg).evtPend = (hdr s tkbPg).evtPend ||| 2 ∧ t = { s with hdrs := t.hdrs, crier := t.crier, emitted := t.emitted, msix := t.msix })

/-- An accepted RELEASE of an admitted sensor-fed context whose frame is open answers RESULT 0 and marks the context to stop when that frame closes; with no frame open the boundary is passed at once; a context that is not admitted answers INVALID and no context changes (R34). An accepted RELIST whose list block is valid and lengthens no admitted stream's closed time nor shortens its open time makes the list pending with its start instant and answers 0; one that would is REFUSED with FAIL_RES 0x0B and no Carousel list changes (R46, R47). -/
def Obligations.BoothReleaseRelist : Prop :=
  (∀ s rq c x, Accepts s rq tkbPg 0x100 → s.booth.busy = false → getCtx s (c % 2048) = some x → x.kind = .admitted → x.rel = 0 →
    x.frame.isSome = true →
    ∃ t, Runs (.release rq c) s t ∧ t.ctxs = nset s.ctxs (c % 2048) { x with rel := 1 } ∧ t.booth.lastResult = 0 ∧
      t.booth.seq = s.booth.seq + 1 ∧
      t = { s with hostMem := t.hostMem, hostPoison := t.hostPoison, ctxs := t.ctxs, booth := t.booth, hdrs := t.hdrs, crier := t.crier, emitted := t.emitted, msix := t.msix }) ∧
  (∀ s rq c x, Accepts s rq tkbPg 0x100 → s.booth.busy = false → getCtx s (c % 2048) = some x → x.kind = .admitted → x.rel = 0 →
    x.frame = none → x.encQ = [] → x.pics ≠ [] →
    ∃ t, Runs (.release rq c) s t ∧ t.ctxs = nset s.ctxs (c % 2048) { x with rel := 2 } ∧ t.booth.lastResult = 0) ∧
  (∀ s rq c, Accepts s rq tkbPg 0x100 → s.booth.busy = false → (∀ x, getCtx s (c % 2048) = some x → x.kind ≠ .admitted) →
    ∃ t, Runs (.release rq c) s t ∧ t.ctxs = s.ctxs ∧ t.booth.lastResult = 2 ∧ t.booth.seq = s.booth.seq + 1) ∧
  (∀ s rq h e l, Accepts s rq tkbPg 0x100 → s.booth.busy = false → memRead s 0 (reqAddr s) 32 = (h, none, false) →
    listBad h = none → memRead s 0 (reqAddr s + 32) (4 * min 256 (leAt h 2 2)) = (e, none, false) → l = byteAt h 0 →
    (∀ x ∈ s.ctxs, x.2.kind = .admitted → listLoss s l (blockList (h ++ e)) x.2 = (0, 0)) →
    ∃ t, Runs (.relist rq) s t ∧ t.booth.lastResult = 0 ∧ t.ctxs = s.ctxs ∧
      (getCar t l).pend = some ⟨blockList (h ++ e), (hdr s (carPage (l / 4))).commitGen,
        (carStart s.dt (blockList (h ++ e)).base (blockList (h ++ e)).cycle).1⟩ ∧
      (getCar t l).oper = (getCar s l).oper ∧ ∀ m, m ≠ l → getCar t m = getCar s m) ∧
  (∀ s rq h e l x, Accepts s rq tkbPg 0x100 → s.booth.busy = false → memRead s 0 (reqAddr s) 32 = (h, none, false) →
    listBad h = none → memRead s 0 (reqAddr s + 32) (4 * min 256 (leAt h 2 2)) = (e, none, false) → l = byteAt h 0 →
    x ∈ s.ctxs → x.2.kind = .admitted → listLoss s l (blockList (h ++ e)) x.2 ≠ (0, 0) →
    ∃ t, Runs (.relist rq) s t ∧ t.booth.lastResult = 1 ∧ t.booth.lastFail = 0x0B ∧ t.cars = s.cars ∧ t.ctxs = s.ctxs)

/-- At or after its start instant a pending list becomes the operative one, entry CUR is the one of the present position, and COMMIT_GEN of its page takes the generation; before the instant the list does not start (R44). CAR_ENTRY_END moves CUR to the entry at the present device time (R43). Both leave the other lists alone, and a list with none pending does not start. After either command the snapshots that wait for a cycle of this list and whose cycle has begun are applied, and no others (R68: when the list's cycle begins); a picture whose last unit such a commit discards is completed, and where no unit is discarded nothing else follows (R318). A COMMIT starts a list at its base when that lies 10 us or more ahead, else at the first whole cycle from the base that does (R44). -/
def Obligations.CarouselLists : Prop :=
  (∀ s l p, alive s = true → l < 25 → (getCar s l).pend = some p → p.start ≤ s.dt →
    ∃ t, Runs (.carListStart l) s (finishGone s (cycleSnaps l t)) ∧ t = { s with cars := t.cars, hdrs := t.hdrs } ∧
      getCar t l = { getCar s l with oper := p.list, pend := none, start := p.start, cur := carAt p.list s.dt } ∧
      (∀ m, m ≠ l → getCar t m = getCar s m) ∧
      hdr t (carPage (l / 4)) = { hdr s (carPage (l / 4)) with commitGen := p.gen } ∧
      ∀ q, q ≠ carPage (l / 4) → hdr t q = hdr s q) ∧
  (∀ s l p, alive s = true → l < 25 → (getCar s l).pend = some p → s.dt < p.start → Runs (.carListStart l) s (finishGone s (cycleSnaps l s))) ∧
  (∀ s l, alive s = true → l < 25 → (getCar s l).pend = none → Runs (.carListStart l) s (finishGone s (cycleSnaps l s))) ∧
  (∀ s l, alive s = true → l < 25 → ∃ t, Runs (.carEntryEnd l) s (finishGone s (cycleSnaps l t)) ∧ t = { s with cars := t.cars } ∧
    getCar t l = { getCar s l with cur := carAt (getCar s l).oper s.dt } ∧ ∀ m, m ≠ l → getCar t m = getCar s m) ∧
  (∀ s l, (∀ n ∈ s.snaps, snapPort s n = some l → cycleSince s l n = false) → cycleSnaps l s = s) ∧
  (∀ s l n, s.snaps = [n] → snapPort s n = some l → cycleSince s l n = true → cycleSnaps l s = snapApply s n) ∧
  (∀ s t, t.flows = s.flows → finishGone s t = t) ∧
  (∀ now base cycle : Nat, 0 < cycle →
    now + nsT 10000 ≤ (carStart now base cycle).1 ∧
    ((carStart now base cycle).2 = false ↔ now + nsT 10000 ≤ base) ∧
    (now + nsT 10000 ≤ base → (carStart now base cycle).1 = base) ∧
    (base < now + nsT 10000 → ∃ k, (carStart now base cycle).1 = base + k * nsT cycle ∧
      (carStart now base cycle).1 < now + nsT 10000 + nsT cycle))

/-- A request is cut into pieces that each lie in one 256-byte block (R231). With the ingress empty, its first piece enters the tail of its pseudo-channel's queue when it may pass, and waits at the ingress with the others when it may not; of those that wait, the one that the arbiter grants enters, and a grant decided by a wait limit is counted (R234, R237, R337). In an access period that is not the spare one, outside L24 windows, with no replay pending and time before the next window, the head of the queue issues: a read samples its bytes, a whole-block write stores them, a partial write stores its enabled bytes, reads its block and takes two periods (R233, R235); with nothing queued the period passes idle. A read that completes without error delivers its bytes unpoisoned; an uncorrectable one with no replay debt and no replay pending is queued to be read again and delivers nothing yet; one that was read again already, or meets a debt or a pending replay, is delivered poisoned and its block is marked (R240, R241, R243). A write acknowledgement retires the oldest write. -/
def Obligations.HbmRequests : Prop :=
  (∀ r, ∀ p ∈ cutReq (r.len + 1) r, p.addr % 256 + p.len ≤ 256 ∧ p.ctx = r.ctx ∧ p.wr = r.wr) ∧
  (∀ s r p q, alive s = true → s.ingress = [] → cutReq (r.len + 1) r = p :: q → mayPass s p = true →
    ∃ t, Runs (.hbmIngressPass (some r)) s t ∧ t.ingress = q ∧
      getPc t (reqPc s p) = { getPc s (reqPc s p) with queue := (getPc s (reqPc s p)).queue ++ [p] } ∧
      (∀ c, c ≠ reqPc s p → getPc t c = getPc s c) ∧
      t = { s with ingress := t.ingress, pcs := t.pcs, hbmWait := t.hbmWait, hbmGrant := t.hbmGrant, regs := t.regs }) ∧
  (∀ s r p q, alive s = true → s.ingress = [] → cutReq (r.len + 1) r = p :: q → mayPass s p = false →
    ∃ t, Runs (.hbmIngressPass (some r)) s t ∧ t = { s with ingress := p :: q, hbmWait := t.hbmWait }) ∧
  (∀ s e lim, alive s = true → ingGrant s = some (e, lim) →
    ∃ t, Runs (.hbmIngressPass none) s t ∧ t.ingress = s.ingress.eraseIdx e.1 ∧
      getPc t (reqPc s e.2) = { getPc s (reqPc s e.2) with queue := (getPc s (reqPc s e.2)).queue ++ [e.2] } ∧
      rgetN t tkbPg 0 0x264 = (if lim then min 0xFFFFFFFF (rgetN s tkbPg 0 0x264 + 1) else rgetN s tkbPg 0 0x264)) ∧
  (∀ s pc r q l, alive s = true → pc < 64 → blockUp s (pcPage pc) = true → pcRuns s pc = true → (getPc s pc).period < 31 →
    l24Stalls s pc = false → (getPc s pc).replays = [] → (getPc s pc).debtBad = false → (getPc s pc).queue = r :: q →
    r.wr = false → beforeL24 s s.dt 1 = true → hbmLoc s r.addr = some l →
    ∃ t, Runs (.hbmAccess pc) s t ∧ t.hbm = s.hbm ∧ t.hbmPoison = s.hbmPoison ∧ t.ctxs = s.ctxs ∧
      getPc t pc = { getPc s pc with
        period := (getPc s pc).period + 1, queue := q, last := some (some r)
        reads := (getPc s pc).reads ++ [{ req := r, data := (hbmRead s r.addr r.len).1 }] }) ∧
  (∀ s pc r q l, alive s = true → pc < 64 → blockUp s (pcPage pc) = true → pcRuns s pc = true → (getPc s pc).period < 31 →
    l24Stalls s pc = false → (getPc s pc).replays = [] → (getPc s pc).debtBad = false → (getPc s pc).queue = r :: q →
    r.wr = true → r.len = 256 → r.data.length = 256 → reqOn r = 256 → beforeL24 s s.dt 1 = true → hbmLoc s r.addr = some l →
    ∃ t, Runs (.hbmAccess pc) s t ∧ t.hbm = (hbmWriteB s r.addr r.data false).hbm ∧ t.ctxs = s.ctxs ∧
      getPc t pc = { getPc s pc with
        period := (getPc s pc).period + 1, queue := q, last := some (some r), writes := (getPc s pc).writes ++ [r]
        reads := (getPc s pc).reads.map fun d => if reqBlock s d.req = reqBlock s r then { d with gone := true } else d }) ∧
  (∀ s pc r q l, alive s = true → pc < 64 → blockUp s (pcPage pc) = true → pcRuns s pc = true → (getPc s pc).period + 2 ≤ 31 →
    l24Stalls s pc = false → (getPc s pc).replays = [] → (getPc s pc).debtBad = false → (getPc s pc).queue = r :: q →
    r.wr = true → reqOn r < 256 → beforeL24 s s.dt 2 = true → hbmLoc s r.addr = some l →
    ∃ t, Runs (.hbmAccess pc) s t ∧ t.hbm = (storeReq s r).hbm ∧ t.ctxs = s.ctxs ∧
      getPc t pc = { getPc s pc with
        period := (getPc s pc).period + 2, queue := q, last := some (some r), reads := (getPc s pc).reads ++ [{ req := r }] }) ∧
  (∀ s pc, alive s = true → pc < 64 → blockUp s (pcPage pc) = true → pcRuns s pc = true → (getPc s pc).period < 31 →
    l24Stalls s pc = false → (getPc s pc).replays = [] → (getPc s pc).queue = [] →
    Runs (.hbmAccess pc) s (setPc s pc { getPc s pc with period := (getPc s pc).period + 1, last := none })) ∧
  (∀ s pc d q, alive s = true → pc < 64 → blockUp s (pcPage pc) = true → (getPc s pc).reads = d :: q → d.req.wr = false →
    s.hbmPoison.contains (reqBlock s d.req) = false →
    Runs (.hbmReadComplete pc 0 false false) s
      { setPc s pc { getPc s pc with reads := q } with hbmOut := { data := d.data, poison := false } }) ∧
  (∀ s pc d q b, alive s = true → pc < 64 → blockUp s (pcPage pc) = true → (getPc s pc).reads = d :: q → d.again = false →
    (getPc s pc).debt = 0 → (getPc s pc).replays = [] →
    ∃ t, Runs (.hbmReadComplete pc 0 true b) s t ∧ t.hbmOut = s.hbmOut ∧ t.hbmPoison = s.hbmPoison ∧
      getPc t pc = { getPc s pc with reads := q, replays := [⟨false, some d.req, some d⟩] }) ∧
  (∀ s pc d q, alive s = true → pc < 64 → blockUp s (pcPage pc) = true → (getPc s pc).reads = d :: q → d.req.wr = false →
    d.gone = false → s.hbmPoison.contains (reqBlock s d.req) = false →
    d.again = true ∨ (getPc s pc).debt ≠ 0 ∨ (getPc s pc).replays ≠ [] →
    ∃ t, Runs (.hbmReadComplete pc 0 true true) s t ∧ t.hbmOut = { data := d.data, poison := true } ∧
      t.hbmPoison = s.hbmPoison ++ [reqBlock s d.req]) ∧
  (∀ s pc r q, alive s = true → pc < 64 → blockUp s (pcPage pc) = true → (getPc s pc).writes = r :: q →
    Runs (.hbmWriteAck pc) s (setPc s pc { getPc s pc with writes := q }))

/-- A spare period with no replay pending and the scrub off ends the run of 32 periods and lowers the replay debt by one (R236, R243). A parity alert outside an L24 window takes the command of the present access period back and puts it at the head of the replays, with FLT_SRC bit 2 of the controller set; inside a window it sets the bit and leaves the queues; with no command in the period it does nothing (R242, R244). An L24 window moves CUR of list L24 to its present entry, lets accesses issue again after a wake, and applies what was committed on the memory pages (R68, R238). A converged retraining clears the failure count; a failed one counts in HBM_TRAIN_FAIL of both stacks' pages, and the third in a row fails the pseudo-channel (R239). A Commons scrub period moves the scrub position; a word of the scrubbed row found uncorrectable, now or before, is marked and counted (R249). -/
def Obligations.HbmUpkeep : Prop :=
  (∀ s pc c u, alive s = true → pc < 64 → blockUp s (pcPage pc) = true → pcRuns s pc = true → 31 ≤ (getPc s pc).period →
    l24Stalls s pc = false → (getPc s pc).replays = [] → rbits s (phyPage 0) 0 0x114 0 0 = 0 →
    ∃ t, Runs (.hbmSparePeriod pc c u) s t ∧ t.hbm = s.hbm ∧ t.hbmPoison = s.hbmPoison ∧
      getPc t pc = { getPc s pc with
        period := 0, last := none, debt := (getPc s pc).debt - 1, debtBad := (getPc s pc).debtBad && decide (1 < (getPc s pc).debt) }) ∧
  (∀ s pc r, alive s = true → pc < 64 → blockUp s (pcPage pc) = true → l24Stalls s pc = false → (getPc s pc).last = some (some r) →
    ∃ t, Runs (.hbmParityAlert pc) s t ∧
      getPc t pc = { unissue (getPc s pc) r with last := none, replays := ⟨true, some r, none⟩ :: (getPc s pc).replays } ∧
      (hdr t (pcPage pc)).fltSrc.getLsbD 2 = true ∧ t.hbm = s.hbm) ∧
  (∀ s pc, alive s = true → pc < 64 → blockUp s (pcPage pc) = true → l24Stalls s pc = true →
    ∃ t, Runs (.hbmParityAlert pc) s t ∧ getPc t pc = getPc s pc ∧ (hdr t (pcPage pc)).fltSrc.getLsbD 2 = true ∧ t.hbm = s.hbm) ∧
  (∀ s pc, alive s = true → pc < 64 → l24Stalls s pc = false → (getPc s pc).last = none → Runs (.hbmParityAlert pc) s s) ∧
  (∀ s, alive s = true → s.snaps = [] → Runs .l24Window s
    { setCar s 24 { getCar s 24 with cur := carAt (getCar s 24).oper s.dt } with hbmHold := false }) ∧
  (∀ s n i, alive s = true → s.snaps = [n] → pageAt n.page = some (.hbm, i) → Runs .l24Window s
    (snapApply { setCar s 24 { getCar s 24 with cur := carAt (getCar s 24).oper s.dt } with hbmHold := false } n)) ∧
  (∀ s pc, alive s = true → pc < 64 → Runs (.retrainingPauseEnd pc true) s (setPc s pc { getPc s pc with trainFails := 0 })) ∧
  (∀ s pc, alive s = true → pc < 64 →
    ∃ t, Runs (.retrainingPauseEnd pc false) s t ∧
      getPc t pc = { getPc s pc with
        trainFails := (getPc s pc).trainFails + 1, failed := (getPc s pc).failed || decide (2 ≤ (getPc s pc).trainFails) } ∧
      ∀ k, k < 2 → rgetN t (phyPage k) 0 0x11C = min 0xFFFFFFFF (rgetN s (phyPage k) 0 0x11C + 1)) ∧
  (∀ s, alive s = true → (s.comPoison.filter fun a => comRow a == s.comScrub) = [] → ∃ t, Runs (.commonsScrub []) s t ∧
    t = { s with arbs := t.arbs, comScrub := (s.comScrub + 1) % 16384 }) ∧
  (∀ s a, alive s = true → comRow a = s.comScrub → (∀ b ∈ s.comPoison, comRow b = s.comScrub → b = a) →
    ∃ t, Runs (.commonsScrub [⟨a, true⟩]) s t ∧ a ∈ t.comPoison ∧
    t.comScrub = (s.comScrub + 1) % 16384 ∧ rgetN t fifoPg 0 0x184 = min 0xFFFFFFFF (rgetN s fifoPg 0 0x184 + 1)) ∧
  (∀ s a, alive s = true → s.comPoison = [a] → comRow a = s.comScrub → ∃ t, Runs (.commonsScrub []) s t ∧ t.comPoison = [a] ∧
    rgetN t fifoPg 0 0x184 = min 0xFFFFFFFF (rgetN s fifoPg 0 0x184 + 1))

/-- An accepted word write of an enabled instance with room with no committed configuration of it waiting for a packet boundary stores the word at W and advances W by one modulo 2^(n+1) (R265, R266, R268); with no room the producer stalls and nothing is written. A read of a readable word answers it and advances Rd; a release advances Rel by at most the words read; MARK takes Rd as the mark; REWIND returns Rd to the mark and Rel only when the mark lies at or behind it; UNMARK clears the mark (R267). A stall that the mark has held longer than FIFO_STALL_LIM is reported once (R268). No other instance changes. -/
def Obligations.FifoPointers : Prop :=
  (∀ s f w, alive s = true → f < 256 → fifoOn s f = true → blockUp s fifoPg = true → fifoRoom (fifoLog s f) (getFifo s f) ≠ 0 →
    (s.snaps.filter fun n => n.page == fifoPg && n.bank == f) = [] →
    ∃ t, Runs (.fifoWrite f w) s t ∧ (getFifo t f).w = ((getFifo s f).w + 1) % 2 ^ (fifoLog s f + 1) ∧
      (getFifo t f).rd = (getFifo s f).rd ∧ (getFifo t f).rel = (getFifo s f).rel ∧ (getFifo t f).marked = (getFifo s f).marked ∧
      t.commons = (comPut s (fifoAddr s f (getFifo s f).w) w).commons ∧
      (∀ g, g ≠ f → getFifo t g = getFifo s g) ∧
      t = { s with fifos := t.fifos, commons := t.commons, comPoison := t.comPoison, regs := t.regs, arbs := t.arbs }) ∧
  (∀ s f w, alive s = true → f < 256 → fifoOn s f = true → blockUp s fifoPg = true → fifoRoom (fifoLog s f) (getFifo s f) = 0 →
    (getFifo s f).stalled = false →
    Runs (.fifoWrite f w) s (setFifo s f { getFifo s f with stalled := true, stallAt := s.tick, need := 1, stallTold := false })) ∧
  (∀ s f, alive s = true → f < 256 → blockUp s fifoPg = true → fifoReadable s f = true →
    s.comPoison.contains (fifoAddr s f (getFifo s f).rd) = false →
    ∃ t, Runs (.fifoRead f 0) s t ∧ t.out = (comGet s (fifoAddr s f (getFifo s f).rd)).toNat ∧
      (getFifo t f).rd = ((getFifo s f).rd + 1) % 2 ^ (fifoLog s f + 1) ∧ (getFifo t f).w = (getFifo s f).w ∧
      (getFifo t f).rel = (getFifo s f).rel ∧ t.commons = s.commons ∧ (∀ g, g ≠ f → getFifo t g = getFifo s g) ∧
      t = { s with fifos := t.fifos, out := t.out, regs := t.regs, arbs := t.arbs }) ∧
  (∀ s f k, alive s = true → f < 256 → fifoOn s f = true →
    ∃ t, Runs (.fifoRelease f k) s t ∧
      (getFifo t f).rel = ((getFifo s f).rel + min k (ringDist (fifoLog s f) (getFifo s f).rel (getFifo s f).rd)) % 2 ^ (fifoLog s f + 1) ∧
      (getFifo t f).w = (getFifo s f).w ∧ (getFifo t f).rd = (getFifo s f).rd ∧
      (∀ g, g ≠ f → getFifo t g = getFifo s g) ∧ t = { s with fifos := t.fifos, regs := t.regs }) ∧
  (∀ s f, alive s = true → f < 256 → fifoOn s f = true →
    ∃ t, Runs (.fifoMark f) s t ∧ (getFifo t f).m = (getFifo s f).rd ∧ (getFifo t f).marked = true ∧
      (getFifo t f).w = (getFifo s f).w ∧ (getFifo t f).rd = (getFifo s f).rd ∧ (getFifo t f).rel = (getFifo s f).rel ∧
      (∀ g, g ≠ f → getFifo t g = getFifo s g) ∧ t = { s with fifos := t.fifos, regs := t.regs }) ∧
  (∀ s f, alive s = true → f < 256 → fifoOn s f = true → (getFifo s f).marked = true →
    ∃ t, Runs (.fifoRewind f) s t ∧ (getFifo t f).rd = (getFifo s f).m ∧
      (getFifo t f).rel = (if fifoHeld (fifoLog s f) (getFifo s f) then (getFifo s f).m else (getFifo s f).rel) ∧
      (getFifo t f).w = (getFifo s f).w ∧
      (∀ g, g ≠ f → getFifo t g = getFifo s g) ∧ t = { s with fifos := t.fifos, regs := t.regs }) ∧
  (∀ s f, alive s = true → f < 256 → fifoOn s f = true →
    ∃ t, Runs (.fifoUnmark f) s t ∧ (getFifo t f).marked = false ∧ (getFifo t f).rd = (getFifo s f).rd ∧
      (getFifo t f).rel = (getFifo s f).rel ∧ (getFifo t f).w = (getFifo s f).w ∧
      (∀ g, g ≠ f → getFifo t g = getFifo s g) ∧ t = { s with fifos := t.fifos, regs := t.regs }) ∧
  (∀ s f, alive s = true → f < 256 → (getFifo s f).stalled = true → fifoRoom (fifoLog s f) (getFifo s f) < (getFifo s f).need → fifoHeld (fifoLog s f) (getFifo s f) = true →
    (getFifo s f).stallTold = false → rbits s fifoPg f 0x210 23 0 < (s.tick - (getFifo s f).stallAt) * 16 →
    ∃ t, Runs (.fifoMarkStall f) s t ∧ getFifo t f = { getFifo s f with stallTold := true } ∧ (∀ g, g ≠ f → getFifo t g = getFifo s g) ∧
      rgetN t fifoPg f 0x234 = min 0xFFFFFFFF (rgetN s fifoPg f 0x234 + 1) ∧ (hdr t fifoPg).fltSrc.getLsbD 0 = true)

/-- For pointers of s index bits with a wrap bit above them, the distance from a to b is (b - a) modulo 2^(s+1); equal index and equal wrap bit are equal pointers at distance 0; equal index with differing wrap bit is distance 2^s. For the work queues an index value is valid when bits 15 to s are 0, its position is its bit 16 times 2^s plus its low s bits, and the index value of a position is valid and has that position. -/
def Obligations.RingDistance : Prop :=
  (∀ s a b, a < 2 ^ (s + 1) → b < 2 ^ (s + 1) → a % 2 ^ s = b % 2 ^ s →
    (a / 2 ^ s = b / 2 ^ s → a = b ∧ ringDist s a b = 0) ∧ (a / 2 ^ s ≠ b / 2 ^ s → ringDist s a b = 2 ^ s)) ∧
  (∀ s v, s ≤ 16 → v < 2 ^ 17 → posOf s v = (if v.testBit 16 then 1 else 0) * 2 ^ s + v % 2 ^ s) ∧
  (∀ s v, s ≤ 16 → v < 2 ^ 17 → (idxValid s v = true ↔ ∀ k, s ≤ k → k < 16 → v.testBit k = false)) ∧
  (∀ s a b, a < 2 ^ (s + 1) → b < 2 ^ (s + 1) → (ringDist s a b : Int) = ((b : Int) - a) % 2 ^ (s + 1)) ∧
  (∀ s p, s ≤ 16 → p < 2 ^ (s + 1) → idxValid s (idxOf s p) = true ∧ posOf s (idxOf s p) = p ∧ idxOf s p < 2 ^ 17)

/-- For a Steward whose previous operation is not waiting: an ALLOC of a ready pool that the owner's minimum or the shared region can serve pops the top buffer, tags it with the owner and answers its address (R257); one that nothing can serve answers EMPTY, or joins the wait list when WAIT is set and it has room (R259). A FREE of an owned buffer with no waiter pushes it and answers 0; a FREE that a check of R260 rejects answers that check's code and leaves the pool, when no waiter is there to test. A CANCEL answers CANCELLED and leaves no waiter of the requester. A RECLAIM with no waiter pushes every buffer of the owner (R261). A minimum within R256 is stored; a larger one, or one of an ID that owns nothing, is counted in GRN_MIN_DENY. A host operation for a context is DENIED and counted (R262). -/
def Obligations.GranaryAlloc : Prop :=
  (∀ s n o p i x, Accepts s (.steward n) grnPg 0x140 → (getRes s (n.val + 1)).waiting = false → blockUp s grnPg = true →
    o.toNat < 0x440 → poolUp (getPool s p) = true → grnDecide (getPool s p) o.toNat = some (i, x) →
    ∀ w, ∃ t, Runs (.alloc (.steward n) o p w) s t ∧ getPool t p = x ∧ (∀ q, q ≠ p → getPool t q = getPool s q) ∧
      (getRes t (n.val + 1)).done = true ∧ (getRes t (n.val + 1)).code = 0 ∧
      (getRes t (n.val + 1)).addr = BitVec.ofNat 64 (poolBase s p + i * poolSize s p)) ∧
  (∀ s n o p, Accepts s (.steward n) grnPg 0x140 → (getRes s (n.val + 1)).waiting = false → blockUp s grnPg = true →
    o.toNat < 0x440 → poolUp (getPool s p) = true → grnDecide (getPool s p) o.toNat = none →
    (∃ t, Runs (.alloc (.steward n) o p false) s t ∧ t.pools = s.pools ∧ (getRes t (n.val + 1)).code = 1 ∧
      (getRes t (n.val + 1)).done = true) ∧
    ((getPool s p).waiters.length < 64 → ∃ t, Runs (.alloc (.steward n) o p true) s t ∧
      getPool t p = { getPool s p with waiters := (getPool s p).waiters ++ [⟨.req (.steward n), o.toNat, s.tick⟩] } ∧
      (getRes t (n.val + 1)).waiting = true ∧ (getRes t (n.val + 1)).done = false)) ∧
  (∀ s n o p a, Accepts s (.steward n) grnPg 0x140 → (getRes s (n.val + 1)).waiting = false → blockUp s grnPg = true →
    o.toNat < 0x440 → freeCheck s p a o.toNat = 0 → (getPool s p).waiters = [] →
    ∃ t, Runs (.free (.steward n) o p a) s t ∧
      getPool t p = pushBack (getPool s p) ((a - poolBase s p) / poolSize s p) ∧ (getRes t (n.val + 1)).code = 0) ∧
  (∀ s n o p a, Accepts s (.steward n) grnPg 0x140 → (getRes s (n.val + 1)).waiting = false → blockUp s grnPg = true →
    o.toNat < 0x440 → freeCheck s p a o.toNat ≠ 0 → (getPool s p).waiters = [] →
    ∃ t, Runs (.free (.steward n) o p a) s t ∧ t.pools = s.pools ∧ (getRes t (n.val + 1)).code = freeCheck s p a o.toNat) ∧
  (∀ s rq, Accepts s rq grnPg 0x140 → (getRes s (rqIx rq)).waiting = true → blockUp s grnPg = true →
    ∃ t, Runs (.cancel rq) s t ∧ (getRes t (rqIx rq)).code = 9 ∧ (getRes t (rqIx rq)).waiting = false ∧
      ∀ e ∈ t.pools, ∀ w ∈ e.2.waiters, w.who ≠ .req rq) ∧
  (∀ s n o p, Accepts s (.steward n) grnPg 0x140 → (getRes s (n.val + 1)).waiting = false → blockUp s grnPg = true →
    o.toNat < 0x440 → poolUp (getPool s p) = true → (getPool s p).waiters = [] →
    ∃ t, Runs (.reclaim (.steward n) o p) s t ∧ getPool t p = reclaimPool (getPool s p) o.toNat ∧
      (getRes t (n.val + 1)).code = 0 ∧ (getRes t (n.val + 1)).nfreed = inUse (getPool s p) o.toNat) ∧
  (∀ s n o p m t, Accepts s (.steward n) grnPg 0x134 → blockUp s grnPg = true → o.toNat < 0x440 →
    setMin s p o.toNat m = some t → Runs (.grnMin (.steward n) o p m) s t) ∧
  (∀ s n o p m, Accepts s (.steward n) grnPg 0x134 → blockUp s grnPg = true → 0x440 ≤ o.toNat ∨ setMin s p o.toNat m = none →
    ∃ t, Runs (.grnMin (.steward n) o p m) s t ∧ t.pools = s.pools ∧
      rgetN t grnPg 0 0x160 = min 0xFFFFFFFF (rgetN s grnPg 0 0x160 + 1)) ∧
  (∀ s o p w, Accepts s .host grnPg 0x140 → (getRes s 0).waiting = false → blockUp s grnPg = true → o.toNat < 0x420 →
    ∃ t, Runs (.alloc .host o p w) s t ∧ t.pools = s.pools ∧ (getRes t 0).code = 7 ∧
      rgetN t grnPg 0 0x15C = min 0xFFFFFFFF (rgetN s grnPg 0 0x15C + 1))

/-- POOL_ENABLE of a disabled pool whose range is free starts it empty of tags, minima and waiters; a bad range is counted and enables nothing (R253, R254). When the fill ends the pool is ready with buffers 0 to COUNT - 1 in order. POOL_DISABLE of a pool with no buffer allocated and no waiter empties it; with one allocated it is counted (R254). A register requester at the head of the wait list that has waited GRN_WAIT_TMO leaves with TIMEOUT (R259). -/
def Obligations.GranaryPools : Prop :=
  (∀ s rq p, Accepts s rq grnPg 0x104 → (getPool s p).enable = false → rangeBad s p = false →
    Runs (.poolEnable rq p) s (setPool s p { enable := true })) ∧
  (∀ s rq p, Accepts s rq grnPg 0x104 → (getPool s p).enable = false → rangeBad s p = true →
    ∃ t, Runs (.poolEnable rq p) s t ∧ t = { s with regs := t.regs } ∧
      rgetN t grnPg 0 0x164 = min 0xFFFFFFFF (rgetN s grnPg 0 0x164 + 1)) ∧
  (∀ s p, alive s = true → (getPool s p).enable = true → (getPool s p).ready = false →
    Runs (.poolReady p) s (setPool s p { getPool s p with ready := true, stack := List.range (poolCount s p) })) ∧
  (∀ s rq p, Accepts s rq grnPg 0x104 → (getPool s p).enable = true → (getPool s p).tags = [] → (getPool s p).waiters = [] →
    Runs (.poolDisable rq p) s (setPool s p {})) ∧
  (∀ s rq p, Accepts s rq grnPg 0x104 → (getPool s p).enable = true → (getPool s p).tags ≠ [] →
    ∃ t, Runs (.poolDisable rq p) s t ∧ t = { s with regs := t.regs } ∧
      rgetN t grnPg 0 0x164 = min 0xFFFFFFFF (rgetN s grnPg 0 0x164 + 1)) ∧
  (∀ s p rq o a rest, alive s = true → (getPool s p).waiters = ⟨.req rq, o, a⟩ :: rest → rbits s grnPg 0 0x120 23 0 ≠ 0 →
    rbits s grnPg 0 0x120 23 0 * 100 ≤ s.tick - a →
    ∃ t, Runs (.grnWaitTimeout p) s t ∧
      (getPool t p).waiters = (rest.filter fun w => w != ⟨.req rq, o, a⟩) ∧
      (getRes t (rqIx rq)).code = 8 ∧ (getRes t (rqIx rq)).waiting = false)

/-- A DMA_TAIL write at most 2^RSIZE entries ahead of HEAD becomes TAIL; one further ahead is counted in DMA_DENY (R271). A fetch of a posted descriptor that is valid and not triggered appends it and the channel runs (R272, R275). With no committed ring waiting for the descriptor's end, a running descriptor that meets no error and no poison ends DONE: its bytes are moved, STATUS, device time and offset are written back, and HEAD and DMA_DONE_SEQ rise by one (R274, R280); a bus error after k bytes of a stream without another error ends it BAD with its class and ERR_OFFSET k with those k bytes moved and FLT_SRC bit 0 set, and the channel goes on (R281); class CONFIRM needs a descriptor that asks for the read-back (R279). A fetch error at HEAD halts the channel and raises its fault source (R281). A timer tick moves the timer one period on (R277). -/
def Obligations.DmaRing : Prop :=
  (∀ s rq ch v, ch < 32 → Accepts s rq (dmaPage ch) 0x10C →
    ringDist (dmaLog s ch) (getDma s ch).head (posOf (dmaLog s ch) v.toNat) ≤ 2 ^ dmaLog s ch →
    ∃ t, Runs (.dmaTail rq ch v) s t ∧ getDma t ch = { getDma s ch with tail := posOf (dmaLog s ch) v.toNat } ∧
      (∀ c, c ≠ ch → getDma t c = getDma s c) ∧ t = { s with dmas := t.dmas, regs := t.regs }) ∧
  (∀ s rq ch v, ch < 32 → Accepts s rq (dmaPage ch) 0x10C →
    2 ^ dmaLog s ch < ringDist (dmaLog s ch) (getDma s ch).head (posOf (dmaLog s ch) v.toNat) →
    ∃ t, Runs (.dmaTail rq ch v) s t ∧ t = { s with regs := t.regs } ∧
      rgetN t (dmaPage ch) 0 0x124 = min 0xFFFFFFFF (rgetN s (dmaPage ch) 0 0x124 + 1)) ∧
  (∀ s ch d, alive s = true → ch < 32 → takesWork s (dmaPage ch) = true → (getDma s ch).st = 0 → (getDma s ch).bound = none →
    (getDma s ch).fetched = [] → (getDma s ch).head ≠ (getDma s ch).tail → (getDma s ch).head < 2 ^ (dmaLog s ch + 1) →
    memRead s (dmaLoc s ch) (descAddr s ch (getDma s ch).head) 64 = (d, none, false) → descOk ch d = true → dTrig d = 0 →
    Runs (.descriptorFetch ch) s
      (setDma s ch { getDma s ch with st := 3, fetched := [⟨(getDma s ch).head, d⟩] })) ∧
  (∀ s ch d, alive s = true → ch < 32 → blockUp s (dmaPage ch) = true → (getDma s ch).st = 3 → (getDma s ch).fetched = [d] →
    (s.snaps.filter fun n => n.page == dmaPage ch && n.bank == 0) = [] →
    moveErr s d.bytes = none → (confirmRead (dmaMove s d.bytes).1 d.bytes).1 = false →
    (srcStream s (dSrc d.bytes)).any (fun b => b.2.1) = false →
    ∃ t, Runs (.descriptorEnd ch) s t ∧ (getDma t ch).head = fifoAdd (dmaLog s ch) (getDma s ch).head 1 ∧
      (getDma t ch).seq = (getDma s ch).seq + 1 ∧ (getDma t ch).st = 0 ∧ (getDma t ch).fetched = [] ∧
      let m := moveBytes s d.bytes (dSrc d.bytes).total
      let a := descAddr s ch d.pos
      let w := writeLoc (writeLoc m (dmaLoc s ch) (a + 0x30) (toLE 8 (nowNs s) ++ toLE 8 0) false) (dmaLoc s ch) a
        (putAt (d.bytes.take 8) 2 [1, 0]) false
      t.hostMem = w.hostMem ∧ t.hbm = w.hbm) ∧
  (∀ s ch d k c, alive s = true → ch < 32 → blockUp s (dmaPage ch) = true → (getDma s ch).st = 3 → (getDma s ch).fetched = [d] →
    (s.snaps.filter fun n => n.page == dmaPage ch && n.bank == 0) = [] → moveErr s d.bytes = none →
    2 ≤ c → c ≤ 6 → (c = 6 → dConfirm d.bytes = true) →
    ∃ t, Runs (.dmaBusErr ch k c) s t ∧ (getDma t ch).head = fifoAdd (dmaLog s ch) (getDma s ch).head 1 ∧
      (getDma t ch).seq = (getDma s ch).seq + 1 ∧ (getDma t ch).st = 0 ∧ (getDma t ch).fetched = [] ∧
      (hdr t (dmaPage ch)).fltSrc.getLsbD 0 = true ∧
      let n := if c = 6 then (dSrc d.bytes).total else min k (dSrc d.bytes).total
      let m := moveBytes s d.bytes n
      let a := descAddr s ch d.pos
      let w := writeLoc (writeLoc m (dmaLoc s ch) (a + 0x30) (toLE 8 (nowNs s) ++ toLE 8 n) false) (dmaLoc s ch) a
        (putAt (d.bytes.take 8) 2 [2, BitVec.ofNat 8 c]) false
      t.hostMem = w.hostMem ∧ t.hbm = w.hbm) ∧
  (∀ s ch, alive s = true → ch < 32 → takesWork s (dmaPage ch) = true → (getDma s ch).st ≠ 5 → (getDma s ch).bound = none →
    (getDma s ch).fetched = [] → (getDma s ch).head ≠ (getDma s ch).tail →
    ∃ t, Runs (.dmaFetchErr ch) s t ∧ (getDma t ch).st = 5 ∧ (getDma t ch).head = (getDma s ch).head ∧
      (hdr t (dmaPage ch)).fltSrc.getLsbD 1 = true) ∧
  (∀ s n v, alive s = true → n < 8 → tmrOn s n = true → blockUp s (dmaPage 0) = true → (ngetD s.timers n {}).next = some v →
    v ≤ s.dt → tmrPeriod s n ≠ 0 →
    ∃ t, Runs (.timerTick n) s t ∧ t.timers = nset s.timers n { ngetD s.timers n {} with next := some (v + tmrPeriod s n) })

/-- START on an idle enabled unit loads VAL with INIT and sets BUSY with POS 0; CONTINUE keeps VAL (R283, R284). A scan whose bytes meet no error ends with VAL over all LEN bytes and POS = LEN; an error reported after n bytes that met none ends with VAL over those n, POS = n, ERR and the class; STOP of a scan without errors ends at the next 32-byte boundary with VAL over the bytes before it. LOAD_INIT sets VAL to INIT. A START or CONTINUE while BUSY is counted in CRC_DENY and changes nothing else. -/
def Obligations.CheckUnits : Prop :=
  (∀ s rq u, u < 8 → Accepts s rq (crcPage u) 0x11C → takesWork s (crcPage u) = true → (getCrc s u).busy = false →
    Runs (.start rq u) s (setCrc s u { val := crcInit s u, pos := 0, busy := true, err := false, cls := 0 })) ∧
  (∀ s rq u, u < 8 → Accepts s rq (crcPage u) 0x11C → takesWork s (crcPage u) = true → (getCrc s u).busy = false →
    Runs (.continue_ rq u) s (setCrc s u { val := (getCrc s u).val, pos := 0, busy := true, err := false, cls := 0 })) ∧
  (∀ s rq u, u < 8 → Accepts s rq (crcPage u) 0x11C → (getCrc s u).busy = true →
    ∃ t, Runs (.start rq u) s t ∧ t = { s with regs := t.regs } ∧
      rgetN t (crcPage u) 0 0x150 = min 0xFFFFFFFF (rgetN s (crcPage u) 0 0x150 + 1) ∧ Runs (.continue_ rq u) s t) ∧
  (∀ s rq u fed, u < 8 → Accepts s rq (crcPage u) 0x11C → (getCrc s u).busy = true →
    (∀ b ∈ rdBytes s (rbits s (crcPage u) 0 0x118 17 16) (rget64 s (crcPage u) 0 0x120) (min ((fed + 31) / 32 * 32) (crcLen s u)), b.2.1 = false ∧ b.2.2 = none) →
    Runs (.stop rq u fed) s (setCrc s u { getCrc s u with
      val := BitVec.ofNat 64 (crcOver s u (min ((fed + 31) / 32 * 32) (crcLen s u)))
      pos := min ((fed + 31) / 32 * 32) (crcLen s u), busy := false })) ∧
  (∀ s rq u, u < 8 → Accepts s rq (crcPage u) 0x11C → (getCrc s u).busy = false →
    Runs (.loadInit rq u) s (setCrc s u { getCrc s u with val := crcInit s u })) ∧
  (∀ s u, alive s = true → u < 8 → (getCrc s u).busy = true → blockUp s (crcPage u) = true →
    (∀ b ∈ rdBytes s (rbits s (crcPage u) 0 0x118 17 16) (rget64 s (crcPage u) 0 0x120) (crcLen s u), b.2.1 = false ∧ b.2.2 = none) →
    ∃ t, Runs (.scanDone u) s t ∧
      getCrc t u = { getCrc s u with val := BitVec.ofNat 64 (crcOver s u (crcLen s u)), pos := crcLen s u, busy := false } ∧
      (hdr t (crcPage u)).evtPend.getLsbD 0 = true ∧ t = { s with crcs := t.crcs, hdrs := t.hdrs, crier := t.crier, emitted := t.emitted, msix := t.msix }) ∧
  (∀ s u fed c, alive s = true → u < 8 → (getCrc s u).busy = true → blockUp s (crcPage u) = true → 2 ≤ c → c ≤ 8 →
    (∀ b ∈ rdBytes s (rbits s (crcPage u) 0 0x118 17 16) (rget64 s (crcPage u) 0 0x120) (min fed (crcLen s u)), b.2.1 = false ∧ b.2.2 = none) →
    ∃ t, Runs (.scanErr u fed c) s t ∧ (hdr t (crcPage u)).fltSrc.getLsbD 0 = true ∧
      getCrc t u = { val := BitVec.ofNat 64 (crcOver s u (min fed (crcLen s u))), pos := min fed (crcLen s u), busy := false, err := true, cls := c })

/-- Over the bytes "123456789" the parameter model of R283 gives 0xE306_9283 for CRC-32C, 0xCBF4_3926 for CRC-32/ISO-HDLC, 0x29B1 for CRC-16/IBM-3740 and 0x995D_C9BB_DF19_39FA for CRC-64/XZ, and the running value of CRC-32C is 0x3EB6_9F38 (R284). -/
def Obligations.CheckValues : Prop :=
  let m : List Byte := [0x31, 0x32, 0x33, 0x34, 0x35, 0x36, 0x37, 0x38, 0x39]
  crcResult 32 0xFFFFFFFF true (crcFeed 32 0x1EDC6F41 true 0xFFFFFFFF m) = 0xE3069283 ∧
  crcFeed 32 0x1EDC6F41 true 0xFFFFFFFF m = 0x3EB69F38 ∧
  crcResult 32 0xFFFFFFFF true (crcFeed 32 0x04C11DB7 true 0xFFFFFFFF m) = 0xCBF43926 ∧
  crcResult 16 0 false (crcFeed 16 0x1021 false 0xFFFF m) = 0x29B1 ∧
  crcResult 64 (2 ^ 64 - 1) true (crcFeed 64 0x42F0E1EBA9EA3693 true (2 ^ 64 - 1) m) = 0x995DC9BBDF1939FA ∧
  crc32c m = 0xE3069283 ∧ crc64 m = 0x995DC9BBDF1939FA

/-- On an enabled queue of a running device, SQ_DB with a valid value no further than 2^m from SQ_REL and not behind SQ_TAIL becomes SQ_TAIL (R289); CR_DONE with a valid value no further than CR_HEAD becomes CR_DONE (R290), when nothing is staged with no other change. Any other value is counted in QM_DB_DENY with DB_BAD set and the queue stands. A doorbell of a disabled queue is counted in QM_DB_DENY (R291), one with some byte enables missing in TOP_BAD_SIZE (R54, R291), one in the fault state in FLT_DENY (R448). -/
def Obligations.QueueDoorbells : Prop :=
  (∀ s q v, busUp s = true → s.boot.st = 7 → s.pwr.st ≠ 2 → s.flt.fault = false → (hdr s qmgrPg).inReset = false →
    (getQ s q).enable = true → idxValid (getQ s q).m v.toNat = true →
    ringDist (getQ s q).m (getQ s q).rel (posOf (getQ s q).m v.toNat) ≤ 2 ^ (getQ s q).m →
    ringDist (getQ s q).m (getQ s q).rel (getQ s q).tail ≤ ringDist (getQ s q).m (getQ s q).rel (posOf (getQ s q).m v.toNat) →
    Runs (.sqDb q 15 v) s (setQ s q { getQ s q with tail := posOf (getQ s q).m v.toNat })) ∧
  (∀ s q v, busUp s = true → s.boot.st = 7 → s.pwr.st ≠ 2 → s.flt.fault = false → (hdr s qmgrPg).inReset = false →
    (getQ s q).enable = true →
    ¬ (idxValid (getQ s q).m v.toNat = true ∧
       ringDist (getQ s q).m (getQ s q).rel (posOf (getQ s q).m v.toNat) ≤ 2 ^ (getQ s q).m ∧
       ringDist (getQ s q).m (getQ s q).rel (getQ s q).tail ≤ ringDist (getQ s q).m (getQ s q).rel (posOf (getQ s q).m v.toNat)) →
    ∃ t, Runs (.sqDb q 15 v) s t ∧ rgetN t qmgrPg q 0x24C = min 0xFFFFFFFF (rgetN s qmgrPg q 0x24C + 1) ∧
      (hdr t qmgrPg).evtPend.getLsbD 2 = true ∧
      t = { s with regs := t.regs, hdrs := t.hdrs, crier := t.crier, emitted := t.emitted, msix := t.msix }) ∧
  (∀ s q v, busUp s = true → s.boot.st = 7 → s.pwr.st ≠ 2 → s.flt.fault = false → (hdr s qmgrPg).inReset = false →
    (getQ s q).enable = true → idxValid (getQ s q).n v.toNat = true →
    ringDist (getQ s q).n (getQ s q).done (posOf (getQ s q).n v.toNat) ≤ ringDist (getQ s q).n (getQ s q).done (getQ s q).head →
    (∀ c ∈ (getQ s q).slots, c.st ≠ 2) →
    Runs (.crDone q 15 v) s (setQ s q { getQ s q with done := posOf (getQ s q).n v.toNat, stalled := false })) ∧
  (∀ s q v, busUp s = true → s.boot.st = 7 → s.pwr.st ≠ 2 → s.flt.fault = false → (hdr s qmgrPg).inReset = false →
    (getQ s q).enable = false →
    ∃ t, Runs (.sqDb q 15 v) s t ∧ Runs (.crDone q 15 v) s t ∧ t = { s with regs := t.regs } ∧
      rgetN t qmgrPg q 0x24C = min 0xFFFFFFFF (rgetN s qmgrPg q 0x24C + 1)) ∧
  (∀ s q be v, busUp s = true → s.boot.st = 7 → s.pwr.st ≠ 2 → s.flt.fault = false → be ≠ 0 → be ≠ 15 →
    ∃ t, Runs (.sqDb q be v) s t ∧ t = { s with regs := t.regs } ∧
      rgetN t topPg 0 0x104 = min 0xFFFFFFFF (rgetN s topPg 0 0x104 + 1)) ∧
  (∀ s q be v, busUp s = true → s.boot.st = 7 → s.pwr.st ≠ 2 → s.flt.fault = true → be ≠ 0 →
    ∃ t, Runs (.crDone q be v) s t ∧ t = { s with regs := t.regs } ∧
      rgetN t fltPg 0 0x138 = min 0xFFFFFFFF (rgetN s fltPg 0 0x138 + 1))

/-- With no committed configuration of the queue waiting, a permitted fetch reads the entry at SQ_FETCH into the cache and advances SQ_FETCH (R295, R296); a fetch that meets an error caches no bytes and raises its fault source. SQ_INVAL of a valid count while none runs drops the cached entries from the first live one on and goes on until INVAL_DONE reports it (R297); an invalid count is counted. An ENCODE entry of a host-fed stream whose input may not begin waits in the submission queue (R188). Starting the next entry of a bound GUARANTEED queue advances SQ_NEXT and gives the entry the queue's last completion slot; a valid one joins the started entries, an invalid one completes BAD_DESCRIPTOR (R292, R300, R301). Of the BULK queues the one whose turn it is starts its next entry and spends one of its quota, and the turn passes on; with none to serve no queue keeps a quota and nothing else changes (R300). A started NOP completes OK (R292). -/
def Obligations.QueueEntries : Prop :=
  (∀ s q b, alive s = true → blockUp s qmgrPg = true → mayFetch s q = true → fetchSe s (getQ s q) = some b →
    (s.snaps.filter fun n => n.page == qmgrPg && n.bank == q) = [] →
    ∃ t, Runs (.seFetch q false) s t ∧ getQ t q = { getQ s q with
      fetch := fifoAdd (getQ s q).m (getQ s q).fetch 1, cache := (getQ s q).cache ++ [⟨(getQ s q).fetch, some b⟩] } ∧
      t.hostMem = s.hostMem ∧ t.hbm = s.hbm ∧ t.ctxs = s.ctxs) ∧
  (∀ s q, alive s = true → blockUp s qmgrPg = true → mayFetch s q = true →
    (s.snaps.filter fun n => n.page == qmgrPg && n.bank == q) = [] →
    ∃ t, Runs (.seFetch q true) s t ∧ getQ t q = { getQ s q with
      fetch := fifoAdd (getQ s q).m (getQ s q).fetch 1, cache := (getQ s q).cache ++ [⟨(getQ s q).fetch, none⟩] } ∧
      (hdr t qmgrPg).fltSrc.getLsbD 1 = true) ∧
  (∀ s rq q c, AcceptsB s rq qmgrPg 0x244 q → (getQ s q).invalDone = true → c ≠ 0 → c.toNat ≤ 2 ^ (getQ s q).m →
    ∃ t fl, Runs (.sqInval rq q c) s t ∧ t = { s with queues := t.queues } ∧ (∀ k, k ≠ q → getQ t k = getQ s k) ∧
      getQ t q = { getQ s q with invalDone := false, firstLive := fl, cache := (getQ t q).cache, fetch := (getQ t q).fetch } ∧
      (∀ e ∈ (getQ t q).cache, e ∈ (getQ s q).cache ∧
        ringDist (getQ s q).m (getQ s q).rel e.pos < ringDist (getQ s q).m (getQ s q).rel fl)) ∧
  (∀ s rq q c, AcceptsB s rq qmgrPg 0x244 q → (getQ s q).invalDone = false ∨ c = 0 ∨ 2 ^ (getQ s q).m < c.toNat →
    ∃ t, Runs (.sqInval rq q c) s t ∧ t = { s with regs := t.regs } ∧
      rgetN t qmgrPg q 0x24C = min 0xFFFFFFFF (rgetN s qmgrPg q 0x24C + 1)) ∧
  (∀ s q, alive s = true → blockUp s qmgrPg = true → (getQ s q).invalDone = false →
    ∃ t, Runs (.invalDone q) s t ∧ getQ t q = { getQ s q with invalDone := true, invalLive := (getQ s q).firstLive } ∧
      (hdr t qmgrPg).evtPend.getLsbD 3 = true) ∧
  (∀ s q e se, alive s = true → blockUp s qmgrPg = true → (getQ s q).guar = true → (getQ s q).bound.isSome = true →
    startable s q = true → nextSe (getQ s q) = some e → e.bytes = some se → toAbort (getQ s q) = false → seBad s q se = false → boundFree s q = true →
    ∃ t, Runs (.entryStart (some q)) s t ∧ t = { s with queues := t.queues, nextId := t.nextId } ∧ t.nextId = s.nextId + 1 ∧
      (getQ t q).next = fifoAdd (getQ s q).m (getQ s q).next 1 ∧
      (getQ t q).started = (getQ s q).started ++ [(s.nextId, se)] ∧
      (getQ t q).slots = (getQ s q).slots ++ [{ id := s.nextId, se := true, irq := byteAt se 1 / 2 % 2 == 1 }]) ∧
  (∀ s q e se, alive s = true → blockUp s qmgrPg = true → (getQ s q).guar = true → (getQ s q).bound.isSome = true →
    startable s q = true → nextSe (getQ s q) = some e → e.bytes = some se → toAbort (getQ s q) = false → seBad s q se = true → boundFree s q = true →
    (∀ c ∈ (getQ s q).slots, c.id ≠ s.nextId) →
    ∃ t, Runs (.entryStart (some q)) s t ∧ (getQ t q).started = (getQ s q).started ∧
      (getQ t q).slots = (getQ s q).slots ++
        [{ id := s.nextId, se := true, irq := byteAt se 1 / 2 % 2 == 1, st := 1, ce := seCe s se 0x08 }]) ∧
  (∀ s q, alive s = true → boundFree s q = false → Runs (.entryStart (some q)) s s) ∧
  (∀ s q s1 e se, alive s = true → blockUp s qmgrPg = true → wrrPick s = (some q, s1) → nextSe (getQ s1 q) = some e →
    e.bytes = some se → (needsSlot (getQ s1 q) = true → slotFree s1 = true) → toAbort (getQ s1 q) = false → seBad s1 q se = false →
    ∃ t, Runs (.entryStart none) s (wrrPick t).2 ∧ (getQ t q).started = (getQ s1 q).started ++ [(s1.nextId, se)] ∧
      (getQ t q).next = fifoAdd (getQ s1 q).m (getQ s1 q).next 1 ∧ (getQ t q).quota = (getQ s1 q).quota - 1 ∧
      t.bulkBurst = s1.bulkBurst + 1 ∧ (∀ k, k ≠ q → getQ t k = getQ s1 k)) ∧
  (∀ s, alive s = true → blockUp s qmgrPg = true → (wrrPick s).1 = none →
    ∃ t, Runs (.entryStart none) s t ∧ t = { s with queues := t.queues, bulkTurn := 0, bulkBurst := 0 } ∧
      ∀ q ∈ bulkQueues s, getQ t q = { getQ s q with quota := 0 }) ∧
  (∀ s q id se rest, alive s = true → blockUp s qmgrPg = true → (getQ s q).started = (id, se) :: rest → byteAt se 0 = 0 →
    ∃ t, Runs (.nop q) s t ∧ t = { s with queues := t.queues } ∧
      (getQ t q).started = rest.filter (fun u => u.1 != id) ∧
      (getQ t q).slots = (getQ s q).slots.map fun c => if c.id = id ∧ c.st = 0 then { c with st := 1, ce := seCe s se 0 } else c)

/-- When the first unwritten slot is finished, nothing is staged and the ring has room, CE_READY writes its CE at the ring position, advances the position and marks the slot written (R302, R306); with no room it stages the CE. While the first unwritten slot is unfinished nothing is written, whatever later slots hold (R302). HEAD_PUBLISH releases the written slots at the front and writes GEN and CR_HEAD into the head word (R303); with none written nothing changes. -/
def Obligations.QueueCompletions : Prop :=
  (∀ s q w c rest, alive s = true → blockUp s qmgrPg = true → (getQ s q).slots = w ++ c :: rest → (∀ d ∈ w, d.st = 3) → c.st = 1 →
    (∀ d ∈ rest, d.st ≠ 2) → crRoom (getQ s q) = true →
    ∃ t, Runs (.ceReady q) s t ∧
      t.hostMem = (memWrite s (crLoc (getQ s q)) ((getQ s q).crBase + 32 * ((getQ s q).wr % 2 ^ (getQ s q).n)) c.ce false).hostMem ∧
      t.hbm = (memWrite s (crLoc (getQ s q)) ((getQ s q).crBase + 32 * ((getQ s q).wr % 2 ^ (getQ s q).n)) c.ce false).hbm ∧
      getQ t q = { getQ s q with
        wr := fifoAdd (getQ s q).n (getQ s q).wr 1, slots := w ++ { c with st := 3 } :: rest } ∧
      ∀ k, k ≠ q → getQ t k = getQ s k) ∧
  (∀ s q w c rest, alive s = true → blockUp s qmgrPg = true → (getQ s q).slots = w ++ c :: rest → (∀ d ∈ w, d.st = 3) → c.st = 1 →
    (∀ d ∈ rest, d.st ≠ 2) → crRoom (getQ s q) = false →
    ∃ t, Runs (.ceReady q) s t ∧ getQ t q = { getQ s q with slots := w ++ { c with st := 2 } :: rest } ∧
      t.hostMem = s.hostMem ∧ t.hbm = s.hbm) ∧
  (∀ s q w c rest, alive s = true → (getQ s q).slots = w ++ c :: rest → (∀ d ∈ w, d.st = 2 ∨ d.st = 3) → c.st = 0 →
    Runs (.ceReady q) s s) ∧
  (∀ s q c w rest, alive s = true → blockUp s qmgrPg = true → (getQ s q).slots = (c :: w) ++ rest → (∀ d ∈ c :: w, d.st = 3) →
    (∀ d ∈ rest.head?, d.st ≠ 3) → (getQ s q).bound = none →
    ∃ t, Runs (.headPublish q) s t ∧ (getQ t q).slots = rest ∧ (getQ t q).head = (getQ s q).wr ∧ (getQ t q).wr = (getQ s q).wr ∧
      t.hostMem = (memWrite s (crLoc (getQ s q)) (getQ s q).headAddr
        (toLE 4 ((getQ s q).gen.toNat * 2 ^ 24 + idxOf (getQ s q).n (getQ s q).wr)) false).hostMem ∧
      t.hbm = (memWrite s (crLoc (getQ s q)) (getQ s q).headAddr
        (toLE 4 ((getQ s q).gen.toNat * 2 ^ 24 + idxOf (getQ s q).n (getQ s q).wr)) false).hbm ∧
      (crLoc (getQ s q) = 0 → t = { s with
        queues := t.queues, hostMem := t.hostMem, hostPoison := t.hostPoison, emitted := t.emitted, msix := t.msix })) ∧
  (∀ s q, alive s = true → (∀ d ∈ (getQ s q).slots.head?, d.st ≠ 3) → Runs (.headPublish q) s s)

/-- Enabling a DISABLED queue with no staged completion starts it empty in RUN, raises GEN by one, takes the committed rings and writes GEN with a zero index into the head word (R309). QUIESCE of a running queue makes it QUIESCING; clearing it before ENABLE drops resumes it (R310). IDLE is reached when no slot is left: ENABLE drops when it was written 0, else the queue is IDLE, and QUIET is signalled (R310). ABORT of a running queue that no context uses and that has no started entry makes it ABORTING with posted entries to complete ABORTED (R310). -/
def Obligations.QueueControl : Prop :=
  (∀ s rq q, AcceptsB s rq qmgrPg 0x200 q → (getQ s q).st = 0 → (∀ c ∈ (getQ s q).slots, c.st ≠ 2) →
    ∃ t, Runs (.queueEnable rq q) s t ∧ (getQ t q).enable = true ∧ (getQ t q).gen = (getQ s q).gen + 1 ∧
      (getQ t q).st = 1 ∧ (getQ t q).tail = 0 ∧ (getQ t q).fetch = 0 ∧ (getQ t q).head = 0 ∧
      (getQ t q).done = 0 ∧ (getQ t q).next = 0 ∧ (getQ t q).cache = [] ∧ (getQ t q).sqBase = rget64 s qmgrPg q 0x204 ∧
      (getQ t q).m = rbits s qmgrPg q 0x20C 4 0 ∧ (getQ t q).n = rbits s qmgrPg q 0x218 4 0 ∧
      t.hostMem = (memWrite s (crLoc (getQ t q)) (rget64 s qmgrPg q 0x21C) (toLE 4 ((getQ t q).gen.toNat * 2 ^ 24)) false).hostMem ∧
      ∀ k, k ≠ q → getQ t k = getQ s k) ∧
  (∀ s rq q, AcceptsB s rq qmgrPg 0x200 q → (getQ s q).st = 1 →
    Runs (.queueQuiesce rq q true) s (setQ s q { getQ s q with quiesce := true, st := 2 })) ∧
  (∀ s rq q, AcceptsB s rq qmgrPg 0x200 q → (getQ s q).st = 2 ∨ (getQ s q).st = 3 → (getQ s q).drop = false →
    Runs (.queueQuiesce rq q false) s (setQ s q { getQ s q with quiesce := false, st := 1 })) ∧
  (∀ s q, alive s = true → blockUp s qmgrPg = true → (getQ s q).st = 2 → (getQ s q).slots = [] → toAbort (getQ s q) = false →
    ∃ t, Runs (.idleReached q) s t ∧ (hdr t qmgrPg).evtPend.getLsbD 1 = true ∧
      (getQ t q).st = (if (getQ s q).drop then 0 else 3) ∧ (getQ t q).enable = ((getQ s q).enable && !(getQ s q).drop) ∧
      t = { s with queues := t.queues, regs := t.regs, hdrs := t.hdrs, crier := t.crier, emitted := t.emitted, msix := t.msix }) ∧
  (∀ s rq q, AcceptsB s rq qmgrPg 0x200 q → (getQ s q).enable = true → (getQ s q).st = 1 → (getQ s q).started = [] →
    (∀ e ∈ s.ctxs, e.2.queue ≠ q) →
    Runs (.queueAbort rq q) s (setQ s q { getQ s q with
      st := 4, quiesce := true, abortTo := if (getQ s q).next = (getQ s q).tail then none else some (getQ s q).tail }))

/-- Sensor ports are 0 to 7 of a link command and Selfold ports 8 to 11. A port in DOWN with TRAIN_EN set enters LOCK (R150, R345); block lock on every lane takes it to ALIGN; a consistent ALIGN round with at most 64 block-times of skew after another such round takes it to UP with a link event; a skew above 64 takes it to DOWN, counted on a sensor port. An UP port that loses block lock, misses an ALIGN round or loses its PLL goes to DOWN, sets its event and raises its link-down fault; nothing but the port, its header, its counters, the Crier and the fault system changes on a sensor port. -/
def Obligations.BondedLinks : Prop :=
  (∀ s n, alive s = true → n < 8 → blockUp s (sensorPage n) = true → rbits s (sensorPage n) 0 0x100 16 16 = 1 →
    (getSensor s n).link.st = 0 →
    Runs (.linkTrain n) s (setSensor s n { getSensor s n with link := { (getSensor s n).link with st := 1, locked := 0, rounds := 0 } })) ∧
  (∀ s n, alive s = true → n < 8 → blockUp s (sensorPage n) = true → (getSensor s n).link.st = 1 →
    Runs (.syncHeaderLock n) s (setSensor s n { getSensor s n with
      link := { (getSensor s n).link with st := 2, locked := laneMask (rbits s (sensorPage n) 0 0x100 3 0), rounds := 0 } })) ∧
  (∀ s n skew place, alive s = true → n < 8 → blockUp s (sensorPage n) = true → (getSensor s n).link.st = 2 → skew ≤ 64 →
    (getSensor s n).link.rounds = 0 →
    Runs (.alignRound n skew true place) s (setSensor s n { getSensor s n with
      link := { (getSensor s n).link with rounds := 1, skew := skew } })) ∧
  (∀ s n skew place, alive s = true → n < 8 → blockUp s (sensorPage n) = true → (getSensor s n).link.st = 2 → skew ≤ 64 →
    (getSensor s n).link.rounds ≠ 0 →
    Runs (.alignRound n skew true place) s (setEvt (setSensor s n { getSensor s n with
      link := { (getSensor s n).link with st := 3, rounds := 0, skew := skew } }) (sensorPage n) 1)) ∧
  (∀ s n skew ok place, alive s = true → n < 8 → blockUp s (sensorPage n) = true → (getSensor s n).link.st = 2 → 64 < skew →
    Runs (.alignRound n skew ok place) s
      (bump (setSensor s n { getSensor s n with link := { skew := skew } }) (sensorPage n) 0 0x124 1)) ∧
  (∀ s n c, c ∈ [Instr.syncHeaderLoss n, .alignRoundMissing n, .serdesPllLol n] → alive s = true → n < 8 →
    blockUp s (sensorPage n) = true → (getSensor s n).link.st = 3 →
    ∃ t, Runs c s t ∧ getSensor t n = { getSensor s n with link := {}, lastMark := none } ∧
      (hdr t (sensorPage n)).evtPend.getLsbD 1 = true ∧ (hdr t (sensorPage n)).fltSrc.getLsbD 0 = true ∧
      (∀ m, m ≠ n → getSensor t m = getSensor s m) ∧ t.tiles = s.tiles ∧ t.queues = s.queues ∧ t.hostMem = s.hostMem) ∧
  (∀ s p, alive s = true → p < 4 → blockUp s (sfPage p) = true → rbits s (sfPage p) 0 0x100 0 0 = 1 → (getSf s p).link.st = 0 →
    Runs (.linkTrain (8 + p)) s (setSf s p { getSf s p with link := { (getSf s p).link with st := 1, locked := 0, rounds := 0 } })) ∧
  (∀ s p, alive s = true → p < 4 → blockUp s (sfPage p) = true → (getSf s p).link.st = 1 →
    Runs (.syncHeaderLock (8 + p)) s (setSf s p { getSf s p with link := { (getSf s p).link with st := 2, locked := 0xF, rounds := 0 } })) ∧
  (∀ s p skew place, alive s = true → p < 4 → blockUp s (sfPage p) = true → (getSf s p).link.st = 2 → skew ≤ 64 →
    (getSf s p).link.rounds ≠ 0 →
    ∃ t, Runs (.alignRound (8 + p) skew true place) s t ∧ (getSf t p).link.st = 3 ∧
      (hdr t (sfPage p)).evtPend.getLsbD 0 = true ∧
      t = { s with sfs := t.sfs, hdrs := t.hdrs, crier := t.crier, emitted := t.emitted, msix := t.msix }) ∧
  (∀ s p c, c ∈ [Instr.syncHeaderLoss (8 + p), .alignRoundMissing (8 + p), .serdesPllLol (8 + p)] → alive s = true → p < 4 →
    blockUp s (sfPage p) = true → (getSf s p).link.st = 3 →
    ∃ t, Runs c s t ∧ t = sfDown (setSf s p { getSf s p with link := {} }) p ∧ (hdr t (sfPage p)).fltSrc.getLsbD 0 = true)

/-- A packet whose CRC fails is counted in SNS_ERR_CRC, with its lane errors (R153). A good packet is copied to the Island with its port, arrival time and colour (R159). One of the open frame that fits and covers a new place joins it, and the instant of the last packet moves (R154), with no committed configuration of the port waiting for a new frame; one at a place already taken is counted as a duplicate. A frame-start mark of a new frame on an idle context opens that frame (R48, R154). A frame-end mark on one port of several is recorded. After the close timeout the frame closes, and LAST_CLOSED is its number (R155). -/
def Obligations.SensorFrames : Prop :=
  (∀ s n e pk, alive s = true → n < 8 → sensorUp s n = true → Lp.crcOk pk = false →
    Runs (.linePacket n e pk) s (bump (bump s (sensorPage n) 0 0x124 e) (sensorPage n) 0 0x110 1)) ∧
  (∀ s n e pk x f, alive s = true → n < 8 → sensorUp s n = true → Lp.crcOk pk = true → (hdr s (sensorPage n)).enable = true →
    getCtx s (portCtx s n) = some x → feeds s x = true → x.frame = some f → f.num = Lp.frame pk →
    (f.pkts.any fun q => q.plane == Lp.plane pk && q.line == Lp.line pk && q.x0 == Lp.x0 pk) = false →
    lpFits x.block pk = true → frameCoded x.block f.colour = true →
    frameFull x.block (f.pkts ++ [⟨Lp.plane pk, Lp.line pk, Lp.x0 pk, Lp.samples pk⟩]) = false →
    (s.snaps.filter fun m => m.page == sensorPage n && m.bank == 0) = [] →
    ∃ t, Runs (.linePacket n e pk) s t ∧
      getCtx t (portCtx s n) = some { x with frame := some { f with
        pkts := f.pkts ++ [⟨Lp.plane pk, Lp.line pk, Lp.x0 pk, Lp.samples pk⟩], lastAt := s.dt } } ∧
      (∀ c, c ≠ portCtx s n → getCtx t c = getCtx s c) ∧ t.taps = s.taps ++ [⟨n, nowNs s, f.colour, pk⟩] ∧
      t = { s with ctxs := t.ctxs, sensors := t.sensors, regs := t.regs, taps := t.taps, arbs := t.arbs }) ∧
  (∀ s n e pk x f, alive s = true → n < 8 → sensorUp s n = true → Lp.crcOk pk = true → (hdr s (sensorPage n)).enable = true →
    getCtx s (portCtx s n) = some x → feeds s x = true → x.frame = some f → f.num = Lp.frame pk →
    (f.pkts.any fun q => q.plane == Lp.plane pk && q.line == Lp.line pk && q.x0 == Lp.x0 pk) = true →
    ∃ t, Runs (.linePacket n e pk) s t ∧ t.ctxs = s.ctxs ∧
      rgetN t (sensorPage n) 0 0x114 = min 0xFFFFFFFF (rgetN s (sensorPage n) 0 0x114 + 1) ∧
      t.taps = s.taps ++ [⟨n, nowNs s, f.colour, pk⟩] ∧
      t = { s with sensors := t.sensors, regs := t.regs, taps := t.taps, arbs := t.arbs }) ∧
  (∀ s n e a x, alive s = true → n < 8 → sensorUp s n = true → takesWork s (sensorPage n) = true →
    (getSensor s n).lastMark ≠ some a → byteAt a 0 = 1 →
    getCtx s (portCtx s n) = some x → feeds s x = true → x.rel = 0 → x.frame = none → frameLate x (beAt a 1 4) = false →
    ∃ t y f, Runs (.fmark n e a a) s t ∧ getCtx t (portCtx s n) = some y ∧ y.frame = some f ∧ f.num = beAt a 1 4 ∧ f.pkts = [] ∧
      y.block = x.block) ∧
  (∀ s n e a b, alive s = true → n < 8 → sensorUp s n = true → a ≠ b →
    Runs (.fmark n e a b) s (bump s (sensorPage n) 0 0x124 e)) ∧
  (∀ s n e a x f, alive s = true → n < 8 → sensorUp s n = true → (getSensor s n).lastMark ≠ some a → byteAt a 0 = 2 →
    getCtx s (portCtx s n) = some x → feeds s x = true → x.frame = some f → f.num = beAt a 1 4 → f.endPorts.contains n = false →
    allEnded x.block { f with endPorts := f.endPorts ++ [n] } = false →
    ∃ t, Runs (.fmark n e a a) s t ∧
      getCtx t (portCtx s n) = some { x with frame := some { f with endPorts := f.endPorts ++ [n] } } ∧
      t = { s with ctxs := t.ctxs, sensors := t.sensors, regs := t.regs }) ∧
  (∀ s c x f, alive s = true → getCtx s c = some x → x.frame = some f → x.rel = 0 →
    f.lastAt + nsT (rbits s (sensorPage (groupPort x.block)) 0 0x10C 23 0) ≤ s.dt →
    ∃ t y, Runs (.frameCloseTimeout c) s t ∧ getCtx t c = some y ∧ y.frame = none ∧ y.lastClosed = some f.num ∧ y.block = x.block)

/-- At its scheduled instant an FSYNC output takes its active level, high or by POL low, until the pulse width has passed, and the next edge is a period later (R160); at the end of the pulse it takes the idle level. An I3C command on an idle controller starts a transfer, as I3C SDR or as legacy I2C: it sends the common command code of an SDR transfer that has one, the address with the direction, and for a write the queued bytes up to its length (R161); one on a busy controller is discarded. When the transfer ends the controller shows NACK and DONE, and a read not refused has given at most the bytes commanded; a write of I3C_TX queues a byte and a read of I3C_RX takes the oldest received one with bit 31 set, or 0 when there is none. Nothing else changes. -/
def Obligations.FsyncAndI3c : Prop :=
  (∀ s n t0, alive s = true → n < 4 → (getSensor s n).fsyncNext = some t0 → t0 ≤ s.dt → blockUp s (sensorPage n) = true →
    Runs (.fsyncEdge n) s (setSensor s n { getSensor s n with
      fsyncOn := true, fsyncHigh := rbits s (sensorPage n) 0 0x140 1 1 == 0, fsyncFall := t0 + nsT (rbits s (sensorPage n) 0 0x140 31 8)
      fsyncNext := if rget64 s (sensorPage n) 0 0x150 = 0 then none else some (t0 + rget64 s (sensorPage n) 0 0x150) })) ∧
  (∀ s n, alive s = true → n < 4 → (getSensor s n).fsyncOn = true → (getSensor s n).fsyncFall ≤ s.dt →
    Runs (.fsyncPulseEnd n) s (setSensor s n { getSensor s n with
      fsyncOn := false, fsyncHigh := rbits s (sensorPage n) 0 0x140 1 1 == 1 })) ∧
  (∀ s rq n w, n < 4 → Accepts s rq (sensorPage n) 0x184 → (getSensor s n).i3cBusy = false →
    let i2c := rbits s (sensorPage n) 0 0x180 8 8 == 1
    let len := bits w.toNat 19 8
    let ccc := if w.getLsbD 20 && !i2c then [BitVec.ofNat 8 (bits w.toNat 31 24)] else []
    (w.getLsbD 7 = false → Runs (.i3cCmd rq n w) s { setSensor s n { getSensor s n with
        i3cBusy := true, i3cLen := 0, i3cNack := false, i3cDone := false, i3cTx := (getSensor s n).i3cTx.drop len } with
      emitted := s.emitted ++ [.i3c n i2c (ccc ++ [BitVec.ofNat 8 (bits w.toNat 6 0 * 2)] ++ (getSensor s n).i3cTx.take len)] }) ∧
    (w.getLsbD 7 = true → Runs (.i3cCmd rq n w) s { setSensor s n { getSensor s n with
        i3cBusy := true, i3cLen := len, i3cNack := false, i3cDone := false } with
      emitted := s.emitted ++ [.i3c n i2c (ccc ++ [BitVec.ofNat 8 (bits w.toNat 6 0 * 2 + 1)])] })) ∧
  (∀ s rq n w, n < 4 → Accepts s rq (sensorPage n) 0x184 → (getSensor s n).i3cBusy = true → Runs (.i3cCmd rq n w) s s) ∧
  (∀ s n nack rx, alive s = true → n < 4 → blockUp s (sensorPage n) = true → (getSensor s n).i3cBusy = true →
    Runs (.i3cTransferDone n nack rx) s (setSensor s n { getSensor s n with
      i3cBusy := false, i3cNack := nack, i3cDone := true
      i3cRx := if nack then (getSensor s n).i3cRx else (getSensor s n).i3cRx ++ rx.take (getSensor s n).i3cLen })) ∧
  (∀ s rq n b, n < 4 → Accepts s rq (sensorPage n) 0x18C →
    Runs (.i3cTx rq n b) s (setSensor s n { getSensor s n with i3cTx := (getSensor s n).i3cTx ++ [b] })) ∧
  (∀ s rq n b rest, n < 4 → busUp s = true → pageLive s (sensorPage n) = true → (hdr s (sensorPage n)).inReset = false →
    (getSensor s n).i3cRx = b :: rest →
    Runs (.i3cRx rq n) s (setSensor { s with out := 2 ^ 31 + b.toNat } n { getSensor s n with i3cRx := rest })) ∧
  (∀ s rq n, n < 4 → busUp s = true → (getSensor s n).i3cRx = [] → Runs (.i3cRx rq n) s { s with out := 0 })

/-- When the lines of the next event of a context's oldest unfired picture are in, that one event fires: its jobs are released, each for that picture and event and on no tile (R164, R165); a picture that no event of had fired begins with it. A row ticket of an admitted stream with an idle reserved tile, a free egress place and a free buffer starts the stream's first waiting job on the lowest such tile with its budget (R165, R211, R214, R342), when the op word it starts on passes its checks (R212). When a job's coding ends on its running tile, the job is gone, the tile is idle with no job, and JOB_DONE is set (R165). -/
def Obligations.RowEventsAndJobs : Prop :=
  (∀ s c src x r p, alive s = true → getCtx s c = some x → firePic x src = some r → getPic x r.id = some p →
    p.fired < (ctGeo x.block).nr 0 → r.begun = true → x.role ≠ 3 → eventReady x r = true → rot90 x.block = false →
    ∃ t y q js, Runs (.rowComplete c src) s t ∧ getCtx t c = some y ∧ getPic y r.id = some q ∧ q.fired = p.fired + 1 ∧
      t.jobs = s.jobs ++ js ∧ (∀ j ∈ js, j.ctx = c ∧ j.pic = r.id ∧ j.key = p.fired ∧ j.tile = none) ∧
      (∀ d, d ≠ c → getCtx t d = getCtx s d) ∧ t.tiles = s.tiles ∧ t.queues = s.queues ∧ t.hostMem = s.hostMem ∧ t.hbm = s.hbm) ∧
  (∀ s c src x r p, alive s = true → getCtx s c = some x → firePic x src = some r → getPic x r.id = some p →
    p.fired < (ctGeo x.block).nr 0 → r.begun = false → p.begun = false → x.cfgPend = [] → x.role ≠ 3 → eventReady x r = true →
    rot90 x.block = false →
    ∃ t y q js, Runs (.rowComplete c src) s t ∧ getCtx t c = some y ∧ getPic y r.id = some q ∧ q.fired = p.fired + 1 ∧ q.begun = true ∧
      t.jobs = s.jobs ++ js ∧ ∀ j ∈ js, j.ctx = c ∧ j.pic = r.id ∧ j.key = p.fired ∧ j.tile = none) ∧
  (∀ s c x j p k a s1, alive s = true → getCtx s c = some x →
    (s.jobs.find? fun j => j.ctx == c && j.tile.isNone && !j.dec && ((getPic x j.pic).any fun p => !p.bulk)) = some j →
    getPic x j.pic = some p → idleTile s x.adm.tiles = some k → depsDone s p.cfg j = true →
    guarOnTiles s c x < x.adm.tiles.length → placesUsed s c x < x.adm.grnMin →
    grnAlloc s (Ct.pool x.block) c = some (a, s1) → opFault (getTile s k) ((Config.freeWord s.freeCtr).toNat % 1024) = none →
    ∃ t, Runs (.rowTicket false c) s t ∧ (getTile t k).run = 1 ∧ (getTile t k).job = some j.id ∧
      (getTile t k).budget = some j.budget ∧ (getTile t k).used ≤ 1 ∧ (getTile t k).ctx = j.ctx ∧
      (∀ m, m ≠ k → getTile t m = getTile s m) ∧
      t.jobs = s.jobs.map fun i => if i.id = j.id then { j with buf := some (Ct.pool x.block, a), tile := some k } else i) ∧
  (∀ s c j x p k a s1, alive s = true →
    (s.jobs.find? fun j => j.tile.isNone && (j.dec || ((jobPic s j).any fun e => e.2.bulk))) = some j → j.dec = false →
    bulkPick s = some k → jobPic s j = some (x, p) → depsDone s p.cfg j = true → bulkOverdue s j = false →
    poolUp (getPool s (Ct.pool x.block)) = true → blockUp s grnPg = true → grnAlloc s (Ct.pool x.block) j.ctx = some (a, s1) →
    opFault (getTile s k) ((Config.freeWord s.freeCtr).toNat % 1024) = none →
    ∃ t, Runs (.rowTicket true c) s t ∧ (getTile t k).run = 1 ∧ (getTile t k).job = some j.id ∧
      (getTile t k).budget = some j.budget ∧ ∀ m, m ≠ k → getTile t m = getTile s m) ∧
  (∀ s i j k, alive s = true → (s.jobs.find? fun j => j.id == i) = some j → j.tile = some k → (getTile s k).run = 1 →
    (getTile s k).job = some i → blockUp s (tilePage k) = true → (∀ x p, j.dec = false → jobPic s j = some (x, p) → (p.isP = false ∨ refsReady x p = true) ∧
      ∀ pool a, j.buf = some (pool, a) → ((codeJob s x p j).flatMap fun o => o.unit.getD []).length ≤ poolSize s pool) →
    ∃ t, Runs (.jobEnd i) s t ∧ (getTile t k).run = 0 ∧ (getTile t k).job = none ∧ (getTile t k).ctx = 0x7FF ∧
      (∀ h ∈ t.jobs, h.id ≠ i) ∧ (hdr t (tilePage k)).evtPend.getLsbD 0 = true ∧ ∀ m, m ≠ k → getTile t m = getTile s m)

/-- When the next unit of the oldest numbered picture of a context that is no cascade home and no member at its own home exists and its FIFO has room, it is appended to the flow of its context, and no other flow changes (R167, R318). A waiting demoted picture whose jobs have ended takes the next PIC_NUM between two pictures once the allowance covers its bytes (R180); one that still waits when a later frame has been pending for PERIOD leaves the context, its completion NONCONFORMING, when no release is under way. -/
def Obligations.UnitsLeaveInOrder : Prop :=
  (∀ s c x p u f, alive s = true → getCtx s c = some x → x.role ≠ 2 → x.role ≠ 3 → blockUp s fifoPg = true → enterPic x = some p →
    nextUnit p = some u → u.bytes ≠ [] → flowOf s c x = some f → fifoFits s p.fifo u.bytes.length = true →
    ∃ t g, Runs (.unitEnterFifo c) s t ∧ (getFlow t f).units = (getFlow s f).units ++ [g] ∧ g.bytes = u.bytes ∧ g.ctx = c ∧
      g.pic = p.id ∧ g.num = p.picNum.getD 0 ∧ g.fifo = p.fifo ∧ g.last = decide (p.entered + 1 = unitCount p) ∧
      (∀ h, h ≠ f → getFlow t h = getFlow s h) ∧ (∀ d, d ≠ c → getCtx t d = getCtx s d) ∧ t.tiles = s.tiles ∧ t.hostMem = s.hostMem) ∧
  (∀ s c x p, alive s = true → getCtx s c = some x → waitingDemoted x = some p → codedDone x.block p = true →
    (∀ q ∈ x.pics, q.begun = false ∨ q.id = p.id ∨ q.picNum = none ∨ unitCount q ≤ q.entered) →
    (picTotal { p with
      sh := Ct.mode p.cfg != 4 && (p.flush || !x.strm)
      cfg := if x.strm then withSid x p.cfg else p.cfg } * 1000000 : Nat) ≤ (betaNow s x).beta →
    ∃ t y q, Runs (.demotedPictureEmit c) s t ∧ getCtx t c = some y ∧ y.picNum = (x.picNum + 1) % 2 ^ 32 ∧
      getPic y p.id = some q ∧ q.picNum = some x.picNum ∧ q.fifo = x.adm.fifo ∧ t = { s with ctxs := t.ctxs } ∧
      ∀ d, d ≠ c → getCtx t d = getCtx s d) ∧
  (∀ s c x p, alive s = true → getCtx s c = some x → waitingDemoted x = some p →
    (∃ q ∈ x.pics, p.id < q.id ∧ q.at_ + Ct.period x.block ≤ s.dt) →
    x.rel = 0 →
    ∃ t, Runs (.demotedPictureDiscard c) s t ∧ (∀ y, getCtx t c = some y → getPic y p.id = none) ∧
      ∀ k ∈ (getQ s x.queue).slots, p.slot = some k.id → k.st = 0 →
        ∃ m ∈ (getQ t x.queue).slots, m.id = k.id ∧ m.st = 1 ∧ byteAt m.ce 0 = 0x0F)

/-- A started ENCODE entry that is well-formed joins its context's queue (R185, R188); a malformed one completes BAD_DESCRIPTOR, and one after a RELEASE boundary ABORTED (R34). With the slot group open and the period past, the input DMA of the next entry begins and its picture joins the context. When the DMA ends without a bus error the conditioned samples are the picture's input and t0 is that instant, with cause TIMEBASE for a stream on the Island's time while that is lost (R50); a bus error ends the picture. A free bulk slot takes the bulk frame started first, holds its context from then on, and its input DMA begins (R184). -/
def Obligations.EncodeEntries : Prop :=
  (∀ s q id e s1 x, alive s = true → takeStarted s q (fun se => byteAt se 0 == 0x10) = some (id, e, s1) →
    cfgAhead s q id (leAt e 2 2) = false → encBad s q e = false → getCtx s1 (leAt e 2 2) = some x → x.rel = 0 →
    Runs (.encode q) s (setCtx s1 (leAt e 2 2) { x with encQ := x.encQ ++ [(id, e)] })) ∧
  (∀ s q id e s1 x, alive s = true → takeStarted s q (fun se => byteAt se 0 == 0x10) = some (id, e, s1) →
    cfgAhead s q id (leAt e 2 2) = false → encBad s q e = false → getCtx s1 (leAt e 2 2) = some x → x.rel ≠ 0 →
    Runs (.encode q) s (finishSlot s1 q id (seCe s e 0x0D))) ∧
  (∀ s q id e s1, alive s = true → takeStarted s q (fun se => byteAt se 0 == 0x10) = some (id, e, s1) →
    cfgAhead s q id (leAt e 2 2) = false → encBad s q e = true →
    Runs (.encode q) s (finishSlot s1 q id (seCe s e 0x08))) ∧
  (∀ s c x id e rest t0, alive s = true → getCtx s c = some x → x.encQ = (id, e) :: rest → x.kind = .admitted → x.dma = none →
    x.lastStart = some t0 → t0 + Ct.period x.block ≤ s.dt → slotOpen s x = true →
    ∃ t y p, Runs (.encodeStart c) s t ∧ getCtx t c = some y ∧ y.encQ = rest ∧ y.dma = some s.nextId ∧ y.lastStart = some s.dt ∧
      y.pics = x.pics ++ [p] ∧ p.id = s.nextId ∧ p.se = e ∧ p.slot = some id ∧ p.src = En.frame e ∧
      t = { s with nextId := s.nextId + 1, ctxs := t.ctxs } ∧ ∀ d, d ≠ c → getCtx t d = getCtx s d) ∧
  (∀ s c x i p pic, alive s = true → getCtx s c = some x → x.dma = some i → getPic x i = some p →
    readPlanes s x.block p.se = (pic, false, false) →
    ∃ t y q, Runs (.encodeInputDone c) s t ∧ getCtx t c = some y ∧ y.dma = none ∧ getPic y i = some q ∧ q.closed = true ∧
      q.input = condition s x.block pic ∧ q.t0 = some s.dt ∧
      q.cause = (if p.cause = 0 ∧ x.kind = .admitted ∧ Ct.timeSrc x.block = 1 ∧ islLost s = true then 5 else p.cause) ∧ t = { s with ctxs := t.ctxs, queues := t.queues } ∧
      ∀ d, d ≠ c → getCtx t d = getCtx s d) ∧
  (∀ s c x i p pic psn, alive s = true → getCtx s c = some x → x.dma = some i → getPic x i = some p →
    readPlanes s x.block p.se = (pic, true, psn) →
    ∃ t, Runs (.encodeInputDone c) s t ∧ ∀ y, getCtx t c = some y → getPic y i = none) ∧
  (∀ s k c x id e rest, alive s = true → k < 8 → nget s.bulkSlots k = none → s.pwr.st = 0 → s.pwr.want = false →
    nextBulk s = some c → getCtx (slotSwitch s k c) c = some x → x.kind ≠ .decode → x.encQ = (id, e) :: rest →
    bulkFenced (slotSwitch s k c) = false →
    ∃ t y, Runs (.bulkSlotTake k) s t ∧ nget t.bulkSlots k = some (c, s.nextId) ∧ nget t.slotCtx k = some c ∧ getCtx t c = some y ∧
      y.encQ = rest ∧ y.dma = some s.nextId ∧ t.nextId = s.nextId + 1 ∧ ∀ d, d ≠ c → getCtx t d = getCtx s d)

/-- A configuration block in its ranges waits for the context's next picture and the entry completes OK (R187). OPEN_BULK of a free number with a valid block makes a bulk context with that block, whose rate state starts at QP_INIT and M0, and completes OK; a number in use completes BAD_DESCRIPTOR (R183). CLOSE of a bulk context whose pictures are done and whose stream end has gone frees its number and completes OK. -/
def Obligations.EncodeConfigs : Prop :=
  (∀ s q id e s1 x, alive s = true →
    takeStarted s q (fun se => byteAt se 0 == 0x11 && (cfgFlags se == 0 || cfgFlags se == 3)) = some (id, e, s1) →
    getCtx s1 (leAt e 2 2) = some x → cfgFlags e = 0 → x.queue = q → x.kind ≠ .decode → 256 ≤ (cfgBlock e).length →
    cfgOk (cfgBlock e) = true → tileForm x.block (cfgBlock e) = true →
    Runs (.encConfig q) s (finishSlot (setCtx s1 (leAt e 2 2) { x with cfgPend := x.cfgPend ++ [(id, cfgBlock e)] }) q id (seCe s e 0))) ∧
  (∀ s q id e s1, alive s = true → takeStarted s q (fun se => byteAt se 0 == 0x11 && cfgFlags se == 1) = some (id, e, s1) →
    leAt e 2 2 < 1024 → getCtx s (leAt e 2 2) = none → 256 ≤ (cfgBlock e).length → cfgOk (cfgBlock e) = true →
    tileForm (cfgBlock e) (cfgBlock e) = true → bulkBlockOk s (cfgBlock e) = true →
    ∃ t x, Runs (.openBulk q) s t ∧ getCtx t (leAt e 2 2) = some x ∧ x.kind = .bulk ∧ x.block = cfgBlock e ∧ x.queue = q ∧
      x.pics = [] ∧ x.rate.qpPrev = Ct.qpInit (cfgBlock e) ∧ x.rate.mI = Ct.m0 (cfgBlock e) ∧ x.rate.mP = Ct.m0 (cfgBlock e) ∧
      t.queues = (finishSlot s1 q id (seCe s e 0)).queues ∧ t = { s with ctxs := t.ctxs, queues := t.queues } ∧
      ∀ d, d ≠ leAt e 2 2 → getCtx t d = getCtx s d) ∧
  (∀ s q id e s1, alive s = true → takeStarted s q (fun se => byteAt se 0 == 0x11 && cfgFlags se == 1) = some (id, e, s1) →
    (getCtx s (leAt e 2 2)).isSome = true → Runs (.openBulk q) s (finishSlot s1 q id (seCe s e 0x08))) ∧
  (∀ s q id e s1 x i, alive s = true → takeStarted s q (fun se => byteAt se 0 == 0x11 && cfgFlags se == 2) = some (id, e, s1) →
    getCtx s1 (leAt e 2 2) = some x → x.kind = .bulk → x.queue = q → x.pics = [] → x.encQ = [] →
    cfgAhead s q id (leAt e 2 2) = false → freeSlot s = some i → seDue x = false →
    ∃ t, Runs (.encConfigClose q) s t ∧ getCtx t (leAt e 2 2) = none ∧ t.queues = (finishSlot s1 q id (seCe s e 0)).queues ∧
      ∀ d, d ≠ leAt e 2 2 → getCtx t d = getCtx s d)

/-- A malformed DECODE entry completes BAD_DESCRIPTOR (R192); a well-formed one joins its context's order, and while a picture of the context is in progress nothing more happens (R194). A free slot taken by an entry whose input can be read and passes the checks of R200 releases one job per segment; a read error completes BUS_ERROR. When the last job of an ACS picture has ended and it was not aborted, the picture is finished: nothing is in progress, the decoded count rises by one and the picture becomes the previous one (R199, R201); of its segments one with a write outside its place is concealed first (R197). An HEVC picture that its parameter sets describe finishes too (R204). -/
def Obligations.DecodePictures : Prop :=
  (∀ s q id e s1, alive s = true → takeStarted s q (fun se => byteAt se 0 == 0x20) = some (id, e, s1) →
    cfgAhead s q id (leAt e 2 2) = false → decBad s q e = true →
    Runs (.decode q) s (finishSlot s1 q id (decCe s e 0x08 (decNone 0)))) ∧
  (∀ s q id e s1 x, alive s = true → takeStarted s q (fun se => byteAt se 0 == 0x20) = some (id, e, s1) →
    cfgAhead s q id (leAt e 2 2) = false → decBad s q e = false → getCtx s1 (leAt e 2 2) = some x →
    (freeSlot s = none ∨ x.dec.run.isSome = true) →
    Runs (.decode q) s (setCtx s1 (leAt e 2 2) { x with dec := { x.dec with queue := x.dec.queue ++ [(id, e)] } })) ∧
  (∀ s k c x id e rest d psn y r, alive s = true → k < 8 → nget s.bulkSlots k = none → s.pwr.st = 0 → s.pwr.want = false →
    nextBulk s = some c → getCtx (slotSwitch s k c) c = some x → x.kind = .decode → x.dec.queue = (id, e) :: rest → x.dec.run = none →
    De.inLen e ≠ 0 → memRead (slotSwitch s k c) (De.inLoc e) (De.inAddr e) (De.inLen e) = (d, none, psn) →
    bulkFenced (readLoc (slotSwitch s k c) (De.inLoc e) (De.inAddr e) (De.inLen e)).2 = false →
    Db.format x.block ≠ 1 → parseUnits (d.length + 1) d { x with dec := { x.dec with queue := rest } } {} = (y, r) → acsErr y e r = 0 →
    ∃ t z js run, Runs (.bulkSlotTake k) s t ∧ getCtx t c = some z ∧ z.dec.run = some run ∧ run.slot = id ∧ run.input = d ∧
      run.parse = r ∧ js = acsJobs c id s.nextId (y.dec.firstSh.getD []) r ∧ run.left = js.length ∧ t.jobs = s.jobs ++ js ∧
      t.bulkSlots = nset s.bulkSlots k (c, id) ∧
      t = { (readLoc (slotSwitch s k c) (De.inLoc e) (De.inAddr e) (De.inLen e)).2 with
        nextId := s.nextId + js.length, jobs := t.jobs, bulkSlots := t.bulkSlots, ctxs := t.ctxs }) ∧
  (∀ s k c x id e rest d cls psn, alive s = true → k < 8 → nget s.bulkSlots k = none → s.pwr.st = 0 → s.pwr.want = false →
    nextBulk s = some c → getCtx (slotSwitch s k c) c = some x → x.kind = .decode → x.dec.queue = (id, e) :: rest → x.dec.run = none →
    De.inLen e ≠ 0 → memRead (slotSwitch s k c) (De.inLoc e) (De.inAddr e) (De.inLen e) = (d, some cls, psn) →
    bulkFenced (readLoc (slotSwitch s k c) (De.inLoc e) (De.inAddr e) (De.inLen e)).2 = false →
    ∃ t y, Runs (.bulkSlotTake k) s t ∧ getCtx t c = some y ∧ y.dec.queue = rest ∧ y.dec.run = none ∧ t.jobs = s.jobs ∧
      t.queues = (finishSlot s x.queue id (decCe s e 0x09 (decNone 0))).queues) ∧
  (∀ s c x r sh ph, alive s = true → getCtx s c = some x → x.dec.run = some r → r.left = 0 → Db.format x.block ≠ 1 →
    x.dec.firstSh = some sh → r.parse.ph = some ph → r.aborted = false →
    let prev := if De.grey r.se then none else x.dec.prev
    let d := decSegs sh ph (phRefs x.slots ph) prev r.parse r.timeouts
    ∃ t y, Runs (.decodeFinish c) s t ∧ getCtx t c = some y ∧ y.dec.run = none ∧ y.dec.count = x.dec.count + 1 ∧
      y.dec.prev = some (segsPic (Sh.geo sh) ((d.1.zip d.2).map fun t => (guardOob r.se (Sh.geo sh) prev t.1 t.2).1)) ∧
      y.dec.queue = x.dec.queue ∧ y.block = x.block) ∧
  (∀ s c x r, alive s = true → getCtx s c = some x → x.dec.run = some r → r.left = 0 → Db.format x.block = 1 →
    ∃ t, Runs (.decodeFinish c) s t ∧
      match Config.hevcParse x.block r.input with
      | none => t = s
      | some _ => ∃ y, getCtx t c = some y ∧ y.dec.run = none ∧ y.block = x.block ∧
          y.dec.count = x.dec.count + if r.aborted then 0 else 1)

/-- DEC_CONFIG OPEN of a free number with a valid block and enough buffers makes a decode context that holds MAX_NREF + 2 buffers and full policer buckets, and completes OK (R191); a number in use completes BAD_DESCRIPTOR. CLOSE of a decode context whose earlier completions are published frees the number and completes OK. -/
def Obligations.DecodeConfigs : Prop :=
  (∀ s q id e s1 l s2, alive s = true →
    takeStarted s q (fun se => byteAt se 0 == 0x21 && leAt se 0x10 2 % 4 != 2) = some (id, e, s1) →
    leAt e 0x10 2 % 4 = 1 → leAt e 2 2 < 1024 → getCtx s (leAt e 2 2) = none → 256 ≤ (e.drop 64).length →
    decBlockOk (e.drop 64) = true → ingTaken s (e.drop 64) = false → decBufSize (e.drop 64) ≤ poolSize s (Db.slotPool (e.drop 64)) →
    takeBufs s1 (Db.slotPool (e.drop 64)) (leAt e 2 2) (Db.nref (e.drop 64) + 2) = some (l, s2) →
    ∃ t x, Runs (.decConfigOpen q) s t ∧ getCtx t (leAt e 2 2) = some x ∧ x.kind = .decode ∧ x.block = e.drop 64 ∧ x.queue = q ∧
      x.dec.slotBufs = l ∧ l.length = Db.nref (e.drop 64) + 2 ∧ x.dec.tokC = Db.cbs (e.drop 64) * 1000000 ∧
      x.dec.tokP = Db.pbs (e.drop 64) * 1000000 ∧ t.queues = (finishSlot s1 q id (seCe s e 0)).queues ∧
      ∀ d, d ≠ leAt e 2 2 → getCtx t d = getCtx s d) ∧
  (∀ s q id e s1, alive s = true →
    takeStarted s q (fun se => byteAt se 0 == 0x21 && leAt se 0x10 2 % 4 != 2) = some (id, e, s1) →
    (getCtx s (leAt e 2 2)).isSome = true → Runs (.decConfigOpen q) s (finishSlot s1 q id (seCe s e 0x08))) ∧
  (∀ s q id e s1 x, alive s = true →
    takeStarted s q (fun se => byteAt se 0 == 0x21 && leAt se 0x10 2 % 4 == 2) = some (id, e, s1) →
    getCtx s1 (leAt e 2 2) = some x → x.kind = .decode → x.queue = q → oldestSlot s q id = true →
    ∃ t, Runs (.decConfigClose q) s t ∧ getCtx t (leAt e 2 2) = none ∧ t.queues = (finishSlot s1 q id (seCe s e 0)).queues)

/-- While RX_EN of the port is 0 nothing is received (R331). With it 1, a packet that matches no context and is no PTP event is counted in ING_UNMATCHED (R205). A red packet is counted and dropped, and the picture in reassembly stays. A green in-order packet of whole units joins the picture of its tag, which is held once the marker comes; the header of a segment unit that fails its CRC is noted for its damage (R206, R109, R198). After the context's time-out the picture in reassembly closes with PE missing. -/
def Obligations.IngressPackets : Prop :=
  (∀ s port k, alive s = true → port < 2 → rbits s (ethPage port) 0 0x100 1 1 = 0 → Runs (.ingressPacket port k) s s) ∧
  (∀ s port k, alive s = true → port < 2 → blockUp s (ethPage port) = true → rbits s (ethPage port) 0 0x100 1 1 = 1 → (s.ctxs.find? fun e => ingMatch port k e.2) = none →
    k.ptp = false → Runs (.ingressPacket port k) s (bump s (ethPage port) 0 0x424 1)) ∧
  (∀ s port k c x, alive s = true → port < 2 → blockUp s (ethPage port) = true →
    rbits s (ethPage port) 0 0x100 1 1 = 1 → (s.ctxs.find? fun e => ingMatch port k e.2) = some (c, x) → (ingColour s x k).1 = 2 →
    ∃ t y, Runs (.ingressPacket port k) s t ∧ getCtx t c = some y ∧ y.dec.lastSeq = some (Rtp.seq k.payload) ∧
      y.dec.cur = x.dec.cur ∧ y.dec.held = x.dec.held ∧
      rgetN t (ethPage port) c 0x40C = min 0xFFFFFFFF (rgetN s (ethPage port) c 0x40C + 1) ∧
      t = { s with ctxs := t.ctxs, regs := t.regs } ∧ ∀ d, d ≠ c → getCtx t d = getCtx s d) ∧
  (∀ s port k c x h, alive s = true → port < 2 → blockUp s (ethPage port) = true →
    rbits s (ethPage port) 0 0x100 1 1 = 1 → (s.ctxs.find? fun e => ingMatch port k e.2) = some (c, x) → (ingColour s x k).1 = 0 → Db.format x.block ≠ 1 →
    x.dec.cur = some h → h.tag = Rtp.picTag k.payload → Rtp.frag k.payload = 0 →
    cdiv (heldBytes h + fragBytes x.dec.frag + (k.payload.length - 20)) (poolSize s (Db.ingPool x.block)) ≤ h.bufs.length →
    ∃ t y, Runs (.ingressPacket port k) s t ∧ getCtx t c = some y ∧
      (if Rtp.marker k.payload then
        y.dec.cur = none ∧ y.dec.held = x.dec.held ++
          [{ h with units := h.units ++ (cutUnits (Rtp.nunits k.payload) (k.payload.drop 20)).1, peMissing := false,
                     bad := h.bad ++ (cutUnits (Rtp.nunits k.payload) (k.payload.drop 20)).2.2 }]
       else y.dec.held = x.dec.held ∧
        y.dec.cur = some { h with units := h.units ++ (cutUnits (Rtp.nunits k.payload) (k.payload.drop 20)).1,
                                  bad := h.bad ++ (cutUnits (Rtp.nunits k.payload) (k.payload.drop 20)).2.2 }) ∧
      t = { s with ctxs := t.ctxs, regs := t.regs } ∧ ∀ d, d ≠ c → getCtx t d = getCtx s d) ∧
  (∀ s c x h, alive s = true → getCtx s c = some x → x.kind = .decode → x.dec.cur = some h →
    x.dec.lastPkt + nsT (Db.picTmo x.block) ≤ s.dt →
    ∃ t y, Runs (.ingressPicTimeout c) s t ∧ getCtx t c = some y ∧ y.dec.cur = none ∧ y.dec.frag = none ∧
      y.dec.held = x.dec.held ++ [{ h with peMissing := true }] ∧ t = { s with ctxs := t.ctxs, regs := t.regs })

/-- On a tile that runs and does not wait, each microword of R215 that has no error has its effect on that tile, its TCLK are counted and the next word follows: NOP; ALU and ALUI write a general register; LDS and VLD read the tile store and STS and VST write it, inside its 327,680 lane words; VOP writes a vector register; UNIT gives the unit its command and parameters, on which it acts in the tile store, the load engine also in HBM and the Commons; lane words of a command outside the store are a machine check TS_BOUNDS. No other tile changes, and but for the load engine neither does memory. A load or store any lane word of which is outside the store, or a load that meets a double-bit error, is a machine check with its cause, its microaddress and the address of that lane word. -/
def Obligations.TileMicrowords : Prop :=
  (∀ s k, alive s = true → microOk s k 0 = true → ∃ t, Runs (.mopNop k) s t ∧ getTile t k = nextWord (spend (getTile s k) 1 true) ∧
    t = { s with tiles := nset s.tiles k (getTile t k), regs := t.regs, hdrs := t.hdrs, crier := t.crier, emitted := t.emitted, msix := t.msix }) ∧
  (∀ s k d a b fn, alive s = true → microOk s k (mopWord 1 [(d.val, 22), (a.val, 17), (b.val, 12), (fn.toNat, 6)]) = true → ∃ t, Runs (.alu k d a b fn) s t ∧
    getTile t k = nextWord (spend (setG (getTile s k) d (Config.aluFn fn (gReg (getTile s k) a) (gReg (getTile s k) b))) 1 true) ∧
    t = { s with tiles := nset s.tiles k (getTile t k), regs := t.regs, hdrs := t.hdrs, crier := t.crier, emitted := t.emitted, msix := t.msix }) ∧
  (∀ s k d a imm, alive s = true → microOk s k (mopWord 2 [(d.val, 22), (a.val, 17), (imm.toNat, 0)]) = true → ∃ t, Runs (.alui k d a imm) s t ∧
    getTile t k = nextWord (spend (setG (getTile s k) d (gReg (getTile s k) a + imm.signExtend 36)) 1 true) ∧
    t = { s with tiles := nset s.tiles k (getTile t k), regs := t.regs, hdrs := t.hdrs, crier := t.crier, emitted := t.emitted, msix := t.msix }) ∧
  (∀ s k d a b fn, alive s = true → microOk s k (mopWord 7 [(d.val, 23), (a.val, 19), (b.val, 15), (fn.toNat, 8)]) = true → ∃ t, Runs (.vop k d a b fn) s t ∧
    getTile t k = nextWord (spend (setV (getTile s k) d
      (vUnpack (Config.vopFn fn (vPack (vReg (getTile s k) a)) (vPack (vReg (getTile s k) b))))) 1 true) ∧
    t = { s with tiles := nset s.tiles k (getTile t k), regs := t.regs, hdrs := t.hdrs, crier := t.crier, emitted := t.emitted, msix := t.msix }) ∧
  (∀ s k g (base : Fin 32) off err a, alive s = true → microOk s k (mopWord 3 [(g.val, 22), (base.val, 17), (off.toNat, 0)]) = true → err ≠ 2 → a = tsAddr (getTile s k) base.val off.toNat → a < tsSize →
    ∃ t, Runs (.lds k g base off err) s t ∧
      getTile t k = nextWord (spend (setG (notePoison (getTile s k) a 1) g (tsGet (getTile s k) a)) 3 true) ∧
      (∀ m, m ≠ k → getTile t m = getTile s m) ∧ t.hostMem = s.hostMem ∧ t.hbm = s.hbm ∧ t.commons = s.commons ∧ t.jobs = s.jobs ∧
      (err ≠ 1 → t = { s with tiles := nset s.tiles k (getTile t k), regs := t.regs, hdrs := t.hdrs, crier := t.crier, emitted := t.emitted, msix := t.msix, arbs := t.arbs })) ∧
  (∀ s k g (base : Fin 32) off a, alive s = true → microOk s k (mopWord 4 [(g.val, 22), (base.val, 17), (off.toNat, 0)]) = true → a = tsAddr (getTile s k) base.val off.toNat → a < tsSize →
    ∃ t, Runs (.sts k g base off) s t ∧
      getTile t k = nextWord (spend (tsPut (getTile s k) a (gReg (getTile s k) g.val)) 2 true) ∧
      t = { s with tiles := nset s.tiles k (getTile t k), regs := t.regs, hdrs := t.hdrs, crier := t.crier, emitted := t.emitted, msix := t.msix, arbs := t.arbs }) ∧
  (∀ s k v (base : Fin 32) off err a, alive s = true → microOk s k (mopWord 5 [(v.val, 23), (base.val, 18), (off.toNat, 0)]) = true → err ≠ 2 → a = tsAddr (getTile s k) base.val off.toNat → a + 16 ≤ tsSize →
    ∃ t, Runs (.vld k v base off err) s t ∧
      getTile t k = nextWord (spend (setV (notePoison (getTile s k) a 16) v
        ((List.range 16).map fun i => tsGet (getTile s k) (a + i))) 2 true) ∧
      (∀ m, m ≠ k → getTile t m = getTile s m) ∧ t.hostMem = s.hostMem ∧ t.hbm = s.hbm ∧ t.commons = s.commons ∧ t.jobs = s.jobs ∧
      (err ≠ 1 → t = { s with tiles := nset s.tiles k (getTile t k), regs := t.regs, hdrs := t.hdrs, crier := t.crier, emitted := t.emitted, msix := t.msix, arbs := t.arbs })) ∧
  (∀ s k v (base : Fin 32) off a, alive s = true → microOk s k (mopWord 6 [(v.val, 23), (base.val, 18), (off.toNat, 0)]) = true → a = tsAddr (getTile s k) base.val off.toNat → a + 16 ≤ tsSize →
    ∃ t, Runs (.vst k v base off) s t ∧
      getTile t k = nextWord (spend (tsPutAll (getTile s k) a (vReg (getTile s k) v)) 2 true) ∧
      t = { s with tiles := nset s.tiles k (getTile t k), regs := t.regs, hdrs := t.hdrs, crier := t.crier, emitted := t.emitted, msix := t.msix, arbs := t.arbs }) ∧
  (∀ s k u cmd p, alive s = true → microOk s k (mopWord 8 [(u.toNat, 24), (cmd.toNat, 16), (p.val, 11)]) = true → u.toNat ≤ 6 → Config.unitReserved u cmd = false →
    ∃ t m a l, Runs (.unit k u cmd p) s t ∧
      m = { s with regs := m.regs, hdrs := m.hdrs, crier := m.crier, emitted := m.emitted, msix := m.msix, freeCtr := m.freeCtr } ∧
      l.length = 4 ∧ (∀ i, i < 4 → p.val + i < 32 → l[i]? = some (gReg (getTile s k) (p.val + i))) ∧
      (unitFits u.toNat cmd.toNat l = true →
        getTile t k = nextWord (spend { unitAct m (getTile s k) u.toNat cmd.toNat l with
          units := nset (getTile s k).units u.toNat (cmd.toNat, l) } 1 true) ∧ (∀ n, n ≠ k → getTile t n = getTile s n) ∧
        t.hbm = (loadOut { m with arbs := a } (getTile s k) u.toNat cmd.toNat l).hbm ∧
        t.commons = (loadOut { m with arbs := a } (getTile s k) u.toNat cmd.toNat l).commons ∧ t.hostMem = s.hostMem ∧ t.jobs = s.jobs ∧
        (u.toNat ≠ 4 → t = { s with tiles := nset s.tiles k (getTile t k), regs := t.regs, hdrs := t.hdrs, crier := t.crier, emitted := t.emitted, msix := t.msix, freeCtr := t.freeCtr, arbs := t.arbs })) ∧
      (unitFits u.toNat cmd.toNat l = false → (getTile t k).run = 4 ∧ (getTile t k).mchk = 9 ∧
        (getTile t k).mchkTs = max (Config.unitMove u.toNat cmd.toNat l).lw tsSize % 2 ^ 19 ∧ (getTile t k).mchkU = (getTile s k).upc)) ∧
  (∀ s k c w a n err, (∃ g base off, c = .lds k g base off err ∧ w = mopWord 3 [(g.val, 22), (base.val, 17), (off.toNat, 0)] ∧
        a = tsAddr (getTile s k) base.val off.toNat ∧ n = 1) ∨
      (∃ g base off, c = .sts k g base off ∧ w = mopWord 4 [(g.val, 22), (base.val, 17), (off.toNat, 0)] ∧
        a = tsAddr (getTile s k) base.val off.toNat ∧ n = 1 ∧ err = 0) ∨
      (∃ v base off, c = .vld k v base off err ∧ w = mopWord 5 [(v.val, 23), (base.val, 18), (off.toNat, 0)] ∧
        a = tsAddr (getTile s k) base.val off.toNat ∧ n = 16) ∨
      (∃ v base off, c = .vst k v base off ∧ w = mopWord 6 [(v.val, 23), (base.val, 18), (off.toNat, 0)] ∧
        a = tsAddr (getTile s k) base.val off.toNat ∧ n = 16 ∧ err = 0) →
    alive s = true → microOk s k w = true → tsSize < a + n ∨ err = 2 →
    ∃ t, Runs c s t ∧ (getTile t k).run = 4 ∧ (getTile t k).mchk = (if tsSize < a + n then 9 else 4) ∧
      (getTile t k).mchkTs = (if tsSize < a + n then max a tsSize else a) % 2 ^ 19 ∧ (getTile t k).mchkU = (getTile s k).upc)

/-- The call stack holds two return addresses: a CALL with an entry free pushes the address of the word after it and goes to its target, and a RET with an entry full goes to the last one pushed. A CALL with both entries full, or a RET with both entries empty, raises a machine check with cause STACK. -/
def Obligations.TileCallStack : Prop :=
  (∀ s k target, alive s = true → microOk s k (mopWord 0x0A [(target.toNat, 0)]) = true → (getTile s k).stack.length < 2 →
    ∃ t, Runs (.call k target) s t ∧ getTile t k = goTo (spend { getTile s k with
      stack := (getTile s k).stack ++ [((getTile s k).upc + 1) % 2 ^ 17] } 2 true) target.toNat ∧
      (∀ m, m ≠ k → getTile t m = getTile s m)) ∧
  (∀ s k a, alive s = true → microOk s k (mopWord 0x0B []) = true → (getTile s k).stack.getLast? = some a →
    ∃ t, Runs (.ret k) s t ∧ getTile t k = goTo (spend { getTile s k with stack := (getTile s k).stack.dropLast } 2 true) a ∧
      (∀ m, m ≠ k → getTile t m = getTile s m)) ∧
  (∀ s k target, alive s = true → microOk s k (mopWord 0x0A [(target.toNat, 0)]) = true → 2 ≤ (getTile s k).stack.length →
    ∃ t, Runs (.call k target) s t ∧ (getTile t k).run = 4 ∧ (getTile t k).mchk = 6 ∧ (hdr t (tilePage k)).fltSrc.getLsbD 0 = true) ∧
  (∀ s k, alive s = true → microOk s k (mopWord 0x0B []) = true → (getTile s k).stack = [] →
    ∃ t, Runs (.ret k) s t ∧ (getTile t k).run = 4 ∧ (getTile t k).mchk = 6 ∧ (hdr t (tilePage k)).fltSrc.getLsbD 0 = true)

/-- A taken BR goes to its target and an untaken one to the next word (R215). A WAIT whose condition holds clears TO and goes on; one with no timeout left sets TO; any other waits, from then on with the request that was pending (R217). The condition coming in time clears TO, the timeout sets it unless the condition is seen to hold at its last TCLK; both count the TCLK that had not been counted. OPDONE goes to the next op word, and a stepping tile halts (R212, R228); a next op word of bad parity or without a routine is a machine check. JEND with status 0 to 2 ends the job with its output after its 4 TCLK, any other status, or no job, frees the tile (R215, R224). -/
def Obligations.TileControl : Prop :=
  (∀ s k cond g target v, alive s = true → microOk s k (mopWord 9 [(cond.toNat, 22), (g.val, 17), (target.toNat, 0)]) = true → brHolds (getTile s k) cond.toNat g.val = some v →
    ∃ t, Runs (.br k cond g target) s t ∧
      getTile t k = (if v then goTo (spend (getTile s k) 2 true) target.toNat else nextWord (spend (getTile s k) 1 true)) ∧
      (∀ m, m ≠ k → getTile t m = getTile s m)) ∧
  (∀ s k cond exp tmo tsh holds, alive s = true → microOk s k (mopWord 0x0C [(cond.toNat, 21), (if exp then 1 else 0, 20), (tmo.toNat, 8), (tsh.toNat, 4)]) = true → cond.toNat < 0x0C →
    ∃ t, Runs (.wait k cond exp tmo tsh holds) s t ∧
      getTile t k =
        (if condHolds s k cond.toNat holds then
          waitEnd (spend (getTile s k) 1 (waitCounts (getTile s k) exp)) false
        else if tmo.toNat * 2 ^ tsh.toNat = 0 then waitEnd (spend (getTile s k) 1 (waitCounts (getTile s k) exp)) true
        else { spend (getTile s k) 1 (waitCounts (getTile s k) exp) with
          wait := some ⟨cond.toNat, exp, tmo.toNat * 2 ^ tsh.toNat, 0, reqPending (getTile s k)⟩ }) ∧
      (∀ m, m ≠ k → getTile t m = getTile s m)) ∧
  (∀ s k n w, alive s = true → waiting s k = some w → w.gone ≤ n → n ≤ w.timeout → condHolds s k w.cond true = true →
    ∃ t, Runs (.waitConditionMet k n) s t ∧
      getTile t k = waitEnd (waitSpend s k w (n - w.gone)).1 false ∧ (∀ m, m ≠ k → getTile t m = getTile s m)) ∧
  (∀ s k w, alive s = true → waiting s k = some w →
    ∃ t, Runs (.waitTimeout k) s t ∧
      getTile t k = waitEnd (waitSpend s k w (w.timeout - w.gone)).1 (!condHolds s k w.cond false) ∧
      (∀ m, m ≠ k → getTile t m = getTile s m)) ∧
  (∀ s k, alive s = true → microOk s k (mopWord 0x0E []) = true →
    opFault (getTile s k) (((getTile s k).opaddr + 1) % 1024) = none →
    ∃ t, Runs (.opdone k) s t ∧ (getTile t k).opaddr = ((getTile s k).opaddr + 1) % 1024 ∧
      (getTile t k).run = (if (getTile s k).stepping then 3 else 1) ∧ (getTile t k).stepping = false ∧
      (getTile t k).g = (getTile s k).g ∧ (getTile t k).job = (getTile s k).job ∧ (∀ m, m ≠ k → getTile t m = getTile s m)) ∧
  (∀ s k c, alive s = true → microOk s k (mopWord 0x0E []) = true → opFault (getTile s k) (((getTile s k).opaddr + 1) % 1024) = some c →
    ∃ t, Runs (.opdone k) s t ∧ (getTile t k).run = 4 ∧ (getTile t k).mchk = c ∧ (c = 3 ∨ c = 5)) ∧
  (∀ s k (g : Fin 32) j, alive s = true → microOk s k (mopWord 0x0F [(g.val, 22)]) = true → tileJob s k = some j → (gReg (getTile s k) g.val).toNat % 256 ≤ 2 →
    ∃ u, Runs (.jend k g) s (jobEnd j.id u) ∧ getTile u k = spend (getTile s k) 4 true ∧ u.jobs = s.jobs ∧ u.ctxs = s.ctxs) ∧
  (∀ s k (g : Fin 32), alive s = true → microOk s k (mopWord 0x0F [(g.val, 22)]) = true → (∀ j, tileJob s k = some j → 2 < (gReg (getTile s k) g.val).toNat % 256) →
    ∃ t, Runs (.jend k g) s t ∧ (getTile t k).run = 0 ∧ (getTile t k).job = none ∧ (hdr t (tilePage k)).evtPend.getLsbD 0 = true ∧
      (∀ j, tileJob s k = some j → ∀ i ∈ t.jobs, i.id ≠ j.id) ∧ ∀ m, m ≠ k → getTile t m = getTile s m)

/-- At a SAFEPT with no request the next word follows. A pending ABORT, of the queue or of a spent budget, ends the job and frees the tile; else a HALT halts it and else a PREEMPT suspends it, with the resume record at LW 0x10, whose first word holds the microaddress, the operation address, the request and the call depth (R221, R223). A request that has waited 65,536 TCLK, those of a running WAIT among them, is a machine check SP_TMO (R222); an encode job whose budget is used up, in a counted WAIT also, is a machine check BUDGET and a decode job is asked to abort, with the TCLK up to then counted (R214). A machine check stops the tile, records its cause, ends its job, raises TILE_MCHK and fences the tile (R225). -/
def Obligations.TileSafePoints : Prop :=
  (∀ s k, alive s = true → microOk s k (mopWord 0x0D []) = true → reqPending (getTile s k) = false →
    ∃ t, Runs (.safept k) s t ∧ getTile t k = nextWord (spend (getTile s k) 1 true) ∧ ∀ m, m ≠ k → getTile t m = getTile s m) ∧
  (∀ s k, alive s = true → microOk s k (mopWord 0x0D []) = true → (getTile s k).reqA = true ∨ (getTile s k).reqB = true →
    ∃ t, Runs (.safept k) s t ∧ (getTile t k).run = 0 ∧ (getTile t k).job = none ∧ reqPending (getTile t k) = false ∧
      (∀ j, tileJob s k = some j → ∀ i ∈ t.jobs, i.id ≠ j.id) ∧ ∀ m, m ≠ k → getTile t m = getTile s m) ∧
  (∀ s k, alive s = true → microOk s k (mopWord 0x0D []) = true → (getTile s k).reqA = false → (getTile s k).reqB = false → (getTile s k).reqH = true →
    ∃ t, Runs (.safept k) s t ∧ (getTile t k).run = 3 ∧ (getTile t k).reqH = false ∧ (getTile t k).job = (getTile s k).job ∧
      tsGet (getTile t k) 0x10 = BitVec.ofNat 36 ((getTile s k).upc + (getTile s k).opaddr * 2 ^ 17 + 2 * 2 ^ 27 + (getTile s k).stack.length * 2 ^ 29) ∧
      (hdr t (tilePage k)).evtPend.getLsbD 3 = true ∧ t.jobs = s.jobs) ∧
  (∀ s k, alive s = true → microOk s k (mopWord 0x0D []) = true → (getTile s k).reqA = false → (getTile s k).reqB = false → (getTile s k).reqH = false → (getTile s k).reqP = true →
    ∃ t, Runs (.safept k) s t ∧ (getTile t k).run = 2 ∧ (getTile t k).reqP = false ∧ (getTile t k).job = (getTile s k).job ∧
      tsGet (getTile t k) 0x10 = BitVec.ofNat 36 ((getTile s k).upc + (getTile s k).opaddr * 2 ^ 17 + 1 * 2 ^ 27 + (getTile s k).stack.length * 2 ^ 29) ∧
      (hdr t (tilePage k)).evtPend.getLsbD 2 = true ∧ t.jobs = s.jobs) ∧
  (∀ s k c cause, (c = .spTmo k ∧ reqPending (getTile s k) = true ∧ 65536 ≤ (getTile s k).reqAge + waitLeft (getTile s k) ∧ cause = 8) ∨
      (c = .budgetExpiry k ∧ (getTile s k).kind = 0 ∧ (∃ b, (getTile s k).budget = some b ∧ b ≤ (getTile s k).used +
        (if (getTile s k).wait.any (fun w => waitCounts (getTile s k) w.exp) then waitLeft (getTile s k) else 0)) ∧ cause = 7) ∨
      ((∃ addr, c = .machineCheck k cause addr) ∧ 1 ≤ cause ∧ cause ≤ 0x0B) →
    alive s = true → tileRuns s k = true →
    ∃ t, Runs c s t ∧ (getTile t k).run = 4 ∧ (getTile t k).mchk = cause ∧ (getTile t k).mchkU = (getTile s k).upc ∧ (getTile t k).job = none ∧
      (hdr t (tilePage k)).fenced = true ∧ (hdr t (tilePage k)).fltSrc.getLsbD 0 = true ∧ (hdr t (tilePage k)).evtPend.getLsbD 1 = true ∧
      (∀ j, tileJob s k = some j → ∀ i ∈ t.jobs, i.id ≠ j.id) ∧ ∀ m, m ≠ k → getTile t m = getTile s m) ∧
  (∀ s k b, alive s = true → tileRuns s k = true → (getTile s k).kind = 1 → (getTile s k).budget = some b →
    b ≤ (getTile s k).used + (if (getTile s k).wait.any (fun w => waitCounts (getTile s k) w.exp) then waitLeft (getTile s k) else 0) →
    ∃ t, Runs (.budgetExpiry k) s t ∧ t = { s with tiles := t.tiles, freeCtr := t.freeCtr } ∧ (∀ m, m ≠ k → getTile t m = getTile s m) ∧
      (getTile t k).reqB = true ∧ ((getTile s k).wait = none → getTile t k = { getTile s k with reqB := true }) ∧
      ((getTile s k).wait ≠ none → (getTile t k).used = max b (getTile s k).used ∧ (getTile t k).wait.isSome = true))

/-- A TILE_CMD write takes effect from a Steward only; the host's is counted (R227). PREEMPT of a diagnostic job and HALT with debug unlocked become pending (R221); RESUME of a suspended or halted tile and STEP of a halted one make it run, and RESUME reloads G00–G07 (R223, R228); RETIRE of a fenced tile disables it and it is no spare from then on, with PERMANENT it programs the RET fuse, which the next boot senses; PROMOTE of a locked spare while fewer than 96 tiles are enabled enables it. A command refused by its own condition is counted in TILE_REQ_DENY and changes nothing else. A read of TILE_TS_DATA_LO while debug is unlocked and the tile does not run gives bits 31:0 of the addressed lane word and latches the rest for the read of the HI word; refused, either read gives 0 and is counted. -/
def Obligations.TileCommands : Prop :=
  (∀ s n k, k < 104 → Accepts s (.steward n) (tilePage k) 0x104 → tileBusy (getTile s k) = true → (getTile s k).kind = 2 →
    Runs (.preempt (.steward n) k) s (setTile s k { getTile s k with reqP := true })) ∧
  (∀ s n k, k < 104 → Accepts s (.steward n) (tilePage k) 0x104 → tileBusy (getTile s k) = true → debugUnlocked s = true →
    pageHeld s (tilePage k) = false → Runs (.halt (.steward n) k) s (setTile s k { getTile s k with reqH := true })) ∧
  (∀ s n k, k < 104 → Accepts s (.steward n) (tilePage k) 0x104 → (getTile s k).run = 2 ∨ (getTile s k).run = 3 →
    ∃ t, Runs (.resume (.steward n) k) s t ∧ (getTile t k).run = 1 ∧ (getTile t k).stepping = false ∧
      (∀ i, i < 8 → gReg (getTile t k) i = tsGet (getTile s k) (0x12 + i)) ∧
      (∀ i, 8 ≤ i → i < 32 → gReg (getTile t k) i = gReg (getTile s k) i) ∧ (getTile t k).store = (getTile s k).store ∧
      t = { s with tiles := t.tiles } ∧ ∀ m, m ≠ k → getTile t m = getTile s m) ∧
  (∀ s n k, k < 104 → Accepts s (.steward n) (tilePage k) 0x104 → (getTile s k).run = 3 →
    Runs (.step (.steward n) k) s (setTile s k (nextWord { getTile s k with run := 1, stepping := true }))) ∧
  (∀ s n k perm, k < 104 → Accepts s (.steward n) (tilePage k) 0x104 → (hdr s (tilePage k)).fenced = true → tileJob s k = none →
    ∃ t, Runs (.retire (.steward n) k perm) s t ∧
      getTile t k = { getTile s k with enabled := false, run := 6, ungated := false, retired := true } ∧ isSpare t k = false ∧
      t.fuses = (if perm then { s.fuses with retBurnt := s.fuses.retBurnt ||| BitVec.ofNat 104 (2 ^ k) } else s.fuses) ∧
      t = { s with tiles := t.tiles, fuses := t.fuses } ∧ ∀ m, m ≠ k → getTile t m = getTile s m) ∧
  (∀ s n k, k < 104 → Accepts s (.steward n) (tilePage k) 0x104 → isSpare s k = true → (getTile s k).patchLocked = true →
    ((List.range 104).filter fun i => (getTile s i).enabled).length < 96 →
    Runs (.promote (.steward n) k) s (setTile s k { getTile s k with enabled := true, run := if (getTile s k).run = 6 then 0 else (getTile s k).run })) ∧
  (∀ s rq k c, k < 104 → Accepts s rq (tilePage k) 0x104 →
    (isSteward rq = false ∧ c ∈ [Instr.preempt rq k, .halt rq k, .resume rq k, .step rq k, .retire rq k true, .retire rq k false, .promote rq k]) ∨
    (c = .step rq k ∧ (getTile s k).run ≠ 3) ∨ (c = .resume rq k ∧ (getTile s k).run ≠ 2 ∧ (getTile s k).run ≠ 3) ∨
    (c = .retire rq k true ∧ (hdr s (tilePage k)).fenced = false) ∨ (c = .promote rq k ∧ isSpare s k = false) →
    Runs c s (bump s (tilePage k) 0 0x128 1)) ∧
  (∀ s rq k, k < 104 → readable s (tilePage k) = true → debugUnlocked s = true → (getTile s k).run ≠ 1 →
    rbits s (tilePage k) 0 0x130 18 0 < tsSize →
    Runs (.tileTsDataRead rq k false) s { s with
      out := (tsGet (getTile s k) (rbits s (tilePage k) 0 0x130 18 0)).toNat % 2 ^ 32
      latches := nset s.latches (latchKey rq (tilePage k) 0x138)
        (BitVec.ofNat 32 ((tsGet (getTile s k) (rbits s (tilePage k) 0 0x130 18 0)).toNat / 2 ^ 32)) }) ∧
  (∀ s rq k hi, k < 104 → readable s (tilePage k) = true → debugUnlocked s = false ∨ (getTile s k).run = 1 →
    Runs (.tileTsDataRead rq k hi) s (bump { s with out := 0 } (tilePage k) 0 0x128 1)) ∧
  (∀ s rq k v, k < 104 → readable s (tilePage k) = true → debugUnlocked s = true → (getTile s k).run ≠ 1 →
    nget s.latches (latchKey rq (tilePage k) 0x138) = some v →
    Runs (.tileTsDataRead rq k true) s { s with out := v.toNat, latches := ndel s.latches (latchKey rq (tilePage k) 0x138) })

/-- On an idle port the guaranteed packet with the least finish time that may start is put on the port; its flow keeps what is left, and its clock moves to that finish time (R321, R322). With none, the bulk packet that the service and flow tags choose starts (R323). For an ETH port its bytes are the whole Ethernet frame of its flow entry (R106, R319). When a packet is done the port is idle; an Ethernet packet that was on the wire of a link that has stayed up goes out as a frame, and one begun without the wire, here inside a unit, is counted (R312, R492); on an output ring a unit that ends neither its picture nor the stream is stored there, those bytes marked that lie in poisoned words (R314, R241). -/
def Obligations.EgressPackets : Prop :=
  (∀ s p f b h, alive s = true → p < 8 → (getPort s p).cur = none → isSf p = false ∨ sfUp s (p - 3) = true →
    pickGuar (tagAll s p) (portFlows (tagAll s p) p) = some (f, b, h) →
    ∃ t pk, Runs (.egressPacketStart p) s t ∧ (getPort t p).cur = some pk ∧ pk.flow = f ∧ pk.data = h.data ∧ pk.done = h.done ∧
      pk.bytes = (if isEth p then ethFrame f b (udpPayload b (getFlow s f).seq h) else h.data) ∧ pk.ctx = h.lead.ctx ∧ (getFlow t f).units = h.rest ∧ (getFlow t f).seq = ((getFlow s f).seq + 1) % 65536 ∧
      (getFlow t f).fLast = gFinish (tagAll s p) f b h ∧ (∀ q, q ≠ p → getPort t q = getPort s q) ∧
      t = { s with flows := t.flows, svcs := t.svcs, eports := t.eports }) ∧
  (∀ s p v f b h, alive s = true → p < 8 → (getPort s p).cur = none → isSf p = false ∨ sfUp s (p - 3) = true →
    pickGuar (tagAll s p) (portFlows (tagAll s p) p) = none →
    pickBulk (tagAll s p) (portFlows (tagAll s p) p) (svcsOf (portFlows (tagAll s p) p)) = some (v, f, b, h) →
    ∃ t pk, Runs (.egressPacketStart p) s t ∧ (getPort t p).cur = some pk ∧ pk.flow = f ∧ pk.data = h.data ∧ pk.done = h.done ∧
      pk.bytes = (if isEth p then ethFrame f b (udpPayload b (getFlow s f).seq h) else h.data) ∧
      (getFlow t f).units = h.rest ∧ (getPort t p).v = max (getPort s p).v (getSvc (tagAll s p) v).tag ∧
      t = { s with flows := t.flows, svcs := t.svcs, eports := t.eports }) ∧
  (∀ s p e pk, alive s = true → p < 2 → (getPort s p).cur = some pk → pk.wire = true → pk.lost = false → (getEth s p).linkUp = true →
    ∃ t, Runs (.egressPacketDone p e) s t ∧ (getPort t p).cur = none ∧ .frame p pk.bytes ∈ t.emitted) ∧
  (∀ s p e pk, alive s = true → p < 8 → (getPort s p).cur = some pk → pk.done = [] →
    ∃ t, Runs (.egressPacketDone p e) s t ∧ (getPort t p).cur = none) ∧
  (∀ s p e pk, alive s = true → p < 2 → (getPort s p).cur = some pk → pk.wire = false → pk.done = [] →
    ∃ t, Runs (.egressPacketDone p e) s t ∧ (getPort t p).cur = none ∧
      rgetN t (ethPage p) 0 0x128 = min 0xFFFFFFFF (rgetN s (ethPage p) 0 0x128 + 1)) ∧
  (∀ s p e pk u, alive s = true → p = 2 ∨ p = 7 → (getPort s p).cur = some pk → pk.done = [u] → u.last = false → u.se = false → e = false →
    ringBad s (Fl.ring (flowBytes s pk.flow)) (getRing s (Fl.ring (flowBytes s pk.flow))).wr u.bytes.length = false →
    ∃ t, Runs (.egressPacketDone p e) s t ∧ (getPort t p).cur = none ∧
      (getRing t (Fl.ring (flowBytes s pk.flow))).wr =
        ((getRing s (Fl.ring (flowBytes s pk.flow))).wr + u.bytes.length) % 2 ^ (ringLog s (Fl.ring (flowBytes s pk.flow)) + 1) ∧
      t.hostMem = (ringStore s (Fl.ring (flowBytes s pk.flow)) (getRing s (Fl.ring (flowBytes s pk.flow))).wr
        ((List.range u.bytes.length).zip u.bytes |>.map fun e =>
          (e.2, getIx ((fifoNext s pk.fifo pk.words).map s.comPoison.contains) (e.1 / 4) false)) fun _ => false).hostMem ∧
      t.hbm = (ringStore s (Fl.ring (flowBytes s pk.flow)) (getRing s (Fl.ring (flowBytes s pk.flow))).wr
        ((List.range u.bytes.length).zip u.bytes |>.map fun e =>
          (e.2, getIx ((fifoNext s pk.fifo pk.words).map s.comPoison.contains) (e.1 / 4) false)) fun _ => false).hbm)

/-- A link of an enabled port coming up sets link and FEC lock, and that of a port with neither direction enabled stays down, as its lanes are gated (R52); one going down clears both, loses the packet on the wire and raises the port's fault (R331, R492). A transmitted event message's timestamp, its time advanced by the egress latency, enters a FIFO of 64 in its turn, between packets and behind every guaranteed one; one too many is counted, and so is a message discarded because the link is down or transmission is off (R327, R492). Reading PTP_TX_ID gives the oldest and removes it. A revoked bulk grant keeps the count of flits delivered so far, a whole burst none (R339); a missed arrival time is counted (R340). -/
def Obligations.EthernetAndFabric : Prop :=
  (∀ s p, alive s = true → p < 2 → ethOn s p = false → Runs (.ethLinkUp p) s s) ∧
  (∀ s p, alive s = true → p < 2 → ethOn s p = true → Runs (.ethLinkUp p) s (setEth s p { getEth s p with linkUp := true, fecLock := true })) ∧
  (∀ s p, alive s = true → p < 2 → (getEth s p).linkUp = true → ∃ t, Runs (.ethLinkDown p) s t ∧ (getEth t p).linkUp = false ∧
    (getEth t p).fecLock = false ∧ (hdr t (ethPage p)).fltSrc.getLsbD 0 = true ∧ (∀ q, q ≠ p → getEth t q = getEth s q) ∧
    (getPort t p).cur = (getPort s p).cur.map fun pk => { pk with lost := true }) ∧
  (∀ s p ty sid, alive s = true → p < 2 → ctlTurn s p = true → (getEth s p).linkUp = false ∨ rbits s (ethPage p) 0 0x100 0 0 = 0 →
    Runs (.ptpEventMessage p true ty sid) s (bump s (ethPage p) 0 0x128 1)) ∧
  (∀ s p ty sid, alive s = true → p < 2 → ctlTurn s p = true → (getEth s p).linkUp = true → rbits s (ethPage p) 0 0x100 0 0 = 1 → (getEth s p).ptp.length < 64 →
    Runs (.ptpEventMessage p true ty sid) s (setEth s p { getEth s p with ptp := (getEth s p).ptp ++
      [⟨(s.dt + rbits s (ethPage p) 0 0x108 19 0 * 256) % 2 ^ 80, ty % 16, sid % 65536⟩] })) ∧
  (∀ s p ty sid, alive s = true → p < 2 → ctlTurn s p = true → (getEth s p).linkUp = true → rbits s (ethPage p) 0 0x100 0 0 = 1 → 64 ≤ (getEth s p).ptp.length →
    Runs (.ptpEventMessage p true ty sid) s (bump s (ethPage p) 0 0x120 1)) ∧
  (∀ s p ty sid, alive s = true → p < 2 → (getEth s p).linkUp = true → rbits s (ethPage p) 0 0x100 1 1 = 1 →
    Runs (.ptpEventMessage p false ty sid) s { s with out := (s.dt + rbits s (ethPage p) 0 0x10C 19 0 * 256) % 2 ^ 80 }) ∧
  (∀ s rq p x rest, busUp s = true → p < 2 → pageLive s (ethPage p) = true → (hdr s (ethPage p)).inReset = false →
    (getEth s p).ptp = x :: rest →
    Runs (.ptpTxIdRead rq p) s (setEth { s with out := 2 ^ 31 + x.msgType * 2 ^ 24 + x.seqId } p { getEth s p with ptp := rest })) ∧
  (∀ s a r d n, alive s = true → d < n → ∃ t, Runs (.grantRevocation a r d n) s t ∧
    t.bursts = nset s.bursts (a * 65536 + r) d ∧
    t = { s with bursts := t.bursts, regs := t.regs, hdrs := t.hdrs, crier := t.crier, emitted := t.emitted, msix := t.msix }) ∧
  (∀ s a r d n, alive s = true → n ≤ d → Runs (.grantRevocation a r d n) s { s with bursts := ndel s.bursts (a * 65536 + r) }) ∧
  (∀ s a r, alive s = true → Runs (.fabEtaMiss a r) s (bump s tkbPg 0 0x268 1))

/-- On an UP port a flit whose CRC fails is counted and its class asked for again with NAK, and one out of order is asked for again (R350). On a port that does not police, a DATA flit in order that begins and does not end a packet for this device is taken: the class expects the next sequence number and the packet is begun; the 32nd of the link that is not acknowledged is answered with a LINK flit at once. A LINK flit acts on the eight classes in turn, and the oldest flit, acknowledged, leaves the class's retry list (R349, R350). With taken flits unacknowledged the timer sends one LINK flit. After the time-out every sent flit of the class goes out again, counted (R351); past the retry limit the port raises SF_RETRY_LIMIT. -/
def Obligations.SelfoldFlits : Prop :=
  (∀ s p b, alive s = true → p < 4 → sfUp s p = true → Flit.crcOk b = false →
    Runs (.data p b) s (sendNak (bump s (sfPage p) 0 0x120 1) p (Flit.cls b))) ∧
  (∀ s p b, alive s = true → p < 4 → sfUp s p = true → flitReject s p b = none → Flit.typ b < 2 →
    Flit.seq b ≠ (getIx (getSf s p).rx (Flit.cls b) {}).next → Runs (.data p b) s (sendNak s p (Flit.cls b))) ∧
  (∀ s p b, alive s = true → p < 4 → sfUp s p = true → flitReject s p b = none → Flit.typ b = 0 →
    Flit.seq b = (getIx (getSf s p).rx (Flit.cls b) {}).next → sumN ((getSf s p).rx.map (·.taken)) + 1 ≠ 32 →
    rbits s (sfPage p) 0 0x100 1 1 = 0 → Flit.dst b = s.casc.devId → Flit.sop b = true → Flit.eop b = false →
    ∃ t, Runs (.data p b) s t ∧ (getIx (getSf t p).rx (Flit.cls b) {}).next = (Flit.seq b + 1) % 256 ∧
      (getIx (getSf t p).rx (Flit.cls b) {}).taken = (getIx (getSf s p).rx (Flit.cls b) {}).taken + 1 ∧
      t.casc.rxBuf = (s.casc.rxBuf.filter fun r => !(r.port == p && r.cls == Flit.cls b && r.src == Flit.src b)) ++
        [⟨p, Flit.cls b, Flit.src b, Flit.payload b⟩] ∧ t = { s with sfs := t.sfs, casc := t.casc }) ∧
  (∀ s p b, alive s = true → p < 4 → sfUp s p = true → flitReject s p b = none → Flit.typ b = 0 →
    Flit.seq b = (getIx (getSf s p).rx (Flit.cls b) {}).next → sumN ((getSf s p).rx.map (·.taken)) + 1 = 32 →
    rbits s (sfPage p) 0 0x100 1 1 = 0 → Flit.dst b = s.casc.devId → Flit.sop b = true → Flit.eop b = false →
    ∃ t e, Runs (.data p b) s t ∧ (∀ r ∈ (getSf t p).rx, r.taken = 0) ∧ t.emitted = s.emitted ++ [.flit p e] ∧ Flit.typ e = 2 ∧
      (getIx (getSf t p).rx (Flit.cls b) {}).next = (Flit.seq b + 1) % 256 ∧ t = { s with sfs := t.sfs, casc := t.casc, emitted := t.emitted }) ∧
  (∀ s p b, alive s = true → p < 4 → sfUp s p = true → flitReject s p b = none → Flit.typ b = 2 →
    Runs (.link p b) s ((List.range 8).foldl (linkCls p b) s)) ∧
  (∀ s p b c f rest, p < 4 → c < 8 → sfUp s p = true → byteAt b (8 + 2 * c + 1) = 2 →
    (getTx s p c).unacked = f :: rest → f.seq = byteAt b (8 + 2 * c) → (∀ g ∈ f :: rest, g.sent ≠ 0) →
    (getTx (linkCls p b s c) p c).unacked = rest) ∧
  (∀ s p, alive s = true → p < 4 → sfUp s p = true → (∃ r ∈ (getSf s p).rx, r.taken ≠ 0) →
    ∃ t e, Runs (.linkAckTimer p) s t ∧ (∀ r ∈ (getSf t p).rx, r.taken = 0) ∧ t.emitted = s.emitted ++ [.flit p e] ∧ Flit.typ e = 2 ∧
      t = { s with sfs := t.sfs, emitted := t.emitted }) ∧
  (∀ s p c f rest wait, alive s = true → p < 4 → c < 8 → sfUp s p = true → (getTx s p c).unacked = f :: rest ++ wait →
    (∀ g ∈ f :: rest, g.sent ≠ 0 ∧ g.sent ≤ sfMax s p) → (∀ g ∈ wait, g.sent = 0) → f.at_ + nsT (sfTmo s p) ≤ s.dt →
    (∀ i, fifoAddr s (retryFifo p c) i ∉ s.comPoison) →
    ∃ t, Runs (.retryTimeout p c) s t ∧ rgetN t (sfPage p) 0 0x128 = min 0xFFFFFFFF (rgetN s (sfPage p) 0 0x128 + 1) ∧
      t.emitted = s.emitted ++ (f :: rest).map (fun g => .flit p (restamp s.casc.epoch.toNat g.bytes)) ∧
      (getTx t p c).unacked = (f :: rest).map (fun g =>
        { g with bytes := restamp s.casc.epoch.toNat g.bytes, sent := g.sent + 1, at_ := s.dt }) ++ wait) ∧
  (∀ s p c f rest, alive s = true → p < 4 → c < 8 → sfUp s p = true → (getTx s p c).unacked = f :: rest → f.sent ≠ 0 →
    (∃ g ∈ f :: rest, sfMax s p < g.sent) → f.at_ + nsT (sfTmo s p) ≤ s.dt →
    ∃ t, Runs (.retryTimeout p c) s t ∧ (hdr t (sfPage p)).fltSrc.getLsbD 1 = true)

/-- ENUMERATE on an idle master makes it device 0, forgets the tree and has its first probe under way, or is done with no port UP; elsewhere it is counted (R352, R368). A new device takes the ID, depth and parent port offered; a further port to an enumerated device is a standby link. The master records the device that a reply names (R352). A heartbeat timer counts; the master's heartbeat restarts the master timer, another's its node's (R355); 32 us without one, the device raises CASC_MASTER_LOST. A new epoch is taken, with its event (R357). A device whose heartbeats stop is declared dead under the next epoch, here with no stream in the list (R356). FENCE leaves the device fenced; a dead peer that is heard 10 us after the last FENCE is answered with another (R357, R358). RESET_DEVICE breaks the target's semaphores and sends it the message, or for the master resets it. -/
def Obligations.CascadeTree : Prop :=
  (∀ s rq, Accepts s rq cascPg 0x104 → isMaster s = true → s.casc.cmdBusy = false →
    ∃ t, Runs (.enumerate rq) s t ∧ t.casc.devId = 0 ∧ t.casc.depth = 0 ∧ t.casc.enumDone = true ∧ t.casc.nodes = [] ∧
      (match upPorts s none with
       | [] => t.casc.cmdBusy = false ∧ (hdr t cascPg).evtPend.getLsbD 0 = true
       | p :: rest => t.casc.cmdBusy = true ∧ t.casc.enumCur = some ⟨0, p, 1, 1⟩ ∧ t.casc.enumWork = rest.map fun q => (0, q))) ∧
  (∀ s rq, Accepts s rq cascPg 0x104 → isMaster s = false ∨ s.casc.cmdBusy = true →
    Runs (.enumerate rq) s (bump s cascPg 0 0x138 1)) ∧
  (∀ s port id depth parent via sp, alive s = true → port < 4 → sfUp s port = true → 4 ≤ via → isMaster s = false →
    s.casc.parentPort = none ∨ s.casc.parentPort = some port → id < 2048 →
    ∃ t, Runs (.enum port id depth parent via sp) s t ∧ t.casc.devId = id ∧ t.casc.depth = depth ∧ t.casc.enumDone = true ∧
      t.casc.parentPort = some port ∧ t.casc.spare = sp.contains s.fuses.serial ∧ (getSf t port).role = 1 ∧ (getSf t port).peer = parent) ∧
  (∀ s port id depth parent via sp q, alive s = true → port < 4 → sfUp s port = true → 4 ≤ via → s.casc.parentPort = some q → q ≠ port →
    ∃ t, Runs (.enum port id depth parent via sp) s t ∧ (getSf t port).role = 3 ∧ (getSf t port).peer = parent ∧ t.casc = s.casc) ∧
  (∀ s port serial dev ports q, alive s = true → port < 4 → sfUp s port = true → isMaster s = true → s.casc.enumCur = some q → q.id < 2048 →
    ∃ t n, Runs (.enumReply port serial dev false ports) s t ∧ nget t.casc.nodes q.id = some n ∧ n.serial = serial ∧ n.parent = q.parent ∧
      n.port = q.port ∧ n.depth = q.depth ∧ n.last = s.dt ∧ n.dead = false ∧ t.casc.nextId = s.casc.nextId + 1) ∧
  (∀ s, alive s = true → s.casc.enumDone = true → ∃ t, Runs .heartbeatTimer s t ∧ t.casc.hbCount = (s.casc.hbCount + 1) % 2 ^ 32) ∧
  (∀ s port count st, alive s = true → port < 4 → sfUp s port = true → s.casc.enumDone = true → isMaster s = false →
    ∃ t, Runs (.heartbeat port 0 count st s.casc.epoch) s t ∧ t.casc = { s.casc with masterHb := s.dt, masterLost := false }) ∧
  (∀ s port dev count st n, alive s = true → port < 4 → sfUp s port = true → s.casc.enumDone = true → isMaster s = true → dev ≠ 0 →
    nget s.casc.nodes dev = some n →
    ∃ t, Runs (.heartbeat port dev count st s.casc.epoch) s t ∧ nget t.casc.nodes dev = some { n with last := s.dt } ∧
      nget t.casc.routes dev = some port) ∧
  (∀ s port dev count st e, alive s = true → port < 4 → sfUp s port = true → e ≠ s.casc.epoch →
    Runs (.heartbeat port dev count st e) s (epochDrop s port)) ∧
  (∀ s, alive s = true → s.casc.enumDone = true → isMaster s = false → s.casc.masterLost = false → s.casc.masterHb + usT 32 ≤ s.dt →
    ∃ t, Runs .cascMasterLost s t ∧ t.casc.masterLost = true ∧ (hdr t cascPg).fltSrc.getLsbD 3 = true) ∧
  (∀ s port e dead, alive s = true → port < 4 → sfUp s port = true → isMaster s = false → e ≠ s.casc.epoch →
    ∃ t, Runs (.epoch port e dead) s t ∧ t.casc.epoch = e ∧ t.casc.deadList = dead ∧ (hdr t cascPg).evtPend.getLsbD 2 = true) ∧
  (∀ s dev n, alive s = true → isMaster s = true → s.casc.streams = [] → dev ≠ 0 → nget s.casc.nodes dev = some n → n.dead = false →
    n.last + nsT (rbits s cascPg 0 0x118 16 0) ≤ s.dt →
    ∃ t m, Runs (.cascDeviceDead dev) s t ∧ t.casc.epoch = s.casc.epoch + 1 ∧ nget t.casc.nodes dev = some m ∧ m.dead = true ∧
      (hdr t cascPg).fltSrc.getLsbD 0 = true ∧ (hdr t cascPg).evtPend.getLsbD 2 = true) ∧
  (∀ s port e, alive s = true → port < 4 → sfUp s port = true → s.casc.enumDone = true → isMaster s = false →
    ∃ t, Runs (.fence port e s.casc.devId) s t ∧ t.casc.fenced = true ∧
      t = cascadeReset (raiseFault (withCasc s fun c => { c with fenced := true }) cascPg 1 0)) ∧
  (∀ s p, alive s = true → p < 4 → sfUp s p = true → (getSf s p).deadPeer = true → (getSf s p).heard = true → fenceDue s p = true →
    ∃ t b, Runs (.fenceRepeat p) s t ∧ (getSf t p).heard = false ∧ .flit p b ∈ t.emitted ∧ Flit.typ b = 6 ∧ (hdr t (sfPage p)).evtPend.getLsbD 2 = true) ∧
  (∀ s rq dev, Accepts s rq cascPg 0x104 → isMaster s = true → s.casc.cmdBusy = false →
    Runs (.resetDevice rq dev) s (if dev = 0 then cascadeReset s
      else cascDone (mgmtTo (breakSems s fun m => m.dev == dev) dev [0x0B])))

/-- An invalid plan is answered INVALID with its offset (R360). A valid plan whose members are all other devices becomes a stream in progress that waits for their replies, the devices on their ways to the home asked too, and the command stays busy. A device on a way reserves the member's rate on its port towards the home. A device that takes the home of a stream holds a home context with the stream's queue; a replacement changes the member's device (R363). The master records each reply; one more to come, nothing else happens; a refused promotion loses its place. CASC_RELEASE drops the stream of its home context and is done (R368). A widen member holds the budget of a frame (R362). -/
def Obligations.CascadeStreams : Prop :=
  (∀ s rq plan off v, Accepts s rq cascPg 0x104 → isMaster s = true → s.casc.cmdBusy = false →
    memRead s 0 (rget64 s cascPg 0 0x108) 64 = (plan, none, false) → (planTests s plan).find? (fun t => !t.2) = some (off, v) →
    Runs (.cascAdmit rq) s (cascInvalid s off)) ∧
  (∀ s rq plan b, Accepts s rq cascPg 0x104 → isMaster s = true → s.casc.cmdBusy = false →
    memRead s 0 (rget64 s cascPg 0 0x108) 64 = (plan, none, false) → (planTests s plan).find? (fun t => !t.2) = none →
    memRead s 0 (Plan_.contract plan) 128 = (b, none, false) → (planTests2 plan b).find? (fun t => !t.2) = none →
    (∀ i, i < Plan_.nmem plan → Plan_.member plan i ≠ 0) →
    ∃ t x, Runs (.cascAdmit rq) s t ∧ t.casc.streams = s.casc.streams ++ [x] ∧ x.id = streamId s ∧ x.plan = plan ∧ x.contract = b ∧ x.st = 0 ∧
      x.devs = (List.range (Plan_.nmem plan)).map (Plan_.member plan) ∧ (∀ i, i < Plan_.nmem plan → nget x.replies i = none) ∧
      (∀ i, i < Plan_.nmem plan → ∀ e ∈ wayHops s.casc (Plan_.home plan) i (Plan_.member plan i), e ∈ x.hops) ∧
      (∀ x ∈ s.casc.streams, x.id ≠ streamId s) ∧ t.casc.nextStream = streamId s + 1 ∧ t.casc.cmdBusy = true ∧ t.ctxs = s.ctxs ∧ t.booth = s.booth) ∧
  (∀ s stream plan b, alive s = true → byteAt (homeAdmit s stream plan b).2 0 = 0 →
    ∃ t h x, Runs (.mgmtAdmit stream 16 .home plan b) s t ∧ h ∈ t.casc.homes ∧ h.stream = stream ∧ h.plan = plan ∧
      getCtx t h.ctx = some x ∧ x.kind = .admitted ∧ x.role = 3 ∧ x.queue = Ct.queue b) ∧
  (∀ s stream i dev plan b h, alive s = true → homeBy s stream = some h →
    Runs (.mgmtAdmit stream i (.replace dev) plan b) s (setHome s { h with
      members := h.members.set i { dev := dev, last := (h.members[i]?).bind (·.last), joining := true } })) ∧
  (∀ s stream key home plan b p, alive s = true → routeTo s home = some p →
    portRsv s (3 + p) + Ct.egRate (memberContract plan b (key / 32 - 1)) ≤ reservable (3 + p) →
    ∃ t, Runs (.mgmtAdmit stream key (.hop home) plan b) s t ∧
      ⟨stream, key, p, Ct.egRate (memberContract plan b (key / 32 - 1))⟩ ∈ t.casc.transit ∧
      ∀ e ∈ s.casc.transit, e.stream ≠ stream ∨ e.key ≠ key → e ∈ t.casc.transit) ∧
  (∀ s stream i op plan b u reply, alive s = true → mgmtAdmitCore s stream i op plan b = (u, some reply) →
    Runs (.mgmtAdmit stream i op plan b) s (mgmtTo u 0 ([0x05] ++ toLE 4 stream ++ toLE 1 i ++ reply))) ∧
  (∀ s stream i reply x k, alive s = true → (s.casc.streams.find? fun x => x.id == stream) = some x → isMaster s = true → x.st = 0 →
    k < x.devs.length → k ≠ i → nget x.replies k = none →
    Runs (.admitReply stream i reply) s (setStream s { x with replies := nset x.replies i (padTo 64 reply) })) ∧
  (∀ s stream i reply x, alive s = true → (s.casc.streams.find? fun x => x.id == stream) = some x → isMaster s = true → x.st = 2 →
    byteAt reply 0 ≠ 0 → Runs (.admitReply stream i reply) s (setStream s { x with lost := x.lost ++ [if i < 32 then i else i / 32 - 1] })) ∧
  (∀ s rq c x, Accepts s rq cascPg 0x104 → isMaster s = true → s.casc.cmdBusy = false →
    (s.casc.streams.find? fun x => x.st == 2 && x.homeCtx == c) = some x →
    ∃ t, Runs (.cascRelease rq c) s t ∧ (∀ y ∈ t.casc.streams, y.id ≠ x.id) ∧ t.casc.cmdBusy = false ∧
      (hdr t cascPg).evtPend.getLsbD 0 = true) ∧
  (∀ s c fr n g x, alive s = true → getCtx s c = some x → x.widen = true →
    ∃ t y, Runs (.budget c fr n g) s t ∧ getCtx t c = some y ∧ (fr, n, g) ∈ y.budgets ∧
      (∀ e ∈ y.budgets, e.1 = fr → e = (fr, n, g)) ∧ t = { s with ctxs := t.ctxs } ∧ ∀ d, d ≠ c → getCtx t d = getCtx s d)

/-- The master grants a free semaphore to an allowed owner, frees one its owner releases and breaks one a Steward forces; the result and the event stand at once (R364). Another device asks the master by message. A SEM_REQ that acquires or releases is decided the same way. A remote ALLOC that the pool can grant is answered with the buffer; one that must wait joins the queue, where of two remote ones that contend for the last buffer the later goes (R365); after CASC_XDEV_TMO it is answered and counted. An answer to this device is kept. Each SYNC_REQ is marked as out, and the sixth miss in a row loses the lock and raises CASC_SYNC_LOST (R354); a SYNC_RSP within 1 us becomes the correction, and within 4 ns locks. -/
def Obligations.CascadeShared : Prop :=
  (∀ s rq o k, Accepts s rq cascPg 0x120 → isMaster s = true → (ngetD s.casc.sems (k % 64) {}).held = false → ownerOk o.toNat = true →
    ∃ t, Runs (.cascSemAcquire rq o k) s t ∧ ngetD t.casc.sems (k % 64) {} =
        { held := true, broken := (ngetD s.casc.sems (k % 64) {}).broken, dev := s.casc.devId, owner := o.toNat } ∧
      t.casc.semDone = true ∧ t.casc.semGranted = true ∧ t.casc.semOwner = o.toNat ∧ t.casc.semDev = s.casc.devId ∧
      (hdr t cascPg).evtPend.getLsbD 1 = true ∧ (∀ j, j ≠ k % 64 → ngetD t.casc.sems j {} = ngetD s.casc.sems j {}) ∧
      t = { s with casc := t.casc, hdrs := t.hdrs, crier := t.crier, emitted := t.emitted, msix := t.msix }) ∧
  (∀ s rq o k m, Accepts s rq cascPg 0x120 → isMaster s = true → ngetD s.casc.sems (k % 64) {} = m → m.held = true →
    m.dev = s.casc.devId → m.owner = o.toNat →
    ∃ t, Runs (.cascSemRelease rq o k) s t ∧ ngetD t.casc.sems (k % 64) {} = {} ∧ t.casc.semDone = true ∧ t.casc.semGranted = false) ∧
  (∀ s n k, Accepts s (.steward n) cascPg 0x120 → isMaster s = true → (ngetD s.casc.sems (k % 64) {}).held = true →
    ∃ t, Runs (.cascSemForceRelease (.steward n) k) s t ∧ ngetD t.casc.sems (k % 64) {} = { broken := true } ∧ t.casc.semDone = true) ∧
  (∀ s rq o k, Accepts s rq cascPg 0x120 → isMaster s = false →
    Runs (.cascSemAcquire rq o k) s (mgmtTo (withCasc s fun c => { c with semDone := false }) 0
      ([0x07] ++ toLE 1 1 ++ toLE 1 (k % 64) ++ toLE 2 o.toNat))) ∧
  (∀ s rq o k, Accepts s rq cascPg 0x120 → isMaster s = false →
    Runs (.cascSemRelease rq o k) s (mgmtTo (withCasc s fun c => { c with semDone := false }) 0
      ([0x07] ++ toLE 1 2 ++ toLE 1 (k % 64) ++ toLE 2 o.toNat))) ∧
  (∀ s p dev o k m, alive s = true → isMaster s = true → ngetD s.casc.sems (k % 64) {} = m → m.held = true → m.dev = dev →
    m.owner = o.toNat → ∃ t, Runs (.semReq p dev 2 o k) s t ∧ ngetD t.casc.sems (k % 64) {} = {}) ∧
  (∀ s p dev o k, alive s = true → isMaster s = true → (ngetD s.casc.sems (k % 64) {}).held = false → ownerOk o.toNat = true →
    ∃ t, Runs (.semReq p dev 1 o k) s t ∧ ngetD t.casc.sems (k % 64) {} =
      { held := true, broken := (ngetD s.casc.sems (k % 64) {}).broken, dev := dev, owner := o.toNat }) ∧
  (∀ s g br o dev, alive s = true → ∃ t, Runs (.semReply g br o dev) s t ∧
    t.casc = { s.casc with semDone := true, semGranted := g, semBroken := br, semOwner := o.toNat, semDev := dev } ∧
    (hdr t cascPg).evtPend.getLsbD 1 = true ∧ t = { s with casc := t.casc, hdrs := t.hdrs, crier := t.crier, emitted := t.emitted, msix := t.msix }) ∧
  (∀ s dev tag iss o p i x, alive s = true → blockUp s grnPg = true → poolUp (getPool s p) = true → ownerOk o.toNat = true →
    grnDecide (getPool s p) o.toNat = some (i, x) →
    Runs (.xreq dev tag iss o p) s (xanswer (evG 0x108 (setPool s p x)) dev tag 0 (poolBase s p + i * poolSize s p))) ∧
  (∀ s dev tag iss o p, alive s = true → blockUp s grnPg = true → poolUp (getPool s p) = true → ownerOk o.toNat = true →
    grnDecide (getPool s p) o.toNat = none → (getPool s p).waiters.length < 64 →
    Runs (.xreq dev tag iss o p) s (xreqContend (setPool s p { getPool s p with
      waiters := (getPool s p).waiters ++ [⟨.remote dev tag iss, o.toNat, s.tick⟩] }) p)) ∧
  (∀ s p, (∀ w ∈ (getPool s p).waiters, isRemote w = false) ∨ freeCnt (getPool s p) ≠ 1 → xreqContend s p = s) ∧
  (∀ s tag code a, alive s = true →
    Runs (.xreply tag code a) s (withCasc s fun c => { c with xans := c.xans ++ [(tag, code, a)] })) ∧
  (∀ s dev tag iss o p x at0 a b, alive s = true → s.pools = a ++ (p, x) :: b → ⟨.remote dev tag iss, o, at0⟩ ∈ x.waiters →
    (∀ e ∈ a, ∀ w ∈ e.2.waiters, ∀ i, w.who ≠ .remote dev tag i) → rbits s cascPg 0 0x128 23 0 ≤ (s.tick - at0) * 10 →
    ∃ t, Runs (.xreqTimeout dev tag) s t ∧ (∀ w ∈ x.waiters, (∀ i, w.who ≠ .remote dev tag i) → w ∈ (getPool t p).waiters) ∧
      (∀ w ∈ (getPool t p).waiters, w ∈ x.waiters ∧ ∀ i, w.who = .remote dev tag i → (s.tick - w.at_) * 10 < rbits s cascPg 0 0x128 23 0) ∧
      rgetN t cascPg 0 0x130 = min 0xFFFFFFFF (rgetN s cascPg 0 0x130 + 1)) ∧
  (∀ s p, alive s = true → s.casc.parentPort = some p → s.casc.syncOut = true → s.casc.syncMiss = 5 →
    ∃ t, Runs .syncReqTimer s t ∧ t.casc.syncOut = true ∧ t.casc.syncMiss = 6 ∧ t.casc.syncLock = false ∧
      (hdr t cascPg).fltSrc.getLsbD 2 = true) ∧
  (∀ s p, alive s = true → s.casc.parentPort = some p → s.casc.syncOut = false →
    Runs .syncReqTimer s (sendPlain (withCasc s fun c => { c with syncOut := true }) p 3 (getSf s p).peer (dtBytes s.dt))) ∧
  (∀ s p t1, alive s = true → p < 4 → sfUp s p = true →
    Runs (.syncReq p t1) s (sendPlain s p 4 (getSf s p).peer (dtBytes t1 ++ dtBytes s.dt ++ dtBytes s.dt))) ∧
  (∀ s p t1 t2 t3 o, alive s = true → s.casc.parentPort = some p → sfUp s p = true → s.casc.syncOut = true →
    o = syncOffset t1 t2 t3 s.dt → o ≤ (usT 1 : Int) → -(usT 1 : Int) ≤ o →
    Runs (.syncRsp p t1 t2 t3) s { s with
      casc := { s.casc with syncOut := false, syncMiss := 0, syncOfs := o
                            syncLock := decide (-(nsT 4 : Int) < o) && decide (o < (nsT 4 : Int)) }
      clk := { s.clk with sync := o * 1000000000 } })

/-- The Island takes the oldest copy of a line packet or unit that waits for it, which is the one the command names; where another or none waits first nothing changes. A packet copy while the Island boots, or without room, is counted, and without room marks the group's open frame; a packet of no group is only taken; one of a frame already closed is counted late (R374, R375). With no frame of the group open, the first packet of a frame opens it under the committed parameters, and its exposure start is named for it; the next ones, while the digests have room, add one each, and a repeated packet marks the frame (R375, R376). A coded unit that does not end its picture, of a context whose ports feed the only frame, is added to that frame's coded bytes (R377); a lost copy that belongs to no frame held is counted and marks the open frame of its coded group (R374). The time-out of an uncoded group closes the frame and writes its record under the next index, chained to the one before; the coded time-out writes it with its flag (R375, R377 to R380). A signature done frees the engine and names its record (R381). -/
def Obligations.IslandFrames : Prop :=
  (∀ s port dt col pk r room, s.taps = ⟨port, dt, col, pk⟩ :: r → s.isl.st = 1 →
    ∃ t, Runs (.islTapPacket port dt col pk room) s t ∧ t.isl.tapDrop = min 0xFFFFFFFF (s.isl.tapDrop + 1) ∧ t.isl.recIdx = s.isl.recIdx ∧
      t = { s with taps := r, isl := t.isl }) ∧
  (∀ s port dt col pk room, s.taps.head? ≠ some ⟨port, dt, col, pk⟩ → Runs (.islTapPacket port dt col pk room) s s) ∧
  (∀ s port dt col pk r room, s.taps = ⟨port, dt, col, pk⟩ :: r → islRuns s.isl = true → portGroup s.isl port = none →
    Runs (.islTapPacket port dt col pk room) s { s with taps := r }) ∧
  (∀ s port dt col pk r g f, s.taps = ⟨port, dt, col, pk⟩ :: r → islRuns s.isl = true → portGroup s.isl port = some g → f ∈ s.isl.frames →
    f.group = g → f.closed = false →
    ∃ t, Runs (.islTapPacket port dt col pk false) s t ∧ t.isl.tapDrop = min 0xFFFFFFFF (s.isl.tapDrop + 1) ∧
      { f with flags := f.flags ||| 0x80 } ∈ t.isl.frames ∧ t = { s with taps := r, isl := t.isl }) ∧
  (∀ s port dt col pk r g, s.taps = ⟨port, dt, col, pk⟩ :: r → islRuns s.isl = true → portGroup s.isl port = some g → (∀ f, openOf s.isl g = some f → f.num ≠ Lp.frame pk) →
    tapLate s.isl g (Lp.frame pk) = true →
    ∃ t, Runs (.islTapPacket port dt col pk true) s t ∧ t = { s with taps := r, isl := { s.isl with tapLate := min 0xFFFFFFFF (s.isl.tapLate + 1) } }) ∧
  (∀ s port dt col pk r g, s.taps = ⟨port, dt, col, pk⟩ :: r → islRuns s.isl = true → portGroup s.isl port = some g → openOf s.isl g = none →
    tapLate s.isl g (Lp.frame pk) = false → sumN (s.isl.frames.map fun f => f.pkts.length) < 4096 →
    ∃ t f, Runs (.islTapPacket port dt col pk true) s t ∧ openOf t.isl g = some f ∧ f.num = Lp.frame pk ∧ f.nPkts = 1 ∧ f.colour = col ∧
      f.dtFirst = dt ∧ f.dtLast = dt ∧ f.params = s.isl.cur.param ∧
      getIx t.isl.expoOut g none = some (Lp.frame pk, if (getIx s.isl.expo (expoSel s.isl.cur.param g) {}).count = 0 then 0
        else islStamp s.isl.cur.param (Ip.expo s.isl.cur.param g % 4) (getIx s.isl.expo (expoSel s.isl.cur.param g) {}).start) ∧
      t = { s with taps := r, isl := t.isl, ctxs := t.ctxs }) ∧
  (∀ s port dt col pk r g f, s.taps = ⟨port, dt, col, pk⟩ :: r → islRuns s.isl = true → portGroup s.isl port = some g →
    openOf s.isl g = some f → f.num = Lp.frame pk →
    sumN (s.isl.frames.map fun f => f.pkts.length) < 4096 → f.keys.contains (Lp.plane pk, Lp.line pk, Lp.x0 pk) = false →
    ∃ t e, Runs (.islTapPacket port dt col pk true) s t ∧ openOf t.isl g = some e ∧ e.nPkts = f.nPkts + 1 ∧ e.dtLast = dt ∧
      e.keys = f.keys ++ [(Lp.plane pk, Lp.line pk, Lp.x0 pk)] ∧ e.flags = f.flags ∧ t = { s with taps := r, isl := t.isl }) ∧
  (∀ s port dt col pk r g f, s.taps = ⟨port, dt, col, pk⟩ :: r → islRuns s.isl = true → portGroup s.isl port = some g →
    openOf s.isl g = some f → f.num = Lp.frame pk →
    f.keys.contains (Lp.plane pk, Lp.line pk, Lp.x0 pk) = true →
    ∃ t, Runs (.islTapPacket port dt col pk true) s t ∧ openOf t.isl g = some { f with flags := f.flags ||| 0x400 } ∧ t = { s with taps := r, isl := t.isl }) ∧
  (∀ s ctx pn fr b r ports f, s.unitTaps = ⟨ctx, pn, fr, b, false, ports⟩ :: r → islRuns s.isl = true →
    s.isl.frames = [f] → f.num = fr →
    Ip.ports f.params f.group &&& ports ≠ 0 → Ip.coded f.params f.group = true → f.codedEnd = false →
    Runs (.islTapUnit ctx pn fr b false true) s { s with
      unitTaps := r, isl := { s.isl with frames := [{ f with coded := f.coded ++ b, codedPic := pn, codedEnd := false }] } }) ∧
  (∀ s ctx pn fr b last r ports g, s.unitTaps = ⟨ctx, pn, fr, b, last, ports⟩ :: r → islRuns s.isl = true →
    (∀ f ∈ s.isl.frames, f.num = fr → Ip.ports f.params f.group &&& ports = 0) → codedGroup s.isl ports = some g →
    ∃ t, Runs (.islTapUnit ctx pn fr b last false) s t ∧ t.isl.tapDrop = min 0xFFFFFFFF (s.isl.tapDrop + 1) ∧
      (∀ f, openOf s.isl g = some f → openOf t.isl g = some { f with flags := f.flags ||| 0x80 }) ∧ t = { s with unitTaps := r, isl := t.isl }) ∧
  (∀ s ctx pn fr b last room, (∀ ports, s.unitTaps.head? ≠ some ⟨ctx, pn, fr, b, last, ports⟩) → Runs (.islTapUnit ctx pn fr b last room) s s) ∧
  (∀ s g f, openOf s.isl g = some f → Ip.coded f.params f.group = false →
    ∃ t r fl, Runs (.islTapTmo g) s t ∧ r.group = f.group ∧ r.num = f.num ∧ t.isl.recIdx = (s.isl.recIdx + 1) % 2 ^ 40 ∧
      nget t.isl.ring (s.isl.recIdx % 150) = some (padTo 384 (recordBody s.isl r fl)) ∧ t.isl.prev = blake (recordBody s.isl r fl) ∧
      (∀ e ∈ t.isl.frames, ¬ (e.group = f.group ∧ e.num = f.num)) ∧ t = { s with isl := t.isl, crier := t.crier, emitted := t.emitted, msix := t.msix }) ∧
  (∀ s g f, s.isl.frames.find? (fun f => f.group == g && f.closed) = some f →
    ∃ t r fl, Runs (.codedTmo g) s t ∧ fl.testBit 8 = true ∧ r.coded = [] ∧ r.group = f.group ∧ r.num = f.num ∧
      t.isl.recIdx = (s.isl.recIdx + 1) % 2 ^ 40 ∧ nget t.isl.ring (s.isl.recIdx % 150) = some (padTo 384 (recordBody s.isl r fl))) ∧
  (∀ s i, s.isl.signing = some i → ∃ t, Runs .signatureDone s t ∧ t.isl.signing = none ∧ t.isl.signedIdx = i ∧
    t.isl.recIdx = s.isl.recIdx ∧ t.isl.prev = s.isl.prev ∧ t.isl.frames = s.isl.frames ∧ t = { s with isl := t.isl, freeCtr := t.freeCtr }) ∧
  (∀ s, s.isl.signing = none → Runs .signatureDone s s)

/-- At a power-on, and at a reset of a powered Island, a good firmware with three equal parameter copies gives RUN with one more boot, an empty record ring, no lock and no reference seen; copies that cannot be resolved give UNVERIFIED and stay as they are, and so do copies that only another command than COMMIT_PARAM wrote in UNVERIFIED; firmware that cannot be used gives NOFW (R369, R386). Power loss leaves only the non-volatile memory and the seal. The third good second in a row locks Island time, from device time; a bad one, a missing one and a lost reference unlock it (R371, R372). An edge of an exposure input begins the exposure of its phase in every group at its Island time, and is the first end of the other phase's (R373). Closing the seal discards what is staged (R388). A changed measurement block is kept before boot, waits for step 7 during it, and after boot extends MR6 and raises BOOT_ISL_CHANGED (R398, R400). -/
def Obligations.IslandLife : Prop :=
  (∀ s p n f v, p = true ∨ s.isl.st ≠ 0 → resolveNvm s.isl = (some n, true, false) → resolveFw s.isl = (some f, true, false) → Config.islandFw f.image = some v →
    s.isl.otpSvn ≤ v →
    ∃ t, Runs (.isl p) s t ∧ t.isl.st = (if n.unver then 3 else 2) ∧ t.isl.cur.boots = (n.boots + 1) % 2 ^ 24 ∧ t.isl.cur.param = n.param ∧ t.isl.recIdx = 0 ∧
      t.isl.ring = [] ∧ t.isl.frames = [] ∧ t.isl.tb.lock = false ∧ t.isl.tb.refOk = false ∧ t.isl.nvm = List.replicate 3 { t.isl.cur with good := true }) ∧
  (∀ s p f v, p = true ∨ s.isl.st ≠ 0 → (resolveNvm s.isl).2.1 = false → resolveFw s.isl = (some f, true, false) → Config.islandFw f.image = some v →
    s.isl.otpSvn ≤ v → ∃ t, Runs (.isl p) s t ∧ t.isl.st = 3 ∧ t.isl.nvm = s.isl.nvm ∧ t.isl.cur.unver = true ∧ t.isl.tb.refOk = false) ∧
  (∀ s p, p = true ∨ s.isl.st ≠ 0 → (resolveFw s.isl).2.1 = false → ∃ t, Runs (.isl p) s t ∧ t.isl.st = 4 ∧ t.isl.fw = s.isl.fw) ∧
  (∀ s, s.isl.st = 0 → Runs (.isl false) s s) ∧
  (∀ s, ∃ t, Runs .islPowerLoss s t ∧ t.isl = { st := 0, sealOpen := s.isl.sealOpen, otpSvn := s.isl.otpSvn, nvm := s.isl.nvm, fw := s.isl.fw }) ∧
  (∀ s e, s.isl.st = 2 → s.isl.tb.seen = true → s.isl.tb.refOk = true → s.isl.tb.good = 2 → s.isl.tb.lock = false → s.isl.tb.todSrc = 0 →
    s.isl.tb.setPend = none → clockRuns s = true →
    ∃ t, Runs (.ppsEdge 400000800 e) s t ∧ t.isl.tb.lock = true ∧ t.isl.tb.good = 3 ∧ t.isl.tb.secs = dtSeconds s % 2 ^ 64 ∧ t.isl.tb.todSrc = 1 ∧
      t.isl.tb.iclk = 400000800) ∧
  (∀ s iclk e, 2 ≤ s.isl.st → s.isl.tb.seen = true → iclk < 399999200 ∨ 400000800 < iclk →
    ∃ t, Runs (.ppsEdge iclk e) s t ∧ t.isl.tb.lock = false ∧ t.isl.tb.good = 0 ∧ t.isl.tb.ppsOk = false) ∧
  (∀ s iclk e v, 2 ≤ s.isl.st → s.isl.tb.setPend = some v → v < 2 ^ 64 →
    ∃ t, Runs (.ppsEdge iclk e) s t ∧ t.isl.tb.secs = v ∧ t.isl.tb.todSrc = 2 ∧ t.isl.tb.setPend = none) ∧
  (∀ s, ∃ t, Runs .ppsMissing s t ∧ t.isl.tb.lock = false ∧ t.isl.tb.ppsOk = false ∧ t.isl.tb.refOk = s.isl.tb.refOk) ∧
  (∀ s, ∃ t, Runs .refLoss s t ∧ t.isl.tb.lock = false ∧ t.isl.tb.refOk = false ∧ ∀ f ∈ s.isl.frames, f.closed = false →
    { f with flags := f.flags ||| 2 ^ 4 } ∈ t.isl.frames) ∧
  (∀ s, Runs .islRefReturn s { s with isl := { s.isl with tb := { s.isl.tb with refOk := true, good := 0 } } }) ∧
  (∀ s i g n low, islRuns s.isl = true → i < 4 → g < 4 →
    ∃ t, Runs (.expoEdge i (!low) n) s t ∧ t = { s with isl := { s.isl with expo := t.isl.expo, frames := t.isl.frames } } ∧
      getIx t.isl.expo (expoIx g i low) {} =
        { start := islRaw s.isl n, stop := 0, hasStop := false, count := (getIx s.isl.expo (expoIx g i low) {}).count + 1 } ∧
      ((getIx s.isl.expo (expoIx g i (!low)) {}).start ≠ 0 → (getIx s.isl.expo (expoIx g i (!low)) {}).hasStop = false →
        getIx t.isl.expo (expoIx g i (!low)) {} =
          { getIx s.isl.expo (expoIx g i (!low)) {} with stop := islRaw s.isl n, hasStop := true }) ∧
      ∀ k, k % 4 ≠ i → getIx t.isl.expo k {} = getIx s.isl.expo k {}) ∧
  (∀ s, Runs (.sealChange false) s { s with isl := { s.isl with sealOpen := false, staged := false, stParam := [], stFw := [] } }) ∧
  (∀ s, ∃ t, Runs (.sealChange true) s t ∧ t.isl.sealOpen = true ∧ t.isl.stParam = s.isl.stParam ∧ t.isl.stFw = s.isl.stFw) ∧
  (∀ s b, busUp s = true → b ≠ s.boot.islBlock → s.boot.islPend = [] → s.boot.st = 0 →
    Runs (.islMeasRelay b) s { s with boot := { s.boot with islBlock := b } }) ∧
  (∀ s b, busUp s = true → b ≠ s.boot.islPend.getLast?.getD s.boot.islBlock → s.boot.st ≠ 0 → s.boot.st ≠ 7 →
    Runs (.islMeasRelay b) s { s with boot := { s.boot with islPend := s.boot.islPend ++ [b] } }) ∧
  (∀ s b, busUp s = true → b ≠ s.boot.islBlock → s.boot.islPend = [] → s.boot.st = 7 →
    ∃ t, Runs (.islMeasRelay b) s t ∧ t.boot = (extend 1 6 (sha b) { s with boot := { s.boot with islBlock := b } }).boot ∧
      (hdr t bootPg).fltSrc.getLsbD 2 = true)

/-- An Island that is off or booting answers no command, and without firmware only those that do not need it. A frame with a wrong length or CRC is answered 2, and a command that changes something while the seal is closed 1 (R387, R388). READ_STATUS, READ_MEAS and READ_PARAM answer the state words, the measurements and the parameters; READ_RECORD the record asked for while the ring holds it, else 5; READ_AUDIT an entry of the log. WRITE_PARAM stages bytes. COMMIT_PARAM of a complete allowed block writes it to all three copies, counts the audit and ends UNVERIFIED. DISCARD drops what is staged. SET_TIME keeps the seconds for the next edge and counts the audit. LOAD_FW stages; COMMIT_FW of a good image writes it and starts the Island; RESET starts the Island (R385 to R388). -/
def Obligations.IslandCommands : Prop :=
  (∀ s f c i, (c, i) ∈ spiCommands f → s.isl.st = 0 ∨ s.isl.st = 1 → Runs i s s) ∧
  (∀ s f, s.isl.st = 4 → Runs (.readRecord f) s s ∧ Runs (.readParam f) s s ∧ Runs (.readAudit f) s s ∧ Runs (.writeParam f) s s ∧
    Runs (.commitParam f) s s ∧ Runs (.discard f) s s ∧ Runs (.setTime f) s s) ∧
  (∀ s f c i, (c, i) ∈ spiCommands f → s.isl.st = 2 ∨ s.isl.st = 3 ∨ (s.isl.st = 4 ∧ c ∈ [0x01, 0x03, 0x20, 0x21, 0x30]) → ¬ SpiGood c f → Runs i s (emit s (spiAns 2 []))) ∧
  (∀ s f c i, (c, i) ∈ spiSealed f → s.isl.st = 2 ∨ s.isl.st = 3 ∨ (s.isl.st = 4 ∧ c ∈ [0x20, 0x21, 0x30]) → SpiGood c f → s.isl.sealOpen = false →
    Runs i s (emit s (spiAns 1 []))) ∧
  (∀ s f, 2 ≤ s.isl.st → SpiGood 0x01 f → f.args = [] → Runs (.readStatus f) s (emit s (spiAns 0
    (toLE 4 (islState s.isl) ++ toLE 4 (islTb s.isl) ++ toLE 4 s.isl.cur.audit ++ toLE 4 s.isl.cur.boots ++ toLE 8 s.isl.recIdx)))) ∧
  (∀ s f i, s.isl.st = 2 ∨ s.isl.st = 3 → SpiGood 0x02 f → f.args.length = 8 → leNat f.args = i → Runs (.readRecord f) s (emit s (
    if i < s.isl.recIdx ∧ s.isl.recIdx ≤ i + 150 then spiAns 0 (ngetD s.isl.ring (i % 150) []) else spiAns 5 []))) ∧
  (∀ s f, 2 ≤ s.isl.st → SpiGood 0x03 f → f.args = [] → Runs (.readMeas f) s (emit s (spiAns 0
    (fwMeas s.isl ++ toLE 4 s.isl.curFw.svn ++ paramDigest s.isl.cur.param ++ toBE 64 Config.islandPubKey.toNat)))) ∧
  (∀ s f, s.isl.st = 2 ∨ s.isl.st = 3 → SpiGood 0x04 f → f.args = [] → Runs (.readParam f) s (emit s (spiAns 0 s.isl.cur.param))) ∧
  (∀ s f n e, s.isl.st = 2 ∨ s.isl.st = 3 → SpiGood 0x05 f → f.args = [n] → n.toNat < 32 → s.isl.cur.log[n.toNat]? = some e →
    Runs (.readAudit f) s (emit s (spiAns 0 e))) ∧
  (∀ s f o b, s.isl.st = 2 ∨ s.isl.st = 3 → s.isl.sealOpen = true → SpiGood 0x10 f → f.args = toLE 2 o ++ b → b ≠ [] →
    o + b.length ≤ 256 →
    ∃ t, Runs (.writeParam f) s t ∧ t.isl = { s.isl with stParam := t.isl.stParam, staged := true } ∧ t.emitted = s.emitted ++ [spiAns 0 []] ∧
      (∀ j, j < b.length → nget t.isl.stParam (o + j) = b[j]?) ∧
      (∀ a, a < o ∨ o + b.length ≤ a → nget t.isl.stParam a = nget s.isl.stParam a)) ∧
  (∀ s f b, s.isl.st = 2 ∨ s.isl.st = 3 → s.isl.sealOpen = true → SpiGood 0x11 f → f.args = [] → staged s.isl.stParam = some b →
    paramOk b = true → auditFull s = false →
    ∃ t, Runs (.commitParam f) s t ∧ t.isl.st = 2 ∧ t.isl.cur.param = b ∧ t.isl.cur.audit = s.isl.cur.audit + 1 ∧
      t.isl.cur.unver = false ∧ t.isl.nvm = List.replicate 3 t.isl.cur ∧ t.isl.stParam = [] ∧ t.isl.frames = s.isl.frames) ∧
  (∀ s f b, s.isl.st = 2 ∨ s.isl.st = 3 → s.isl.sealOpen = true → SpiGood 0x11 f → f.args = [] → staged s.isl.stParam = some b →
    paramOk b = false → Runs (.commitParam f) s (emit s (spiAns 3 []))) ∧
  (∀ s f, s.isl.st = 2 ∨ s.isl.st = 3 → SpiGood 0x12 f → f.args = [] →
    Runs (.discard f) s { s with isl := { s.isl with stParam := [], stFw := [], staged := false }, emitted := s.emitted ++ [spiAns 0 []] }) ∧
  (∀ s f, s.isl.st = 2 ∨ s.isl.st = 3 → s.isl.sealOpen = true → SpiGood 0x13 f → f.args.length = 8 → auditFull s = false →
    ∃ t, Runs (.setTime f) s t ∧ t.isl.tb = { s.isl.tb with setPend := some (leNat f.args) } ∧ t.isl.cur.audit = s.isl.cur.audit + 1 ∧
      t.isl.cur.param = s.isl.cur.param ∧ t.isl.cur.unver = s.isl.cur.unver ∧ t.isl.nvm = List.replicate 3 t.isl.cur ∧ t.emitted = s.emitted ++ [spiAns 0 []]) ∧
  (∀ s f o b, 2 ≤ s.isl.st → s.isl.sealOpen = true → SpiGood 0x20 f → f.args = toLE 4 o ++ b → b ≠ [] → o < 2 ^ 32 →
    ∃ t, Runs (.loadFw f) s t ∧ t.isl = { s.isl with stFw := t.isl.stFw, staged := true } ∧ t.emitted = s.emitted ++ [spiAns 0 []] ∧
      ∀ j, j < b.length → nget t.isl.stFw (o + j) = b[j]?) ∧
  (∀ s f b v, 2 ≤ s.isl.st → s.isl.sealOpen = true → SpiGood 0x21 f → f.args = [] → staged s.isl.stFw = some b → b ≠ [] →
    Config.islandFw b = some v → s.isl.otpSvn ≤ v → auditFull s = false →
    ∃ t, Runs (.commitFw f) s t ∧ t.isl.curFw.image = b ∧ t.isl.fw = List.replicate 3 t.isl.curFw ∧ t.isl.curFw.svn = v ∧ t.isl.cur.audit = s.isl.cur.audit + 1 ∧ t.isl.recIdx = 0) ∧
  (∀ s f, 2 ≤ s.isl.st → s.isl.sealOpen = true → SpiGood 0x30 f → f.args = [] →
    ∃ t, Runs (.reset f) s t ∧ t.isl = (islStart (emit s (spiAns 0 []))).isl ∧ t.isl.recIdx = 0 ∧ t.isl.frames = [])

/-- Boot without PLL lock has sensed fuses and straps and stops in HW_INIT; by the strap, without flash, or with neither copy good it waits in recovery with the error; with one good copy, trained stacks and equal tile CRCs it reaches RUN with the FIFOs of boot firmware on (R264), measures the bundle and takes its SVN, and otherwise stops with HW_INIT, with PHY_INIT raised where a stack does not train (R389 to R395, R251). A bundle that the host loads in recovery boots too, or its result is shown; the same from a Steward is denied (R404, R408). MR_EXTEND by a Steward extends MR7 and nothing else (R398). UNLOCK_CHALLENGE makes a nonce of 48 bytes, and every UNLOCK_SUBMIT uses it up: 3 while the strap locks, 2 for a bad token or one that cannot be read, and for a good one unlocks the next boot (R407). SVN_COMMIT above the minimum sensed at this boot raises the fuses, and the minimum in force stays until the next boot (R405). BOOT_MR_SEL latches a register for BOOT_MR_DATA (R408). -/
def Obligations.BootAndBundles : Prop :=
  (∀ s hb cr, resettable s = true → s.boot.st = 0 → s.boot.err = 0 →
    ∃ t, Runs (.boot false hb cr) s t ∧ t.boot.err = 4 ∧ t.boot.st = 0 ∧ t.boot.svnMin = s.fuses.svnMin ∧ t.clk = s.clk ∧
      t.boot.lifecycle = (if s.fuses.rma then 2 else if s.boot.unlockPend then 1 else 0) ∧ t = { s with boot := t.boot, fuses := t.fuses }) ∧
  (∀ s hb cr, resettable s = true → s.boot.st = 0 → s.boot.err = 0 → s.straps.bootSrc % 4 = 1 →
    ∃ t, Runs (.boot true hb cr) s t ∧ t.boot.st = 5 ∧ t.boot.err = 0 ∧ t.boot.source = 1 ∧ t.clk.rootLock = true ∧
      t.boot.lifecycle = (if s.fuses.rma then 2 else if s.boot.unlockPend then 1 else 0)) ∧
  (∀ s hb cr, resettable s = true → s.boot.st = 0 → s.boot.err = 0 → s.straps.bootSrc % 4 ≠ 1 → s.flashOk = false →
    ∃ t, Runs (.boot true hb cr) s t ∧ t.boot.st = 5 ∧ t.boot.err = 3) ∧
  (∀ s hb cr r, resettable s = true → s.boot.st = 0 → s.boot.err = 0 → s.straps.bootSrc % 4 ≠ 1 → s.flashOk = true →
    r = ((romInit (romSense s)).boot.lifecycle == 2) → copyResult (romInit (romSense s)) (copyA s) r ≠ 0 → copyResult (romInit (romSense s)) (copyB s) r ≠ 0 →
    ∃ t, Runs (.boot true hb cr) s t ∧ t.boot.st = 5 ∧ t.boot.err = 1 ∧ t.boot.aRes = copyResult (romInit (romSense s)) (copyA s) r ∧
      t.boot.bRes = copyResult (romInit (romSense s)) (copyB s) r) ∧
  (∀ s hb cr r m k, resettable s = true → s.boot.st = 0 → s.boot.err = 0 → s.straps.bootSrc % 4 ≠ 1 → s.flashOk = true →
    s.boot.mrs = List.replicate 8 (List.replicate 48 0) → s.boot.islPend = [] →
    r = ((romInit (romSense s)).boot.lifecycle == 2) →
    (m = copyA s ∧ k = 1 ∧ copyResult (romInit (romSense s)) (copyA s) r = 0 ∧ copyResult (romInit (romSense s)) (copyB s) r ≠ 0) ∨
      (m = copyB s ∧ k = 2 ∧ copyResult (romInit (romSense s)) (copyA s) r ≠ 0 ∧ copyResult (romInit (romSense s)) (copyB s) r = 0) →
    ∃ t, Runs (.boot true hb cr) s t ∧ t.boot.chosen = k ∧ t.boot.oneCopy = true ∧ t.boot.svn = Bd.svn (header s m) ∧
      getIx t.boot.mrs 1 [] = sha (List.replicate 48 0 ++ bundleDigest s m) ∧
      (if cr = false then t.boot.st = 3 ∧ t.boot.err = 4 else if hb = false then t.boot.st = 4 ∧ t.boot.err = 4 ∧
          ((hdr t (phyPage 0)).fltSrc.getLsbD 0 = true ∨ (hdr t (phyPage 1)).fltSrc.getLsbD 0 = true)
       else t.boot.st = 7 ∧ t.boot.doneFlag = true ∧ (hdr t bootPg).evtPend.getLsbD 0 = true ∧
          ∀ f, f < 32 ∨ (216 ≤ f ∧ f < 256) → rbits t fifoPg f 0x200 0 0 = 1)) ∧
  (∀ s hb cr m, Accepts s .host bootPg 0x11C → s.boot.st = 5 → s.boot.busy = false →
    m = (⟨false, recAddr s, min (rbits s bootPg 0 0x118 26 0) (64 * 2 ^ 20)⟩ : Media) →
    (hostErrAt s m.base (rbits s bootPg 0 0x118 26 0)).isSome = false → s.boot.islPend = [] → copyResult s m (s.boot.lifecycle == 2) = 0 →
    ∃ t, Runs (.recLoad .host true hb cr) s t ∧ t.boot.chosen = 3 ∧ t.boot.bRes = 0 ∧ t.boot.source = 1 ∧
      t.boot.st = (if cr = false then 3 else if hb = false then 4 else 7)) ∧
  (∀ s d hb cr m r, Accepts s .host bootPg 0x11C → s.boot.st = 5 → s.boot.busy = false →
    m = (⟨false, recAddr s, min (rbits s bootPg 0 0x118 26 0) (64 * 2 ^ 20)⟩ : Media) →
    r = (if d = false ∨ (hostErrAt s m.base (rbits s bootPg 0 0x118 26 0)).isSome = true then 1 else copyResult s m (s.boot.lifecycle == 2)) →
    r ≠ 0 →
    ∃ t, Runs (.recLoad .host d hb cr) s t ∧ t.boot.bRes = r ∧ t.boot.st = 5 ∧ (hdr t bootPg).evtPend.getLsbD 1 = true ∧
      (hdr t bootPg).evtPend.getLsbD 2 = true) ∧
  (∀ s n d hb cr, Accepts s (.steward n) bootPg 0x11C →
    Runs (.recLoad (.steward n) d hb cr) s (bump { s with boot := { s.boot with code := 1 } } bootPg 0 0x12C 1)) ∧
  (∀ s n, Accepts s (.steward n) bootPg 0x11C → s.boot.busy = false →
    ∃ t, Runs (.mrExtend (.steward n) 7) s t ∧ t.boot.code = 0 ∧ getIx t.boot.mrs 7 [] =
        sha (getIx s.boot.mrs 7 [] ++ (List.range 12).flatMap fun i => toLE 4 (rgetN s bootPg 0 (0x140 + 4 * i))) ∧
      (∀ i, i < 7 → getIx t.boot.mrs i [] = getIx s.boot.mrs i []) ∧
      t = { s with boot := t.boot, hdrs := t.hdrs, crier := t.crier, emitted := t.emitted, msix := t.msix }) ∧
  (∀ s n mr, Accepts s (.steward n) bootPg 0x11C → s.boot.busy = false → mr ≠ 7 →
    ∃ t, Runs (.mrExtend (.steward n) mr) s t ∧ t.boot = { s.boot with code := 4 }) ∧
  (∀ s, Accepts s .host bootPg 0x11C → s.boot.busy = false →
    ∃ t, Runs (.unlockChallenge .host) s t ∧ t.boot.nonceOk = true ∧ t.boot.nonce.length = 48 ∧ t.boot.code = 0 ∧
      t.freeCtr = s.freeCtr + 48 ∧ (hdr t bootPg).evtPend.getLsbD 2 = true) ∧
  (∀ s, Accepts s .host bootPg 0x11C → s.boot.busy = false → s.straps.lifecycleLock = true →
    ∃ t, Runs (.unlockSubmit .host) s t ∧ t.boot = { s.boot with nonceOk := false, code := 3 } ∧ t.fuses = s.fuses) ∧
  (∀ s b, Accepts s .host bootPg 0x11C → s.boot.busy = false → s.straps.lifecycleLock = false →
    memRead s 0 (recAddr s) 256 = (b, none, false) →
    ∃ t, Runs (.unlockSubmit .host) s t ∧ t.boot = { s.boot with
        nonceOk := false, code := if tokenOk s b then 0 else 2
        unlockPend := s.boot.unlockPend || (tokenOk s b && byteAt b 6 == 1) } ∧
      t.fuses = if tokenOk s b ∧ byteAt b 6 ≠ 1 then { s.fuses with rma := true, patchKey := false } else s.fuses) ∧
  (∀ s, Accepts s .host bootPg 0x11C → s.boot.busy = false → s.straps.lifecycleLock = false →
    (memRead s 0 (recAddr s) 256).2.1.isSome = true ∨ (memRead s 0 (recAddr s) 256).2.2 = true →
    ∃ t, Runs (.unlockSubmit .host) s t ∧ t.boot = { s.boot with nonceOk := false, code := 2 } ∧ t.fuses = s.fuses) ∧
  (∀ s n v, Accepts s (.steward n) bootPg 0x11C → s.boot.busy = false → s.boot.st = 7 → s.boot.svnMin < v → v ≤ s.boot.svn → v ≤ 128 →
    ∃ t, Runs (.svnCommit (.steward n) v) s t ∧ t.fuses = { s.fuses with svnMin := max s.fuses.svnMin v } ∧ t.boot = { s.boot with code := 0 }) ∧
  (∀ s n v, Accepts s (.steward n) bootPg 0x11C → s.boot.busy = false → v ≤ s.boot.svnMin →
    Runs (.svnCommit (.steward n) v) s (bump { s with boot := { s.boot with code := 4 } } bootPg 0 0x12C 1)) ∧
  (∀ s rq mr, Accepts s rq bootPg 0x124 → ∃ t, Runs (.bootMrSel rq mr) s t ∧
    t.boot.mrLatch = getIx s.boot.mrs (mr % 8) [] ∧ rgetN t bootPg 0 0x124 = mr % 8)

/-- Before the PCIe link is up no request is answered. After it GET_VERSION is answered with version 1.2, GET_CAPABILITIES with CAPABILITIES, NEGOTIATE_ALGORITHMS with P-384 and SHA-384 or an error when the requester offers neither, GET_DIGESTS with the digest of the chain of slot 0, GET_CERTIFICATE with the portion asked for, as much as an object holds, or an error, CHALLENGE with a signed answer or in RMA an error, and GET_MEASUREMENTS with the blocks asked for, unsigned or signed, the ones of one instant, or in RMA with an error when signed, and with an error where they exceed an object of 4 KiB (R401, R402, R406). Nothing else changes. The layouts are the model's (assumption 20). -/
def Obligations.Attestation : Prop :=
  (∀ s i a h sl o n sg nonce, i ∈ [Instr.getVersion, .getCapabilities, .getDigests, .negotiateAlgorithms a h, .getCertificate sl o n, .challenge sl nonce,
      .getMeasurements o sg nonce] → busUp s = true → s.boot.pcieUp = false → Runs i s s) ∧
  (∀ s, busUp s = true → s.boot.pcieUp = true → Runs .getVersion s (emit s (.spdm "VERSION" [0x10, 0x04, 0, 0, 0, 1, 0, 0x12]))) ∧
  (∀ s, busUp s = true → s.boot.pcieUp = true → ∃ b, Runs .getCapabilities s
    { s with freeCtr := s.freeCtr + 1, emitted := s.emitted ++ [.spdm "CAPABILITIES" b] }) ∧
  (∀ s, busUp s = true → s.boot.pcieUp = true → ∃ b, b.length = 36 ∧
    Runs (.negotiateAlgorithms true true) s (emit s (.spdm "ALGORITHMS" b))) ∧
  (∀ s a h, busUp s = true → s.boot.pcieUp = true → a = false ∨ h = false →
    Runs (.negotiateAlgorithms a h) s (emit s (.spdm "ERROR" [0x12, 0x7F, 1, 0]))) ∧
  (∀ s, busUp s = true → s.boot.pcieUp = true →
    Runs .getDigests s (emit s (.spdm "DIGESTS" ([0x12, 0x01, 0, 1] ++ sha Config.certChain)))) ∧
  (∀ s o n, busUp s = true → s.boot.pcieUp = true → o < Config.certChain.length → ∃ b, b.drop 8 = (Config.certChain.drop o).take (min n 4080) ∧
    Runs (.getCertificate 0 o n) s (emit s (.spdm "CERTIFICATE" b))) ∧
  (∀ s slot o n, busUp s = true → s.boot.pcieUp = true → slot ≠ 0 ∨ Config.certChain.length ≤ o →
    Runs (.getCertificate slot o n) s (emit s (.spdm "ERROR" [0x12, 0x7F, 1, 0]))) ∧
  (∀ s nonce, busUp s = true → s.boot.pcieUp = true → s.fuses.rma = false → s.boot.lifecycle ≠ 2 → ∃ b sig k, sig.length = 96 ∧
    b = [0x12, 0x03, 0, 1] ++ sha Config.certChain ++ (List.range 32).map (fun i => Config.freeByte (s.freeCtr + i)) ++ toLE 2 0 ∧
    sig = toBE 96 (Config.attestSign (nonce ++ b) (s.freeCtr + 32)).toNat ∧
    Runs (.challenge 0 nonce) s { s with freeCtr := k, emitted := s.emitted ++ [.spdm "CHALLENGE_AUTH" (b ++ sig)] }) ∧
  (∀ s slot nonce, busUp s = true → s.boot.pcieUp = true → s.boot.lifecycle = 2 →
    Runs (.challenge slot nonce) s (emit s (.spdm "ERROR" [0x12, 0x7F, 7, 0]))) ∧
  (∀ s i nonce, busUp s = true → s.boot.pcieUp = true → 1 ≤ i → i ≤ 10 → (measBlock s i).length ≤ 4046 → ∃ b k, (b.drop 8).take (measBlock s i).length = measBlock s i ∧
    byteAt b 4 = 1 ∧ Runs (.getMeasurements i false nonce) s { s with freeCtr := k, emitted := s.emitted ++ [.spdm "MEASUREMENTS" b] }) ∧
  (∀ s i nonce, busUp s = true → s.boot.pcieUp = true → 1 ≤ i → i ≤ 10 → 4046 < (measBlock s i).length →
    Runs (.getMeasurements i false nonce) s (emit s (.spdm "ERROR" [0x12, 0x7F, 13, 0]))) ∧
  (∀ s nonce, busUp s = true → s.boot.pcieUp = true → s.fuses.rma = false → s.boot.lifecycle ≠ 2 →
    ((List.range 10).flatMap fun i => measBlock s (i + 1)).length ≤ 3950 → ∃ b k,
    (b.drop 8).take ((List.range 10).flatMap fun i => measBlock s (i + 1)).length = (List.range 10).flatMap (fun i => measBlock s (i + 1)) ∧
    byteAt b 4 = 10 ∧ Runs (.getMeasurements 0xFF true nonce) s { s with freeCtr := k, emitted := s.emitted ++ [.spdm "MEASUREMENTS" b] }) ∧
  (∀ s i nonce, busUp s = true → s.boot.pcieUp = true → s.fuses.rma = true →
    Runs (.getMeasurements i true nonce) s (emit s (.spdm "ERROR" [0x12, 0x7F, 7, 0])))

/-- A rail with overcurrent, or at 0.900 V with too little margin, is recorded and raises IVR_TILE or IVR_FABRIC; otherwise its target moves by at most four steps, up while the margin is below the fused target margin and down while it is above, and stays at or below 0.900 V (R410). VIN undervoltage raises its fault and the poll's values are kept (R409). A tile idle for 50 us outside every contract is gated and loses its store (R412). PWR_BULK_TILES is stored and changes the admitted power by 1.65 W a tile, and a write that raises it over the cap is counted instead (R414). RUN and STANDBY change the state; DOZE on an idle device enters DOZE, on a device with contexts or entries in progress it is refused with the reason and counted, and an enabled wake source, a pending Crier source or a MGMT flit, ends it (R416 to R418). Tj at 100 degrees closes the booth and raises THERM_WARN, at 97 it opens again (R415). -/
def Obligations.PowerAndHeat : Prop :=
  (∀ s rail m o, alive s = true → rail < 105 → o = true ∨ (ngetD s.pwr.targets rail 0 = 120 ∧ m < (Config.ivrMargin rail).1) →
    ∃ t, Runs (.ivrAdjust rail m o) s t ∧ t.pwr.ivrLast = rail ∧
      (hdr t pwrPg).fltSrc.getLsbD (if rail = 104 then 3 else 2) = true) ∧
  (∀ s rail m, alive s = true → rail < 105 → ngetD s.pwr.targets rail 0 ≠ 120 ∨ (Config.ivrMargin rail).1 ≤ m →
    ∃ t d, Runs (.ivrAdjust rail m false) s t ∧ d ≤ 4 ∧ ngetD t.pwr.targets rail 0 =
        (if m < (Config.ivrMargin rail).2 then min 120 (ngetD s.pwr.targets rail 0 + d)
         else if (Config.ivrMargin rail).2 < m then ngetD s.pwr.targets rail 0 - d else ngetD s.pwr.targets rail 0) ∧
      (∀ r, r ≠ rail → ngetD t.pwr.targets r 0 = ngetD s.pwr.targets r 0) ∧ t = { s with pwr := t.pwr, freeCtr := t.freeCtr }) ∧
  (∀ s, alive s = true → ∃ t, Runs .vinUv s t ∧ (hdr t pwrPg).fltSrc.getLsbD 4 = true) ∧
  (∀ s mv ca, alive s = true → Runs (.avsPoll mv ca) s { s with pwr := { s.pwr with vin := mv % 65536, iin := ca % 65536 } }) ∧
  (∀ s n, alive s = true → n < 104 → (getTile s n).ungated = true → tileHeld s n = false → tileIdle s n = true →
    (getTile s n).idleAt + 5000 ≤ s.tick →
    Runs (.bulkTileGate n) s (setTile s n { getTile s n with store := [], poison := [], ungated := false })) ∧
  (∀ s rq n, Accepts s rq pwrPg 0x108 → n ≤ 96 →
    s.booth.admMw - 1650 * rbits s pwrPg 0 0x108 6 0 + 1650 * n ≤ max s.booth.admMw (rbits s tkbPg 0 0x11C 11 0 * 100) →
    ∃ t, Runs (.pwrBulkTiles rq n) s t ∧ rgetN t pwrPg 0 0x108 = n ∧
      t.booth = { s.booth with admMw := s.booth.admMw - 1650 * rbits s pwrPg 0 0x108 6 0 + 1650 * n } ∧
      t = { s with regs := t.regs, booth := t.booth }) ∧
  (∀ s rq n, Accepts s rq pwrPg 0x108 → n ≤ 96 → s.booth.admMw < s.booth.admMw - 1650 * rbits s pwrPg 0 0x108 6 0 + 1650 * n →
    rbits s tkbPg 0 0x11C 11 0 * 100 < s.booth.admMw - 1650 * rbits s pwrPg 0 0x108 6 0 + 1650 * n →
    Runs (.pwrBulkTiles rq n) s (bump s pwrPg 0 0x120 1)) ∧
  (∀ s rq, Accepts s rq pwrPg 0x100 → s.pwr.st = 1 →
    ∃ t, Runs (.run rq) s t ∧ t.pwr = { s.pwr with st := 0, want := false } ∧ (hdr t pwrPg).evtPend.getLsbD 0 = true) ∧
  (∀ s rq, Accepts s rq pwrPg 0x100 → s.pwr.st = 0 → Runs (.standby rq) s { s with pwr := { s.pwr with want := true } }) ∧
  (∀ s, alive s = true → s.pwr.want = true → s.bulkSlots = [] → s.pwr.st = 0 →
    ∃ t, Runs .standbyEnter s t ∧ t.pwr.st = 1 ∧ t.pwr.want = false ∧ (hdr t pwrPg).evtPend.getLsbD 0 = true ∧
      ∀ n, n < 104 → tileHeld s n = false → (getTile t n).store = [] ∧ (getTile t n).ungated = false) ∧
  (∀ s rq, Accepts s rq pwrPg 0x100 → dozeWhy s = 0 →
    ∃ t, Runs (.doze rq) s t ∧ t.pwr.st = 2 ∧ t.pwr.denyWhy = 0 ∧ (∀ n, n < 104 → (getTile t n).store = []) ∧
      (∀ e ∈ t.queues, e.2.cache = []) ∧ (hdr t pwrPg).evtPend.getLsbD 0 = true) ∧
  (∀ s rq, Accepts s rq pwrPg 0x100 → dozeWhy s ≠ 0 →
    Runs (.doze rq) s (bump { s with pwr := { s.pwr with denyWhy := dozeWhy s } } pwrPg 0 0x120 1)) ∧
  (∀ s, s.ctxs ≠ [] → dozeWhy s = 1) ∧ (∀ s e x, s.ctxs = [] → e ∈ s.queues → x ∈ e.2.slots → dozeWhy s = 2) ∧
  (∀ s n, alive s = true → s.pwr.st = 2 → rbits s pwrPg 0 0x11C 2 2 = 1 → n < 1024 → srcPending s n = true →
    ∃ t, Runs (.wake 2) s t ∧ t.pwr.st = 0 ∧ ∀ p ∈ t.phys, p.st ≠ 3) ∧
  (∀ s, alive s = true → s.pwr.st = 2 → rbits s pwrPg 0 0x11C 3 3 = 1 →
    ∃ t, Runs (.wake 3) s t ∧ t.pwr.st = 0 ∧ ∀ p ∈ t.phys, p.st ≠ 3) ∧
  (∀ s v t0 ts a b, alive s = true → a < 95 → b < 95 → v = ts.foldl max t0 → 1000 ≤ v → v < 1100 → s.booth.thermClosed = false →
    ∃ t, Runs (.tjSample (t0 :: ts) a b) s t ∧ t.booth = { s.booth with thermClosed := true } ∧ t.pwr.tj = v ∧ t.pwr.tjMax = max s.pwr.tjMax v ∧
      (hdr t pwrPg).fltSrc.getLsbD 0 = true ∧ (hdr t pwrPg).evtPend.getLsbD 2 = true) ∧
  (∀ s v t0 ts a b, alive s = true → a < 95 → b < 95 → v = ts.foldl max t0 → v ≤ 970 → s.booth.thermClosed = true →
    ∃ t, Runs (.tjSample (t0 :: ts) a b) s t ∧ t.booth = { s.booth with thermClosed := false } ∧ t.pwr.tj = v ∧
      (hdr t pwrPg).evtPend.getLsbD 3 = true)

/-- After POR, COLD, WARM, FLR and CASCADE the main die has no contexts, jobs, queues, tile stores or Carousel lists, its staged settings are gone, no fault state holds and boot runs again; the Island's memory, host memory, flash, fuses and straps stay (R419, R423). The fault log stays but at POR. The stacks' contents stay at WARM and FLR with HBM_PRESERVE, else they are lost. At a hot reset a page lock recorded with any class but the master's is broken and the master's stays (R71). In the fault state FLR is counted instead (R449). RST_TILEn by a Steward holds its tiles in reset, their crossings empty and full to both sides (R440), until TILE_RESET_DONE; by the host it is denied (R427). Power loss turns the main die off (R416). -/
def Obligations.ResetKinds : Prop :=
  (∀ s i t k, (i, k, t) ∈ [(Instr.por, 0, mainReset 0 { s with pwr := {} }), (.cold, 1, mainReset 1 s), (.warm .hotReset, 3, mainReset 3 s),
      (.flr, 4, mainReset 4 s), (.mgmtReset, 5, mainReset 5 s)] → resettable s = true → s.flt.fault = false →
    Runs i s t ∧ t.ctxs = [] ∧ t.jobs = [] ∧ t.queues = [] ∧ t.tiles = [] ∧ t.cars = [] ∧ t.shadow = [] ∧ t.snaps = [] ∧ t.pools = [] ∧
      t.commons = [] ∧ t.casc.homes = [] ∧ t.boot.st = 0 ∧ t.boot.mrs = List.replicate 8 (List.replicate 48 0) ∧ t.flt.fault = false ∧
      t.flt.log = (if k = 0 then [] else s.flt.log) ∧ t.rst.kind = k ∧ t.hostMem = s.hostMem ∧ t.flash = s.flash ∧ t.fuses = s.fuses ∧
      t.straps = s.straps ∧ t.isl.nvm = s.isl.nvm ∧ t.isl.ring = s.isl.ring ∧ t.pending = s.pending ∧
      t.casc.fenced = (decide (k = 5) && s.casc.fenced)) ∧
  (∀ s k, k = 2 ∨ k = 3 ∨ k = 4 → rbits s (phyPage 0) 0 0x104 0 0 = 1 → (∀ e ∈ s.pcs, e.2.queue = [] ∧ e.2.replays = [] ∧ e.2.reads = []) →
    (mainReset k s).hbm = s.hbm ∧ (mainReset k s).rst.hbmKept = true) ∧
  (∀ s k, k = 0 ∨ k = 1 ∨ k = 5 ∨ rbits s (phyPage 0) 0 0x104 0 0 = 0 → (mainReset k s).hbm = []) ∧
  (∀ s page h c, nget s.hdrs page = some h → h.lockHeld = true → h.lockClass = some c → h.lockOwner.toNat ≥ 1024 →
    (hdr (mainReset 3 s) page).lockHeld = (if c = .master then true else false) ∧
    (c ≠ .master → (hdr (mainReset 3 s) page).lockBroken = true)) ∧
  (∀ s rq, Accepts s rq rstPg 0x100 → s.jtag.held = false → rq ≠ .master → Runs (.warm (.register rq)) s (mainReset 2 s)) ∧
  (∀ s, resettable s = true → ∃ t, Runs (.warm .linkDown) s t ∧ t.boot.pcieUp = false ∧ t.rst.kind = 3 ∧ t.ctxs = []) ∧
  (∀ s, resettable s = true → s.flt.fault = true → Runs .flr s (bump s fltPg 0 0x138 1)) ∧
  (∀ s (n : Fin 4) w m k, w < 4 → k < 32 → 32 * w + k < 104 → Accepts s (.steward n) rstPg (0x110 + 4 * w) → s.flt.fault = false →
    m.getLsbD k = true → ∃ t, Runs (.rstTile (.steward n) w m) s t ∧ 32 * w + k ∈ t.rst.tiles ∧ (hdr t (tilePage (32 * w + k))).inReset = true ∧
      (hdr t (tilePage (32 * w + k))).xing = xingReset) ∧
  (∀ s w m, w < 4 → Accepts s .host rstPg (0x110 + 4 * w) → s.flt.fault = false →
    ∃ t, Runs (.rstTile .host w m) s t ∧ rgetN t topPg 0 0x108 = min 0xFFFFFFFF (rgetN s topPg 0 0x108 + 1) ∧ t = { s with regs := t.regs }) ∧
  (∀ s, busUp s = true → s.rst.tiles ≠ [] →
    ∃ t, Runs .tileResetDone s t ∧ t.rst.tiles = [] ∧ (∀ n ∈ s.rst.tiles, (hdr t (tilePage n)).inReset = false ∧ (hdr t (tilePage n)).xing.resync = false) ∧
      (hdr t rstPg).evtPend.getLsbD 0 = true) ∧
  (∀ s, ∃ t, Runs .mainPowerLoss s t ∧ t.pwr.mainOn = false ∧ t.hbm = [] ∧ t.flt = {} ∧ t.isl.nvm = s.isl.nvm ∧ t.isl.st = s.isl.st ∧
    t.fuses = s.fuses ∧ t.emitted = s.emitted)

/-- Loss of the root PLL's lock is recorded and raises its fault (R430). Loss of a reference takes its links down and raises its fault, and its return is recorded (R431). DT_ADJ by a Steward is limited to 500,000 ppb and takes effect, during a slew after it, and DT_STEP and DT_SET take their value for the common edge 2 us ahead; while one waits, and from anyone else, a write is counted (R433, R443). At that edge device time moves by the step or to the value, or with a Carousel reservation begins a slew; a slew that ends restores the rate (R432, R434). A lost crossing pulse is counted and named (R438). The PCIe link's coming up is recorded. -/
def Obligations.ClocksAndTime : Prop :=
  (∀ s, busUp s = true → s.clk.rootLock = true → ∃ t, Runs .rootPllLol s t ∧ t.clk = { s.clk with rootLock := false } ∧ t.dt = s.dt ∧
    (hdr t clkPg).fltSrc.getLsbD 0 = true ∧ (sevOf s clkPg 0 = 3 → t.flt.fault = true)) ∧
  (∀ s, busUp s = true → s.clk.ethOk = true → ∃ t, Runs (.refClockLoss true) s t ∧ t.clk.ethOk = false ∧ (getEth t 0).linkUp = false ∧
    (getEth t 1).linkUp = false ∧ (hdr t clkPg).fltSrc.getLsbD 3 = true) ∧
  (∀ s, busUp s = true → s.clk.pcieOk = true → ∃ t, Runs (.refClockLoss false) s t ∧ t.clk.pcieOk = false ∧ t.boot.pcieUp = false ∧
    (hdr t clkPg).fltSrc.getLsbD 2 = true) ∧
  (∀ s, busUp s = true → Runs (.refClockReturn true) s { s with clk := { s.clk with ethOk := true } } ∧
    Runs (.refClockReturn false) s { s with clk := { s.clk with pcieOk := true } }) ∧
  (∀ s (n : Fin 4) v, Accepts s (.steward n) clkPg 0x108 → s.clk.slew = none →
    ∃ t, Runs (.dtAdj (.steward n) v) s t ∧ t.clk = { s.clk with adj := t.clk.adj } ∧ -500000 ≤ t.clk.adj ∧ t.clk.adj ≤ 500000 ∧
      (-500000 ≤ v.toInt → v.toInt ≤ 500000 → t.clk.adj = v.toInt) ∧ t = { s with regs := t.regs, clk := t.clk }) ∧
  (∀ s (n : Fin 4), Accepts s (.steward n) clkPg 0x118 → s.clk.cmd = none →
    Runs (.dtStep (.steward n)) s { s with clk := { s.clk with cmd := some (false, signed 80 (rgetDt s clkPg 0 0x10C), s.tick + 200) } } ∧
    Runs (.dtSet (.steward n)) s { s with clk := { s.clk with cmd := some (true, (rgetDt s clkPg 0 0x10C : Int), s.tick + 200) } }) ∧
  (∀ s rq v, isSteward rq = false → Accepts s rq clkPg 0x108 → Runs (.dtAdj rq v) s (bump s clkPg 0 0x120 1)) ∧
  (∀ s (n : Fin 4) v x, Accepts s (.steward n) clkPg 0x108 → s.clk.slew = some x →
    ∃ t w, Runs (.dtAdj (.steward n) v) s t ∧ t.clk = { s.clk with adjWait := some w } ∧ -500000 ≤ w ∧ w ≤ 500000 ∧
      (-500000 ≤ v.toInt → v.toInt ≤ 500000 → w = v.toInt) ∧ t = { s with regs := t.regs, clk := t.clk }) ∧
  (∀ s rq, Accepts s rq clkPg 0x118 → s.clk.cmd ≠ none ∨ isSteward rq = false →
    Runs (.dtStep rq) s (bump s clkPg 0 0x120 1) ∧ Runs (.dtSet rq) s (bump s clkPg 0 0x120 1)) ∧
  (∀ s v due, alive s = true → s.clk.cmd = some (true, (v : Int), due) → v < 2 ^ 80 → due ≤ s.tick → anyReserved s = false →
    ∃ t, Runs .dtCmdDone s t ∧ t.dt = v ∧ t.clk = { s.clk with cmd := none, converted := false } ∧ (hdr t clkPg).evtPend.getLsbD 0 = true) ∧
  (∀ s v due, alive s = true → s.clk.cmd = some (false, v, due) → due ≤ s.tick → anyReserved s = false →
    ∃ t, Runs .dtCmdDone s t ∧ t.dt = (((s.dt : Int) + v) % (2 ^ 80 : Nat)).toNat ∧ t.clk = { s.clk with cmd := none, converted := false } ∧
      (hdr t clkPg).evtPend.getLsbD 0 = true) ∧
  (∀ s set v due, alive s = true → s.clk.cmd = some (set, v, due) → due ≤ s.tick → anyReserved s = true →
    ∃ t, Runs .dtCmdDone s t ∧ t.dt = s.dt ∧ t.clk = { s.clk with
        cmd := none, converted := true, slew := some ((if set then v - s.dt else slewRest s + v) * 1000000000) } ∧
      (hdr t clkPg).evtPend.getLsbD 0 = true) ∧
  (∀ s, alive s = true → s.clk.slew = some 0 → ∃ t, Runs .slewDone s t ∧ t.clk.slew = none ∧
    t.clk.adj = s.clk.adjWait.getD s.clk.adj ∧ (hdr t clkPg).evtPend.getLsbD 1 = true) ∧
  (∀ s id lost, busUp s = true → id < 4096 → ∃ t, Runs (.cdcEvtOvf id lost) s t ∧ id ∈ t.clk.ovf ∧ t.clk.ovfId = id ∧ t.clk.ovfValid = true ∧
    rgetN t clkPg 0 0x11C = min 0xFFFFFFFF (rgetN s clkPg 0 0x11C + lost) ∧ (hdr t clkPg).fltSrc.getLsbD 1 = true) ∧
  (∀ s, busUp s = true → Runs .pcieLinkUp s { s with boot := { s.boot with pcieUp := true } })

/-- A raise of a source not yet raised sets its bit and is logged with its information, severity and time; of one already raised it is counted and not logged, and acts at the higher of the present severity and the one it was raised with (R14); at FATAL the device enters the fault state with the first record, and at CONTAIN a block that can be fenced is (R446 to R448). A block in reset raises none. A Steward's FLT_HB restarts its deadline and clears its miss; the host's is denied. A deadline missed raises HB_MISS once and BELL holds from then on; when BELL is due it toggles unless it holds (R450). -/
def Obligations.FaultsAndBell : Prop :=
  (∀ s page src info k i, busUp s = true → pageAt page = some (k, i) → hasFlt k src = true → src < 16 → (hdr s page).inReset = false →
    (hdr s page).fltSrc.getLsbD src = false →
    ∃ t, Runs (.faultRaise page src info) s t ∧ (hdr t page).fltSrc.getLsbD src = true ∧
      t.flt.log = (⟨info % 256, decide (sevOf s page src = 3 ∧ !s.flt.fault), sevOf s page src, faultId page src, s.dt⟩ :: s.flt.log).take 64 ∧
      t.flt.head = (s.flt.head + 1) % 256 ∧
      (sevOf s page src = 3 → s.flt.fault = false → t.flt.fault = true ∧ (s.flt.first = none → t.flt.first = some (faultId page src, s.dt))) ∧
      (2 ≤ sevOf s page src → k ≠ .pwr → canFence k = true → (hdr t page).fenced = true) ∧
      (sevOf s page src ≠ 3 → t.flt.fault = s.flt.fault)) ∧
  (∀ s page src info k i, busUp s = true → pageAt page = some (k, i) → hasFlt k src = true → (hdr s page).inReset = false →
    (hdr s page).fltSrc.getLsbD src = true → src < 16 → raiseSev s page src < 3 →
    ∃ t, Runs (.faultRaise page src info) s t ∧ t.flt = s.flt ∧
      (sevOf s page src ≤ raiseSev s page src ∧ ((2 ≤ raiseSev s page src → k ≠ .pwr → canFence k = true → (hdr t page).fenced = true)) ∧
        raiseSev t page src = max (sevOf t page src) (raiseSev s page src)) ∧ rgetN t fltPg 0 0x128 = min 0xFFFFFFFF (rgetN s fltPg 0 0x128 + 1)) ∧
  (∀ s page src info, busUp s = true → (hdr s page).inReset = true → Runs (.faultRaise page src info) s s) ∧
  (∀ s (n : Fin 4), Accepts s (.steward n) fltPg 0x12C →
    ∃ t, Runs (.fltHb (.steward n)) s t ∧ t = { s with flt := { s.flt with hbAt := t.flt.hbAt, missed := t.flt.missed } } ∧
      (∀ m, m < 4 → getIx t.flt.hbAt m 0 = if m = n.val then s.tick else getIx s.flt.hbAt m 0) ∧
      (∀ m, m < 4 → getIx t.flt.missed m false = if m = n.val then false else getIx s.flt.missed m false)) ∧
  (∀ s, Accepts s .host fltPg 0x12C → ∃ t, Runs (.fltHb .host) s t ∧ rgetN t topPg 0 0x108 = min 0xFFFFFFFF (rgetN s topPg 0 0x108 + 1) ∧
    t = { s with regs := t.regs }) ∧
  (∀ s n, alive s = true → hbLate s n = true → getIx s.flt.missed n false = false →
    ∃ t, Runs (.hbMiss n) s t ∧ getIx t.flt.missed n false = true ∧ (hdr t fltPg).fltSrc.getLsbD 2 = true ∧
      (hdr t fltPg).evtPend.getLsbD 1 = true) ∧
  (∀ s n, alive s = true → getIx s.flt.missed n false = true → Runs (.hbMiss n) s s) ∧
  (∀ s n, s.boot.doneFlag = true → n < 4 → hbMask s / 2 ^ n % 2 = 1 → getIx s.flt.missed n false = true → bellHolds s = true) ∧
  (∀ s, busUp s = true → bellDue s = true → Runs .bellToggle s { s with flt := { s.flt with
    bell := if bellHolds s then s.flt.bell else !s.flt.bell, half := rbits s fltPg 0 0x134 8 0 } }) ∧
  (∀ s, busUp s = true → bellDue s = false → Runs .bellToggle s s)

/-- A Steward's CRIER_TAKE of a pending source makes it active under that Steward; of one not pending it fails; the host's is denied. CRIER_DONE by the owner ends it, and by another is counted as spurious (R453). CRIER_SET and CRIER_CLR set and clear the level of a software source and of no other (R452). -/
def Obligations.CrierSources : Prop :=
  (∀ s (n : Fin 4) src, Accepts s (.steward n) crierPg 0x190 → src < 1024 → srcPending s src = true →
    ∃ t, Runs (.crierTake (.steward n) src) s t ∧ (getSrc t src).owner = some n.val ∧ nget t.takeRes (rqIx (.steward n)) = some true ∧
      ∀ m, m ≠ src → (getSrc t m).owner = (getSrc s m).owner) ∧
  (∀ s (n : Fin 4) src, Accepts s (.steward n) crierPg 0x190 → srcPending s src = false →
    ∃ t, Runs (.crierTake (.steward n) src) s t ∧ nget t.takeRes (rqIx (.steward n)) = some false ∧ t = { s with takeRes := t.takeRes }) ∧
  (∀ s src, Accepts s .host crierPg 0x190 → ∃ t, Runs (.crierTake .host src) s t ∧
    rgetN t topPg 0 0x108 = min 0xFFFFFFFF (rgetN s topPg 0 0x108 + 1) ∧ t = { s with regs := t.regs }) ∧
  (∀ s (n : Fin 4) src, Accepts s (.steward n) crierPg 0x198 → (getSrc s src).owner = some n.val →
    ∃ t, Runs (.crierDone (.steward n) src) s t ∧ (getSrc t src).owner = none ∧ (∀ m, m ≠ src → getSrc t m = getSrc s m) ∧
      t = { s with crier := t.crier, emitted := t.emitted, msix := t.msix }) ∧
  (∀ s (n : Fin 4) src, Accepts s (.steward n) crierPg 0x198 → (getSrc s src).owner ≠ some n.val →
    Runs (.crierDone (.steward n) src) s (bump s crierPg 0 0x19C 1)) ∧
  (∀ s rq src, Accepts s rq crierPg 0x1A0 → 256 ≤ src → src < 512 →
    ∃ t, Runs (.crierSet rq src) s t ∧ (getSrc t src).level = true ∧ (∀ m, m ≠ src → getSrc t m = getSrc s m) ∧
      t = { s with crier := t.crier, emitted := t.emitted, msix := t.msix }) ∧
  (∀ s rq src, Accepts s rq crierPg 0x1A4 → 256 ≤ src → src < 512 →
    ∃ t, Runs (.crierClr rq src) s t ∧ (getSrc t src).level = false ∧ (∀ m, m ≠ src → getSrc t m = getSrc s m) ∧
      t = { s with crier := t.crier, emitted := t.emitted, msix := t.msix }) ∧
  (∀ s rq src, Accepts s rq crierPg 0x1A0 → src < 256 ∨ 512 ≤ src → Runs (.crierSet rq src) s s) ∧
  (∀ s rq src, Accepts s rq crierPg 0x1A4 → src < 256 ∨ 512 ≤ src → Runs (.crierClr rq src) s s)

/-- A counter that counts and wraps goes to zero and sets its overflow bit; one that does not count stays (R461, R462). A sample period of a sampling tile writes the entry of its operation and advances the index (R463). TMUX_SEL takes effect in an unlocked lifecycle and is counted in a locked one (R468). The TAP's instructions are loaded; EXTEST, EXTEST_PULSE, EXTEST_TRAIN, CLAMP and HIGHZ hold the main die in COLD reset and the others do not, IDCODE shifts out the device's code, and the boundary cells are kept; with the main die's power off none acts (R469). -/
def Obligations.DebugAndScan : Prop :=
  (∀ s tile n, alive s = true → n < perfCount tile → (∀ i, tile = some i → i < 104) → counts s tile n = true → chained s tile n = false →
    ∃ t, Runs (.counterWrap tile n) s t ∧ rgetN t perfPg (perfBank tile) (cntOff tile n) = 0 ∧
      (rgetN t perfPg (perfBank tile) (ovfOff tile)).testBit n = true) ∧
  (∀ s tile n, alive s = true → counts s tile n = false → Runs (.counterWrap tile n) s s) ∧
  (∀ s n k l b, alive s = true → sampling s n = true → k < 3 → (ngetD s.smps n {}).widx < 256 ∨ bits (smpCtrl s n) 30 30 = 0 →
    ∃ t x, Runs (.samplePeriod n k l b 0) s t ∧ nget t.smps n = some x ∧ x.widx = ((ngetD s.smps n {}).widx + 1) % 512 ∧
      nget x.ents ((ngetD s.smps n {}).widx % 256) = some (smpEntry (getTile s n) k l b) ∧
      t = { s with smps := t.smps, hdrs := t.hdrs, crier := t.crier, emitted := t.emitted, msix := t.msix }) ∧
  (∀ s rq v, Accepts s rq tmuxPg 0x100 → debugUnlocked s = true →
    ∃ t, Runs (.tmuxSel rq v) s t ∧ rget t tmuxPg 0 0x100 = stored tmuxRow v ∧ t = { s with regs := t.regs }) ∧
  (∀ s rq v, Accepts s rq tmuxPg 0x100 → debugUnlocked s = false → Runs (.tmuxSel rq v) s (bump s debugPg 0 0x104 1)) ∧
  (∀ s i k, (i, k) ∈ [(Instr.bypass, 0), (.samplePreload s.jtag.cells, 2), (.tapReset, 1)] → s.pwr.mainOn = true → s.jtag.held = false →
    Runs i s { s with jtag := { s.jtag with instr := k } }) ∧
  (∀ s, s.pwr.mainOn = true → s.jtag.held = false → Runs .idcode s
    { s with jtag := { s.jtag with instr := 1 }, emitted := s.emitted ++ [.tdo 0x196205AF] }) ∧
  (∀ s c, s.pwr.mainOn = true → s.jtag.held = false → Runs (.samplePreload c) s { s with jtag := { s.jtag with instr := 2, cells := c } }) ∧
  (∀ s c i k, (i, k) ∈ [(Instr.extest c, 3), (.extestPulse c, 4), (.extestTrain c, 5)] → s.pwr.mainOn = true → s.jtag.held = false →
    ∃ t, Runs i s t ∧ t.jtag = ⟨k, true, c⟩ ∧ t.boot.st = 0 ∧ t.ctxs = [] ∧ t.rst.kind = 1 ∧ busUp t = false) ∧
  (∀ s i k, (i, k) ∈ [(Instr.clamp, 6), (.highz, 7)] → s.pwr.mainOn = true → s.jtag.held = false →
    ∃ t, Runs i s t ∧ t.jtag = ⟨k, true, s.jtag.cells⟩ ∧ t.boot.st = 0 ∧ t.ctxs = [] ∧ t.rst.kind = 1 ∧ busUp t = false) ∧
  (∀ s, s.pwr.mainOn = true → s.jtag.held = true → ∃ t, Runs .tapReset s t ∧ t.jtag.held = false ∧ t.jtag.instr = 1 ∧ t.rst.kind = 1) ∧
  (∀ s i c, i ∈ [Instr.bypass, .idcode, .clamp, .highz, .tapReset, .samplePreload c, .extest c, .extestPulse c, .extestTrain c] → s.pwr.mainOn = false → Runs i s s)

/-- After reset the registers hold the values that the field tables give them: the booth's margin and power cap, the Carousel's admitted cycle, a sensor port's lanes, context and time-outs, the stacks' region map and grains, the Granary pool size, FIFO sizes and limits, ring sizes and weights, the Selfold retry limits, the cascade's time-outs, the bulk tile count and wake enables, the heartbeat and BELL settings, a source's routing, and the sampler's and counters' settings. No command waits, nothing is admitted, queued or running, no fault is logged, the Island boots, and the memories are in the form that MemoryFormKept keeps, with nothing listed. -/
def Obligations.ResetState : Prop :=
  (∀ e ∈ [(0x007, 0, 0x118, 8), (0x007, 0, 0x11C, 1850), (0x010, 24, 0x110, 0xC350), (0x010, 24, 0x114, 1), (0x1D0, 0, 0x100, 8),
      (0x1D7, 0, 0x108, 0x7FF), (0x1D7, 0, 0x10C, 0x4E20), (0x1D0, 0, 0x140, 0x3E800), (0x1D0, 0, 0x160, 400), (0x180, 0, 0x100, 0x1F1F),
      (0x180, 0, 0x124, 0x1000), (0x310, 0, 0x108, 0x44444444), (0x310, 0, 0x110, 4), (0x310, 0, 0x114, 1), (0x190, 63, 0x104, 0xC0000),
      (0x190, 0, 0x120, 0), (0x1C0, 255, 0x200, 0x800), (0x1C0, 255, 0x210, 0x640), (0x020, 8191, 0x20C, 4), (0x020, 8191, 0x218, 4),
      (0x020, 8191, 0x224, 0x101), (0x1F0, 0, 0x108, 0x207D0), (0x1F0, 0, 0x114, 0x5DC), (0x1F4, 0, 0x118, 0x7D00), (0x1F4, 0, 0x128, 0x186A0),
      (0x002, 0, 0x108, 8), (0x002, 0, 0x110, 0x8000), (0x002, 0, 0x11C, 0xF), (0x005, 0, 0x130, 0x3E801), (0x005, 0, 0x134, 500),
      (0x006, 511, 0x184, 0x1FF00F0), (0x210, 0, 0x120, 0x7FC00000), (0x210, 0, 0x200, 0x100), (0x210, 16, 0x300, 0), (0x221, 0, 0x100, 0x200000)],
    rgetN State.reset e.1 e.2.1 e.2.2.1 = e.2.2.2) ∧
  (∀ page bank off, rget State.reset page bank off = rreset page bank off) ∧ (∀ page, hdr State.reset page = {}) ∧
  ({} : PageHdr).enable = false ∧ ({} : PageHdr).lockHeld = false ∧ ({} : PageHdr).lockOwner = 0x7FF ∧ ({} : PageHdr).fltSrc = 0 ∧
  State.reset.pending = [] ∧ State.reset.ctxs = [] ∧ State.reset.jobs = [] ∧ State.reset.queues = [] ∧ State.reset.flt.log = [] ∧
  State.reset.flt.fault = false ∧ State.reset.boot.st = 0 ∧ State.reset.boot.mrs = List.replicate 8 (List.replicate 48 0) ∧
  MemForm State.reset ∧ State.reset.hostMem = [] ∧ State.reset.hbm = [] ∧ State.reset.commons = [] ∧ State.reset.isl.st = 1 ∧ State.reset.pwr.st = 0 ∧ State.reset.casc.devId = 0x7FF ∧ State.reset.casc.enumDone = false

/-- From every state, every command of the table answers a next state and leaves the waiting commands as they are; a step takes the first of them and answers a next state with the others in their order. Where host memory, stacks and Commons store are in canonical form (addresses rising, no listed zero), they are so in that next state too. So no command of any kind stops the device or leaves two ways to hold one memory. -/
def Obligations.MemoryFormKept : Prop :=
  (∀ (c : Instr) (s : State), ∃ t, Runs c s t ∧ t.pending = s.pending ∧ (MemForm s → MemForm t)) ∧
  (∀ s : State, ∃ t, Steps s t ∧ t.pending = s.pending.tail ∧ (MemForm s → MemForm t))
end

