-- ==== Sys2Proof/Laws/Tables.lean ====
section
/-! SUPPORT. The laws of sparse tables: reading after writing, and the canonical form of byte memories. They hold of any list
of pairs, sorted or not, except where `nsorted` is named. -/
namespace Sys2Proof.Machine

@[simp] theorem nget_nset_same {α : Type} (m : NMap α) (k : Nat) (v : α) : nget (nset m k v) k = some v := by
  induction m with
  | nil => simp [nset, nget]
  | cons e t ih =>
    obtain ⟨j, w⟩ := e
    unfold nset
    by_cases h1 : k < j
    · simp [h1, nget]
    · by_cases h2 : k = j
      · subst h2; simp [nget]
      · have h3 : j ≠ k := fun h => h2 h.symm
        simp [h1, h2, h3, nget, ih]

theorem nget_nset_other {α : Type} (m : NMap α) (k j : Nat) (v : α) (h : j ≠ k) : nget (nset m k v) j = nget m j := by
  induction m with
  | nil =>
    have h1 : k ≠ j := fun e => h e.symm
    simp [nset, nget, h1]
  | cons e t ih =>
    obtain ⟨i, w⟩ := e
    have h0 : k ≠ j := fun e => h e.symm
    unfold nset
    by_cases h1 : k < i
    · simp [h1, nget, h0]
    · by_cases h2 : k = i
      · subst h2; simp [nget, h0]
      · simp only [h1, h2, if_false, nget, ih]

theorem nget_nset {α : Type} (m : NMap α) (k j : Nat) (v : α) :
    nget (nset m k v) j = if j = k then some v else nget m j := by
  by_cases h : j = k
  · subst h; simp
  · simp [h, nget_nset_other m k j v h]

@[simp] theorem ngetD_nset_same {α : Type} (m : NMap α) (k : Nat) (v d : α) : ngetD (nset m k v) k d = v := by simp [ngetD]

theorem ngetD_nset_other {α : Type} (m : NMap α) (k j : Nat) (v d : α) (h : j ≠ k) :
    ngetD (nset m k v) j d = ngetD m j d := by simp [ngetD, nget_nset_other m k j v h]

theorem ngetD_nset {α : Type} (m : NMap α) (k j : Nat) (v d : α) :
    ngetD (nset m k v) j d = if j = k then v else ngetD m j d := by
  by_cases h : j = k
  · subst h; simp
  · simp [h, ngetD_nset_other m k j v d h]

/-- Every key of the table lies above `b`. -/
def nabove {α : Type} (b : Nat) (m : NMap α) : Bool := m.all fun e => decide (b < e.1)

theorem nsorted_cons {α : Type} (j : Nat) (w : α) (t : NMap α) : nsorted ((j, w) :: t) = (nabove j t && nsorted t) := by
  induction t generalizing j w with
  | nil => simp [nsorted, nabove]
  | cons e t ih =>
    obtain ⟨k, x⟩ := e
    simp only [nsorted]
    rw [ih k x]
    by_cases h : j < k
    · have : nabove k t = true → nabove j t = true := by
        simp only [nabove, List.all_eq_true, decide_eq_true_eq]
        intro h1 e he
        exact lt_trans h (h1 e he)
      simp only [nabove, List.all_cons, h, decide_true, Bool.true_and] at *
      cases h1 : t.all (fun e => decide (k < e.1)) <;> cases h2 : t.all (fun e => decide (j < e.1)) <;> simp_all
    · simp [nabove, h]

theorem nabove_nset {α : Type} (b k : Nat) (v : α) (m : NMap α) (h : b < k) (hm : nabove b m = true) :
    nabove b (nset m k v) = true := by
  induction m with
  | nil => simp [nset, nabove, h]
  | cons e t ih =>
    obtain ⟨j, w⟩ := e
    simp only [nabove, List.all_cons, Bool.and_eq_true, decide_eq_true_eq] at hm
    unfold nset
    by_cases h1 : k < j
    · simpa [h1, nabove, h, hm.1] using hm.2
    · by_cases h2 : k = j
      · simpa [h2, nabove, hm.1] using hm.2
      · have := ih hm.2
        simp only [h1, h2, if_false]
        simpa [nabove, hm.1] using this

theorem nabove_filter {α : Type} (m : NMap α) (p : Nat × α → Bool) (b : Nat) (h : nabove b m = true) :
    nabove b (m.filter p) = true := by
  simp only [nabove, List.all_eq_true] at *
  intro e he
  exact h e (List.mem_of_mem_filter he)

theorem nsorted_filter {α : Type} (m : NMap α) (p : Nat × α → Bool) (h : nsorted m = true) : nsorted (m.filter p) = true := by
  induction m with
  | nil => rfl
  | cons e t ih =>
    obtain ⟨j, w⟩ := e
    rw [nsorted_cons, Bool.and_eq_true] at h
    by_cases hp : p (j, w) = true
    · rw [List.filter_cons_of_pos hp, nsorted_cons, nabove_filter t p j h.1, ih h.2]; rfl
    · rw [List.filter_cons_of_neg hp]; exact ih h.2

/-- Reading a table filtered by its keys. -/
theorem nget_filter_key {α : Type} (m : NMap α) (p : Nat → Bool) (k : Nat) :
    nget (m.filter fun e => p e.1) k = if p k = true then nget m k else none := by
  induction m with
  | nil => simp [nget]
  | cons e t ih =>
    obtain ⟨j, w⟩ := e
    by_cases h : j = k
    · subst h
      by_cases hp : p j = true
      · simp [hp, nget]
      · simp only [Bool.not_eq_true] at hp; simpa [List.filter_cons, hp, nget] using ih
    · by_cases hp : p j = true
      · simp only [List.filter_cons, hp, if_true, nget, h, if_false, ih]
      · simp only [Bool.not_eq_true] at hp; simpa [List.filter_cons, hp, nget, h] using ih

theorem nget_ndel {α : Type} (m : NMap α) (k j : Nat) : nget (ndel m k) j = if j = k then none else nget m j := by
  unfold ndel
  rw [nget_filter_key m (fun i => i != k)]
  by_cases h : j = k <;> simp [h]

theorem nget_ndel_other {α : Type} (m : NMap α) (k j : Nat) (h : j ≠ k) : nget (ndel m k) j = nget m j := by
  rw [nget_ndel, if_neg h]

@[simp] theorem nget_ndel_same {α : Type} (m : NMap α) (k : Nat) : nget (ndel m k) k = none := by rw [nget_ndel, if_pos rfl]

/-- Reading a table whose entries are changed one by one, their keys kept. -/
theorem nget_map {α β : Type} (m : NMap α) (f : Nat → α → β) (k : Nat) :
    nget (m.map fun e => (e.1, f e.1 e.2)) k = (nget m k).map (f k) := by
  induction m with
  | nil => rfl
  | cons e t ih =>
    obtain ⟨j, w⟩ := e
    by_cases h : j = k
    · subst h; simp [nget]
    · simpa only [List.map_cons, nget, h, if_false] using ih

theorem nabove_ndel {α : Type} (b k : Nat) (m : NMap α) (hm : nabove b m = true) : nabove b (ndel m k) = true :=
  nabove_filter m _ b hm

theorem nsorted_nset {α : Type} (m : NMap α) (k : Nat) (v : α) (h : nsorted m = true) : nsorted (nset m k v) = true := by
  induction m with
  | nil => simp [nset, nsorted]
  | cons e t ih =>
    obtain ⟨j, w⟩ := e
    rw [nsorted_cons, Bool.and_eq_true] at h
    unfold nset
    by_cases h1 : k < j
    · simp only [h1, if_true]
      rw [nsorted_cons, nsorted_cons, h.1, h.2]
      have : nabove k t = true := by
        have := h.1
        simp only [nabove, List.all_eq_true, decide_eq_true_eq] at *
        intro e he
        exact lt_trans h1 (this e he)
      simpa [nabove, h1] using this
    · by_cases h2 : k = j
      · simp only [h2, lt_irrefl, if_false, if_true]
        rw [nsorted_cons, h.1, h.2]; rfl
      · simp only [h1, h2, if_false]
        rw [nsorted_cons, nabove_nset j k v t (by omega) h.1, ih h.2]; rfl

theorem nsorted_ndel {α : Type} (m : NMap α) (k : Nat) (h : nsorted m = true) : nsorted (ndel m k) = true :=
  nsorted_filter m _ h

theorem all_nset {α : Type} (p : α → Bool) (m : NMap α) (k : Nat) (v : α) (hv : p v = true)
    (h : m.all (fun e => p e.2) = true) : (nset m k v).all (fun e => p e.2) = true := by
  induction m with
  | nil => simp [nset, hv]
  | cons e t ih =>
    obtain ⟨j, w⟩ := e
    simp only [List.all_cons, Bool.and_eq_true] at h
    unfold nset
    by_cases h1 : k < j
    · simp [h1, hv, h.1]; simpa using h.2
    · by_cases h2 : k = j
      · simp [h2, hv]; simpa using h.2
      · have := ih h.2
        simp only [h1, h2, if_false, List.all_cons, h.1, Bool.true_and, this]

theorem all_ndel {α : Type} (p : α → Bool) (m : NMap α) (k : Nat) (h : m.all (fun e => p e.2) = true) :
    (ndel m k).all (fun e => p e.2) = true := by
  simp only [List.all_eq_true] at *
  exact fun e he => h e (List.mem_of_mem_filter he)

/-- A byte write keeps the canonical form. -/
theorem memWf_bset (m : NMap Byte) (a : Nat) (b : Byte) (h : memWf m = true) : memWf (bset m a b) = true := by
  simp only [memWf, Bool.and_eq_true] at h ⊢
  unfold bset
  by_cases hb : b = 0
  · simp only [hb, if_true]
    exact ⟨nsorted_ndel m a h.1, all_ndel (fun x => x != 0) m a h.2⟩
  · simp only [hb, if_false]
    exact ⟨nsorted_nset m a b h.1, all_nset (fun x => x != 0) m a b (by simpa using hb) h.2⟩

theorem nget_none_of_nabove {α : Type} (m : NMap α) (k b : Nat) (h : nabove b m = true) (hk : k ≤ b) : nget m k = none := by
  induction m with
  | nil => rfl
  | cons e t ih =>
    obtain ⟨l, x⟩ := e
    simp only [nabove, List.all_cons, Bool.and_eq_true, decide_eq_true_eq] at h
    have h6 : l ≠ k := by omega
    simp only [nget, h6, if_false]
    exact ih h.2

/-- Reading a filtered table: an entry stays when the test holds of it. -/
theorem nget_filter {α : Type} (m : NMap α) (p : Nat × α → Bool) (k : Nat) (h : nsorted m = true) :
    nget (m.filter p) k = (nget m k).filter fun v => p (k, v) := by
  induction m with
  | nil => rfl
  | cons e t ih =>
    obtain ⟨j, w⟩ := e
    rw [nsorted_cons, Bool.and_eq_true] at h
    by_cases hp : p (j, w) = true
    · rw [List.filter_cons_of_pos hp]
      by_cases h1 : j = k
      · subst h1; simp only [nget, if_true, Option.filter, hp]
      · simp only [nget, h1, if_false]; exact ih h.2
    · rw [List.filter_cons_of_neg hp]
      by_cases h1 : j = k
      · subst h1
        rw [nget_none_of_nabove _ j j (nabove_filter t p j h.1) (le_refl j)]
        simp only [nget, if_true, Option.filter]; rw [if_neg hp]
      · simp only [nget, h1, if_false]; exact ih h.2

/-- A byte reads back as it was written. -/
theorem bget_bset_same (m : NMap Byte) (a : Nat) (b : Byte) : bget (bset m a b) a = b := by
  unfold bset bget
  by_cases hb : b = 0
  · simp [hb, ngetD]
  · rw [if_neg hb]; simp

/-- A byte write leaves every other byte alone. -/
theorem bget_bset_other (m : NMap Byte) (a c : Nat) (b : Byte) (hc : c ≠ a) : bget (bset m a b) c = bget m c := by
  unfold bset bget
  by_cases hb : b = 0
  · simp [hb, ngetD, nget_ndel_other m a c hc]
  · rw [if_neg hb]; exact ngetD_nset_other m a c b 0 hc

/-! ## Lists read and written by index -/

@[simp] theorem getIx_setIx_same {α : Type} (l : List α) (i : Nat) (x d e : α) : getIx (setIx l i x d) i e = x := by
  unfold getIx setIx
  by_cases h : i < l.length
  · simp [h]
  · rw [if_neg h]
    have : (l ++ List.replicate (i - l.length) d).length = i := by simp; omega
    rw [List.getElem?_append_right (by omega), this]; simp

theorem getIx_setIx_other {α : Type} (l : List α) (i j : Nat) (x d : α) (h : j ≠ i) :
    getIx (setIx l i x d) j d = getIx l j d := by
  unfold getIx setIx
  by_cases h1 : i < l.length
  · rw [if_pos h1, List.getElem?_set_ne (fun e => h e.symm)]
  · rw [if_neg h1]
    by_cases h2 : j < l.length
    · rw [List.append_assoc, List.getElem?_append_left h2]
    · rw [List.append_assoc, List.getElem?_append_right (by omega), List.getElem?_eq_none (l := l) (by omega)]
      by_cases h3 : j - l.length < i - l.length
      · rw [List.getElem?_append_left (by simpa using h3)]; simp [h3]
      · rw [List.getElem?_append_right (by simpa using h3), List.getElem?_eq_none (by simp; omega)]

end Sys2Proof.Machine
end

