-- ==== Sys2Proof/Laws/State.lean ====
section
/-! SUPPORT. One law per field and update of State: each update writes its own field and leaves every other field as it was. -/
namespace Sys2Proof.Machine


/-! ## rput -/

@[simp] theorem rput_pending (s : State) (page bank off : Nat) (v : U32) : (rput s page bank off v).pending = s.pending := rfl
@[simp] theorem rput_freeCtr (s : State) (page bank off : Nat) (v : U32) : (rput s page bank off v).freeCtr = s.freeCtr := rfl
@[simp] theorem rput_out (s : State) (page bank off : Nat) (v : U32) : (rput s page bank off v).out = s.out := rfl
@[simp] theorem rput_emitted (s : State) (page bank off : Nat) (v : U32) : (rput s page bank off v).emitted = s.emitted := rfl
@[simp] theorem rput_dt (s : State) (page bank off : Nat) (v : U32) : (rput s page bank off v).dt = s.dt := rfl
@[simp] theorem rput_dtRem (s : State) (page bank off : Nat) (v : U32) : (rput s page bank off v).dtRem = s.dtRem := rfl
@[simp] theorem rput_tick (s : State) (page bank off : Nat) (v : U32) : (rput s page bank off v).tick = s.tick := rfl
@[simp] theorem rput_nextId (s : State) (page bank off : Nat) (v : U32) : (rput s page bank off v).nextId = s.nextId := rfl
@[simp] theorem rput_hdrs (s : State) (page bank off : Nat) (v : U32) : (rput s page bank off v).hdrs = s.hdrs := rfl
@[simp] theorem rput_regs (s : State) (page bank off : Nat) (v : U32) : (rput s page bank off v).regs = nset s.regs (rkey page bank off) v := rfl
@[simp] theorem rput_shadow (s : State) (page bank off : Nat) (v : U32) : (rput s page bank off v).shadow = s.shadow := rfl
@[simp] theorem rput_snaps (s : State) (page bank off : Nat) (v : U32) : (rput s page bank off v).snaps = s.snaps := rfl
@[simp] theorem rput_latches (s : State) (page bank off : Nat) (v : U32) : (rput s page bank off v).latches = s.latches := rfl
@[simp] theorem rput_loHeld (s : State) (page bank off : Nat) (v : U32) : (rput s page bank off v).loHeld = s.loHeld := rfl
@[simp] theorem rput_schedRec (s : State) (page bank off : Nat) (v : U32) : (rput s page bank off v).schedRec = s.schedRec := rfl
@[simp] theorem rput_msix (s : State) (page bank off : Nat) (v : U32) : (rput s page bank off v).msix = s.msix := rfl
@[simp] theorem rput_arbs (s : State) (page bank off : Nat) (v : U32) : (rput s page bank off v).arbs = s.arbs := rfl
@[simp] theorem rput_taps (s : State) (page bank off : Nat) (v : U32) : (rput s page bank off v).taps = s.taps := rfl
@[simp] theorem rput_unitTaps (s : State) (page bank off : Nat) (v : U32) : (rput s page bank off v).unitTaps = s.unitTaps := rfl
@[simp] theorem rput_slotCtx (s : State) (page bank off : Nat) (v : U32) : (rput s page bank off v).slotCtx = s.slotCtx := rfl
@[simp] theorem rput_slotRecs (s : State) (page bank off : Nat) (v : U32) : (rput s page bank off v).slotRecs = s.slotRecs := rfl
@[simp] theorem rput_hostMem (s : State) (page bank off : Nat) (v : U32) : (rput s page bank off v).hostMem = s.hostMem := rfl
@[simp] theorem rput_hostErr (s : State) (page bank off : Nat) (v : U32) : (rput s page bank off v).hostErr = s.hostErr := rfl
@[simp] theorem rput_hostPoison (s : State) (page bank off : Nat) (v : U32) : (rput s page bank off v).hostPoison = s.hostPoison := rfl
@[simp] theorem rput_hbm (s : State) (page bank off : Nat) (v : U32) : (rput s page bank off v).hbm = s.hbm := rfl
@[simp] theorem rput_hbmPoison (s : State) (page bank off : Nat) (v : U32) : (rput s page bank off v).hbmPoison = s.hbmPoison := rfl
@[simp] theorem rput_commons (s : State) (page bank off : Nat) (v : U32) : (rput s page bank off v).commons = s.commons := rfl
@[simp] theorem rput_comPoison (s : State) (page bank off : Nat) (v : U32) : (rput s page bank off v).comPoison = s.comPoison := rfl
@[simp] theorem rput_comScrub (s : State) (page bank off : Nat) (v : U32) : (rput s page bank off v).comScrub = s.comScrub := rfl
@[simp] theorem rput_flash (s : State) (page bank off : Nat) (v : U32) : (rput s page bank off v).flash = s.flash := rfl
@[simp] theorem rput_flashSize (s : State) (page bank off : Nat) (v : U32) : (rput s page bank off v).flashSize = s.flashSize := rfl
@[simp] theorem rput_flashOk (s : State) (page bank off : Nat) (v : U32) : (rput s page bank off v).flashOk = s.flashOk := rfl
@[simp] theorem rput_booth (s : State) (page bank off : Nat) (v : U32) : (rput s page bank off v).booth = s.booth := rfl
@[simp] theorem rput_cars (s : State) (page bank off : Nat) (v : U32) : (rput s page bank off v).cars = s.cars := rfl
@[simp] theorem rput_ctxs (s : State) (page bank off : Nat) (v : U32) : (rput s page bank off v).ctxs = s.ctxs := rfl
@[simp] theorem rput_jobs (s : State) (page bank off : Nat) (v : U32) : (rput s page bank off v).jobs = s.jobs := rfl
@[simp] theorem rput_bulkSlots (s : State) (page bank off : Nat) (v : U32) : (rput s page bank off v).bulkSlots = s.bulkSlots := rfl
@[simp] theorem rput_bulkTurn (s : State) (page bank off : Nat) (v : U32) : (rput s page bank off v).bulkTurn = s.bulkTurn := rfl
@[simp] theorem rput_bulkBurst (s : State) (page bank off : Nat) (v : U32) : (rput s page bank off v).bulkBurst = s.bulkBurst := rfl
@[simp] theorem rput_sensors (s : State) (page bank off : Nat) (v : U32) : (rput s page bank off v).sensors = s.sensors := rfl
@[simp] theorem rput_tiles (s : State) (page bank off : Nat) (v : U32) : (rput s page bank off v).tiles = s.tiles := rfl
@[simp] theorem rput_pcs (s : State) (page bank off : Nat) (v : U32) : (rput s page bank off v).pcs = s.pcs := rfl
@[simp] theorem rput_ingress (s : State) (page bank off : Nat) (v : U32) : (rput s page bank off v).ingress = s.ingress := rfl
@[simp] theorem rput_hbmWait (s : State) (page bank off : Nat) (v : U32) : (rput s page bank off v).hbmWait = s.hbmWait := rfl
@[simp] theorem rput_hbmGrant (s : State) (page bank off : Nat) (v : U32) : (rput s page bank off v).hbmGrant = s.hbmGrant := rfl
@[simp] theorem rput_hbmOut (s : State) (page bank off : Nat) (v : U32) : (rput s page bank off v).hbmOut = s.hbmOut := rfl
@[simp] theorem rput_phys (s : State) (page bank off : Nat) (v : U32) : (rput s page bank off v).phys = s.phys := rfl
@[simp] theorem rput_hbmHold (s : State) (page bank off : Nat) (v : U32) : (rput s page bank off v).hbmHold = s.hbmHold := rfl
@[simp] theorem rput_pools (s : State) (page bank off : Nat) (v : U32) : (rput s page bank off v).pools = s.pools := rfl
@[simp] theorem rput_grnRes (s : State) (page bank off : Nat) (v : U32) : (rput s page bank off v).grnRes = s.grnRes := rfl
@[simp] theorem rput_fifos (s : State) (page bank off : Nat) (v : U32) : (rput s page bank off v).fifos = s.fifos := rfl
@[simp] theorem rput_dmas (s : State) (page bank off : Nat) (v : U32) : (rput s page bank off v).dmas = s.dmas := rfl
@[simp] theorem rput_timers (s : State) (page bank off : Nat) (v : U32) : (rput s page bank off v).timers = s.timers := rfl
@[simp] theorem rput_crcs (s : State) (page bank off : Nat) (v : U32) : (rput s page bank off v).crcs = s.crcs := rfl
@[simp] theorem rput_queues (s : State) (page bank off : Nat) (v : U32) : (rput s page bank off v).queues = s.queues := rfl
@[simp] theorem rput_flows (s : State) (page bank off : Nat) (v : U32) : (rput s page bank off v).flows = s.flows := rfl
@[simp] theorem rput_svcs (s : State) (page bank off : Nat) (v : U32) : (rput s page bank off v).svcs = s.svcs := rfl
@[simp] theorem rput_eports (s : State) (page bank off : Nat) (v : U32) : (rput s page bank off v).eports = s.eports := rfl
@[simp] theorem rput_rings (s : State) (page bank off : Nat) (v : U32) : (rput s page bank off v).rings = s.rings := rfl
@[simp] theorem rput_eths (s : State) (page bank off : Nat) (v : U32) : (rput s page bank off v).eths = s.eths := rfl
@[simp] theorem rput_bursts (s : State) (page bank off : Nat) (v : U32) : (rput s page bank off v).bursts = s.bursts := rfl
@[simp] theorem rput_sfs (s : State) (page bank off : Nat) (v : U32) : (rput s page bank off v).sfs = s.sfs := rfl
@[simp] theorem rput_casc (s : State) (page bank off : Nat) (v : U32) : (rput s page bank off v).casc = s.casc := rfl
@[simp] theorem rput_isl (s : State) (page bank off : Nat) (v : U32) : (rput s page bank off v).isl = s.isl := rfl
@[simp] theorem rput_boot (s : State) (page bank off : Nat) (v : U32) : (rput s page bank off v).boot = s.boot := rfl
@[simp] theorem rput_fuses (s : State) (page bank off : Nat) (v : U32) : (rput s page bank off v).fuses = s.fuses := rfl
@[simp] theorem rput_straps (s : State) (page bank off : Nat) (v : U32) : (rput s page bank off v).straps = s.straps := rfl
@[simp] theorem rput_pwr (s : State) (page bank off : Nat) (v : U32) : (rput s page bank off v).pwr = s.pwr := rfl
@[simp] theorem rput_rst (s : State) (page bank off : Nat) (v : U32) : (rput s page bank off v).rst = s.rst := rfl
@[simp] theorem rput_clk (s : State) (page bank off : Nat) (v : U32) : (rput s page bank off v).clk = s.clk := rfl
@[simp] theorem rput_flt (s : State) (page bank off : Nat) (v : U32) : (rput s page bank off v).flt = s.flt := rfl
@[simp] theorem rput_crier (s : State) (page bank off : Nat) (v : U32) : (rput s page bank off v).crier = s.crier := rfl
@[simp] theorem rput_takeRes (s : State) (page bank off : Nat) (v : U32) : (rput s page bank off v).takeRes = s.takeRes := rfl
@[simp] theorem rput_smps (s : State) (page bank off : Nat) (v : U32) : (rput s page bank off v).smps = s.smps := rfl
@[simp] theorem rput_jtag (s : State) (page bank off : Nat) (v : U32) : (rput s page bank off v).jtag = s.jtag := rfl

/-! ## sput -/

@[simp] theorem sput_pending (s : State) (page bank off : Nat) (v : U32) : (sput s page bank off v).pending = s.pending := rfl
@[simp] theorem sput_freeCtr (s : State) (page bank off : Nat) (v : U32) : (sput s page bank off v).freeCtr = s.freeCtr := rfl
@[simp] theorem sput_out (s : State) (page bank off : Nat) (v : U32) : (sput s page bank off v).out = s.out := rfl
@[simp] theorem sput_emitted (s : State) (page bank off : Nat) (v : U32) : (sput s page bank off v).emitted = s.emitted := rfl
@[simp] theorem sput_dt (s : State) (page bank off : Nat) (v : U32) : (sput s page bank off v).dt = s.dt := rfl
@[simp] theorem sput_dtRem (s : State) (page bank off : Nat) (v : U32) : (sput s page bank off v).dtRem = s.dtRem := rfl
@[simp] theorem sput_tick (s : State) (page bank off : Nat) (v : U32) : (sput s page bank off v).tick = s.tick := rfl
@[simp] theorem sput_nextId (s : State) (page bank off : Nat) (v : U32) : (sput s page bank off v).nextId = s.nextId := rfl
@[simp] theorem sput_hdrs (s : State) (page bank off : Nat) (v : U32) : (sput s page bank off v).hdrs = s.hdrs := rfl
@[simp] theorem sput_regs (s : State) (page bank off : Nat) (v : U32) : (sput s page bank off v).regs = s.regs := rfl
@[simp] theorem sput_shadow (s : State) (page bank off : Nat) (v : U32) : (sput s page bank off v).shadow = nset s.shadow (rkey page bank off) v := rfl
@[simp] theorem sput_snaps (s : State) (page bank off : Nat) (v : U32) : (sput s page bank off v).snaps = s.snaps := rfl
@[simp] theorem sput_latches (s : State) (page bank off : Nat) (v : U32) : (sput s page bank off v).latches = s.latches := rfl
@[simp] theorem sput_loHeld (s : State) (page bank off : Nat) (v : U32) : (sput s page bank off v).loHeld = s.loHeld := rfl
@[simp] theorem sput_schedRec (s : State) (page bank off : Nat) (v : U32) : (sput s page bank off v).schedRec = s.schedRec := rfl
@[simp] theorem sput_msix (s : State) (page bank off : Nat) (v : U32) : (sput s page bank off v).msix = s.msix := rfl
@[simp] theorem sput_arbs (s : State) (page bank off : Nat) (v : U32) : (sput s page bank off v).arbs = s.arbs := rfl
@[simp] theorem sput_taps (s : State) (page bank off : Nat) (v : U32) : (sput s page bank off v).taps = s.taps := rfl
@[simp] theorem sput_unitTaps (s : State) (page bank off : Nat) (v : U32) : (sput s page bank off v).unitTaps = s.unitTaps := rfl
@[simp] theorem sput_slotCtx (s : State) (page bank off : Nat) (v : U32) : (sput s page bank off v).slotCtx = s.slotCtx := rfl
@[simp] theorem sput_slotRecs (s : State) (page bank off : Nat) (v : U32) : (sput s page bank off v).slotRecs = s.slotRecs := rfl
@[simp] theorem sput_hostMem (s : State) (page bank off : Nat) (v : U32) : (sput s page bank off v).hostMem = s.hostMem := rfl
@[simp] theorem sput_hostErr (s : State) (page bank off : Nat) (v : U32) : (sput s page bank off v).hostErr = s.hostErr := rfl
@[simp] theorem sput_hostPoison (s : State) (page bank off : Nat) (v : U32) : (sput s page bank off v).hostPoison = s.hostPoison := rfl
@[simp] theorem sput_hbm (s : State) (page bank off : Nat) (v : U32) : (sput s page bank off v).hbm = s.hbm := rfl
@[simp] theorem sput_hbmPoison (s : State) (page bank off : Nat) (v : U32) : (sput s page bank off v).hbmPoison = s.hbmPoison := rfl
@[simp] theorem sput_commons (s : State) (page bank off : Nat) (v : U32) : (sput s page bank off v).commons = s.commons := rfl
@[simp] theorem sput_comPoison (s : State) (page bank off : Nat) (v : U32) : (sput s page bank off v).comPoison = s.comPoison := rfl
@[simp] theorem sput_comScrub (s : State) (page bank off : Nat) (v : U32) : (sput s page bank off v).comScrub = s.comScrub := rfl
@[simp] theorem sput_flash (s : State) (page bank off : Nat) (v : U32) : (sput s page bank off v).flash = s.flash := rfl
@[simp] theorem sput_flashSize (s : State) (page bank off : Nat) (v : U32) : (sput s page bank off v).flashSize = s.flashSize := rfl
@[simp] theorem sput_flashOk (s : State) (page bank off : Nat) (v : U32) : (sput s page bank off v).flashOk = s.flashOk := rfl
@[simp] theorem sput_booth (s : State) (page bank off : Nat) (v : U32) : (sput s page bank off v).booth = s.booth := rfl
@[simp] theorem sput_cars (s : State) (page bank off : Nat) (v : U32) : (sput s page bank off v).cars = s.cars := rfl
@[simp] theorem sput_ctxs (s : State) (page bank off : Nat) (v : U32) : (sput s page bank off v).ctxs = s.ctxs := rfl
@[simp] theorem sput_jobs (s : State) (page bank off : Nat) (v : U32) : (sput s page bank off v).jobs = s.jobs := rfl
@[simp] theorem sput_bulkSlots (s : State) (page bank off : Nat) (v : U32) : (sput s page bank off v).bulkSlots = s.bulkSlots := rfl
@[simp] theorem sput_bulkTurn (s : State) (page bank off : Nat) (v : U32) : (sput s page bank off v).bulkTurn = s.bulkTurn := rfl
@[simp] theorem sput_bulkBurst (s : State) (page bank off : Nat) (v : U32) : (sput s page bank off v).bulkBurst = s.bulkBurst := rfl
@[simp] theorem sput_sensors (s : State) (page bank off : Nat) (v : U32) : (sput s page bank off v).sensors = s.sensors := rfl
@[simp] theorem sput_tiles (s : State) (page bank off : Nat) (v : U32) : (sput s page bank off v).tiles = s.tiles := rfl
@[simp] theorem sput_pcs (s : State) (page bank off : Nat) (v : U32) : (sput s page bank off v).pcs = s.pcs := rfl
@[simp] theorem sput_ingress (s : State) (page bank off : Nat) (v : U32) : (sput s page bank off v).ingress = s.ingress := rfl
@[simp] theorem sput_hbmWait (s : State) (page bank off : Nat) (v : U32) : (sput s page bank off v).hbmWait = s.hbmWait := rfl
@[simp] theorem sput_hbmGrant (s : State) (page bank off : Nat) (v : U32) : (sput s page bank off v).hbmGrant = s.hbmGrant := rfl
@[simp] theorem sput_hbmOut (s : State) (page bank off : Nat) (v : U32) : (sput s page bank off v).hbmOut = s.hbmOut := rfl
@[simp] theorem sput_phys (s : State) (page bank off : Nat) (v : U32) : (sput s page bank off v).phys = s.phys := rfl
@[simp] theorem sput_hbmHold (s : State) (page bank off : Nat) (v : U32) : (sput s page bank off v).hbmHold = s.hbmHold := rfl
@[simp] theorem sput_pools (s : State) (page bank off : Nat) (v : U32) : (sput s page bank off v).pools = s.pools := rfl
@[simp] theorem sput_grnRes (s : State) (page bank off : Nat) (v : U32) : (sput s page bank off v).grnRes = s.grnRes := rfl
@[simp] theorem sput_fifos (s : State) (page bank off : Nat) (v : U32) : (sput s page bank off v).fifos = s.fifos := rfl
@[simp] theorem sput_dmas (s : State) (page bank off : Nat) (v : U32) : (sput s page bank off v).dmas = s.dmas := rfl
@[simp] theorem sput_timers (s : State) (page bank off : Nat) (v : U32) : (sput s page bank off v).timers = s.timers := rfl
@[simp] theorem sput_crcs (s : State) (page bank off : Nat) (v : U32) : (sput s page bank off v).crcs = s.crcs := rfl
@[simp] theorem sput_queues (s : State) (page bank off : Nat) (v : U32) : (sput s page bank off v).queues = s.queues := rfl
@[simp] theorem sput_flows (s : State) (page bank off : Nat) (v : U32) : (sput s page bank off v).flows = s.flows := rfl
@[simp] theorem sput_svcs (s : State) (page bank off : Nat) (v : U32) : (sput s page bank off v).svcs = s.svcs := rfl
@[simp] theorem sput_eports (s : State) (page bank off : Nat) (v : U32) : (sput s page bank off v).eports = s.eports := rfl
@[simp] theorem sput_rings (s : State) (page bank off : Nat) (v : U32) : (sput s page bank off v).rings = s.rings := rfl
@[simp] theorem sput_eths (s : State) (page bank off : Nat) (v : U32) : (sput s page bank off v).eths = s.eths := rfl
@[simp] theorem sput_bursts (s : State) (page bank off : Nat) (v : U32) : (sput s page bank off v).bursts = s.bursts := rfl
@[simp] theorem sput_sfs (s : State) (page bank off : Nat) (v : U32) : (sput s page bank off v).sfs = s.sfs := rfl
@[simp] theorem sput_casc (s : State) (page bank off : Nat) (v : U32) : (sput s page bank off v).casc = s.casc := rfl
@[simp] theorem sput_isl (s : State) (page bank off : Nat) (v : U32) : (sput s page bank off v).isl = s.isl := rfl
@[simp] theorem sput_boot (s : State) (page bank off : Nat) (v : U32) : (sput s page bank off v).boot = s.boot := rfl
@[simp] theorem sput_fuses (s : State) (page bank off : Nat) (v : U32) : (sput s page bank off v).fuses = s.fuses := rfl
@[simp] theorem sput_straps (s : State) (page bank off : Nat) (v : U32) : (sput s page bank off v).straps = s.straps := rfl
@[simp] theorem sput_pwr (s : State) (page bank off : Nat) (v : U32) : (sput s page bank off v).pwr = s.pwr := rfl
@[simp] theorem sput_rst (s : State) (page bank off : Nat) (v : U32) : (sput s page bank off v).rst = s.rst := rfl
@[simp] theorem sput_clk (s : State) (page bank off : Nat) (v : U32) : (sput s page bank off v).clk = s.clk := rfl
@[simp] theorem sput_flt (s : State) (page bank off : Nat) (v : U32) : (sput s page bank off v).flt = s.flt := rfl
@[simp] theorem sput_crier (s : State) (page bank off : Nat) (v : U32) : (sput s page bank off v).crier = s.crier := rfl
@[simp] theorem sput_takeRes (s : State) (page bank off : Nat) (v : U32) : (sput s page bank off v).takeRes = s.takeRes := rfl
@[simp] theorem sput_smps (s : State) (page bank off : Nat) (v : U32) : (sput s page bank off v).smps = s.smps := rfl
@[simp] theorem sput_jtag (s : State) (page bank off : Nat) (v : U32) : (sput s page bank off v).jtag = s.jtag := rfl

/-! ## setHdr -/

@[simp] theorem setHdr_pending (s : State) (page : Nat) (h : PageHdr) : (setHdr s page h).pending = s.pending := rfl
@[simp] theorem setHdr_freeCtr (s : State) (page : Nat) (h : PageHdr) : (setHdr s page h).freeCtr = s.freeCtr := rfl
@[simp] theorem setHdr_out (s : State) (page : Nat) (h : PageHdr) : (setHdr s page h).out = s.out := rfl
@[simp] theorem setHdr_emitted (s : State) (page : Nat) (h : PageHdr) : (setHdr s page h).emitted = s.emitted := rfl
@[simp] theorem setHdr_dt (s : State) (page : Nat) (h : PageHdr) : (setHdr s page h).dt = s.dt := rfl
@[simp] theorem setHdr_dtRem (s : State) (page : Nat) (h : PageHdr) : (setHdr s page h).dtRem = s.dtRem := rfl
@[simp] theorem setHdr_tick (s : State) (page : Nat) (h : PageHdr) : (setHdr s page h).tick = s.tick := rfl
@[simp] theorem setHdr_nextId (s : State) (page : Nat) (h : PageHdr) : (setHdr s page h).nextId = s.nextId := rfl
@[simp] theorem setHdr_hdrs (s : State) (page : Nat) (h : PageHdr) : (setHdr s page h).hdrs = nset s.hdrs page h := rfl
@[simp] theorem setHdr_regs (s : State) (page : Nat) (h : PageHdr) : (setHdr s page h).regs = s.regs := rfl
@[simp] theorem setHdr_shadow (s : State) (page : Nat) (h : PageHdr) : (setHdr s page h).shadow = s.shadow := rfl
@[simp] theorem setHdr_snaps (s : State) (page : Nat) (h : PageHdr) : (setHdr s page h).snaps = s.snaps := rfl
@[simp] theorem setHdr_latches (s : State) (page : Nat) (h : PageHdr) : (setHdr s page h).latches = s.latches := rfl
@[simp] theorem setHdr_loHeld (s : State) (page : Nat) (h : PageHdr) : (setHdr s page h).loHeld = s.loHeld := rfl
@[simp] theorem setHdr_schedRec (s : State) (page : Nat) (h : PageHdr) : (setHdr s page h).schedRec = s.schedRec := rfl
@[simp] theorem setHdr_msix (s : State) (page : Nat) (h : PageHdr) : (setHdr s page h).msix = s.msix := rfl
@[simp] theorem setHdr_arbs (s : State) (page : Nat) (h : PageHdr) : (setHdr s page h).arbs = s.arbs := rfl
@[simp] theorem setHdr_taps (s : State) (page : Nat) (h : PageHdr) : (setHdr s page h).taps = s.taps := rfl
@[simp] theorem setHdr_unitTaps (s : State) (page : Nat) (h : PageHdr) : (setHdr s page h).unitTaps = s.unitTaps := rfl
@[simp] theorem setHdr_slotCtx (s : State) (page : Nat) (h : PageHdr) : (setHdr s page h).slotCtx = s.slotCtx := rfl
@[simp] theorem setHdr_slotRecs (s : State) (page : Nat) (h : PageHdr) : (setHdr s page h).slotRecs = s.slotRecs := rfl
@[simp] theorem setHdr_hostMem (s : State) (page : Nat) (h : PageHdr) : (setHdr s page h).hostMem = s.hostMem := rfl
@[simp] theorem setHdr_hostErr (s : State) (page : Nat) (h : PageHdr) : (setHdr s page h).hostErr = s.hostErr := rfl
@[simp] theorem setHdr_hostPoison (s : State) (page : Nat) (h : PageHdr) : (setHdr s page h).hostPoison = s.hostPoison := rfl
@[simp] theorem setHdr_hbm (s : State) (page : Nat) (h : PageHdr) : (setHdr s page h).hbm = s.hbm := rfl
@[simp] theorem setHdr_hbmPoison (s : State) (page : Nat) (h : PageHdr) : (setHdr s page h).hbmPoison = s.hbmPoison := rfl
@[simp] theorem setHdr_commons (s : State) (page : Nat) (h : PageHdr) : (setHdr s page h).commons = s.commons := rfl
@[simp] theorem setHdr_comPoison (s : State) (page : Nat) (h : PageHdr) : (setHdr s page h).comPoison = s.comPoison := rfl
@[simp] theorem setHdr_comScrub (s : State) (page : Nat) (h : PageHdr) : (setHdr s page h).comScrub = s.comScrub := rfl
@[simp] theorem setHdr_flash (s : State) (page : Nat) (h : PageHdr) : (setHdr s page h).flash = s.flash := rfl
@[simp] theorem setHdr_flashSize (s : State) (page : Nat) (h : PageHdr) : (setHdr s page h).flashSize = s.flashSize := rfl
@[simp] theorem setHdr_flashOk (s : State) (page : Nat) (h : PageHdr) : (setHdr s page h).flashOk = s.flashOk := rfl
@[simp] theorem setHdr_booth (s : State) (page : Nat) (h : PageHdr) : (setHdr s page h).booth = s.booth := rfl
@[simp] theorem setHdr_cars (s : State) (page : Nat) (h : PageHdr) : (setHdr s page h).cars = s.cars := rfl
@[simp] theorem setHdr_ctxs (s : State) (page : Nat) (h : PageHdr) : (setHdr s page h).ctxs = s.ctxs := rfl
@[simp] theorem setHdr_jobs (s : State) (page : Nat) (h : PageHdr) : (setHdr s page h).jobs = s.jobs := rfl
@[simp] theorem setHdr_bulkSlots (s : State) (page : Nat) (h : PageHdr) : (setHdr s page h).bulkSlots = s.bulkSlots := rfl
@[simp] theorem setHdr_bulkTurn (s : State) (page : Nat) (h : PageHdr) : (setHdr s page h).bulkTurn = s.bulkTurn := rfl
@[simp] theorem setHdr_bulkBurst (s : State) (page : Nat) (h : PageHdr) : (setHdr s page h).bulkBurst = s.bulkBurst := rfl
@[simp] theorem setHdr_sensors (s : State) (page : Nat) (h : PageHdr) : (setHdr s page h).sensors = s.sensors := rfl
@[simp] theorem setHdr_tiles (s : State) (page : Nat) (h : PageHdr) : (setHdr s page h).tiles = s.tiles := rfl
@[simp] theorem setHdr_pcs (s : State) (page : Nat) (h : PageHdr) : (setHdr s page h).pcs = s.pcs := rfl
@[simp] theorem setHdr_ingress (s : State) (page : Nat) (h : PageHdr) : (setHdr s page h).ingress = s.ingress := rfl
@[simp] theorem setHdr_hbmWait (s : State) (page : Nat) (h : PageHdr) : (setHdr s page h).hbmWait = s.hbmWait := rfl
@[simp] theorem setHdr_hbmGrant (s : State) (page : Nat) (h : PageHdr) : (setHdr s page h).hbmGrant = s.hbmGrant := rfl
@[simp] theorem setHdr_hbmOut (s : State) (page : Nat) (h : PageHdr) : (setHdr s page h).hbmOut = s.hbmOut := rfl
@[simp] theorem setHdr_phys (s : State) (page : Nat) (h : PageHdr) : (setHdr s page h).phys = s.phys := rfl
@[simp] theorem setHdr_hbmHold (s : State) (page : Nat) (h : PageHdr) : (setHdr s page h).hbmHold = s.hbmHold := rfl
@[simp] theorem setHdr_pools (s : State) (page : Nat) (h : PageHdr) : (setHdr s page h).pools = s.pools := rfl
@[simp] theorem setHdr_grnRes (s : State) (page : Nat) (h : PageHdr) : (setHdr s page h).grnRes = s.grnRes := rfl
@[simp] theorem setHdr_fifos (s : State) (page : Nat) (h : PageHdr) : (setHdr s page h).fifos = s.fifos := rfl
@[simp] theorem setHdr_dmas (s : State) (page : Nat) (h : PageHdr) : (setHdr s page h).dmas = s.dmas := rfl
@[simp] theorem setHdr_timers (s : State) (page : Nat) (h : PageHdr) : (setHdr s page h).timers = s.timers := rfl
@[simp] theorem setHdr_crcs (s : State) (page : Nat) (h : PageHdr) : (setHdr s page h).crcs = s.crcs := rfl
@[simp] theorem setHdr_queues (s : State) (page : Nat) (h : PageHdr) : (setHdr s page h).queues = s.queues := rfl
@[simp] theorem setHdr_flows (s : State) (page : Nat) (h : PageHdr) : (setHdr s page h).flows = s.flows := rfl
@[simp] theorem setHdr_svcs (s : State) (page : Nat) (h : PageHdr) : (setHdr s page h).svcs = s.svcs := rfl
@[simp] theorem setHdr_eports (s : State) (page : Nat) (h : PageHdr) : (setHdr s page h).eports = s.eports := rfl
@[simp] theorem setHdr_rings (s : State) (page : Nat) (h : PageHdr) : (setHdr s page h).rings = s.rings := rfl
@[simp] theorem setHdr_eths (s : State) (page : Nat) (h : PageHdr) : (setHdr s page h).eths = s.eths := rfl
@[simp] theorem setHdr_bursts (s : State) (page : Nat) (h : PageHdr) : (setHdr s page h).bursts = s.bursts := rfl
@[simp] theorem setHdr_sfs (s : State) (page : Nat) (h : PageHdr) : (setHdr s page h).sfs = s.sfs := rfl
@[simp] theorem setHdr_casc (s : State) (page : Nat) (h : PageHdr) : (setHdr s page h).casc = s.casc := rfl
@[simp] theorem setHdr_isl (s : State) (page : Nat) (h : PageHdr) : (setHdr s page h).isl = s.isl := rfl
@[simp] theorem setHdr_boot (s : State) (page : Nat) (h : PageHdr) : (setHdr s page h).boot = s.boot := rfl
@[simp] theorem setHdr_fuses (s : State) (page : Nat) (h : PageHdr) : (setHdr s page h).fuses = s.fuses := rfl
@[simp] theorem setHdr_straps (s : State) (page : Nat) (h : PageHdr) : (setHdr s page h).straps = s.straps := rfl
@[simp] theorem setHdr_pwr (s : State) (page : Nat) (h : PageHdr) : (setHdr s page h).pwr = s.pwr := rfl
@[simp] theorem setHdr_rst (s : State) (page : Nat) (h : PageHdr) : (setHdr s page h).rst = s.rst := rfl
@[simp] theorem setHdr_clk (s : State) (page : Nat) (h : PageHdr) : (setHdr s page h).clk = s.clk := rfl
@[simp] theorem setHdr_flt (s : State) (page : Nat) (h : PageHdr) : (setHdr s page h).flt = s.flt := rfl
@[simp] theorem setHdr_crier (s : State) (page : Nat) (h : PageHdr) : (setHdr s page h).crier = s.crier := rfl
@[simp] theorem setHdr_takeRes (s : State) (page : Nat) (h : PageHdr) : (setHdr s page h).takeRes = s.takeRes := rfl
@[simp] theorem setHdr_smps (s : State) (page : Nat) (h : PageHdr) : (setHdr s page h).smps = s.smps := rfl
@[simp] theorem setHdr_jtag (s : State) (page : Nat) (h : PageHdr) : (setHdr s page h).jtag = s.jtag := rfl

/-! ## emit -/

@[simp] theorem emit_pending (s : State) (e : Emit) : (emit s e).pending = s.pending := rfl
@[simp] theorem emit_freeCtr (s : State) (e : Emit) : (emit s e).freeCtr = s.freeCtr := rfl
@[simp] theorem emit_out (s : State) (e : Emit) : (emit s e).out = s.out := rfl
@[simp] theorem emit_emitted (s : State) (e : Emit) : (emit s e).emitted = s.emitted ++ [e] := rfl
@[simp] theorem emit_dt (s : State) (e : Emit) : (emit s e).dt = s.dt := rfl
@[simp] theorem emit_dtRem (s : State) (e : Emit) : (emit s e).dtRem = s.dtRem := rfl
@[simp] theorem emit_tick (s : State) (e : Emit) : (emit s e).tick = s.tick := rfl
@[simp] theorem emit_nextId (s : State) (e : Emit) : (emit s e).nextId = s.nextId := rfl
@[simp] theorem emit_hdrs (s : State) (e : Emit) : (emit s e).hdrs = s.hdrs := rfl
@[simp] theorem emit_regs (s : State) (e : Emit) : (emit s e).regs = s.regs := rfl
@[simp] theorem emit_shadow (s : State) (e : Emit) : (emit s e).shadow = s.shadow := rfl
@[simp] theorem emit_snaps (s : State) (e : Emit) : (emit s e).snaps = s.snaps := rfl
@[simp] theorem emit_latches (s : State) (e : Emit) : (emit s e).latches = s.latches := rfl
@[simp] theorem emit_loHeld (s : State) (e : Emit) : (emit s e).loHeld = s.loHeld := rfl
@[simp] theorem emit_schedRec (s : State) (e : Emit) : (emit s e).schedRec = s.schedRec := rfl
@[simp] theorem emit_msix (s : State) (e : Emit) : (emit s e).msix = s.msix := rfl
@[simp] theorem emit_arbs (s : State) (e : Emit) : (emit s e).arbs = s.arbs := rfl
@[simp] theorem emit_taps (s : State) (e : Emit) : (emit s e).taps = s.taps := rfl
@[simp] theorem emit_unitTaps (s : State) (e : Emit) : (emit s e).unitTaps = s.unitTaps := rfl
@[simp] theorem emit_slotCtx (s : State) (e : Emit) : (emit s e).slotCtx = s.slotCtx := rfl
@[simp] theorem emit_slotRecs (s : State) (e : Emit) : (emit s e).slotRecs = s.slotRecs := rfl
@[simp] theorem emit_hostMem (s : State) (e : Emit) : (emit s e).hostMem = s.hostMem := rfl
@[simp] theorem emit_hostErr (s : State) (e : Emit) : (emit s e).hostErr = s.hostErr := rfl
@[simp] theorem emit_hostPoison (s : State) (e : Emit) : (emit s e).hostPoison = s.hostPoison := rfl
@[simp] theorem emit_hbm (s : State) (e : Emit) : (emit s e).hbm = s.hbm := rfl
@[simp] theorem emit_hbmPoison (s : State) (e : Emit) : (emit s e).hbmPoison = s.hbmPoison := rfl
@[simp] theorem emit_commons (s : State) (e : Emit) : (emit s e).commons = s.commons := rfl
@[simp] theorem emit_comPoison (s : State) (e : Emit) : (emit s e).comPoison = s.comPoison := rfl
@[simp] theorem emit_comScrub (s : State) (e : Emit) : (emit s e).comScrub = s.comScrub := rfl
@[simp] theorem emit_flash (s : State) (e : Emit) : (emit s e).flash = s.flash := rfl
@[simp] theorem emit_flashSize (s : State) (e : Emit) : (emit s e).flashSize = s.flashSize := rfl
@[simp] theorem emit_flashOk (s : State) (e : Emit) : (emit s e).flashOk = s.flashOk := rfl
@[simp] theorem emit_booth (s : State) (e : Emit) : (emit s e).booth = s.booth := rfl
@[simp] theorem emit_cars (s : State) (e : Emit) : (emit s e).cars = s.cars := rfl
@[simp] theorem emit_ctxs (s : State) (e : Emit) : (emit s e).ctxs = s.ctxs := rfl
@[simp] theorem emit_jobs (s : State) (e : Emit) : (emit s e).jobs = s.jobs := rfl
@[simp] theorem emit_bulkSlots (s : State) (e : Emit) : (emit s e).bulkSlots = s.bulkSlots := rfl
@[simp] theorem emit_bulkTurn (s : State) (e : Emit) : (emit s e).bulkTurn = s.bulkTurn := rfl
@[simp] theorem emit_bulkBurst (s : State) (e : Emit) : (emit s e).bulkBurst = s.bulkBurst := rfl
@[simp] theorem emit_sensors (s : State) (e : Emit) : (emit s e).sensors = s.sensors := rfl
@[simp] theorem emit_tiles (s : State) (e : Emit) : (emit s e).tiles = s.tiles := rfl
@[simp] theorem emit_pcs (s : State) (e : Emit) : (emit s e).pcs = s.pcs := rfl
@[simp] theorem emit_ingress (s : State) (e : Emit) : (emit s e).ingress = s.ingress := rfl
@[simp] theorem emit_hbmWait (s : State) (e : Emit) : (emit s e).hbmWait = s.hbmWait := rfl
@[simp] theorem emit_hbmGrant (s : State) (e : Emit) : (emit s e).hbmGrant = s.hbmGrant := rfl
@[simp] theorem emit_hbmOut (s : State) (e : Emit) : (emit s e).hbmOut = s.hbmOut := rfl
@[simp] theorem emit_phys (s : State) (e : Emit) : (emit s e).phys = s.phys := rfl
@[simp] theorem emit_hbmHold (s : State) (e : Emit) : (emit s e).hbmHold = s.hbmHold := rfl
@[simp] theorem emit_pools (s : State) (e : Emit) : (emit s e).pools = s.pools := rfl
@[simp] theorem emit_grnRes (s : State) (e : Emit) : (emit s e).grnRes = s.grnRes := rfl
@[simp] theorem emit_fifos (s : State) (e : Emit) : (emit s e).fifos = s.fifos := rfl
@[simp] theorem emit_dmas (s : State) (e : Emit) : (emit s e).dmas = s.dmas := rfl
@[simp] theorem emit_timers (s : State) (e : Emit) : (emit s e).timers = s.timers := rfl
@[simp] theorem emit_crcs (s : State) (e : Emit) : (emit s e).crcs = s.crcs := rfl
@[simp] theorem emit_queues (s : State) (e : Emit) : (emit s e).queues = s.queues := rfl
@[simp] theorem emit_flows (s : State) (e : Emit) : (emit s e).flows = s.flows := rfl
@[simp] theorem emit_svcs (s : State) (e : Emit) : (emit s e).svcs = s.svcs := rfl
@[simp] theorem emit_eports (s : State) (e : Emit) : (emit s e).eports = s.eports := rfl
@[simp] theorem emit_rings (s : State) (e : Emit) : (emit s e).rings = s.rings := rfl
@[simp] theorem emit_eths (s : State) (e : Emit) : (emit s e).eths = s.eths := rfl
@[simp] theorem emit_bursts (s : State) (e : Emit) : (emit s e).bursts = s.bursts := rfl
@[simp] theorem emit_sfs (s : State) (e : Emit) : (emit s e).sfs = s.sfs := rfl
@[simp] theorem emit_casc (s : State) (e : Emit) : (emit s e).casc = s.casc := rfl
@[simp] theorem emit_isl (s : State) (e : Emit) : (emit s e).isl = s.isl := rfl
@[simp] theorem emit_boot (s : State) (e : Emit) : (emit s e).boot = s.boot := rfl
@[simp] theorem emit_fuses (s : State) (e : Emit) : (emit s e).fuses = s.fuses := rfl
@[simp] theorem emit_straps (s : State) (e : Emit) : (emit s e).straps = s.straps := rfl
@[simp] theorem emit_pwr (s : State) (e : Emit) : (emit s e).pwr = s.pwr := rfl
@[simp] theorem emit_rst (s : State) (e : Emit) : (emit s e).rst = s.rst := rfl
@[simp] theorem emit_clk (s : State) (e : Emit) : (emit s e).clk = s.clk := rfl
@[simp] theorem emit_flt (s : State) (e : Emit) : (emit s e).flt = s.flt := rfl
@[simp] theorem emit_crier (s : State) (e : Emit) : (emit s e).crier = s.crier := rfl
@[simp] theorem emit_takeRes (s : State) (e : Emit) : (emit s e).takeRes = s.takeRes := rfl
@[simp] theorem emit_smps (s : State) (e : Emit) : (emit s e).smps = s.smps := rfl
@[simp] theorem emit_jtag (s : State) (e : Emit) : (emit s e).jtag = s.jtag := rfl

/-! ## setCtx -/

@[simp] theorem setCtx_pending (s : State) (c : Nat) (x : Ctx) : (setCtx s c x).pending = s.pending := rfl
@[simp] theorem setCtx_freeCtr (s : State) (c : Nat) (x : Ctx) : (setCtx s c x).freeCtr = s.freeCtr := rfl
@[simp] theorem setCtx_out (s : State) (c : Nat) (x : Ctx) : (setCtx s c x).out = s.out := rfl
@[simp] theorem setCtx_emitted (s : State) (c : Nat) (x : Ctx) : (setCtx s c x).emitted = s.emitted := rfl
@[simp] theorem setCtx_dt (s : State) (c : Nat) (x : Ctx) : (setCtx s c x).dt = s.dt := rfl
@[simp] theorem setCtx_dtRem (s : State) (c : Nat) (x : Ctx) : (setCtx s c x).dtRem = s.dtRem := rfl
@[simp] theorem setCtx_tick (s : State) (c : Nat) (x : Ctx) : (setCtx s c x).tick = s.tick := rfl
@[simp] theorem setCtx_nextId (s : State) (c : Nat) (x : Ctx) : (setCtx s c x).nextId = s.nextId := rfl
@[simp] theorem setCtx_hdrs (s : State) (c : Nat) (x : Ctx) : (setCtx s c x).hdrs = s.hdrs := rfl
@[simp] theorem setCtx_regs (s : State) (c : Nat) (x : Ctx) : (setCtx s c x).regs = s.regs := rfl
@[simp] theorem setCtx_shadow (s : State) (c : Nat) (x : Ctx) : (setCtx s c x).shadow = s.shadow := rfl
@[simp] theorem setCtx_snaps (s : State) (c : Nat) (x : Ctx) : (setCtx s c x).snaps = s.snaps := rfl
@[simp] theorem setCtx_latches (s : State) (c : Nat) (x : Ctx) : (setCtx s c x).latches = s.latches := rfl
@[simp] theorem setCtx_loHeld (s : State) (c : Nat) (x : Ctx) : (setCtx s c x).loHeld = s.loHeld := rfl
@[simp] theorem setCtx_schedRec (s : State) (c : Nat) (x : Ctx) : (setCtx s c x).schedRec = s.schedRec := rfl
@[simp] theorem setCtx_msix (s : State) (c : Nat) (x : Ctx) : (setCtx s c x).msix = s.msix := rfl
@[simp] theorem setCtx_arbs (s : State) (c : Nat) (x : Ctx) : (setCtx s c x).arbs = s.arbs := rfl
@[simp] theorem setCtx_taps (s : State) (c : Nat) (x : Ctx) : (setCtx s c x).taps = s.taps := rfl
@[simp] theorem setCtx_unitTaps (s : State) (c : Nat) (x : Ctx) : (setCtx s c x).unitTaps = s.unitTaps := rfl
@[simp] theorem setCtx_slotCtx (s : State) (c : Nat) (x : Ctx) : (setCtx s c x).slotCtx = s.slotCtx := rfl
@[simp] theorem setCtx_slotRecs (s : State) (c : Nat) (x : Ctx) : (setCtx s c x).slotRecs = s.slotRecs := rfl
@[simp] theorem setCtx_hostMem (s : State) (c : Nat) (x : Ctx) : (setCtx s c x).hostMem = s.hostMem := rfl
@[simp] theorem setCtx_hostErr (s : State) (c : Nat) (x : Ctx) : (setCtx s c x).hostErr = s.hostErr := rfl
@[simp] theorem setCtx_hostPoison (s : State) (c : Nat) (x : Ctx) : (setCtx s c x).hostPoison = s.hostPoison := rfl
@[simp] theorem setCtx_hbm (s : State) (c : Nat) (x : Ctx) : (setCtx s c x).hbm = s.hbm := rfl
@[simp] theorem setCtx_hbmPoison (s : State) (c : Nat) (x : Ctx) : (setCtx s c x).hbmPoison = s.hbmPoison := rfl
@[simp] theorem setCtx_commons (s : State) (c : Nat) (x : Ctx) : (setCtx s c x).commons = s.commons := rfl
@[simp] theorem setCtx_comPoison (s : State) (c : Nat) (x : Ctx) : (setCtx s c x).comPoison = s.comPoison := rfl
@[simp] theorem setCtx_comScrub (s : State) (c : Nat) (x : Ctx) : (setCtx s c x).comScrub = s.comScrub := rfl
@[simp] theorem setCtx_flash (s : State) (c : Nat) (x : Ctx) : (setCtx s c x).flash = s.flash := rfl
@[simp] theorem setCtx_flashSize (s : State) (c : Nat) (x : Ctx) : (setCtx s c x).flashSize = s.flashSize := rfl
@[simp] theorem setCtx_flashOk (s : State) (c : Nat) (x : Ctx) : (setCtx s c x).flashOk = s.flashOk := rfl
@[simp] theorem setCtx_booth (s : State) (c : Nat) (x : Ctx) : (setCtx s c x).booth = s.booth := rfl
@[simp] theorem setCtx_cars (s : State) (c : Nat) (x : Ctx) : (setCtx s c x).cars = s.cars := rfl
@[simp] theorem setCtx_ctxs (s : State) (c : Nat) (x : Ctx) : (setCtx s c x).ctxs = nset s.ctxs c x := rfl
@[simp] theorem setCtx_jobs (s : State) (c : Nat) (x : Ctx) : (setCtx s c x).jobs = s.jobs := rfl
@[simp] theorem setCtx_bulkSlots (s : State) (c : Nat) (x : Ctx) : (setCtx s c x).bulkSlots = s.bulkSlots := rfl
@[simp] theorem setCtx_bulkTurn (s : State) (c : Nat) (x : Ctx) : (setCtx s c x).bulkTurn = s.bulkTurn := rfl
@[simp] theorem setCtx_bulkBurst (s : State) (c : Nat) (x : Ctx) : (setCtx s c x).bulkBurst = s.bulkBurst := rfl
@[simp] theorem setCtx_sensors (s : State) (c : Nat) (x : Ctx) : (setCtx s c x).sensors = s.sensors := rfl
@[simp] theorem setCtx_tiles (s : State) (c : Nat) (x : Ctx) : (setCtx s c x).tiles = s.tiles := rfl
@[simp] theorem setCtx_pcs (s : State) (c : Nat) (x : Ctx) : (setCtx s c x).pcs = s.pcs := rfl
@[simp] theorem setCtx_ingress (s : State) (c : Nat) (x : Ctx) : (setCtx s c x).ingress = s.ingress := rfl
@[simp] theorem setCtx_hbmWait (s : State) (c : Nat) (x : Ctx) : (setCtx s c x).hbmWait = s.hbmWait := rfl
@[simp] theorem setCtx_hbmGrant (s : State) (c : Nat) (x : Ctx) : (setCtx s c x).hbmGrant = s.hbmGrant := rfl
@[simp] theorem setCtx_hbmOut (s : State) (c : Nat) (x : Ctx) : (setCtx s c x).hbmOut = s.hbmOut := rfl
@[simp] theorem setCtx_phys (s : State) (c : Nat) (x : Ctx) : (setCtx s c x).phys = s.phys := rfl
@[simp] theorem setCtx_hbmHold (s : State) (c : Nat) (x : Ctx) : (setCtx s c x).hbmHold = s.hbmHold := rfl
@[simp] theorem setCtx_pools (s : State) (c : Nat) (x : Ctx) : (setCtx s c x).pools = s.pools := rfl
@[simp] theorem setCtx_grnRes (s : State) (c : Nat) (x : Ctx) : (setCtx s c x).grnRes = s.grnRes := rfl
@[simp] theorem setCtx_fifos (s : State) (c : Nat) (x : Ctx) : (setCtx s c x).fifos = s.fifos := rfl
@[simp] theorem setCtx_dmas (s : State) (c : Nat) (x : Ctx) : (setCtx s c x).dmas = s.dmas := rfl
@[simp] theorem setCtx_timers (s : State) (c : Nat) (x : Ctx) : (setCtx s c x).timers = s.timers := rfl
@[simp] theorem setCtx_crcs (s : State) (c : Nat) (x : Ctx) : (setCtx s c x).crcs = s.crcs := rfl
@[simp] theorem setCtx_queues (s : State) (c : Nat) (x : Ctx) : (setCtx s c x).queues = s.queues := rfl
@[simp] theorem setCtx_flows (s : State) (c : Nat) (x : Ctx) : (setCtx s c x).flows = s.flows := rfl
@[simp] theorem setCtx_svcs (s : State) (c : Nat) (x : Ctx) : (setCtx s c x).svcs = s.svcs := rfl
@[simp] theorem setCtx_eports (s : State) (c : Nat) (x : Ctx) : (setCtx s c x).eports = s.eports := rfl
@[simp] theorem setCtx_rings (s : State) (c : Nat) (x : Ctx) : (setCtx s c x).rings = s.rings := rfl
@[simp] theorem setCtx_eths (s : State) (c : Nat) (x : Ctx) : (setCtx s c x).eths = s.eths := rfl
@[simp] theorem setCtx_bursts (s : State) (c : Nat) (x : Ctx) : (setCtx s c x).bursts = s.bursts := rfl
@[simp] theorem setCtx_sfs (s : State) (c : Nat) (x : Ctx) : (setCtx s c x).sfs = s.sfs := rfl
@[simp] theorem setCtx_casc (s : State) (c : Nat) (x : Ctx) : (setCtx s c x).casc = s.casc := rfl
@[simp] theorem setCtx_isl (s : State) (c : Nat) (x : Ctx) : (setCtx s c x).isl = s.isl := rfl
@[simp] theorem setCtx_boot (s : State) (c : Nat) (x : Ctx) : (setCtx s c x).boot = s.boot := rfl
@[simp] theorem setCtx_fuses (s : State) (c : Nat) (x : Ctx) : (setCtx s c x).fuses = s.fuses := rfl
@[simp] theorem setCtx_straps (s : State) (c : Nat) (x : Ctx) : (setCtx s c x).straps = s.straps := rfl
@[simp] theorem setCtx_pwr (s : State) (c : Nat) (x : Ctx) : (setCtx s c x).pwr = s.pwr := rfl
@[simp] theorem setCtx_rst (s : State) (c : Nat) (x : Ctx) : (setCtx s c x).rst = s.rst := rfl
@[simp] theorem setCtx_clk (s : State) (c : Nat) (x : Ctx) : (setCtx s c x).clk = s.clk := rfl
@[simp] theorem setCtx_flt (s : State) (c : Nat) (x : Ctx) : (setCtx s c x).flt = s.flt := rfl
@[simp] theorem setCtx_crier (s : State) (c : Nat) (x : Ctx) : (setCtx s c x).crier = s.crier := rfl
@[simp] theorem setCtx_takeRes (s : State) (c : Nat) (x : Ctx) : (setCtx s c x).takeRes = s.takeRes := rfl
@[simp] theorem setCtx_smps (s : State) (c : Nat) (x : Ctx) : (setCtx s c x).smps = s.smps := rfl
@[simp] theorem setCtx_jtag (s : State) (c : Nat) (x : Ctx) : (setCtx s c x).jtag = s.jtag := rfl

/-! ## setQ -/

@[simp] theorem setQ_pending (s : State) (q : Nat) (x : Queue) : (setQ s q x).pending = s.pending := rfl
@[simp] theorem setQ_freeCtr (s : State) (q : Nat) (x : Queue) : (setQ s q x).freeCtr = s.freeCtr := rfl
@[simp] theorem setQ_out (s : State) (q : Nat) (x : Queue) : (setQ s q x).out = s.out := rfl
@[simp] theorem setQ_emitted (s : State) (q : Nat) (x : Queue) : (setQ s q x).emitted = s.emitted := rfl
@[simp] theorem setQ_dt (s : State) (q : Nat) (x : Queue) : (setQ s q x).dt = s.dt := rfl
@[simp] theorem setQ_dtRem (s : State) (q : Nat) (x : Queue) : (setQ s q x).dtRem = s.dtRem := rfl
@[simp] theorem setQ_tick (s : State) (q : Nat) (x : Queue) : (setQ s q x).tick = s.tick := rfl
@[simp] theorem setQ_nextId (s : State) (q : Nat) (x : Queue) : (setQ s q x).nextId = s.nextId := rfl
@[simp] theorem setQ_hdrs (s : State) (q : Nat) (x : Queue) : (setQ s q x).hdrs = s.hdrs := rfl
@[simp] theorem setQ_regs (s : State) (q : Nat) (x : Queue) : (setQ s q x).regs = s.regs := rfl
@[simp] theorem setQ_shadow (s : State) (q : Nat) (x : Queue) : (setQ s q x).shadow = s.shadow := rfl
@[simp] theorem setQ_snaps (s : State) (q : Nat) (x : Queue) : (setQ s q x).snaps = s.snaps := rfl
@[simp] theorem setQ_latches (s : State) (q : Nat) (x : Queue) : (setQ s q x).latches = s.latches := rfl
@[simp] theorem setQ_loHeld (s : State) (q : Nat) (x : Queue) : (setQ s q x).loHeld = s.loHeld := rfl
@[simp] theorem setQ_schedRec (s : State) (q : Nat) (x : Queue) : (setQ s q x).schedRec = s.schedRec := rfl
@[simp] theorem setQ_msix (s : State) (q : Nat) (x : Queue) : (setQ s q x).msix = s.msix := rfl
@[simp] theorem setQ_arbs (s : State) (q : Nat) (x : Queue) : (setQ s q x).arbs = s.arbs := rfl
@[simp] theorem setQ_taps (s : State) (q : Nat) (x : Queue) : (setQ s q x).taps = s.taps := rfl
@[simp] theorem setQ_unitTaps (s : State) (q : Nat) (x : Queue) : (setQ s q x).unitTaps = s.unitTaps := rfl
@[simp] theorem setQ_slotCtx (s : State) (q : Nat) (x : Queue) : (setQ s q x).slotCtx = s.slotCtx := rfl
@[simp] theorem setQ_slotRecs (s : State) (q : Nat) (x : Queue) : (setQ s q x).slotRecs = s.slotRecs := rfl
@[simp] theorem setQ_hostMem (s : State) (q : Nat) (x : Queue) : (setQ s q x).hostMem = s.hostMem := rfl
@[simp] theorem setQ_hostErr (s : State) (q : Nat) (x : Queue) : (setQ s q x).hostErr = s.hostErr := rfl
@[simp] theorem setQ_hostPoison (s : State) (q : Nat) (x : Queue) : (setQ s q x).hostPoison = s.hostPoison := rfl
@[simp] theorem setQ_hbm (s : State) (q : Nat) (x : Queue) : (setQ s q x).hbm = s.hbm := rfl
@[simp] theorem setQ_hbmPoison (s : State) (q : Nat) (x : Queue) : (setQ s q x).hbmPoison = s.hbmPoison := rfl
@[simp] theorem setQ_commons (s : State) (q : Nat) (x : Queue) : (setQ s q x).commons = s.commons := rfl
@[simp] theorem setQ_comPoison (s : State) (q : Nat) (x : Queue) : (setQ s q x).comPoison = s.comPoison := rfl
@[simp] theorem setQ_comScrub (s : State) (q : Nat) (x : Queue) : (setQ s q x).comScrub = s.comScrub := rfl
@[simp] theorem setQ_flash (s : State) (q : Nat) (x : Queue) : (setQ s q x).flash = s.flash := rfl
@[simp] theorem setQ_flashSize (s : State) (q : Nat) (x : Queue) : (setQ s q x).flashSize = s.flashSize := rfl
@[simp] theorem setQ_flashOk (s : State) (q : Nat) (x : Queue) : (setQ s q x).flashOk = s.flashOk := rfl
@[simp] theorem setQ_booth (s : State) (q : Nat) (x : Queue) : (setQ s q x).booth = s.booth := rfl
@[simp] theorem setQ_cars (s : State) (q : Nat) (x : Queue) : (setQ s q x).cars = s.cars := rfl
@[simp] theorem setQ_ctxs (s : State) (q : Nat) (x : Queue) : (setQ s q x).ctxs = s.ctxs := rfl
@[simp] theorem setQ_jobs (s : State) (q : Nat) (x : Queue) : (setQ s q x).jobs = s.jobs := rfl
@[simp] theorem setQ_bulkSlots (s : State) (q : Nat) (x : Queue) : (setQ s q x).bulkSlots = s.bulkSlots := rfl
@[simp] theorem setQ_bulkTurn (s : State) (q : Nat) (x : Queue) : (setQ s q x).bulkTurn = s.bulkTurn := rfl
@[simp] theorem setQ_bulkBurst (s : State) (q : Nat) (x : Queue) : (setQ s q x).bulkBurst = s.bulkBurst := rfl
@[simp] theorem setQ_sensors (s : State) (q : Nat) (x : Queue) : (setQ s q x).sensors = s.sensors := rfl
@[simp] theorem setQ_tiles (s : State) (q : Nat) (x : Queue) : (setQ s q x).tiles = s.tiles := rfl
@[simp] theorem setQ_pcs (s : State) (q : Nat) (x : Queue) : (setQ s q x).pcs = s.pcs := rfl
@[simp] theorem setQ_ingress (s : State) (q : Nat) (x : Queue) : (setQ s q x).ingress = s.ingress := rfl
@[simp] theorem setQ_hbmWait (s : State) (q : Nat) (x : Queue) : (setQ s q x).hbmWait = s.hbmWait := rfl
@[simp] theorem setQ_hbmGrant (s : State) (q : Nat) (x : Queue) : (setQ s q x).hbmGrant = s.hbmGrant := rfl
@[simp] theorem setQ_hbmOut (s : State) (q : Nat) (x : Queue) : (setQ s q x).hbmOut = s.hbmOut := rfl
@[simp] theorem setQ_phys (s : State) (q : Nat) (x : Queue) : (setQ s q x).phys = s.phys := rfl
@[simp] theorem setQ_hbmHold (s : State) (q : Nat) (x : Queue) : (setQ s q x).hbmHold = s.hbmHold := rfl
@[simp] theorem setQ_pools (s : State) (q : Nat) (x : Queue) : (setQ s q x).pools = s.pools := rfl
@[simp] theorem setQ_grnRes (s : State) (q : Nat) (x : Queue) : (setQ s q x).grnRes = s.grnRes := rfl
@[simp] theorem setQ_fifos (s : State) (q : Nat) (x : Queue) : (setQ s q x).fifos = s.fifos := rfl
@[simp] theorem setQ_dmas (s : State) (q : Nat) (x : Queue) : (setQ s q x).dmas = s.dmas := rfl
@[simp] theorem setQ_timers (s : State) (q : Nat) (x : Queue) : (setQ s q x).timers = s.timers := rfl
@[simp] theorem setQ_crcs (s : State) (q : Nat) (x : Queue) : (setQ s q x).crcs = s.crcs := rfl
@[simp] theorem setQ_queues (s : State) (q : Nat) (x : Queue) : (setQ s q x).queues = nset s.queues q x := rfl
@[simp] theorem setQ_flows (s : State) (q : Nat) (x : Queue) : (setQ s q x).flows = s.flows := rfl
@[simp] theorem setQ_svcs (s : State) (q : Nat) (x : Queue) : (setQ s q x).svcs = s.svcs := rfl
@[simp] theorem setQ_eports (s : State) (q : Nat) (x : Queue) : (setQ s q x).eports = s.eports := rfl
@[simp] theorem setQ_rings (s : State) (q : Nat) (x : Queue) : (setQ s q x).rings = s.rings := rfl
@[simp] theorem setQ_eths (s : State) (q : Nat) (x : Queue) : (setQ s q x).eths = s.eths := rfl
@[simp] theorem setQ_bursts (s : State) (q : Nat) (x : Queue) : (setQ s q x).bursts = s.bursts := rfl
@[simp] theorem setQ_sfs (s : State) (q : Nat) (x : Queue) : (setQ s q x).sfs = s.sfs := rfl
@[simp] theorem setQ_casc (s : State) (q : Nat) (x : Queue) : (setQ s q x).casc = s.casc := rfl
@[simp] theorem setQ_isl (s : State) (q : Nat) (x : Queue) : (setQ s q x).isl = s.isl := rfl
@[simp] theorem setQ_boot (s : State) (q : Nat) (x : Queue) : (setQ s q x).boot = s.boot := rfl
@[simp] theorem setQ_fuses (s : State) (q : Nat) (x : Queue) : (setQ s q x).fuses = s.fuses := rfl
@[simp] theorem setQ_straps (s : State) (q : Nat) (x : Queue) : (setQ s q x).straps = s.straps := rfl
@[simp] theorem setQ_pwr (s : State) (q : Nat) (x : Queue) : (setQ s q x).pwr = s.pwr := rfl
@[simp] theorem setQ_rst (s : State) (q : Nat) (x : Queue) : (setQ s q x).rst = s.rst := rfl
@[simp] theorem setQ_clk (s : State) (q : Nat) (x : Queue) : (setQ s q x).clk = s.clk := rfl
@[simp] theorem setQ_flt (s : State) (q : Nat) (x : Queue) : (setQ s q x).flt = s.flt := rfl
@[simp] theorem setQ_crier (s : State) (q : Nat) (x : Queue) : (setQ s q x).crier = s.crier := rfl
@[simp] theorem setQ_takeRes (s : State) (q : Nat) (x : Queue) : (setQ s q x).takeRes = s.takeRes := rfl
@[simp] theorem setQ_smps (s : State) (q : Nat) (x : Queue) : (setQ s q x).smps = s.smps := rfl
@[simp] theorem setQ_jtag (s : State) (q : Nat) (x : Queue) : (setQ s q x).jtag = s.jtag := rfl

/-! ## setTile -/

@[simp] theorem setTile_pending (s : State) (t : Nat) (x : Tile) : (setTile s t x).pending = s.pending := rfl
@[simp] theorem setTile_freeCtr (s : State) (t : Nat) (x : Tile) : (setTile s t x).freeCtr = s.freeCtr := rfl
@[simp] theorem setTile_out (s : State) (t : Nat) (x : Tile) : (setTile s t x).out = s.out := rfl
@[simp] theorem setTile_emitted (s : State) (t : Nat) (x : Tile) : (setTile s t x).emitted = s.emitted := rfl
@[simp] theorem setTile_dt (s : State) (t : Nat) (x : Tile) : (setTile s t x).dt = s.dt := rfl
@[simp] theorem setTile_dtRem (s : State) (t : Nat) (x : Tile) : (setTile s t x).dtRem = s.dtRem := rfl
@[simp] theorem setTile_tick (s : State) (t : Nat) (x : Tile) : (setTile s t x).tick = s.tick := rfl
@[simp] theorem setTile_nextId (s : State) (t : Nat) (x : Tile) : (setTile s t x).nextId = s.nextId := rfl
@[simp] theorem setTile_hdrs (s : State) (t : Nat) (x : Tile) : (setTile s t x).hdrs = s.hdrs := rfl
@[simp] theorem setTile_regs (s : State) (t : Nat) (x : Tile) : (setTile s t x).regs = s.regs := rfl
@[simp] theorem setTile_shadow (s : State) (t : Nat) (x : Tile) : (setTile s t x).shadow = s.shadow := rfl
@[simp] theorem setTile_snaps (s : State) (t : Nat) (x : Tile) : (setTile s t x).snaps = s.snaps := rfl
@[simp] theorem setTile_latches (s : State) (t : Nat) (x : Tile) : (setTile s t x).latches = s.latches := rfl
@[simp] theorem setTile_loHeld (s : State) (t : Nat) (x : Tile) : (setTile s t x).loHeld = s.loHeld := rfl
@[simp] theorem setTile_schedRec (s : State) (t : Nat) (x : Tile) : (setTile s t x).schedRec = s.schedRec := rfl
@[simp] theorem setTile_msix (s : State) (t : Nat) (x : Tile) : (setTile s t x).msix = s.msix := rfl
@[simp] theorem setTile_arbs (s : State) (t : Nat) (x : Tile) : (setTile s t x).arbs = s.arbs := rfl
@[simp] theorem setTile_taps (s : State) (t : Nat) (x : Tile) : (setTile s t x).taps = s.taps := rfl
@[simp] theorem setTile_unitTaps (s : State) (t : Nat) (x : Tile) : (setTile s t x).unitTaps = s.unitTaps := rfl
@[simp] theorem setTile_slotCtx (s : State) (t : Nat) (x : Tile) : (setTile s t x).slotCtx = s.slotCtx := rfl
@[simp] theorem setTile_slotRecs (s : State) (t : Nat) (x : Tile) : (setTile s t x).slotRecs = s.slotRecs := rfl
@[simp] theorem setTile_hostMem (s : State) (t : Nat) (x : Tile) : (setTile s t x).hostMem = s.hostMem := rfl
@[simp] theorem setTile_hostErr (s : State) (t : Nat) (x : Tile) : (setTile s t x).hostErr = s.hostErr := rfl
@[simp] theorem setTile_hostPoison (s : State) (t : Nat) (x : Tile) : (setTile s t x).hostPoison = s.hostPoison := rfl
@[simp] theorem setTile_hbm (s : State) (t : Nat) (x : Tile) : (setTile s t x).hbm = s.hbm := rfl
@[simp] theorem setTile_hbmPoison (s : State) (t : Nat) (x : Tile) : (setTile s t x).hbmPoison = s.hbmPoison := rfl
@[simp] theorem setTile_commons (s : State) (t : Nat) (x : Tile) : (setTile s t x).commons = s.commons := rfl
@[simp] theorem setTile_comPoison (s : State) (t : Nat) (x : Tile) : (setTile s t x).comPoison = s.comPoison := rfl
@[simp] theorem setTile_comScrub (s : State) (t : Nat) (x : Tile) : (setTile s t x).comScrub = s.comScrub := rfl
@[simp] theorem setTile_flash (s : State) (t : Nat) (x : Tile) : (setTile s t x).flash = s.flash := rfl
@[simp] theorem setTile_flashSize (s : State) (t : Nat) (x : Tile) : (setTile s t x).flashSize = s.flashSize := rfl
@[simp] theorem setTile_flashOk (s : State) (t : Nat) (x : Tile) : (setTile s t x).flashOk = s.flashOk := rfl
@[simp] theorem setTile_booth (s : State) (t : Nat) (x : Tile) : (setTile s t x).booth = s.booth := rfl
@[simp] theorem setTile_cars (s : State) (t : Nat) (x : Tile) : (setTile s t x).cars = s.cars := rfl
@[simp] theorem setTile_ctxs (s : State) (t : Nat) (x : Tile) : (setTile s t x).ctxs = s.ctxs := rfl
@[simp] theorem setTile_jobs (s : State) (t : Nat) (x : Tile) : (setTile s t x).jobs = s.jobs := rfl
@[simp] theorem setTile_bulkSlots (s : State) (t : Nat) (x : Tile) : (setTile s t x).bulkSlots = s.bulkSlots := rfl
@[simp] theorem setTile_bulkTurn (s : State) (t : Nat) (x : Tile) : (setTile s t x).bulkTurn = s.bulkTurn := rfl
@[simp] theorem setTile_bulkBurst (s : State) (t : Nat) (x : Tile) : (setTile s t x).bulkBurst = s.bulkBurst := rfl
@[simp] theorem setTile_sensors (s : State) (t : Nat) (x : Tile) : (setTile s t x).sensors = s.sensors := rfl
@[simp] theorem setTile_tiles (s : State) (t : Nat) (x : Tile) : (setTile s t x).tiles = nset s.tiles t x := rfl
@[simp] theorem setTile_pcs (s : State) (t : Nat) (x : Tile) : (setTile s t x).pcs = s.pcs := rfl
@[simp] theorem setTile_ingress (s : State) (t : Nat) (x : Tile) : (setTile s t x).ingress = s.ingress := rfl
@[simp] theorem setTile_hbmWait (s : State) (t : Nat) (x : Tile) : (setTile s t x).hbmWait = s.hbmWait := rfl
@[simp] theorem setTile_hbmGrant (s : State) (t : Nat) (x : Tile) : (setTile s t x).hbmGrant = s.hbmGrant := rfl
@[simp] theorem setTile_hbmOut (s : State) (t : Nat) (x : Tile) : (setTile s t x).hbmOut = s.hbmOut := rfl
@[simp] theorem setTile_phys (s : State) (t : Nat) (x : Tile) : (setTile s t x).phys = s.phys := rfl
@[simp] theorem setTile_hbmHold (s : State) (t : Nat) (x : Tile) : (setTile s t x).hbmHold = s.hbmHold := rfl
@[simp] theorem setTile_pools (s : State) (t : Nat) (x : Tile) : (setTile s t x).pools = s.pools := rfl
@[simp] theorem setTile_grnRes (s : State) (t : Nat) (x : Tile) : (setTile s t x).grnRes = s.grnRes := rfl
@[simp] theorem setTile_fifos (s : State) (t : Nat) (x : Tile) : (setTile s t x).fifos = s.fifos := rfl
@[simp] theorem setTile_dmas (s : State) (t : Nat) (x : Tile) : (setTile s t x).dmas = s.dmas := rfl
@[simp] theorem setTile_timers (s : State) (t : Nat) (x : Tile) : (setTile s t x).timers = s.timers := rfl
@[simp] theorem setTile_crcs (s : State) (t : Nat) (x : Tile) : (setTile s t x).crcs = s.crcs := rfl
@[simp] theorem setTile_queues (s : State) (t : Nat) (x : Tile) : (setTile s t x).queues = s.queues := rfl
@[simp] theorem setTile_flows (s : State) (t : Nat) (x : Tile) : (setTile s t x).flows = s.flows := rfl
@[simp] theorem setTile_svcs (s : State) (t : Nat) (x : Tile) : (setTile s t x).svcs = s.svcs := rfl
@[simp] theorem setTile_eports (s : State) (t : Nat) (x : Tile) : (setTile s t x).eports = s.eports := rfl
@[simp] theorem setTile_rings (s : State) (t : Nat) (x : Tile) : (setTile s t x).rings = s.rings := rfl
@[simp] theorem setTile_eths (s : State) (t : Nat) (x : Tile) : (setTile s t x).eths = s.eths := rfl
@[simp] theorem setTile_bursts (s : State) (t : Nat) (x : Tile) : (setTile s t x).bursts = s.bursts := rfl
@[simp] theorem setTile_sfs (s : State) (t : Nat) (x : Tile) : (setTile s t x).sfs = s.sfs := rfl
@[simp] theorem setTile_casc (s : State) (t : Nat) (x : Tile) : (setTile s t x).casc = s.casc := rfl
@[simp] theorem setTile_isl (s : State) (t : Nat) (x : Tile) : (setTile s t x).isl = s.isl := rfl
@[simp] theorem setTile_boot (s : State) (t : Nat) (x : Tile) : (setTile s t x).boot = s.boot := rfl
@[simp] theorem setTile_fuses (s : State) (t : Nat) (x : Tile) : (setTile s t x).fuses = s.fuses := rfl
@[simp] theorem setTile_straps (s : State) (t : Nat) (x : Tile) : (setTile s t x).straps = s.straps := rfl
@[simp] theorem setTile_pwr (s : State) (t : Nat) (x : Tile) : (setTile s t x).pwr = s.pwr := rfl
@[simp] theorem setTile_rst (s : State) (t : Nat) (x : Tile) : (setTile s t x).rst = s.rst := rfl
@[simp] theorem setTile_clk (s : State) (t : Nat) (x : Tile) : (setTile s t x).clk = s.clk := rfl
@[simp] theorem setTile_flt (s : State) (t : Nat) (x : Tile) : (setTile s t x).flt = s.flt := rfl
@[simp] theorem setTile_crier (s : State) (t : Nat) (x : Tile) : (setTile s t x).crier = s.crier := rfl
@[simp] theorem setTile_takeRes (s : State) (t : Nat) (x : Tile) : (setTile s t x).takeRes = s.takeRes := rfl
@[simp] theorem setTile_smps (s : State) (t : Nat) (x : Tile) : (setTile s t x).smps = s.smps := rfl
@[simp] theorem setTile_jtag (s : State) (t : Nat) (x : Tile) : (setTile s t x).jtag = s.jtag := rfl

/-! ## setPool -/

@[simp] theorem setPool_pending (s : State) (p : Nat) (x : Pool) : (setPool s p x).pending = s.pending := rfl
@[simp] theorem setPool_freeCtr (s : State) (p : Nat) (x : Pool) : (setPool s p x).freeCtr = s.freeCtr := rfl
@[simp] theorem setPool_out (s : State) (p : Nat) (x : Pool) : (setPool s p x).out = s.out := rfl
@[simp] theorem setPool_emitted (s : State) (p : Nat) (x : Pool) : (setPool s p x).emitted = s.emitted := rfl
@[simp] theorem setPool_dt (s : State) (p : Nat) (x : Pool) : (setPool s p x).dt = s.dt := rfl
@[simp] theorem setPool_dtRem (s : State) (p : Nat) (x : Pool) : (setPool s p x).dtRem = s.dtRem := rfl
@[simp] theorem setPool_tick (s : State) (p : Nat) (x : Pool) : (setPool s p x).tick = s.tick := rfl
@[simp] theorem setPool_nextId (s : State) (p : Nat) (x : Pool) : (setPool s p x).nextId = s.nextId := rfl
@[simp] theorem setPool_hdrs (s : State) (p : Nat) (x : Pool) : (setPool s p x).hdrs = s.hdrs := rfl
@[simp] theorem setPool_regs (s : State) (p : Nat) (x : Pool) : (setPool s p x).regs = s.regs := rfl
@[simp] theorem setPool_shadow (s : State) (p : Nat) (x : Pool) : (setPool s p x).shadow = s.shadow := rfl
@[simp] theorem setPool_snaps (s : State) (p : Nat) (x : Pool) : (setPool s p x).snaps = s.snaps := rfl
@[simp] theorem setPool_latches (s : State) (p : Nat) (x : Pool) : (setPool s p x).latches = s.latches := rfl
@[simp] theorem setPool_loHeld (s : State) (p : Nat) (x : Pool) : (setPool s p x).loHeld = s.loHeld := rfl
@[simp] theorem setPool_schedRec (s : State) (p : Nat) (x : Pool) : (setPool s p x).schedRec = s.schedRec := rfl
@[simp] theorem setPool_msix (s : State) (p : Nat) (x : Pool) : (setPool s p x).msix = s.msix := rfl
@[simp] theorem setPool_arbs (s : State) (p : Nat) (x : Pool) : (setPool s p x).arbs = s.arbs := rfl
@[simp] theorem setPool_taps (s : State) (p : Nat) (x : Pool) : (setPool s p x).taps = s.taps := rfl
@[simp] theorem setPool_unitTaps (s : State) (p : Nat) (x : Pool) : (setPool s p x).unitTaps = s.unitTaps := rfl
@[simp] theorem setPool_slotCtx (s : State) (p : Nat) (x : Pool) : (setPool s p x).slotCtx = s.slotCtx := rfl
@[simp] theorem setPool_slotRecs (s : State) (p : Nat) (x : Pool) : (setPool s p x).slotRecs = s.slotRecs := rfl
@[simp] theorem setPool_hostMem (s : State) (p : Nat) (x : Pool) : (setPool s p x).hostMem = s.hostMem := rfl
@[simp] theorem setPool_hostErr (s : State) (p : Nat) (x : Pool) : (setPool s p x).hostErr = s.hostErr := rfl
@[simp] theorem setPool_hostPoison (s : State) (p : Nat) (x : Pool) : (setPool s p x).hostPoison = s.hostPoison := rfl
@[simp] theorem setPool_hbm (s : State) (p : Nat) (x : Pool) : (setPool s p x).hbm = s.hbm := rfl
@[simp] theorem setPool_hbmPoison (s : State) (p : Nat) (x : Pool) : (setPool s p x).hbmPoison = s.hbmPoison := rfl
@[simp] theorem setPool_commons (s : State) (p : Nat) (x : Pool) : (setPool s p x).commons = s.commons := rfl
@[simp] theorem setPool_comPoison (s : State) (p : Nat) (x : Pool) : (setPool s p x).comPoison = s.comPoison := rfl
@[simp] theorem setPool_comScrub (s : State) (p : Nat) (x : Pool) : (setPool s p x).comScrub = s.comScrub := rfl
@[simp] theorem setPool_flash (s : State) (p : Nat) (x : Pool) : (setPool s p x).flash = s.flash := rfl
@[simp] theorem setPool_flashSize (s : State) (p : Nat) (x : Pool) : (setPool s p x).flashSize = s.flashSize := rfl
@[simp] theorem setPool_flashOk (s : State) (p : Nat) (x : Pool) : (setPool s p x).flashOk = s.flashOk := rfl
@[simp] theorem setPool_booth (s : State) (p : Nat) (x : Pool) : (setPool s p x).booth = s.booth := rfl
@[simp] theorem setPool_cars (s : State) (p : Nat) (x : Pool) : (setPool s p x).cars = s.cars := rfl
@[simp] theorem setPool_ctxs (s : State) (p : Nat) (x : Pool) : (setPool s p x).ctxs = s.ctxs := rfl
@[simp] theorem setPool_jobs (s : State) (p : Nat) (x : Pool) : (setPool s p x).jobs = s.jobs := rfl
@[simp] theorem setPool_bulkSlots (s : State) (p : Nat) (x : Pool) : (setPool s p x).bulkSlots = s.bulkSlots := rfl
@[simp] theorem setPool_bulkTurn (s : State) (p : Nat) (x : Pool) : (setPool s p x).bulkTurn = s.bulkTurn := rfl
@[simp] theorem setPool_bulkBurst (s : State) (p : Nat) (x : Pool) : (setPool s p x).bulkBurst = s.bulkBurst := rfl
@[simp] theorem setPool_sensors (s : State) (p : Nat) (x : Pool) : (setPool s p x).sensors = s.sensors := rfl
@[simp] theorem setPool_tiles (s : State) (p : Nat) (x : Pool) : (setPool s p x).tiles = s.tiles := rfl
@[simp] theorem setPool_pcs (s : State) (p : Nat) (x : Pool) : (setPool s p x).pcs = s.pcs := rfl
@[simp] theorem setPool_ingress (s : State) (p : Nat) (x : Pool) : (setPool s p x).ingress = s.ingress := rfl
@[simp] theorem setPool_hbmWait (s : State) (p : Nat) (x : Pool) : (setPool s p x).hbmWait = s.hbmWait := rfl
@[simp] theorem setPool_hbmGrant (s : State) (p : Nat) (x : Pool) : (setPool s p x).hbmGrant = s.hbmGrant := rfl
@[simp] theorem setPool_hbmOut (s : State) (p : Nat) (x : Pool) : (setPool s p x).hbmOut = s.hbmOut := rfl
@[simp] theorem setPool_phys (s : State) (p : Nat) (x : Pool) : (setPool s p x).phys = s.phys := rfl
@[simp] theorem setPool_hbmHold (s : State) (p : Nat) (x : Pool) : (setPool s p x).hbmHold = s.hbmHold := rfl
@[simp] theorem setPool_pools (s : State) (p : Nat) (x : Pool) : (setPool s p x).pools = nset s.pools p x := rfl
@[simp] theorem setPool_grnRes (s : State) (p : Nat) (x : Pool) : (setPool s p x).grnRes = s.grnRes := rfl
@[simp] theorem setPool_fifos (s : State) (p : Nat) (x : Pool) : (setPool s p x).fifos = s.fifos := rfl
@[simp] theorem setPool_dmas (s : State) (p : Nat) (x : Pool) : (setPool s p x).dmas = s.dmas := rfl
@[simp] theorem setPool_timers (s : State) (p : Nat) (x : Pool) : (setPool s p x).timers = s.timers := rfl
@[simp] theorem setPool_crcs (s : State) (p : Nat) (x : Pool) : (setPool s p x).crcs = s.crcs := rfl
@[simp] theorem setPool_queues (s : State) (p : Nat) (x : Pool) : (setPool s p x).queues = s.queues := rfl
@[simp] theorem setPool_flows (s : State) (p : Nat) (x : Pool) : (setPool s p x).flows = s.flows := rfl
@[simp] theorem setPool_svcs (s : State) (p : Nat) (x : Pool) : (setPool s p x).svcs = s.svcs := rfl
@[simp] theorem setPool_eports (s : State) (p : Nat) (x : Pool) : (setPool s p x).eports = s.eports := rfl
@[simp] theorem setPool_rings (s : State) (p : Nat) (x : Pool) : (setPool s p x).rings = s.rings := rfl
@[simp] theorem setPool_eths (s : State) (p : Nat) (x : Pool) : (setPool s p x).eths = s.eths := rfl
@[simp] theorem setPool_bursts (s : State) (p : Nat) (x : Pool) : (setPool s p x).bursts = s.bursts := rfl
@[simp] theorem setPool_sfs (s : State) (p : Nat) (x : Pool) : (setPool s p x).sfs = s.sfs := rfl
@[simp] theorem setPool_casc (s : State) (p : Nat) (x : Pool) : (setPool s p x).casc = s.casc := rfl
@[simp] theorem setPool_isl (s : State) (p : Nat) (x : Pool) : (setPool s p x).isl = s.isl := rfl
@[simp] theorem setPool_boot (s : State) (p : Nat) (x : Pool) : (setPool s p x).boot = s.boot := rfl
@[simp] theorem setPool_fuses (s : State) (p : Nat) (x : Pool) : (setPool s p x).fuses = s.fuses := rfl
@[simp] theorem setPool_straps (s : State) (p : Nat) (x : Pool) : (setPool s p x).straps = s.straps := rfl
@[simp] theorem setPool_pwr (s : State) (p : Nat) (x : Pool) : (setPool s p x).pwr = s.pwr := rfl
@[simp] theorem setPool_rst (s : State) (p : Nat) (x : Pool) : (setPool s p x).rst = s.rst := rfl
@[simp] theorem setPool_clk (s : State) (p : Nat) (x : Pool) : (setPool s p x).clk = s.clk := rfl
@[simp] theorem setPool_flt (s : State) (p : Nat) (x : Pool) : (setPool s p x).flt = s.flt := rfl
@[simp] theorem setPool_crier (s : State) (p : Nat) (x : Pool) : (setPool s p x).crier = s.crier := rfl
@[simp] theorem setPool_takeRes (s : State) (p : Nat) (x : Pool) : (setPool s p x).takeRes = s.takeRes := rfl
@[simp] theorem setPool_smps (s : State) (p : Nat) (x : Pool) : (setPool s p x).smps = s.smps := rfl
@[simp] theorem setPool_jtag (s : State) (p : Nat) (x : Pool) : (setPool s p x).jtag = s.jtag := rfl

/-! ## setFifo -/

@[simp] theorem setFifo_pending (s : State) (f : Nat) (x : Fifo) : (setFifo s f x).pending = s.pending := rfl
@[simp] theorem setFifo_freeCtr (s : State) (f : Nat) (x : Fifo) : (setFifo s f x).freeCtr = s.freeCtr := rfl
@[simp] theorem setFifo_out (s : State) (f : Nat) (x : Fifo) : (setFifo s f x).out = s.out := rfl
@[simp] theorem setFifo_emitted (s : State) (f : Nat) (x : Fifo) : (setFifo s f x).emitted = s.emitted := rfl
@[simp] theorem setFifo_dt (s : State) (f : Nat) (x : Fifo) : (setFifo s f x).dt = s.dt := rfl
@[simp] theorem setFifo_dtRem (s : State) (f : Nat) (x : Fifo) : (setFifo s f x).dtRem = s.dtRem := rfl
@[simp] theorem setFifo_tick (s : State) (f : Nat) (x : Fifo) : (setFifo s f x).tick = s.tick := rfl
@[simp] theorem setFifo_nextId (s : State) (f : Nat) (x : Fifo) : (setFifo s f x).nextId = s.nextId := rfl
@[simp] theorem setFifo_hdrs (s : State) (f : Nat) (x : Fifo) : (setFifo s f x).hdrs = s.hdrs := rfl
@[simp] theorem setFifo_regs (s : State) (f : Nat) (x : Fifo) : (setFifo s f x).regs = s.regs := rfl
@[simp] theorem setFifo_shadow (s : State) (f : Nat) (x : Fifo) : (setFifo s f x).shadow = s.shadow := rfl
@[simp] theorem setFifo_snaps (s : State) (f : Nat) (x : Fifo) : (setFifo s f x).snaps = s.snaps := rfl
@[simp] theorem setFifo_latches (s : State) (f : Nat) (x : Fifo) : (setFifo s f x).latches = s.latches := rfl
@[simp] theorem setFifo_loHeld (s : State) (f : Nat) (x : Fifo) : (setFifo s f x).loHeld = s.loHeld := rfl
@[simp] theorem setFifo_schedRec (s : State) (f : Nat) (x : Fifo) : (setFifo s f x).schedRec = s.schedRec := rfl
@[simp] theorem setFifo_msix (s : State) (f : Nat) (x : Fifo) : (setFifo s f x).msix = s.msix := rfl
@[simp] theorem setFifo_arbs (s : State) (f : Nat) (x : Fifo) : (setFifo s f x).arbs = s.arbs := rfl
@[simp] theorem setFifo_taps (s : State) (f : Nat) (x : Fifo) : (setFifo s f x).taps = s.taps := rfl
@[simp] theorem setFifo_unitTaps (s : State) (f : Nat) (x : Fifo) : (setFifo s f x).unitTaps = s.unitTaps := rfl
@[simp] theorem setFifo_slotCtx (s : State) (f : Nat) (x : Fifo) : (setFifo s f x).slotCtx = s.slotCtx := rfl
@[simp] theorem setFifo_slotRecs (s : State) (f : Nat) (x : Fifo) : (setFifo s f x).slotRecs = s.slotRecs := rfl
@[simp] theorem setFifo_hostMem (s : State) (f : Nat) (x : Fifo) : (setFifo s f x).hostMem = s.hostMem := rfl
@[simp] theorem setFifo_hostErr (s : State) (f : Nat) (x : Fifo) : (setFifo s f x).hostErr = s.hostErr := rfl
@[simp] theorem setFifo_hostPoison (s : State) (f : Nat) (x : Fifo) : (setFifo s f x).hostPoison = s.hostPoison := rfl
@[simp] theorem setFifo_hbm (s : State) (f : Nat) (x : Fifo) : (setFifo s f x).hbm = s.hbm := rfl
@[simp] theorem setFifo_hbmPoison (s : State) (f : Nat) (x : Fifo) : (setFifo s f x).hbmPoison = s.hbmPoison := rfl
@[simp] theorem setFifo_commons (s : State) (f : Nat) (x : Fifo) : (setFifo s f x).commons = s.commons := rfl
@[simp] theorem setFifo_comPoison (s : State) (f : Nat) (x : Fifo) : (setFifo s f x).comPoison = s.comPoison := rfl
@[simp] theorem setFifo_comScrub (s : State) (f : Nat) (x : Fifo) : (setFifo s f x).comScrub = s.comScrub := rfl
@[simp] theorem setFifo_flash (s : State) (f : Nat) (x : Fifo) : (setFifo s f x).flash = s.flash := rfl
@[simp] theorem setFifo_flashSize (s : State) (f : Nat) (x : Fifo) : (setFifo s f x).flashSize = s.flashSize := rfl
@[simp] theorem setFifo_flashOk (s : State) (f : Nat) (x : Fifo) : (setFifo s f x).flashOk = s.flashOk := rfl
@[simp] theorem setFifo_booth (s : State) (f : Nat) (x : Fifo) : (setFifo s f x).booth = s.booth := rfl
@[simp] theorem setFifo_cars (s : State) (f : Nat) (x : Fifo) : (setFifo s f x).cars = s.cars := rfl
@[simp] theorem setFifo_ctxs (s : State) (f : Nat) (x : Fifo) : (setFifo s f x).ctxs = s.ctxs := rfl
@[simp] theorem setFifo_jobs (s : State) (f : Nat) (x : Fifo) : (setFifo s f x).jobs = s.jobs := rfl
@[simp] theorem setFifo_bulkSlots (s : State) (f : Nat) (x : Fifo) : (setFifo s f x).bulkSlots = s.bulkSlots := rfl
@[simp] theorem setFifo_bulkTurn (s : State) (f : Nat) (x : Fifo) : (setFifo s f x).bulkTurn = s.bulkTurn := rfl
@[simp] theorem setFifo_bulkBurst (s : State) (f : Nat) (x : Fifo) : (setFifo s f x).bulkBurst = s.bulkBurst := rfl
@[simp] theorem setFifo_sensors (s : State) (f : Nat) (x : Fifo) : (setFifo s f x).sensors = s.sensors := rfl
@[simp] theorem setFifo_tiles (s : State) (f : Nat) (x : Fifo) : (setFifo s f x).tiles = s.tiles := rfl
@[simp] theorem setFifo_pcs (s : State) (f : Nat) (x : Fifo) : (setFifo s f x).pcs = s.pcs := rfl
@[simp] theorem setFifo_ingress (s : State) (f : Nat) (x : Fifo) : (setFifo s f x).ingress = s.ingress := rfl
@[simp] theorem setFifo_hbmWait (s : State) (f : Nat) (x : Fifo) : (setFifo s f x).hbmWait = s.hbmWait := rfl
@[simp] theorem setFifo_hbmGrant (s : State) (f : Nat) (x : Fifo) : (setFifo s f x).hbmGrant = s.hbmGrant := rfl
@[simp] theorem setFifo_hbmOut (s : State) (f : Nat) (x : Fifo) : (setFifo s f x).hbmOut = s.hbmOut := rfl
@[simp] theorem setFifo_phys (s : State) (f : Nat) (x : Fifo) : (setFifo s f x).phys = s.phys := rfl
@[simp] theorem setFifo_hbmHold (s : State) (f : Nat) (x : Fifo) : (setFifo s f x).hbmHold = s.hbmHold := rfl
@[simp] theorem setFifo_pools (s : State) (f : Nat) (x : Fifo) : (setFifo s f x).pools = s.pools := rfl
@[simp] theorem setFifo_grnRes (s : State) (f : Nat) (x : Fifo) : (setFifo s f x).grnRes = s.grnRes := rfl
@[simp] theorem setFifo_fifos (s : State) (f : Nat) (x : Fifo) : (setFifo s f x).fifos = nset s.fifos f x := rfl
@[simp] theorem setFifo_dmas (s : State) (f : Nat) (x : Fifo) : (setFifo s f x).dmas = s.dmas := rfl
@[simp] theorem setFifo_timers (s : State) (f : Nat) (x : Fifo) : (setFifo s f x).timers = s.timers := rfl
@[simp] theorem setFifo_crcs (s : State) (f : Nat) (x : Fifo) : (setFifo s f x).crcs = s.crcs := rfl
@[simp] theorem setFifo_queues (s : State) (f : Nat) (x : Fifo) : (setFifo s f x).queues = s.queues := rfl
@[simp] theorem setFifo_flows (s : State) (f : Nat) (x : Fifo) : (setFifo s f x).flows = s.flows := rfl
@[simp] theorem setFifo_svcs (s : State) (f : Nat) (x : Fifo) : (setFifo s f x).svcs = s.svcs := rfl
@[simp] theorem setFifo_eports (s : State) (f : Nat) (x : Fifo) : (setFifo s f x).eports = s.eports := rfl
@[simp] theorem setFifo_rings (s : State) (f : Nat) (x : Fifo) : (setFifo s f x).rings = s.rings := rfl
@[simp] theorem setFifo_eths (s : State) (f : Nat) (x : Fifo) : (setFifo s f x).eths = s.eths := rfl
@[simp] theorem setFifo_bursts (s : State) (f : Nat) (x : Fifo) : (setFifo s f x).bursts = s.bursts := rfl
@[simp] theorem setFifo_sfs (s : State) (f : Nat) (x : Fifo) : (setFifo s f x).sfs = s.sfs := rfl
@[simp] theorem setFifo_casc (s : State) (f : Nat) (x : Fifo) : (setFifo s f x).casc = s.casc := rfl
@[simp] theorem setFifo_isl (s : State) (f : Nat) (x : Fifo) : (setFifo s f x).isl = s.isl := rfl
@[simp] theorem setFifo_boot (s : State) (f : Nat) (x : Fifo) : (setFifo s f x).boot = s.boot := rfl
@[simp] theorem setFifo_fuses (s : State) (f : Nat) (x : Fifo) : (setFifo s f x).fuses = s.fuses := rfl
@[simp] theorem setFifo_straps (s : State) (f : Nat) (x : Fifo) : (setFifo s f x).straps = s.straps := rfl
@[simp] theorem setFifo_pwr (s : State) (f : Nat) (x : Fifo) : (setFifo s f x).pwr = s.pwr := rfl
@[simp] theorem setFifo_rst (s : State) (f : Nat) (x : Fifo) : (setFifo s f x).rst = s.rst := rfl
@[simp] theorem setFifo_clk (s : State) (f : Nat) (x : Fifo) : (setFifo s f x).clk = s.clk := rfl
@[simp] theorem setFifo_flt (s : State) (f : Nat) (x : Fifo) : (setFifo s f x).flt = s.flt := rfl
@[simp] theorem setFifo_crier (s : State) (f : Nat) (x : Fifo) : (setFifo s f x).crier = s.crier := rfl
@[simp] theorem setFifo_takeRes (s : State) (f : Nat) (x : Fifo) : (setFifo s f x).takeRes = s.takeRes := rfl
@[simp] theorem setFifo_smps (s : State) (f : Nat) (x : Fifo) : (setFifo s f x).smps = s.smps := rfl
@[simp] theorem setFifo_jtag (s : State) (f : Nat) (x : Fifo) : (setFifo s f x).jtag = s.jtag := rfl

/-! ## setDma -/

@[simp] theorem setDma_pending (s : State) (c : Nat) (x : Dma) : (setDma s c x).pending = s.pending := rfl
@[simp] theorem setDma_freeCtr (s : State) (c : Nat) (x : Dma) : (setDma s c x).freeCtr = s.freeCtr := rfl
@[simp] theorem setDma_out (s : State) (c : Nat) (x : Dma) : (setDma s c x).out = s.out := rfl
@[simp] theorem setDma_emitted (s : State) (c : Nat) (x : Dma) : (setDma s c x).emitted = s.emitted := rfl
@[simp] theorem setDma_dt (s : State) (c : Nat) (x : Dma) : (setDma s c x).dt = s.dt := rfl
@[simp] theorem setDma_dtRem (s : State) (c : Nat) (x : Dma) : (setDma s c x).dtRem = s.dtRem := rfl
@[simp] theorem setDma_tick (s : State) (c : Nat) (x : Dma) : (setDma s c x).tick = s.tick := rfl
@[simp] theorem setDma_nextId (s : State) (c : Nat) (x : Dma) : (setDma s c x).nextId = s.nextId := rfl
@[simp] theorem setDma_hdrs (s : State) (c : Nat) (x : Dma) : (setDma s c x).hdrs = s.hdrs := rfl
@[simp] theorem setDma_regs (s : State) (c : Nat) (x : Dma) : (setDma s c x).regs = s.regs := rfl
@[simp] theorem setDma_shadow (s : State) (c : Nat) (x : Dma) : (setDma s c x).shadow = s.shadow := rfl
@[simp] theorem setDma_snaps (s : State) (c : Nat) (x : Dma) : (setDma s c x).snaps = s.snaps := rfl
@[simp] theorem setDma_latches (s : State) (c : Nat) (x : Dma) : (setDma s c x).latches = s.latches := rfl
@[simp] theorem setDma_loHeld (s : State) (c : Nat) (x : Dma) : (setDma s c x).loHeld = s.loHeld := rfl
@[simp] theorem setDma_schedRec (s : State) (c : Nat) (x : Dma) : (setDma s c x).schedRec = s.schedRec := rfl
@[simp] theorem setDma_msix (s : State) (c : Nat) (x : Dma) : (setDma s c x).msix = s.msix := rfl
@[simp] theorem setDma_arbs (s : State) (c : Nat) (x : Dma) : (setDma s c x).arbs = s.arbs := rfl
@[simp] theorem setDma_taps (s : State) (c : Nat) (x : Dma) : (setDma s c x).taps = s.taps := rfl
@[simp] theorem setDma_unitTaps (s : State) (c : Nat) (x : Dma) : (setDma s c x).unitTaps = s.unitTaps := rfl
@[simp] theorem setDma_slotCtx (s : State) (c : Nat) (x : Dma) : (setDma s c x).slotCtx = s.slotCtx := rfl
@[simp] theorem setDma_slotRecs (s : State) (c : Nat) (x : Dma) : (setDma s c x).slotRecs = s.slotRecs := rfl
@[simp] theorem setDma_hostMem (s : State) (c : Nat) (x : Dma) : (setDma s c x).hostMem = s.hostMem := rfl
@[simp] theorem setDma_hostErr (s : State) (c : Nat) (x : Dma) : (setDma s c x).hostErr = s.hostErr := rfl
@[simp] theorem setDma_hostPoison (s : State) (c : Nat) (x : Dma) : (setDma s c x).hostPoison = s.hostPoison := rfl
@[simp] theorem setDma_hbm (s : State) (c : Nat) (x : Dma) : (setDma s c x).hbm = s.hbm := rfl
@[simp] theorem setDma_hbmPoison (s : State) (c : Nat) (x : Dma) : (setDma s c x).hbmPoison = s.hbmPoison := rfl
@[simp] theorem setDma_commons (s : State) (c : Nat) (x : Dma) : (setDma s c x).commons = s.commons := rfl
@[simp] theorem setDma_comPoison (s : State) (c : Nat) (x : Dma) : (setDma s c x).comPoison = s.comPoison := rfl
@[simp] theorem setDma_comScrub (s : State) (c : Nat) (x : Dma) : (setDma s c x).comScrub = s.comScrub := rfl
@[simp] theorem setDma_flash (s : State) (c : Nat) (x : Dma) : (setDma s c x).flash = s.flash := rfl
@[simp] theorem setDma_flashSize (s : State) (c : Nat) (x : Dma) : (setDma s c x).flashSize = s.flashSize := rfl
@[simp] theorem setDma_flashOk (s : State) (c : Nat) (x : Dma) : (setDma s c x).flashOk = s.flashOk := rfl
@[simp] theorem setDma_booth (s : State) (c : Nat) (x : Dma) : (setDma s c x).booth = s.booth := rfl
@[simp] theorem setDma_cars (s : State) (c : Nat) (x : Dma) : (setDma s c x).cars = s.cars := rfl
@[simp] theorem setDma_ctxs (s : State) (c : Nat) (x : Dma) : (setDma s c x).ctxs = s.ctxs := rfl
@[simp] theorem setDma_jobs (s : State) (c : Nat) (x : Dma) : (setDma s c x).jobs = s.jobs := rfl
@[simp] theorem setDma_bulkSlots (s : State) (c : Nat) (x : Dma) : (setDma s c x).bulkSlots = s.bulkSlots := rfl
@[simp] theorem setDma_bulkTurn (s : State) (c : Nat) (x : Dma) : (setDma s c x).bulkTurn = s.bulkTurn := rfl
@[simp] theorem setDma_bulkBurst (s : State) (c : Nat) (x : Dma) : (setDma s c x).bulkBurst = s.bulkBurst := rfl
@[simp] theorem setDma_sensors (s : State) (c : Nat) (x : Dma) : (setDma s c x).sensors = s.sensors := rfl
@[simp] theorem setDma_tiles (s : State) (c : Nat) (x : Dma) : (setDma s c x).tiles = s.tiles := rfl
@[simp] theorem setDma_pcs (s : State) (c : Nat) (x : Dma) : (setDma s c x).pcs = s.pcs := rfl
@[simp] theorem setDma_ingress (s : State) (c : Nat) (x : Dma) : (setDma s c x).ingress = s.ingress := rfl
@[simp] theorem setDma_hbmWait (s : State) (c : Nat) (x : Dma) : (setDma s c x).hbmWait = s.hbmWait := rfl
@[simp] theorem setDma_hbmGrant (s : State) (c : Nat) (x : Dma) : (setDma s c x).hbmGrant = s.hbmGrant := rfl
@[simp] theorem setDma_hbmOut (s : State) (c : Nat) (x : Dma) : (setDma s c x).hbmOut = s.hbmOut := rfl
@[simp] theorem setDma_phys (s : State) (c : Nat) (x : Dma) : (setDma s c x).phys = s.phys := rfl
@[simp] theorem setDma_hbmHold (s : State) (c : Nat) (x : Dma) : (setDma s c x).hbmHold = s.hbmHold := rfl
@[simp] theorem setDma_pools (s : State) (c : Nat) (x : Dma) : (setDma s c x).pools = s.pools := rfl
@[simp] theorem setDma_grnRes (s : State) (c : Nat) (x : Dma) : (setDma s c x).grnRes = s.grnRes := rfl
@[simp] theorem setDma_fifos (s : State) (c : Nat) (x : Dma) : (setDma s c x).fifos = s.fifos := rfl
@[simp] theorem setDma_dmas (s : State) (c : Nat) (x : Dma) : (setDma s c x).dmas = nset s.dmas c x := rfl
@[simp] theorem setDma_timers (s : State) (c : Nat) (x : Dma) : (setDma s c x).timers = s.timers := rfl
@[simp] theorem setDma_crcs (s : State) (c : Nat) (x : Dma) : (setDma s c x).crcs = s.crcs := rfl
@[simp] theorem setDma_queues (s : State) (c : Nat) (x : Dma) : (setDma s c x).queues = s.queues := rfl
@[simp] theorem setDma_flows (s : State) (c : Nat) (x : Dma) : (setDma s c x).flows = s.flows := rfl
@[simp] theorem setDma_svcs (s : State) (c : Nat) (x : Dma) : (setDma s c x).svcs = s.svcs := rfl
@[simp] theorem setDma_eports (s : State) (c : Nat) (x : Dma) : (setDma s c x).eports = s.eports := rfl
@[simp] theorem setDma_rings (s : State) (c : Nat) (x : Dma) : (setDma s c x).rings = s.rings := rfl
@[simp] theorem setDma_eths (s : State) (c : Nat) (x : Dma) : (setDma s c x).eths = s.eths := rfl
@[simp] theorem setDma_bursts (s : State) (c : Nat) (x : Dma) : (setDma s c x).bursts = s.bursts := rfl
@[simp] theorem setDma_sfs (s : State) (c : Nat) (x : Dma) : (setDma s c x).sfs = s.sfs := rfl
@[simp] theorem setDma_casc (s : State) (c : Nat) (x : Dma) : (setDma s c x).casc = s.casc := rfl
@[simp] theorem setDma_isl (s : State) (c : Nat) (x : Dma) : (setDma s c x).isl = s.isl := rfl
@[simp] theorem setDma_boot (s : State) (c : Nat) (x : Dma) : (setDma s c x).boot = s.boot := rfl
@[simp] theorem setDma_fuses (s : State) (c : Nat) (x : Dma) : (setDma s c x).fuses = s.fuses := rfl
@[simp] theorem setDma_straps (s : State) (c : Nat) (x : Dma) : (setDma s c x).straps = s.straps := rfl
@[simp] theorem setDma_pwr (s : State) (c : Nat) (x : Dma) : (setDma s c x).pwr = s.pwr := rfl
@[simp] theorem setDma_rst (s : State) (c : Nat) (x : Dma) : (setDma s c x).rst = s.rst := rfl
@[simp] theorem setDma_clk (s : State) (c : Nat) (x : Dma) : (setDma s c x).clk = s.clk := rfl
@[simp] theorem setDma_flt (s : State) (c : Nat) (x : Dma) : (setDma s c x).flt = s.flt := rfl
@[simp] theorem setDma_crier (s : State) (c : Nat) (x : Dma) : (setDma s c x).crier = s.crier := rfl
@[simp] theorem setDma_takeRes (s : State) (c : Nat) (x : Dma) : (setDma s c x).takeRes = s.takeRes := rfl
@[simp] theorem setDma_smps (s : State) (c : Nat) (x : Dma) : (setDma s c x).smps = s.smps := rfl
@[simp] theorem setDma_jtag (s : State) (c : Nat) (x : Dma) : (setDma s c x).jtag = s.jtag := rfl

/-! ## setCrc -/

@[simp] theorem setCrc_pending (s : State) (u : Nat) (x : CrcU) : (setCrc s u x).pending = s.pending := rfl
@[simp] theorem setCrc_freeCtr (s : State) (u : Nat) (x : CrcU) : (setCrc s u x).freeCtr = s.freeCtr := rfl
@[simp] theorem setCrc_out (s : State) (u : Nat) (x : CrcU) : (setCrc s u x).out = s.out := rfl
@[simp] theorem setCrc_emitted (s : State) (u : Nat) (x : CrcU) : (setCrc s u x).emitted = s.emitted := rfl
@[simp] theorem setCrc_dt (s : State) (u : Nat) (x : CrcU) : (setCrc s u x).dt = s.dt := rfl
@[simp] theorem setCrc_dtRem (s : State) (u : Nat) (x : CrcU) : (setCrc s u x).dtRem = s.dtRem := rfl
@[simp] theorem setCrc_tick (s : State) (u : Nat) (x : CrcU) : (setCrc s u x).tick = s.tick := rfl
@[simp] theorem setCrc_nextId (s : State) (u : Nat) (x : CrcU) : (setCrc s u x).nextId = s.nextId := rfl
@[simp] theorem setCrc_hdrs (s : State) (u : Nat) (x : CrcU) : (setCrc s u x).hdrs = s.hdrs := rfl
@[simp] theorem setCrc_regs (s : State) (u : Nat) (x : CrcU) : (setCrc s u x).regs = s.regs := rfl
@[simp] theorem setCrc_shadow (s : State) (u : Nat) (x : CrcU) : (setCrc s u x).shadow = s.shadow := rfl
@[simp] theorem setCrc_snaps (s : State) (u : Nat) (x : CrcU) : (setCrc s u x).snaps = s.snaps := rfl
@[simp] theorem setCrc_latches (s : State) (u : Nat) (x : CrcU) : (setCrc s u x).latches = s.latches := rfl
@[simp] theorem setCrc_loHeld (s : State) (u : Nat) (x : CrcU) : (setCrc s u x).loHeld = s.loHeld := rfl
@[simp] theorem setCrc_schedRec (s : State) (u : Nat) (x : CrcU) : (setCrc s u x).schedRec = s.schedRec := rfl
@[simp] theorem setCrc_msix (s : State) (u : Nat) (x : CrcU) : (setCrc s u x).msix = s.msix := rfl
@[simp] theorem setCrc_arbs (s : State) (u : Nat) (x : CrcU) : (setCrc s u x).arbs = s.arbs := rfl
@[simp] theorem setCrc_taps (s : State) (u : Nat) (x : CrcU) : (setCrc s u x).taps = s.taps := rfl
@[simp] theorem setCrc_unitTaps (s : State) (u : Nat) (x : CrcU) : (setCrc s u x).unitTaps = s.unitTaps := rfl
@[simp] theorem setCrc_slotCtx (s : State) (u : Nat) (x : CrcU) : (setCrc s u x).slotCtx = s.slotCtx := rfl
@[simp] theorem setCrc_slotRecs (s : State) (u : Nat) (x : CrcU) : (setCrc s u x).slotRecs = s.slotRecs := rfl
@[simp] theorem setCrc_hostMem (s : State) (u : Nat) (x : CrcU) : (setCrc s u x).hostMem = s.hostMem := rfl
@[simp] theorem setCrc_hostErr (s : State) (u : Nat) (x : CrcU) : (setCrc s u x).hostErr = s.hostErr := rfl
@[simp] theorem setCrc_hostPoison (s : State) (u : Nat) (x : CrcU) : (setCrc s u x).hostPoison = s.hostPoison := rfl
@[simp] theorem setCrc_hbm (s : State) (u : Nat) (x : CrcU) : (setCrc s u x).hbm = s.hbm := rfl
@[simp] theorem setCrc_hbmPoison (s : State) (u : Nat) (x : CrcU) : (setCrc s u x).hbmPoison = s.hbmPoison := rfl
@[simp] theorem setCrc_commons (s : State) (u : Nat) (x : CrcU) : (setCrc s u x).commons = s.commons := rfl
@[simp] theorem setCrc_comPoison (s : State) (u : Nat) (x : CrcU) : (setCrc s u x).comPoison = s.comPoison := rfl
@[simp] theorem setCrc_comScrub (s : State) (u : Nat) (x : CrcU) : (setCrc s u x).comScrub = s.comScrub := rfl
@[simp] theorem setCrc_flash (s : State) (u : Nat) (x : CrcU) : (setCrc s u x).flash = s.flash := rfl
@[simp] theorem setCrc_flashSize (s : State) (u : Nat) (x : CrcU) : (setCrc s u x).flashSize = s.flashSize := rfl
@[simp] theorem setCrc_flashOk (s : State) (u : Nat) (x : CrcU) : (setCrc s u x).flashOk = s.flashOk := rfl
@[simp] theorem setCrc_booth (s : State) (u : Nat) (x : CrcU) : (setCrc s u x).booth = s.booth := rfl
@[simp] theorem setCrc_cars (s : State) (u : Nat) (x : CrcU) : (setCrc s u x).cars = s.cars := rfl
@[simp] theorem setCrc_ctxs (s : State) (u : Nat) (x : CrcU) : (setCrc s u x).ctxs = s.ctxs := rfl
@[simp] theorem setCrc_jobs (s : State) (u : Nat) (x : CrcU) : (setCrc s u x).jobs = s.jobs := rfl
@[simp] theorem setCrc_bulkSlots (s : State) (u : Nat) (x : CrcU) : (setCrc s u x).bulkSlots = s.bulkSlots := rfl
@[simp] theorem setCrc_bulkTurn (s : State) (u : Nat) (x : CrcU) : (setCrc s u x).bulkTurn = s.bulkTurn := rfl
@[simp] theorem setCrc_bulkBurst (s : State) (u : Nat) (x : CrcU) : (setCrc s u x).bulkBurst = s.bulkBurst := rfl
@[simp] theorem setCrc_sensors (s : State) (u : Nat) (x : CrcU) : (setCrc s u x).sensors = s.sensors := rfl
@[simp] theorem setCrc_tiles (s : State) (u : Nat) (x : CrcU) : (setCrc s u x).tiles = s.tiles := rfl
@[simp] theorem setCrc_pcs (s : State) (u : Nat) (x : CrcU) : (setCrc s u x).pcs = s.pcs := rfl
@[simp] theorem setCrc_ingress (s : State) (u : Nat) (x : CrcU) : (setCrc s u x).ingress = s.ingress := rfl
@[simp] theorem setCrc_hbmWait (s : State) (u : Nat) (x : CrcU) : (setCrc s u x).hbmWait = s.hbmWait := rfl
@[simp] theorem setCrc_hbmGrant (s : State) (u : Nat) (x : CrcU) : (setCrc s u x).hbmGrant = s.hbmGrant := rfl
@[simp] theorem setCrc_hbmOut (s : State) (u : Nat) (x : CrcU) : (setCrc s u x).hbmOut = s.hbmOut := rfl
@[simp] theorem setCrc_phys (s : State) (u : Nat) (x : CrcU) : (setCrc s u x).phys = s.phys := rfl
@[simp] theorem setCrc_hbmHold (s : State) (u : Nat) (x : CrcU) : (setCrc s u x).hbmHold = s.hbmHold := rfl
@[simp] theorem setCrc_pools (s : State) (u : Nat) (x : CrcU) : (setCrc s u x).pools = s.pools := rfl
@[simp] theorem setCrc_grnRes (s : State) (u : Nat) (x : CrcU) : (setCrc s u x).grnRes = s.grnRes := rfl
@[simp] theorem setCrc_fifos (s : State) (u : Nat) (x : CrcU) : (setCrc s u x).fifos = s.fifos := rfl
@[simp] theorem setCrc_dmas (s : State) (u : Nat) (x : CrcU) : (setCrc s u x).dmas = s.dmas := rfl
@[simp] theorem setCrc_timers (s : State) (u : Nat) (x : CrcU) : (setCrc s u x).timers = s.timers := rfl
@[simp] theorem setCrc_crcs (s : State) (u : Nat) (x : CrcU) : (setCrc s u x).crcs = nset s.crcs u x := rfl
@[simp] theorem setCrc_queues (s : State) (u : Nat) (x : CrcU) : (setCrc s u x).queues = s.queues := rfl
@[simp] theorem setCrc_flows (s : State) (u : Nat) (x : CrcU) : (setCrc s u x).flows = s.flows := rfl
@[simp] theorem setCrc_svcs (s : State) (u : Nat) (x : CrcU) : (setCrc s u x).svcs = s.svcs := rfl
@[simp] theorem setCrc_eports (s : State) (u : Nat) (x : CrcU) : (setCrc s u x).eports = s.eports := rfl
@[simp] theorem setCrc_rings (s : State) (u : Nat) (x : CrcU) : (setCrc s u x).rings = s.rings := rfl
@[simp] theorem setCrc_eths (s : State) (u : Nat) (x : CrcU) : (setCrc s u x).eths = s.eths := rfl
@[simp] theorem setCrc_bursts (s : State) (u : Nat) (x : CrcU) : (setCrc s u x).bursts = s.bursts := rfl
@[simp] theorem setCrc_sfs (s : State) (u : Nat) (x : CrcU) : (setCrc s u x).sfs = s.sfs := rfl
@[simp] theorem setCrc_casc (s : State) (u : Nat) (x : CrcU) : (setCrc s u x).casc = s.casc := rfl
@[simp] theorem setCrc_isl (s : State) (u : Nat) (x : CrcU) : (setCrc s u x).isl = s.isl := rfl
@[simp] theorem setCrc_boot (s : State) (u : Nat) (x : CrcU) : (setCrc s u x).boot = s.boot := rfl
@[simp] theorem setCrc_fuses (s : State) (u : Nat) (x : CrcU) : (setCrc s u x).fuses = s.fuses := rfl
@[simp] theorem setCrc_straps (s : State) (u : Nat) (x : CrcU) : (setCrc s u x).straps = s.straps := rfl
@[simp] theorem setCrc_pwr (s : State) (u : Nat) (x : CrcU) : (setCrc s u x).pwr = s.pwr := rfl
@[simp] theorem setCrc_rst (s : State) (u : Nat) (x : CrcU) : (setCrc s u x).rst = s.rst := rfl
@[simp] theorem setCrc_clk (s : State) (u : Nat) (x : CrcU) : (setCrc s u x).clk = s.clk := rfl
@[simp] theorem setCrc_flt (s : State) (u : Nat) (x : CrcU) : (setCrc s u x).flt = s.flt := rfl
@[simp] theorem setCrc_crier (s : State) (u : Nat) (x : CrcU) : (setCrc s u x).crier = s.crier := rfl
@[simp] theorem setCrc_takeRes (s : State) (u : Nat) (x : CrcU) : (setCrc s u x).takeRes = s.takeRes := rfl
@[simp] theorem setCrc_smps (s : State) (u : Nat) (x : CrcU) : (setCrc s u x).smps = s.smps := rfl
@[simp] theorem setCrc_jtag (s : State) (u : Nat) (x : CrcU) : (setCrc s u x).jtag = s.jtag := rfl

/-! ## setPc -/

@[simp] theorem setPc_pending (s : State) (p : Nat) (x : Pc) : (setPc s p x).pending = s.pending := rfl
@[simp] theorem setPc_freeCtr (s : State) (p : Nat) (x : Pc) : (setPc s p x).freeCtr = s.freeCtr := rfl
@[simp] theorem setPc_out (s : State) (p : Nat) (x : Pc) : (setPc s p x).out = s.out := rfl
@[simp] theorem setPc_emitted (s : State) (p : Nat) (x : Pc) : (setPc s p x).emitted = s.emitted := rfl
@[simp] theorem setPc_dt (s : State) (p : Nat) (x : Pc) : (setPc s p x).dt = s.dt := rfl
@[simp] theorem setPc_dtRem (s : State) (p : Nat) (x : Pc) : (setPc s p x).dtRem = s.dtRem := rfl
@[simp] theorem setPc_tick (s : State) (p : Nat) (x : Pc) : (setPc s p x).tick = s.tick := rfl
@[simp] theorem setPc_nextId (s : State) (p : Nat) (x : Pc) : (setPc s p x).nextId = s.nextId := rfl
@[simp] theorem setPc_hdrs (s : State) (p : Nat) (x : Pc) : (setPc s p x).hdrs = s.hdrs := rfl
@[simp] theorem setPc_regs (s : State) (p : Nat) (x : Pc) : (setPc s p x).regs = s.regs := rfl
@[simp] theorem setPc_shadow (s : State) (p : Nat) (x : Pc) : (setPc s p x).shadow = s.shadow := rfl
@[simp] theorem setPc_snaps (s : State) (p : Nat) (x : Pc) : (setPc s p x).snaps = s.snaps := rfl
@[simp] theorem setPc_latches (s : State) (p : Nat) (x : Pc) : (setPc s p x).latches = s.latches := rfl
@[simp] theorem setPc_loHeld (s : State) (p : Nat) (x : Pc) : (setPc s p x).loHeld = s.loHeld := rfl
@[simp] theorem setPc_schedRec (s : State) (p : Nat) (x : Pc) : (setPc s p x).schedRec = s.schedRec := rfl
@[simp] theorem setPc_msix (s : State) (p : Nat) (x : Pc) : (setPc s p x).msix = s.msix := rfl
@[simp] theorem setPc_arbs (s : State) (p : Nat) (x : Pc) : (setPc s p x).arbs = s.arbs := rfl
@[simp] theorem setPc_taps (s : State) (p : Nat) (x : Pc) : (setPc s p x).taps = s.taps := rfl
@[simp] theorem setPc_unitTaps (s : State) (p : Nat) (x : Pc) : (setPc s p x).unitTaps = s.unitTaps := rfl
@[simp] theorem setPc_slotCtx (s : State) (p : Nat) (x : Pc) : (setPc s p x).slotCtx = s.slotCtx := rfl
@[simp] theorem setPc_slotRecs (s : State) (p : Nat) (x : Pc) : (setPc s p x).slotRecs = s.slotRecs := rfl
@[simp] theorem setPc_hostMem (s : State) (p : Nat) (x : Pc) : (setPc s p x).hostMem = s.hostMem := rfl
@[simp] theorem setPc_hostErr (s : State) (p : Nat) (x : Pc) : (setPc s p x).hostErr = s.hostErr := rfl
@[simp] theorem setPc_hostPoison (s : State) (p : Nat) (x : Pc) : (setPc s p x).hostPoison = s.hostPoison := rfl
@[simp] theorem setPc_hbm (s : State) (p : Nat) (x : Pc) : (setPc s p x).hbm = s.hbm := rfl
@[simp] theorem setPc_hbmPoison (s : State) (p : Nat) (x : Pc) : (setPc s p x).hbmPoison = s.hbmPoison := rfl
@[simp] theorem setPc_commons (s : State) (p : Nat) (x : Pc) : (setPc s p x).commons = s.commons := rfl
@[simp] theorem setPc_comPoison (s : State) (p : Nat) (x : Pc) : (setPc s p x).comPoison = s.comPoison := rfl
@[simp] theorem setPc_comScrub (s : State) (p : Nat) (x : Pc) : (setPc s p x).comScrub = s.comScrub := rfl
@[simp] theorem setPc_flash (s : State) (p : Nat) (x : Pc) : (setPc s p x).flash = s.flash := rfl
@[simp] theorem setPc_flashSize (s : State) (p : Nat) (x : Pc) : (setPc s p x).flashSize = s.flashSize := rfl
@[simp] theorem setPc_flashOk (s : State) (p : Nat) (x : Pc) : (setPc s p x).flashOk = s.flashOk := rfl
@[simp] theorem setPc_booth (s : State) (p : Nat) (x : Pc) : (setPc s p x).booth = s.booth := rfl
@[simp] theorem setPc_cars (s : State) (p : Nat) (x : Pc) : (setPc s p x).cars = s.cars := rfl
@[simp] theorem setPc_ctxs (s : State) (p : Nat) (x : Pc) : (setPc s p x).ctxs = s.ctxs := rfl
@[simp] theorem setPc_jobs (s : State) (p : Nat) (x : Pc) : (setPc s p x).jobs = s.jobs := rfl
@[simp] theorem setPc_bulkSlots (s : State) (p : Nat) (x : Pc) : (setPc s p x).bulkSlots = s.bulkSlots := rfl
@[simp] theorem setPc_bulkTurn (s : State) (p : Nat) (x : Pc) : (setPc s p x).bulkTurn = s.bulkTurn := rfl
@[simp] theorem setPc_bulkBurst (s : State) (p : Nat) (x : Pc) : (setPc s p x).bulkBurst = s.bulkBurst := rfl
@[simp] theorem setPc_sensors (s : State) (p : Nat) (x : Pc) : (setPc s p x).sensors = s.sensors := rfl
@[simp] theorem setPc_tiles (s : State) (p : Nat) (x : Pc) : (setPc s p x).tiles = s.tiles := rfl
@[simp] theorem setPc_pcs (s : State) (p : Nat) (x : Pc) : (setPc s p x).pcs = nset s.pcs p x := rfl
@[simp] theorem setPc_ingress (s : State) (p : Nat) (x : Pc) : (setPc s p x).ingress = s.ingress := rfl
@[simp] theorem setPc_hbmWait (s : State) (p : Nat) (x : Pc) : (setPc s p x).hbmWait = s.hbmWait := rfl
@[simp] theorem setPc_hbmGrant (s : State) (p : Nat) (x : Pc) : (setPc s p x).hbmGrant = s.hbmGrant := rfl
@[simp] theorem setPc_hbmOut (s : State) (p : Nat) (x : Pc) : (setPc s p x).hbmOut = s.hbmOut := rfl
@[simp] theorem setPc_phys (s : State) (p : Nat) (x : Pc) : (setPc s p x).phys = s.phys := rfl
@[simp] theorem setPc_hbmHold (s : State) (p : Nat) (x : Pc) : (setPc s p x).hbmHold = s.hbmHold := rfl
@[simp] theorem setPc_pools (s : State) (p : Nat) (x : Pc) : (setPc s p x).pools = s.pools := rfl
@[simp] theorem setPc_grnRes (s : State) (p : Nat) (x : Pc) : (setPc s p x).grnRes = s.grnRes := rfl
@[simp] theorem setPc_fifos (s : State) (p : Nat) (x : Pc) : (setPc s p x).fifos = s.fifos := rfl
@[simp] theorem setPc_dmas (s : State) (p : Nat) (x : Pc) : (setPc s p x).dmas = s.dmas := rfl
@[simp] theorem setPc_timers (s : State) (p : Nat) (x : Pc) : (setPc s p x).timers = s.timers := rfl
@[simp] theorem setPc_crcs (s : State) (p : Nat) (x : Pc) : (setPc s p x).crcs = s.crcs := rfl
@[simp] theorem setPc_queues (s : State) (p : Nat) (x : Pc) : (setPc s p x).queues = s.queues := rfl
@[simp] theorem setPc_flows (s : State) (p : Nat) (x : Pc) : (setPc s p x).flows = s.flows := rfl
@[simp] theorem setPc_svcs (s : State) (p : Nat) (x : Pc) : (setPc s p x).svcs = s.svcs := rfl
@[simp] theorem setPc_eports (s : State) (p : Nat) (x : Pc) : (setPc s p x).eports = s.eports := rfl
@[simp] theorem setPc_rings (s : State) (p : Nat) (x : Pc) : (setPc s p x).rings = s.rings := rfl
@[simp] theorem setPc_eths (s : State) (p : Nat) (x : Pc) : (setPc s p x).eths = s.eths := rfl
@[simp] theorem setPc_bursts (s : State) (p : Nat) (x : Pc) : (setPc s p x).bursts = s.bursts := rfl
@[simp] theorem setPc_sfs (s : State) (p : Nat) (x : Pc) : (setPc s p x).sfs = s.sfs := rfl
@[simp] theorem setPc_casc (s : State) (p : Nat) (x : Pc) : (setPc s p x).casc = s.casc := rfl
@[simp] theorem setPc_isl (s : State) (p : Nat) (x : Pc) : (setPc s p x).isl = s.isl := rfl
@[simp] theorem setPc_boot (s : State) (p : Nat) (x : Pc) : (setPc s p x).boot = s.boot := rfl
@[simp] theorem setPc_fuses (s : State) (p : Nat) (x : Pc) : (setPc s p x).fuses = s.fuses := rfl
@[simp] theorem setPc_straps (s : State) (p : Nat) (x : Pc) : (setPc s p x).straps = s.straps := rfl
@[simp] theorem setPc_pwr (s : State) (p : Nat) (x : Pc) : (setPc s p x).pwr = s.pwr := rfl
@[simp] theorem setPc_rst (s : State) (p : Nat) (x : Pc) : (setPc s p x).rst = s.rst := rfl
@[simp] theorem setPc_clk (s : State) (p : Nat) (x : Pc) : (setPc s p x).clk = s.clk := rfl
@[simp] theorem setPc_flt (s : State) (p : Nat) (x : Pc) : (setPc s p x).flt = s.flt := rfl
@[simp] theorem setPc_crier (s : State) (p : Nat) (x : Pc) : (setPc s p x).crier = s.crier := rfl
@[simp] theorem setPc_takeRes (s : State) (p : Nat) (x : Pc) : (setPc s p x).takeRes = s.takeRes := rfl
@[simp] theorem setPc_smps (s : State) (p : Nat) (x : Pc) : (setPc s p x).smps = s.smps := rfl
@[simp] theorem setPc_jtag (s : State) (p : Nat) (x : Pc) : (setPc s p x).jtag = s.jtag := rfl

/-! ## setFlow -/

@[simp] theorem setFlow_pending (s : State) (f : Nat) (x : Flow) : (setFlow s f x).pending = s.pending := rfl
@[simp] theorem setFlow_freeCtr (s : State) (f : Nat) (x : Flow) : (setFlow s f x).freeCtr = s.freeCtr := rfl
@[simp] theorem setFlow_out (s : State) (f : Nat) (x : Flow) : (setFlow s f x).out = s.out := rfl
@[simp] theorem setFlow_emitted (s : State) (f : Nat) (x : Flow) : (setFlow s f x).emitted = s.emitted := rfl
@[simp] theorem setFlow_dt (s : State) (f : Nat) (x : Flow) : (setFlow s f x).dt = s.dt := rfl
@[simp] theorem setFlow_dtRem (s : State) (f : Nat) (x : Flow) : (setFlow s f x).dtRem = s.dtRem := rfl
@[simp] theorem setFlow_tick (s : State) (f : Nat) (x : Flow) : (setFlow s f x).tick = s.tick := rfl
@[simp] theorem setFlow_nextId (s : State) (f : Nat) (x : Flow) : (setFlow s f x).nextId = s.nextId := rfl
@[simp] theorem setFlow_hdrs (s : State) (f : Nat) (x : Flow) : (setFlow s f x).hdrs = s.hdrs := rfl
@[simp] theorem setFlow_regs (s : State) (f : Nat) (x : Flow) : (setFlow s f x).regs = s.regs := rfl
@[simp] theorem setFlow_shadow (s : State) (f : Nat) (x : Flow) : (setFlow s f x).shadow = s.shadow := rfl
@[simp] theorem setFlow_snaps (s : State) (f : Nat) (x : Flow) : (setFlow s f x).snaps = s.snaps := rfl
@[simp] theorem setFlow_latches (s : State) (f : Nat) (x : Flow) : (setFlow s f x).latches = s.latches := rfl
@[simp] theorem setFlow_loHeld (s : State) (f : Nat) (x : Flow) : (setFlow s f x).loHeld = s.loHeld := rfl
@[simp] theorem setFlow_schedRec (s : State) (f : Nat) (x : Flow) : (setFlow s f x).schedRec = s.schedRec := rfl
@[simp] theorem setFlow_msix (s : State) (f : Nat) (x : Flow) : (setFlow s f x).msix = s.msix := rfl
@[simp] theorem setFlow_arbs (s : State) (f : Nat) (x : Flow) : (setFlow s f x).arbs = s.arbs := rfl
@[simp] theorem setFlow_taps (s : State) (f : Nat) (x : Flow) : (setFlow s f x).taps = s.taps := rfl
@[simp] theorem setFlow_unitTaps (s : State) (f : Nat) (x : Flow) : (setFlow s f x).unitTaps = s.unitTaps := rfl
@[simp] theorem setFlow_slotCtx (s : State) (f : Nat) (x : Flow) : (setFlow s f x).slotCtx = s.slotCtx := rfl
@[simp] theorem setFlow_slotRecs (s : State) (f : Nat) (x : Flow) : (setFlow s f x).slotRecs = s.slotRecs := rfl
@[simp] theorem setFlow_hostMem (s : State) (f : Nat) (x : Flow) : (setFlow s f x).hostMem = s.hostMem := rfl
@[simp] theorem setFlow_hostErr (s : State) (f : Nat) (x : Flow) : (setFlow s f x).hostErr = s.hostErr := rfl
@[simp] theorem setFlow_hostPoison (s : State) (f : Nat) (x : Flow) : (setFlow s f x).hostPoison = s.hostPoison := rfl
@[simp] theorem setFlow_hbm (s : State) (f : Nat) (x : Flow) : (setFlow s f x).hbm = s.hbm := rfl
@[simp] theorem setFlow_hbmPoison (s : State) (f : Nat) (x : Flow) : (setFlow s f x).hbmPoison = s.hbmPoison := rfl
@[simp] theorem setFlow_commons (s : State) (f : Nat) (x : Flow) : (setFlow s f x).commons = s.commons := rfl
@[simp] theorem setFlow_comPoison (s : State) (f : Nat) (x : Flow) : (setFlow s f x).comPoison = s.comPoison := rfl
@[simp] theorem setFlow_comScrub (s : State) (f : Nat) (x : Flow) : (setFlow s f x).comScrub = s.comScrub := rfl
@[simp] theorem setFlow_flash (s : State) (f : Nat) (x : Flow) : (setFlow s f x).flash = s.flash := rfl
@[simp] theorem setFlow_flashSize (s : State) (f : Nat) (x : Flow) : (setFlow s f x).flashSize = s.flashSize := rfl
@[simp] theorem setFlow_flashOk (s : State) (f : Nat) (x : Flow) : (setFlow s f x).flashOk = s.flashOk := rfl
@[simp] theorem setFlow_booth (s : State) (f : Nat) (x : Flow) : (setFlow s f x).booth = s.booth := rfl
@[simp] theorem setFlow_cars (s : State) (f : Nat) (x : Flow) : (setFlow s f x).cars = s.cars := rfl
@[simp] theorem setFlow_ctxs (s : State) (f : Nat) (x : Flow) : (setFlow s f x).ctxs = s.ctxs := rfl
@[simp] theorem setFlow_jobs (s : State) (f : Nat) (x : Flow) : (setFlow s f x).jobs = s.jobs := rfl
@[simp] theorem setFlow_bulkSlots (s : State) (f : Nat) (x : Flow) : (setFlow s f x).bulkSlots = s.bulkSlots := rfl
@[simp] theorem setFlow_bulkTurn (s : State) (f : Nat) (x : Flow) : (setFlow s f x).bulkTurn = s.bulkTurn := rfl
@[simp] theorem setFlow_bulkBurst (s : State) (f : Nat) (x : Flow) : (setFlow s f x).bulkBurst = s.bulkBurst := rfl
@[simp] theorem setFlow_sensors (s : State) (f : Nat) (x : Flow) : (setFlow s f x).sensors = s.sensors := rfl
@[simp] theorem setFlow_tiles (s : State) (f : Nat) (x : Flow) : (setFlow s f x).tiles = s.tiles := rfl
@[simp] theorem setFlow_pcs (s : State) (f : Nat) (x : Flow) : (setFlow s f x).pcs = s.pcs := rfl
@[simp] theorem setFlow_ingress (s : State) (f : Nat) (x : Flow) : (setFlow s f x).ingress = s.ingress := rfl
@[simp] theorem setFlow_hbmWait (s : State) (f : Nat) (x : Flow) : (setFlow s f x).hbmWait = s.hbmWait := rfl
@[simp] theorem setFlow_hbmGrant (s : State) (f : Nat) (x : Flow) : (setFlow s f x).hbmGrant = s.hbmGrant := rfl
@[simp] theorem setFlow_hbmOut (s : State) (f : Nat) (x : Flow) : (setFlow s f x).hbmOut = s.hbmOut := rfl
@[simp] theorem setFlow_phys (s : State) (f : Nat) (x : Flow) : (setFlow s f x).phys = s.phys := rfl
@[simp] theorem setFlow_hbmHold (s : State) (f : Nat) (x : Flow) : (setFlow s f x).hbmHold = s.hbmHold := rfl
@[simp] theorem setFlow_pools (s : State) (f : Nat) (x : Flow) : (setFlow s f x).pools = s.pools := rfl
@[simp] theorem setFlow_grnRes (s : State) (f : Nat) (x : Flow) : (setFlow s f x).grnRes = s.grnRes := rfl
@[simp] theorem setFlow_fifos (s : State) (f : Nat) (x : Flow) : (setFlow s f x).fifos = s.fifos := rfl
@[simp] theorem setFlow_dmas (s : State) (f : Nat) (x : Flow) : (setFlow s f x).dmas = s.dmas := rfl
@[simp] theorem setFlow_timers (s : State) (f : Nat) (x : Flow) : (setFlow s f x).timers = s.timers := rfl
@[simp] theorem setFlow_crcs (s : State) (f : Nat) (x : Flow) : (setFlow s f x).crcs = s.crcs := rfl
@[simp] theorem setFlow_queues (s : State) (f : Nat) (x : Flow) : (setFlow s f x).queues = s.queues := rfl
@[simp] theorem setFlow_flows (s : State) (f : Nat) (x : Flow) : (setFlow s f x).flows = nset s.flows f x := rfl
@[simp] theorem setFlow_svcs (s : State) (f : Nat) (x : Flow) : (setFlow s f x).svcs = s.svcs := rfl
@[simp] theorem setFlow_eports (s : State) (f : Nat) (x : Flow) : (setFlow s f x).eports = s.eports := rfl
@[simp] theorem setFlow_rings (s : State) (f : Nat) (x : Flow) : (setFlow s f x).rings = s.rings := rfl
@[simp] theorem setFlow_eths (s : State) (f : Nat) (x : Flow) : (setFlow s f x).eths = s.eths := rfl
@[simp] theorem setFlow_bursts (s : State) (f : Nat) (x : Flow) : (setFlow s f x).bursts = s.bursts := rfl
@[simp] theorem setFlow_sfs (s : State) (f : Nat) (x : Flow) : (setFlow s f x).sfs = s.sfs := rfl
@[simp] theorem setFlow_casc (s : State) (f : Nat) (x : Flow) : (setFlow s f x).casc = s.casc := rfl
@[simp] theorem setFlow_isl (s : State) (f : Nat) (x : Flow) : (setFlow s f x).isl = s.isl := rfl
@[simp] theorem setFlow_boot (s : State) (f : Nat) (x : Flow) : (setFlow s f x).boot = s.boot := rfl
@[simp] theorem setFlow_fuses (s : State) (f : Nat) (x : Flow) : (setFlow s f x).fuses = s.fuses := rfl
@[simp] theorem setFlow_straps (s : State) (f : Nat) (x : Flow) : (setFlow s f x).straps = s.straps := rfl
@[simp] theorem setFlow_pwr (s : State) (f : Nat) (x : Flow) : (setFlow s f x).pwr = s.pwr := rfl
@[simp] theorem setFlow_rst (s : State) (f : Nat) (x : Flow) : (setFlow s f x).rst = s.rst := rfl
@[simp] theorem setFlow_clk (s : State) (f : Nat) (x : Flow) : (setFlow s f x).clk = s.clk := rfl
@[simp] theorem setFlow_flt (s : State) (f : Nat) (x : Flow) : (setFlow s f x).flt = s.flt := rfl
@[simp] theorem setFlow_crier (s : State) (f : Nat) (x : Flow) : (setFlow s f x).crier = s.crier := rfl
@[simp] theorem setFlow_takeRes (s : State) (f : Nat) (x : Flow) : (setFlow s f x).takeRes = s.takeRes := rfl
@[simp] theorem setFlow_smps (s : State) (f : Nat) (x : Flow) : (setFlow s f x).smps = s.smps := rfl
@[simp] theorem setFlow_jtag (s : State) (f : Nat) (x : Flow) : (setFlow s f x).jtag = s.jtag := rfl

/-! ## setSvc -/

@[simp] theorem setSvc_pending (s : State) (v : Nat) (x : Svc) : (setSvc s v x).pending = s.pending := rfl
@[simp] theorem setSvc_freeCtr (s : State) (v : Nat) (x : Svc) : (setSvc s v x).freeCtr = s.freeCtr := rfl
@[simp] theorem setSvc_out (s : State) (v : Nat) (x : Svc) : (setSvc s v x).out = s.out := rfl
@[simp] theorem setSvc_emitted (s : State) (v : Nat) (x : Svc) : (setSvc s v x).emitted = s.emitted := rfl
@[simp] theorem setSvc_dt (s : State) (v : Nat) (x : Svc) : (setSvc s v x).dt = s.dt := rfl
@[simp] theorem setSvc_dtRem (s : State) (v : Nat) (x : Svc) : (setSvc s v x).dtRem = s.dtRem := rfl
@[simp] theorem setSvc_tick (s : State) (v : Nat) (x : Svc) : (setSvc s v x).tick = s.tick := rfl
@[simp] theorem setSvc_nextId (s : State) (v : Nat) (x : Svc) : (setSvc s v x).nextId = s.nextId := rfl
@[simp] theorem setSvc_hdrs (s : State) (v : Nat) (x : Svc) : (setSvc s v x).hdrs = s.hdrs := rfl
@[simp] theorem setSvc_regs (s : State) (v : Nat) (x : Svc) : (setSvc s v x).regs = s.regs := rfl
@[simp] theorem setSvc_shadow (s : State) (v : Nat) (x : Svc) : (setSvc s v x).shadow = s.shadow := rfl
@[simp] theorem setSvc_snaps (s : State) (v : Nat) (x : Svc) : (setSvc s v x).snaps = s.snaps := rfl
@[simp] theorem setSvc_latches (s : State) (v : Nat) (x : Svc) : (setSvc s v x).latches = s.latches := rfl
@[simp] theorem setSvc_loHeld (s : State) (v : Nat) (x : Svc) : (setSvc s v x).loHeld = s.loHeld := rfl
@[simp] theorem setSvc_schedRec (s : State) (v : Nat) (x : Svc) : (setSvc s v x).schedRec = s.schedRec := rfl
@[simp] theorem setSvc_msix (s : State) (v : Nat) (x : Svc) : (setSvc s v x).msix = s.msix := rfl
@[simp] theorem setSvc_arbs (s : State) (v : Nat) (x : Svc) : (setSvc s v x).arbs = s.arbs := rfl
@[simp] theorem setSvc_taps (s : State) (v : Nat) (x : Svc) : (setSvc s v x).taps = s.taps := rfl
@[simp] theorem setSvc_unitTaps (s : State) (v : Nat) (x : Svc) : (setSvc s v x).unitTaps = s.unitTaps := rfl
@[simp] theorem setSvc_slotCtx (s : State) (v : Nat) (x : Svc) : (setSvc s v x).slotCtx = s.slotCtx := rfl
@[simp] theorem setSvc_slotRecs (s : State) (v : Nat) (x : Svc) : (setSvc s v x).slotRecs = s.slotRecs := rfl
@[simp] theorem setSvc_hostMem (s : State) (v : Nat) (x : Svc) : (setSvc s v x).hostMem = s.hostMem := rfl
@[simp] theorem setSvc_hostErr (s : State) (v : Nat) (x : Svc) : (setSvc s v x).hostErr = s.hostErr := rfl
@[simp] theorem setSvc_hostPoison (s : State) (v : Nat) (x : Svc) : (setSvc s v x).hostPoison = s.hostPoison := rfl
@[simp] theorem setSvc_hbm (s : State) (v : Nat) (x : Svc) : (setSvc s v x).hbm = s.hbm := rfl
@[simp] theorem setSvc_hbmPoison (s : State) (v : Nat) (x : Svc) : (setSvc s v x).hbmPoison = s.hbmPoison := rfl
@[simp] theorem setSvc_commons (s : State) (v : Nat) (x : Svc) : (setSvc s v x).commons = s.commons := rfl
@[simp] theorem setSvc_comPoison (s : State) (v : Nat) (x : Svc) : (setSvc s v x).comPoison = s.comPoison := rfl
@[simp] theorem setSvc_comScrub (s : State) (v : Nat) (x : Svc) : (setSvc s v x).comScrub = s.comScrub := rfl
@[simp] theorem setSvc_flash (s : State) (v : Nat) (x : Svc) : (setSvc s v x).flash = s.flash := rfl
@[simp] theorem setSvc_flashSize (s : State) (v : Nat) (x : Svc) : (setSvc s v x).flashSize = s.flashSize := rfl
@[simp] theorem setSvc_flashOk (s : State) (v : Nat) (x : Svc) : (setSvc s v x).flashOk = s.flashOk := rfl
@[simp] theorem setSvc_booth (s : State) (v : Nat) (x : Svc) : (setSvc s v x).booth = s.booth := rfl
@[simp] theorem setSvc_cars (s : State) (v : Nat) (x : Svc) : (setSvc s v x).cars = s.cars := rfl
@[simp] theorem setSvc_ctxs (s : State) (v : Nat) (x : Svc) : (setSvc s v x).ctxs = s.ctxs := rfl
@[simp] theorem setSvc_jobs (s : State) (v : Nat) (x : Svc) : (setSvc s v x).jobs = s.jobs := rfl
@[simp] theorem setSvc_bulkSlots (s : State) (v : Nat) (x : Svc) : (setSvc s v x).bulkSlots = s.bulkSlots := rfl
@[simp] theorem setSvc_bulkTurn (s : State) (v : Nat) (x : Svc) : (setSvc s v x).bulkTurn = s.bulkTurn := rfl
@[simp] theorem setSvc_bulkBurst (s : State) (v : Nat) (x : Svc) : (setSvc s v x).bulkBurst = s.bulkBurst := rfl
@[simp] theorem setSvc_sensors (s : State) (v : Nat) (x : Svc) : (setSvc s v x).sensors = s.sensors := rfl
@[simp] theorem setSvc_tiles (s : State) (v : Nat) (x : Svc) : (setSvc s v x).tiles = s.tiles := rfl
@[simp] theorem setSvc_pcs (s : State) (v : Nat) (x : Svc) : (setSvc s v x).pcs = s.pcs := rfl
@[simp] theorem setSvc_ingress (s : State) (v : Nat) (x : Svc) : (setSvc s v x).ingress = s.ingress := rfl
@[simp] theorem setSvc_hbmWait (s : State) (v : Nat) (x : Svc) : (setSvc s v x).hbmWait = s.hbmWait := rfl
@[simp] theorem setSvc_hbmGrant (s : State) (v : Nat) (x : Svc) : (setSvc s v x).hbmGrant = s.hbmGrant := rfl
@[simp] theorem setSvc_hbmOut (s : State) (v : Nat) (x : Svc) : (setSvc s v x).hbmOut = s.hbmOut := rfl
@[simp] theorem setSvc_phys (s : State) (v : Nat) (x : Svc) : (setSvc s v x).phys = s.phys := rfl
@[simp] theorem setSvc_hbmHold (s : State) (v : Nat) (x : Svc) : (setSvc s v x).hbmHold = s.hbmHold := rfl
@[simp] theorem setSvc_pools (s : State) (v : Nat) (x : Svc) : (setSvc s v x).pools = s.pools := rfl
@[simp] theorem setSvc_grnRes (s : State) (v : Nat) (x : Svc) : (setSvc s v x).grnRes = s.grnRes := rfl
@[simp] theorem setSvc_fifos (s : State) (v : Nat) (x : Svc) : (setSvc s v x).fifos = s.fifos := rfl
@[simp] theorem setSvc_dmas (s : State) (v : Nat) (x : Svc) : (setSvc s v x).dmas = s.dmas := rfl
@[simp] theorem setSvc_timers (s : State) (v : Nat) (x : Svc) : (setSvc s v x).timers = s.timers := rfl
@[simp] theorem setSvc_crcs (s : State) (v : Nat) (x : Svc) : (setSvc s v x).crcs = s.crcs := rfl
@[simp] theorem setSvc_queues (s : State) (v : Nat) (x : Svc) : (setSvc s v x).queues = s.queues := rfl
@[simp] theorem setSvc_flows (s : State) (v : Nat) (x : Svc) : (setSvc s v x).flows = s.flows := rfl
@[simp] theorem setSvc_svcs (s : State) (v : Nat) (x : Svc) : (setSvc s v x).svcs = nset s.svcs v x := rfl
@[simp] theorem setSvc_eports (s : State) (v : Nat) (x : Svc) : (setSvc s v x).eports = s.eports := rfl
@[simp] theorem setSvc_rings (s : State) (v : Nat) (x : Svc) : (setSvc s v x).rings = s.rings := rfl
@[simp] theorem setSvc_eths (s : State) (v : Nat) (x : Svc) : (setSvc s v x).eths = s.eths := rfl
@[simp] theorem setSvc_bursts (s : State) (v : Nat) (x : Svc) : (setSvc s v x).bursts = s.bursts := rfl
@[simp] theorem setSvc_sfs (s : State) (v : Nat) (x : Svc) : (setSvc s v x).sfs = s.sfs := rfl
@[simp] theorem setSvc_casc (s : State) (v : Nat) (x : Svc) : (setSvc s v x).casc = s.casc := rfl
@[simp] theorem setSvc_isl (s : State) (v : Nat) (x : Svc) : (setSvc s v x).isl = s.isl := rfl
@[simp] theorem setSvc_boot (s : State) (v : Nat) (x : Svc) : (setSvc s v x).boot = s.boot := rfl
@[simp] theorem setSvc_fuses (s : State) (v : Nat) (x : Svc) : (setSvc s v x).fuses = s.fuses := rfl
@[simp] theorem setSvc_straps (s : State) (v : Nat) (x : Svc) : (setSvc s v x).straps = s.straps := rfl
@[simp] theorem setSvc_pwr (s : State) (v : Nat) (x : Svc) : (setSvc s v x).pwr = s.pwr := rfl
@[simp] theorem setSvc_rst (s : State) (v : Nat) (x : Svc) : (setSvc s v x).rst = s.rst := rfl
@[simp] theorem setSvc_clk (s : State) (v : Nat) (x : Svc) : (setSvc s v x).clk = s.clk := rfl
@[simp] theorem setSvc_flt (s : State) (v : Nat) (x : Svc) : (setSvc s v x).flt = s.flt := rfl
@[simp] theorem setSvc_crier (s : State) (v : Nat) (x : Svc) : (setSvc s v x).crier = s.crier := rfl
@[simp] theorem setSvc_takeRes (s : State) (v : Nat) (x : Svc) : (setSvc s v x).takeRes = s.takeRes := rfl
@[simp] theorem setSvc_smps (s : State) (v : Nat) (x : Svc) : (setSvc s v x).smps = s.smps := rfl
@[simp] theorem setSvc_jtag (s : State) (v : Nat) (x : Svc) : (setSvc s v x).jtag = s.jtag := rfl

/-! ## setPort -/

@[simp] theorem setPort_pending (s : State) (p : Nat) (x : EPort) : (setPort s p x).pending = s.pending := rfl
@[simp] theorem setPort_freeCtr (s : State) (p : Nat) (x : EPort) : (setPort s p x).freeCtr = s.freeCtr := rfl
@[simp] theorem setPort_out (s : State) (p : Nat) (x : EPort) : (setPort s p x).out = s.out := rfl
@[simp] theorem setPort_emitted (s : State) (p : Nat) (x : EPort) : (setPort s p x).emitted = s.emitted := rfl
@[simp] theorem setPort_dt (s : State) (p : Nat) (x : EPort) : (setPort s p x).dt = s.dt := rfl
@[simp] theorem setPort_dtRem (s : State) (p : Nat) (x : EPort) : (setPort s p x).dtRem = s.dtRem := rfl
@[simp] theorem setPort_tick (s : State) (p : Nat) (x : EPort) : (setPort s p x).tick = s.tick := rfl
@[simp] theorem setPort_nextId (s : State) (p : Nat) (x : EPort) : (setPort s p x).nextId = s.nextId := rfl
@[simp] theorem setPort_hdrs (s : State) (p : Nat) (x : EPort) : (setPort s p x).hdrs = s.hdrs := rfl
@[simp] theorem setPort_regs (s : State) (p : Nat) (x : EPort) : (setPort s p x).regs = s.regs := rfl
@[simp] theorem setPort_shadow (s : State) (p : Nat) (x : EPort) : (setPort s p x).shadow = s.shadow := rfl
@[simp] theorem setPort_snaps (s : State) (p : Nat) (x : EPort) : (setPort s p x).snaps = s.snaps := rfl
@[simp] theorem setPort_latches (s : State) (p : Nat) (x : EPort) : (setPort s p x).latches = s.latches := rfl
@[simp] theorem setPort_loHeld (s : State) (p : Nat) (x : EPort) : (setPort s p x).loHeld = s.loHeld := rfl
@[simp] theorem setPort_schedRec (s : State) (p : Nat) (x : EPort) : (setPort s p x).schedRec = s.schedRec := rfl
@[simp] theorem setPort_msix (s : State) (p : Nat) (x : EPort) : (setPort s p x).msix = s.msix := rfl
@[simp] theorem setPort_arbs (s : State) (p : Nat) (x : EPort) : (setPort s p x).arbs = s.arbs := rfl
@[simp] theorem setPort_taps (s : State) (p : Nat) (x : EPort) : (setPort s p x).taps = s.taps := rfl
@[simp] theorem setPort_unitTaps (s : State) (p : Nat) (x : EPort) : (setPort s p x).unitTaps = s.unitTaps := rfl
@[simp] theorem setPort_slotCtx (s : State) (p : Nat) (x : EPort) : (setPort s p x).slotCtx = s.slotCtx := rfl
@[simp] theorem setPort_slotRecs (s : State) (p : Nat) (x : EPort) : (setPort s p x).slotRecs = s.slotRecs := rfl
@[simp] theorem setPort_hostMem (s : State) (p : Nat) (x : EPort) : (setPort s p x).hostMem = s.hostMem := rfl
@[simp] theorem setPort_hostErr (s : State) (p : Nat) (x : EPort) : (setPort s p x).hostErr = s.hostErr := rfl
@[simp] theorem setPort_hostPoison (s : State) (p : Nat) (x : EPort) : (setPort s p x).hostPoison = s.hostPoison := rfl
@[simp] theorem setPort_hbm (s : State) (p : Nat) (x : EPort) : (setPort s p x).hbm = s.hbm := rfl
@[simp] theorem setPort_hbmPoison (s : State) (p : Nat) (x : EPort) : (setPort s p x).hbmPoison = s.hbmPoison := rfl
@[simp] theorem setPort_commons (s : State) (p : Nat) (x : EPort) : (setPort s p x).commons = s.commons := rfl
@[simp] theorem setPort_comPoison (s : State) (p : Nat) (x : EPort) : (setPort s p x).comPoison = s.comPoison := rfl
@[simp] theorem setPort_comScrub (s : State) (p : Nat) (x : EPort) : (setPort s p x).comScrub = s.comScrub := rfl
@[simp] theorem setPort_flash (s : State) (p : Nat) (x : EPort) : (setPort s p x).flash = s.flash := rfl
@[simp] theorem setPort_flashSize (s : State) (p : Nat) (x : EPort) : (setPort s p x).flashSize = s.flashSize := rfl
@[simp] theorem setPort_flashOk (s : State) (p : Nat) (x : EPort) : (setPort s p x).flashOk = s.flashOk := rfl
@[simp] theorem setPort_booth (s : State) (p : Nat) (x : EPort) : (setPort s p x).booth = s.booth := rfl
@[simp] theorem setPort_cars (s : State) (p : Nat) (x : EPort) : (setPort s p x).cars = s.cars := rfl
@[simp] theorem setPort_ctxs (s : State) (p : Nat) (x : EPort) : (setPort s p x).ctxs = s.ctxs := rfl
@[simp] theorem setPort_jobs (s : State) (p : Nat) (x : EPort) : (setPort s p x).jobs = s.jobs := rfl
@[simp] theorem setPort_bulkSlots (s : State) (p : Nat) (x : EPort) : (setPort s p x).bulkSlots = s.bulkSlots := rfl
@[simp] theorem setPort_bulkTurn (s : State) (p : Nat) (x : EPort) : (setPort s p x).bulkTurn = s.bulkTurn := rfl
@[simp] theorem setPort_bulkBurst (s : State) (p : Nat) (x : EPort) : (setPort s p x).bulkBurst = s.bulkBurst := rfl
@[simp] theorem setPort_sensors (s : State) (p : Nat) (x : EPort) : (setPort s p x).sensors = s.sensors := rfl
@[simp] theorem setPort_tiles (s : State) (p : Nat) (x : EPort) : (setPort s p x).tiles = s.tiles := rfl
@[simp] theorem setPort_pcs (s : State) (p : Nat) (x : EPort) : (setPort s p x).pcs = s.pcs := rfl
@[simp] theorem setPort_ingress (s : State) (p : Nat) (x : EPort) : (setPort s p x).ingress = s.ingress := rfl
@[simp] theorem setPort_hbmWait (s : State) (p : Nat) (x : EPort) : (setPort s p x).hbmWait = s.hbmWait := rfl
@[simp] theorem setPort_hbmGrant (s : State) (p : Nat) (x : EPort) : (setPort s p x).hbmGrant = s.hbmGrant := rfl
@[simp] theorem setPort_hbmOut (s : State) (p : Nat) (x : EPort) : (setPort s p x).hbmOut = s.hbmOut := rfl
@[simp] theorem setPort_phys (s : State) (p : Nat) (x : EPort) : (setPort s p x).phys = s.phys := rfl
@[simp] theorem setPort_hbmHold (s : State) (p : Nat) (x : EPort) : (setPort s p x).hbmHold = s.hbmHold := rfl
@[simp] theorem setPort_pools (s : State) (p : Nat) (x : EPort) : (setPort s p x).pools = s.pools := rfl
@[simp] theorem setPort_grnRes (s : State) (p : Nat) (x : EPort) : (setPort s p x).grnRes = s.grnRes := rfl
@[simp] theorem setPort_fifos (s : State) (p : Nat) (x : EPort) : (setPort s p x).fifos = s.fifos := rfl
@[simp] theorem setPort_dmas (s : State) (p : Nat) (x : EPort) : (setPort s p x).dmas = s.dmas := rfl
@[simp] theorem setPort_timers (s : State) (p : Nat) (x : EPort) : (setPort s p x).timers = s.timers := rfl
@[simp] theorem setPort_crcs (s : State) (p : Nat) (x : EPort) : (setPort s p x).crcs = s.crcs := rfl
@[simp] theorem setPort_queues (s : State) (p : Nat) (x : EPort) : (setPort s p x).queues = s.queues := rfl
@[simp] theorem setPort_flows (s : State) (p : Nat) (x : EPort) : (setPort s p x).flows = s.flows := rfl
@[simp] theorem setPort_svcs (s : State) (p : Nat) (x : EPort) : (setPort s p x).svcs = s.svcs := rfl
@[simp] theorem setPort_eports (s : State) (p : Nat) (x : EPort) : (setPort s p x).eports = nset s.eports p x := rfl
@[simp] theorem setPort_rings (s : State) (p : Nat) (x : EPort) : (setPort s p x).rings = s.rings := rfl
@[simp] theorem setPort_eths (s : State) (p : Nat) (x : EPort) : (setPort s p x).eths = s.eths := rfl
@[simp] theorem setPort_bursts (s : State) (p : Nat) (x : EPort) : (setPort s p x).bursts = s.bursts := rfl
@[simp] theorem setPort_sfs (s : State) (p : Nat) (x : EPort) : (setPort s p x).sfs = s.sfs := rfl
@[simp] theorem setPort_casc (s : State) (p : Nat) (x : EPort) : (setPort s p x).casc = s.casc := rfl
@[simp] theorem setPort_isl (s : State) (p : Nat) (x : EPort) : (setPort s p x).isl = s.isl := rfl
@[simp] theorem setPort_boot (s : State) (p : Nat) (x : EPort) : (setPort s p x).boot = s.boot := rfl
@[simp] theorem setPort_fuses (s : State) (p : Nat) (x : EPort) : (setPort s p x).fuses = s.fuses := rfl
@[simp] theorem setPort_straps (s : State) (p : Nat) (x : EPort) : (setPort s p x).straps = s.straps := rfl
@[simp] theorem setPort_pwr (s : State) (p : Nat) (x : EPort) : (setPort s p x).pwr = s.pwr := rfl
@[simp] theorem setPort_rst (s : State) (p : Nat) (x : EPort) : (setPort s p x).rst = s.rst := rfl
@[simp] theorem setPort_clk (s : State) (p : Nat) (x : EPort) : (setPort s p x).clk = s.clk := rfl
@[simp] theorem setPort_flt (s : State) (p : Nat) (x : EPort) : (setPort s p x).flt = s.flt := rfl
@[simp] theorem setPort_crier (s : State) (p : Nat) (x : EPort) : (setPort s p x).crier = s.crier := rfl
@[simp] theorem setPort_takeRes (s : State) (p : Nat) (x : EPort) : (setPort s p x).takeRes = s.takeRes := rfl
@[simp] theorem setPort_smps (s : State) (p : Nat) (x : EPort) : (setPort s p x).smps = s.smps := rfl
@[simp] theorem setPort_jtag (s : State) (p : Nat) (x : EPort) : (setPort s p x).jtag = s.jtag := rfl

/-! ## setRing -/

@[simp] theorem setRing_pending (s : State) (r : Nat) (x : Ring) : (setRing s r x).pending = s.pending := rfl
@[simp] theorem setRing_freeCtr (s : State) (r : Nat) (x : Ring) : (setRing s r x).freeCtr = s.freeCtr := rfl
@[simp] theorem setRing_out (s : State) (r : Nat) (x : Ring) : (setRing s r x).out = s.out := rfl
@[simp] theorem setRing_emitted (s : State) (r : Nat) (x : Ring) : (setRing s r x).emitted = s.emitted := rfl
@[simp] theorem setRing_dt (s : State) (r : Nat) (x : Ring) : (setRing s r x).dt = s.dt := rfl
@[simp] theorem setRing_dtRem (s : State) (r : Nat) (x : Ring) : (setRing s r x).dtRem = s.dtRem := rfl
@[simp] theorem setRing_tick (s : State) (r : Nat) (x : Ring) : (setRing s r x).tick = s.tick := rfl
@[simp] theorem setRing_nextId (s : State) (r : Nat) (x : Ring) : (setRing s r x).nextId = s.nextId := rfl
@[simp] theorem setRing_hdrs (s : State) (r : Nat) (x : Ring) : (setRing s r x).hdrs = s.hdrs := rfl
@[simp] theorem setRing_regs (s : State) (r : Nat) (x : Ring) : (setRing s r x).regs = s.regs := rfl
@[simp] theorem setRing_shadow (s : State) (r : Nat) (x : Ring) : (setRing s r x).shadow = s.shadow := rfl
@[simp] theorem setRing_snaps (s : State) (r : Nat) (x : Ring) : (setRing s r x).snaps = s.snaps := rfl
@[simp] theorem setRing_latches (s : State) (r : Nat) (x : Ring) : (setRing s r x).latches = s.latches := rfl
@[simp] theorem setRing_loHeld (s : State) (r : Nat) (x : Ring) : (setRing s r x).loHeld = s.loHeld := rfl
@[simp] theorem setRing_schedRec (s : State) (r : Nat) (x : Ring) : (setRing s r x).schedRec = s.schedRec := rfl
@[simp] theorem setRing_msix (s : State) (r : Nat) (x : Ring) : (setRing s r x).msix = s.msix := rfl
@[simp] theorem setRing_arbs (s : State) (r : Nat) (x : Ring) : (setRing s r x).arbs = s.arbs := rfl
@[simp] theorem setRing_taps (s : State) (r : Nat) (x : Ring) : (setRing s r x).taps = s.taps := rfl
@[simp] theorem setRing_unitTaps (s : State) (r : Nat) (x : Ring) : (setRing s r x).unitTaps = s.unitTaps := rfl
@[simp] theorem setRing_slotCtx (s : State) (r : Nat) (x : Ring) : (setRing s r x).slotCtx = s.slotCtx := rfl
@[simp] theorem setRing_slotRecs (s : State) (r : Nat) (x : Ring) : (setRing s r x).slotRecs = s.slotRecs := rfl
@[simp] theorem setRing_hostMem (s : State) (r : Nat) (x : Ring) : (setRing s r x).hostMem = s.hostMem := rfl
@[simp] theorem setRing_hostErr (s : State) (r : Nat) (x : Ring) : (setRing s r x).hostErr = s.hostErr := rfl
@[simp] theorem setRing_hostPoison (s : State) (r : Nat) (x : Ring) : (setRing s r x).hostPoison = s.hostPoison := rfl
@[simp] theorem setRing_hbm (s : State) (r : Nat) (x : Ring) : (setRing s r x).hbm = s.hbm := rfl
@[simp] theorem setRing_hbmPoison (s : State) (r : Nat) (x : Ring) : (setRing s r x).hbmPoison = s.hbmPoison := rfl
@[simp] theorem setRing_commons (s : State) (r : Nat) (x : Ring) : (setRing s r x).commons = s.commons := rfl
@[simp] theorem setRing_comPoison (s : State) (r : Nat) (x : Ring) : (setRing s r x).comPoison = s.comPoison := rfl
@[simp] theorem setRing_comScrub (s : State) (r : Nat) (x : Ring) : (setRing s r x).comScrub = s.comScrub := rfl
@[simp] theorem setRing_flash (s : State) (r : Nat) (x : Ring) : (setRing s r x).flash = s.flash := rfl
@[simp] theorem setRing_flashSize (s : State) (r : Nat) (x : Ring) : (setRing s r x).flashSize = s.flashSize := rfl
@[simp] theorem setRing_flashOk (s : State) (r : Nat) (x : Ring) : (setRing s r x).flashOk = s.flashOk := rfl
@[simp] theorem setRing_booth (s : State) (r : Nat) (x : Ring) : (setRing s r x).booth = s.booth := rfl
@[simp] theorem setRing_cars (s : State) (r : Nat) (x : Ring) : (setRing s r x).cars = s.cars := rfl
@[simp] theorem setRing_ctxs (s : State) (r : Nat) (x : Ring) : (setRing s r x).ctxs = s.ctxs := rfl
@[simp] theorem setRing_jobs (s : State) (r : Nat) (x : Ring) : (setRing s r x).jobs = s.jobs := rfl
@[simp] theorem setRing_bulkSlots (s : State) (r : Nat) (x : Ring) : (setRing s r x).bulkSlots = s.bulkSlots := rfl
@[simp] theorem setRing_bulkTurn (s : State) (r : Nat) (x : Ring) : (setRing s r x).bulkTurn = s.bulkTurn := rfl
@[simp] theorem setRing_bulkBurst (s : State) (r : Nat) (x : Ring) : (setRing s r x).bulkBurst = s.bulkBurst := rfl
@[simp] theorem setRing_sensors (s : State) (r : Nat) (x : Ring) : (setRing s r x).sensors = s.sensors := rfl
@[simp] theorem setRing_tiles (s : State) (r : Nat) (x : Ring) : (setRing s r x).tiles = s.tiles := rfl
@[simp] theorem setRing_pcs (s : State) (r : Nat) (x : Ring) : (setRing s r x).pcs = s.pcs := rfl
@[simp] theorem setRing_ingress (s : State) (r : Nat) (x : Ring) : (setRing s r x).ingress = s.ingress := rfl
@[simp] theorem setRing_hbmWait (s : State) (r : Nat) (x : Ring) : (setRing s r x).hbmWait = s.hbmWait := rfl
@[simp] theorem setRing_hbmGrant (s : State) (r : Nat) (x : Ring) : (setRing s r x).hbmGrant = s.hbmGrant := rfl
@[simp] theorem setRing_hbmOut (s : State) (r : Nat) (x : Ring) : (setRing s r x).hbmOut = s.hbmOut := rfl
@[simp] theorem setRing_phys (s : State) (r : Nat) (x : Ring) : (setRing s r x).phys = s.phys := rfl
@[simp] theorem setRing_hbmHold (s : State) (r : Nat) (x : Ring) : (setRing s r x).hbmHold = s.hbmHold := rfl
@[simp] theorem setRing_pools (s : State) (r : Nat) (x : Ring) : (setRing s r x).pools = s.pools := rfl
@[simp] theorem setRing_grnRes (s : State) (r : Nat) (x : Ring) : (setRing s r x).grnRes = s.grnRes := rfl
@[simp] theorem setRing_fifos (s : State) (r : Nat) (x : Ring) : (setRing s r x).fifos = s.fifos := rfl
@[simp] theorem setRing_dmas (s : State) (r : Nat) (x : Ring) : (setRing s r x).dmas = s.dmas := rfl
@[simp] theorem setRing_timers (s : State) (r : Nat) (x : Ring) : (setRing s r x).timers = s.timers := rfl
@[simp] theorem setRing_crcs (s : State) (r : Nat) (x : Ring) : (setRing s r x).crcs = s.crcs := rfl
@[simp] theorem setRing_queues (s : State) (r : Nat) (x : Ring) : (setRing s r x).queues = s.queues := rfl
@[simp] theorem setRing_flows (s : State) (r : Nat) (x : Ring) : (setRing s r x).flows = s.flows := rfl
@[simp] theorem setRing_svcs (s : State) (r : Nat) (x : Ring) : (setRing s r x).svcs = s.svcs := rfl
@[simp] theorem setRing_eports (s : State) (r : Nat) (x : Ring) : (setRing s r x).eports = s.eports := rfl
@[simp] theorem setRing_rings (s : State) (r : Nat) (x : Ring) : (setRing s r x).rings = nset s.rings r x := rfl
@[simp] theorem setRing_eths (s : State) (r : Nat) (x : Ring) : (setRing s r x).eths = s.eths := rfl
@[simp] theorem setRing_bursts (s : State) (r : Nat) (x : Ring) : (setRing s r x).bursts = s.bursts := rfl
@[simp] theorem setRing_sfs (s : State) (r : Nat) (x : Ring) : (setRing s r x).sfs = s.sfs := rfl
@[simp] theorem setRing_casc (s : State) (r : Nat) (x : Ring) : (setRing s r x).casc = s.casc := rfl
@[simp] theorem setRing_isl (s : State) (r : Nat) (x : Ring) : (setRing s r x).isl = s.isl := rfl
@[simp] theorem setRing_boot (s : State) (r : Nat) (x : Ring) : (setRing s r x).boot = s.boot := rfl
@[simp] theorem setRing_fuses (s : State) (r : Nat) (x : Ring) : (setRing s r x).fuses = s.fuses := rfl
@[simp] theorem setRing_straps (s : State) (r : Nat) (x : Ring) : (setRing s r x).straps = s.straps := rfl
@[simp] theorem setRing_pwr (s : State) (r : Nat) (x : Ring) : (setRing s r x).pwr = s.pwr := rfl
@[simp] theorem setRing_rst (s : State) (r : Nat) (x : Ring) : (setRing s r x).rst = s.rst := rfl
@[simp] theorem setRing_clk (s : State) (r : Nat) (x : Ring) : (setRing s r x).clk = s.clk := rfl
@[simp] theorem setRing_flt (s : State) (r : Nat) (x : Ring) : (setRing s r x).flt = s.flt := rfl
@[simp] theorem setRing_crier (s : State) (r : Nat) (x : Ring) : (setRing s r x).crier = s.crier := rfl
@[simp] theorem setRing_takeRes (s : State) (r : Nat) (x : Ring) : (setRing s r x).takeRes = s.takeRes := rfl
@[simp] theorem setRing_smps (s : State) (r : Nat) (x : Ring) : (setRing s r x).smps = s.smps := rfl
@[simp] theorem setRing_jtag (s : State) (r : Nat) (x : Ring) : (setRing s r x).jtag = s.jtag := rfl

/-! ## setEth -/

@[simp] theorem setEth_pending (s : State) (p : Nat) (x : Eth) : (setEth s p x).pending = s.pending := rfl
@[simp] theorem setEth_freeCtr (s : State) (p : Nat) (x : Eth) : (setEth s p x).freeCtr = s.freeCtr := rfl
@[simp] theorem setEth_out (s : State) (p : Nat) (x : Eth) : (setEth s p x).out = s.out := rfl
@[simp] theorem setEth_emitted (s : State) (p : Nat) (x : Eth) : (setEth s p x).emitted = s.emitted := rfl
@[simp] theorem setEth_dt (s : State) (p : Nat) (x : Eth) : (setEth s p x).dt = s.dt := rfl
@[simp] theorem setEth_dtRem (s : State) (p : Nat) (x : Eth) : (setEth s p x).dtRem = s.dtRem := rfl
@[simp] theorem setEth_tick (s : State) (p : Nat) (x : Eth) : (setEth s p x).tick = s.tick := rfl
@[simp] theorem setEth_nextId (s : State) (p : Nat) (x : Eth) : (setEth s p x).nextId = s.nextId := rfl
@[simp] theorem setEth_hdrs (s : State) (p : Nat) (x : Eth) : (setEth s p x).hdrs = s.hdrs := rfl
@[simp] theorem setEth_regs (s : State) (p : Nat) (x : Eth) : (setEth s p x).regs = s.regs := rfl
@[simp] theorem setEth_shadow (s : State) (p : Nat) (x : Eth) : (setEth s p x).shadow = s.shadow := rfl
@[simp] theorem setEth_snaps (s : State) (p : Nat) (x : Eth) : (setEth s p x).snaps = s.snaps := rfl
@[simp] theorem setEth_latches (s : State) (p : Nat) (x : Eth) : (setEth s p x).latches = s.latches := rfl
@[simp] theorem setEth_loHeld (s : State) (p : Nat) (x : Eth) : (setEth s p x).loHeld = s.loHeld := rfl
@[simp] theorem setEth_schedRec (s : State) (p : Nat) (x : Eth) : (setEth s p x).schedRec = s.schedRec := rfl
@[simp] theorem setEth_msix (s : State) (p : Nat) (x : Eth) : (setEth s p x).msix = s.msix := rfl
@[simp] theorem setEth_arbs (s : State) (p : Nat) (x : Eth) : (setEth s p x).arbs = s.arbs := rfl
@[simp] theorem setEth_taps (s : State) (p : Nat) (x : Eth) : (setEth s p x).taps = s.taps := rfl
@[simp] theorem setEth_unitTaps (s : State) (p : Nat) (x : Eth) : (setEth s p x).unitTaps = s.unitTaps := rfl
@[simp] theorem setEth_slotCtx (s : State) (p : Nat) (x : Eth) : (setEth s p x).slotCtx = s.slotCtx := rfl
@[simp] theorem setEth_slotRecs (s : State) (p : Nat) (x : Eth) : (setEth s p x).slotRecs = s.slotRecs := rfl
@[simp] theorem setEth_hostMem (s : State) (p : Nat) (x : Eth) : (setEth s p x).hostMem = s.hostMem := rfl
@[simp] theorem setEth_hostErr (s : State) (p : Nat) (x : Eth) : (setEth s p x).hostErr = s.hostErr := rfl
@[simp] theorem setEth_hostPoison (s : State) (p : Nat) (x : Eth) : (setEth s p x).hostPoison = s.hostPoison := rfl
@[simp] theorem setEth_hbm (s : State) (p : Nat) (x : Eth) : (setEth s p x).hbm = s.hbm := rfl
@[simp] theorem setEth_hbmPoison (s : State) (p : Nat) (x : Eth) : (setEth s p x).hbmPoison = s.hbmPoison := rfl
@[simp] theorem setEth_commons (s : State) (p : Nat) (x : Eth) : (setEth s p x).commons = s.commons := rfl
@[simp] theorem setEth_comPoison (s : State) (p : Nat) (x : Eth) : (setEth s p x).comPoison = s.comPoison := rfl
@[simp] theorem setEth_comScrub (s : State) (p : Nat) (x : Eth) : (setEth s p x).comScrub = s.comScrub := rfl
@[simp] theorem setEth_flash (s : State) (p : Nat) (x : Eth) : (setEth s p x).flash = s.flash := rfl
@[simp] theorem setEth_flashSize (s : State) (p : Nat) (x : Eth) : (setEth s p x).flashSize = s.flashSize := rfl
@[simp] theorem setEth_flashOk (s : State) (p : Nat) (x : Eth) : (setEth s p x).flashOk = s.flashOk := rfl
@[simp] theorem setEth_booth (s : State) (p : Nat) (x : Eth) : (setEth s p x).booth = s.booth := rfl
@[simp] theorem setEth_cars (s : State) (p : Nat) (x : Eth) : (setEth s p x).cars = s.cars := rfl
@[simp] theorem setEth_ctxs (s : State) (p : Nat) (x : Eth) : (setEth s p x).ctxs = s.ctxs := rfl
@[simp] theorem setEth_jobs (s : State) (p : Nat) (x : Eth) : (setEth s p x).jobs = s.jobs := rfl
@[simp] theorem setEth_bulkSlots (s : State) (p : Nat) (x : Eth) : (setEth s p x).bulkSlots = s.bulkSlots := rfl
@[simp] theorem setEth_bulkTurn (s : State) (p : Nat) (x : Eth) : (setEth s p x).bulkTurn = s.bulkTurn := rfl
@[simp] theorem setEth_bulkBurst (s : State) (p : Nat) (x : Eth) : (setEth s p x).bulkBurst = s.bulkBurst := rfl
@[simp] theorem setEth_sensors (s : State) (p : Nat) (x : Eth) : (setEth s p x).sensors = s.sensors := rfl
@[simp] theorem setEth_tiles (s : State) (p : Nat) (x : Eth) : (setEth s p x).tiles = s.tiles := rfl
@[simp] theorem setEth_pcs (s : State) (p : Nat) (x : Eth) : (setEth s p x).pcs = s.pcs := rfl
@[simp] theorem setEth_ingress (s : State) (p : Nat) (x : Eth) : (setEth s p x).ingress = s.ingress := rfl
@[simp] theorem setEth_hbmWait (s : State) (p : Nat) (x : Eth) : (setEth s p x).hbmWait = s.hbmWait := rfl
@[simp] theorem setEth_hbmGrant (s : State) (p : Nat) (x : Eth) : (setEth s p x).hbmGrant = s.hbmGrant := rfl
@[simp] theorem setEth_hbmOut (s : State) (p : Nat) (x : Eth) : (setEth s p x).hbmOut = s.hbmOut := rfl
@[simp] theorem setEth_phys (s : State) (p : Nat) (x : Eth) : (setEth s p x).phys = s.phys := rfl
@[simp] theorem setEth_hbmHold (s : State) (p : Nat) (x : Eth) : (setEth s p x).hbmHold = s.hbmHold := rfl
@[simp] theorem setEth_pools (s : State) (p : Nat) (x : Eth) : (setEth s p x).pools = s.pools := rfl
@[simp] theorem setEth_grnRes (s : State) (p : Nat) (x : Eth) : (setEth s p x).grnRes = s.grnRes := rfl
@[simp] theorem setEth_fifos (s : State) (p : Nat) (x : Eth) : (setEth s p x).fifos = s.fifos := rfl
@[simp] theorem setEth_dmas (s : State) (p : Nat) (x : Eth) : (setEth s p x).dmas = s.dmas := rfl
@[simp] theorem setEth_timers (s : State) (p : Nat) (x : Eth) : (setEth s p x).timers = s.timers := rfl
@[simp] theorem setEth_crcs (s : State) (p : Nat) (x : Eth) : (setEth s p x).crcs = s.crcs := rfl
@[simp] theorem setEth_queues (s : State) (p : Nat) (x : Eth) : (setEth s p x).queues = s.queues := rfl
@[simp] theorem setEth_flows (s : State) (p : Nat) (x : Eth) : (setEth s p x).flows = s.flows := rfl
@[simp] theorem setEth_svcs (s : State) (p : Nat) (x : Eth) : (setEth s p x).svcs = s.svcs := rfl
@[simp] theorem setEth_eports (s : State) (p : Nat) (x : Eth) : (setEth s p x).eports = s.eports := rfl
@[simp] theorem setEth_rings (s : State) (p : Nat) (x : Eth) : (setEth s p x).rings = s.rings := rfl
@[simp] theorem setEth_eths (s : State) (p : Nat) (x : Eth) : (setEth s p x).eths = nset s.eths p x := rfl
@[simp] theorem setEth_bursts (s : State) (p : Nat) (x : Eth) : (setEth s p x).bursts = s.bursts := rfl
@[simp] theorem setEth_sfs (s : State) (p : Nat) (x : Eth) : (setEth s p x).sfs = s.sfs := rfl
@[simp] theorem setEth_casc (s : State) (p : Nat) (x : Eth) : (setEth s p x).casc = s.casc := rfl
@[simp] theorem setEth_isl (s : State) (p : Nat) (x : Eth) : (setEth s p x).isl = s.isl := rfl
@[simp] theorem setEth_boot (s : State) (p : Nat) (x : Eth) : (setEth s p x).boot = s.boot := rfl
@[simp] theorem setEth_fuses (s : State) (p : Nat) (x : Eth) : (setEth s p x).fuses = s.fuses := rfl
@[simp] theorem setEth_straps (s : State) (p : Nat) (x : Eth) : (setEth s p x).straps = s.straps := rfl
@[simp] theorem setEth_pwr (s : State) (p : Nat) (x : Eth) : (setEth s p x).pwr = s.pwr := rfl
@[simp] theorem setEth_rst (s : State) (p : Nat) (x : Eth) : (setEth s p x).rst = s.rst := rfl
@[simp] theorem setEth_clk (s : State) (p : Nat) (x : Eth) : (setEth s p x).clk = s.clk := rfl
@[simp] theorem setEth_flt (s : State) (p : Nat) (x : Eth) : (setEth s p x).flt = s.flt := rfl
@[simp] theorem setEth_crier (s : State) (p : Nat) (x : Eth) : (setEth s p x).crier = s.crier := rfl
@[simp] theorem setEth_takeRes (s : State) (p : Nat) (x : Eth) : (setEth s p x).takeRes = s.takeRes := rfl
@[simp] theorem setEth_smps (s : State) (p : Nat) (x : Eth) : (setEth s p x).smps = s.smps := rfl
@[simp] theorem setEth_jtag (s : State) (p : Nat) (x : Eth) : (setEth s p x).jtag = s.jtag := rfl

/-! ## setSf -/

@[simp] theorem setSf_pending (s : State) (p : Nat) (x : SfPort) : (setSf s p x).pending = s.pending := rfl
@[simp] theorem setSf_freeCtr (s : State) (p : Nat) (x : SfPort) : (setSf s p x).freeCtr = s.freeCtr := rfl
@[simp] theorem setSf_out (s : State) (p : Nat) (x : SfPort) : (setSf s p x).out = s.out := rfl
@[simp] theorem setSf_emitted (s : State) (p : Nat) (x : SfPort) : (setSf s p x).emitted = s.emitted := rfl
@[simp] theorem setSf_dt (s : State) (p : Nat) (x : SfPort) : (setSf s p x).dt = s.dt := rfl
@[simp] theorem setSf_dtRem (s : State) (p : Nat) (x : SfPort) : (setSf s p x).dtRem = s.dtRem := rfl
@[simp] theorem setSf_tick (s : State) (p : Nat) (x : SfPort) : (setSf s p x).tick = s.tick := rfl
@[simp] theorem setSf_nextId (s : State) (p : Nat) (x : SfPort) : (setSf s p x).nextId = s.nextId := rfl
@[simp] theorem setSf_hdrs (s : State) (p : Nat) (x : SfPort) : (setSf s p x).hdrs = s.hdrs := rfl
@[simp] theorem setSf_regs (s : State) (p : Nat) (x : SfPort) : (setSf s p x).regs = s.regs := rfl
@[simp] theorem setSf_shadow (s : State) (p : Nat) (x : SfPort) : (setSf s p x).shadow = s.shadow := rfl
@[simp] theorem setSf_snaps (s : State) (p : Nat) (x : SfPort) : (setSf s p x).snaps = s.snaps := rfl
@[simp] theorem setSf_latches (s : State) (p : Nat) (x : SfPort) : (setSf s p x).latches = s.latches := rfl
@[simp] theorem setSf_loHeld (s : State) (p : Nat) (x : SfPort) : (setSf s p x).loHeld = s.loHeld := rfl
@[simp] theorem setSf_schedRec (s : State) (p : Nat) (x : SfPort) : (setSf s p x).schedRec = s.schedRec := rfl
@[simp] theorem setSf_msix (s : State) (p : Nat) (x : SfPort) : (setSf s p x).msix = s.msix := rfl
@[simp] theorem setSf_arbs (s : State) (p : Nat) (x : SfPort) : (setSf s p x).arbs = s.arbs := rfl
@[simp] theorem setSf_taps (s : State) (p : Nat) (x : SfPort) : (setSf s p x).taps = s.taps := rfl
@[simp] theorem setSf_unitTaps (s : State) (p : Nat) (x : SfPort) : (setSf s p x).unitTaps = s.unitTaps := rfl
@[simp] theorem setSf_slotCtx (s : State) (p : Nat) (x : SfPort) : (setSf s p x).slotCtx = s.slotCtx := rfl
@[simp] theorem setSf_slotRecs (s : State) (p : Nat) (x : SfPort) : (setSf s p x).slotRecs = s.slotRecs := rfl
@[simp] theorem setSf_hostMem (s : State) (p : Nat) (x : SfPort) : (setSf s p x).hostMem = s.hostMem := rfl
@[simp] theorem setSf_hostErr (s : State) (p : Nat) (x : SfPort) : (setSf s p x).hostErr = s.hostErr := rfl
@[simp] theorem setSf_hostPoison (s : State) (p : Nat) (x : SfPort) : (setSf s p x).hostPoison = s.hostPoison := rfl
@[simp] theorem setSf_hbm (s : State) (p : Nat) (x : SfPort) : (setSf s p x).hbm = s.hbm := rfl
@[simp] theorem setSf_hbmPoison (s : State) (p : Nat) (x : SfPort) : (setSf s p x).hbmPoison = s.hbmPoison := rfl
@[simp] theorem setSf_commons (s : State) (p : Nat) (x : SfPort) : (setSf s p x).commons = s.commons := rfl
@[simp] theorem setSf_comPoison (s : State) (p : Nat) (x : SfPort) : (setSf s p x).comPoison = s.comPoison := rfl
@[simp] theorem setSf_comScrub (s : State) (p : Nat) (x : SfPort) : (setSf s p x).comScrub = s.comScrub := rfl
@[simp] theorem setSf_flash (s : State) (p : Nat) (x : SfPort) : (setSf s p x).flash = s.flash := rfl
@[simp] theorem setSf_flashSize (s : State) (p : Nat) (x : SfPort) : (setSf s p x).flashSize = s.flashSize := rfl
@[simp] theorem setSf_flashOk (s : State) (p : Nat) (x : SfPort) : (setSf s p x).flashOk = s.flashOk := rfl
@[simp] theorem setSf_booth (s : State) (p : Nat) (x : SfPort) : (setSf s p x).booth = s.booth := rfl
@[simp] theorem setSf_cars (s : State) (p : Nat) (x : SfPort) : (setSf s p x).cars = s.cars := rfl
@[simp] theorem setSf_ctxs (s : State) (p : Nat) (x : SfPort) : (setSf s p x).ctxs = s.ctxs := rfl
@[simp] theorem setSf_jobs (s : State) (p : Nat) (x : SfPort) : (setSf s p x).jobs = s.jobs := rfl
@[simp] theorem setSf_bulkSlots (s : State) (p : Nat) (x : SfPort) : (setSf s p x).bulkSlots = s.bulkSlots := rfl
@[simp] theorem setSf_bulkTurn (s : State) (p : Nat) (x : SfPort) : (setSf s p x).bulkTurn = s.bulkTurn := rfl
@[simp] theorem setSf_bulkBurst (s : State) (p : Nat) (x : SfPort) : (setSf s p x).bulkBurst = s.bulkBurst := rfl
@[simp] theorem setSf_sensors (s : State) (p : Nat) (x : SfPort) : (setSf s p x).sensors = s.sensors := rfl
@[simp] theorem setSf_tiles (s : State) (p : Nat) (x : SfPort) : (setSf s p x).tiles = s.tiles := rfl
@[simp] theorem setSf_pcs (s : State) (p : Nat) (x : SfPort) : (setSf s p x).pcs = s.pcs := rfl
@[simp] theorem setSf_ingress (s : State) (p : Nat) (x : SfPort) : (setSf s p x).ingress = s.ingress := rfl
@[simp] theorem setSf_hbmWait (s : State) (p : Nat) (x : SfPort) : (setSf s p x).hbmWait = s.hbmWait := rfl
@[simp] theorem setSf_hbmGrant (s : State) (p : Nat) (x : SfPort) : (setSf s p x).hbmGrant = s.hbmGrant := rfl
@[simp] theorem setSf_hbmOut (s : State) (p : Nat) (x : SfPort) : (setSf s p x).hbmOut = s.hbmOut := rfl
@[simp] theorem setSf_phys (s : State) (p : Nat) (x : SfPort) : (setSf s p x).phys = s.phys := rfl
@[simp] theorem setSf_hbmHold (s : State) (p : Nat) (x : SfPort) : (setSf s p x).hbmHold = s.hbmHold := rfl
@[simp] theorem setSf_pools (s : State) (p : Nat) (x : SfPort) : (setSf s p x).pools = s.pools := rfl
@[simp] theorem setSf_grnRes (s : State) (p : Nat) (x : SfPort) : (setSf s p x).grnRes = s.grnRes := rfl
@[simp] theorem setSf_fifos (s : State) (p : Nat) (x : SfPort) : (setSf s p x).fifos = s.fifos := rfl
@[simp] theorem setSf_dmas (s : State) (p : Nat) (x : SfPort) : (setSf s p x).dmas = s.dmas := rfl
@[simp] theorem setSf_timers (s : State) (p : Nat) (x : SfPort) : (setSf s p x).timers = s.timers := rfl
@[simp] theorem setSf_crcs (s : State) (p : Nat) (x : SfPort) : (setSf s p x).crcs = s.crcs := rfl
@[simp] theorem setSf_queues (s : State) (p : Nat) (x : SfPort) : (setSf s p x).queues = s.queues := rfl
@[simp] theorem setSf_flows (s : State) (p : Nat) (x : SfPort) : (setSf s p x).flows = s.flows := rfl
@[simp] theorem setSf_svcs (s : State) (p : Nat) (x : SfPort) : (setSf s p x).svcs = s.svcs := rfl
@[simp] theorem setSf_eports (s : State) (p : Nat) (x : SfPort) : (setSf s p x).eports = s.eports := rfl
@[simp] theorem setSf_rings (s : State) (p : Nat) (x : SfPort) : (setSf s p x).rings = s.rings := rfl
@[simp] theorem setSf_eths (s : State) (p : Nat) (x : SfPort) : (setSf s p x).eths = s.eths := rfl
@[simp] theorem setSf_bursts (s : State) (p : Nat) (x : SfPort) : (setSf s p x).bursts = s.bursts := rfl
@[simp] theorem setSf_sfs (s : State) (p : Nat) (x : SfPort) : (setSf s p x).sfs = nset s.sfs p x := rfl
@[simp] theorem setSf_casc (s : State) (p : Nat) (x : SfPort) : (setSf s p x).casc = s.casc := rfl
@[simp] theorem setSf_isl (s : State) (p : Nat) (x : SfPort) : (setSf s p x).isl = s.isl := rfl
@[simp] theorem setSf_boot (s : State) (p : Nat) (x : SfPort) : (setSf s p x).boot = s.boot := rfl
@[simp] theorem setSf_fuses (s : State) (p : Nat) (x : SfPort) : (setSf s p x).fuses = s.fuses := rfl
@[simp] theorem setSf_straps (s : State) (p : Nat) (x : SfPort) : (setSf s p x).straps = s.straps := rfl
@[simp] theorem setSf_pwr (s : State) (p : Nat) (x : SfPort) : (setSf s p x).pwr = s.pwr := rfl
@[simp] theorem setSf_rst (s : State) (p : Nat) (x : SfPort) : (setSf s p x).rst = s.rst := rfl
@[simp] theorem setSf_clk (s : State) (p : Nat) (x : SfPort) : (setSf s p x).clk = s.clk := rfl
@[simp] theorem setSf_flt (s : State) (p : Nat) (x : SfPort) : (setSf s p x).flt = s.flt := rfl
@[simp] theorem setSf_crier (s : State) (p : Nat) (x : SfPort) : (setSf s p x).crier = s.crier := rfl
@[simp] theorem setSf_takeRes (s : State) (p : Nat) (x : SfPort) : (setSf s p x).takeRes = s.takeRes := rfl
@[simp] theorem setSf_smps (s : State) (p : Nat) (x : SfPort) : (setSf s p x).smps = s.smps := rfl
@[simp] theorem setSf_jtag (s : State) (p : Nat) (x : SfPort) : (setSf s p x).jtag = s.jtag := rfl

/-! ## setSensor -/

@[simp] theorem setSensor_pending (s : State) (p : Nat) (x : Sensor) : (setSensor s p x).pending = s.pending := rfl
@[simp] theorem setSensor_freeCtr (s : State) (p : Nat) (x : Sensor) : (setSensor s p x).freeCtr = s.freeCtr := rfl
@[simp] theorem setSensor_out (s : State) (p : Nat) (x : Sensor) : (setSensor s p x).out = s.out := rfl
@[simp] theorem setSensor_emitted (s : State) (p : Nat) (x : Sensor) : (setSensor s p x).emitted = s.emitted := rfl
@[simp] theorem setSensor_dt (s : State) (p : Nat) (x : Sensor) : (setSensor s p x).dt = s.dt := rfl
@[simp] theorem setSensor_dtRem (s : State) (p : Nat) (x : Sensor) : (setSensor s p x).dtRem = s.dtRem := rfl
@[simp] theorem setSensor_tick (s : State) (p : Nat) (x : Sensor) : (setSensor s p x).tick = s.tick := rfl
@[simp] theorem setSensor_nextId (s : State) (p : Nat) (x : Sensor) : (setSensor s p x).nextId = s.nextId := rfl
@[simp] theorem setSensor_hdrs (s : State) (p : Nat) (x : Sensor) : (setSensor s p x).hdrs = s.hdrs := rfl
@[simp] theorem setSensor_regs (s : State) (p : Nat) (x : Sensor) : (setSensor s p x).regs = s.regs := rfl
@[simp] theorem setSensor_shadow (s : State) (p : Nat) (x : Sensor) : (setSensor s p x).shadow = s.shadow := rfl
@[simp] theorem setSensor_snaps (s : State) (p : Nat) (x : Sensor) : (setSensor s p x).snaps = s.snaps := rfl
@[simp] theorem setSensor_latches (s : State) (p : Nat) (x : Sensor) : (setSensor s p x).latches = s.latches := rfl
@[simp] theorem setSensor_loHeld (s : State) (p : Nat) (x : Sensor) : (setSensor s p x).loHeld = s.loHeld := rfl
@[simp] theorem setSensor_schedRec (s : State) (p : Nat) (x : Sensor) : (setSensor s p x).schedRec = s.schedRec := rfl
@[simp] theorem setSensor_msix (s : State) (p : Nat) (x : Sensor) : (setSensor s p x).msix = s.msix := rfl
@[simp] theorem setSensor_arbs (s : State) (p : Nat) (x : Sensor) : (setSensor s p x).arbs = s.arbs := rfl
@[simp] theorem setSensor_taps (s : State) (p : Nat) (x : Sensor) : (setSensor s p x).taps = s.taps := rfl
@[simp] theorem setSensor_unitTaps (s : State) (p : Nat) (x : Sensor) : (setSensor s p x).unitTaps = s.unitTaps := rfl
@[simp] theorem setSensor_slotCtx (s : State) (p : Nat) (x : Sensor) : (setSensor s p x).slotCtx = s.slotCtx := rfl
@[simp] theorem setSensor_slotRecs (s : State) (p : Nat) (x : Sensor) : (setSensor s p x).slotRecs = s.slotRecs := rfl
@[simp] theorem setSensor_hostMem (s : State) (p : Nat) (x : Sensor) : (setSensor s p x).hostMem = s.hostMem := rfl
@[simp] theorem setSensor_hostErr (s : State) (p : Nat) (x : Sensor) : (setSensor s p x).hostErr = s.hostErr := rfl
@[simp] theorem setSensor_hostPoison (s : State) (p : Nat) (x : Sensor) : (setSensor s p x).hostPoison = s.hostPoison := rfl
@[simp] theorem setSensor_hbm (s : State) (p : Nat) (x : Sensor) : (setSensor s p x).hbm = s.hbm := rfl
@[simp] theorem setSensor_hbmPoison (s : State) (p : Nat) (x : Sensor) : (setSensor s p x).hbmPoison = s.hbmPoison := rfl
@[simp] theorem setSensor_commons (s : State) (p : Nat) (x : Sensor) : (setSensor s p x).commons = s.commons := rfl
@[simp] theorem setSensor_comPoison (s : State) (p : Nat) (x : Sensor) : (setSensor s p x).comPoison = s.comPoison := rfl
@[simp] theorem setSensor_comScrub (s : State) (p : Nat) (x : Sensor) : (setSensor s p x).comScrub = s.comScrub := rfl
@[simp] theorem setSensor_flash (s : State) (p : Nat) (x : Sensor) : (setSensor s p x).flash = s.flash := rfl
@[simp] theorem setSensor_flashSize (s : State) (p : Nat) (x : Sensor) : (setSensor s p x).flashSize = s.flashSize := rfl
@[simp] theorem setSensor_flashOk (s : State) (p : Nat) (x : Sensor) : (setSensor s p x).flashOk = s.flashOk := rfl
@[simp] theorem setSensor_booth (s : State) (p : Nat) (x : Sensor) : (setSensor s p x).booth = s.booth := rfl
@[simp] theorem setSensor_cars (s : State) (p : Nat) (x : Sensor) : (setSensor s p x).cars = s.cars := rfl
@[simp] theorem setSensor_ctxs (s : State) (p : Nat) (x : Sensor) : (setSensor s p x).ctxs = s.ctxs := rfl
@[simp] theorem setSensor_jobs (s : State) (p : Nat) (x : Sensor) : (setSensor s p x).jobs = s.jobs := rfl
@[simp] theorem setSensor_bulkSlots (s : State) (p : Nat) (x : Sensor) : (setSensor s p x).bulkSlots = s.bulkSlots := rfl
@[simp] theorem setSensor_bulkTurn (s : State) (p : Nat) (x : Sensor) : (setSensor s p x).bulkTurn = s.bulkTurn := rfl
@[simp] theorem setSensor_bulkBurst (s : State) (p : Nat) (x : Sensor) : (setSensor s p x).bulkBurst = s.bulkBurst := rfl
@[simp] theorem setSensor_sensors (s : State) (p : Nat) (x : Sensor) : (setSensor s p x).sensors = nset s.sensors p x := rfl
@[simp] theorem setSensor_tiles (s : State) (p : Nat) (x : Sensor) : (setSensor s p x).tiles = s.tiles := rfl
@[simp] theorem setSensor_pcs (s : State) (p : Nat) (x : Sensor) : (setSensor s p x).pcs = s.pcs := rfl
@[simp] theorem setSensor_ingress (s : State) (p : Nat) (x : Sensor) : (setSensor s p x).ingress = s.ingress := rfl
@[simp] theorem setSensor_hbmWait (s : State) (p : Nat) (x : Sensor) : (setSensor s p x).hbmWait = s.hbmWait := rfl
@[simp] theorem setSensor_hbmGrant (s : State) (p : Nat) (x : Sensor) : (setSensor s p x).hbmGrant = s.hbmGrant := rfl
@[simp] theorem setSensor_hbmOut (s : State) (p : Nat) (x : Sensor) : (setSensor s p x).hbmOut = s.hbmOut := rfl
@[simp] theorem setSensor_phys (s : State) (p : Nat) (x : Sensor) : (setSensor s p x).phys = s.phys := rfl
@[simp] theorem setSensor_hbmHold (s : State) (p : Nat) (x : Sensor) : (setSensor s p x).hbmHold = s.hbmHold := rfl
@[simp] theorem setSensor_pools (s : State) (p : Nat) (x : Sensor) : (setSensor s p x).pools = s.pools := rfl
@[simp] theorem setSensor_grnRes (s : State) (p : Nat) (x : Sensor) : (setSensor s p x).grnRes = s.grnRes := rfl
@[simp] theorem setSensor_fifos (s : State) (p : Nat) (x : Sensor) : (setSensor s p x).fifos = s.fifos := rfl
@[simp] theorem setSensor_dmas (s : State) (p : Nat) (x : Sensor) : (setSensor s p x).dmas = s.dmas := rfl
@[simp] theorem setSensor_timers (s : State) (p : Nat) (x : Sensor) : (setSensor s p x).timers = s.timers := rfl
@[simp] theorem setSensor_crcs (s : State) (p : Nat) (x : Sensor) : (setSensor s p x).crcs = s.crcs := rfl
@[simp] theorem setSensor_queues (s : State) (p : Nat) (x : Sensor) : (setSensor s p x).queues = s.queues := rfl
@[simp] theorem setSensor_flows (s : State) (p : Nat) (x : Sensor) : (setSensor s p x).flows = s.flows := rfl
@[simp] theorem setSensor_svcs (s : State) (p : Nat) (x : Sensor) : (setSensor s p x).svcs = s.svcs := rfl
@[simp] theorem setSensor_eports (s : State) (p : Nat) (x : Sensor) : (setSensor s p x).eports = s.eports := rfl
@[simp] theorem setSensor_rings (s : State) (p : Nat) (x : Sensor) : (setSensor s p x).rings = s.rings := rfl
@[simp] theorem setSensor_eths (s : State) (p : Nat) (x : Sensor) : (setSensor s p x).eths = s.eths := rfl
@[simp] theorem setSensor_bursts (s : State) (p : Nat) (x : Sensor) : (setSensor s p x).bursts = s.bursts := rfl
@[simp] theorem setSensor_sfs (s : State) (p : Nat) (x : Sensor) : (setSensor s p x).sfs = s.sfs := rfl
@[simp] theorem setSensor_casc (s : State) (p : Nat) (x : Sensor) : (setSensor s p x).casc = s.casc := rfl
@[simp] theorem setSensor_isl (s : State) (p : Nat) (x : Sensor) : (setSensor s p x).isl = s.isl := rfl
@[simp] theorem setSensor_boot (s : State) (p : Nat) (x : Sensor) : (setSensor s p x).boot = s.boot := rfl
@[simp] theorem setSensor_fuses (s : State) (p : Nat) (x : Sensor) : (setSensor s p x).fuses = s.fuses := rfl
@[simp] theorem setSensor_straps (s : State) (p : Nat) (x : Sensor) : (setSensor s p x).straps = s.straps := rfl
@[simp] theorem setSensor_pwr (s : State) (p : Nat) (x : Sensor) : (setSensor s p x).pwr = s.pwr := rfl
@[simp] theorem setSensor_rst (s : State) (p : Nat) (x : Sensor) : (setSensor s p x).rst = s.rst := rfl
@[simp] theorem setSensor_clk (s : State) (p : Nat) (x : Sensor) : (setSensor s p x).clk = s.clk := rfl
@[simp] theorem setSensor_flt (s : State) (p : Nat) (x : Sensor) : (setSensor s p x).flt = s.flt := rfl
@[simp] theorem setSensor_crier (s : State) (p : Nat) (x : Sensor) : (setSensor s p x).crier = s.crier := rfl
@[simp] theorem setSensor_takeRes (s : State) (p : Nat) (x : Sensor) : (setSensor s p x).takeRes = s.takeRes := rfl
@[simp] theorem setSensor_smps (s : State) (p : Nat) (x : Sensor) : (setSensor s p x).smps = s.smps := rfl
@[simp] theorem setSensor_jtag (s : State) (p : Nat) (x : Sensor) : (setSensor s p x).jtag = s.jtag := rfl

/-! ## setCar -/

@[simp] theorem setCar_pending (s : State) (l : Nat) (x : Car) : (setCar s l x).pending = s.pending := rfl
@[simp] theorem setCar_freeCtr (s : State) (l : Nat) (x : Car) : (setCar s l x).freeCtr = s.freeCtr := rfl
@[simp] theorem setCar_out (s : State) (l : Nat) (x : Car) : (setCar s l x).out = s.out := rfl
@[simp] theorem setCar_emitted (s : State) (l : Nat) (x : Car) : (setCar s l x).emitted = s.emitted := rfl
@[simp] theorem setCar_dt (s : State) (l : Nat) (x : Car) : (setCar s l x).dt = s.dt := rfl
@[simp] theorem setCar_dtRem (s : State) (l : Nat) (x : Car) : (setCar s l x).dtRem = s.dtRem := rfl
@[simp] theorem setCar_tick (s : State) (l : Nat) (x : Car) : (setCar s l x).tick = s.tick := rfl
@[simp] theorem setCar_nextId (s : State) (l : Nat) (x : Car) : (setCar s l x).nextId = s.nextId := rfl
@[simp] theorem setCar_hdrs (s : State) (l : Nat) (x : Car) : (setCar s l x).hdrs = s.hdrs := rfl
@[simp] theorem setCar_regs (s : State) (l : Nat) (x : Car) : (setCar s l x).regs = s.regs := rfl
@[simp] theorem setCar_shadow (s : State) (l : Nat) (x : Car) : (setCar s l x).shadow = s.shadow := rfl
@[simp] theorem setCar_snaps (s : State) (l : Nat) (x : Car) : (setCar s l x).snaps = s.snaps := rfl
@[simp] theorem setCar_latches (s : State) (l : Nat) (x : Car) : (setCar s l x).latches = s.latches := rfl
@[simp] theorem setCar_loHeld (s : State) (l : Nat) (x : Car) : (setCar s l x).loHeld = s.loHeld := rfl
@[simp] theorem setCar_schedRec (s : State) (l : Nat) (x : Car) : (setCar s l x).schedRec = s.schedRec := rfl
@[simp] theorem setCar_msix (s : State) (l : Nat) (x : Car) : (setCar s l x).msix = s.msix := rfl
@[simp] theorem setCar_arbs (s : State) (l : Nat) (x : Car) : (setCar s l x).arbs = s.arbs := rfl
@[simp] theorem setCar_taps (s : State) (l : Nat) (x : Car) : (setCar s l x).taps = s.taps := rfl
@[simp] theorem setCar_unitTaps (s : State) (l : Nat) (x : Car) : (setCar s l x).unitTaps = s.unitTaps := rfl
@[simp] theorem setCar_slotCtx (s : State) (l : Nat) (x : Car) : (setCar s l x).slotCtx = s.slotCtx := rfl
@[simp] theorem setCar_slotRecs (s : State) (l : Nat) (x : Car) : (setCar s l x).slotRecs = s.slotRecs := rfl
@[simp] theorem setCar_hostMem (s : State) (l : Nat) (x : Car) : (setCar s l x).hostMem = s.hostMem := rfl
@[simp] theorem setCar_hostErr (s : State) (l : Nat) (x : Car) : (setCar s l x).hostErr = s.hostErr := rfl
@[simp] theorem setCar_hostPoison (s : State) (l : Nat) (x : Car) : (setCar s l x).hostPoison = s.hostPoison := rfl
@[simp] theorem setCar_hbm (s : State) (l : Nat) (x : Car) : (setCar s l x).hbm = s.hbm := rfl
@[simp] theorem setCar_hbmPoison (s : State) (l : Nat) (x : Car) : (setCar s l x).hbmPoison = s.hbmPoison := rfl
@[simp] theorem setCar_commons (s : State) (l : Nat) (x : Car) : (setCar s l x).commons = s.commons := rfl
@[simp] theorem setCar_comPoison (s : State) (l : Nat) (x : Car) : (setCar s l x).comPoison = s.comPoison := rfl
@[simp] theorem setCar_comScrub (s : State) (l : Nat) (x : Car) : (setCar s l x).comScrub = s.comScrub := rfl
@[simp] theorem setCar_flash (s : State) (l : Nat) (x : Car) : (setCar s l x).flash = s.flash := rfl
@[simp] theorem setCar_flashSize (s : State) (l : Nat) (x : Car) : (setCar s l x).flashSize = s.flashSize := rfl
@[simp] theorem setCar_flashOk (s : State) (l : Nat) (x : Car) : (setCar s l x).flashOk = s.flashOk := rfl
@[simp] theorem setCar_booth (s : State) (l : Nat) (x : Car) : (setCar s l x).booth = s.booth := rfl
@[simp] theorem setCar_cars (s : State) (l : Nat) (x : Car) : (setCar s l x).cars = nset s.cars l x := rfl
@[simp] theorem setCar_ctxs (s : State) (l : Nat) (x : Car) : (setCar s l x).ctxs = s.ctxs := rfl
@[simp] theorem setCar_jobs (s : State) (l : Nat) (x : Car) : (setCar s l x).jobs = s.jobs := rfl
@[simp] theorem setCar_bulkSlots (s : State) (l : Nat) (x : Car) : (setCar s l x).bulkSlots = s.bulkSlots := rfl
@[simp] theorem setCar_bulkTurn (s : State) (l : Nat) (x : Car) : (setCar s l x).bulkTurn = s.bulkTurn := rfl
@[simp] theorem setCar_bulkBurst (s : State) (l : Nat) (x : Car) : (setCar s l x).bulkBurst = s.bulkBurst := rfl
@[simp] theorem setCar_sensors (s : State) (l : Nat) (x : Car) : (setCar s l x).sensors = s.sensors := rfl
@[simp] theorem setCar_tiles (s : State) (l : Nat) (x : Car) : (setCar s l x).tiles = s.tiles := rfl
@[simp] theorem setCar_pcs (s : State) (l : Nat) (x : Car) : (setCar s l x).pcs = s.pcs := rfl
@[simp] theorem setCar_ingress (s : State) (l : Nat) (x : Car) : (setCar s l x).ingress = s.ingress := rfl
@[simp] theorem setCar_hbmWait (s : State) (l : Nat) (x : Car) : (setCar s l x).hbmWait = s.hbmWait := rfl
@[simp] theorem setCar_hbmGrant (s : State) (l : Nat) (x : Car) : (setCar s l x).hbmGrant = s.hbmGrant := rfl
@[simp] theorem setCar_hbmOut (s : State) (l : Nat) (x : Car) : (setCar s l x).hbmOut = s.hbmOut := rfl
@[simp] theorem setCar_phys (s : State) (l : Nat) (x : Car) : (setCar s l x).phys = s.phys := rfl
@[simp] theorem setCar_hbmHold (s : State) (l : Nat) (x : Car) : (setCar s l x).hbmHold = s.hbmHold := rfl
@[simp] theorem setCar_pools (s : State) (l : Nat) (x : Car) : (setCar s l x).pools = s.pools := rfl
@[simp] theorem setCar_grnRes (s : State) (l : Nat) (x : Car) : (setCar s l x).grnRes = s.grnRes := rfl
@[simp] theorem setCar_fifos (s : State) (l : Nat) (x : Car) : (setCar s l x).fifos = s.fifos := rfl
@[simp] theorem setCar_dmas (s : State) (l : Nat) (x : Car) : (setCar s l x).dmas = s.dmas := rfl
@[simp] theorem setCar_timers (s : State) (l : Nat) (x : Car) : (setCar s l x).timers = s.timers := rfl
@[simp] theorem setCar_crcs (s : State) (l : Nat) (x : Car) : (setCar s l x).crcs = s.crcs := rfl
@[simp] theorem setCar_queues (s : State) (l : Nat) (x : Car) : (setCar s l x).queues = s.queues := rfl
@[simp] theorem setCar_flows (s : State) (l : Nat) (x : Car) : (setCar s l x).flows = s.flows := rfl
@[simp] theorem setCar_svcs (s : State) (l : Nat) (x : Car) : (setCar s l x).svcs = s.svcs := rfl
@[simp] theorem setCar_eports (s : State) (l : Nat) (x : Car) : (setCar s l x).eports = s.eports := rfl
@[simp] theorem setCar_rings (s : State) (l : Nat) (x : Car) : (setCar s l x).rings = s.rings := rfl
@[simp] theorem setCar_eths (s : State) (l : Nat) (x : Car) : (setCar s l x).eths = s.eths := rfl
@[simp] theorem setCar_bursts (s : State) (l : Nat) (x : Car) : (setCar s l x).bursts = s.bursts := rfl
@[simp] theorem setCar_sfs (s : State) (l : Nat) (x : Car) : (setCar s l x).sfs = s.sfs := rfl
@[simp] theorem setCar_casc (s : State) (l : Nat) (x : Car) : (setCar s l x).casc = s.casc := rfl
@[simp] theorem setCar_isl (s : State) (l : Nat) (x : Car) : (setCar s l x).isl = s.isl := rfl
@[simp] theorem setCar_boot (s : State) (l : Nat) (x : Car) : (setCar s l x).boot = s.boot := rfl
@[simp] theorem setCar_fuses (s : State) (l : Nat) (x : Car) : (setCar s l x).fuses = s.fuses := rfl
@[simp] theorem setCar_straps (s : State) (l : Nat) (x : Car) : (setCar s l x).straps = s.straps := rfl
@[simp] theorem setCar_pwr (s : State) (l : Nat) (x : Car) : (setCar s l x).pwr = s.pwr := rfl
@[simp] theorem setCar_rst (s : State) (l : Nat) (x : Car) : (setCar s l x).rst = s.rst := rfl
@[simp] theorem setCar_clk (s : State) (l : Nat) (x : Car) : (setCar s l x).clk = s.clk := rfl
@[simp] theorem setCar_flt (s : State) (l : Nat) (x : Car) : (setCar s l x).flt = s.flt := rfl
@[simp] theorem setCar_crier (s : State) (l : Nat) (x : Car) : (setCar s l x).crier = s.crier := rfl
@[simp] theorem setCar_takeRes (s : State) (l : Nat) (x : Car) : (setCar s l x).takeRes = s.takeRes := rfl
@[simp] theorem setCar_smps (s : State) (l : Nat) (x : Car) : (setCar s l x).smps = s.smps := rfl
@[simp] theorem setCar_jtag (s : State) (l : Nat) (x : Car) : (setCar s l x).jtag = s.jtag := rfl

/-! ## setSrc -/

@[simp] theorem setSrc_pending (s : State) (n : Nat) (x : CSrc) : (setSrc s n x).pending = s.pending := rfl
@[simp] theorem setSrc_freeCtr (s : State) (n : Nat) (x : CSrc) : (setSrc s n x).freeCtr = s.freeCtr := rfl
@[simp] theorem setSrc_out (s : State) (n : Nat) (x : CSrc) : (setSrc s n x).out = s.out := rfl
@[simp] theorem setSrc_emitted (s : State) (n : Nat) (x : CSrc) : (setSrc s n x).emitted = s.emitted := rfl
@[simp] theorem setSrc_dt (s : State) (n : Nat) (x : CSrc) : (setSrc s n x).dt = s.dt := rfl
@[simp] theorem setSrc_dtRem (s : State) (n : Nat) (x : CSrc) : (setSrc s n x).dtRem = s.dtRem := rfl
@[simp] theorem setSrc_tick (s : State) (n : Nat) (x : CSrc) : (setSrc s n x).tick = s.tick := rfl
@[simp] theorem setSrc_nextId (s : State) (n : Nat) (x : CSrc) : (setSrc s n x).nextId = s.nextId := rfl
@[simp] theorem setSrc_hdrs (s : State) (n : Nat) (x : CSrc) : (setSrc s n x).hdrs = s.hdrs := rfl
@[simp] theorem setSrc_regs (s : State) (n : Nat) (x : CSrc) : (setSrc s n x).regs = s.regs := rfl
@[simp] theorem setSrc_shadow (s : State) (n : Nat) (x : CSrc) : (setSrc s n x).shadow = s.shadow := rfl
@[simp] theorem setSrc_snaps (s : State) (n : Nat) (x : CSrc) : (setSrc s n x).snaps = s.snaps := rfl
@[simp] theorem setSrc_latches (s : State) (n : Nat) (x : CSrc) : (setSrc s n x).latches = s.latches := rfl
@[simp] theorem setSrc_loHeld (s : State) (n : Nat) (x : CSrc) : (setSrc s n x).loHeld = s.loHeld := rfl
@[simp] theorem setSrc_schedRec (s : State) (n : Nat) (x : CSrc) : (setSrc s n x).schedRec = s.schedRec := rfl
@[simp] theorem setSrc_msix (s : State) (n : Nat) (x : CSrc) : (setSrc s n x).msix = s.msix := rfl
@[simp] theorem setSrc_arbs (s : State) (n : Nat) (x : CSrc) : (setSrc s n x).arbs = s.arbs := rfl
@[simp] theorem setSrc_taps (s : State) (n : Nat) (x : CSrc) : (setSrc s n x).taps = s.taps := rfl
@[simp] theorem setSrc_unitTaps (s : State) (n : Nat) (x : CSrc) : (setSrc s n x).unitTaps = s.unitTaps := rfl
@[simp] theorem setSrc_slotCtx (s : State) (n : Nat) (x : CSrc) : (setSrc s n x).slotCtx = s.slotCtx := rfl
@[simp] theorem setSrc_slotRecs (s : State) (n : Nat) (x : CSrc) : (setSrc s n x).slotRecs = s.slotRecs := rfl
@[simp] theorem setSrc_hostMem (s : State) (n : Nat) (x : CSrc) : (setSrc s n x).hostMem = s.hostMem := rfl
@[simp] theorem setSrc_hostErr (s : State) (n : Nat) (x : CSrc) : (setSrc s n x).hostErr = s.hostErr := rfl
@[simp] theorem setSrc_hostPoison (s : State) (n : Nat) (x : CSrc) : (setSrc s n x).hostPoison = s.hostPoison := rfl
@[simp] theorem setSrc_hbm (s : State) (n : Nat) (x : CSrc) : (setSrc s n x).hbm = s.hbm := rfl
@[simp] theorem setSrc_hbmPoison (s : State) (n : Nat) (x : CSrc) : (setSrc s n x).hbmPoison = s.hbmPoison := rfl
@[simp] theorem setSrc_commons (s : State) (n : Nat) (x : CSrc) : (setSrc s n x).commons = s.commons := rfl
@[simp] theorem setSrc_comPoison (s : State) (n : Nat) (x : CSrc) : (setSrc s n x).comPoison = s.comPoison := rfl
@[simp] theorem setSrc_comScrub (s : State) (n : Nat) (x : CSrc) : (setSrc s n x).comScrub = s.comScrub := rfl
@[simp] theorem setSrc_flash (s : State) (n : Nat) (x : CSrc) : (setSrc s n x).flash = s.flash := rfl
@[simp] theorem setSrc_flashSize (s : State) (n : Nat) (x : CSrc) : (setSrc s n x).flashSize = s.flashSize := rfl
@[simp] theorem setSrc_flashOk (s : State) (n : Nat) (x : CSrc) : (setSrc s n x).flashOk = s.flashOk := rfl
@[simp] theorem setSrc_booth (s : State) (n : Nat) (x : CSrc) : (setSrc s n x).booth = s.booth := rfl
@[simp] theorem setSrc_cars (s : State) (n : Nat) (x : CSrc) : (setSrc s n x).cars = s.cars := rfl
@[simp] theorem setSrc_ctxs (s : State) (n : Nat) (x : CSrc) : (setSrc s n x).ctxs = s.ctxs := rfl
@[simp] theorem setSrc_jobs (s : State) (n : Nat) (x : CSrc) : (setSrc s n x).jobs = s.jobs := rfl
@[simp] theorem setSrc_bulkSlots (s : State) (n : Nat) (x : CSrc) : (setSrc s n x).bulkSlots = s.bulkSlots := rfl
@[simp] theorem setSrc_bulkTurn (s : State) (n : Nat) (x : CSrc) : (setSrc s n x).bulkTurn = s.bulkTurn := rfl
@[simp] theorem setSrc_bulkBurst (s : State) (n : Nat) (x : CSrc) : (setSrc s n x).bulkBurst = s.bulkBurst := rfl
@[simp] theorem setSrc_sensors (s : State) (n : Nat) (x : CSrc) : (setSrc s n x).sensors = s.sensors := rfl
@[simp] theorem setSrc_tiles (s : State) (n : Nat) (x : CSrc) : (setSrc s n x).tiles = s.tiles := rfl
@[simp] theorem setSrc_pcs (s : State) (n : Nat) (x : CSrc) : (setSrc s n x).pcs = s.pcs := rfl
@[simp] theorem setSrc_ingress (s : State) (n : Nat) (x : CSrc) : (setSrc s n x).ingress = s.ingress := rfl
@[simp] theorem setSrc_hbmWait (s : State) (n : Nat) (x : CSrc) : (setSrc s n x).hbmWait = s.hbmWait := rfl
@[simp] theorem setSrc_hbmGrant (s : State) (n : Nat) (x : CSrc) : (setSrc s n x).hbmGrant = s.hbmGrant := rfl
@[simp] theorem setSrc_hbmOut (s : State) (n : Nat) (x : CSrc) : (setSrc s n x).hbmOut = s.hbmOut := rfl
@[simp] theorem setSrc_phys (s : State) (n : Nat) (x : CSrc) : (setSrc s n x).phys = s.phys := rfl
@[simp] theorem setSrc_hbmHold (s : State) (n : Nat) (x : CSrc) : (setSrc s n x).hbmHold = s.hbmHold := rfl
@[simp] theorem setSrc_pools (s : State) (n : Nat) (x : CSrc) : (setSrc s n x).pools = s.pools := rfl
@[simp] theorem setSrc_grnRes (s : State) (n : Nat) (x : CSrc) : (setSrc s n x).grnRes = s.grnRes := rfl
@[simp] theorem setSrc_fifos (s : State) (n : Nat) (x : CSrc) : (setSrc s n x).fifos = s.fifos := rfl
@[simp] theorem setSrc_dmas (s : State) (n : Nat) (x : CSrc) : (setSrc s n x).dmas = s.dmas := rfl
@[simp] theorem setSrc_timers (s : State) (n : Nat) (x : CSrc) : (setSrc s n x).timers = s.timers := rfl
@[simp] theorem setSrc_crcs (s : State) (n : Nat) (x : CSrc) : (setSrc s n x).crcs = s.crcs := rfl
@[simp] theorem setSrc_queues (s : State) (n : Nat) (x : CSrc) : (setSrc s n x).queues = s.queues := rfl
@[simp] theorem setSrc_flows (s : State) (n : Nat) (x : CSrc) : (setSrc s n x).flows = s.flows := rfl
@[simp] theorem setSrc_svcs (s : State) (n : Nat) (x : CSrc) : (setSrc s n x).svcs = s.svcs := rfl
@[simp] theorem setSrc_eports (s : State) (n : Nat) (x : CSrc) : (setSrc s n x).eports = s.eports := rfl
@[simp] theorem setSrc_rings (s : State) (n : Nat) (x : CSrc) : (setSrc s n x).rings = s.rings := rfl
@[simp] theorem setSrc_eths (s : State) (n : Nat) (x : CSrc) : (setSrc s n x).eths = s.eths := rfl
@[simp] theorem setSrc_bursts (s : State) (n : Nat) (x : CSrc) : (setSrc s n x).bursts = s.bursts := rfl
@[simp] theorem setSrc_sfs (s : State) (n : Nat) (x : CSrc) : (setSrc s n x).sfs = s.sfs := rfl
@[simp] theorem setSrc_casc (s : State) (n : Nat) (x : CSrc) : (setSrc s n x).casc = s.casc := rfl
@[simp] theorem setSrc_isl (s : State) (n : Nat) (x : CSrc) : (setSrc s n x).isl = s.isl := rfl
@[simp] theorem setSrc_boot (s : State) (n : Nat) (x : CSrc) : (setSrc s n x).boot = s.boot := rfl
@[simp] theorem setSrc_fuses (s : State) (n : Nat) (x : CSrc) : (setSrc s n x).fuses = s.fuses := rfl
@[simp] theorem setSrc_straps (s : State) (n : Nat) (x : CSrc) : (setSrc s n x).straps = s.straps := rfl
@[simp] theorem setSrc_pwr (s : State) (n : Nat) (x : CSrc) : (setSrc s n x).pwr = s.pwr := rfl
@[simp] theorem setSrc_rst (s : State) (n : Nat) (x : CSrc) : (setSrc s n x).rst = s.rst := rfl
@[simp] theorem setSrc_clk (s : State) (n : Nat) (x : CSrc) : (setSrc s n x).clk = s.clk := rfl
@[simp] theorem setSrc_flt (s : State) (n : Nat) (x : CSrc) : (setSrc s n x).flt = s.flt := rfl
@[simp] theorem setSrc_crier (s : State) (n : Nat) (x : CSrc) : (setSrc s n x).crier = nset s.crier n x := rfl
@[simp] theorem setSrc_takeRes (s : State) (n : Nat) (x : CSrc) : (setSrc s n x).takeRes = s.takeRes := rfl
@[simp] theorem setSrc_smps (s : State) (n : Nat) (x : CSrc) : (setSrc s n x).smps = s.smps := rfl
@[simp] theorem setSrc_jtag (s : State) (n : Nat) (x : CSrc) : (setSrc s n x).jtag = s.jtag := rfl

/-! ## hostWrite -/

@[simp] theorem hostWrite_pending (s : State) (a : Nat) (bs : List Byte) : (hostWrite s a bs).pending = s.pending := rfl
@[simp] theorem hostWrite_freeCtr (s : State) (a : Nat) (bs : List Byte) : (hostWrite s a bs).freeCtr = s.freeCtr := rfl
@[simp] theorem hostWrite_out (s : State) (a : Nat) (bs : List Byte) : (hostWrite s a bs).out = s.out := rfl
@[simp] theorem hostWrite_emitted (s : State) (a : Nat) (bs : List Byte) : (hostWrite s a bs).emitted = s.emitted := rfl
@[simp] theorem hostWrite_dt (s : State) (a : Nat) (bs : List Byte) : (hostWrite s a bs).dt = s.dt := rfl
@[simp] theorem hostWrite_dtRem (s : State) (a : Nat) (bs : List Byte) : (hostWrite s a bs).dtRem = s.dtRem := rfl
@[simp] theorem hostWrite_tick (s : State) (a : Nat) (bs : List Byte) : (hostWrite s a bs).tick = s.tick := rfl
@[simp] theorem hostWrite_nextId (s : State) (a : Nat) (bs : List Byte) : (hostWrite s a bs).nextId = s.nextId := rfl
@[simp] theorem hostWrite_hdrs (s : State) (a : Nat) (bs : List Byte) : (hostWrite s a bs).hdrs = s.hdrs := rfl
@[simp] theorem hostWrite_regs (s : State) (a : Nat) (bs : List Byte) : (hostWrite s a bs).regs = s.regs := rfl
@[simp] theorem hostWrite_shadow (s : State) (a : Nat) (bs : List Byte) : (hostWrite s a bs).shadow = s.shadow := rfl
@[simp] theorem hostWrite_snaps (s : State) (a : Nat) (bs : List Byte) : (hostWrite s a bs).snaps = s.snaps := rfl
@[simp] theorem hostWrite_latches (s : State) (a : Nat) (bs : List Byte) : (hostWrite s a bs).latches = s.latches := rfl
@[simp] theorem hostWrite_loHeld (s : State) (a : Nat) (bs : List Byte) : (hostWrite s a bs).loHeld = s.loHeld := rfl
@[simp] theorem hostWrite_schedRec (s : State) (a : Nat) (bs : List Byte) : (hostWrite s a bs).schedRec = s.schedRec := rfl
@[simp] theorem hostWrite_msix (s : State) (a : Nat) (bs : List Byte) : (hostWrite s a bs).msix = s.msix := rfl
@[simp] theorem hostWrite_arbs (s : State) (a : Nat) (bs : List Byte) : (hostWrite s a bs).arbs = s.arbs := rfl
@[simp] theorem hostWrite_taps (s : State) (a : Nat) (bs : List Byte) : (hostWrite s a bs).taps = s.taps := rfl
@[simp] theorem hostWrite_unitTaps (s : State) (a : Nat) (bs : List Byte) : (hostWrite s a bs).unitTaps = s.unitTaps := rfl
@[simp] theorem hostWrite_slotCtx (s : State) (a : Nat) (bs : List Byte) : (hostWrite s a bs).slotCtx = s.slotCtx := rfl
@[simp] theorem hostWrite_slotRecs (s : State) (a : Nat) (bs : List Byte) : (hostWrite s a bs).slotRecs = s.slotRecs := rfl
@[simp] theorem hostWrite_hostMem (s : State) (a : Nat) (bs : List Byte) : (hostWrite s a bs).hostMem = bsetAll s.hostMem a bs := rfl
@[simp] theorem hostWrite_hostErr (s : State) (a : Nat) (bs : List Byte) : (hostWrite s a bs).hostErr = s.hostErr := rfl
@[simp] theorem hostWrite_hostPoison (s : State) (a : Nat) (bs : List Byte) : (hostWrite s a bs).hostPoison = s.hostPoison := rfl
@[simp] theorem hostWrite_hbm (s : State) (a : Nat) (bs : List Byte) : (hostWrite s a bs).hbm = s.hbm := rfl
@[simp] theorem hostWrite_hbmPoison (s : State) (a : Nat) (bs : List Byte) : (hostWrite s a bs).hbmPoison = s.hbmPoison := rfl
@[simp] theorem hostWrite_commons (s : State) (a : Nat) (bs : List Byte) : (hostWrite s a bs).commons = s.commons := rfl
@[simp] theorem hostWrite_comPoison (s : State) (a : Nat) (bs : List Byte) : (hostWrite s a bs).comPoison = s.comPoison := rfl
@[simp] theorem hostWrite_comScrub (s : State) (a : Nat) (bs : List Byte) : (hostWrite s a bs).comScrub = s.comScrub := rfl
@[simp] theorem hostWrite_flash (s : State) (a : Nat) (bs : List Byte) : (hostWrite s a bs).flash = s.flash := rfl
@[simp] theorem hostWrite_flashSize (s : State) (a : Nat) (bs : List Byte) : (hostWrite s a bs).flashSize = s.flashSize := rfl
@[simp] theorem hostWrite_flashOk (s : State) (a : Nat) (bs : List Byte) : (hostWrite s a bs).flashOk = s.flashOk := rfl
@[simp] theorem hostWrite_booth (s : State) (a : Nat) (bs : List Byte) : (hostWrite s a bs).booth = s.booth := rfl
@[simp] theorem hostWrite_cars (s : State) (a : Nat) (bs : List Byte) : (hostWrite s a bs).cars = s.cars := rfl
@[simp] theorem hostWrite_ctxs (s : State) (a : Nat) (bs : List Byte) : (hostWrite s a bs).ctxs = s.ctxs := rfl
@[simp] theorem hostWrite_jobs (s : State) (a : Nat) (bs : List Byte) : (hostWrite s a bs).jobs = s.jobs := rfl
@[simp] theorem hostWrite_bulkSlots (s : State) (a : Nat) (bs : List Byte) : (hostWrite s a bs).bulkSlots = s.bulkSlots := rfl
@[simp] theorem hostWrite_bulkTurn (s : State) (a : Nat) (bs : List Byte) : (hostWrite s a bs).bulkTurn = s.bulkTurn := rfl
@[simp] theorem hostWrite_bulkBurst (s : State) (a : Nat) (bs : List Byte) : (hostWrite s a bs).bulkBurst = s.bulkBurst := rfl
@[simp] theorem hostWrite_sensors (s : State) (a : Nat) (bs : List Byte) : (hostWrite s a bs).sensors = s.sensors := rfl
@[simp] theorem hostWrite_tiles (s : State) (a : Nat) (bs : List Byte) : (hostWrite s a bs).tiles = s.tiles := rfl
@[simp] theorem hostWrite_pcs (s : State) (a : Nat) (bs : List Byte) : (hostWrite s a bs).pcs = s.pcs := rfl
@[simp] theorem hostWrite_ingress (s : State) (a : Nat) (bs : List Byte) : (hostWrite s a bs).ingress = s.ingress := rfl
@[simp] theorem hostWrite_hbmWait (s : State) (a : Nat) (bs : List Byte) : (hostWrite s a bs).hbmWait = s.hbmWait := rfl
@[simp] theorem hostWrite_hbmGrant (s : State) (a : Nat) (bs : List Byte) : (hostWrite s a bs).hbmGrant = s.hbmGrant := rfl
@[simp] theorem hostWrite_hbmOut (s : State) (a : Nat) (bs : List Byte) : (hostWrite s a bs).hbmOut = s.hbmOut := rfl
@[simp] theorem hostWrite_phys (s : State) (a : Nat) (bs : List Byte) : (hostWrite s a bs).phys = s.phys := rfl
@[simp] theorem hostWrite_hbmHold (s : State) (a : Nat) (bs : List Byte) : (hostWrite s a bs).hbmHold = s.hbmHold := rfl
@[simp] theorem hostWrite_pools (s : State) (a : Nat) (bs : List Byte) : (hostWrite s a bs).pools = s.pools := rfl
@[simp] theorem hostWrite_grnRes (s : State) (a : Nat) (bs : List Byte) : (hostWrite s a bs).grnRes = s.grnRes := rfl
@[simp] theorem hostWrite_fifos (s : State) (a : Nat) (bs : List Byte) : (hostWrite s a bs).fifos = s.fifos := rfl
@[simp] theorem hostWrite_dmas (s : State) (a : Nat) (bs : List Byte) : (hostWrite s a bs).dmas = s.dmas := rfl
@[simp] theorem hostWrite_timers (s : State) (a : Nat) (bs : List Byte) : (hostWrite s a bs).timers = s.timers := rfl
@[simp] theorem hostWrite_crcs (s : State) (a : Nat) (bs : List Byte) : (hostWrite s a bs).crcs = s.crcs := rfl
@[simp] theorem hostWrite_queues (s : State) (a : Nat) (bs : List Byte) : (hostWrite s a bs).queues = s.queues := rfl
@[simp] theorem hostWrite_flows (s : State) (a : Nat) (bs : List Byte) : (hostWrite s a bs).flows = s.flows := rfl
@[simp] theorem hostWrite_svcs (s : State) (a : Nat) (bs : List Byte) : (hostWrite s a bs).svcs = s.svcs := rfl
@[simp] theorem hostWrite_eports (s : State) (a : Nat) (bs : List Byte) : (hostWrite s a bs).eports = s.eports := rfl
@[simp] theorem hostWrite_rings (s : State) (a : Nat) (bs : List Byte) : (hostWrite s a bs).rings = s.rings := rfl
@[simp] theorem hostWrite_eths (s : State) (a : Nat) (bs : List Byte) : (hostWrite s a bs).eths = s.eths := rfl
@[simp] theorem hostWrite_bursts (s : State) (a : Nat) (bs : List Byte) : (hostWrite s a bs).bursts = s.bursts := rfl
@[simp] theorem hostWrite_sfs (s : State) (a : Nat) (bs : List Byte) : (hostWrite s a bs).sfs = s.sfs := rfl
@[simp] theorem hostWrite_casc (s : State) (a : Nat) (bs : List Byte) : (hostWrite s a bs).casc = s.casc := rfl
@[simp] theorem hostWrite_isl (s : State) (a : Nat) (bs : List Byte) : (hostWrite s a bs).isl = s.isl := rfl
@[simp] theorem hostWrite_boot (s : State) (a : Nat) (bs : List Byte) : (hostWrite s a bs).boot = s.boot := rfl
@[simp] theorem hostWrite_fuses (s : State) (a : Nat) (bs : List Byte) : (hostWrite s a bs).fuses = s.fuses := rfl
@[simp] theorem hostWrite_straps (s : State) (a : Nat) (bs : List Byte) : (hostWrite s a bs).straps = s.straps := rfl
@[simp] theorem hostWrite_pwr (s : State) (a : Nat) (bs : List Byte) : (hostWrite s a bs).pwr = s.pwr := rfl
@[simp] theorem hostWrite_rst (s : State) (a : Nat) (bs : List Byte) : (hostWrite s a bs).rst = s.rst := rfl
@[simp] theorem hostWrite_clk (s : State) (a : Nat) (bs : List Byte) : (hostWrite s a bs).clk = s.clk := rfl
@[simp] theorem hostWrite_flt (s : State) (a : Nat) (bs : List Byte) : (hostWrite s a bs).flt = s.flt := rfl
@[simp] theorem hostWrite_crier (s : State) (a : Nat) (bs : List Byte) : (hostWrite s a bs).crier = s.crier := rfl
@[simp] theorem hostWrite_takeRes (s : State) (a : Nat) (bs : List Byte) : (hostWrite s a bs).takeRes = s.takeRes := rfl
@[simp] theorem hostWrite_smps (s : State) (a : Nat) (bs : List Byte) : (hostWrite s a bs).smps = s.smps := rfl
@[simp] theorem hostWrite_jtag (s : State) (a : Nat) (bs : List Byte) : (hostWrite s a bs).jtag = s.jtag := rfl

/-! ## Reading an engine after writing one -/

@[simp] theorem hdr_setHdr (s : State) (page : Nat) (h : PageHdr) (j : Nat) : hdr (setHdr s page h) j = if j = page then h else hdr s j := by
  simp [hdr, ngetD_nset]
@[simp] theorem getQ_setQ (s : State) (q : Nat) (x : Queue) (j : Nat) : getQ (setQ s q x) j = if j = q then x else getQ s j := by
  simp [getQ, ngetD_nset]
@[simp] theorem getTile_setTile (s : State) (t : Nat) (x : Tile) (j : Nat) : getTile (setTile s t x) j = if j = t then x else getTile s j := by
  simp [getTile, ngetD_nset]
@[simp] theorem getPool_setPool (s : State) (p : Nat) (x : Pool) (j : Nat) : getPool (setPool s p x) j = if j = p then x else getPool s j := by
  simp [getPool, ngetD_nset]
@[simp] theorem getFifo_setFifo (s : State) (f : Nat) (x : Fifo) (j : Nat) : getFifo (setFifo s f x) j = if j = f then x else getFifo s j := by
  simp [getFifo, ngetD_nset]
@[simp] theorem getDma_setDma (s : State) (c : Nat) (x : Dma) (j : Nat) : getDma (setDma s c x) j = if j = c then x else getDma s j := by
  simp [getDma, ngetD_nset]
@[simp] theorem getCrc_setCrc (s : State) (u : Nat) (x : CrcU) (j : Nat) : getCrc (setCrc s u x) j = if j = u then x else getCrc s j := by
  simp [getCrc, ngetD_nset]
@[simp] theorem getPc_setPc (s : State) (p : Nat) (x : Pc) (j : Nat) : getPc (setPc s p x) j = if j = p then x else getPc s j := by
  simp [getPc, ngetD_nset]
@[simp] theorem getFlow_setFlow (s : State) (f : Nat) (x : Flow) (j : Nat) : getFlow (setFlow s f x) j = if j = f then x else getFlow s j := by
  simp [getFlow, ngetD_nset]
@[simp] theorem getSvc_setSvc (s : State) (v : Nat) (x : Svc) (j : Nat) : getSvc (setSvc s v x) j = if j = v then x else getSvc s j := by
  simp [getSvc, ngetD_nset]
@[simp] theorem getPort_setPort (s : State) (p : Nat) (x : EPort) (j : Nat) : getPort (setPort s p x) j = if j = p then x else getPort s j := by
  simp [getPort, ngetD_nset]
@[simp] theorem getRing_setRing (s : State) (r : Nat) (x : Ring) (j : Nat) : getRing (setRing s r x) j = if j = r then x else getRing s j := by
  simp [getRing, ngetD_nset]
@[simp] theorem getEth_setEth (s : State) (p : Nat) (x : Eth) (j : Nat) : getEth (setEth s p x) j = if j = p then x else getEth s j := by
  simp [getEth, ngetD_nset]
@[simp] theorem getSf_setSf (s : State) (p : Nat) (x : SfPort) (j : Nat) : getSf (setSf s p x) j = if j = p then x else getSf s j := by
  simp [getSf, ngetD_nset]
@[simp] theorem getSensor_setSensor (s : State) (p : Nat) (x : Sensor) (j : Nat) : getSensor (setSensor s p x) j = if j = p then x else getSensor s j := by
  simp [getSensor, ngetD_nset]
@[simp] theorem getCar_setCar (s : State) (l : Nat) (x : Car) (j : Nat) : getCar (setCar s l x) j = if j = l then x else getCar s j := by
  simp [getCar, ngetD_nset]
@[simp] theorem getSrc_setSrc (s : State) (n : Nat) (x : CSrc) (j : Nat) : getSrc (setSrc s n x) j = if j = n then x else getSrc s j := by
  simp [getSrc, ngetD_nset]
@[simp] theorem getCtx_setCtx (s : State) (c : Nat) (x : Ctx) (j : Nat) : getCtx (setCtx s c x) j = if j = c then some x else getCtx s j := by
  simp [getCtx, nget_nset]

end Sys2Proof.Machine
end

