-- ==== Sys2Proof/Laws/Registers.lean ====
section
/-! SUPPORT. The laws of the register file: keys are distinct, a write is read back, and it leaves every other register alone;
what the counters and discards of R54–R64 do. -/
namespace Sys2Proof.Machine

theorem rkey_inj {p b o p' b' o' : Nat} (hb : b < 8192) (hb' : b' < 8192) (ho : o < 4096) (ho' : o' < 4096)
    (h : rkey p b o = rkey p' b' o') : p = p' ∧ b = b' ∧ o = o' := by
  unfold rkey at h; omega

@[simp] theorem rget_rput_same (s : State) (p b o : Nat) (v : U32) : rget (rput s p b o v) p b o = v := by simp [rget]

theorem rget_rput_key (s : State) (p b o p' b' o' : Nat) (v : U32) :
    rget (rput s p b o v) p' b' o' = if rkey p' b' o' = rkey p b o then v else rget s p' b' o' := by
  unfold rget
  rw [rput_regs, nget_nset]
  split <;> rfl

theorem rget_rput (s : State) (p b o p' b' o' : Nat) (v : U32) (hb : b < 8192) (hb' : b' < 8192) (ho : o < 4096) (ho' : o' < 4096) :
    rget (rput s p b o v) p' b' o' = if p' = p ∧ b' = b ∧ o' = o then v else rget s p' b' o' := by
  rw [rget_rput_key]
  by_cases h : p' = p ∧ b' = b ∧ o' = o
  · obtain ⟨rfl, rfl, rfl⟩ := h; simp
  · have : ¬ rkey p' b' o' = rkey p b o := fun e => h (rkey_inj hb' hb ho' ho e)
    rw [if_neg this, if_neg h]

theorem sget_sput_same (s : State) (p b o : Nat) (v : U32) : sget (sput s p b o v) p b o = v := by simp [sget]

@[simp] theorem rget_sput (s : State) (p b o p' b' o' : Nat) (v : U32) : rget (sput s p b o v) p' b' o' = rget s p' b' o' := rfl

theorem rgetN_lt (s : State) (p b o : Nat) : rgetN s p b o < 2 ^ 32 := (rget s p b o).isLt

theorem rgetN_rputN_same (s : State) (p b o v : Nat) (h : v < 2 ^ 32) : rgetN (rputN s p b o v) p b o = v := by
  simp only [rgetN, rputN, rget_rput_same, BitVec.toNat_ofNat]
  exact Nat.mod_eq_of_lt h

/-- A register write changes the register file only. -/
theorem rput_frame (s : State) (p b o : Nat) (v : U32) : rput s p b o v = { s with regs := (rput s p b o v).regs } := rfl

theorem bump_frame (s : State) (p b o n : Nat) : bump s p b o n = { s with regs := (bump s p b o n).regs } := rfl

/-- A counter rises and stays at 0xFFFF_FFFF. -/
theorem rgetN_bump (s : State) (p b o n : Nat) : rgetN (bump s p b o n) p b o = min 0xFFFFFFFF (rgetN s p b o + n) := by
  unfold bump
  exact rgetN_rputN_same _ _ _ _ _ (by omega)

theorem rget_bump_other (s : State) (p b o n p' b' o' : Nat) (hb : b < 8192) (hb' : b' < 8192) (ho : o < 4096) (ho' : o' < 4096)
    (h : ¬ (p' = p ∧ b' = b ∧ o' = o)) : rget (bump s p b o n) p' b' o' = rget s p' b' o' := by
  unfold bump rputN
  rw [rget_rput _ _ _ _ _ _ _ _ hb hb' ho ho', if_neg h]

/-- A counted discard of R54, R55 or R64: its counter rises, the offset is recorded, nothing else changes. -/
theorem topCount_spec (s : State) (off addr : Nat) (h : off < 4096) (hx : off ≠ 0x10C) :
    topCount s off addr = { s with regs := (topCount s off addr).regs } ∧
    rgetN (topCount s off addr) topPg 0 off = min 0xFFFFFFFF (rgetN s topPg 0 off + 1) ∧
    rgetN (topCount s off addr) topPg 0 0x10C = addr % 2 ^ 26 ∧
    ∀ page bank o, bank < 8192 → o < 4096 → ¬ (page = topPg ∧ bank = 0 ∧ (o = off ∨ o = 0x10C)) →
      rget (topCount s off addr) page bank o = rget s page bank o := by
  refine ⟨rfl, ?_, ?_, ?_⟩
  · have := rgetN_bump s topPg 0 off 1
    unfold topCount rputN rgetN at *
    rw [rget_rput _ _ _ _ _ _ _ _ (by decide) (by decide) (by decide) h, if_neg (by simp [hx])]
    exact this
  · unfold topCount
    exact rgetN_rputN_same _ _ _ _ _ (by omega)
  · intro page bank o hb ho hne
    unfold topCount rputN
    rw [rget_rput _ _ _ _ _ _ _ _ (by decide) hb (by decide) ho, if_neg (by rintro ⟨a, b, c⟩; exact hne ⟨a, b, .inr c⟩),
      rget_bump_other _ _ _ _ _ _ _ _ (by decide) hb h ho (by rintro ⟨a, b, c⟩; exact hne ⟨a, b, .inl c⟩)]

end Sys2Proof.Machine
end

