-- ==== Sys2Proof/Laws/Commands.lean ====
section
/-! SUPPORT. When a command has its effect: an engine's step while the main die's engines run, and an accepted register write. -/
namespace Sys2Proof.Machine

theorem act_alive {s : State} (op : State → State) (h : alive s = true) : act op s = .next (op s) := by simp [act, h]

theorem act_dead {s : State} (op : State → State) (h : alive s = false) : act op s = .next s := by simp [act, h]

theorem actBus_up {s : State} (op : State → State) (h : busUp s = true) : actBus op s = .next (op s) := by simp [actBus, h]

theorem wakeByWrite_awake {s : State} (h : s.pwr.st ≠ 2) : wakeByWrite s = s := by simp [wakeByWrite, h]

/-- A Steward that is not released passes no gate. -/
theorem gateB_held {s : State} {rq : Requester} {page off bank : Nat} (h : stHeld s rq = true) :
    gateB s rq page off bank = some s := by simp [gateB, h]

/-- A requester whose write passes the gate is not held. -/
theorem not_held_of_gateB {s : State} {rq : Requester} {page off bank : Nat} (h : gateB s rq page off bank = none) :
    stHeld s rq = false := by
  by_contra c
  rw [gateB_held (by simpa using c)] at h
  cases h

theorem regOp_accepts {s : State} {rq : Requester} {page off : Nat} (op : State → State) (h : Accepts s rq page off) :
    regOp rq page off op s = op s := by
  simp [regOp, h.1, not_held_of_gateB h.2.2, wakeByWrite_awake h.2.1, h.2.2]

theorem regOpB_accepts {s : State} {rq : Requester} {page off bank : Nat} (op : State → State) (h : AcceptsB s rq page off bank) :
    regOpB rq page off bank op s = op s := by
  simp [regOpB, h.1, not_held_of_gateB h.2.2, wakeByWrite_awake h.2.1, h.2.2]

/-- A register write that a rule discards leaves what the discard leaves. -/
theorem regOp_discards {s t : State} {rq : Requester} {page off : Nat} (op : State → State) (h1 : busUp s = true)
    (h2 : s.pwr.st ≠ 2) (h3 : gate s rq page off = some t) : regOp rq page off op s = t := by
  by_cases h : stHeld s rq = true
  · rw [gate, gateB_held h] at h3
    cases h3; simp [regOp, h]
  · simp [regOp, h1, h, wakeByWrite_awake h2, h3]

/-- Nothing happens while the bus does not answer. -/
theorem regOp_down {s : State} (rq : Requester) (page off : Nat) (op : State → State) (h : busUp s = false) :
    regOp rq page off op s = s := by simp [regOp, h]

/-- A whole-word register write is the write of its word. -/
theorem regWrite_word {s : State} {rq : Requester} {page off : Nat} (v : U32) (h1 : off < 4096) (h2 : off % 4 = 0)
    (h3 : page * 4096 + off < 2 ^ 26) (h : Accepts s rq page off) :
    regWrite rq (page * 4096 + off) 15 v s = writeWord rq page off v s := by
  have e1 : (page * 4096 + off) / 4096 = page := by omega
  have e2 : (page * 4096 + off) % 4096 / 4 * 4 = off := by omega
  unfold regWrite
  simp only [e1, e2]
  rw [if_neg (by rintro (h | h); · exact absurd h (by decide)
                 · omega), if_neg (by decide), regOp_accepts _ h]

/-! ## The state a command answers -/

theorem runs_act {c : Instr} {s : State} {op : State → State} (e : exec c s = act op s) (h : alive s = true) : Runs c s (op s) := by
  rw [Runs, e, act_alive op h]

theorem runs_actBus {c : Instr} {s : State} {op : State → State} (e : exec c s = actBus op s) (h : busUp s = true) :
    Runs c s (op s) := by rw [Runs, e, actBus_up op h]

theorem runs_reg {c : Instr} {s : State} {rq : Requester} {page off : Nat} {op : State → State}
    (e : exec c s = .next (regOp rq page off op s)) (h : Accepts s rq page off) : Runs c s (op s) := by
  rw [Runs, e, regOp_accepts op h]

theorem runs_regB {c : Instr} {s : State} {rq : Requester} {page off bank : Nat} {op : State → State}
    (e : exec c s = .next (regOpB rq page off bank op s)) (h : AcceptsB s rq page off bank) : Runs c s (op s) := by
  rw [Runs, e, regOpB_accepts op h]

end Sys2Proof.Machine
end

