-- ==== Sys2Proof/Laws/Flags.lean ====
section
/-! SUPPORT. What raising and clearing events does (R60, R63, R455): the page's EVT_PEND, the Crier source's told level, and an
MSI-X message at most. -/
namespace Sys2Proof.Machine

/-- A message leaves, or its vector becomes pending. -/
theorem sendMsix_frame (s : State) (v : Nat) :
    sendMsix s v = { s with emitted := (sendMsix s v).emitted, msix := (sendMsix s v).msix } := by
  unfold sendMsix
  split <;> rfl

/-- Telling a source changes only its told level and may send one message. -/
theorem tell_frame (s : State) (n : Nat) : tell s n = { s with crier := (tell s n).crier, emitted := (tell s n).emitted, msix := (tell s n).msix } := by
  unfold tell
  simp only
  split
  · rfl
  · split
    · rw [sendMsix_frame]; rfl
    · rfl

theorem tellPage_frame (s : State) (p : Nat) :
    tellPage s p = { s with crier := (tellPage s p).crier, emitted := (tellPage s p).emitted, msix := (tellPage s p).msix } := by
  unfold tellPage
  split
  · split
    · exact tell_frame _ _
    · rfl
  · rfl

@[simp] theorem tellPage_hdrs (s : State) (p : Nat) : (tellPage s p).hdrs = s.hdrs := by rw [tellPage_frame]
@[simp] theorem tellPage_regs (s : State) (p : Nat) : (tellPage s p).regs = s.regs := by rw [tellPage_frame]
@[simp] theorem hdr_tellPage (s : State) (p q : Nat) : hdr (tellPage s p) q = hdr s q := by simp [hdr]

/-- Setting events: the bits join EVT_PEND; headers, the Crier's told levels and messages are all that changes. -/
theorem setEvts_spec (s : State) (p : Nat) (m : U32) :
    setEvts s p m = { s with hdrs := (setEvts s p m).hdrs, crier := (setEvts s p m).crier, emitted := (setEvts s p m).emitted, msix := (setEvts s p m).msix } ∧
    hdr (setEvts s p m) p = { hdr s p with evtPend := (hdr s p).evtPend ||| m } ∧
    ∀ q, q ≠ p → hdr (setEvts s p m) q = hdr s q := by
  unfold setEvts
  refine ⟨?_, by simp, fun q h => by simp [h]⟩
  simp only
  rw [tellPage_frame]
  rfl

theorem clearEvts_spec (s : State) (p : Nat) (m : U32) :
    clearEvts s p m = { s with hdrs := (clearEvts s p m).hdrs, crier := (clearEvts s p m).crier, emitted := (clearEvts s p m).emitted, msix := (clearEvts s p m).msix } ∧
    hdr (clearEvts s p m) p = { hdr s p with evtPend := (hdr s p).evtPend &&& ~~~m } ∧
    ∀ q, q ≠ p → hdr (clearEvts s p m) q = hdr s q := by
  unfold clearEvts
  refine ⟨?_, by simp, fun q h => by simp [h]⟩
  simp only
  rw [tellPage_frame]
  rfl

theorem putEvtEn_spec (s : State) (p : Nat) (v : U32) :
    putEvtEn s p v = { s with hdrs := (putEvtEn s p v).hdrs, crier := (putEvtEn s p v).crier, emitted := (putEvtEn s p v).emitted, msix := (putEvtEn s p v).msix } ∧
    hdr (putEvtEn s p v) p = { hdr s p with evtEn := v } ∧
    ∀ q, q ≠ p → hdr (putEvtEn s p v) q = hdr s q := by
  unfold putEvtEn
  refine ⟨?_, by simp, fun q h => by simp [h]⟩
  simp only
  rw [tellPage_frame]
  rfl

/-- A register keeps its value when events are set. -/
@[simp] theorem rget_setEvts (s : State) (p : Nat) (m : U32) (a b c : Nat) : rget (setEvts s p m) a b c = rget s a b c := by
  rw [(setEvts_spec s p m).1]; rfl
@[simp] theorem rget_setEvt (s : State) (p k a b c : Nat) : rget (setEvt s p k) a b c = rget s a b c := rget_setEvts _ _ _ _ _ _
@[simp] theorem rgetN_setEvt (s : State) (p k a b c : Nat) : rgetN (setEvt s p k) a b c = rgetN s a b c := by simp [rgetN]

end Sys2Proof.Machine
end

