-- ==== Sys2Proof/Laws/Effects.lean ====
section
/-! SUPPORT. What the reports of a command do besides its own effect: events (R60), performance counts (R459–R462) and raised
faults (R446, R447). Each lemma says once everything such a report can change. -/
namespace Sys2Proof.Machine

/-- `t` is `s` after reports that raise no fault: the counters and EVT_PEND bits of pages, the Crier's told levels and messages are
all that changes; registers of every page but PERF stand, and of a header only EVT_PEND, which keeps its bits. -/
structure Told (s t : State) : Prop where
  frame : t = { s with regs := t.regs, hdrs := t.hdrs, crier := t.crier, emitted := t.emitted, msix := t.msix }
  regs : ∀ page bank off, page ≠ perfPg → bank < 8192 → off < 4096 → rget t page bank off = rget s page bank off
  hdr : ∀ p, hdr t p = { hdr s p with evtPend := (hdr t p).evtPend }
  pend : ∀ p k, (Machine.hdr s p).evtPend.getLsbD k = true → (Machine.hdr t p).evtPend.getLsbD k = true

theorem Told.refl (s : State) : Told s s := ⟨rfl, fun _ _ _ _ _ _ => rfl, fun _ => rfl, fun _ _ h => h⟩

theorem Told.trans {s t u : State} (h : Told s t) (g : Told t u) : Told s u := by
  refine ⟨?_, ?_, ?_, ?_⟩
  · have a := g.frame; rw [h.frame] at a; exact a
  · intro p b o hp hb ho; rw [g.regs p b o hp hb ho, h.regs p b o hp hb ho]
  · intro p; rw [g.hdr p, h.hdr p]
  · intro p k hk; exact g.pend p k (h.pend p k hk)

theorem setEvts_told (s : State) (p : Nat) (m : U32) : Told s (setEvts s p m) := by
  obtain ⟨a, b, c⟩ := setEvts_spec s p m
  refine ⟨?_, fun _ _ _ _ _ _ => rget_setEvts _ _ _ _ _ _, ?_, ?_⟩
  · rw [a]
  · intro q
    by_cases h : q = p
    · subst h; rw [b]
    · rw [c q h]
  · intro q k hk
    by_cases h : q = p
    · subst h; rw [b]; simp [hk]
    · rw [c q h]; exact hk

theorem setEvt_told (s : State) (p k : Nat) : Told s (setEvt s p k) := setEvts_told _ _ _

/-- The event's bit is pending. -/
theorem setEvt_pend (s : State) (p k : Nat) (h : k < 32) : (hdr (setEvt s p k) p).evtPend.getLsbD k = true := by
  unfold setEvt
  rw [(setEvts_spec s p _).2.1]
  have : (BitVec.ofNat 32 (2 ^ k)).getLsbD k = true := by rw [BitVec.getLsbD_ofNat, Nat.testBit_two_pow_self]; simpa using h
  rw [BitVec.getLsbD_or, this, Bool.or_true]

/-- A write of a register of the PERF page. -/
theorem rputN_perf_told (s : State) (b o v : Nat) (hb : b < 8192) (ho : o < 4096) : Told s (rputN s perfPg b o v) := by
  refine ⟨rfl, ?_, fun _ => rfl, fun _ _ h => h⟩
  intro p b' o' hp hb' ho'
  unfold rputN
  rw [rget_rput _ _ _ _ _ _ _ _ hb hb' ho ho', if_neg (by rintro ⟨a, _, _⟩; exact hp a)]

theorem overflow_told (s : State) (t : Option Nat) (n : Nat) (ht : perfBank t < 8192) : Told s (overflow s t n) := by
  have h1 : ∀ v, Told s (rputN s perfPg (perfBank t) (ovfOff t) v) := fun v =>
    rputN_perf_told _ _ _ _ ht (by unfold ovfOff; split <;> decide)
  have h2 : ∀ u : State, Told u (if rbits u perfPg 0 0x100 1 1 = 1 then
      rputN u perfPg 0 0x100 (setBits (rgetN u perfPg 0 0x100) 0 0 0) else u) := by
    intro u
    by_cases h : rbits u perfPg 0 0x100 1 1 = 1
    · rw [if_pos h]; exact rputN_perf_told _ _ _ _ (by decide) (by decide)
    · rw [if_neg h]; exact Told.refl u
  unfold overflow
  by_cases h : perfCfg s t n / 2 ^ 12 % 2 = 1
  · simp only [if_pos h]
    exact ((h1 _).trans (setEvt_told _ _ _)).trans (h2 _)
  · simp only [if_neg h]
    exact h1 _

theorem perfAdd_told (t : Option Nat) (ht : perfBank t < 8192) (f : Nat) :
    ∀ s n k, n < perfCount t → Told s (perfAdd t f s n k) := by
  induction f with
  | zero => intro s n k _; exact Told.refl s
  | succ f ih =>
    intro s n k hn
    have h1 : ∀ v, Told s (rputN s perfPg (perfBank t) (cntOff t n) v) := fun v =>
      rputN_perf_told _ _ _ _ ht (by cases t <;> simp [cntOff, perfCount] at * <;> omega)
    unfold perfAdd
    simp only
    split
    · exact h1 _
    · apply Told.trans (t := if (decide (n + 1 < perfCount t) && chained s t (n + 1) && counts s t (n + 1)) = true then
          perfAdd t f (rputN s perfPg (perfBank t) (cntOff t n) ((rgetN s perfPg (perfBank t) (cntOff t n) + k) % 2 ^ 32)) (n + 1)
            ((rgetN s perfPg (perfBank t) (cntOff t n) + k) / 2 ^ 32)
        else rputN s perfPg (perfBank t) (cntOff t n) ((rgetN s perfPg (perfBank t) (cntOff t n) + k) % 2 ^ 32)) ?_ (overflow_told _ _ _ ht)
      split
      · rename_i hu
        simp at hu
        exact (h1 _).trans (ih _ _ _ hu.1.1)
      · exact h1 _

theorem foldl_told {α : Type} (f : State → α → State) (l : List α) (h : ∀ s x, x ∈ l → Told s (f s x)) : ∀ s, Told s (l.foldl f s) := by
  induction l with
  | nil => exact fun s => Told.refl s
  | cons x l ih =>
    intro s
    simp only [List.foldl_cons]
    exact (h s x (by simp)).trans (ih (fun s y hy => h s y (by simp [hy])) _)

/-- Counting an event is a report. -/
theorem perfEvt_told (t : Option Nat) (ht : perfBank t < 8192) (ev k : Nat) (s : State) : Told s (perfEvt t ev k s) := by
  unfold perfEvt
  split
  · exact Told.refl s
  · apply foldl_told
    intro s' n hn
    simp at hn
    exact perfAdd_told t ht 32 s' n k hn.1

theorem evG_told (ev : Nat) (s : State) : Told s (evG ev s) := perfEvt_told none (by decide) ev 1 s
theorem evT_told (t ev : Nat) (s : State) (ht : t < 8176) : Told s (evT t ev s) := perfEvt_told (some t) (by simp [perfBank]; omega) ev 1 s

/-! ## Faults -/

/-- `t` is `s` after reports of any kind, raised faults among them: beside what a report changes, the fault log and state, fences,
FLT_SRC bits with the severities kept for them, the FAULT page's registers, the wire's Ethernet frames, the breach causes of pictures
in flight, and the locks that a lockstep fault breaks (R71). -/
structure Noted (s t : State) : Prop where
  frame : t = { s with regs := t.regs, hdrs := t.hdrs, crier := t.crier, emitted := t.emitted, msix := t.msix, flt := t.flt,
                       eports := t.eports, ctxs := t.ctxs }
  regs : ∀ page bank off, page ≠ perfPg → page ≠ fltPg → bank < 8192 → off < 4096 → rget t page bank off = rget s page bank off
  hdr : ∀ p, hdr t p = { hdr s p with
    evtPend := (hdr t p).evtPend, fltSrc := (hdr t p).fltSrc, fenced := (hdr t p).fenced, sevKept := (hdr t p).sevKept
    lockHeld := (hdr t p).lockHeld, lockBroken := (hdr t p).lockBroken, lockOwner := (hdr t p).lockOwner
    lockClass := (hdr t p).lockClass }
  pend : ∀ p k, (Machine.hdr s p).evtPend.getLsbD k = true → (Machine.hdr t p).evtPend.getLsbD k = true
  src : ∀ p k, (Machine.hdr s p).fltSrc.getLsbD k = true → (Machine.hdr t p).fltSrc.getLsbD k = true
  fence : ∀ p, (Machine.hdr s p).fenced = true → (Machine.hdr t p).fenced = true

theorem Noted.refl (s : State) : Noted s s := ⟨rfl, fun _ _ _ _ _ _ _ => rfl, fun _ => rfl, fun _ _ h => h, fun _ _ h => h, fun _ h => h⟩

theorem Noted.trans {s t u : State} (h : Noted s t) (g : Noted t u) : Noted s u := by
  refine ⟨?_, ?_, ?_, ?_, ?_, ?_⟩
  · have a := g.frame; rw [h.frame] at a; exact a
  · intro p b o hp hq hb ho; rw [g.regs p b o hp hq hb ho, h.regs p b o hp hq hb ho]
  · intro p; rw [g.hdr p, h.hdr p]
  · intro p k hk; exact g.pend p k (h.pend p k hk)
  · intro p k hk; exact g.src p k (h.src p k hk)
  · intro p hk; exact g.fence p (h.fence p hk)

theorem Told.noted {s t : State} (h : Told s t) : Noted s t := by
  refine ⟨?_, fun p b o hp _ hb ho => h.regs p b o hp hb ho, ?_, h.pend, ?_, ?_⟩
  · rw [h.frame]
  · intro p; rw [h.hdr p]
  · intro p k hk; rw [h.hdr p]; exact hk
  · intro p hk; rw [h.hdr p]; exact hk

theorem setEvt_noted (s : State) (p k : Nat) : Noted s (setEvt s p k) := (setEvt_told s p k).noted

theorem tell_noted (s : State) (n : Nat) : Noted s (tell s n) := by
  rw [tell_frame]
  exact ⟨rfl, fun _ _ _ _ _ _ _ => rfl, fun _ => rfl, fun _ _ h => h, fun _ _ h => h, fun _ h => h⟩

theorem setLevel_noted (s : State) (n : Nat) (l : Bool) : Noted s (setLevel s n l) := by
  unfold setLevel
  refine Noted.trans ?_ (tell_noted _ _)
  exact ⟨rfl, fun _ _ _ _ _ _ _ => rfl, fun _ => rfl, fun _ _ h => h, fun _ _ h => h, fun _ h => h⟩

theorem fencePage_noted (s : State) (p : Nat) : Noted s (fencePage s p) := by
  refine ⟨rfl, fun _ _ _ _ _ _ _ => rfl, ?_, ?_, ?_, ?_⟩ <;> intro q <;> by_cases h : q = p <;> simp [fencePage, h]

theorem emit_noted (s : State) (e : Emit) : Noted s (emit s e) :=
  ⟨rfl, fun _ _ _ _ _ _ _ => rfl, fun _ => rfl, fun _ _ h => h, fun _ _ h => h, fun _ h => h⟩

theorem flt_noted (s : State) (f : Flt) : Noted s { s with flt := f } :=
  ⟨rfl, fun _ _ _ _ _ _ _ => rfl, fun _ => rfl, fun _ _ h => h, fun _ _ h => h, fun _ h => h⟩

theorem setPort_noted (s : State) (p : Nat) (x : EPort) : Noted s (setPort s p x) :=
  ⟨rfl, fun _ _ _ _ _ _ _ => rfl, fun _ => rfl, fun _ _ h => h, fun _ _ h => h, fun _ h => h⟩

theorem markCtxs_noted (s : State) (w : Nat → Ctx → Bool) (l : Nat → Pic → Bool) (c : Nat) : Noted s (markCtxs s w l c) :=
  ⟨rfl, fun _ _ _ _ _ _ _ => rfl, fun _ => rfl, fun _ _ h => h, fun _ _ h => h, fun _ h => h⟩

theorem bump_flt_noted (s : State) (o n : Nat) (ho : o < 4096) : Noted s (bump s fltPg 0 o n) :=
  ⟨rfl, fun _ _ _ _ hq hb ho' => rget_bump_other _ _ _ _ _ _ _ _ (by decide) hb ho ho' (by rintro ⟨a, _, _⟩; exact hq a), fun _ => rfl,
    fun _ _ h => h, fun _ _ h => h, fun _ h => h⟩

theorem logFault_noted (s : State) (e : LogEnt) : Noted s (logFault s e) := by
  unfold logFault
  simp only
  split
  · exact ((flt_noted _ _).trans (setEvt_noted _ _ _)).trans (setEvt_noted _ _ _)
  · exact (flt_noted _ _).trans (setEvt_noted _ _ _)

theorem dropFrames_noted (s : State) : Noted s (dropFrames s) := by
  have h : ∀ s p, Noted s (if (getPort s p).cur.isSome then
      setPort (if (getEth s p).linkUp && rbits s (ethPage p) 0 0x100 0 0 == 1 then emit s (.badFcs p) else s) p
        { getPort s p with cur := none }
    else s) := by
    intro s p
    split
    · split
      · exact (emit_noted _ _).trans (setPort_noted _ _ _)
      · exact setPort_noted _ _ _
    · exact Noted.refl s
  unfold dropFrames
  exact (h s 0).trans (h _ 1)

theorem enterFault_noted (s : State) (id : Nat) : Noted s (enterFault s id) := by
  unfold enterFault
  split
  · exact Noted.refl s
  · exact ((dropFrames_noted s).trans (flt_noted _ _)).trans (emit_noted _ _)

theorem applySev_noted (s : State) (k : PageKind) (page src info sev : Nat) : Noted s (applySev s k page src info sev) := by
  have h1 : ∀ s, Noted s (if 1 ≤ sev then setLevel s 224 true else s) := by
    intro s
    split
    · exact setLevel_noted _ _ _
    · exact Noted.refl _
  have h2 : ∀ u, Noted u (if 2 ≤ sev then
      setLevel (match fenceTarget k page src info with | some p => fencePage u p | none => u) 225 true else u) := by
    intro u
    split
    · refine Noted.trans ?_ (setLevel_noted _ _ _)
      split
      · exact fencePage_noted _ _
      · exact Noted.refl _
    · exact Noted.refl _
  have h3 : ∀ u, Noted u (if sev = 3 then enterFault u (faultId page src) else u) := by
    intro u
    split
    · exact enterFault_noted _ _
    · exact Noted.refl _
  exact ((h1 s).trans (h2 _)).trans (h3 _)

/-- Keeping a severity, and setting a fault source's bit. -/
theorem keepSev_noted (s : State) (p src sev : Nat) : Noted s (setHdr s p (keepSev (hdr s p) src sev)) := by
  refine ⟨rfl, fun _ _ _ _ _ _ _ => rfl, ?_, ?_, ?_, ?_⟩ <;> intro q <;> by_cases h : q = p <;> simp [h, keepSev]

theorem setSrcBit_noted (s : State) (p src sev : Nat) (m : BitVec 16) :
    Noted s (setHdr s p { keepSev (hdr s p) src sev with fltSrc := (keepSev (hdr s p) src sev).fltSrc ||| m }) := by
  refine ⟨rfl, fun _ _ _ _ _ _ _ => rfl, ?_, ?_, ?_, ?_⟩ <;> intro q <;> by_cases h : q = p <;> simp [h, keepSev]
  intro k hk; simp [hk]

/-- A forced release changes a header's lock only. -/
theorem breakLock_frame (h : PageHdr) : breakLock h = { h with
    lockHeld := (breakLock h).lockHeld, lockBroken := (breakLock h).lockBroken, lockOwner := (breakLock h).lockOwner
    lockClass := (breakLock h).lockClass } := by
  unfold breakLock
  split <;> rfl

/-- The locks that a class holds break, and no other. -/
theorem hdr_breakClass (s : State) (rq : Requester) (p : Nat) :
    hdr (breakClass s rq) p = if (hdr s p).lockClass == some rq then breakLock (hdr s p) else hdr s p := by
  have h : ∀ l : NMap PageHdr, ((nget (l.map fun e => if e.2.lockClass == some rq then (e.1, breakLock e.2) else e) p).getD {}) =
      if ((nget l p).getD {}).lockClass == some rq then breakLock ((nget l p).getD {}) else (nget l p).getD {} := by
    intro l
    induction l with
    | nil => rfl
    | cons e l ih =>
      by_cases h1 : e.2.lockClass == some rq <;> by_cases h2 : e.1 = p <;> simp_all [nget]
  exact h s.hdrs

theorem lockstepBreak_noted (s : State) (page src info : Nat) : Noted s (lockstepBreak s page src info) := by
  have h : ∀ rq, Noted s (breakClass s rq) := by
    intro rq
    refine ⟨rfl, fun _ _ _ _ _ _ _ => rfl, ?_, ?_, ?_, ?_⟩ <;> intro p <;> rw [hdr_breakClass] <;> split
    · rw [breakLock_frame]
    · rfl
    all_goals (try rw [breakLock_frame]) <;> simp
  unfold lockstepBreak
  split
  · split
    · exact h _
    · exact Noted.refl s
  · exact Noted.refl s

theorem raiseBase_noted (s : State) (page src info : Nat) : Noted s (raiseBase s page src info) := by
  unfold raiseBase
  split
  · exact Noted.refl s
  · split
    · exact Noted.refl s
    · simp only
      refine Noted.trans ?_ (lockstepBreak_noted _ _ _ _)
      split
      · exact ((keepSev_noted s page _ _).trans (bump_flt_noted _ 0x128 1 (by decide))).trans (applySev_noted _ _ _ _ _ _)
      · exact ((setSrcBit_noted s page _ _ _).trans (logFault_noted _ _)).trans (applySev_noted _ _ _ _ _ _)

theorem containBreach_noted (s : State) (k : PageKind) (page src info : Nat) : Noted s (containBreach s k page src info) := by
  unfold containBreach
  split
  · exact markCtxs_noted _ _ _ _
  · split
    · exact markCtxs_noted _ _ _ _
    · exact Noted.refl s
  · split
    · exact markCtxs_noted _ _ _ _
    · exact Noted.refl s

/-- Raising a fault is a report (R446, R447). -/
theorem raiseFault_noted (s : State) (page src info : Nat) : Noted s (raiseFault s page src info) := by
  unfold raiseFault
  split
  · exact Noted.refl s
  · simp only
    split
    · exact (raiseBase_noted _ _ _ _).trans (containBreach_noted _ _ _ _ _)
    · exact raiseBase_noted _ _ _ _

/-- It sets its source's FLT_SRC bit (R446). -/
theorem raiseFault_src {s : State} {page src info : Nat} {k : PageKind} {i : Nat} (h : pageAt page = some (k, i)) (h1 : hasFlt k src = true)
    (h2 : src < 16) : (hdr (raiseFault s page src info) page).fltSrc.getLsbD src = true := by
  have hb : (hdr (raiseBase s page src info) page).fltSrc.getLsbD src = true := by
    unfold raiseBase
    rw [h]
    simp only [h1, Bool.not_true, Bool.false_eq_true, if_false]
    apply (lockstepBreak_noted _ _ _ _).src
    split
    · rename_i h3
      apply (applySev_noted _ _ _ _ _ _).src
      apply (bump_flt_noted _ 0x128 1 (by decide)).src
      simpa [keepSev] using h3
    · apply (applySev_noted _ _ _ _ _ _).src
      apply (logFault_noted _ _).src
      have : (BitVec.ofNat 16 (2 ^ src)).getLsbD src = true := by rw [BitVec.getLsbD_ofNat, Nat.testBit_two_pow_self]; simpa using h2
      simp only [hdr_setHdr, if_true]
      rw [BitVec.getLsbD_or, this, Bool.or_true]
  unfold raiseFault
  rw [h]
  simp only
  split
  · exact (containBreach_noted _ _ _ _ _).src _ _ hb
  · exact hb

end Sys2Proof.Machine
end

