-- ==== Sys2Proof/Laws/Memory.lean ====
section
/-! SUPPORT. What a write of a memory and a store of a FIFO instance (R268–R270) can change. -/
namespace Sys2Proof.Machine

/-- A write of HBM bytes changes their contents and poison only. -/
theorem hbmWriteB_frame (s : State) (a : Nat) (b : List Byte) (p : Bool) :
    hbmWriteB s a b p = { s with hbm := (hbmWriteB s a b p).hbm, hbmPoison := (hbmWriteB s a b p).hbmPoison } := rfl

/-- A write of memory changes the memories and their poison only. -/
theorem memWrite_frame (s : State) (loc a : Nat) (b : List Byte) (p : Bool) :
    memWrite s loc a b p = { s with
      hostMem := (memWrite s loc a b p).hostMem, hostPoison := (memWrite s loc a b p).hostPoison, hbm := (memWrite s loc a b p).hbm
      hbmPoison := (memWrite s loc a b p).hbmPoison } := by
  unfold memWrite
  split
  · split <;> rfl
  · rfl

/-- A store of a FIFO instance changes the instances and the registers that show them. -/
theorem fifoStore_frame (s : State) (f : Nat) (x : Fifo) :
    fifoStore s f x = { s with fifos := (fifoStore s f x).fifos, regs := (fifoStore s f x).regs } := by
  unfold fifoStore
  simp only
  split <;> split <;> rfl

/-- The instance holds what was stored, but for its level and stall marks; the others stand. -/
theorem fifoStore_get (s : State) (f : Nat) (x : Fifo) (g : Nat) :
    ∃ b c, getFifo (fifoStore s f x) g = if g = f then { x with above := b, stalled := c } else getFifo s g := by
  have h1 : ∀ u : State, ∀ a b c d, getFifo (rputN u a b c d) g = getFifo u g := fun _ _ _ _ _ => rfl
  have h2 : ∀ (P : Prop) [Decidable P] (u v : State), getFifo (if P then u else v) g = if P then getFifo u g else getFifo v g := by
    intro P _ u v; split <;> rfl
  unfold fifoStore
  simp only [h1, h2, ite_self, getFifo_setFifo]
  exact ⟨_, _, rfl⟩

end Sys2Proof.Machine
end

