-- ==== Sys2Proof/WellFormed.lean ====
section
/-! DEFINITION. Which commands are well formed: every instance number, page, address and fixed-length operand lies in the
range the spec gives it (R9, R53, R57, R348, R401). A command that is not well formed names nothing on this part. -/
namespace Sys2Proof

/-- The operands lie in their ranges. -/
def Instr.wf : Instr → Bool
  | .regWrite _ addr _ _ => decide (addr < 0x1000000)
  | .regReadClear _ addr _ => decide (addr < 0x1000000)
  | .loReadLatch _ addr _ => decide (addr < 0x1000000)
  | .evtForce _ page _ => decide (page < 1024)
  | .commit _ page _ => decide (page < 1024)
  | .shadowApply page bank => decide (page < 1024) && decide (bank < 8192)
  | .pageEnable _ page _ => decide (page < 1024)
  | .pageQuiesce _ page _ => decide (page < 1024)
  | .pageAbort _ page _ _ => decide (page < 1024)
  | .blockReset _ page => decide (page < 1024)
  | .blockResetEnd page => decide (page < 1024)
  | .blockReachesIdle page => decide (page < 1024)
  | .lockAcquire _ page _ => decide (page < 1024)
  | .lockRelease _ page _ => decide (page < 1024)
  | .lockForceRelease _ page => decide (page < 1024)
  | .tkbAdmit _ ctx => decide (ctx < 1024)
  | .release _ ctx => decide (ctx < 1024)
  | .relist _ => true
  | .carListStart list => decide (list < 25)
  | .carEntryEnd list => decide (list < 25)
  | .l24Window => true
  | .retrainingPauseEnd pc _ => decide (pc < 64)
  | .tjSample _ _ _ => true
  | .syncHeaderLock port => decide (port < 12)
  | .linkTrain port => decide (port < 12)
  | .syncHeaderLoss port => decide (port < 12)
  | .alignRound port _ _ _ => decide (port < 12)
  | .alignRoundMissing port => decide (port < 12)
  | .linePacket port _ _ => decide (port < 8)
  | .fmark port _ _ _ => decide (port < 8)
  | .frameCloseTimeout ctx => decide (ctx < 1024)
  | .fsyncEdge n => decide (n < 4)
  | .fsyncPulseEnd n => decide (n < 4)
  | .i3cCmd _ n _ => decide (n < 4)
  | .i3cTransferDone n _ _ => decide (n < 4)
  | .i3cTx _ n _ => decide (n < 4)
  | .i3cRx _ n => decide (n < 4)
  | .rowComplete ctx _ => decide (ctx < 1024)
  | .rowTicket _ ctx => decide (ctx < 1024)
  | .jobEnd _ => true
  | .unitEnterFifo ctx => decide (ctx < 1024)
  | .demotedPictureEmit ctx => decide (ctx < 1024)
  | .demotedPictureDiscard ctx => decide (ctx < 1024)
  | .nop queue => decide (queue < 8192)
  | .encode queue => decide (queue < 8192)
  | .encodeStart ctx => decide (ctx < 1024)
  | .encodeInputDone ctx => decide (ctx < 1024)
  | .encConfig queue => decide (queue < 8192)
  | .openBulk queue => decide (queue < 8192)
  | .encConfigClose queue => decide (queue < 8192)
  | .bulkSlotTake slot => decide (slot < 8)
  | .decConfigOpen queue => decide (queue < 8192)
  | .decConfigClose queue => decide (queue < 8192)
  | .decode queue => decide (queue < 8192)
  | .decodeFinish ctx => decide (ctx < 1024)
  | .ingressPacket port _ => decide (port < 2)
  | .ingressPicTimeout ctx => decide (ctx < 1024)
  | .mopNop tile => decide (tile < 104)
  | .alu tile _ _ _ _ => decide (tile < 104)
  | .alui tile _ _ _ => decide (tile < 104)
  | .lds tile _ _ _ err => decide (tile < 104) && decide (err < 3)
  | .sts tile _ _ _ => decide (tile < 104)
  | .vld tile _ _ _ err => decide (tile < 104) && decide (err < 3)
  | .vst tile _ _ _ => decide (tile < 104)
  | .vop tile _ _ _ _ => decide (tile < 104)
  | .unit tile _ _ _ => decide (tile < 104)
  | .br tile _ _ _ => decide (tile < 104)
  | .call tile _ => decide (tile < 104)
  | .ret tile => decide (tile < 104)
  | .wait tile _ _ _ _ _ => decide (tile < 104)
  | .waitConditionMet tile _ => decide (tile < 104)
  | .waitTimeout tile => decide (tile < 104)
  | .safept tile => decide (tile < 104)
  | .opdone tile => decide (tile < 104)
  | .jend tile _ => decide (tile < 104)
  | .spTmo tile => decide (tile < 104)
  | .budgetExpiry tile => decide (tile < 104)
  | .machineCheck tile cause _ => decide (tile < 104) && decide (cause < 16)
  | .preempt _ tile => decide (tile < 104)
  | .resume _ tile => decide (tile < 104)
  | .halt _ tile => decide (tile < 104)
  | .step _ tile => decide (tile < 104)
  | .retire _ tile _ => decide (tile < 104)
  | .promote _ tile => decide (tile < 104)
  | .tileTsDataRead _ tile _ => decide (tile < 104)
  | .hbmIngressPass _ => true
  | .hbmAccess pc => decide (pc < 64)
  | .hbmReadComplete pc _ _ _ => decide (pc < 64)
  | .hbmWriteAck pc => decide (pc < 64)
  | .hbmSparePeriod pc _ _ => decide (pc < 64)
  | .hbmParityAlert pc => decide (pc < 64)
  | .commonsScrub _ => true
  | .alloc _ _ pool _ => decide (pool < 64)
  | .free _ _ pool _ => decide (pool < 64)
  | .cancel _ => true
  | .reclaim _ _ pool => decide (pool < 64)
  | .grnMin _ _ pool _ => decide (pool < 64)
  | .grnWaitTimeout pool => decide (pool < 64)
  | .poolEnable _ pool => decide (pool < 64)
  | .poolReady pool => decide (pool < 64)
  | .poolDisable _ pool => decide (pool < 64)
  | .fifoWrite fifo _ => decide (fifo < 256)
  | .fifoRead fifo err => decide (fifo < 256) && decide (err < 3)
  | .fifoRelease fifo _ => decide (fifo < 256)
  | .fifoMark fifo => decide (fifo < 256)
  | .fifoRewind fifo => decide (fifo < 256)
  | .fifoUnmark fifo => decide (fifo < 256)
  | .fifoMarkStall fifo => decide (fifo < 256)
  | .dmaTail _ ch _ => decide (ch < 32)
  | .descriptorFetch ch => decide (ch < 32)
  | .timerTick timer => decide (timer < 8)
  | .descriptorEnd ch => decide (ch < 32)
  | .dmaBusErr ch _ _ => decide (ch < 32)
  | .dmaFetchErr ch => decide (ch < 32)
  | .start _ unit_ => decide (unit_ < 8)
  | .continue_ _ unit_ => decide (unit_ < 8)
  | .stop _ unit_ _ => decide (unit_ < 8)
  | .loadInit _ unit_ => decide (unit_ < 8)
  | .scanDone unit_ => decide (unit_ < 8)
  | .scanErr unit_ _ _ => decide (unit_ < 8)
  | .sqDb queue _ _ => decide (queue < 8192)
  | .crDone queue _ _ => decide (queue < 8192)
  | .seFetch queue _ => decide (queue < 8192)
  | .sqInval _ queue _ => decide (queue < 8192)
  | .entryStart _ => true
  | .ceReady queue => decide (queue < 8192)
  | .headPublish queue => decide (queue < 8192)
  | .queueEnable _ queue => decide (queue < 8192)
  | .queueQuiesce _ queue _ => decide (queue < 8192)
  | .queueAbort _ queue => decide (queue < 8192)
  | .idleReached queue => decide (queue < 8192)
  | .egressPacketStart port => decide (port < 8)
  | .egressPacketDone port _ => decide (port < 8)
  | .ethLinkDown port => decide (port < 2)
  | .ptpEventMessage port _ _ _ => decide (port < 2)
  | .ptpTxIdRead _ port => decide (port < 2)
  | .grantRevocation arbiter _ _ _ => decide (arbiter < 120)
  | .fabEtaMiss arbiter _ => decide (arbiter < 120)
  | .data port flit => decide (port < 4) && decide (flit.length = 256)
  | .link port flit => decide (port < 4) && decide (flit.length = 256)
  | .linkAckTimer port => decide (port < 4)
  | .retryTimeout port cls => decide (port < 4) && decide (cls < 8)
  | .enumerate _ => true
  | .enum port id _ _ via _ => decide (port < 4) && decide (id < 2049) && decide (via < 5)
  | .enumReply port _ dev _ _ => decide (port < 4) && decide (dev < 2049)
  | .epoch port _ _ => decide (port < 4)
  | .cascAdmit _ => true
  | .mgmtAdmit _ member _ plan contract => decide (member < 17) && decide (plan.length = 64) && decide (contract.length = 128)
  | .admitReply _ member _ => decide (member < 17)
  | .cascRelease _ ctx => decide (ctx < 1024)
  | .resetDevice _ target => decide (target < 2048)
  | .budget ctx _ _ target => decide (ctx < 1024) && decide (target < 2048)
  | .cascSemAcquire _ _ sem => decide (sem < 64)
  | .cascSemRelease _ _ sem => decide (sem < 64)
  | .cascSemForceRelease _ sem => decide (sem < 64)
  | .semReq port dev op _ sem => decide (port < 4) && decide (dev < 2048) && decide (op < 5) && decide (sem < 64)
  | .semReply _ _ _ dev => decide (dev < 2048)
  | .xreq dev _ _ _ pool => decide (dev < 2048) && decide (pool < 64)
  | .xreply _ _ _ => true
  | .xreqTimeout dev _ => decide (dev < 2048)
  | .mgmtReset => true
  | .syncReqTimer => true
  | .syncReq port _ => decide (port < 4)
  | .syncRsp port _ _ _ => decide (port < 4)
  | .heartbeatTimer => true
  | .heartbeat port dev _ _ _ => decide (port < 4) && decide (dev < 2048)
  | .cascMasterLost => true
  | .cascDeviceDead dev => decide (dev < 2048)
  | .fence port _ dev => decide (port < 4) && decide (dev < 2048)
  | .fenceRepeat port => decide (port < 4)
  | .islTapPacket port _ _ _ _ => decide (port < 8)
  | .islTapUnit ctx _ _ _ _ _ => decide (ctx < 1024)
  | .islTapTmo group => decide (group < 4)
  | .codedTmo group => decide (group < 4)
  | .signatureDone => true
  | .expoEdge input _ _ => decide (input < 4)
  | .ppsEdge _ _ => true
  | .ppsMissing => true
  | .refLoss => true
  | .sealChange _ => true
  | .readStatus _ => true
  | .readRecord _ => true
  | .readMeas _ => true
  | .readParam _ => true
  | .readAudit _ => true
  | .writeParam _ => true
  | .commitParam _ => true
  | .discard _ => true
  | .setTime _ => true
  | .loadFw _ => true
  | .commitFw _ => true
  | .reset _ => true
  | .isl _ => true
  | .islMeasRelay block => decide (block.length = 256)
  | .boot _ _ _ => true
  | .recLoad _ _ _ _ => true
  | .mrExtend _ _ => true
  | .unlockChallenge _ => true
  | .unlockSubmit _ => true
  | .svnCommit _ _ => true
  | .bootMrSel _ _ => true
  | .getVersion => true
  | .getCapabilities => true
  | .negotiateAlgorithms _ _ => true
  | .getDigests => true
  | .getCertificate slot _ _ => decide (slot < 256)
  | .challenge slot nonce => decide (slot < 256) && decide (nonce.length = 32)
  | .getMeasurements _ _ nonce => decide (nonce.length = 32)
  | .ivrAdjust rail _ _ => decide (rail < 105)
  | .vinUv => true
  | .avsPoll _ _ => true
  | .bulkTileGate tile => decide (tile < 104)
  | .pwrBulkTiles _ _ => true
  | .run _ => true
  | .standby _ => true
  | .standbyEnter => true
  | .doze _ => true
  | .wake _ => true
  | .por => true
  | .cold => true
  | .warm _ => true
  | .flr => true
  | .rstTile _ word _ => decide (word < 4)
  | .rootPllLol => true
  | .refClockLoss _ => true
  | .dtAdj _ _ => true
  | .dtStep _ => true
  | .dtSet _ => true
  | .dtCmdDone => true
  | .slewDone => true
  | .cdcEvtOvf id _ => decide (id < 2048)
  | .faultRaise page _ _ => decide (page < 1024)
  | .fltHb _ => true
  | .hbMiss steward => decide (steward < 4)
  | .bellToggle => true
  | .crierTake _ src => decide (src < 1024)
  | .crierDone _ src => decide (src < 1024)
  | .crierSet _ src => decide (src < 1024)
  | .crierClr _ src => decide (src < 1024)
  | .counterWrap tile counter => decide (tile.getD 0 < 104) && decide (counter < 48)
  | .samplePeriod tile _ _ _ _ => decide (tile < 104)
  | .tmuxSel _ _ => true
  | .bypass => true
  | .idcode => true
  | .samplePreload _ => true
  | .extest _ => true
  | .extestPulse _ => true
  | .extestTrain _ => true
  | .clamp => true
  | .highz => true
  | .tapReset => true
  | .mainPowerLoss => true
  | .islPowerLoss => true
  | .ethLinkUp port => decide (port < 2)
  | .refClockReturn _ => true
  | .serdesPllLol port => decide (port < 12)
  | .islRefReturn => true
  | .tileResetDone => true
  | .invalDone queue => decide (queue < 8192)
  | .pcieLinkUp => true

end Sys2Proof
end

