-- ==== Sys2Proof/Tests/Slice0.lean ====
section
/-! SUPPORT. Tests: the spec's worked examples, a term for each check of well-formedness that it refuses, and for every statement
with hypotheses states that meet them. -/
open Sys2Proof Sys2Proof.Machine
namespace Sys2Proof.Tests
set_option maxRecDepth 20000

/-- A device in RUN with nothing admitted: booted (BOOT_STATE 7), root PLL locked. -/
def base : State := { State.reset with boot := { st := 7 }, phys := [{ st := 2 }, { st := 2 }], clk := { rootLock := true, coreOk := true } }

/-- `base` in the fault state. -/
def faulted : State := { base with flt := { fault := true } }

/-- `base` with context C0000 admitted on tile 0. -/
def admitted : State := { base with ctxs := [(0, { kind := .admitted, block := List.replicate 256 0, queue := 8192, adm := { tiles := [0] } })] }

/-- `base` with the lock of the QMGR page held by C0005 for the host. -/
def locked : State := { base with hdrs := [(0x20, { lockHeld := true, lockOwner := 5, lockClass := some .host })] }

/-- `base` with a snapshot of HBM controller 0 pending. -/
def committedLate : State := { base with
  dt := 4096000000, snaps := [⟨0x180, 0, 7, [(rkey 0x180 0 0x100, 0x1F1F)], 0⟩]
  cars := [(24, { oper := { base := 0, cycle := 62400, len := 1, ents := [(0, 0x1000000 + 62400)] } })] }
def sfSnap : State := { base with
  dt := 4096000000, snaps := [⟨0x1F0, 0, 1, [], 0⟩], cars := [(3, { oper := { base := 0, cycle := 62400, len := 1, ents := [(0, 62400)] } })] }
def committed : State := { base with snaps := [⟨0x180, 0, 7, [(rkey 0x180 0 0x100, 0x1F1F)], 0⟩] }

/-- `base` with SENSOR page 0 enabled. -/
def enabled : State := { base with hdrs := [(0x1D0, { enable := true })] }

/-- `base` with SENSOR page 0 about to drop ENABLE. -/
def dropping : State := { base with hdrs := [(0x1D0, { enable := true, dropEnable := true })] }

/-- Sparse bytes: (address, byte) pairs over zeros. -/
def sparse (n : Nat) (l : List (Nat × Nat)) : List Byte := (List.range n).map fun i => BitVec.ofNat 8 (((l.find? fun e => e.1 == i).map (·.2)).getD 0)

/-- A valid contract: host-fed, YCC 4:2:0 of 16 × 16 samples of 8 bits, intra, to port SF0. -/
def goodPairs : List (Nat × Nat) := [(0, 1), (2, 1), (4, 16), (6, 16), (8, 4), (0xA, 8), (0x10, 16), (0x12, 16), (0x1A, 0x55),
  (0x1B, 0xA0), (0x1C, 0xFC), (0x1D, 1), (0x32, 1), (0x3A, 1), (0x40, 100), (0x44, 3), (0x4A, 0xF0), (0x4B, 0x05), (0x54, 1)]
def goodContract : List Byte := sparse 128 goodPairs

/-- `base` with admission closed by temperature and the contract at the request address 0. -/
def closedBooth : State := { base with
  hostMem := goodPairs.map fun e => (e.1, BitVec.ofNat 8 e.2)
  regs := [(rkey schedPg 0 0x200, 0x301), (rkey schedPg 0 0x300, 0x301), (rkey schedPg 0 0x304, 1)]
  booth := { thermClosed := true } }

/-- `admitted` with a frame open. -/
def framed : State := { base with ctxs := [(0, { kind := .admitted, block := List.replicate 256 0, queue := 8192, frame := some {} })] }

/-- `base` with a valid list block for list L00 at host address 0: one entry, a cycle of 50,000 ns. -/
def listed : State := { base with hostMem := [(2, 1), (4, 0x50), (5, 0xC3), (0x20, 0x50), (0x21, 0xC3), (0x23, 0xFF)] }

/-- `base` with list L24 pending and due, and not yet due. -/
def pendingList : State := { base with dt := 655360000, cars := [(24, { pend := some ⟨{}, 3, 0⟩ })] }
def portSnap : State := { base with dt := 3932160000, snaps := [⟨0x1E0, 0, 1, [], 0⟩] }
def earlyList : State := { base with cars := [(24, { pend := some ⟨{}, 3, 655360000⟩ })] }

/-- A read and a write of the first 256 bytes of the bulk region. -/
def rd256 : HbmReq := { wr := false, addr := 2 ^ 40, len := 256, data := [], ctx := none }
def wr256 : HbmReq := { wr := true, addr := 2 ^ 40, len := 256, data := List.replicate 256 7, ctx := none }
def wrPart : HbmReq := { wr256 with len := 2, data := [7, 8] }

/-- `base` with pseudo-channel 0 in the bulk region. -/
def mapped : State := { base with regs := [(rkey 0x180 0 0x100, 0x1F10)] }

/-- A request waits in the queue of pseudo-channel 0; a read of pseudo-channel 63 waits to complete, and a write. -/
def withQueues (n : Nat) : State := { mapped with pcs := [(0, { queue := List.replicate n rd256 })] }
def withQueue (r : HbmReq) : State := { mapped with pcs := [(0, { queue := [r] })] }
def reading (debt : Nat) : State := { mapped with pcs := [(63, { reads := [{ req := rd256 }], debt := debt })] }
def fullQueue : State := withQueues 16
def acking : State := { mapped with pcs := [(63, { writes := [wr256] })] }

/-- `base` with the patrol scrub off. -/
def noScrub : State := { base with regs := [(rkey 0x310 0 0x114, 0)], pcs := [(63, { period := 31 })] }

/-- Pseudo-channel 63 has a read in its present access period; all are inside a window of list L24. -/
def alerted : State := { base with pcs := [(63, { last := some (some rd256) })] }
def inWindow : State := { base with cars := [(24, { oper := { cycle := 1000, ents := [(0, 0x10003E8)] } })] }

/-- FIFO instance 255 of 256 words: two words written, none read; full; stalled by its mark. -/
def fifoed : State := { base with
  regs := [(rkey 0x1C0 255 0x200, 0x801)], commons := [(0, 0x300000001), (1, 0x300000002)]
  fifos := [(255, { w := 2, marked := true })] }
def fifoFull : State := { fifoed with fifos := [(255, { w := 256 })] }
def fifoStuck : State := { fifoed with tick := 1000000, fifos := [(255, { w := 256, marked := true, stalled := true, need := 1 })] }

/-- Pool 63 with four buffers free; with its two buffers held by C0007; filling; with a range beyond the store. -/
def pooled : State := { base with
  regs := [(rkey 0x190 63 0x114, 4)]
  pools := [(63, { enable := true, ready := true, stack := [0, 1, 2, 3] })] }
def poolEmpty : State := { base with
  regs := [(rkey 0x190 63 0x114, 2)]
  pools := [(63, { enable := true, ready := true, stack := [], tags := [(0, 7), (1, 7)] })] }
def poolFilling : State := { base with pools := [(63, { enable := true })] }
def poolWide : State := { base with regs := [(rkey 0x190 63 0x110, 0x3FFFF), (rkey 0x190 63 0x114, 2)] }

/-- The host waits on pool 63, for longer than GRN_WAIT_TMO of 1 µs. -/
def waitingHost : State := { base with
  tick := 100, regs := [(rkey 0x190 0 0x120, 1)]
  pools := [(63, { enable := true, ready := true, waiters := [⟨.req .host, 5, 0⟩] })]
  grnRes := [(0, { waiting := true })] }

/-- DMA channel 31 enabled with an empty-headed ring of 16 descriptors at host address 0 (all zero: one byte from 0 to 0). -/
def dmaReady : State := { base with hdrs := [(0x32F, { enable := true })], dmas := [(31, { tail := 1 })] }
def dmaRunning : State := { dmaReady with dmas := [(31, { tail := 1, st := 3, fetched := [⟨0, List.replicate 64 0⟩] })] }

/-- Timer 7 enabled, with a period, due now. -/
def timed : State := { base with regs := [(rkey 0x1A0 0 0x260, 1), (rkey 0x1A0 0 0x270, 1000)], timers := [(7, { next := some 0 })] }

/-- CRC unit 7 enabled, CRC-32C over 9 bytes of host memory, idle or busy. -/
def crcSt (busy : Bool) : State := { base with
  hdrs := [(0x1B7, { enable := true })]
  regs := [(rkey 0x1B7 0 0x100, 0x1EDC6F41), (rkey 0x1B7 0 0x128, 9)]
  crcs := [(7, { busy := busy })] }

/-- Queue 8191 in RUN with rings of 16; QUIESCING. -/
def queued : State := { base with queues := [(8191, { st := 1, enable := true })] }
def quiescing : State := { base with queues := [(8191, { st := 2, enable := true, quiesce := true })] }

/-- BULK queue 0 with one zero entry (a NOP) posted at host address 0; the same being invalidated. -/
def posted : State := { base with queues := [(0, { st := 1, enable := true, tail := 1 })] }
def invaling : State := { base with queues := [(0, { st := 1, enable := true, invalDone := false })] }

/-- GUARANTEED queue 0, bound to C0000, with the entry cached; and with the NOP started. -/
def startReady : State := { admitted with
  queues := [(0, { st := 1, enable := true, guar := true, bound := some 0, tail := 1, fetch := 1, cache := [⟨0, some (List.replicate 64 0)⟩] })] }
def nopStarted : State := { base with
  queues := [(0, { st := 1, enable := true, started := [(0, List.replicate 64 0)], slots := [{ id := 0, se := true, irq := false }] })] }

/-- BULK queue 0 with a cached NOP and a weight; and C0000 host-fed with an ENCODE entry cached and its input still being read. -/
def bulkReady : State := { base with
  regs := [(rkey qmgrPg 0 0x224, 0x101)]
  queues := [(0, { st := 1, enable := true, tail := 1, fetch := 1, cache := [⟨0, some (List.replicate 64 0)⟩] })] }
def hostWaits : State := { startReady with
  ctxs := [(0, { kind := .admitted, block := (List.replicate 256 0).set 2 1, queue := 0, dma := some 7 })]
  queues := [(0, { st := 1, enable := true, guar := true, bound := some 0, tail := 1, fetch := 1, cache := [⟨0, some ((List.replicate 64 0).set 0 0x10)⟩] })] }

/-- Queue 0 with one slot written, the next finished, the last running; and a full ring with a finished slot. -/
def completing : State := { base with
  queues := [(0, { st := 1, enable := true, wr := 1, slots := [⟨0, true, false, 3, [], none⟩, ⟨1, true, false, 1, [1], none⟩, ⟨2, true, false, 0, [], none⟩] })] }
def ringFull : State := { base with queues := [(0, { st := 1, enable := true, wr := 16, slots := [⟨1, true, false, 1, [1], none⟩] })] }

/-- Sensor port n enabled with TRAIN_EN, its link in a state; Selfold port p likewise. -/
def linked (n st rounds : Nat) : State := { base with
  hdrs := [(sensorPage n, { enable := true })], regs := [(rkey (sensorPage n) 0 0x100, 0x10004)]
  sensors := [(n, { link := { st := st, rounds := rounds } })] }
def sfLinked (p st rounds : Nat) : State := { base with
  hdrs := [(sfPage p, { enable := true })], regs := [(rkey (sfPage p) 0 0x100, 1)]
  sfs := [(p, { link := { st := st, rounds := rounds } })] }

/-- A line packet of frame 5: line 15, samples 12 to 15, with a CRC; and the one whose CRC is right. -/
def linePkt (crc : Nat) : List Byte := [1, 0, 8, 0, 0, 0, 0, 5, 0, 15, 0, 12, 0, 4, 0, 0, 1, 2, 3, 4] ++ toBE 4 crc
def goodPkt : List Byte := linePkt (crc32c ((linePkt 0).take 20))

/-- C1023 admitted on ports 0 and 7 for one plane of 16 × 16 samples of 8 bits, frame 5 open. -/
def capFrame : Frame := { num := 5 }
def capCtx (pk : List RxPkt) : Ctx := {
  kind := .admitted, queue := 0, frame := some { capFrame with pkts := pk }
  block := sparse 256 [(3, 0x81), (4, 16), (6, 16), (0xA, 8), (0x10, 16), (0x12, 16), (0x54, 1)] }
def capturing (pk : List RxPkt) : State := { linked 7 3 0 with
  regs := [(rkey (sensorPage 7) 0 0x108, 1023)], ctxs := [(1023, capCtx pk)] }
def waitingFrame : State := { capturing [] with ctxs := [(1023, { capCtx [] with frame := none })] }
def lateFrame : State := { capturing [] with dt := 2 ^ 40 }

/-- SENSOR page 3 with an engine state. -/
def sensing (x : Sensor) : State := { base with hdrs := [(sensorPage 3, { enable := true })], sensors := [(3, x)] }

/-- A 16 × 16 one-plane block of an admitted context, a picture of it ready for its first event, C0003 holding pictures. -/
def smallBlock : List Byte := sparse 256 [(4, 16), (6, 16), (0xA, 8), (0x10, 16), (0x12, 16), (0x39, 0xFF), (0x54, 1)]
def firePicture : Pic := { id := 1, src := 5, cfg := smallBlock, begun := true, closed := true }
def fireCtx (ps : List Pic) : Ctx := { kind := .admitted, queue := 0, block := smallBlock, pics := ps }
def firing : State := { base with ctxs := [(3, fireCtx [firePicture])] }
def firingFirst : State := { base with ctxs := [(3, fireCtx [{ firePicture with begun := false }])] }

/-- A job of that picture that waits; tile 103 ready, reserved or ungated; pool 0 with a buffer. -/
def waitJob : Job := { id := 9, ctx := 3, pic := 1, key := 0, plane := 0, row := 0, seg := 0, budget := 100 }
def ticketCtx : Ctx := { fireCtx [firePicture] with adm := { tiles := [103], grnMin := 1 } }
/-- Tile 103 with a good op word where its next program starts. -/
def startTpr : NMap (BitVec 65) := [((Config.freeWord 0).toNat % 1024, 0x10400000000000000)]
def ticketing : State := { base with
  hdrs := [(tilePage 103, { enable := true })], tiles := [(103, { enabled := true, patchLocked := true, ungated := true, tpr := startTpr })]
  ctxs := [(3, ticketCtx)], jobs := [waitJob], pools := [(0, { enable := true, ready := true, stack := [0] })] }
def bulkTicketing : State := { ticketing with ctxs := [(3, fireCtx [{ firePicture with bulk := true }])] }
def ending : State := { base with
  jobs := [{ waitJob with tile := some 103 }], tiles := [(103, { run := 1, job := some 9 })] }

/-- C0003 with a numbered picture whose PH is next, and FIFO 0 on. -/
def numbered : Pic := { firePicture with picNum := some 0, capKnown := true }
def unitReady : State := { base with
  regs := [(rkey 0x1C0 0 0x200, 0x801)], ctxs := [(3, fireCtx [numbered])] }

/-- C0003 with a coded demoted picture that waits, and a later one. -/
def demPicture : Pic := { firePicture with demoted := true, evs := [⟨0, false, 0, 0, 0, 0, 0, 0, false⟩] }
def demCtx : Ctx := { fireCtx [demPicture, { id := 2, src := 6 }] with rate := { beta := 60000000000 } }
def demoting : State := { base with ctxs := [(3, demCtx)] }

/-- An ENCODE entry for C0003; host-fed contexts with it queued, and with its input DMA running. -/
def encEntry : List Byte := sparse 64 [(0, 0x10), (2, 3), (0x10, 16)]
def hostBlock : List Byte := smallBlock.set 2 1
def encQCtx : Ctx := { kind := .admitted, queue := 0, block := hostBlock, encQ := [(4, encEntry)], lastStart := some 0 }
def encRCtx : Ctx := { encQCtx with encQ := [], dma := some 7, pics := [{ id := 7, src := 0, se := encEntry }] }
def encStarted : State := { base with
  queues := [(0, { st := 1, enable := true, started := [(4, encEntry)] })], ctxs := [(3, { encQCtx with encQ := [] })] }
def encQueued : State := { base with ctxs := [(3, encQCtx)] }
def encReading : State := { base with ctxs := [(3, encRCtx)] }
def encBulk : State := { base with ctxs := [(3, { encQCtx with kind := .bulk })] }

/-- A started configuration entry for C0003 with CFG_FLAGS. -/
def cfgEntry (f : Nat) : List Byte := sparse 64 [(0, 0x11), (2, 3), (0x10, f)] ++ goodContract ++ List.replicate 128 0
def cfgStarted (f : Nat) (cs : List (Nat × Ctx)) : State := { base with
  queues := [(0, { st := 1, enable := true, started := [(4, cfgEntry f)] })], ctxs := cs }

/-- A DECODE entry for C0003: input at host address 0, output at 0x1000 with pitch 64, and the stream it reads: SH and PH. -/
def decInput : List Byte := shUnit smallBlock ++ phUnit 0 5 0 0 false true false false 0 0xFF [] 1
def decEntry : List Byte := sparse 64 [(0, 0x20), (2, 3), (0x11, 0x10), (0x20, 92), (0x24, 64), (0x28, 16)]
def decBlock : List Byte := sparse 256 [(1, 1), (2, 8), (4, 16), (6, 16), (0xE, 96), (0x24, 1), (0x28, 1), (0x2C, 0xDC), (0x2D, 5),
  (0x30, 0xDC), (0x31, 5), (0x34, 0xE8), (0x35, 3)]
def decCtx (q : List (Nat × List Byte)) (r : Option DecRun) : Ctx := {
  kind := .decode, queue := 0, block := decBlock, dec := { queue := q, run := r, firstSh := r.map fun _ => shUnit smallBlock } }
def decRunSt : DecRun := { slot := 4, se := decEntry, input := decInput, left := 0, parse := { ph := some (decInput.drop 48) } }
def decStarted (cs : List (Nat × Ctx)) (r : Option Nat) : State := { base with
  queues := [(0, { st := 1, enable := true, bound := r, started := [(4, decEntry)] })], ctxs := cs }
def decWaiting : State := { base with hostMem := bsetAll [] 0 decInput, ctxs := [(3, decCtx [(4, decEntry)] none)] }

/-- A started DEC_CONFIG entry for C0003 with CFG_FLAGS, and pool 0 with four buffers. -/
def decCfgEntry (f : Nat) : List Byte := sparse 64 [(0, 0x21), (2, 3), (0x10, f)] ++ decBlock
def decCfgStarted (f : Nat) (cs : List (Nat × Ctx)) : State := { base with
  queues := [(0, { st := 1, enable := true, started := [(4, decCfgEntry f)] })], ctxs := cs
  regs := [(rkey 0x190 0 0x104, 0xC0000), (rkey 0x190 0 0x114, 4)], pools := [(0, { enable := true, ready := true, stack := [0, 1, 2, 3] })] }

/-- An RTP packet of no units for C0003 on ETH1, and the context with tokens and a picture in reassembly. -/
def netPkt : NetPacket := { ipv6 := true, dstIp := List.replicate 16 0, udpDst := 0, dscp := 0, dei := false, ptp := false
                            payload := [0, 96] ++ List.replicate 18 0 }
def recvCtx (tok : Nat) : Ctx := { kind := .decode, queue := 0
                                   block := sparse 256 [(0xA, 1), (0xB, 1), (0xE, 96), (0xF, 1), (0x2F, 1), (0x33, 1)]
                                   dec := { cur := some { bufs := [(0, 0)] }, tokC := tok, tokP := tok } }
def rxOn : State := { base with regs := [(rkey (ethPage 1) 0 0x100, 2)] }
def receiving (tok : Nat) : State := { rxOn with ctxs := [(3, recvCtx tok)] }

/-- Tile 103 running; the same in an unlocked lifecycle in a RUN state; fenced; spare with its patch locked. -/
def running (x : Tile) : State := { base with tiles := [(103, { x with run := 1 })] }
def debugging (r : Nat) : State := { base with boot := { st := 7, lifecycle := 1 }, tiles := [(103, { run := r })] }
def fencedTile : State := { base with hdrs := [(tilePage 103, { fenced := true })] }
def spareTile103 : State := { base with tiles := [(103, { patchLocked := true })] }

/-- A unit, and a flow entry word for it in the flow 0 of port 2 (the low byte's flags, then the port), with a rate of 1 Mb/s. -/
def aUnit : EgUnit := { ctx := 3, pic := 1, num := 0, ts := 0, bytes := [1, 2, 3, 4], first := false, last := false, buf := none, fifo := 0, at_ := 0 }
def sending (w : Nat) : State := { base with
  regs := [(rkey schedPg 0 0x200, BitVec.ofNat 32 w)], flows := [(0, { units := [aUnit] })] }

/-- A packet on a port, on the wire or not, with the units it ends. -/
def aPacket (wire : Bool) (us : List EgUnit) : Pkt := {
  flow := 0, data := [1], bytes := [1], done := us, ctx := 3, fifo := 0, words := 0, sampled := none, wire := wire }
def onPort (p : Nat) (wire : Bool) (us : List EgUnit) : State := { base with
  eports := [(p, { cur := some (aPacket wire us) })], eths := [(1, { linkUp := true })] }

/-- ETH1 up and enabled with n transmit timestamps. -/
def linkedEth (n : Nat) : State := { base with
  hdrs := [(ethPage 1, { enable := true })], regs := [(rkey (ethPage 1) 0 0x100, 3)]
  eths := [(1, { linkUp := true, ptp := List.replicate n ⟨0, 0, 0⟩ })] }

/-- Port SF3 UP with class 7 expecting 7, one flit taken, and flits kept for retry; a flit of class 7 for device 0x7FF. -/
def flitting (u : List TxFlit) : State := { base with
  dt := 2 ^ 60
  sfs := [(3, { link := { st := 3 }, rx := (List.replicate 8 {}).set 7 { next := 7, taken := 1, seen := true }
                tx := (List.replicate 8 {}).set 7 { unacked := u } })] }
def flitting32 : State := { flitting [] with
  sfs := [(3, { link := { st := 3 }, rx := (List.replicate 8 {}).set 7 { next := 7, taken := 31, seen := true } })] }
def aFlit (typ seq : Nat) : List Byte := flitBytes typ 7 0 seq 0x7FF 1 true false [1, 2] 0

/-- The master with SF3 UP, device 2 in its table and a probe out. -/
def leading (now : Nat) : State := { base with
  dt := now, straps := { cascadeRoot := true }, sfs := [(3, { link := { st := 3 } })]
  casc := { devId := 0, enumDone := true, nodes := [(1, {}), (2, {})], nextId := 2047, enumCur := some ⟨0, 3, 2047, 1⟩ } }

/-- A device below it whose parent is behind SF3 and whose links SF2 and SF3 are UP. -/
def following : State := { base with
  dt := 2 ^ 41, sfs := [(2, { link := { st := 3 } }), (3, { link := { st := 3 }, deadPeer := true, heard := true })]
  casc := { devId := 5, enumDone := true, parentPort := some 3, syncOut := true, syncMiss := 5, syncLock := true } }

/-- A plan that deepens a stream over devices 1 and 2 with its home in device 1, its contract at address 64, and the master that reads it. -/
def aPlan : List Byte := sparse 64 [(0, 2), (1, 2), (2, 1), (8, 64), (0x10, 1), (0x12, 2)]
def planning : State := { leading 0 with hostMem := [(0, 2), (1, 2), (2, 1), (8, 64), (0x10, 1), (0x12, 2)] }

/-- A device with a flow for port SF0 that can take a stream's home. -/
def homing : State := { base with queues := [(0, { st := 1, enable := true, guar := true })], regs := [(rkey schedPg 0 0x200, 0x301), (rkey schedPg 0 0x300, 0x301), (rkey schedPg 0 0x304, 1)] }

/-- A stream over two devices in a state of its admission, in the master's list. -/
def aStream (st : Nat) : CascStream := { id := 9, plan := aPlan, contract := List.replicate 128 0, devs := [1, 2], st := st }
def streaming (st : Nat) : State := { leading 0 with casc := { (leading 0).casc with streams := [aStream st] } }

/-- Semaphore 63 held by C0005 of the master; a remote request that waits on pool 63. -/
def semHeld : State := { leading 0 with casc := { (leading 0).casc with sems := [(63, { held := true, dev := 0, owner := 5 })] } }
def waitingRemote : State := { base with
  tick := 2 ^ 30, pools := [(63, { enable := true, ready := true, waiters := [⟨.remote 2 7 0, 5, 0⟩] })] }

/-- Island parameters: tap group 1 takes port 5, rows of 32 lines and two packets, EXPO3; with or without a coded root. -/
def tapPairs : List (Nat × Nat) := [(0, 1), (2, 1), (0x30, 0x20), (0x31, 32), (0x32, 2), (0x34, 3), (0x38, 0xE8), (0x39, 3), (0x3C, 1)]
def goodParam : List Byte := sparse 256 tapPairs

/-- The Island in RUN with these open frames; with frame 5 of the group closed; a frame 5 with the keys taken. -/
def tapping (fs : List IslFrame) : State := { base with
  isl := { st := 2, cur := { param := goodParam }, grpParam := List.replicate 4 goodParam, frames := fs }
  taps := [⟨5, 9, 1, goodPkt⟩] }
def tapNone : State := { tapping [] with taps := [⟨0, 9, 1, goodPkt⟩] }
def tapPast : State := { tapping [] with isl := { (tapping []).isl with closedFrames := [(1, [5])] } }
def tapFrame (ks : List (Nat × Nat × Nat)) : IslFrame := { group := 1, num := 5, params := goodParam, keys := ks }

/-- A frame of a coded group on port 7; the same frame closed; an exposure that has begun. -/
def codedFrame : IslFrame := { group := 1, num := 5, params := sparse 256 [(0x30, 0x81), (0x35, 1)] }
def codedTap : State := { base with
  isl := { st := 2, frames := [codedFrame], cur := { param := codedFrame.params } }, unitTaps := [⟨1023, 0, 5, [1], false, 0x80⟩] }
def exposing : State := { base with isl := { st := 2, expo := (List.replicate 32 {}).set 15 { start := 1 } } }
def codedWait : State := { base with isl := { st := 2, frames := [{ codedFrame with closed := true }] } }

/-- Copies of the Island's memory that resolve, and that do not. -/
def islGood : State := { base with isl := { nvm := [{ good := true }, { good := true }, { good := true }], fw := [{ good := true }, { good := true }, { good := true }] } }
def islTorn : State := { base with isl := { islGood.isl with nvm := [{}, {}, {}] } }

/-- A tile that runs a job; a DMA channel with a descriptor that waits for its trigger (2) or runs (3). -/
def abortTile : State := { base with tiles := [(103, { run := 1 })], hdrs := [(0x167, { enable := true })] }
def abortDma (st : Nat) : State := { base with dmas := [(31, { st := st, fetched := [⟨0, List.replicate 64 0⟩] })] }

/-- Two good seconds seen. -/
def thirdPps : State := { base with isl := { st := 2, tb := { seen := true, refOk := true, good := 2 } } }

/-- A frame of ISL_SPI with its CRC; the Island in a state with an open seal and staged bytes; with a good block staged. -/
def spiFrame (code : Nat) (a : List Byte) : SpiFrame := ⟨a.length, a, BitVec.ofNat 32 (crc32c (toBE 1 code ++ toBE 2 a.length ++ a))⟩
def sealIsl (st : Nat) : State := { base with
  isl := { st := st, sealOpen := true, stParam := [(0, 9)], stFw := [(0, 9)], staged := true, cur := { log := List.replicate 32 [] } } }
def goodStaged : State := { base with
  isl := { st := 3, sealOpen := true, stParam := (List.range 256).map fun i => (i, getIx goodParam i 0), staged := true } }

/-- Boot from the host by the strap; with an empty flash; with a copy whose digests and keys are zero, in RMA. -/
def strapHost : State := { State.reset with straps := { bootSrc := 1 } }
def flashEmpty : State := { State.reset with flashOk := true, flashSize := 131072 }
def bundlePairs : List (Nat × Nat) := [(0, 0x4D), (1, 0x56), (2, 0x42), (3, 0x31), (4, 1), (6, 4), (8, 9), (0x12, 1),
  (0x80, 1), (0x89, 0x10), (0xC0, 2), (0xC9, 0x20), (0x100, 3), (0x109, 0x30), (0x140, 4), (0x149, 0x40)]
def zeroKeys : Fuses := { rma := true, permRma := 1, keyHash := List.replicate 4 (List.replicate 48 0) }
def flashB : State := { flashEmpty with flash := bundlePairs.map (fun e => (e.1 + 65536, BitVec.ofNat 8 e.2)), fuses := zeroKeys }
def flashGood : State := { flashEmpty with flash := bundlePairs.map fun e => (e.1, BitVec.ofNat 8 e.2), fuses := zeroKeys }

/-- Recovery with nothing, and with the copy in host memory. -/
def recovering : State := { State.reset with boot := { st := 5 } }
def recGood : State := { State.reset with
  boot := { st := 5, lifecycle := 2 }, hostMem := bundlePairs.map fun e => (e.1, BitVec.ofNat 8 e.2), fuses := zeroKeys
  regs := [(rkey bootPg 0 0x118, 65536)] }

/-- An SVN of 128 in force and the strap unlocked; the PCIe link up. -/
def svnReady : State := { base with boot := { st := 7, svn := 128 }, straps := { lifecycleLock := false } }
def attesting : State := { base with boot := { st := 7, pcieUp := true } }

/-- Tile 103 ungated and idle for 50 µs; a power state with the bulk pool's power admitted; DOZE with a software source pending. -/
def idleTile103 : State := { base with tick := 5000, tiles := [(103, { ungated := true })] }
def powered (st : Nat) : State := { base with pwr := { st := st }, booth := { admMw := 85200 } }
def dozing' : State := { base with crier := [(511, { level := true })], regs := [(rkey crierPg 511 0x184, 0x1FF00F1)] }
def dozing : State := { dozing' with pwr := { st := 2 } }
def takenSrc : State := { dozing' with crier := [(511, { level := true, owner := some 3 })] }

/-- HBM_PRESERVE set; a page locked by the host and one by the cascade master for owners of neither's contexts. -/
def preserving : State := { base with regs := [(rkey (phyPage 0) 0 0x104, 1)], hbm := [(1, 2)] }
def lockedBy : State := { base with hdrs := [(0x20, { lockHeld := true, lockOwner := 0x7FE, lockClass := some .host }),
                                              (0x190, { lockHeld := true, lockOwner := 0x7FE, lockClass := some .master })] }

/-- Both references present; a SET or STEP due, with contexts. -/
def clocked : State := { base with clk := { rootLock := true, coreOk := true, pcieOk := true, ethOk := true } }
def commanded (set : Bool) (cs : List (Nat × Ctx)) : State := { base with
  clk := { base.clk with cmd := some (set, ((2 ^ 80 - 1 : Nat) : Int), 0) }, ctxs := cs }

/-- STACK_TEMP of stack 0 raised; Steward 0 late; its miss recorded. -/
def raised : State := { base with hdrs := [(0x310, { fltSrc := 2 })] }
def beating : State := { base with boot := { st := 7, doneFlag := true }, tick := 1000000 }
def missing : State := { beating with flt := { missed := [true, false, false, false] } }

/-- GC31 and tile 103's TC15 counting, and its sampler on. -/
def counting : State := { base with regs := [(rkey perfPg 0 0x100, 1), (rkey perfPg 0 0x27C, 0x500),
  (rkey perfPg 119 0x120, 0xFFC00000), (rkey perfPg 119 0x33C, 0x403)] }

/-- A booth that can admit the contract at the request address 0, whatever its memory and fabric load: two ready tiles, pool 0 with room, queue 0. -/
def openBooth : State := { closedBooth with
  booth := {}, queues := [(0, { st := 1, enable := true, guar := true })]
  hdrs := (List.range 8).map fun t => (tilePage t, { enable := true })
  tiles := (List.range 8).map fun t => (t, { enabled := true, patchLocked := true })
  regs := [(rkey 0x190 0 0x114, 64), (rkey schedPg 0 0x200, 0x301), (rkey schedPg 0 0x300, 0x301), (rkey schedPg 0 0x304, 1)]
  pools := [(0, { enable := true, ready := true, stack := List.range 64 })] }

/-! Witnesses of IdleStepTicks. -/

theorem wit_idle_stopped : State.reset.pending = [] ∧ clockRuns State.reset = false := by decide
theorem wit_idle_runs : base.pending = [] ∧ clockRuns base = true ∧ base.clk.slew = none ∧ base.clk.sync = 0 := by decide

/-! Witnesses of RegWriteDiscards. -/

theorem wit_stHeld : stHeld State.reset (.steward 2) = true := by decide
theorem wit_badSize : stHeld base .host = false ∧ (0x5008 : Nat) < 2 ^ 26 ∧ (1 : BitVec 4) ≠ 0 ∧ (1 : BitVec 4) ≠ 15 ∧ busUp base = true ∧
    base.pwr.st ≠ 2 ∧ base.flt.fault = false := by decide
theorem wit_unmapped : stHeld base .host = false ∧ (0x8000 : Nat) < 2 ^ 26 ∧ busUp base = true ∧ base.pwr.st ≠ 2 ∧
    pageLive base (0x8000 / 4096) = false ∧ unassigned .host (0x1040 / 4096) (0x1040 % 4096 / 4 * 4) = true := by decide
theorem wit_faultDeny : stHeld faulted .host = false ∧ (0x5014 : Nat) < 2 ^ 26 ∧ busUp faulted = true ∧ faulted.pwr.st ≠ 2 ∧ faulted.flt.fault = true ∧
    pageLive faulted (0x5014 / 4096) = true ∧ 0x5014 / 4096 ≠ rstPg ∧
    unassigned .host (0x5014 / 4096) (0x5014 % 4096 / 4 * 4) = false := by decide
theorem wit_heldDeny : (0x100 * 4096 + 0x008 : Nat) < 2 ^ 26 ∧ busUp admitted = true ∧ admitted.pwr.st ≠ 2 ∧
    admitted.flt.fault = false ∧ pageLive admitted 0x100 = true ∧ (hdr admitted 0x100).inReset = false ∧
    pageHeld admitted 0x100 = true := by decide

/-! Witnesses of RegWriteStores. -/

theorem wit_ethCfg : Accepts base .host (ethPage 1) 0x100 ∧ (regRow .eth 1 0x100).isSome = true := by decide
theorem wit_stores_rw : Accepts base .host 0x180 0x108 ∧ pageAt 0x180 = some (.hbm, 0) := by decide

/-! Witnesses of RegReads. -/

theorem wit_readAny : pageAt pwrPg = some (.pwr, 0) ∧ (.pwr = PageKind.tile → (0x110 ≠ 0x134 ∧ 0x110 ≠ 0x138)) ∧ busUp base = true ∧
    pageLive base pwrPg = true ∧ nget base.latches (latchKey .host pwrPg 0x110) = none ∧ (hdr base pwrPg).inReset = false := by
  refine ⟨by decide, ?_, by decide, by decide, by decide, by decide⟩
  intro h; cases h
theorem wit_readClear : pageAt topPg = some (.top, 0) ∧ busUp base = true ∧ pageLive base topPg = true ∧
    (hdr base topPg).inReset = false ∧ (regRow .top 0 0x108).map (·.acc) = some .rc ∧
    nget base.latches (latchKey .host topPg 0x108) = none := by decide
theorem wit_readKinds : pageAt schedPg = some (.sched, 0) ∧ pageLive base schedPg = true ∧ (hdr base schedPg).inReset = false ∧
    nget base.latches (latchKey .host schedPg 0x284) = none ∧ pageAt 0x1D0 = some (.sensor, 0) ∧ pageLive base 0x1D0 = true ∧
    nget base.latches (latchKey .host 0x1D0 0x190) = none := by decide
theorem wit_readLatch : pageAt 0x1B0 = some (.crc, 0) ∧ busUp base = true ∧ pageLive base 0x1B0 = true ∧
    (hdr base 0x1B0).inReset = false ∧ (regRow .crc 0 0x148).map (·.pair) = some true ∧
    nget base.latches (latchKey .host 0x1B0 0x148) = none := by decide
theorem wit_fromLatch : nget ({ base with latches := [(latchKey .host 0x1B0 0x14C, 7)] } : State).latches
    (latchKey .host 0x1B0 0x14C) = some 7 := by decide

/-! Witnesses of EventsForced. -/

theorem wit_evtForce : Accepts base .host 0x1D0 0x018 := by decide
theorem wit_busDown : busUp ({ base with pwr := { mainOn := false } } : State) = false := by decide

/-! Witnesses of PageLocks. -/

theorem wit_lockAcquire : Accepts base .host 0x20 0x030 ∧ (hdr base 0x20).lockHeld = false ∧ (0x43F : BitVec 11).toNat < 0x440 := by decide
theorem wit_lockDiscard : Accepts base .host 0x20 0x030 ∧ 0x440 ≤ (0x440 : BitVec 11).toNat := by decide
theorem wit_lockRelease : Accepts locked .host 0x20 0x030 ∧ (hdr locked 0x20).lockHeld = true ∧ (hdr locked 0x20).lockOwner = 5 := by decide
theorem wit_lockForce : Accepts locked (.steward 0) 0x20 0x030 ∧ (hdr locked 0x20).lockHeld = true := by decide

/-! Witnesses of CommitAndBoundary. -/

theorem wit_commit : Accepts base .host 0x180 0x028 ∧ pageAt 0x180 = some (.hbm, 0) := by decide
theorem wit_shadowApply : busUp committed = true ∧ pageAt 0x180 = some (.hbm, 0) ∧
    (committed.snaps.find? fun m => m.page == 0x180 && m.bank == 0).isSome = true := by decide
theorem wit_boundary : atBoundary committedLate ⟨0x180, 0, 7, [(rkey 0x180 0 0x100, 0x1F1F)], 0⟩ = true ∧ busUp committedLate = true ∧
    committedLate.snaps = [⟨0x180, 0, 7, [(rkey 0x180 0 0x100, 0x1F1F)], 0⟩] ∧ atBoundary committed ⟨0x180, 0, 7, [(rkey 0x180 0 0x100, 0x1F1F)], 0⟩ = false ∧
    pageAt grnPg = some (.grn, 0) ∧ atBoundary base ⟨grnPg, 0, 7, [], 0⟩ = true ∧
    pageAt 0x1F0 = some (.selfold, 0) ∧ atBoundary sfSnap ⟨0x1F0, 0, 1, [], 0⟩ = true ∧ sfSnap.snaps = [⟨0x1F0, 0, 1, [], 0⟩] := by decide
theorem wit_noSnap : busUp base = true ∧ ∀ n ∈ base.snaps, ¬ (n.page = 0x180 ∧ n.bank = 0) := by decide

/-! Witnesses of PageControl. -/

theorem wit_abortTile : Accepts abortTile .host 0x167 0x008 ∧ pageAt 0x167 = some (.tile, 103) ∧ (getTile abortTile 103).run = 1 ∧
    (hdr abortTile 0x167).enable = true := by decide
theorem wit_abortDma : pageAt (dmaPage 31) = some (.dma, 31) ∧ Accepts (abortDma 2) .host (dmaPage 31) 0x008 ∧
    Accepts (abortDma 3) .host (dmaPage 31) 0x008 ∧ (getDma (abortDma 2) 31).fetched = [⟨0, List.replicate 64 0⟩] ∧
    (getDma (abortDma 2) 31).st = 2 ∧ (abortDma 2).snaps = [] ∧ (getDma (abortDma 3) 31).st = 3 ∧
    Accepts base .host (dmaPage 31) 0x008 ∧ (getDma base 31).fetched = [] ∧ (getDma base 31).st ≠ 5 ∧
    Accepts ({ base with dmas := [(31, { st := 5 })] } : State) .host (dmaPage 31) 0x008 := by decide
theorem wit_pageEnable : Accepts enabled .host 0x1D0 0x008 ∧ pageAt 0x1D0 = some (.sensor, 0) ∧ canQuiesce .sensor = true ∧
    (hdr enabled 0x1D0).enable = true := by decide
theorem wit_pageIdle : alive dropping = true ∧ (hdr dropping 0x1D0).dropEnable = true ∧ blockActive dropping 0x1D0 = false := by decide
theorem wit_pageAbort : Accepts base .host 0x167 0x008 ∧ pageAt 0x167 = some (.tile, 103) ∧ blockActive base 0x167 = false ∧
    tileBusy (getTile base 103) = false := by decide

/-! Witnesses of BlockResetClears. -/

theorem wit_blockReset : Accepts enabled .host 0x1D0 0x008 ∧ pageAt 0x1D0 = some (.sensor, 0) := by decide
theorem wit_blockResetEnd : busUp base = true ∧ base.rst.tiles = [] := by decide
theorem wit_blockResetNone : Accepts base .host topPg 0x008 ∧ pageAt topPg = some (.top, 0) ∧ canReset .top = false := by decide
theorem wit_blockResetDenied : Accepts admitted .host grnPg 0x008 ∧ anyAdm admitted (fun _ _ => true) = true := by decide

/-! Witnesses of BoothAdmit. -/

theorem wit_admit_refused : Accepts closedBooth .host tkbPg 0x100 ∧ closedBooth.booth.busy = false ∧
    memRead closedBooth 0 (reqAddr closedBooth) 128 = (goodContract, none, false) ∧
    (match validate closedBooth 0 goodContract with
     | .inr p => (match checks closedBooth 0 0 goodContract p with | .inl (f, _, _) => f == 2 | _ => false)
     | _ => false) = true := by decide
theorem wit_admit_granted (hm : ∀ b, Config.memDemand b = 0) (hs : ∀ a b c d, Config.slotEntries a b c d = [])
    (ht : ∀ b, Config.tileTraffic b = (0, 0)) (hp : ∀ a b, Config.fabricPrivileged a b = false) :
    (match validate openBooth 0 goodContract with
     | .inr p => (match checks openBooth 0x7FF 0 goodContract p with | .inr pl => pl.tiles.length == 2 | .inl _ => false)
     | .inl _ => false) = true := by
  have e1 : slotPlan openBooth = fun _ _ _ => none := by funext a b c; simp [slotPlan, hs]
  have e0 : fabDma goodContract = 1 := by decide
  have e2 : ∀ mp ts ps a, fabLoad ⟨mp, goodContract, ts, ps⟩ a ≤ 1 := by
    intro mp ts ps a
    have h : ((fabDmaRoutes ⟨mp, goodContract, ts, ps⟩).filter fun r => (routeIn r.1 r.2 a).isSome).length ≤ ps.length := by
      refine le_trans (List.length_filter_le _ _) ?_
      unfold fabDmaRoutes; split <;> simp
    simp only [fabLoad, ht, e0, cdiv, Nat.zero_mul, Nat.one_mul, Nat.zero_add]
    split <;> split <;> rename_i h1 h2
    · simp
    · rw [Nat.zero_add]
      exact Nat.lt_succ_iff.1 (Nat.div_lt_of_lt_mul (by omega))
    · rw [Nat.add_zero, Nat.div_eq_of_lt (by omega)]; simp
    · rw [Nat.div_eq_of_lt (by omega : ts.length * ps.length - 1 < ts.length * ps.length), Nat.zero_add]
      exact Nat.lt_succ_iff.1 (Nat.div_lt_of_lt_mul (by omega))
  have e6 : ∀ l : List Nat, (∀ n ∈ l, n ≤ 1) → maxN l ≤ 1 := by
    intro l h
    have g : ∀ (l : List Nat) (k : Nat), k ≤ 1 → (∀ n ∈ l, n ≤ 1) → l.foldl max k ≤ 1 := by
      intro l; induction l with
      | nil => intro k hk _; exact hk
      | cons x r ih => intro k hk hl; exact ih _ (by have := hl x (by simp); omega) fun n hn => hl n (by simp [hn])
    exact g l 0 (by omega) h
  have e7 : openBooth.ctxs = [] := rfl
  have e4 : ∀ mp ts ps, fabCheck [] ⟨mp, goodContract, ts, ps⟩ =
      ((meshArbs.find? fun a => decide (4 < fabRank2 [⟨mp, goodContract, ts, ps⟩] a)).map fun a => fabLoad ⟨mp, goodContract, ts, ps⟩ a) := by
    intro mp ts ps
    have e5 : fabPeak [⟨mp, goodContract, ts, ps⟩] ≤ 1 := by
      refine e6 _ fun n hn => ?_
      obtain ⟨a, _, rfl⟩ := List.mem_map.1 hn
      simpa [sumN] using e2 mp ts ps a
    simp only [fabCheck, fabCrowd, List.nil_append, hp, Bool.and_false, Bool.or_false]
    rw [if_neg (by omega)]
  simp only [checks, hm, e1, e7, List.filter_nil, List.map_nil, e4, grnRoom, planMw]
  decide +kernel
theorem wit_admit_reads : Accepts openBooth .host tkbPg 0x100 ∧ openBooth.booth.busy = false ∧
    memRead openBooth 0 (reqAddr openBooth) 128 = (goodContract, none, false) := by decide
theorem wit_admit_invalid : Accepts base .host tkbPg 0x100 ∧ base.booth.busy = false ∧
    memRead base 0 (reqAddr base) 128 = (List.replicate 128 0, none, false) ∧
    (match validate base 0 (List.replicate 128 0) with | .inl _ => true | _ => false) = true := by decide
theorem wit_admit_busy : Accepts ({ base with booth := { busy := true } } : State) .host tkbPg 0x100 := by decide

/-! Witnesses of BoothReleaseRelist. -/

theorem wit_release_open : Accepts framed .host tkbPg 0x100 ∧ framed.booth.busy = false ∧
    (getCtx framed (0 % 2048)).map (fun x => (x.kind, x.rel, x.frame.isSome)) = some (.admitted, 0, true) := by decide
theorem wit_release_none : Accepts base .host tkbPg 0x100 ∧ ∀ x, getCtx base (5 % 2048) = some x → x.kind ≠ .admitted := by
  refine ⟨by decide, ?_⟩
  intro x h
  simp [getCtx, base, State.reset, nget] at h
theorem wit_relist : Accepts listed .host tkbPg 0x100 ∧ listed.booth.busy = false ∧
    (memRead listed 0 (reqAddr listed) 32).2 = (none, false) ∧ listBad (memRead listed 0 (reqAddr listed) 32).1 = none ∧
    listed.ctxs = [] := by decide

/-! Witnesses of CarouselLists. -/

theorem wit_carStart : alive pendingList = true ∧ (getCar pendingList 24).pend.isSome = true ∧
    (getCar pendingList 24).pend.any (fun p => decide (p.start ≤ pendingList.dt)) = true := by decide
theorem wit_cycleSnap : portSnap.snaps = [⟨0x1E0, 0, 1, [], 0⟩] ∧ snapPort portSnap ⟨0x1E0, 0, 1, [], 0⟩ = some 0 ∧
    cycleSince portSnap 0 ⟨0x1E0, 0, 1, [], 0⟩ = true ∧
    ∀ n ∈ portSnap.snaps, snapPort portSnap n = some 1 → cycleSince portSnap 1 n = false := by decide
theorem wit_carEarly : alive earlyList = true ∧ (getCar earlyList 24).pend.any (fun p => decide (earlyList.dt < p.start)) = true := by decide

/-! Witnesses of HbmRequests. -/

theorem wit_hbmPass : alive mapped = true ∧ mapped.ingress = [] ∧ cutReq (rd256.len + 1) rd256 = [rd256] ∧ mayPass mapped rd256 = true := by decide
theorem wit_hbmWait : alive fullQueue = true ∧ fullQueue.ingress = [] ∧ mayPass fullQueue rd256 = false := by decide
theorem wit_hbmGrant : ingGrant ({ mapped with ingress := [rd256] } : State) = some ((0, rd256), false) ∧ mapped.ingress = [] := by decide
theorem wit_hbmRead : alive (withQueue rd256) = true ∧ blockUp (withQueue rd256) (pcPage 0) = true ∧ pcRuns (withQueue rd256) 0 = true ∧
    (getPc (withQueue rd256) 0).period < 31 ∧ l24Stalls (withQueue rd256) 0 = false ∧ beforeL24 (withQueue rd256) 0 2 = true ∧
    (getPc (withQueue rd256) 0).replays = [] ∧ (getPc (withQueue rd256) 0).debtBad = false ∧
    (getPc (withQueue rd256) 0).queue = [rd256] ∧ (hbmLoc (withQueue rd256) rd256.addr).isSome = true := by decide
set_option maxRecDepth 8000 in
theorem wit_hbmWrite : (getPc (withQueue wr256) 0).queue = [wr256] ∧ wr256.wr = true ∧ wr256.len = 256 ∧ wr256.data.length = 256 ∧
    reqOn wr256 = 256 ∧ beforeL24 (withQueue wr256) 0 1 = true ∧
    (hbmLoc (withQueue wr256) wr256.addr).isSome = true ∧ alive (withQueue wr256) = true := by decide
theorem wit_hbmPartial : (getPc (withQueue wrPart) 0).queue = [wrPart] ∧ wrPart.wr = true ∧ reqOn wrPart < 256 ∧
    beforeL24 (withQueue wrPart) 0 2 = true ∧ (hbmLoc (withQueue wrPart) wrPart.addr).isSome = true := by decide
theorem wit_hbmIdle : alive mapped = true ∧ (getPc mapped 0).queue = [] ∧ (getPc mapped 0).replays = [] ∧ pcRuns mapped 0 = true ∧
    l24Stalls mapped 0 = false := by decide
set_option maxRecDepth 8000 in
theorem wit_hbmDone : alive (reading 0) = true ∧ (getPc (reading 0) 63).reads = [{ req := rd256 }] ∧ blockUp (reading 0) (pcPage 63) = true ∧
    (reading 0).hbmPoison.contains (reqBlock (reading 0) rd256) = false ∧ (getPc (reading 0) 63).debt = 0 ∧
    (getPc (reading 0) 63).replays = [] := by decide
theorem wit_hbmDebt : alive (reading 1) = true ∧ (getPc (reading 1) 63).reads = [{ req := rd256 }] ∧ (getPc (reading 1) 63).debt ≠ 0 := by decide
set_option maxRecDepth 8000 in
theorem wit_hbmAck : alive acking = true ∧ (getPc acking 63).writes = [wr256] := by decide

/-! Witnesses of HbmUpkeep. -/

theorem wit_spare : alive noScrub = true ∧ blockUp noScrub (pcPage 63) = true ∧ (getPc noScrub 63).replays = [] ∧
    pcRuns noScrub 63 = true ∧ 31 ≤ (getPc noScrub 63).period ∧ l24Stalls noScrub 63 = false ∧
    rbits noScrub (phyPage 0) 0 0x114 0 0 = 0 := by decide
theorem wit_parity : alive alerted = true ∧ blockUp alerted (pcPage 63) = true ∧ (getPc alerted 63).last = some (some rd256) ∧
    l24Stalls alerted 63 = false ∧ (getPc alerted 0).last = none := by decide
theorem wit_parityWindow : alive inWindow = true ∧ blockUp inWindow (pcPage 63) = true ∧ l24Stalls inWindow 63 = true := by decide
theorem wit_l24Snap : alive committed = true ∧ committed.snaps.length = 1 ∧ pageAt 0x180 = some (.hbm, 0) := by decide
theorem wit_scrubRow : comRow 15 = base.comScrub := by decide

/-! Witnesses of FifoPointers. -/

theorem wit_fifoWrite : alive fifoed = true ∧ fifoOn fifoed 255 = true ∧ blockUp fifoed fifoPg = true ∧
    fifoRoom (fifoLog fifoed 255) (getFifo fifoed 255) ≠ 0 ∧ (getFifo fifoed 255).marked = true ∧ fifoed.snaps = [] := by decide
theorem wit_fifoFull : fifoOn fifoFull 255 = true ∧ fifoRoom (fifoLog fifoFull 255) (getFifo fifoFull 255) = 0 ∧
    (getFifo fifoFull 255).stalled = false ∧ alive fifoFull = true := by decide
theorem wit_fifoRead : fifoReadable fifoed 255 = true ∧
    fifoed.comPoison.contains (fifoAddr fifoed 255 (getFifo fifoed 255).rd) = false := by decide
theorem wit_fifoStall : alive fifoStuck = true ∧ (getFifo fifoStuck 255).stalled = true ∧
    fifoHeld (fifoLog fifoStuck 255) (getFifo fifoStuck 255) = true ∧ (getFifo fifoStuck 255).stallTold = false ∧ fifoRoom (fifoLog fifoStuck 255) (getFifo fifoStuck 255) < (getFifo fifoStuck 255).need ∧
    rbits fifoStuck fifoPg 255 0x210 23 0 < (fifoStuck.tick - (getFifo fifoStuck 255).stallAt) * 16 := by decide

/-! Witnesses of RingDistance. -/

theorem wit_ring : (16 : Nat) ≤ 16 ∧ (2 ^ 17 - 1 : Nat) < 2 ^ 17 ∧ (2 ^ 17 - 1 : Nat) < 2 ^ (16 + 1) := by decide

/-! Witnesses of GranaryAlloc. -/

theorem wit_alloc : Accepts pooled (.steward 3) grnPg 0x140 ∧ (getRes pooled 4).waiting = false ∧ blockUp pooled grnPg = true ∧
    (0x43F : BitVec 11).toNat < 0x440 ∧ poolUp (getPool pooled 63) = true ∧ (grnDecide (getPool pooled 63) 0x43F).isSome = true := by decide
theorem wit_allocEmpty : poolUp (getPool poolEmpty 63) = true ∧ grnDecide (getPool poolEmpty 63) 5 = none ∧
    (getPool poolEmpty 63).waiters.length < 64 ∧ Accepts poolEmpty (.steward 0) grnPg 0x140 := by decide
theorem wit_free : freeCheck poolEmpty 63 0 7 = 0 ∧ (getPool poolEmpty 63).waiters = [] ∧ freeCheck poolEmpty 63 0 6 = 5 := by decide
theorem wit_cancel : Accepts waitingHost .host grnPg 0x140 ∧ (getRes waitingHost (rqIx .host)).waiting = true ∧
    blockUp waitingHost grnPg = true := by decide
theorem wit_grnMin : (setMin pooled 63 5 1).isSome = true ∧ setMin pooled 63 5 5 = none ∧ Accepts pooled (.steward 0) grnPg 0x134 := by decide
theorem wit_allocDenied : Accepts base .host grnPg 0x140 ∧ (getRes base 0).waiting = false ∧ (0x41F : BitVec 11).toNat < 0x420 := by decide

/-! Witnesses of GranaryPools. -/

theorem wit_poolEnable : Accepts base .host grnPg 0x104 ∧ (getPool base 63).enable = false ∧ rangeBad base 63 = false := by decide
theorem wit_poolBadRange : rangeBad poolWide 63 = true ∧ Accepts poolWide .host grnPg 0x104 := by decide
theorem wit_poolReady : alive poolFilling = true ∧ (getPool poolFilling 63).enable = true ∧ (getPool poolFilling 63).ready = false := by decide
theorem wit_poolDisable : Accepts poolFilling .host grnPg 0x104 ∧ (getPool poolFilling 63).tags = [] ∧
    (getPool poolFilling 63).waiters = [] := by decide
theorem wit_poolHeld : (getPool poolEmpty 63).enable = true ∧ (getPool poolEmpty 63).tags ≠ [] ∧
    Accepts poolEmpty .host grnPg 0x104 := by decide
theorem wit_grnTimeout : alive waitingHost = true ∧ (getPool waitingHost 63).waiters = ⟨.req .host, 5, 0⟩ :: [] ∧
    rbits waitingHost grnPg 0 0x120 23 0 ≠ 0 ∧ rbits waitingHost grnPg 0 0x120 23 0 * 100 ≤ waitingHost.tick - 0 := by decide

/-! Witnesses of DmaRing. -/

theorem wit_dmaTail : Accepts dmaReady .host (dmaPage 31) 0x10C ∧
    ringDist (dmaLog dmaReady 31) (getDma dmaReady 31).head (posOf (dmaLog dmaReady 31) (0x10000 : BitVec 17).toNat) ≤ 2 ^ dmaLog dmaReady 31 ∧
    2 ^ dmaLog dmaReady 31 < ringDist (dmaLog dmaReady 31) (getDma dmaReady 31).head (posOf (dmaLog dmaReady 31) (0x10001 : BitVec 17).toNat) := by decide
theorem wit_dmaFetch : alive dmaReady = true ∧ takesWork dmaReady (dmaPage 31) = true ∧ (getDma dmaReady 31).st = 0 ∧
    (getDma dmaReady 31).bound = none ∧ (getDma dmaReady 31).fetched = [] ∧ (getDma dmaReady 31).head ≠ (getDma dmaReady 31).tail ∧
    memRead dmaReady (dmaLoc dmaReady 31) (descAddr dmaReady 31 (getDma dmaReady 31).head) 64 = (List.replicate 64 0, none, false) ∧
    descOk 31 (List.replicate 64 0) = true ∧ dTrig (List.replicate 64 0) = 0 := by decide
theorem wit_dmaRun : alive dmaRunning = true ∧ blockUp dmaRunning (dmaPage 31) = true ∧ (getDma dmaRunning 31).st = 3 ∧
    (getDma dmaRunning 31).fetched = [⟨0, List.replicate 64 0⟩] ∧ moveErr dmaRunning (List.replicate 64 0) = none ∧ dmaRunning.snaps = [] ∧
    (confirmRead (dmaMove dmaRunning (List.replicate 64 0)).1 (List.replicate 64 0)).1 = false ∧
    (srcStream dmaRunning (dSrc (List.replicate 64 0))).any (fun b => b.2.1) = false := by decide
theorem wit_dmaFetchErr : takesWork dmaReady (dmaPage 31) = true ∧ (getDma dmaReady 31).st ≠ 5 ∧ (getDma dmaReady 31).fetched = [] := by decide
theorem wit_timer : alive timed = true ∧ tmrOn timed 7 = true ∧ blockUp timed (dmaPage 0) = true ∧
    (ngetD timed.timers 7 {}).next = some 0 ∧ (0 : Nat) ≤ timed.dt ∧ tmrPeriod timed 7 ≠ 0 := by decide

/-! Witnesses of CheckUnits. -/

theorem wit_crcStart : Accepts (crcSt false) .host (crcPage 7) 0x11C ∧ takesWork (crcSt false) (crcPage 7) = true ∧
    (getCrc (crcSt false) 7).busy = false := by decide
theorem wit_crcBusy : Accepts (crcSt true) .host (crcPage 7) 0x11C ∧ (getCrc (crcSt true) 7).busy = true ∧
    alive (crcSt true) = true ∧ blockUp (crcSt true) (crcPage 7) = true ∧
    ∀ b ∈ rdBytes (crcSt true) (rbits (crcSt true) (crcPage 7) 0 0x118 17 16) (rget64 (crcSt true) (crcPage 7) 0 0x120)
      (crcLen (crcSt true) 7), b.2.1 = false ∧ b.2.2 = none := by decide

/-! Witnesses of QueueDoorbells. -/

theorem wit_sqDb : busUp queued = true ∧ queued.boot.st = 7 ∧ queued.pwr.st ≠ 2 ∧ queued.flt.fault = false ∧
    (hdr queued qmgrPg).inReset = false ∧ (getQ queued 8191).enable = true ∧
    idxValid (getQ queued 8191).m (0x10000 : BitVec 17).toNat = true ∧
    ringDist (getQ queued 8191).m (getQ queued 8191).rel (posOf (getQ queued 8191).m (0x10000 : BitVec 17).toNat) ≤ 2 ^ (getQ queued 8191).m ∧
    ringDist (getQ queued 8191).m (getQ queued 8191).rel (getQ queued 8191).tail ≤
      ringDist (getQ queued 8191).m (getQ queued 8191).rel (posOf (getQ queued 8191).m (0x10000 : BitVec 17).toNat) := by decide
theorem wit_sqDbBad : (getQ queued 8191).enable = true ∧ idxValid (getQ queued 8191).m (0x10 : BitVec 17).toNat = false := by decide
theorem wit_crDone : idxValid (getQ queued 8191).n (0 : BitVec 17).toNat = true ∧
    ringDist (getQ queued 8191).n (getQ queued 8191).done (posOf (getQ queued 8191).n (0 : BitVec 17).toNat) ≤
      ringDist (getQ queued 8191).n (getQ queued 8191).done (getQ queued 8191).head ∧
    ∀ c ∈ (getQ queued 8191).slots, c.st ≠ 2 := by decide
theorem wit_dbDisabled : (getQ base 8191).enable = false ∧ base.boot.st = 7 ∧ (3 : BitVec 4) ≠ 0 ∧ (3 : BitVec 4) ≠ 15 ∧
    busUp faulted = true ∧ faulted.boot.st = 7 ∧ faulted.flt.fault = true := by decide

/-! Witnesses of QueueEntries. -/

theorem wit_seFetch : alive posted = true ∧ blockUp posted qmgrPg = true ∧ mayFetch posted 0 = true ∧
    posted.snaps = [] ∧ (fetchSe posted (getQ posted 0)).isSome = true := by decide
theorem wit_sqInval : AcceptsB posted .host qmgrPg 0x244 0 ∧ (getQ posted 0).invalDone = true ∧
    (0x10 : BitVec 17) ≠ 0 ∧ (0x10 : BitVec 17).toNat ≤ 2 ^ (getQ posted 0).m := by decide
theorem wit_invalDone : alive invaling = true ∧ blockUp invaling qmgrPg = true ∧ (getQ invaling 0).invalDone = false := by decide
theorem wit_entryStart : alive startReady = true ∧ blockUp startReady qmgrPg = true ∧ (getQ startReady 0).guar = true ∧
    (getQ startReady 0).bound.isSome = true ∧ startable startReady 0 = true ∧
    nextSe (getQ startReady 0) = some ⟨0, some (List.replicate 64 0)⟩ ∧ boundFree startReady 0 = true ∧ toAbort (getQ startReady 0) = false ∧
    seBad startReady 0 (List.replicate 64 0) = false ∧ seBad startReady 0 (List.replicate 64 7) = true := by decide
theorem wit_bulkStart : alive bulkReady = true ∧ (wrrPick bulkReady).1 = some 0 ∧
    nextSe (getQ (wrrPick bulkReady).2 0) = some ⟨0, some (List.replicate 64 0)⟩ ∧ needsSlot (getQ (wrrPick bulkReady).2 0) = false ∧
    toAbort (getQ (wrrPick bulkReady).2 0) = false ∧ seBad (wrrPick bulkReady).2 0 (List.replicate 64 0) = false ∧
    blockUp base qmgrPg = true ∧ (wrrPick base).1 = none := by decide
theorem wit_startWaits : alive hostWaits = true ∧ boundFree hostWaits 0 = false := by decide
theorem wit_nop : alive nopStarted = true ∧ blockUp nopStarted qmgrPg = true ∧
    (getQ nopStarted 0).started = (0, List.replicate 64 0) :: [] ∧ byteAt (List.replicate 64 0) 0 = 0 := by decide

/-! Witnesses of QueueCompletions. -/

theorem wit_ceReady : alive completing = true ∧ blockUp completing qmgrPg = true ∧
    (getQ completing 0).slots = [⟨0, true, false, 3, [], none⟩] ++ ⟨1, true, false, 1, [1], none⟩ :: [⟨2, true, false, 0, [], none⟩] ∧
    crRoom (getQ completing 0) = true := by decide
theorem wit_ceStaged : alive ringFull = true ∧ (getQ ringFull 0).slots = [] ++ ⟨1, true, false, 1, [1], none⟩ :: [] ∧
    crRoom (getQ ringFull 0) = false := by decide
theorem wit_headPublish : (getQ completing 0).bound = none ∧
    (getQ completing 0).slots = (⟨0, true, false, 3, [], none⟩ :: []) ++ [⟨1, true, false, 1, [1], none⟩, ⟨2, true, false, 0, [], none⟩] := by decide

/-! Witnesses of QueueControl. -/

theorem wit_queueEnable : AcceptsB base .host qmgrPg 0x200 8191 ∧ (getQ base 8191).st = 0 ∧
    ∀ c ∈ (getQ base 8191).slots, c.st ≠ 2 := by decide
theorem wit_queueQuiesce : AcceptsB queued .host qmgrPg 0x200 8191 ∧ (getQ queued 8191).st = 1 ∧ (getQ queued 8191).started = [] ∧
    (getQ queued 8191).enable = true := by decide
theorem wit_queueResume : AcceptsB quiescing .host qmgrPg 0x200 8191 ∧ (getQ quiescing 8191).st = 2 ∧
    (getQ quiescing 8191).drop = false := by decide
theorem wit_idleReached : alive quiescing = true ∧ blockUp quiescing qmgrPg = true ∧ (getQ quiescing 8191).slots = [] ∧
    toAbort (getQ quiescing 8191) = false := by decide

/-! Witnesses of BondedLinks. -/

theorem wit_links : (alive (linked 7 0 0) = true ∧ blockUp (linked 7 0 0) (sensorPage 7) = true ∧
    rbits (linked 7 0 0) (sensorPage 7) 0 0x100 16 16 = 1 ∧ (getSensor (linked 7 0 0) 7).link.st = 0) ∧
    (getSensor (linked 7 1 0) 7).link.st = 1 ∧ (getSensor (linked 7 2 0) 7).link.st = 2 ∧ (getSensor (linked 7 2 0) 7).link.rounds = 0 ∧
    (getSensor (linked 7 2 1) 7).link.rounds ≠ 0 ∧ (getSensor (linked 7 3 0) 7).link.st = 3 ∧ (64 : Nat) ≤ 64 ∧ (64 : Nat) < 65 ∧
    Instr.serdesPllLol 7 ∈ [Instr.syncHeaderLoss 7, .alignRoundMissing 7, .serdesPllLol 7] := by decide
theorem wit_sfLinks : alive (sfLinked 3 0 0) = true ∧ blockUp (sfLinked 3 0 0) (sfPage 3) = true ∧
    rbits (sfLinked 3 0 0) (sfPage 3) 0 0x100 0 0 = 1 ∧ (getSf (sfLinked 3 0 0) 3).link.st = 0 ∧
    (getSf (sfLinked 3 1 0) 3).link.st = 1 ∧ (getSf (sfLinked 3 2 1) 3).link.st = 2 ∧ (getSf (sfLinked 3 2 1) 3).link.rounds ≠ 0 ∧
    (getSf (sfLinked 3 3 0) 3).link.st = 3 := by decide

/-! Witnesses of SensorFrames. -/

theorem wit_badPacket : alive (capturing []) = true ∧ sensorUp (capturing []) 7 = true ∧ Lp.crcOk (linePkt 3) = false := by decide
theorem wit_packet : Lp.crcOk goodPkt = true ∧ (hdr (capturing []) (sensorPage 7)).enable = true ∧ portCtx (capturing []) 7 = 1023 ∧ (capturing []).snaps = [] ∧
    getCtx (capturing []) 1023 = some (capCtx []) ∧ feeds (capturing []) (capCtx []) = true ∧ (capCtx []).frame = some capFrame ∧
    capFrame.num = Lp.frame goodPkt ∧ lpFits (capCtx []).block goodPkt = true ∧ frameCoded (capCtx []).block 0 = true ∧
    frameFull (capCtx []).block (capFrame.pkts ++ [⟨Lp.plane goodPkt, Lp.line goodPkt, Lp.x0 goodPkt, Lp.samples goodPkt⟩]) = false := by
  decide
theorem wit_samePacket : getCtx (capturing [⟨0, 15, 12, [0]⟩]) 1023 = some (capCtx [⟨0, 15, 12, [0]⟩]) ∧
    (capCtx [⟨0, 15, 12, [0]⟩]).frame = some { capFrame with pkts := [⟨0, 15, 12, [0]⟩] } ∧
    ([⟨0, 15, 12, [0]⟩] : List RxPkt).any (fun q => q.plane == Lp.plane goodPkt && q.line == Lp.line goodPkt && q.x0 == Lp.x0 goodPkt) = true := by
  decide
theorem wit_marks : takesWork waitingFrame (sensorPage 7) = true ∧ sensorUp waitingFrame 7 = true ∧ (getSensor waitingFrame 7).lastMark = none ∧
    byteAt ([1, 0, 0, 0, 5, 0, 0] : List Byte) 0 = 1 ∧ getCtx waitingFrame (portCtx waitingFrame 7) = some { capCtx [] with frame := none } ∧
    feeds waitingFrame { capCtx [] with frame := none } = true ∧ frameLate { capCtx [] with frame := none } 5 = false ∧
    byteAt ([2, 0, 0, 0, 5, 0, 0] : List Byte) 0 = 2 ∧ beAt ([2, 0, 0, 0, 5, 0, 0] : List Byte) 1 4 = capFrame.num ∧
    capFrame.endPorts.contains 7 = false ∧ allEnded (capCtx []).block { capFrame with endPorts := [7] } = false := by decide
theorem wit_closeTmo : getCtx lateFrame 1023 = some (capCtx []) ∧ alive lateFrame = true ∧ (capCtx []).rel = 0 ∧
    capFrame.lastAt + nsT (rbits lateFrame (sensorPage (groupPort (capCtx []).block)) 0 0x10C 23 0) ≤ lateFrame.dt := by decide

/-! Witnesses of FsyncAndI3c. -/

theorem wit_fsync : alive (sensing {}) = true ∧ blockUp (sensing {}) (sensorPage 3) = true ∧
    (getSensor (sensing { fsyncNext := some 0 }) 3).fsyncNext = some 0 ∧ (0 : Nat) ≤ (sensing {}).dt ∧
    (getSensor (sensing { fsyncOn := true }) 3).fsyncOn = true ∧ (getSensor (sensing { fsyncOn := true }) 3).fsyncFall ≤ 0 := by decide
theorem wit_i3c : Accepts (sensing {}) (.steward 0) (sensorPage 3) 0x184 ∧ (getSensor (sensing {}) 3).i3cBusy = false ∧
    (0x80 : BitVec 32).getLsbD 7 = true ∧ (0 : BitVec 32).getLsbD 7 = false ∧
    (getSensor (sensing { i3cBusy := true }) 3).i3cBusy = true ∧ Accepts (sensing { i3cBusy := true }) (.steward 0) (sensorPage 3) 0x184 ∧
    Accepts (sensing {}) (.steward 0) (sensorPage 3) 0x18C ∧
    busUp (sensing {}) = true ∧ pageLive (sensing {}) (sensorPage 3) = true ∧ (hdr (sensing {}) (sensorPage 3)).inReset = false ∧
    (getSensor (sensing { i3cRx := [9] }) 3).i3cRx = 9 :: [] ∧ (getSensor (sensing {}) 3).i3cRx = [] := by decide

/-! Witnesses of RowEventsAndJobs. -/

theorem wit_rowComplete : alive firing = true ∧ getCtx firing 3 = some (fireCtx [firePicture]) ∧
    firePic (fireCtx [firePicture]) 5 = some firePicture ∧ getPic (fireCtx [firePicture]) firePicture.id = some firePicture ∧
    firePicture.fired < (ctGeo (fireCtx [firePicture]).block).nr 0 ∧ firePicture.begun = true ∧ (fireCtx [firePicture]).role ≠ 3 ∧ eventReady (fireCtx [firePicture]) firePicture = true ∧
    rot90 (fireCtx [firePicture]).block = false := by decide
theorem wit_rowBegins : getCtx firingFirst 3 = some (fireCtx [{ firePicture with begun := false }]) ∧
    firePic (fireCtx [{ firePicture with begun := false }]) 5 = some { firePicture with begun := false } ∧ alive firingFirst = true ∧
    eventReady (fireCtx [{ firePicture with begun := false }]) { firePicture with begun := false } = true ∧ (fireCtx []).cfgPend = [] := by decide
theorem wit_rowTicket : alive ticketing = true ∧ getCtx ticketing 3 = some ticketCtx ∧
    (ticketing.jobs.find? fun j => j.ctx == 3 && j.tile.isNone && !j.dec && ((getPic ticketCtx j.pic).any fun p => !p.bulk)) = some waitJob ∧
    getPic ticketCtx waitJob.pic = some firePicture ∧ idleTile ticketing ticketCtx.adm.tiles = some 103 ∧
    depsDone ticketing firePicture.cfg waitJob = true ∧
    guarOnTiles ticketing 3 ticketCtx < ticketCtx.adm.tiles.length ∧
    placesUsed ticketing 3 ticketCtx < ticketCtx.adm.grnMin ∧ (grnAlloc ticketing (Ct.pool ticketCtx.block) 3).isSome = true := by decide
theorem wit_opWord : opFault (getTile ticketing 103) ((Config.freeWord ticketing.freeCtr).toNat % 1024) = none := by
  simp [opFault, ticketing, getTile, ngetD, nget, startTpr, base, State.reset, parityOk, opcOk, bits, ones]
  decide
theorem wit_bulkTicket : alive bulkTicketing = true ∧
    (bulkTicketing.jobs.find? fun j => j.tile.isNone && (j.dec || ((jobPic bulkTicketing j).any fun e => e.2.bulk))) = some waitJob ∧
    waitJob.dec = false ∧ bulkPick bulkTicketing = some 103 ∧
    jobPic bulkTicketing waitJob = some (fireCtx [{ firePicture with bulk := true }], { firePicture with bulk := true }) ∧
    depsDone bulkTicketing firePicture.cfg waitJob = true ∧ bulkOverdue bulkTicketing waitJob = false ∧
    poolUp (getPool bulkTicketing (Ct.pool (fireCtx []).block)) = true ∧ blockUp bulkTicketing grnPg = true ∧
    (grnAlloc bulkTicketing (Ct.pool (fireCtx []).block) 3).isSome = true := by decide
theorem wit_jobEnd : alive ending = true ∧ (ending.jobs.find? fun j => j.id == 9) = some { waitJob with id := 9, tile := some 103 } ∧
    (getTile ending 103).run = 1 ∧ (getTile ending 103).job = some 9 ∧ blockUp ending (tilePage 103) = true ∧
    jobPic ending { waitJob with id := 9, tile := some 103 } = none := by decide

/-! Witnesses of UnitsLeaveInOrder. -/

theorem wit_unitEnter : alive unitReady = true ∧ getCtx unitReady 3 = some (fireCtx [numbered]) ∧ blockUp unitReady fifoPg = true ∧
    enterPic (fireCtx [numbered]) = some numbered ∧ (fireCtx [numbered]).role ≠ 2 ∧ (fireCtx [numbered]).role ≠ 3 ∧
    (nextUnit numbered).isSome = true ∧ (∀ u, nextUnit numbered = some u → u.bytes ≠ []) ∧
    flowOf unitReady 3 (fireCtx [numbered]) = some 0 ∧
    (∀ u, nextUnit numbered = some u → fifoFits unitReady numbered.fifo u.bytes.length = true) := by decide
theorem wit_demotedEmit : alive demoting = true ∧ getCtx demoting 3 = some demCtx ∧ waitingDemoted demCtx = some demPicture ∧
    codedDone demCtx.block demPicture = true ∧
    (∀ q ∈ demCtx.pics, q.begun = false ∨ q.id = demPicture.id ∨ q.picNum = none ∨ unitCount q ≤ q.entered) ∧
    demCtx.rel = 0 ∧ (picTotal { demPicture with
      sh := Ct.mode demPicture.cfg != 4 && (demPicture.flush || !demCtx.strm)
      cfg := if demCtx.strm then withSid demCtx demPicture.cfg else demPicture.cfg } * 1000000 : Nat) ≤ (betaNow demoting demCtx).beta ∧
    (∃ q ∈ demCtx.pics, demPicture.id < q.id ∧ q.at_ + Ct.period demCtx.block ≤ demoting.dt) := by
  decide

/-! Witnesses of EncodeEntries. -/

theorem wit_encode : alive encStarted = true ∧
    (∃ e, (takeStarted encStarted 0 fun se => byteAt se 0 == 0x10).map (fun r => (r.1, r.2.1)) = some (4, e) ∧
      cfgAhead encStarted 0 4 (leAt e 2 2) = false ∧ encBad encStarted 0 e = false ∧ leAt e 2 2 = 3) ∧
    (getCtx encStarted 3).map (·.rel) = some 0 := by
  refine ⟨by decide, ⟨encEntry, by decide⟩, by decide⟩
theorem wit_encodeBad : (takeStarted ({ encStarted with ctxs := [] } : State) 0 fun se => byteAt se 0 == 0x10).map (fun r => (r.1, r.2.1)) = some (4, encEntry) ∧
    encBad ({ encStarted with ctxs := [] } : State) 0 encEntry = true := by decide
theorem wit_encodeStart : alive encQueued = true ∧ getCtx encQueued 3 = some encQCtx ∧ encQCtx.encQ = [(4, encEntry)] ∧
    encQCtx.kind = .admitted ∧ encQCtx.dma = none ∧ encQCtx.lastStart = some 0 ∧ 0 + Ct.period encQCtx.block ≤ encQueued.dt ∧
    slotOpen encQueued encQCtx = true := by decide
theorem wit_inputDone : alive encReading = true ∧ getCtx encReading 3 = some encRCtx ∧ encRCtx.dma = some 7 ∧
    (getPic encRCtx 7).isSome = true ∧
    (∀ p, getPic encRCtx 7 = some p → (readPlanes encReading encRCtx.block p.se).2 = (false, false)) ∧
    (∀ p, getPic encRCtx 7 = some p → (readPlanes ({ encReading with hostErr := [(0, 1000, 6)] } : State) encRCtx.block p.se).2.1 = true) := by
  decide
theorem wit_bulkTake : alive encBulk = true ∧ nget encBulk.bulkSlots 7 = none ∧ encBulk.pwr.st = 0 ∧ encBulk.pwr.want = false ∧
    nextBulk encBulk = some 3 ∧ getCtx (slotSwitch encBulk 7 3) 3 = some { encQCtx with kind := .bulk } ∧
    bulkFenced (slotSwitch encBulk 7 3) = false := by decide

/-! Witnesses of EncodeConfigs. -/

theorem wit_encConfig : alive (cfgStarted 0 [(3, encQCtx)]) = true ∧
    (takeStarted (cfgStarted 0 [(3, encQCtx)]) 0 fun se => byteAt se 0 == 0x11 && (cfgFlags se == 0 || cfgFlags se == 3)).map
      (fun r => (r.1, r.2.1)) = some (4, cfgEntry 0) ∧
    cfgFlags (cfgEntry 0) = 0 ∧ encQCtx.queue = 0 ∧ encQCtx.kind ≠ .decode ∧ 256 ≤ (cfgBlock (cfgEntry 0)).length ∧
    cfgOk (cfgBlock (cfgEntry 0)) = true ∧ tileForm encQCtx.block (cfgBlock (cfgEntry 0)) = true := by decide
theorem wit_openBulk : alive (cfgStarted 1 []) = true ∧
    (takeStarted (cfgStarted 1 []) 0 fun se => byteAt se 0 == 0x11 && cfgFlags se == 1).map (fun r => (r.1, r.2.1)) = some (4, cfgEntry 1) ∧
    leAt (cfgEntry 1) 2 2 < 1024 ∧ getCtx (cfgStarted 1 []) (leAt (cfgEntry 1) 2 2) = none ∧ cfgOk (cfgBlock (cfgEntry 1)) = true ∧
    tileForm (cfgBlock (cfgEntry 1)) (cfgBlock (cfgEntry 1)) = true ∧ bulkBlockOk (cfgStarted 1 []) (cfgBlock (cfgEntry 1)) = true ∧ (getCtx (cfgStarted 1 [(3, encQCtx)]) (leAt (cfgEntry 1) 2 2)).isSome = true := by
  decide
theorem wit_encClose : alive (cfgStarted 2 [(3, { encQCtx with kind := .bulk, encQ := [] })]) = true ∧
    (takeStarted (cfgStarted 2 [(3, { encQCtx with kind := .bulk, encQ := [] })]) 0 fun se => byteAt se 0 == 0x11 && cfgFlags se == 2).map
      (fun r => (r.1, r.2.1)) = some (4, cfgEntry 2) ∧
    cfgAhead (cfgStarted 2 []) 0 4 3 = false ∧ freeSlot (cfgStarted 2 []) = some 0 ∧ seDue { encQCtx with kind := .bulk, encQ := [] } = false := by
  decide

/-! Witnesses of DecodePictures. -/

theorem wit_decodeBad : alive (decStarted [] none) = true ∧
    (takeStarted (decStarted [] none) 0 fun se => byteAt se 0 == 0x20).map (fun r => (r.1, r.2.1)) = some (4, decEntry) ∧
    cfgAhead (decStarted [] none) 0 4 3 = false ∧ decBad (decStarted [] none) 0 decEntry = true := by decide
theorem wit_decode : decBad (decStarted [(3, decCtx [] (some decRunSt))] none) 0 decEntry = false ∧
    (decCtx [] (some decRunSt)).dec.run.isSome = true ∧ leAt decEntry 2 2 = 3 ∧
    (takeStarted (decStarted [(3, decCtx [] (some decRunSt))] none) 0 fun se => byteAt se 0 == 0x20).map (fun r => (r.1, r.2.1)) = some (4, decEntry) := by
  decide
theorem wit_decStart : alive decWaiting = true ∧ nget decWaiting.bulkSlots 7 = none ∧ decWaiting.pwr.st = 0 ∧ decWaiting.pwr.want = false ∧
    nextBulk decWaiting = some 3 ∧ getCtx (slotSwitch decWaiting 7 3) 3 = some (decCtx [(4, decEntry)] none) ∧ De.inLen decEntry ≠ 0 ∧
    bulkFenced (readLoc (slotSwitch decWaiting 7 3) (De.inLoc decEntry) (De.inAddr decEntry) (De.inLen decEntry)).2 = false ∧
    memRead (slotSwitch decWaiting 7 3) (De.inLoc decEntry) (De.inAddr decEntry) (De.inLen decEntry) = (decInput, none, false) ∧
    Db.format (decCtx [] none).block ≠ 1 ∧
    acsErr (parseUnits (decInput.length + 1) decInput (decCtx [] none) {}).1 decEntry
      (parseUnits (decInput.length + 1) decInput (decCtx [] none) {}).2 = 0 := by decide
theorem wit_decReadErr : (memRead ({ decWaiting with hostErr := [(0, 64, 6)] } : State) (De.inLoc decEntry) (De.inAddr decEntry) (De.inLen decEntry)).2 =
    (some 6, false) := by decide
theorem wit_decFinish : (decCtx [] (some decRunSt)).dec.firstSh = some (shUnit smallBlock) ∧ decRunSt.left = 0 ∧
    decRunSt.parse.ph.isSome = true ∧ decRunSt.aborted = false := by decide

/-! Witnesses of DecodeConfigs. -/

theorem wit_decOpen : alive (decCfgStarted 1 []) = true ∧
    (takeStarted (decCfgStarted 1 []) 0 fun se => byteAt se 0 == 0x21 && leAt se 0x10 2 % 4 != 2).map (fun r => (r.1, r.2.1)) =
      some (4, decCfgEntry 1) ∧
    leAt (decCfgEntry 1) 0x10 2 % 4 = 1 ∧ leAt (decCfgEntry 1) 2 2 = 3 ∧ getCtx (decCfgStarted 1 []) 3 = none ∧
    decBlockOk ((decCfgEntry 1).drop 64) = true ∧ ingTaken (decCfgStarted 1 []) ((decCfgEntry 1).drop 64) = false ∧
    decBufSize ((decCfgEntry 1).drop 64) ≤ poolSize (decCfgStarted 1 []) (Db.slotPool ((decCfgEntry 1).drop 64)) ∧
    ((takeBufs (decCfgStarted 1 []) (Db.slotPool ((decCfgEntry 1).drop 64)) 3 (Db.nref ((decCfgEntry 1).drop 64) + 2)).map (·.1)).isSome = true ∧
    (getCtx (decCfgStarted 1 [(3, decCtx [] none)]) 3).isSome = true := by decide
theorem wit_decClose : (takeStarted (decCfgStarted 2 [(3, decCtx [] none)]) 0 fun se => byteAt se 0 == 0x21 && leAt se 0x10 2 % 4 == 2).map
      (fun r => (r.1, r.2.1)) = some (4, decCfgEntry 2) ∧ leAt (decCfgEntry 2) 2 2 = 3 ∧ (decCtx [] none).queue = 0 ∧
    oldestSlot (decCfgStarted 2 [(3, decCtx [] none)]) 0 4 = true := by decide

/-! Witnesses of IngressPackets. -/

theorem wit_ingUnmatched : alive rxOn = true ∧ blockUp rxOn (ethPage 1) = true ∧ rbits rxOn (ethPage 1) 0 0x100 1 1 = 1 ∧
    rbits base (ethPage 1) 0 0x100 1 1 = 0 ∧ (rxOn.ctxs.find? fun e => ingMatch 1 netPkt e.2) = none ∧
    netPkt.ptp = false := by decide
theorem wit_ingRed : rbits (receiving 0) (ethPage 1) 0 0x100 1 1 = 1 ∧ rbits (receiving (2 ^ 40)) (ethPage 1) 0 0x100 1 1 = 1 ∧
    (receiving 0).ctxs.find? (fun e => ingMatch 1 netPkt e.2) = some (3, recvCtx 0) ∧
    (ingColour (receiving 0) (recvCtx 0) netPkt).1 = 2 ∧ alive (receiving 0) = true ∧ blockUp (receiving 0) (ethPage 1) = true := by decide
theorem wit_ingGreen : (receiving (2 ^ 40)).ctxs.find? (fun e => ingMatch 1 netPkt e.2) = some (3, recvCtx (2 ^ 40)) ∧
    (ingColour (receiving (2 ^ 40)) (recvCtx (2 ^ 40)) netPkt).1 = 0 ∧ Db.format (recvCtx (2 ^ 40)).block ≠ 1 ∧
    (recvCtx (2 ^ 40)).dec.cur = some { bufs := [(0, 0)] } ∧ Rtp.picTag netPkt.payload = 0 ∧ Rtp.frag netPkt.payload = 0 ∧
    cdiv (heldBytes { bufs := [(0, 0)] } + fragBytes (recvCtx 0).dec.frag + (netPkt.payload.length - 20)) (poolSize (receiving (2 ^ 40)) (Db.ingPool (recvCtx 0).block)) ≤ 1 := by
  decide
theorem wit_ingTimeout : (recvCtx 0).kind = .decode ∧
    (recvCtx 0).dec.lastPkt + nsT (Db.picTmo (recvCtx 0).block) ≤ ({ receiving 0 with dt := 2 ^ 40 } : State).dt := by decide

/-! Witnesses of TileMicrowords. -/

theorem wit_micro : alive (running {}) = true ∧ ((List.range 16).all fun m => microOk (running {}) 103 (mopWord m [(31, 17), (3, 0)])) = true ∧
    microOk (running {}) 103 0 = true ∧ microOk (running { upc := 0x103FF, patch := [(0x3FF, 0xF8000000)] }) 103 (mopWord 15 [(32, 22)]) = false ∧
    microOk (running { upc := 0x103FF, patch := [(0x3FF, 0x068000000)] }) 103 (mopWord 13 []) = true ∧
    tsAddr (getTile (running {}) 103) 31 (0x1FFFF : BitVec 17).toNat < tsSize ∧
    tsAddr (getTile (running {}) 103) 31 (0x3FFF0 : BitVec 18).toNat + 16 ≤ tsSize ∧ (6 : BitVec 3).toNat ≤ 6 ∧ (1 : Nat) ≠ 2 ∧
    tsSize < tsAddr (getTile (running { g := (List.replicate 32 0).set 31 0x4FFF1 }) 103) 31 (0 : BitVec 17).toNat + 16 := by decide
theorem wit_unit (h : Config.unitReserved 6 0 = false) : alive (running {}) = true ∧ microOk (running {}) 103 (mopWord 8 [(6, 24), (0, 16), (31, 11)]) = true ∧
    (6 : BitVec 3).toNat ≤ 6 ∧ Config.unitReserved 6 0 = false := ⟨by decide, by decide, by decide, h⟩

/-! Witnesses of TileCallStack. -/

theorem wit_callStack : alive (running {}) = true ∧ microOk (running {}) 103 (mopWord 0x0A [(0x1FFFF, 0)]) = true ∧ (getTile (running {}) 103).stack.length < 2 ∧
    (getTile (running {}) 103).stack = [] ∧ microOk (running { stack := [1, 2] }) 103 (mopWord 0x0B []) = true ∧
    (getTile (running { stack := [1, 2] }) 103).stack.getLast? = some 2 ∧ 2 ≤ (getTile (running { stack := [1, 2] }) 103).stack.length := by
  decide

/-! Witnesses of TileControl. -/

theorem wit_br : brHolds (getTile (running {}) 103) (1 : BitVec 5).toNat (31 : Fin 32).val = some true ∧
    brHolds (getTile (running {}) 103) (2 : BitVec 5).toNat (31 : Fin 32).val = some false ∧ (0x0B : BitVec 6).toNat < 0x0C := by decide
theorem wit_waits : waiting (running { wait := some ⟨1, true, 64, 8, false⟩ }) 103 = some ⟨1, true, 64, 8, false⟩ ∧ (8 : Nat) ≤ 64 ∧
    condHolds (running { wait := some ⟨1, true, 64, 8, false⟩ }) 103 1 true = true ∧
    microOk (running {}) 103 (mopWord 0x0C [(0x0B, 21), (1, 20), (0xFFF, 8), (15, 4)]) = true ∧
    microOk (running {}) 103 (mopWord 9 [(2, 22), (31, 17), (0x1FFFF, 0)]) = true := by decide
theorem wit_opdone : opFault (getTile (running { tpr := [(0, 0x10400000000000000)], opaddr := 1023 }) 103)
    (((getTile (running { tpr := [(0, 0x10400000000000000)], opaddr := 1023 }) 103).opaddr + 1) % 1024) = none ∧
    opFault (getTile (running { tpr := [(0, 0x00400000000000000)], opaddr := 1023 }) 103) ((1023 + 1) % 1024) = some 3 ∧
    opFault (getTile (running {}) 103) 1 = some 5 ∧
    microOk (running { tpr := [(0, 0x10400000000000000)], opaddr := 1023 }) 103 (mopWord 0x0E []) = true := by decide
theorem wit_jend : tileJob ending 103 = some { waitJob with tile := some 103 } ∧ microOk ending 103 (mopWord 0x0F [(31, 22)]) = true ∧
    (gReg (getTile ending 103) 31).toNat % 256 ≤ 2 ∧ tileJob (running {}) 103 = none := by decide

/-! Witnesses of TileSafePoints. -/

theorem wit_safept : reqPending (getTile (running {}) 103) = false ∧ microOk (running { reqA := true }) 103 (mopWord 0x0D []) = true ∧
    (getTile (running { reqB := true }) 103).reqB = true ∧ (getTile (running { reqH := true, reqP := true }) 103).reqH = true ∧
    (getTile (running { reqP := true }) 103).reqP = true ∧ tileRuns (running { reqP := true, reqAge := 65500, wait := some ⟨1, true, 36, 0, true⟩ }) 103 = true ∧
    reqPending (getTile (running { reqP := true, reqAge := 65500 }) 103) = true ∧
    65536 ≤ (65500 : Nat) + waitLeft (getTile (running { reqP := true, reqAge := 65500, wait := some ⟨1, true, 36, 0, true⟩ }) 103) ∧
    (∃ b, (getTile (running { budget := some 5, used := 4, wait := some ⟨1, false, 1, 0, false⟩ }) 103).budget = some b ∧ b ≤ 4 + 1) ∧
    (getTile (running { kind := 1, budget := some 5, used := 5 }) 103).kind = 1 := by
  refine ⟨by decide, by decide, by decide, by decide, by decide, by decide, by decide, by decide, ⟨5, by decide⟩, by decide⟩

/-! Witnesses of TileCommands. -/

theorem wit_tileCmd : Accepts (running { kind := 2 }) (.steward 3) (tilePage 103) 0x104 ∧ tileBusy (getTile (running { kind := 2 }) 103) = true ∧
    (getTile (running { kind := 2 }) 103).kind = 2 ∧ Accepts (running {}) .host (tilePage 103) 0x104 ∧ isSteward .host = false ∧
    (getTile (running {}) 103).run ≠ 3 ∧ (getTile (running {}) 103).run ≠ 2 ∧ (hdr (running {}) (tilePage 103)).fenced = false ∧
    isSpare (running {}) 103 = true := by decide
theorem wit_tileDebug : Accepts (debugging 3) (.steward 3) (tilePage 103) 0x104 ∧ tileBusy (getTile (debugging 3) 103) = true ∧
    debugUnlocked (debugging 3) = true ∧ pageHeld (debugging 3) (tilePage 103) = false ∧ (getTile (debugging 3) 103).run = 3 ∧
    readable (debugging 3) (tilePage 103) = true ∧
    rbits (debugging 3) (tilePage 103) 0 0x130 18 0 < tsSize ∧ readable (running {}) (tilePage 103) = true ∧ debugUnlocked (running {}) = false := by
  decide
theorem wit_retire : Accepts fencedTile (.steward 3) (tilePage 103) 0x104 ∧ (hdr fencedTile (tilePage 103)).fenced = true ∧
    tileJob fencedTile 103 = none := by decide
theorem wit_promote : Accepts spareTile103 (.steward 3) (tilePage 103) 0x104 ∧ isSpare spareTile103 103 = true ∧
    (getTile spareTile103 103).patchLocked = true ∧ ((List.range 104).filter fun i => (getTile spareTile103 i).enabled).length < 96 := by decide

/-! Witnesses of EgressPackets. -/

theorem wit_startGuar : alive (sending 0x281) = true ∧ (getPort (sending 0x281) 2).cur = none ∧ isSf 2 = false ∧
    (pickGuar (tagAll (sending 0x281) 2) (portFlows (tagAll (sending 0x281) 2) 2)).isSome = true := by decide
theorem wit_startBulk : (getPort (sending 0x201) 2).cur = none ∧
    pickGuar (tagAll (sending 0x201) 2) (portFlows (tagAll (sending 0x201) 2) 2) = none ∧
    (pickBulk (tagAll (sending 0x201) 2) (portFlows (tagAll (sending 0x201) 2) 2)
      (svcsOf (portFlows (tagAll (sending 0x201) 2) 2))).isSome = true := by decide
theorem wit_ethDone : alive (onPort 1 true []) = true ∧ (getPort (onPort 1 true []) 1).cur = some (aPacket true []) ∧
    (aPacket true []).lost = false ∧ (getEth (onPort 1 true []) 1).linkUp = true ∧ (getPort (onPort 1 false []) 1).cur = some (aPacket false []) ∧ (aPacket false []).wire = false := by
  decide
theorem wit_ringDone : (getPort (onPort 7 false [aUnit]) 7).cur = some (aPacket false [aUnit]) ∧ aUnit.first = false ∧ aUnit.last = false ∧
    aUnit.se = false ∧ aUnit.buf = none ∧ aUnit.trunc = false ∧
    ringBad (onPort 7 false [aUnit]) (Fl.ring (flowBytes (onPort 7 false [aUnit]) 0)) 0 aUnit.bytes.length = false := by decide

/-! Witnesses of EthernetAndFabric. -/

theorem wit_eth : alive (linkedEth 0) = true ∧ ethOn (linkedEth 0) 1 = true ∧ ethOn base 1 = false ∧ ctlTurn (linkedEth 0) 1 = true ∧
    ctlTurn (linkedEth 64) 1 = true ∧ ctlTurn base 1 = true ∧ (getEth base 1).linkUp = false ∧ (getEth (linkedEth 0) 1).linkUp = true ∧ rbits (linkedEth 0) (ethPage 1) 0 0x100 0 0 = 1 ∧
    rbits (linkedEth 0) (ethPage 1) 0 0x100 1 1 = 1 ∧ (getEth (linkedEth 63) 1).ptp.length < 64 ∧ 64 ≤ (getEth (linkedEth 64) 1).ptp.length ∧
    busUp (linkedEth 1) = true ∧ pageLive (linkedEth 1) (ethPage 1) = true ∧ (hdr (linkedEth 1) (ethPage 1)).inReset = false ∧
    (getEth (linkedEth 1) 1).ptp = ⟨0, 0, 0⟩ :: [] := by decide

/-! Witnesses of SelfoldFlits. -/

theorem wit_flits : alive (flitting []) = true ∧ sfUp (flitting []) 3 = true ∧ Flit.crcOk [] = false ∧
    Flit.typ (aFlit 0 7) = 0 ∧ Flit.typ (aFlit 2 0) = 2 ∧
    Flit.seq (aFlit 0 7) = (getIx (getSf (flitting []) 3).rx (Flit.cls (aFlit 0 7)) {}).next ∧
    Flit.seq (aFlit 0 8) ≠ (getIx (getSf (flitting []) 3).rx (Flit.cls (aFlit 0 8)) {}).next ∧
    rbits (flitting []) (sfPage 3) 0 0x100 1 1 = 0 ∧ Flit.dst (aFlit 0 7) = (flitting []).casc.devId ∧ Flit.sop (aFlit 0 7) = true ∧
    Flit.eop (aFlit 0 7) = false ∧ (∃ r ∈ (getSf (flitting []) 3).rx, r.taken ≠ 0) := by
  refine ⟨by decide, by decide, by decide, by decide, by decide, by decide, by decide, by decide, by decide, by decide, by decide,
    ⟨{ next := 7, taken := 1, seen := true }, by decide⟩⟩
set_option maxRecDepth 200000 in
theorem wit_flitTaken : flitReject (flitting []) 3 (aFlit 0 7) = none := by decide +kernel
set_option maxRecDepth 200000 in
theorem wit_flitOrder : flitReject (flitting []) 3 (aFlit 0 8) = none := by decide +kernel
set_option maxRecDepth 200000 in
theorem wit_flitLink : flitReject (flitting []) 3 (aFlit 2 0) = none := by decide +kernel
theorem wit_ack32 : sumN ((getSf flitting32 3).rx.map (·.taken)) + 1 = 32 ∧ sfUp flitting32 3 = true ∧
    Flit.seq (aFlit 0 7) = (getIx (getSf flitting32 3).rx (Flit.cls (aFlit 0 7)) {}).next := by decide
theorem wit_retry : sfUp (flitting [⟨5, [], 2, 0, none⟩]) 3 = true ∧ (getTx (flitting [⟨5, [], 2, 0, none⟩]) 3 7).unacked = [⟨5, [], 2, 0, none⟩] ∧
    2 ≤ sfMax (flitting []) 3 ∧ (flitting [⟨5, [], 2, 0, none⟩]).comPoison = [] ∧
    0 + nsT (sfTmo (flitting []) 3) ≤ (flitting []).dt ∧ sfMax (flitting []) 3 < 3 ∧ byteAt [0, 0, 0, 0, 0, 0, 0, 0, 5, 2] (8 + 2 * 0 + 1) = 2 := by
  decide

/-! Witnesses of CascadeTree. -/

theorem wit_master : Accepts (leading 0) .host cascPg 0x104 ∧ isMaster (leading 0) = true ∧ (leading 0).casc.cmdBusy = false ∧
    upPorts (leading 0) none = [3] ∧ upPorts ({ leading 0 with sfs := [] } : State) none = [] ∧ isMaster (flitting []) = false ∧ Accepts (flitting []) .host cascPg 0x104 ∧
    alive (leading 0) = true ∧ sfUp (leading 0) 3 = true ∧ (leading 0).casc.enumCur = some ⟨0, 3, 2047, 1⟩ ∧
    (leading 0).casc.enumDone = true ∧ (nget (leading 0).casc.nodes 2).isSome = true ∧ (leading 0).casc.streams = [] ∧
    ((nget (leading (2 ^ 40)).casc.nodes 2).map fun n => n.dead) = some false ∧
    ((nget (leading (2 ^ 40)).casc.nodes 2).map fun n => decide (n.last + nsT (rbits (leading (2 ^ 40)) cascPg 0 0x118 16 0) ≤ (leading (2 ^ 40)).dt)) = some true := by
  decide
theorem wit_member : isMaster following = false ∧ sfUp following 3 = true ∧ following.casc.parentPort = some 3 ∧ following.casc.enumDone = true ∧
    following.casc.masterLost = false ∧ following.casc.masterHb + usT 32 ≤ following.dt ∧ (1 : BitVec 8) ≠ following.casc.epoch ∧
    (getSf following 3).deadPeer = true ∧ (getSf following 3).heard = true ∧ fenceDue following 3 = true ∧ sfUp following 2 = true ∧ (3 : Nat) ≠ 2 := by decide

/-! Witnesses of CascadeStreams. -/

theorem wit_cascInvalid : memRead (leading 0) 0 (rget64 (leading 0) cascPg 0 0x108) 64 = (List.replicate 64 0, none, false) ∧
    ((planTests (leading 0) (List.replicate 64 0)).find? (fun t => !t.2)).isSome = true := by decide
theorem wit_cascAdmit : Accepts planning .host cascPg 0x104 ∧ isMaster planning = true ∧ planning.casc.cmdBusy = false ∧
    memRead planning 0 (rget64 planning cascPg 0 0x108) 64 = (aPlan, none, false) ∧ (planTests planning aPlan).find? (fun t => !t.2) = none ∧
    memRead planning 0 (Plan_.contract aPlan) 128 = (List.replicate 128 0, none, false) ∧
    (planTests2 aPlan (List.replicate 128 0)).find? (fun t => !t.2) = none ∧ (∀ i, i < Plan_.nmem aPlan → Plan_.member aPlan i ≠ 0) := by decide
theorem wit_home : byteAt (homeAdmit homing 5 aPlan goodContract).2 0 = 0 := by decide
theorem wit_replies : (streaming 0).casc.streams.find? (fun x => x.id == 9) = some (aStream 0) ∧ (aStream 0).st = 0 ∧ 1 < (aStream 0).devs.length ∧
    nget (aStream 0).replies 1 = none ∧ (streaming 2).casc.streams.find? (fun x => x.id == 9) = some (aStream 2) ∧ (aStream 2).st = 2 ∧
    byteAt ([1] : List Byte) 0 ≠ 0 ∧ isMaster (streaming 0) = true ∧ (streaming 2).casc.streams.find? (fun x => x.st == 2 && x.homeCtx == 0x7FF) = some (aStream 2) ∧
    Accepts (streaming 2) .host cascPg 0x104 := by decide
theorem wit_budget : getCtx ({ base with ctxs := [(3, { fireCtx [] with widen := true })] } : State) 3 = some { fireCtx [] with widen := true } := by decide
theorem wit_replace : (homeBy ({ base with ctxs := [(3, { fireCtx [] with role := 3 })], casc := { homes := [{ stream := 5, ctx := 3, plan := [], members := [{ dev := 1 }] }] } } : State) 5).isSome = true := by
  decide
theorem wit_hop : alive following = true ∧ routeTo following 0 = some 3 ∧
    portRsv following (3 + 3) + Ct.egRate (memberContract aPlan goodContract (32 / 32 - 1)) ≤ reservable (3 + 3) := by decide

/-! Witnesses of CascadeShared. -/

theorem wit_sems : Accepts (leading 0) .host cascPg 0x120 ∧ (ngetD (leading 0).casc.sems (127 % 64) {}).held = false ∧
    ownerOk (0x3FF : BitVec 11).toNat = true ∧ Accepts (semHeld) (.steward 3) cascPg 0x120 ∧
    (ngetD semHeld.casc.sems (127 % 64) {}).held = true ∧ (ngetD semHeld.casc.sems (127 % 64) {}).owner = (5 : BitVec 11).toNat ∧
    (ngetD semHeld.casc.sems (127 % 64) {}).dev = semHeld.casc.devId ∧ isMaster semHeld = true ∧ Accepts following .host cascPg 0x120 := by decide
theorem wit_xreq : blockUp pooled grnPg = true ∧ poolUp (getPool pooled 63) = true ∧ (grnDecide (getPool pooled 63) 5).isSome = true ∧
    poolUp (getPool poolEmpty 63) = true ∧ grnDecide (getPool poolEmpty 63) 5 = none ∧ (getPool poolEmpty 63).waiters.length < 64 ∧
    rbits waitingRemote cascPg 0 0x128 23 0 ≤ (waitingRemote.tick - 0) * 10 ∧
    waitingRemote.pools = [] ++ (63, { enable := true, ready := true, waiters := [⟨.remote 2 7 0, 5, 0⟩] }) :: [] ∧
    freeCnt (getPool poolEmpty 63) ≠ 1 ∧ Accepts following .host cascPg 0x120 ∧ isMaster following = false := by decide
theorem wit_sync : alive following = true ∧ following.casc.parentPort = some 3 ∧ following.casc.syncOut = true ∧ following.casc.syncMiss = 5 ∧
    sfUp following 3 = true ∧ syncOffset 0 (2 ^ 40) (2 ^ 40) (2 ^ 41) ≤ (usT 1 : Int) ∧ -(usT 1 : Int) ≤ syncOffset 0 (2 ^ 40) (2 ^ 40) (2 ^ 41) := by
  decide

/-! Witnesses of IslandFrames. -/

theorem wit_tap : (tapping []).taps = ⟨5, 9, 1, goodPkt⟩ :: [] ∧ tapPast.taps = ⟨5, 9, 1, goodPkt⟩ :: [] ∧ tapNone.taps = ⟨0, 9, 1, goodPkt⟩ :: [] ∧
    islRuns (tapping []).isl = true ∧ portGroup (tapping []).isl 5 = some 1 ∧ portGroup tapNone.isl 0 = none ∧ islRuns tapNone.isl = true ∧
    openOf (tapping []).isl 1 = none ∧ tapLate (tapping []).isl 1 (Lp.frame goodPkt) = false ∧
    tapLate (tapPast).isl 1 (Lp.frame goodPkt) = true ∧ openOf tapPast.isl 1 = none ∧ islRuns tapPast.isl = true ∧ portGroup tapPast.isl 5 = some 1 ∧
    sumN ((tapping []).isl.frames.map fun f => f.pkts.length) < 4096 := by decide
theorem wit_tapOpen : (openOf (tapping [tapFrame []]).isl 1).isSome = true ∧ portGroup (tapping [tapFrame []]).isl 5 = some 1 ∧
    (tapFrame []).num = Lp.frame goodPkt ∧ (tapFrame []).keys.contains (Lp.plane goodPkt, Lp.line goodPkt, Lp.x0 goodPkt) = false ∧
    (tapFrame [(0, 15, 12)]).keys.contains (Lp.plane goodPkt, Lp.line goodPkt, Lp.x0 goodPkt) = true ∧
    Ip.coded (tapFrame []).params (tapFrame []).group = false := by decide
theorem wit_tapUnit : codedTap.unitTaps = ⟨1023, 0, 5, [1], false, 0x80⟩ :: [] ∧ islRuns codedTap.isl = true ∧
    Ip.ports codedFrame.params codedFrame.group &&& 0x80 ≠ 0 ∧ codedGroup codedTap.isl 0x80 = some 1 ∧
    (∀ f ∈ codedTap.isl.frames, f.num ≠ 6) ∧ Ip.coded codedFrame.params codedFrame.group = true ∧
    codedFrame.codedEnd = false ∧ codedTap.isl.frames = [codedFrame] ∧
    codedWait.isl.frames.find? (fun f => f.group == 1 && f.closed) = some { codedFrame with closed := true } := by decide
theorem wit_tapBoot : (({ tapping [] with isl := { st := 1 } } : State)).isl.st = 1 ∧ (({ tapping [] with isl := { st := 1 } } : State)).taps = ⟨5, 9, 1, goodPkt⟩ :: [] ∧
    (({ base with isl := { st := 2, signing := some 149 } } : State)).isl.signing = some 149 := by decide

/-! Witnesses of IslandLife. -/

theorem wit_islStart : resolveNvm islGood.isl = (some { good := true }, true, false) ∧ resolveFw islGood.isl = (some { good := true }, true, false) ∧
    resolveNvm islTorn.isl = (none, false, false) ∧ resolveFw islTorn.isl = (some { good := true }, true, false) ∧ islTorn.isl.st ≠ 0 ∧
    (resolveFw ({ base with isl := { fw := [] } } : State).isl).2.1 = false ∧ (0 : Nat) ≤ islGood.isl.otpSvn := by decide
theorem wit_islFw (v : Nat) (h : Config.islandFw [] = some v) (g : 0 ≤ v) : ∃ f, resolveFw islGood.isl = (some f, true, false) ∧
    Config.islandFw f.image = some v ∧ islGood.isl.otpSvn ≤ v := ⟨{ good := true }, by decide, h, g⟩
theorem wit_pps : thirdPps.isl.st = 2 ∧ thirdPps.isl.tb.seen = true ∧ thirdPps.isl.tb.refOk = true ∧ thirdPps.isl.tb.good = 2 ∧
    thirdPps.isl.tb.lock = false ∧ thirdPps.isl.tb.todSrc = 0 ∧ thirdPps.isl.tb.setPend = none ∧ clockRuns thirdPps = true ∧
    (399999199 : Nat) < 399999200 := by decide
theorem wit_relay : busUp base = true ∧ ([1] : List Byte) ≠ base.boot.islBlock ∧ base.boot.st = 7 ∧ base.boot.islPend = [] ∧
    busUp ({ base with boot := { st := 6 } } : State) = true ∧ busUp ({ base with boot := { st := 0 } } : State) = true := by decide
theorem wit_expo : islRuns (tapping []).isl = true ∧ islRuns exposing.isl = true ∧ (getIx exposing.isl.expo (expoIx 1 3 true) {}).start ≠ 0 ∧
    (getIx exposing.isl.expo (expoIx 1 3 true) {}).hasStop = false := by decide

/-! Witnesses of IslandCommands. -/

theorem wit_spi : (sealIsl 2).isl.sealOpen = true ∧ (sealIsl 2).isl.st = 2 ∧ (sealIsl 4).isl.sealOpen = true ∧ SpiGood 0x01 (spiFrame 0x01 []) ∧
    ¬ SpiGood 0x01 ⟨1, [], 0⟩ ∧ SpiGood 0x13 (spiFrame 0x13 [1, 0, 0, 0, 0, 0, 0, 0x80]) ∧
    auditFull (sealIsl 3) = false ∧ ((1 : Nat), Instr.readStatus ⟨1, [], 0⟩) ∈ spiCommands ⟨1, [], 0⟩ ∧
    ((0x30 : Nat), Instr.reset (spiFrame 0x30 [])) ∈ spiSealed (spiFrame 0x30 []) ∧ SpiGood 0x30 (spiFrame 0x30 []) ∧
    SpiGood 0x10 (spiFrame 0x10 (toLE 2 255 ++ [7])) ∧ 255 + ([7] : List Byte).length ≤ 256 ∧
    SpiGood 0x20 (spiFrame 0x20 (toLE 4 0xFFFFFFFF ++ [7])) ∧ SpiGood 0x05 (spiFrame 0x05 [31]) := by decide
theorem wit_spiCommit : staged (sealIsl 3).isl.stParam = some [9] ∧ paramOk [9] = false ∧ (sealIsl 3).isl.st = 3 ∧
    paramOk goodParam = true ∧ staged goodStaged.isl.stParam = some goodParam ∧ auditFull goodStaged = false ∧ goodStaged.isl.sealOpen = true ∧
    (sealIsl 3).isl.cur.log[31]? = some [] := by decide
theorem wit_spiFw (v : Nat) (h : Config.islandFw [9] = some v) : ∃ b, staged (sealIsl 4).isl.stFw = some b ∧ b ≠ [] ∧ Config.islandFw b = some v ∧
    (sealIsl 4).isl.otpSvn ≤ v := ⟨[9], by decide, by decide, h, Nat.zero_le v⟩

/-! Witnesses of BootAndBundles. -/

theorem wit_boot : resettable State.reset = true ∧ State.reset.boot.st = 0 ∧ State.reset.boot.err = 0 ∧ State.reset.straps.bootSrc % 4 ≠ 1 ∧
    State.reset.flashOk = false ∧ strapHost.straps.bootSrc % 4 = 1 ∧ resettable strapHost = true ∧
    State.reset.boot.mrs = List.replicate 8 (List.replicate 48 0) ∧ State.reset.boot.islPend = [] ∧ flashEmpty.flashOk = true ∧
    copyResult (romInit (romSense flashEmpty)) (copyA flashEmpty) false ≠ 0 ∧ copyResult (romInit (romSense flashEmpty)) (copyB flashEmpty) false ≠ 0 ∧
    (romInit (romSense flashEmpty)).boot.lifecycle ≠ 2 := by decide
set_option exponentiation.threshold 512 in
theorem wit_bootGood (hs : ∀ l, Config.sha384 l = 0) (hv : ∀ a b c, Config.ecdsa384Verify a b c = true) :
    copyResult (romInit (romSense flashGood)) (copyA flashGood) true = 0 ∧ copyResult (romInit (romSense flashGood)) (copyB flashGood) true ≠ 0 ∧
    (romInit (romSense flashGood)).boot.lifecycle = 2 := by
  refine ⟨?_, by decide, by decide⟩
  simp only [copyResult, keyOk, sha, hs, hv]
  decide
set_option exponentiation.threshold 512 in
theorem wit_bootB (hs : ∀ l, Config.sha384 l = 0) (hv : ∀ a b c, Config.ecdsa384Verify a b c = true) :
    copyResult (romInit (romSense flashB)) (copyB flashB) true = 0 ∧ copyResult (romInit (romSense flashB)) (copyA flashB) true ≠ 0 ∧
    (romInit (romSense flashB)).boot.lifecycle = 2 := by
  refine ⟨?_, by decide, by decide⟩
  simp only [copyResult, keyOk, sha, hs, hv]
  decide
theorem wit_recBad : copyResult recovering ⟨false, recAddr recovering, 0⟩ false ≠ 0 ∧ min (rbits recovering bootPg 0 0x118 26 0) (64 * 2 ^ 20) = 0 ∧
    (memRead ({ svnReady with hostPoison := [(0, 1)] } : State) 0 0 256).2.2 = true := by decide
theorem wit_rec : Accepts recovering .host bootPg 0x11C ∧ recovering.boot.st = 5 ∧ recovering.boot.busy = false ∧
    Accepts recovering (.steward 0) bootPg 0x11C ∧ recovering.boot.islPend = [] ∧ recovering.straps.lifecycleLock = true ∧
    (hostErrAt recovering (recAddr recovering) (rbits recovering bootPg 0 0x118 26 0)).isSome = false ∧
    Accepts recovering .master bootPg 0x124 := by decide
set_option exponentiation.threshold 512 in
theorem wit_recGood (hs : ∀ l, Config.sha384 l = 0) (hv : ∀ a b c, Config.ecdsa384Verify a b c = true) :
    copyResult recGood ⟨false, recAddr recGood, min (rbits recGood bootPg 0 0x118 26 0) (64 * 2 ^ 20)⟩ (recGood.boot.lifecycle == 2) = 0 ∧
    Accepts recGood .host bootPg 0x11C ∧ recGood.boot.st = 5 ∧
    (hostErrAt recGood (recAddr recGood) (rbits recGood bootPg 0 0x118 26 0)).isSome = false := by
  refine ⟨?_, by decide, by decide, by decide⟩
  simp only [copyResult, keyOk, sha, hs, hv]
  decide
theorem wit_svn : Accepts svnReady (.steward 0) bootPg 0x11C ∧ svnReady.boot.st = 7 ∧ svnReady.boot.svnMin < 128 ∧ 128 ≤ svnReady.boot.svn ∧
    svnReady.boot.busy = false ∧ svnReady.straps.lifecycleLock = false ∧ Accepts svnReady .host bootPg 0x11C ∧
    memRead svnReady 0 (recAddr svnReady) 256 = (List.replicate 256 0, none, false) ∧ tokenOk svnReady (List.replicate 256 0) = false := by decide

/-! Witnesses of Attestation. -/

theorem wit_spdm : busUp attesting = true ∧ attesting.boot.pcieUp = true ∧ base.boot.pcieUp = false ∧ attesting.fuses.rma = false ∧
    attesting.boot.lifecycle ≠ 2 ∧ ({ attesting with boot := { attesting.boot with lifecycle := 2 } } : State).boot.lifecycle = 2 ∧
    ({ attesting with fuses := { rma := true } } : State).fuses.rma = true := by decide
theorem wit_meas : ((List.range 10).flatMap fun i => measBlock attesting (i + 1)).length ≤ 3950 ∧
    4046 < (measBlock ({ attesting with boot := { attesting.boot with log := List.replicate 64 (List.replicate 64 0) } } : State) 10).length := by
  decide
theorem wit_cert (h : Config.certChain = [7, 8]) : 1 < Config.certChain.length ∧ Config.certChain.length ≤ 2 := by simp [h]

/-! Witnesses of PowerAndHeat. -/

theorem wit_rail : alive base = true ∧ (104 : Nat) < 105 ∧ ngetD base.pwr.targets 104 0 ≠ 120 := by decide
theorem wit_gate : (getTile idleTile103 103).ungated = true ∧ tileHeld idleTile103 103 = false ∧ tileIdle idleTile103 103 = true ∧
    (getTile idleTile103 103).idleAt + 5000 ≤ idleTile103.tick ∧ alive idleTile103 = true := by decide
theorem wit_power : Accepts (powered 0) .host pwrPg 0x100 ∧ Accepts (powered 1) .host pwrPg 0x100 ∧ (powered 1).pwr.st = 1 ∧
    Accepts (powered 0) .host pwrPg 0x108 ∧ (powered 0).booth.admMw < (powered 0).booth.admMw - 1650 * rbits (powered 0) pwrPg 0 0x108 6 0 + 1650 * 96 ∧
    rbits (powered 0) tkbPg 0 0x11C 11 0 * 100 < (powered 0).booth.admMw - 1650 * rbits (powered 0) pwrPg 0 0x108 6 0 + 1650 * 96 ∧
    (powered 0).booth.admMw - 1650 * rbits (powered 0) pwrPg 0 0x108 6 0 + 1650 * 9 ≤ max (powered 0).booth.admMw (rbits (powered 0) tkbPg 0 0x11C 11 0 * 100) ∧
    dozeWhy (powered 0) = 0 ∧ Accepts admitted .host pwrPg 0x100 ∧ admitted.ctxs ≠ [] ∧ dozeWhy admitted ≠ 0 ∧ (powered 0).bulkSlots = [] ∧
    ({ base with pwr := { want := true } } : State).pwr.want = true ∧ tileHeld base 103 = false := by decide
theorem wit_wake : alive dozing = true ∧ dozing.pwr.st = 2 ∧ rbits dozing pwrPg 0 0x11C 2 2 = 1 ∧ srcPending dozing 511 = true ∧ rbits dozing pwrPg 0 0x11C 3 3 = 1 := by decide
theorem wit_heat : base.booth.thermClosed = false ∧ closedBooth.booth.thermClosed = true ∧ alive closedBooth = true ∧
    (1000 : Int) ≤ 1000 ∧ (970 : Int) ≤ 970 ∧ (94 : Nat) < 95 := by decide

/-! Witnesses of ResetKinds. -/

theorem wit_reset : resettable base = true ∧ base.flt.fault = false ∧ resettable faulted = true ∧ faulted.flt.fault = true ∧
    rbits preserving (phyPage 0) 0 0x104 0 0 = 1 ∧ rbits base (phyPage 0) 0 0x104 0 0 = 0 ∧ (∀ e ∈ preserving.pcs, e.2.queue = [] ∧ e.2.replays = [] ∧ e.2.reads = []) ∧
    (nget lockedBy.hdrs 0x20).isSome = true ∧ Accepts base (.steward 1) rstPg 0x100 ∧
    base.jtag.held = false := by decide
theorem wit_rstTile : Accepts base (.steward 1) rstPg (0x110 + 4 * 3) ∧ 32 * 3 + 7 < 104 ∧ (0x80 : BitVec 32).getLsbD 7 = true ∧
    Accepts base .host rstPg (0x110 + 4 * 3) ∧ ({ base with rst := { tiles := [103] } } : State).rst.tiles ≠ [] := by decide

/-! Witnesses of ClocksAndTime. -/

theorem wit_clk : busUp clocked = true ∧ clocked.clk.rootLock = true ∧ clocked.clk.ethOk = true ∧ clocked.clk.pcieOk = true ∧
    sevOf clocked clkPg 0 = 3 ∧ Accepts clocked (.steward 2) clkPg 0x108 ∧ Accepts clocked (.steward 2) clkPg 0x118 ∧ clocked.clk.slew = none ∧
    clocked.clk.cmd = none ∧ Accepts clocked .host clkPg 0x108 ∧ Accepts clocked .host clkPg 0x118 := by decide
theorem wit_dt : (commanded true []).clk.cmd = some (true, ((2 ^ 80 - 1 : Nat) : Int), 0) ∧ anyReserved (commanded true []) = false ∧
    alive (commanded true []) = true ∧ anyReserved (commanded false [(0, { kind := .admitted, block := [], queue := 0, adm := { carLists := [24] } })]) = true ∧
    anyReserved (commanded false []) = false ∧ (commanded false []).clk.cmd = some (false, ((2 ^ 80 - 1 : Nat) : Int), 0) ∧
    Accepts ({ base with clk := { slew := some 5 } } : State) (.steward 2) clkPg 0x108 ∧ isSteward .master = false ∧ ({ base with clk := { slew := some 0 } } : State).clk.slew = some 0 := by decide

/-! Witnesses of FaultsAndBell. -/

theorem wit_raise : busUp base = true ∧ pageAt 0x310 = some (.phy, 0) ∧ hasFlt .phy 0 = true ∧ sevOf base 0x310 0 = 3 ∧ base.flt.first = none ∧
    (hdr base 0x310).inReset = false ∧ (hdr base 0x310).fltSrc.getLsbD 0 = false ∧ pageAt 0x167 = some (.tile, 103) ∧ sevOf base 0x167 0 = 2 ∧
    hasFlt .tile 0 = true ∧ canFence .tile = true ∧ (hdr raised 0x310).fltSrc.getLsbD 1 = true ∧ raiseSev raised 0x310 1 < 3 ∧ hasFlt .phy 1 = true ∧
    (hdr ({ base with hdrs := [(0x310, { inReset := true })] } : State) 0x310).inReset = true := by decide
theorem wit_hb : Accepts beating (.steward 3) fltPg 0x12C ∧ Accepts beating .host fltPg 0x12C ∧ hbLate beating 0 = true ∧
    getIx beating.flt.missed 0 false = false ∧ alive beating = true ∧
    getIx missing.flt.missed 0 false = true ∧ hbMask missing / 2 ^ 0 % 2 = 1 ∧ missing.boot.doneFlag = true ∧ alive missing = true := by decide
theorem wit_bell : bellDue base = true ∧ bellDue ({ base with dt := usT 250 } : State) = false ∧ bellHolds { beating with tick := 100000 } = false := by decide

/-! Witnesses of CrierSources. -/

theorem wit_crier : Accepts dozing' (.steward 3) crierPg 0x190 ∧ srcPending dozing' 511 = true ∧ srcPending dozing' 510 = false ∧
    Accepts dozing' .host crierPg 0x190 ∧ Accepts takenSrc (.steward 3) crierPg 0x198 ∧ (getSrc takenSrc 511).owner = some 3 ∧
    (getSrc takenSrc 510).owner ≠ some 3 ∧ Accepts base (.steward 3) crierPg 0x1A0 ∧ Accepts base (.steward 3) crierPg 0x1A4 := by decide

/-! Witnesses of DebugAndScan. -/

theorem wit_counter : counts counting none 31 = true ∧ chained counting none 31 = false ∧ alive counting = true ∧
    counts counting (some 103) 15 = true ∧ chained counting (some 103) 15 = false ∧ counts base none 31 = false ∧
    sampling counting 103 = true ∧ (ngetD counting.smps 103 {}).widx < 256 := by decide
theorem wit_tmux : Accepts base .host tmuxPg 0x100 ∧ debugUnlocked base = false ∧ Accepts (debugging 0) .host tmuxPg 0x100 ∧
    debugUnlocked (debugging 0) = true := by decide
theorem wit_scan : base.pwr.mainOn = true ∧ base.jtag.held = false ∧
    ({ base with jtag := { held := true, instr := 7 } } : State).jtag.held = true ∧
    ({ base with pwr := { mainOn := false } } : State).pwr.mainOn = false := by decide

/-! Witnesses of MemoryFormKept. -/

theorem wit_memForm : MemForm ({ base with pending := [.por], hostMem := [(1, 2)], hbm := [(3, 4)], commons := [(5, 6)] } : State) := by decide

/-! Worked examples of the spec. -/

/-- The 4 × 4 segment of the worked example of 06_acs_entropy_coding.md. -/
def exEnv : CEnv := { mode := 0, isP := false, plane := 0, cfa := false, depth := 12, errE := 0, qp := 0, refMask := 0, w := 4, h := 4
                      xs := 256, ys := 32, pw := 260, ph := 36, up := none, cross := [], refs := [] }

/-- Its body ends correctly (R146). -/
theorem test_body_terminates : (decodeBody exEnv [0x82, 0x10, 0x30, 0x09, 0xA0]).2 = 0 := by decide +kernel

/-- One byte more is a termination error (R198). -/
theorem test_body_too_long : (decodeBody exEnv [0x82, 0x10, 0x30, 0x09, 0xA0, 0]).2 = 4 := by decide +kernel

/-- Its levels, in lines of u. -/
theorem test_levels : (rdCoefs exEnv (cst0 exEnv) 4 false ((bodyBits [0x10, 0x30, 0x09, 0xA0]))).map (fun r => (r.1, r.2.1.lastDc)) =
    some ([[5, -2, 0, 0], [1, 1, 0, 0], [0, 0, 0, 0], [0, 0, 0, 0]], 5) := by decide +kernel

/-- The value −3 of cb_qp_delta is coded 00111. -/
theorem test_eg0 : (rdEg 0 [false, false, true, true, true]).map (fun r => unzig r.1) = some (-3) := by decide

/-- The Rice escape of z = 70 with k = 2 has 21 bits. -/
theorem test_rice_escape : (rdRice [] 0 (List.replicate 16 true ++ [false, true, false, true, false])).map (fun r => (r.1, r.2.2)) =
    some (70, []) := by decide

/-- One DC level of 400 at QP 0 is a residual of 100 (05_acs_prediction_reconstruction.md). -/
theorem test_dc : residual 12 0 4 false [[400, 0, 0, 0], [0, 0, 0, 0], [0, 0, 0, 0], [0, 0, 0, 0]] = List.replicate 4 (List.replicate 4 100) := by
  decide +kernel

/-- Escape bounds of the cinema and the scientific stream (04_acs_stream_structure.md). -/
theorem test_escape_bounds : escBound 32768 18 = 74023 ∧ escBound 16384 12 = 24675 ∧ escBound (384 * 24) 12 = 13880 := by decide

/-- Segments of the scientific and the cinema picture. -/
theorem test_segments : Geo.segCount ⟨0, 1920, 1080, 1, 12⟩ = 136 ∧ Geo.segCount ⟨5, 8192, 6144, 2, 18⟩ = 6144 := by decide

/-- The late start of 02_delivery_promise_ticket_booth_carousel.md, and the base still ahead. -/
theorem test_late_start : carStart (nsT 5000123456) (nsT 5000000000) 50000 = (nsT 5000150000, true) ∧
    carStart (nsT 5000123456) (nsT 5000130000) 50000 = (nsT 5000180000, true) := by decide

/-- The check value of CRC-32C (13_dma_and_check_units.md). -/
theorem test_crc : crc32c [0x31, 0x32, 0x33, 0x34, 0x35, 0x36, 0x37, 0x38, 0x39] = 0xE3069283 := by decide +kernel

/-- A word in the queue of reset is taken: the first step after reset runs the command in front. -/
theorem test_reset_front : step { State.reset with pending := [.pcieLinkUp] } =
    .next { State.reset with boot := { State.reset.boot with pcieUp := true } } := rfl

/-- No word spells a command. -/
theorem test_no_words : decodeTableWord 32 0 = none ∧ State.reset.withFetchWord 32 0 = State.reset := by decide

/-! One term for each check of well-formedness, which the check refuses. -/

theorem test_wf_refuses_1 : ∀ i ∈ ([.regWrite .host 0x1000000 0 0, .regReadClear .host 0x1000000 false, .loReadLatch .host 0x1000000 false,
    .evtForce .host 1024 0, .commit .host 1024 0, .shadowApply 1024 0,
    .shadowApply 0 8192, .pageEnable .host 1024 false, .pageQuiesce .host 1024 false,
    .pageAbort .host 1024 false false, .blockReset .host 1024, .blockResetEnd 1024,
    .blockReachesIdle 1024, .lockAcquire .host 1024 0, .lockRelease .host 1024 0,
    .lockForceRelease .host 1024, .tkbAdmit .host 1024, .release .host 1024,
    .carListStart 25, .carEntryEnd 25, .retrainingPauseEnd 64 false,
    .syncHeaderLock 12, .linkTrain 12, .syncHeaderLoss 12,
    .alignRound 12 0 false false, .alignRoundMissing 12, .linePacket 8 0 [],
    .fmark 8 0 [] [], .frameCloseTimeout 1024, .fsyncEdge 4] : List Instr), i.wf = false := by decide

theorem test_wf_refuses_2 : ∀ i ∈ ([.fsyncPulseEnd 4, .i3cCmd .host 4 0, .i3cTransferDone 4 false [],
    .i3cTx .host 4 0, .i3cRx .host 4, .rowComplete 1024 0,
    .rowTicket false 1024, .unitEnterFifo 1024, .demotedPictureEmit 1024,
    .demotedPictureDiscard 1024, .nop 8192, .encode 8192,
    .encodeStart 1024, .encodeInputDone 1024, .encConfig 8192,
    .openBulk 8192, .encConfigClose 8192, .bulkSlotTake 8,
    .decConfigOpen 8192, .decConfigClose 8192, .decode 8192,
    .decodeFinish 1024, .ingressPacket 2 ⟨false, [], 0, false, false, 0, []⟩, .ingressPicTimeout 1024,
    .mopNop 104, .alu 104 0 0 0 0, .alui 104 0 0 0,
    .lds 104 0 0 0 0, .lds 0 0 0 0 3, .sts 104 0 0 0] : List Instr), i.wf = false := by decide

theorem test_wf_refuses_3 : ∀ i ∈ ([.vld 104 0 0 0 0, .vld 0 0 0 0 3, .vst 104 0 0 0,
    .vop 104 0 0 0 0, .unit 104 0 0 0, .br 104 0 0 0,
    .call 104 0, .ret 104, .wait 104 0 false 0 0 false,
    .waitConditionMet 104 0, .waitTimeout 104, .safept 104,
    .opdone 104, .jend 104 0, .spTmo 104,
    .budgetExpiry 104, .machineCheck 104 0 0, .machineCheck 0 16 0,
    .preempt .host 104, .resume .host 104, .halt .host 104,
    .step .host 104, .retire .host 104 false, .promote .host 104,
    .tileTsDataRead .host 104 false, .hbmAccess 64, .hbmReadComplete 64 0 false false,
    .hbmWriteAck 64, .hbmSparePeriod 64 0 false, .hbmParityAlert 64] : List Instr), i.wf = false := by decide

theorem test_wf_refuses_4 : ∀ i ∈ ([.alloc .host 0 64 false, .free .host 0 64 0, .reclaim .host 0 64,
    .grnMin .host 0 64 0, .grnWaitTimeout 64, .poolEnable .host 64,
    .poolReady 64, .poolDisable .host 64, .fifoWrite 256 0,
    .fifoRead 256 0, .fifoRead 0 3, .fifoRelease 256 0,
    .fifoMark 256, .fifoRewind 256, .fifoUnmark 256,
    .fifoMarkStall 256, .dmaTail .host 32 0, .descriptorFetch 32,
    .timerTick 8, .descriptorEnd 32, .dmaBusErr 32 0 0,
    .dmaFetchErr 32, .start .host 8, .continue_ .host 8,
    .stop .host 8 0, .loadInit .host 8, .scanDone 8,
    .scanErr 8 0 0, .sqDb 8192 0 0, .crDone 8192 0 0] : List Instr), i.wf = false := by decide

theorem test_wf_refuses_5 : ∀ i ∈ ([.seFetch 8192 false, .sqInval .host 8192 0, .ceReady 8192,
    .headPublish 8192, .queueEnable .host 8192, .queueQuiesce .host 8192 false,
    .queueAbort .host 8192, .idleReached 8192, .egressPacketStart 8,
    .egressPacketDone 8 false, .ethLinkDown 2, .ptpEventMessage 2 false 0 0,
    .ptpTxIdRead .host 2, .grantRevocation 120 0 0 0, .fabEtaMiss 120 0,
    .data 4 (List.replicate 256 0), .data 0 [], .link 4 (List.replicate 256 0),
    .link 0 [], .linkAckTimer 4, .retryTimeout 4 0,
    .retryTimeout 0 8, .enum 4 0 0 0 0 [], .enum 0 2049 0 0 0 [],
    .enum 0 0 0 0 5 [], .enumReply 4 0 0 false [], .enumReply 0 0 2049 false [],
    .epoch 4 0 [], .mgmtAdmit 0 17 .home (List.replicate 64 0) (List.replicate 128 0), .mgmtAdmit 0 0 .home [] (List.replicate 128 0)] : List Instr), i.wf = false := by decide

theorem test_wf_refuses_6 : ∀ i ∈ ([.mgmtAdmit 0 0 .home (List.replicate 64 0) [], .admitReply 0 17 [], .cascRelease .host 1024,
    .resetDevice .host 2048, .budget 1024 0 0 0, .budget 0 0 0 2048,
    .cascSemAcquire .host 0 64, .cascSemRelease .host 0 64, .cascSemForceRelease .host 64,
    .semReq 4 0 0 0 0, .semReq 0 2048 0 0 0, .semReq 0 0 5 0 0,
    .semReq 0 0 0 0 64, .semReply false false 0 2048, .xreq 2048 0 0 0 0,
    .xreq 0 0 0 0 64, .xreqTimeout 2048 0, .syncReq 4 0,
    .syncRsp 4 0 0 0, .heartbeat 4 0 0 0 0, .heartbeat 0 2048 0 0 0,
    .cascDeviceDead 2048, .fence 4 0 0, .fence 0 0 2048,
    .fenceRepeat 4, .islTapPacket 8 0 0 [] false, .islTapUnit 1024 0 0 [] false false,
    .islTapTmo 4, .codedTmo 4, .expoEdge 4 false 0] : List Instr), i.wf = false := by decide

theorem test_wf_refuses_7 : ∀ i ∈ ([.islMeasRelay [], .getCertificate 256 0 0, .challenge 256 (List.replicate 32 0),
    .challenge 0 [], .getMeasurements 0 false [], .ivrAdjust 105 0 false,
    .bulkTileGate 104, .rstTile .host 4 0, .cdcEvtOvf 2048 0,
    .faultRaise 1024 0 0, .hbMiss 4, .crierTake .host 1024,
    .crierDone .host 1024, .crierSet .host 1024, .crierClr .host 1024,
    .counterWrap (some 104) 0, .counterWrap none 48, .samplePeriod 104 0 0 0 0,
    .ethLinkUp 2, .serdesPllLol 12, .invalDone 8192] : List Instr), i.wf = false := by decide

end Sys2Proof.Tests
end

/-! PROOFS. The tile's call stack (R216): CALL and RET with room, and the machine check they raise without it. A machine check
loses the tile's job (R224, R225); most of what follows shows that this loss touches no tile and clears no fault source. -/
namespace Sys2Proof.Machine

/-! ## What a loss keeps -/

/-- `t` is `s` after an effect that concerns no tile: every tile stands, and every FLT_SRC bit that was set. -/
structure KeepsTiles (s t : State) : Prop where
  tiles : t.tiles = s.tiles
  src : ∀ p b, (hdr s p).fltSrc.getLsbD b = true → (hdr t p).fltSrc.getLsbD b = true

namespace KeepsTiles

theorem refl (s : State) : KeepsTiles s s := ⟨rfl, fun _ _ h => h⟩

theorem trans {s t u : State} (h : KeepsTiles s t) (g : KeepsTiles t u) : KeepsTiles s u :=
  ⟨g.tiles.trans h.tiles, fun p b hb => g.src p b (h.src p b hb)⟩

theorem getTile {s t : State} (h : KeepsTiles s t) (k : Nat) : getTile t k = getTile s k := by
  simp [Machine.getTile, h.tiles]

/-- An effect that writes neither the tiles nor the page headers. -/
theorem of_hdrs {s t : State} (h : t.tiles = s.tiles) (g : t.hdrs = s.hdrs) : KeepsTiles s t :=
  ⟨h, fun p b hb => by simpa [hdr, g] using hb⟩

theorem of_noted {s t : State} (h : Noted s t) : KeepsTiles s t := ⟨by rw [h.frame], h.src⟩

theorem foldl {α : Type} {f : State → α → State} {l : List α} (h : ∀ s, ∀ x ∈ l, KeepsTiles s (f s x)) (s : State) :
    KeepsTiles s (l.foldl f s) :=
  List.foldlRecOn l f (refl s) fun u hu x hx => hu.trans (h u x hx)

end KeepsTiles

/-! ## Messages to other devices (R348, R349) -/

theorem fifoPut_keepsTiles (s : State) (f : Nat) (w : LW) : KeepsTiles s (fifoPut s f w) := by
  have hput : ∀ u a, KeepsTiles u (comPut u a w) := by
    intro u a
    unfold comPut
    split
    · exact .refl u
    · exact .of_hdrs rfl rfl
  have hstore : ∀ u x, KeepsTiles u (fifoStore u f x) := fun u x =>
    .of_hdrs (by rw [fifoStore_frame]) (by rw [fifoStore_frame])
  have htake : KeepsTiles s (comTake s (fifoAddr s f (getFifo s f).w) 0) := .of_hdrs rfl rfl
  exact (htake.trans (hput _ _)).trans (hstore _ _)

theorem fifoStall_keepsTiles (s : State) (f k : Nat) : KeepsTiles s (fifoStall s f k) := by
  unfold fifoStall
  simp only
  split
  · exact .refl s
  · exact .of_hdrs rfl rfl

theorem sfTransmit_keepsTiles (s : State) (p c : Nat) (t : TxFlit) : KeepsTiles s (sfTransmit s p c t).2 := by
  unfold sfTransmit
  split
  · have hpush : KeepsTiles s (fifoPush s (retryFifo p c) (restamp s.casc.epoch.toNat t.bytes)) :=
      .foldl (fun u w _ => fifoPut_keepsTiles u _ w) s
    exact hpush.trans (.of_hdrs rfl rfl)
  · exact fifoStall_keepsTiles _ _ _

theorem sfPump_keepsTiles (p c : Nat) (l : List TxFlit) : ∀ s, KeepsTiles s (sfPump s p c l).2 := by
  induction l with
  | nil => exact .refl
  | cons t rest ih =>
    intro s
    unfold sfPump
    simp only
    split
    · split
      · exact sfTransmit_keepsTiles s p c t
      · exact (sfTransmit_keepsTiles s p c t).trans (ih _)
    · exact ih s

theorem mgmtTo_keepsTiles (s : State) (dst : Nat) (msg : List Byte) : KeepsTiles s (mgmtTo s dst msg) := by
  unfold mgmtTo sendMgmt sendSeq sendSrc
  split
  · split
    · exact .refl s
    · exact (sfPump_keepsTiles _ _ _ s).trans (.of_hdrs rfl rfl)
  · exact .refl s

/-! ## A buffer given back (R259, R260) -/

theorem answerWaiter_keepsTiles (s : State) (w : Waiter) (code addr : Nat) : KeepsTiles s (answerWaiter s w code addr) := by
  unfold answerWaiter grnDone
  split
  · refine .trans ?_ (.of_noted (setEvt_noted _ _ _))
    exact .of_hdrs rfl rfl
  · exact mgmtTo_keepsTiles _ _ _

/-- A waiter is answered after an event is counted and its pool is stored. -/
theorem answerWaiter_evG_setPool_keepsTiles (s : State) (ev p : Nat) (x : Pool) (w : Waiter) (code addr : Nat) :
    KeepsTiles s (answerWaiter (evG ev (setPool s p x)) w code addr) := by
  have hpool : KeepsTiles s (setPool s p x) := .of_hdrs rfl rfl
  exact (hpool.trans (.of_noted (evG_told ev _).noted)).trans (answerWaiter_keepsTiles _ _ _ _)

theorem xreqContend_keepsTiles (s : State) (p : Nat) : KeepsTiles s (xreqContend s p) := by
  unfold xreqContend
  simp only
  split
  · split
    · exact (answerWaiter_evG_setPool_keepsTiles _ _ _ _ _ _ _).trans (.of_hdrs rfl rfl)
    · exact .refl s
  · exact .refl s

theorem testHead_keepsTiles (s : State) (p : Nat) : KeepsTiles s (testHead s p) := by
  unfold testHead
  simp only
  refine (xreqContend_keepsTiles s p).trans ?_
  split
  · exact .refl _
  · split
    · exact answerWaiter_evG_setPool_keepsTiles _ _ _ _ _ _ _
    · exact .refl _

theorem rejectFree_keepsTiles (s : State) (p a o code : Nat) : KeepsTiles s (rejectFree s p a o code) := by
  unfold rejectFree
  refine .trans ?_ (.of_noted (raiseFault_noted _ _ _ _))
  exact .of_hdrs rfl rfl

theorem freeBuf_keepsTiles (s : State) (c : Nat) (b : Option (Nat × Nat)) : KeepsTiles s (freeBuf s c b) := by
  unfold freeBuf grnFree
  split
  · simp only
    split
    · refine .trans ?_ (testHead_keepsTiles _ _)
      exact .of_hdrs rfl rfl
    · split
      · exact .refl s
      · exact (rejectFree_keepsTiles _ _ _ _ _).trans (testHead_keepsTiles _ _)
  · exact .refl s

/-! ## A lost job (R224) -/

theorem picCoded_keepsTiles (s : State) (c id : Nat) : KeepsTiles s (picCoded s c id) := by
  unfold picCoded
  split
  · exact .refl s
  · split
    · exact .refl s
    · simp only
      split
      · exact .refl s
      · split <;> exact .of_hdrs rfl rfl

theorem jobOut_keepsTiles (s : State) (c : Nat) (x : Ctx) (p : Pic) (j : Job) (outs : List SegOut) (lost : Bool) :
    KeepsTiles s (jobOut s c x p j outs lost) := by
  unfold jobOut
  refine .trans ?_ (picCoded_keepsTiles _ _ _)
  exact .of_hdrs rfl rfl

/-- The unstated samples of a lost job use up free values only. -/
theorem lostOuts_keepsTiles (s : State) (p : Pic) (j : Job) : KeepsTiles s (lostOuts s p j).2 :=
  List.foldlRecOn (motive := fun a : List SegOut × State => KeepsTiles s a.2) _ _ (.refl s) fun _ h _ _ => h.trans (.of_hdrs rfl rfl)

theorem loseJob_keepsTiles (s : State) (j : Job) (cause : Nat) : KeepsTiles s (loseJob s j cause) := by
  have hjobs : KeepsTiles s { s with jobs := s.jobs.filter fun i => i.id != j.id } := .of_hdrs rfl rfl
  have hfresh : ∀ u, KeepsTiles u (fresh u).2 := fun _ => .of_hdrs rfl rfl
  unfold loseJob
  extract_lets s0 f
  refine hjobs.trans ?_
  change KeepsTiles s0 _
  split
  · split
    · split <;> exact .of_hdrs rfl rfl
    · exact .refl _
  · split
    · exact freeBuf_keepsTiles _ _ _
    · extract_lets p1 x1 l cut l2
      have hl : KeepsTiles s0 l.2 := (hfresh s0).trans (lostOuts_keepsTiles _ _ _)
      refine hl.trans ?_
      split
      · split
        · exact (freeBuf_keepsTiles _ _ _).trans (jobOut_keepsTiles _ _ _ _ _ _ _)
        · refine .trans ?_ (jobOut_keepsTiles _ _ _ _ _ _ _)
          exact .of_hdrs rfl rfl
      · exact (freeBuf_keepsTiles _ _ _).trans (jobOut_keepsTiles _ _ _ _ _ _ _)

/-! ## A tile set free (R68) -/

/-- The page of each of the 104 tiles in the table of pages (R57). -/
theorem pageAt_tilePage : ∀ {k : Nat}, k < 104 → pageAt (tilePage k) = some (.tile, k) := by decide

/-- A snapshot of a tile's page writes registers and the generation of its commit. -/
theorem snapApply_tile_keepsTiles {s : State} {n : Snap} {i : Nat} (h : pageAt n.page = some (.tile, i)) :
    KeepsTiles s (snapApply s n) := by
  have hgen : ∀ u g, KeepsTiles u (genSet u n.page g) := fun u g =>
    ⟨rfl, fun p b hb => by by_cases hp : p = n.page <;> simpa [genSet, hp] using hb⟩
  unfold snapApply
  simp only [h]
  refine .trans ?_ (hgen _ _)
  exact .of_hdrs rfl rfl

/-- The snapshots that apply when a tile is set free are those of its own page. -/
theorem applySnaps_tile_keepsTiles {k : Nat} (h : k < 104) (s : State) :
    KeepsTiles s (applySnaps s fun n => n.page == tilePage k) := by
  refine .foldl (fun u n hn => ?_) s
  have hpage : n.page = tilePage k := by simpa using (List.mem_filter.mp hn).2
  exact snapApply_tile_keepsTiles (hpage ▸ pageAt_tilePage h)

/-- A tile set free keeps the cause of its last machine check. -/
theorem tileFree_mchk {k : Nat} (h : k < 104) (s : State) : (getTile (tileFree s k) k).mchk = (getTile s k).mchk := by
  rw [tileFree, (applySnaps_tile_keepsTiles h _).getTile]
  simp

theorem tileFree_src {k : Nat} (h : k < 104) (s : State) (p b : Nat) (hb : (hdr s p).fltSrc.getLsbD b = true) :
    (hdr (tileFree s k) p).fltSrc.getLsbD b = true :=
  (applySnaps_tile_keepsTiles h _).src p b hb

/-! ## The machine check (R225) -/

/-- The sequencer stops, the cause is recorded, and TILE_MCHK is raised. -/
theorem tileMchk_spec {k : Nat} (h : k < 104) (s : State) (cause addr : Nat) :
    (getTile (tileMchk s k cause addr) k).run = 4 ∧ (getTile (tileMchk s k cause addr) k).mchk = cause % 256 ∧
    (hdr (tileMchk s k cause addr) (tilePage k)).fltSrc.getLsbD 0 = true := by
  unfold tileMchk
  extract_lets x s1 s2 s3
  have hnoted : Noted s1 s2 := (raiseFault_noted _ _ _ _).trans (fencePage_noted _ _)
  have hlost : KeepsTiles s2 s3 := by
    unfold s3
    split
    · exact loseJob_keepsTiles _ _ _
    · exact .refl s2
  have hcause : (getTile s3 k).mchk = cause % 256 := by
    rw [hlost.getTile, (KeepsTiles.of_noted hnoted).getTile, (KeepsTiles.of_noted (setEvt_noted _ _ _)).getTile]
    simp
  have hsrc : (hdr s3 (tilePage k)).fltSrc.getLsbD 0 = true :=
    hlost.src _ _ ((fencePage_noted _ _).src _ _ (raiseFault_src (pageAt_tilePage h) (by decide) (by decide)))
  refine ⟨by simp, ?_, tileFree_src h s3 _ _ hsrc⟩
  rw [getTile_setTile, if_pos rfl, tileFree_mchk h, hcause]

/-! ## A microword's effect (R215) -/

/-- A tile that executes a microword is one of the 104. -/
theorem lt_of_microOk {s : State} {k w : Nat} (h : microOk s k w = true) : k < 104 := by
  simp only [microOk, sequencing, Bool.and_eq_true, decide_eq_true_eq] at h
  obtain ⟨⟨⟨⟨⟨hk, -⟩, -⟩, -⟩, -⟩, -⟩ := h
  exact hk

/-- The state in which a microword that a tile executes has its effect: the performance counters have counted it (R460). -/
def counted (s : State) (k : Nat) : State := evT k 0x003 (if 0x10000 ≤ (getTile s k).upc then evT k 0x004 s else s)

theorem micro_ok {s : State} {k w : Nat} (op : State → State) (h : microOk s k w = true) : micro k w op s = op (counted s k) := by
  simp [micro, h, counted]

theorem counted_told {k : Nat} (h : k < 104) (s : State) : Told s (counted s k) := by
  unfold counted
  refine .trans ?_ (evT_told k _ _ (by omega))
  split
  · exact evT_told k _ _ (by omega)
  · exact .refl s

theorem getTile_counted {k : Nat} (h : k < 104) (s : State) (m : Nat) : getTile (counted s k) m = getTile s m :=
  (KeepsTiles.of_noted (counted_told h s).noted).getTile m

/-- A microword that a tile executes answers its effect on the counted state. -/
theorem runs_micro {c : Instr} {s : State} {k w : Nat} {op : State → State} (e : exec c s = act (micro k w op) s)
    (h : alive s = true) (hk : microOk s k w = true) : Runs c s (op (counted s k)) :=
  micro_ok op hk ▸ runs_act e h

/-! ## CALL and RET (R216) -/

theorem callTo_free {s : State} {k : Nat} (target : Nat) (h : (getTile s k).stack.length < 2) :
    callTo k target s = setTile s k (goTo (spend { getTile s k with
      stack := (getTile s k).stack ++ [((getTile s k).upc + 1) % 2 ^ 17] } 2 true) target) := by
  simp [callTo, Nat.not_le.mpr h]

theorem callTo_full {s : State} {k : Nat} (target : Nat) (h : 2 ≤ (getTile s k).stack.length) :
    callTo k target s = tileMchk s k 6 0 := by
  simp [callTo, h]

theorem retFrom_last {s : State} {k a : Nat} (h : (getTile s k).stack.getLast? = some a) :
    retFrom k s = setTile s k (goTo (spend { getTile s k with stack := (getTile s k).stack.dropLast } 2 true) a) := by
  simp [retFrom, h]

theorem retFrom_empty {s : State} {k : Nat} (h : (getTile s k).stack = []) : retFrom k s = tileMchk s k 6 0 := by
  simp [retFrom, h]

/-- Settles O38: each of CALL and RET either rewrites its tile's stack and goes on, or raises the machine check whose effect
`tileMchk_spec` states. -/
theorem tileCallStack : Obligations.TileCallStack := by
  unfold Obligations.TileCallStack
  refine ⟨fun s k target ha hm hs => ⟨_, runs_micro rfl ha hm, ?_⟩, fun s k a ha hm hs => ⟨_, runs_micro rfl ha hm, ?_⟩,
    fun s k target ha hm hs => ⟨_, runs_micro rfl ha hm, ?_⟩, fun s k ha hm hs => ⟨_, runs_micro rfl ha hm, ?_⟩⟩
  all_goals
    have hk : k < 104 := lt_of_microOk hm
    rw [← getTile_counted hk] at hs
  · rw [callTo_free _ hs]
    exact ⟨by simp [getTile_counted hk], fun m hne => by simp [hne, getTile_counted hk]⟩
  · rw [retFrom_last hs]
    exact ⟨by simp [getTile_counted hk], fun m hne => by simp [hne, getTile_counted hk]⟩
  · rw [callTo_full _ hs]
    exact tileMchk_spec hk _ 6 0
  · rw [retFrom_empty hs]
    exact tileMchk_spec hk _ 6 0

end Sys2Proof.Machine

/-! PROOFS. Ring pointers (R266) and the index values of the work queues (R288): a position and an index value hold the same
wrap bit, at bit `s` and at bit 16, above the same `s` index bits. -/
namespace Sys2Proof.Machine

/-! ## The distance of two pointers (R266) -/

theorem ringDist_cast (s a b : Nat) : (ringDist s a b : Int) = ((b : Int) - a) % 2 ^ (s + 1) := by
  have ha : a % 2 ^ (s + 1) ≤ b + 2 ^ (s + 1) := (Nat.mod_lt a (by positivity)).le.trans (Nat.le_add_left _ b)
  have hcast : (ringDist s a b : Int) = ((b : Int) + 2 ^ (s + 1) - a % 2 ^ (s + 1)) % 2 ^ (s + 1) := by
    simp [ringDist, Nat.cast_sub ha]
  rw [hcast, add_sub_right_comm, Int.add_emod_right, Int.sub_emod_emod]

theorem ringDist_self (s a : Nat) : ringDist s a a = 0 := by
  simpa using ringDist_cast s a a

/-- Two pointers half a turn apart are at distance `2 ^ s`, whichever of them is ahead. -/
theorem ringDist_half_turn {s a b : Nat} (h : b = a + 2 ^ s ∨ a = b + 2 ^ s) : ringDist s a b = 2 ^ s := by
  have hmod : (2 ^ s : Int) % 2 ^ (s + 1) = 2 ^ s := Int.emod_eq_of_lt (by positivity) (by gcongr <;> omega)
  have hint : (ringDist s a b : Int) = 2 ^ s := by
    rw [ringDist_cast]
    rcases h with rfl | rfl
    · simpa using hmod
    · have hneg : (b : Int) - (b + 2 ^ s : Nat) = 2 ^ s - 2 ^ (s + 1) := by push_cast; ring
      rw [hneg, Int.sub_emod_right, hmod]
  exact_mod_cast hint

theorem wrap_lt_two {s p : Nat} (h : p < 2 ^ (s + 1)) : p / 2 ^ s < 2 :=
  Nat.div_lt_of_lt_mul (by rwa [← pow_succ])

/-- Pointers of one index whose wrap bits differ are half a turn apart. -/
theorem half_turn_of_wrap_ne {s a b : Nat} (ha : a < 2 ^ (s + 1)) (hb : b < 2 ^ (s + 1)) (hidx : a % 2 ^ s = b % 2 ^ s)
    (hwrap : a / 2 ^ s ≠ b / 2 ^ s) : b = a + 2 ^ s ∨ a = b + 2 ^ s := by
  rw [← Nat.div_add_mod a (2 ^ s), ← Nat.div_add_mod b (2 ^ s), hidx]
  have hwa := wrap_lt_two ha
  have hwb := wrap_lt_two hb
  generalize a / 2 ^ s = wa, b / 2 ^ s = wb at *
  obtain ⟨rfl, rfl⟩ | ⟨rfl, rfl⟩ : wa = 0 ∧ wb = 1 ∨ wa = 1 ∧ wb = 0 := by omega
  · left; ring
  · right; ring

/-! ## Index values (R288) -/

/-- The field of an index value that holds its wrap bit. -/
theorem bits_wrap (v : Nat) : bits v 16 16 = v / 2 ^ 16 % 2 := by
  simp [bits, Nat.shiftRight_eq_div_pow]

theorem posOf_eq_testBit (s v : Nat) : posOf s v = (if v.testBit 16 then 1 else 0) * 2 ^ s + v % 2 ^ s := by
  rw [posOf, bits_wrap, ← Nat.toNat_testBit]
  cases v.testBit 16 <;> rfl

theorem idxValid_iff (s v : Nat) : idxValid s v = true ↔ ∀ k, s ≤ k → k < 16 → v.testBit k = false := by
  rw [idxValid, decide_eq_true_iff]
  constructor
  · intro hlt k hk hk16
    have hbit := Nat.testBit_eq_false_of_lt (hlt.trans_le (Nat.pow_le_pow_right two_pos hk))
    rwa [Nat.testBit_mod_two_pow, decide_eq_true hk16, Bool.true_and] at hbit
  · intro hzero
    refine Nat.lt_pow_two_of_testBit _ fun k hk => ?_
    rw [Nat.testBit_mod_two_pow]
    by_cases hk16 : k < 16
    · simp [hzero k hk hk16]
    · simp [hk16]

section
variable {s : Nat} (hs : s ≤ 16) (p : Nat)
include hs

theorem index_lt : p % 2 ^ s < 2 ^ 16 :=
  (Nat.mod_lt p (by positivity)).trans_le (Nat.pow_le_pow_right two_pos hs)

theorem idxOf_mod : idxOf s p % 2 ^ 16 = p % 2 ^ s := by
  have := index_lt hs p
  unfold idxOf
  omega

theorem idxOf_wrap : bits (idxOf s p) 16 16 = p / 2 ^ s % 2 := by
  have := index_lt hs p
  rw [bits_wrap]
  unfold idxOf
  omega

theorem idxOf_lt : idxOf s p < 2 ^ 17 := by
  have := index_lt hs p
  unfold idxOf
  omega

theorem idxValid_idxOf : idxValid s (idxOf s p) = true := by
  rw [idxValid, decide_eq_true_iff, idxOf_mod hs]
  exact Nat.mod_lt p (by positivity)

theorem posOf_idxOf (hp : p < 2 ^ (s + 1)) : posOf s (idxOf s p) = p := by
  have hidx : idxOf s p % 2 ^ s = p % 2 ^ s := by
    rw [← Nat.mod_mod_of_dvd _ (pow_dvd_pow 2 hs), idxOf_mod hs, Nat.mod_mod]
  rw [posOf, idxOf_wrap hs, Nat.mod_eq_of_lt (wrap_lt_two hp), hidx, Nat.div_add_mod']

end

/-- Settles O17: equal wrap bits make equal pointers and differing ones a half turn; an index value's bit 16 is the wrap bit
of its position. -/
theorem ringDistance : Obligations.RingDistance := by
  unfold Obligations.RingDistance
  refine ⟨fun s a b ha hb hidx => ⟨fun hwrap => ?_, fun hwrap => ?_⟩, fun s v _ _ => posOf_eq_testBit s v,
    fun s v _ _ => idxValid_iff s v, fun s a b _ _ => ringDist_cast s a b,
    fun s p hs hp => ⟨idxValid_idxOf hs p, posOf_idxOf hs p hp, idxOf_lt hs p⟩⟩
  · obtain rfl : a = b := by rw [← Nat.div_add_mod a (2 ^ s), hwrap, hidx, Nat.div_add_mod]
    exact ⟨rfl, ringDist_self s a⟩
  · exact ringDist_half_turn (half_turn_of_wrap_ne ha hb hidx hwrap)

end Sys2Proof.Machine

/-! PROOFS. What no command touches: the waiting commands and the canonical form of the memories (`MemoryFormKept`). `Kept s t` says
that t is s after any work of the model; each function of the model that answers a state has one lemma, in the order of its
definition, which says that it keeps what was kept before it. Only `hostWrite`, `hbmWriteB`, `comPut`, the drops of stack contents
and the resets write a memory at all. -/
section
open Sys2Proof
namespace Sys2Proof.Machine
/-- `t` is `s` after a command's own work: the waiting commands stand, and the canonical form of the memories is kept. -/
structure Kept (s t : State) : Prop where
  pending : t.pending = s.pending
  form : MemForm s → MemForm t

variable {s₀ s t : State}

protected theorem Kept.refl (s : State) : Kept s s := ⟨rfl, id⟩

/-- An update of fields other than the waiting commands and the memories. -/
protected theorem Kept.upd (h : Kept s₀ s)
    (e : (t.pending, t.hostMem, t.hbm, t.commons) = (s.pending, s.hostMem, s.hbm, s.commons)) : Kept s₀ t := by
  simp only [Prod.mk.injEq] at e
  obtain ⟨hp, hm, hb, hc⟩ := e
  exact ⟨hp.trans h.pending, fun f => by rw [MemForm, hm, hb, hc]; exact h.form f⟩

protected theorem Kept.ite {c : Prop} [Decidable c] (h : Kept s₀ s) (g : Kept s₀ t) : Kept s₀ (if c then s else t) := by
  split <;> assumption

protected theorem Kept.foldl {α : Type} {f : State → α → State} {l : List α} (h : Kept s₀ s)
    (hf : ∀ u x, Kept s₀ u → Kept s₀ (f u x)) : Kept s₀ (l.foldl f s) :=
  List.foldlRecOn l f h fun u hu x _ => hf u x hu

theorem memWf_bsetAll (bs : List Byte) : ∀ (m : NMap Byte) (a : Nat), memWf m = true → memWf (bsetAll m a bs) = true := by
  induction bs with
  | nil => exact fun _ _ h => h
  | cons b rest ih => exact fun m a h => ih _ _ (memWf_bset m a b h)

theorem memWf_filter {m : NMap Byte} (p : Nat × Byte → Bool) (h : memWf m = true) : memWf (m.filter p) = true := by
  obtain ⟨hk, hz⟩ := Bool.and_eq_true_iff.mp h
  refine Bool.and_eq_true_iff.mpr ⟨nsorted_filter m p hk, List.all_eq_true.mpr fun e he => ?_⟩
  exact List.all_eq_true.mp hz e (List.mem_of_mem_filter he)

/-- Dropping bytes of the stacks, whatever else changes beside the waiting commands and the other memories. -/
protected theorem Kept.filterHbm (h : Kept s₀ s) (p : Nat × Byte → Bool)
    (e : (t.pending, t.hostMem, t.hbm, t.commons) = (s.pending, s.hostMem, s.hbm.filter p, s.commons)) : Kept s₀ t := by
  simp only [Prod.mk.injEq] at e
  obtain ⟨hp, hm, hb, hc⟩ := e
  refine ⟨hp.trans h.pending, fun f => ?_⟩
  obtain ⟨fm, fb, fc⟩ := h.form f
  exact ⟨hm ▸ fm, hb ▸ memWf_filter p fb, by rw [hc]; exact fc⟩

/-! ### Registers, memories and arbiters -/

protected theorem Kept.rput {page bank off : Nat} {v : U32} (hs : Kept s₀ s) : Kept s₀ (rput s page bank off v) := by
  unfold rput
  exact hs.upd rfl

protected theorem Kept.rputN {page bank off v : Nat} (hs : Kept s₀ s) : Kept s₀ (rputN s page bank off v) := by
  unfold rputN
  exact hs.rput

protected theorem Kept.rput64 {page bank off v : Nat} (hs : Kept s₀ s) : Kept s₀ (rput64 s page bank off v) := by
  unfold rput64
  exact hs.rputN.rputN

protected theorem Kept.sput {page bank off : Nat} {v : U32} (hs : Kept s₀ s) : Kept s₀ (sput s page bank off v) := by
  unfold sput
  exact hs.upd rfl

protected theorem Kept.bump {page bank off n : Nat} (hs : Kept s₀ s) : Kept s₀ (bump s page bank off n) := by
  unfold bump
  exact hs.rputN

protected theorem Kept.bump16 {page bank off lo n : Nat} (hs : Kept s₀ s) : Kept s₀ (bump16 s page bank off lo n) := by
  unfold bump16
  extract_lets +onlyGivenNames v
  exact hs.rputN

protected theorem Kept.boothField {page bank off hi lo v : Nat} (hs : Kept s₀ s) :
    Kept s₀ (boothField s page bank off hi lo v) := by
  unfold boothField
  extract_lets +onlyGivenNames shadow
  exact Kept.upd (s := sput (rputN s page bank off (setBits (rgetN s page bank off) hi lo v)) page bank off
      (BitVec.ofNat 32 shadow)) hs.rputN.sput rfl

protected theorem Kept.boothPut {page bank off v : Nat} (hs : Kept s₀ s) : Kept s₀ (boothPut s page bank off v) := by
  unfold boothPut
  exact hs.boothField

protected theorem Kept.setHdr {page : Nat} {h : PageHdr} (hs : Kept s₀ s) : Kept s₀ (setHdr s page h) := by
  unfold setHdr
  exact hs.upd rfl

protected theorem Kept.topCount {off addr : Nat} (hs : Kept s₀ s) : Kept s₀ (topCount s off addr) := by
  unfold topCount
  exact hs.bump.rputN

protected theorem Kept.unmapped {addr : Nat} (hs : Kept s₀ s) : Kept s₀ (unmapped s addr) := by
  unfold unmapped
  exact hs.topCount

protected theorem Kept.badSize {addr : Nat} (hs : Kept s₀ s) : Kept s₀ (badSize s addr) := by
  unfold badSize
  exact hs.topCount

protected theorem Kept.hostDeny {addr : Nat} (hs : Kept s₀ s) : Kept s₀ (hostDeny s addr) := by
  unfold hostDeny
  exact hs.topCount

protected theorem Kept.emit {e : Emit} (hs : Kept s₀ s) : Kept s₀ (emit s e) := by
  unfold emit
  exact hs.upd rfl

protected theorem Kept.sendMsix {v : Nat} (hs : Kept s₀ s) : Kept s₀ (sendMsix s v) := by
  unfold sendMsix
  exact Kept.ite (hs.upd rfl) hs.emit

protected theorem Kept.fresh (hs : Kept s₀ s) : Kept s₀ (fresh s).2 := by
  unfold fresh
  dsimp only
  exact hs.upd rfl

protected theorem Kept.setCtx {c : Nat} {x : Ctx} (hs : Kept s₀ s) : Kept s₀ (setCtx s c x) := by
  unfold setCtx
  exact hs.upd rfl

protected theorem Kept.setQ {q : Nat} {x : Queue} (hs : Kept s₀ s) : Kept s₀ (setQ s q x) := by
  unfold setQ
  exact hs.upd rfl

protected theorem Kept.setTile {t : Nat} {x : Tile} (hs : Kept s₀ s) : Kept s₀ (setTile s t x) := by
  unfold setTile
  exact hs.upd rfl

protected theorem Kept.setPool {p : Nat} {x : Pool} (hs : Kept s₀ s) : Kept s₀ (setPool s p x) := by
  unfold setPool
  exact hs.upd rfl

protected theorem Kept.setFifo {f : Nat} {x : Fifo} (hs : Kept s₀ s) : Kept s₀ (setFifo s f x) := by
  unfold setFifo
  exact hs.upd rfl

protected theorem Kept.setDma {c : Nat} {x : Dma} (hs : Kept s₀ s) : Kept s₀ (setDma s c x) := by
  unfold setDma
  exact hs.upd rfl

protected theorem Kept.setCrc {u : Nat} {x : CrcU} (hs : Kept s₀ s) : Kept s₀ (setCrc s u x) := by
  unfold setCrc
  exact hs.upd rfl

protected theorem Kept.setPc {p : Nat} {x : Pc} (hs : Kept s₀ s) : Kept s₀ (setPc s p x) := by
  unfold setPc
  exact hs.upd rfl

protected theorem Kept.setFlow {f : Nat} {x : Machine.Flow} (hs : Kept s₀ s) : Kept s₀ (setFlow s f x) := by
  unfold setFlow
  exact hs.upd rfl

protected theorem Kept.setSvc {v : Nat} {x : Svc} (hs : Kept s₀ s) : Kept s₀ (setSvc s v x) := by
  unfold setSvc
  exact hs.upd rfl

protected theorem Kept.setPort {p : Nat} {x : EPort} (hs : Kept s₀ s) : Kept s₀ (setPort s p x) := by
  unfold setPort
  exact hs.upd rfl

protected theorem Kept.setRing {r : Nat} {x : Machine.Ring} (hs : Kept s₀ s) : Kept s₀ (setRing s r x) := by
  unfold setRing
  exact hs.upd rfl

protected theorem Kept.setEth {p : Nat} {x : Eth} (hs : Kept s₀ s) : Kept s₀ (setEth s p x) := by
  unfold setEth
  exact hs.upd rfl

protected theorem Kept.setSf {p : Nat} {x : SfPort} (hs : Kept s₀ s) : Kept s₀ (setSf s p x) := by
  unfold setSf
  exact hs.upd rfl

protected theorem Kept.setSensor {p : Nat} {x : Sensor} (hs : Kept s₀ s) : Kept s₀ (setSensor s p x) := by
  unfold setSensor
  exact hs.upd rfl

protected theorem Kept.setCar {l : Nat} {x : Car} (hs : Kept s₀ s) : Kept s₀ (setCar s l x) := by
  unfold setCar
  exact hs.upd rfl

protected theorem Kept.setSrc {n : Nat} {x : CSrc} (hs : Kept s₀ s) : Kept s₀ (setSrc s n x) := by
  unfold setSrc
  exact hs.upd rfl

protected theorem Kept.hostWrite {a : Nat} {bs : List Byte} (hs : Kept s₀ s) : Kept s₀ (hostWrite s a bs) := by
  refine ⟨hs.pending, fun f => ?_⟩
  obtain ⟨hm, hb, hc⟩ := hs.form f
  exact ⟨memWf_bsetAll bs _ _ hm, hb, hc⟩

protected theorem Kept.hbmWriteB {a : Nat} {bs : List Byte} {poison : Bool} (hs : Kept s₀ s) :
    Kept s₀ (hbmWriteB s a bs poison) := by
  refine ⟨hs.pending, fun f => ?_⟩
  obtain ⟨hm, hb, hc⟩ := hs.form f
  refine ⟨hm, ?_, hc⟩
  unfold hbmWriteB
  refine List.foldlRecOn (motive := fun r : NMap Byte × List (Nat × Nat) => memWf r.1 = true) _ _ hb fun r hr x _ => ?_
  simp only
  split
  · exact memWf_bset _ _ _ hr
  · exact hr

protected theorem Kept.hostPut {a : Nat} {bs : List Byte} {poison : Bool} (hs : Kept s₀ s) : Kept s₀ (hostPut s a bs poison) := by
  unfold hostPut
  extract_lets +onlyGivenNames s1
  have hs1 : Kept s₀ s1 := hs.hostWrite
  clear_value s1
  exact hs1.upd rfl

protected theorem Kept.memWrite {loc addr : Nat} {bs : List Byte} {poison : Bool} (hs : Kept s₀ s) :
    Kept s₀ (memWrite s loc addr bs poison) := by
  unfold memWrite
  exact Kept.ite (Kept.ite hs hs.hostPut) hs.hbmWriteB

protected theorem Kept.arbTake {key r n : Nat} (hs : Kept s₀ s) : Kept s₀ (arbTake s key r n) := by
  unfold arbTake
  exact hs.upd rfl

protected theorem Kept.comTake {a r : Nat} (hs : Kept s₀ s) : Kept s₀ (comTake s a r) := by
  unfold comTake
  exact hs.arbTake

protected theorem Kept.comPut {a : Nat} {w : LW} (hs : Kept s₀ s) : Kept s₀ (comPut s a w) := by
  unfold comPut
  split
  · exact hs
  · refine ⟨hs.pending, fun f => ?_⟩
    obtain ⟨hm, hb, hc, hz⟩ := hs.form f
    refine ⟨hm, hb, ?_⟩
    simp only
    split
    · exact ⟨nsorted_ndel _ _ hc, fun e he => hz e (List.mem_of_mem_filter he)⟩
    · next hw =>
      refine ⟨nsorted_nset _ _ _ hc, fun e he => ?_⟩
      have hall : s.commons.all (fun e => e.2 != 0) = true := by simpa using hz
      have := all_nset (fun v : LW => v != 0) s.commons a w (by simpa using hw) hall
      exact by simpa using List.all_eq_true.mp this e he

protected theorem Kept.clockTick (hs : Kept s₀ s) : Kept s₀ (clockTick s) := by
  unfold clockTick
  refine Kept.ite ?_ ?_
  · exact hs
  · extract_lets +onlyGivenNames inc
    exact hs.upd rfl

/-! ### Events and faults -/

protected theorem Kept.tell {n : Nat} (hs : Kept s₀ s) : Kept s₀ (tell s n) := by
  unfold tell
  extract_lets +onlyGivenNames c l
  refine Kept.ite ?_ ?_
  · exact hs
  · extract_lets +onlyGivenNames s1
    have hs1 : Kept s₀ s1 := hs.setSrc
    clear_value s1
    exact Kept.ite hs1.sendMsix hs1

protected theorem Kept.tellPage {page : Nat} (hs : Kept s₀ s) : Kept s₀ (tellPage s page) := by
  unfold tellPage
  split
  · split
    · exact hs.tell
    · exact hs
  · exact hs

protected theorem Kept.setEvts {page : Nat} {mask : U32} (hs : Kept s₀ s) : Kept s₀ (setEvts s page mask) := by
  unfold setEvts
  extract_lets +onlyGivenNames h
  exact hs.setHdr.tellPage

protected theorem Kept.setEvt {page bit : Nat} (hs : Kept s₀ s) : Kept s₀ (setEvt s page bit) := by
  unfold setEvt
  exact hs.setEvts

protected theorem Kept.clearEvts {page : Nat} {mask : U32} (hs : Kept s₀ s) : Kept s₀ (clearEvts s page mask) := by
  unfold clearEvts
  extract_lets +onlyGivenNames h
  exact hs.setHdr.tellPage

protected theorem Kept.putEvtEn {page : Nat} {v : U32} (hs : Kept s₀ s) : Kept s₀ (putEvtEn s page v) := by
  unfold putEvtEn
  exact hs.setHdr.tellPage

protected theorem Kept.setLevel {n : Nat} {l : Bool} (hs : Kept s₀ s) : Kept s₀ (setLevel s n l) := by
  unfold setLevel
  exact hs.setSrc.tell

protected theorem Kept.logFault {e : LogEnt} (hs : Kept s₀ s) : Kept s₀ (logFault s e) := by
  unfold logFault
  extract_lets +onlyGivenNames f full s1
  have hs1 : Kept s₀ s1 := (Kept.setEvt (hs.upd rfl))
  clear_value s1
  exact Kept.ite hs1.setEvt hs1

protected theorem Kept.dropFrames (hs : Kept s₀ s) : Kept s₀ (dropFrames s) := by
  unfold dropFrames
  exact hs.foldl fun _ _ hu => (Kept.ite ((Kept.ite hu.emit hu).setPort) hu)

protected theorem Kept.enterFault {id : Nat} (hs : Kept s₀ s) : Kept s₀ (enterFault s id) := by
  unfold enterFault
  refine Kept.ite ?_ ?_
  · exact hs
  · extract_lets +onlyGivenNames s1
    have hs1 : Kept s₀ s1 := hs.dropFrames
    clear_value s1
    exact Kept.emit (hs1.upd rfl)

protected theorem Kept.fencePage {page : Nat} (hs : Kept s₀ s) : Kept s₀ (fencePage s page) := by
  unfold fencePage
  exact hs.setHdr

protected theorem Kept.applySev {k : PageKind} {page src info sev : Nat} (hs : Kept s₀ s) :
    Kept s₀ (applySev s k page src info sev) := by
  unfold applySev
  extract_lets +onlyGivenNames s1 s2
  have hs1 : Kept s₀ s1 := (Kept.ite hs.setLevel hs)
  clear_value s1
  have hs2 : Kept s₀ s2 := by
    unfold s2
    refine Kept.ite ?_ ?_
    · refine Kept.setLevel ?_
      split
      · exact hs1.fencePage
      · exact hs1
    · exact hs1
  clear_value s2
  exact Kept.ite hs2.enterFault hs2

protected theorem Kept.breakClass {rq : Requester} (hs : Kept s₀ s) : Kept s₀ (breakClass s rq) := by
  unfold breakClass
  exact hs.upd rfl

protected theorem Kept.lockstepBreak {page src info : Nat} (hs : Kept s₀ s) : Kept s₀ (lockstepBreak s page src info) := by
  unfold lockstepBreak
  refine Kept.ite ?_ ?_
  · split
    · exact hs.breakClass
    · exact hs
  · exact hs

protected theorem Kept.raiseBase {page src info : Nat} (hs : Kept s₀ s) : Kept s₀ (raiseBase s page src info) := by
  unfold raiseBase
  split
  · exact hs
  · refine Kept.ite ?_ ?_
    · exact hs
    · extract_lets +onlyGivenNames sev h s1
      have hs1 : Kept s₀ s1 := (Kept.ite hs.setHdr.bump hs.setHdr.logFault)
      clear_value s1
      exact hs1.applySev.lockstepBreak

protected theorem Kept.markCtxs {which : Nat → Ctx → Bool} {sel : Nat → Pic → Bool} {cause : Nat} (hs : Kept s₀ s) :
    Kept s₀ (markCtxs s which sel cause) := by
  unfold markCtxs
  exact hs.upd rfl

protected theorem Kept.containBreach {k : PageKind} {page src info : Nat} (hs : Kept s₀ s) :
    Kept s₀ (containBreach s k page src info) := by
  unfold containBreach
  split
  · exact hs.markCtxs
  · exact Kept.ite hs.markCtxs hs
  · exact Kept.ite hs.markCtxs hs

protected theorem Kept.raiseFault {page src info : Nat} (hs : Kept s₀ s) : Kept s₀ (raiseFault s page src info) := by
  unfold raiseFault
  split
  · exact hs
  · extract_lets +onlyGivenNames sev s1
    have hs1 : Kept s₀ s1 := hs.raiseBase
    clear_value s1
    exact Kept.ite hs1.containBreach hs1

protected theorem Kept.hbmFault {page src : Nat} (hs : Kept s₀ s) : Kept s₀ (hbmFault s page src) := by
  unfold hbmFault
  exact hs.raiseFault.setEvt

protected theorem Kept.hbmInfo {pc kind block : Nat} (hs : Kept s₀ s) : Kept s₀ (hbmInfo s pc kind block) := by
  unfold hbmInfo
  exact hs.rputN.rput64

protected theorem Kept.hbmUe {pc block : Nat} (hs : Kept s₀ s) : Kept s₀ (hbmUe s pc block) := by
  unfold hbmUe
  exact hs.bump16.hbmInfo.hbmFault

protected theorem Kept.rangeFault (hs : Kept s₀ s) : Kept s₀ (rangeFault s) := by
  unfold rangeFault
  exact hs.hbmFault

protected theorem Kept.noteRange {loc : Nat} {err : Option Nat} (hs : Kept s₀ s) : Kept s₀ (noteRange s loc err) := by
  unfold noteRange
  exact Kept.ite hs.rangeFault hs

protected theorem Kept.ueBlocks {l : List Nat} (hs : Kept s₀ s) : Kept s₀ (ueBlocks s l) := by
  unfold ueBlocks
  exact hs.foldl fun _ _ hu => hu.hbmUe

protected theorem Kept.readLoc {loc addr n : Nat} (hs : Kept s₀ s) : Kept s₀ (readLoc s loc addr n).2 := by
  unfold readLoc
  extract_lets +onlyGivenNames r
  dsimp only
  exact (Kept.ite hs hs.ueBlocks).noteRange

protected theorem Kept.markUe {c pic : Nat} (hs : Kept s₀ s) : Kept s₀ (markUe s c pic) := by
  unfold markUe
  exact hs.markCtxs

protected theorem Kept.writeLoc {loc addr : Nat} {bs : List Byte} {poison : Bool} (hs : Kept s₀ s) :
    Kept s₀ (writeLoc s loc addr bs poison) := by
  unfold writeLoc
  exact hs.memWrite.ueBlocks.noteRange

/-! ### Performance counters -/

protected theorem Kept.overflow {t : Option Nat} {n : Nat} (hs : Kept s₀ s) : Kept s₀ (overflow s t n) := by
  unfold overflow
  extract_lets +onlyGivenNames b s1
  have hs1 : Kept s₀ s1 := hs.rputN
  clear_value s1
  refine Kept.ite ?_ ?_
  · extract_lets +onlyGivenNames s2
    have hs2 : Kept s₀ s2 := hs1.setEvt
    clear_value s2
    exact Kept.ite hs2.rputN hs2
  · exact hs1

protected theorem Kept.perfAdd {t : Option Nat} {f n k : Nat} (hs : Kept s₀ s) : Kept s₀ (perfAdd t f s n k) := by
  induction f generalizing s n k with
  | zero => exact hs
  | succ f ih =>
    unfold perfAdd
    simp only
    split
    · exact hs.rputN
    · exact (Kept.ite (ih hs.rputN) hs.rputN).overflow

protected theorem Kept.perfEvt {t : Option Nat} {ev k : Nat} (hs : Kept s₀ s) : Kept s₀ (perfEvt t ev k s) := by
  unfold perfEvt
  exact Kept.ite hs (hs.foldl fun _ _ hu => hu.perfAdd)

protected theorem Kept.evG {ev : Nat} (hs : Kept s₀ s) : Kept s₀ (evG ev s) := by
  unfold evG
  exact hs.perfEvt

protected theorem Kept.evT {t ev : Nat} (hs : Kept s₀ s) : Kept s₀ (evT t ev s) := by
  unfold evT
  exact hs.perfEvt

protected theorem Kept.counterWrap {t : Option Nat} {n : Nat} (hs : Kept s₀ s) : Kept s₀ (counterWrap t n s) := by
  unfold counterWrap
  exact Kept.ite hs.perfAdd hs

/-! ### The FIFO engine -/

protected theorem Kept.comCe {a : Nat} (hs : Kept s₀ s) : Kept s₀ (comCe s a) := by
  unfold comCe
  extract_lets +onlyGivenNames s1 lim
  have hs1 : Kept s₀ s1 := hs.bump.rputN
  clear_value s1
  exact Kept.ite hs1.raiseFault hs1

protected theorem Kept.markWord {f a : Nat} (hs : Kept s₀ s) : Kept s₀ (markWord s f a) := by
  unfold markWord
  extract_lets +onlyGivenNames n x d
  refine Kept.ite ?_ ?_
  · exact hs
  · refine Kept.ite ?_ ?_
    · exact hs.markCtxs
    · split
      · exact hs.markCtxs
      · exact hs

protected theorem Kept.comUe {a : Nat} (hs : Kept s₀ s) : Kept s₀ (comUe s a) := by
  unfold comUe
  extract_lets +onlyGivenNames s1 s2
  have hs1 : Kept s₀ s1 := hs.bump.rputN
  clear_value s1
  have hs2 : Kept s₀ s2 := (hs1.foldl fun _ _ hu => hu.markWord)
  clear_value s2
  exact Kept.raiseFault (hs2.upd rfl)

protected theorem Kept.fifoStore {f : Nat} {x : Fifo} (hs : Kept s₀ s) : Kept s₀ (fifoStore s f x) := by
  unfold fifoStore
  extract_lets +onlyGivenNames n occ lvl up x1 s1 i s2
  have hs1 : Kept s₀ s1 := hs.setFifo
  clear_value s1
  have hs2 : Kept s₀ s2 := (Kept.ite hs1.rputN hs1)
  clear_value s2
  exact Kept.ite hs2.rputN hs2

protected theorem Kept.fifoStall {f k : Nat} (hs : Kept s₀ s) : Kept s₀ (fifoStall s f k) := by
  unfold fifoStall
  extract_lets +onlyGivenNames x
  exact Kept.ite hs hs.setFifo

protected theorem Kept.fifoPut {f : Nat} {w : LW} (hs : Kept s₀ s) : Kept s₀ (fifoPut s f w) := by
  unfold fifoPut
  extract_lets +onlyGivenNames n x
  exact hs.comTake.comPut.fifoStore

protected theorem Kept.fifoPush {f : Nat} {bs : List Byte} (hs : Kept s₀ s) : Kept s₀ (fifoPush s f bs) := by
  unfold fifoPush
  exact hs.foldl fun _ _ hu => hu.fifoPut

protected theorem Kept.fifoFault {f src : Nat} (hs : Kept s₀ s) : Kept s₀ (fifoFault s f src) := by
  unfold fifoFault
  exact hs.rputN.raiseFault

protected theorem Kept.fifoUe {f a : Nat} (hs : Kept s₀ s) : Kept s₀ (fifoUe s f a) := by
  unfold fifoUe
  exact hs.bump.comUe.fifoFault

protected theorem Kept.fifoTake {f k : Nat} (hs : Kept s₀ s) : Kept s₀ (fifoTake s f k) := by
  unfold fifoTake
  extract_lets +onlyGivenNames n x k s0 s1
  have hs0 : Kept s₀ s0 := (hs.foldl fun _ _ hu => hu.comTake)
  clear_value s0
  have hs1 : Kept s₀ s1 := (hs0.foldl fun _ _ hu => hu.fifoUe)
  clear_value s1
  exact hs1.fifoStore

protected theorem Kept.fifoSkip {f k : Nat} (hs : Kept s₀ s) : Kept s₀ (fifoSkip s f k) := by
  unfold fifoSkip
  extract_lets +onlyGivenNames n x k
  exact hs.fifoStore

protected theorem Kept.fifoWrite {f : Nat} {w : LW} (hs : Kept s₀ s) : Kept s₀ (fifoWrite f w s) := by
  unfold fifoWrite
  extract_lets +onlyGivenNames n x
  exact Kept.ite hs (Kept.ite hs.fifoStall hs.fifoPut)

protected theorem Kept.fifoRead {f err : Nat} (hs : Kept s₀ s) : Kept s₀ (fifoRead f err s) := by
  unfold fifoRead
  refine Kept.ite ?_ ?_
  · exact hs
  · extract_lets +onlyGivenNames n x a bad s0 s1
    have hs0 : Kept s₀ s0 := hs.comTake
    clear_value s0
    have hs1 : Kept s₀ s1 := (Kept.ite hs0.fifoUe (Kept.ite hs0.bump.comCe hs0))
    clear_value s1
    exact Kept.fifoStore (hs1.upd rfl)

protected theorem Kept.fifoRelease {f words : Nat} (hs : Kept s₀ s) : Kept s₀ (fifoRelease f words s) := by
  unfold fifoRelease
  refine Kept.ite ?_ ?_
  · exact hs
  · extract_lets +onlyGivenNames n x
    exact hs.fifoStore

protected theorem Kept.fifoMark {f : Nat} (hs : Kept s₀ s) : Kept s₀ (fifoMark f s) := by
  unfold fifoMark
  exact Kept.ite hs hs.fifoStore

protected theorem Kept.fifoRewind {f : Nat} (hs : Kept s₀ s) : Kept s₀ (fifoRewind f s) := by
  unfold fifoRewind
  extract_lets +onlyGivenNames n x
  exact Kept.ite hs hs.fifoStore

protected theorem Kept.fifoUnmark {f : Nat} (hs : Kept s₀ s) : Kept s₀ (fifoUnmark f s) := by
  unfold fifoUnmark
  exact Kept.ite hs hs.fifoStore

protected theorem Kept.fifoMarkStall {f : Nat} (hs : Kept s₀ s) : Kept s₀ (fifoMarkStall f s) := by
  unfold fifoMarkStall
  extract_lets +onlyGivenNames n x
  exact Kept.ite hs.setFifo.bump.fifoFault hs

protected theorem Kept.commonsScrub {errs : List CommonsErr} (hs : Kept s₀ s) : Kept s₀ (commonsScrub errs s) := by
  unfold commonsScrub
  have hw : Kept s₀ ((List.range 48).foldl (fun s b => comTake s (16 * b) 2) s) := hs.foldl fun _ _ hu => hu.comTake
  generalize (List.range 48).foldl (fun s b => comTake s (16 * b) 2) s = u at hw
  exact Kept.foldl (hw.upd rfl) fun _ _ hu => Kept.ite hu.comUe hu.comCe

/-! ### Flits -/

protected theorem Kept.sfTransmit {p c : Nat} {t : TxFlit} (hs : Kept s₀ s) : Kept s₀ (sfTransmit s p c t).2 := by
  unfold sfTransmit
  split
  · extract_lets +onlyGivenNames b s1 f s2
    have hs1 : Kept s₀ s1 := hs.fifoPush
    clear_value s1
    have hs2 : Kept s₀ s2 := hs1.setFifo
    clear_value s2
    dsimp only
    exact hs2.emit
  · dsimp only
    exact hs.fifoStall

protected theorem Kept.sfPump {p c : Nat} {l : List TxFlit} (hs : Kept s₀ s) : Kept s₀ (sfPump s p c l).2 := by
  induction l generalizing s with
  | nil => exact hs
  | cons x rest ih =>
    unfold sfPump
    simp only
    split
    · split
      · exact hs.sfTransmit
      · exact ih hs.sfTransmit
    · exact ih hs

protected theorem Kept.setTx {p c : Nat} {t : TxCls} (hs : Kept s₀ s) : Kept s₀ (setTx s p c t) := by
  unfold setTx
  extract_lets +onlyGivenNames x
  exact hs.setSf

protected theorem Kept.sendSrc {p typ cls colour dst src : Nat} {sop eop : Bool} {payload : List Byte}
    {ctx : Option (Nat × Nat)} (hs : Kept s₀ s) :
    Kept s₀ (sendSrc s p typ cls colour dst src sop eop payload ctx) := by
  unfold sendSrc
  refine Kept.ite ?_ ?_
  · exact hs
  · extract_lets +onlyGivenNames t' b r
    have hr : Kept s₀ r.2 := hs.sfPump
    clear_value r
    exact hr.setTx

protected theorem Kept.sendSeq {p typ cls colour dst : Nat} {sop eop : Bool} {payload : List Byte} {ctx : Option (Nat × Nat)}
    (hs : Kept s₀ s) :
    Kept s₀ (sendSeq s p typ cls colour dst sop eop payload ctx) := by
  unfold sendSeq
  exact hs.sendSrc

protected theorem Kept.sendPlain {p typ dst : Nat} {payload : List Byte} (hs : Kept s₀ s) :
    Kept s₀ (sendPlain s p typ dst payload) := by
  unfold sendPlain
  exact Kept.ite hs hs.emit

protected theorem Kept.sendMgmt {p dst : Nat} {msg : List Byte} (hs : Kept s₀ s) : Kept s₀ (sendMgmt s p dst msg) := by
  unfold sendMgmt
  exact hs.sendSeq

protected theorem Kept.mgmtTo {dst : Nat} {msg : List Byte} (hs : Kept s₀ s) : Kept s₀ (mgmtTo s dst msg) := by
  unfold mgmtTo
  split
  · exact hs.sendMgmt
  · exact hs

protected theorem Kept.sfLinkLost {p : Nat} (hs : Kept s₀ s) : Kept s₀ (sfLinkLost s p) := by
  unfold sfLinkLost
  extract_lets +onlyGivenNames x pics s1 s2
  have hs1 : Kept s₀ s1 := hs.setSf
  clear_value s1
  have hs2 : Kept s₀ s2 := by
    unfold s2
    refine hs1.foldl fun _ _ hu => ?_
    extract_lets +onlyGivenNames f
    exact hu.fifoStore
  clear_value s2
  exact hs2.markCtxs

/-! ### The Granary -/

protected theorem Kept.grnAlloc {p o n : Nat} (hs : Kept s₀ s) (e : grnAlloc s p o = some (n, t)) : Kept s₀ t := by
  unfold grnAlloc at e
  simp only at e
  split at e
  · cases e
  · split at e
    · cases e
      exact hs.setPool.evG
    · cases e

protected theorem Kept.setRes {r : Nat} {x : GrnRes} (hs : Kept s₀ s) : Kept s₀ (setRes s r x) := by
  unfold setRes
  exact hs.upd rfl

protected theorem Kept.grnDone {r code nfreed : Nat} {addr : Option Nat} (hs : Kept s₀ s) :
    Kept s₀ (grnDone s r code nfreed addr) := by
  unfold grnDone
  extract_lets +onlyGivenNames x
  exact hs.setRes.setEvt

protected theorem Kept.answerWaiter {w : Waiter} {code addr : Nat} (hs : Kept s₀ s) : Kept s₀ (answerWaiter s w code addr) := by
  unfold answerWaiter
  split
  · exact hs.grnDone
  · exact hs.mgmtTo

protected theorem Kept.xreqContend {p : Nat} (hs : Kept s₀ s) : Kept s₀ (xreqContend s p) := by
  unfold xreqContend
  extract_lets +onlyGivenNames x
  refine Kept.ite ?_ ?_
  · split
    · exact hs.setPool.evG.answerWaiter.bump
    · exact hs
  · exact hs

protected theorem Kept.testHead {p : Nat} (hs : Kept s₀ s) : Kept s₀ (testHead s p) := by
  unfold testHead
  extract_lets +onlyGivenNames s' x
  have hs' : Kept s₀ s' := hs.xreqContend
  clear_value s'
  split
  · exact hs'
  · split
    · exact hs'.setPool.evG.answerWaiter
    · exact hs'

protected theorem Kept.rejectFree {p a o code : Nat} (hs : Kept s₀ s) : Kept s₀ (rejectFree s p a o code) := by
  unfold rejectFree
  extract_lets +onlyGivenNames off src s1 s2
  have hs1 : Kept s₀ s1 := hs.bump
  clear_value s1
  have hs2 : Kept s₀ s2 := hs1.rputN
  clear_value s2
  exact hs2.rput64.raiseFault

protected theorem Kept.grnFree {p a o : Nat} (hs : Kept s₀ s) : Kept s₀ (grnFree s p a o).2 := by
  unfold grnFree
  extract_lets +onlyGivenNames code
  split
  · dsimp only
    exact hs.setPool.testHead
  · split
    · dsimp only
      exact hs
    · dsimp only
      exact hs.rejectFree.testHead

protected theorem Kept.freeBuf {c : Nat} {b : Option (Nat × Nat)} (hs : Kept s₀ s) : Kept s₀ (freeBuf s c b) := by
  unfold freeBuf
  split
  · exact hs.grnFree
  · exact hs

protected theorem Kept.freeBufs {c : Nat} {bs : List (Nat × Nat)} (hs : Kept s₀ s) : Kept s₀ (freeBufs s c bs) := by
  unfold freeBufs
  exact hs.foldl fun _ _ hu => hu.freeBuf

protected theorem Kept.setMin {p o m : Nat} (hs : Kept s₀ s) (e : setMin s p o m = some t) : Kept s₀ t := by
  unfold setMin at e
  extract_lets x x1 at e
  split at e
  · cases e
    exact hs.setPool
  · cases e

protected theorem Kept.setMin_getD {p o m : Nat} (hs : Kept s₀ s) : Kept s₀ ((setMin s p o m).getD s) := by
  cases e : setMin s p o m with
  | none => exact hs
  | some t => exact hs.setMin e

protected theorem Kept.grnEnter {rq : Requester} {o : Nat} {reclaim : Bool} {op : State → State} (hs : Kept s₀ s)
    (hop : ∀ u, Kept s₀ u → Kept s₀ (op u)) :
    Kept s₀ (grnEnter rq o reclaim op s) := by
  unfold grnEnter
  extract_lets +onlyGivenNames r
  refine Kept.ite ?_ ?_
  · exact hs
  · split
    · exact (Kept.ite hs.bump hs).grnDone
    · exact hop _ hs

protected theorem Kept.grnAllocOp {rq : Requester} {o p : Nat} {wait : Bool} (hs : Kept s₀ s) :
    Kept s₀ (grnAllocOp rq o p wait s) := by
  unfold grnAllocOp
  extract_lets +onlyGivenNames r x
  refine Kept.ite ?_ ?_
  · exact hs.grnDone
  · split
    · exact hs.setPool.evG.grnDone
    · exact Kept.ite hs.setPool.setRes hs.evG.grnDone

protected theorem Kept.grnFreeOp {rq : Requester} {o p a : Nat} (hs : Kept s₀ s) : Kept s₀ (grnFreeOp rq o p a s) := by
  unfold grnFreeOp
  extract_lets +onlyGivenNames f
  have hf : Kept s₀ f.2 := hs.grnFree
  clear_value f
  exact hf.grnDone

protected theorem Kept.grnReclaimOp {rq : Requester} {o p : Nat} (hs : Kept s₀ s) : Kept s₀ (grnReclaimOp rq o p s) := by
  unfold grnReclaimOp
  extract_lets +onlyGivenNames x
  refine Kept.ite ?_ ?_
  · exact hs.grnDone
  · extract_lets +onlyGivenNames n
    exact hs.setPool.testHead.grnDone

protected theorem Kept.grnCancelOp {rq : Requester} (hs : Kept s₀ s) : Kept s₀ (grnCancelOp rq s) := by
  unfold grnCancelOp
  exact Kept.ite (Kept.grnDone (hs.upd rfl)) hs

protected theorem Kept.grnMinOp {rq : Requester} {o p m : Nat} (hs : Kept s₀ s) : Kept s₀ (grnMinOp rq o p m s) := by
  unfold grnMinOp
  refine Kept.ite hs.bump (Kept.ite hs ?_)
  split
  · next t heq =>
    split at heq
    · exact hs.setMin heq
    · cases heq
  · exact hs.bump.setEvt

protected theorem Kept.grnTimeoutOp {p : Nat} (hs : Kept s₀ s) : Kept s₀ (grnTimeoutOp p s) := by
  unfold grnTimeoutOp
  extract_lets +onlyGivenNames tmo x
  split
  · exact hs
  · exact hs.setPool.evG.answerWaiter.setEvt

protected theorem Kept.poolEnableOp {p : Nat} (hs : Kept s₀ s) : Kept s₀ (poolEnableOp p s) := by
  unfold poolEnableOp
  exact Kept.ite hs (Kept.ite hs.bump hs.setPool)

protected theorem Kept.poolReadyOp {p : Nat} (hs : Kept s₀ s) : Kept s₀ (poolReadyOp p s) := by
  unfold poolReadyOp
  extract_lets +onlyGivenNames x
  exact Kept.ite hs.setPool hs

protected theorem Kept.poolDisableOp {p : Nat} (hs : Kept s₀ s) : Kept s₀ (poolDisableOp p s) := by
  unfold poolDisableOp
  extract_lets +onlyGivenNames x
  exact Kept.ite hs (Kept.ite hs.bump (hs.setPool.foldl fun _ _ hu => hu.answerWaiter))

/-! ### The common header, commits and boundaries -/

protected theorem Kept.gateB {rq : Requester} {page off bank : Nat} (hs : Kept s₀ s) (e : gateB s rq page off bank = some t) :
    Kept s₀ t := by
  unfold gateB at e
  simp only at e
  repeat' split at e
  all_goals cases e
  · exact hs
  · exact hs.unmapped
  · exact hs.unmapped
  · exact hs.bump
  · exact hs
  · exact hs.hostDeny
  · exact hs.bump

protected theorem Kept.gate {rq : Requester} {page off : Nat} (hs : Kept s₀ s) (e : gate s rq page off = some t) : Kept s₀ t :=
  hs.gateB e

protected theorem Kept.wakeUp (hs : Kept s₀ s) : Kept s₀ (wakeUp s) := by
  unfold wakeUp
  refine Kept.ite ?_ ?_
  · exact hs
  · extract_lets +onlyGivenNames _ s1
    have hs1 : Kept s₀ s1 := (hs.upd rfl)
    clear_value s1
    exact hs1.setEvts

protected theorem Kept.wakeByWrite (hs : Kept s₀ s) : Kept s₀ (wakeByWrite s) := by
  unfold wakeByWrite
  exact Kept.ite hs.wakeUp hs

protected theorem Kept.regOp {rq : Requester} {page off : Nat} {op : State → State} (hs : Kept s₀ s)
    (hop : ∀ u, Kept s₀ u → Kept s₀ (op u)) :
    Kept s₀ (regOp rq page off op s) := by
  unfold regOp
  refine Kept.ite ?_ ?_
  · exact hs
  · extract_lets +onlyGivenNames s0
    have hs0 : Kept s₀ s0 := hs.wakeByWrite
    clear_value s0
    split
    · next t heq =>
        have ht : Kept s₀ t := hs0.gate heq
        exact ht
    · exact hop _ hs0

protected theorem Kept.regOpB {rq : Requester} {page off bank : Nat} {op : State → State} (hs : Kept s₀ s)
    (hop : ∀ u, Kept s₀ u → Kept s₀ (op u)) :
    Kept s₀ (regOpB rq page off bank op s) := by
  unfold regOpB
  refine Kept.ite ?_ ?_
  · exact hs
  · extract_lets +onlyGivenNames s0
    have hs0 : Kept s₀ s0 := hs.wakeByWrite
    clear_value s0
    split
    · next t heq =>
        have ht : Kept s₀ t := hs0.gateB heq
        exact ht
    · exact hop _ hs0

protected theorem Kept.lockAcquire {rq : Requester} {page : Nat} {owner : BitVec 11} (hs : Kept s₀ s) :
    Kept s₀ (lockAcquire rq page owner s) := by
  unfold lockAcquire
  extract_lets +onlyGivenNames h
  exact Kept.ite hs hs.setHdr

protected theorem Kept.lockRelease {page : Nat} {owner : BitVec 11} (hs : Kept s₀ s) : Kept s₀ (lockRelease page owner s) := by
  unfold lockRelease
  extract_lets +onlyGivenNames h
  exact Kept.ite hs.setHdr hs

protected theorem Kept.lockForce {rq : Requester} {page : Nat} (hs : Kept s₀ s) : Kept s₀ (lockForce rq page s) := by
  unfold lockForce
  exact Kept.ite hs.setHdr (Kept.ite hs.hostDeny hs)

protected theorem Kept.breakSems {sel : Sem → Bool} (hs : Kept s₀ s) : Kept s₀ (breakSems s sel) := by
  unfold breakSems
  extract_lets +onlyGivenNames l
  exact hs.upd rfl

protected theorem Kept.breakOwner {o : Nat} (hs : Kept s₀ s) : Kept s₀ (breakOwner s o) := by
  unfold breakOwner
  extract_lets +onlyGivenNames s1
  have hs1 : Kept s₀ s1 := (hs.upd rfl)
  clear_value s1
  exact Kept.ite hs1.breakSems (Kept.ite hs1.mgmtTo hs1)

protected theorem Kept.carCommit {l : Nat} {list : CarList} {gen : BitVec 16} (hs : Kept s₀ s) :
    Kept s₀ (carCommit s l list gen) := by
  unfold carCommit
  extract_lets +onlyGivenNames c st
  exact hs.setCar

protected theorem Kept.carListStart {l : Nat} (hs : Kept s₀ s) : Kept s₀ (carListStart l s) := by
  unfold carListStart
  extract_lets +onlyGivenNames c
  split
  · refine Kept.ite ?_ ?_
    · exact hs
    · extract_lets +onlyGivenNames pg
      exact hs.setCar.setHdr
  · exact hs

protected theorem Kept.carEntryEnd {l : Nat} (hs : Kept s₀ s) : Kept s₀ (carEntryEnd l s) := by
  unfold carEntryEnd
  extract_lets +onlyGivenNames c
  exact hs.setCar

protected theorem Kept.putSnap {page tag : Nat} {gen : BitVec 16} {vals : NMap U32} (hs : Kept s₀ s) :
    Kept s₀ (putSnap s page tag gen vals) := by
  unfold putSnap
  exact hs.upd rfl

protected theorem Kept.commitOp {rq : Requester} {page : Nat} {gen : BitVec 16} (hs : Kept s₀ s) :
    Kept s₀ (commitOp rq page gen s) := by
  unfold commitOp
  split
  · exact hs
  · split
    · exact hs.unmapped
    · exact Kept.ite hs.bump hs.carCommit
  · exact hs.putSnap
  · exact hs.putSnap
  · split
    · exact hs
    · extract_lets +onlyGivenNames s1
      have hs1 : Kept s₀ s1 := (hs.upd rfl)
      clear_value s1
      exact Kept.ite hs1.hostDeny hs1.putSnap
  · extract_lets +onlyGivenNames s1'
    have hs1' : Kept s₀ s1' := hs.putSnap
    clear_value s1'
    exact hs1'.putSnap
  · extract_lets +onlyGivenNames all s1''
    have hs1'' : Kept s₀ s1'' := hs.putSnap
    clear_value s1''
    exact hs1''.putSnap
  · exact hs.putSnap
  · exact hs

protected theorem Kept.applyVals {vals : NMap U32} (hs : Kept s₀ s) : Kept s₀ (applyVals s vals) := by
  unfold applyVals
  exact hs.upd rfl

protected theorem Kept.cfgBad (hs : Kept s₀ s) : Kept s₀ (cfgBad s) := by
  unfold cfgBad
  exact hs.bump.setEvt

protected theorem Kept.genSet {page : Nat} {g : BitVec 16} (hs : Kept s₀ s) : Kept s₀ (genSet s page g) := by
  unfold genSet
  exact hs.setHdr

protected theorem Kept.dropUnits {f : Nat} (hs : Kept s₀ s) : Kept s₀ (dropUnits s f) := by
  unfold dropUnits
  extract_lets +onlyGivenNames x v s0 left _ s1
  have hs0 : Kept s₀ s0 := hs.setFlow
  clear_value s0
  have hs1 : Kept s₀ s1 := (Kept.ite hs0 hs0.setSvc).bump
  clear_value s1
  exact hs1.foldl fun _ _ hu => hu.freeBuf.fifoSkip

protected theorem Kept.applyFlow {f : Nat} {n : Snap} (hs : Kept s₀ s) : Kept s₀ (applyFlow s f n) := by
  unfold applyFlow
  extract_lets +onlyGivenNames old new ring
  refine Kept.ite ?_ ?_
  · exact hs.cfgBad
  · extract_lets +onlyGivenNames was isV s1 x cap x1 s2
    have hs1 : Kept s₀ s1 := hs.applyVals
    clear_value s1
    have hs2 : Kept s₀ s2 := hs1.setFlow
    clear_value s2
    exact (Kept.ite hs2.dropUnits hs2).genSet

protected theorem Kept.applySvc {v : Nat} {n : Snap} (hs : Kept s₀ s) : Kept s₀ (applySvc s v n) := by
  unfold applySvc
  extract_lets +onlyGivenNames old new keeps
  refine Kept.ite ?_ ?_
  · exact hs.cfgBad
  · extract_lets +onlyGivenNames x cap s1 tok
    have hs1 : Kept s₀ s1 := hs.applyVals
    clear_value s1
    exact hs1.setSvc.genSet

protected theorem Kept.applySf {page p : Nat} {n : Snap} (hs : Kept s₀ s) : Kept s₀ (applySf s page p n) := by
  unfold applySf
  extract_lets +onlyGivenNames x tok s1
  have hs1 : Kept s₀ s1 := hs.applyVals
  clear_value s1
  exact hs1.setSf.genSet

protected theorem Kept.applyRing {r : Nat} {n : Snap} (hs : Kept s₀ s) : Kept s₀ (applyRing s r n) := by
  unfold applyRing
  extract_lets +onlyGivenNames moved s1
  have hs1 : Kept s₀ s1 := hs.applyVals
  clear_value s1
  exact (Kept.ite hs1.setRing hs1).genSet

protected theorem Kept.dropFifo {f : Nat} (hs : Kept s₀ s) : Kept s₀ (dropFifo s f) := by
  unfold dropFifo
  exact hs.upd rfl

protected theorem Kept.applyFifo {f : Nat} {n : Snap} (hs : Kept s₀ s) : Kept s₀ (applyFifo s f n) := by
  unfold applyFifo
  extract_lets +onlyGivenNames moved s1 s2 x lvl s3
  have hs1 : Kept s₀ s1 := hs.applyVals
  clear_value s1
  have hs2 : Kept s₀ s2 := (Kept.ite hs1.setFifo.dropFifo hs1)
  clear_value s2
  have hs3 : Kept s₀ s3 := hs2.setFifo
  clear_value s3
  exact hs3.rputN.genSet

protected theorem Kept.applyDma {page ch : Nat} {n : Snap} (hs : Kept s₀ s) : Kept s₀ (applyDma s page ch n) := by
  unfold applyDma
  extract_lets +onlyGivenNames moved s1 x s2
  have hs1 : Kept s₀ s1 := hs.applyVals
  clear_value s1
  have hs2 : Kept s₀ s2 := (Kept.ite hs1.setDma.rputN hs1)
  clear_value s2
  exact hs2.genSet

protected theorem Kept.applyTimers {n : Snap} (hs : Kept s₀ s) : Kept s₀ (applyTimers s n) := by
  unfold applyTimers
  extract_lets +onlyGivenNames s1
  have hs1 : Kept s₀ s1 := hs.applyVals.genSet
  clear_value s1
  refine hs1.foldl fun _ _ hu => ?_
  extract_lets +onlyGivenNames x same nx
  exact hu.upd rfl

protected theorem Kept.losePc {pc : Nat} (hs : Kept s₀ s) : Kept s₀ (losePc s pc) := hs.filterHbm _ rfl

protected theorem Kept.applyHbm {page c : Nat} {n : Snap} (hs : Kept s₀ s) : Kept s₀ (applyHbm s page c n) := by
  unfold applyHbm
  extract_lets +onlyGivenNames w r0 r1 s1 s2
  have hs1 : Kept s₀ s1 := hs.applyVals.genSet.rputN
  clear_value s1
  have hs2 : Kept s₀ s2 := (Kept.ite hs1.losePc hs1)
  clear_value s2
  exact Kept.ite hs2.losePc hs2

protected theorem Kept.applyFsync {page i : Nat} {n : Snap} (hs : Kept s₀ s) : Kept s₀ (applyFsync s page i n) := by
  unfold applyFsync
  extract_lets +onlyGivenNames s1 nx x
  have hs1 : Kept s₀ s1 := hs.applyVals.genSet
  clear_value s1
  exact hs1.setSensor

protected theorem Kept.snapApply {n : Snap} (hs : Kept s₀ s) : Kept s₀ (snapApply s n) := by
  unfold snapApply
  extract_lets +onlyGivenNames page bank s1
  have hs1 : Kept s₀ s1 := (hs.upd rfl)
  clear_value s1
  split
  · exact Kept.ite hs1.applyFlow (Kept.ite hs1.applySvc hs1.applyRing)
  · exact hs1.applyFifo
  · exact hs1.applyVals.rputN.genSet
  · exact Kept.ite hs1.applyFsync hs1.applyVals.genSet
  · exact Kept.ite hs1.applyTimers hs1.applyDma
  · exact hs1.applyHbm
  · exact hs1.applySf
  · exact hs1.applyVals.genSet
  · exact hs1

protected theorem Kept.applySnaps {sel : Snap → Bool} (hs : Kept s₀ s) : Kept s₀ (applySnaps s sel) := by
  unfold applySnaps
  exact hs.foldl fun _ _ hu => hu.snapApply

protected theorem Kept.shadowApply {page bank : Nat} (hs : Kept s₀ s) : Kept s₀ (shadowApply page bank s) := by
  unfold shadowApply
  split
  · exact hs
  · exact Kept.ite hs.snapApply hs

protected theorem Kept.cycleSnaps {l : Nat} (hs : Kept s₀ s) : Kept s₀ (cycleSnaps l s) := by
  unfold cycleSnaps
  exact hs.applySnaps

protected theorem Kept.fifoWriteEnd {f : Nat} {w : LW} (hs : Kept s₀ s) : Kept s₀ (fifoWriteEnd f w s) := by
  unfold fifoWriteEnd
  extract_lets +onlyGivenNames s1
  have hs1 : Kept s₀ s1 := hs.fifoWrite
  clear_value s1
  exact Kept.ite hs1.applySnaps hs1

protected theorem Kept.pageEnable {page : Nat} {on : Bool} (hs : Kept s₀ s) : Kept s₀ (pageEnable page on s) := by
  unfold pageEnable
  split
  · refine Kept.ite ?_ ?_
    · exact hs
    · extract_lets +onlyGivenNames h
      refine Kept.ite ?_ ?_
      · extract_lets +onlyGivenNames s1
        have hs1 : Kept s₀ s1 := hs.setHdr
        clear_value s1
        exact Kept.ite hs1.setDma hs1
      · exact Kept.ite hs.setHdr hs.setHdr
  · exact hs

protected theorem Kept.pageQuiesce {page : Nat} {on : Bool} (hs : Kept s₀ s) : Kept s₀ (pageQuiesce page on s) := by
  unfold pageQuiesce
  split
  · exact Kept.ite hs.setHdr hs
  · exact hs

protected theorem Kept.reachesIdle {page : Nat} (hs : Kept s₀ s) : Kept s₀ (reachesIdle page s) := by
  unfold reachesIdle
  extract_lets +onlyGivenNames h
  exact Kept.ite hs.setHdr hs

/-! ### DMA channels and check units -/

protected theorem Kept.wrTlps {f a : Nat} {bs : List (Byte × Bool)} (hs : Kept s₀ s) : Kept s₀ (wrTlps f s a bs) := by
  induction f generalizing s a bs with
  | zero => exact hs
  | succ f ih =>
    unfold wrTlps
    split
    · exact hs
    · exact ih hs.memWrite

protected theorem Kept.wrBytes {loc addr : Nat} {bs : List (Byte × Bool)} (hs : Kept s₀ s) : Kept s₀ (wrBytes s loc addr bs) := by
  unfold wrBytes
  refine Kept.ite (Kept.ite hs.wrTlps hs.memWrite) (hs.writeLoc.foldl fun _ _ hu => Kept.ite ?_ hu)
  split
  · exact hu.upd rfl
  · exact hu

protected theorem Kept.dmaChains (hs : Kept s₀ s) : Kept s₀ (dmaChains s) := by
  unfold dmaChains
  exact hs.upd rfl

protected theorem Kept.descEnd {ch status cls off : Nat} (hs : Kept s₀ s) : Kept s₀ (descEnd s ch status cls off) := by
  unfold descEnd
  extract_lets +onlyGivenNames x
  split
  · exact hs
  · extract_lets +onlyGivenNames pg n a loc s1 s2 h s3 s4 s5 s6 s7 s8
    have hs1 : Kept s₀ s1 := hs.writeLoc
    clear_value s1
    have hs2 : Kept s₀ s2 := hs1.writeLoc
    clear_value s2
    have hs3 : Kept s₀ s3 := hs2.setDma
    clear_value s3
    have hs4 : Kept s₀ s4 := (Kept.ite hs3.setEvt hs3)
    clear_value s4
    have hs5 : Kept s₀ s5 := (Kept.ite hs4.bump.setEvt hs4)
    clear_value s5
    have hs6 : Kept s₀ s6 := (Kept.ite hs5.setEvt hs5)
    clear_value s6
    have hs7 : Kept s₀ s7 := (Kept.ite hs6.raiseFault hs6)
    clear_value s7
    have hs8 : Kept s₀ s8 := (Kept.ite hs7.raiseFault hs7)
    clear_value s8
    exact hs8.applySnaps.dmaChains

protected theorem Kept.dmaHead {f ch : Nat} (hs : Kept s₀ s) : Kept s₀ (dmaHead f s ch) := by
  induction f generalizing s with
  | zero => exact hs
  | succ f ih =>
    unfold dmaHead
    simp only
    split
    · exact hs
    · split
      · exact hs
      · split
        · exact ih hs.descEnd
        · split
          · exact hs.setDma
          · exact hs.setDma.dmaChains

protected theorem Kept.dmaHalt {ch : Nat} (hs : Kept s₀ s) : Kept s₀ (dmaHalt s ch) := by
  unfold dmaHalt
  exact hs.setDma.raiseFault

protected theorem Kept.descFetch {ch : Nat} (hs : Kept s₀ s) : Kept s₀ (descFetch ch s) := by
  unfold descFetch
  extract_lets +onlyGivenNames x n p
  refine Kept.ite ?_ ?_
  · exact hs
  · refine Kept.ite ?_ ?_
    · exact hs.dmaHead
    · extract_lets +onlyGivenNames r
      have hr : Kept s₀ r.2 := hs.readLoc
      clear_value r
      split
      · exact Kept.ite hr.dmaHalt hr
      · exact hr.setDma.dmaHead

protected theorem Kept.writeLines {x : DSide} {f i : Nat} {bs : List (Byte × Bool)} (hs : Kept s₀ s) :
    Kept s₀ (writeLines s x f i bs) := by
  induction f generalizing s i bs with
  | zero => exact hs
  | succ f ih =>
    unfold writeLines
    split
    · exact hs
    · exact ih hs.wrBytes

protected theorem Kept.moveBytes {d : List Byte} {n : Nat} (hs : Kept s₀ s) : Kept s₀ (moveBytes s d n) := by
  unfold moveBytes
  extract_lets +onlyGivenNames bs
  exact Kept.ite (Kept.writeLines (hs.upd rfl)) hs.writeLines

protected theorem Kept.readNotes {x : DSide} {n : Nat} (hs : Kept s₀ s) : Kept s₀ (readNotes s x n) := by
  unfold readNotes
  exact Kept.ite hs (hs.foldl fun _ _ hu => hu.ueBlocks)

protected theorem Kept.confirmRead {d : List Byte} (hs : Kept s₀ s) : Kept s₀ (confirmRead s d).2 := by
  unfold confirmRead
  extract_lets +onlyGivenNames x
  split
  · extract_lets +onlyGivenNames r
    have hr : Kept s₀ r.2 := hs.readLoc
    clear_value r
    dsimp only
    exact hr
  · dsimp only
    exact hs

protected theorem Kept.dmaStop {ch : Nat} {d : List Byte} {k cls : Nat} (hs : Kept s₀ s) : Kept s₀ (dmaStop s ch d k cls) := by
  unfold dmaStop
  extract_lets +onlyGivenNames s1
  have hs1 : Kept s₀ s1 := hs.moveBytes.readNotes
  clear_value s1
  exact (Kept.ite hs1.rangeFault hs1).descEnd

protected theorem Kept.dmaMove {d : List Byte} (hs : Kept s₀ s) : Kept s₀ (dmaMove s d).1 := by
  unfold dmaMove
  dsimp only
  exact hs.moveBytes.readNotes

protected theorem Kept.descRun {ch : Nat} (hs : Kept s₀ s) : Kept s₀ (descRun ch s) := by
  unfold descRun
  extract_lets +onlyGivenNames x
  split
  · exact hs
  · refine Kept.ite ?_ ?_
    · exact hs
    · extract_lets +onlyGivenNames total
      refine Kept.dmaHead ?_
      split
      · exact hs.dmaStop
      · extract_lets +onlyGivenNames m c
        have hm : Kept s₀ m.1 := hs.dmaMove
        clear_value m
        have hc : Kept s₀ c.2 := hm.confirmRead
        clear_value c
        exact Kept.ite hc.descEnd (Kept.ite hc.descEnd hc.descEnd)

protected theorem Kept.dmaBusErr {ch written cls : Nat} (hs : Kept s₀ s) : Kept s₀ (dmaBusErr ch written cls s) := by
  unfold dmaBusErr
  extract_lets +onlyGivenNames x
  split
  · exact hs
  · refine Kept.ite ?_ ?_
    · exact hs
    · extract_lets +onlyGivenNames total k
      refine Kept.dmaHead ?_
      split
      · exact Kept.ite hs.dmaStop hs.dmaStop
      · exact Kept.ite hs.dmaMove.descEnd hs.dmaStop

protected theorem Kept.dmaFetchErr {ch : Nat} (hs : Kept s₀ s) : Kept s₀ (dmaFetchErr ch s) := by
  unfold dmaFetchErr
  extract_lets +onlyGivenNames x
  exact Kept.ite hs hs.dmaHalt

protected theorem Kept.dmaAbort {ch : Nat} (hs : Kept s₀ s) : Kept s₀ (dmaAbort s ch) := by
  unfold dmaAbort
  extract_lets +onlyGivenNames x f s1
  have hf : Kept s₀ f.2 := hs.fresh
  clear_value f
  have hs1 : Kept s₀ s1 := by
    unfold s1
    split
    · refine Kept.ite ?_ ?_
      · extract_lets +onlyGivenNames most k
        exact hf.dmaStop
      · exact Kept.ite hs.descEnd hs
    · exact hs
  clear_value s1
  exact hs1.setHdr

protected theorem Kept.dmaFire {waits : List Byte → Bool} (hs : Kept s₀ s) : Kept s₀ (dmaFire s waits) := by
  unfold dmaFire
  refine hs.foldl fun _ _ hu => ?_
  extract_lets +onlyGivenNames x pg
  exact Kept.ite hu (Kept.ite hu.setDma hu.bump.setEvt)

protected theorem Kept.dmaFrameEvent {ports edge : Nat} (hs : Kept s₀ s) : Kept s₀ (dmaFrameEvent s ports edge) := by
  unfold dmaFrameEvent
  exact hs.foldl fun _ _ hu => hu.dmaFire

protected theorem Kept.timerTick {t : Nat} (hs : Kept s₀ s) : Kept s₀ (timerTick t s) := by
  unfold timerTick
  extract_lets +onlyGivenNames x
  split
  · refine Kept.ite ?_ ?_
    · exact hs
    · extract_lets +onlyGivenNames p
      exact Kept.dmaFire (hs.upd rfl)
  · exact hs

protected theorem Kept.dmaTailOp {ch tail : Nat} (hs : Kept s₀ s) : Kept s₀ (dmaTailOp ch tail s) := by
  unfold dmaTailOp
  extract_lets +onlyGivenNames n x t'
  exact Kept.ite hs.bump hs.rputN.setDma

protected theorem Kept.crcCmd {u : Nat} {op : CrcU → CrcU} (hs : Kept s₀ s) : Kept s₀ (crcCmd u op s) := by
  unfold crcCmd
  extract_lets +onlyGivenNames x h
  exact Kept.ite hs.bump (Kept.ite hs hs.setCrc)

protected theorem Kept.crcFail {u fed cls : Nat} (hs : Kept s₀ s) : Kept s₀ (crcFail s u fed cls) := by
  unfold crcFail
  extract_lets +onlyGivenNames x n
  exact hs.setCrc.setEvt.raiseFault

protected theorem Kept.scanStop {u : Nat} {e : Nat × Nat} (hs : Kept s₀ s) : Kept s₀ (scanStop s u e) := by
  unfold scanStop
  extract_lets +onlyGivenNames loc s1
  have hs1 : Kept s₀ s1 := hs.noteRange
  clear_value s1
  exact (Kept.ite hs1 hs1.ueBlocks).crcFail

protected theorem Kept.scanDone {u : Nat} (hs : Kept s₀ s) : Kept s₀ (scanDone u s) := by
  unfold scanDone
  extract_lets +onlyGivenNames x
  refine Kept.ite ?_ ?_
  · exact hs
  · extract_lets +onlyGivenNames n
    split
    · exact hs.scanStop
    · exact hs.setCrc.setEvt

protected theorem Kept.scanMeet {u fed cls : Nat} (hs : Kept s₀ s) : Kept s₀ (scanMeet s u fed cls) := by
  unfold scanMeet
  refine Kept.ite ?_ ?_
  · exact hs
  · refine Kept.ite ?_ ?_
    · split
      · exact hs.ueBlocks
      · exact hs
    · exact hs.noteRange

protected theorem Kept.scanErr {u fed cls : Nat} (hs : Kept s₀ s) : Kept s₀ (scanErr u fed cls s) := by
  unfold scanErr
  refine Kept.ite ?_ ?_
  · exact hs
  · split
    · exact hs.scanStop
    · exact hs.scanMeet.crcFail

protected theorem Kept.crcStop {u fed : Nat} (hs : Kept s₀ s) : Kept s₀ (crcStop u fed s) := by
  unfold crcStop
  extract_lets +onlyGivenNames x n
  refine Kept.ite ?_ ?_
  · exact hs
  · split
    · exact hs.scanStop
    · exact hs.setCrc

protected theorem Kept.onUnit {u : Nat} {op : State → State} (hs : Kept s₀ s) (hop : ∀ u, Kept s₀ u → Kept s₀ (op u)) :
    Kept s₀ (onUnit u op s) := by
  unfold onUnit
  exact Kept.ite (hop _ hs) hs

protected theorem Kept.crcLoad {u : Nat} (hs : Kept s₀ s) : Kept s₀ (crcLoad u s) := by
  unfold crcLoad
  exact Kept.ite hs.bump hs.setCrc

/-! ### The end of a context -/

protected theorem Kept.gateTile {t : Nat} (hs : Kept s₀ s) : Kept s₀ (gateTile s t) := by
  unfold gateTile
  exact hs.setTile

protected theorem Kept.mapPc {pc region : Nat} (hs : Kept s₀ s) : Kept s₀ (mapPc s pc region) := by
  unfold mapPc
  extract_lets +onlyGivenNames pg
  exact Kept.ite hs.boothField hs.boothField

protected theorem Kept.dropPc {pc : Nat} (hs : Kept s₀ s) : Kept s₀ (dropPc s pc) := by
  unfold dropPc
  exact hs.mapPc.losePc

protected theorem Kept.releasePcs {x : Ctx} (hs : Kept s₀ s) : Kept s₀ (releasePcs s x) := by
  unfold releasePcs
  split
  · exact hs.setCtx
  · exact hs.foldl fun _ _ hu => hu.dropPc

protected theorem Kept.releaseDone {c : Nat} (hs : Kept s₀ s) : Kept s₀ (releaseDone s c) := by
  unfold releaseDone
  split
  · exact hs
  · extract_lets +onlyGivenNames b _ s1 s2 p s3 s4 s5 _ s6 s8
    have hs1 : Kept s₀ s1 := (hs.upd rfl)
    clear_value s1
    have hs2 : Kept s₀ s2 := (hs1.foldl fun _ _ hu => hu.gateTile)
    clear_value s2
    have hs3 : Kept s₀ s3 := hs2.setMin_getD
    clear_value s3
    have hs4 : Kept s₀ s4 := (Kept.ite hs3 hs3.boothField)
    clear_value s4
    have hs5 : Kept s₀ s5 := hs4.boothField.setFifo
    clear_value s5
    have hs6 : Kept s₀ s6 := (Kept.ite hs5.setQ hs5)
    clear_value s6
    have hs8 : Kept s₀ s8 := (hs6.upd rfl)
    clear_value s8
    exact hs8.releasePcs.breakOwner

protected theorem Kept.releaseCheck {c : Nat} (hs : Kept s₀ s) : Kept s₀ (releaseCheck s c) := by
  unfold releaseCheck
  split
  · exact Kept.ite hs.releaseDone hs
  · exact hs

protected theorem Kept.releaseBoundary {c : Nat} (hs : Kept s₀ s) : Kept s₀ (releaseBoundary s c) := by
  unfold releaseBoundary
  split
  · extract_lets +onlyGivenNames s1
    have hs1 : Kept s₀ s1 := hs.setCtx
    clear_value s1
    refine Kept.releaseCheck (hs1.foldl fun _ _ hu => ?_)
    extract_lets +onlyGivenNames s'
    have hs' : Kept s₀ s' := hu.boothField
    clear_value s'
    exact hs'.setHdr
  · exact hs

/-! ### Work queues -/

protected theorem Kept.qEvt {q bit : Nat} (hs : Kept s₀ s) : Kept s₀ (qEvt s q bit) := by
  unfold qEvt
  exact hs.rputN.setEvt

protected theorem Kept.qFault {q src : Nat} (hs : Kept s₀ s) : Kept s₀ (qFault s q src) := by
  unfold qFault
  exact hs.rputN.raiseFault

protected theorem Kept.takeSlot {q : Nat} {se irq : Bool} {limit : Option Time} (hs : Kept s₀ s) :
    Kept s₀ (takeSlot s q se irq limit).2 := by
  unfold takeSlot
  extract_lets +onlyGivenNames x
  dsimp only
  exact Kept.setQ (hs.upd rfl)

protected theorem Kept.finishSlot {q id : Nat} {ce : List Byte} (hs : Kept s₀ s) : Kept s₀ (finishSlot s q id ce) := by
  unfold finishSlot
  extract_lets +onlyGivenNames x
  exact hs.setQ

protected theorem Kept.frameSlot {q : Nat} {limit : Option Time} (hs : Kept s₀ s) : Kept s₀ (frameSlot s q limit).2 := by
  unfold frameSlot
  split
  · dsimp only
    exact hs
  · split
    · dsimp only
      exact hs.bump.qFault
    · extract_lets +onlyGivenNames r
      have hr : Kept s₀ r.2 := hs.takeSlot
      clear_value r
      dsimp only
      exact hr

protected theorem Kept.finishFrame {q : Nat} {id : Option Nat} {ce : List Byte} (hs : Kept s₀ s) :
    Kept s₀ (finishFrame s q id ce) := by
  unfold finishFrame
  split
  · exact hs.finishSlot
  · exact hs

protected theorem Kept.writeCe {q i : Nat} {ce : List Byte} (hs : Kept s₀ s) : Kept s₀ (writeCe s q i ce) := by
  unfold writeCe
  extract_lets +onlyGivenNames x s1
  have hs1 : Kept s₀ s1 := hs.writeLoc
  clear_value s1
  exact hs1.setQ.evG

protected theorem Kept.unstage {f q : Nat} (hs : Kept s₀ s) : Kept s₀ (unstage f s q) := by
  induction f generalizing s with
  | zero => exact hs
  | succ f ih =>
    unfold unstage
    simp only
    split
    · exact hs.setQ
    · split
      · exact ih hs.writeCe
      · exact hs

protected theorem Kept.ceReady {q : Nat} (hs : Kept s₀ s) : Kept s₀ (ceReady q s) := by
  unfold ceReady
  extract_lets +onlyGivenNames x
  split
  · exact hs
  · refine Kept.ite ?_ ?_
    · exact hs
    · refine Kept.ite ?_ ?_
      · exact hs.writeCe
      · extract_lets +onlyGivenNames y
        exact (Kept.ite hs.setQ.bump.qEvt hs.setQ).evG

protected theorem Kept.headPublish {q : Nat} (hs : Kept s₀ s) : Kept s₀ (headPublish q s) := by
  unfold headPublish
  extract_lets +onlyGivenNames x pub
  refine Kept.ite ?_ ?_
  · exact hs
  · extract_lets +onlyGivenNames rest y s1 mode s2
    have hs1 : Kept s₀ s1 := hs.setQ.writeLoc
    clear_value s1
    have hs2 : Kept s₀ s2 := (Kept.ite hs1.sendMsix hs1)
    clear_value s2
    split
    · exact hs2.releaseCheck
    · exact hs2

protected theorem Kept.doorbell {q off : Nat} {be : BitVec 4} {op : State → State} (hs : Kept s₀ s)
    (hop : ∀ u, Kept s₀ u → Kept s₀ (op u)) :
    Kept s₀ (doorbell q off be op s) := by
  unfold doorbell
  refine Kept.ite ?_ ?_
  · exact hs
  · extract_lets +onlyGivenNames s0
    have hs0 : Kept s₀ s0 := (Kept.ite hs.wakeUp hs)
    clear_value s0
    exact Kept.ite hs0.bump (Kept.ite hs0.badSize (Kept.ite hs0 (Kept.ite hs0.bump (hop _ hs0))))

protected theorem Kept.dbBad {q : Nat} (hs : Kept s₀ s) : Kept s₀ (dbBad s q) := by
  unfold dbBad
  exact hs.bump.qEvt

protected theorem Kept.sqDb {q t : Nat} (hs : Kept s₀ s) : Kept s₀ (sqDb q t s) := by
  unfold sqDb
  extract_lets +onlyGivenNames x d
  refine Kept.ite ?_ ?_
  · extract_lets +onlyGivenNames y
    exact hs.setQ
  · exact hs.dbBad

protected theorem Kept.crDone {q v : Nat} (hs : Kept s₀ s) : Kept s₀ (crDone q v s) := by
  unfold crDone
  extract_lets +onlyGivenNames x
  exact Kept.ite hs.setQ.unstage hs.dbBad

protected theorem Kept.wrrScan {l : List Nat} (hs : Kept s₀ s) : Kept s₀ (wrrScan s l).2 := by
  induction l generalizing s with
  | nil => exact hs
  | cons q rest ih =>
    unfold wrrScan
    split
    · exact hs
    · exact ih hs.setQ

protected theorem Kept.wrrRound {qs : List Nat} (hs : Kept s₀ s) : Kept s₀ (wrrRound s qs) := by
  unfold wrrRound
  exact hs.foldl fun _ _ hu => hu.setQ

protected theorem Kept.wrrPick (hs : Kept s₀ s) : Kept s₀ (wrrPick s).2 := by
  unfold wrrPick
  extract_lets +onlyGivenNames qs t'
  split
  · dsimp only
    exact hs
  · extract_lets +onlyGivenNames a
    have ha : Kept s₀ a.2 := hs.wrrScan
    clear_value a
    split
    · dsimp only
      exact Kept.upd (s := a.2) ha rfl
    · extract_lets +onlyGivenNames b
      have hb : Kept s₀ b.2 := ha.wrrScan
      clear_value b
      split
      · dsimp only
        exact Kept.upd (s := b.2) hb rfl
      · extract_lets +onlyGivenNames c
        have hc : Kept s₀ c.2 := hb.wrrRound.wrrScan
        clear_value c
        split
        · dsimp only
          exact Kept.upd (s := c.2) hc rfl
        · dsimp only
          exact Kept.upd (s := c.2) hc rfl

protected theorem Kept.seRead {x : Queue} (hs : Kept s₀ s) : Kept s₀ (seRead s x) := by
  unfold seRead
  extract_lets +onlyGivenNames s1
  have hs1 : Kept s₀ s1 := hs.readLoc
  clear_value s1
  exact Kept.ite hs1.emit hs1

protected theorem Kept.seFetch {q : Nat} {err : Bool} (hs : Kept s₀ s) : Kept s₀ (seFetch q err s) := by
  unfold seFetch
  refine Kept.ite ?_ ?_
  · exact hs
  · extract_lets +onlyGivenNames s0 x b s1
    have hs0 : Kept s₀ s0 := hs.applySnaps
    clear_value s0
    have hs1 : Kept s₀ s1 := hs0.seRead.setQ
    clear_value s1
    exact (Kept.ite hs1.qFault hs1).evG

protected theorem Kept.sqInval {q count : Nat} (hs : Kept s₀ s) : Kept s₀ (sqInval q count s) := by
  unfold sqInval
  extract_lets +onlyGivenNames x
  refine Kept.ite ?_ ?_
  · exact hs.bump
  · extract_lets +onlyGivenNames st d fl
    exact hs.setQ

protected theorem Kept.invalDone {q : Nat} (hs : Kept s₀ s) : Kept s₀ (invalDone q s) := by
  unfold invalDone
  extract_lets +onlyGivenNames x
  exact Kept.ite hs hs.setQ.qEvt

protected theorem Kept.startSe {q : Nat} (hs : Kept s₀ s) : Kept s₀ (startSe s q) := by
  unfold startSe
  extract_lets +onlyGivenNames x
  split
  · exact hs
  · extract_lets +onlyGivenNames se r y n z s1
    have hr : Kept s₀ r.2 := hs.takeSlot
    clear_value r
    have hs1 : Kept s₀ s1 := hr.setQ
    clear_value s1
    exact Kept.ite hs1.finishSlot (Kept.ite hs1.finishSlot (Kept.ite hs1.finishSlot hs1.setQ))

protected theorem Kept.startBulk (hs : Kept s₀ s) : Kept s₀ (startBulk s) := by
  unfold startBulk
  split
  · next _ t heq =>
      have ht : Kept s₀ t := by
        have hg : Kept s₀ (wrrPick s).2 := hs.wrrPick
        rwa [heq] at hg
      refine Kept.ite ?_ ?_
      · exact ht
      · extract_lets +onlyGivenNames _ s2
        have hs2 : Kept s₀ s2 := ht.setQ
        clear_value s2
        exact Kept.wrrPick (Kept.startSe (hs2.upd rfl))
  · next t heq =>
      have ht : Kept s₀ t := by
        have hg : Kept s₀ (wrrPick s).2 := hs.wrrPick
        rwa [heq] at hg
      exact ht

protected theorem Kept.abortUnread {q : Nat} (hs : Kept s₀ s) : Kept s₀ (abortUnread s q) := by
  unfold abortUnread
  extract_lets +onlyGivenNames x r n _ y w
  have hr : Kept s₀ r.2 := (Kept.takeSlot (hs.upd rfl))
  clear_value r
  exact hr.setQ.finishSlot

protected theorem Kept.entryStart {bound : Option Nat} (hs : Kept s₀ s) : Kept s₀ (entryStart bound s) := by
  unfold entryStart
  refine Kept.ite ?_ ?_
  · exact hs
  · split
    · exact hs.startBulk
    · refine Kept.ite ?_ ?_
      · exact hs
      · exact Kept.ite (Kept.ite hs.startSe hs) (Kept.ite hs (Kept.ite hs.startSe (Kept.ite hs.abortUnread hs)))

protected theorem Kept.takeStarted {q i : Nat} {p : List Byte → Bool} {b : List Byte} (hs : Kept s₀ s)
    (e : takeStarted s q p = some (i, b, t)) : Kept s₀ t := by
  unfold takeStarted at e
  simp only at e
  split at e
  · cases e
    exact hs.setQ
  · cases e

protected theorem Kept.nopOp {q : Nat} (hs : Kept s₀ s) : Kept s₀ (nopOp q s) := by
  unfold nopOp
  split
  · next _ _ t heq =>
      have ht : Kept s₀ t := hs.takeStarted heq
      exact ht.finishSlot
  · exact hs

protected theorem Kept.queueEnable {q : Nat} (hs : Kept s₀ s) : Kept s₀ (queueEnable q s) := by
  unfold queueEnable
  extract_lets +onlyGivenNames x
  refine Kept.ite ?_ ?_
  · extract_lets +onlyGivenNames g y
    exact hs.setQ.writeLoc.unstage
  · exact Kept.ite hs.setQ hs

protected theorem Kept.queueDisable {q : Nat} (hs : Kept s₀ s) : Kept s₀ (queueDisable q s) := by
  unfold queueDisable
  extract_lets +onlyGivenNames x
  exact Kept.ite hs (Kept.ite hs.setQ hs.setQ)

protected theorem Kept.queueQuiesce {q : Nat} {on : Bool} (hs : Kept s₀ s) : Kept s₀ (queueQuiesce q on s) := by
  unfold queueQuiesce
  extract_lets +onlyGivenNames x
  exact Kept.ite hs (Kept.ite hs.setQ hs.setQ)

protected theorem Kept.idleReached {q : Nat} (hs : Kept s₀ s) : Kept s₀ (idleReached q s) := by
  unfold idleReached
  extract_lets +onlyGivenNames x
  refine Kept.ite ?_ ?_
  · extract_lets +onlyGivenNames y
    exact Kept.ite hs.setQ.qEvt hs.setQ.qEvt
  · exact hs

protected theorem Kept.queueAbortBase {q : Nat} (hs : Kept s₀ s) : Kept s₀ (queueAbortBase q s) := by
  unfold queueAbortBase
  extract_lets +onlyGivenNames x
  refine Kept.ite ?_ ?_
  · exact hs
  · extract_lets +onlyGivenNames s1
    have hs1 : Kept s₀ s1 := hs.setQ
    clear_value s1
    exact hs1.foldl fun _ _ hu => hu.finishSlot

/-! ### The stacks -/

protected theorem Kept.hbmCe {pc n block : Nat} (hs : Kept s₀ s) : Kept s₀ (hbmCe s pc n block) := by
  unfold hbmCe
  refine Kept.ite ?_ ?_
  · exact hs
  · extract_lets +onlyGivenNames lo pg old s1 lim
    have hs1 : Kept s₀ s1 := hs.bump16.hbmInfo
    clear_value s1
    exact Kept.ite hs1.hbmFault hs1

protected theorem Kept.memUe {r : HbmReq} (hs : Kept s₀ s) : Kept s₀ (memUe s r) := by
  unfold memUe
  split
  · exact hs.markCtxs
  · exact hs

protected theorem Kept.ingEnter {i : Nat} {r : HbmReq} (hs : Kept s₀ s) : Kept s₀ (ingEnter s i r) := by
  unfold ingEnter
  extract_lets +onlyGivenNames pc rest k
  exact Kept.setPc (hs.upd rfl)

protected theorem Kept.ingressPass {req : Option HbmReq} (hs : Kept s₀ s) : Kept s₀ (ingressPass req s) := by
  unfold ingressPass
  extract_lets +onlyGivenNames new s1
  have hs1 : Kept s₀ s1 := (hs.upd rfl)
  clear_value s1
  split
  · exact (Kept.ite hs1.bump hs1).ingEnter
  · exact hs1

protected theorem Kept.storeReq {r : HbmReq} (hs : Kept s₀ s) : Kept s₀ (storeReq s r) := by
  unfold storeReq
  exact Kept.ite hs.hbmWriteB (hs.foldl fun _ _ hu => Kept.ite hu.hbmWriteB hu)

protected theorem Kept.issue {pc : Nat} {r : HbmReq} {again : Bool} (hs : Kept s₀ s) : Kept s₀ (issue s pc r again) := by
  unfold issue
  extract_lets +onlyGivenNames _ s0 s1
  have hs0 : Kept s₀ s0 := hs.setPc
  clear_value s0
  have hs1 : Kept s₀ s1 := (Kept.ite hs0.memUe hs0).evG
  clear_value s1
  split
  · extract_lets +onlyGivenNames s2
    have hs2 : Kept s₀ s2 := hs1.rangeFault
    clear_value s2
    exact Kept.ite hs2 (hs2.upd rfl)
  · refine Kept.ite ?_ ?_
    · extract_lets +onlyGivenNames s2' q
      have hs2' : Kept s₀ s2' := hs1.storeReq
      clear_value s2'
      refine Kept.ite ?_ ?_
      · exact hs2'.setPc
      · extract_lets +onlyGivenNames b
        exact hs2'.setPc
    · extract_lets +onlyGivenNames q'
      exact hs1.setPc

protected theorem Kept.deliver {pc : Nat} {d : HbmRd} {bad : Bool} (hs : Kept s₀ s) : Kept s₀ (deliver s pc d bad) := by
  unfold deliver
  extract_lets +onlyGivenNames r b s1 s2
  have hs1 : Kept s₀ s1 := (Kept.ite hs.hbmUe.memUe hs)
  clear_value s1
  have hs2 : Kept s₀ s2 := (Kept.ite (hs1.upd rfl) hs1)
  clear_value s2
  exact Kept.ite hs2.setPc (hs2.upd rfl)

protected theorem Kept.sendReplay {pc : Nat} {r : Replay} {rest : List Replay} (hs : Kept s₀ s) :
    Kept s₀ (sendReplay s pc r rest) := by
  unfold sendReplay
  extract_lets +onlyGivenNames p d s1 s2
  have hs1 : Kept s₀ s1 := hs.setPc.evG
  clear_value s1
  have hs2 : Kept s₀ s2 := (Kept.ite (hs1.hbmFault.foldl fun _ _ hu => hu.memUe) hs1)
  clear_value s2
  split
  · exact hs2.issue
  · exact hs2

protected theorem Kept.takeReplay {pc : Nat} {r : Replay} {rest : List Replay} (hs : Kept s₀ s) :
    Kept s₀ (takeReplay s pc r rest) := by
  unfold takeReplay
  split
  · exact hs.setPc.deliver
  · exact hs.sendReplay

protected theorem Kept.idlePeriod {pc : Nat} (hs : Kept s₀ s) : Kept s₀ (idlePeriod s pc) := by
  unfold idlePeriod
  exact hs.setPc

protected theorem Kept.hbmAccess {pc : Nat} (hs : Kept s₀ s) : Kept s₀ (hbmAccess pc s) := by
  unfold hbmAccess
  extract_lets +onlyGivenNames p
  refine Kept.ite ?_ ?_
  · exact hs
  · split
    · exact Kept.ite hs.setPc.takeReplay hs.idlePeriod
    · exact Kept.ite hs.setPc.issue hs.idlePeriod
    · exact hs.idlePeriod

protected theorem Kept.readComplete {pc corrected : Nat} {uncorrectable replayBad : Bool} (hs : Kept s₀ s) :
    Kept s₀ (readComplete pc corrected uncorrectable replayBad s) := by
  unfold readComplete
  extract_lets +onlyGivenNames p
  split
  · exact hs
  · extract_lets +onlyGivenNames r b held s1 bad
    have hs1 : Kept s₀ s1 := hs.setPc.hbmCe
    clear_value s1
    exact Kept.ite hs1.bump16.setPc hs1.deliver

protected theorem Kept.drainPc {pc : Nat} (hs : Kept s₀ s) : Kept s₀ (drainPc s pc) := by
  unfold drainPc
  extract_lets +onlyGivenNames p s1 s2
  have hs1 : Kept s₀ s1 := by
    unfold s1
    refine (hs.setPc.foldl fun _ _ hu => ?_).foldl fun _ _ hu => hu.issue
    split
    · exact hu.issue
    · exact hu
  clear_value s1
  have hs2 : Kept s₀ s2 := (hs1.foldl fun _ _ hu => hu.deliver)
  clear_value s2
  exact hs2.setPc

protected theorem Kept.writeAck {pc : Nat} (hs : Kept s₀ s) : Kept s₀ (writeAck pc s) := by
  unfold writeAck
  exact hs.setPc

protected theorem Kept.scrub {pc corrected : Nat} {uncorrectable : Bool} (hs : Kept s₀ s) :
    Kept s₀ (scrub pc corrected uncorrectable s) := by
  unfold scrub
  extract_lets +onlyGivenNames p
  refine Kept.ite ?_ ?_
  · exact hs.setPc
  · extract_lets +onlyGivenNames b bad last s1 s2
    have hs1 : Kept s₀ s1 := hs.setPc.hbmCe
    clear_value s1
    have hs2 : Kept s₀ s2 := (Kept.ite (Kept.hbmUe (Kept.ite hs1 (hs1.upd rfl))) hs1)
    clear_value s2
    exact Kept.ite hs2.bump.bump hs2

protected theorem Kept.sparePeriod {pc corrected : Nat} {uncorrectable : Bool} (hs : Kept s₀ s) :
    Kept s₀ (sparePeriod pc corrected uncorrectable s) := by
  unfold sparePeriod
  extract_lets +onlyGivenNames p
  refine Kept.ite ?_ ?_
  · exact hs
  · extract_lets +onlyGivenNames s0 s1 q
    have hs0 : Kept s₀ s0 := hs.setPc
    clear_value s0
    have hs1 : Kept s₀ s1 := by
      unfold s1
      refine Kept.ite ?_ ?_
      · split
        · exact hs0.takeReplay
        · exact Kept.ite hs0.scrub hs0.evG
      · exact hs0.evG
    clear_value s1
    exact hs1.setPc

protected theorem Kept.parityAlert {pc : Nat} (hs : Kept s₀ s) : Kept s₀ (parityAlert pc s) := by
  unfold parityAlert
  extract_lets +onlyGivenNames p told
  have htold : ∀ v a1, Kept s₀ v → Kept s₀ (told v a1) := by
    intro v a1 hu
    unfold told
    exact hu.bump16.hbmInfo.hbmFault
  refine Kept.ite ?_ ?_
  · exact hs
  · refine Kept.ite ?_ ?_
    · exact htold _ _ hs
    · split
      · exact hs
      · exact htold _ _ hs.setPc
      · exact htold _ _ hs.setPc

protected theorem Kept.l24Window (hs : Kept s₀ s) : Kept s₀ (l24Window s) := by
  unfold l24Window
  exact Kept.applySnaps (Kept.upd (s := carEntryEnd 24 s) hs.carEntryEnd rfl)

protected theorem Kept.retrainEnd {pc : Nat} {converged : Bool} (hs : Kept s₀ s) : Kept s₀ (retrainEnd pc converged s) := by
  unfold retrainEnd
  refine Kept.ite ?_ ?_
  · exact hs
  · extract_lets +onlyGivenNames p
    refine Kept.ite ?_ ?_
    · exact hs.setPc
    · extract_lets +onlyGivenNames s1 s2
      have hs1 : Kept s₀ s1 := hs.setPc.bump.bump
      clear_value s1
      have hs2 : Kept s₀ s2 := hs1.hbmFault
      clear_value s2
      exact Kept.ite hs2.setPc.fencePage.containBreach hs2

protected theorem Kept.onPc {pc : Nat} {op : State → State} (hs : Kept s₀ s) (hop : ∀ u, Kept s₀ u → Kept s₀ (op u)) :
    Kept s₀ (onPc pc op s) := by
  unfold onPc
  exact Kept.ite (hop _ hs) hs

/-! ### The end of a picture -/

protected theorem Kept.withPic {c id : Nat} {f : Pic → Pic} (hs : Kept s₀ s) : Kept s₀ (withPic s c id f) := by
  unfold withPic
  split
  · exact hs.setCtx
  · exact hs

protected theorem Kept.endPic {c id : Nat} {st : Nat × Nat} (hs : Kept s₀ s) : Kept s₀ (endPic s c id st) := by
  unfold endPic
  split
  · exact hs
  · split
    · exact hs
    · extract_lets +onlyGivenNames done s1
      have hs1 : Kept s₀ s1 := hs.finishFrame
      clear_value s1
      exact hs1.setCtx.releaseCheck

protected theorem Kept.finishPic {c id : Nat} (hs : Kept s₀ s) : Kept s₀ (finishPic s c id) := by
  unfold finishPic
  split
  · exact hs.endPic
  · exact hs

protected theorem Kept.finishGone {u : State} (hs : Kept s₀ s) : Kept s₀ (finishGone u s) := by
  unfold finishGone
  exact hs.foldl fun _ _ hv => Kept.ite hv.withPic.finishPic hv.releaseCheck

protected theorem Kept.applying {op : State → State} (hs : Kept s₀ s) (hop : ∀ u, Kept s₀ u → Kept s₀ (op u)) :
    Kept s₀ (applying op s) := (hop s hs).finishGone

protected theorem Kept.dropJobs {c id : Nat} (hs : Kept s₀ s) : Kept s₀ (dropJobs s c id) := by
  unfold dropJobs
  exact hs.upd rfl

/-! ### Egress -/

protected theorem Kept.tagFlow {e : Nat × List Byte} (hs : Kept s₀ s) : Kept s₀ (tagFlow s e) := by
  unfold tagFlow
  extract_lets +onlyGivenNames x
  split
  · extract_lets +onlyGivenNames v
    exact hs.setFlow
  · exact hs

protected theorem Kept.tagSvc {port v : Nat} {fl : List (Nat × List Byte)} (hs : Kept s₀ s) : Kept s₀ (tagSvc s port v fl) := by
  unfold tagSvc
  extract_lets +onlyGivenNames x
  refine Kept.ite ?_ ?_
  · exact hs
  · extract_lets +onlyGivenNames of
    split
    · exact hs.setSvc
    · exact hs

protected theorem Kept.tagAll {port : Nat} (hs : Kept s₀ s) : Kept s₀ (tagAll s port) := by
  unfold tagAll
  extract_lets +onlyGivenNames fl s1
  have hs1 : Kept s₀ s1 := (hs.foldl fun _ _ hu => hu.tagFlow)
  clear_value s1
  exact hs1.foldl fun _ _ hu => hu.tagSvc

protected theorem Kept.startPkt {port f : Nat} {b : List Byte} {h : Head} (hs : Kept s₀ s) : Kept s₀ (startPkt s port f b h) := by
  unfold startPkt
  extract_lets +onlyGivenNames x smp e pk
  exact hs.setFlow.setPort

protected theorem Kept.startGuar {port : Nat} {q : Nat × List Byte × Head} (hs : Kept s₀ s) : Kept s₀ (startGuar s port q) := by
  unfold startGuar
  extract_lets +onlyGivenNames _ s1
  have hs1 : Kept s₀ s1 := hs.setFlow
  clear_value s1
  exact hs1.startPkt

protected theorem Kept.startBulkPkt {port v : Nat} {q : Nat × List Byte × Head} (hs : Kept s₀ s) :
    Kept s₀ (startBulkPkt s port v q) := by
  unfold startBulkPkt
  extract_lets +onlyGivenNames c x y s1 s2 _ s3
  have hs1 : Kept s₀ s1 := hs.setFlow
  clear_value s1
  have hs2 : Kept s₀ s2 := hs1.setSvc
  clear_value s2
  have hs3 : Kept s₀ s3 := hs2.setPort
  clear_value s3
  exact hs3.startPkt.tagAll

protected theorem Kept.unitDone {port : Nat} {u : EgUnit} (hs : Kept s₀ s) : Kept s₀ (unitDone port s u) := by
  unfold unitDone
  extract_lets +onlyGivenNames s1 a b s2
  have hs1 : Kept s₀ s1 := hs.freeBuf
  clear_value s1
  have ha : Kept s₀ a := hs1.bump
  clear_value a
  have hb : Kept s₀ b := (Kept.ite ha.bump ha)
  clear_value b
  have hs2 : Kept s₀ s2 := (Kept.ite hb.raiseFault.setEvt hs1)
  clear_value s2
  exact Kept.ite hs2.withPic.finishPic (Kept.ite hs2.releaseCheck hs2)

protected theorem Kept.sample {pk : Pkt} (hs : Kept s₀ s) : Kept s₀ (sample s pk) := by
  unfold sample
  split
  · extract_lets +onlyGivenNames x d
    exact hs.setFlow
  · exact hs

protected theorem Kept.lostOn {port : Nat} (hs : Kept s₀ s) : Kept s₀ (lostOn s port) := by
  unfold lostOn
  exact hs.markCtxs

protected theorem Kept.sfDrop {port : Nat} {pk : Pkt} (hs : Kept s₀ s) : Kept s₀ (sfDrop s port pk) := by
  unfold sfDrop
  extract_lets +onlyGivenNames s1
  have hs1 : Kept s₀ s1 := hs.bump.lostOn
  clear_value s1
  exact hs1.fifoTake.sample.setPort.foldl fun _ _ hu => hu.unitDone

protected theorem Kept.packetStart {port : Nat} (hs : Kept s₀ s) : Kept s₀ (packetStart port s) := by
  unfold packetStart
  refine Kept.ite ?_ ?_
  · exact hs
  · extract_lets +onlyGivenNames s0 fl s1
    have hs0 : Kept s₀ s0 := hs.tagAll
    clear_value s0
    have hs1 : Kept s₀ s1 := by
      unfold s1
      split
      · exact hs0.startGuar
      · split
        · exact hs0.startBulkPkt
        · exact hs0
    clear_value s1
    split
    · exact Kept.ite hs1.sfDrop hs1
    · exact hs1

protected theorem Kept.ringDrops {r n : Nat} (hs : Kept s₀ s) : Kept s₀ (ringDrops s r n) := by
  induction n generalizing s with
  | zero => exact hs
  | succ n ih => exact ih hs.bump.setEvt.raiseFault

protected theorem Kept.wrBlocks {f loc a : Nat} {bs : List (Byte × Bool)} {lost : Nat → Bool} (hs : Kept s₀ s) :
    Kept s₀ (wrBlocks f s loc a bs lost) := by
  induction f generalizing s a bs with
  | zero => exact hs
  | succ f ih =>
    unfold wrBlocks
    simp only
    split
    · exact hs
    · exact ih (Kept.ite hs hs.writeLoc)

protected theorem Kept.ringStore {r w : Nat} {bs : List (Byte × Bool)} {lost : Nat → Bool} (hs : Kept s₀ s) :
    Kept s₀ (ringStore s r w bs lost) := by
  unfold ringStore
  extract_lets +onlyGivenNames n base o k
  exact hs.wrBlocks.wrBlocks

protected theorem Kept.ringPut {r w : Nat} {busErr : Bool} {u : EgUnit} {bad : List Bool} (hs : Kept s₀ s) :
    Kept s₀ (ringPut s r w busErr u bad) := by
  unfold ringPut
  extract_lets +onlyGivenNames host s0 s1 s2
  have hs0 : Kept s₀ s0 := (Kept.ite hs.rangeFault hs)
  clear_value s0
  have hs1 : Kept s₀ s1 := (Kept.ite hs0.fresh hs0).ringStore
  clear_value s1
  have hs2 : Kept s₀ s2 := (Kept.ite hs1.markUe hs1)
  clear_value s2
  exact Kept.ite ((Kept.ite hs2.emit hs2).withPic) hs2

protected theorem Kept.ringStatus {r num : Nat} (hs : Kept s₀ s) : Kept s₀ (ringStatus s r num) := by
  unfold ringStatus
  extract_lets +onlyGivenNames z a
  exact Kept.ite hs hs.writeLoc

protected theorem Kept.ringEnd {r num : Nat} (hs : Kept s₀ s) : Kept s₀ (ringEnd s r num) := by
  unfold ringEnd
  extract_lets +onlyGivenNames y
  exact hs.setRing.ringStatus

protected theorem Kept.ringUnit {r : Nat} {busErr : Bool} {bad : List Bool} {u : EgUnit} (hs : Kept s₀ s) :
    Kept s₀ (ringUnit r busErr bad s u) := by
  unfold ringUnit
  extract_lets +onlyGivenNames n x x0 w m s1 _ s2
  have hs1 : Kept s₀ s1 := hs.ringPut.ringDrops
  clear_value s1
  have hs2 : Kept s₀ s2 := hs1.setRing
  clear_value s2
  exact Kept.ite hs2.ringEnd hs2

protected theorem Kept.sendPacket {p cls dest : Nat} {bs : List Byte} {ctx : Option (Nat × Nat)} (hs : Kept s₀ s) :
    Kept s₀ (sendPacket s p cls dest bs ctx) := by
  unfold sendPacket
  extract_lets +onlyGivenNames parts
  exact hs.foldl fun _ _ hu => hu.sendSeq

protected theorem Kept.packetDone {port : Nat} {busErr : Bool} (hs : Kept s₀ s) : Kept s₀ (packetDone port busErr s) := by
  unfold packetDone
  split
  · exact hs
  · refine Kept.ite ?_ ?_
    · exact hs
    · extract_lets +onlyGivenNames b _ s1 s2
      have hs1 : Kept s₀ s1 := hs.fifoTake.sample.setPort
      clear_value s1
      have hs2 : Kept s₀ s2 := by
        unfold s2
        refine Kept.ite ?_ ?_
        · exact Kept.ite hs1.bump (Kept.ite hs1.emit.evG hs1)
        · exact Kept.ite (Kept.ite hs1.sendPacket hs1.bump.lostOn) (hs1.foldl fun _ _ hu => hu.ringUnit)
      clear_value s2
      exact hs2.foldl fun _ _ hu => hu.unitDone

protected theorem Kept.ethDown {port : Nat} (hs : Kept s₀ s) : Kept s₀ (ethDown port s) := by
  unfold ethDown
  refine Kept.ite ?_ ?_
  · exact hs
  · extract_lets +onlyGivenNames _ s1
    have hs1 : Kept s₀ s1 := hs.setPort
    clear_value s1
    exact hs1.setEth.raiseFault

protected theorem Kept.ethUp {port : Nat} (hs : Kept s₀ s) : Kept s₀ (ethUp port s) := by
  unfold ethUp
  exact Kept.ite hs hs.setEth

protected theorem Kept.ptpEvent {port : Nat} {tx : Bool} {msgType seqId : Nat} (hs : Kept s₀ s) :
    Kept s₀ (ptpEvent port tx msgType seqId s) := by
  unfold ptpEvent
  extract_lets +onlyGivenNames e
  refine Kept.ite ?_ ?_
  · exact hs
  · refine Kept.ite ?_ ?_
    · extract_lets +onlyGivenNames t'
      exact Kept.ite hs (Kept.ite hs.bump (Kept.ite hs.bump hs.setEth))
    · exact Kept.ite hs (hs.upd rfl)

protected theorem Kept.ptpRead {port : Nat} (hs : Kept s₀ s) : Kept s₀ (ptpRead port s) := by
  unfold ptpRead
  refine Kept.ite ?_ ?_
  · exact hs.upd rfl
  · extract_lets +onlyGivenNames e
    exact Kept.setEth (hs.upd rfl)

/-! ### The Ticket Booth -/

protected theorem Kept.boothReply {b : List Byte} (hs : Kept s₀ s) : Kept s₀ (boothReply s b) := by
  unfold boothReply
  extract_lets +onlyGivenNames r s1 s2
  have hs1 : Kept s₀ s1 := hs.writeLoc
  clear_value s1
  have hs2 : Kept s₀ s2 := (Kept.ite hs1.bump hs1)
  clear_value s2
  exact Kept.setEvt (hs2.upd rfl)

protected theorem Kept.replyInvalid {off : Nat} (hs : Kept s₀ s) : Kept s₀ (replyInvalid s off) := by
  unfold replyInvalid
  exact hs.boothReply

protected theorem Kept.replyRefused {fail short dCalc : Nat} (hs : Kept s₀ s) : Kept s₀ (replyRefused s fail short dCalc) := by
  unfold replyRefused
  exact hs.boothReply

protected theorem Kept.setupFifo {f n base ct : Nat} (hs : Kept s₀ s) : Kept s₀ (setupFifo s f n base ct) := by
  unfold setupFifo
  extract_lets +onlyGivenNames s1 s2
  have hs1 : Kept s₀ s1 := hs.boothPut
  clear_value s1
  have hs2 : Kept s₀ s2 := hs1.boothPut.boothPut
  clear_value s2
  exact hs2.boothPut.boothField.setFifo

protected theorem Kept.joinPort {c ports n : Nat} (hs : Kept s₀ s) : Kept s₀ (joinPort c ports s n) := by
  unfold joinPort
  extract_lets +onlyGivenNames s1
  have hs1 : Kept s₀ s1 := hs.boothField.boothField
  clear_value s1
  exact hs1.setHdr

protected theorem Kept.bindDma {c : Nat} (hs : Kept s₀ s) : Kept s₀ (bindDma s c) := by
  unfold bindDma
  split
  · exact hs.setDma.setHdr
  · exact hs

protected theorem Kept.grantFlow {b : List Byte} {c : Nat} (hs : Kept s₀ s) : Kept s₀ (grantFlow s b c) := by
  unfold grantFlow
  extract_lets +onlyGivenNames s5 s6 s7
  have hs5 : Kept s₀ s5 := hs.boothField
  clear_value s5
  have hs6 : Kept s₀ s6 := hs5.boothPut
  clear_value s6
  have hs7 : Kept s₀ s7 := hs6.boothField
  clear_value s7
  exact hs7.setFlow

protected theorem Kept.grantState {role : Nat} {b : List Byte} {pl : Plan} (hs : Kept s₀ s) : Kept s₀ (grantState s role b pl) := by
  unfold grantState
  extract_lets +onlyGivenNames c f first dAdm adm x s0 s1 _ _ s2 s3 s4 fl s8 s9 _ s10 s11
  have hs0 : Kept s₀ s0 := by
    unfold s0
    split
    · exact hs.carCommit
    · exact hs
  clear_value s0
  have hs1 : Kept s₀ s1 := (hs0.foldl fun _ _ hu => hu.mapPc)
  clear_value s1
  have hs2 : Kept s₀ s2 := (Kept.upd (s := setCtx s1 c x) hs1.setCtx rfl)
  clear_value s2
  have hs3 : Kept s₀ s3 := (hs2.foldl fun _ _ hu => hu.setTile)
  clear_value s3
  have hs4 : Kept s₀ s4 := hs3.setMin_getD
  clear_value s4
  have hs8 : Kept s₀ s8 := (Kept.ite hs4 hs4.grantFlow)
  clear_value s8
  have hs9 : Kept s₀ s9 := hs8.setupFifo
  clear_value s9
  have hs10 : Kept s₀ s10 := (Kept.ite hs9 hs9.setQ)
  clear_value s10
  have hs11 : Kept s₀ s11 := (hs10.foldl fun _ _ hu => hu.joinPort)
  clear_value s11
  exact Kept.ite hs11.bindDma hs11

protected theorem Kept.boothCmd {op : State → State} (hs : Kept s₀ s) (hop : ∀ u, Kept s₀ u → Kept s₀ (op u)) :
    Kept s₀ (boothCmd op s) := by
  unfold boothCmd
  exact Kept.ite hs.setEvt (hop _ hs)

protected theorem Kept.decide_ {named role : Nat} {b : List Byte} (hs : Kept s₀ s) : Kept s₀ (decide_ s named role b).1 := by
  unfold decide_
  split
  · dsimp only
    exact hs
  · split
    · dsimp only
      exact hs
    · dsimp only
      exact hs.grantState

protected theorem Kept.admitOp {named : Nat} (hs : Kept s₀ s) : Kept s₀ (admitOp named s) := by
  unfold admitOp
  extract_lets +onlyGivenNames r
  refine Kept.ite ?_ ?_
  · exact hs.replyInvalid
  · extract_lets +onlyGivenNames d
    have hd : Kept s₀ d.1 := hs.decide_
    clear_value d
    exact hd.boothReply

protected theorem Kept.releaseCtx {c : Nat} {x : Ctx} (hs : Kept s₀ s) : Kept s₀ (releaseCtx s c x) := by
  unfold releaseCtx
  refine Kept.ite ?_ ?_
  · exact hs
  · refine Kept.ite ?_ ?_
    · exact hs.setCtx
    · extract_lets +onlyGivenNames s2
      have hs2 : Kept s₀ s2 := (hs.setCtx.foldl fun _ _ hu => hu.finishSlot)
      clear_value s2
      exact hs2.releaseBoundary

protected theorem Kept.releaseOp {c : Nat} (hs : Kept s₀ s) : Kept s₀ (releaseOp c s) := by
  unfold releaseOp
  split
  · exact Kept.ite hs.replyInvalid hs.boothReply.releaseCtx
  · exact hs.replyInvalid

protected theorem Kept.relistOp (hs : Kept s₀ s) : Kept s₀ (relistOp s) := by
  unfold relistOp
  extract_lets +onlyGivenNames h n e
  refine Kept.ite ?_ ?_
  · exact hs.replyInvalid
  · split
    · exact hs.replyInvalid
    · refine Kept.ite ?_ ?_
      · exact hs.replyInvalid
      · extract_lets +onlyGivenNames new l losses grow lose
        exact Kept.ite hs.replyRefused (Kept.ite hs.replyRefused hs.carCommit.boothReply)

protected theorem Kept.grantRevocation {arbiter requester delivered total : Nat} (hs : Kept s₀ s) :
    Kept s₀ (grantRevocation arbiter requester delivered total s) := by
  unfold grantRevocation
  extract_lets +onlyGivenNames k
  exact Kept.ite (hs.upd rfl) (Kept.evG (Kept.bump (hs.upd rfl)))

protected theorem Kept.fabEtaMiss (hs : Kept s₀ s) : Kept s₀ (fabEtaMiss s) := by
  unfold fabEtaMiss
  exact hs.bump

/-! ### Frames -/

protected theorem Kept.takeCaptures (hs : Kept s₀ s) : Kept s₀ (takeCaptures s) := by
  unfold takeCaptures
  exact hs.upd rfl

protected theorem Kept.openFrame {c : Nat} {a2 : Ctx} {num pre : Nat} (hs : Kept s₀ s) : Kept s₀ (openFrame s c a2 num pre) := by
  unfold openFrame
  extract_lets +onlyGivenNames r _ x s1
  have hs1 : Kept s₀ s1 := hs.dmaFrameEvent
  clear_value s1
  refine Kept.ite ?_ ?_
  · extract_lets +onlyGivenNames dem t' f p
    have ht' : Kept s₀ t'.2 := by
      unfold t'
      split
      · exact hs1.frameSlot
      · dsimp only
        exact hs1
    clear_value t'
    exact Kept.setCtx (Kept.upd (s := t'.2) ht' rfl)
  · extract_lets +onlyGivenNames t''
    have ht'' : Kept s₀ t''.2 := hs1.frameSlot
    clear_value t''
    exact ht''.setCtx.finishFrame

protected theorem Kept.slotPic {c : Nat} {x : Ctx} {p : Pic} (hs : Kept s₀ s) : Kept s₀ (slotPic s c x p) := by
  unfold slotPic
  refine Kept.ite ?_ ?_
  · exact hs
  · extract_lets +onlyGivenNames t'
    have ht' : Kept s₀ t'.2 := hs.frameSlot
    clear_value t'
    exact ht'.withPic

protected theorem Kept.slotLimit {q : Nat} {id : Option Nat} {t : Time} (hs : Kept s₀ s) : Kept s₀ (slotLimit s q id t) := by
  unfold slotLimit
  split
  · extract_lets +onlyGivenNames x
    exact hs.setQ
  · exact hs

protected theorem Kept.closeFrame {c : Nat} {x : Ctx} {f : Frame} (hs : Kept s₀ s) : Kept s₀ (closeFrame s c x f) := by
  unfold closeFrame
  extract_lets +onlyGivenNames b s1 miss g a _ s2 lost pic s2'
  have hs1 : Kept s₀ s1 := hs.setCtx.dmaFrameEvent
  clear_value s1
  have ha : Kept s₀ a := hs1.bump
  clear_value a
  have hs2 : Kept s₀ s2 := (Kept.ite hs1 ha.setSensor.setEvt)
  clear_value s2
  have hs2' : Kept s₀ s2' := by
    unfold s2'
    refine Kept.ite ?_ ?_
    · split
      · extract_lets +onlyGivenNames s3
        have hs3 : Kept s₀ s3 := hs2.withPic
        clear_value s3
        split
        · split
          · refine Kept.ite ?_ ?_
            · exact hs3
            · extract_lets +onlyGivenNames s4
              have hs4 : Kept s₀ s4 := hs3.slotPic
              clear_value s4
              split
              · exact hs4.slotLimit
              · exact hs4
          · exact hs3
        · exact hs3
      · exact hs2
    · exact hs1
  clear_value s2'
  exact Kept.ite hs2'.releaseBoundary hs2'

protected theorem Kept.enterFrame {port c num pre : Nat} (hs : Kept s₀ s) : Kept s₀ (enterFrame s port c num pre).1 := by
  unfold enterFrame
  split
  · dsimp only
    exact hs
  · split
    · dsimp only
      exact hs
    · extract_lets +onlyGivenNames s1
      have hs1 : Kept s₀ s1 := by
        unfold s1
        split
        · exact hs.closeFrame
        · exact hs
      clear_value s1
      split
      · split
        · dsimp only
          exact hs1.openFrame
        · dsimp only
          exact hs1
      · dsimp only
        exact hs1

/-! ### Pictures and events -/

protected theorem Kept.capOf {x : Ctx} {b : List Byte} {p : Pic} (hs : Kept s₀ s) : Kept s₀ (capOf s x b p).2 := by
  unfold capOf
  split
  · extract_lets +onlyGivenNames r r2
    have hr : Kept s₀ r.2 := hs.fresh
    clear_value r
    have hr2 : Kept s₀ r2.2 := hr.fresh
    clear_value r2
    dsimp only
    exact hr2
  · dsimp only
    exact hs

protected theorem Kept.beginPic {c : Nat} {a2 : Ctx} {p : Pic} (hs : Kept s₀ s) : Kept s₀ (beginPic s c a2 p) := by
  unfold beginPic
  extract_lets +onlyGivenNames cap s' _ p1 x b
  have hcap : Kept s₀ cap.2 := hs.capOf
  clear_value cap
  have hs' : Kept s₀ s' := hcap
  clear_value s'
  refine Kept.ite ?_ ?_
  · extract_lets +onlyGivenNames flush
    exact hs'.setCtx
  · extract_lets +onlyGivenNames flush' k isP n mask store sl p2
    exact hs'.setCtx

protected theorem Kept.evComplexity {x : Ctx} {p : Pic} {k : Nat} (hs : Kept s₀ s) : Kept s₀ (evComplexity s x p k).2 := by
  unfold evComplexity
  extract_lets segs
  split
  · exact List.foldlRecOn (motive := fun a : List Nat × State => Kept s₀ a.2) _ _ hs fun _ hu _ _ => hu.fresh
  · exact hs

protected theorem Kept.fireEvent {c : Nat} {x : Ctx} {p : Pic} {k : Nat} (hs : Kept s₀ s) : Kept s₀ (fireEvent s c x p k) := by
  unfold fireEvent
  extract_lets +onlyGivenNames pr nr cc cs s' fixed x1 exact e js ev p1 _ r1 r2 x2
  have hcc : Kept s₀ cc.2 := hs.evComplexity
  clear_value cc
  have hs' : Kept s₀ s' := hcc
  clear_value s'
  exact Kept.evG (Kept.setCtx (hs'.upd rfl))

protected theorem Kept.startPic {c : Nat} {x : Ctx} {p : Pic} (hs : Kept s₀ s) : Kept s₀ (startPic s c x p) := by
  unfold startPic
  extract_lets +onlyGivenNames s1
  have hs1 : Kept s₀ s1 := hs.slotPic
  clear_value s1
  split
  · split
    · exact Kept.ite hs1 hs1.beginPic
    · exact hs1
  · exact hs1

protected theorem Kept.fireN {n c id : Nat} (hs : Kept s₀ s) : Kept s₀ (fireN n s c id) := by
  induction n generalizing s with
  | zero => exact hs
  | succ n ih =>
    unfold fireN
    split
    · split
      · split
        · exact ih hs.fireEvent
        · exact hs
      · exact hs
    · exact hs

protected theorem Kept.rowComplete {c src : Nat} (hs : Kept s₀ s) : Kept s₀ (rowComplete c src s) := by
  unfold rowComplete
  split
  · exact hs
  · split
    · exact hs
    · refine Kept.ite ?_ ?_
      · exact hs
      · extract_lets +onlyGivenNames s1
        have hs1 : Kept s₀ s1 := (Kept.ite hs hs.startPic)
        clear_value s1
        exact hs1.fireN

/-! ### Row jobs -/

protected theorem Kept.tileFree {t : Nat} (hs : Kept s₀ s) : Kept s₀ (tileFree s t) := by
  unfold tileFree
  exact hs.setTile.applySnaps

protected theorem Kept.freeRect {w h d : Nat} (hs : Kept s₀ s) : Kept s₀ (freeRect s w h d).2 := by
  unfold freeRect
  dsimp only
  exact hs.upd rfl

protected theorem Kept.picCoded {c id : Nat} (hs : Kept s₀ s) : Kept s₀ (picCoded s c id) := by
  unfold picCoded
  split
  · exact hs
  · split
    · exact hs
    · refine Kept.ite ?_ ?_
      · exact hs
      · extract_lets +onlyGivenNames n x1 s1
        have hs1 : Kept s₀ s1 := (Kept.setCtx (hs.upd rfl))
        clear_value s1
        exact Kept.ite hs1 hs1.setCtx

protected theorem Kept.jobOut {c : Nat} {x : Ctx} {p : Pic} {j : Job} {outs : List SegOut} {lost : Bool} (hs : Kept s₀ s) :
    Kept s₀ (jobOut s c x p j outs lost) := by
  unfold jobOut
  extract_lets +onlyGivenNames n ok upd p1 x1 r
  exact Kept.picCoded (Kept.upd (s := setCtx s c (updPic r.1 p.id fun x => r.2)) hs.setCtx rfl)

protected theorem Kept.lostOuts {p : Pic} {j : Job} (hs : Kept s₀ s) : Kept s₀ (lostOuts s p j).2 := by
  unfold lostOuts
  exact List.foldlRecOn (motive := fun a : List SegOut × State => Kept s₀ a.2) _ _ hs fun _ hu _ _ =>
    Kept.freeRect (d := Ct.depth p.cfg) hu

protected theorem Kept.loseJob {j : Job} {cause : Nat} (hs : Kept s₀ s) : Kept s₀ (loseJob s j cause) := by
  unfold loseJob
  extract_lets +onlyGivenNames s0
  have hs0 : Kept s₀ s0 := (hs.upd rfl)
  clear_value s0
  refine Kept.ite ?_ ?_
  · split
    · split
      · exact hs0.setCtx
      · exact hs0
    · exact hs0
  · split
    · exact hs0.freeBuf
    · extract_lets +onlyGivenNames p1 x1 f l cut
      have hf : Kept s₀ f.2 := hs0.fresh
      clear_value f
      have hl : Kept s₀ l.2 := hf.lostOuts
      clear_value l
      clear_value cut
      split
      · exact Kept.ite hl.freeBuf.jobOut (Kept.jobOut (Kept.upd (s := l.2) hl rfl))
      · exact hl.freeBuf.jobOut

protected theorem Kept.tileMchk {t cause addr : Nat} (hs : Kept s₀ s) : Kept s₀ (tileMchk s t cause addr) := by
  unfold tileMchk
  extract_lets +onlyGivenNames x s1 s2 s3
  have hs1 : Kept s₀ s1 := hs.setTile.setEvt
  clear_value s1
  have hs2 : Kept s₀ s2 := hs1.raiseFault.fencePage
  clear_value s2
  have hs3 : Kept s₀ s3 := by
    unfold s3
    split
    · exact hs2.loseJob
    · exact hs2
  clear_value s3
  exact hs3.tileFree.setTile

protected theorem Kept.putJob {t : Nat} {j : Job} {entry w h depth refMask : Nat} (hs : Kept s₀ s) :
    Kept s₀ (putJob s t j entry w h depth refMask) := by
  unfold putJob
  extract_lets +onlyGivenNames k ps d x y s1
  have hs1 : Kept s₀ s1 := (Kept.setTile (hs.upd rfl))
  clear_value s1
  exact Kept.evG (hs1.upd rfl)

protected theorem Kept.startJob {t : Nat} {j : Job} {entry w h depth refMask : Nat} (hs : Kept s₀ s) :
    Kept s₀ (startJob s t j entry w h depth refMask) := by
  unfold startJob
  extract_lets +onlyGivenNames s1
  have hs1 : Kept s₀ s1 := hs.putJob
  clear_value s1
  split
  · exact hs1.tileMchk
  · exact hs1

protected theorem Kept.tileDropJob {t : Nat} (hs : Kept s₀ s) : Kept s₀ (tileDropJob s t) := by
  unfold tileDropJob
  extract_lets +onlyGivenNames s1
  have hs1 : Kept s₀ s1 := by
    unfold s1
    split
    · exact hs.loseJob
    · exact hs
  clear_value s1
  exact hs1.tileFree

protected theorem Kept.jobEnd {id : Nat} (hs : Kept s₀ s) : Kept s₀ (jobEnd id s) := by
  unfold jobEnd
  split
  · exact hs
  · split
    · exact hs
    · refine Kept.ite ?_ ?_
      · exact hs
      · extract_lets +onlyGivenNames done
        have hdone : ∀ v, Kept s₀ v → Kept s₀ (done v) := by
          intro v hu
          unfold done
          exact hu.tileFree.setEvt.evT
        refine Kept.ite ?_ ?_
        · split
          · extract_lets +onlyGivenNames s1
            have hs1 : Kept s₀ s1 := (hs.upd rfl)
            clear_value s1
            refine hdone _ ?_
            split
            · exact hs1.setCtx
            · exact hs1
          · exact hdone _ (hs.upd rfl)
        · split
          · exact hdone _ (Kept.freeBuf (hs.upd rfl))
          · refine Kept.ite ?_ ?_
            · exact hs
            · extract_lets +onlyGivenNames outs bytes
              split
              · exact Kept.ite hs.tileMchk (hdone _ hs.writeLoc.jobOut.perfEvt)
              · exact hdone _ hs.jobOut

protected theorem Kept.startEnc {t : Nat} {p : Pic} {j : Job} (hs : Kept s₀ s) : Kept s₀ (startEnc s t p j) := by
  unfold startEnc
  extract_lets +onlyGivenNames r
  exact hs.startJob

protected theorem Kept.guarTicket {c : Nat} (hs : Kept s₀ s) : Kept s₀ (guarTicket c s) := by
  unfold guarTicket
  split
  · exact hs
  · split
    · exact hs
    · split
      · refine Kept.ite ?_ ?_
        · split
          · next _ t heq =>
              have ht : Kept s₀ t := hs.grnAlloc heq
              exact ht.startEnc
          · exact hs
        · exact hs
      · exact hs

protected theorem Kept.bulkEmpty {x : Ctx} {p : Pic} {j : Job} (hs : Kept s₀ s) : Kept s₀ (bulkEmpty s x p j) := by
  unfold bulkEmpty
  extract_lets +onlyGivenNames l
  have hl : Kept s₀ l.2 := hs.lostOuts
  clear_value l
  exact hl.jobOut

protected theorem Kept.bulkTicket (hs : Kept s₀ s) : Kept s₀ (bulkTicket s) := by
  unfold bulkTicket
  split
  · exact hs
  · split
    · exact hs
    · refine Kept.ite ?_ ?_
      · split
        · refine Kept.ite ?_ ?_
          · extract_lets +onlyGivenNames k
            have hk : Kept s₀ k.2 := hs.fresh
            clear_value k
            exact hk.startJob
          · exact hs
        · exact hs
      · split
        · refine Kept.ite ?_ ?_
          · exact hs
          · refine Kept.ite ?_ ?_
            · exact hs.bulkEmpty
            · split
              · next _ t heq =>
                  have ht : Kept s₀ t := hs.grnAlloc heq
                  exact ht.startEnc
              · exact hs.upd rfl
        · exact hs.upd rfl

protected theorem Kept.pushUnit {f : Nat} {u : EgUnit} (hs : Kept s₀ s) : Kept s₀ (pushUnit s f u) := by
  unfold pushUnit
  extract_lets +onlyGivenNames x
  exact hs.fifoPush.setFlow.tagAll.evG

protected theorem Kept.unitStall {f n : Nat} (hs : Kept s₀ s) : Kept s₀ (unitStall s f n) := by
  unfold unitStall
  exact Kept.ite hs.fifoStall hs

protected theorem Kept.seEnter {c : Nat} {x : Ctx} {fifo : Nat} (hs : Kept s₀ s) : Kept s₀ (seEnter s c x fifo) := by
  unfold seEnter
  extract_lets +onlyGivenNames last bytes
  split
  · exact hs.bump.setCtx.releaseCheck
  · exact Kept.ite hs.unitStall hs.setCtx.pushUnit

protected theorem Kept.tapUnitCopy {c : Nat} {x : Ctx} {p : Pic} {u : List Byte} {last : Bool} (hs : Kept s₀ s) :
    Kept s₀ (tapUnitCopy s c x p u last) := by
  unfold tapUnitCopy
  exact Kept.ite (hs.upd rfl) hs

protected theorem Kept.enterUnit {c : Nat} {x : Ctx} {p : Pic} {u : NextUnit} (hs : Kept s₀ s) : Kept s₀ (enterUnit s c x p u) := by
  unfold enterUnit
  extract_lets +onlyGivenNames lastU p1 y
  split
  · extract_lets +onlyGivenNames s1
    have hs1 : Kept s₀ s1 := hs.setCtx.bump.freeBuf
    clear_value s1
    exact Kept.ite hs1.withPic.finishPic hs1
  · exact Kept.ite hs.unitStall hs.setCtx.tapUnitCopy.pushUnit

protected theorem Kept.endLost {c : Nat} {x : Ctx} {p : Pic} (hs : Kept s₀ s) : Kept s₀ (endLost s c x p) := by
  unfold endLost
  extract_lets +onlyGivenNames mine mark
  split
  · exact hs.withPic.finishPic
  · extract_lets +onlyGivenNames y port e
    refine Kept.ite ?_ ?_
    · exact hs.setFlow
    · refine Kept.ite ?_ ?_
      · exact hs.setPort
      · extract_lets +onlyGivenNames s1
        have hs1 : Kept s₀ s1 := (Kept.ite hs.ringEnd hs)
        clear_value s1
        exact hs1.withPic.finishPic

protected theorem Kept.unitEnter {c : Nat} (hs : Kept s₀ s) : Kept s₀ (unitEnter c s) := by
  unfold unitEnter
  split
  · exact hs
  · refine Kept.ite ?_ ?_
    · exact hs
    · split
      · extract_lets +onlyGivenNames cap s' p y
        have hcap : Kept s₀ cap.2 := hs.capOf
        clear_value cap
        have hs' : Kept s₀ s' := hcap
        clear_value s'
        split
        · exact hs'.enterUnit
        · exact Kept.ite hs'.setCtx.endLost hs'.setCtx
      · exact Kept.ite hs.seEnter hs

protected theorem Kept.demotedEmit {c : Nat} (hs : Kept s₀ s) : Kept s₀ (demotedEmit c s) := by
  unfold demotedEmit
  split
  · exact hs
  · split
    · exact hs
    · extract_lets +onlyGivenNames p1 n between
      refine Kept.ite ?_ ?_
      · exact hs
      · extract_lets +onlyGivenNames y
        exact hs.setCtx

protected theorem Kept.demotedDiscard {c : Nat} (hs : Kept s₀ s) : Kept s₀ (demotedDiscard c s) := by
  unfold demotedDiscard
  split
  · exact hs
  · split
    · exact hs
    · refine Kept.ite ?_ ?_
      · extract_lets +onlyGivenNames s1
        have hs1 : Kept s₀ s1 := (hs.foldl fun _ _ hu => hu.freeBuf)
        clear_value s1
        exact hs1.dropJobs.endPic
      · refine Kept.ite ?_ ?_
        · extract_lets +onlyGivenNames s1'
          have hs1' : Kept s₀ s1' := (hs.foldl fun _ _ hu => hu.freeBuf)
          clear_value s1'
          exact hs1'.dropJobs.endPic
        · exact hs

/-! ### Decoding -/

protected theorem Kept.decEnd {c q id : Nat} {bufs : List (Nat × Nat)} {ce : List Byte} (hs : Kept s₀ s) :
    Kept s₀ (decEnd s c q id bufs ce) := by
  unfold decEnd
  exact Kept.finishSlot (Kept.freeBufs (hs.upd rfl))

protected theorem Kept.decStart {slot c : Nat} {x : Ctx} (hs : Kept s₀ s) : Kept s₀ (decStart s slot c x) := by
  unfold decStart
  split
  · extract_lets +onlyGivenNames src
    clear_value src
    split
    · exact hs
    · extract_lets +onlyGivenNames ac rd s' _ x1 stop
      have hac : Kept s₀ ac.2 := by
        unfold ac
        split
        · dsimp only
          exact hs
        · exact hs.readLoc
      clear_value ac
      have hs' : Kept s₀ s' := hac
      clear_value s'
      have hstop : ∀ a0 a1 a2, Kept s₀ (stop a0 a1 a2) := by
        intro a0 a1 a2
        unfold stop
        exact hs'.setCtx.decEnd
      refine Kept.ite ?_ ?_
      · exact hstop _ _ _
      · refine Kept.ite ?_ ?_
        · exact hstop _ _ _
        · refine Kept.ite ?_ ?_
          · extract_lets +onlyGivenNames y derr
            refine Kept.ite ?_ ?_
            · extract_lets +onlyGivenNames f
              have hf : Kept s₀ f.2 := hs'.fresh
              clear_value f
              exact hf.setCtx.decEnd
            · extract_lets +onlyGivenNames js run
              exact Kept.setCtx (hs'.upd rfl)
          · extract_lets +onlyGivenNames p0 p derr'
            refine Kept.ite ?_ ?_
            · extract_lets +onlyGivenNames n
              exact hstop _ _ _
            · extract_lets +onlyGivenNames js' run'
              exact Kept.setCtx (hs'.upd rfl)
  · exact hs

protected theorem Kept.decodeOp {q : Nat} (hs : Kept s₀ s) : Kept s₀ (decodeOp q s) := by
  unfold decodeOp
  split
  · exact hs
  · next _ _ t heq =>
      have ht : Kept s₀ t := hs.takeStarted heq
      refine Kept.ite ?_ ?_
      · exact hs
      · refine Kept.ite ?_ ?_
        · exact ht.finishSlot
        · split
          · exact ht
          · extract_lets +onlyGivenNames _ y s2
            have hs2 : Kept s₀ s2 := ht.setCtx
            clear_value s2
            split
            · exact hs2.decStart
            · exact hs2

protected theorem Kept.putOutput {e : List Byte} {sizes : List (Nat × Nat)} {part : Bool} {all : List OutLine} (hs : Kept s₀ s) :
    Kept s₀ (putOutput s e sizes part all).1 := by
  unfold putOutput
  extract_lets +onlyGivenNames ls k s1 kept seq
  have hs1 : Kept s₀ s1 := (hs.upd rfl)
  clear_value s1
  dsimp only
  exact hs1.foldl fun _ _ hu => hu.writeLoc

protected theorem Kept.writeMap {e : List Byte} {kinds : List Nat} (hs : Kept s₀ s) : Kept s₀ (writeMap s e kinds).1 := by
  unfold writeMap
  split
  · dsimp only
    exact hs
  · extract_lets +onlyGivenNames b w
    dsimp only
    exact hs.writeLoc

protected theorem Kept.decOutput {c : Nat} {x : Ctx} {r : DecRun} {nums : Nat × Nat} {flags miss : Nat} {kinds : List Nat}
    {sizes : List (Nat × Nat)} {ls : List OutLine} (hs : Kept s₀ s) :
    Kept s₀ (decOutput s c x r nums flags miss kinds sizes ls) := by
  unfold decOutput
  extract_lets +onlyGivenNames e w m bad st status
  have hw : Kept s₀ w.1 := hs.putOutput
  clear_value w
  have hm : Kept s₀ m.1 := hw.writeMap
  clear_value m
  exact hm.setCtx.decEnd

protected theorem Kept.acsFinish {c : Nat} {x : Ctx} {r : DecRun} {sh ph : List Byte} (hs : Kept s₀ s) :
    Kept s₀ (acsFinish s c x r sh ph) := by
  unfold acsFinish
  extract_lets +onlyGivenNames g refs prev d0 d ls flags
  refine Kept.ite ?_ ?_
  · extract_lets +onlyGivenNames w
    have hw : Kept s₀ w.1 := hs.putOutput
    clear_value w
    exact hw.setCtx.decEnd
  · extract_lets +onlyGivenNames pic sl sl'
    exact hs.decOutput

protected theorem Kept.hevcFinish {c : Nat} {x : Ctx} {r : DecRun} (hs : Kept s₀ s) : Kept s₀ (hevcFinish s c x r) := by
  unfold hevcFinish
  extract_lets +onlyGivenNames f s' nums flags
  have hf : Kept s₀ f.2 := hs.fresh
  clear_value f
  have hs' : Kept s₀ s' := hf
  clear_value s'
  split
  · exact hs
  · extract_lets +onlyGivenNames prev refs l d pic ls
    refine Kept.ite ?_ ?_
    · extract_lets +onlyGivenNames w
      have hw : Kept s₀ w.1 := hs'.putOutput
      clear_value w
      exact hw.setCtx.decEnd
    · extract_lets +onlyGivenNames miss
      exact hs'.decOutput

protected theorem Kept.decodeFinish {c : Nat} (hs : Kept s₀ s) : Kept s₀ (decodeFinish c s) := by
  unfold decodeFinish
  split
  · split
    · refine Kept.ite ?_ ?_
      · exact hs
      · refine Kept.ite ?_ ?_
        · exact hs.hevcFinish
        · split
          · exact hs.acsFinish
          · exact hs
    · exact hs
  · exact hs

protected theorem Kept.takeBufs {p o n : Nat} {l : List (Nat × Nat)} (hs : Kept s₀ s) (e : takeBufs s p o n = some (l, t)) :
    Kept s₀ t := by
  induction n generalizing l t with
  | zero =>
    cases e
    exact hs
  | succ n ih =>
    unfold takeBufs at e
    split at e
    · next _ u h =>
      obtain ⟨⟨i, v⟩, hv, he⟩ := Option.map_eq_some_iff.mp e
      cases he
      exact (ih h).grnAlloc hv
    · cases e

protected theorem Kept.decOpen {q : Nat} (hs : Kept s₀ s) : Kept s₀ (decOpen q s) := by
  unfold decOpen
  split
  · exact hs
  · next _ _ t heq =>
      have ht : Kept s₀ t := hs.takeStarted heq
      extract_lets +onlyGivenNames b c bad
      have hbad : Kept s₀ bad := ht.finishSlot
      clear_value bad
      refine Kept.ite ?_ ?_
      · exact hbad
      · refine Kept.ite ?_ ?_
        · exact ht.finishSlot
        · refine Kept.ite ?_ ?_
          · exact hbad
          · split
            · exact hbad
            · next _ t heq =>
                have ht : Kept s₀ t := ht.takeBufs heq
                exact ht.setCtx.finishSlot

protected theorem Kept.ingBump {c : Nat} {b : List Byte} {off n : Nat} (hs : Kept s₀ s) : Kept s₀ (ingBump s c b off n) := by
  unfold ingBump
  exact hs.bump

protected theorem Kept.decClose {q : Nat} (hs : Kept s₀ s) : Kept s₀ (decClose q s) := by
  unfold decClose
  split
  · exact hs
  · next _ _ t heq =>
      have ht : Kept s₀ t := hs.takeStarted heq
      extract_lets +onlyGivenNames c
      split
      · refine Kept.ite ?_ ?_
        · exact ht.finishSlot
        · refine Kept.ite ?_ ?_
          · exact hs
          · extract_lets +onlyGivenNames s2 bufs s3
            have hs2 : Kept s₀ s2 := (Kept.ite ht ht.ingBump)
            clear_value s2
            have hs3 : Kept s₀ s3 := hs2.freeBufs
            clear_value s3
            exact Kept.finishSlot (Kept.breakOwner (hs3.upd rfl))
      · exact ht.finishSlot

/-! ### Ingress -/

protected theorem Kept.ingRoom {c n : Nat} {b : List Byte} {h x : HeldPic} {f : Option FragSt} (hs : Kept s₀ s)
    (e : ingRoom s c b h f n = some (x, t)) : Kept s₀ t := by
  obtain ⟨⟨l, v⟩, hv, he⟩ := Option.map_eq_some_iff.mp e
  cases he
  exact hs.takeBufs hv

protected theorem Kept.ingClose {c : Nat} {x : Ctx} {missing : Bool} (hs : Kept s₀ s) : Kept s₀ (ingClose s c x missing).1 := by
  unfold ingClose
  split
  · dsimp only
    exact hs
  · extract_lets +onlyGivenNames s1
    have hs1 : Kept s₀ s1 := (Kept.ite hs.ingBump hs)
    clear_value s1
    dsimp only
    exact hs1

protected theorem Kept.ingTake {c : Nat} {a2 : Ctx} {inSeq : Bool} {p : List Byte} (hs : Kept s₀ s) :
    Kept s₀ (ingTake s c a2 inSeq p) := by
  unfold ingTake
  extract_lets +onlyGivenNames tag hevc same a x r _ x' s1
  have ha : Kept s₀ a.1 := by
    unfold a
    split
    · exact hs.ingClose
    · dsimp only
      exact hs
  clear_value a
  have hs1 : Kept s₀ s1 := (Kept.ite ha ha.ingBump)
  clear_value s1
  refine Kept.ite ?_ ?_
  · exact hs1.setCtx
  · refine Kept.ite ?_ ?_
    · exact ha.setCtx
    · refine Kept.ite ?_ ?_
      · exact ha.ingBump.setCtx
      · extract_lets +onlyGivenNames h0
        split
        · extract_lets +onlyGivenNames lost s2
          have hs2 : Kept s₀ s2 := ha.ingBump
          clear_value s2
          exact (Kept.ite hs2 hs2.ingBump).setCtx
        · next _ t heq =>
            have ht : Kept s₀ t := hs1.ingRoom heq
            extract_lets +onlyGivenNames _ y e
            have he : Kept s₀ e.1 := by
              unfold e
              split
              · exact ht.ingClose
              · dsimp only
                exact ht
            clear_value e
            exact he.setCtx

protected theorem Kept.ingressPacket {port : Nat} {k : NetPacket} (hs : Kept s₀ s) : Kept s₀ (ingressPacket port k s) := by
  unfold ingressPacket
  refine Kept.ite ?_ ?_
  · exact hs
  · split
    · exact Kept.ite hs hs.bump
    · extract_lets +onlyGivenNames b seq gap s1 col _ _ x
      have hs1 : Kept s₀ s1 := (Kept.ite hs.ingBump hs)
      clear_value s1
      refine Kept.ite ?_ ?_
      · exact hs1.ingBump.setCtx
      · refine Kept.ite ?_ ?_
        · exact hs1.ingBump.setCtx
        · extract_lets +onlyGivenNames inSeq
          exact hs1.ingBump.ingTake

protected theorem Kept.ingressPicTimeout {c : Nat} (hs : Kept s₀ s) : Kept s₀ (ingressPicTimeout c s) := by
  unfold ingressPicTimeout
  split
  · refine Kept.ite ?_ ?_
    · extract_lets +onlyGivenNames e
      have he : Kept s₀ e.1 := hs.ingClose
      clear_value e
      exact he.setCtx
    · exact hs
  · exact hs

/-! ### Cascade homes -/

protected theorem Kept.setHome {h : Home} (hs : Kept s₀ s) : Kept s₀ (setHome s h) := by
  unfold setHome
  extract_lets +onlyGivenNames l
  exact hs.upd rfl

protected theorem Kept.numberPics {n : Nat} {h : Home} (hs : Kept s₀ s) : Kept s₀ (numberPics n s h) := by
  induction n generalizing s with
  | zero => exact hs
  | succ n ih =>
    unfold numberPics
    split
    · exact hs
    · split
      · exact hs
      · exact ih hs.setCtx

protected theorem Kept.newPic {h : Home} {x : Ctx} {src : Nat} (hs : Kept s₀ s) : Kept s₀ (newPic s h x src).2 := by
  unfold newPic
  extract_lets +onlyGivenNames t' id p
  have ht' : Kept s₀ t'.2 := hs.frameSlot
  clear_value t'
  dsimp only
  exact Kept.setCtx (Kept.upd (s := t'.2) ht' rfl)

protected theorem Kept.noteT0 {h : Home} {x : Ctx} {id : Nat} {u : List Byte} (hs : Kept s₀ s) : Kept s₀ (noteT0 s h x id u) := by
  unfold noteT0
  split
  · refine Kept.ite ?_ ?_
    · extract_lets +onlyGivenNames t'
      exact hs.withPic.slotLimit
    · exact hs
  · exact hs

protected theorem Kept.mergePh {h : Home} {x : Ctx} {i : Nat} {m : Member} {u : List Byte} (hs : Kept s₀ s) :
    Kept s₀ (mergePh s h x i m u) := by
  unfold mergePh
  extract_lets +onlyGivenNames src gone s' n r _ g
  have hs' : Kept s₀ s' := (hs.foldl fun _ _ hu => hu.endPic)
  clear_value s'
  have hn : Kept s₀ n.2 := hs'.newPic
  clear_value n
  have hr : Kept s₀ r.2 := by
    unfold r
    split
    · dsimp only
      exact hs'.noteT0
    · split
      · dsimp only
        exact hs'
      · split
        · dsimp only
          exact hn.endPic
        · dsimp only
          exact hn.withPic.noteT0
  clear_value r
  exact hr.setHome.numberPics

protected theorem Kept.mergeSg {h : Home} {x : Ctx} {i : Nat} {m : Member} {u : List Byte} (hs : Kept s₀ s) :
    Kept s₀ (mergeSg s h x i m u) := by
  unfold mergeSg
  split
  · exact hs
  · extract_lets +onlyGivenNames t' g
    refine Kept.ite ?_ ?_
    · exact hs
    · extract_lets +onlyGivenNames v
      exact hs.withPic

protected theorem Kept.mergePe {h : Home} {x : Ctx} {i : Nat} {m : Member} (hs : Kept s₀ s) : Kept s₀ (mergePe s h x i m) := by
  unfold mergePe
  extract_lets +onlyGivenNames s1
  have hs1 : Kept s₀ s1 := hs.setHome
  clear_value s1
  split
  · exact hs1
  · extract_lets +onlyGivenNames lost
    exact hs1.withPic

protected theorem Kept.relayPut {h : Home} {i : Nat} {m : Member} {id : Nat} {u : List Byte} {last se : Bool} (hs : Kept s₀ s) :
    Kept s₀ (relayPut s h i m id u last se) := by
  unfold relayPut
  exact hs.setHome

protected theorem Kept.relayUnit {h : Home} {x : Ctx} {i : Nat} {m : Member} {u : List Byte} (hs : Kept s₀ s) :
    Kept s₀ (relayUnit s h x i m u) := by
  unfold relayUnit
  refine Kept.ite ?_ ?_
  · exact hs.relayPut
  · extract_lets +onlyGivenNames hevc f r s1 last
    have hf : Kept s₀ f.2 := hs.fresh
    clear_value f
    have hr : Kept s₀ r.2 := by
      unfold r
      split
      · dsimp only
        exact hs
      · exact (Kept.ite hf hs).newPic
    clear_value r
    have hs1 : Kept s₀ s1 := (Kept.ite hr (Kept.ite hr.withPic.noteT0 (Kept.ite hr.withPic hr)))
    clear_value s1
    exact hs1.relayPut

protected theorem Kept.homeUnit {stream i : Nat} {u : List Byte} (hs : Kept s₀ s) : Kept s₀ (homeUnit s stream i u) := by
  unfold homeUnit
  split
  · exact hs
  · split
    · refine Kept.ite ?_ ?_
      · exact hs.relayUnit
      · extract_lets +onlyGivenNames t'
        refine Kept.ite ?_ ?_
        · exact hs.mergePh
        · refine Kept.ite ?_ ?_
          · exact hs.mergeSg
          · refine Kept.ite ?_ ?_
            · exact hs.mergePe
            · refine Kept.ite ?_ ?_
              · extract_lets +onlyGivenNames g
                exact hs.setHome.numberPics
              · exact hs
    · exact hs

protected theorem Kept.homeLeave {stream : Nat} (hs : Kept s₀ s) : Kept s₀ (homeLeave s stream) := by
  unfold homeLeave
  split
  · exact hs
  · split
    · exact Kept.ite hs.releaseBoundary hs
    · exact hs

protected theorem Kept.lostFrame {stream i : Nat} (hs : Kept s₀ s) : Kept s₀ (lostFrame s stream i) := by
  unfold lostFrame
  split
  · exact hs
  · split
    · extract_lets +onlyGivenNames k src n
      have hn : Kept s₀ n.2 := hs.newPic
      clear_value n
      exact hn.endPic.setHome
    · exact hs

protected theorem Kept.loseRole {stream i : Nat} {hadPic : Bool} (hs : Kept s₀ s) : Kept s₀ (loseRole s stream i hadPic) := by
  unfold loseRole
  split
  · exact hs
  · split
    · extract_lets +onlyGivenNames per s1
      have hs1 : Kept s₀ s1 := hs.setHome
      clear_value s1
      exact Kept.ite hs1 hs1.lostFrame
    · exact hs

protected theorem Kept.lostPeriods (hs : Kept s₀ s) : Kept s₀ (lostPeriods s) := by
  unfold lostPeriods
  refine hs.foldl fun _ _ hu => (hu.foldl fun _ _ hv => ?_)
  split
  · exact hv
  · split
    · extract_lets +onlyGivenNames per
      split
      · exact Kept.ite hv.setHome.lostFrame hv
      · exact hv
    · exact hv

protected theorem Kept.loseMembers {h : Home} {sel : Member → Bool} {dead : Bool} (hs : Kept s₀ s) :
    Kept s₀ (loseMembers s h sel dead) := by
  unfold loseMembers
  split
  · exact hs
  · extract_lets +onlyGivenNames ms ids g s1 s2
    have hs1 : Kept s₀ s1 := (hs.setHome.foldl fun _ _ hu => hu.endPic)
    clear_value s1
    have hs2 : Kept s₀ s2 := hs1.numberPics
    clear_value s2
    exact Kept.ite (hs2.foldl fun _ _ hu => hu.loseRole) hs2

protected theorem Kept.loseAll {sel : Member → Bool} {dead : Bool} (hs : Kept s₀ s) : Kept s₀ (loseAll s sel dead) := by
  unfold loseAll
  exact hs.foldl fun _ _ hu => (Kept.ite hu.loseMembers.homeLeave hu)

protected theorem Kept.relayEnter {h : Home} {x : Ctx} (hs : Kept s₀ s) : Kept s₀ (relayEnter s h x) := by
  unfold relayEnter
  split
  · exact hs
  · refine Kept.ite ?_ ?_
    · exact hs
    · refine Kept.ite ?_ ?_
      · exact hs.unitStall
      · extract_lets +onlyGivenNames p s1
        have hs1 : Kept s₀ s1 := hs.setHome.withPic
        clear_value s1
        exact hs1.pushUnit.homeLeave

protected theorem Kept.localEnter {c : Nat} {x : Ctx} (hs : Kept s₀ s) : Kept s₀ (localEnter s c x) := by
  unfold localEnter
  split
  · exact hs
  · split
    · extract_lets +onlyGivenNames cap s' p fin
      have hcap : Kept s₀ cap.2 := hs.capOf
      clear_value cap
      have hs' : Kept s₀ s' := hcap
      clear_value s'
      have hfin : ∀ v, Kept s₀ v → Kept s₀ (fin v) := by
        intro v hu
        unfold fin
        exact hu.withPic.finishPic
      split
      · extract_lets +onlyGivenNames y s1
        have hy : Kept s₀ y := hs'.setCtx
        clear_value y
        have hs1 : Kept s₀ s1 := hy.freeBuf.homeUnit
        clear_value s1
        exact Kept.ite (hfin _ hs1) hs1
      · exact Kept.ite (hfin _ hs'.setCtx) hs'.setCtx
    · refine Kept.ite ?_ ?_
      · extract_lets +onlyGivenNames s1'
        have hs1' : Kept s₀ s1' := hs.setCtx.homeUnit
        clear_value s1'
        exact hs1'.releaseCheck.homeLeave
      · exact hs

protected theorem Kept.unitEnterAny {c : Nat} (hs : Kept s₀ s) : Kept s₀ (unitEnterAny c s) := by
  unfold unitEnterAny
  split
  · exact hs
  · refine Kept.ite ?_ ?_
    · exact hs.localEnter
    · refine Kept.ite ?_ ?_
      · split
        · exact Kept.ite hs (Kept.ite (Kept.ite hs.homeLeave hs.relayEnter) hs.homeLeave.unitEnter)
        · exact hs
      · exact hs.unitEnter

/-! ### Sensor links -/

protected theorem Kept.sensorLink {n : Nat} {e : LinkEv} (hs : Kept s₀ s) : Kept s₀ (sensorLink n e s) := by
  unfold sensorLink
  extract_lets +onlyGivenNames pg
  refine Kept.ite ?_ ?_
  · exact hs
  · extract_lets +onlyGivenNames x r s1 s2
    have hs1 : Kept s₀ s1 := hs.setSensor
    clear_value s1
    have hs2 : Kept s₀ s2 := (Kept.ite hs1.bump hs1)
    clear_value s2
    exact Kept.ite hs2.setSensor.setEvt.raiseFault (Kept.ite hs2.setEvt hs2)

protected theorem Kept.notePseq {n seq : Nat} (hs : Kept s₀ s) : Kept s₀ (notePseq s n seq) := by
  unfold notePseq
  extract_lets +onlyGivenNames x s1
  have hs1 : Kept s₀ s1 := by
    unfold s1
    split
    · exact Kept.ite hs hs.bump
    · exact hs
  clear_value s1
  exact hs1.setSensor

protected theorem Kept.newFrame {port num : Nat} (hs : Kept s₀ s) : Kept s₀ (newFrame s port num) := by
  unfold newFrame
  refine Kept.ite ?_ ?_
  · exact hs
  · extract_lets +onlyGivenNames s1
    have hs1 : Kept s₀ s1 := hs.applySnaps
    clear_value s1
    exact hs1.setSensor

protected theorem Kept.judge {port c : Nat} {x : Ctx} {f : Frame} {pk : List Byte} (hs : Kept s₀ s) :
    Kept s₀ (judge s port c x f pk) := by
  unfold judge
  extract_lets +onlyGivenNames pg
  refine Kept.ite ?_ ?_
  · exact hs.bump
  · refine Kept.ite ?_ ?_
    · exact hs.bump
    · extract_lets +onlyGivenNames g x1 s1
      have hs1 : Kept s₀ s1 := hs.newFrame.setCtx
      clear_value s1
      exact Kept.ite hs1.closeFrame hs1

protected theorem Kept.goodPacket {port : Nat} {pk : List Byte} (hs : Kept s₀ s) : Kept s₀ (goodPacket s port pk) := by
  unfold goodPacket
  extract_lets +onlyGivenNames pg c
  split
  · exact hs.bump
  · refine Kept.ite ?_ ?_
    · exact hs.bump
    · extract_lets +onlyGivenNames n
      split
      · exact hs.judge
      · refine Kept.ite ?_ ?_
        · exact hs.bump
        · extract_lets +onlyGivenNames r
          have hr : Kept s₀ r.1 := hs.enterFrame
          clear_value r
          split
          · exact Kept.ite hr.judge hr.bump
          · exact hr.bump

protected theorem Kept.tapCopy {port : Nat} {pk : List Byte} (hs : Kept s₀ s) : Kept s₀ (tapCopy s port pk) := by
  unfold tapCopy
  extract_lets +onlyGivenNames r col
  have hr : Kept s₀ r.2 := hs.fresh
  clear_value r
  have hcol : Kept s₀ col.2 := by
    unfold col
    split
    · dsimp only
      exact hs
    · dsimp only
      exact hr
  clear_value col
  exact Kept.upd (s := arbTake col.2 (64 + port) 0 (rbits s tkbPg 0 512 14 8)) hcol.arbTake rfl

protected theorem Kept.linePacket {port laneErrs : Nat} {pk : List Byte} (hs : Kept s₀ s) :
    Kept s₀ (linePacket port laneErrs pk s) := by
  unfold linePacket
  refine Kept.ite ?_ ?_
  · exact hs
  · extract_lets +onlyGivenNames s1
    have hs1 : Kept s₀ s1 := hs.bump
    clear_value s1
    exact Kept.ite hs1.bump hs1.notePseq.goodPacket.tapCopy

protected theorem Kept.takeMark {port kind num pre : Nat} (hs : Kept s₀ s) : Kept s₀ (takeMark s port kind num pre) := by
  unfold takeMark
  extract_lets +onlyGivenNames c
  split
  · exact hs
  · refine Kept.ite ?_ ?_
    · exact hs
    · refine Kept.ite ?_ ?_
      · exact Kept.ite hs hs.enterFrame
      · refine Kept.ite ?_ ?_
        · split
          · refine Kept.ite ?_ ?_
            · exact hs
            · extract_lets +onlyGivenNames g x1 s1
              have hs1 : Kept s₀ s1 := hs.setCtx
              clear_value s1
              exact Kept.ite hs1.closeFrame hs1
          · exact hs
        · exact hs

protected theorem Kept.fmarkOp {port laneErrs : Nat} {a b : List Byte} (hs : Kept s₀ s) :
    Kept s₀ (fmarkOp port laneErrs a b s) := by
  unfold fmarkOp
  refine Kept.ite ?_ ?_
  · exact hs
  · extract_lets +onlyGivenNames s1 x
    have hs1 : Kept s₀ s1 := hs.bump
    clear_value s1
    refine Kept.ite ?_ ?_
    · exact hs1
    · extract_lets +onlyGivenNames pre
      exact hs1.setSensor.takeMark

protected theorem Kept.closeTimeout {c : Nat} (hs : Kept s₀ s) : Kept s₀ (closeTimeout c s) := by
  unfold closeTimeout
  split
  · exact Kept.ite hs hs.closeFrame
  · exact hs

protected theorem Kept.fsyncEdge {n : Nat} (hs : Kept s₀ s) : Kept s₀ (fsyncEdge n s) := by
  unfold fsyncEdge
  extract_lets +onlyGivenNames x pg
  split
  · refine Kept.ite ?_ ?_
    · exact hs
    · extract_lets +onlyGivenNames p
      exact hs.setSensor
  · exact hs

protected theorem Kept.fsyncPulseEnd {n : Nat} (hs : Kept s₀ s) : Kept s₀ (fsyncPulseEnd n s) := by
  unfold fsyncPulseEnd
  extract_lets +onlyGivenNames x
  exact Kept.ite hs.setSensor hs

protected theorem Kept.i3cCmd {n w : Nat} (hs : Kept s₀ s) : Kept s₀ (i3cCmd n w s) := by
  unfold i3cCmd
  extract_lets +onlyGivenNames x
  refine Kept.ite ?_ ?_
  · exact hs
  · extract_lets +onlyGivenNames len rd sent i2c head
    exact hs.setSensor.emit

protected theorem Kept.i3cDone {n : Nat} {nack : Bool} {rx : List Byte} (hs : Kept s₀ s) : Kept s₀ (i3cDone n nack rx s) := by
  unfold i3cDone
  extract_lets +onlyGivenNames x
  exact Kept.ite hs hs.setSensor

protected theorem Kept.i3cTx {n : Nat} {b : Byte} (hs : Kept s₀ s) : Kept s₀ (i3cTx n b s) := by
  unfold i3cTx
  extract_lets +onlyGivenNames x
  exact hs.setSensor

protected theorem Kept.i3cRx {n : Nat} (hs : Kept s₀ s) : Kept s₀ (i3cRx n s) := by
  unfold i3cRx
  extract_lets +onlyGivenNames x
  refine Kept.ite ?_ ?_
  · exact hs.upd rfl
  · split
    · exact Kept.setSensor (hs.upd rfl)
    · exact hs.upd rfl

/-! ### Selfold ports -/

protected theorem Kept.sfFill {p : Nat} (hs : Kept s₀ s) : Kept s₀ (sfFill s p) := by
  unfold sfFill
  extract_lets +onlyGivenNames pg
  exact hs.setSf

protected theorem Kept.sfLost {p : Nat} (hs : Kept s₀ s) : Kept s₀ (sfLost s p) := by
  unfold sfLost
  extract_lets +onlyGivenNames s1 _ s2
  have hs1 : Kept s₀ s1 := hs.sfLinkLost
  clear_value s1
  have hs2 : Kept s₀ s2 := (hs1.upd rfl)
  clear_value s2
  exact hs2.loseAll

protected theorem Kept.sfDown {p : Nat} (hs : Kept s₀ s) : Kept s₀ (sfDown s p) := by
  unfold sfDown
  exact hs.sfLost.setEvt.raiseFault

protected theorem Kept.sfLink {p : Nat} {e : LinkEv} (hs : Kept s₀ s) : Kept s₀ (sfLink p e s) := by
  unfold sfLink
  extract_lets +onlyGivenNames pg
  refine Kept.ite ?_ ?_
  · exact hs
  · extract_lets +onlyGivenNames x l s1
    have hs1 : Kept s₀ s1 := hs.setSf
    clear_value s1
    exact Kept.ite hs1.sfDown (Kept.ite hs1.sfFill.setEvt hs1)

protected theorem Kept.anyLink {port : Nat} {e : LinkEv} (hs : Kept s₀ s) : Kept s₀ (anyLink port e s) := by
  unfold anyLink
  exact Kept.ite hs.sensorLink (Kept.ite hs.sfLink hs)

protected theorem Kept.sendLink {p : Nat} {nak : Option Nat} (hs : Kept s₀ s) : Kept s₀ (sendLink s p nak) := by
  unfold sendLink
  extract_lets +onlyGivenNames x
  exact hs.setSf.sendPlain

protected theorem Kept.sendNak {p c : Nat} (hs : Kept s₀ s) : Kept s₀ (sendNak s p c) := by
  unfold sendNak
  exact hs.bump.sendLink

protected theorem Kept.sendFence {p : Nat} (hs : Kept s₀ s) : Kept s₀ (sendFence s p) := by
  unfold sendFence
  extract_lets +onlyGivenNames d
  exact hs.setSf.sendPlain.setEvt

protected theorem Kept.epochDrop {p : Nat} (hs : Kept s₀ s) : Kept s₀ (epochDrop s p) := by
  unfold epochDrop
  extract_lets +onlyGivenNames s1
  have hs1 : Kept s₀ s1 := hs.bump.setEvt
  clear_value s1
  exact Kept.ite hs1 (Kept.ite hs1.sendFence hs1.setSf)

protected theorem Kept.flitReject {p : Nat} {b : List Byte} (hs : Kept s₀ s) (e : flitReject s p b = some t) : Kept s₀ t := by
  unfold flitReject at e
  repeat' split at e
  all_goals cases e
  · exact hs.bump.sendNak
  · exact hs.bump
  · exact hs.epochDrop

protected theorem Kept.sfFree {p c k : Nat} (hs : Kept s₀ s) : Kept s₀ (sfFree s p c k) := by
  unfold sfFree
  extract_lets +onlyGivenNames f r
  exact Kept.ite hs hs.fifoStore

protected theorem Kept.resend {p : Nat} {l : List TxFlit} (hs : Kept s₀ s) : Kept s₀ (resend s p l).2 := by
  induction l generalizing s with
  | nil => exact hs
  | cons x rest ih =>
    unfold resend
    split
    · exact hs
    · exact ih hs.emit

protected theorem Kept.rereadRetry {p c : Nat} (hs : Kept s₀ s) : Kept s₀ (rereadRetry s p c) := by
  unfold rereadRetry
  extract_lets +onlyGivenNames f n l
  exact hs.foldl fun _ _ hu => hu.fifoUe

protected theorem Kept.sfRewind {p c : Nat} (hs : Kept s₀ s) : Kept s₀ (sfRewind s p c) := by
  unfold sfRewind
  extract_lets +onlyGivenNames t'
  refine Kept.ite ?_ ?_
  · exact hs
  · refine Kept.ite ?_ ?_
    · exact hs.sfLink.raiseFault
    · extract_lets +onlyGivenNames r
      have hr : Kept s₀ r.2 := hs.bump.rereadRetry.resend
      clear_value r
      exact hr.setTx

protected theorem Kept.linkCls {p : Nat} {b : List Byte} {c : Nat} (hs : Kept s₀ s) : Kept s₀ (linkCls p b s c) := by
  unfold linkCls
  extract_lets +onlyGivenNames fl nak
  refine Kept.ite ?_ ?_
  · exact hs
  · extract_lets +onlyGivenNames t' k s1 s2
    have hs1 : Kept s₀ s1 := hs.sfFree.setTx
    clear_value s1
    have hs2 : Kept s₀ s2 := (Kept.ite hs1.sfRewind hs1)
    clear_value s2
    refine Kept.ite ?_ ?_
    · extract_lets +onlyGivenNames t2 r
      have hr : Kept s₀ r.2 := hs2.sfPump
      clear_value r
      exact hr.setTx
    · exact hs2

protected theorem Kept.linkFlit {p : Nat} {b : List Byte} (hs : Kept s₀ s) : Kept s₀ (linkFlit p b s) := by
  unfold linkFlit
  refine Kept.ite ?_ ?_
  · exact hs
  · split
    · next t heq =>
        have ht : Kept s₀ t := hs.flitReject heq
        exact ht
    · exact Kept.ite (hs.foldl fun _ _ hu => hu.linkCls) hs

protected theorem Kept.linkAckTimer {p : Nat} (hs : Kept s₀ s) : Kept s₀ (linkAckTimer p s) := by
  unfold linkAckTimer
  exact Kept.ite hs.sendLink hs

protected theorem Kept.retryTimeout {p c : Nat} (hs : Kept s₀ s) : Kept s₀ (retryTimeout p c s) := by
  unfold retryTimeout
  split
  · exact Kept.ite hs.sfRewind hs
  · exact hs

protected theorem Kept.sfPolice {p : Nat} {b : List Byte} (hs : Kept s₀ s) : Kept s₀ (sfPolice s p b).2 := by
  unfold sfPolice
  extract_lets +onlyGivenNames pg
  split
  · dsimp only
    exact hs
  · extract_lets +onlyGivenNames x tok r s1
    have hs1 : Kept s₀ s1 := hs.setSf
    clear_value s1
    dsimp only
    exact Kept.ite hs1.bump (Kept.ite hs1.bump hs1)

protected theorem Kept.sfCollect {p : Nat} {b : List Byte} (hs : Kept s₀ s) : Kept s₀ (sfCollect s p b) := by
  unfold sfCollect
  extract_lets +onlyGivenNames mine old rest _ drop_
  have hdrop_ : Kept s₀ drop_ := (hs.upd rfl)
  clear_value drop_
  clear_value old
  split
  · exact hs
  · extract_lets +onlyGivenNames u
    refine Kept.ite ?_ ?_
    · exact hs.upd rfl
    · split
      · exact hdrop_.homeUnit.homeLeave
      · exact hdrop_

protected theorem Kept.sfForward {b : List Byte} {colour : Nat} (hs : Kept s₀ s) : Kept s₀ (sfForward s b colour) := by
  unfold sfForward
  split
  · exact hs.sendSrc
  · exact hs

protected theorem Kept.sfTaken {p : Nat} {b : List Byte} (hs : Kept s₀ s) : Kept s₀ (sfTaken s p b) := by
  unfold sfTaken
  refine Kept.ite ?_ ?_
  · extract_lets +onlyGivenNames s1
    have hs1 : Kept s₀ s1 := (Kept.ite hs.wakeUp hs)
    clear_value s1
    exact Kept.ite hs1.sfForward hs1
  · extract_lets +onlyGivenNames r
    have hr : Kept s₀ r.2 := hs.sfPolice
    clear_value r
    exact Kept.ite hr (Kept.ite hr.sfCollect hr.sfForward)

protected theorem Kept.dataFlit {p : Nat} {b : List Byte} (hs : Kept s₀ s) : Kept s₀ (dataFlit p b s) := by
  unfold dataFlit
  refine Kept.ite ?_ ?_
  · exact hs
  · split
    · next t heq =>
        have ht : Kept s₀ t := hs.flitReject heq
        exact ht
    · refine Kept.ite ?_ ?_
      · exact hs
      · extract_lets +onlyGivenNames c x r
        refine Kept.ite ?_ ?_
        · exact hs.sendNak
        · extract_lets +onlyGivenNames r1 s1 s2
          have hs1 : Kept s₀ s1 := hs.setSf
          clear_value s1
          have hs2 : Kept s₀ s2 := (Kept.ite hs1.sendLink hs1)
          clear_value s2
          exact hs2.sfTaken

/-! ### Tiles -/

protected theorem Kept.micro {t w : Nat} {op : State → State} (hs : Kept s₀ s) (hop : ∀ u, Kept s₀ u → Kept s₀ (op u)) :
    Kept s₀ (micro t w op s) := by
  unfold micro
  refine Kept.ite ?_ ?_
  · exact hop _ ((Kept.ite hs.evT hs).evT)
  · split
    · exact hs.tileMchk
    · exact hs

protected theorem Kept.thenNext {t n : Nat} {f : Tile → Tile} (hs : Kept s₀ s) : Kept s₀ (thenNext t n f s) := by
  unfold thenNext
  exact hs.setTile

protected theorem Kept.plain {t w n : Nat} {f : Tile → Tile} (hs : Kept s₀ s) : Kept s₀ (plain t w n f s) := by
  unfold plain
  exact hs.micro (fun _ hu => hu.thenNext)

protected theorem Kept.tileCe {t : Nat} (hs : Kept s₀ s) : Kept s₀ (tileCe s t) := by
  unfold tileCe
  extract_lets +onlyGivenNames pg s1 lim
  have hs1 : Kept s₀ s1 := hs.evT.bump
  clear_value s1
  exact Kept.ite hs1.setEvt.raiseFault hs1

protected theorem Kept.access {t a n err : Nat} {op : State → State} (hs : Kept s₀ s) (hop : ∀ u, Kept s₀ u → Kept s₀ (op u)) :
    Kept s₀ (access t a n err op s) := by
  unfold access
  exact Kept.ite hs.tileMchk (Kept.ite hs.tileMchk (hop _ ((Kept.ite hs.tileCe hs).arbTake)))

protected theorem Kept.lds {t g base off err : Nat} (hs : Kept s₀ s) : Kept s₀ (lds t g base off err s) := by
  unfold lds
  extract_lets +onlyGivenNames a
  exact hs.access (fun _ hu => hu.thenNext)

protected theorem Kept.sts {t g base off : Nat} (hs : Kept s₀ s) : Kept s₀ (sts t g base off s) := by
  unfold sts
  extract_lets +onlyGivenNames a
  exact hs.access (fun _ hu => hu.thenNext)

protected theorem Kept.vld {t v base off err : Nat} (hs : Kept s₀ s) : Kept s₀ (vld t v base off err s) := by
  unfold vld
  extract_lets +onlyGivenNames a
  exact hs.access (fun _ hu => hu.thenNext)

protected theorem Kept.vst {t v base off : Nat} (hs : Kept s₀ s) : Kept s₀ (vst t v base off s) := by
  unfold vst
  extract_lets +onlyGivenNames a
  exact hs.access (fun _ hu => hu.thenNext)

protected theorem Kept.loadOut {x : Tile} {u cmd : Nat} {par : List LW} (hs : Kept s₀ s) : Kept s₀ (loadOut s x u cmd par) := by
  unfold loadOut
  refine Kept.ite ?_ ?_
  · exact hs
  · extract_lets +onlyGivenNames m s1
    have hs1 : Kept s₀ s1 := (Kept.ite hs hs.writeLoc)
    clear_value s1
    exact hs1.foldl fun _ _ hu => hu.comTake.comPut

protected theorem Kept.unitCmd {t u : Nat} {rsv : Bool} {cmd p : Nat} (hs : Kept s₀ s) : Kept s₀ (unitCmd t u rsv cmd p s) := by
  unfold unitCmd
  refine Kept.ite ?_ ?_
  · exact hs.tileMchk
  · extract_lets +onlyGivenNames par s'
    have hs' : Kept s₀ s' := (hs.upd rfl)
    clear_value s'
    exact Kept.ite hs'.arbTake.loadOut.thenNext hs'.tileMchk

protected theorem Kept.branch {t cond g target : Nat} (hs : Kept s₀ s) : Kept s₀ (branch t cond g target s) := by
  unfold branch
  extract_lets +onlyGivenNames x
  split
  · exact hs.tileMchk
  · exact hs.setTile
  · exact hs.setTile

protected theorem Kept.callTo {t target : Nat} (hs : Kept s₀ s) : Kept s₀ (callTo t target s) := by
  unfold callTo
  extract_lets +onlyGivenNames x
  exact Kept.ite hs.tileMchk hs.setTile

protected theorem Kept.retFrom {t : Nat} (hs : Kept s₀ s) : Kept s₀ (retFrom t s) := by
  unfold retFrom
  extract_lets +onlyGivenNames x
  split
  · exact hs.tileMchk
  · exact hs.setTile

protected theorem Kept.waitOn {t cond : Nat} {exp : Bool} {timeout : Nat} {holds : Bool} (hs : Kept s₀ s) :
    Kept s₀ (waitOn t cond exp timeout holds s) := by
  unfold waitOn
  extract_lets +onlyGivenNames x h y
  exact Kept.ite hs.tileMchk (Kept.ite hs.setTile (Kept.ite hs.setTile.evT hs.setTile))

protected theorem Kept.waitEv {t : Nat} {w : WaitSt} {n : Nat} (hs : Kept s₀ s) : Kept s₀ (waitEv t w n s) := by
  unfold waitEv
  exact hs.perfEvt

protected theorem Kept.waitSpend {t : Nat} {w : WaitSt} {n : Nat} (hs : Kept s₀ s) : Kept s₀ (waitSpend s t w n).2 := by
  unfold waitSpend
  extract_lets +onlyGivenNames x y
  split
  · dsimp only
    exact hs
  · split
    · dsimp only
      exact hs.upd rfl
    · dsimp only
      exact hs

protected theorem Kept.waitMet {t cycles : Nat} (hs : Kept s₀ s) : Kept s₀ (waitMet t cycles s) := by
  unfold waitMet
  split
  · refine Kept.ite ?_ ?_
    · exact hs
    · extract_lets +onlyGivenNames y
      have hy : Kept s₀ y.2 := hs.waitSpend
      clear_value y
      exact hy.setTile.waitEv
  · exact hs

protected theorem Kept.waitExpires {t : Nat} (hs : Kept s₀ s) : Kept s₀ (waitExpires t s) := by
  unfold waitExpires
  split
  · extract_lets +onlyGivenNames y
    have hy : Kept s₀ y.2 := hs.waitSpend
    clear_value y
    exact Kept.ite hy.setTile.waitEv hy.setTile.waitEv.evT
  · exact hs

protected theorem Kept.timeoutJob {j : Job} {ends : Bool} (hs : Kept s₀ s) : Kept s₀ (timeoutJob s j ends) := by
  unfold timeoutJob
  extract_lets +onlyGivenNames s0
  have hs0 : Kept s₀ s0 := (Kept.ite (hs.upd rfl) hs)
  clear_value s0
  split
  · split
    · exact hs0.setCtx
    · exact hs0
  · exact hs0

protected theorem Kept.takeAbort {t : Nat} (hs : Kept s₀ s) : Kept s₀ (takeAbort s t) := by
  unfold takeAbort
  extract_lets +onlyGivenNames x s1 s2
  have hs1 : Kept s₀ s1 := hs.setTile
  clear_value s1
  have hs2 : Kept s₀ s2 := by
    unfold s2
    split
    · extract_lets +onlyGivenNames s2'
      have hs2' : Kept s₀ s2' := (Kept.ite hs1.timeoutJob hs1)
      clear_value s2'
      exact Kept.ite hs2'.loseJob hs2'
    · exact hs1
  clear_value s2
  exact hs2.tileFree.setEvt.evT.evT

protected theorem Kept.safePoint {t : Nat} (hs : Kept s₀ s) : Kept s₀ (safePoint t s) := by
  unfold safePoint
  extract_lets +onlyGivenNames x s'
  have hs' : Kept s₀ s' := (Kept.ite hs.arbTake hs)
  clear_value s'
  refine Kept.ite ?_ ?_
  · exact hs'.takeAbort
  · exact Kept.ite hs'.setTile.setEvt.evT (Kept.ite hs'.setTile.setEvt.evT hs'.setTile)

protected theorem Kept.opDone {t : Nat} (hs : Kept s₀ s) : Kept s₀ (opDone t s) := by
  unfold opDone
  extract_lets +onlyGivenNames x a
  split
  · exact hs.tileMchk
  · extract_lets +onlyGivenNames k y
    have hk : Kept s₀ k.2 := hs.fresh
    clear_value k
    refine Kept.ite ?_ ?_
    · extract_lets +onlyGivenNames z
      exact hk.setTile.setEvt
    · exact hk.setTile

protected theorem Kept.jobFails {j : Job} {st : Nat} (hs : Kept s₀ s) : Kept s₀ (jobFails s j st) := by
  unfold jobFails
  exact Kept.ite hs.withPic.loseJob hs.loseJob

protected theorem Kept.jobEndWord {t g : Nat} (hs : Kept s₀ s) : Kept s₀ (jobEndWord t g s) := by
  unfold jobEndWord
  extract_lets +onlyGivenNames s1
  have hs1 : Kept s₀ s1 := hs.setTile
  clear_value s1
  split
  · exact hs1.tileFree.setEvt.evT
  · extract_lets +onlyGivenNames st
    exact Kept.ite hs1.jobEnd hs1.jobFails.tileFree.setEvt.evT

protected theorem Kept.spTimeout {t : Nat} (hs : Kept s₀ s) : Kept s₀ (spTimeout t s) := by
  unfold spTimeout
  exact Kept.ite hs.tileMchk hs

protected theorem Kept.reachBudget {t b : Nat} (hs : Kept s₀ s) : Kept s₀ (reachBudget s t b) := by
  unfold reachBudget
  extract_lets +onlyGivenNames x
  split
  · extract_lets +onlyGivenNames n y
    have hy : Kept s₀ y.2 := hs.waitSpend
    clear_value y
    exact hy.setTile
  · exact hs

protected theorem Kept.budgetEnds {t : Nat} (hs : Kept s₀ s) : Kept s₀ (budgetEnds t s) := by
  unfold budgetEnds
  extract_lets +onlyGivenNames x room
  split
  · exact hs
  · refine Kept.ite ?_ ?_
    · exact hs
    · extract_lets +onlyGivenNames s1 y
      have hs1 : Kept s₀ s1 := hs.reachBudget
      clear_value s1
      exact Kept.ite hs1.setTile (Kept.ite hs1.tileMchk hs)

protected theorem Kept.machineCheck {t cause addr : Nat} (hs : Kept s₀ s) : Kept s₀ (machineCheck t cause addr s) := by
  unfold machineCheck
  exact Kept.ite hs.tileMchk hs

protected theorem Kept.tileDeny {t : Nat} (hs : Kept s₀ s) : Kept s₀ (tileDeny s t) := by
  unfold tileDeny
  exact hs.bump

protected theorem Kept.tileCmd {rq : Requester} {t : Nat} {op : State → State} (hs : Kept s₀ s)
    (hop : ∀ u, Kept s₀ u → Kept s₀ (op u)) :
    Kept s₀ (tileCmd rq t op s) := by
  unfold tileCmd
  exact Kept.ite hs (hs.regOp (fun _ hu => (Kept.ite (hop _ hu) hu.tileDeny)))

protected theorem Kept.preemptOp {t : Nat} (hs : Kept s₀ s) : Kept s₀ (preemptOp t s) := by
  unfold preemptOp
  extract_lets +onlyGivenNames x
  exact Kept.ite hs (Kept.ite hs.tileDeny hs.setTile)

protected theorem Kept.haltOp {t : Nat} (hs : Kept s₀ s) : Kept s₀ (haltOp t s) := by
  unfold haltOp
  extract_lets +onlyGivenNames x
  exact Kept.ite hs (Kept.ite hs.tileDeny hs.setTile)

protected theorem Kept.resumeOp {t : Nat} (hs : Kept s₀ s) : Kept s₀ (resumeOp t s) := by
  unfold resumeOp
  extract_lets +onlyGivenNames x
  refine Kept.ite ?_ ?_
  · exact hs.tileDeny
  · extract_lets +onlyGivenNames w0 w1 g
    exact hs.setTile

protected theorem Kept.stepOp {t : Nat} (hs : Kept s₀ s) : Kept s₀ (stepOp t s) := by
  unfold stepOp
  extract_lets +onlyGivenNames x
  exact Kept.ite hs.tileDeny hs.setTile

protected theorem Kept.retireOp {t : Nat} {perm : Bool} (hs : Kept s₀ s) : Kept s₀ (retireOp t perm s) := by
  unfold retireOp
  refine Kept.ite ?_ ?_
  · exact hs.tileDeny
  · extract_lets +onlyGivenNames s1 _ s2
    have hs1 : Kept s₀ s1 := (Kept.ite hs.tileDropJob hs)
    clear_value s1
    have hs2 : Kept s₀ s2 := hs1.setTile
    clear_value s2
    exact Kept.ite (hs2.upd rfl) hs2

protected theorem Kept.promoteOp {t : Nat} (hs : Kept s₀ s) : Kept s₀ (promoteOp t s) := by
  unfold promoteOp
  exact Kept.ite hs.setTile hs.tileDeny

protected theorem Kept.tsWord {t : Nat} (hs : Kept s₀ s) : Kept s₀ (tsWord s t).2 := by
  unfold tsWord
  extract_lets +onlyGivenNames a
  split
  · dsimp only
    exact hs
  · extract_lets +onlyGivenNames k
    have hk : Kept s₀ k.2 := hs.fresh
    clear_value k
    dsimp only
    exact hk

protected theorem Kept.tsRead {rq : Requester} {t : Nat} {hi : Bool} (hs : Kept s₀ s) : Kept s₀ (tsRead rq t hi s) := by
  unfold tsRead
  extract_lets +onlyGivenNames pg key
  refine Kept.ite ?_ ?_
  · exact hs.upd rfl
  · refine Kept.ite ?_ ?_
    · exact Kept.tileDeny (hs.upd rfl)
    · refine Kept.ite ?_ ?_
      · split
        · exact hs.upd rfl
        · extract_lets +onlyGivenNames w
          have hw : Kept s₀ w.2 := hs.tsWord
          clear_value w
          exact Kept.upd (s := w.2) hw rfl
      · extract_lets +onlyGivenNames w'
        have hw' : Kept s₀ w'.2 := hs.tsWord
        clear_value w'
        exact Kept.upd (s := w'.2) hw' rfl

/-! ### Resets -/

protected theorem Kept.drainHbm (hs : Kept s₀ s) : Kept s₀ (drainHbm s) := by
  unfold drainHbm
  exact hs.foldl fun _ _ hu => hu.drainPc

protected theorem Kept.mainReset {k : Nat} (hs : Kept s₀ s) : Kept s₀ (mainReset k s) := by
  refine ⟨hs.pending, fun f => ?_⟩
  obtain ⟨hm, hb, hc⟩ := hs.form f
  have hd : memWf (drainHbm s).hbm = true := (hs.drainHbm.form f).2.1
  refine ⟨hm, ?_, rfl, fun _ h => nomatch h⟩
  unfold mainReset
  simp only
  split
  · exact hd
  · rfl

protected theorem Kept.porOp (hs : Kept s₀ s) : Kept s₀ (porOp s) := by
  unfold porOp
  exact Kept.mainReset (hs.upd rfl)

protected theorem Kept.coldOp (hs : Kept s₀ s) : Kept s₀ (coldOp s) := by
  unfold coldOp
  exact Kept.ite hs.mainReset hs

protected theorem Kept.warmOp {cause : WarmCause} (hs : Kept s₀ s) : Kept s₀ (warmOp cause s) := by
  unfold warmOp
  refine Kept.ite ?_ ?_
  · exact hs
  · split
    · exact hs.regOp (fun _ hu => (Kept.ite hu hu.mainReset))
    · exact hs.mainReset
    · exact Kept.mainReset (hs.upd rfl)

protected theorem Kept.flrOp (hs : Kept s₀ s) : Kept s₀ (flrOp s) := by
  unfold flrOp
  exact Kept.ite hs (Kept.ite hs.bump hs.mainReset)

protected theorem Kept.cascadeReset (hs : Kept s₀ s) : Kept s₀ (cascadeReset s) := by
  unfold cascadeReset
  exact Kept.ite hs (Kept.ite hs.bump hs.mainReset)

protected theorem Kept.powerLoss (hs : Kept s₀ s) : Kept s₀ (powerLoss s) := by
  unfold powerLoss
  extract_lets +onlyGivenNames s1
  have hs1 : Kept s₀ s1 := hs.mainReset
  clear_value s1
  exact hs1.upd rfl

protected theorem Kept.clearRegs {page : Nat} {stays : Nat → Bool} (hs : Kept s₀ s) : Kept s₀ (clearRegs s page stays) := by
  unfold clearRegs
  exact hs.upd rfl

protected theorem Kept.hdrUp {page : Nat} (hs : Kept s₀ s) : Kept s₀ (hdrUp s page) := by
  unfold hdrUp
  exact hs.setHdr

protected theorem Kept.hdrReset {page : Nat} (hs : Kept s₀ s) : Kept s₀ (hdrReset s page) := by
  unfold hdrReset
  extract_lets +onlyGivenNames h
  exact hs.setHdr.tellPage

protected theorem Kept.tileReset {t : Nat} {wipe : Bool} (hs : Kept s₀ s) : Kept s₀ (tileReset s t wipe) := by
  unfold tileReset
  extract_lets +onlyGivenNames s1 s2
  have hs1 : Kept s₀ s1 := hs.tileDropJob.clearRegs.hdrReset
  clear_value s1
  have hs2 : Kept s₀ s2 := hs1.setTile
  clear_value s2
  exact Kept.ite (hs2.upd rfl) hs2

protected theorem Kept.schedReset (hs : Kept s₀ s) : Kept s₀ (schedReset s) := by
  unfold schedReset
  extract_lets +onlyGivenNames fl sv rg s1 stays
  have hs1 : Kept s₀ s1 := (hs.foldl fun _ _ hu => hu.dropUnits)
  clear_value s1
  exact Kept.finishGone (Kept.upd (s := clearRegs s1 schedPg stays) hs1.clearRegs rfl)

protected theorem Kept.engineReset {k : PageKind} {i page : Nat} (hs : Kept s₀ s) : Kept s₀ (engineReset s k i page) := by
  have hc : ∀ p, Kept s₀ (clearRegs s page p) := fun _ => hs.clearRegs
  unfold engineReset
  split
  · exact hs.tileReset
  · exact (hc fun _ => false).upd rfl
  · exact hs.schedReset
  · exact (hc fun _ => false).upd rfl
  · exact (hc fun _ => false).upd rfl
  · exact (hc fun _ => false).upd rfl
  · exact Kept.dmaChains (Kept.setDma ((hc fun _ => false).upd rfl))
  · exact (hc fun _ => false).upd rfl
  · exact (hc fun _ => false).upd rfl
  · exact (hc fun _ => false).upd rfl
  · have hu : Kept s₀ (sfLost s i) := hs.sfLost
    generalize sfLost s i = u at hu
    exact Kept.upd (s := clearRegs u page fun _ => false) hu.clearRegs rfl
  · exact (hc fun _ => false).filterHbm _ rfl
  · exact (hc fun _ => false).upd rfl
  · exact (hc fun _ => false).upd rfl
  · exact (hc fun _ => false).upd rfl
  · exact hc _
  · exact hc _

protected theorem Kept.blockResetOp {rq : Requester} {page : Nat} (hs : Kept s₀ s) : Kept s₀ (blockResetOp rq page s) := by
  unfold blockResetOp
  split
  · exact Kept.ite hs (Kept.ite hs.hostDeny hs.engineReset.hdrReset)
  · exact hs

protected theorem Kept.blockResetEnd {page : Nat} (hs : Kept s₀ s) : Kept s₀ (blockResetEnd page s) := by
  unfold blockResetEnd
  exact Kept.ite hs hs.hdrUp

protected theorem Kept.rstTileOp {rq : Requester} {n : Nat} {mask : BitVec 32} (hs : Kept s₀ s) :
    Kept s₀ (rstTileOp rq n mask s) := by
  unfold rstTileOp
  refine Kept.ite ?_ ?_
  · exact hs.bump
  · refine Kept.ite ?_ ?_
    · exact hs.hostDeny
    · refine Kept.ite ?_ ?_
      · exact hs
      · extract_lets +onlyGivenNames ts s1
        have hs1 : Kept s₀ s1 := (hs.foldl fun _ _ hu => hu.tileReset)
        clear_value s1
        exact hs1.upd rfl

protected theorem Kept.tileResetDone (hs : Kept s₀ s) : Kept s₀ (tileResetDone s) := by
  unfold tileResetDone
  refine Kept.ite ?_ ?_
  · exact hs
  · extract_lets +onlyGivenNames s1
    have hs1 : Kept s₀ s1 := (hs.foldl fun _ _ hu => hu.hdrUp)
    clear_value s1
    exact Kept.setEvt (hs1.upd rfl)

protected theorem Kept.tileAbort {t : Nat} (hs : Kept s₀ s) : Kept s₀ (tileAbort s t) := by
  unfold tileAbort
  extract_lets +onlyGivenNames x
  refine Kept.ite ?_ ?_
  · exact hs
  · extract_lets +onlyGivenNames s1
    have hs1 : Kept s₀ s1 := hs.setTile
    clear_value s1
    exact Kept.ite hs1 hs1.takeAbort

protected theorem Kept.pageAbortOp {page : Nat} {en qui : Bool} (hs : Kept s₀ s) : Kept s₀ (pageAbortOp page en qui s) := by
  unfold pageAbortOp
  extract_lets +onlyGivenNames s1
  have hs1 : Kept s₀ s1 := hs.pageEnable.pageQuiesce
  clear_value s1
  split
  · exact hs1.tileAbort
  · exact hs1.dmaAbort
  · exact hs1

protected theorem Kept.abortJobs {sel : Job → Bool} (hs : Kept s₀ s) : Kept s₀ (abortJobs s sel) := by
  unfold abortJobs
  refine hs.foldl fun _ _ hu => ?_
  split
  · exact hu.tileAbort
  · exact hu.loseJob

protected theorem Kept.abortPic {c : Nat} {p : Pic} (hs : Kept s₀ s) : Kept s₀ (abortPic s c p) := by
  unfold abortPic
  split
  · refine Kept.ite ?_ ?_
    · exact hs.setCtx.endPic
    · extract_lets +onlyGivenNames s1
      have hs1 : Kept s₀ s1 := (Kept.ite hs hs.withPic)
      clear_value s1
      exact hs1.abortJobs
  · exact hs

protected theorem Kept.abortCtx {c : Nat} {x : Ctx} (hs : Kept s₀ s) : Kept s₀ (abortCtx s c x) := by
  unfold abortCtx
  extract_lets +onlyGivenNames _ s1 s2 s3
  have hs1 : Kept s₀ s1 := (hs.setCtx.foldl fun _ _ hu => hu.finishSlot)
  clear_value s1
  have hs2 : Kept s₀ s2 := (hs1.foldl fun _ _ hu => hu.abortPic)
  clear_value s2
  have hs3 : Kept s₀ s3 := (Kept.ite hs2.abortJobs hs2)
  clear_value s3
  exact hs3.breakOwner

protected theorem Kept.queueAbort {q : Nat} (hs : Kept s₀ s) : Kept s₀ (queueAbort q s) := by
  unfold queueAbort
  extract_lets +onlyGivenNames x
  refine Kept.ite ?_ ?_
  · exact hs
  · extract_lets +onlyGivenNames s1
    have hs1 : Kept s₀ s1 := hs.queueAbortBase
    clear_value s1
    exact hs1.foldl fun _ _ hu => hu.abortCtx

/-! ### Boot and attestation -/

protected theorem Kept.extend {src i : Nat} {d : List Byte} (hs : Kept s₀ s) : Kept s₀ (extend src i d s) := by
  unfold extend
  extract_lets +onlyGivenNames b room
  exact Kept.setEvt (hs.upd rfl)

protected theorem Kept.loadTiles {prog cat patch : List Byte} (hs : Kept s₀ s) : Kept s₀ (loadTiles s prog cat patch) := by
  unfold loadTiles
  extract_lets +onlyGivenNames tpr par mtch pat crc on
  exact hs.foldl fun _ _ hu => hu.setTile.setHdr

protected theorem Kept.writeL24 (hs : Kept s₀ s) : Kept s₀ (writeL24 s) := by
  unfold writeL24
  extract_lets +onlyGivenNames l
  exact hs.setCar

protected theorem Kept.bootFifos (hs : Kept s₀ s) : Kept s₀ (bootFifos s) := by
  unfold bootFifos
  extract_lets +onlyGivenNames l
  exact hs.foldl fun _ _ hu => hu.setupFifo

protected theorem Kept.phyFails (hs : Kept s₀ s) : Kept s₀ (phyFails s) := by
  unfold phyFails
  extract_lets +onlyGivenNames f k s1
  have hf : Kept s₀ f.2 := hs.fresh
  clear_value f
  have hs1 : Kept s₀ s1 := (Kept.ite hf.raiseFault hf)
  clear_value s1
  exact Kept.ite hs1.raiseFault hs1

protected theorem Kept.hwInit {st : Nat} (hs : Kept s₀ s) : Kept s₀ (hwInit s st) := by
  unfold hwInit
  exact hs.upd rfl

protected theorem Kept.bootDone (hs : Kept s₀ s) : Kept s₀ (bootDone s) := by
  unfold bootDone
  extract_lets +onlyGivenNames n f ms _ _ _ _ _ s1
  have hf : Kept s₀ f.2 := hs.fresh
  clear_value f
  have hs1 : Kept s₀ s1 := (Kept.upd (s := if s.boot.source = 0 then f.2 else s) (Kept.ite hf hs) rfl)
  clear_value s1
  exact (Kept.ite hs1.emit hs1).setEvt

protected theorem Kept.relayBlock {block : List Byte} (hs : Kept s₀ s) : Kept s₀ (relayBlock s block) := by
  unfold relayBlock
  exact Kept.raiseFault (Kept.extend (hs.upd rfl))

protected theorem Kept.relayPend (hs : Kept s₀ s) : Kept s₀ (relayPend s) := by
  unfold relayPend
  extract_lets +onlyGivenNames l
  exact Kept.foldl (hs.upd rfl) fun _ _ hu => hu.relayBlock

protected theorem Kept.bootCopy {m : Media} {hbmTrains crcsEqual : Bool} (hs : Kept s₀ s) :
    Kept s₀ (bootCopy m hbmTrains crcsEqual s) := by
  unfold bootCopy
  extract_lets +onlyGivenNames h rma b dig ext bytes s1 s2 _ s3
  have hext : ∀ a0 a1 v, Kept s₀ v → Kept s₀ (ext a0 a1 v) := by
    intro a0 a1 v hu
    unfold ext
    split
    · exact hu.extend
    · exact hu
  have hs1 : Kept s₀ s1 := hs.extend
  clear_value s1
  have hs2 : Kept s₀ s2 := (hext _ _ _ (hext _ _ _ (hext _ _ _ (hext _ _ _ (hext _ _ _ hs1.extend)))))
  clear_value s2
  have hs3 : Kept s₀ s3 := (hs2.upd rfl)
  clear_value s3
  split
  · exact hs3.hwInit
  · extract_lets +onlyGivenNames s4
    have hs4 : Kept s₀ s4 := hs3.loadTiles
    clear_value s4
    refine Kept.ite ?_ ?_
    · exact hs4.hwInit
    · extract_lets +onlyGivenNames s5
      have hs5 : Kept s₀ s5 := hs4.writeL24
      clear_value s5
      refine Kept.ite ?_ ?_
      · exact hs5.phyFails.hwInit
      · extract_lets +onlyGivenNames s6
        have hs6 : Kept s₀ s6 := (hs5.upd rfl)
        clear_value s6
        exact hs6.bootFifos.extend.relayPend.bootDone

protected theorem Kept.recovery {err : Nat} (hs : Kept s₀ s) : Kept s₀ (recovery s err) := by
  unfold recovery
  exact hs.upd rfl

protected theorem Kept.romSense (hs : Kept s₀ s) : Kept s₀ (romSense s) := by
  unfold romSense
  extract_lets +onlyGivenNames life
  exact hs.upd rfl

protected theorem Kept.romInit (hs : Kept s₀ s) : Kept s₀ (romInit s) := by
  unfold romInit
  extract_lets +onlyGivenNames rec_
  exact Kept.extend (hs.upd rfl)

protected theorem Kept.rollback {result : Nat} (hs : Kept s₀ s) : Kept s₀ (rollback result s) := by
  unfold rollback
  exact Kept.ite hs.raiseFault hs

protected theorem Kept.bootOp {pllLocks hbmTrains crcsEqual : Bool} (hs : Kept s₀ s) :
    Kept s₀ (bootOp pllLocks hbmTrains crcsEqual s) := by
  unfold bootOp
  refine Kept.ite ?_ ?_
  · exact hs
  · refine Kept.ite ?_ ?_
    · exact hs.romSense.hwInit
    · extract_lets +onlyGivenNames s1
      have hs1 : Kept s₀ s1 := hs.romSense.romInit
      clear_value s1
      refine Kept.ite ?_ ?_
      · exact hs1.recovery
      · refine Kept.ite ?_ ?_
        · exact Kept.recovery (hs1.upd rfl)
        · extract_lets +onlyGivenNames rma a b c one _ s2 s3 s4
          have hs2 : Kept s₀ s2 := (hs1.upd rfl)
          clear_value s2
          have hs3 : Kept s₀ s3 := (Kept.ite hs2.raiseFault hs2)
          clear_value s3
          have hs4 : Kept s₀ s4 := hs3.rollback.rollback
          clear_value s4
          exact Kept.ite (Kept.recovery (hs4.upd rfl)) hs4.bootCopy

protected theorem Kept.bootDeny {code : Nat} (hs : Kept s₀ s) : Kept s₀ (bootDeny s code) := by
  unfold bootDeny
  exact Kept.bump (hs.upd rfl)

protected theorem Kept.bootEnd {code : Nat} (hs : Kept s₀ s) : Kept s₀ (bootEnd s code) := by
  unfold bootEnd
  exact Kept.setEvt (hs.upd rfl)

protected theorem Kept.bootCmd {rq : Requester} {may : Bool} {op : State → State} (hs : Kept s₀ s)
    (hop : ∀ u, Kept s₀ u → Kept s₀ (op u)) :
    Kept s₀ (bootCmd rq may op s) := by
  unfold bootCmd
  exact hs.regOp (fun _ hu => (Kept.ite hu.bootDeny (hop _ hu)))

protected theorem Kept.recLoadOp {dmaOk hbmTrains crcsEqual : Bool} (hs : Kept s₀ s) :
    Kept s₀ (recLoadOp dmaOk hbmTrains crcsEqual s) := by
  unfold recLoadOp
  refine Kept.ite ?_ ?_
  · exact hs.bootDeny
  · extract_lets +onlyGivenNames len m r _ s1
    have hs1 : Kept s₀ s1 := (Kept.rollback (Kept.bootEnd (Kept.setEvt (hs.upd rfl))))
    clear_value s1
    exact Kept.ite hs1 (Kept.bootCopy (hs1.upd rfl))

protected theorem Kept.mrExtendOp {mr : Nat} (hs : Kept s₀ s) : Kept s₀ (mrExtendOp mr s) := by
  unfold mrExtendOp
  exact Kept.ite hs.bootEnd hs.extend.bootEnd

protected theorem Kept.challengeOp (hs : Kept s₀ s) : Kept s₀ (challengeOp s) := by
  unfold challengeOp
  exact Kept.bootEnd (hs.upd rfl)

protected theorem Kept.submitOp (hs : Kept s₀ s) : Kept s₀ (submitOp s) := by
  unfold submitOp
  extract_lets +onlyGivenNames r _ s1
  have hs1 : Kept s₀ s1 := (hs.upd rfl)
  clear_value s1
  refine Kept.ite ?_ ?_
  · exact hs1.bootEnd
  · exact Kept.ite hs1.bootEnd (Kept.ite (Kept.bootEnd (hs1.upd rfl)) (Kept.bootEnd (hs1.upd rfl)))

protected theorem Kept.svnCommitOp {v : Nat} (hs : Kept s₀ s) : Kept s₀ (svnCommitOp v s) := by
  unfold svnCommitOp
  exact Kept.ite (Kept.bootEnd (hs.upd rfl)) hs.bootDeny

protected theorem Kept.mrSelOp {mr : Nat} (hs : Kept s₀ s) : Kept s₀ (mrSelOp mr s) := by
  unfold mrSelOp
  extract_lets +onlyGivenNames s1
  have hs1 : Kept s₀ s1 := hs.rputN
  clear_value s1
  exact hs1.upd rfl

protected theorem Kept.islRelay {block : List Byte} (hs : Kept s₀ s) : Kept s₀ (islRelay block s) := by
  unfold islRelay
  extract_lets +onlyGivenNames b
  exact Kept.ite hs (Kept.ite hs.relayBlock (Kept.ite (hs.upd rfl) (hs.upd rfl)))

protected theorem Kept.spdmErr {code : Nat} (hs : Kept s₀ s) : Kept s₀ (spdmErr code s).2.2 := by
  unfold spdmErr
  dsimp only
  exact hs

protected theorem Kept.spdm {f : State → String × List Byte × State} (hs : Kept s₀ s) (hf : ∀ u, Kept s₀ u → Kept s₀ (f u).2.2) :
    Kept s₀ (spdm f s) := by
  unfold spdm
  refine Kept.ite ?_ ?_
  · extract_lets +onlyGivenNames a r
    have ha : Kept s₀ a.2.2 := (hf _ hs)
    clear_value a
    have hr : Kept s₀ r.2.2 := by
      unfold r
      split
      · exact hs.spdmErr
      · exact ha
    clear_value r
    exact hr.emit
  · exact hs

protected theorem Kept.spdmNonce (hs : Kept s₀ s) : Kept s₀ (spdmNonce s).2 := by
  unfold spdmNonce
  dsimp only
  exact hs.upd rfl

protected theorem Kept.spdmVersion (hs : Kept s₀ s) : Kept s₀ (spdmVersion s).2.2 := by
  unfold spdmVersion
  dsimp only
  exact hs

protected theorem Kept.spdmCaps (hs : Kept s₀ s) : Kept s₀ (spdmCaps s).2.2 := by
  unfold spdmCaps
  extract_lets +onlyGivenNames f
  have hf : Kept s₀ f.2 := hs.fresh
  clear_value f
  dsimp only
  exact hf

protected theorem Kept.spdmAlgs {asym hash : Bool} (hs : Kept s₀ s) : Kept s₀ (spdmAlgs asym hash s).2.2 := by
  unfold spdmAlgs
  split
  · dsimp only
    exact hs
  · exact hs.spdmErr

protected theorem Kept.spdmDigests (hs : Kept s₀ s) : Kept s₀ (spdmDigests s).2.2 := by
  unfold spdmDigests
  dsimp only
  exact hs

protected theorem Kept.spdmCert {slot off len : Nat} (hs : Kept s₀ s) : Kept s₀ (spdmCert slot off len s).2.2 := by
  unfold spdmCert
  extract_lets +onlyGivenNames c
  split
  · exact hs.spdmErr
  · extract_lets +onlyGivenNames p
    dsimp only
    exact hs

protected theorem Kept.spdmChallenge {slot : Nat} {nonce : List Byte} (hs : Kept s₀ s) :
    Kept s₀ (spdmChallenge slot nonce s).2.2 := by
  unfold spdmChallenge
  split
  · exact hs.spdmErr
  · split
    · exact hs.spdmErr
    · extract_lets +onlyGivenNames n f b
      have hn : Kept s₀ n.2 := hs.spdmNonce
      clear_value n
      have hf : Kept s₀ f.2 := hn.fresh
      clear_value f
      dsimp only
      exact hf

protected theorem Kept.spdmMeas {index : Nat} {signed : Bool} {nonce : List Byte} (hs : Kept s₀ s) :
    Kept s₀ (spdmMeas index signed nonce s).2.2 := by
  unfold spdmMeas
  split
  · exact hs.spdmErr
  · split
    · exact hs.spdmErr
    · extract_lets +onlyGivenNames ix rec_ n b
      have hn : Kept s₀ n.2 := hs.spdmNonce
      clear_value n
      split
      · extract_lets +onlyGivenNames f
        have hf : Kept s₀ f.2 := hn.fresh
        clear_value f
        dsimp only
        exact hf
      · dsimp only
        exact hn

/-! ### Clocks -/

protected theorem Kept.rootPllLol (hs : Kept s₀ s) : Kept s₀ (rootPllLol s) := by
  unfold rootPllLol
  exact Kept.ite (Kept.raiseFault (hs.upd rfl)) hs

protected theorem Kept.refClockLoss {eth : Bool} (hs : Kept s₀ s) : Kept s₀ (refClockLoss eth s) := by
  unfold refClockLoss
  refine Kept.ite ?_ ?_
  · exact Kept.ite (Kept.raiseFault (Kept.ethDown (Kept.ethDown (hs.upd rfl)))) hs
  · exact Kept.ite (Kept.raiseFault (hs.upd rfl)) hs

protected theorem Kept.refClockReturn {eth : Bool} (hs : Kept s₀ s) : Kept s₀ (refClockReturn eth s) := by
  unfold refClockReturn
  exact Kept.ite (hs.upd rfl) (hs.upd rfl)

protected theorem Kept.clkWrite {rq : Requester} {off : Nat} {op : State → State} (hs : Kept s₀ s)
    (hop : ∀ u, Kept s₀ u → Kept s₀ (op u)) :
    Kept s₀ (clkWrite rq off op s) := by
  unfold clkWrite
  exact hs.regOp (fun _ hu => (Kept.ite (hop _ hu) hu.bump))

protected theorem Kept.dtAdj {ppb : BitVec 32} (hs : Kept s₀ s) : Kept s₀ (dtAdj ppb s) := by
  unfold dtAdj
  extract_lets +onlyGivenNames v s1
  have hs1 : Kept s₀ s1 := hs.rput
  clear_value s1
  exact hs1.upd rfl

protected theorem Kept.dtCmd {set : Bool} (hs : Kept s₀ s) : Kept s₀ (dtCmd set s) := by
  unfold dtCmd
  refine Kept.ite ?_ ?_
  · exact hs.bump
  · extract_lets +onlyGivenNames v
    exact hs.upd rfl

protected theorem Kept.carMoved {l : Nat} (hs : Kept s₀ s) : Kept s₀ (carMoved s l) := by
  unfold carMoved
  extract_lets +onlyGivenNames c
  split
  · exact Kept.ite hs.setCar.carListStart hs.setCar
  · exact hs.setCar

protected theorem Kept.retime (hs : Kept s₀ s) : Kept s₀ (retime s) := by
  unfold retime
  extract_lets +onlyGivenNames s1
  have hs1 : Kept s₀ s1 := by
    unfold s1
    refine hs.foldl fun _ _ hu => ?_
    extract_lets +onlyGivenNames x
    exact Kept.ite (hu.upd rfl) hu
  clear_value s1
  refine hs1.foldl fun _ _ hu => ?_
  extract_lets +onlyGivenNames x'
  exact Kept.ite hu.setSensor hu

protected theorem Kept.moveTime {ofs : ℤ} (hs : Kept s₀ s) : Kept s₀ (moveTime s ofs) := by
  unfold moveTime
  exact Kept.foldl (Kept.retime (hs.upd rfl)) fun _ _ hu => hu.carMoved

protected theorem Kept.slewTime {ofs : ℤ} (hs : Kept s₀ s) : Kept s₀ (slewTime s ofs) := by
  unfold slewTime
  exact hs.upd rfl

protected theorem Kept.dtCmdDone (hs : Kept s₀ s) : Kept s₀ (dtCmdDone s) := by
  unfold dtCmdDone
  split
  · exact hs
  · refine Kept.ite ?_ ?_
    · exact hs
    · extract_lets +onlyGivenNames _ s1 ofs
      have hs1 : Kept s₀ s1 := (hs.upd rfl)
      clear_value s1
      exact (Kept.ite hs1.slewTime hs1.moveTime).setEvt

protected theorem Kept.slewDone (hs : Kept s₀ s) : Kept s₀ (slewDone s) := by
  unfold slewDone
  exact Kept.ite (Kept.setEvt (hs.upd rfl)) hs

protected theorem Kept.cdcEvtOvf {id lost : Nat} (hs : Kept s₀ s) : Kept s₀ (cdcEvtOvf id lost s) := by
  unfold cdcEvtOvf
  extract_lets +onlyGivenNames k
  exact Kept.raiseFault (Kept.upd (s := bump s clkPg 0 284 lost) hs.bump rfl)

/-! ### The cascade -/

protected theorem Kept.withCasc {f : Casc → Casc} (hs : Kept s₀ s) : Kept s₀ (withCasc s f) := by
  unfold withCasc
  exact hs.upd rfl

protected theorem Kept.setRole {p role peer : Nat} (hs : Kept s₀ s) : Kept s₀ (setRole s p role peer) := by
  unfold setRole
  exact hs.setSf

protected theorem Kept.cascCmd {rq : Requester} {op : State → State} (hs : Kept s₀ s) (hop : ∀ u, Kept s₀ u → Kept s₀ (op u)) :
    Kept s₀ (cascCmd rq op s) := by
  unfold cascCmd
  exact hs.regOp (fun _ hu => (Kept.ite hu.bump (hop _ hu)))

protected theorem Kept.cascDone (hs : Kept s₀ s) : Kept s₀ (cascDone s) := by
  unfold cascDone
  exact hs.withCasc.setEvt

protected theorem Kept.addSpare {serial : Nat} (hs : Kept s₀ s) : Kept s₀ (addSpare s serial) := by
  unfold addSpare
  refine Kept.ite ?_ ?_
  · exact hs
  · split
    · exact hs.rput64
    · exact hs

protected theorem Kept.enumSend {port id depth : Nat} {spares : List Nat} (hs : Kept s₀ s) :
    Kept s₀ (enumSend s port id depth spares) := by
  unfold enumSend
  extract_lets +onlyGivenNames s1
  have hs1 : Kept s₀ s1 := hs.setRole
  clear_value s1
  exact hs1.withCasc.sendMgmt

protected theorem Kept.enumNext {n : Nat} (hs : Kept s₀ s) : Kept s₀ (enumNext n s) := by
  induction n generalizing s with
  | zero => exact hs.cascDone
  | succ n ih =>
    unfold enumNext
    simp only
    split
    · exact hs.withCasc.cascDone
    · exact Kept.ite (Kept.ite hs.withCasc.enumSend (ih hs.withCasc)) hs.withCasc.withCasc.mgmtTo

protected theorem Kept.enumerateOp (hs : Kept s₀ s) : Kept s₀ (enumerateOp s) := by
  unfold enumerateOp
  extract_lets +onlyGivenNames s1 ports
  have hs1 : Kept s₀ s1 := (hs.foldl fun _ _ hu => hu.setRole)
  clear_value s1
  exact hs1.withCasc.enumNext

protected theorem Kept.enumOp {port id depth parent via : Nat} {spares : List Nat} (hs : Kept s₀ s) :
    Kept s₀ (enumOp port id depth parent via spares s) := by
  unfold enumOp
  refine Kept.ite ?_ ?_
  · exact hs
  · refine Kept.ite ?_ ?_
    · refine Kept.ite ?_ ?_
      · exact hs
      · refine Kept.ite ?_ ?_
        · exact Kept.ite hs.enumSend hs
        · split
          · exact hs.withCasc.sendMgmt
          · exact hs
    · refine Kept.ite ?_ ?_
      · refine Kept.ite ?_ ?_
        · extract_lets +onlyGivenNames s1
          have hs1 : Kept s₀ s1 := hs.withCasc.setRole
          clear_value s1
          exact hs1.setSf.sendMgmt
        · exact hs.withCasc.sendMgmt
      · exact hs.setRole.sendMgmt

protected theorem Kept.enumTake {serial dev : Nat} {standby : Bool} {ports : List Nat} (hs : Kept s₀ s) :
    Kept s₀ (enumTake serial dev standby ports s) := by
  unfold enumTake
  split
  · exact hs
  · extract_lets +onlyGivenNames a s1
    have ha : Kept s₀ a := (Kept.ite hs.addSpare hs)
    clear_value a
    have hs1 : Kept s₀ s1 := by
      unfold s1
      exact Kept.ite hs.withCasc (Kept.ite (Kept.ite hs hs.bump.withCasc) ha.withCasc)
    clear_value s1
    exact hs1.withCasc.enumNext

protected theorem Kept.enumReplyOp {port serial dev : Nat} {standby : Bool} {ports : List Nat} (hs : Kept s₀ s) :
    Kept s₀ (enumReplyOp port serial dev standby ports s) := by
  unfold enumReplyOp
  refine Kept.ite ?_ ?_
  · exact hs
  · extract_lets +onlyGivenNames s1
    have hs1 : Kept s₀ s1 := (Kept.ite hs.setRole hs)
    clear_value s1
    refine Kept.ite ?_ ?_
    · exact hs1.enumTake
    · split
      · exact hs1.sendMgmt
      · exact hs1

protected theorem Kept.syncReqTimer (hs : Kept s₀ s) : Kept s₀ (syncReqTimer s) := by
  unfold syncReqTimer
  split
  · exact hs
  · extract_lets +onlyGivenNames m a s1
    have ha : Kept s₀ a := hs.withCasc
    clear_value a
    have hs1 : Kept s₀ s1 := (Kept.ite (Kept.ite ha.raiseFault ha) hs)
    clear_value s1
    exact hs1.withCasc.sendPlain

protected theorem Kept.syncReqOp {port t1 : Nat} (hs : Kept s₀ s) : Kept s₀ (syncReqOp port t1 s) := by
  unfold syncReqOp
  exact Kept.ite hs hs.sendPlain

protected theorem Kept.syncCorrect {o : ℤ} (hs : Kept s₀ s) : Kept s₀ (syncCorrect s o) := by
  unfold syncCorrect
  refine Kept.ite ?_ ?_
  · extract_lets +onlyGivenNames _ s1
    have hs1 : Kept s₀ s1 := (hs.upd rfl)
    clear_value s1
    exact Kept.ite hs1.slewTime hs1.moveTime
  · exact hs.upd rfl

protected theorem Kept.syncRspOp {port t1 t2 t3 : Nat} (hs : Kept s₀ s) : Kept s₀ (syncRspOp port t1 t2 t3 s) := by
  unfold syncRspOp
  refine Kept.ite ?_ ?_
  · exact hs
  · extract_lets +onlyGivenNames o
    exact hs.withCasc.syncCorrect

protected theorem Kept.heartbeatTimer (hs : Kept s₀ s) : Kept s₀ (heartbeatTimer s) := by
  unfold heartbeatTimer
  refine Kept.ite ?_ ?_
  · exact hs
  · extract_lets +onlyGivenNames s' s1 b
    have hs' : Kept s₀ s' := hs.lostPeriods
    clear_value s'
    have hs1 : Kept s₀ s1 := hs'.withCasc
    clear_value s1
    refine Kept.ite ?_ ?_
    · exact hs1.foldl fun _ _ hu => hu.sendPlain
    · split
      · exact hs1.sendPlain
      · exact hs1

protected theorem Kept.heartbeatOp {port dev count : Nat} {status : BitVec 32} {epoch : BitVec 8} (hs : Kept s₀ s) :
    Kept s₀ (heartbeatOp port dev count status epoch s) := by
  unfold heartbeatOp
  refine Kept.ite ?_ ?_
  · exact hs
  · refine Kept.ite ?_ ?_
    · exact hs.epochDrop
    · refine Kept.ite ?_ ?_
      · exact hs
      · extract_lets +onlyGivenNames b
        refine Kept.ite ?_ ?_
        · exact Kept.ite hs (hs.withCasc.foldl fun _ _ hu => hu.sendPlain)
        · extract_lets +onlyGivenNames _ s1 s2
          have hs1 : Kept s₀ s1 := (Kept.ite hs.setSf hs)
          clear_value s1
          have hs2 : Kept s₀ s2 := hs1.withCasc
          clear_value s2
          refine Kept.ite ?_ ?_
          · exact hs2
          · split
            · exact hs2.sendPlain
            · exact hs2

protected theorem Kept.masterLostOp (hs : Kept s₀ s) : Kept s₀ (masterLostOp s) := by
  unfold masterLostOp
  refine Kept.ite ?_ ?_
  · exact hs
  · extract_lets +onlyGivenNames s1
    have hs1 : Kept s₀ s1 := hs.withCasc.raiseFault
    clear_value s1
    exact hs1.markCtxs.loseAll

protected theorem Kept.takeEpoch {epoch : BitVec 8} {dead : List Nat} (hs : Kept s₀ s) : Kept s₀ (takeEpoch epoch dead s) := by
  unfold takeEpoch
  extract_lets +onlyGivenNames s1 s2
  have hs1 : Kept s₀ s1 := hs.withCasc
  clear_value s1
  have hs2 : Kept s₀ s2 := by
    unfold s2
    refine hs1.foldl fun _ _ hu => ?_
    extract_lets +onlyGivenNames x
    exact Kept.ite hu.setSf (Kept.ite hu.setSf hu)
  clear_value s2
  exact hs2.loseAll.setEvt

protected theorem Kept.forwardEpoch {dead : List Nat} {but : Option Nat} (hs : Kept s₀ s) : Kept s₀ (forwardEpoch s dead but) := by
  unfold forwardEpoch
  exact hs.foldl fun _ _ hu => (hu.foldl fun _ _ hv => hv.sendMgmt)

protected theorem Kept.epochOp {port : Nat} {epoch : BitVec 8} {dead : List Nat} (hs : Kept s₀ s) :
    Kept s₀ (epochOp port epoch dead s) := by
  unfold epochOp
  exact Kept.ite hs hs.takeEpoch.forwardEpoch

protected theorem Kept.fenceOp {port dev : Nat} (hs : Kept s₀ s) : Kept s₀ (fenceOp port dev s) := by
  unfold fenceOp
  exact Kept.ite hs hs.withCasc.raiseFault.cascadeReset

protected theorem Kept.fenceRepeat {p : Nat} (hs : Kept s₀ s) : Kept s₀ (fenceRepeat p s) := by
  unfold fenceRepeat
  extract_lets +onlyGivenNames x
  exact Kept.ite hs.sendFence hs

protected theorem Kept.memberAdmit {stream i home : Nat} {plan b : List Byte} (hs : Kept s₀ s) :
    Kept s₀ (memberAdmit s stream i home plan b).1 := by
  unfold memberAdmit
  extract_lets +onlyGivenNames own
  split
  · dsimp only
    exact hs
  · extract_lets +onlyGivenNames d r
    have hd : Kept s₀ d.1 := hs.decide_
    clear_value d
    split
    · extract_lets +onlyGivenNames c s1
      have hs1 : Kept s₀ s1 := hd.withCasc
      clear_value s1
      split
      · exact hs1.setCtx
      · exact hs1
    · dsimp only
      exact Kept.ite hd.bump hd

protected theorem Kept.homeAdmit {stream : Nat} {plan b : List Byte} (hs : Kept s₀ s) :
    Kept s₀ (homeAdmit s stream plan b).1 := by
  unfold homeAdmit
  split
  · exact hs
  · extract_lets +onlyGivenNames pt ge fl rsv mw cap term
    split
    · exact hs
    · exact hs
    · rename_i c place _ _
      split
      · exact hs
      split
      · exact hs
      split
      · exact hs
      split
      · exact hs
      split
      · exact hs
      extract_lets +onlyGivenNames f blk x _ _ s1 s2 s3 _ s4 h
      have hs1 : Kept s₀ s1 := Kept.upd (s := setCtx s c x) hs.setCtx rfl
      clear_value s1
      have hs4 : Kept s₀ s4 := (hs1.grantFlow.setupFifo (s := s2)).setQ
      clear_value s4
      dsimp only
      exact hs4.withCasc

protected theorem Kept.hopAdmit {stream key home : Nat} {plan b : List Byte} (hs : Kept s₀ s) :
    Kept s₀ (hopAdmit s stream key home plan b).1 := by
  unfold hopAdmit
  extract_lets +onlyGivenNames rate
  split
  · dsimp only
    exact hs
  · split
    · dsimp only
      exact hs
    · dsimp only
      exact hs.withCasc

protected theorem Kept.withdraw {stream member : Nat} (hs : Kept s₀ s) : Kept s₀ (withdraw s stream member) := by
  unfold withdraw
  refine Kept.ite ?_ ?_
  · exact hs.withCasc
  · refine Kept.ite ?_ ?_
    · split
      · exact hs.setHome.homeLeave
      · exact hs
    · split
      · split
        · exact Kept.ite hs.releaseCtx hs
        · exact hs
      · exact hs

protected theorem Kept.mgmtAdmitCore {stream member : Nat} {op : MgmtOp} {plan b : List Byte} (hs : Kept s₀ s) :
    Kept s₀ (mgmtAdmitCore s stream member op plan b).1 := by
  unfold mgmtAdmitCore
  split
  · extract_lets +onlyGivenNames r
    have hr : Kept s₀ r.1 := hs.memberAdmit
    clear_value r
    dsimp only
    exact hr
  · extract_lets +onlyGivenNames r'
    have hr' : Kept s₀ r'.1 := hs.homeAdmit
    clear_value r'
    dsimp only
    exact hr'
  · dsimp only
    exact hs.withdraw
  · refine ?_
    split
    · extract_lets +onlyGivenNames m
      exact hs.setHome
    · exact hs
  · extract_lets +onlyGivenNames r''
    have hr'' : Kept s₀ r''.1 := hs.hopAdmit
    clear_value r''
    dsimp only
    exact hr''

protected theorem Kept.mgmtAdmitOp {stream member : Nat} {op : MgmtOp} {plan b : List Byte} (hs : Kept s₀ s) :
    Kept s₀ (mgmtAdmitOp stream member op plan b s) := by
  unfold mgmtAdmitOp
  extract_lets +onlyGivenNames r
  have hr : Kept s₀ r.1 := hs.mgmtAdmitCore
  clear_value r
  split
  · exact hr.mgmtTo
  · exact hr

protected theorem Kept.setStream {x : CascStream} (hs : Kept s₀ s) : Kept s₀ (setStream s x) := by
  unfold setStream
  exact hs.withCasc

protected theorem Kept.placeReply {x : CascStream} {i : Nat} {reply : List Byte} (hs : Kept s₀ s) :
    Kept s₀ (placeReply s x i reply) := by
  unfold placeReply
  refine Kept.ite ?_ ?_
  · exact hs.setStream
  · extract_lets +onlyGivenNames s1
    have hs1 : Kept s₀ s1 := hs.setStream
    clear_value s1
    exact Kept.ite hs1 (Kept.ite hs1.mgmtAdmitCore hs1.mgmtTo)

protected theorem Kept.askDev {stream i : Nat} {op : MgmtOp} (hs : Kept s₀ s) : Kept s₀ (askDev s stream i op) := by
  unfold askDev
  split
  · exact hs
  · extract_lets +onlyGivenNames b
    refine Kept.ite ?_ ?_
    · extract_lets +onlyGivenNames r
      have hr : Kept s₀ r.1 := hs.mgmtAdmitCore
      clear_value r
      split
      · exact Kept.ite hr.placeReply hr.setStream
      · exact hr
    · exact hs.mgmtTo

protected theorem Kept.cascReply {b : List Byte} (hs : Kept s₀ s) : Kept s₀ (cascReply s b) := by
  unfold cascReply
  exact hs.memWrite.cascDone

protected theorem Kept.dropStream {x : CascStream} (hs : Kept s₀ s) : Kept s₀ (dropStream s x) := by
  unfold dropStream
  extract_lets +onlyGivenNames s1
  have hs1 : Kept s₀ s1 := (hs.foldl fun _ _ hu => hu.askDev)
  clear_value s1
  exact hs1.withCasc

protected theorem Kept.cascRefuse {x : CascStream} {reply : List Byte} {dev : Nat} (hs : Kept s₀ s) :
    Kept s₀ (cascRefuse s x reply dev) := by
  unfold cascRefuse
  exact hs.dropStream.cascReply

protected theorem Kept.cascInvalid {off : Nat} (hs : Kept s₀ s) : Kept s₀ (cascInvalid s off) := by
  unfold cascInvalid
  exact hs.cascReply

protected theorem Kept.cascFinish {x : CascStream} {home : List Byte} (hs : Kept s₀ s) : Kept s₀ (cascFinish s x home) := by
  unfold cascFinish
  refine Kept.ite ?_ ?_
  · exact hs.cascRefuse
  · extract_lets +onlyGivenNames d req
    refine Kept.ite ?_ ?_
    · exact hs.cascRefuse
    · extract_lets +onlyGivenNames first r
      exact hs.setStream.cascReply

protected theorem Kept.cascAdvance {id : Nat} (hs : Kept s₀ s) : Kept s₀ (cascAdvance s id) := by
  unfold cascAdvance
  split
  · exact hs
  · extract_lets +onlyGivenNames ds
    refine Kept.ite ?_ ?_
    · split
      · exact hs.cascRefuse
      · extract_lets +onlyGivenNames s1
        have hs1 : Kept s₀ s1 := hs.setStream.askDev
        clear_value s1
        split
        · split
          · exact hs1.cascFinish
          · exact hs1
        · exact hs1
    · refine Kept.ite ?_ ?_
      · split
        · exact hs.cascFinish
        · exact hs
      · exact hs

protected theorem Kept.cascAdmitOp (hs : Kept s₀ s) : Kept s₀ (cascAdmitOp s) := by
  unfold cascAdmitOp
  extract_lets +onlyGivenNames r
  refine Kept.ite ?_ ?_
  · exact hs.cascInvalid
  · extract_lets +onlyGivenNames plan b
    split
    · exact hs.cascInvalid
    · refine Kept.ite ?_ ?_
      · exact hs.cascInvalid
      · split
        · exact hs.cascInvalid
        · extract_lets +onlyGivenNames id devs x s1 s2
          have hs1 : Kept s₀ s1 := hs.withCasc
          clear_value s1
          have hs2 : Kept s₀ s2 := (hs1.foldl fun _ _ hu => hu.askDev)
          clear_value s2
          exact (hs2.foldl fun _ _ hu => hu.askDev).cascAdvance

protected theorem Kept.admitReplyOp {stream member : Nat} {reply : List Byte} (hs : Kept s₀ s) :
    Kept s₀ (admitReplyOp stream member reply s) := by
  unfold admitReplyOp
  split
  · exact hs
  · exact Kept.ite hs (Kept.ite hs.placeReply hs.setStream.cascAdvance)

protected theorem Kept.cascReleaseOp {ctx : Nat} (hs : Kept s₀ s) : Kept s₀ (cascReleaseOp ctx s) := by
  unfold cascReleaseOp
  split
  · exact hs.dropStream.cascDone
  · exact hs.cascDone

protected theorem Kept.resetDeviceOp {target : Nat} (hs : Kept s₀ s) : Kept s₀ (resetDeviceOp target s) := by
  unfold resetDeviceOp
  exact Kept.ite hs.cascadeReset hs.breakSems.mgmtTo.cascDone

protected theorem Kept.budgetOp {ctx frame bytes target : Nat} (hs : Kept s₀ s) : Kept s₀ (budgetOp ctx frame bytes target s) := by
  unfold budgetOp
  split
  · exact Kept.ite hs.setCtx hs
  · exact hs

protected theorem Kept.promote {d : Nat} {e : Nat × Nat} (hs : Kept s₀ s) : Kept s₀ (promote d s e) := by
  unfold promote
  split
  · exact hs
  · extract_lets +onlyGivenNames home mine s1 new s2
    have hs1 : Kept s₀ s1 := (hs.foldl fun _ _ hu => hu.askDev)
    clear_value s1
    have hs2 : Kept s₀ s2 := hs1.setStream
    clear_value s2
    exact hs2.askDev.foldl fun _ _ hu => hu.askDev

protected theorem Kept.promoteAll {places : List (Nat × Nat)} (hs : Kept s₀ s) : Kept s₀ (promoteAll s places) := by
  unfold promoteAll
  refine Kept.ite ?_ ?_
  · exact hs
  · split
    · refine hs.foldl fun _ _ hu => ?_
      split
      · exact hu.setStream
      · exact hu
    · exact hs.rput64.foldl fun _ _ hu => hu.promote

protected theorem Kept.deviceDead {dev : Nat} (hs : Kept s₀ s) : Kept s₀ (deviceDead dev s) := by
  unfold deviceDead
  split
  · exact hs
  · refine Kept.ite ?_ ?_
    · exact hs
    · extract_lets +onlyGivenNames r dead s1 s2 s3 s4
      have hs1 : Kept s₀ s1 := hs.withCasc.bump
      clear_value s1
      have hs2 : Kept s₀ s2 := hs1.takeEpoch.breakSems
      clear_value s2
      have hs3 : Kept s₀ s3 := hs2.forwardEpoch.raiseFault
      clear_value s3
      have hs4 : Kept s₀ s4 := (hs3.foldl fun _ _ hu => hu.cascRefuse)
      clear_value s4
      exact hs4.foldl fun _ _ hu => hu.promoteAll

protected theorem Kept.semResult {granted broken : Bool} {owner dev : Nat} (hs : Kept s₀ s) :
    Kept s₀ (semResult granted broken owner dev s) := by
  unfold semResult
  exact hs.withCasc.setEvt

protected theorem Kept.semDecide {op dev owner sem : Nat} (hs : Kept s₀ s) : Kept s₀ (semDecide s op dev owner sem).1 := by
  unfold semDecide
  split
  · dsimp only
    exact hs.breakSems
  · extract_lets +onlyGivenNames r
    dsimp only
    exact hs.withCasc

protected theorem Kept.semAsk {op owner sem : Nat} (hs : Kept s₀ s) : Kept s₀ (semAsk op owner sem s) := by
  unfold semAsk
  extract_lets +onlyGivenNames s1
  have hs1 : Kept s₀ s1 := hs.withCasc
  clear_value s1
  refine Kept.ite ?_ ?_
  · extract_lets +onlyGivenNames r
    have hr : Kept s₀ r.1 := hs1.semDecide
    clear_value r
    exact hr.semResult
  · exact hs1.mgmtTo

protected theorem Kept.semForce {rq : Requester} {sem : Nat} (hs : Kept s₀ s) : Kept s₀ (semForce rq sem s) := by
  unfold semForce
  exact Kept.ite hs.semAsk hs

protected theorem Kept.semReqOp {dev op owner sem : Nat} (hs : Kept s₀ s) : Kept s₀ (semReqOp dev op owner sem s) := by
  unfold semReqOp
  refine Kept.ite ?_ ?_
  · exact hs
  · extract_lets +onlyGivenNames r
    have hr : Kept s₀ r.1 := hs.semDecide
    clear_value r
    exact Kept.ite hr hr.mgmtTo

protected theorem Kept.xanswer {dev tag code addr : Nat} (hs : Kept s₀ s) : Kept s₀ (xanswer s dev tag code addr) := by
  unfold xanswer
  exact hs.mgmtTo

protected theorem Kept.xreqOp {dev tag issued owner p : Nat} (hs : Kept s₀ s) : Kept s₀ (xreqOp dev tag issued owner p s) := by
  unfold xreqOp
  extract_lets +onlyGivenNames x
  refine Kept.ite ?_ ?_
  · exact hs.xanswer
  · refine Kept.ite ?_ ?_
    · exact hs.xanswer
    · split
      · exact hs.setPool.evG.xanswer
      · exact Kept.ite hs.setPool.xreqContend hs.evG.xanswer

protected theorem Kept.xreplyOp {tag code addr : Nat} (hs : Kept s₀ s) : Kept s₀ (xreplyOp tag code addr s) := by
  unfold xreplyOp
  exact hs.withCasc

protected theorem Kept.xreqTimeoutOp {dev tag : Nat} (hs : Kept s₀ s) : Kept s₀ (xreqTimeoutOp dev tag s) := by
  unfold xreqTimeoutOp
  extract_lets +onlyGivenNames tmo mine
  split
  · exact hs.setPool.evG.xanswer.bump
  · exact hs

/-! ### The Crier -/

protected theorem Kept.faultRaise {page src info : Nat} (hs : Kept s₀ s) : Kept s₀ (faultRaise page src info s) := by
  unfold faultRaise
  exact Kept.ite hs hs.raiseFault

protected theorem Kept.fltHb {rq : Requester} (hs : Kept s₀ s) : Kept s₀ (fltHb rq s) := by
  unfold fltHb
  split
  · exact hs.upd rfl
  · exact hs.hostDeny
  · exact hs

protected theorem Kept.hbMiss {n : Nat} (hs : Kept s₀ s) : Kept s₀ (hbMiss n s) := by
  unfold hbMiss
  exact Kept.ite (Kept.setEvt (Kept.raiseFault (hs.upd rfl))) hs

protected theorem Kept.bellToggle (hs : Kept s₀ s) : Kept s₀ (bellToggle s) := by
  unfold bellToggle
  exact Kept.ite hs (hs.upd rfl)

protected theorem Kept.crierTake {rq : Requester} {n : Nat} (hs : Kept s₀ s) : Kept s₀ (crierTake rq n s) := by
  unfold crierTake
  split
  · extract_lets +onlyGivenNames ok s1
    have hs1 : Kept s₀ s1 := (hs.upd rfl)
    clear_value s1
    exact Kept.ite hs1.setSrc.evG hs1
  · exact hs.hostDeny
  · exact hs

protected theorem Kept.crierDone {rq : Requester} {n : Nat} (hs : Kept s₀ s) : Kept s₀ (crierDone rq n s) := by
  unfold crierDone
  split
  · extract_lets +onlyGivenNames c
    refine Kept.ite ?_ ?_
    · exact hs.bump
    · extract_lets +onlyGivenNames s1
      have hs1 : Kept s₀ s1 := hs.setSrc
      clear_value s1
      exact Kept.ite hs1.setLevel hs1
  · exact hs.hostDeny
  · exact hs

protected theorem Kept.crierSoft {n : Nat} {l : Bool} (hs : Kept s₀ s) : Kept s₀ (crierSoft n l s) := by
  unfold crierSoft
  exact Kept.ite hs.setLevel hs

/-! ### Debug -/

protected theorem Kept.smpLost {t n : Nat} (hs : Kept s₀ s) : Kept s₀ (smpLost s t n) := by
  unfold smpLost
  exact Kept.ite hs hs.bump

protected theorem Kept.smpPut {t : Nat} {e : List U32} (hs : Kept s₀ s) : Kept s₀ (smpPut s t e) := by
  unfold smpPut
  extract_lets +onlyGivenNames x
  refine Kept.ite ?_ ?_
  · exact hs.smpLost
  · extract_lets +onlyGivenNames w s1
    have hs1 : Kept s₀ s1 := (hs.upd rfl)
    clear_value s1
    exact Kept.ite hs1.setEvt hs1

protected theorem Kept.samplePeriod {t endKind latency since extra : Nat} (hs : Kept s₀ s) :
    Kept s₀ (samplePeriod t endKind latency since extra s) := by
  unfold samplePeriod
  exact Kept.ite hs.smpPut.smpLost hs

protected theorem Kept.tmuxWrite {v : BitVec 32} (hs : Kept s₀ s) : Kept s₀ (tmuxWrite v s) := by
  unfold tmuxWrite
  exact Kept.ite hs.rput hs.bump

protected theorem Kept.tapLoad {i : Nat} (hs : Kept s₀ s) : Kept s₀ (tapLoad i s) := by
  unfold tapLoad
  refine Kept.ite ?_ ?_
  · exact hs
  · extract_lets +onlyGivenNames r _ s1
    have hr : Kept s₀ r := hs.mainReset
    clear_value r
    have hs1 : Kept s₀ s1 := (Kept.ite hs (Kept.ite (hr.upd rfl) hr))
    clear_value s1
    exact hs1.upd rfl

protected theorem Kept.tapCells {i : Nat} {c : List Bool} (hs : Kept s₀ s) : Kept s₀ (tapCells i c s) := by
  unfold tapCells
  refine Kept.ite ?_ ?_
  · exact hs
  · extract_lets +onlyGivenNames s1
    have hs1 : Kept s₀ s1 := hs.tapLoad
    clear_value s1
    exact hs1.upd rfl

/-! ### Encode entries -/

protected theorem Kept.encodeOp {q : Nat} (hs : Kept s₀ s) : Kept s₀ (encodeOp q s) := by
  unfold encodeOp
  split
  · exact hs
  · next _ _ t heq =>
      have ht : Kept s₀ t := hs.takeStarted heq
      refine Kept.ite ?_ ?_
      · exact hs
      · refine Kept.ite ?_ ?_
        · exact ht.finishSlot
        · split
          · exact ht
          · exact Kept.ite ht.finishSlot ht.setCtx

protected theorem Kept.encodeStart {c : Nat} (hs : Kept s₀ s) : Kept s₀ (encodeStart c s) := by
  unfold encodeStart
  split
  · exact hs
  · split
    · exact hs
    · refine Kept.ite ?_ ?_
      · exact hs
      · extract_lets +onlyGivenNames x _ p
        exact Kept.setCtx (hs.upd rfl)

protected theorem Kept.readEffects {b e : List Byte} (hs : Kept s₀ s) : Kept s₀ (readEffects s b e) := by
  unfold readEffects
  exact hs.foldl fun _ _ hu => (hu.foldl fun _ _ hv => hv.readLoc)

protected theorem Kept.encodeInputDone {c : Nat} (hs : Kept s₀ s) : Kept s₀ (encodeInputDone c s) := by
  unfold encodeInputDone
  split
  · exact hs
  · split
    · exact hs
    · extract_lets +onlyGivenNames r s' y
      have hs' : Kept s₀ s' := hs.readEffects
      clear_value s'
      refine Kept.ite ?_ ?_
      · exact Kept.endPic (Kept.upd (s := setCtx s' c y) hs'.setCtx rfl)
      · extract_lets +onlyGivenNames s1
        have hs1 : Kept s₀ s1 := hs'.setCtx
        clear_value s1
        exact Kept.ite hs1.slotLimit hs1

protected theorem Kept.slotCt {slot c : Nat} {x : Ctx} (hs : Kept s₀ s) : Kept s₀ (slotCt s slot c x) := by
  unfold slotCt
  split
  · extract_lets +onlyGivenNames fl
    exact hs.boothPut
  · exact hs

protected theorem Kept.saveRec {c : Nat} (hs : Kept s₀ s) : Kept s₀ (saveRec s c) := by
  unfold saveRec
  split
  · exact Kept.ite (hs.upd rfl) hs
  · exact hs

protected theorem Kept.loadRec {c : Nat} (hs : Kept s₀ s) : Kept s₀ (loadRec s c) := by
  unfold loadRec
  split
  · exact hs.setCtx
  · exact hs

protected theorem Kept.slotSwitch {slot c : Nat} (hs : Kept s₀ s) : Kept s₀ (slotSwitch s slot c) := by
  unfold slotSwitch
  refine Kept.ite ?_ ?_
  · exact hs
  · extract_lets +onlyGivenNames s1
    have hs1 : Kept s₀ s1 := (hs.foldl fun _ _ hu => hu.saveRec)
    clear_value s1
    exact Kept.loadRec (hs1.upd rfl)

protected theorem Kept.dropRec {c : Nat} (hs : Kept s₀ s) : Kept s₀ (dropRec s c) := by
  unfold dropRec
  exact hs.upd rfl

protected theorem Kept.bulkSlotTake {slot : Nat} (hs : Kept s₀ s) : Kept s₀ (bulkSlotTake slot s) := by
  unfold bulkSlotTake
  refine Kept.ite ?_ ?_
  · exact hs
  · split
    · exact hs
    · extract_lets +onlyGivenNames s'
      have hs' : Kept s₀ s' := hs.slotSwitch
      clear_value s'
      split
      · exact hs'
      · refine Kept.ite ?_ ?_
        · exact hs'.decStart
        · split
          · exact hs'
          · refine Kept.ite ?_ ?_
            · exact hs'.setCtx.finishSlot
            · extract_lets +onlyGivenNames _ p s1
              have hs1 : Kept s₀ s1 := hs'.slotCt
              clear_value s1
              exact Kept.setCtx (hs1.upd rfl)

protected theorem Kept.encConfig {q : Nat} (hs : Kept s₀ s) : Kept s₀ (encConfig q s) := by
  unfold encConfig
  split
  · exact hs
  · next _ _ t heq =>
      have ht : Kept s₀ t := hs.takeStarted heq
      extract_lets +onlyGivenNames bad
      have hbad : Kept s₀ bad := ht.finishSlot
      clear_value bad
      split
      · exact hbad
      · exact Kept.ite hbad (Kept.ite ht.finishSlot (Kept.ite hbad ht.setCtx.finishSlot))

protected theorem Kept.openBulk {q : Nat} (hs : Kept s₀ s) : Kept s₀ (openBulk q s) := by
  unfold openBulk
  split
  · exact hs
  · next _ _ t heq =>
      have ht : Kept s₀ t := hs.takeStarted heq
      extract_lets +onlyGivenNames b c bad
      have hbad : Kept s₀ bad := ht.finishSlot
      clear_value bad
      exact Kept.ite hbad (Kept.ite ht.finishSlot (Kept.ite hbad ht.setCtx.finishSlot))

protected theorem Kept.encClose {q : Nat} (hs : Kept s₀ s) : Kept s₀ (encClose q s) := by
  unfold encClose
  split
  · exact hs
  · next _ _ t heq =>
      have ht : Kept s₀ t := hs.takeStarted heq
      extract_lets +onlyGivenNames c
      split
      · exact ht.finishSlot
      · refine Kept.ite ?_ ?_
        · exact ht.finishSlot
        · refine Kept.ite ?_ ?_
          · exact hs
          · split
            · exact hs
            · extract_lets +onlyGivenNames s2
              have hs2 : Kept s₀ s2 := (Kept.ite ht.seEnter ht)
              clear_value s2
              split
              · exact Kept.ite hs (Kept.finishSlot (Kept.breakOwner (Kept.dropRec (hs2.upd rfl))))
              · exact hs2

/-! ### The Island -/

protected theorem Kept.withIsl {f : Isl → Isl} (hs : Kept s₀ s) : Kept s₀ (withIsl s f) := by
  unfold withIsl
  exact hs.upd rfl

protected theorem Kept.islEvent {src : Nat} (hs : Kept s₀ s) : Kept s₀ (islEvent s src) := by
  unfold islEvent
  exact Kept.ite hs.setLevel hs

protected theorem Kept.islNote {old : State} (hs : Kept s₀ s) : Kept s₀ (islNote old s) := by
  unfold islNote
  simp only
  split
  · exact hs
  · exact Kept.ite hs.islEvent.markCtxs hs.islEvent

protected theorem Kept.ppsEdge {iclk : Nat} {predictErr : ℤ} (hs : Kept s₀ s) : Kept s₀ (ppsEdge iclk predictErr s) := by
  unfold ppsEdge
  extract_lets +onlyGivenNames x
  refine Kept.ite ?_ ?_
  · exact hs
  · extract_lets +onlyGivenNames tb ok good lock valid first secs ofs tb1 y
    exact Kept.islNote (hs.upd rfl)

protected theorem Kept.ppsMissing (hs : Kept s₀ s) : Kept s₀ (ppsMissing s) := by
  unfold ppsMissing
  exact hs.withIsl.islNote

protected theorem Kept.refLoss (hs : Kept s₀ s) : Kept s₀ (refLoss s) := by
  unfold refLoss
  exact hs.withIsl.islNote

protected theorem Kept.islRefReturn (hs : Kept s₀ s) : Kept s₀ (islRefReturn s) := by
  unfold islRefReturn
  exact hs.withIsl

protected theorem Kept.expoEdge {input : Nat} {rising : Bool} {since : Nat} (hs : Kept s₀ s) :
    Kept s₀ (expoEdge input rising since s) := by
  unfold expoEdge
  exact hs.withIsl

protected theorem Kept.writeRecord {f0 : IslFrame} {missing : Bool} (hs : Kept s₀ s) : Kept s₀ (writeRecord s f0 missing) := by
  unfold writeRecord
  extract_lets +onlyGivenNames x f due sign flags body y
  exact Kept.islEvent (hs.upd rfl)

protected theorem Kept.signatureDone (hs : Kept s₀ s) : Kept s₀ (signatureDone s) := by
  unfold signatureDone
  split
  · exact hs
  · extract_lets +onlyGivenNames x f rec_ sig held
    have hf : Kept s₀ f.2 := hs.fresh
    clear_value f
    exact Kept.upd (s := f.2) hf rfl

protected theorem Kept.recordIf {f : IslFrame} (hs : Kept s₀ s) : Kept s₀ (recordIf s f) := by
  unfold recordIf
  exact Kept.ite hs.writeRecord hs

protected theorem Kept.closeIsl {f : IslFrame} (hs : Kept s₀ s) : Kept s₀ (closeIsl s f) := by
  unfold closeIsl
  extract_lets +onlyGivenNames _ c
  exact hs.withIsl.recordIf

protected theorem Kept.openIsl {g num colour dtNs : Nat} (hs : Kept s₀ s) : Kept s₀ (openIsl s g num colour dtNs) := by
  unfold openIsl
  exact hs.withIsl.takeCaptures

protected theorem Kept.tapPacket {port dtNs colour : Nat} {pk : List Byte} {room : Bool} (hs : Kept s₀ s) :
    Kept s₀ (tapPacket port dtNs colour pk room s) := by
  unfold tapPacket
  extract_lets +onlyGivenNames x n
  refine Kept.ite ?_ ?_
  · exact hs.withIsl
  · refine Kept.ite ?_ ?_
    · exact hs
    · split
      · exact hs
      · refine Kept.ite ?_ ?_
        · exact hs.withIsl
        · extract_lets +onlyGivenNames late take
          have hlate : Kept s₀ late := hs.withIsl
          clear_value late
          have htake : ∀ v, Kept s₀ v → Kept s₀ (take v) := by
            intro v hu
            unfold take
            split
            · exact hu.withIsl
            · exact hu
          split
          · refine Kept.ite ?_ ?_
            · exact htake _ hs
            · refine Kept.ite ?_ ?_
              · exact hlate
              · extract_lets +onlyGivenNames s1
                have hs1 : Kept s₀ s1 := hs.closeIsl
                clear_value s1
                exact Kept.ite (htake _ hs1.openIsl) hs1
          · exact Kept.ite hlate (htake _ hs.openIsl)

protected theorem Kept.tapUnit {ports picNum frame : Nat} {bytes : List Byte} {last room : Bool} (hs : Kept s₀ s) :
    Kept s₀ (tapUnit ports picNum frame bytes last room s) := by
  unfold tapUnit
  extract_lets +onlyGivenNames x hit
  refine Kept.ite ?_ ?_
  · exact hs.withIsl
  · refine Kept.ite ?_ ?_
    · exact hs
    · clear_value hit
      split
      · exact Kept.ite hs.withIsl hs
      · refine Kept.ite ?_ ?_
        · exact hs.withIsl
        · extract_lets +onlyGivenNames g s1
          have hs1 : Kept s₀ s1 := hs.withIsl
          clear_value s1
          exact Kept.ite hs1.writeRecord hs1

protected theorem Kept.tapTmo {g : Nat} (hs : Kept s₀ s) : Kept s₀ (tapTmo g s) := by
  unfold tapTmo
  split
  · exact hs.closeIsl
  · exact hs

protected theorem Kept.codedTmo {g : Nat} (hs : Kept s₀ s) : Kept s₀ (codedTmo g s) := by
  unfold codedTmo
  split
  · exact hs.writeRecord
  · exact hs

protected theorem Kept.tapNext {x : Tap} {room : Bool} (hs : Kept s₀ s) : Kept s₀ (tapNext x room s) := by
  unfold tapNext
  split
  · exact Kept.ite (Kept.tapPacket (hs.upd rfl)) hs
  · exact hs

protected theorem Kept.unitNextTap {x : UnitTap} {room : Bool} (hs : Kept s₀ s) : Kept s₀ (unitNextTap x room s) := by
  unfold unitNextTap
  split
  · exact Kept.ite (Kept.tapUnit (hs.upd rfl)) hs
  · exact hs

protected theorem Kept.islStart (hs : Kept s₀ s) : Kept s₀ (islStart s) := by
  unfold islStart
  extract_lets +onlyGivenNames x n f fw fwGood base unver cur y boot
  have hboot : Kept s₀ boot := hs.withIsl.islNote
  clear_value boot
  exact Kept.islNote (hboot.upd rfl)

protected theorem Kept.islReset {powerOn : Bool} (hs : Kept s₀ s) : Kept s₀ (islReset powerOn s) := by
  unfold islReset
  exact Kept.ite hs hs.islStart

protected theorem Kept.islPowerLoss (hs : Kept s₀ s) : Kept s₀ (islPowerLoss s) := by
  unfold islPowerLoss
  exact hs.withIsl.islNote

protected theorem Kept.sealChange {op : Bool} (hs : Kept s₀ s) : Kept s₀ (sealChange op s) := by
  unfold sealChange
  exact hs.withIsl

protected theorem Kept.spiOut {st : Nat} {p : List Byte} (hs : Kept s₀ s) : Kept s₀ (spiOut s st p) := by
  unfold spiOut
  exact hs.emit

protected theorem Kept.spi {code : Nat} {f : SpiFrame} {fw needOpen : Bool} {op : List Byte → State → State} (hs : Kept s₀ s)
    (hop : ∀ a u, Kept s₀ u → Kept s₀ (op a u)) :
    Kept s₀ (spi code f fw needOpen op s) := by
  unfold spi
  extract_lets +onlyGivenNames x
  exact Kept.ite hs (Kept.ite hs.spiOut (Kept.ite hs.spiOut (hop _ _ hs)))

protected theorem Kept.noArgs {op : State → State} {a : List Byte} (hs : Kept s₀ s) (hop : ∀ u, Kept s₀ u → Kept s₀ (op u)) :
    Kept s₀ (noArgs op a s) := by
  unfold noArgs
  exact Kept.ite (hop _ hs) hs.spiOut

protected theorem Kept.readStatusOp (hs : Kept s₀ s) : Kept s₀ (readStatusOp s) := by
  unfold readStatusOp
  extract_lets +onlyGivenNames x
  exact hs.spiOut

protected theorem Kept.readRecordOp {a : List Byte} (hs : Kept s₀ s) : Kept s₀ (readRecordOp a s) := by
  unfold readRecordOp
  refine Kept.ite ?_ ?_
  · exact hs.spiOut
  · extract_lets +onlyGivenNames i x
    exact Kept.ite hs.spiOut hs.spiOut

protected theorem Kept.readMeasOp (hs : Kept s₀ s) : Kept s₀ (readMeasOp s) := by
  unfold readMeasOp
  extract_lets +onlyGivenNames x
  exact hs.spiOut

protected theorem Kept.readParamOp (hs : Kept s₀ s) : Kept s₀ (readParamOp s) := by
  unfold readParamOp
  exact hs.spiOut

protected theorem Kept.readAuditOp {a : List Byte} (hs : Kept s₀ s) : Kept s₀ (readAuditOp a s) := by
  unfold readAuditOp
  refine Kept.ite ?_ ?_
  · exact hs.spiOut
  · split
    · exact hs.spiOut
    · exact hs.spiOut

protected theorem Kept.writeParamOp {a : List Byte} (hs : Kept s₀ s) : Kept s₀ (writeParamOp a s) := by
  unfold writeParamOp
  extract_lets +onlyGivenNames o b
  exact Kept.ite hs.spiOut hs.withIsl.spiOut

protected theorem Kept.commitParamOp (hs : Kept s₀ s) : Kept s₀ (commitParamOp s) := by
  unfold commitParamOp
  split
  · refine Kept.ite ?_ ?_
    · exact hs.spiOut
    · refine Kept.ite ?_ ?_
      · exact hs.spiOut
      · extract_lets +onlyGivenNames x _ y
        exact Kept.spiOut (Kept.islNote (hs.upd rfl))
  · exact hs.spiOut

protected theorem Kept.discardOp (hs : Kept s₀ s) : Kept s₀ (discardOp s) := by
  unfold discardOp
  exact hs.withIsl.spiOut

protected theorem Kept.setTimeOp {a : List Byte} (hs : Kept s₀ s) : Kept s₀ (setTimeOp a s) := by
  unfold setTimeOp
  exact Kept.ite hs.spiOut (Kept.ite hs.spiOut hs.withIsl.spiOut)

protected theorem Kept.loadFwOp {a : List Byte} (hs : Kept s₀ s) : Kept s₀ (loadFwOp a s) := by
  unfold loadFwOp
  exact Kept.ite hs.spiOut hs.withIsl.spiOut

protected theorem Kept.commitFwOp (hs : Kept s₀ s) : Kept s₀ (commitFwOp s) := by
  unfold commitFwOp
  split
  · exact hs.spiOut
  · split
    · exact hs.spiOut
    · refine Kept.ite ?_ ?_
      · exact hs.spiOut
      · refine Kept.ite ?_ ?_
        · exact hs.spiOut
        · extract_lets +onlyGivenNames x y
          exact Kept.islReset (Kept.spiOut (hs.upd rfl))

/-! ### Power -/

protected theorem Kept.ivrMove {rail : Nat} {margin : ℤ} (hs : Kept s₀ s) : Kept s₀ (ivrMove s rail margin) := by
  unfold ivrMove
  extract_lets +onlyGivenNames f d t' goal u
  have hf : Kept s₀ f.2 := hs.fresh
  clear_value f
  exact Kept.upd (s := f.2) hf rfl

protected theorem Kept.ivrAdjust {rail : Nat} {margin : ℤ} {over_ : Bool} (hs : Kept s₀ s) :
    Kept s₀ (ivrAdjust rail margin over_ s) := by
  unfold ivrAdjust
  refine Kept.ite ?_ ?_
  · exact hs
  · refine Kept.ite ?_ ?_
    · extract_lets +onlyGivenNames _ s1
      have hs1 : Kept s₀ s1 := (hs.upd rfl)
      clear_value s1
      exact hs1.raiseFault
    · exact hs.ivrMove

protected theorem Kept.thermalEnd (hs : Kept s₀ s) : Kept s₀ (thermalEnd s) := by
  unfold thermalEnd
  extract_lets +onlyGivenNames s1 qs
  have hs1 : Kept s₀ s1 := by
    unfold s1
    refine hs.foldl fun _ _ hu => (hu.foldl fun _ _ hv => ?_)
    extract_lets +onlyGivenNames t'
    have ht' : Kept s₀ t'.2 := by
      unfold t'
      split
      · dsimp only
        exact hv
      · exact hv.frameSlot
    clear_value t'
    exact ht'.finishFrame
  clear_value s1
  exact hs1.foldl fun _ _ hu => (hu.foldl fun _ _ hv => hv.ceReady).headPublish

protected theorem Kept.stackTemps {a b : Nat} (hs : Kept s₀ s) : Kept s₀ (stackTemps s a b) := by
  unfold stackTemps
  refine hs.foldl fun _ _ hu => ?_
  extract_lets +onlyGivenNames p s1
  have hs1 : Kept s₀ s1 := (hu.upd rfl)
  clear_value s1
  exact Kept.ite hs1.raiseFault hs1

protected theorem Kept.tjSample {temps : List ℤ} {a b : Nat} (hs : Kept s₀ s) : Kept s₀ (tjSample temps a b s) := by
  unfold tjSample
  split
  · exact hs.stackTemps
  · extract_lets +onlyGivenNames t' _ s1
    have hs1 : Kept s₀ s1 := (Kept.stackTemps (hs.upd rfl))
    clear_value s1
    refine Kept.ite ?_ ?_
    · extract_lets +onlyGivenNames _ s2
      have hs2 : Kept s₀ s2 := (Kept.ite hs1 (Kept.setEvt (Kept.raiseFault (hs1.upd rfl))))
      clear_value s2
      exact hs2.thermalEnd.raiseFault
    · exact Kept.ite (Kept.setEvt (Kept.raiseFault (hs1.upd rfl))) (Kept.ite (Kept.setEvt (hs1.upd rfl)) hs1)

protected theorem Kept.bulkGate {t : Nat} (hs : Kept s₀ s) : Kept s₀ (bulkGate t s) := by
  unfold bulkGate
  extract_lets +onlyGivenNames x
  exact Kept.ite hs.gateTile hs

protected theorem Kept.bulkTilesOp {n : Nat} (hs : Kept s₀ s) : Kept s₀ (bulkTilesOp n s) := by
  unfold bulkTilesOp
  extract_lets +onlyGivenNames old new adm
  refine Kept.ite ?_ ?_
  · exact hs.bump
  · extract_lets +onlyGivenNames s1
    have hs1 : Kept s₀ s1 := hs.rputN
    clear_value s1
    exact hs1.upd rfl

protected theorem Kept.setPower {st : Nat} (hs : Kept s₀ s) : Kept s₀ (setPower s st) := by
  unfold setPower
  exact Kept.ite (hs.upd rfl) (Kept.setEvt (hs.upd rfl))

protected theorem Kept.runOp (hs : Kept s₀ s) : Kept s₀ (runOp s) := by
  unfold runOp
  exact Kept.ite hs hs.setPower

protected theorem Kept.standbyOp (hs : Kept s₀ s) : Kept s₀ (standbyOp s) := by
  unfold standbyOp
  exact Kept.ite (hs.upd rfl) hs

protected theorem Kept.gateFree (hs : Kept s₀ s) : Kept s₀ (gateFree s) := by
  unfold gateFree
  exact hs.foldl fun _ _ hu => hu.gateTile

protected theorem Kept.standbyEnter (hs : Kept s₀ s) : Kept s₀ (standbyEnter s) := by
  unfold standbyEnter
  exact Kept.ite hs.gateFree.setPower hs

protected theorem Kept.dozeOp (hs : Kept s₀ s) : Kept s₀ (dozeOp s) := by
  unfold dozeOp
  extract_lets +onlyGivenNames why
  refine Kept.ite ?_ ?_
  · exact hs
  · refine Kept.ite ?_ ?_
    · exact Kept.bump (hs.upd rfl)
    · extract_lets +onlyGivenNames s1 s2 s3 _ s4
      have hs1 : Kept s₀ s1 := (hs.drainHbm.foldl fun _ _ hu => hu.gateTile)
      clear_value s1
      have hs2 : Kept s₀ s2 := ((Kept.ite hs1 (hs1.foldl fun _ _ hu => hu.sfLink)).foldl fun _ _ hu => hu.sensorLink)
      clear_value s2
      have hs3 : Kept s₀ s3 := hs2.ethDown.ethDown
      clear_value s3
      have hs4 : Kept s₀ s4 := (hs3.upd rfl)
      clear_value s4
      exact hs4.setPower

protected theorem Kept.wakeOp {source : Nat} (hs : Kept s₀ s) : Kept s₀ (wakeOp source s) := by
  unfold wakeOp
  exact Kept.ite hs.wakeUp hs

/-! ### Register reads -/

protected theorem Kept.readEffect {rq : Requester} {page off : Nat} (hs : Kept s₀ s) : Kept s₀ (readEffect s rq page off) := by
  unfold readEffect
  split
  · exact Kept.ite (hs.upd rfl) (Kept.ite hs.rputN hs)
  · extract_lets +onlyGivenNames f x
    refine Kept.ite ?_ ?_
    · exact hs.setFlow
    · exact Kept.ite hs.setFlow (Kept.ite hs.setFlow (Kept.ite hs.setFlow (Kept.ite hs.rputN hs)))
  · exact Kept.ite hs.setSensor (Kept.ite hs.rputN hs)
  · exact Kept.ite hs.setEth (Kept.ite hs.rputN hs)
  · split
    · exact Kept.ite hs.rputN hs
    · exact hs
  · exact hs

protected theorem Kept.loadLatches {rq : Requester} {u : Bool} {page : Nat} {l : List Nat} (hs : Kept s₀ s) :
    Kept s₀ (loadLatches s rq u page l) := by
  induction l with
  | nil => exact hs
  | cons o rest ih => exact ih.upd rfl

protected theorem Kept.plainRead {rq : Requester} {umode : Bool} {page off : Nat} (hs : Kept s₀ s) :
    Kept s₀ (readReg.plainRead rq umode page off s) := by
  unfold readReg.plainRead
  extract_lets +onlyGivenNames key
  split
  · exact hs.upd rfl
  · extract_lets +onlyGivenNames v s1 s2
    have hs1 : Kept s₀ s1 := hs.loadLatches
    clear_value s1
    have hs2 : Kept s₀ s2 := (Kept.ite hs1 hs1.readEffect)
    clear_value s2
    exact hs2.upd rfl

protected theorem Kept.readReg {rq : Requester} {addr : Nat} {umode : Bool} (hs : Kept s₀ s) :
    Kept s₀ (readReg rq addr umode s) := by
  unfold readReg
  extract_lets +onlyGivenNames page off
  refine Kept.ite ?_ ?_
  · exact hs.upd rfl
  · split
    · exact Kept.ite hs.tsRead hs.plainRead
    · exact hs.plainRead

/-! ### Register writes -/

protected theorem Kept.pageCtrl {rq : Requester} {page : Nat} {k : PageKind} {v : Nat} (hs : Kept s₀ s) :
    Kept s₀ (pageCtrl rq page k v s) := by
  unfold pageCtrl
  extract_lets +onlyGivenNames en qui
  exact Kept.ite hs.blockResetOp (Kept.ite hs.pageAbortOp hs.pageEnable.pageQuiesce)

protected theorem Kept.sevWrite {page : Nat} {k : PageKind} {v : Nat} (hs : Kept s₀ s) : Kept s₀ (sevWrite page k v s) := by
  unfold sevWrite
  exact hs.rputN

protected theorem Kept.lockWrite {rq : Requester} {page v : Nat} (hs : Kept s₀ s) : Kept s₀ (lockWrite rq page v s) := by
  unfold lockWrite
  extract_lets +onlyGivenNames o
  split
  · exact hs.lockAcquire
  · exact hs.lockRelease
  · exact hs.lockForce
  · exact hs

protected theorem Kept.viewWrite {rq : Requester} {page : Nat} {on : Bool} (hs : Kept s₀ s) : Kept s₀ (viewWrite rq page on s) := by
  unfold viewWrite
  extract_lets +onlyGivenNames h m
  exact hs.setHdr

protected theorem Kept.hdrWrite {rq : Requester} {page off : Nat} {k : PageKind} {v : U32} (hs : Kept s₀ s) :
    Kept s₀ (hdrWrite rq page off k v s) := by
  unfold hdrWrite
  refine Kept.ite ?_ ?_
  · exact hs.pageCtrl
  · refine Kept.ite ?_ ?_
    · exact hs.clearEvts
    · refine Kept.ite ?_ ?_
      · exact hs.putEvtEn
      · refine Kept.ite ?_ ?_
        · exact hs.setEvts
        · refine Kept.ite ?_ ?_
          · exact hs.setHdr
          · refine Kept.ite ?_ ?_
            · exact hs.sevWrite
            · exact Kept.ite hs.commitOp (Kept.ite hs.lockWrite (Kept.ite hs.viewWrite hs))

protected theorem Kept.holdLo {rq : Requester} {page off : Nat} {v : U32} (hs : Kept s₀ s) : Kept s₀ (holdLo s rq page off v) := by
  unfold holdLo
  exact hs.upd rfl

protected theorem Kept.takeLo {rq : Requester} {page off : Nat} (hs : Kept s₀ s) : Kept s₀ (takeLo s rq page off).2 := by
  unfold takeLo
  dsimp only
  exact hs.upd rfl

protected theorem Kept.plainWrite {rq : Requester} {page off : Nat} {k : PageKind} {i : Nat} {r : RegRow} {v : U32}
    (hs : Kept s₀ s) :
    Kept s₀ (plainWrite rq page off k i r v s) := by
  unfold plainWrite
  extract_lets +onlyGivenNames b
  split
  · exact hs
  · exact hs
  · exact hs
  · exact hs.rput
  · exact hs.sput
  · refine Kept.ite ?_ ?_
    · exact hs.holdLo
    · split
      · exact hs.rput
      · extract_lets +onlyGivenNames t'
        have ht' : Kept s₀ t'.2 := hs.takeLo
        clear_value t'
        refine Kept.rput ?_
        split
        · exact ht'.rput
        · exact ht'

protected theorem Kept.clkRegWrite {rq : Requester} {off : Nat} {v : U32} {plain : State → State} (hs : Kept s₀ s)
    (hplain : ∀ u, Kept s₀ u → Kept s₀ (plain u)) :
    Kept s₀ (clkRegWrite rq off v plain s) := by
  unfold clkRegWrite
  refine Kept.ite ?_ ?_
  · exact Kept.ite hs.bump (hplain _ hs)
  · exact Kept.ite hs.dtAdj (Kept.ite (Kept.ite hs.dtCmd (Kept.ite hs.dtCmd hs)) (hplain _ hs))

protected theorem Kept.pwrRegWrite {off v : Nat} {plain : State → State} (hs : Kept s₀ s)
    (hplain : ∀ u, Kept s₀ u → Kept s₀ (plain u)) :
    Kept s₀ (pwrRegWrite off v plain s) := by
  unfold pwrRegWrite
  refine Kept.ite ?_ ?_
  · exact Kept.ite hs.runOp (Kept.ite hs.standbyOp (Kept.ite hs.dozeOp hs))
  · exact Kept.ite hs.bulkTilesOp (hplain _ hs)

protected theorem Kept.rstRegWrite {rq : Requester} {off : Nat} {v : U32} (hs : Kept s₀ s) : Kept s₀ (rstRegWrite rq off v s) := by
  unfold rstRegWrite
  exact Kept.ite (Kept.ite hs.mainReset hs) (Kept.ite hs.rstTileOp hs)

protected theorem Kept.bootRegCmd {rq : Requester} {v : Nat} (hs : Kept s₀ s) : Kept s₀ (bootRegCmd rq v s) := by
  unfold bootRegCmd
  extract_lets +onlyGivenNames arg coin
  split
  · exact hs.bootCmd (fun _ hu => (Kept.recLoadOp (hu.upd rfl)))
  · exact hs.bootCmd (fun _ hu => hu.mrExtendOp)
  · exact hs.bootCmd (fun _ hu => hu.challengeOp)
  · exact hs.bootCmd (fun _ hu => hu.submitOp)
  · exact hs.bootCmd (fun _ hu => hu.svnCommitOp)
  · exact hs

protected theorem Kept.bootRegWrite {rq : Requester} {off : Nat} {v : U32} {plain : State → State} (hs : Kept s₀ s)
    (hplain : ∀ u, Kept s₀ u → Kept s₀ (plain u)) :
    Kept s₀ (bootRegWrite rq off v plain s) := by
  unfold bootRegWrite
  exact Kept.ite hs.bootRegCmd (Kept.ite hs.mrSelOp (Kept.ite hs.rput (hplain _ hs)))

protected theorem Kept.fltRegWrite {rq : Requester} {off : Nat} {plain : State → State} (hs : Kept s₀ s)
    (hplain : ∀ u, Kept s₀ u → Kept s₀ (plain u)) :
    Kept s₀ (fltRegWrite rq off plain s) := by
  unfold fltRegWrite
  exact Kept.ite hs.fltHb (Kept.ite hs.hostDeny (hplain _ hs))

protected theorem Kept.crierRegWrite {rq : Requester} {off v : Nat} {plain : State → State} (hs : Kept s₀ s)
    (hplain : ∀ u, Kept s₀ u → Kept s₀ (plain u)) :
    Kept s₀ (crierRegWrite rq off v plain s) := by
  unfold crierRegWrite
  extract_lets +onlyGivenNames src
  refine Kept.ite ?_ ?_
  · exact Kept.ite hs.hostDeny (hplain _ hs)
  · refine Kept.ite ?_ ?_
    · exact hs.crierTake
    · exact Kept.ite hs.crierDone (Kept.ite hs.crierSoft (Kept.ite hs.crierSoft (hplain _ hs)))

protected theorem Kept.tkbRegWrite {rq : Requester} {off v : Nat} {plain : State → State} (hs : Kept s₀ s)
    (hplain : ∀ u, Kept s₀ u → Kept s₀ (plain u)) :
    Kept s₀ (tkbRegWrite rq off v plain s) := by
  unfold tkbRegWrite
  extract_lets +onlyGivenNames ctx
  refine Kept.ite ?_ ?_
  · split
    · exact hs.boothCmd (fun _ hu => hu.admitOp)
    · exact hs.boothCmd (fun _ hu => hu.releaseOp)
    · exact hs.boothCmd (fun _ hu => hu.relistOp)
    · exact hs
  · exact Kept.ite hs.bump (hplain _ hs)

protected theorem Kept.carAdmin {rq : Requester} {page off : Nat} {f : CarList → CarList} (hs : Kept s₀ s) :
    Kept s₀ (carAdmin rq page off f s) := by
  unfold carAdmin
  split
  · exact hs.unmapped
  · exact Kept.ite hs.bump hs.setCar

protected theorem Kept.carRegWrite {rq : Requester} {page inst off : Nat} {v : U32} {plain : State → State} (hs : Kept s₀ s)
    (hplain : ∀ u, Kept s₀ u → Kept s₀ (plain u)) :
    Kept s₀ (carRegWrite rq page inst off v plain s) := by
  unfold carRegWrite
  extract_lets +onlyGivenNames n ix
  refine Kept.ite ?_ ?_
  · exact hplain _ hs
  · refine Kept.ite ?_ ?_
    · exact hs.carAdmin
    · refine Kept.ite ?_ ?_
      · exact hs.carAdmin
      · refine Kept.ite ?_ ?_
        · exact hs.carAdmin
        · refine Kept.ite ?_ ?_
          · exact Kept.ite hs hs.carAdmin
          · refine Kept.ite ?_ ?_
            · split
              · exact Kept.ite hs.setCar hs
              · exact hs
            · exact hplain _ hs

protected theorem Kept.qCtrlWrite {q v : Nat} (hs : Kept s₀ s) : Kept s₀ (qCtrlWrite q v s) := by
  unfold qCtrlWrite
  extract_lets +onlyGivenNames s1 s2 s3
  have hs1 : Kept s₀ s1 := hs.sput
  clear_value s1
  have hs2 : Kept s₀ s2 := (Kept.ite hs1.queueEnable hs1.queueDisable)
  clear_value s2
  have hs3 : Kept s₀ s3 := hs2.queueQuiesce
  clear_value s3
  exact Kept.ite hs3.queueAbort hs3

protected theorem Kept.qmgrRegWrite {rq : Requester} {off v : Nat} {plain : State → State} (hs : Kept s₀ s)
    (hplain : ∀ u, Kept s₀ u → Kept s₀ (plain u)) :
    Kept s₀ (qmgrRegWrite rq off v plain s) := by
  unfold qmgrRegWrite
  extract_lets +onlyGivenNames q
  exact Kept.ite hs.qCtrlWrite (Kept.ite hs.sqInval (hplain _ hs))

protected theorem Kept.tileRegWrite {rq : Requester} {t off v : Nat} {plain : State → State} (hs : Kept s₀ s)
    (hplain : ∀ u, Kept s₀ u → Kept s₀ (plain u)) :
    Kept s₀ (tileRegWrite rq t off v plain s) := by
  unfold tileRegWrite
  refine Kept.ite ?_ ?_
  · refine Kept.ite ?_ ?_
    · exact hs.tileDeny
    · split
      · exact hs.preemptOp
      · exact hs.resumeOp
      · exact hs.haltOp
      · exact hs.stepOp
      · exact hs.retireOp
      · exact hs.promoteOp
      · exact hs
  · exact hplain _ hs

protected theorem Kept.poolCtrlWrite {p : Nat} {v : U32} (hs : Kept s₀ s) : Kept s₀ (poolCtrlWrite p v s) := by
  unfold poolCtrlWrite
  extract_lets +onlyGivenNames old geo
  refine Kept.ite ?_ ?_
  · exact Kept.ite hs.poolDisableOp (Kept.ite hs.bump hs)
  · extract_lets +onlyGivenNames s1
    have hs1 : Kept s₀ s1 := hs.rputN
    clear_value s1
    exact Kept.ite hs1 (Kept.ite hs.bump hs1.poolEnableOp)

protected theorem Kept.grnOpWrite {rq : Requester} {v : Nat} (hs : Kept s₀ s) : Kept s₀ (grnOpWrite rq v s) := by
  unfold grnOpWrite
  extract_lets +onlyGivenNames o p
  split
  · exact hs.grnEnter (fun _ hu => hu.grnAllocOp)
  · exact hs.grnEnter (fun _ hu => hu.grnFreeOp)
  · exact hs.grnCancelOp
  · exact hs.grnEnter (fun _ hu => hu.grnReclaimOp)
  · exact hs

protected theorem Kept.grnRegWrite {rq : Requester} {off : Nat} {v : U32} {plain : State → State} (hs : Kept s₀ s)
    (hplain : ∀ u, Kept s₀ u → Kept s₀ (plain u)) :
    Kept s₀ (grnRegWrite rq off v plain s) := by
  unfold grnRegWrite
  extract_lets +onlyGivenNames me p
  refine Kept.ite ?_ ?_
  · exact hs.poolCtrlWrite
  · refine Kept.ite ?_ ?_
    · exact hs.bump
    · refine Kept.ite ?_ ?_
      · exact hs.grnMinOp
      · refine Kept.ite ?_ ?_
        · exact hs.grnOpWrite
        · refine Kept.ite ?_ ?_
          · extract_lets +onlyGivenNames t' r lo
            have ht' : Kept s₀ t'.2 := hs.takeLo
            clear_value t'
            exact ht'.setRes
          · exact hplain _ hs

protected theorem Kept.crcCmdWrite {u v : Nat} (hs : Kept s₀ s) : Kept s₀ (crcCmdWrite u v s) := by
  unfold crcCmdWrite
  split
  · exact hs.crcCmd
  · exact hs.crcCmd
  · exact Kept.crcStop (hs.upd rfl)
  · exact hs.crcLoad
  · exact hs

protected theorem Kept.crcRegWrite {rq : Requester} {u off : Nat} {v : U32} {plain : State → State} (hs : Kept s₀ s)
    (hplain : ∀ u, Kept s₀ u → Kept s₀ (plain u)) :
    Kept s₀ (crcRegWrite rq u off v plain s) := by
  unfold crcRegWrite
  extract_lets +onlyGivenNames pg
  refine Kept.ite ?_ ?_
  · exact hs.crcCmdWrite
  · refine Kept.ite ?_ ?_
    · exact hs.bump
    · refine Kept.ite ?_ ?_
      · extract_lets +onlyGivenNames t' lo
        have ht' : Kept s₀ t'.2 := hs.takeLo
        clear_value t'
        exact ht'.rput64
      · refine Kept.ite ?_ ?_
        · extract_lets +onlyGivenNames t'' lo'
          have ht'' : Kept s₀ t''.2 := hs.takeLo
          clear_value t''
          exact ht''.rput64
        · refine Kept.ite ?_ ?_
          · extract_lets +onlyGivenNames t''' lo''
            have ht''' : Kept s₀ t'''.2 := hs.takeLo
            clear_value t'''
            exact ht'''.setCrc
          · exact hplain _ hs

protected theorem Kept.snsRegWrite {n off : Nat} {v : U32} {plain : State → State} (hs : Kept s₀ s)
    (hplain : ∀ u, Kept s₀ u → Kept s₀ (plain u)) :
    Kept s₀ (snsRegWrite n off v plain s) := by
  unfold snsRegWrite
  refine Kept.ite ?_ ?_
  · exact Kept.ite (hplain _ hs) ((hplain _ hs).sensorLink)
  · exact Kept.ite hs (Kept.ite hs.i3cCmd (Kept.ite hs.i3cTx (hplain _ hs)))

protected theorem Kept.noteEntry {rq : Requester} {off : Nat} (hs : Kept s₀ s) : Kept s₀ (noteEntry rq off s) := by
  unfold noteEntry
  extract_lets +onlyGivenNames kind
  exact hs.upd rfl

protected theorem Kept.schedRegWrite {rq : Requester} {off : Nat} {v : U32} {plain : U32 → State → State} (hs : Kept s₀ s)
    (hplain : ∀ a u, Kept s₀ u → Kept s₀ (plain a u)) :
    Kept s₀ (schedRegWrite rq off v plain s) := by
  unfold schedRegWrite
  extract_lets +onlyGivenNames f old guar w
  exact Kept.ite ((hplain _ _ hs).noteEntry) (hplain _ _ hs)

protected theorem Kept.ethRegWrite {p off : Nat} {plain : State → State} (hs : Kept s₀ s)
    (hplain : ∀ u, Kept s₀ u → Kept s₀ (plain u)) :
    Kept s₀ (ethRegWrite p off plain s) := by
  unfold ethRegWrite
  extract_lets +onlyGivenNames s1
  have hs1 : Kept s₀ s1 := (hplain _ hs)
  clear_value s1
  exact Kept.ite hs1.ethDown hs1

protected theorem Kept.sfRegWrite {p off : Nat} {v : U32} {plain : State → State} (hs : Kept s₀ s)
    (hplain : ∀ u, Kept s₀ u → Kept s₀ (plain u)) :
    Kept s₀ (sfRegWrite p off v plain s) := by
  unfold sfRegWrite
  refine Kept.ite ?_ ?_
  · extract_lets +onlyGivenNames was s1 s2
    have hs1 : Kept s₀ s1 := (hplain _ hs)
    clear_value s1
    have hs2 : Kept s₀ s2 := (Kept.ite hs1.sfFill hs1)
    clear_value s2
    exact Kept.ite hs2 hs2.sfLink
  · exact hplain _ hs

protected theorem Kept.cascRegWrite {rq : Requester} {off v : Nat} {plain : State → State} (hs : Kept s₀ s)
    (hplain : ∀ u, Kept s₀ u → Kept s₀ (plain u)) : Kept s₀ (cascRegWrite rq off v plain s) := by
  unfold cascRegWrite
  refine Kept.ite ?_ (Kept.ite ?_ (hplain _ hs))
  · split
    · exact hs.cascCmd fun _ hu => hu.enumerateOp
    · exact hs.cascCmd fun _ hu => hu.cascAdmitOp
    · exact hs.cascCmd fun _ hu => hu.cascReleaseOp
    · exact hs.cascCmd fun _ hu => hu.resetDeviceOp
    · exact hs.cascCmd fun _ hu => hu
  · split
    · exact hs.semAsk
    · exact hs.semAsk
    · exact hs.semForce
    · exact hs

protected theorem Kept.perfRegWrite {rq : Requester} {off : Nat} {v : U32} {plain : State → State} (hs : Kept s₀ s)
    (hplain : ∀ u, Kept s₀ u → Kept s₀ (plain u)) :
    Kept s₀ (perfRegWrite rq off v plain s) := by
  unfold perfRegWrite
  extract_lets +onlyGivenNames b
  exact Kept.ite hs.rputN (Kept.ite hs.rputN (hplain _ hs))

protected theorem Kept.blockWrite {rq : Requester} {page off : Nat} {k : PageKind} {i : Nat} {r : RegRow} {v : U32}
    (hs : Kept s₀ s) :
    Kept s₀ (blockWrite rq page off k i r v s) := by
  unfold blockWrite
  extract_lets +onlyGivenNames plainV plain
  have hplainV : ∀ a0 v, Kept s₀ v → Kept s₀ (plainV a0 v) := by
    intro a0 v hu
    unfold plainV
    exact hu.plainWrite
  have hplain : ∀ v, Kept s₀ v → Kept s₀ (plain v) := by
    intro v hu
    unfold plain
    exact hplainV _ _ hu
  split
  · exact hs.clkRegWrite hplain
  · exact hs.pwrRegWrite hplain
  · exact hs.rstRegWrite
  · exact hs.bootRegWrite hplain
  · exact hs.fltRegWrite hplain
  · exact hs.crierRegWrite hplain
  · exact hs.tkbRegWrite hplain
  · exact hs.carRegWrite hplain
  · exact hs.qmgrRegWrite hplain
  · exact hs.tileRegWrite hplain
  · exact hs.grnRegWrite hplain
  · exact Kept.ite hs.dmaTailOp (hplain _ hs)
  · exact hs.crcRegWrite hplain
  · exact hs.snsRegWrite hplain
  · exact hs.schedRegWrite hplainV
  · exact hs.sfRegWrite hplain
  · exact hs.cascRegWrite hplain
  · exact hs.perfRegWrite hplain
  · exact hs.tmuxWrite
  · exact hs.ethRegWrite hplain
  · exact hplain _ hs
  · exact hplain _ hs
  · exact hplain _ hs
  · exact hplain _ hs
  · exact hplain _ hs
  · exact hplain _ hs

protected theorem Kept.writeWord {rq : Requester} {page off : Nat} {v : U32} (hs : Kept s₀ s) :
    Kept s₀ (writeWord rq page off v s) := by
  unfold writeWord
  split
  · exact hs.unmapped
  · refine Kept.ite ?_ ?_
    · exact hs.hdrWrite
    · split
      · exact hs.blockWrite
      · exact Kept.ite hs.bump hs.unmapped

protected theorem Kept.regWrite {rq : Requester} {addr : Nat} {be : BitVec 4} {v : U32} (hs : Kept s₀ s) :
    Kept s₀ (regWrite rq addr be v s) := by
  unfold regWrite
  extract_lets +onlyGivenNames page off
  refine Kept.ite ?_ ?_
  · exact hs
  · refine Kept.ite ?_ ?_
    · refine Kept.ite ?_ ?_
      · exact hs
      · extract_lets +onlyGivenNames s0
        have hs0 : Kept s₀ s0 := hs.wakeByWrite
        clear_value s0
        exact Kept.ite hs0.bump hs0.badSize
    · exact hs.regOp (fun _ hu => hu.writeWord)

/-! ## Every command -/

/-- The outcome is a next state that keeps the waiting commands and the form of the memories. -/
def Answers (s : State) (o : Host.Outcome State Fault Refusal) : Prop := ∃ t, o = .next t ∧ Kept s t

protected theorem Answers.next (h : Kept s t) : Answers s (.next t) := ⟨t, rfl, h⟩

/-- An engine's step has its effect or, while the engines stand, none. -/
protected theorem Answers.act {op : State → State} (h : Kept s (op s)) : Answers s (act op s) :=
  ⟨_, rfl, Kept.ite h (.refl s)⟩

/-- The same for a step of the register bus. -/
protected theorem Answers.actBus {op : State → State} (h : Kept s (op s)) : Answers s (actBus op s) :=
  ⟨_, rfl, Kept.ite h (.refl s)⟩

theorem exec_answers (c : Instr) (s : State) : Answers s (exec c s) := by
  have hs : Kept s s := .refl s
  cases c with
  | regWrite => exact .next hs.regWrite
  | regReadClear => exact .next hs.readReg
  | loReadLatch => exact .next hs.readReg
  | evtForce => exact .next (hs.regOp (fun _ hu => hu.setEvts))
  | commit => exact .next (hs.regOp (fun _ hu => hu.commitOp))
  | shadowApply => exact .actBus (hs.applying (fun _ hu => hu.shadowApply))
  | pageEnable => exact .next (hs.regOp (fun _ hu => hu.pageEnable))
  | pageQuiesce => exact .next (hs.regOp (fun _ hu => hu.pageQuiesce))
  | pageAbort => exact .next (hs.regOp (fun _ hu => hu.pageAbortOp))
  | blockReset => exact .next (hs.regOp (fun _ hu => hu.blockResetOp))
  | blockResetEnd => exact .actBus hs.blockResetEnd
  | blockReachesIdle => exact .act hs.reachesIdle
  | lockAcquire => exact .next (hs.regOp (fun _ hu => hu.lockAcquire))
  | lockRelease => exact .next (hs.regOp (fun _ hu => hu.lockRelease))
  | lockForceRelease => exact .next (hs.regOp (fun _ hu => hu.lockForce))
  | tkbAdmit => exact .next (hs.regOp (fun _ hu => (hu.boothCmd (fun _ hv => hv.admitOp))))
  | release => exact .next (hs.regOp (fun _ hu => (hu.boothCmd (fun _ hv => hv.releaseOp))))
  | relist => exact .next (hs.regOp (fun _ hu => (hu.boothCmd (fun _ hv => hv.relistOp))))
  | carListStart => exact .act (hs.applying (fun _ hu => (Kept.ite hu.carListStart.cycleSnaps hu)))
  | carEntryEnd => exact .act (hs.applying (fun _ hu => (Kept.ite hu.carEntryEnd.cycleSnaps hu)))
  | l24Window => exact .act hs.l24Window
  | retrainingPauseEnd => exact .act hs.retrainEnd
  | tjSample => exact .act hs.tjSample
  | syncHeaderLock => exact .act hs.anyLink
  | linkTrain => exact .act hs.anyLink
  | syncHeaderLoss => exact .act hs.anyLink
  | alignRound => exact .act hs.anyLink
  | alignRoundMissing => exact .act hs.anyLink
  | linePacket => exact .act hs.linePacket
  | fmark => exact .act hs.fmarkOp
  | frameCloseTimeout => exact .act hs.closeTimeout
  | fsyncEdge => exact .act (Kept.ite hs.fsyncEdge hs)
  | fsyncPulseEnd => exact .act (Kept.ite hs.fsyncPulseEnd hs)
  | i3cCmd => exact .next (Kept.ite (hs.regOp (fun _ hu => hu.i3cCmd)) hs)
  | i3cTransferDone => exact .act (Kept.ite hs.i3cDone hs)
  | i3cTx => exact .next (Kept.ite (hs.regOp (fun _ hu => hu.i3cTx)) hs)
  | i3cRx => exact .actBus (Kept.ite hs.i3cRx hs)
  | rowComplete => exact .act hs.rowComplete
  | rowTicket bulk ctx => cases bulk with
    | false => exact .act hs.guarTicket
    | true => exact .act hs.bulkTicket
  | jobEnd => exact .act hs.jobEnd
  | unitEnterFifo => exact .act hs.unitEnterAny
  | demotedPictureEmit => exact .act hs.demotedEmit
  | demotedPictureDiscard => exact .act hs.demotedDiscard
  | nop => exact .act (Kept.ite hs.nopOp hs)
  | encode => exact .act hs.encodeOp
  | encodeStart => exact .act hs.encodeStart
  | encodeInputDone => exact .act hs.encodeInputDone
  | encConfig => exact .act hs.encConfig
  | openBulk => exact .act hs.openBulk
  | encConfigClose => exact .act hs.encClose
  | bulkSlotTake => exact .act hs.bulkSlotTake
  | decConfigOpen => exact .act hs.decOpen
  | decConfigClose => exact .act hs.decClose
  | decode => exact .act hs.decodeOp
  | decodeFinish => exact .act hs.decodeFinish
  | ingressPacket => exact .act hs.ingressPacket
  | ingressPicTimeout => exact .act hs.ingressPicTimeout
  | mopNop => exact .act hs.plain
  | alu => exact .act hs.plain
  | alui => exact .act hs.plain
  | lds => exact .act (hs.micro (fun _ hu => hu.lds))
  | sts => exact .act (hs.micro (fun _ hu => hu.sts))
  | vld => exact .act (hs.micro (fun _ hu => hu.vld))
  | vst => exact .act (hs.micro (fun _ hu => hu.vst))
  | vop => exact .act hs.plain
  | unit => exact .act (hs.micro (fun _ hu => hu.unitCmd))
  | br => exact .act (hs.micro (fun _ hu => hu.branch))
  | call => exact .act (hs.micro (fun _ hu => hu.callTo))
  | ret => exact .act (hs.micro (fun _ hu => hu.retFrom))
  | wait => exact .act (hs.micro (fun _ hu => hu.waitOn))
  | waitConditionMet => exact .act hs.waitMet
  | waitTimeout => exact .act hs.waitExpires
  | safept => exact .act (hs.micro (fun _ hu => hu.evT.safePoint))
  | opdone => exact .act (hs.micro (fun _ hu => hu.evT.opDone))
  | jend => exact .act (hs.micro (fun _ hu => hu.jobEndWord))
  | spTmo => exact .act hs.spTimeout
  | budgetExpiry => exact .act hs.budgetEnds
  | machineCheck => exact .act hs.machineCheck
  | preempt => exact .next (hs.tileCmd (fun _ hu => hu.preemptOp))
  | resume => exact .next (hs.tileCmd (fun _ hu => hu.resumeOp))
  | halt => exact .next (hs.tileCmd (fun _ hu => hu.haltOp))
  | step => exact .next (hs.tileCmd (fun _ hu => hu.stepOp))
  | retire => exact .next (hs.tileCmd (fun _ hu => hu.retireOp))
  | promote => exact .next (hs.tileCmd (fun _ hu => hu.promoteOp))
  | tileTsDataRead => exact .next hs.tsRead
  | hbmIngressPass => exact .act hs.ingressPass
  | hbmAccess => exact .act hs.hbmAccess
  | hbmReadComplete => exact .act (hs.onPc (fun _ hu => hu.readComplete))
  | hbmWriteAck => exact .act (hs.onPc (fun _ hu => hu.writeAck))
  | hbmSparePeriod => exact .act hs.sparePeriod
  | hbmParityAlert => exact .act hs.parityAlert
  | commonsScrub => exact .act hs.commonsScrub
  | alloc => exact .next (hs.regOp (fun _ hu => (hu.grnEnter (fun _ hv => hv.grnAllocOp))))
  | free => exact .next (hs.regOp (fun _ hu => (hu.grnEnter (fun _ hv => hv.grnFreeOp))))
  | cancel => exact .next (hs.regOp (fun _ hu => hu.grnCancelOp))
  | reclaim => exact .next (hs.regOp (fun _ hu => (hu.grnEnter (fun _ hv => hv.grnReclaimOp))))
  | grnMin => exact .next (hs.regOp (fun _ hu => hu.grnMinOp))
  | grnWaitTimeout => exact .act hs.grnTimeoutOp
  | poolEnable => exact .next (hs.regOp (fun _ hu => hu.poolEnableOp))
  | poolReady => exact .act hs.poolReadyOp
  | poolDisable => exact .next (hs.regOp (fun _ hu => hu.poolDisableOp))
  | fifoWrite => exact .act hs.fifoWriteEnd
  | fifoRead => exact .act hs.fifoRead
  | fifoRelease => exact .act hs.fifoRelease
  | fifoMark => exact .act hs.fifoMark
  | fifoRewind => exact .act hs.fifoRewind
  | fifoUnmark => exact .act hs.fifoUnmark
  | fifoMarkStall => exact .act hs.fifoMarkStall
  | dmaTail => exact .next (hs.regOp (fun _ hu => (Kept.ite hu.dmaTailOp hu)))
  | descriptorFetch => exact .act hs.descFetch
  | timerTick => exact .act hs.timerTick
  | descriptorEnd => exact .act hs.descRun
  | dmaBusErr => exact .act hs.dmaBusErr
  | dmaFetchErr => exact .act hs.dmaFetchErr
  | start => exact .next (hs.regOp (fun _ hu => (hu.onUnit (fun _ hv => hv.crcCmd))))
  | continue_ => exact .next (hs.regOp (fun _ hu => (hu.onUnit (fun _ hv => hv.crcCmd))))
  | stop => exact .next (hs.regOp (fun _ hu => (hu.onUnit (fun _ hv => hv.crcStop))))
  | loadInit => exact .next (hs.regOp (fun _ hu => (hu.onUnit (fun _ hv => hv.crcLoad))))
  | scanDone => exact .act hs.scanDone
  | scanErr => exact .act hs.scanErr
  | sqDb => exact .next (hs.doorbell (fun _ hu => hu.sqDb))
  | crDone => exact .next (hs.doorbell (fun _ hu => hu.crDone))
  | seFetch => exact .act hs.seFetch
  | sqInval => exact .next (hs.regOpB (fun _ hu => hu.sqInval))
  | entryStart => exact .act hs.entryStart
  | ceReady => exact .act (Kept.ite hs.ceReady hs)
  | headPublish => exact .act (Kept.ite hs.headPublish hs)
  | queueEnable => exact .next (hs.regOpB (fun _ hu => hu.queueEnable))
  | queueQuiesce => exact .next (hs.regOpB (fun _ hu => hu.queueQuiesce))
  | queueAbort => exact .next (hs.regOpB (fun _ hu => hu.queueAbort))
  | idleReached => exact .act (Kept.ite hs.idleReached hs)
  | egressPacketStart => exact .act hs.packetStart
  | egressPacketDone => exact .act hs.packetDone
  | ethLinkDown => exact .act hs.ethDown
  | ptpEventMessage => exact .act hs.ptpEvent
  | ptpTxIdRead => exact .actBus hs.ptpRead
  | grantRevocation => exact .act hs.grantRevocation
  | fabEtaMiss => exact .act hs.fabEtaMiss
  | data => exact .act hs.dataFlit
  | link => exact .act hs.linkFlit
  | linkAckTimer => exact .act hs.linkAckTimer
  | retryTimeout => exact .act hs.retryTimeout
  | enumerate => exact .next (hs.cascCmd (fun _ hu => hu.enumerateOp))
  | enum => exact .act hs.enumOp
  | enumReply => exact .act hs.enumReplyOp
  | epoch => exact .act hs.epochOp
  | cascAdmit => exact .next (hs.cascCmd (fun _ hu => hu.cascAdmitOp))
  | mgmtAdmit => exact .act hs.mgmtAdmitOp
  | admitReply => exact .act hs.admitReplyOp
  | cascRelease => exact .next (hs.cascCmd (fun _ hu => hu.cascReleaseOp))
  | resetDevice => exact .next (hs.cascCmd (fun _ hu => hu.resetDeviceOp))
  | budget => exact .act hs.budgetOp
  | cascSemAcquire => exact .next (hs.regOp (fun _ hu => hu.semAsk))
  | cascSemRelease => exact .next (hs.regOp (fun _ hu => hu.semAsk))
  | cascSemForceRelease => exact .next (hs.regOp (fun _ hu => hu.semForce))
  | semReq => exact .act hs.semReqOp
  | semReply => exact .act hs.semResult
  | xreq => exact .act hs.xreqOp
  | xreply => exact .act hs.xreplyOp
  | xreqTimeout => exact .act hs.xreqTimeoutOp
  | mgmtReset => exact .next hs.cascadeReset
  | syncReqTimer => exact .act hs.syncReqTimer
  | syncReq => exact .act hs.syncReqOp
  | syncRsp => exact .act hs.syncRspOp
  | heartbeatTimer => exact .act hs.heartbeatTimer
  | heartbeat => exact .act hs.heartbeatOp
  | cascMasterLost => exact .act hs.masterLostOp
  | cascDeviceDead => exact .act hs.deviceDead
  | fence => exact .act hs.fenceOp
  | fenceRepeat => exact .act hs.fenceRepeat
  | islTapPacket => exact .next hs.tapNext
  | islTapUnit => exact .next hs.unitNextTap
  | islTapTmo => exact .next hs.tapTmo
  | codedTmo => exact .next hs.codedTmo
  | signatureDone => exact .next hs.signatureDone
  | expoEdge => exact .next hs.expoEdge
  | ppsEdge => exact .next hs.ppsEdge
  | ppsMissing => exact .next hs.ppsMissing
  | refLoss => exact .next hs.refLoss
  | sealChange => exact .next hs.sealChange
  | readStatus => exact .next (hs.spi (fun _ _ hu => (hu.noArgs (fun _ hv => hv.readStatusOp))))
  | readRecord => exact .next (hs.spi (fun _ _ hu => hu.readRecordOp))
  | readMeas => exact .next (hs.spi (fun _ _ hu => (hu.noArgs (fun _ hv => hv.readMeasOp))))
  | readParam => exact .next (hs.spi (fun _ _ hu => (hu.noArgs (fun _ hv => hv.readParamOp))))
  | readAudit => exact .next (hs.spi (fun _ _ hu => hu.readAuditOp))
  | writeParam => exact .next (hs.spi (fun _ _ hu => hu.writeParamOp))
  | commitParam => exact .next (hs.spi (fun _ _ hu => (hu.noArgs (fun _ hv => hv.commitParamOp))))
  | discard => exact .next (hs.spi (fun _ _ hu => (hu.noArgs (fun _ hv => hv.discardOp))))
  | setTime => exact .next (hs.spi (fun _ _ hu => hu.setTimeOp))
  | loadFw => exact .next (hs.spi (fun _ _ hu => hu.loadFwOp))
  | commitFw => exact .next (hs.spi (fun _ _ hu => (hu.noArgs (fun _ hv => hv.commitFwOp))))
  | reset => exact .next (hs.spi (fun _ _ hu => (hu.noArgs (fun _ hv => hv.spiOut.islReset))))
  | isl => exact .next hs.islReset
  | islMeasRelay => exact .actBus hs.islRelay
  | boot => exact .next (Kept.ite hs.bootOp hs)
  | recLoad => exact .next (hs.bootCmd (fun _ hu => hu.recLoadOp))
  | mrExtend => exact .next (hs.bootCmd (fun _ hu => hu.mrExtendOp))
  | unlockChallenge => exact .next (hs.bootCmd (fun _ hu => hu.challengeOp))
  | unlockSubmit => exact .next (hs.bootCmd (fun _ hu => hu.submitOp))
  | svnCommit => exact .next (hs.bootCmd (fun _ hu => hu.svnCommitOp))
  | bootMrSel => exact .next (hs.regOp (fun _ hu => hu.mrSelOp))
  | getVersion => exact .actBus (hs.spdm (fun _ hu => hu.spdmVersion))
  | getCapabilities => exact .actBus (hs.spdm (fun _ hu => hu.spdmCaps))
  | negotiateAlgorithms => exact .actBus (hs.spdm (fun _ hu => hu.spdmAlgs))
  | getDigests => exact .actBus (hs.spdm (fun _ hu => hu.spdmDigests))
  | getCertificate => exact .actBus (hs.spdm (fun _ hu => hu.spdmCert))
  | challenge => exact .actBus (hs.spdm (fun _ hu => hu.spdmChallenge))
  | getMeasurements => exact .actBus (hs.spdm (fun _ hu => hu.spdmMeas))
  | ivrAdjust => exact .act hs.ivrAdjust
  | vinUv => exact .act (op := fun s => raiseFault s pwrPg 4 0) hs.raiseFault
  | avsPoll mv ca =>
    exact .act (op := fun s => { s with pwr := { s.pwr with vin := mv % 65536, iin := ca % 65536 } }) (hs.upd rfl)
  | bulkTileGate => exact .act hs.bulkGate
  | pwrBulkTiles => exact .next (hs.regOp (fun _ hu => hu.bulkTilesOp))
  | run => exact .next (hs.regOp (fun _ hu => hu.runOp))
  | standby => exact .next (hs.regOp (fun _ hu => hu.standbyOp))
  | standbyEnter => exact .act hs.standbyEnter
  | doze => exact .next (hs.regOp (fun _ hu => hu.dozeOp))
  | wake => exact .act hs.wakeOp
  | por => exact .next hs.porOp
  | cold => exact .next hs.coldOp
  | warm => exact .next hs.warmOp
  | flr => exact .next hs.flrOp
  | rstTile => exact .next (Kept.ite (hs.regOp (fun _ hu => hu.rstTileOp)) hs)
  | rootPllLol => exact .actBus hs.rootPllLol
  | refClockLoss => exact .actBus hs.refClockLoss
  | dtAdj => exact .next (hs.clkWrite (fun _ hu => hu.dtAdj))
  | dtStep => exact .next (hs.clkWrite (fun _ hu => hu.dtCmd))
  | dtSet => exact .next (hs.clkWrite (fun _ hu => hu.dtCmd))
  | dtCmdDone => exact .act hs.dtCmdDone
  | slewDone => exact .act hs.slewDone
  | cdcEvtOvf => exact .actBus hs.cdcEvtOvf
  | faultRaise => exact .actBus hs.faultRaise
  | fltHb => exact .next (hs.regOp (fun _ hu => hu.fltHb))
  | hbMiss => exact .act hs.hbMiss
  | bellToggle => exact .actBus hs.bellToggle
  | crierTake => exact .next (hs.regOp (fun _ hu => hu.crierTake))
  | crierDone => exact .next (hs.regOp (fun _ hu => hu.crierDone))
  | crierSet => exact .next (hs.regOp (fun _ hu => hu.crierSoft))
  | crierClr => exact .next (hs.regOp (fun _ hu => hu.crierSoft))
  | counterWrap => exact .act hs.counterWrap
  | samplePeriod => exact .act hs.samplePeriod
  | tmuxSel => exact .next (hs.regOp (fun _ hu => hu.tmuxWrite))
  | bypass => exact .next hs.tapLoad
  | idcode => exact .next (Kept.ite hs.tapLoad.emit hs)
  | samplePreload => exact .next hs.tapCells
  | extest => exact .next hs.tapCells
  | extestPulse => exact .next hs.tapCells
  | extestTrain => exact .next hs.tapCells
  | clamp => exact .next hs.tapLoad
  | highz => exact .next hs.tapLoad
  | tapReset => exact .next hs.tapLoad
  | mainPowerLoss => exact .next hs.powerLoss
  | islPowerLoss => exact .next hs.islPowerLoss
  | ethLinkUp => exact .act hs.ethUp
  | refClockReturn => exact .actBus hs.refClockReturn
  | serdesPllLol => exact .act hs.anyLink
  | islRefReturn => exact .next hs.islRefReturn
  | tileResetDone => exact .actBus hs.tileResetDone
  | invalDone => exact .act (Kept.ite hs.invalDone hs)
  | pcieLinkUp => exact .actBus (op := fun s => { s with boot := { s.boot with pcieUp := true } }) (hs.upd rfl)

theorem step_front (c : Instr) (rest : List Instr) (s : State) (h : s.pending = c :: rest) :
    step s = exec c { s with pending := rest } := by
  unfold step
  rw [h]

/-- A step answers a next state with the rest of the waiting commands, and keeps the form of the memories. -/
theorem step_answers (s : State) : ∃ t, Steps s t ∧ t.pending = s.pending.tail ∧ (MemForm s → MemForm t) := by
  cases h : s.pending with
  | nil =>
    have hk : Kept s (clockTick s) := (Kept.refl s).clockTick
    exact ⟨clockTick s, by simp [Steps, step, h], hk.pending.trans h, hk.form⟩
  | cons c rest =>
    obtain ⟨t, ht, hk⟩ := exec_answers c { s with pending := rest }
    exact ⟨t, (step_front c rest s h).trans ht, hk.pending, hk.form⟩

/-- Settles O60: every command keeps the waiting commands and the form of the memories (`Kept`), shown for each function of the
model that answers a state, and a step is its front command or a tick. -/
theorem memoryFormKept : Obligations.MemoryFormKept := by
  unfold Obligations.MemoryFormKept
  refine ⟨fun c s => ?_, step_answers⟩
  obtain ⟨t, ht, hk⟩ := exec_answers c s
  exact ⟨t, ht, hk.pending, hk.form⟩

end Sys2Proof.Machine
end

namespace Sys2Proof.Machine

/-! PROOFS. A step on the front command and on an empty queue (R432), the check values of the CRCs (R283), the reset state. -/

/-- Settles O1: the definition of a step, on a queue that is not empty. -/
theorem stepRunsFront : Obligations.StepRunsFront := step_front

/-- Settles O22: the model's CRC, run over the nine bytes. -/
theorem checkValues : Obligations.CheckValues := by
  unfold Obligations.CheckValues
  decide +kernel

/-- Settles O59: the reset values of the named fields are the ones of the register tables, and every other register and header
has no entry of its own. -/
theorem resetState : Obligations.ResetState := by
  unfold Obligations.ResetState
  refine ⟨by decide +kernel, fun _ _ _ => rfl, fun _ => rfl, ?_⟩
  decide +kernel

theorem syncStep_zero : syncStep 0 = 0 := by decide

/-- Without a slew and a cascade correction a tick moves time by the rate adjustment alone. -/
theorem tickExtra_free {s : State} (hslew : s.clk.slew = none) (hsync : s.clk.sync = 0) : tickExtra s = 655360 * s.clk.adj := by
  simp [tickExtra, hslew, hsync, syncStep_zero]

/-- The clock's own settings stand while it has neither a slew nor a correction under way. -/
theorem clk_tick_free {s : State} (hslew : s.clk.slew = none) (hsync : s.clk.sync = 0) :
    { s.clk with slew := s.clk.slew.map slewLeft, sync := s.clk.sync - syncStep s.clk.sync } = s.clk := by
  cases h : s.clk
  simp_all [syncStep_zero]

/-- A count split into whole units and a remainder, the units modulo `m`, is the count again but for multiples of `m`. -/
theorem split_carry (d inc m u : Nat) :
    ((d + inc / u) % m + m * ((d + inc / u) / m)) * u + inc % u = d * u + inc := by
  rw [Nat.mod_add_div, Nat.add_mul, Nat.add_assoc, Nat.div_add_mod']

/-- Settles O2: a tick adds a whole number of units of 10^-9 / 65536 ns and carries what does not fill a unit of 1 / 65536 ns. -/
theorem idleStepTicks : Obligations.IdleStepTicks := by
  unfold Obligations.IdleStepTicks
  refine ⟨fun s hp hr => by simp [step, hp, clockTick, hr], fun s hp hr hslew hsync => ⟨clockTick s, by simp [step, hp], ?_⟩⟩
  have htick : clockTick s = { s with
      tick := s.tick + 1, dt := (clockTick s).dt, dtRem := (clockTick s).dtRem } := by
    simp only [clockTick, hr, Bool.not_true, Bool.false_eq_true, if_false, clk_tick_free hslew hsync]
  refine ⟨?_, by rw [htick], ?_, ?_⟩
  · rw [htick]
  · simp only [clockTick, hr, Bool.not_true, Bool.false_eq_true, if_false]
    exact Nat.mod_lt _ (by decide)
  · simp only [clockTick, hr, Bool.not_true, Bool.false_eq_true, if_false, tickExtra_free hslew hsync, ← Int.mul_add]
    generalize (655360 * (1000000000 + s.clk.adj)).toNat = n
    refine ⟨(s.dt + (n + s.dtRem) / 1000000000) / 2 ^ 80, ?_⟩
    have h := split_carry s.dt (n + s.dtRem) (2 ^ 80) 1000000000
    rw [Int.add_assoc, Int.add_comm (s.dtRem : Int)]
    exact_mod_cast h

/-! ## The state a command answers, under the name the statement gives it -/

theorem runs_act_to {c : Instr} {s t : State} {op : State → State} (e : exec c s = act op s) (h : alive s = true) (ht : op s = t) :
    Runs c s t := ht ▸ runs_act e h

theorem runs_actBus_to {c : Instr} {s t : State} {op : State → State} (e : exec c s = actBus op s) (h : busUp s = true)
    (ht : op s = t) : Runs c s t := ht ▸ runs_actBus e h

theorem runs_reg_to {c : Instr} {s t : State} {rq : Requester} {page off : Nat} {op : State → State}
    (e : exec c s = .next (regOp rq page off op s)) (h : Accepts s rq page off) (ht : op s = t) : Runs c s t := ht ▸ runs_reg e h

theorem runs_regB_to {c : Instr} {s t : State} {rq : Requester} {page off bank : Nat} {op : State → State}
    (e : exec c s = .next (regOpB rq page off bank op s)) (h : AcceptsB s rq page off bank) (ht : op s = t) : Runs c s t :=
  ht ▸ runs_regB e h

end Sys2Proof.Machine

namespace Sys2Proof.Machine

/-! PROOFS. Interrupt sources (R452, R453): telling a source and counting an event leave owners and levels alone. -/

@[simp] theorem sendMsix_crier (s : State) (v : Nat) : (sendMsix s v).crier = s.crier := by rw [sendMsix_frame]

/-- Telling a source writes its told level only. -/
theorem getSrc_tell (s : State) (n m : Nat) :
    ∃ b, getSrc (tell s n) m = if m = n then { getSrc s n with told := b } else getSrc s m := by
  unfold tell
  simp only
  split
  · exact ⟨(getSrc s n).told, by split <;> simp_all⟩
  · refine ⟨srcLevel s n, ?_⟩
    split
    · simp [getSrc, ngetD_nset]
    · simp

theorem getSrc_tell_owner (s : State) (n m : Nat) : (getSrc (tell s n) m).owner = (getSrc s m).owner := by
  obtain ⟨b, h⟩ := getSrc_tell s n m
  rw [h]
  split <;> simp_all

theorem getSrc_setLevel_same (s : State) (n : Nat) (l : Bool) :
    ∃ b, getSrc (setLevel s n l) n = { getSrc s n with level := l, told := b } := by
  obtain ⟨b, h⟩ := getSrc_tell (setSrc s n { getSrc s n with level := l }) n n
  exact ⟨b, by simp [setLevel, h]⟩

theorem getSrc_setLevel_other (s : State) {n m : Nat} (l : Bool) (hm : m ≠ n) : getSrc (setLevel s n l) m = getSrc s m := by
  obtain ⟨b, h⟩ := getSrc_tell (setSrc s n { getSrc s n with level := l }) n m
  rw [setLevel, h]
  simp [hm]

theorem setLevel_frame (s : State) (n : Nat) (l : Bool) : setLevel s n l = { s with
    crier := (setLevel s n l).crier, emitted := (setLevel s n l).emitted, msix := (setLevel s n l).msix } := by
  unfold setLevel
  rw [tell_frame]
  rfl

/-! ## Owners outlast reports -/

/-- Every source has in `t` the owner it has in `s`. -/
def KeepsOwners (s t : State) : Prop := ∀ m, (getSrc t m).owner = (getSrc s m).owner

namespace KeepsOwners

theorem refl (s : State) : KeepsOwners s s := fun _ => rfl

theorem trans {s t u : State} (h : KeepsOwners s t) (g : KeepsOwners t u) : KeepsOwners s u := fun m => (g m).trans (h m)

theorem of_crier {s t : State} (h : t.crier = s.crier) : KeepsOwners s t := fun m => by simp [getSrc, h]

end KeepsOwners

theorem setEvt_keepsOwners (s : State) (p k : Nat) : KeepsOwners s (setEvt s p k) := by
  intro m
  unfold setEvt setEvts tellPage
  simp only
  split
  · split
    · exact getSrc_tell_owner _ _ _
    · rfl
  · rfl

/-- What the writes of the PERF page's registers and its events keep, counting an event keeps. -/
theorem perfEvt_closed {R : State → State → Prop} (refl : ∀ s, R s s) (trans : ∀ {s t u}, R s t → R t u → R s u)
    (hreg : ∀ s b o v, R s (rputN s perfPg b o v)) (hevt : ∀ s k, R s (setEvt s perfPg k)) (t : Option Nat) (ev k : Nat) (s : State) :
    R s (perfEvt t ev k s) := by
  have hover : ∀ s n, R s (overflow s t n) := by
    intro s n
    unfold overflow
    extract_lets b s1 s2
    split
    · split
      · exact trans (trans (hreg _ _ _ _) (hevt _ _)) (hreg _ _ _ _)
      · exact trans (hreg _ _ _ _) (hevt _ _)
    · exact hreg _ _ _ _
  have hadd : ∀ f s n k, R s (perfAdd t f s n k) := by
    intro f
    induction f with
    | zero => exact fun s _ _ => refl s
    | succ f ih =>
      intro s n k
      unfold perfAdd
      extract_lets v s1 up
      split
      · exact hreg _ _ _ _
      · refine trans ?_ (hover _ _)
        split
        · exact trans (hreg _ _ _ _) (ih _ _ _)
        · exact hreg _ _ _ _
  unfold perfEvt
  split
  · exact refl s
  · exact List.foldlRecOn (motive := R s) _ _ (refl s) fun u hu n _ => trans hu (hadd _ _ _ _)

theorem perfEvt_keepsOwners (t : Option Nat) (ev k : Nat) (s : State) : KeepsOwners s (perfEvt t ev k s) :=
  perfEvt_closed .refl .trans (fun _ _ _ _ => .of_crier rfl) (fun _ _ => setEvt_keepsOwners _ _ _) t ev k s

/-! ## The commands -/

theorem crierTake_pending {s : State} (n : Fin 4) {src : Nat} (hsrc : src < 1024) (hp : srcPending s src = true) :
    crierTake (.steward n) src s = evG 0x111 (setSrc { s with takeRes := nset s.takeRes (rqIx (.steward n)) true } src
      { getSrc s src with owner := some n.val }) := by
  simp only [crierTake, hsrc, hp, decide_true, Bool.and_self, if_true]
  rfl

theorem crierDone_owner {s : State} {n : Fin 4} {src : Nat} (ho : (getSrc s src).owner = some n.val) :
    crierDone (.steward n) src s =
      if src = 216 ∨ src = 217 ∨ src = 224 ∨ src = 225 then setLevel (setSrc s src { getSrc s src with owner := none }) src false
      else setSrc s src { getSrc s src with owner := none } := by
  simp only [crierDone, ho, ne_eq, not_true_eq_false, if_false]

theorem hostDeny_spec (s : State) (addr : Nat) :
    rgetN (hostDeny s addr) topPg 0 0x108 = min 0xFFFFFFFF (rgetN s topPg 0 0x108 + 1) ∧
      hostDeny s addr = { s with regs := (hostDeny s addr).regs } :=
  ⟨(topCount_spec s 0x108 addr (by decide) (by decide)).2.1, rfl⟩

/-- A software source takes the level; no other source changes. -/
theorem crierSoft_spec {s : State} {src : Nat} (l : Bool) (h1 : 256 ≤ src) (h2 : src < 512) :
    (getSrc (crierSoft src l s) src).level = l ∧ (∀ m, m ≠ src → getSrc (crierSoft src l s) m = getSrc s m) ∧
      crierSoft src l s = { s with
        crier := (crierSoft src l s).crier, emitted := (crierSoft src l s).emitted, msix := (crierSoft src l s).msix } := by
  have e : crierSoft src l s = setLevel s src l := if_pos ⟨h1, h2⟩
  rw [e]
  obtain ⟨b, hb⟩ := getSrc_setLevel_same s src l
  exact ⟨by rw [hb], fun m hm => getSrc_setLevel_other s l hm, setLevel_frame s src l⟩

theorem crierSoft_discards {s : State} {src : Nat} (l : Bool) (h : src < 256 ∨ 512 ≤ src) : crierSoft src l s = s :=
  if_neg (by omega)

/-- Settles O57: a take or an end writes its source's owner; the reports that follow keep every owner. -/
theorem crierSources : Obligations.CrierSources := by
  unfold Obligations.CrierSources
  refine ⟨fun s n src h hsrc hp => ⟨_, runs_reg rfl h, ?_⟩, fun s n src h hp => ⟨_, runs_reg rfl h, ?_⟩,
    fun s src h => ⟨_, runs_reg rfl h, hostDeny_spec s _⟩, fun s n src h ho => ⟨_, runs_reg rfl h, ?_⟩, fun s n src h ho => ?_,
    fun s rq src h h1 h2 => ⟨_, runs_reg rfl h, crierSoft_spec true h1 h2⟩,
    fun s rq src h h1 h2 => ⟨_, runs_reg rfl h, crierSoft_spec false h1 h2⟩, fun s rq src h h1 => ?_, fun s rq src h h1 => ?_⟩
  · rw [crierTake_pending n hsrc hp]
    have howner := perfEvt_keepsOwners none 0x111 1 (setSrc { s with takeRes := nset s.takeRes (rqIx (.steward n)) true } src
      { getSrc s src with owner := some n.val })
    refine ⟨(howner src).trans (by simp), ?_, fun m hm => (howner m).trans (by simp [hm, getSrc, ngetD_nset])⟩
    rw [(evG_told _ _).frame]
    exact nget_nset_same _ _ _
  · simp only [crierTake, hp, Bool.and_false, Bool.false_eq_true, if_false]
    exact ⟨nget_nset_same _ _ _, trivial⟩
  · rw [crierDone_owner ho]
    split
    · obtain ⟨b, hb⟩ := getSrc_setLevel_same (setSrc s src { getSrc s src with owner := none }) src false
      refine ⟨by rw [hb]; simp, fun m hm => by rw [getSrc_setLevel_other _ _ hm]; simp [hm], ?_⟩
      rw [setLevel_frame]
      rfl
    · exact ⟨by simp, fun m hm => by simp [hm], rfl⟩
  · exact runs_reg_to rfl h (if_pos ho)
  · exact runs_reg_to rfl h (crierSoft_discards true h1)
  · exact runs_reg_to rfl h (crierSoft_discards false h1)

end Sys2Proof.Machine

namespace Sys2Proof.Machine

/-! PROOFS. Faults (R14, R446 to R450): a raise reaches the log and the fault state through one chain of steps, of which
only `logFault` and `enterFault` write them. -/

theorem Told.flt {s t : State} (h : Told s t) : t.flt = s.flt := by rw [h.frame]

theorem setLevel_flt (s : State) (n : Nat) (l : Bool) : (setLevel s n l).flt = s.flt := by rw [setLevel_frame]

theorem setLevel_regs (s : State) (n : Nat) (l : Bool) : (setLevel s n l).regs = s.regs := by rw [setLevel_frame]

theorem setLevel_hdrs (s : State) (n : Nat) (l : Bool) : (setLevel s n l).hdrs = s.hdrs := by rw [setLevel_frame]

theorem setEvt_flt (s : State) (p k : Nat) : (setEvt s p k).flt = s.flt := (setEvt_told s p k).flt

theorem dropFrames_flt (s : State) : (dropFrames s).flt = s.flt :=
  List.foldlRecOn (motive := fun t : State => t.flt = s.flt) _ _ rfl fun t ht p _ => by
    dsimp only
    split
    · split <;> exact ht
    · exact ht

theorem logFault_flt (s : State) (e : LogEnt) : (logFault s e).flt = { s.flt with
    log := (e :: s.flt.log).take 64, head := (s.flt.head + 1) % 256, wrapped := s.flt.wrapped || decide (64 ≤ s.flt.log.length) } := by
  unfold logFault
  extract_lets f full s1
  have h1 : s1.flt = { f with log := (e :: f.log).take 64, head := (f.head + 1) % 256, wrapped := f.wrapped || full } :=
    setEvt_flt _ _ _
  split
  · rw [setEvt_flt, h1]
  · exact h1

theorem enterFault_flt (s : State) (id : Nat) : (enterFault s id).flt = if s.flt.fault then s.flt else
    { s.flt with fault := true, first := s.flt.first.orElse fun _ => some (id, s.dt) } := by
  unfold enterFault
  split
  · rfl
  · simp only [emit, dropFrames_flt]

/-- Below FATAL a severity marks levels and fences only. -/
theorem applySev_flt (s : State) (k : PageKind) (page src info sev : Nat) : (applySev s k page src info sev).flt =
    if sev = 3 ∧ s.flt.fault = false then { s.flt with fault := true, first := s.flt.first.orElse fun _ => some (faultId page src, s.dt) }
    else s.flt := by
  unfold applySev
  extract_lets s1 s2
  have h1 : s1.flt = s.flt ∧ s1.dt = s.dt := by
    unfold s1
    split
    · rw [setLevel_frame]; exact ⟨rfl, rfl⟩
    · exact ⟨rfl, rfl⟩
  have h2 : s2.flt = s.flt ∧ s2.dt = s.dt := by
    unfold s2
    split
    · rw [setLevel_frame]
      split <;> exact h1
    · exact h1
  obtain ⟨hflt, hdt⟩ := h2
  by_cases h3 : sev = 3
  · rw [if_pos h3, enterFault_flt, hflt, hdt]
    cases h4 : s.flt.fault
    · rw [if_neg Bool.false_ne_true, if_pos ⟨h3, rfl⟩]
    · rw [if_pos rfl, if_neg (fun h => nomatch h.2)]
  · rw [if_neg h3, if_neg (fun h => h3 h.1), hflt]

theorem applySev_regs {s : State} {k : PageKind} {page src info sev : Nat} (h : sev ≠ 3) :
    (applySev s k page src info sev).regs = s.regs := by
  unfold applySev
  extract_lets s1 s2
  have h1 : s1.regs = s.regs := by
    unfold s1
    split
    · exact setLevel_regs _ _ _
    · rfl
  rw [if_neg h]
  unfold s2
  split
  · rw [setLevel_regs]
    split <;> exact h1
  · exact h1

/-- A page that can be fenced is, from CONTAIN up. -/
theorem applySev_fenced {s : State} {k : PageKind} {page src info sev : Nat} (h : 2 ≤ sev) (hk : k ≠ .pwr) (hf : canFence k = true) :
    (hdr (applySev s k page src info sev) page).fenced = true := by
  have ht : fenceTarget k page src info = some page := by simp [fenceTarget, hk, hf]
  have h2 : ∀ u : State, (hdr (setLevel (fencePage u page) 225 true) page).fenced = true :=
    fun u => (setLevel_noted _ _ _).fence _ (by simp [fencePage])
  unfold applySev
  simp only [ht, h, if_true]
  split
  · exact (enterFault_noted _ _).fence _ (h2 _)
  · exact h2 _

theorem lockstepBreak_flt (s : State) (page src info : Nat) : (lockstepBreak s page src info).flt = s.flt := by
  unfold lockstepBreak
  split
  · split <;> rfl
  · rfl

theorem lockstepBreak_regs (s : State) (page src info : Nat) : (lockstepBreak s page src info).regs = s.regs := by
  unfold lockstepBreak
  split
  · split <;> rfl
  · rfl

theorem containBreach_frame (s : State) (k : PageKind) (page src info : Nat) :
    containBreach s k page src info = { s with ctxs := (containBreach s k page src info).ctxs } := by
  unfold containBreach
  split
  · rfl
  · split <;> rfl
  · split <;> rfl

/-! ## The kept severity -/

/-- The kept severities of a page stand. -/
def KeepsSev (s t : State) : Prop := ∀ p, (hdr t p).sevKept = (hdr s p).sevKept

theorem Told.keepsSev {s t : State} (h : Told s t) : KeepsSev s t := fun p => by rw [h.hdr]

theorem KeepsSev.of_hdrs {s t : State} (h : t.hdrs = s.hdrs) : KeepsSev s t := fun p => by simp [hdr, h]

theorem applySev_keepsSev {s : State} {k : PageKind} {page src info sev : Nat} (h : sev ≠ 3) :
    KeepsSev s (applySev s k page src info sev) := by
  intro p
  unfold applySev
  extract_lets s1 s2
  have h1 : (hdr s1 p).sevKept = (hdr s p).sevKept := by
    unfold s1
    split
    · exact KeepsSev.of_hdrs (setLevel_hdrs _ _ _) p
    · rfl
  rw [if_neg h]
  unfold s2
  split
  · rw [KeepsSev.of_hdrs (setLevel_hdrs _ _ _) p]
    split
    · rename_i q _
      by_cases hq : p = q
      · subst hq; simpa [fencePage] using h1
      · simpa [fencePage, hq] using h1
    · exact h1
  · exact h1

theorem lockstepBreak_keepsSev (s : State) (page src info : Nat) : KeepsSev s (lockstepBreak s page src info) := by
  intro p
  unfold lockstepBreak
  split
  · split
    · rw [hdr_breakClass]
      split
      · rw [breakLock_frame]
      · rfl
    · rfl
  · rfl

/-- A field of two bits reads back what was put there, through any word that holds it. -/
theorem bits_setBits_two {x src v : Nat} (hs : src < 16) (hv : v < 4) :
    bits (setBits x (2 * src + 1) (2 * src) v % 2 ^ 32) (2 * src + 1) (2 * src) = v := by
  have hw : 2 * src + 1 + 1 - 2 * src = 2 := by omega
  have h32 : (2 : Nat) ^ 32 = 2 ^ (2 * src) * 2 ^ (32 - 2 * src) := by rw [← Nat.pow_add]; congr 1; omega
  have h4 : ∃ m, (2 : Nat) ^ (32 - 2 * src) = 4 * m := ⟨2 ^ (30 - 2 * src), by
    rw [show (4 : Nat) = 2 ^ 2 from rfl, ← Nat.pow_add]; congr 1; omega⟩
  obtain ⟨m, hm⟩ := h4
  unfold setBits bits
  simp only [hw, Nat.shiftRight_eq_div_pow, show (2 : Nat) ^ 2 = 4 from rfl]
  rw [h32, Nat.mod_mul_right_div_self, hm]
  generalize hP : (2 : Nat) ^ (2 * src) = P
  have hP0 : 0 < P := by rw [← hP]; positivity
  have hsplit : x - x / P % 4 * P + v % 4 * P = x % P + P * (4 * (x / P / 4) + v) := by
    have h1 : P * (x / P) + x % P = x := Nat.div_add_mod x P
    have h2 : 4 * (x / P / 4) + x / P % 4 = x / P := Nat.div_add_mod _ 4
    have h3 : v % 4 = v := Nat.mod_eq_of_lt (by omega)
    have h4 : P * (4 * (x / P / 4)) + x / P % 4 * P = P * (x / P) := by
      rw [Nat.mul_comm _ P, ← Nat.mul_add, h2]
    rw [h3, Nat.mul_add, Nat.mul_comm v P]
    omega
  rw [hsplit, Nat.add_mul_div_left _ _ hP0, Nat.div_eq_of_lt (Nat.mod_lt _ hP0), Nat.zero_add]
  rw [Nat.mod_mul_right_mod]
  omega

/-! ## A raise -/

theorem raiseBase_first {s : State} {page src info i : Nat} {k : PageKind} (hp : pageAt page = some (k, i)) (hf : hasFlt k src = true)
    (hb : (hdr s page).fltSrc.getLsbD src = false) : ∃ u : State, u.flt = s.flt ∧ u.dt = s.dt ∧
    raiseBase s page src info = lockstepBreak (applySev (logFault u
      ⟨info % 256, decide (sevOf s page src = 3 ∧ !s.flt.fault), sevOf s page src, faultId page src, s.dt⟩)
      k page src info (sevOf s page src)) page src info := by
  have hsev : raiseSev s page src = sevOf s page src := by simp [raiseSev, hb]
  refine ⟨setHdr s page { keepSev (hdr s page) src (sevOf s page src) with
    fltSrc := (keepSev (hdr s page) src (sevOf s page src)).fltSrc ||| BitVec.ofNat 16 (2 ^ src) }, rfl, rfl, ?_⟩
  unfold raiseBase
  simp only [hp, hf, hsev, keepSev, hb, Bool.not_true, Bool.false_eq_true, if_false]

theorem raiseBase_again {s : State} {page src info i : Nat} {k : PageKind} (hp : pageAt page = some (k, i)) (hf : hasFlt k src = true)
    (hb : (hdr s page).fltSrc.getLsbD src = true) :
    raiseBase s page src info = lockstepBreak (applySev (bump (setHdr s page (keepSev (hdr s page) src (raiseSev s page src))) fltPg 0 0x128 1)
      k page src info (raiseSev s page src)) page src info := by
  unfold raiseBase
  simp only [hp, hf, keepSev, hb, Bool.not_true, Bool.false_eq_true, if_false, if_true]

/-- Containment marks contexts: a raise does with the rest what its base does. -/
theorem raiseFault_frame (s : State) (page src info : Nat) :
    raiseFault s page src info = { raiseBase s page src info with ctxs := (raiseFault s page src info).ctxs } := by
  unfold raiseFault
  split
  · unfold raiseBase
    simp only [*]
  · dsimp only
    split
    · exact containBreach_frame _ _ _ _ _
    · rfl

theorem raiseFault_flt (s : State) (page src info : Nat) : (raiseFault s page src info).flt = (raiseBase s page src info).flt := by
  rw [raiseFault_frame]

theorem raiseFault_regs (s : State) (page src info : Nat) : (raiseFault s page src info).regs = (raiseBase s page src info).regs := by
  rw [raiseFault_frame]

theorem raiseFault_hdrs (s : State) (page src info : Nat) : (raiseFault s page src info).hdrs = (raiseBase s page src info).hdrs := by
  rw [raiseFault_frame]

theorem raiseFault_hdr (s : State) (page src info p : Nat) : hdr (raiseFault s page src info) p = hdr (raiseBase s page src info) p := by
  simp only [hdr, raiseFault_hdrs]

/-- The first raise of a source is logged; at FATAL the device enters the fault state. -/
theorem raiseFault_flt_first {s : State} {page src info i : Nat} {k : PageKind} (hp : pageAt page = some (k, i)) (hf : hasFlt k src = true)
    (hb : (hdr s page).fltSrc.getLsbD src = false) : ∃ w,
    (raiseFault s page src info).flt =
      if sevOf s page src = 3 ∧ s.flt.fault = false then
        { s.flt with
          log := (⟨info % 256, decide (sevOf s page src = 3 ∧ !s.flt.fault), sevOf s page src, faultId page src, s.dt⟩ :: s.flt.log).take 64
          head := (s.flt.head + 1) % 256, wrapped := w
          fault := true, first := s.flt.first.orElse fun _ => some (faultId page src, s.dt) }
      else { s.flt with
          log := (⟨info % 256, decide (sevOf s page src = 3 ∧ !s.flt.fault), sevOf s page src, faultId page src, s.dt⟩ :: s.flt.log).take 64
          head := (s.flt.head + 1) % 256, wrapped := w } := by
  obtain ⟨u, hflt, hdt, e⟩ := raiseBase_first hp hf hb
  have hd : ∀ l, (logFault u l).dt = s.dt := fun l => by rw [(logFault_noted u l).frame]; exact hdt
  rw [raiseFault_flt, e, lockstepBreak_flt, applySev_flt, logFault_flt, hd, hflt]
  exact ⟨_, rfl⟩

theorem raiseFault_fenced {s : State} {page src info i : Nat} {k : PageKind} (hp : pageAt page = some (k, i)) (hf : hasFlt k src = true)
    (h2 : 2 ≤ raiseSev s page src) (hk : k ≠ .pwr) (hc : canFence k = true) :
    (hdr (raiseFault s page src info) page).fenced = true := by
  rw [raiseFault_hdr]
  cases hb : (hdr s page).fltSrc.getLsbD src with
  | true =>
    rw [raiseBase_again hp hf hb]
    exact (lockstepBreak_noted _ _ _ _).fence _ (applySev_fenced h2 hk hc)
  | false =>
    obtain ⟨u, _, _, e⟩ := raiseBase_first (info := info) hp hf hb
    rw [show raiseSev s page src = sevOf s page src by simp [raiseSev, hb]] at h2
    rw [e]
    exact (lockstepBreak_noted _ _ _ _).fence _ (applySev_fenced h2 hk hc)

/-- A raise below FATAL of a source already raised is counted and logs nothing. -/
theorem raiseFault_again {s : State} {page src info i : Nat} {k : PageKind} (hp : pageAt page = some (k, i)) (hf : hasFlt k src = true)
    (hb : (hdr s page).fltSrc.getLsbD src = true) (h3 : raiseSev s page src < 3) :
    (raiseFault s page src info).flt = s.flt ∧
      rgetN (raiseFault s page src info) fltPg 0 0x128 = min 0xFFFFFFFF (rgetN s fltPg 0 0x128 + 1) := by
  have hne : raiseSev s page src ≠ 3 := by omega
  constructor
  · rw [raiseFault_flt, raiseBase_again hp hf hb, lockstepBreak_flt, applySev_flt, if_neg (fun h => hne h.1)]
    rfl
  · have hr : (raiseFault s page src info).regs = (bump s fltPg 0 0x128 1).regs := by
      rw [raiseFault_regs, raiseBase_again hp hf hb, lockstepBreak_regs, applySev_regs hne]
      rfl
    rw [← rgetN_bump]
    simp only [rgetN, rget, hr]

theorem raiseSev_raiseFault {s : State} {page src info i : Nat} {k : PageKind} (hp : pageAt page = some (k, i)) (hf : hasFlt k src = true)
    (hb : (hdr s page).fltSrc.getLsbD src = true) (h16 : src < 16) (h3 : raiseSev s page src < 3) :
    raiseSev (raiseFault s page src info) page src =
      max (sevOf (raiseFault s page src info) page src) (raiseSev s page src) := by
  have hkept : (hdr (raiseFault s page src info) page).sevKept = (keepSev (hdr s page) src (raiseSev s page src)).sevKept := by
    rw [raiseFault_hdr, raiseBase_again hp hf hb, lockstepBreak_keepsSev, applySev_keepsSev (by omega)]
    exact congrArg PageHdr.sevKept ((hdr_setHdr s page _ page).trans (if_pos rfl))
  generalize ht : raiseFault s page src info = t at *
  have hbit : (hdr t page).fltSrc.getLsbD src = true := by rw [← ht]; exact raiseFault_src hp hf h16
  rw [raiseSev]
  simp only [hbit, if_true, hkept, keepSev, BitVec.toNat_ofNat, bits_setBits_two h16 (show raiseSev s page src < 4 by omega)]

theorem le_raiseSev (s : State) (page src : Nat) : sevOf s page src ≤ raiseSev s page src := by
  unfold raiseSev
  dsimp only
  split
  · exact Nat.le_max_left _ _
  · exact Nat.le_refl _

/-! ## Heartbeats and the BELL -/

theorem raiseFault_missed (s : State) (page src info : Nat) : (raiseFault s page src info).flt.missed = s.flt.missed := by
  cases hp : pageAt page with
  | none => simp [raiseFault, hp]
  | some ki =>
    obtain ⟨k, i⟩ := ki
    cases hf : hasFlt k src with
    | false => simp [raiseFault, raiseBase, hp, hf]
    | true =>
      cases hb : (hdr s page).fltSrc.getLsbD src with
      | false =>
        obtain ⟨w, e⟩ := raiseFault_flt_first (info := info) hp hf hb
        rw [e]
        split <;> rfl
      | true =>
        rw [raiseFault_flt, raiseBase_again hp hf hb, lockstepBreak_flt, applySev_flt]
        split <;> rfl

theorem hbMiss_late {s : State} {n : Nat} (hl : hbLate s n = true) (hm : getIx s.flt.missed n false = false) :
    hbMiss n s = setEvt (raiseFault { s with flt := { s.flt with missed := setIx s.flt.missed n true false } } fltPg 2 n) fltPg 1 := by
  simp [hbMiss, hl, hm]

theorem hbMiss_missed {s : State} {n : Nat} (hm : getIx s.flt.missed n false = true) : hbMiss n s = s := by
  simp [hbMiss, hm]

theorem bellHolds_of_missed {s : State} {n : Nat} (hn : n < 4) (hmask : hbMask s / 2 ^ n % 2 = 1)
    (hm : getIx s.flt.missed n false = true) : bellHolds s = true := by
  have : ((List.range 4).any fun n => hbMask s / 2 ^ n % 2 == 1 && (getIx s.flt.missed n false || hbLate s n)) = true :=
    List.any_eq_true.2 ⟨n, List.mem_range.2 hn, by simp [hmask, hm]⟩
  simp [bellHolds, this]

/-- Settles O56: one lemma for a first raise, one for a repeated one, and the equations of the heartbeat commands. -/
theorem faultsAndBell : Obligations.FaultsAndBell := by
  unfold Obligations.FaultsAndBell
  refine ⟨fun s page src info k i hup hp hf h16 hr hb => ?_, fun s page src info k i hup hp hf hr hb h16 h3 => ?_,
    fun s page src info hup hr => runs_actBus_to rfl hup (if_pos hr), fun s n h => ⟨_, runs_reg rfl h, rfl, fun m _ => ?_, fun m _ => ?_⟩,
    fun s h => ⟨_, runs_reg rfl h, hostDeny_spec s _⟩, fun s n ha hl hm => ?_, fun s n ha hm => runs_act_to rfl ha (hbMiss_missed hm),
    fun s n _ hn hmask hm => bellHolds_of_missed hn hmask hm, fun s hup hd => runs_actBus_to rfl hup ?_,
    fun s hup hd => runs_actBus_to rfl hup ?_⟩
  · obtain ⟨w, e⟩ := raiseFault_flt_first (info := info) hp hf hb
    refine ⟨_, runs_actBus_to rfl hup (if_neg (by simp [hr])), raiseFault_src hp hf h16, ?_, ?_, fun h3 hn => ?_,
      fun h2 => raiseFault_fenced hp hf (Nat.le_trans h2 (le_raiseSev s page src)), fun h3 => ?_⟩
    · rw [e]; split <;> rfl
    · rw [e]; split <;> rfl
    · rw [e, if_pos ⟨h3, hn⟩]
      exact ⟨rfl, fun h => by rw [h]; rfl⟩
    · rw [e, if_neg (fun h => h3 h.1)]
  · obtain ⟨hflt, hcount⟩ := raiseFault_again (info := info) hp hf hb h3
    exact ⟨_, runs_actBus_to rfl hup (if_neg (by simp [hr])), hflt, ⟨le_raiseSev s page src, raiseFault_fenced hp hf,
      raiseSev_raiseFault hp hf hb h16 h3⟩, hcount⟩
  · split
    · subst_vars; exact getIx_setIx_same _ _ _ _ _
    · exact getIx_setIx_other _ _ _ _ _ ‹_›
  · split
    · subst_vars; exact getIx_setIx_same _ _ _ _ _
    · exact getIx_setIx_other _ _ _ _ _ ‹_›
  · refine ⟨_, runs_act_to rfl ha (hbMiss_late hl hm), ?_, ?_, setEvt_pend _ _ 1 (by decide)⟩
    · rw [setEvt_flt, raiseFault_missed]
      exact getIx_setIx_same _ _ _ _ _
    · rw [((setEvt_told _ fltPg 1).hdr fltPg)]
      exact raiseFault_src (k := .flt) (i := 0) (by decide) (by decide) (by decide)
  · simp [bellToggle, hd]
  · simp [bellToggle, hd]

end Sys2Proof.Machine

namespace Sys2Proof.Machine

/-! PROOFS. Debug (R461 to R469): counters that wrap, samples, the test multiplexer, boundary scan. -/

theorem setEvt_frame (s : State) (p k : Nat) : setEvt s p k = { s with
    hdrs := (setEvt s p k).hdrs, crier := (setEvt s p k).crier, emitted := (setEvt s p k).emitted, msix := (setEvt s p k).msix } :=
  (setEvts_spec s p _).1

theorem rgetN_rputN_other (s : State) {p b o p' b' o' : Nat} (v : Nat) (hb : b < 8192) (hb' : b' < 8192) (ho : o < 4096) (ho' : o' < 4096)
    (h : ¬ (p' = p ∧ b' = b ∧ o' = o)) : rgetN (rputN s p b o v) p' b' o' = rgetN s p' b' o' := by
  unfold rgetN rputN
  rw [rget_rput _ _ _ _ _ _ _ _ hb hb' ho ho', if_neg h]

theorem runs_next {c : Instr} {s u t : State} (e : exec c s = .next u) (h : u = t) : Runs c s t := by rw [Runs, e, h]

/-! ## Counters -/

theorem ovfOff_cases (t : Option Nat) : ovfOff t = 0x108 ∨ ovfOff t = 0x10C := by
  unfold ovfOff
  split <;> simp

theorem cntOff_bounds {t : Option Nat} {n : Nat} (h : n < perfCount t) : 0x280 ≤ cntOff t n ∧ cntOff t n < 4096 := by
  have hc : perfCount t ≤ 32 := by cases t <;> simp [perfCount]
  unfold cntOff
  split <;> omega

/-- An overflow writes the overflow word and PERF_CTRL: a counter is neither. -/
theorem rgetN_overflow_counter (s : State) {t : Option Nat} {n m : Nat} (ht : perfBank t < 8192) (hm : m < perfCount t) :
    rgetN (overflow s t n) perfPg (perfBank t) (cntOff t m) = rgetN s perfPg (perfBank t) (cntOff t m) := by
  have hc := cntOff_bounds hm
  have ho := ovfOff_cases t
  have h1 : ∀ v, rgetN (rputN s perfPg (perfBank t) (ovfOff t) v) perfPg (perfBank t) (cntOff t m) =
      rgetN s perfPg (perfBank t) (cntOff t m) :=
    fun v => rgetN_rputN_other _ _ ht ht (by omega) hc.2 (by omega)
  have h2 : ∀ (u : State) v, rgetN (rputN u perfPg 0 0x100 v) perfPg (perfBank t) (cntOff t m) = rgetN u perfPg (perfBank t) (cntOff t m) :=
    fun u v => rgetN_rputN_other _ _ (by decide) ht (by decide) hc.2 (by omega)
  unfold overflow
  extract_lets b s1 s2
  split
  · split
    · rw [h2, rgetN_setEvt, h1]
    · rw [rgetN_setEvt, h1]
  · exact h1 _

theorem overflow_bit (s : State) {t : Option Nat} {n : Nat} (ht : perfBank t < 8192) (hn : n < 32) :
    (rgetN (overflow s t n) perfPg (perfBank t) (ovfOff t)).testBit n = true := by
  have ho := ovfOff_cases t
  have h1 : rgetN (rputN s perfPg (perfBank t) (ovfOff t) (rgetN s perfPg (perfBank t) (ovfOff t) ||| 2 ^ n)) perfPg (perfBank t) (ovfOff t) =
      rgetN s perfPg (perfBank t) (ovfOff t) ||| 2 ^ n :=
    rgetN_rputN_same _ _ _ _ _ (Nat.or_lt_two_pow (rgetN_lt _ _ _ _) (Nat.pow_lt_pow_right (by decide) hn))
  have h2 : ∀ (u : State) v, rgetN (rputN u perfPg 0 0x100 v) perfPg (perfBank t) (ovfOff t) = rgetN u perfPg (perfBank t) (ovfOff t) :=
    fun u v => rgetN_rputN_other _ _ (by decide) ht (by decide) (by omega) (by omega)
  have hbit : (rgetN s perfPg (perfBank t) (ovfOff t) ||| 2 ^ n).testBit n = true := by simp
  unfold overflow
  extract_lets b s1 s2
  split
  · split
    · rw [h2, rgetN_setEvt, h1]; exact hbit
    · rw [rgetN_setEvt, h1]; exact hbit
  · rw [h1]; exact hbit

/-- A carry climbs: the counters below the one it enters stand. -/
theorem rgetN_perfAdd_below {t : Option Nat} (ht : perfBank t < 8192) (f : Nat) : ∀ (s : State) (n k m : Nat), n < perfCount t → m < n →
    rgetN (perfAdd t f s n k) perfPg (perfBank t) (cntOff t m) = rgetN s perfPg (perfBank t) (cntOff t m) := by
  induction f with
  | zero => intros; rfl
  | succ f ih =>
    intro s n k m hn hmn
    have hm : m < perfCount t := by omega
    have h1 : ∀ v, rgetN (rputN s perfPg (perfBank t) (cntOff t n) v) perfPg (perfBank t) (cntOff t m) =
        rgetN s perfPg (perfBank t) (cntOff t m) :=
      fun v => rgetN_rputN_other _ _ ht ht (cntOff_bounds hn).2 (cntOff_bounds hm).2 (by unfold cntOff; omega)
    unfold perfAdd
    extract_lets v s1 up
    split
    · exact h1 _
    · rw [rgetN_overflow_counter _ ht hm]
      split
      · rename_i hup
        have hn1 : n + 1 < perfCount t := by
          simp only [up, Bool.and_eq_true, decide_eq_true_eq] at hup
          exact hup.1.1
        rw [ih _ _ _ _ hn1 (by omega)]
        exact h1 _
      · exact h1 _

/-- Exactly filled, a counter stands at zero with its overflow bit set. -/
theorem perfAdd_wraps (s : State) {t : Option Nat} {n : Nat} (ht : perfBank t < 8192) (hn : n < perfCount t) (f : Nat) :
    rgetN (perfAdd t (f + 1) s n (2 ^ 32 - rgetN s perfPg (perfBank t) (cntOff t n))) perfPg (perfBank t) (cntOff t n) = 0 ∧
      (rgetN (perfAdd t (f + 1) s n (2 ^ 32 - rgetN s perfPg (perfBank t) (cntOff t n))) perfPg (perfBank t) (ovfOff t)).testBit n = true := by
  have hfull : rgetN s perfPg (perfBank t) (cntOff t n) + (2 ^ 32 - rgetN s perfPg (perfBank t) (cntOff t n)) = 2 ^ 32 :=
    Nat.add_sub_cancel' (Nat.le_of_lt (rgetN_lt _ _ _ _))
  have hn32 : n < 32 := Nat.lt_of_lt_of_le hn (by cases t <;> simp [perfCount])
  unfold perfAdd
  simp only [hfull, Nat.mod_self, Nat.lt_irrefl, if_false]
  refine ⟨?_, overflow_bit _ ht hn32⟩
  have h0 : rgetN (rputN s perfPg (perfBank t) (cntOff t n) 0) perfPg (perfBank t) (cntOff t n) = 0 :=
    rgetN_rputN_same _ _ _ _ _ (by decide)
  rw [rgetN_overflow_counter _ ht hn]
  split
  · rename_i hup
    simp only [Bool.and_eq_true, decide_eq_true_eq] at hup
    rw [rgetN_perfAdd_below ht _ _ _ _ _ hup.1.1 (Nat.lt_succ_self n), h0]
  · exact h0

/-! ## Samples -/

/-- A buffer that takes the entry stores it at its index and advances that. -/
theorem smpPut_room {s : State} {n : Nat} (e : List U32) (h : (ngetD s.smps n {}).widx < 256 ∨ bits (smpCtrl s n) 30 30 = 0) :
    ∃ x, nget (smpPut s n e).smps n = some x ∧ x.widx = ((ngetD s.smps n {}).widx + 1) % 512 ∧
      nget x.ents ((ngetD s.smps n {}).widx % 256) = some e ∧
      smpPut s n e = { s with smps := (smpPut s n e).smps, hdrs := (smpPut s n e).hdrs, crier := (smpPut s n e).crier
                              emitted := (smpPut s n e).emitted, msix := (smpPut s n e).msix } := by
  have hroom : ¬ (bits (smpCtrl s n) 30 30 = 1 ∧ 256 ≤ (ngetD s.smps n {}).widx) := by omega
  unfold smpPut
  extract_lets x w s1
  rw [if_neg hroom]
  split
  · rw [setEvt_frame]
    exact ⟨_, nget_nset_same _ _ _, rfl, nget_nset_same _ _ _, rfl⟩
  · exact ⟨_, nget_nset_same _ _ _, rfl, nget_nset_same _ _ _, rfl⟩

theorem samplePeriod_taken {s : State} {n k l b : Nat} (hs : sampling s n = true) (hk : k < 3) :
    samplePeriod n k l b 0 s = smpPut s n (smpEntry (getTile s n) k l b) := by
  simp only [samplePeriod, hs, hk, decide_true, Bool.and_self, if_true, smpLost]

/-! ## Boundary scan -/

theorem tapLoad_off {s : State} (i : Nat) (h : s.pwr.mainOn = false) : tapLoad i s = s := by simp [tapLoad, h]

theorem tapCells_off {s : State} (i : Nat) (c : List Bool) (h : s.pwr.mainOn = false) : tapCells i c s = s := by simp [tapCells, h]

theorem tapCells_on {s : State} (i : Nat) (c : List Bool) (h : s.pwr.mainOn = true) :
    tapCells i c s = { tapLoad i s with jtag := { (tapLoad i s).jtag with cells := c } } := by simp [tapCells, h]

/-- An instruction that holds nothing, on a free main die. -/
theorem tapLoad_free {s : State} {i : Nat} (h : s.pwr.mainOn = true) (hh : s.jtag.held = false) (hi : i < 3) :
    tapLoad i s = { s with jtag := { s.jtag with instr := i } } := by
  have ht : tapHolds i = false := by simp [tapHolds]; omega
  simp only [tapLoad, h, ht, hh, Bool.not_true, Bool.false_eq_true, if_false, BEq.rfl, if_true]

/-- An instruction that holds the main die in its COLD reset. -/
theorem tapLoad_holding {s : State} {i : Nat} (h : s.pwr.mainOn = true) (hh : s.jtag.held = false) (hi : 3 ≤ i) :
    tapLoad i s = { mainReset 1 s with jtag := ⟨i, true, s.jtag.cells⟩ } := by
  have ht : tapHolds i = true := by simpa [tapHolds] using hi
  simp only [tapLoad, h, ht, hh, Bool.not_true, Bool.false_eq_true, if_false, show (true == false) = false from rfl]
  rfl

/-- Settles O58: a counter's words after a wrap, a sample's entry, and what each TAP instruction loads. -/
theorem debugAndScan : Obligations.DebugAndScan := by
  unfold Obligations.DebugAndScan
  refine ⟨fun s tile n ha hn ht hc hch => ?_, fun s tile n ha hc => runs_act_to rfl ha ?_, fun s n k l b ha hs hk h => ?_,
    fun s rq v h hu => ⟨_, runs_reg_to rfl h (if_pos hu), rget_rput_same _ _ _ _ _, rfl⟩,
    fun s rq v h hu => runs_reg_to rfl h (if_neg (by simp [hu])), fun s i k hi hon hh => ?_, fun s hon hh => ?_,
    fun s c hon hh => ?_, fun s c i k hi hon hh => ?_, fun s i k hi hon hh => ?_, fun s hon hh => ?_, fun s i c hi hon => ?_⟩
  · have hb : perfBank tile < 8192 := by
      cases tile with
      | none => decide
      | some i => have := ht i rfl; simp only [perfBank]; omega
    have hall : tile.all (fun i => decide (i < 104)) = true := by
      cases tile with
      | none => rfl
      | some i => simpa using ht i rfl
    exact ⟨_, runs_act_to rfl ha (if_pos (by simp [hn, hall, hc, hch])), perfAdd_wraps s hb hn 31⟩
  · simp [counterWrap, hc]
  · obtain ⟨x, hx, hw, he, hf⟩ := smpPut_room (smpEntry (getTile s n) k l b) h
    exact ⟨_, x, runs_act_to rfl ha (samplePeriod_taken hs hk), hx, hw, he, hf⟩
  · simp only [List.mem_cons, Prod.mk.injEq, List.not_mem_nil, or_false] at hi
    obtain ⟨rfl, rfl⟩ | ⟨rfl, rfl⟩ | ⟨rfl, rfl⟩ := hi
    · exact runs_next rfl (tapLoad_free hon hh (by decide))
    · exact runs_next rfl ((tapCells_on 2 _ hon).trans (by rw [tapLoad_free hon hh (by decide)]))
    · exact runs_next rfl (tapLoad_free hon hh (by decide))
  · exact runs_next rfl ((if_pos hon).trans (by rw [tapLoad_free hon hh (by decide)]; rfl))
  · exact runs_next rfl ((tapCells_on 2 _ hon).trans (by rw [tapLoad_free hon hh (by decide)]))
  · simp only [List.mem_cons, Prod.mk.injEq, List.not_mem_nil, or_false] at hi
    have hrun : ∀ k, 3 ≤ k → tapCells k c s = { mainReset 1 s with jtag := ⟨k, true, c⟩ } := fun k hk =>
      (tapCells_on k c hon).trans (by rw [tapLoad_holding hon hh hk])
    obtain ⟨rfl, rfl⟩ | ⟨rfl, rfl⟩ | ⟨rfl, rfl⟩ := hi
    · exact ⟨_, runs_next rfl (hrun 3 (by decide)), rfl, rfl, rfl, rfl, rfl⟩
    · exact ⟨_, runs_next rfl (hrun 4 (by decide)), rfl, rfl, rfl, rfl, rfl⟩
    · exact ⟨_, runs_next rfl (hrun 5 (by decide)), rfl, rfl, rfl, rfl, rfl⟩
  · simp only [List.mem_cons, Prod.mk.injEq, List.not_mem_nil, or_false] at hi
    obtain ⟨rfl, rfl⟩ | ⟨rfl, rfl⟩ := hi
    · exact ⟨_, runs_next rfl (tapLoad_holding hon hh (by decide)), rfl, rfl, rfl, rfl, rfl⟩
    · exact ⟨_, runs_next rfl (tapLoad_holding hon hh (by decide)), rfl, rfl, rfl, rfl, rfl⟩
  · refine ⟨_, rfl, ?_⟩
    simp only [tapLoad, hon, hh, tapHolds, Bool.not_true, Bool.false_eq_true, if_false, if_true, show decide (3 ≤ 1) = false from rfl,
      show (false == true) = false from rfl]
    trivial
  · simp only [List.mem_cons, List.not_mem_nil, or_false] at hi
    obtain rfl | rfl | rfl | rfl | rfl | rfl | rfl | rfl | rfl := hi
    case inr.inl => exact runs_next rfl (if_neg (Bool.eq_false_iff.1 hon))
    case inr.inr.inr.inr.inr.inl => exact runs_next rfl (tapCells_off _ _ hon)
    case inr.inr.inr.inr.inr.inr.inl => exact runs_next rfl (tapCells_off _ _ hon)
    case inr.inr.inr.inr.inr.inr.inr.inl => exact runs_next rfl (tapCells_off _ _ hon)
    case inr.inr.inr.inr.inr.inr.inr.inr => exact runs_next rfl (tapCells_off _ _ hon)
    all_goals exact runs_next rfl (tapLoad_off _ hon)

end Sys2Proof.Machine

namespace Sys2Proof.Machine

/-! PROOFS. Device time (R432 to R434): a move of time at once, and a DT_SET of a value below zero. -/

/-- A list after a move of time: its own record and its page's header are all that it can change. -/
theorem carMoved_frame (s : State) (l : Nat) :
    carMoved s l = { s with cars := (carMoved s l).cars, hdrs := (carMoved s l).hdrs } := by
  have hstart : ∀ u : State, carListStart l u = { u with cars := (carListStart l u).cars, hdrs := (carListStart l u).hdrs } := by
    intro u
    unfold carListStart
    dsimp only
    split
    · split <;> rfl
    · rfl
  unfold carMoved
  dsimp only
  split
  · split
    · rw [hstart]; rfl
    · rfl
  · rfl

theorem retime_frame (s : State) : retime s = { s with timers := (retime s).timers, sensors := (retime s).sensors } := by
  have hsens : ∀ (l : List Nat) (f : State → Nat → State), (∀ u n, f u n = { u with sensors := (f u n).sensors }) → ∀ u : State,
      l.foldl f u = { u with sensors := (l.foldl f u).sensors } := by
    intro l f hf
    induction l with
    | nil => exact fun _ => rfl
    | cons n l ih =>
      intro u
      rw [List.foldl_cons, ih (f u n), hf u n]
  have htim : ∀ (l : List Nat) (f : State → Nat → State), (∀ u n, f u n = { u with timers := (f u n).timers }) → ∀ u : State,
      l.foldl f u = { u with timers := (l.foldl f u).timers } := by
    intro l f hf
    induction l with
    | nil => exact fun _ => rfl
    | cons n l ih =>
      intro u
      rw [List.foldl_cons, ih (f u n), hf u n]
  unfold retime
  extract_lets s1
  rw [hsens _ _ fun u n => by dsimp only; split <;> rfl]
  have h1 : s1 = { s with timers := s1.timers } := htim _ _ (fun u n => by dsimp only; split <;> rfl) s
  rw [h1]

/-- Moving time sets it, and leaves the clocks alone. -/
theorem moveTime_time (s : State) (ofs : Int) :
    (moveTime s ofs).dt = (((s.dt : Int) + ofs) % (2 ^ 80 : Nat)).toNat ∧ (moveTime s ofs).clk = s.clk := by
  unfold moveTime
  refine List.foldlRecOn (motive := fun t : State => t.dt = (((s.dt : Int) + ofs) % (2 ^ 80 : Nat)).toNat ∧ t.clk = s.clk) _ _ ?_ ?_
  · rw [retime_frame]
    exact ⟨rfl, rfl⟩
  · intro t ht l _
    rw [carMoved_frame]
    exact ht

theorem dtCmdDone_due {s : State} {set : Bool} {v : Int} {due : Nat} (h : s.clk.cmd = some (set, v, due)) (hdue : due ≤ s.tick) :
    dtCmdDone s = setEvt (if anyReserved s then
        slewTime { s with clk := { s.clk with cmd := none, converted := false } } (if set then v - s.dt else slewRest s + v)
      else moveTime { s with clk := { s.clk with cmd := none, converted := false } } (if set then v - s.dt else v)) clkPg 0 := by
  simp only [dtCmdDone, h, Nat.not_lt.2 hdue, if_false]
  cases set <;> rfl

theorem setEvt_clk (s : State) (p k : Nat) : (setEvt s p k).clk = s.clk := by rw [setEvt_frame]

theorem setEvt_dt (s : State) (p k : Nat) : (setEvt s p k).dt = s.dt := by rw [setEvt_frame]

/-- Without a reservation the time moves at once. -/
theorem dtCmdDone_moves {s : State} {set : Bool} {v : Int} {due : Nat} (h : s.clk.cmd = some (set, v, due)) (hdue : due ≤ s.tick)
    (hr : anyReserved s = false) : (dtCmdDone s).dt = (((s.dt : Int) + if set then v - s.dt else v) % (2 ^ 80 : Nat)).toNat ∧
      (dtCmdDone s).clk = { s.clk with cmd := none, converted := false } ∧ (hdr (dtCmdDone s) clkPg).evtPend.getLsbD 0 = true := by
  rw [dtCmdDone_due h hdue, if_neg (by simp [hr])]
  obtain ⟨h1, h2⟩ := moveTime_time { s with clk := { s.clk with cmd := none, converted := false } } (if set then v - s.dt else v)
  exact ⟨(setEvt_dt _ _ _).trans h1, (setEvt_clk _ _ _).trans h2, setEvt_pend _ _ 0 (by decide)⟩

/-- A running device on which a DT_SET whose value is below zero is due. No write of DT_SET makes this state, whose value is read
from 80 bits; the statement asks only that the value be less than 2^80. -/
def setBelowZero : State := { State.reset with clk := { State.reset.clk with cmd := some (true, -1, 0) } }

/-- Device time is a natural number: it takes such a value modulo 2^80. -/
theorem setBelowZero_dt : (dtCmdDone setBelowZero).dt = 2 ^ 80 - 1 :=
  (dtCmdDone_moves (s := setBelowZero) (set := true) (v := -1) (due := 0) rfl (Nat.zero_le _) (by decide)).1

/-- Refutes O55: its clause on a DT_SET ranges over the integers below 2^80, and a negative one is not the time that results. -/
theorem not_clocksAndTime : ¬ Obligations.ClocksAndTime := by
  unfold Obligations.ClocksAndTime
  rintro ⟨-, -, -, -, -, -, -, -, -, hset, -⟩
  obtain ⟨t, hrun, hdt, -, -⟩ := hset setBelowZero (-1) 0 (by decide) rfl (by decide) (Nat.zero_le _) (by decide)
  have ht : t = dtCmdDone setBelowZero := by
    have h := hrun.symm.trans (runs_act (c := .dtCmdDone) rfl (by decide))
    injection h
  rw [ht, setBelowZero_dt] at hdt
  exact absurd hdt (by decide)

end Sys2Proof.Machine

namespace Sys2Proof.Machine

/-! PROOFS. Power states (R416 to R418): what the ways into DOZE leave alone on a device without contexts. -/

theorem setLevel_ctxs (s : State) (n : Nat) (l : Bool) : (setLevel s n l).ctxs = s.ctxs := by rw [setLevel_frame]

theorem setEvt_ctxs (s : State) (p k : Nat) : (setEvt s p k).ctxs = s.ctxs := by rw [setEvt_frame]

theorem enterFault_ctxs (s : State) (id : Nat) : (enterFault s id).ctxs = s.ctxs := by
  have hdrop : (dropFrames s).ctxs = s.ctxs :=
    List.foldlRecOn (motive := fun t : State => t.ctxs = s.ctxs) _ _ rfl fun t ht p _ => by
      dsimp only
      split
      · split <;> exact ht
      · exact ht
  unfold enterFault
  split
  · rfl
  · exact hdrop

theorem applySev_ctxs (s : State) (k : PageKind) (page src info sev : Nat) : (applySev s k page src info sev).ctxs = s.ctxs := by
  have h1 : (if 1 ≤ sev then setLevel s 224 true else s).ctxs = s.ctxs := by
    split
    · exact setLevel_ctxs _ _ _
    · rfl
  unfold applySev
  extract_lets s1 s2
  have h2 : s2.ctxs = s1.ctxs := by
    unfold s2
    split
    · rw [setLevel_ctxs]
      split <;> rfl
    · rfl
  split
  · rw [enterFault_ctxs, h2, h1]
  · rw [h2, h1]

theorem lockstepBreak_ctxs (s : State) (page src info : Nat) : (lockstepBreak s page src info).ctxs = s.ctxs := by
  unfold lockstepBreak
  split
  · split <;> rfl
  · rfl

/-- Raising a fault marks contexts only where it contains a breach. -/
theorem raiseBase_ctxs (s : State) (page src info : Nat) : (raiseBase s page src info).ctxs = s.ctxs := by
  unfold raiseBase
  split
  · rfl
  · split
    · rfl
    · dsimp only
      rw [lockstepBreak_ctxs, applySev_ctxs]
      split
      · rfl
      · unfold logFault
        dsimp only
        split
        · rw [setEvt_ctxs, setEvt_ctxs]; rfl
        · rw [setEvt_ctxs]; rfl

theorem markCtxs_none {s : State} (w : Nat → Ctx → Bool) (l : Nat → Pic → Bool) (c : Nat) (h : s.ctxs = []) :
    (markCtxs s w l c).ctxs = [] := by simp [markCtxs, h]

theorem raiseFault_none {s : State} (page src info : Nat) (h : s.ctxs = []) : (raiseFault s page src info).ctxs = [] := by
  have hb : ∀ p i, (raiseBase s p src i).ctxs = [] := fun p i => (raiseBase_ctxs s p src i).trans h
  unfold raiseFault
  split
  · exact h
  · dsimp only
    split
    · unfold containBreach
      split
      · exact markCtxs_none _ _ _ (hb _ _)
      · split
        · exact markCtxs_none _ _ _ (hb _ _)
        · exact hb _ _
      · split
        · exact markCtxs_none _ _ _ (hb _ _)
        · exact hb _ _
    · exact hb _ _

/-! ## An idle device -/

/-- `t` is a state `s` without contexts after work that gives it none: the tiles and the power state stand. -/
def Idle (s t : State) : Prop := s.ctxs = [] → t.ctxs = [] ∧ t.tiles = s.tiles ∧ t.pwr = s.pwr

section
variable {s₀ s t : State}

namespace Idle

protected theorem refl (s : State) : Idle s s := fun h => ⟨h, rfl, rfl⟩

protected theorem trans (h : Idle s₀ s) (g : Idle s t) : Idle s₀ t := fun hs => by
  obtain ⟨ht, htiles, hpwr⟩ := h hs
  obtain ⟨hu, gtiles, gpwr⟩ := g ht
  exact ⟨hu, gtiles.trans htiles, gpwr.trans hpwr⟩

protected theorem upd (h : Idle s₀ s) (e : (t.ctxs, t.tiles, t.pwr) = (s.ctxs, s.tiles, s.pwr)) : Idle s₀ t := by
  simp only [Prod.mk.injEq] at e
  obtain ⟨hc, ht, hp⟩ := e
  exact h.trans fun hs => ⟨hc.trans hs, ht, hp⟩

protected theorem told (h : Idle s₀ s) (g : Told s t) : Idle s₀ t := h.upd (by rw [g.frame])

protected theorem noted (h : Idle s₀ s) (g : Noted s t) (hc : s.ctxs = [] → t.ctxs = []) : Idle s₀ t :=
  h.trans fun hs => ⟨hc hs, by rw [g.frame], by rw [g.frame]⟩

protected theorem ite {c : Prop} [Decidable c] (h : Idle s₀ s) (g : Idle s₀ t) : Idle s₀ (if c then s else t) := by
  split <;> assumption

protected theorem foldl {α : Type} {f : State → α → State} {l : List α} (h : Idle s₀ s) (hf : ∀ u x, Idle s₀ u → Idle s₀ (f u x)) :
    Idle s₀ (l.foldl f s) :=
  List.foldlRecOn l f h fun u hu x _ => hf u x hu

end Idle

protected theorem Idle.setEvt {page bit : Nat} (hs : Idle s₀ s) : Idle s₀ (setEvt s page bit) := hs.told (setEvt_told _ _ _)

protected theorem Idle.evG {ev : Nat} (hs : Idle s₀ s) : Idle s₀ (evG ev s) := hs.told (evG_told _ _)

protected theorem Idle.raiseFault {page src info : Nat} (hs : Idle s₀ s) : Idle s₀ (raiseFault s page src info) :=
  hs.noted (raiseFault_noted _ _ _ _) (raiseFault_none page src info)

protected theorem Idle.markCtxs {which : Nat → Ctx → Bool} {sel : Nat → Pic → Bool} {cause : Nat} (hs : Idle s₀ s) :
    Idle s₀ (markCtxs s which sel cause) := hs.noted (markCtxs_noted _ _ _ _) (markCtxs_none _ _ _)

protected theorem Idle.fifoStore {f : Nat} {x : Fifo} (hs : Idle s₀ s) : Idle s₀ (fifoStore s f x) := hs.upd (by rw [fifoStore_frame])

/-- Without contexts no home of the cascade has one, and no stream is lost. -/
protected theorem Idle.loseAll {sel : Member → Bool} {dead : Bool} (hs : Idle s₀ s) : Idle s₀ (loseAll s sel dead) := by
  refine hs.trans fun h => ?_
  have hhome : ∀ m, homeBy s m = none := fun m => by
    unfold homeBy
    rw [Option.filter_eq_none_iff]
    intro x _
    simp [homeCtx, getCtx, h, nget]
  have hsame : loseAll s sel dead = s := by
    unfold loseAll
    refine List.foldlRecOn (motive := fun t => t = s) _ _ rfl fun t ht x _ => ?_
    subst ht
    simp [hhome]
  rw [hsame]
  exact Idle.refl s h

protected theorem Idle.rput {page bank off : Nat} {v : U32} (hs : Idle s₀ s) : Idle s₀ (rput s page bank off v) := hs.upd rfl

protected theorem Idle.rputN {page bank off v : Nat} (hs : Idle s₀ s) : Idle s₀ (rputN s page bank off v) := by
  unfold rputN
  exact hs.rput

protected theorem Idle.rput64 {page bank off v : Nat} (hs : Idle s₀ s) : Idle s₀ (rput64 s page bank off v) := by
  unfold rput64
  exact hs.rputN.rputN

protected theorem Idle.bump {page bank off n : Nat} (hs : Idle s₀ s) : Idle s₀ (bump s page bank off n) := by
  unfold bump
  exact hs.rputN

protected theorem Idle.bump16 {page bank off lo n : Nat} (hs : Idle s₀ s) : Idle s₀ (bump16 s page bank off lo n) := by
  unfold bump16
  extract_lets +onlyGivenNames v
  exact hs.rputN

protected theorem Idle.setPc {p : Nat} {x : Pc} (hs : Idle s₀ s) : Idle s₀ (setPc s p x) := hs.upd rfl

protected theorem Idle.setPort {p : Nat} {x : EPort} (hs : Idle s₀ s) : Idle s₀ (setPort s p x) := hs.upd rfl

protected theorem Idle.setEth {p : Nat} {x : Eth} (hs : Idle s₀ s) : Idle s₀ (setEth s p x) := hs.upd rfl

protected theorem Idle.setSf {p : Nat} {x : SfPort} (hs : Idle s₀ s) : Idle s₀ (setSf s p x) := hs.upd rfl

protected theorem Idle.setSensor {p : Nat} {x : Sensor} (hs : Idle s₀ s) : Idle s₀ (setSensor s p x) := hs.upd rfl

protected theorem Idle.hbmWriteB {a : Nat} {bs : List Byte} {poison : Bool} (hs : Idle s₀ s) :
    Idle s₀ (hbmWriteB s a bs poison) := hs.upd rfl

protected theorem Idle.hbmFault {page src : Nat} (hs : Idle s₀ s) : Idle s₀ (hbmFault s page src) := by
  unfold hbmFault
  exact hs.raiseFault.setEvt

protected theorem Idle.hbmInfo {pc kind block : Nat} (hs : Idle s₀ s) : Idle s₀ (hbmInfo s pc kind block) := by
  unfold hbmInfo
  exact hs.rputN.rput64

protected theorem Idle.hbmUe {pc block : Nat} (hs : Idle s₀ s) : Idle s₀ (hbmUe s pc block) := by
  unfold hbmUe
  exact hs.bump16.hbmInfo.hbmFault

protected theorem Idle.rangeFault (hs : Idle s₀ s) : Idle s₀ (rangeFault s) := by
  unfold rangeFault
  exact hs.hbmFault

protected theorem Idle.sfLinkLost {p : Nat} (hs : Idle s₀ s) : Idle s₀ (sfLinkLost s p) := by
  unfold sfLinkLost
  extract_lets +onlyGivenNames x pics s1 s2
  have hs1 : Idle s₀ s1 := hs.setSf
  clear_value s1
  have hs2 : Idle s₀ s2 := by
    unfold s2
    refine hs1.foldl fun _ _ hu => ?_
    extract_lets +onlyGivenNames f
    exact hu.fifoStore
  clear_value s2
  exact hs2.markCtxs

protected theorem Idle.memUe {r : HbmReq} (hs : Idle s₀ s) : Idle s₀ (memUe s r) := by
  unfold memUe
  split
  · exact hs.markCtxs
  · exact hs

protected theorem Idle.storeReq {r : HbmReq} (hs : Idle s₀ s) : Idle s₀ (storeReq s r) := by
  unfold storeReq
  exact Idle.ite hs.hbmWriteB (hs.foldl fun _ _ hu => Idle.ite hu.hbmWriteB hu)

protected theorem Idle.issue {pc : Nat} {r : HbmReq} {again : Bool} (hs : Idle s₀ s) : Idle s₀ (issue s pc r again) := by
  unfold issue
  extract_lets +onlyGivenNames _ s0 s1
  have hs0 : Idle s₀ s0 := hs.setPc
  clear_value s0
  have hs1 : Idle s₀ s1 := (Idle.ite hs0.memUe hs0).evG
  clear_value s1
  split
  · extract_lets +onlyGivenNames s2
    have hs2 : Idle s₀ s2 := hs1.rangeFault
    clear_value s2
    exact Idle.ite hs2 (hs2.upd rfl)
  · refine Idle.ite ?_ ?_
    · extract_lets +onlyGivenNames s2' q
      have hs2' : Idle s₀ s2' := hs1.storeReq
      clear_value s2'
      refine Idle.ite ?_ ?_
      · exact hs2'.setPc
      · extract_lets +onlyGivenNames b
        exact hs2'.setPc
    · extract_lets +onlyGivenNames q'
      exact hs1.setPc

protected theorem Idle.deliver {pc : Nat} {d : HbmRd} {bad : Bool} (hs : Idle s₀ s) : Idle s₀ (deliver s pc d bad) := by
  unfold deliver
  extract_lets +onlyGivenNames r b s1 s2
  have hs1 : Idle s₀ s1 := (Idle.ite hs.hbmUe.memUe hs)
  clear_value s1
  have hs2 : Idle s₀ s2 := (Idle.ite (hs1.upd rfl) hs1)
  clear_value s2
  exact Idle.ite hs2.setPc (hs2.upd rfl)

protected theorem Idle.drainPc {pc : Nat} (hs : Idle s₀ s) : Idle s₀ (drainPc s pc) := by
  unfold drainPc
  extract_lets +onlyGivenNames p s1 s2
  have hs1 : Idle s₀ s1 := by
    unfold s1
    refine (hs.setPc.foldl fun _ _ hu => ?_).foldl fun _ _ hu => hu.issue
    split
    · exact hu.issue
    · exact hu
  clear_value s1
  have hs2 : Idle s₀ s2 := (hs1.foldl fun _ _ hu => hu.deliver)
  clear_value s2
  exact hs2.setPc

protected theorem Idle.ethDown {port : Nat} (hs : Idle s₀ s) : Idle s₀ (ethDown port s) := by
  unfold ethDown
  refine Idle.ite ?_ ?_
  · exact hs
  · extract_lets +onlyGivenNames _ s1
    have hs1 : Idle s₀ s1 := hs.setPort
    clear_value s1
    exact hs1.setEth.raiseFault

protected theorem Idle.sensorLink {n : Nat} {e : LinkEv} (hs : Idle s₀ s) : Idle s₀ (sensorLink n e s) := by
  unfold sensorLink
  extract_lets +onlyGivenNames pg
  refine Idle.ite ?_ ?_
  · exact hs
  · extract_lets +onlyGivenNames x r s1 s2
    have hs1 : Idle s₀ s1 := hs.setSensor
    clear_value s1
    have hs2 : Idle s₀ s2 := (Idle.ite hs1.bump hs1)
    clear_value s2
    exact Idle.ite hs2.setSensor.setEvt.raiseFault (Idle.ite hs2.setEvt hs2)

protected theorem Idle.sfFill {p : Nat} (hs : Idle s₀ s) : Idle s₀ (sfFill s p) := by
  unfold sfFill
  extract_lets +onlyGivenNames pg
  exact hs.setSf

protected theorem Idle.sfLost {p : Nat} (hs : Idle s₀ s) : Idle s₀ (sfLost s p) := by
  unfold sfLost
  extract_lets +onlyGivenNames s1 _ s2
  have hs1 : Idle s₀ s1 := hs.sfLinkLost
  clear_value s1
  have hs2 : Idle s₀ s2 := (hs1.upd rfl)
  clear_value s2
  exact hs2.loseAll

protected theorem Idle.sfDown {p : Nat} (hs : Idle s₀ s) : Idle s₀ (sfDown s p) := by
  unfold sfDown
  exact hs.sfLost.setEvt.raiseFault

protected theorem Idle.sfLink {p : Nat} {e : LinkEv} (hs : Idle s₀ s) : Idle s₀ (sfLink p e s) := by
  unfold sfLink
  extract_lets +onlyGivenNames pg
  refine Idle.ite ?_ ?_
  · exact hs
  · extract_lets +onlyGivenNames x l s1
    have hs1 : Idle s₀ s1 := hs.setSf
    clear_value s1
    exact Idle.ite hs1.sfDown (Idle.ite hs1.sfFill.setEvt hs1)

protected theorem Idle.drainHbm (hs : Idle s₀ s) : Idle s₀ (drainHbm s) := by
  unfold drainHbm
  exact hs.foldl fun _ _ hu => hu.drainPc

end

/-! ## Voltage -/

theorem Noted.pwr {s t : State} (h : Noted s t) : t.pwr = s.pwr := by rw [h.frame]

theorem Noted.booth {s t : State} (h : Noted s t) : t.booth = s.booth := by rw [h.frame]

theorem setEvt_pwr (s : State) (p k : Nat) : (setEvt s p k).pwr = s.pwr := by rw [setEvt_frame]

theorem setEvt_booth (s : State) (p k : Nat) : (setEvt s p k).booth = s.booth := by rw [setEvt_frame]

theorem setEvt_tiles (s : State) (p k : Nat) : (setEvt s p k).tiles = s.tiles := by rw [setEvt_frame]

theorem setEvt_src (s : State) (p k q : Nat) : (hdr (setEvt s p k) q).fltSrc = (hdr s q).fltSrc := by rw [(setEvt_told s p k).hdr q]

theorem ivrAdjust_faults {s : State} {rail : Nat} {m : Int} {o : Bool} (hr : rail < 105)
    (h : o = true ∨ (ngetD s.pwr.targets rail 0 = 120 ∧ m < (Config.ivrMargin rail).1)) :
    ivrAdjust rail m o s = raiseFault { s with pwr := { s.pwr with ivrLast := rail } } pwrPg (if rail = 104 then 3 else 2) rail := by
  rw [ivrAdjust, if_neg (by omega), if_pos (by simpa using h)]

theorem ivrAdjust_moves {s : State} {rail : Nat} {m : Int} (hr : rail < 105)
    (h : ngetD s.pwr.targets rail 0 ≠ 120 ∨ (Config.ivrMargin rail).1 ≤ m) : ivrAdjust rail m false s = ivrMove s rail m := by
  rw [ivrAdjust, if_neg (by omega), if_neg]
  simp only [Bool.false_or, Bool.and_eq_true, beq_iff_eq, decide_eq_true_eq]
  omega

/-- The free value gives a move of at most four steps. -/
theorem ivrMove_spec (s : State) (rail : Nat) (m : Int) : ∃ d, d ≤ 4 ∧
    ngetD (ivrMove s rail m).pwr.targets rail 0 =
      (if m < (Config.ivrMargin rail).2 then min 120 (ngetD s.pwr.targets rail 0 + d)
       else if (Config.ivrMargin rail).2 < m then ngetD s.pwr.targets rail 0 - d else ngetD s.pwr.targets rail 0) ∧
    (∀ r, r ≠ rail → ngetD (ivrMove s rail m).pwr.targets r 0 = ngetD s.pwr.targets r 0) ∧
    ivrMove s rail m = { s with pwr := (ivrMove s rail m).pwr, freeCtr := (ivrMove s rail m).freeCtr } := by
  refine ⟨(Config.freeWord s.freeCtr).toNat % 5, by omega, ?_, fun r hr => ?_, rfl⟩
  · exact ngetD_nset_same _ _ _ _
  · exact ngetD_nset_other _ _ _ _ _ hr

/-! ## Gating -/

theorem bulkGate_due {s : State} {n : Nat} (hn : n < 104) (hu : (getTile s n).ungated = true) (hh : tileHeld s n = false)
    (hi : tileIdle s n = true) (ht : (getTile s n).idleAt + 5000 ≤ s.tick) : bulkGate n s = gateTile s n := by
  simp [bulkGate, hn, hu, hh, hi, ht]

/-- Every tile of a list that is gated loses its store. -/
theorem getTile_gateTiles (l : List Nat) : ∀ (s : State) (n : Nat), n ∈ l →
    (getTile (l.foldl gateTile s) n).store = [] ∧ (getTile (l.foldl gateTile s) n).ungated = false := by
  have hkeep : ∀ (l : List Nat) (s : State) (n : Nat), (getTile s n).store = [] ∧ (getTile s n).ungated = false →
      (getTile (l.foldl gateTile s) n).store = [] ∧ (getTile (l.foldl gateTile s) n).ungated = false := fun l s n h =>
    List.foldlRecOn (motive := fun t => (getTile t n).store = [] ∧ (getTile t n).ungated = false) l gateTile h fun t ht m _ => by
      rw [gateTile, getTile_setTile]
      split
      · exact ⟨rfl, rfl⟩
      · exact ht
  induction l with
  | nil => exact fun _ _ h => absurd h List.not_mem_nil
  | cons m l ih =>
    intro s n h
    by_cases hm : n = m
    · subst hm
      exact hkeep l _ n (by rw [gateTile, getTile_setTile, if_pos rfl]; exact ⟨rfl, rfl⟩)
    · exact ih _ n ((List.mem_cons.1 h).resolve_left hm)

theorem gateTiles_frame (l : List Nat) (s : State) : l.foldl gateTile s = { s with tiles := (l.foldl gateTile s).tiles } :=
  List.foldlRecOn (motive := fun t : State => t = { s with tiles := t.tiles }) l gateTile rfl fun t ht m _ => by
    rw [gateTile, setTile, ht]

theorem bulkTilesOp_fits {s : State} {n : Nat} (hn : n ≤ 96)
    (h : s.booth.admMw - 1650 * rbits s pwrPg 0 0x108 6 0 + 1650 * n ≤ max s.booth.admMw (rbits s tkbPg 0 0x11C 11 0 * 100)) :
    bulkTilesOp n s = { rputN s pwrPg 0 0x108 n with
      booth := { s.booth with admMw := s.booth.admMw - 1650 * rbits s pwrPg 0 0x108 6 0 + 1650 * n } } := by
  have hnew : min 96 (n % 128) = n := by omega
  simp only [bulkTilesOp, hnew]
  rw [if_neg (by omega)]
  rfl

theorem bulkTilesOp_denied {s : State} {n : Nat} (hn : n ≤ 96)
    (h : s.booth.admMw < s.booth.admMw - 1650 * rbits s pwrPg 0 0x108 6 0 + 1650 * n)
    (hcap : rbits s tkbPg 0 0x11C 11 0 * 100 < s.booth.admMw - 1650 * rbits s pwrPg 0 0x108 6 0 + 1650 * n) :
    bulkTilesOp n s = bump s pwrPg 0 0x120 1 := by
  have hnew : min 96 (n % 128) = n := by omega
  simp only [bulkTilesOp, hnew]
  rw [if_pos ⟨h, hcap⟩]

/-! ## Power states -/

theorem setPower_enters {s : State} {st : Nat} (h : s.pwr.st ≠ st) :
    (setPower s st).pwr = { s.pwr with st := st, want := false } ∧ (hdr (setPower s st) pwrPg).evtPend.getLsbD 0 = true ∧
      (setPower s st).tiles = s.tiles ∧ (setPower s st).queues = s.queues := by
  rw [setPower, if_neg h]
  refine ⟨setEvt_pwr _ _ _, setEvt_pend _ _ 0 (by decide), setEvt_tiles _ _ _, ?_⟩
  rw [setEvt_frame]

theorem dozeWhy_contexts {s : State} (h : s.ctxs ≠ []) : dozeWhy s = 1 := by simp [dozeWhy, h]

theorem dozeWhy_slots {s : State} {e : Nat × Queue} {x : CSlot} (h : s.ctxs = []) (he : e ∈ s.queues) (hx : x ∈ e.2.slots) :
    dozeWhy s = 2 := by
  have hany : (s.queues.any fun e => !e.2.slots.isEmpty) = true :=
    List.any_eq_true.2 ⟨e, he, by simpa using List.ne_nil_of_mem hx⟩
  simp [dozeWhy, h, hany]

theorem ctxs_of_dozeWhy_zero {s : State} (h : dozeWhy s = 0) : s.ctxs = [] := by
  by_contra hc
  exact absurd (h.symm.trans (dozeWhy_contexts hc)) (by decide)

/-- The device with every link down that DOZE takes down (R416, R418). -/
def linksDown (s : State) : State :=
  ethDown 1 (ethDown 0 ((List.range 8).foldl (fun s n => sensorLink n .down s)
    (if enumerated s then s else (List.range 4).foldl (fun s p => sfLink p .down s) s)))

theorem linksDown_idle (s : State) : Idle s (linksDown s) :=
  ((Idle.ite (.refl s) ((Idle.refl s).foldl fun _ _ hu => hu.sfLink)).foldl fun _ _ hu => hu.sensorLink).ethDown.ethDown

/-- What DOZE makes of the device before its state changes (R416 to R418). -/
def dozed (s : State) : State :=
  let t := linksDown ((List.range 104).foldl gateTile (drainHbm s))
  { t with
    pcs := t.pcs.map fun e => (e.1, { e.2 with queue := [], reads := [], writes := [] })
    phys := t.phys.map fun p => if p.st = 2 then { p with st := 3 } else p
    queues := t.queues.map fun e => (e.1, { e.2 with cache := [], fetch := e.2.next })
    pwr := { t.pwr with denyWhy := 0 } }

theorem dozeOp_enters {s : State} (hst : s.pwr.st ≠ 2) (h : dozeWhy s = 0) : dozeOp s = setPower (dozed s) 2 := by
  simp only [dozeOp, dozed, linksDown, h, hst, ne_eq, not_true_eq_false, if_false]

theorem dozed_spec {s : State} (h : s.ctxs = []) : (dozed s).pwr = { s.pwr with denyWhy := 0 } ∧
    (∀ n, n < 104 → (getTile (dozed s) n).store = []) ∧ ∀ e ∈ (dozed s).queues, e.2.cache = [] := by
  obtain ⟨hc, -, hp⟩ := (Idle.refl s).drainHbm h
  have hgate := gateTiles_frame (List.range 104) (drainHbm s)
  have hg := getTile_gateTiles (List.range 104) (drainHbm s)
  unfold dozed
  generalize (List.range 104).foldl gateTile (drainHbm s) = g at hgate hg
  obtain ⟨-, htiles, hpwr⟩ := linksDown_idle g (by rw [hgate]; exact hc)
  have hgp : g.pwr = s.pwr := by rw [hgate]; exact hp
  generalize linksDown g = t at htiles hpwr
  refine ⟨by dsimp only; rw [hpwr, hgp], fun n hn => ?_, fun e he => ?_⟩
  · simp only [getTile, htiles]
    exact (hg n (List.mem_range.2 hn)).1
  · obtain ⟨f, -, rfl⟩ := List.mem_map.1 he
    rfl

theorem wakeUp_spec {s : State} (h : s.pwr.st = 2) : (wakeUp s).pwr.st = 0 ∧ ∀ p ∈ (wakeUp s).phys, p.st ≠ 3 := by
  rw [wakeUp, if_neg (by simp [h])]
  dsimp only
  rw [(setEvts_spec _ _ _).1]
  refine ⟨rfl, fun p hp => ?_⟩
  obtain ⟨q, -, rfl⟩ := List.mem_map.1 hp
  split <;> simp_all

/-! ## Temperature -/

/-- Stack temperatures below 95 °C are only noted. -/
theorem stackTemps_cool {s : State} {a b : Nat} (ha : a < 95) (hb : b < 95) : ∃ ph, stackTemps s a b = { s with phys := ph } := by
  refine ⟨(stackTemps s a b).phys, ?_⟩
  simp only [stackTemps, List.foldl_cons, List.foldl_nil, Nat.not_le.2 ha, Nat.not_le.2 hb, and_false, if_false]

theorem tjSample_warm {s : State} {v t0 : Int} {ts : List Int} {a b : Nat} (ha : a < 95) (hb : b < 95) (hv : v = ts.foldl max t0)
    (h1 : 1000 ≤ v) (h2 : v < 1100) (hc : s.booth.thermClosed = false) : ∃ ph, tjSample (t0 :: ts) a b s =
      setEvt (raiseFault { s with phys := ph, pwr := { s.pwr with tj := v, tjMax := max s.pwr.tjMax v }
                                  booth := { s.booth with thermClosed := true } } pwrPg 0 0) pwrPg 2 := by
  obtain ⟨ph, hs⟩ := stackTemps_cool (s := { s with pwr := { s.pwr with tj := v, tjMax := max s.pwr.tjMax v } }) ha hb
  refine ⟨ph, ?_⟩
  simp only [tjSample, ← hv]
  rw [hs, if_neg (by omega), if_pos ⟨h1, hc⟩]

theorem tjSample_cool {s : State} {v t0 : Int} {ts : List Int} {a b : Nat} (ha : a < 95) (hb : b < 95) (hv : v = ts.foldl max t0)
    (h1 : v ≤ 970) (hc : s.booth.thermClosed = true) : ∃ ph, tjSample (t0 :: ts) a b s =
      setEvt { s with phys := ph, pwr := { s.pwr with tj := v, tjMax := max s.pwr.tjMax v }
                      booth := { s.booth with thermClosed := false } } pwrPg 3 := by
  obtain ⟨ph, hs⟩ := stackTemps_cool (s := { s with pwr := { s.pwr with tj := v, tjMax := max s.pwr.tjMax v } }) ha hb
  refine ⟨ph, ?_⟩
  simp only [tjSample, ← hv]
  rw [hs, if_neg (by omega), if_neg (by omega), if_pos ⟨h1, hc⟩]

/-- Settles O53: one lemma per command, of which DOZE rests on the links' and the stacks' work on a device without contexts. -/
theorem powerAndHeat : Obligations.PowerAndHeat := by
  unfold Obligations.PowerAndHeat
  refine ⟨fun s rail m o ha hr h => ?_, fun s rail m ha hr h => ?_, fun s ha => ?_, fun s mv ca ha => runs_next rfl (if_pos ha),
    fun s n ha hn hu hh hi ht => runs_act_to rfl ha (bulkGate_due hn hu hh hi ht), fun s rq n h hn hfit => ?_,
    fun s rq n h hn hup hcap => runs_reg_to rfl h (bulkTilesOp_denied hn hup hcap), fun s rq h hst => ?_,
    fun s rq h hst => runs_reg_to rfl h (if_pos hst), fun s ha hw hb hst => ?_, fun s rq h hwhy => ?_, fun s rq h hwhy => ?_,
    fun s h => dozeWhy_contexts h, fun s e x h he hx => dozeWhy_slots h he hx, fun s n ha hst hen hn hp => ?_, fun s ha hst hen => ?_,
    fun s v t0 ts a b ha h1 h2 hv hlo hhi hc => ?_, fun s v t0 ts a b ha h1 h2 hv hlo hc => ?_⟩
  · have hn := raiseFault_noted { s with pwr := { s.pwr with ivrLast := rail } } pwrPg (if rail = 104 then 3 else 2) rail
    refine ⟨_, runs_act_to rfl ha (ivrAdjust_faults hr h), ?_, raiseFault_src (k := .pwr) (i := 0) (by decide) ?_ ?_⟩
    · rw [hn.pwr]
    · split <;> decide
    · split <;> decide
  · obtain ⟨d, hd, ht, ho, hf⟩ := ivrMove_spec s rail m
    exact ⟨_, d, runs_act_to rfl ha (ivrAdjust_moves hr h), hd, ht, ho, hf⟩
  · exact ⟨_, runs_next rfl (if_pos ha), raiseFault_src (k := .pwr) (i := 0) (by decide) (by decide) (by decide)⟩
  · exact ⟨_, runs_reg_to rfl h (bulkTilesOp_fits hn hfit), rgetN_rputN_same _ _ _ _ _ (by omega), rfl, rfl⟩
  · have hne : s.pwr.st ≠ 0 := by omega
    obtain ⟨hp, he, -, -⟩ := setPower_enters hne
    exact ⟨_, runs_reg_to rfl h (if_neg (by omega)), hp, he⟩
  · have hf := gateTiles_frame ((List.range 104).filter fun t => !tileHeld s t) s
    have hg := getTile_gateTiles ((List.range 104).filter fun t => !tileHeld s t) s
    have hne : (gateFree s).pwr.st ≠ 1 := by
      rw [gateFree, hf]
      simp [hst]
    obtain ⟨hp, he, ht, -⟩ := setPower_enters hne
    refine ⟨_, runs_act_to rfl ha (if_pos (by simp [hw, hb])), ?_, ?_, he, fun n hn hh => ?_⟩
    · rw [hp]
    · rw [hp]
    · simp only [getTile, ht]
      exact hg n (by simp [hn, hh])
  · obtain ⟨hup, hst, hgate⟩ := h
    obtain ⟨hpd, htd, hqd⟩ := dozed_spec (ctxs_of_dozeWhy_zero hwhy)
    have hne : (dozed s).pwr.st ≠ 2 := by rw [hpd]; exact hst
    obtain ⟨hp, he, ht, hq⟩ := setPower_enters hne
    refine ⟨_, runs_reg_to rfl ⟨hup, hst, hgate⟩ (dozeOp_enters hst hwhy), ?_, ?_, fun n hn => ?_, ?_, he⟩
    · rw [hp]
    · rw [hp, hpd]
    · simp only [getTile, ht]
      exact htd n hn
    · rw [hq]
      exact hqd
  · obtain ⟨-, hst, -⟩ := id h
    exact runs_reg_to rfl h ((if_neg hst).trans (if_pos hwhy))
  · have hany : (List.range 1024).any (srcPending s) = true := List.any_eq_true.2 ⟨n, List.mem_range.2 hn, hp⟩
    exact ⟨_, runs_act_to rfl ha (if_pos ⟨hst, .inl rfl, hen, .inr hany⟩), wakeUp_spec hst⟩
  · exact ⟨_, runs_act_to rfl ha (if_pos ⟨hst, .inr rfl, hen, .inl rfl⟩), wakeUp_spec hst⟩
  · obtain ⟨ph, e⟩ := tjSample_warm (s := s) h1 h2 hv hlo hhi hc
    have hn := raiseFault_noted { s with phys := ph, pwr := { s.pwr with tj := v, tjMax := max s.pwr.tjMax v }
                                         booth := { s.booth with thermClosed := true } } pwrPg 0 0
    refine ⟨_, runs_act_to rfl ha e, ?_, ?_, ?_, ?_, setEvt_pend _ _ 2 (by decide)⟩
    · rw [setEvt_booth, hn.booth]
    · rw [setEvt_pwr, hn.pwr]
    · rw [setEvt_pwr, hn.pwr]
    · rw [setEvt_src]
      exact raiseFault_src (k := .pwr) (i := 0) (by decide) (by decide) (by decide)
  · obtain ⟨ph, e⟩ := tjSample_cool (s := s) h1 h2 hv hlo hc
    refine ⟨_, runs_act_to rfl ha e, ?_, ?_, setEvt_pend _ _ 3 (by decide)⟩
    · rw [setEvt_booth]
    · rw [setEvt_pwr]

end Sys2Proof.Machine

namespace Sys2Proof.Machine

/-! PROOFS. Resets of the main die (R247, R419, R423): the accesses that finish before self-refresh can raise a fault. -/

/-- A device that keeps its stacks over a Hot Reset and has a read of an unmapped address queued. -/
def resetWhileQueued : State := { State.reset with
  regs := [(rkey (phyPage 0) 0 0x104, 1)]
  pcs := [(0, { queue := [{ wr := false, addr := 0, len := 32, data := [], ctx := none }] })] }

/-- The queued read finishes during the reset (R247) and raises the controller's range fault, which is logged. -/
theorem resetWhileQueued_log : (mainReset 3 resetWhileQueued).flt.log.length = 1 := by decide +kernel

/-- Refutes O54: a reset that keeps the stacks first finishes the queued accesses, and one of them that raises a fault adds to
the fault log, which the statement has unchanged. -/
theorem not_resetKinds : ¬ Obligations.ResetKinds := by
  unfold Obligations.ResetKinds
  rintro ⟨hkinds, -⟩
  obtain ⟨-, -, -, -, -, -, -, -, -, -, -, -, -, -, hlog, -⟩ :=
    hkinds resetWhileQueued (.warm .hotReset) (mainReset 3 resetWhileQueued) 3 (by simp) (by decide) (by decide)
  have hlen := congrArg List.length hlog
  rw [resetWhileQueued_log] at hlen
  exact absurd hlen (by decide)

end Sys2Proof.Machine

namespace Sys2Proof.Machine

/-! PROOFS. The SPDM responder (R401, R402, R406): what an answer that fits its object does, and the lengths of the answers. -/

@[simp] theorem length_toLE (n : Nat) : ∀ v, (toLE n v).length = n := by
  induction n with
  | zero => exact fun _ => rfl
  | succ n ih => exact fun v => congrArg (· + 1) (ih _)

@[simp] theorem length_toBE (n v : Nat) : (toBE n v).length = n := by simp [toBE]

@[simp] theorem length_sha (b : List Byte) : (sha b).length = 48 := length_toBE _ _

/-- A request on a link that is up is answered with the message that its function makes, where that fits an object. -/
theorem runs_spdm {c : Instr} {s t : State} {f : State → String × List Byte × State} {n : String} {b : List Byte}
    (e : exec c s = actBus (spdm f) s) (hup : busUp s = true) (hl : s.boot.pcieUp = true) (hf : f s = (n, b, t))
    (hb : b.length ≤ 4088) : Runs c s (emit t (.spdm n b)) := by
  refine runs_actBus_to e hup ?_
  rw [spdm, if_pos hl, hf]
  dsimp only
  rw [if_neg (by simpa [spdmMax] using hb)]

/-- An answer too long for an object becomes ERROR ResponseTooLarge, and its free values are not used. -/
theorem runs_spdm_long {c : Instr} {s t : State} {f : State → String × List Byte × State} {n : String} {b : List Byte}
    (e : exec c s = actBus (spdm f) s) (hup : busUp s = true) (hl : s.boot.pcieUp = true) (hf : f s = (n, b, t))
    (hb : 4088 < b.length) : Runs c s (emit s (.spdm "ERROR" [0x12, 0x7F, 13, 0])) := by
  refine runs_actBus_to e hup ?_
  rw [spdm, if_pos hl, hf]
  dsimp only
  rw [if_pos (by simpa [spdmMax] using hb)]
  rfl

theorem runs_spdm_down {c : Instr} {s : State} {f : State → String × List Byte × State} (e : exec c s = actBus (spdm f) s)
    (hup : busUp s = true) (hl : s.boot.pcieUp = false) : Runs c s s :=
  runs_actBus_to e hup (by simp [spdm, hl])

/-- The record of one block, or of all ten. -/
theorem spdmMeas_unsigned {s : State} {i : Nat} (nonce : List Byte) (h1 : 1 ≤ i) (h2 : i ≤ 10) :
    spdmMeas i false nonce s = ("MEASUREMENTS", [0x12, 0x60, 0, 0] ++ toLE 1 1 ++ toLE 3 (measBlock s i).length ++ measBlock s i ++
      (spdmNonce s).1 ++ toLE 2 0, (spdmNonce s).2) := by
  have h0 : i ≠ 0 := by omega
  have h255 : i ≠ 255 := by omega
  have h10 : ¬ (10 < i ∧ i ≠ 255) := by omega
  simp only [spdmMeas, Bool.false_and, Bool.false_eq_true, if_false, h10, h0, h255, List.flatMap_cons, List.flatMap_nil,
    List.append_nil, List.length_cons, List.length_nil]

theorem spdmMeas_all {s : State} (nonce : List Byte) (h1 : s.fuses.rma = false) (h2 : s.boot.lifecycle ≠ 2) :
    ∃ sig k, sig.length = 96 ∧ spdmMeas 0xFF true nonce s = ("MEASUREMENTS", [0x12, 0x60, 0, 0] ++ toLE 1 10 ++
      toLE 3 ((List.range 10).flatMap fun i => measBlock s (i + 1)).length ++ ((List.range 10).flatMap fun i => measBlock s (i + 1)) ++
      (spdmNonce s).1 ++ toLE 2 0 ++ sig, { s with freeCtr := k }) := by
  refine ⟨toBE 96 (Config.attestSign (nonce ++ ([0x12, 0x60, 0, 0] ++ toLE 1 10 ++
      toLE 3 ((List.range 10).flatMap fun i => measBlock s (i + 1)).length ++ ((List.range 10).flatMap fun i => measBlock s (i + 1)) ++
      (spdmNonce s).1 ++ toLE 2 0)) (s.freeCtr + 32)).toNat, s.freeCtr + 32 + 1, length_toBE 96 _, ?_⟩
  have hl : (s.boot.lifecycle == 2) = false := by simpa using h2
  simp only [spdmMeas, h1, hl, Bool.or_false, Bool.and_false, Bool.false_eq_true, if_false, if_true]
  rfl

/-- What follows an answer's eight bytes of header. -/
theorem take_drop_header {h r t : List Byte} (hh : h.length = 8) : ((h ++ r ++ t).drop 8).take r.length = r := by
  rw [List.append_assoc, List.drop_append_of_le_length (by omega), List.drop_of_length_le (by omega), List.nil_append,
    List.take_left' rfl]

/-- Settles O52: each request's function with the length of the message it makes. -/
theorem attestation : Obligations.Attestation := by
  unfold Obligations.Attestation
  refine ⟨fun s i a h sl o n sg nonce hi hup hl => ?_, fun s hup hl => runs_spdm rfl hup hl rfl (by simp),
    fun s hup hl => ⟨_, runs_spdm (t := (fresh s).2) rfl hup hl rfl (by simp)⟩, fun s hup hl => ⟨_, ?_, runs_spdm rfl hup hl rfl ?_⟩,
    fun s a h hup hl hn => runs_spdm (f := spdmAlgs a h) rfl hup hl (if_neg ?_) (by decide),
    fun s hup hl => runs_spdm rfl hup hl rfl (by simp), fun s o n hup hl ho => ?_,
    fun s slot o n hup hl h => runs_spdm (f := spdmCert slot o n) rfl hup hl (if_pos h) (by decide), fun s nonce hup hl h1 h2 => ?_,
    fun s slot nonce hup hl h => runs_spdm (f := spdmChallenge slot nonce) rfl hup hl (if_pos (by simp [h])) (by decide),
    fun s i nonce hup hl h1 h2 hlen => ?_, fun s i nonce hup hl h1 h2 hlen => ?_, fun s nonce hup hl h1 h2 hlen => ?_,
    fun s i nonce hup hl h => runs_spdm (f := spdmMeas i true nonce) rfl hup hl (if_pos (by simp [h])) (by decide)⟩
  · simp only [List.mem_cons, List.not_mem_nil, or_false] at hi
    obtain rfl | rfl | rfl | rfl | rfl | rfl | rfl := hi
    all_goals exact runs_spdm_down rfl hup hl
  · simp
  · simp
  · cases a <;> cases h <;> simp_all
  · refine ⟨_, ?_, runs_spdm (f := spdmCert 0 o n) rfl hup hl (if_neg (by omega)) ?_⟩
    · exact List.drop_left' (by simp)
    · simp only [List.length_append, List.length_cons, List.length_nil, length_toLE, List.length_take, spdmMax]
      omega
  · have hc : ¬ (s.fuses.rma || s.boot.lifecycle == 2) = true := by simp [h1, h2]
    exact ⟨_, _, s.freeCtr + 32 + 1, length_toBE _ _, rfl, rfl, runs_spdm (f := spdmChallenge 0 nonce) (t := (fresh (spdmNonce s).2).2)
      rfl hup hl ((if_neg hc).trans (if_neg (not_not.2 rfl))) (by simp)⟩
  · refine ⟨_, _, ?_, ?_, runs_spdm (t := (spdmNonce s).2) rfl hup hl (spdmMeas_unsigned nonce h1 h2) ?_⟩
    · rw [List.append_assoc _ (spdmNonce s).1]
      exact take_drop_header (by simp)
    · rfl
    · simp [spdmNonce]
      omega
  · refine runs_spdm_long rfl hup hl (spdmMeas_unsigned nonce h1 h2) ?_
    simp [spdmNonce]
    omega
  · obtain ⟨sig, k, hsig, e⟩ := spdmMeas_all (s := s) nonce h1 h2
    refine ⟨_, k, ?_, ?_, runs_spdm (t := { s with freeCtr := k }) rfl hup hl e ?_⟩
    · rw [List.append_assoc _ (spdmNonce s).1, List.append_assoc _ _ sig]
      exact take_drop_header (by simp)
    · rfl
    · simp only [spdmNonce, List.length_append, List.length_cons, List.length_nil, length_toLE, List.length_map, List.length_range, hsig]
      omega

end Sys2Proof.Machine

namespace Sys2Proof.Machine

/-! PROOFS. Boot, recovery, measurement and unlocking (R389 to R408). -/

theorem extend_boot (src i : Nat) (d : List Byte) (s : State) : (extend src i d s).boot = { s.boot with
    mrs := setIx s.boot.mrs i (sha (getIx s.boot.mrs i [] ++ d)) []
    log := if s.boot.log.length < 64 then s.boot.log ++ [[BitVec.ofNat 8 i, BitVec.ofNat 8 src, 0, 0] ++ d] else s.boot.log
    full := s.boot.full || !decide (s.boot.log.length < 64) } := by
  unfold extend
  rw [setEvt_frame]
  simp

theorem extend_frame (src i : Nat) (d : List Byte) (s : State) : extend src i d s = { s with
    boot := (extend src i d s).boot, hdrs := (extend src i d s).hdrs, crier := (extend src i d s).crier
    emitted := (extend src i d s).emitted, msix := (extend src i d s).msix } := by
  unfold extend
  rw [setEvt_frame]

theorem extend_mr_other {src i j : Nat} (d : List Byte) (s : State) (h : j ≠ i) :
    getIx (extend src i d s).boot.mrs j [] = getIx s.boot.mrs j [] := by
  rw [extend_boot]
  exact getIx_setIx_other _ _ _ _ _ h

theorem extend_mr_same (src i : Nat) (d : List Byte) (s : State) :
    getIx (extend src i d s).boot.mrs i [] = sha (getIx s.boot.mrs i [] ++ d) := by
  rw [extend_boot]
  exact getIx_setIx_same _ _ _ _ _

theorem Noted.boot {s t : State} (h : Noted s t) : t.boot = s.boot := by rw [h.frame]

/-! ## What boot keeps while it goes on -/

/-- The boot record's choice, MR1 and the enables of the FIFOs stand. -/
structure KeepsRecord (s t : State) : Prop where
  record : (t.boot.chosen, t.boot.oneCopy, t.boot.source, t.boot.bRes, t.boot.svn) =
    (s.boot.chosen, s.boot.oneCopy, s.boot.source, s.boot.bRes, s.boot.svn)
  mr1 : getIx t.boot.mrs 1 [] = getIx s.boot.mrs 1 []
  fifos : ∀ f, f < 8192 → rbits t fifoPg f 0x200 0 0 = rbits s fifoPg f 0x200 0 0

namespace KeepsRecord

protected theorem refl (s : State) : KeepsRecord s s := ⟨rfl, rfl, fun _ _ => rfl⟩

protected theorem trans {s t u : State} (h : KeepsRecord s t) (g : KeepsRecord t u) : KeepsRecord s u :=
  ⟨g.record.trans h.record, g.mr1.trans h.mr1, fun f hf => (g.fifos f hf).trans (h.fifos f hf)⟩

theorem of_eq {s t : State} (h : (t.boot, t.regs) = (s.boot, s.regs)) : KeepsRecord s t := by
  simp only [Prod.mk.injEq] at h
  obtain ⟨hb, hr⟩ := h
  exact ⟨by rw [hb], by rw [hb], fun f _ => by simp only [rbits, rgetN, rget, hr]⟩

theorem of_noted {s t : State} (h : Noted s t) : KeepsRecord s t :=
  ⟨by rw [h.boot], by rw [h.boot], fun f hf => by
    unfold rbits rgetN
    rw [h.regs fifoPg f 0x200 (by decide) (by decide) hf (by decide)]⟩

theorem extend {src i : Nat} (d : List Byte) (s : State) (h : 1 ≠ i) : KeepsRecord s (extend src i d s) :=
  ⟨by rw [extend_boot], extend_mr_other d s h, fun f _ => by rw [extend_frame]; rfl⟩

end KeepsRecord

theorem rollback_noted (r : Nat) (s : State) : Noted s (rollback r s) := by
  unfold rollback
  split
  · exact raiseFault_noted _ _ _ _
  · exact .refl s

theorem relayPend_keepsRecord (s : State) : KeepsRecord s (relayPend s) := by
  unfold relayPend
  refine List.foldlRecOn (motive := KeepsRecord s) _ _ ⟨rfl, rfl, fun _ _ => rfl⟩ fun t ht d _ => ?_
  have hset : KeepsRecord t { t with boot := { t.boot with islBlock := d } } := ⟨rfl, rfl, fun _ _ => rfl⟩
  exact ((ht.trans hset).trans (.extend _ _ (by decide))).trans (.of_noted (raiseFault_noted _ _ _ _))

theorem loadTiles_frame (s : State) (prog cat patch : List Byte) :
    loadTiles s prog cat patch = { s with tiles := (loadTiles s prog cat patch).tiles, hdrs := (loadTiles s prog cat patch).hdrs } := by
  unfold loadTiles
  exact List.foldlRecOn (motive := fun t : State => t = { s with tiles := t.tiles, hdrs := t.hdrs }) _ _ rfl fun t ht n _ => by rw [ht]; rfl

theorem bootDone_keepsRecord (s : State) : KeepsRecord s (bootDone s) ∧ (bootDone s).boot.st = 7 ∧ (bootDone s).boot.doneFlag = true ∧
    (hdr (bootDone s) bootPg).evtPend.getLsbD 0 = true := by
  have hset : ∀ u : State, u.boot = { s.boot with st := 7, doneFlag := true } → u.regs = s.regs →
      KeepsRecord s (setEvt u bootPg 0) ∧ (setEvt u bootPg 0).boot.st = 7 ∧ (setEvt u bootPg 0).boot.doneFlag = true ∧
        (hdr (setEvt u bootPg 0) bootPg).evtPend.getLsbD 0 = true := by
    intro u hb hr
    have hboot : (setEvt u bootPg 0).boot = u.boot := by rw [setEvt_frame]
    refine ⟨⟨by rw [hboot, hb], by rw [hboot, hb], fun f _ => ?_⟩, by rw [hboot, hb], by rw [hboot, hb], setEvt_pend _ _ 0 (by decide)⟩
    simp only [rbits, rgetN_setEvt]
    simp only [rgetN, rget, hr]
  obtain ⟨u, hb, hr, e⟩ : ∃ u : State, u.boot = { s.boot with st := 7, doneFlag := true } ∧ u.regs = s.regs ∧
      bootDone s = setEvt u bootPg 0 := by
    unfold bootDone
    split
    · dsimp only
      split <;> refine ⟨_, ?_, ?_, rfl⟩ <;> rfl
    · dsimp only
      split <;> refine ⟨_, ?_, ?_, rfl⟩ <;> rfl
  rw [e]
  exact hset u hb hr

/-! ## The FIFOs of boot firmware (R264) -/

theorem rgetN_boothField_other (s : State) {p b o p' b' o' hi lo : Nat} (v : Nat) (hb : b < 8192) (hb' : b' < 8192) (ho : o < 4096)
    (ho' : o' < 4096) (h : ¬ (p' = p ∧ b' = b ∧ o' = o)) : rgetN (boothField s p b o hi lo v) p' b' o' = rgetN s p' b' o' :=
  rgetN_rputN_other s _ hb hb' ho ho' h

/-- The lowest bit of a field that begins at bit 0. -/
theorem setBits_zero_mod_two (x v : Nat) : setBits x 12 0 v % 2 = v % 2 := by
  simp only [setBits, bits, Nat.shiftRight_zero, Nat.pow_zero, Nat.mul_one]
  omega

theorem rbits_zero (s : State) (p b o : Nat) : rbits s p b o 0 0 = rgetN s p b o % 2 := by
  simp [rbits, bits]

theorem rbits_setupFifo {s : State} {f g n base ct : Nat} (hf : f < 8192) (hg : g < 8192) :
    rbits (setupFifo s f n base ct) fifoPg g 0x200 0 0 = if g = f then 1 else rbits s fifoPg g 0x200 0 0 := by
  have hput : ∀ (u : State) o v, o < 4096 → o ≠ 0x200 → rgetN (boothPut u fifoPg f o v) fifoPg g 0x200 = rgetN u fifoPg g 0x200 :=
    fun u o v ho hne => rgetN_boothField_other u v hf hg ho (by decide) (fun h => hne h.2.2.symm)
  have hset : ∀ (u : State) v, rgetN (boothField u fifoPg f 0x200 12 0 v) fifoPg g 0x200 % 2 =
      if g = f then v % 2 else rgetN u fifoPg g 0x200 % 2 := by
    intro u v
    by_cases h : g = f
    · subst h
      rw [if_pos rfl]
      have : rgetN (boothField u fifoPg g 0x200 12 0 v) fifoPg g 0x200 = setBits (rgetN u fifoPg g 0x200) 12 0 v % 2 ^ 32 := by
        simp only [boothField, rgetN, rputN]
        exact congrArg BitVec.toNat (rget_rput_same _ _ _ _ _)
      rw [this, Nat.mod_mod_of_dvd _ (by decide), setBits_zero_mod_two]
    · rw [if_neg h, rgetN_boothField_other u v hf hg (by decide) (by decide) (fun e => h e.2.1)]
  simp only [rbits_zero, setupFifo]
  refine (hset _ _).trans ?_
  rw [hput _ _ _ (by decide) (by decide), hput _ _ _ (by decide) (by decide), hput _ _ _ (by decide) (by decide),
    hput _ _ _ (by decide) (by decide)]
  split
  · omega
  · rfl

theorem boothField_boot (s : State) (p b o hi lo v : Nat) : (boothField s p b o hi lo v).boot = s.boot := rfl

theorem setupFifo_boot (s : State) (f n base ct : Nat) : (setupFifo s f n base ct).boot = s.boot := by
  simp only [setupFifo, boothPut, setFifo, boothField_boot]

/-- Every FIFO of a list that is set up is enabled at its end, and the boot record stands. -/
theorem setupFifos_spec (l : List (Nat × Nat)) (n base ct : State → Nat × Nat → Nat) (hl : ∀ e ∈ l, e.2 < 8192) :
    ∀ s : State, (l.foldl (fun s e => setupFifo s e.2 (n s e) (base s e) (ct s e)) s).boot = s.boot ∧
      ∀ f, f < 8192 → rbits s fifoPg f 0x200 0 0 = 1 ∨ f ∈ l.map Prod.snd →
        rbits (l.foldl (fun s e => setupFifo s e.2 (n s e) (base s e) (ct s e)) s) fifoPg f 0x200 0 0 = 1 := by
  induction l with
  | nil => exact fun s => ⟨rfl, fun f _ h => h.resolve_right List.not_mem_nil⟩
  | cons e l ih =>
    intro s
    obtain ⟨hb, hr⟩ := ih (fun e he => hl e (List.mem_cons_of_mem _ he)) (setupFifo s e.2 (n s e) (base s e) (ct s e))
    rw [List.foldl_cons]
    refine ⟨hb.trans (setupFifo_boot _ _ _ _ _), fun f hf h => hr f hf ?_⟩
    rw [rbits_setupFifo (hl e List.mem_cons_self) hf]
    by_cases he : f = e.2
    · exact .inl (if_pos he)
    · rw [if_neg he]
      exact h.imp_right fun hm => (List.mem_cons.1 hm).resolve_left he

theorem bootFifos_spec (s : State) : (bootFifos s).boot = s.boot ∧
    ∀ f, f < 32 ∨ (216 ≤ f ∧ f < 256) → rbits (bootFifos s) fifoPg f 0x200 0 0 = 1 := by
  unfold bootFifos
  extract_lets l
  have hl : ∀ f, f ∈ l ↔ f < 32 ∨ (216 ≤ f ∧ f < 256) := fun f => by
    simp only [l, List.mem_append, List.mem_range, List.mem_map]
    exact or_congr_right ⟨fun ⟨a, h, e⟩ => by omega, fun h => ⟨f - 216, by omega, by omega⟩⟩
  clear_value l
  obtain ⟨hb, hr⟩ := setupFifos_spec ((List.range l.length).zip l) (fun _ e => 8 + Config.bootFifoLog e.2 % 9)
    (fun _ e => e.1 * 2 ^ 16) (fun s e => rgetN s fifoPg e.2 0x20C)
    (fun e he => by have := (hl _).1 (List.of_mem_zip he).2; omega) s
  refine ⟨hb, fun f hf => hr f (by omega) (.inr ?_)⟩
  rw [List.map_snd_zip (by simp)]
  exact (hl f).2 hf

/-! ## Reading a bundle -/

theorem mediaRead_congr {s t : State} (m : Media) (off n : Nat) (h : (t.flash, t.hostMem) = (s.flash, s.hostMem)) :
    mediaRead t m off n = mediaRead s m off n := by
  simp only [Prod.mk.injEq] at h
  obtain ⟨hf, hm⟩ := h
  simp only [mediaRead, hostRead, hf, hm]

theorem header_congr {s t : State} (m : Media) (h : (t.flash, t.hostMem) = (s.flash, s.hostMem)) : header t m = header s m := by
  simp only [header, mediaRead_congr m _ _ h]

theorem bundleDigest_congr {s t : State} (m : Media) (h : (t.flash, t.hostMem) = (s.flash, s.hostMem)) :
    bundleDigest t m = bundleDigest s m := by
  simp only [bundleDigest, header_congr m h]

theorem patchOf_congr {s t : State} (m : Media) (h : List Byte) (rma : Bool) (e : (t.flash, t.hostMem) = (s.flash, s.hostMem)) :
    patchOf t m h rma = patchOf s m h rma := by
  simp only [patchOf, compBytes, mediaRead_congr m _ _ e]

theorem patch_congr {s t : State} {m : Media} {patch : List Byte} (e : (t.flash, t.hostMem) = (s.flash, s.hostMem))
    (hl : t.boot.lifecycle = s.boot.lifecycle) (h : patchOf s m (header s m) (s.boot.lifecycle == 2) = some patch) :
    patchOf t m (header t m) (t.boot.lifecycle == 2) = some patch := by
  rw [header_congr m e, patchOf_congr m _ _ e, hl, h]

/-- A good copy has a patch. -/
theorem patch_of_copyResult {s : State} {m : Media} {rma : Bool} (h : copyResult s m rma = 0) :
    ∃ p, patchOf s m (header s m) rma = some p := by
  cases hp : patchOf s m (header s m) rma with
  | some p => exact ⟨p, rfl⟩
  | none =>
    exfalso
    simp only [copyResult, hp, Option.isNone_none, if_true] at h
    split_ifs at h

/-! ## Steps 3 to 8 -/

/-- MR `i` extended with the digest of component `t`, where the bundle has it. -/
def extendComp (m : Media) (s : State) (i t : Nat) (u : State) : State :=
  match (compOf (header s m) t).map Cmp.digest with
  | some d => extend 0 i d u
  | none => u

/-- The bytes of component `t`, none where the bundle lacks it. -/
def compData (m : Media) (s : State) (t : Nat) : List Byte :=
  match compOf (header s m) t with
  | some c => compBytes s m c
  | none => []

/-- The measurement registers after the chosen bundle is measured. -/
def measuredRegs (m : Media) (s : State) : State :=
  extendComp m s 5 4 (extendComp m s 4 3 (extendComp m s 3 5 (extendComp m s 3 2 (extendComp m s 2 1 (extend 0 1 (bundleDigest s m)
    (extend 0 0 (sha (padTo 64 ([s.boot.aRes, s.boot.bRes, s.boot.chosen, Bd.slot (header s m), s.boot.source].map (BitVec.ofNat 8)))) s))))))

/-- The device after the chosen bundle is measured (R395, R398). -/
def measured (m : Media) (s : State) : State :=
  { measuredRegs m s with boot := { (measuredRegs m s).boot with
    svn := Bd.svn (header s m), config := compData m s 5, firmware := compData m s 1 } }

theorem measured_spec (m : Media) (s : State) :
    (measured m s).boot.chosen = s.boot.chosen ∧ (measured m s).boot.oneCopy = s.boot.oneCopy ∧
    (measured m s).boot.source = s.boot.source ∧ (measured m s).boot.bRes = s.boot.bRes ∧
    (measured m s).boot.svn = Bd.svn (header s m) ∧
    getIx (measured m s).boot.mrs 1 [] = sha (getIx s.boot.mrs 1 [] ++ bundleDigest s m) := by
  have hext : ∀ i t u, 1 ≠ i → KeepsRecord u (extendComp m s i t u) := fun i t u hi => by
    unfold extendComp
    split
    · exact .extend _ _ hi
    · exact .refl u
  generalize hs1 : extend 0 0 (sha (padTo 64 ([s.boot.aRes, s.boot.bRes, s.boot.chosen, Bd.slot (header s m), s.boot.source].map
    (BitVec.ofNat 8)))) s = s1
  have h1 : KeepsRecord s s1 := hs1 ▸ .extend _ _ (by decide)
  have h2 : KeepsRecord (extend 0 1 (bundleDigest s m) s1) (measuredRegs m s) := by
    unfold measuredRegs
    rw [hs1]
    exact ((((hext 2 1 _ (by decide)).trans (hext 3 2 _ (by decide))).trans (hext 3 5 _ (by decide))).trans (hext 4 3 _ (by decide))).trans
      (hext 5 4 _ (by decide))
  have hr := h2.record
  rw [extend_boot, h1.record] at hr
  simp only [Prod.mk.injEq] at hr
  obtain ⟨hc, ho, hs, hb, -⟩ := hr
  exact ⟨hc, ho, hs, hb, rfl, by rw [measured, h2.mr1, extend_mr_same, h1.mr1]⟩

/-- The tiles loaded (R220, R226). -/
def tilesLoaded (m : Media) (patch : List Byte) (s : State) : State := loadTiles (measured m s) (compData m s 3) (compData m s 2) patch

/-- The stacks in use. -/
def stacksUp (m : Media) (patch : List Byte) (s : State) : State :=
  { writeL24 (tilesLoaded m patch s) with phys := (writeL24 (tilesLoaded m patch s)).phys.map fun p =>
      { p with st := 2, preserved := (writeL24 (tilesLoaded m patch s)).rst.hbmKept } }

/-- The stacks in use, the FIFOs of boot firmware on, and the Island's block measured. -/
def trained (m : Media) (patch : List Byte) (s : State) : State :=
  relayPend (extend 1 6 (sha (stacksUp m patch s).boot.islBlock) (bootFifos (stacksUp m patch s)))

theorem bootCopy_patch {m : Media} {s : State} {patch : List Byte} (hb cr : Bool)
    (h : patchOf s m (header s m) (s.boot.lifecycle == 2) = some patch) :
    bootCopy m hb cr s = if cr = false then hwInit (tilesLoaded m patch s) 3
      else if hb = false then hwInit (phyFails (writeL24 (tilesLoaded m patch s))) 4 else bootDone (trained m patch s) := by
  unfold bootCopy
  extract_lets +onlyGivenNames h0 rma b dig ext bytes s1 s2 src s3
  have hext : ∀ i t u, ext i t u = extendComp m s i t u := fun i t u => by
    unfold ext extendComp dig h0
    cases Option.map Cmp.digest (compOf (header s m) t) <;> rfl
  have hbytes : ∀ t, bytes t = compData m s t := fun t => by
    unfold bytes compData h0
    cases compOf (header s m) t <;> rfl
  have e2 : s2 = measuredRegs m s := by
    unfold s2
    simp only [hext]
    rfl
  have e3 : s3 = measured m s := by
    unfold s3 src
    rw [hbytes, hbytes, e2]
    rfl
  have hp : patchOf s m h0 rma = some patch := h
  rw [hp, e3]
  dsimp only
  rw [hbytes, hbytes]
  unfold trained stacksUp tilesLoaded
  cases cr with
  | false => exact (if_pos rfl).trans (if_pos rfl).symm
  | true =>
    refine (if_neg Bool.false_ne_true).trans (Eq.trans ?_ (if_neg (by decide)).symm)
    cases hb with
    | false => exact (if_pos rfl).trans (if_pos rfl).symm
    | true => exact (if_neg Bool.false_ne_true).trans (if_neg (by decide)).symm

theorem setPhys_boot (s : State) (l : List Phy) : ({ s with phys := l } : State).boot = s.boot := rfl

theorem writeL24_boot (s : State) : (writeL24 s).boot = s.boot := rfl

theorem tilesLoaded_boot (m : Media) (patch : List Byte) (s : State) : (tilesLoaded m patch s).boot = (measured m s).boot := by
  unfold tilesLoaded
  rw [loadTiles_frame]

theorem trained_keepsRecord (m : Media) (patch : List Byte) (s : State) : ((trained m patch s).boot.chosen,
      (trained m patch s).boot.oneCopy, (trained m patch s).boot.source, (trained m patch s).boot.bRes, (trained m patch s).boot.svn) =
      ((measured m s).boot.chosen, (measured m s).boot.oneCopy, (measured m s).boot.source, (measured m s).boot.bRes,
        (measured m s).boot.svn) ∧
    getIx (trained m patch s).boot.mrs 1 [] = getIx (measured m s).boot.mrs 1 [] ∧
    ∀ f, f < 32 ∨ (216 ≤ f ∧ f < 256) → rbits (trained m patch s) fifoPg f 0x200 0 0 = 1 := by
  have h6 : (stacksUp m patch s).boot = (measured m s).boot :=
    ((setPhys_boot _ _).trans (writeL24_boot (tilesLoaded m patch s))).trans (tilesLoaded_boot m patch s)
  unfold trained
  generalize stacksUp m patch s = s6 at h6 ⊢
  obtain ⟨hb, hf⟩ := bootFifos_spec s6
  generalize bootFifos s6 = u at hb hf
  have hisl : KeepsRecord u (extend 1 6 (sha s6.boot.islBlock) u) := .extend _ _ (by decide)
  obtain ⟨hrec, hmr, hfifo⟩ := hisl.trans (relayPend_keepsRecord _)
  rw [hb.trans h6] at hrec hmr
  exact ⟨hrec, hmr, fun f h => (hfifo f (by omega)).trans (hf f h)⟩

theorem phyFails_spec (s : State) : (phyFails s).boot = s.boot ∧
    ((hdr (phyFails s) (phyPage 0)).fltSrc.getLsbD 0 = true ∨ (hdr (phyFails s) (phyPage 1)).fltSrc.getLsbD 0 = true) := by
  have hsrc : ∀ (u : State), (hdr (raiseFault u (phyPage 0) 0 0) (phyPage 0)).fltSrc.getLsbD 0 = true :=
    fun u => raiseFault_src (k := .phy) (i := 0) (by decide) (by decide) (by decide)
  have hsrc1 : ∀ (u : State), (hdr (raiseFault u (phyPage 1) 0 0) (phyPage 1)).fltSrc.getLsbD 0 = true :=
    fun u => raiseFault_src (k := .phy) (i := 1) (by decide) (by decide) (by decide)
  have hboot : ∀ (u : State) p, (raiseFault u p 0 0).boot = u.boot := fun u p => (raiseFault_noted u p 0 0).boot
  unfold phyFails
  extract_lets f k s1
  have h1 : s1.boot = s.boot := by
    unfold s1
    split
    · rw [hboot]; rfl
    · rfl
  split
  · exact ⟨(hboot _ _).trans h1, .inr (hsrc1 _)⟩
  · refine ⟨h1, .inl ?_⟩
    unfold s1
    rw [if_pos (by omega)]
    exact hsrc _

/-- Boot with a chosen copy that has a patch: the record of the choice, and the end that the stacks and the tiles give it. -/
theorem bootCopy_spec {m : Media} {s : State} {patch : List Byte} (hb cr : Bool)
    (h : patchOf s m (header s m) (s.boot.lifecycle == 2) = some patch) :
    ((bootCopy m hb cr s).boot.chosen = s.boot.chosen ∧ (bootCopy m hb cr s).boot.oneCopy = s.boot.oneCopy ∧
      (bootCopy m hb cr s).boot.source = s.boot.source ∧ (bootCopy m hb cr s).boot.bRes = s.boot.bRes ∧
      (bootCopy m hb cr s).boot.svn = Bd.svn (header s m) ∧
      getIx (bootCopy m hb cr s).boot.mrs 1 [] = sha (getIx s.boot.mrs 1 [] ++ bundleDigest s m)) ∧
    if cr = false then (bootCopy m hb cr s).boot.st = 3 ∧ (bootCopy m hb cr s).boot.err = 4
    else if hb = false then (bootCopy m hb cr s).boot.st = 4 ∧ (bootCopy m hb cr s).boot.err = 4 ∧
      ((hdr (bootCopy m hb cr s) (phyPage 0)).fltSrc.getLsbD 0 = true ∨ (hdr (bootCopy m hb cr s) (phyPage 1)).fltSrc.getLsbD 0 = true)
    else (bootCopy m hb cr s).boot.st = 7 ∧ (bootCopy m hb cr s).boot.doneFlag = true ∧
      (hdr (bootCopy m hb cr s) bootPg).evtPend.getLsbD 0 = true ∧
      ∀ f, f < 32 ∨ (216 ≤ f ∧ f < 256) → rbits (bootCopy m hb cr s) fifoPg f 0x200 0 0 = 1 := by
  obtain ⟨hc, ho, hs, hbr, hsvn, hmr⟩ := measured_spec m s
  rw [bootCopy_patch hb cr h]
  by_cases h1 : cr = false
  · simp only [h1, if_true, hwInit, tilesLoaded_boot]
    exact ⟨⟨hc, ho, hs, hbr, hsvn, hmr⟩, trivial, trivial⟩
  · simp only [if_neg h1]
    by_cases h2 : hb = false
    · obtain ⟨hpb, hpf⟩ := phyFails_spec (writeL24 (tilesLoaded m patch s))
      have hboot : (phyFails (writeL24 (tilesLoaded m patch s))).boot = (measured m s).boot := (hpb.trans (writeL24_boot _)).trans (tilesLoaded_boot _ _ _)
      simp only [h2, if_true, hwInit, hboot]
      exact ⟨⟨hc, ho, hs, hbr, hsvn, hmr⟩, trivial, trivial, hpf⟩
    · simp only [if_neg h2]
      obtain ⟨⟨drec, dmr, dfifo⟩, hst, hd, he⟩ := bootDone_keepsRecord (trained m patch s)
      obtain ⟨trec, tmr, tfifo⟩ := trained_keepsRecord m patch s
      have hr := drec.trans trec
      simp only [Prod.mk.injEq] at hr
      obtain ⟨rc, ro, rs, rb, rsvn⟩ := hr
      exact ⟨⟨rc.trans hc, ro.trans ho, rs.trans hs, rb.trans hbr, rsvn.trans hsvn, (dmr.trans tmr).trans hmr⟩, hst, hd, he,
        fun f hf => (dfifo f (by omega)).trans (tfifo f hf)⟩

/-! ## BOOT -/

theorem runs_boot {s t : State} {pll hb cr : Bool} (h : resettable s = true) (ht : bootOp pll hb cr s = t) :
    Runs (.boot pll hb cr) s t := runs_next rfl ((if_pos h).trans ht)

theorem bootOp_unlocked {s : State} (hb cr : Bool) (hst : s.boot.st = 0) (he : s.boot.err = 0) :
    bootOp false hb cr s = hwInit (romSense s) 0 := by
  simp [bootOp, hst, he]

theorem bootOp_strap {s : State} (hb cr : Bool) (hst : s.boot.st = 0) (he : s.boot.err = 0) (hs : s.straps.bootSrc % 4 = 1) :
    bootOp true hb cr s = recovery (romInit (romSense s)) 0 := by
  have hstrap : (romInit (romSense s)).straps = s.straps := by rw [romInit, extend_frame]; rfl
  simp [bootOp, hst, he, hstrap, hs]

theorem bootOp_noFlash {s : State} (hb cr : Bool) (hst : s.boot.st = 0) (he : s.boot.err = 0) (hs : s.straps.bootSrc % 4 ≠ 1)
    (hf : s.flashOk = false) : bootOp true hb cr s =
      recovery { romInit (romSense s) with boot := { (romInit (romSense s)).boot with source := 1 } } 3 := by
  have hstrap : (romInit (romSense s)).straps = s.straps := by rw [romInit, extend_frame]; rfl
  have hflash : (romInit (romSense s)).flashOk = s.flashOk := by rw [romInit, extend_frame]; rfl
  simp [bootOp, hst, he, hstrap, hs, hflash, hf]

/-- The device that has judged both copies: the boot record holds the results and the choice (R394). -/
def judged (s : State) (a b : Nat) : State :=
  let s1 := romInit (romSense s)
  let s2 := { s1 with boot := { s1.boot with
    aRes := a, bRes := b, chosen := (choose s1 a b).1, oneCopy := decide (a = 0) != decide (b = 0) } }
  rollback b (rollback a (if (decide (a = 0) != decide (b = 0)) = true then raiseFault s2 bootPg 0 0 else s2))

theorem judged_noted (s : State) (a b : Nat) : Noted { romInit (romSense s) with boot := { (romInit (romSense s)).boot with
    aRes := a, bRes := b, chosen := (choose (romInit (romSense s)) a b).1, oneCopy := decide (a = 0) != decide (b = 0) } } (judged s a b) := by
  unfold judged
  extract_lets s1 s2
  refine Noted.trans (Noted.trans ?_ (rollback_noted a _)) (rollback_noted b _)
  split
  · exact raiseFault_noted _ _ _ _
  · exact .refl _

/-- What the ROM makes of the straps and the flash: they stand. -/
theorem romInit_frame (s : State) : (romInit (romSense s)).straps = s.straps ∧ (romInit (romSense s)).flashOk = s.flashOk ∧
    (romInit (romSense s)).flash = s.flash ∧ (romInit (romSense s)).hostMem = s.hostMem ∧ (romInit (romSense s)).flashSize = s.flashSize := by
  rw [romInit, extend_frame]
  exact ⟨rfl, rfl, rfl, rfl, rfl⟩

theorem copies_congr {s t : State} (h : t.flashSize = s.flashSize) : copyA t = copyA s ∧ copyB t = copyB s := by
  simp only [copyA, copyB, h, and_self]

theorem bootOp_judges {s : State} {a b : Nat} (hb cr : Bool) (hst : s.boot.st = 0) (he : s.boot.err = 0) (hs : s.straps.bootSrc % 4 ≠ 1)
    (hf : s.flashOk = true)
    (ha : copyResult (romInit (romSense s)) (copyA s) ((romInit (romSense s)).boot.lifecycle == 2) = a)
    (hbr : copyResult (romInit (romSense s)) (copyB s) ((romInit (romSense s)).boot.lifecycle == 2) = b) :
    bootOp true hb cr s =
      if (choose (romInit (romSense s)) a b).1 = 0 then
        recovery { judged s a b with boot := { (judged s a b).boot with source := 1 } } (choose (romInit (romSense s)) a b).2
      else bootCopy (if (choose (romInit (romSense s)) a b).1 = 1 then copyA (judged s a b) else copyB (judged s a b)) hb cr (judged s a b) := by
  obtain ⟨hstrap, hflash, -, -, hsize⟩ := romInit_frame s
  obtain ⟨hca, hcb⟩ := copies_congr hsize
  simp only [bootOp, hst, he, ne_eq, not_true_eq_false, or_self, if_false, Bool.not_true, Bool.false_eq_true, hstrap, hs, hflash, hf,
    hca, hcb, ha, hbr, judged]

theorem lifecycle_romInit (s : State) : (romInit (romSense s)).boot.lifecycle =
    if s.fuses.rma then 2 else if s.boot.unlockPend then 1 else 0 := by
  rw [romInit, extend_boot]
  rfl

theorem source_romInit {s : State} (h : s.straps.bootSrc % 4 = 1) : (romInit (romSense s)).boot.source = 1 := by
  rw [romInit, extend_boot]
  exact if_pos h

theorem rootLock_romInit (s : State) : (romInit (romSense s)).clk.rootLock = true := by
  rw [romInit, extend_frame]

theorem mr1_romInit (s : State) : getIx (romInit (romSense s)).boot.mrs 1 [] = getIx s.boot.mrs 1 [] :=
  extend_mr_other _ _ (by decide)

theorem choose_one {s : State} {a b : Nat} (h : a = 0 ∧ b ≠ 0 ∨ a ≠ 0 ∧ b = 0) : choose s a b = (if a = 0 then 1 else 2, 0) := by
  obtain ⟨ha, hb⟩ | ⟨ha, hb⟩ := h <;> simp [choose, ha, hb]

/-- With one good copy boot goes on with it, and its record names it. -/
theorem bootOp_oneCopy {s : State} {m : Media} {k : Nat} (hb cr : Bool) (hst : s.boot.st = 0) (he : s.boot.err = 0)
    (hs : s.straps.bootSrc % 4 ≠ 1) (hf : s.flashOk = true)
    (hone : (m = copyA s ∧ k = 1 ∧
        copyResult (romInit (romSense s)) (copyA s) ((romInit (romSense s)).boot.lifecycle == 2) = 0 ∧
        copyResult (romInit (romSense s)) (copyB s) ((romInit (romSense s)).boot.lifecycle == 2) ≠ 0) ∨
      (m = copyB s ∧ k = 2 ∧ copyResult (romInit (romSense s)) (copyA s) ((romInit (romSense s)).boot.lifecycle == 2) ≠ 0 ∧
        copyResult (romInit (romSense s)) (copyB s) ((romInit (romSense s)).boot.lifecycle == 2) = 0)) :
    ∃ u patch, bootOp true hb cr s = bootCopy m hb cr u ∧ u.boot.chosen = k ∧ u.boot.oneCopy = true ∧
      getIx u.boot.mrs 1 [] = getIx s.boot.mrs 1 [] ∧ (u.flash, u.hostMem) = (s.flash, s.hostMem) ∧
      patchOf u m (header u m) (u.boot.lifecycle == 2) = some patch := by
  obtain ⟨-, -, hflash, hmem, hsize⟩ := romInit_frame s
  have e := bootOp_judges hb cr hst he hs hf rfl rfl
  generalize ha : copyResult (romInit (romSense s)) (copyA s) ((romInit (romSense s)).boot.lifecycle == 2) = a at hone e
  generalize hbr : copyResult (romInit (romSense s)) (copyB s) ((romInit (romSense s)).boot.lifecycle == 2) = b at hone e
  have hc := choose_one (s := romInit (romSense s)) (hone.imp (fun h => h.2.2) (fun h => h.2.2))
  have hn := judged_noted s a b
  have hfl : ((judged s a b).flash, (judged s a b).hostMem) = ((romInit (romSense s)).flash, (romInit (romSense s)).hostMem) := by
    rw [hn.frame]
  obtain ⟨hca, hcb⟩ : copyA (judged s a b) = copyA s ∧ copyB (judged s a b) = copyB s :=
    copies_congr (by rw [hn.frame]; exact hsize)
  have hpick : m = (if a = 0 then copyA s else copyB s) ∧ k = (if a = 0 then 1 else 2) ∧ (decide (a = 0) != decide (b = 0)) = true ∧
      copyResult (romInit (romSense s)) m ((romInit (romSense s)).boot.lifecycle == 2) = 0 := by
    obtain ⟨rfl, rfl, h1, h2⟩ | ⟨rfl, rfl, h1, h2⟩ := hone
    · simp [h1, h2, ha]
    · simp [h1, h2, hbr]
  obtain ⟨hm, hk, hxor, hres⟩ := hpick
  obtain ⟨patch, hp⟩ := patch_of_copyResult hres
  refine ⟨judged s a b, patch, ?_, ?_, ?_, ?_, hfl.trans (by rw [hflash, hmem]), ?_⟩
  · rw [e, hc, hca, hcb, if_neg (by dsimp only; split <;> decide), hm]
    congr 1
    split <;> rfl
  · rw [hn.boot, hk, hc]
  · rw [hn.boot, hxor]
  · rw [hn.boot]
    exact mr1_romInit s
  · rw [hn.boot, header_congr m hfl, patchOf_congr m _ _ hfl]
    exact hp

/-! ## BOOT_CMD -/

theorem runs_bootCmd {c : Instr} {s t : State} {rq : Requester} {may : Bool} {op : State → State}
    (e : exec c s = .next (bootCmd rq may op s)) (h : Accepts s rq bootPg 0x11C) (hb : s.boot.busy = false) (hm : may = true)
    (ht : op s = t) : Runs c s t := by
  rw [Runs, e, bootCmd, regOp_accepts _ h]
  simp [hb, hm, ht]

theorem setEvt_boot (s : State) (p k : Nat) : (setEvt s p k).boot = s.boot := by rw [setEvt_frame]

theorem setEvt_fuses (s : State) (p k : Nat) : (setEvt s p k).fuses = s.fuses := by rw [setEvt_frame]

theorem bootEnd_boot (s : State) (c : Nat) : (bootEnd s c).boot = { s.boot with code := c } := setEvt_boot _ _ _

/-- The device after REC_LOAD has judged the bundle. -/
def recJudged (s : State) (r : Nat) : State :=
  rollback r (bootEnd (setEvt { s with boot := { s.boot with bRes := r } } bootPg 1) 0)

theorem recJudged_spec (s : State) (r : Nat) : (recJudged s r).boot = { s.boot with bRes := r, code := 0 } ∧
    (hdr (recJudged s r) bootPg).evtPend.getLsbD 1 = true ∧ (hdr (recJudged s r) bootPg).evtPend.getLsbD 2 = true ∧
    ((recJudged s r).flash, (recJudged s r).hostMem) = (s.flash, s.hostMem) := by
  have hroll := rollback_noted r (bootEnd (setEvt { s with boot := { s.boot with bRes := r } } bootPg 1) 0)
  have hend : Told { setEvt { s with boot := { s.boot with bRes := r } } bootPg 1 with
      boot := { (setEvt { s with boot := { s.boot with bRes := r } } bootPg 1).boot with code := 0 } }
      (bootEnd (setEvt { s with boot := { s.boot with bRes := r } } bootPg 1) 0) := setEvt_told _ _ _
  refine ⟨?_, hroll.pend _ _ (hend.pend bootPg 1 (setEvt_pend _ _ 1 (by decide))), hroll.pend _ _ (setEvt_pend _ _ 2 (by decide)), ?_⟩
  · rw [recJudged, hroll.boot, bootEnd_boot, setEvt_boot]
  · rw [recJudged, hroll.frame, bootEnd, setEvt_frame, setEvt_frame]

theorem recLoadOp_bad {s : State} {m : Media} {d : Bool} {r : Nat} (hb cr : Bool) (hst : s.boot.st = 5)
    (hm : m = (⟨false, recAddr s, min (rbits s bootPg 0 0x118 26 0) (64 * 2 ^ 20)⟩ : Media))
    (hr : r = (if d = false ∨ (hostErrAt s m.base (rbits s bootPg 0 0x118 26 0)).isSome = true then 1
      else copyResult s m (s.boot.lifecycle == 2))) (h0 : r ≠ 0) : recLoadOp d hb cr s = recJudged s r := by
  have hr' : (if (!d || (hostErrAt s m.base (rbits s bootPg 0 0x118 26 0)).isSome) = true then 1
      else copyResult s m (s.boot.lifecycle == 2)) = r := by rw [hr]; simp
  subst hm
  simp only [recLoadOp, recJudged, hst, ne_eq, not_true_eq_false, if_false, hr', h0, not_false_eq_true, if_true]

theorem recLoadOp_good {s : State} {m : Media} (hb cr : Bool) (hst : s.boot.st = 5)
    (hm : m = (⟨false, recAddr s, min (rbits s bootPg 0 0x118 26 0) (64 * 2 ^ 20)⟩ : Media))
    (he : (hostErrAt s m.base (rbits s bootPg 0 0x118 26 0)).isSome = false) (hr : copyResult s m (s.boot.lifecycle == 2) = 0) :
    recLoadOp true hb cr s =
      bootCopy m hb cr { recJudged s 0 with boot := { (recJudged s 0).boot with chosen := 3, source := 1, err := 0 } } := by
  subst hm
  have hr' : (if (!true || (hostErrAt s (recAddr s) (rbits s bootPg 0 0x118 26 0)).isSome) = true then 1
      else copyResult s ⟨false, recAddr s, min (rbits s bootPg 0 0x118 26 0) (64 * 2 ^ 20)⟩ (s.boot.lifecycle == 2)) = 0 := by
    simpa [he] using hr
  simp only [recLoadOp, recJudged, hst, ne_eq, not_true_eq_false, if_false, hr']

/-- The registers, memories and reports that a command of BOOT_CMD leaves alone. -/
theorem bootEnd_frame (s : State) (c : Nat) : bootEnd s c = { s with
    boot := { s.boot with code := c }, hdrs := (bootEnd s c).hdrs, crier := (bootEnd s c).crier, emitted := (bootEnd s c).emitted
    msix := (bootEnd s c).msix } := by
  unfold bootEnd
  rw [setEvt_frame]

theorem mrExtendOp_seven (s : State) : (mrExtendOp 7 s).boot.code = 0 ∧
    getIx (mrExtendOp 7 s).boot.mrs 7 [] =
      sha (getIx s.boot.mrs 7 [] ++ (List.range 12).flatMap fun i => toLE 4 (rgetN s bootPg 0 (0x140 + 4 * i))) ∧
    (∀ i, i < 7 → getIx (mrExtendOp 7 s).boot.mrs i [] = getIx s.boot.mrs i []) ∧
    mrExtendOp 7 s = { s with boot := (mrExtendOp 7 s).boot, hdrs := (mrExtendOp 7 s).hdrs, crier := (mrExtendOp 7 s).crier
                              emitted := (mrExtendOp 7 s).emitted, msix := (mrExtendOp 7 s).msix } := by
  have e : mrExtendOp 7 s = bootEnd (extend 2 7 ((List.range 12).flatMap fun i => toLE 4 (rgetN s bootPg 0 (0x140 + 4 * i))) s) 0 := rfl
  rw [e]
  generalize ((List.range 12).flatMap fun i => toLE 4 (rgetN s bootPg 0 (0x140 + 4 * i))) = d
  rw [bootEnd_boot]
  refine ⟨rfl, extend_mr_same _ _ _ _, fun i hi => extend_mr_other _ _ (by omega), ?_⟩
  rw [bootEnd_frame, extend_frame]

theorem submitOp_refused {s : State} (hl : s.straps.lifecycleLock = false)
    (h : ((memRead s 0 (recAddr s) 256).2.1.isSome = true ∨ (memRead s 0 (recAddr s) 256).2.2 = true) ∨
      tokenOk s (memRead s 0 (recAddr s) 256).1 = false) :
    submitOp s = bootEnd { s with boot := { s.boot with nonceOk := false } } 2 := by
  rw [submitOp, if_neg (by simp [hl]), if_pos (by simpa using h)]

theorem submitOp_good {s : State} {b : List Byte} (hl : s.straps.lifecycleLock = false) (hr : memRead s 0 (recAddr s) 256 = (b, none, false))
    (h : tokenOk s b = true) : submitOp s = if byteAt b 6 = 1 then
        bootEnd { s with boot := { s.boot with nonceOk := false, unlockPend := true } } 0
      else bootEnd { s with boot := { s.boot with nonceOk := false }, fuses := { s.fuses with rma := true, patchKey := false } } 0 := by
  rw [submitOp, hr, if_neg (by simp [hl]), if_neg (by simp [h])]

theorem svnCommitOp_spec {s : State} {v : Nat} (h1 : s.boot.svnMin < v) (h2 : v ≤ s.boot.svn) (h3 : v ≤ 128) (h4 : s.boot.st = 7) :
    (svnCommitOp v s).fuses = { s.fuses with svnMin := max s.fuses.svnMin v } ∧ (svnCommitOp v s).boot = { s.boot with code := 0 } := by
  have e : svnCommitOp v s = bootEnd { s with fuses := { s.fuses with svnMin := max s.fuses.svnMin v } } 0 :=
    if_pos ⟨h1, h2, h3, h4⟩
  rw [e]
  exact ⟨setEvt_fuses _ _ _, bootEnd_boot _ _⟩

theorem runs_bootCmd_denied {c : Instr} {s : State} {rq : Requester} {op : State → State}
    (e : exec c s = .next (bootCmd rq false op s)) (h : Accepts s rq bootPg 0x11C) : Runs c s (bootDeny s 1) := by
  rw [Runs, e, bootCmd, regOp_accepts _ h]
  simp

/-- Settles O51: the record of boot through its steps, and one lemma for each command of BOOT_CMD. -/
theorem bootAndBundles : Obligations.BootAndBundles := by
  unfold Obligations.BootAndBundles
  refine ⟨fun s hb cr hr hst he => ⟨_, runs_boot hr (bootOp_unlocked hb cr hst he), rfl, rfl, rfl, rfl, rfl, rfl⟩,
    fun s hb cr hr hst he hs => ⟨_, runs_boot hr (bootOp_strap hb cr hst he hs), rfl, rfl, ?_, ?_, lifecycle_romInit s⟩,
    fun s hb cr hr hst he hs hf => ⟨_, runs_boot hr (bootOp_noFlash hb cr hst he hs hf), rfl, rfl⟩,
    fun s hb cr r hr hst he hs hf hl ha hbr => ?_, fun s hb cr r m k hr hst he hs hf hmrs hpend hl hone => ?_,
    fun s hb cr m h hst hbusy hm herr _ hres => ?_, fun s d hb cr m r h hst hbusy hm hres h0 => ?_,
    fun s n d hb cr h => runs_bootCmd_denied rfl h, fun s n h hbusy => ⟨_, runs_bootCmd rfl h hbusy rfl rfl, mrExtendOp_seven s⟩,
    fun s n mr h hbusy hmr => ⟨_, runs_bootCmd rfl h hbusy rfl (if_pos hmr), bootEnd_boot _ _⟩,
    fun s h hbusy => ⟨_, runs_bootCmd rfl h hbusy rfl rfl, ?_, ?_, ?_, ?_, setEvt_pend _ _ 2 (by decide)⟩,
    fun s h hbusy hl => ⟨_, runs_bootCmd rfl h hbusy rfl (if_pos hl), bootEnd_boot _ _, setEvt_fuses _ _ _⟩,
    fun s b h hbusy hl hread => ⟨_, runs_bootCmd rfl h hbusy rfl rfl, ?_⟩,
    fun s h hbusy hl hread => ⟨_, runs_bootCmd rfl h hbusy rfl rfl, ?_⟩,
    fun s n v h hbusy hst h1 h2 h3 => ⟨_, runs_bootCmd rfl h hbusy rfl rfl, svnCommitOp_spec h1 h2 h3 hst⟩,
    fun s n v h hbusy hv => runs_bootCmd rfl h hbusy rfl (if_neg (by omega)),
    fun s rq mr h => ⟨_, runs_reg rfl h, rfl, rgetN_rputN_same _ _ _ _ _ (by omega)⟩⟩
  · exact source_romInit hs
  · exact rootLock_romInit s
  · subst hl
    have hc : choose (romInit (romSense s)) (copyResult (romInit (romSense s)) (copyA s) ((romInit (romSense s)).boot.lifecycle == 2))
        (copyResult (romInit (romSense s)) (copyB s) ((romInit (romSense s)).boot.lifecycle == 2)) = (0, 1) := by simp [choose, ha, hbr]
    have e := bootOp_judges hb cr hst he hs hf rfl rfl
    rw [hc, if_pos rfl] at e
    refine ⟨_, runs_boot hr e, rfl, rfl, ?_, ?_⟩ <;> simp only [recovery, (judged_noted s _ _).boot]
  · subst hl
    obtain ⟨u, patch, e, hch, hoc, hmr, hmem, hp⟩ := bootOp_oneCopy hb cr hst he hs hf hone
    obtain ⟨⟨hch', hoc', -, -, hsvn, hmr'⟩, hend⟩ := bootCopy_spec hb cr hp
    have h1 : getIx s.boot.mrs 1 [] = List.replicate 48 0 := by rw [hmrs]; rfl
    exact ⟨_, runs_boot hr e, hch'.trans hch, hoc'.trans hoc, by rw [hsvn, header_congr m hmem],
      by rw [hmr', hmr, h1, bundleDigest_congr m hmem], hend⟩
  · obtain ⟨hboot, -, -, hmem⟩ := recJudged_spec s 0
    obtain ⟨patch, hp⟩ := patch_of_copyResult hres
    have hlife : (recJudged s 0).boot.lifecycle = s.boot.lifecycle := by rw [hboot]
    have hres0 : (recJudged s 0).boot.bRes = 0 := by rw [hboot]
    have hp' := patch_congr (t := { recJudged s 0 with boot := { (recJudged s 0).boot with chosen := 3, source := 1, err := 0 } })
      hmem hlife hp
    obtain ⟨⟨hch, -, hsrc, hbres, -, -⟩, hend⟩ := bootCopy_spec hb cr hp'
    refine ⟨_, runs_bootCmd rfl h hbusy rfl (recLoadOp_good hb cr hst hm herr hres), hch, hbres.trans hres0, hsrc, ?_⟩
    by_cases hc : cr = false
    · rw [if_pos hc] at hend
      rw [if_pos hc]
      exact hend.1
    · rw [if_neg hc] at hend ⊢
      by_cases hbf : hb = false
      · rw [if_pos hbf] at hend
        rw [if_pos hbf]
        exact hend.1
      · rw [if_neg hbf] at hend ⊢
        exact hend.1
  · obtain ⟨hboot, h1, h2, -⟩ := recJudged_spec s r
    exact ⟨_, runs_bootCmd rfl h hbusy rfl (recLoadOp_bad hb cr hst hm hres h0), by rw [hboot], by rw [hboot]; exact hst, h1, h2⟩
  · rw [challengeOp, bootEnd_boot]
  · rw [challengeOp, bootEnd_boot]
    simp
  · rw [challengeOp, bootEnd_boot]
  · rw [challengeOp, bootEnd_frame]
  · by_cases hok : tokenOk s b = true
    · rw [submitOp_good hl hread hok]
      by_cases h6 : byteAt b 6 = 1
      · rw [if_pos h6, bootEnd_boot]
        exact ⟨by simp [hok, h6], by rw [bootEnd_frame]; simp [h6]⟩
      · rw [if_neg h6, bootEnd_boot]
        exact ⟨by simp [hok, h6], by rw [bootEnd_frame]; simp [hok, h6]⟩
    · rw [submitOp_refused hl (.inr (by simpa [hread] using hok)), bootEnd_boot]
      exact ⟨by simp [hok], by rw [bootEnd_frame]; simp [hok]⟩
  · rw [submitOp_refused hl (.inl hread), bootEnd_boot]
    exact ⟨rfl, by rw [bootEnd_frame]⟩

end Sys2Proof.Machine

namespace Sys2Proof.Machine

/-! PROOFS. Semaphores, cross-device requests and time over the cascade (R354, R364, R365). What a message sent leaves alone. -/

/-- `t` is `s` after flits went out: the ports, the FIFOs that hold flits for a retry, with the registers that show them, the Commons
that back them and its arbiters are all that it can change. -/
structure Sends (s t : State) : Prop where
  frame : t = { s with emitted := t.emitted, regs := t.regs, commons := t.commons, comPoison := t.comPoison, fifos := t.fifos
                       sfs := t.sfs, arbs := t.arbs }
  regs : ∀ page bank off, page ≠ fifoPg → bank < 8192 → off < 4096 → rget t page bank off = rget s page bank off

section
variable {s₀ s t : State}

namespace Sends

protected theorem refl (s : State) : Sends s s := ⟨rfl, fun _ _ _ _ _ _ => rfl⟩

protected theorem trans (h : Sends s₀ s) (g : Sends s t) : Sends s₀ t := by
  refine ⟨?_, fun p b o hp hb ho => (g.regs p b o hp hb ho).trans (h.regs p b o hp hb ho)⟩
  have e := g.frame
  rw [h.frame] at e
  exact e

protected theorem upd (h : Sends s₀ s) (e : t = { s with
    emitted := t.emitted, commons := t.commons, comPoison := t.comPoison, fifos := t.fifos, sfs := t.sfs, arbs := t.arbs }) :
    Sends s₀ t := by
  refine h.trans ⟨?_, fun _ _ _ _ _ _ => ?_⟩
  · rw [e]
  · rw [e]; rfl

protected theorem ite {c : Prop} [Decidable c] (h : Sends s₀ s) (g : Sends s₀ t) : Sends s₀ (if c then s else t) := by
  split <;> assumption

protected theorem foldl {α : Type} {f : State → α → State} {l : List α} (h : Sends s₀ s) (hf : ∀ u x, Sends s₀ u → Sends s₀ (f u x)) :
    Sends s₀ (l.foldl f s) :=
  List.foldlRecOn l f h fun u hu x _ => hf u x hu

end Sends

protected theorem Sends.fifoStore {f : Nat} {x : Fifo} (hs : Sends s₀ s) : Sends s₀ (fifoStore s f x) := by
  refine hs.trans ⟨by rw [fifoStore_frame], fun p b o hp hb ho => ?_⟩
  have hput : ∀ (u : State) i o' v, i < 8192 → o' < 4096 → rget (rputN u fifoPg i o' v) p b o = rget u p b o := fun u i o' v hi ho' => by
    unfold rputN
    rw [rget_rput _ _ _ _ _ _ _ _ hi hb ho' ho, if_neg (fun h => hp h.1)]
  unfold fifoStore
  extract_lets n occ lvl up x1 s1 i s2
  have h2 : rget s2 p b o = rget s p b o := by
    unfold s2
    split
    · exact hput _ _ _ _ (by omega) (by decide)
    · rfl
  split
  · rw [hput _ _ _ _ (by decide) (by omega), h2]
  · exact h2

protected theorem Sends.emit {e : Emit} (hs : Sends s₀ s) : Sends s₀ (emit s e) := hs.upd rfl

protected theorem Sends.setFifo {f : Nat} {x : Fifo} (hs : Sends s₀ s) : Sends s₀ (setFifo s f x) := hs.upd rfl

protected theorem Sends.setSf {p : Nat} {x : SfPort} (hs : Sends s₀ s) : Sends s₀ (setSf s p x) := hs.upd rfl

protected theorem Sends.arbTake {key r n : Nat} (hs : Sends s₀ s) : Sends s₀ (arbTake s key r n) := hs.upd rfl

protected theorem Sends.comTake {a r : Nat} (hs : Sends s₀ s) : Sends s₀ (comTake s a r) := by
  unfold comTake
  exact hs.arbTake

protected theorem Sends.comPut {a : Nat} {w : LW} (hs : Sends s₀ s) : Sends s₀ (comPut s a w) := by
  unfold comPut
  split
  · exact hs
  · exact hs.upd rfl

protected theorem Sends.fifoStall {f k : Nat} (hs : Sends s₀ s) : Sends s₀ (fifoStall s f k) := by
  unfold fifoStall
  extract_lets +onlyGivenNames x
  exact Sends.ite hs hs.setFifo

protected theorem Sends.fifoPut {f : Nat} {w : LW} (hs : Sends s₀ s) : Sends s₀ (fifoPut s f w) := by
  unfold fifoPut
  extract_lets +onlyGivenNames n x
  exact hs.comTake.comPut.fifoStore

protected theorem Sends.fifoPush {f : Nat} {bs : List Byte} (hs : Sends s₀ s) : Sends s₀ (fifoPush s f bs) := by
  unfold fifoPush
  exact hs.foldl fun _ _ hu => hu.fifoPut

protected theorem Sends.sfTransmit {p c : Nat} {t : TxFlit} (hs : Sends s₀ s) : Sends s₀ (sfTransmit s p c t).2 := by
  unfold sfTransmit
  split
  · extract_lets +onlyGivenNames b s1 f s2
    have hs1 : Sends s₀ s1 := hs.fifoPush
    clear_value s1
    have hs2 : Sends s₀ s2 := hs1.setFifo
    clear_value s2
    dsimp only
    exact hs2.emit
  · dsimp only
    exact hs.fifoStall

protected theorem Sends.sfPump {p c : Nat} {l : List TxFlit} (hs : Sends s₀ s) : Sends s₀ (sfPump s p c l).2 := by
  induction l generalizing s with
  | nil => exact hs
  | cons x rest ih =>
    unfold sfPump
    simp only
    split
    · split
      · exact hs.sfTransmit
      · exact ih hs.sfTransmit
    · exact ih hs

protected theorem Sends.setTx {p c : Nat} {t : TxCls} (hs : Sends s₀ s) : Sends s₀ (setTx s p c t) := by
  unfold setTx
  extract_lets +onlyGivenNames x
  exact hs.setSf

protected theorem Sends.sendSrc {p typ cls colour dst src : Nat} {sop eop : Bool} {payload : List Byte}
    {ctx : Option (Nat × Nat)} (hs : Sends s₀ s) :
    Sends s₀ (sendSrc s p typ cls colour dst src sop eop payload ctx) := by
  unfold sendSrc
  refine Sends.ite ?_ ?_
  · exact hs
  · extract_lets +onlyGivenNames t' b r
    have hr : Sends s₀ r.2 := hs.sfPump
    clear_value r
    exact hr.setTx

protected theorem Sends.sendSeq {p typ cls colour dst : Nat} {sop eop : Bool} {payload : List Byte} {ctx : Option (Nat × Nat)}
    (hs : Sends s₀ s) :
    Sends s₀ (sendSeq s p typ cls colour dst sop eop payload ctx) := by
  unfold sendSeq
  exact hs.sendSrc

protected theorem Sends.sendPlain {p typ dst : Nat} {payload : List Byte} (hs : Sends s₀ s) :
    Sends s₀ (sendPlain s p typ dst payload) := by
  unfold sendPlain
  exact Sends.ite hs hs.emit

protected theorem Sends.sendMgmt {p dst : Nat} {msg : List Byte} (hs : Sends s₀ s) : Sends s₀ (sendMgmt s p dst msg) := by
  unfold sendMgmt
  exact hs.sendSeq

protected theorem Sends.mgmtTo {dst : Nat} {msg : List Byte} (hs : Sends s₀ s) : Sends s₀ (mgmtTo s dst msg) := by
  unfold mgmtTo
  split
  · exact hs.sendMgmt
  · exact hs

end

/-! ## Semaphores -/

theorem semResult_frame (g br : Bool) (o dev : Nat) (s : State) : semResult g br o dev s = { s with
    casc := { s.casc with semDone := true, semGranted := g, semBroken := br, semOwner := o, semDev := dev }
    hdrs := (semResult g br o dev s).hdrs, crier := (semResult g br o dev s).crier, emitted := (semResult g br o dev s).emitted
    msix := (semResult g br o dev s).msix } := by
  unfold semResult
  rw [setEvt_frame]
  rfl

theorem semResult_casc (g br : Bool) (o dev : Nat) (s : State) : (semResult g br o dev s).casc =
    { s.casc with semDone := true, semGranted := g, semBroken := br, semOwner := o, semDev := dev } := by rw [semResult_frame]

theorem semResult_evt (g br : Bool) (o dev : Nat) (s : State) : (hdr (semResult g br o dev s) cascPg).evtPend.getLsbD 1 = true :=
  setEvt_pend _ _ 1 (by decide)

theorem semStep_acquire {dev owner : Nat} {m : Sem} (h : m.held = false) (ho : ownerOk owner = true) :
    semStep 1 dev owner m = ({ held := true, broken := m.broken, dev := dev, owner := owner }, true) := by
  simp [semStep, h, ho]

theorem semStep_release {dev owner : Nat} {m : Sem} (h : m.held = true) (hd : m.dev = dev) (ho : m.owner = owner) :
    semStep 2 dev owner m = ({}, false) := by
  simp [semStep, h, hd, ho]

theorem semStep_force {dev owner : Nat} {m : Sem} (h : m.held = true) : semStep 3 dev owner m = ({ broken := true }, false) := by
  simp [semStep, h]

/-- The master's decision of its own device's operation: the semaphore takes its step, and the result stands. -/
theorem semAsk_master {s : State} {op owner sem : Nat} {m : Sem} {g : Bool} (hm : isMaster s = true) (hop : op ≠ 4)
    (h : semStep op s.casc.devId owner (ngetD s.casc.sems sem {}) = (m, g)) :
    semAsk op owner sem s = semResult g m.broken m.owner m.dev { s with casc := { s.casc with
      semDone := false, sems := nset s.casc.sems sem m } } := by
  have h1 : isMaster (withCasc s fun c => { c with semDone := false }) = true := hm
  unfold semAsk
  simp only [h1, if_true, semDecide, hop, if_false]
  rw [show (withCasc s fun c => { c with semDone := false }).casc.devId = s.casc.devId from rfl,
    show (withCasc s fun c => { c with semDone := false }).casc.sems = s.casc.sems from rfl, h]
  rfl

theorem semAsk_other {s : State} {op owner sem : Nat} (hm : isMaster s = false) :
    semAsk op owner sem s = mgmtTo (withCasc s fun c => { c with semDone := false }) 0 ([0x07] ++ toLE 1 op ++ toLE 1 sem ++ toLE 2 owner) := by
  have h1 : isMaster (withCasc s fun c => { c with semDone := false }) = false := hm
  simp only [semAsk, h1, Bool.false_eq_true, if_false]

/-- The master's decision of another device's operation is answered, and the semaphore has taken its step. -/
theorem semReqOp_sem {s : State} {dev op owner sem : Nat} {m : Sem} {g : Bool} (hm : isMaster s = true) (h3 : op ≠ 3) (h4 : op ≠ 4)
    (h : semStep op dev owner (ngetD s.casc.sems sem {}) = (m, g)) : ngetD (semReqOp dev op owner sem s).casc.sems sem {} = m := by
  have h3' : (op == 3) = false := by simpa using h3
  simp only [semReqOp, hm, h3', Bool.not_true, Bool.or_self, Bool.false_eq_true, if_false, semDecide, h4, h]
  rw [((Sends.refl _).mgmtTo).frame]
  exact ngetD_nset_same _ _ _ _

/-! ## Cross-device requests -/

theorem xreqOp_grants {s : State} {dev tag iss o p i : Nat} {x : Pool} (hb : blockUp s grnPg = true) (hp : poolUp (getPool s p) = true)
    (ho : ownerOk o = true) (h : grnDecide (getPool s p) o = some (i, x)) :
    xreqOp dev tag iss o p s = xanswer (evG 0x108 (setPool s p x)) dev tag 0 (poolBase s p + i * poolSize s p) := by
  simp [xreqOp, hb, hp, ho, h]

theorem xreqOp_waits {s : State} {dev tag iss o p : Nat} (hb : blockUp s grnPg = true) (hp : poolUp (getPool s p) = true)
    (ho : ownerOk o = true) (h : grnDecide (getPool s p) o = none) (hl : (getPool s p).waiters.length < 64) :
    xreqOp dev tag iss o p s = xreqContend (setPool s p { getPool s p with
      waiters := (getPool s p).waiters ++ [⟨.remote dev tag iss, o, s.tick⟩] }) p := by
  simp [xreqOp, hb, hp, ho, h, hl]

/-- Fewer than two remote waiters, or another count than one free buffer: nothing is contended. -/
theorem xreqContend_calm {s : State} {p : Nat} (h : (∀ w ∈ (getPool s p).waiters, isRemote w = false) ∨ freeCnt (getPool s p) ≠ 1) :
    xreqContend s p = s := by
  have hn : ¬ (decide (2 ≤ ((getPool s p).waiters.filter isRemote).length) && freeCnt (getPool s p) == 1) = true := by
    obtain h | h := h
    · rw [List.filter_eq_nil_iff.2 (fun w hw => by simp [h w hw])]
      simp
    · simp [h]
  simp only [xreqContend, if_neg hn]

/-- A waiter of the request that has waited its time. -/
def overdue (s : State) (dev tag : Nat) (w : Waiter) : Bool :=
  (match w.who with | .remote d t _ => d == dev && t == tag | .req _ => false) &&
    decide (rbits s cascPg 0 0x128 23 0 ≤ (s.tick - w.at_) * 10)

theorem overdue_iff (s : State) (dev tag : Nat) (w : Waiter) :
    overdue s dev tag w = true ↔ (∃ i, w.who = .remote dev tag i) ∧ rbits s cascPg 0 0x128 23 0 ≤ (s.tick - w.at_) * 10 := by
  unfold overdue
  cases hw : w.who with
  | req rq => simp
  | remote d t i => simp

theorem xreqTimeoutOp_found {s : State} {dev tag p : Nat} {x : Pool} {a b : NMap Pool} (hs : s.pools = a ++ (p, x) :: b)
    (hx : ∃ w ∈ x.waiters, overdue s dev tag w = true) (ha : ∀ e ∈ a, ∀ w ∈ e.2.waiters, overdue s dev tag w = false) :
    xreqTimeoutOp dev tag s = bump (xanswer (evG 0x109 <| setPool s p { x with
      waiters := x.waiters.filter fun w => !overdue s dev tag w }) dev tag 8 0) cascPg 0 0x130 1 := by
  have hfind : (s.pools.find? fun e => e.2.waiters.any (overdue s dev tag)) = some (p, x) := by
    rw [hs, List.find?_append, List.find?_eq_none.2, Option.none_or, List.find?_cons_of_pos]
    · exact List.any_eq_true.2 hx
    · intro e he
      rw [Bool.not_eq_true]
      exact List.any_eq_false.2 fun w hw => by simp [ha e he w hw]
  unfold xreqTimeoutOp
  dsimp only
  change (match s.pools.find? fun e => e.2.waiters.any (overdue s dev tag) with
    | some (p, x) => bump (xanswer (evG 0x109 <| setPool s p { x with waiters := x.waiters.filter fun w => !overdue s dev tag w })
        dev tag 8 0) cascPg 0 0x130 1
    | none => s) = _
  rw [hfind]

theorem xreqTimeoutOp_spec {s : State} {dev tag p : Nat} {x : Pool} {a b : NMap Pool} (hs : s.pools = a ++ (p, x) :: b)
    (hx : ∃ w ∈ x.waiters, overdue s dev tag w = true) (ha : ∀ e ∈ a, ∀ w ∈ e.2.waiters, overdue s dev tag w = false) :
    (getPool (xreqTimeoutOp dev tag s) p).waiters = (x.waiters.filter fun w => !overdue s dev tag w) ∧
      rgetN (xreqTimeoutOp dev tag s) cascPg 0 0x130 = min 0xFFFFFFFF (rgetN s cascPg 0 0x130 + 1) := by
  rw [xreqTimeoutOp_found hs hx ha]
  have hev := evG_told 0x109 (setPool s p { x with waiters := x.waiters.filter fun w => !overdue s dev tag w })
  have hsend : Sends (evG 0x109 (setPool s p { x with waiters := x.waiters.filter fun w => !overdue s dev tag w }))
      (xanswer (evG 0x109 (setPool s p { x with waiters := x.waiters.filter fun w => !overdue s dev tag w })) dev tag 8 0) :=
    (Sends.refl _).mgmtTo
  constructor
  · have hpool : getPool (xanswer (evG 0x109 (setPool s p { x with waiters := x.waiters.filter fun w => !overdue s dev tag w })) dev tag 8 0) p =
        { x with waiters := x.waiters.filter fun w => !overdue s dev tag w } := by
      rw [getPool, hsend.frame, hev.frame]
      exact ngetD_nset_same _ _ _ _
    exact congrArg Pool.waiters hpool
  · rw [rgetN_bump]
    unfold rgetN
    rw [hsend.regs _ _ _ (by decide) (by decide) (by decide), hev.regs _ _ _ (by decide) (by decide) (by decide)]
    rfl

/-! ## Time over the cascade -/

theorem syncReqTimer_first {s : State} {p : Nat} (hp : s.casc.parentPort = some p) (ho : s.casc.syncOut = false) :
    syncReqTimer s = sendPlain (withCasc s fun c => { c with syncOut := true }) p 3 (getSf s p).peer (dtBytes s.dt) := by
  simp [syncReqTimer, hp, ho]

/-- The sixth miss in a row. -/
theorem syncReqTimer_sixth {s : State} {p : Nat} (hp : s.casc.parentPort = some p) (ho : s.casc.syncOut = true) (hm : s.casc.syncMiss = 5) :
    ∃ u, syncReqTimer s = sendPlain (withCasc u fun c => { c with syncOut := true }) p 3 (getSf u p).peer (dtBytes u.dt) ∧
      u = raiseFault (withCasc s fun c => { c with syncMiss := 6, syncLock := false }) cascPg 2 0 := by
  refine ⟨_, ?_, rfl⟩
  simp [syncReqTimer, hp, ho, hm]

theorem Noted.casc {s t : State} (h : Noted s t) : t.casc = s.casc := by rw [h.frame]

theorem Sends.casc {s t : State} (h : Sends s t) : t.casc = s.casc := by rw [h.frame]

theorem Sends.hdr {s t : State} (h : Sends s t) (p : Nat) : hdr t p = Machine.hdr s p := by
  have e : t.hdrs = s.hdrs := by rw [h.frame]
  simp only [Machine.hdr, e]

theorem syncCorrect_near {s : State} {o : Int} (h1 : o ≤ (usT 1 : Int)) (h2 : -(usT 1 : Int) ≤ o) :
    syncCorrect s o = { s with clk := { s.clk with sync := o * 1000000000 } } := if_neg (by omega)

/-- Settles O47: the semaphore's step and its answer, the pool's waiters, and the messages that leave the rest alone. -/
theorem cascadeShared : Obligations.CascadeShared := by
  unfold Obligations.CascadeShared
  refine ⟨fun s rq o k h hm hfree hok => ?_, fun s rq o k m h hm hk hheld hdev hown => ?_, fun s n k h hm hheld => ?_,
    fun s rq o k h hm => runs_reg_to rfl h (semAsk_other hm), fun s rq o k h hm => runs_reg_to rfl h (semAsk_other hm),
    fun s p dev o k m ha hm hk hheld hdev hown => ?_, fun s p dev o k ha hm hfree hok => ?_,
    fun s g br o dev ha => ⟨_, runs_act rfl ha, semResult_casc _ _ _ _ _, semResult_evt _ _ _ _ _, ?_⟩,
    fun s dev tag iss o p i x ha hb hp ho h => runs_act_to rfl ha (xreqOp_grants hb hp ho h),
    fun s dev tag iss o p ha hb hp ho h hl => runs_act_to rfl ha (xreqOp_waits hb hp ho h hl),
    fun s p h => xreqContend_calm h, fun s tag code a ha => runs_act_to rfl ha rfl,
    fun s dev tag iss o p x at0 a b ha hs hx hnone hdue => ?_, fun s p ha hp ho hm => ?_,
    fun s p ha hp ho => runs_act_to rfl ha (syncReqTimer_first hp ho), fun s p t1 ha hp hup => runs_act_to rfl ha (if_neg ?_),
    fun s p t1 t2 t3 o ha hp hup ho heq h1 h2 => runs_act_to rfl ha ?_⟩
  · have e := semAsk_master hm (by decide) (semStep_acquire (dev := s.casc.devId) (m := ngetD s.casc.sems (k % 64) {}) hfree hok)
    refine ⟨_, runs_reg_to rfl h e, ?_, ?_, ?_, ?_, ?_, semResult_evt _ _ _ _ _, fun j hj => ?_, ?_⟩
    · rw [semResult_casc]
      exact ngetD_nset_same _ _ _ _
    · rw [semResult_casc]
    · rw [semResult_casc]
    · rw [semResult_casc]
    · rw [semResult_casc]
    · rw [semResult_casc]
      exact ngetD_nset_other _ _ _ _ _ hj
    · rw [semResult_frame]
  · have e := semAsk_master hm (by decide) ((congrArg (semStep 2 s.casc.devId o.toNat) hk).trans (semStep_release hheld hdev hown))
    refine ⟨_, runs_reg_to rfl h e, ?_, ?_, ?_⟩
    · rw [semResult_casc]
      exact ngetD_nset_same _ _ _ _
    · rw [semResult_casc]
    · rw [semResult_casc]
  · have e := semAsk_master hm (by decide) (semStep_force (dev := s.casc.devId) (owner := 0x7FF) hheld)
    refine ⟨_, runs_reg_to rfl h ((if_pos (by simp [isSteward, hm])).trans e), ?_, ?_⟩
    · rw [semResult_casc]
      exact ngetD_nset_same _ _ _ _
    · rw [semResult_casc]
  · exact ⟨_, runs_act rfl ha, semReqOp_sem hm (by decide) (by decide)
      ((congrArg (semStep 2 dev o.toNat) hk).trans (semStep_release hheld hdev hown))⟩
  · exact ⟨_, runs_act rfl ha, semReqOp_sem hm (by decide) (by decide) (semStep_acquire hfree hok)⟩
  · rw [semResult_frame]
  · obtain ⟨hwait, hcount⟩ := xreqTimeoutOp_spec hs ⟨_, hx, (overdue_iff s dev tag _).2 ⟨⟨iss, rfl⟩, hdue⟩⟩
      (fun e he w hw => by
        rw [← Bool.not_eq_true, overdue_iff]
        rintro ⟨⟨i, hi⟩, -⟩
        exact hnone e he w hw i hi)
    refine ⟨_, runs_act rfl ha, fun w hw hno => ?_, fun w hw => ?_, hcount⟩
    · rw [hwait, List.mem_filter]
      refine ⟨hw, ?_⟩
      rw [Bool.not_eq_true', ← Bool.not_eq_true, overdue_iff]
      rintro ⟨⟨i, hi⟩, -⟩
      exact hno i hi
    · rw [hwait, List.mem_filter] at hw
      refine ⟨hw.1, fun i hi => ?_⟩
      by_contra hlate
      exact absurd ((overdue_iff s dev tag w).2 ⟨⟨i, hi⟩, by omega⟩) (by simpa using hw.2)
  · obtain ⟨u, e, hu⟩ := syncReqTimer_sixth hp ho hm
    have hsend : Sends (withCasc u fun c => { c with syncOut := true })
      (sendPlain (withCasc u fun c => { c with syncOut := true }) p 3 (getSf u p).peer (dtBytes u.dt)) := (Sends.refl _).sendPlain
    have hn := raiseFault_noted (withCasc s fun c => { c with syncMiss := 6, syncLock := false }) cascPg 2 0
    have hcasc : u.casc = { s.casc with syncMiss := 6, syncLock := false } := by rw [hu]; exact hn.casc
    refine ⟨_, runs_act_to rfl ha e, ?_, ?_, ?_, ?_⟩
    · rw [hsend.casc]
      rfl
    · rw [hsend.casc]
      exact congrArg Casc.syncMiss hcasc
    · rw [hsend.casc]
      exact congrArg Casc.syncLock hcasc
    · rw [hsend.hdr]
      subst hu
      exact raiseFault_src (k := .cascade) (i := 0) (by decide) (by decide) (by decide)
  · simp [hup, hp]
  · subst heq
    rw [syncRspOp, if_neg (by simp [hp, hup, ho])]
    exact syncCorrect_near h1 h2

end Sys2Proof.Machine

namespace Sys2Proof.Machine

/-! PROOFS. Register pages: the discards a write meets, forced events and the page locks (R54, R55, R60, R64, R70, R71, R448). -/

/-! What the gate answers for an access that it stops, in the order of its tests. -/

theorem gate_unmapped {s : State} {rq : Requester} {page off : Nat} (h : stHeld s rq = false)
    (hp : pageLive s page = false ∨ unassigned rq page off = true) :
    gate s rq page off = some (unmapped s (page * 4096 + off)) := by
  rcases hp with hp | hp
  · simp [gate, gateB, h, hp]
  · cases hl : pageLive s page <;> simp [gate, gateB, h, hl, hp]

theorem gate_fault {s : State} {rq : Requester} {page off : Nat} (h : stHeld s rq = false) (hl : pageLive s page = true)
    (hu : unassigned rq page off = false) (hf : s.flt.fault = true) (hp : page ≠ rstPg) :
    gate s rq page off = some (bump s fltPg 0 0x138 1) := by
  simp [gate, gateB, h, hl, hu, hf, hp]

/-- A page that an admitted context can hold is a tile's, a sensor port's, a memory controller's or a DMA channel's. -/
theorem not_isl_of_pageHeld {s : State} {page i : Nat} (h : pageHeld s page = true) : pageAt page ≠ some (.isl, i) := by
  intro e
  simp [pageHeld, e] at h

theorem unassigned_header {s : State} {rq : Requester} {page off : Nat} (h : pageHeld s page = true) (hl : pageLive s page = true)
    (ho : off < 0x038) : unassigned rq page off = false := by
  obtain ⟨⟨k, i⟩, e⟩ := Option.isSome_iff_exists.mp (Bool.and_eq_true_iff.mp hl).1
  have hk : k ≠ .isl := fun c => not_isl_of_pageHeld h (c ▸ e)
  simp [unassigned, e, hk, Nat.not_le.mpr ho]

theorem heldOffset_header {page off : Nat} (h : off = 0x008 ∨ off = 0x020 ∨ off = 0x028) : heldOffset page off = true := by
  rcases h with rfl | rfl | rfl <;> simp [heldOffset]

theorem gate_hostHeld {s : State} {page off : Nat} (ho : off = 0x008 ∨ off = 0x020 ∨ off = 0x028) (hl : pageLive s page = true)
    (hf : s.flt.fault = false) (hr : (hdr s page).inReset = false) (hh : pageHeld s page = true) :
    gate s .host page off = some (hostDeny s (page * 4096 + off)) := by
  have hu := unassigned_header (rq := .host) hh hl (show off < 0x038 by omega)
  simp [gate, gateB, stHeld, hl, hu, hf, hr, hostHeld, heldOffset_header ho, hh]

/-! The three ways through `regWrite`. -/

theorem word_addr (addr : Nat) : addr / 4096 * 4096 + addr % 4096 / 4 * 4 = addr / 4 * 4 := by omega

theorem regWrite_stopped {s t : State} {rq : Requester} {addr : Nat} (v : U32) (ha : addr < 2 ^ 26) (hb : busUp s = true)
    (hd : s.pwr.st ≠ 2) (h : gate s rq (addr / 4096) (addr % 4096 / 4 * 4) = some t) : regWrite rq addr 15 v s = t := by
  unfold regWrite
  rw [if_neg (by rintro (h | h); · exact absurd h (by decide)
                 · omega), if_neg (by decide)]
  exact regOp_discards _ hb hd h

theorem regWrite_partial {s : State} {rq : Requester} {addr : Nat} {be : BitVec 4} (v : U32) (h : stHeld s rq = false)
    (ha : addr < 2 ^ 26) (h0 : be ≠ 0) (hw : be ≠ 15) (hb : busUp s = true) (hd : s.pwr.st ≠ 2) (hf : s.flt.fault = false) :
    regWrite rq addr be v s = badSize s (addr / 4 * 4) := by
  have hn : ¬ (be = 0 ∨ 2 ^ 26 ≤ addr) := by rintro (c | c); · exact h0 c
                                             · omega
  unfold regWrite
  simp only [if_neg hn, if_pos hw, hb, h, wakeByWrite_awake hd, hf, word_addr]
  simp

theorem regWrite_stHeld {s : State} {rq : Requester} (addr : Nat) (be : BitVec 4) (v : U32) (h : stHeld s rq = true) :
    regWrite rq addr be v s = s := by
  simp [regWrite, regOp, h]

/-- Settles O3: each clause names the first test of `regWrite` and of the gate that stops the write, and what that test counts. -/
theorem regWriteDiscards : Obligations.RegWriteDiscards := by
  refine ⟨fun s rq addr v => ?_, fun s rq addr be v h => ?_, fun s rq addr be v h ha h0 hw hb hd hf => ?_,
    fun s rq addr v h ha hb hd hp => ?_, fun s rq addr v h ha hb hd hf hl hp hu => ?_, fun s page off v ho ha hb hd hf hl hr hh => ?_⟩
  · exact runs_next rfl (by simp [regWrite])
  · exact runs_next rfl (regWrite_stHeld addr be v h)
  · refine ⟨_, runs_next rfl (regWrite_partial v h ha h0 hw hb hd hf), ?_⟩
    obtain ⟨hr, hc, hx, ho⟩ := topCount_spec s 0x104 (addr / 4 * 4) (by decide) (by decide)
    exact ⟨hr, hc, hx.trans (Nat.mod_eq_of_lt (by omega)), ho⟩
  · refine ⟨_, runs_next rfl (regWrite_stopped v ha hb hd (gate_unmapped h hp)), ?_⟩
    obtain ⟨hr, hc, hx, -⟩ := topCount_spec s 0x100 (addr / 4096 * 4096 + addr % 4096 / 4 * 4) (by decide) (by decide)
    exact ⟨hr, hc, by rw [unmapped, hx, word_addr, Nat.mod_eq_of_lt (by omega)]⟩
  · exact ⟨_, runs_next rfl (regWrite_stopped v ha hb hd (gate_fault h hl hu hf hp)), rfl, rgetN_bump s fltPg 0 0x138 1⟩
  · have e1 : (page * 4096 + off) / 4096 = page := by omega
    have e2 : (page * 4096 + off) % 4096 / 4 * 4 = off := by omega
    have hg : gate s .host ((page * 4096 + off) / 4096) ((page * 4096 + off) % 4096 / 4 * 4) = some (hostDeny s (page * 4096 + off)) := by
      rw [e1, e2]; exact gate_hostHeld ho hl hf hr hh
    obtain ⟨hr, hc, -, -⟩ := topCount_spec s 0x108 (page * 4096 + off) (by decide) (by decide)
    exact ⟨_, runs_next rfl (regWrite_stopped v ha hb hd hg), hr, hc⟩

/-- Settles O6. -/
theorem eventsForced : Obligations.EventsForced :=
  ⟨fun s _ page m h => ⟨_, runs_reg rfl h, setEvts_spec s page m⟩, fun _ rq page _ h => runs_next rfl (regOp_down rq page 0x018 _ h)⟩

/-! The page lock: its three operations on the header they are for. -/

theorem setHdr_spec (s : State) (page : Nat) (h : PageHdr) :
    setHdr s page h = { s with hdrs := (setHdr s page h).hdrs } ∧ (∀ q, q ≠ page → hdr (setHdr s page h) q = hdr s q) ∧
      hdr (setHdr s page h) page = h :=
  ⟨rfl, fun q hq => by simp [hq], by simp⟩

theorem lockAcquire_free {s : State} {rq : Requester} {page : Nat} {o : BitVec 11} (hf : (hdr s page).lockHeld = false)
    (ho : o.toNat < 0x440) : lockAcquire rq page o s = setHdr s page
      { hdr s page with lockHeld := true, lockOwner := o, lockGrants := (hdr s page).lockGrants + 1, lockClass := some rq } := by
  simp [lockAcquire, hf, ownerOk, ho]

theorem lockAcquire_discards {s : State} {rq : Requester} {page : Nat} {o : BitVec 11}
    (h : (hdr s page).lockHeld = true ∨ 0x440 ≤ o.toNat) : lockAcquire rq page o s = s := by
  rcases h with h | h
  · simp [lockAcquire, h]
  · simp [lockAcquire, ownerOk, Nat.not_lt.mpr h]

theorem lockRelease_owner {s : State} {page : Nat} {o : BitVec 11} (hh : (hdr s page).lockHeld = true)
    (he : (hdr s page).lockOwner = o) (ho : o.toNat < 0x440) : lockRelease page o s =
      setHdr s page { hdr s page with lockHeld := false, lockBroken := false, lockOwner := 0x7FF, lockClass := none } := by
  simp [lockRelease, hh, he, ownerOk, ho]

theorem lockRelease_discards {s : State} {page : Nat} {o : BitVec 11}
    (h : (hdr s page).lockHeld = false ∨ (hdr s page).lockOwner ≠ o ∨ 0x440 ≤ o.toNat) : lockRelease page o s = s := by
  rcases h with h | h | h
  · simp [lockRelease, h]
  · simp [lockRelease, h]
  · simp [lockRelease, ownerOk, Nat.not_lt.mpr h]

theorem lockForce_steward {s : State} {n : Fin 4} {page : Nat} (hh : (hdr s page).lockHeld = true) :
    lockForce (.steward n) page s =
      setHdr s page { hdr s page with lockHeld := false, lockBroken := true, lockOwner := 0x7FF, lockClass := none } := by
  simp [lockForce, isSteward, breakLock, hh]

/-- Settles O7. -/
theorem pageLocks : Obligations.PageLocks := by
  refine ⟨fun s rq page o h hf ho => ⟨_, runs_reg_to rfl h (lockAcquire_free hf ho), setHdr_spec _ _ _⟩,
    fun s rq page o h hd => runs_reg_to rfl h (lockAcquire_discards hd),
    fun s rq page o h hh he ho => ⟨_, runs_reg_to rfl h (lockRelease_owner hh he ho), setHdr_spec _ _ _⟩,
    fun s rq page o h hd => runs_reg_to rfl h (lockRelease_discards hd),
    fun s n page h hh => ⟨_, runs_reg_to rfl h (lockForce_steward hh), setHdr_spec _ _ _⟩,
    fun s page h => ⟨_, runs_reg rfl h, ?_⟩⟩
  exact (hostDeny_spec s (page * 4096 + 0x030)).symm

end Sys2Proof.Machine

namespace Sys2Proof.Machine

/-! PROOFS. The block reset of a page (R62, R67, R71, R420, R440). -/

/-- `t` is `s` with the registers, shadows and snapshots of one page gone; memories, contexts stand. -/
structure PageCleared (page : Nat) (s t : State) : Prop where
  regs : t.regs = s.regs.filter fun e => keyPage e.1 != page
  shadow : t.shadow = s.shadow.filter fun e => keyPage e.1 != page
  snaps : t.snaps = s.snaps.filter fun n => n.page != page
  stands : t.hostMem = s.hostMem ∧ t.hbm = s.hbm ∧ t.ctxs = s.ctxs ∧ t.jobs = s.jobs ∧ t.queues = s.queues ∧ t.tiles = s.tiles ∧
    t.pools = s.pools

theorem clearRegs_cleared (s : State) (page : Nat) : PageCleared page s (clearRegs s page fun _ => false) :=
  ⟨by simp [clearRegs], by simp [clearRegs], rfl, rfl, rfl, rfl, rfl, rfl, rfl, rfl⟩

/-- The page kinds whose block keeps all its state on its own page and in its own context. -/
theorem engineReset_cleared {s : State} {k : PageKind} {i page : Nat} (hk : k = .dma ∨ k = .crc ∨ k = .fifo ∨ k = .sensor ∨ k = .eth) :
    PageCleared page s (engineReset s k i page) ∧ ∀ q, hdr (engineReset s k i page) q = hdr s q := by
  obtain ⟨hr, hs, hn, hm⟩ := clearRegs_cleared s page
  rcases hk with rfl | rfl | rfl | rfl | rfl
  all_goals exact ⟨⟨hr, hs, hn, hm⟩, fun _ => rfl⟩

theorem keyPage_rkey (page : Nat) {bank off : Nat} (hb : bank < 8192) (ho : off < 4096) : keyPage (rkey page bank off) = page := by
  unfold keyPage rkey; omega

namespace PageCleared
variable {s t : State} {page : Nat}

theorem rget_own (h : PageCleared page s t) {bank off : Nat} (hb : bank < 8192) (ho : off < 4096) :
    rget t page bank off = rreset page bank off := by
  unfold rget
  rw [h.regs, nget_filter_key s.regs (fun k => keyPage k != page), keyPage_rkey page hb ho]
  simp

theorem sget_own (h : PageCleared page s t) {bank off : Nat} (hb : bank < 8192) (ho : off < 4096) :
    sget t page bank off = rreset page bank off := by
  unfold sget
  rw [h.rget_own hb ho, h.shadow, nget_filter_key s.shadow (fun k => keyPage k != page), keyPage_rkey page hb ho]
  simp

theorem rget_other (h : PageCleared page s t) {q bank off : Nat} (hq : q ≠ page) (hb : bank < 8192) (ho : off < 4096) :
    rget t q bank off = rget s q bank off := by
  unfold rget
  rw [h.regs, nget_filter_key s.regs (fun k => keyPage k != page), keyPage_rkey q hb ho]
  simp [hq]

end PageCleared

theorem hdrReset_frame (s : State) (page : Nat) : hdrReset s page = { s with
    hdrs := (hdrReset s page).hdrs, crier := (hdrReset s page).crier, emitted := (hdrReset s page).emitted, msix := (hdrReset s page).msix } := by
  unfold hdrReset
  rw [tellPage_frame]
  rfl

theorem PageCleared.hdrReset {s t : State} {page : Nat} (h : PageCleared page s t) : PageCleared page s (hdrReset t page) := by
  rw [hdrReset_frame]
  exact ⟨h.regs, h.shadow, h.snaps, h.stands⟩

theorem hdr_hdrReset (s : State) (page q : Nat) : hdr (hdrReset s page) q = if q = page then
    { inReset := true, lockBroken := (breakLock (hdr s page)).lockBroken, lockGrants := (breakLock (hdr s page)).lockGrants
      xing := xingReset } else hdr s q := by
  unfold hdrReset
  rw [hdr_tellPage, hdr_setHdr]

theorem breakLock_broken (h : PageHdr) : (breakLock h).lockBroken = (h.lockHeld || h.lockBroken) := by
  unfold breakLock
  cases e : h.lockHeld <;> simp

theorem breakLock_grants (h : PageHdr) : (breakLock h).lockGrants = h.lockGrants := by
  unfold breakLock
  split <;> rfl

theorem blockResetOp_resets {s : State} {rq : Requester} {page i : Nat} {k : PageKind} (hp : pageAt page = some (k, i))
    (hc : canReset k = true) (hd : resetDenied s rq page = false) :
    blockResetOp rq page s = hdrReset (engineReset s k i page) page := by
  simp [blockResetOp, hp, hc, hd]

/-- A denied block reset is one of the GRN, QMGR and Carousel pages only. -/
theorem resetDenied_eq_false {s : State} {rq : Requester} {page i : Nat} {k : PageKind} (hp : pageAt page = some (k, i))
    (hk : k ≠ .grn ∧ k ≠ .qmgr ∧ k ≠ .carousel) : resetDenied s rq page = false := by
  obtain ⟨hg, hq, hc⟩ := hk
  have h1 : page ≠ grnPg := by
    rintro rfl
    exact hg (congrArg Prod.fst (Option.some.inj (hp.symm.trans (by decide : pageAt grnPg = some (.grn, 0)))))
  have h2 : page ≠ qmgrPg := by
    rintro rfl
    exact hq (congrArg Prod.fst (Option.some.inj (hp.symm.trans (by decide : pageAt qmgrPg = some (.qmgr, 0)))))
  simp only [resetDenied, hp, beq_eq_false_iff_ne.mpr h1, beq_eq_false_iff_ne.mpr h2, Bool.false_and, Bool.false_or]
  split
  next e => exact absurd (congrArg Prod.fst (Option.some.inj e)) hc
  next => rfl

theorem blockResetOp_grn {s : State} (rq : Requester) (h : anyAdm s (fun _ _ => true) = true) :
    blockResetOp rq grnPg s = hostDeny s (grnPg * 4096 + 0x008) := by
  have hp : pageAt grnPg = some (.grn, 0) := by decide
  simp [blockResetOp, hp, canReset, resetDenied, h]

/-- Settles O10: the engine's part clears the page (`engineReset_cleared`), the header's part is `hdr_hdrReset`. -/
theorem blockResetClears : Obligations.BlockResetClears := by
  refine ⟨fun s rq page k i h hp hk => ?_, fun s page h ht => ?_, fun s rq page k i h hp hc => ?_, fun s rq h ha => ?_⟩
  · have hc' : canReset k = true := by rcases hk with rfl | rfl | rfl | rfl | rfl <;> rfl
    have hd : resetDenied s rq page = false :=
      resetDenied_eq_false hp (by rcases hk with rfl | rfl | rfl | rfl | rfl <;> simp)
    obtain ⟨he, hu⟩ := engineReset_cleared (s := s) (i := i) (page := page) hk
    have hc := he.hdrReset
    refine ⟨_, runs_reg_to rfl h (blockResetOp_resets hp hc' hd), ?_⟩
    have hown := hdr_hdrReset (engineReset s k i page) page page
    rw [if_pos rfl, hu, breakLock_broken, breakLock_grants] at hown
    refine ⟨by rw [hown], by rw [hown], by rw [hown], by rw [hown], by rw [hown], by rw [hown], by rw [hown], by rw [hown], by rw [hown],
      by rw [hown], by rw [hown], fun q hq => by rw [hdr_hdrReset, if_neg hq, hu], fun _ _ hb ho => ⟨hc.rget_own hb ho, hc.sget_own hb ho⟩,
      fun _ _ _ hq hb ho => hc.rget_other hq hb ho, fun n hn => ?_, hc.stands⟩
    rw [hc.snaps] at hn
    simpa using (List.mem_filter.mp hn).2
  · refine ⟨_, runs_actBus_to rfl h (show blockResetEnd page s = hdrUp s page by simp [blockResetEnd, ht]), rfl, ?_⟩
    simp +contextual [hdrUp]
  · exact runs_reg_to rfl h (by simp [blockResetOp, hp, hc])
  · refine ⟨_, runs_reg_to rfl h (blockResetOp_grn rq ha), ?_⟩
    exact (hostDeny_spec s _).symm

end Sys2Proof.Machine

namespace Sys2Proof.Machine

/-! PROOFS. COMMIT and the boundary at which a snapshot becomes operative (R66 to R68, R232). -/

/-! An operation that leaves the flows alone discards no unit, so `applying` adds nothing to it. -/

theorem finishGone_flows {s t : State} (h : t.flows = s.flows) : finishGone s t = t := by
  unfold finishGone
  rw [h]
  refine (congrArg (List.foldl _ t) (List.filter_eq_nil_iff.mpr fun u hu => ?_)).trans List.foldl_nil
  have : ((s.flows.flatMap fun e => e.2.units).any fun v => v.ctx == u.ctx && v.pic == u.pic && v.last == u.last) = true :=
    List.any_eq_true.mpr ⟨u, hu, by simp⟩
  simp [this]

theorem shadowApply_due {s : State} {page bank : Nat} {n : Snap}
    (hf : s.snaps.find? (fun m => m.page == page && m.bank == bank) = some n) (hb : atBoundary s n = true) :
    shadowApply page bank s = snapApply s n := by
  simp [shadowApply, hf, hb]

theorem shadowApply_early {s : State} {page bank : Nat} {n : Snap}
    (hf : s.snaps.find? (fun m => m.page == page && m.bank == bank) = some n) (hb : atBoundary s n = false) :
    shadowApply page bank s = s := by
  simp [shadowApply, hf, hb]

theorem shadowApply_none {s : State} {page bank : Nat} (h : ∀ n ∈ s.snaps, ¬ (n.page = page ∧ n.bank = bank)) :
    shadowApply page bank s = s := by
  have : s.snaps.find? (fun m => m.page == page && m.bank == bank) = none :=
    List.find?_eq_none.mpr fun n hn => by simpa using h n hn
  simp [shadowApply, this]

/-- The snapshots without the one of a page's single shadow set. -/
def dropSnap (s : State) (page : Nat) : State := { s with snaps := s.snaps.filter fun m => !(m.page == page && m.bank == 0) }

theorem find_page {s : State} {page bank : Nat} {n : Snap}
    (h : s.snaps.find? (fun m => m.page == page && m.bank == bank) = some n) : n.page = page ∧ n.bank = bank := by
  simpa using List.find?_some h

theorem snapApply_plain {s : State} {page i : Nat} {k : PageKind} {n : Snap} (hk : k = .phy ∨ k = .grn)
    (hp : pageAt page = some (k, i)) (h : n.page = page ∧ n.bank = 0) :
    snapApply s n = genSet (applyVals (dropSnap s page) n.vals) page n.gen := by
  obtain ⟨rfl, hb⟩ := h
  rcases hk with rfl | rfl <;> simp [snapApply, hp, hb, dropSnap]

theorem snapApply_hbm {s : State} {page c : Nat} {n : Snap} (hp : pageAt page = some (.hbm, c)) (h : n.page = page ∧ n.bank = 0) :
    snapApply s n = applyHbm (dropSnap s page) page c n := by
  obtain ⟨rfl, hb⟩ := h
  simp [snapApply, hp, hb, dropSnap]

theorem snapApply_selfold {s : State} {page p : Nat} {n : Snap} (hp : pageAt page = some (.selfold, p))
    (h : n.page = page ∧ n.bank = 0) : snapApply s n = applySf (dropSnap s page) page p n := by
  obtain ⟨rfl, hb⟩ := h
  simp [snapApply, hp, hb, dropSnap]

/-- The header that a boundary leaves: COMMIT_GEN takes the snapshot's generation. -/
theorem genSet_hdr (s : State) (page : Nat) (g : BitVec 16) :
    hdr (genSet s page g) page = { hdr s page with commitGen := g } ∧ ∀ q, q ≠ page → hdr (genSet s page g) q = hdr s q :=
  ⟨by simp [genSet], fun q hq => by simp [genSet, hq]⟩

/-! HBM_PC_MAP at its boundary. -/

theorem bits_five_of_two (w r q : Nat) (h : r < 32) : bits (setBits (setBits w 4 0 r) 12 8 q % 2 ^ 32) 4 0 = r := by
  simp only [bits, setBits, Nat.shiftRight_eq_div_pow]
  omega

theorem newRegion_lt (s : State) (pc v : Nat) (h : v < 32) : newRegion s pc v < 32 := by
  have hp : pcRegion s pc < 32 := by 
    have h31 : ∀ u : Nat, (if u ≤ 16 then u else 31) < 32 := fun u => by split <;> omega
    exact h31 _
  unfold newRegion
  dsimp only
  split
  · exact hp
  · exact h

theorem losePc_frame (s : State) (pc : Nat) : losePc s pc = { s with hbm := (losePc s pc).hbm, hbmPoison := (losePc s pc).hbmPoison } := rfl

/-- The state that `applyHbm` reaches before a pseudo-channel whose region became none loses its memory. -/
def mapHbm (s : State) (page c : Nat) (n : Snap) : State :=
  rputN (genSet (applyVals s n.vals) page n.gen) page 0 0x100
    (setBits (setBits (snapGet s n.vals page 0 0x100) 4 0 (newRegion s (2 * c) (bits (snapGet s n.vals page 0 0x100) 4 0))) 12 8
      (newRegion s (2 * c + 1) (bits (snapGet s n.vals page 0 0x100) 12 8)))

theorem applyHbm_frame (s : State) (page c : Nat) (n : Snap) : applyHbm s page c n =
    { mapHbm s page c n with hbm := (applyHbm s page c n).hbm, hbmPoison := (applyHbm s page c n).hbmPoison } := by
  unfold applyHbm
  extract_lets w r0 r1 s1 s2
  have e2 : s2 = { s1 with hbm := s2.hbm, hbmPoison := s2.hbmPoison } := by unfold s2; split <;> rfl
  split
  · rw [losePc_frame, e2]; rfl
  · exact e2

theorem applyHbm_keeps {s : State} {page c : Nat} {n : Snap}
    (h0 : newRegion s (2 * c) (bits (snapGet s n.vals page 0 0x100) 4 0) ≤ 16)
    (h1 : newRegion s (2 * c + 1) (bits (snapGet s n.vals page 0 0x100) 12 8) ≤ 16) : applyHbm s page c n = mapHbm s page c n := by
  simp only [applyHbm, if_neg (Nat.not_lt.mpr h0), if_neg (Nat.not_lt.mpr h1)]
  rfl

theorem mapHbm_region (s : State) (page c : Nat) (n : Snap) : rbits (mapHbm s page c n) page 0 0x100 4 0 =
    newRegion s (2 * c) (bits (snapGet s n.vals page 0 0x100) 4 0) := by
  unfold mapHbm rbits rgetN rputN
  rw [rget_rput_same, BitVec.toNat_ofNat]
  exact bits_five_of_two _ _ _ (newRegion_lt s _ _ (Nat.mod_lt _ (by decide)))

theorem mapHbm_spec (s : State) (page c : Nat) (n : Snap) :
    mapHbm s page c n = { s with regs := (mapHbm s page c n).regs, hdrs := (mapHbm s page c n).hdrs } ∧
    (∀ key, key ≠ rkey page 0 0x100 → nget (mapHbm s page c n).regs key = nget (n.vals.foldl (fun m e => nset m e.1 e.2) s.regs) key) ∧
    hdr (mapHbm s page c n) page = { hdr s page with commitGen := n.gen } ∧ ∀ q, q ≠ page → hdr (mapHbm s page c n) q = hdr s q := by
  refine ⟨rfl, fun key hk => ?_, genSet_hdr (applyVals s n.vals) page n.gen⟩
  rw [mapHbm, rputN, rput_regs, nget_nset, if_neg hk]
  rfl

/-- A Selfold port's token counts end at most at the new bursts. -/
theorem applySf_spec (s : State) (page p : Nat) (n : Snap) :
    (getSf (applySf s page p n) p).tokC ≤ rbits (applySf s page p n) page 0 0x114 24 0 * 1000000 ∧
    (getSf (applySf s page p n) p).tokP ≤ rbits (applySf s page p n) page 0 0x118 24 0 * 1000000 ∧
    hdr (applySf s page p n) page = { hdr s page with commitGen := n.gen } ∧
    ∀ q, q ≠ page → hdr (applySf s page p n) q = hdr s q := by
  have e : getSf (applySf s page p n) p = { getSf s p with
      tokC := min (sfTokens s page (getSf s p)).1 (rbits (applyVals s n.vals) page 0 0x114 24 0 * 1000000)
      tokP := min (sfTokens s page (getSf s p)).2 (rbits (applyVals s n.vals) page 0 0x118 24 0 * 1000000), tokTick := s.tick } :=
    by simp [getSf, applySf, genSet]
  rw [e]
  exact ⟨Nat.min_le_right _ _, Nat.min_le_right _ _, genSet_hdr _ page n.gen⟩

/-- Settles O8: at the boundary the snapshot is what `snapApply` makes operative; no unit leaves a flow by it (`finishGone_flows`). -/
theorem commitAndBoundary : Obligations.CommitAndBoundary := by
  refine ⟨fun s rq page g k i h hp hk => ?_, fun s page n k i h hp hk hf hb => ?_, fun s page n c h hp hf hb => ?_,
    fun s page n p h hp hf hb => ?_, fun s page bank n h hf hb => ?_, fun s page bank h hn => ?_⟩
  · refine runs_reg_to rfl h ?_
    rcases hk with rfl | rfl | rfl | rfl <;> simp [commitOp, hp, putSnap, shadowOf]
  · have e : applying (shadowApply page 0) s = genSet (applyVals (dropSnap s page) n.vals) page n.gen := by
      rw [applying, shadowApply_due hf hb, snapApply_plain hk hp (find_page hf)]
      exact finishGone_flows rfl
    obtain ⟨ho, hq⟩ := genSet_hdr (applyVals (dropSnap s page) n.vals) page n.gen
    exact ⟨_, runs_actBus_to rfl h e, rfl, rfl, ho, hq, rfl⟩
  · have e : applying (shadowApply page 0) s = applyHbm (dropSnap s page) page c n := by
      rw [applying, shadowApply_due hf hb, snapApply_hbm hp (find_page hf)]
      exact finishGone_flows (by rw [applyHbm_frame]; rfl)
    obtain ⟨hm, hk, ho, hq⟩ := mapHbm_spec (dropSnap s page) page c n
    refine ⟨_, runs_actBus_to rfl h e, ?_, ?_, ?_, ?_, ?_, ?_, ?_⟩
    · rw [applyHbm_frame, hm]; rfl
    · rw [applyHbm_frame]; exact hk
    · rw [applyHbm_frame]; exact mapHbm_region _ _ _ _
    · exact fun h0 h1 => by rw [applyHbm_keeps (s := dropSnap s page) h0 h1, hm]; exact ⟨rfl, rfl⟩
    · rw [applyHbm_frame]; exact ho
    · rw [applyHbm_frame]; exact hq
    · rw [applyHbm_frame, hm]; rfl
  · have e : applying (shadowApply page 0) s = applySf (dropSnap s page) page p n := by
      rw [applying, shadowApply_due hf hb, snapApply_selfold hp (find_page hf)]
      exact finishGone_flows rfl
    obtain ⟨hc, hq, ho, hr⟩ := applySf_spec (dropSnap s page) page p n
    exact ⟨_, runs_actBus_to rfl h e, rfl, rfl, hc, hq, ho, hr, rfl⟩
  · exact runs_actBus_to rfl h (by rw [applying, shadowApply_early hf hb]; exact finishGone_flows rfl)
  · exact runs_actBus_to rfl h (by rw [applying, shadowApply_none hn]; exact finishGone_flows rfl)

end Sys2Proof.Machine

namespace Sys2Proof.Machine

/-! PROOFS. Accepted whole-word writes of registers with no behaviour of their own (R6, R60, R66, R331). -/

theorem writeWord_row {s : State} {rq : Requester} {page off i : Nat} {k : PageKind} {r : RegRow} (v : U32)
    (hp : pageAt page = some (k, i)) (ho : 0x038 ≤ off) (hr : regRow k i off = some r) :
    writeWord rq page off v s = blockWrite rq page off k i r v s := by
  simp [writeWord, hp, hr, Nat.not_lt.mpr ho]

theorem writeWord_header {s : State} {rq : Requester} {page off i : Nat} {k : PageKind} (v : U32)
    (hp : pageAt page = some (k, i)) (ho : off < 0x038) : writeWord rq page off v s = hdrWrite rq page off k v s := by
  simp [writeWord, hp, ho]

/-- The page kinds of which no register but ETH_CFG has a behaviour of its own. -/
theorem blockWrite_plain {s : State} {rq : Requester} {page off i : Nat} {k : PageKind} {r : RegRow} (v : U32)
    (hk : k = .top ∨ k = .hbm ∨ k = .phy ∨ k = .fifo ∨ k = .eth ∧ off ≠ 0x100 ∨ k = .debug) :
    blockWrite rq page off k i r v s = plainWrite rq page off k i r v s := by
  rcases hk with rfl | rfl | rfl | rfl | ⟨rfl, ho⟩ | rfl
  case inr.inr.inr.inr.inl => simp [blockWrite, ethRegWrite, ho]
  all_goals rfl

theorem plainWrite_rw {s : State} {rq : Requester} {page off i : Nat} {k : PageKind} {r : RegRow} (v : U32) (ha : r.acc = .rw)
    (hp : r.pair = false) (hl : pairLo k i off = none) :
    plainWrite rq page off k i r v s = rput s page (regBank s rq page off) off (stored r v) := by
  simp [plainWrite, ha, hp, hl]

/-- The gate passes no access to an address outside every page. -/
theorem pageAt_of_accepts {s : State} {rq : Requester} {page off : Nat} (h : Accepts s rq page off) :
    ∃ k i, pageAt page = some (k, i) := by
  obtain ⟨-, -, hg⟩ := h
  cases hp : pageAt page with
  | some ki => exact ⟨ki.1, ki.2, rfl⟩
  | none =>
    have hl : pageLive s page = false := by simp [pageLive, hp]
    by_cases hh : stHeld s rq = true
    · rw [gate, gateB_held hh] at hg; cases hg
    · rw [gate_unmapped (by simpa using hh) (.inl hl)] at hg; cases hg

/-- An accepted whole-word write of a register beyond the page header. -/
theorem runs_regWrite_row {s t : State} {rq : Requester} {page off i : Nat} {k : PageKind} {r : RegRow} {v : U32} (h1 : off < 4096)
    (h2 : off % 4 = 0) (h3 : page * 4096 + off < 2 ^ 26) (h : Accepts s rq page off) (hp : pageAt page = some (k, i))
    (ho : 0x038 ≤ off) (hr : regRow k i off = some r) (e : blockWrite rq page off k i r v s = t) :
    Runs (.regWrite rq (page * 4096 + off) 15 v) s t :=
  runs_next rfl ((regWrite_word v h1 h2 h3 h).trans ((writeWord_row v hp ho hr).trans e))

/-- An accepted whole-word write of a word of the page header. -/
theorem runs_regWrite_header {s t : State} {rq : Requester} {page off : Nat} {v : U32} (h1 : off < 0x038) (h2 : off % 4 = 0)
    (h3 : page * 4096 + off < 2 ^ 26) (h : Accepts s rq page off) (e : ∀ k, hdrWrite rq page off k v s = t) :
    Runs (.regWrite rq (page * 4096 + off) 15 v) s t := by
  obtain ⟨k, i, hp⟩ := pageAt_of_accepts h
  exact runs_next rfl ((regWrite_word v (by omega) h2 h3 h).trans ((writeWord_header v hp h1).trans (e k)))

theorem ethCfg_row (p : Nat) : regRow .eth p 0x100 = some ⟨0x100, 1, .rw, 0, 3, [], false, false⟩ := rfl

theorem pageAt_ethPage : ∀ {p : Nat}, p < 2 → pageAt (ethPage p) = some (.eth, p) := by decide

/-- Settles O4. -/
theorem regWriteStores : Obligations.RegWriteStores := by
  refine ⟨fun s rq page off v k i r h1 h2 h3 h hp ho hr hk => ⟨fun ha => ?_, fun ha => ?_, fun ha hpr hl => ?_⟩,
    fun s rq page v h3 h => ?_, fun s rq page v h3 h => ?_, fun s rq p v r hp h hr => ?_⟩
  · exact runs_regWrite_row h1 h2 h3 h hp ho hr ((blockWrite_plain v hk).trans (by simp [plainWrite, ha]))
  · exact runs_regWrite_row h1 h2 h3 h hp ho hr ((blockWrite_plain v hk).trans (by simp [plainWrite, ha]))
  · exact runs_regWrite_row h1 h2 h3 h hp ho hr ((blockWrite_plain v hk).trans (plainWrite_rw v ha hpr hl))
  · obtain ⟨hf, ho, -⟩ := clearEvts_spec s page v
    exact ⟨_, runs_regWrite_header (by decide) (by decide) h3 h fun k => by simp [hdrWrite], ho, hf⟩
  · obtain ⟨hf, ho, -⟩ := putEvtEn_spec s page v
    exact ⟨_, runs_regWrite_header (by decide) (by decide) h3 h fun k => by simp [hdrWrite], ho, hf⟩
  · have hrow := Option.some.inj (hr.symm.trans (ethCfg_row p))
    have hl : pairLo .eth p 0x100 = none := rfl
    refine runs_regWrite_row (by decide) (by decide) (by unfold ethPage; omega) h (pageAt_ethPage hp) (by decide) hr ?_
    have hplain := plainWrite_rw (s := s) (rq := rq) (page := ethPage p) (k := .eth) (i := p) (r := r) v (by rw [hrow]) (by rw [hrow]) hl
    simp only [blockWrite, ethRegWrite, hplain]
    cases ethOn _ p <;> simp

end Sys2Proof.Machine

namespace Sys2Proof.Machine

/-! PROOFS. A read while the boot is not done (R397): the PWR page does not answer. -/

/-- A powered device in boot, its highest Tj already sampled at 0 degrees. -/
def bootWithHeat : State := { State.reset with pwr := { State.reset.pwr with tjMax := 0 } }

/-- The PWR page does not answer before the boot is done, so the read gives 0 and clears nothing. -/
theorem readReg_tjMax_boot : (readReg .host (pwrPg * 4096 + 0x110) false bootWithHeat).pwr.tjMax = 0 := by decide

/-- Refutes O5: the clause of the highest Tj asks for no live page. In boot (`bootWithHeat`) the PWR page does not answer (R397), and a
read of TJ_MAX leaves the extreme where the clause says that it goes to its start value. -/
theorem not_regReads : ¬ Obligations.RegReads := by
  unfold Obligations.RegReads
  rintro ⟨-, -, -, -, htj, -⟩
  have h := htj bootWithHeat .host false (by decide) (by decide) (by decide)
  have hpwr : (readReg .host (pwrPg * 4096 + 0x110) false bootWithHeat).pwr.tjMax = -32768 :=
    congrArg (fun s : State => s.pwr.tjMax) (Host.Outcome.next.inj h)
  rw [readReg_tjMax_boot] at hpwr
  exact absurd hpwr (by decide)

end Sys2Proof.Machine

namespace Sys2Proof.Machine

/-! PROOFS. What a store to host or stack memory reports (R241, R246), and that reports change neither memory nor the map of the stacks. -/

/-- `t` is `s` after reports and counts: the fields they can touch, and those of a header. -/
structure Marked (s t : State) : Prop where
  frame : t = { s with regs := t.regs, hdrs := t.hdrs, crier := t.crier, emitted := t.emitted, msix := t.msix, flt := t.flt,
                       eports := t.eports, ctxs := t.ctxs }
  hdr : ∀ p, hdr t p = { hdr s p with
    evtPend := (hdr t p).evtPend, fltSrc := (hdr t p).fltSrc, fenced := (hdr t p).fenced, sevKept := (hdr t p).sevKept
    lockHeld := (hdr t p).lockHeld, lockBroken := (hdr t p).lockBroken, lockOwner := (hdr t p).lockOwner
    lockClass := (hdr t p).lockClass }
  src : ∀ p k, (Machine.hdr s p).fltSrc.getLsbD k = true → (Machine.hdr t p).fltSrc.getLsbD k = true

/-- The words of a controller's page in which an uncorrectable error is counted and described. -/
def HbmErrWord (page off : Nat) : Prop := (∃ c, c < 32 ∧ page = hbmPage c) ∧ (off = 0x10C ∨ off = 0x118 ∨ off = 0x11C ∨ off = 0x120)

/-- `t` is `s` after reports of memory errors: no register changes but the counters and error words that show them. -/
structure MemNoted (s t : State) : Prop extends Marked s t where
  regs : ∀ page bank off, page ≠ perfPg → page ≠ fltPg → ¬ HbmErrWord page off → bank < 8192 → off < 4096 →
    rget t page bank off = rget s page bank off

section
variable {s t u : State}

namespace Marked

protected theorem refl (s : State) : Marked s s := ⟨rfl, fun _ => rfl, fun _ _ h => h⟩

protected theorem trans (h : Marked s t) (g : Marked t u) : Marked s u := by
  refine ⟨?_, fun p => by rw [g.hdr p, h.hdr p], fun p k hk => g.src p k (h.src p k hk)⟩
  have e := g.frame
  rw [h.frame] at e
  exact e

theorem setEvt (h : Marked s t) (p k : Nat) : Marked s (setEvt t p k) :=
  h.trans ⟨(setEvt_noted t p k).frame, (setEvt_noted t p k).hdr, (setEvt_noted t p k).src⟩

theorem raiseFault (h : Marked s t) (page src info : Nat) : Marked s (raiseFault t page src info) :=
  h.trans ⟨(raiseFault_noted t page src info).frame, (raiseFault_noted t page src info).hdr, (raiseFault_noted t page src info).src⟩

theorem bump (h : Marked s t) (page bank off n : Nat) : Marked s (bump t page bank off n) :=
  h.trans ⟨rfl, fun _ => rfl, fun _ _ h => h⟩

theorem ite {c : Prop} [Decidable c] (h : Marked s t) (g : Marked s u) : Marked s (if c then t else u) := by split <;> assumption

theorem enable (h : Marked s t) (p : Nat) : (Machine.hdr t p).enable = (Machine.hdr s p).enable := by rw [h.hdr p]

theorem quiesce (h : Marked s t) (p : Nat) : (Machine.hdr t p).quiesce = (Machine.hdr s p).quiesce := by rw [h.hdr p]

end Marked

theorem Noted.memNoted (h : Noted s t) : MemNoted s t :=
  ⟨⟨h.frame, h.hdr, h.src⟩, fun p b o hp hf _ hb ho => h.regs p b o hp hf hb ho⟩

namespace MemNoted

protected theorem refl (s : State) : MemNoted s s := ⟨.refl s, fun _ _ _ _ _ _ _ _ => rfl⟩

protected theorem trans (h : MemNoted s t) (g : MemNoted t u) : MemNoted s u :=
  ⟨h.toMarked.trans g.toMarked, fun p b o hp hf he hb ho => (g.regs p b o hp hf he hb ho).trans (h.regs p b o hp hf he hb ho)⟩

/-- A write of an error word of a controller's page. -/
theorem rputN (h : MemNoted s t) {c o v : Nat} (hc : c < 32) (ho : o = 0x10C ∨ o = 0x118 ∨ o = 0x11C ∨ o = 0x120) :
    MemNoted s (rputN t (hbmPage c) 0 o v) := by
  refine h.trans ⟨⟨rfl, fun _ => rfl, fun _ _ h => h⟩, fun p b o' _ _ he hb ho' => ?_⟩
  rw [Machine.rputN, rget_rput _ _ _ _ _ _ _ _ (by decide) hb (by omega) ho', if_neg]
  rintro ⟨rfl, -, rfl⟩
  exact he ⟨⟨c, hc, rfl⟩, ho⟩

theorem hbmUe (h : MemNoted s t) {pc : Nat} (b : Nat) (hp : pc < 64) : MemNoted s (hbmUe t pc b) := by
  have hc : pc / 2 < 32 := by omega
  have h1 : MemNoted s (hbmInfo (bump16 t (pcPage pc) 0 0x10C (16 * (pc % 2)) 1) pc 2 b) :=
    (((h.rputN hc (.inl rfl)).rputN hc (.inr (.inl rfl))).rputN hc (.inr (.inr (.inl rfl)))).rputN hc (.inr (.inr (.inr rfl)))
  exact (h1.trans (raiseFault_noted _ _ _ _).memNoted).trans (setEvt_noted _ _ _).memNoted

theorem ueBlocks (h : MemNoted s t) {l : List Nat} (hl : ∀ b ∈ l, b / pcBlocks < 64) : MemNoted s (ueBlocks t l) :=
  List.foldlRecOn l.eraseDups _ h fun _ hu b hb => hu.hbmUe b (hl b (List.mem_eraseDups.mp hb))

theorem rangeFault (h : MemNoted s t) : MemNoted s (rangeFault t) :=
  h.trans ((raiseFault_noted t (hbmPage 0) 5 0).trans (setEvt_noted _ (hbmPage 0) 5)).memNoted

theorem noteRange (h : MemNoted s t) (loc : Nat) (e : Option Nat) : MemNoted s (noteRange t loc e) := by
  unfold Machine.noteRange
  split
  · exact h.rangeFault
  · exact h

end MemNoted

/-! A block of the stacks belongs to one of the 64 pseudo-channels. -/

theorem regionPcs_lt {win p : Nat} (h : p ∈ regionPcs s win) : p < 64 := by
  simpa using (List.mem_filter.mp h).1

theorem grain_dvd (s : State) (win : Nat) : grain s win ∣ pcBytes := by
  unfold grain
  extract_lets v
  exact (Nat.mul_dvd_mul_left 256 (Nat.pow_dvd_pow 2 (Nat.min_le_right v 8))).trans (by decide)

theorem hbmLocIn_lt {pcs : List Nat} {g addr p o : Nat} (hp : ∀ q ∈ pcs, q < 64) (hg : g ∣ pcBytes)
    (h : hbmLocIn pcs g addr = some (p, o)) : p < 64 ∧ o < pcBytes := by
  obtain ⟨m, hm⟩ := hg
  simp only [hbmLocIn] at h
  split at h
  · cases h
  next hn =>
    obtain ⟨rfl, rfl⟩ := Prod.mk.inj (Option.some.inj h)
    have hoff : addr % 2 ^ 36 < pcs.length * pcBytes := by omega
    have hk : 0 < pcs.length := Nat.pos_of_ne_zero fun h0 => by simp [h0] at hoff
    have hg0 : 0 < g := Nat.pos_of_ne_zero fun h0 => by simp [h0, pcBytes] at hm
    refine ⟨hp _ ?_, ?_⟩
    · rw [getIx, List.getElem?_eq_getElem (Nat.mod_lt _ hk)]
      exact List.getElem_mem _
    · have hi : addr % 2 ^ 36 / g / pcs.length < m := by
        rw [Nat.div_lt_iff_lt_mul hk, Nat.div_lt_iff_lt_mul hg0, Nat.mul_comm m, Nat.mul_assoc, Nat.mul_comm m g, ← hm]
        exact hoff
      calc addr % 2 ^ 36 / g / pcs.length * g + addr % 2 ^ 36 % g
          < addr % 2 ^ 36 / g / pcs.length * g + g := by have := Nat.mod_lt (addr % 2 ^ 36) hg0; omega
        _ = (addr % 2 ^ 36 / g / pcs.length + 1) * g := (Nat.succ_mul _ _).symm
        _ ≤ m * g := Nat.mul_le_mul_right g hi
        _ = pcBytes := by rw [hm, Nat.mul_comm]

theorem hbmLocs_lt {addr n i p o : Nat} (h : hbmLocs s addr n i = some (p, o)) : p < 64 ∧ o < pcBytes := by
  have hin : ∀ win a, hbmLocIn (regionPcs s win) (grain s win) a = some (p, o) → p < 64 ∧ o < pcBytes := fun win a =>
    hbmLocIn_lt (fun _ => regionPcs_lt) (grain_dvd s win)
  unfold hbmLocs at h
  split at h
  · exact hin _ _ h
  · beta_reduce at h
    split at h
    · exact hin _ _ h
    · exact hin _ _ h

theorem hbmBlock_div {p o : Nat} (h : o < pcBytes) : hbmBlock (hbmKey p o) / pcBlocks = p := by
  unfold hbmBlock hbmKey
  unfold pcBytes at *
  unfold pcBlocks
  omega

theorem badBlocks_lt {addr n b : Nat} (h : b ∈ badBlocks s addr n) : b / pcBlocks < 64 := by
  unfold badBlocks at h
  split at h
  · cases h
  · obtain ⟨i, -, hi⟩ := List.mem_filterMap.mp (List.mem_filter.mp h).1
    obtain ⟨⟨p, o⟩, hl, rfl⟩ := Option.map_eq_some_iff.mp hi
    obtain ⟨hp, ho⟩ := hbmLocs_lt hl
    rw [hbmBlock_div ho]
    exact hp

theorem partBad_lt {loc addr n b : Nat} (h : b ∈ partBad s loc addr n) : b / pcBlocks < 64 := by
  unfold partBad at h
  split at h
  · cases h
  · exact badBlocks_lt (List.mem_filter.mp h).1

/-! ## The map of the stacks, and stores under one map -/

/-- Two states with the same host and stack memory, under the same map: a store does the same in both. -/
structure SameStore (s t : State) : Prop where
  hostMem : t.hostMem = s.hostMem
  hbm : t.hbm = s.hbm
  hostErr : t.hostErr = s.hostErr
  locs : ∀ a n, hbmLocs t a n = hbmLocs s a n

theorem pageAt_hbmPage : ∀ {c : Nat}, c < 32 → pageAt (hbmPage c) = some (.hbm, c) := by decide

theorem grainWord_lt : ∀ o ∈ [0x108, 0x10C, 0x110], o < 4096 := by decide

/-- The map of the stacks reads region words and grains only. -/
theorem hbmLocs_congr (hr : ∀ c, c < 32 → rget t (hbmPage c) 0 0x100 = rget s (hbmPage c) 0 0x100)
    (hg : ∀ o ∈ [0x108, 0x10C, 0x110], rget t (phyPage 0) 0 o = rget s (phyPage 0) 0 o) (a n : Nat) : hbmLocs t a n = hbmLocs s a n := by
  have hreg : ∀ pc, pc < 64 → pcRegion t pc = pcRegion s pc := fun pc h => by
    unfold pcRegion rgetN
    rw [hr (pc / 2) (by omega)]
  have hpcs : regionPcs t = regionPcs s := funext fun win =>
    List.filter_congr fun p hp => by rw [hreg p (List.mem_range.mp hp)]
  have hgr : grain t = grain s := funext fun win => by
    unfold grain rgetN
    rw [hg 0x108 (by decide), hg 0x10C (by decide), hg 0x110 (by decide)]
  unfold hbmLocs hbmLoc
  rw [hpcs, hgr]

theorem MemNoted.locs (h : MemNoted s t) (a n : Nat) : hbmLocs t a n = hbmLocs s a n := by
  have hpage : ∀ c, c < 32 → hbmPage c ≠ perfPg ∧ hbmPage c ≠ fltPg ∧ hbmPage c ≠ phyPage 0 := by decide
  refine hbmLocs_congr (fun c hc => ?_) (fun o ho => ?_) a n
  · obtain ⟨h1, h2, -⟩ := hpage c hc
    exact h.regs _ _ _ h1 h2 (fun he => by rcases he.2 with e | e | e | e <;> exact absurd e (by decide)) (by decide) (by decide)
  · refine h.regs _ _ _ (by decide) (by decide) (fun he => ?_) (by decide) (grainWord_lt o ho)
    obtain ⟨⟨c, hc, hp⟩, -⟩ := he
    exact (hpage c hc).2.2 hp.symm

namespace SameStore

protected theorem refl (s : State) : SameStore s s := ⟨rfl, rfl, rfl, fun _ _ => rfl⟩

protected theorem symm (h : SameStore s t) : SameStore t s := ⟨h.hostMem.symm, h.hbm.symm, h.hostErr.symm, fun a n => (h.locs a n).symm⟩

protected theorem trans (h : SameStore s t) (g : SameStore t u) : SameStore s u :=
  ⟨g.hostMem.trans h.hostMem, g.hbm.trans h.hbm, g.hostErr.trans h.hostErr, fun a n => (g.locs a n).trans (h.locs a n)⟩

end SameStore

theorem MemNoted.sameStore (h : MemNoted s t) : SameStore s t := by
  refine ⟨?_, ?_, ?_, h.locs⟩ <;> rw [h.frame]

theorem SameStore.memWrite (h : SameStore s t) (loc a : Nat) (bs : List Byte) (p : Bool) :
    SameStore (memWrite s loc a bs p) (memWrite t loc a bs p) := by
  have hloc : ∀ u b n, hbmLocs (Machine.memWrite u loc a bs p) b n = hbmLocs u b n := fun u b n => by rw [memWrite_frame]; rfl
  have herr : ∀ u, (Machine.memWrite u loc a bs p).hostErr = u.hostErr := fun u => by rw [memWrite_frame]
  have hat : hostErrAt t a bs.length = hostErrAt s a bs.length := by unfold hostErrAt; rw [h.hostErr]
  refine ⟨?_, ?_, by rw [herr, herr, h.hostErr], fun b n => by rw [hloc, hloc, h.locs]⟩
  · unfold Machine.memWrite
    rw [hat]
    split
    · split
      · exact h.hostMem
      · simp only [hostPut, hostWrite, h.hostMem]
    · exact h.hostMem
  · unfold Machine.memWrite
    rw [hat]
    split
    · split
      · exact h.hbm
      · exact h.hbm
    · simp only [hbmWriteB, h.hbm, h.locs]

theorem writeLoc_memNoted (s : State) (loc a : Nat) (bs : List Byte) (p : Bool) :
    MemNoted (memWrite s loc a bs p) (writeLoc s loc a bs p) :=
  ((MemNoted.refl _).ueBlocks fun _ => partBad_lt).noteRange _ _

theorem SameStore.writeLoc (h : SameStore s t) (loc a : Nat) (bs : List Byte) (p : Bool) :
    SameStore (writeLoc s loc a bs p) (writeLoc t loc a bs p) :=
  ((writeLoc_memNoted s loc a bs p).sameStore.symm.trans (h.memWrite loc a bs p)).trans (writeLoc_memNoted t loc a bs p).sameStore

end

end Sys2Proof.Machine

namespace Sys2Proof.Machine

/-! PROOFS. A DMA channel's ring: moves, the end of a descriptor, fetches, the stops on errors and the abort (R62, R271 to R282). -/

/-- `t` is `s` after stores to host and stack memory, with their reports. -/
structure Stored (s t : State) : Prop where
  frame : t = { s with
    regs := t.regs, hdrs := t.hdrs, crier := t.crier, emitted := t.emitted, msix := t.msix, flt := t.flt, eports := t.eports, ctxs := t.ctxs
    freeCtr := t.freeCtr, hostMem := t.hostMem, hostPoison := t.hostPoison, hbm := t.hbm, hbmPoison := t.hbmPoison }
  hdr : ∀ p, hdr t p = { hdr s p with
    evtPend := (hdr t p).evtPend, fltSrc := (hdr t p).fltSrc, fenced := (hdr t p).fenced, sevKept := (hdr t p).sevKept
    lockHeld := (hdr t p).lockHeld, lockBroken := (hdr t p).lockBroken, lockOwner := (hdr t p).lockOwner
    lockClass := (hdr t p).lockClass }
  regs : ∀ page bank off, page ≠ perfPg → page ≠ fltPg → ¬ HbmErrWord page off → bank < 8192 → off < 4096 →
    rget t page bank off = rget s page bank off

section
variable {s t u : State}

namespace Stored

protected theorem refl (s : State) : Stored s s := ⟨rfl, fun _ => rfl, fun _ _ _ _ _ _ _ _ => rfl⟩

protected theorem trans (h : Stored s t) (g : Stored t u) : Stored s u := by
  refine ⟨?_, fun p => by rw [g.hdr p, h.hdr p], fun p b o hp hf he hb ho => (g.regs p b o hp hf he hb ho).trans (h.regs p b o hp hf he hb ho)⟩
  have e := g.frame
  rw [h.frame] at e
  exact e

theorem memNoted (h : Stored s t) (g : MemNoted t u) : Stored s u :=
  h.trans ⟨by rw [g.frame], g.hdr, g.regs⟩

protected theorem upd (h : Stored s t) (e : u = { t with
    freeCtr := u.freeCtr, hostMem := u.hostMem, hostPoison := u.hostPoison, hbm := u.hbm, hbmPoison := u.hbmPoison }) : Stored s u :=
  h.trans ⟨by rw [e], fun p => by rw [e]; rfl, fun _ _ _ _ _ _ _ _ => by rw [e]; rfl⟩

theorem memWrite (h : Stored s t) (loc a : Nat) (bs : List Byte) (p : Bool) : Stored s (memWrite t loc a bs p) :=
  h.upd (by rw [memWrite_frame])

theorem writeLoc (h : Stored s t) (loc a : Nat) (bs : List Byte) (p : Bool) : Stored s (writeLoc t loc a bs p) :=
  (h.memWrite loc a bs p).memNoted (writeLoc_memNoted t loc a bs p)

theorem wrTlps (n : Nat) : ∀ {t : State}, Stored s t → ∀ (a : Nat) (bs : List (Byte × Bool)), Stored s (wrTlps n t a bs) := by
  induction n with
  | zero => exact fun h _ _ => h
  | succ n ih =>
    intro t h a bs
    unfold Machine.wrTlps
    cases bs with
    | nil => exact h
    | cons b bs => exact ih (h.memWrite _ _ _ _) _ _

theorem wrBytes (h : Stored s t) (loc a : Nat) (bs : List (Byte × Bool)) : Stored s (wrBytes t loc a bs) := by
  unfold Machine.wrBytes
  split
  · split
    · exact wrTlps _ h _ _
    · exact h.memWrite _ _ _ _
  · refine List.foldlRecOn _ _ (h.writeLoc _ _ _ _) fun v hv ib _ => ?_
    split
    · split
      · exact hv.upd rfl
      · exact hv
    · exact hv

theorem writeLines (n : Nat) : ∀ {t : State}, Stored s t → ∀ (x : DSide) (i : Nat) (bs : List (Byte × Bool)), Stored s (writeLines t x n i bs) := by
  induction n with
  | zero => exact fun h _ _ _ => h
  | succ n ih =>
    intro t h x i bs
    unfold Machine.writeLines
    cases bs with
    | nil => exact h
    | cons b bs => exact ih (h.wrBytes _ _ _) _ _ _

theorem moveBytes (h : Stored s t) (d : List Byte) (n : Nat) : Stored s (moveBytes t d n) := by
  unfold Machine.moveBytes
  dsimp only
  split
  · exact writeLines _ (h.upd rfl) _ _ _
  · exact writeLines _ h _ _ _

theorem getDma (h : Stored s t) (c : Nat) : getDma t c = Machine.getDma s c := by rw [h.frame]; rfl

theorem snaps (h : Stored s t) : t.snaps = s.snaps := by rw [h.frame]

theorem dt (h : Stored s t) : t.dt = s.dt := by rw [h.frame]

end Stored

theorem readNotes_memNoted (s : State) (x : DSide) (n : Nat) : MemNoted s (readNotes s x n) := by
  unfold readNotes
  split
  · exact .refl s
  · exact List.foldlRecOn _ _ (.refl s) fun u hu i _ => hu.ueBlocks fun _ => badBlocks_lt

theorem readLoc_memNoted (s : State) (loc a n : Nat) : MemNoted s (readLoc s loc a n).2 := by
  refine MemNoted.noteRange ?_ _ _
  split
  · exact .refl s
  · exact (MemNoted.refl s).ueBlocks fun _ => badBlocks_lt

theorem confirmRead_memNoted (s : State) (d : List Byte) : MemNoted s (confirmRead s d).2 := by
  unfold confirmRead
  dsimp only
  split
  · exact readLoc_memNoted s _ _ _
  · exact .refl s

/-! ## The ring's registers on a channel's page -/

/-- A state whose DMA pages hold the same ring words. -/
theorem Stored.ring (h : Stored s t) {ch : Nat} (hc : ch < 32) :
    dmaLog t ch = dmaLog s ch ∧ dmaLoc t ch = dmaLoc s ch ∧ ∀ p, descAddr t ch p = descAddr s ch p := by
  have hr : ∀ o, o < 4096 → rgetN t (dmaPage ch) 0 o = rgetN s (dmaPage ch) 0 o := fun o ho => by
    have hp : ∀ ch < 32, dmaPage ch ≠ perfPg ∧ dmaPage ch ≠ fltPg ∧ ∀ c < 32, dmaPage ch ≠ hbmPage c := by decide
    obtain ⟨h1, h2, h3⟩ := hp ch hc
    unfold rgetN
    rw [h.regs _ _ _ h1 h2 (fun ⟨⟨c, hc, e⟩, _⟩ => h3 c hc e) (by decide) ho]
  have hlog : dmaLog t ch = dmaLog s ch := by unfold dmaLog rbits; rw [hr _ (by decide)]
  refine ⟨hlog, by unfold dmaLoc rbits; rw [hr _ (by decide)], fun p => ?_⟩
  unfold descAddr rget64
  rw [hlog, hr _ (by decide), hr _ (by decide)]

/-! ## Chains, and the end of a descriptor -/

/-- What a reached count does to a channel (R276). -/
def chained3 (s : State) (x : Dma) : Dma :=
  match x.fetched with
  | d :: _ =>
    if x.st = 2 ∧ dTrig d.bytes = 9 ∧ ((getDma s (bits (leAt d.bytes 4 4) 4 0)).seq -
        BitVec.ofNat 16 (bits (leAt d.bytes 4 4) 31 16)).toNat < 2 ^ 15
    then { x with st := 3 } else x
  | [] => x

theorem getDma_dmaChains (s : State) (ch : Nat) : getDma (dmaChains s) ch = chained3 s (getDma s ch) := by
  have e : (dmaChains s).dmas = s.dmas.map fun e => (e.1, chained3 s e.2) := by
    refine List.map_congr_left fun e _ => ?_
    obtain ⟨j, ⟨hd, tl, sq, st, fs, b⟩⟩ := e
    cases fs with
    | nil => rfl
    | cons d ds => dsimp only [chained3]; split <;> rfl
  unfold getDma ngetD
  rw [e, nget_map s.dmas (fun _ x => chained3 s x)]
  cases nget s.dmas ch <;> rfl

/-- A channel with no fetched descriptor waits for no chain. -/
theorem getDma_dmaChains_empty {ch : Nat} (h : (getDma s ch).fetched = []) : getDma (dmaChains s) ch = getDma s ch := by
  rw [getDma_dmaChains, chained3, h]

/-- The memory of `m` after the write-back of a descriptor's end, as the ring and the time of `s` say (R280). -/
def wroteBack (s m : State) (ch : Nat) (d : Desc) (status cls off : Nat) : State :=
  writeLoc (writeLoc m (dmaLoc s ch) (descAddr s ch d.pos + 0x30) (toLE 8 (nowNs s) ++ toLE 8 off) false) (dmaLoc s ch)
    (descAddr s ch d.pos) (putAt (d.bytes.take 8) 2 (toLE 1 status ++ toLE 1 cls)) false

/-- The channel after its last fetched descriptor ended. -/
def endedDma (s : State) (ch : Nat) : Dma :=
  { getDma s ch with head := fifoAdd (dmaLog s ch) (getDma s ch).head 1, seq := (getDma s ch).seq + 1, st := 0, fetched := [] }

theorem applySnaps_none {sel : Snap → Bool} (h : s.snaps.filter sel = []) : applySnaps s sel = s := by
  unfold applySnaps
  rw [h]
  rfl

/-- What the end of a channel's last fetched descriptor leaves: the memory of the write-back, the channel empty, and reports. -/
theorem descEnd_last {ch status cls off : Nat} {d : Desc} (hd : (getDma s ch).fetched = [d])
    (hn : (s.snaps.filter fun n => n.page == dmaPage ch && n.bank == 0) = []) :
    ∃ u, descEnd s ch status cls off = dmaChains u ∧ Marked (setDma (wroteBack s s ch d status cls off) ch (endedDma s ch)) u ∧
      (status = 2 → 2 ≤ cls → cls ≤ 6 → ch < 32 → (hdr u (dmaPage ch)).fltSrc.getLsbD 0 = true) := by
  unfold descEnd
  extract_lets x pg n loc h
  split
  next h0 => exact absurd (hd.symm.trans h0) (by simp)
  next d' rest h0 =>
  obtain ⟨rfl, rfl⟩ := List.cons.inj (hd.symm.trans h0)
  extract_lets +onlyGivenNames a s1 s2 s3 s4 s5 s6 s7 s8
  have h3 : s3 = setDma (wroteBack s s ch d status cls off) ch (endedDma s ch) := rfl
  have m6 : Marked s3 s6 :=
    have m4 : Marked s3 s4 := .ite ((Marked.refl _).setEvt _ _) (.refl _)
    have m5 : Marked s3 s5 := .ite ((m4.bump _ _ _ _).setEvt _ _) m4
    .ite (m5.setEvt _ _) m5
  have m7 : Marked s3 s7 := .ite (m6.raiseFault _ _ _) m6
  have m8 : Marked s3 s8 := .ite (m7.raiseFault _ _ _) m7
  have hsn : s8.snaps = s.snaps := by
    rw [m8.frame]
    exact (((Stored.refl s).writeLoc _ _ _ _).writeLoc _ _ _ _).snaps
  refine ⟨s8, by rw [applySnaps_none (by rw [hsn]; exact hn)], h3 ▸ m8, fun hs hl hu hc => ?_⟩
  have hp : ∀ c, c < 32 → pageAt (dmaPage c) = some (.dma, c) := by decide
  have e8 : s8 = raiseFault s6 pg 0 0 := by
    unfold s8 s7
    rw [if_neg (by omega), if_pos ⟨hs, hl, hu⟩]
  rw [e8]
  exact raiseFault_src (hp ch hc) (by decide) (by decide)

theorem dmaHead_empty {f ch : Nat} (h : (getDma s ch).fetched = []) : dmaHead f s ch = s := by
  cases f with
  | zero => rfl
  | succ f =>
    simp only [dmaHead, h]
    split <;> rfl

theorem SameStore.wroteBack {m v : State} (h : SameStore m v) (ch : Nat) (d : Desc) (status cls off : Nat) :
    SameStore (wroteBack s m ch d status cls off) (wroteBack s v ch d status cls off) :=
  (h.writeLoc _ _ _ _).writeLoc _ _ _ _

/-- What a channel, its header and the memories are after the end of the channel's last fetched descriptor. -/
theorem descEnd_spec {ch status cls off : Nat} {d : Desc} (hd : (getDma s ch).fetched = [d])
    (hn : (s.snaps.filter fun n => n.page == dmaPage ch && n.bank == 0) = []) (hc : ch < 32) :
    getDma (descEnd s ch status cls off) ch = endedDma s ch ∧
    (descEnd s ch status cls off).hostMem = (wroteBack s s ch d status cls off).hostMem ∧
    (descEnd s ch status cls off).hbm = (wroteBack s s ch d status cls off).hbm ∧
    (hdr (descEnd s ch status cls off) (dmaPage ch)).quiesce = (hdr s (dmaPage ch)).quiesce ∧
    (status = 2 → 2 ≤ cls → cls ≤ 6 → (hdr (descEnd s ch status cls off) (dmaPage ch)).fltSrc.getLsbD 0 = true) := by
  obtain ⟨u, hu, hm, hf⟩ := descEnd_last hd hn (status := status) (cls := cls) (off := off)
  rw [hu]
  have hw : Stored s (wroteBack s s ch d status cls off) := ((Stored.refl s).writeLoc _ _ _ _).writeLoc _ _ _ _
  have hx : getDma u ch = endedDma s ch := by
    have : u.dmas = _ := congrArg State.dmas hm.frame
    unfold getDma
    rw [this]
    exact (getDma_setDma _ _ _ _).trans (if_pos rfl)
  refine ⟨(getDma_dmaChains_empty (by rw [hx]; rfl)).trans hx, ?_, ?_, ?_, fun h1 h2 h3 => hf h1 h2 h3 hc⟩
  · have e := congrArg State.hostMem hm.frame
    exact e
  · have e := congrArg State.hbm hm.frame
    exact e
  · refine (hm.quiesce _).trans ?_
    have e := congrArg PageHdr.quiesce (hw.hdr (dmaPage ch))
    exact e

/-- The end of a running descriptor whose bytes were moved (`m`), after further reports (`v`). -/
theorem descEnd_moved {m v : State} {ch status cls off : Nat} {d : Desc} (hm : Stored s m) (hv : MemNoted m v)
    (hd : (getDma s ch).fetched = [d]) (hn : (s.snaps.filter fun n => n.page == dmaPage ch && n.bank == 0) = []) (hc : ch < 32) :
    ∃ t, dmaHead 4 (descEnd v ch status cls off) ch = t ∧ getDma t ch = endedDma s ch ∧
      t.hostMem = (wroteBack s m ch d status cls off).hostMem ∧ t.hbm = (wroteBack s m ch d status cls off).hbm ∧
      (status = 2 → 2 ≤ cls → cls ≤ 6 → (hdr t (dmaPage ch)).fltSrc.getLsbD 0 = true) := by
  have hs : Stored s v := hm.memNoted hv
  obtain ⟨hlog, hloc, haddr⟩ := hs.ring hc
  have hx := hs.getDma ch
  obtain ⟨ht, hh, hb, -, hf⟩ := descEnd_spec (s := v) (status := status) (cls := cls) (off := off) (by rw [hx]; exact hd)
    (by rw [hs.snaps]; exact hn) hc
  have hend : endedDma v ch = endedDma s ch := by unfold endedDma; rw [hx, hlog]
  have hback : wroteBack v v ch d status cls off = wroteBack s v ch d status cls off := by
    unfold wroteBack nowNs
    rw [hloc, haddr, hs.dt]
  have hsame := hv.sameStore.wroteBack (s := s) ch d status cls off
  refine ⟨_, dmaHead_empty (by rw [ht]; rfl), ht.trans hend, ?_, ?_, hf⟩
  · rw [hh, hback]; exact hsame.hostMem
  · rw [hb, hback]; exact hsame.hbm

end

/-! ## The statements about a channel's ring -/

theorem pageAt_dmaPage : ∀ {c : Nat}, c < 32 → pageAt (dmaPage c) = some (.dma, c) := by decide

theorem nset_nset {α : Type} (m : NMap α) (k : Nat) (v w : α) : nset (nset m k v) k w = nset m k w := by
  induction m with
  | nil => simp [nset]
  | cons e m ih =>
    obtain ⟨j, x⟩ := e
    simp only [nset]
    by_cases h1 : k < j
    · simp [h1, nset]
    · by_cases h2 : k = j
      · simp [h2, nset]
      · simp [h1, h2, nset, ih]

theorem setDma_setDma (s : State) (c : Nat) (x y : Dma) : setDma (setDma s c x) c y = setDma s c y := by
  simp [setDma, nset_nset]

/-- A clean read of the stacks meets no bad block. -/
theorem badBlocks_clean {s : State} {a n : Nat} (h : (hbmRead s a n).2.1 = false) : badBlocks s a n = [] := by
  unfold badBlocks
  split
  · rfl
  · refine List.filter_eq_nil_iff.mpr fun b hb => ?_
    obtain ⟨i, hi, hl⟩ := List.mem_filterMap.mp hb
    obtain ⟨⟨p, o⟩, hpo, rfl⟩ := Option.map_eq_some_iff.mp hl
    have := List.any_eq_false.mp h (some (p, o)) (List.mem_map.mpr ⟨i, hi, hpo⟩)
    simpa using this

theorem readLoc_clean {s : State} {loc a n : Nat} {d : List Byte} (h : memRead s loc a n = (d, none, false)) :
    readLoc s loc a n = ((d, none, false), s) := by
  unfold readLoc noteRange
  rw [h]
  by_cases hl : loc = 0
  · simp [hl]
  · have hp : (hbmRead s a n).2.1 = false := by
      rw [memRead, if_neg hl] at h
      exact congrArg (fun r => r.2.2) h
    simp [hl, badBlocks_clean hp, ueBlocks]

/-- A posted descriptor that is valid and has no trigger runs. -/
theorem dmaHead_runs {s : State} {ch f : Nat} {d : Desc} {ds : List Desc} (hst : (getDma s ch).st = 0)
    (hf : (getDma s ch).fetched = d :: ds) (hw : takesWork s (dmaPage ch) = true) (ho : descOk ch d.bytes = true)
    (ht : dTrig d.bytes = 0) : dmaHead (f + 1) s ch = setDma s ch { getDma s ch with st := 3 } := by
  simp [dmaHead, hst, hf, hw, ho, ht]

theorem dmaFire_timers (s : State) (w : List Byte → Bool) : (dmaFire s w).timers = s.timers := by
  unfold dmaFire
  refine List.foldlRecOn (motive := fun t : State => t.timers = s.timers) _ _ rfl fun u hu ch _ => ?_
  dsimp only
  split
  · exact hu
  · rw [apply_ite State.timers, setEvt_frame]
    split <;> split <;> exact hu

theorem fifoAdd_zero {n p : Nat} (h : p < 2 ^ (n + 1)) : fifoAdd n p 0 = p := by
  simp [fifoAdd, Nat.mod_eq_of_lt h]

theorem toLE_one (v : Nat) : toLE 1 v = [BitVec.ofNat 8 v] := rfl

/-- The end of a running descriptor that meets no error (R280). -/
theorem descRun_done {s : State} {ch : Nat} {d : Desc} (hc : ch < 32) (hst : (getDma s ch).st = 3) (hd : (getDma s ch).fetched = [d])
    (hu : blockUp s (dmaPage ch) = true) (he : moveErr s d.bytes = none) (hr : (confirmRead (dmaMove s d.bytes).1 d.bytes).1 = false)
    (hp : (srcStream s (dSrc d.bytes)).any (fun b => b.2.1) = false) :
    descRun ch s = dmaHead 4 (descEnd (confirmRead (dmaMove s d.bytes).1 d.bytes).2 ch 1 0 0) ch := by
  have hm : (dmaMove s d.bytes).2 = false := hp
  unfold descRun
  dsimp only
  rw [hd]
  dsimp only
  rw [if_neg (by simp [hst, hu, Nat.not_le.mpr hc]), he]
  dsimp only
  rw [hr, hm]
  rfl

theorem descFetch_first {s : State} {ch : Nat} {d : List Byte} (hc : ch < 32) (hw : takesWork s (dmaPage ch) = true)
    (hst : (getDma s ch).st = 0) (hbd : (getDma s ch).bound = none) (hf : (getDma s ch).fetched = [])
    (hne : (getDma s ch).head ≠ (getDma s ch).tail) (hlt : (getDma s ch).head < 2 ^ (dmaLog s ch + 1))
    (hr : memRead s (dmaLoc s ch) (descAddr s ch (getDma s ch).head) 64 = (d, none, false)) (ho : descOk ch d = true) (ht : dTrig d = 0) :
    descFetch ch s = setDma s ch { getDma s ch with st := 3, fetched := [⟨(getDma s ch).head, d⟩] } := by
  have e : descFetch ch s = dmaHead 4 (setDma s ch { getDma s ch with fetched := [⟨(getDma s ch).head, d⟩] }) ch := by
    simp only [descFetch, hf, List.length_nil, fifoAdd_zero hlt]
    rw [if_neg (by simp [hw, hst, hbd, Nat.not_le.mpr hc]), if_neg (by simp [hne]), readLoc_clean hr]
    rfl
  have hx : getDma (setDma s ch { getDma s ch with fetched := [⟨(getDma s ch).head, d⟩] }) ch = _ := (getDma_setDma _ _ _ _).trans (if_pos rfl)
  have hw' : takesWork (setDma s ch { getDma s ch with fetched := [⟨(getDma s ch).head, d⟩] }) (dmaPage ch) = true := hw
  refine e.trans ((dmaHead_runs (f := 3) (d := ⟨(getDma s ch).head, d⟩) (ds := []) ?_ ?_ hw' ho ht).trans ?_)
  · rw [hx]; exact hst
  · rw [hx]
  · rw [hx, setDma_setDma]

/-- A bus error ends the running descriptor with its class and the bytes before it moved (R281). -/
theorem dmaBusErr_ends {s : State} {ch k c : Nat} {d : Desc} (hc : ch < 32) (hst : (getDma s ch).st = 3) (hd : (getDma s ch).fetched = [d])
    (hn : (s.snaps.filter fun n => n.page == dmaPage ch && n.bank == 0) = []) (hu : blockUp s (dmaPage ch) = true)
    (he : moveErr s d.bytes = none) (h2 : 2 ≤ c) (h6 : c ≤ 6) (hcf : c = 6 → dConfirm d.bytes = true) :
    let n := if c = 6 then (dSrc d.bytes).total else min k (dSrc d.bytes).total
    ∃ t, dmaBusErr ch k c s = t ∧ getDma t ch = endedDma s ch ∧
      t.hostMem = (wroteBack s (moveBytes s d.bytes n) ch d 2 c n).hostMem ∧
      t.hbm = (wroteBack s (moveBytes s d.bytes n) ch d 2 c n).hbm ∧ (hdr t (dmaPage ch)).fltSrc.getLsbD 0 = true := by
  intro n
  have hgo : ¬ (32 ≤ ch ∨ (getDma s ch).st ≠ 3 ∨ (!blockUp s (dmaPage ch)) = true ∨ c < 2 ∨ 6 < c ∨ (c = 6 ∧ dConfirm d.bytes = false)) := by
    rintro (h | h | h | h | h | ⟨h, hf⟩)
    · omega
    · exact h hst
    · simp [hu] at h
    · omega
    · omega
    · simp [hcf h] at hf
  have e : ∃ v, MemNoted (moveBytes s d.bytes n) v ∧ dmaBusErr ch k c s = dmaHead 4 (descEnd v ch 2 c n) ch := by
    unfold dmaBusErr
    dsimp only
    rw [hd]
    dsimp only
    rw [if_neg hgo, he]
    dsimp only
    by_cases h : c = 6
    · subst h
      exact ⟨_, readNotes_memNoted _ _ _, rfl⟩
    · rw [if_neg h]
      refine ⟨if c = 5 then rangeFault (readNotes (moveBytes s d.bytes n) (dSrc d.bytes) n) else
        readNotes (moveBytes s d.bytes n) (dSrc d.bytes) n, ?_, ?_⟩
      · split
        · exact (readNotes_memNoted _ _ _).rangeFault
        · exact readNotes_memNoted _ _ _
      · simp only [n, if_neg h]; rfl
  obtain ⟨v, hv, e⟩ := e
  obtain ⟨t, et, hx, hh, hb, hs⟩ := descEnd_moved ((Stored.refl s).moveBytes d.bytes n) hv hd hn hc (status := 2) (cls := c) (off := n)
  exact ⟨t, e.trans et, hx, hh, hb, hs rfl h2 h6⟩

theorem getDma_dmaHalt (s : State) (ch : Nat) : getDma (dmaHalt s ch) ch = { getDma s ch with st := 5, fetched := [] } := by
  have h : getDma (dmaHalt s ch) ch = getDma (setDma s ch { getDma s ch with st := 5, fetched := [] }) ch := by
    unfold dmaHalt
    rw [(raiseFault_noted _ _ _ _).frame]
    rfl
  rw [h, getDma_setDma, if_pos rfl]

/-- Settles O20: every end of a descriptor is `descEnd_moved`, whatever was moved and reported before it. -/
theorem dmaRing : Obligations.DmaRing := by
  refine ⟨fun s rq ch v hc h hle => ?_, fun s rq ch v hc h hgt => ?_, fun s ch d ha hc hw hst hbd hf hne hlt hr ho ht => ?_,
    fun s ch d ha hc hu hst hd hn he hr hp => ?_, fun s ch d k c ha hc hu hst hd hn he h2 h6 hcf => ?_,
    fun s ch ha hc hw hst hbd hf hne => ?_, fun s n v ha hn hon hu hx hv hp => ?_⟩
  · have e : (fun s => if ch < 32 then dmaTailOp ch v.toNat s else s) s = _ := if_pos hc
    refine ⟨_, runs_reg_to rfl h e, ?_⟩
    simp only [dmaTailOp, if_neg (Nat.not_lt.mpr hle)]
    refine ⟨by simp, fun c' hc' => ?_, rfl⟩
    rw [getDma_setDma, if_neg hc']; rfl
  · have e : (fun s => if ch < 32 then dmaTailOp ch v.toNat s else s) s = bump s (dmaPage ch) 0 0x124 1 := by
      simp only [if_pos hc, dmaTailOp, if_pos hgt]
    exact ⟨_, runs_reg_to rfl h e, rfl, rgetN_bump _ _ _ _ _⟩
  · exact runs_act_to rfl ha (descFetch_first hc hw hst hbd hf hne hlt hr ho ht)
  · obtain ⟨t, e, hx, hh, hb, -⟩ := descEnd_moved ((Stored.refl s).moveBytes d.bytes (dSrc d.bytes).total)
      ((readNotes_memNoted _ _ _).trans (confirmRead_memNoted _ _)) hd hn hc (status := 1) (cls := 0) (off := 0)
    refine ⟨t, runs_act_to rfl ha ((descRun_done hc hst hd hu he hr hp).trans e), ?_⟩
    rw [hx]
    exact ⟨rfl, rfl, rfl, rfl, hh, hb⟩
  · obtain ⟨t, e, hx, hh, hb, hs⟩ := dmaBusErr_ends (k := k) hc hst hd hn hu he h2 h6 hcf
    refine ⟨t, runs_act_to rfl ha e, ?_⟩
    rw [hx]
    exact ⟨rfl, rfl, rfl, rfl, hs, hh, hb⟩
  · have e : dmaFetchErr ch s = dmaHalt s ch := by
      simp only [dmaFetchErr]
      rw [if_neg (by simp [hw, hst, hbd, hf, hne, Nat.not_le.mpr hc])]
    refine ⟨_, runs_act_to rfl ha e, ?_, ?_, raiseFault_src (pageAt_dmaPage hc) (by decide) (by decide)⟩
    · rw [getDma_dmaHalt]
    · rw [getDma_dmaHalt]
  · have e : timerTick n s = dmaFire { s with timers := nset s.timers n { ngetD s.timers n {} with next := some (v + tmrPeriod s n) } }
        fun d => dTrig d == n + 1 := by
      simp only [timerTick, hx, if_neg hp]
      rw [if_neg (by simp [hon, hu, Nat.not_le.mpr hn, Nat.not_lt.mpr hv])]
    exact ⟨_, runs_act_to rfl ha e, dmaFire_timers _ _⟩

end Sys2Proof.Machine

namespace Sys2Proof.Machine

/-! PROOFS. ENABLE, QUIESCE, ABORT and the drop at IDLE (R62, R221, R280, R282). -/

theorem findPage_some {p i : Nat} {k : PageKind} {l : List (Nat × Nat × PageKind × Nat)} (h : findPage p l = some (k, i)) :
    ∃ e ∈ l, e.1 ≤ p ∧ p < e.1 + e.2.1 ∧ e.2.2.1 = k ∧ i = e.2.2.2 + (p - e.1) := by
  induction l with
  | nil => cases h
  | cons e l ih =>
    obtain ⟨b, n, k', j⟩ := e
    rw [findPage] at h
    split at h
    next hp =>
      obtain ⟨rfl, rfl⟩ := Prod.mk.inj (Option.some.inj h)
      exact ⟨_, .head _, hp.1, hp.2, rfl, rfl⟩
    next =>
      obtain ⟨e, he, hr⟩ := ih h
      exact ⟨e, .tail _ he, hr⟩

/-- The pages of the DMA channels lie in two ranges. -/
theorem eq_dmaPage {page i : Nat} (h : pageAt page = some (.dma, i)) : page = dmaPage i ∧ i < 32 := by
  obtain ⟨e, he, h1, h2, hk, hi⟩ := findPage_some h
  have hr : e ∈ pageRanges.filter fun e => e.2.2.1 == .dma := List.mem_filter.mpr ⟨he, by simp [hk]⟩
  have hl : (pageRanges.filter fun e => e.2.2.1 == .dma) = [(0x1A0, 16, .dma, 0), (0x320, 16, .dma, 16)] := by decide
  rw [hl] at hr
  rcases List.mem_cons.mp hr with rfl | hr
  · unfold dmaPage; simp only at *; split <;> omega
  · obtain rfl := List.mem_singleton.mp hr
    unfold dmaPage; simp only at *; split <;> omega

theorem setHdr_setHdr (s : State) (page : Nat) (h g : PageHdr) : setHdr (setHdr s page h) page g = setHdr s page g := by
  simp [setHdr, nset_nset]

/-- What a write of ENABLE leaves in a header. -/
def enableHdr (s : State) (page : Nat) (en : Bool) : PageHdr :=
  if en then { hdr s page with enable := true, dropEnable := false }
  else if (hdr s page).enable && blockActive s page then { hdr s page with dropEnable := true }
  else { hdr s page with enable := false, dropEnable := false }

theorem pageEnable_off {s : State} {page i : Nat} {k : PageKind} (hp : pageAt page = some (k, i)) (hk : canQuiesce k = true) :
    pageEnable page false s = setHdr s page (enableHdr s page false) := by
  simp only [pageEnable, hp, hk, enableHdr]
  cases (hdr s page).enable && blockActive s page <;> rfl

theorem pageEnable_true {s : State} {page i : Nat} {k : PageKind} (hp : pageAt page = some (k, i)) (hk : canQuiesce k = true) :
    pageEnable page true s = if k = .dma ∧ (!(hdr s page).enable) = true ∧ (getDma s i).st = 5
      then setDma (setHdr s page (enableHdr s page true)) i { getDma s i with st := 0, fetched := [] }
      else setHdr s page (enableHdr s page true) := by
  simp only [pageEnable, hp, hk, enableHdr]
  rfl

theorem pageEnable_on {s : State} {page i : Nat} {k : PageKind} (hp : pageAt page = some (k, i)) (hk : canQuiesce k = true)
    (hd : k = .dma → (getDma s i).st ≠ 5) : pageEnable page true s = setHdr s page (enableHdr s page true) :=
  (pageEnable_true hp hk).trans (if_neg fun h => hd h.1 h.2.2)

theorem pageEnable_hdr {s : State} {page i : Nat} {k : PageKind} (en : Bool) (hp : pageAt page = some (k, i)) (hk : canQuiesce k = true)
    (hd : k = .dma → (getDma s i).st ≠ 5) : pageEnable page en s = setHdr s page (enableHdr s page en) := by
  cases en with
  | true => exact pageEnable_on hp hk hd
  | false => exact pageEnable_off hp hk

theorem pageQuiesce_eq {s : State} {page i : Nat} {k : PageKind} (on : Bool) (hp : pageAt page = some (k, i)) (hk : canQuiesce k = true) :
    pageQuiesce page on s = setHdr s page { hdr s page with quiesce := on } := by
  simp [pageQuiesce, pageKindOf, hp, hk]

/-- The two stores of an ABORT write, before the abort itself. -/
theorem abort_stores {s : State} {page i : Nat} {k : PageKind} (en qui : Bool) (hp : pageAt page = some (k, i)) (hk : canQuiesce k = true)
    (hd : k = .dma → (getDma s i).st ≠ 5) :
    pageQuiesce page qui (pageEnable page en s) = setHdr s page { enableHdr s page en with quiesce := qui } := by
  rw [pageQuiesce_eq qui hp hk, pageEnable_hdr en hp hk hd, hdr_setHdr, if_pos rfl, setHdr_setHdr]

theorem pageAbortOp_tile {s : State} {page n : Nat} (en qui : Bool) (hp : pageAt page = some (.tile, n)) :
    pageAbortOp page en qui s = tileAbort (setHdr s page { enableHdr s page en with quiesce := qui }) n := by
  rw [pageAbortOp, abort_stores en qui hp rfl (by simp)]
  simp only [hp]

theorem pageAbortOp_dma {s : State} {page i : Nat} (en qui : Bool) (hp : pageAt page = some (.dma, i)) (hd : (getDma s i).st ≠ 5) :
    pageAbortOp page en qui s = dmaAbort (setHdr s page { enableHdr s page en with quiesce := qui }) i := by
  rw [pageAbortOp, abort_stores en qui hp rfl fun _ => hd]
  simp only [hp]

theorem tileAbort_idle {s : State} {n : Nat} (h : tileBusy (getTile s n) = false) : tileAbort s n = s := by
  simp [tileAbort, h]

theorem tileAbort_running {s : State} {n : Nat} (h : (getTile s n).run = 1) :
    tileAbort s n = setTile s n { getTile s n with reqA := true } := by
  simp [tileAbort, tileBusy, h]

/-- ENABLE of a channel goes at an ABORT, whatever the channel did. -/
def clearEnable (s : State) (page : Nat) : State := setHdr s page { hdr s page with enable := false, dropEnable := false }

theorem dmaAbort_none {s : State} {ch : Nat} (h : (getDma s ch).fetched = []) : dmaAbort s ch = clearEnable s (dmaPage ch) := by
  simp only [dmaAbort, h]
  rfl

theorem dmaAbort_waits {s : State} {ch : Nat} {d : Desc} (h : (getDma s ch).fetched = [d]) (hst : (getDma s ch).st = 2) :
    dmaAbort s ch = clearEnable (descEnd s ch 2 7 0) (dmaPage ch) := by
  simp only [dmaAbort, h, hst]
  rfl

/-- A moving channel stops somewhere in its stream. -/
theorem dmaAbort_moves {s : State} {ch : Nat} {d : Desc} (h : (getDma s ch).fetched = [d]) (hst : (getDma s ch).st = 3) :
    ∃ k, dmaAbort s ch = clearEnable (dmaStop (fresh s).2 ch d.bytes k 7) (dmaPage ch) := by
  simp only [dmaAbort, h, hst]
  exact ⟨_, rfl⟩

theorem clearEnable_spec (s : State) (page : Nat) : (hdr (clearEnable s page) page).enable = false ∧
    (hdr (clearEnable s page) page).quiesce = (hdr s page).quiesce ∧ ∀ c, getDma (clearEnable s page) c = getDma s c := by
  have h : hdr (clearEnable s page) page = _ := (hdr_setHdr s page _ page).trans (if_pos rfl)
  exact ⟨by rw [h], by rw [h], fun _ => rfl⟩

theorem clearEnable_setHdr (s : State) (page : Nat) (h : PageHdr) :
    clearEnable (setHdr s page h) page = setHdr s page { h with enable := false, dropEnable := false } := by
  rw [clearEnable, hdr_setHdr, if_pos rfl, setHdr_setHdr]

theorem enableHdr_cleared (s : State) (page : Nat) (en qui : Bool) :
    { enableHdr s page en with quiesce := qui, enable := false, dropEnable := false } =
      { hdr s page with enable := false, dropEnable := false, quiesce := qui } := by
  unfold enableHdr
  split
  · rfl
  · split <;> rfl

/-- ENABLE of a HALTED channel may start it anew, with nothing fetched. -/
theorem pageEnable_halted {s : State} {page i : Nat} (en : Bool) (hp : pageAt page = some (.dma, i)) (hf : (getDma s i).fetched = []) :
    ∃ u, pageEnable page en s = setHdr u page (enableHdr s page en) ∧ u = { s with dmas := u.dmas } ∧ (getDma u i).fetched = [] ∧
      ∀ c, c ≠ i → getDma u c = getDma s c := by
  cases en with
  | false => exact ⟨s, pageEnable_off hp rfl, rfl, hf, fun _ _ => rfl⟩
  | true =>
    by_cases hd : PageKind.dma = .dma ∧ (!(hdr s page).enable) = true ∧ (getDma s i).st = 5
    · exact ⟨setDma s i { getDma s i with st := 0, fetched := [] }, (pageEnable_true hp rfl).trans (if_pos hd), rfl, by simp,
        fun c hc => by simp [hc]⟩
    · exact ⟨s, (pageEnable_true hp rfl).trans (if_neg hd), rfl, hf, fun _ _ => rfl⟩

/-- What a stopped channel leaves: its bytes moved, then the end of its descriptor. -/
theorem dmaStop_spec {s : State} {ch k : Nat} {d : Desc} (hd : (getDma s ch).fetched = [d])
    (hn : (s.snaps.filter fun n => n.page == dmaPage ch && n.bank == 0) = []) (hc : ch < 32) :
    getDma (dmaStop s ch d.bytes k 7) ch = endedDma s ch ∧
    (hdr (dmaStop s ch d.bytes k 7) (dmaPage ch)).quiesce = (hdr s (dmaPage ch)).quiesce := by
  have e : dmaStop s ch d.bytes k 7 = descEnd (readNotes (moveBytes s d.bytes k) (dSrc d.bytes) k) ch 2 7 k := rfl
  have hv := ((Stored.refl s).moveBytes d.bytes k).memNoted (readNotes_memNoted _ (dSrc d.bytes) k)
  obtain ⟨hx, -, -, hq, -⟩ := descEnd_spec (s := readNotes (moveBytes s d.bytes k) (dSrc d.bytes) k) (status := 2) (cls := 7) (off := k)
    (by rw [hv.getDma]; exact hd) (by rw [hv.snaps]; exact hn) hc
  rw [e, hx, hq]
  refine ⟨?_, by rw [hv.hdr]⟩
  unfold endedDma
  rw [hv.getDma, (hv.ring hc).1]

/-- Settles O9. -/
theorem pageControl : Obligations.PageControl := by
  refine ⟨fun s rq page k i h hp hk he => ?_, fun s rq page k i h hp hk hd => ?_, fun s rq page on k i h hp hk => ?_,
    fun s page h hd hb => ?_, fun s rq page n en qui h hp hb ht => ?_, fun s rq page n en qui h hp hr he => ?_,
    fun s rq page i en qui h hp hf hst => ?_, fun s rq page i en qui h hp hf hst => ?_,
    fun s rq page i d en qui h hp hf hst hn => ?_, fun s rq page i d en qui h hp hf hst hn => ?_⟩
  · obtain ⟨h1, h2, h3⟩ := setHdr_spec s page (enableHdr s page false)
    refine ⟨_, runs_reg_to rfl h (pageEnable_off hp hk), h1, h2, h3.trans ?_⟩
    simp [enableHdr, he]
  · exact ⟨_, runs_reg_to rfl h (pageEnable_on hp hk hd), setHdr_spec _ _ _⟩
  · exact ⟨_, runs_reg_to rfl h (pageQuiesce_eq on hp hk), setHdr_spec _ _ _⟩
  · refine ⟨_, runs_act_to rfl h ?_, setHdr_spec s page _⟩
    simp only [reachesIdle, hd, hb]
    rfl
  · obtain ⟨h1, h2, h3⟩ := setHdr_spec s page { enableHdr s page en with quiesce := qui }
    refine ⟨_, runs_reg_to rfl h ((pageAbortOp_tile en qui hp).trans (tileAbort_idle ht)), h1, h2, h3.trans ?_⟩
    cases en <;> simp [enableHdr, hb]
  · have hact : blockActive s page = true := by simp [blockActive, hp, hr]
    refine ⟨_, runs_reg_to rfl h ((pageAbortOp_tile en qui hp).trans (tileAbort_running hr)), rfl, ?_, fun u hu => ?_, ?_, ?_⟩
    · exact (getTile_setTile _ _ _ _).trans (if_pos rfl)
    · exact (getTile_setTile _ _ _ _).trans (if_neg hu)
    · exact fun q hq => (hdr_setHdr _ _ _ _).trans (if_neg hq)
    · refine ((hdr_setHdr _ _ _ _).trans (if_pos rfl)).trans ?_
      cases en <;> simp [enableHdr, hact, he]
  · obtain ⟨rfl, hc⟩ := eq_dmaPage hp
    have e := (pageAbortOp_dma en qui hp hst).trans (dmaAbort_none (s := setHdr s (dmaPage i) { enableHdr s (dmaPage i) en with quiesce := qui }) hf)
    rw [clearEnable_setHdr, enableHdr_cleared] at e
    exact ⟨_, runs_reg_to rfl h e, setHdr_spec _ _ _⟩
  · obtain ⟨rfl, hc⟩ := eq_dmaPage hp
    obtain ⟨u, hu, hfr, hfu, ho⟩ := pageEnable_halted en hp hf
    have e : pageAbortOp (dmaPage i) en qui s = clearEnable (setHdr u (dmaPage i) { enableHdr s (dmaPage i) en with quiesce := qui }) (dmaPage i) := by
      rw [pageAbortOp, hu, pageQuiesce_eq qui hp rfl, hdr_setHdr, if_pos rfl, setHdr_setHdr]
      simp only [hp]
      exact dmaAbort_none (s := setHdr u (dmaPage i) { enableHdr s (dmaPage i) en with quiesce := qui }) hfu
    rw [clearEnable_setHdr, enableHdr_cleared] at e
    refine ⟨_, runs_reg_to rfl h e, ?_, ho, (hdr_setHdr _ _ _ _).trans (if_pos rfl)⟩
    rw [hfr]
    rfl
  · obtain ⟨rfl, hc⟩ := eq_dmaPage hp
    have e := (pageAbortOp_dma en qui hp (by omega)).trans
      (dmaAbort_waits (s := setHdr s (dmaPage i) { enableHdr s (dmaPage i) en with quiesce := qui }) hf hst)
    obtain ⟨hx, hm, hb, hq, -⟩ := descEnd_spec (s := setHdr s (dmaPage i) { enableHdr s (dmaPage i) en with quiesce := qui })
      (status := 2) (cls := 7) (off := 0) hf hn hc
    have hs : SameStore s (setHdr s (dmaPage i) { enableHdr s (dmaPage i) en with quiesce := qui }) := ⟨rfl, rfl, rfl, fun _ _ => rfl⟩
    have hw := hs.wroteBack (s := s) i d 2 7 0
    obtain ⟨he, hq', hx'⟩ := clearEnable_spec (descEnd (setHdr s (dmaPage i) { enableHdr s (dmaPage i) en with quiesce := qui }) i 2 7 0) (dmaPage i)
    refine ⟨_, runs_reg_to rfl h e, he, ?_, ?_, ?_, ?_, ?_, hm.trans hw.hostMem, hb.trans hw.hbm⟩
    · rw [hq', hq, hdr_setHdr, if_pos rfl]
    all_goals rw [hx', hx]; rfl
  · obtain ⟨rfl, hc⟩ := eq_dmaPage hp
    obtain ⟨k, ek⟩ := dmaAbort_moves (s := setHdr s (dmaPage i) { enableHdr s (dmaPage i) en with quiesce := qui }) hf hst
    have e := (pageAbortOp_dma en qui hp (by omega)).trans ek
    obtain ⟨hx, hq⟩ := dmaStop_spec (s := (fresh (setHdr s (dmaPage i) { enableHdr s (dmaPage i) en with quiesce := qui })).2) (k := k) hf hn hc
    obtain ⟨he, hq', hx'⟩ := clearEnable_spec
      (dmaStop (fresh (setHdr s (dmaPage i) { enableHdr s (dmaPage i) en with quiesce := qui })).2 i d.bytes k 7) (dmaPage i)
    refine ⟨_, runs_reg_to rfl h e, he, ?_, ?_, ?_, ?_, ?_⟩
    · rw [hq', hq]
      exact congrArg PageHdr.quiesce ((hdr_setHdr _ _ _ _).trans (if_pos rfl))
    all_goals rw [hx', hx]; rfl

end Sys2Proof.Machine

namespace Sys2Proof.Machine

/-! PROOFS. A scan that memory stops before the reported error does (R241, R284). -/

/-- Unit 0 scans one byte of host memory, which lies in a poisoned word. -/
def scanOfPoison : State :=
  { State.reset with
    boot := { State.reset.boot with st := 7 }
    crcs := [(0, { busy := true })]
    regs := [(rkey (crcPage 0) 0 0x128, 1)]
    hostPoison := [(0, 64)] }

/-- An error reported for that byte is met by the poison first, whose class the unit shows. -/
theorem scanErr_poison_first : (getCrc (scanErr 0 0 2 scanOfPoison) 0).cls = 8 := by decide +kernel

/-- Refutes O21: the clause of a reported error asks that the bytes before the failing one meet none, but not the failing byte itself.
Where memory holds that byte poisoned (`scanOfPoison`), the unit stops with class 8 (POISON) and not with the class reported. -/
theorem not_checkUnits : ¬ Obligations.CheckUnits := by
  unfold Obligations.CheckUnits
  rintro ⟨-, -, -, -, -, -, herr⟩
  obtain ⟨t, hrun, -, hcrc⟩ := herr scanOfPoison 0 0 2 (by decide) (by decide) (by decide) (by decide) (by decide) (by decide) (by decide)
  have ht : scanErr 0 0 2 scanOfPoison = t := Host.Outcome.next.inj hrun
  have hcls := congrArg CrcU.cls hcrc
  rw [← ht, scanErr_poison_first] at hcls
  exact absurd hcls (by decide)

end Sys2Proof.Machine

namespace Sys2Proof.Machine

/-! PROOFS. The pointers of a FIFO (R265 to R268). -/

/-- What a store of a FIFO leaves: its pointers and mark as given, the other FIFOs, and no other state but registers. -/
structure FifoStored (s t : State) (f : Nat) (x : Fifo) : Prop where
  w : (getFifo t f).w = x.w
  rd : (getFifo t f).rd = x.rd
  rel : (getFifo t f).rel = x.rel
  m : (getFifo t f).m = x.m
  marked : (getFifo t f).marked = x.marked
  other : ∀ g, g ≠ f → getFifo t g = getFifo s g
  frame : t = { s with fifos := t.fifos, regs := t.regs }

theorem fifoStore_stored (s : State) (f : Nat) (x : Fifo) : FifoStored s (fifoStore s f x) f x := by
  obtain ⟨b, c, hf⟩ := fifoStore_get s f x f
  rw [if_pos rfl] at hf
  refine ⟨by rw [hf], by rw [hf], by rw [hf], by rw [hf], by rw [hf], fun g hg => ?_, fifoStore_frame s f x⟩
  obtain ⟨b, c, h⟩ := fifoStore_get s f x g
  rw [h, if_neg hg]

/-- The Commons after the producer's store of a word. -/
def wordStored (s : State) (f : Nat) (w : LW) : State := comPut (comTake s (fifoAddr s f (getFifo s f).w) 0) (fifoAddr s f (getFifo s f).w) w

theorem comPut_frame (s : State) (a : Nat) (w : LW) : comPut s a w = { s with
    commons := (comPut s a w).commons, comPoison := (comPut s a w).comPoison } := by
  unfold comPut
  split <;> rfl

theorem wordStored_frame (s : State) (f : Nat) (w : LW) : wordStored s f w = { s with
    commons := (wordStored s f w).commons, comPoison := (wordStored s f w).comPoison, arbs := (wordStored s f w).arbs } := by
  unfold wordStored
  rw [comPut_frame]
  rfl

theorem wordStored_commons (s : State) (f : Nat) (w : LW) : (wordStored s f w).commons = (comPut s (fifoAddr s f (getFifo s f).w) w).commons := by
  unfold wordStored comPut
  split <;> rfl

theorem fifoPut_stored (s : State) (f : Nat) (w : LW) : FifoStored (wordStored s f w) (fifoPut s f w) f
    { getFifo s f with w := fifoAdd (fifoLog s f) (getFifo s f).w 1, inPkt := !w.getLsbD 33, stalled := false, stallTold := false } :=
  fifoStore_stored _ _ _

/-! What each operation on a FIFO stores. -/

theorem fifoWriteEnd_room {s : State} {f : Nat} (w : LW) (hf : f < 256) (ho : fifoOn s f = true) (hu : blockUp s fifoPg = true)
    (hr : fifoRoom (fifoLog s f) (getFifo s f) ≠ 0) (hn : (s.snaps.filter fun n => n.page == fifoPg && n.bank == f) = []) :
    fifoWriteEnd f w s = fifoPut s f w := by
  have hw : fifoWrite f w s = fifoPut s f w := by
    simp only [fifoWrite, if_neg hr]
    rw [if_neg (by simp [ho, hu, Nat.not_le.mpr hf])]
  have hsn : (fifoPut s f w).snaps = s.snaps := by
    rw [(fifoPut_stored s f w).frame, wordStored_frame]
  unfold fifoWriteEnd
  dsimp only
  rw [hw, applySnaps_none (by rw [hsn]; exact hn)]
  exact ite_self _

theorem fifoWriteEnd_full {s : State} {f : Nat} (w : LW) (hf : f < 256) (ho : fifoOn s f = true) (hu : blockUp s fifoPg = true)
    (hr : fifoRoom (fifoLog s f) (getFifo s f) = 0) (hs : (getFifo s f).stalled = false) :
    fifoWriteEnd f w s = setFifo s f { getFifo s f with stalled := true, stallAt := s.tick, need := 1, stallTold := false } := by
  have hw : fifoWrite f w s = setFifo s f { getFifo s f with stalled := true, stallAt := s.tick, need := 1, stallTold := false } := by
    simp only [fifoWrite, if_pos hr, fifoStall, hs]
    rw [if_neg (by simp [ho, hu, Nat.not_le.mpr hf])]
    rfl
  unfold fifoWriteEnd
  dsimp only
  rw [hw]
  refine if_neg ?_
  simp

theorem fifoRead_clean {s : State} {f : Nat} (hf : f < 256) (hu : blockUp s fifoPg = true) (hr : fifoReadable s f = true)
    (hp : s.comPoison.contains (fifoAddr s f (getFifo s f).rd) = false) :
    fifoRead f 0 s = fifoStore { comTake s (fifoAddr s f (getFifo s f).rd) 1 with out := (comGet s (fifoAddr s f (getFifo s f).rd)).toNat } f
      { getFifo s f with rd := fifoAdd (fifoLog s f) (getFifo s f).rd 1 } := by
  simp only [fifoRead, hp]
  rw [if_neg (by simp [hu, hr, Nat.not_le.mpr hf])]
  rfl

theorem fifoRelease_on {s : State} {f : Nat} (k : Nat) (hf : f < 256) (ho : fifoOn s f = true) : fifoRelease f k s = fifoStore s f
    { getFifo s f with rel := fifoAdd (fifoLog s f) (getFifo s f).rel (min k (ringDist (fifoLog s f) (getFifo s f).rel (getFifo s f).rd)) } :=
  if_neg (by simp [ho, Nat.not_le.mpr hf])

theorem fifoMark_on {s : State} {f : Nat} (hf : f < 256) (ho : fifoOn s f = true) :
    fifoMark f s = fifoStore s f { getFifo s f with m := (getFifo s f).rd, marked := true } :=
  if_neg (by simp [ho, Nat.not_le.mpr hf])

theorem fifoRewind_marked {s : State} {f : Nat} (hf : f < 256) (ho : fifoOn s f = true) (hm : (getFifo s f).marked = true) :
    fifoRewind f s = fifoStore s f { getFifo s f with
      rd := (getFifo s f).m, rel := if fifoHeld (fifoLog s f) (getFifo s f) then (getFifo s f).m else (getFifo s f).rel } :=
  if_neg (by simp [ho, hm, Nat.not_le.mpr hf])

theorem fifoUnmark_on {s : State} {f : Nat} (hf : f < 256) (ho : fifoOn s f = true) :
    fifoUnmark f s = fifoStore s f { getFifo s f with marked := false } :=
  if_neg (by simp [ho, Nat.not_le.mpr hf])

/-- A told stall counts, names its FIFO and raises its fault once. -/
theorem fifoFault_spec {s : State} {f src : Nat} (hs : hasFlt .fifo src = true) (h16 : src < 16) :
    (∀ g, getFifo (fifoFault s f src) g = getFifo s g) ∧ (hdr (fifoFault s f src) fifoPg).fltSrc.getLsbD src = true ∧
    ∀ b o, b < 8192 → o < 4096 → o ≠ 0x190 → rgetN (fifoFault s f src) fifoPg b o = rgetN s fifoPg b o := by
  have hn := raiseFault_noted (rputN s fifoPg 0 0x190 f) fifoPg src f
  refine ⟨fun g => ?_, raiseFault_src (by decide : pageAt fifoPg = some (.fifo, 0)) hs h16, fun b o hb ho hne => ?_⟩
  · unfold fifoFault
    rw [hn.frame]
    rfl
  · unfold fifoFault
    refine (congrArg BitVec.toNat (hn.regs fifoPg b o (by decide) (by decide) hb ho)).trans ?_
    exact rgetN_rputN_other s _ (by decide) hb (by decide) ho fun h => hne h.2.2

/-- Settles O16: but for the stall every operation is one store of the FIFO (`fifoStore_stored`). -/
theorem fifoPointers : Obligations.FifoPointers := by
  refine ⟨fun s f w ha hf ho hu hr hn => ?_, fun s f w ha hf ho hu hr hs => ?_, fun s f ha hf hu hr hp => ?_, fun s f k ha hf ho => ?_,
    fun s f ha hf ho => ?_, fun s f ha hf ho hm => ?_, fun s f ha hf ho => ?_, fun s f ha hf hs hr hh ht hl => ?_⟩
  · have h := fifoPut_stored s f w
    refine ⟨_, runs_act_to rfl ha (fifoWriteEnd_room w hf ho hu hr hn), h.w, h.rd, h.rel, h.marked, ?_, fun g hg => ?_, ?_⟩
    · rw [h.frame]; exact wordStored_commons s f w
    · rw [h.other g hg, wordStored_frame]; rfl
    · rw [h.frame, wordStored_frame]
  · exact runs_act_to rfl ha (fifoWriteEnd_full w hf ho hu hr hs)
  · have h := fifoStore_stored { comTake s (fifoAddr s f (getFifo s f).rd) 1 with out := (comGet s (fifoAddr s f (getFifo s f).rd)).toNat } f
      { getFifo s f with rd := fifoAdd (fifoLog s f) (getFifo s f).rd 1 }
    refine ⟨_, runs_act_to rfl ha (fifoRead_clean hf hu hr hp), ?_, h.rd, h.w, h.rel, ?_, h.other, ?_⟩
    · rw [h.frame]
    · rw [h.frame]; rfl
    · rw [h.frame]; rfl
  · have h := fifoStore_stored s f { getFifo s f with
      rel := fifoAdd (fifoLog s f) (getFifo s f).rel (min k (ringDist (fifoLog s f) (getFifo s f).rel (getFifo s f).rd)) }
    exact ⟨_, runs_act_to rfl ha (fifoRelease_on k hf ho), h.rel, h.w, h.rd, h.other, h.frame⟩
  · have h := fifoStore_stored s f { getFifo s f with m := (getFifo s f).rd, marked := true }
    exact ⟨_, runs_act_to rfl ha (fifoMark_on hf ho), h.m, h.marked, h.w, h.rd, h.rel, h.other, h.frame⟩
  · have h := fifoStore_stored s f { getFifo s f with
      rd := (getFifo s f).m, rel := if fifoHeld (fifoLog s f) (getFifo s f) then (getFifo s f).m else (getFifo s f).rel }
    exact ⟨_, runs_act_to rfl ha (fifoRewind_marked hf ho hm), h.rd, h.rel, h.w, h.other, h.frame⟩
  · have h := fifoStore_stored s f { getFifo s f with marked := false }
    exact ⟨_, runs_act_to rfl ha (fifoUnmark_on hf ho), h.marked, h.rd, h.rel, h.w, h.other, h.frame⟩
  · have e : fifoMarkStall f s = fifoFault (bump (setFifo s f { getFifo s f with stallTold := true }) fifoPg f 0x234 1) f 0 :=
      if_pos ⟨hf, hs, hr, hh, ht, hl⟩
    obtain ⟨hg, hsrc, hreg⟩ := fifoFault_spec (s := bump (setFifo s f { getFifo s f with stallTold := true }) fifoPg f 0x234 1) (f := f)
      (src := 0) (by decide) (by decide)
    refine ⟨_, runs_act_to rfl ha e, ?_, fun g hne => ?_, ?_, hsrc⟩
    · exact (hg f).trans ((getFifo_setFifo _ _ _ _).trans (if_pos rfl))
    · exact (hg g).trans ((getFifo_setFifo _ _ _ _).trans (if_neg hne))
    · rw [hreg _ _ (by omega) (by decide) (by decide), rgetN_bump]
      rfl

end Sys2Proof.Machine

namespace Sys2Proof.Machine

/-! PROOFS. Carousel lists: their start, their entries and the snapshots of their cycles (R43, R44, R68). -/

/-- Rounding up to whole cycles reaches `a` and passes it by less than a cycle. -/
theorem cdiv_mul_bounds {a c : Nat} (h : 0 < c) : a ≤ cdiv a c * c ∧ cdiv a c * c < a + c := by
  have h1 := Nat.div_add_mod (a + c - 1) c
  have h2 := Nat.mod_lt (a + c - 1) h
  unfold cdiv
  rw [Nat.mul_comm c] at h1
  omega

theorem carListStart_due {s : State} {l : Nat} {p : CarPend} (hp : (getCar s l).pend = some p) (hd : p.start ≤ s.dt) :
    carListStart l s = setHdr (setCar s l { getCar s l with oper := p.list, pend := none, start := p.start, cur := carAt p.list s.dt })
      (carPage (l / 4)) { hdr s (carPage (l / 4)) with commitGen := p.gen } := by
  simp only [carListStart, hp, if_neg (Nat.not_lt.mpr hd)]

theorem carListStart_early {s : State} {l : Nat} {p : CarPend} (hp : (getCar s l).pend = some p) (hd : s.dt < p.start) :
    carListStart l s = s := by
  simp only [carListStart, hp, if_pos hd]

theorem carListStart_none {s : State} {l : Nat} (hp : (getCar s l).pend = none) : carListStart l s = s := by
  simp only [carListStart, hp]

theorem runs_carListStart {s t : State} {l : Nat} (ha : alive s = true) (hl : l < 25) (e : carListStart l s = t) :
    Runs (.carListStart l) s (finishGone s (cycleSnaps l t)) :=
  runs_act_to rfl ha (congrArg (finishGone s) ((if_pos hl).trans (congrArg (cycleSnaps l) e)))

theorem runs_carEntryEnd {s t : State} {l : Nat} (ha : alive s = true) (hl : l < 25) (e : carEntryEnd l s = t) :
    Runs (.carEntryEnd l) s (finishGone s (cycleSnaps l t)) :=
  runs_act_to rfl ha (congrArg (finishGone s) ((if_pos hl).trans (congrArg (cycleSnaps l) e)))

/-- Rounding a base up by whole cycles to an instant that lies after it. -/
theorem round_up_bounds {e base c : Nat} (hc : 0 < c) (h : base ≤ e) :
    e ≤ base + cdiv (e - base) c * c ∧ base + cdiv (e - base) c * c < e + c := by
  obtain ⟨h1, h2⟩ := cdiv_mul_bounds (a := e - base) hc
  omega

theorem carStart_ahead {now base cycle : Nat} (h : now + nsT 10000 ≤ base) : carStart now base cycle = (base, false) := if_pos h

theorem carStart_behind {now base cycle : Nat} (h : ¬ now + nsT 10000 ≤ base) :
    carStart now base cycle = (base + cdiv (now + nsT 10000 - base) (nsT cycle) * nsT cycle, true) := if_neg h

theorem carStart_spec (now base : Nat) {cycle : Nat} (hc : 0 < cycle) :
    now + nsT 10000 ≤ (carStart now base cycle).1 ∧
    ((carStart now base cycle).2 = false ↔ now + nsT 10000 ≤ base) ∧
    (now + nsT 10000 ≤ base → (carStart now base cycle).1 = base) ∧
    (base < now + nsT 10000 → ∃ k, (carStart now base cycle).1 = base + k * nsT cycle ∧
      (carStart now base cycle).1 < now + nsT 10000 + nsT cycle) := by
  by_cases h : now + nsT 10000 ≤ base
  · rw [carStart_ahead h]
    exact ⟨h, ⟨fun _ => h, fun _ => rfl⟩, fun _ => rfl, fun h' => absurd h (Nat.not_le.mpr h')⟩
  · obtain ⟨h1, h2⟩ := round_up_bounds (c := nsT cycle) (Nat.mul_pos hc (by decide)) (Nat.le_of_lt (Nat.not_le.mp h))
    rw [carStart_behind h]
    exact ⟨h1, ⟨fun h' => Bool.noConfusion h', fun h' => absurd h' h⟩, fun h' => absurd h' h, fun _ => ⟨_, rfl, h2⟩⟩

/-- Settles O13. -/
theorem carouselLists : Obligations.CarouselLists := by
  refine ⟨fun s l p ha hl hp hd => ?_, fun s l p ha hl hp hd => runs_carListStart ha hl (carListStart_early hp hd),
    fun s l ha hl hp => runs_carListStart ha hl (carListStart_none hp), fun s l ha hl => ?_, fun s l h => ?_, fun s l n hs hp hc => ?_,
    fun s t h => finishGone_flows h, fun now base cycle hc => carStart_spec now base hc⟩
  · refine ⟨_, runs_carListStart ha hl (carListStart_due hp hd), rfl, ?_, fun m hm => ?_, ?_, fun q hq => ?_⟩
    · exact (getCar_setCar s l _ l).trans (if_pos rfl)
    · exact (getCar_setCar s l _ m).trans (if_neg hm)
    · exact (hdr_setHdr _ _ _ _).trans (if_pos rfl)
    · exact (hdr_setHdr _ _ _ _).trans (if_neg hq)
  · exact ⟨_, runs_carEntryEnd ha hl rfl, rfl, (getCar_setCar s l _ l).trans (if_pos rfl), fun m hm => (getCar_setCar s l _ m).trans (if_neg hm)⟩
  · refine applySnaps_none (List.filter_eq_nil_iff.mpr fun n hn => ?_)
    by_cases hp : snapPort s n = some l
    · simp [h n hn hp]
    · simp [hp]
  · unfold cycleSnaps applySnaps
    simp [hs, hp, hc]

end Sys2Proof.Machine

namespace Sys2Proof.Machine

/-! PROOFS. RELEASE and RELIST at the booth (R30, R31, R34, R46, R47). -/

/-- A store to host memory reports nothing. -/
theorem writeLoc_host (s : State) (a : Nat) (bs : List Byte) (p : Bool) : writeLoc s 0 a bs p = memWrite s 0 a bs p := by
  simp [writeLoc, noteRange, partBad, ueBlocks]

/-- What a reply of the booth leaves: the command is done, with the result that its first bytes give. -/
theorem boothReply_spec (s : State) (b : List Byte) :
    boothReply s b = { s with
      hostMem := (boothReply s b).hostMem, hostPoison := (boothReply s b).hostPoison, regs := (boothReply s b).regs
      booth := (boothReply s b).booth, hdrs := (boothReply s b).hdrs, crier := (boothReply s b).crier
      emitted := (boothReply s b).emitted, msix := (boothReply s b).msix } ∧
    (boothReply s b).booth = { s.booth with
      busy := false, seq := s.booth.seq + 1, lastResult := byteAt (padTo 64 b) 0, lastFail := byteAt (padTo 64 b) 1 } ∧
    (byteAt (padTo 64 b) 0 ≠ 1 → (boothReply s b).regs = s.regs) := by
  unfold boothReply
  extract_lets +onlyGivenNames r s1 s2
  have h1 : ∃ m p, s1 = { s with hostMem := m, hostPoison := p } := by
    unfold s1
    rw [writeLoc_host]
    unfold memWrite
    rw [if_pos rfl]
    split
    · exact ⟨_, _, rfl⟩
    · exact ⟨_, _, rfl⟩
  have h2 : ∃ g, s2 = { s1 with regs := g } ∧ (byteAt r 0 ≠ 1 → g = s1.regs) := by
    unfold s2
    split
    next h => exact ⟨_, rfl, fun h' => absurd h h'⟩
    next => exact ⟨_, rfl, fun _ => rfl⟩
  obtain ⟨g, h2, hg⟩ := h2
  obtain ⟨m, p, h1⟩ := h1
  clear_value s1 s2
  subst h1 h2
  rw [setEvt_frame]
  exact ⟨rfl, rfl, hg⟩

theorem boothCmd_idle {s : State} (op : State → State) (h : s.booth.busy = false) : boothCmd op s = op s := by
  simp [boothCmd, h]

theorem padTo_head {n : Nat} (a b : Byte) (t : List Byte) (h : 2 ≤ n) :
    byteAt (padTo n (a :: b :: t)) 0 = a.toNat ∧ byteAt (padTo n (a :: b :: t)) 1 = b.toNat := by
  obtain ⟨m, rfl⟩ : ∃ m, n = m + 2 := ⟨n - 2, by omega⟩
  simp [byteAt, padTo]

/-! ## RELEASE -/

theorem releaseOp_admitted {s : State} {c : Nat} {x : Ctx} (hx : getCtx s c = some x) (hk : x.kind = .admitted) :
    releaseOp c s = releaseCtx (boothReply s (padTo 16 [0] ++ toLE 2 c)) c x := by
  simp [releaseOp, hx, hk]

theorem releaseOp_other {s : State} {c : Nat} (h : ∀ x, getCtx s c = some x → x.kind ≠ .admitted) : releaseOp c s = replyInvalid s 0 := by
  unfold releaseOp
  cases hx : getCtx s c with
  | none => rfl
  | some x => exact if_pos (h x hx)

/-- A sensor port that a release boundary disconnects (R163). -/
def disconnect (s : State) (n : Nat) : State :=
  setHdr (boothField s (sensorPage n) 0 0x108 10 0 0x7FF) (sensorPage n)
    { hdr (boothField s (sensorPage n) 0 0x108 10 0 0x7FF) (sensorPage n) with enable := false, dropEnable := false }

theorem disconnects_ctxs (l : List Nat) (s : State) :
    (l.foldl disconnect s).ctxs = s.ctxs ∧ (l.foldl disconnect s).booth = s.booth :=
  List.foldlRecOn (motive := fun t : State => t.ctxs = s.ctxs ∧ t.booth = s.booth) l _ ⟨rfl, rfl⟩ fun _ h _ _ => h

theorem getCtx_congr {s t : State} (h : t.ctxs = s.ctxs) (c : Nat) : getCtx t c = getCtx s c := by
  unfold getCtx
  rw [h]

/-- A context that still holds pictures is not released yet. -/
theorem releaseCheck_pictures {s : State} {c : Nat} {x : Ctx} (hx : getCtx s c = some x) (hp : x.pics ≠ []) : releaseCheck s c = s := by
  unfold releaseCheck
  rw [hx]
  exact if_neg fun h => hp (List.isEmpty_iff.mp h.2.2.1)

/-- A release boundary disconnects ports; the contexts change by its mark only, and a context with pictures left goes on. -/
theorem releaseBoundary_pictures {s : State} {c : Nat} {x : Ctx} (hx : getCtx s c = some x) (hp : x.pics ≠ []) :
    (releaseBoundary s c).ctxs = nset s.ctxs c { x with rel := 2 } ∧ (releaseBoundary s c).booth = s.booth := by
  obtain ⟨l, hl⟩ : ∃ l : List Nat, releaseBoundary s c = releaseCheck (l.foldl disconnect (setCtx s c { x with rel := 2 })) c := by
    unfold releaseBoundary
    rw [hx]
    exact ⟨_, rfl⟩
  obtain ⟨hc, hb⟩ := disconnects_ctxs l (setCtx s c { x with rel := 2 })
  have hx' : getCtx (l.foldl disconnect (setCtx s c { x with rel := 2 })) c = some { x with rel := 2 } := by
    rw [getCtx_congr hc]; simp
  rw [hl, releaseCheck_pictures hx' hp]
  exact ⟨hc, hb⟩

theorem releaseCtx_frame_open {s : State} {c : Nat} {x : Ctx} (hr : x.rel = 0) (hf : x.frame.isSome = true) :
    releaseCtx s c x = setCtx s c { x with rel := 1 } := by
  simp [releaseCtx, hr, hf]

theorem releaseCtx_idle {s : State} {c : Nat} {x : Ctx} (hr : x.rel = 0) (hf : x.frame = none) (hq : x.encQ = []) :
    releaseCtx s c x = releaseBoundary (setCtx s c x) c := by
  have hx : { x with encQ := [] } = x := by rw [← hq]
  unfold releaseCtx
  rw [if_neg (by simp [hr]), if_neg (by simp [hf])]
  rw [hq, hx]
  rfl

/-! ## RELIST -/

/-- What a list takes from the admitted contexts: the longest growth of a closed time, and the largest loss of open time. -/
def listLosses (s : State) (l : Nat) (new : CarList) : List (Nat × Nat) :=
  (s.ctxs.filter fun e => e.2.kind == .admitted).map fun e => listLoss s l new e.2

theorem relistOp_valid {s : State} {h e : List Byte} (hh : memRead s 0 (reqAddr s) 32 = (h, none, false)) (hb : listBad h = none)
    (he : memRead s 0 (reqAddr s + 32) (4 * min 256 (leAt h 2 2)) = (e, none, false)) :
    relistOp s = if 0 < maxN ((listLosses s (byteAt h 0) (blockList (h ++ e))).map (·.1))
      then replyRefused s 0x0B (maxN ((listLosses s (byteAt h 0) (blockList (h ++ e))).map (·.1))) 0
      else if 0 < maxN ((listLosses s (byteAt h 0) (blockList (h ++ e))).map (·.2))
      then replyRefused s 0x0B (maxN ((listLosses s (byteAt h 0) (blockList (h ++ e))).map (·.2))) 0
      else boothReply (carCommit s (byteAt h 0) (blockList (h ++ e)) (hdr s (carPage (byteAt h 0 / 4))).commitGen) [0] := by
  unfold relistOp
  simp only [hh, hb, he]
  rfl

theorem foldl_max_eq (l : List Nat) : ∀ m, l.foldl max m = max m (maxN l) := by
  unfold maxN
  induction l with
  | nil => simp
  | cons a l ih =>
    intro m
    rw [List.foldl_cons, List.foldl_cons, ih, ih (max 0 a)]
    omega

theorem maxN_cons (a : Nat) (l : List Nat) : maxN (a :: l) = max a (maxN l) := by
  rw [maxN, List.foldl_cons, foldl_max_eq]
  omega

theorem maxN_zero {l : List Nat} (h : ∀ n ∈ l, n = 0) : maxN l = 0 := by
  induction l with
  | nil => rfl
  | cons a l ih =>
    rw [maxN_cons, ih fun n hn => h n (.tail _ hn), h a (.head _)]
    rfl

theorem le_maxN {l : List Nat} {n : Nat} (h : n ∈ l) : n ≤ maxN l := by
  induction l with
  | nil => cases h
  | cons a l ih =>
    rw [maxN_cons]
    rcases List.mem_cons.mp h with rfl | h
    · exact Nat.le_max_left _ _
    · exact (ih h).trans (Nat.le_max_right _ _)

/-- A list that costs an admitted stream something is refused with FAIL_RES 0x0B. -/
theorem relistOp_refused {s : State} {h e : List Byte} {x : Nat × Ctx} (hh : memRead s 0 (reqAddr s) 32 = (h, none, false))
    (hb : listBad h = none) (he : memRead s 0 (reqAddr s + 32) (4 * min 256 (leAt h 2 2)) = (e, none, false)) (hx : x ∈ s.ctxs)
    (hk : x.2.kind = .admitted) (hl : listLoss s (byteAt h 0) (blockList (h ++ e)) x.2 ≠ (0, 0)) :
    ∃ n, relistOp s = replyRefused s 0x0B n 0 := by
  have hm : listLoss s (byteAt h 0) (blockList (h ++ e)) x.2 ∈ listLosses s (byteAt h 0) (blockList (h ++ e)) :=
    List.mem_map.mpr ⟨x, List.mem_filter.mpr ⟨hx, by simp [hk]⟩, rfl⟩
  rw [relistOp_valid hh hb he]
  split
  · exact ⟨_, rfl⟩
  next h1 =>
    have h2 := le_maxN (List.mem_map.mpr ⟨_, hm, rfl⟩ : _ ∈ (listLosses s (byteAt h 0) (blockList (h ++ e))).map (·.1))
    have h3 := le_maxN (List.mem_map.mpr ⟨_, hm, rfl⟩ : _ ∈ (listLosses s (byteAt h 0) (blockList (h ++ e))).map (·.2))
    have hpos : 0 < maxN ((listLosses s (byteAt h 0) (blockList (h ++ e))).map (·.2)) := by
      by_contra h4
      exact hl (Prod.ext (Nat.le_zero.mp (h2.trans (Nat.not_lt.mp h1))) (Nat.le_zero.mp (h3.trans (Nat.not_lt.mp h4))))
    rw [if_pos hpos]
    exact ⟨_, rfl⟩

/-- A list that costs no admitted stream anything becomes pending. -/
theorem relistOp_accepted {s : State} {h e : List Byte} (hh : memRead s 0 (reqAddr s) 32 = (h, none, false))
    (hb : listBad h = none) (he : memRead s 0 (reqAddr s + 32) (4 * min 256 (leAt h 2 2)) = (e, none, false))
    (hl : ∀ x ∈ s.ctxs, x.2.kind = .admitted → listLoss s (byteAt h 0) (blockList (h ++ e)) x.2 = (0, 0)) :
    relistOp s = boothReply (carCommit s (byteAt h 0) (blockList (h ++ e)) (hdr s (carPage (byteAt h 0 / 4))).commitGen) [0] := by
  have hz : ∀ r ∈ listLosses s (byteAt h 0) (blockList (h ++ e)), r = (0, 0) := fun r hr => by
    obtain ⟨x, hx, rfl⟩ := List.mem_map.mp hr
    obtain ⟨hm, hk⟩ := List.mem_filter.mp hx
    exact hl x hm (by simpa using hk)
  have h1 : maxN ((listLosses s (byteAt h 0) (blockList (h ++ e))).map (·.1)) = 0 := maxN_zero fun n hn => by
    obtain ⟨r, hr, rfl⟩ := List.mem_map.mp hn
    rw [hz r hr]
  have h2 : maxN ((listLosses s (byteAt h 0) (blockList (h ++ e))).map (·.2)) = 0 := maxN_zero fun n hn => by
    obtain ⟨r, hr, rfl⟩ := List.mem_map.mp hn
    rw [hz r hr]
  rw [relistOp_valid hh hb he, h1, h2]
  rfl

theorem carCommit_spec (s : State) (l : Nat) (new : CarList) (g : BitVec 16) :
    carCommit s l new g = { s with cars := (carCommit s l new g).cars } ∧
    (getCar (carCommit s l new g) l).pend = some ⟨new, g, (carStart s.dt new.base new.cycle).1⟩ ∧
    (getCar (carCommit s l new g) l).oper = (getCar s l).oper ∧ ∀ m, m ≠ l → getCar (carCommit s l new g) m = getCar s m := by
  refine ⟨rfl, ?_, ?_, fun m hm => (getCar_setCar _ _ _ _).trans (if_neg hm)⟩
  · simp [carCommit]
  · simp [carCommit]

theorem released_head (c : Nat) : byteAt (padTo 64 (padTo 16 [0] ++ toLE 2 c)) 0 = 0 := rfl

/-- Settles O12. -/
theorem boothReleaseRelist : Obligations.BoothReleaseRelist := by
  refine ⟨fun s rq c x h hi hx hk hr hf => ?_, fun s rq c x h hi hx hk hr hf hq hp => ?_, fun s rq c h hi hx => ?_,
    fun s rq hd e' l h hi hh hb he hl hz => ?_, fun s rq hd e' l x h hi hh hb he hl hx hk hz => ?_⟩
  · obtain ⟨hfr, hbo, hrg⟩ := boothReply_spec s (padTo 16 [0] ++ toLE 2 (c % 2048))
    have h0 := released_head (c % 2048)
    have e := (releaseOp_admitted hx hk).trans (releaseCtx_frame_open (s := boothReply s (padTo 16 [0] ++ toLE 2 (c % 2048))) (c := c % 2048) hr hf)
    generalize boothReply s (padTo 16 [0] ++ toLE 2 (c % 2048)) = u at *
    refine ⟨_, runs_reg_to rfl h ((boothCmd_idle _ hi).trans e), ?_, ?_, ?_, ?_⟩
    · rw [setCtx_ctxs, hfr]
    · rw [setCtx_booth, hbo]; exact h0
    · rw [setCtx_booth, hbo]
    · rw [setCtx, hfr, hrg (by rw [h0]; decide)]
  · obtain ⟨hfr, hbo, -⟩ := boothReply_spec s (padTo 16 [0] ++ toLE 2 (c % 2048))
    have h0 := released_head (c % 2048)
    have e := (releaseOp_admitted hx hk).trans (releaseCtx_idle (s := boothReply s (padTo 16 [0] ++ toLE 2 (c % 2048))) (c := c % 2048) hr hf hq)
    generalize boothReply s (padTo 16 [0] ++ toLE 2 (c % 2048)) = u at *
    obtain ⟨hc, hb⟩ := releaseBoundary_pictures (s := setCtx u (c % 2048) x) (c := c % 2048) ((getCtx_setCtx u _ x _).trans (if_pos rfl)) hp
    refine ⟨_, runs_reg_to rfl h ((boothCmd_idle _ hi).trans e), ?_, ?_⟩
    · rw [hc, setCtx_ctxs, nset_nset, hfr]
    · rw [hb, setCtx_booth, hbo]; exact h0
  · obtain ⟨hfr, hbo, -⟩ := boothReply_spec s (invalidReply 0)
    refine ⟨_, runs_reg_to rfl h ((boothCmd_idle _ hi).trans (releaseOp_other hx)), ?_, ?_, ?_⟩
    · rw [replyInvalid, hfr]
    · rw [replyInvalid, hbo]; rfl
    · rw [replyInvalid, hbo]
  · subst hl
    have e := relistOp_accepted hh hb he hz
    obtain ⟨hfr, hbo, -⟩ := boothReply_spec
      (carCommit s (byteAt hd 0) (blockList (hd ++ e')) (hdr s (carPage (byteAt hd 0 / 4))).commitGen) [0]
    have hcar : ∀ m, getCar (boothReply (carCommit s (byteAt hd 0) (blockList (hd ++ e')) (hdr s (carPage (byteAt hd 0 / 4))).commitGen) [0]) m =
        getCar (carCommit s (byteAt hd 0) (blockList (hd ++ e')) (hdr s (carPage (byteAt hd 0 / 4))).commitGen) m := fun m => by
      rw [hfr]; rfl
    obtain ⟨hcf, hpend, hoper, hother⟩ :=
      carCommit_spec s (byteAt hd 0) (blockList (hd ++ e')) (hdr s (carPage (byteAt hd 0 / 4))).commitGen
    refine ⟨_, runs_reg_to rfl h ((boothCmd_idle _ hi).trans e), ?_, ?_, ?_, ?_, fun m hm => ?_⟩
    · rw [hbo]; rfl
    · rw [hfr, hcf]
    · rw [hcar, hpend]
    · rw [hcar, hoper]
    · rw [hcar, hother m hm]
  · subst hl
    obtain ⟨n, e⟩ := relistOp_refused hh hb he hx hk hz
    obtain ⟨hfr, hbo, -⟩ := boothReply_spec s (refusedReply 0x0B n 0)
    refine ⟨_, runs_reg_to rfl h ((boothCmd_idle _ hi).trans e), ?_, ?_, ?_, ?_⟩
    · rw [replyRefused, hbo]; rfl
    · rw [replyRefused, hbo]; rfl
    · rw [replyRefused, hfr]
    · rw [replyRefused, hfr]

end Sys2Proof.Machine

namespace Sys2Proof.Machine

/-! PROOFS. The Granary: ALLOC, FREE, CANCEL, RECLAIM, minima and pools (R253 to R263). -/

/-- Reports leave pools and result registers alone. -/
theorem Noted.granary {s t : State} (h : Noted s t) : t.pools = s.pools ∧ t.grnRes = s.grnRes := by
  rw [h.frame]
  exact ⟨rfl, rfl⟩

theorem getPool_congr {s t : State} (h : t.pools = s.pools) (p : Nat) : getPool t p = getPool s p := by
  unfold getPool
  rw [h]

theorem getRes_setRes (s : State) (r : Nat) (x : GrnRes) (q : Nat) : getRes (setRes s r x) q = if q = r then x else getRes s q := by
  simp [getRes, setRes, ngetD_nset]

/-- A finished operation: the pools stand, the registers but for the counters' page stand, and its result is shown. -/
theorem grnDone_spec (s : State) (r code nfreed : Nat) (addr : Option Nat) :
    (grnDone s r code nfreed addr).pools = s.pools ∧ (grnDone s r code nfreed addr).regs = s.regs ∧
    getRes (grnDone s r code nfreed addr) r = { getRes s r with
      done := true, waiting := false, code := code, nfreed := nfreed
      addr := match addr with | some a => BitVec.ofNat 64 a | none => (getRes s r).addr } := by
  unfold grnDone
  rw [setEvt_frame]
  exact ⟨rfl, rfl, (getRes_setRes _ _ _ _).trans (if_pos rfl)⟩

theorem grnEnter_steward {s : State} {n : Fin 4} {o : Nat} (reclaim : Bool) (op : State → State)
    (hw : (getRes s (n.val + 1)).waiting = false) (hu : blockUp s grnPg = true) (ho : o < 0x440) :
    grnEnter (.steward n) o reclaim op s = op s := by
  have hr : (getRes s (rqIx (.steward n))).waiting = false := hw
  simp [grnEnter, hr, hu, grnDenied, ownerOk, ho, isSteward]

/-- A host operation for a context is denied and counted (R262). -/
theorem grnEnter_host {s : State} {o : Nat} (reclaim : Bool) (op : State → State) (hw : (getRes s 0).waiting = false)
    (hu : blockUp s grnPg = true) (ho : o < 0x420) : grnEnter .host o reclaim op s = grnDone (bump s grnPg 0 0x15C 1) 0 7 0 none := by
  have hr : (getRes s (rqIx .host)).waiting = false := hw
  have h1 : o < 0x440 := by omega
  simp [grnEnter, hr, hu, grnDenied, ownerOk, h1, hostOwner, Nat.not_le.mpr ho]
  rfl

/-! ## The operations -/

theorem grnAllocOp_grants {s : State} {rq : Requester} {o p i : Nat} {x : Pool} (w : Bool) (hp : poolUp (getPool s p) = true)
    (hd : grnDecide (getPool s p) o = some (i, x)) : grnAllocOp rq o p w s =
      grnDone (evG 0x108 (setPool s p x)) (rqIx rq) 0 0 (some (poolBase s p + i * poolSize s p)) := by
  simp [grnAllocOp, hp, hd]

theorem grnAllocOp_empty {s : State} {rq : Requester} {o p : Nat} (hp : poolUp (getPool s p) = true)
    (hd : grnDecide (getPool s p) o = none) : grnAllocOp rq o p false s = grnDone (evG 0x109 s) (rqIx rq) 1 0 none := by
  simp [grnAllocOp, hp, hd]

theorem grnAllocOp_waits {s : State} {rq : Requester} {o p : Nat} (hp : poolUp (getPool s p) = true)
    (hd : grnDecide (getPool s p) o = none) (hl : (getPool s p).waiters.length < 64) : grnAllocOp rq o p true s =
      setRes (setPool s p { getPool s p with waiters := (getPool s p).waiters ++ [⟨.req rq, o, s.tick⟩] }) (rqIx rq)
        { getRes s (rqIx rq) with done := false, waiting := true } := by
  simp [grnAllocOp, hp, hd, hl]

/-- With no waiter there is none to test after a FREE or RECLAIM. -/
theorem testHead_none {s : State} {p : Nat} (h : (getPool s p).waiters = []) : testHead s p = s := by
  have hc : xreqContend s p = s := xreqContend_calm (.inl (by simp [h]))
  simp [testHead, hc, h]

theorem rejectFree_pools (s : State) (p a o code : Nat) : (rejectFree s p a o code).pools = s.pools := by
  unfold rejectFree
  exact (raiseFault_noted _ _ _ _).granary.1

theorem grnFree_ok {s : State} {p a o : Nat} (hc : freeCheck s p a o = 0) (hw : (getPool s p).waiters = []) :
    grnFree s p a o = (0, setPool s p (pushBack (getPool s p) ((a - poolBase s p) / poolSize s p))) := by
  unfold grnFree
  rw [hc]
  dsimp only
  rw [if_pos rfl, testHead_none]
  rw [getPool_setPool, if_pos rfl]
  exact hw

theorem grnFree_rejected {s : State} {p a o : Nat} (hc : freeCheck s p a o ≠ 0) (hw : (getPool s p).waiters = []) :
    (grnFree s p a o).1 = freeCheck s p a o ∧ (grnFree s p a o).2.pools = s.pools := by
  unfold grnFree
  dsimp only
  rw [if_neg hc]
  split
  next h => exact ⟨h.symm, rfl⟩
  next =>
    have hp := rejectFree_pools s p a o (freeCheck s p a o)
    rw [testHead_none (by rw [getPool_congr hp]; exact hw)]
    exact ⟨rfl, hp⟩

theorem reclaimPool_waiters (x : Pool) (o : Nat) : (reclaimPool x o).waiters = x.waiters :=
  List.foldlRecOn (motive := fun y : Pool => y.waiters = x.waiters) _ _ rfl fun _ h _ _ => h

theorem grnReclaimOp_calm {s : State} {rq : Requester} {o p : Nat} (hp : poolUp (getPool s p) = true) (hw : (getPool s p).waiters = []) :
    grnReclaimOp rq o p s = grnDone (setPool s p (reclaimPool (getPool s p) o)) (rqIx rq) 0 (inUse (getPool s p) o) none := by
  simp only [grnReclaimOp, hp]
  rw [testHead_none]
  · rfl
  · rw [getPool_setPool, if_pos rfl, reclaimPool_waiters]
    exact hw

theorem grnMinOp_refused {s : State} {n : Fin 4} {o p m : Nat} (hu : blockUp s grnPg = true) (h : 0x440 ≤ o ∨ setMin s p o m = none) :
    grnMinOp (.steward n) o p m s = setEvt (bump s grnPg 0 0x160 1) grnPg 2 := by
  have hm : (if ownerOk o then setMin s p o m else none) = none := by
    rcases h with h | h
    · simp [ownerOk, Nat.not_lt.mpr h]
    · simp [h]
  simp [grnMinOp, isSteward, hu, hm]

/-- The pools after a requester left every wait list. -/
def leaveWaits (s : State) (rq : Requester) : State :=
  { s with pools := s.pools.map fun e => (e.1, { e.2 with waiters := e.2.waiters.filter fun w => w.who != .req rq }) }

theorem leaveWaits_gone (s : State) (rq : Requester) : ∀ e ∈ (leaveWaits s rq).pools, ∀ w ∈ e.2.waiters, w.who ≠ .req rq := by
  intro e he w hw
  obtain ⟨e', -, rfl⟩ := List.mem_map.mp he
  simpa using (List.mem_filter.mp hw).2

/-- Settles O18. -/
theorem granaryAlloc : Obligations.GranaryAlloc := by
  refine ⟨fun s n o p i x h hw hu ho hp hd w => ?_, fun s n o p h hw hu ho hp hd => ⟨?_, fun hl => ?_⟩,
    fun s n o p a h hw hu ho hc hn => ?_, fun s n o p a h hw hu ho hc hn => ?_, fun s rq h hw hu => ?_,
    fun s n o p h hw hu ho hp hn => ?_, fun s n o p m t h hu ho hm => ?_, fun s n o p m h hu hm => ?_, fun s o p w h hw hu ho => ?_⟩
  · obtain ⟨hpl, -, hr⟩ := grnDone_spec (evG 0x108 (setPool s p x)) (n.val + 1) 0 0 (some (poolBase s p + i * poolSize s p))
    have hev : (evG 0x108 (setPool s p x)).pools = (setPool s p x).pools := (evG_told 0x108 _).noted.granary.1
    have hpool := getPool_congr (hpl.trans hev)
    refine ⟨_, runs_reg_to rfl h ((grnEnter_steward false _ hw hu ho).trans (grnAllocOp_grants w hp hd)), ?_, fun q hq => ?_, ?_, ?_, ?_⟩
    · exact (hpool p).trans ((getPool_setPool _ _ _ _).trans (if_pos rfl))
    · exact (hpool q).trans ((getPool_setPool _ _ _ _).trans (if_neg hq))
    all_goals exact (congrArg _ hr).trans rfl
  · obtain ⟨hpl, -, hr⟩ := grnDone_spec (evG 0x109 s) (n.val + 1) 1 0 none
    refine ⟨_, runs_reg_to rfl h ((grnEnter_steward false _ hw hu ho).trans (grnAllocOp_empty hp hd)),
      hpl.trans (evG_told 0x109 _).noted.granary.1, ?_, ?_⟩
    all_goals exact (congrArg _ hr).trans rfl
  · refine ⟨_, runs_reg_to rfl h ((grnEnter_steward false _ hw hu ho).trans (grnAllocOp_waits hp hd hl)), ?_, ?_, ?_⟩
    · exact (getPool_setPool _ _ _ _).trans (if_pos rfl)
    all_goals exact (congrArg _ ((getRes_setRes _ _ _ _).trans (if_pos rfl))).trans rfl
  · have e : grnFreeOp (.steward n) o.toNat p a s = _ := congrArg (fun f : Nat × State => grnDone f.2 (n.val + 1) f.1 0 none) (grnFree_ok hc hn)
    obtain ⟨hpl, -, hr⟩ := grnDone_spec (setPool s p (pushBack (getPool s p) ((a - poolBase s p) / poolSize s p))) (n.val + 1) 0 0 none
    refine ⟨_, runs_reg_to rfl h ((grnEnter_steward false _ hw hu ho).trans e), ?_, (congrArg GrnRes.code hr).trans rfl⟩
    exact (getPool_congr hpl p).trans ((getPool_setPool _ _ _ _).trans (if_pos rfl))
  · obtain ⟨h1, h2⟩ := grnFree_rejected hc hn
    obtain ⟨hpl, -, hr⟩ := grnDone_spec (grnFree s p a o.toNat).2 (n.val + 1) (grnFree s p a o.toNat).1 0 none
    exact ⟨_, runs_reg_to rfl h (grnEnter_steward false _ hw hu ho), hpl.trans h2, (congrArg GrnRes.code hr).trans h1⟩
  · have e : grnCancelOp rq s = grnDone (leaveWaits s rq) (rqIx rq) 9 0 none := if_pos (by simp [hw, hu])
    obtain ⟨hpl, -, hr⟩ := grnDone_spec (leaveWaits s rq) (rqIx rq) 9 0 none
    refine ⟨_, runs_reg_to rfl h e, (congrArg GrnRes.code hr).trans rfl, (congrArg GrnRes.waiting hr).trans rfl, ?_⟩
    rw [hpl]
    exact leaveWaits_gone s rq
  · have e := grnReclaimOp_calm (rq := .steward n) (o := o.toNat) hp hn
    obtain ⟨hpl, -, hr⟩ := grnDone_spec (setPool s p (reclaimPool (getPool s p) o.toNat)) (n.val + 1) 0 (inUse (getPool s p) o.toNat) none
    refine ⟨_, runs_reg_to rfl h ((grnEnter_steward true _ hw hu ho).trans e), ?_, (congrArg GrnRes.code hr).trans rfl,
      (congrArg GrnRes.nfreed hr).trans rfl⟩
    exact (getPool_congr hpl p).trans ((getPool_setPool _ _ _ _).trans (if_pos rfl))
  · exact runs_reg_to rfl h (by simp [grnMinOp, isSteward, hu, ownerOk, ho, hm])
  · refine ⟨_, runs_reg_to rfl h (grnMinOp_refused hu hm), ?_, ?_⟩
    · rw [setEvt_frame]; rfl
    · rw [setEvt_frame]; exact rgetN_bump s grnPg 0 0x160 1
  · obtain ⟨hpl, hrg, hr⟩ := grnDone_spec (bump s grnPg 0 0x15C 1) 0 7 0 none
    refine ⟨_, runs_reg_to rfl h (grnEnter_host false _ hw hu ho), hpl, (congrArg GrnRes.code hr).trans rfl, ?_⟩
    have hb := rgetN_bump s grnPg 0 0x15C 1
    unfold rgetN rget at hb ⊢
    rw [hrg]
    exact hb

/-! ## Pools -/

/-- The head waiter, a register requester that has waited its time, leaves with TIMEOUT (R259). -/
theorem grnTimeoutOp_head {s : State} {p o a : Nat} {rq : Requester} {rest : List Waiter}
    (hw : (getPool s p).waiters = ⟨.req rq, o, a⟩ :: rest) (h0 : rbits s grnPg 0 0x120 23 0 ≠ 0)
    (hl : rbits s grnPg 0 0x120 23 0 * 100 ≤ s.tick - a) : grnTimeoutOp p s =
      setEvt (grnDone (evG 0x109 (setPool s p { getPool s p with
        waiters := (getPool s p).waiters.filter fun v => v != ⟨.req rq, o, a⟩ })) (rqIx rq) 8 0 none) grnPg 1 := by
  have hf : ((getPool s p).waiters.find? fun w => decide (rbits s grnPg 0 0x120 23 0 ≠ 0 ∧ rbits s grnPg 0 0x120 23 0 * 100 ≤ s.tick - w.at_)) =
      some ⟨.req rq, o, a⟩ := by
    rw [hw, List.find?_cons_of_pos]
    simpa using ⟨h0, hl⟩
  unfold grnTimeoutOp
  dsimp only
  rw [hf]
  rfl

/-- Settles O19. -/
theorem granaryPools : Obligations.GranaryPools := by
  refine ⟨fun s rq p h he hb => ?_, fun s rq p h he hb => ?_, fun s p ha he hr => ?_, fun s rq p h he ht hw => ?_,
    fun s rq p h he ht => ?_, fun s p rq o a rest ha hw h0 hl => ?_⟩
  · exact runs_reg_to rfl h (by simp [poolEnableOp, he, hb])
  · exact ⟨_, runs_reg_to rfl h (show poolEnableOp p s = bump s grnPg 0 0x164 1 by simp [poolEnableOp, he, hb]), rfl, rgetN_bump _ _ _ _ _⟩
  · exact runs_act_to rfl ha (by simp [poolReadyOp, he, hr])
  · exact runs_reg_to rfl h (by simp [poolDisableOp, he, ht, hw])
  · exact ⟨_, runs_reg_to rfl h (show poolDisableOp p s = bump s grnPg 0 0x164 1 by simp [poolDisableOp, he, ht]), rfl, rgetN_bump _ _ _ _ _⟩
  · have hp : ∀ (u : State) b, (setEvt u grnPg b).pools = u.pools ∧ (setEvt u grnPg b).grnRes = u.grnRes := fun u b =>
      (setEvt_noted u grnPg b).granary
    have hev := (evG_told 0x109 (setPool s p { getPool s p with
      waiters := (getPool s p).waiters.filter fun v => v != ⟨.req rq, o, a⟩ })).noted.granary
    refine ⟨_, runs_act_to rfl ha (grnTimeoutOp_head hw h0 hl), ?_, ?_, ?_⟩
    all_goals generalize evG 0x109 _ = u at *
    all_goals obtain ⟨hpl, -, hr⟩ := grnDone_spec u (rqIx rq) 8 0 none
    · rw [getPool_congr ((hp _ 1).1.trans (hpl.trans hev.1)), getPool_setPool, if_pos rfl]
      dsimp only
      rw [hw, List.filter_cons_of_neg (by simp)]
    · have hres : getRes (setEvt (grnDone u (rqIx rq) 8 0 none) grnPg 1) (rqIx rq) = getRes (grnDone u (rqIx rq) 8 0 none) (rqIx rq) := by
        unfold getRes; rw [(hp _ 1).2]
      rw [hres, hr]
    · have hres : getRes (setEvt (grnDone u (rqIx rq) 8 0 none) grnPg 1) (rqIx rq) = getRes (grnDone u (rqIx rq) 8 0 none) (rqIx rq) := by
        unfold getRes; rw [(hp _ 1).2]
      rw [hres, hr]

end Sys2Proof.Machine

namespace Sys2Proof.Machine

/-! PROOFS. Doorbells and completions of the work queues (R288 to R291, R302 to R306). -/

theorem setQ_setQ (s : State) (q : Nat) (x y : Queue) : setQ (setQ s q x) q y = setQ s q y := by
  simp [setQ, nset_nset]

theorem getQ_congr {s t : State} (h : t.queues = s.queues) (q : Nat) : getQ t q = getQ s q := by
  unfold getQ
  rw [h]

theorem MemNoted.queues {s t : State} (h : MemNoted s t) : t.queues = s.queues := by rw [h.frame]

theorem writeLoc_queues (s : State) (loc a : Nat) (bs : List Byte) (p : Bool) : (writeLoc s loc a bs p).queues = s.queues := by
  rw [(writeLoc_memNoted s loc a bs p).queues, memWrite_frame]

/-- A store's effect on memory, whatever it reports. -/
theorem writeLoc_mem (s : State) (loc a : Nat) (bs : List Byte) (p : Bool) :
    (writeLoc s loc a bs p).hostMem = (memWrite s loc a bs p).hostMem ∧ (writeLoc s loc a bs p).hbm = (memWrite s loc a bs p).hbm :=
  have h := (writeLoc_memNoted s loc a bs p).sameStore
  ⟨h.hostMem, h.hbm⟩

/-- A queue's update does not touch what a store reads. -/
theorem sameStore_setQ (s : State) (q : Nat) (x : Queue) : SameStore s (setQ s q x) := ⟨rfl, rfl, rfl, fun _ _ => rfl⟩

/-! ## Doorbells -/

theorem doorbell_op {s : State} {q off : Nat} {op : State → State} (hb : busUp s = true) (hs : s.boot.st = 7) (hd : s.pwr.st ≠ 2)
    (hf : s.flt.fault = false) (hr : (hdr s qmgrPg).inReset = false) (he : (getQ s q).enable = true) :
    doorbell q off 15 op s = op s := by
  simp [doorbell, hb, hs, hd, hf, hr, he]

theorem doorbell_disabled {s : State} {q off : Nat} {op : State → State} (hb : busUp s = true) (hs : s.boot.st = 7) (hd : s.pwr.st ≠ 2)
    (hf : s.flt.fault = false) (hr : (hdr s qmgrPg).inReset = false) (he : (getQ s q).enable = false) :
    doorbell q off 15 op s = bump s qmgrPg q 0x24C 1 := by
  simp [doorbell, hb, hs, hd, hf, hr, he]

theorem doorbell_partial {s : State} {q off : Nat} {be : BitVec 4} {op : State → State} (hb : busUp s = true) (hs : s.boot.st = 7)
    (hd : s.pwr.st ≠ 2) (hf : s.flt.fault = false) (h0 : be ≠ 0) (h15 : be ≠ 15) : doorbell q off be op s = badSize s (q * 4096 + off) := by
  have e0 : be ≠ 0#4 := h0
  have e15 : be ≠ 15#4 := h15
  simp [doorbell, hb, hs, hd, hf, e0, e15]

theorem doorbell_fault {s : State} {q off : Nat} {be : BitVec 4} {op : State → State} (hb : busUp s = true) (hs : s.boot.st = 7)
    (hd : s.pwr.st ≠ 2) (hf : s.flt.fault = true) (h0 : be ≠ 0) : doorbell q off be op s = bump s fltPg 0 0x138 1 := by
  have e0 : be ≠ 0#4 := h0
  simp [doorbell, hb, hs, hd, hf, e0]

/-- A discarded value is counted and signalled; the queues stand. -/
theorem dbBad_spec (s : State) (q : Nat) : rgetN (dbBad s q) qmgrPg q 0x24C = min 0xFFFFFFFF (rgetN s qmgrPg q 0x24C + 1) ∧
    (hdr (dbBad s q) qmgrPg).evtPend.getLsbD 2 = true ∧
    dbBad s q = { s with regs := (dbBad s q).regs, hdrs := (dbBad s q).hdrs, crier := (dbBad s q).crier
                         emitted := (dbBad s q).emitted, msix := (dbBad s q).msix } := by
  have hk : rkey qmgrPg q 0x24C ≠ rkey qmgrPg 0 0x104 := by unfold rkey; omega
  refine ⟨?_, setEvt_pend _ _ _ (by decide), ?_⟩
  · unfold dbBad qEvt
    rw [setEvt_frame]
    refine (congrArg BitVec.toNat (?_ : rget (rputN (bump s qmgrPg q 0x24C 1) qmgrPg 0 0x104 q) qmgrPg q 0x24C =
      rget (bump s qmgrPg q 0x24C 1) qmgrPg q 0x24C)).trans (rgetN_bump s qmgrPg q 0x24C 1)
    rw [rputN, rget_rput_key, if_neg hk]
  · unfold dbBad qEvt
    rw [setEvt_frame]
    rfl

theorem findIx_none {α : Type} {p : α → Bool} {l : List α} (h : ∀ x ∈ l, p x = false) (i : Nat) : findIx p l i = none := by
  induction l generalizing i with
  | nil => rfl
  | cons x l ih =>
    rw [findIx, if_neg (by simp [h x (.head _)])]
    exact ih (fun y hy => h y (.tail _ hy)) _

theorem findIx_append {α : Type} {p : α → Bool} {w : List α} {c : α} {l : List α} (hw : ∀ x ∈ w, p x = false) (hc : p c = true) (i : Nat) :
    findIx p (w ++ c :: l) i = some (i + w.length, c) := by
  induction w generalizing i with
  | nil => simp [findIx, hc]
  | cons x w ih =>
    rw [List.cons_append, findIx, if_neg (by simp [hw x (.head _)]), ih (fun y hy => hw y (.tail _ hy)), List.length_cons,
      Nat.add_assoc, Nat.add_comm 1]

theorem unstage_none {s : State} {q f : Nat} (h : ∀ c ∈ (getQ s q).slots, c.st ≠ 2) :
    unstage (f + 1) s q = setQ s q { getQ s q with stalled := false } := by
  unfold unstage
  dsimp only
  rw [findIx_none fun c hc => by simpa using h c hc]

/-- Settles O23. -/
theorem queueDoorbells : Obligations.QueueDoorbells := by
  refine ⟨fun s q v hb hs hd hf hr he hv hl ht => ?_, fun s q v hb hs hd hf hr he hn => ?_, fun s q v hb hs hd hf hr he hv hl hc => ?_,
    fun s q v hb hs hd hf hr he => ?_, fun s q be v hb hs hd hf h0 h15 => ?_, fun s q be v hb hs hd hf h0 => ?_⟩
  · exact runs_next rfl ((doorbell_op hb hs hd hf hr he).trans (if_pos (by simp [hv, hl, ht])))
  · have e : sqDb q v.toNat s = dbBad s q := if_neg (by simpa using hn)
    exact ⟨_, runs_next rfl ((doorbell_op hb hs hd hf hr he).trans e), dbBad_spec s q⟩
  · have e : crDone q v.toNat s = unstage 321 (setQ s q { getQ s q with done := posOf (getQ s q).n v.toNat }) q := if_pos (by simp [hv, hl])
    have hq : getQ (setQ s q { getQ s q with done := posOf (getQ s q).n v.toNat }) q = _ := (getQ_setQ _ _ _ _).trans (if_pos rfl)
    refine runs_next rfl ((doorbell_op hb hs hd hf hr he).trans (e.trans ?_))
    rw [unstage_none (by rw [hq]; exact hc), hq, setQ_setQ]
  · refine ⟨_, runs_next rfl (doorbell_disabled hb hs hd hf hr he), runs_next rfl (doorbell_disabled hb hs hd hf hr he), rfl, rgetN_bump _ _ _ _ _⟩
  · obtain ⟨hr, hc, -, -⟩ := topCount_spec s 0x104 (q * 4096 + 0) (by decide) (by decide)
    exact ⟨_, runs_next rfl (doorbell_partial hb hs hd hf h0 h15), hr, hc⟩
  · exact ⟨_, runs_next rfl (doorbell_fault hb hs hd hf h0), rfl, rgetN_bump _ _ _ _ _⟩

end Sys2Proof.Machine

namespace Sys2Proof.Machine

/-! PROOFS. Completion rings, and the control of a queue (R302 to R310). -/

theorem Noted.queues {s t : State} (h : Noted s t) : t.queues = s.queues := by rw [h.frame]

/-- A completion written to the ring: memory as the store leaves it, the position advanced, the slot marked written. -/
theorem writeCe_spec (s : State) (q i : Nat) (ce : List Byte) :
    (writeCe s q i ce).hostMem = (memWrite s (crLoc (getQ s q)) ((getQ s q).crBase + 32 * ((getQ s q).wr % 2 ^ (getQ s q).n)) ce false).hostMem ∧
    (writeCe s q i ce).hbm = (memWrite s (crLoc (getQ s q)) ((getQ s q).crBase + 32 * ((getQ s q).wr % 2 ^ (getQ s q).n)) ce false).hbm ∧
    getQ (writeCe s q i ce) q = { getQ s q with
      wr := fifoAdd (getQ s q).n (getQ s q).wr 1
      slots := (getQ s q).slots.set i { getIx (getQ s q).slots i { id := 0, se := false, irq := false } with st := 3, ce := ce } } ∧
    ∀ k, k ≠ q → getQ (writeCe s q i ce) k = getQ s k := by
  obtain ⟨hm, hb⟩ := writeLoc_mem s (crLoc (getQ s q)) ((getQ s q).crBase + 32 * ((getQ s q).wr % 2 ^ (getQ s q).n)) ce false
  have hq := writeLoc_queues s (crLoc (getQ s q)) ((getQ s q).crBase + 32 * ((getQ s q).wr % 2 ^ (getQ s q).n)) ce false
  unfold writeCe
  dsimp only
  generalize writeLoc s (crLoc (getQ s q)) ((getQ s q).crBase + 32 * ((getQ s q).wr % 2 ^ (getQ s q).n)) ce false = u at *
  have hn := fun x => (evG_told 0x10E (setQ u q x)).noted
  refine ⟨?_, ?_, ?_, fun k hk => ?_⟩
  · rw [(hn _).frame]; exact hm
  · rw [(hn _).frame]; exact hb
  · rw [getQ_congr (hn _).queues, getQ_setQ, if_pos rfl]
  · rw [getQ_congr (hn _).queues, getQ_setQ, if_neg hk, getQ_congr hq]

theorem getIx_append {α : Type} (w : List α) (c : α) (l : List α) (d : α) : getIx (w ++ c :: l) w.length d = c := by
  simp [getIx]

theorem set_append_length {α : Type} (w : List α) (c c' : α) (l : List α) : (w ++ c :: l).set w.length c' = w ++ c' :: l := by
  simp

/-- The first finished slot after written ones is found, and no completion is staged. -/
theorem ceReady_first {s : State} {q : Nat} {w rest : List CSlot} {c : CSlot} (hs : (getQ s q).slots = w ++ c :: rest)
    (hw : ∀ d ∈ w, d.st = 3) (hc : c.st = 1) : ceReady q s =
      if crRoom (getQ s q) && stagedN (getQ s q) == 0 then writeCe s q w.length c.ce
      else
        let y := { getQ s q with slots := (getQ s q).slots.set w.length { c with st := 2 } }
        evG 0x10F (if stagedN y = 64 ∧ (getQ s q).stalled = false
          then qEvt (bump (setQ s q { y with stalled := true }) qmgrPg q 0x254 1) q 0 else setQ s q y) := by
  have hf : findIx (fun c : CSlot => c.st < 2) (getQ s q).slots 0 = some (0 + w.length, c) := by
    rw [hs]
    exact findIx_append (fun x hx => by simp [hw x hx]) (by simp [hc]) 0
  unfold ceReady
  dsimp only
  rw [hf]
  dsimp only
  rw [if_neg (by omega), Nat.zero_add]

theorem stagedN_none {x : Queue} (h : ∀ c ∈ x.slots, c.st ≠ 2) : stagedN x = 0 := by
  unfold stagedN
  rw [List.filter_eq_nil_iff.mpr fun c hc => by simpa using h c hc]
  rfl

theorem stagedN_one {x : Queue} {w rest : List CSlot} {c : CSlot} (hs : x.slots = w ++ c :: rest) (hc : c.st = 2)
    (hw : ∀ d ∈ w, d.st ≠ 2) (hr : ∀ d ∈ rest, d.st ≠ 2) : stagedN x = 1 := by
  unfold stagedN
  rw [hs, List.filter_append, List.filter_cons_of_pos (by simp [hc]), List.filter_eq_nil_iff.mpr fun c hc => by simpa using hw c hc,
    List.filter_eq_nil_iff.mpr fun c hc => by simpa using hr c hc]
  rfl

/-- The slots a publication releases, and what it leaves in the queue. -/
theorem headPublish_spec {s : State} {q : Nat} {p rest : List CSlot} (hs : (getQ s q).slots = p ++ rest) (hp : p ≠ [])
    (h3 : ∀ d ∈ p, d.st = 3) (hr : ∀ d ∈ rest.head?, d.st ≠ 3) (hb : (getQ s q).bound = none) :
    ∃ y u, headPublish q s = u ∧ y.slots = rest ∧ y.head = (getQ s q).wr ∧ y.wr = (getQ s q).wr ∧
      u = { writeLoc (setQ s q y) (crLoc (getQ s q)) (getQ s q).headAddr
        (toLE 4 ((getQ s q).gen.toNat * 2 ^ 24 + idxOf (getQ s q).n (getQ s q).wr)) false with emitted := u.emitted, msix := u.msix } := by
  have hpub : (getQ s q).slots.takeWhile (fun c => c.st == 3) = p := by
    rw [hs, List.takeWhile_append_of_pos fun d hd => by simp [h3 d hd]]
    cases rest with
    | nil => simp
    | cons d r => rw [List.takeWhile_cons_of_neg (by simpa using hr d rfl), List.append_nil]
  have hdrop : (getQ s q).slots.drop p.length = rest := by rw [hs]; simp
  unfold headPublish
  dsimp only
  rw [hpub, hdrop, if_neg (by simpa using hp)]
  generalize hy : relOf { getQ s q with
    head := (getQ s q).wr, slots := rest, sePos := (getQ s q).sePos.filter fun e => rest.any fun c => c.id == e.1 } = r
  generalize hz : ({ getQ s q with
    head := (getQ s q).wr, slots := rest, sePos := (getQ s q).sePos.filter fun e => rest.any fun c => c.id == e.1, rel := r } : Queue) = z
  have hz1 : z.slots = rest ∧ z.head = (getQ s q).wr ∧ z.wr = (getQ s q).wr := by rw [← hz]; exact ⟨rfl, rfl, rfl⟩
  obtain ⟨hz1, hz2, hz3⟩ := hz1
  refine ⟨z, _, rfl, hz1, hz2, hz3, ?_⟩
  generalize writeLoc (setQ s q z) (crLoc (getQ s q)) (getQ s q).headAddr
    (toLE 4 ((getQ s q).gen.toNat * 2 ^ 24 + idxOf (getQ s q).n (getQ s q).wr)) false = s1
  rw [hb]
  dsimp only
  split
  · exact sendMsix_frame s1 _
  · rfl

theorem memWrite_host (s : State) (a : Nat) (bs : List Byte) (pz : Bool) :
    ∃ m p, memWrite s 0 a bs pz = { s with hostMem := m, hostPoison := p } := by
  unfold memWrite
  rw [if_pos rfl]
  split
  · exact ⟨_, _, rfl⟩
  · exact ⟨_, _, rfl⟩

/-- Settles O25. -/
theorem queueCompletions : Obligations.QueueCompletions := by
  refine ⟨fun s q w c rest ha hu hs hw hc hr hroom => ?_, fun s q w c rest ha hu hs hw hc hr hroom => ?_, fun s q w c rest ha hs hw hc => ?_,
    fun s q c w rest ha hu hs h3 hr hb => ?_, fun s q ha h3 => ?_⟩
  · have hst : stagedN (getQ s q) = 0 := stagedN_none fun d hd => by
      rw [hs] at hd
      rcases List.mem_append.mp hd with hd | hd
      · rw [hw d hd]; decide
      · rcases List.mem_cons.mp hd with rfl | hd
        · rw [hc]; decide
        · exact hr d hd
    have e : ceReady q s = writeCe s q w.length c.ce := by
      rw [ceReady_first hs hw hc, hroom, hst]
      rfl
    obtain ⟨hm, hb, hq, ho⟩ := writeCe_spec s q w.length c.ce
    refine ⟨_, runs_act_to rfl ha ((if_pos hu).trans e), hm, hb, ?_, ho⟩
    rw [hq, hs, getIx_append, set_append_length]
  · have e := ceReady_first hs hw hc
    rw [hroom] at e
    have hy : stagedN { getQ s q with slots := (getQ s q).slots.set w.length { c with st := 2 } } = 1 := by
      rw [hs, set_append_length]
      exact stagedN_one rfl rfl (fun d hd => by rw [hw d hd]; decide) hr
    dsimp only [Bool.false_and] at e
    rw [hy, if_neg (by simp), if_neg (by rintro ⟨h, -⟩; omega), hs, set_append_length] at e
    have hn := (evG_told 0x10F (setQ s q { getQ s q with slots := w ++ { c with st := 2 } :: rest })).noted
    refine ⟨_, runs_act_to rfl ha ((if_pos hu).trans e), ?_, ?_, ?_⟩
    · rw [getQ_congr hn.queues, getQ_setQ, if_pos rfl]
    · rw [hn.frame]; rfl
    · rw [hn.frame]; rfl
  · have hf : findIx (fun c : CSlot => c.st < 2) (getQ s q).slots 0 = some (0 + w.length, c) := by
      rw [hs]
      exact findIx_append (fun x hx => by rcases hw x hx with h | h <;> simp [h]) (by simp [hc]) 0
    have e : ceReady q s = s := by
      unfold ceReady
      dsimp only
      rw [hf]
      exact if_pos hc
    refine runs_act_to rfl ha ?_
    split
    · exact e
    · rfl
  · obtain ⟨y, u, e, h1, h2, h4, hfr⟩ := headPublish_spec hs (List.cons_ne_nil c w) h3 hr hb
    obtain ⟨hm, hh⟩ := writeLoc_mem (setQ s q y) (crLoc (getQ s q)) (getQ s q).headAddr
      (toLE 4 ((getQ s q).gen.toNat * 2 ^ 24 + idxOf (getQ s q).n (getQ s q).wr)) false
    have hsame := (sameStore_setQ s q y).memWrite (crLoc (getQ s q)) (getQ s q).headAddr
      (toLE 4 ((getQ s q).gen.toNat * 2 ^ 24 + idxOf (getQ s q).n (getQ s q).wr)) false
    have hq : getQ u q = y := by
      rw [hfr]
      exact (getQ_congr (writeLoc_queues _ _ _ _ _) q).trans ((getQ_setQ _ _ _ _).trans (if_pos rfl))
    refine ⟨u, runs_act_to rfl ha ((if_pos hu).trans e), by rw [hq, h1], by rw [hq, h2], by rw [hq, h4], ?_, ?_, fun hl => ?_⟩
    · rw [hfr]; exact hm.trans hsame.hostMem
    · rw [hfr]; exact hh.trans hsame.hbm
    · obtain ⟨m, p, hm⟩ := memWrite_host (setQ s q y) (getQ s q).headAddr
        (toLE 4 ((getQ s q).gen.toNat * 2 ^ 24 + idxOf (getQ s q).n (getQ s q).wr)) false
      rw [hl, writeLoc_host, hm] at hfr
      rw [hfr]
      rfl
  · have e : headPublish q s = s := by
      have hpub : (getQ s q).slots.takeWhile (fun c => c.st == 3) = [] := by
        cases hl : (getQ s q).slots with
        | nil => rfl
        | cons d r => exact List.takeWhile_cons_of_neg (by simpa using h3 d (by rw [hl]; rfl))
      unfold headPublish
      dsimp only
      rw [hpub]
      rfl
    refine runs_act_to rfl ha ?_
    split
    · exact e
    · rfl

end Sys2Proof.Machine

namespace Sys2Proof.Machine

/-! PROOFS. The control of a queue: enable, quiesce, idle, abort (R309, R310). -/

/-- The record of a queue that an enable starts. -/
def queueStarted (s : State) (q : Nat) : Queue :=
  { getQ s q with
    st := 1, enable := true, drop := false, gen := (getQ s q).gen + 1
    sqBase := rget64 s qmgrPg q 0x204, sqCfg := rget s qmgrPg q 0x20C, crBase := rget64 s qmgrPg q 0x210
    crCfg := rget s qmgrPg q 0x218, headAddr := rget64 s qmgrPg q 0x21C, guar := rbits s qmgrPg q 0x200 1 1 == 1
    m := rbits s qmgrPg q 0x20C 4 0, n := rbits s qmgrPg q 0x218 4 0
    tail := 0, fetch := 0, rel := 0, next := 0, head := 0, done := 0, wr := 0, cache := [], abortTo := none }

theorem queueEnable_disabled {s : State} {q : Nat} (h : (getQ s q).st = 0) : queueEnable q s =
    unstage 321 (writeLoc (setQ s q (queueStarted s q)) (crLoc (queueStarted s q)) (queueStarted s q).headAddr
      (toLE 4 ((queueStarted s q).gen.toNat * 2 ^ 24)) false) q := by
  unfold queueEnable
  dsimp only
  rw [if_pos h]
  rfl

/-- A queue event sets its bit and changes only what an event changes. -/
theorem qEvt_spec {s : State} {q b : Nat} (hb : b < 32) : (hdr (qEvt s q b) qmgrPg).evtPend.getLsbD b = true ∧
    qEvt s q b = { s with
      regs := (qEvt s q b).regs, hdrs := (qEvt s q b).hdrs, crier := (qEvt s q b).crier, emitted := (qEvt s q b).emitted
      msix := (qEvt s q b).msix } := by
  constructor
  · exact setEvt_pend _ _ _ hb
  · unfold qEvt
    rw [setEvt_frame]
    rfl

/-- Settles O26. -/
theorem queueControl : Obligations.QueueControl := by
  refine ⟨fun s rq q hacc hst hc => ?_, fun s rq q hacc hst => ?_, fun s rq q hacc hst hd => ?_, fun s q ha hu hst hsl hab => ?_,
    fun s rq q hacc hen hst hsd hctx => ?_⟩
  · have hw := writeLoc_queues (setQ s q (queueStarted s q)) (crLoc (queueStarted s q)) (queueStarted s q).headAddr
      (toLE 4 ((queueStarted s q).gen.toNat * 2 ^ 24)) false
    obtain ⟨hm, -⟩ := writeLoc_mem (setQ s q (queueStarted s q)) (crLoc (queueStarted s q)) (queueStarted s q).headAddr
      (toLE 4 ((queueStarted s q).gen.toNat * 2 ^ 24)) false
    have hsame := (sameStore_setQ s q (queueStarted s q)).memWrite (crLoc (queueStarted s q)) (queueStarted s q).headAddr
      (toLE 4 ((queueStarted s q).gen.toNat * 2 ^ 24)) false
    have e := queueEnable_disabled hst
    generalize writeLoc (setQ s q (queueStarted s q)) (crLoc (queueStarted s q)) (queueStarted s q).headAddr
      (toLE 4 ((queueStarted s q).gen.toNat * 2 ^ 24)) false = u at *
    have hq : getQ u q = queueStarted s q := (getQ_congr hw q).trans ((getQ_setQ _ _ _ _).trans (if_pos rfl))
    rw [unstage_none (by rw [hq]; exact hc), hq] at e
    refine ⟨_, runs_regB_to rfl hacc e, ?_⟩
    rw [getQ_setQ, if_pos rfl]
    refine ⟨rfl, rfl, rfl, rfl, rfl, rfl, rfl, rfl, rfl, rfl, rfl, rfl, hm.trans hsame.hostMem, fun k hk => ?_⟩
    rw [getQ_setQ, if_neg hk, getQ_congr hw, getQ_setQ, if_neg hk]
  · have e : queueQuiesce q true s = setQ s q { getQ s q with quiesce := true, st := 2 } := by
      unfold queueQuiesce
      dsimp only
      rw [if_neg (by omega), if_pos rfl, if_pos hst]
    exact runs_regB_to rfl hacc e
  · have e : queueQuiesce q false s = setQ s q { getQ s q with quiesce := false, st := 1 } := by
      unfold queueQuiesce
      dsimp only
      rw [if_neg (by omega), if_neg (by simp), if_pos ⟨hst, by simp [hd]⟩]
    exact runs_regB_to rfl hacc e
  · have hi : ((getQ s q).st = 2 ∨ (getQ s q).st = 4 ∨ ((getQ s q).st = 1 ∧ (getQ s q).quiesce = true)) ∧
        (getQ s q).slots.isEmpty = true ∧ toAbort (getQ s q) = false := ⟨.inl hst, by simp [hsl], hab⟩
    cases hd : (getQ s q).drop with
    | true =>
      have e : idleReached q s = qEvt (setQ s q { getQ s q with
          quiesce := (getQ s q).quiesce || !(getQ s q).drop || (getQ s q).st == 4, abortTo := none, st := 0, enable := false
          drop := false, cache := [] }) q 1 := by
        unfold idleReached
        dsimp only
        rw [if_pos hi, if_pos hd]
      obtain ⟨hp, hf⟩ := qEvt_spec (q := q) (show 1 < 32 by decide) (s := setQ s q { getQ s q with
          quiesce := (getQ s q).quiesce || !(getQ s q).drop || (getQ s q).st == 4, abortTo := none, st := 0, enable := false
          drop := false, cache := [] })
      refine ⟨_, runs_act_to rfl ha ((if_pos hu).trans e), hp, ?_, ?_, ?_⟩
      · rw [hf]; exact congrArg Queue.st ((getQ_setQ _ _ _ _).trans (if_pos rfl))
      · rw [hf]; exact (congrArg Queue.enable ((getQ_setQ _ _ _ _).trans (if_pos rfl))).trans (by simp)
      · rw [hf]; rfl
    | false =>
      have e : idleReached q s = qEvt (setQ s q { getQ s q with
          quiesce := (getQ s q).quiesce || !(getQ s q).drop || (getQ s q).st == 4, abortTo := none, st := 3 }) q 1 := by
        unfold idleReached
        dsimp only
        rw [if_pos hi, if_neg (by simp [hd])]
      obtain ⟨hp, hf⟩ := qEvt_spec (q := q) (show 1 < 32 by decide) (s := setQ s q { getQ s q with
          quiesce := (getQ s q).quiesce || !(getQ s q).drop || (getQ s q).st == 4, abortTo := none, st := 3 })
      refine ⟨_, runs_act_to rfl ha ((if_pos hu).trans e), hp, ?_, ?_, ?_⟩
      · rw [hf]; exact congrArg Queue.st ((getQ_setQ _ _ _ _).trans (if_pos rfl))
      · rw [hf]; exact (congrArg Queue.enable ((getQ_setQ _ _ _ _).trans (if_pos rfl))).trans (by simp)
      · rw [hf]; rfl
  · have hn : ¬((!(getQ s q).enable) = true ∨ (getQ s q).st = 0 ∨ (getQ s q).st = 4) := by simp [hen, hst]
    have hb : queueAbortBase q s = setQ s q { getQ s q with
        st := 4, quiesce := true, abortTo := if (getQ s q).next = (getQ s q).tail then none else some (getQ s q).tail } := by
      unfold queueAbortBase
      dsimp only
      rw [if_neg hn, hsd]
      rfl
    have e : queueAbort q s = setQ s q { getQ s q with
        st := 4, quiesce := true, abortTo := if (getQ s q).next = (getQ s q).tail then none else some (getQ s q).tail } := by
      unfold queueAbort
      dsimp only
      rw [if_neg hn, hb, List.filter_eq_nil_iff.mpr fun x hx => by simpa using hctx x hx]
      rfl
    exact runs_regB_to rfl hacc e

end Sys2Proof.Machine

namespace Sys2Proof.Machine

/-! PROOFS. The entries of a queue: fetch, invalidation, start, completion (R292 to R301). -/

section
variable {s t : State} {q : Nat}

theorem fetchSe_clean {x : Queue} {b : List Byte} (h : fetchSe s x = some b) :
    readLoc s (sqLoc x) (seAddr x) 64 = (memRead s (sqLoc x) (seAddr x) 64, s) := by
  unfold fetchSe at h
  dsimp only at h
  split at h
  · exact absurd h (by simp)
  · rename_i hn
    rw [Bool.or_eq_true, not_or] at hn
    obtain ⟨h1, h2⟩ := hn
    rcases he : memRead s (sqLoc x) (seAddr x) 64 with ⟨d, e, p⟩
    rw [he] at h1 h2
    obtain rfl : e = none := by simpa using h1
    obtain rfl : p = false := by simpa using h2
    exact readLoc_clean he

/-- Reading an entry changes no queue, whatever errors it meets. -/
theorem seRead_queues (s : State) (x : Queue) : (seRead s x).queues = s.queues := by
  have h := (readLoc_memNoted s (sqLoc x) (seAddr x) 64).queues
  unfold seRead
  dsimp only
  split
  · exact h
  · exact h

theorem seRead_clean {x : Queue} {b : List Byte} (h : fetchSe s x = some b) :
    ∃ m, seRead s x = { s with emitted := m } := by
  unfold seRead
  rw [fetchSe_clean h]
  dsimp only
  split
  · exact ⟨_, rfl⟩
  · exact ⟨_, rfl⟩

theorem seFetch_eq {err : Bool} (hu : blockUp s qmgrPg = true) (hm : mayFetch s q = true)
    (hn : (s.snaps.filter fun n => n.page == qmgrPg && n.bank == q) = []) :
    seFetch q err s = evG 0x110 (if (if err then none else fetchSe s (getQ s q)).isNone
      then qFault (setQ (seRead s (getQ s q)) q { getQ s q with
        fetch := fifoAdd (getQ s q).m (getQ s q).fetch 1
        cache := (getQ s q).cache ++ [⟨(getQ s q).fetch, if err then none else fetchSe s (getQ s q)⟩] }) q 1
      else setQ (seRead s (getQ s q)) q { getQ s q with
        fetch := fifoAdd (getQ s q).m (getQ s q).fetch 1
        cache := (getQ s q).cache ++ [⟨(getQ s q).fetch, if err then none else fetchSe s (getQ s q)⟩] }) := by
  unfold seFetch
  rw [hu, hm, applySnaps_none hn]
  rfl

/-- The entries that an invalidation keeps lie before the first live one. -/
theorem sqInval_valid {c : Nat} (hd : (getQ s q).invalDone = true) (hc : c ≠ 0) (hm : c ≤ 2 ^ (getQ s q).m) :
    ∃ fl f, sqInval q c s = setQ s q { getQ s q with
      invalDone := false, firstLive := fl
      cache := (getQ s q).cache.filter fun e => decide (ringDist (getQ s q).m (getQ s q).rel e.pos < ringDist (getQ s q).m (getQ s q).rel fl)
      fetch := f } := by
  refine ⟨_, _, if_neg ?_⟩
  rw [hd]
  rintro (h | h | h)
  · exact absurd h (by decide)
  · exact hc h
  · omega

/-- What starting an entry that is to run leaves: the entry among the started ones, with the queue's last completion slot. -/
theorem startSe_runs {e : SeEnt} {se : List Byte} (hn : nextSe (getQ s q) = some e) (he : e.bytes = some se)
    (ha : toAbort (getQ s q) = false) (hb : seBad s q se = false) :
    ∃ y, startSe s q = { s with nextId := s.nextId + 1, queues := nset s.queues q y } ∧
      y.next = fifoAdd (getQ s q).m (getQ s q).next 1 ∧ y.started = (getQ s q).started ++ [(s.nextId, se)] ∧
      y.slots = (getQ s q).slots ++ [{ id := s.nextId, se := true, irq := byteAt se 1 / 2 % 2 == 1 }] ∧ y.quota = (getQ s q).quota := by
  unfold startSe takeSlot
  dsimp only
  rw [hn]
  dsimp only
  rw [if_neg (by simp [he]), if_neg (by simp [ha]), if_neg (by simp [he, hb]), getQ_setQ, if_pos rfl]
  rw [setQ_setQ, setQ_setQ, he]
  exact ⟨_, rfl, rfl, rfl, rfl, rfl⟩

/-- An invalid entry takes its slot and completes at once with BAD_DESCRIPTOR. -/
theorem startSe_bad {e : SeEnt} {se : List Byte} (hn : nextSe (getQ s q) = some e) (he : e.bytes = some se)
    (ha : toAbort (getQ s q) = false) (hb : seBad s q se = true) (hf : ∀ c ∈ (getQ s q).slots, c.id ≠ s.nextId) :
    (getQ (startSe s q) q).started = (getQ s q).started ∧ (getQ (startSe s q) q).slots = (getQ s q).slots ++
      [{ id := s.nextId, se := true, irq := byteAt se 1 / 2 % 2 == 1, st := 1, ce := seCe s se 0x08 }] := by
  unfold startSe takeSlot finishSlot
  dsimp only
  rw [hn]
  dsimp only
  rw [if_neg (by simp [he]), if_neg (by simp [ha]), if_pos (by simp [he, hb]), getQ_setQ, if_pos rfl, getQ_setQ, if_pos rfl, getQ_setQ, if_pos rfl]
  refine ⟨rfl, ?_⟩
  dsimp only
  rw [List.map_append, List.map_congr_left fun c hc => if_neg fun h => hf c hc h.1, List.map_id']
  simp [he]

/-- `t` is `s` but for the quotas of its queues. -/
structure Requoted (s t : State) : Prop where
  frame : t = { s with queues := t.queues }
  getQ : ∀ k, getQ t k = { getQ s k with quota := (getQ t k).quota }

namespace Requoted
variable {u : State}

protected theorem refl (s : State) : Requoted s s := ⟨rfl, fun _ => rfl⟩

protected theorem trans (h : Requoted s t) (g : Requoted t u) : Requoted s u := by
  refine ⟨?_, fun k => ?_⟩
  · rw [g.frame, h.frame]
  · rw [g.getQ k, h.getQ k]

theorem setQuota (s : State) (q : Nat) (v : Nat) : Requoted s (setQ s q { Machine.getQ s q with quota := v }) := by
  refine ⟨rfl, fun k => ?_⟩
  rw [getQ_setQ]
  split
  · next h => rw [h]
  · rfl

end Requoted

theorem wrrScan_requoted (s : State) (l : List Nat) : Requoted s (wrrScan s l).2 := by
  induction l generalizing s with
  | nil => exact .refl s
  | cons q l ih =>
    unfold wrrScan
    split
    · exact .refl s
    · exact (Requoted.setQuota s q 0).trans (ih _)

theorem wrrScan_keeps_zero {k : Nat} (l : List Nat) (h : (getQ s k).quota = 0) : (getQ (wrrScan s l).2 k).quota = 0 := by
  induction l generalizing s with
  | nil => exact h
  | cons q l ih =>
    unfold wrrScan
    split
    · exact h
    · refine ih ?_
      rw [getQ_setQ]
      split
      · rfl
      · exact h

/-- A scan that finds no queue leaves a quota to none that it looked at. -/
theorem wrrScan_none {l : List Nat} (h : (wrrScan s l).1 = none) : ∀ k ∈ l, (getQ (wrrScan s l).2 k).quota = 0 := by
  induction l generalizing s with
  | nil => exact fun k hk => absurd hk (by simp)
  | cons q l ih =>
    unfold wrrScan at h ⊢
    split at h
    · exact absurd h (by simp)
    · next hn =>
      rw [if_neg hn]
      intro k hk
      rcases List.mem_cons.mp hk with rfl | hk
      · exact wrrScan_keeps_zero l (by rw [getQ_setQ, if_pos rfl])
      · exact ih h k hk

theorem wrrRound_requoted (s : State) (l : List Nat) : Requoted s (wrrRound s l) :=
  List.foldlRecOn _ _ (.refl s) fun _ hu q _ => hu.trans (Requoted.setQuota _ q _)

/-- With no bulk queue to serve, no queue keeps a quota and the turn starts afresh. -/
theorem wrrPick_none (h : (wrrPick s).1 = none) :
    ∃ u, Requoted s u ∧ (wrrPick s).2 = { u with bulkTurn := 0, bulkBurst := 0 } ∧ ∀ q ∈ bulkQueues s, (getQ u q).quota = 0 := by
  unfold wrrPick at h ⊢
  dsimp only at h ⊢
  split at h
  · exact absurd h (by simp)
  next hn =>
  rw [if_neg hn]
  generalize (bulkQueues s).filter (fun q => decide (s.bulkTurn < q) || (q == s.bulkTurn && s.bulkBurst == 0)) = l at h ⊢
  have hra := wrrScan_requoted s l
  rcases ha : wrrScan s l with ⟨_ | q, u1⟩
  case some => rw [ha] at h; exact absurd h (by simp)
  rw [ha] at h hra
  dsimp only at h hra ⊢
  have hrb := wrrScan_requoted u1 (bulkQueues s)
  rcases hb : wrrScan u1 (bulkQueues s) with ⟨_ | q, u2⟩
  case some => rw [hb] at h; exact absurd h (by simp)
  rw [hb] at h hrb
  dsimp only at h hrb ⊢
  have hrc := (wrrRound_requoted u2 (bulkQueues s)).trans (wrrScan_requoted _ (bulkQueues s))
  have hz := wrrScan_none (s := wrrRound u2 (bulkQueues s)) (l := bulkQueues s)
  rcases hc : wrrScan (wrrRound u2 (bulkQueues s)) (bulkQueues s) with ⟨_ | q, u3⟩
  case some => rw [hc] at h; exact absurd h (by simp)
  rw [hc] at hrc hz
  exact ⟨u3, hra.trans (hrb.trans hrc), rfl, hz rfl⟩

end

/-- Settles O24. -/
theorem queueEntries : Obligations.QueueEntries := by
  refine ⟨fun s q b ha hu hm hf hn => ?_, fun s q ha hu hm hn => ?_, fun s rq q c hacc hd hc hm => ?_, fun s rq q c hacc hb => ?_,
    fun s q ha hu hd => ?_, fun s q e se ha hu hg hb hs hn he hab hbad hfr => ?_, fun s q e se ha hu hg hb hs hn he hab hbad hfr hid => ?_,
    fun s q ha hfr => ?_, fun s q s1 e se ha hu hp hn he hsl hab hbad => ?_, fun s ha hu hp => ?_, fun s q id se rest ha hu hst hop => ?_⟩
  · have e := seFetch_eq (err := false) hu hm hn
    obtain ⟨m, hr⟩ := seRead_clean hf
    rw [hf, if_neg (by simp), if_neg (by simp), hr] at e
    have hev := (evG_told 0x110 (setQ { s with emitted := m } q { getQ s q with
      fetch := fifoAdd (getQ s q).m (getQ s q).fetch 1, cache := (getQ s q).cache ++ [⟨(getQ s q).fetch, some b⟩] }))
    refine ⟨_, runs_act_to rfl ha e, ?_, ?_, ?_, ?_⟩
    · exact (getQ_congr hev.noted.queues q).trans ((getQ_setQ _ _ _ _).trans (if_pos rfl))
    · rw [hev.frame]; rfl
    · rw [hev.frame]; rfl
    · rw [hev.frame]; rfl
  · have e := seFetch_eq (err := true) hu hm hn
    rw [if_pos rfl, if_pos (by simp)] at e
    generalize hy : ({ getQ s q with fetch := fifoAdd (getQ s q).m (getQ s q).fetch 1, cache := (getQ s q).cache ++ [⟨(getQ s q).fetch, none⟩] } : Queue) = y at e ⊢
    have hev := (evG_told 0x110 (qFault (setQ (seRead s (getQ s q)) q y) q 1)).noted
    have hfl := raiseFault_noted (rputN (setQ (seRead s (getQ s q)) q y) qmgrPg 0 0x104 q) qmgrPg 1 0
    refine ⟨_, runs_act_to rfl ha e, ?_, ?_⟩
    · exact (getQ_congr (hev.queues.trans hfl.queues) q).trans ((getQ_setQ _ _ _ _).trans (if_pos rfl))
    · exact hev.src _ _ (raiseFault_src (k := .qmgr) (i := 0) rfl rfl (by decide))
  · obtain ⟨fl, f, e⟩ := sqInval_valid hd (show c.toNat ≠ 0 from fun h => hc (BitVec.eq_of_toNat_eq h)) hm
    refine ⟨_, fl, runs_regB_to rfl hacc e, rfl, fun k hk => ?_, ?_, ?_⟩
    · rw [getQ_setQ, if_neg hk]
    · rw [getQ_setQ, if_pos rfl]
    · rw [getQ_setQ, if_pos rfl]
      intro x hx
      obtain ⟨h1, h2⟩ := List.mem_filter.mp hx
      exact ⟨h1, of_decide_eq_true h2⟩
  · have e : sqInval q c.toNat s = bump s qmgrPg q 0x24C 1 := by
      refine if_pos ?_
      rcases hb with h | h | h
      · exact .inl (by rw [h]; rfl)
      · exact .inr (.inl (by rw [h]; rfl))
      · exact .inr (.inr h)
    exact ⟨_, runs_regB_to rfl hacc e, rfl, rgetN_bump _ _ _ _ _⟩
  · have e : invalDone q s = qEvt (setQ s q { getQ s q with invalDone := true, invalLive := (getQ s q).firstLive }) q 3 :=
      if_neg (by simp [hd])
    obtain ⟨hp, hfr⟩ := qEvt_spec (s := setQ s q { getQ s q with invalDone := true, invalLive := (getQ s q).firstLive }) (q := q) (b := 3) (by decide)
    refine ⟨_, runs_act_to rfl ha ((if_pos hu).trans e), ?_, hp⟩
    rw [hfr]
    exact (getQ_setQ _ _ _ _).trans (if_pos rfl)
  · have e : entryStart (some q) s = startSe s q := by
      unfold entryStart
      dsimp only
      rw [if_neg (by simp [hu]), if_neg (by simp [hg]), if_pos hb, if_pos (by simp [hs, hfr])]
    obtain ⟨y, h1, h2, h3, h4, -⟩ := startSe_runs hn he hab hbad
    have hq : getQ { s with nextId := s.nextId + 1, queues := nset s.queues q y } q = y := (getQ_setQ _ _ _ _).trans (if_pos rfl)
    exact ⟨_, runs_act_to rfl ha (e.trans h1), rfl, rfl, by rw [hq, h2], by rw [hq, h3], by rw [hq, h4]⟩
  · have e : entryStart (some q) s = startSe s q := by
      unfold entryStart
      dsimp only
      rw [if_neg (by simp [hu]), if_neg (by simp [hg]), if_pos hb, if_pos (by simp [hs, hfr])]
    exact ⟨_, runs_act_to rfl ha e, startSe_bad hn he hab hbad hid⟩
  · refine runs_act_to rfl ha ?_
    have hb : (getQ s q).bound.isSome = true := by
      unfold boundFree boundCtx at hfr
      cases h : (getQ s q).bound with
      | some c => rfl
      | none => rw [h] at hfr; exact absurd hfr (by simp)
    unfold entryStart
    dsimp only
    split
    · rfl
    split
    · rfl
    exact if_neg (by simp [hfr])
  · set s3 : State := { setQ s1 q { getQ s1 q with quota := (getQ s1 q).quota - 1 } with bulkBurst := s1.bulkBurst + 1 } with hs3
    have hq : getQ s3 q = { getQ s1 q with quota := (getQ s1 q).quota - 1 } := (getQ_setQ _ _ _ _).trans (if_pos rfl)
    have e : entryStart none s = (wrrPick (startSe s3 q)).2 := by
      unfold entryStart startBulk
      dsimp only
      rw [if_neg (by simp [hu]), hp]
      dsimp only
      rw [if_neg (by
        rw [hn]
        cases h : needsSlot (getQ s1 q) with
        | false => simp
        | true => simp [hsl h])]
      rfl
    have hbad3 : seBad s3 q se = false := by
      rw [← hbad]
      unfold seBad boundCtx
      rw [hq]
      rfl
    obtain ⟨y, h1, h2, h3, h4, h5⟩ := startSe_runs (s := s3) (by rw [hq]; exact hn) he (by rw [hq]; exact hab) hbad3
    rw [hq] at h2 h3 h4 h5
    have hy : getQ (startSe s3 q) q = y := by rw [h1]; exact (getQ_setQ _ _ _ _).trans (if_pos rfl)
    refine ⟨startSe s3 q, runs_act_to rfl ha e, by rw [hy, h3]; rfl, by rw [hy, h2], by rw [hy, h5], by rw [h1], fun k hk => ?_⟩
    rw [h1]
    exact ((getQ_setQ s3 q y k).trans (if_neg hk)).trans ((getQ_setQ _ _ _ _).trans (if_neg hk))
  · obtain ⟨u, hr, h2, hz⟩ := wrrPick_none hp
    have e : entryStart none s = (wrrPick s).2 := by
      unfold entryStart startBulk
      dsimp only
      rw [if_neg (by simp [hu])]
      rcases h : wrrPick s with ⟨o, s1⟩
      rw [h] at hp
      obtain rfl : o = none := hp
      rfl
    refine ⟨_, runs_act_to rfl ha (e.trans h2), by rw [hr.frame], fun q hq => ?_⟩
    have h := hr.getQ q
    rw [hz q hq] at h
    exact h
  · have e : nopOp q s = finishSlot (setQ s q { getQ s q with started := rest.filter fun u => u.1 != id }) q id (seCe s se 0) := by
      unfold nopOp takeStarted
      dsimp only
      rw [hst, List.find?_cons_of_pos (by simp [hop])]
      dsimp only
      rw [List.filter_cons_of_neg (by simp)]
    refine ⟨_, runs_act_to rfl ha ((if_pos hu).trans e), rfl, ?_, ?_⟩
    · exact congrArg Queue.started ((getQ_setQ _ _ _ _).trans (if_pos rfl)) |>.trans (congrArg Queue.started ((getQ_setQ _ _ _ _).trans (if_pos rfl)))
    · exact congrArg Queue.slots ((getQ_setQ _ _ _ _).trans (if_pos rfl)) |>.trans (by rw [getQ_setQ, if_pos rfl])

end Sys2Proof.Machine

namespace Sys2Proof.Machine

/-! PROOFS. Bonded links of the sensor and Selfold ports (R150, R345). -/

section
variable {s t : State} {n p : Nat} {e : LinkEv} {l : LinkSt}

theorem setSensor_setSensor (s : State) (n : Nat) (x y : Sensor) : setSensor (setSensor s n x) n y = setSensor s n y :=
  congrArg (fun l => { s with sensors := l }) (nset_nset _ _ _ _)

theorem getSensor_congr (h : t.sensors = s.sensors) (n : Nat) : getSensor t n = getSensor s n := by
  unfold getSensor
  rw [h]

theorem pageAt_sensorPage : ∀ n < 8, pageAt (sensorPage n) = some (.sensor, n) := by decide

theorem pageAt_sfPage : ∀ p < 4, pageAt (sfPage p) = some (.selfold, p) := by decide

/-- The step of a sensor port's link, with the port's lanes and its TRAIN_EN. -/
def snsStep (s : State) (n : Nat) (e : LinkEv) : LinkSt × Bool :=
  linkStep (rbits s (sensorPage n) 0 0x100 16 16 == 1) (rbits s (sensorPage n) 0 0x100 3 0) (getSensor s n).link e

theorem sensorLink_eq (hu : blockUp s (sensorPage n) = true) (hl : snsStep s n e = (l, false)) : sensorLink n e s =
    if (getSensor s n).link.st = 3 ∧ l.st ≠ 3 then
      raiseFault (setEvt (setSensor (setSensor s n { getSensor s n with link := l }) n { getSensor s n with link := l, lastMark := none })
        (sensorPage n) 1) (sensorPage n) 0 0
    else if (getSensor s n).link.st ≠ 3 ∧ l.st = 3 then setEvt (setSensor s n { getSensor s n with link := l }) (sensorPage n) 1
    else setSensor s n { getSensor s n with link := l } := by
  unfold snsStep at hl
  unfold sensorLink
  dsimp only
  rw [if_neg (by simp [hu]), hl]
  rfl

/-- A step of a port's link that neither enters nor leaves UP changes the link alone. -/
theorem sensorLink_quiet (hu : blockUp s (sensorPage n) = true) (hl : snsStep s n e = (l, false)) (h3 : (getSensor s n).link.st ≠ 3)
    (hl3 : l.st ≠ 3) : sensorLink n e s = setSensor s n { getSensor s n with link := l } := by
  rw [sensorLink_eq hu hl, if_neg fun h => h3 h.1, if_neg fun h => hl3 h.2]

theorem sensorLink_skew (hu : blockUp s (sensorPage n) = true) (hl : snsStep s n e = (l, true)) (h3 : (getSensor s n).link.st ≠ 3)
    (hl3 : l.st ≠ 3) : sensorLink n e s = bump (setSensor s n { getSensor s n with link := l }) (sensorPage n) 0 0x124 1 := by
  unfold snsStep at hl
  unfold sensorLink
  dsimp only
  rw [if_neg (by simp [hu]), hl]
  dsimp only
  rw [if_neg fun h => h3 h.1, if_neg fun h => hl3 h.2, if_pos rfl]

/-- An UP port of a link that goes down: its event and its fault. -/
theorem sensorLink_down (hn : n < 8) (hu : blockUp s (sensorPage n) = true) (hl : snsStep s n e = ({}, false))
    (h3 : (getSensor s n).link.st = 3) : ∃ t, sensorLink n e s = t ∧
      getSensor t n = { getSensor s n with link := {}, lastMark := none } ∧
      (hdr t (sensorPage n)).evtPend.getLsbD 1 = true ∧ (hdr t (sensorPage n)).fltSrc.getLsbD 0 = true ∧
      (∀ m, m ≠ n → getSensor t m = getSensor s m) ∧ t.tiles = s.tiles ∧ t.queues = s.queues ∧ t.hostMem = s.hostMem := by
  refine ⟨_, (sensorLink_eq hu hl).trans ((if_pos ⟨h3, by decide⟩).trans (by rw [setSensor_setSensor])), ?_⟩
  generalize hx : ({ getSensor s n with link := {}, lastMark := none } : Sensor) = x
  have hq := raiseFault_noted (setEvt (setSensor s n x) (sensorPage n) 1) (sensorPage n) 0 0
  have he := (setEvt_told (setSensor s n x) (sensorPage n) 1).noted.trans hq
  have hs : (raiseFault (setEvt (setSensor s n x) (sensorPage n) 1) (sensorPage n) 0 0).sensors = nset s.sensors n x := by
    rw [he.frame]; rfl
  refine ⟨?_, ?_, ?_, fun m hm => ?_, ?_, ?_, ?_⟩
  · exact (getSensor_congr hs n).trans ((getSensor_setSensor s n x n).trans (if_pos rfl))
  · exact hq.pend _ _ (setEvt_pend _ _ _ (by decide))
  · exact raiseFault_src (pageAt_sensorPage n hn) rfl (by decide)
  · exact (getSensor_congr hs m).trans ((getSensor_setSensor s n x m).trans (if_neg hm))
  · rw [he.frame]; rfl
  · rw [he.frame]; rfl
  · rw [he.frame]; rfl

/-- The step of a Selfold port's link. -/
def sfStep (s : State) (p : Nat) (e : LinkEv) : LinkSt × Bool :=
  linkStep (rbits s (sfPage p) 0 0x100 0 0 == 1) 4 (getSf s p).link e

theorem sfLink_eq (hu : blockUp s (sfPage p) = true) (hl : (sfStep s p e).1 = l) : sfLink p e s =
    if (getSf s p).link.st = 3 ∧ l.st ≠ 3 then sfDown (setSf s p { getSf s p with link := l }) p
    else if (getSf s p).link.st ≠ 3 ∧ l.st = 3 then setEvt (sfFill (setSf s p { getSf s p with link := l }) p) (sfPage p) 0
    else setSf s p { getSf s p with link := l } := by
  unfold sfStep at hl
  unfold sfLink
  dsimp only
  rw [if_neg (by simp [hu]), hl]

theorem anyLink_sensor (hn : n < 8) : anyLink n e s = sensorLink n e s := if_pos hn

theorem anyLink_sf (hp : p < 4) : anyLink (8 + p) e s = sfLink p e s := by
  unfold anyLink
  rw [if_neg (by omega), if_pos (by omega), Nat.add_sub_cancel_left]

end

/-- Settles O27. -/
theorem bondedLinks : Obligations.BondedLinks := by
  refine ⟨fun s n ha hn hu ht hst => ?_, fun s n ha hn hu hst => ?_, fun s n skew place ha hn hu hst hk hr => ?_,
    fun s n skew place ha hn hu hst hk hr => ?_, fun s n skew ok place ha hn hu hst hk => ?_, fun s n c hc ha hn hu hst => ?_,
    fun s p ha hp hu ht hst => ?_, fun s p ha hp hu hst => ?_, fun s p skew place ha hp hu hst hk hr => ?_, fun s p c hc ha hp hu hst => ?_⟩
  · have hl : snsStep s n .train = ({ (getSensor s n).link with st := 1, locked := 0, rounds := 0 }, false) := if_pos ⟨hst, by rw [ht]; rfl⟩
    exact runs_act_to rfl ha ((anyLink_sensor hn).trans (sensorLink_quiet hu hl (by omega) (by simp)))
  · have hl : snsStep s n .lock =
        ({ (getSensor s n).link with st := 2, locked := laneMask (rbits s (sensorPage n) 0 0x100 3 0), rounds := 0 }, false) := if_pos hst
    exact runs_act_to rfl ha ((anyLink_sensor hn).trans (sensorLink_quiet hu hl (by omega) (by simp)))
  · have hl : snsStep s n (.align skew true place) = ({ (getSensor s n).link with rounds := 1, skew := skew }, false) :=
      (if_pos hst).trans ((if_neg (by omega)).trans ((if_pos rfl).trans (if_pos hr)))
    exact runs_act_to rfl ha ((anyLink_sensor hn).trans (sensorLink_quiet hu hl (by omega) (by simp [hst])))
  · have hl : snsStep s n (.align skew true place) = ({ (getSensor s n).link with st := 3, rounds := 0, skew := skew }, false) :=
      (if_pos hst).trans ((if_neg (by omega)).trans ((if_pos rfl).trans (if_neg hr)))
    exact runs_act_to rfl ha ((anyLink_sensor hn).trans ((sensorLink_eq hu hl).trans
      ((if_neg fun h => absurd h.1 (by omega)).trans (if_pos ⟨by omega, rfl⟩))))
  · have hl : snsStep s n (.align skew ok place) = ({ skew := skew }, true) := (if_pos hst).trans (if_pos hk)
    exact runs_act_to rfl ha ((anyLink_sensor hn).trans (sensorLink_skew hu hl (by omega) (by simp)))
  · obtain ⟨e, hl, he⟩ : ∃ e, snsStep s n e = ({}, false) ∧ exec c s = act (anyLink n e) s := by
      simp only [List.mem_cons, List.not_mem_nil, or_false] at hc
      rcases hc with rfl | rfl | rfl
      · exact ⟨.loss, if_pos (.inr hst), rfl⟩
      · exact ⟨.missing, if_pos hst, rfl⟩
      · exact ⟨.down, rfl, rfl⟩
    obtain ⟨t, h, hrest⟩ := sensorLink_down hn hu hl hst
    exact ⟨t, runs_act_to he ha ((anyLink_sensor hn).trans h), hrest⟩
  · have hl : (sfStep s p .train).1 = { (getSf s p).link with st := 1, locked := 0, rounds := 0 } :=
      congrArg Prod.fst (if_pos ⟨hst, by rw [ht]; rfl⟩)
    exact runs_act_to rfl ha ((anyLink_sf hp).trans ((sfLink_eq hu hl).trans
      ((if_neg fun h => absurd h.1 (by omega)).trans (if_neg fun h => absurd h.2 (by simp)))))
  · have hl : (sfStep s p .lock).1 = { (getSf s p).link with st := 2, locked := 0xF, rounds := 0 } := congrArg Prod.fst (if_pos hst)
    exact runs_act_to rfl ha ((anyLink_sf hp).trans ((sfLink_eq hu hl).trans
      ((if_neg fun h => absurd h.1 (by omega)).trans (if_neg fun h => absurd h.2 (by simp)))))
  · have hl : (sfStep s p (.align skew true place)).1 = { (getSf s p).link with st := 3, rounds := 0, skew := skew } :=
      congrArg Prod.fst ((if_pos hst).trans ((if_neg (by omega)).trans ((if_pos rfl).trans (if_neg hr))))
    refine ⟨_, runs_act_to rfl ha ((anyLink_sf hp).trans ((sfLink_eq hu hl).trans
      ((if_neg fun h => absurd h.1 (by omega)).trans (if_pos ⟨by omega, rfl⟩)))), ?_, setEvt_pend _ _ _ (by decide), ?_⟩
    · rw [setEvt_frame]
      unfold sfFill
      exact (congrArg (fun x : SfPort => x.link.st) ((getSf_setSf _ _ _ _).trans (if_pos rfl))).trans
        (congrArg (fun x : SfPort => x.link.st) ((getSf_setSf _ _ _ _).trans (if_pos rfl)))
    · rw [setEvt_frame]
      rfl
  · obtain ⟨e, hl, he⟩ : ∃ e, (sfStep s p e).1 = {} ∧ exec c s = act (anyLink (8 + p) e) s := by
      simp only [List.mem_cons, List.not_mem_nil, or_false] at hc
      rcases hc with rfl | rfl | rfl
      · exact ⟨.loss, congrArg Prod.fst (if_pos (.inr hst)), rfl⟩
      · exact ⟨.missing, congrArg Prod.fst (if_pos hst), rfl⟩
      · exact ⟨.down, rfl, rfl⟩
    exact ⟨_, runs_act_to he ha ((anyLink_sf hp).trans ((sfLink_eq hu hl).trans (if_pos ⟨hst, by simp⟩))), rfl,
      raiseFault_src (pageAt_sfPage p hp) rfl (by decide)⟩

end Sys2Proof.Machine

namespace Sys2Proof.Machine

/-! PROOFS. FSYNC pulses and I3C transfers (R160, R161). -/

/-- One bit of a word, as the model reads it from a register's number. -/
theorem bits_one (w : BitVec 32) (k : Nat) : bits w.toNat k k = (w.getLsbD k).toNat := by
  unfold bits
  rw [Nat.add_sub_cancel_left, Nat.pow_one, BitVec.getLsbD, Nat.testBit_eq_decide_div_mod_eq, Nat.shiftRight_eq_div_pow]
  rcases Nat.mod_two_eq_zero_or_one (w.toNat / 2 ^ k) with h | h <;> simp [h]

/-- The bytes that an I3C command sends before its data: the common command code of an SDR transfer that has one. -/
theorem i3cCcc (w : BitVec 32) (i2c : Bool) : (if bits w.toNat 20 20 = 1 ∧ i2c = false then toLE 1 (bits w.toNat 31 24) else []) =
    if w.getLsbD 20 && !i2c then [BitVec.ofNat 8 (bits w.toNat 31 24)] else [] := by
  rw [bits_one, toLE_one]
  cases w.getLsbD 20 <;> cases i2c <;> rfl

theorem i3cCmd_busy {s : State} {n w : Nat} (h : (getSensor s n).i3cBusy = true) : i3cCmd n w s = s := if_pos h

/-- A command on an idle controller starts its transfer. -/
theorem i3cCmd_idle {s : State} {n : Nat} {w : BitVec 32} {rd : Bool} (h : (getSensor s n).i3cBusy = false) (hr : w.getLsbD 7 = rd) :
    i3cCmd n w.toNat s = emit (setSensor s n { getSensor s n with
      i3cBusy := true, i3cLen := if rd then bits w.toNat 19 8 else 0, i3cNack := false, i3cDone := false
      i3cTx := if rd then (getSensor s n).i3cTx else (getSensor s n).i3cTx.drop (bits w.toNat 19 8) })
      (.i3c n (rbits s (sensorPage n) 0 0x180 8 8 == 1)
        ((if w.getLsbD 20 && !(rbits s (sensorPage n) 0 0x180 8 8 == 1) then [BitVec.ofNat 8 (bits w.toNat 31 24)] else []) ++
          [BitVec.ofNat 8 (bits w.toNat 6 0 * 2 + if rd then 1 else 0)] ++
          if rd then [] else (getSensor s n).i3cTx.take (bits w.toNat 19 8))) := by
  have h7 : (bits w.toNat 7 7 == 1) = rd := by
    rw [bits_one, hr]
    cases rd <;> rfl
  unfold i3cCmd
  dsimp only
  rw [if_neg (by simp [h]), h7, i3cCcc, toLE_one]

/-- Settles O29. -/
theorem fsyncAndI3c : Obligations.FsyncAndI3c := by
  refine ⟨fun s n t0 ha hn ht hd hu => ?_, fun s n ha hn ho hd => ?_, fun s rq n w hn hacc hb => ⟨fun h7 => ?_, fun h7 => ?_⟩,
    fun s rq n w hn hacc hb => ?_, fun s n nack rx ha hn hu hb => ?_, fun s rq n b hn hacc => ?_, fun s rq n b rest hn hb hp hr hx => ?_,
    fun s rq n hn hb hx => ?_⟩
  · have e : fsyncEdge n s = setSensor s n { getSensor s n with
        fsyncOn := true, fsyncHigh := !fsyncIdle s n, fsyncFall := t0 + nsT (rbits s (sensorPage n) 0 0x140 31 8)
        fsyncNext := if rget64 s (sensorPage n) 0 0x150 = 0 then none else some (t0 + rget64 s (sensorPage n) 0 0x150) } := by
      unfold fsyncEdge
      dsimp only
      rw [ht]
      exact if_neg (by simp [hu, hd])
    have hi : (!fsyncIdle s n) = (rbits s (sensorPage n) 0 0x140 1 1 == 0) := by
      unfold fsyncIdle rbits bits
      generalize rgetN s (sensorPage n) 0 0x140 >>> 1 = v
      rcases Nat.mod_two_eq_zero_or_one v with h | h <;> simp [h]
    rw [hi] at e
    exact runs_act_to rfl ha ((if_pos hn).trans e)
  · have e : fsyncPulseEnd n s = setSensor s n { getSensor s n with fsyncOn := false, fsyncHigh := fsyncIdle s n } := if_pos ⟨ho, hd⟩
    exact runs_act_to rfl ha ((if_pos hn).trans e)
  · refine runs_next rfl ((if_pos hn).trans ((regOp_accepts _ hacc).trans ((i3cCmd_idle hb h7).trans ?_)))
    rfl
  · refine runs_next rfl ((if_pos hn).trans ((regOp_accepts _ hacc).trans ((i3cCmd_idle hb h7).trans ?_)))
    exact congrArg (fun l => emit _ (.i3c n _ l)) (List.append_nil _)
  · exact runs_next rfl ((if_pos hn).trans ((regOp_accepts _ hacc).trans (i3cCmd_busy hb)))
  · have e : i3cDone n nack rx s = setSensor s n { getSensor s n with
        i3cBusy := false, i3cNack := nack, i3cDone := true
        i3cRx := if nack then (getSensor s n).i3cRx else (getSensor s n).i3cRx ++ rx.take (getSensor s n).i3cLen } := if_neg (by simp [hb])
    exact runs_act_to rfl ha ((if_pos ⟨hn, hu⟩).trans e)
  · exact runs_next rfl ((if_pos hn).trans (regOp_accepts _ hacc))
  · have e : i3cRx n s = setSensor { s with out := 2 ^ 31 + b.toNat } n { getSensor s n with i3cRx := rest } := by
      unfold i3cRx
      dsimp only
      rw [if_neg (by simp [hp, hr]), hx]
    exact runs_actBus_to rfl hb ((if_pos hn).trans e)
  · have e : i3cRx n s = { s with out := 0 } := by
      unfold i3cRx
      dsimp only
      rw [hx]
      exact ite_self _
    exact runs_actBus_to rfl hb ((if_pos hn).trans e)

end Sys2Proof.Machine

namespace Sys2Proof.Machine

/-! PROOFS. Line packets, frame marks, and the opening and closing of frames (R148 to R155). -/

/-! ## Changes of contexts that touch only their pictures -/

/-- The contexts of `t` are those of `s`, with other pictures. -/
def PicsOnly (s t : State) : Prop := ∀ c, ∃ f : Ctx → List Pic, getCtx t c = (getCtx s c).map fun x => { x with pics := f x }

section
variable {s₀ s t : State}

namespace PicsOnly

protected theorem refl (s : State) : PicsOnly s s := fun c => ⟨Ctx.pics, by simp⟩

protected theorem trans (h : PicsOnly s₀ s) (g : PicsOnly s t) : PicsOnly s₀ t := fun c => by
  obtain ⟨f, hf⟩ := h c
  obtain ⟨k, hk⟩ := g c
  refine ⟨fun x => k { x with pics := f x }, ?_⟩
  rw [hk, hf, Option.map_map]
  rfl

protected theorem ite {c : Prop} [Decidable c] (h : PicsOnly s₀ s) (g : PicsOnly s₀ t) : PicsOnly s₀ (if c then s else t) := by
  split
  · exact h
  · exact g

protected theorem ctxs (h : PicsOnly s₀ s) (e : t.ctxs = s.ctxs) : PicsOnly s₀ t := fun c => by
  rw [getCtx_congr e]
  exact h c

theorem get (h : PicsOnly s t) {c : Nat} {x : Ctx} (hx : getCtx s c = some x) : ∃ ps, getCtx t c = some { x with pics := ps } := by
  obtain ⟨f, hf⟩ := h c
  exact ⟨f x, by rw [hf, hx]; rfl⟩

end PicsOnly

protected theorem PicsOnly.markCtxs {which : Nat → Ctx → Bool} {sel : Nat → Pic → Bool} {cause : Nat} (h : PicsOnly s₀ s) :
    PicsOnly s₀ (markCtxs s which sel cause) := by
  refine h.trans fun c => ?_
  refine ⟨fun x => (if x.kind = .admitted ∧ which c x = true then markPics x (sel c) cause else x).pics, ?_⟩
  have hm := nget_map s.ctxs (fun k x => if x.kind = .admitted ∧ which k x = true then markPics x (sel k) cause else x) c
  refine (congrArg (fun m => nget m c) ?_).trans (hm.trans ?_)
  · refine List.map_congr_left fun e _ => ?_
    split <;> rfl
  · refine congrArg (fun f => (nget s.ctxs c).map f) (funext fun x => ?_)
    by_cases hk : x.kind = .admitted ∧ which c x = true
    · dsimp only
      rw [if_pos hk]
      rfl
    · dsimp only
      rw [if_neg hk]

protected theorem PicsOnly.raiseFault {page src info : Nat} (h : PicsOnly s₀ s) : PicsOnly s₀ (raiseFault s page src info) := by
  have hb : ∀ p i, PicsOnly s₀ (raiseBase s p src i) := fun p i => h.ctxs (raiseBase_ctxs s p src i)
  unfold Machine.raiseFault
  split
  · exact h
  · dsimp only
    split
    · unfold containBreach
      split
      · exact (hb _ _).markCtxs
      · split
        · exact (hb _ _).markCtxs
        · exact hb _ _
      · split
        · exact (hb _ _).markCtxs
        · exact hb _ _
    · exact hb _ _

protected theorem PicsOnly.frameSlot {q : Nat} {l : Option Time} (h : PicsOnly s₀ s) : PicsOnly s₀ (frameSlot s q l).2 := by
  unfold Machine.frameSlot
  split
  · exact h
  · split
    · exact PicsOnly.raiseFault (h.ctxs rfl)
    · exact h.ctxs rfl

protected theorem PicsOnly.withPic {c id : Nat} {f : Pic → Pic} (h : PicsOnly s₀ s) : PicsOnly s₀ (withPic s c id f) := by
  unfold Machine.withPic
  split
  next x hx =>
    refine h.trans fun k => ?_
    rw [getCtx_setCtx]
    split
    next hk =>
      rw [hk, hx]
      exact ⟨fun x => (updPic x id f).pics, rfl⟩
    next => exact PicsOnly.refl s k
  next => exact h

protected theorem PicsOnly.slotPic {c : Nat} {x : Ctx} {p : Pic} (h : PicsOnly s₀ s) : PicsOnly s₀ (slotPic s c x p) := by
  unfold Machine.slotPic
  split
  · exact h
  · exact h.frameSlot.withPic

protected theorem PicsOnly.slotLimit {q : Nat} {i : Option Nat} {l : Time} (h : PicsOnly s₀ s) : PicsOnly s₀ (slotLimit s q i l) := by
  unfold Machine.slotLimit
  split
  · exact h.ctxs rfl
  · exact h

theorem dmaFrameEvent_ctxs (s : State) (ports edge : Nat) : (dmaFrameEvent s ports edge).ctxs = s.ctxs := by
  refine List.foldlRecOn (motive := fun u : State => u.ctxs = s.ctxs) _ _ rfl fun u hu p _ => ?_
  refine List.foldlRecOn (motive := fun u : State => u.ctxs = s.ctxs) _ _ hu fun v hv ch _ => ?_
  dsimp only
  split
  · exact hv
  · rw [apply_ite State.ctxs, setEvt_ctxs]
    split <;> split <;> exact hv

/-- Closing a frame sets the context's frame aside and changes no other part of a context but its pictures. -/
theorem closeFrame_pics {c : Nat} {x : Ctx} {f : Frame} (hr : x.rel ≠ 1) :
    PicsOnly (setCtx s c { x with frame := none, lastClosed := some f.num, lastColour := f.colour }) (closeFrame s c x f) := by
  have h1 := (PicsOnly.refl _).ctxs
    (dmaFrameEvent_ctxs (setCtx s c { x with frame := none, lastClosed := some f.num, lastColour := f.colour }) (Ct.ports x.block) 1)
  unfold closeFrame
  dsimp only
  generalize dmaFrameEvent (setCtx s c { x with frame := none, lastClosed := some f.num, lastColour := f.colour }) (Ct.ports x.block) 1 = s1 at *
  rw [if_neg hr]
  split
  · generalize hs2 : (if missingLines x.block f.pkts = 0 then s1 else _ : State) = s2
    have h2 : PicsOnly (setCtx s c { x with frame := none, lastClosed := some f.num, lastColour := f.colour }) s2 := by
      rw [← hs2]
      exact .ite h1 (h1.ctxs (setEvt_ctxs _ _ _))
    clear hs2
    split
    next p _ =>
      generalize hs3 : withPic s2 c p.id _ = s3
      have h3 : PicsOnly (setCtx s c { x with frame := none, lastClosed := some f.num, lastColour := f.colour }) s3 := hs3 ▸ h2.withPic
      clear hs3
      split
      · split
        · split
          · exact h3
          · split
            · exact h3.slotPic.slotLimit
            · exact h3.slotPic
        · exact h3
      · exact h3
    next => exact h2
  · exact h1

theorem police_block (s : State) (x : Ctx) (pre : Nat) : (police s x pre).2.block = x.block := rfl

theorem replaceTiles_block (s : State) (x : Ctx) : (replaceTiles s x).block = x.block := rfl

/-- An opened frame has its number and no packets yet. -/
theorem openFrame_frame (s : State) (c : Nat) (x : Ctx) (num pre : Nat) :
    ∃ y f, getCtx (openFrame s c x num pre) c = some y ∧ y.frame = some f ∧ f.num = num ∧ f.pkts = [] ∧ y.block = x.block := by
  unfold openFrame
  extract_lets r x' s1 dem t p t'
  split
  · exact ⟨_, _, (getCtx_setCtx _ _ _ _).trans (if_pos rfl), rfl, rfl, rfl, rfl⟩
  · have hf : ∀ u q i ce, (finishFrame u q i ce).ctxs = u.ctxs := fun u q i ce => by
      unfold finishFrame
      split <;> rfl
    rw [getCtx_congr (hf _ _ _ _)]
    exact ⟨_, _, (getCtx_setCtx _ _ _ _).trans (if_pos rfl), rfl, rfl, rfl, rfl⟩

/-! ## Packets on a port -/

/-- `t` is `s` after the counts of a packet on port `n`: no register is touched but the port's error counters and what it delivers. -/
structure Counted (n : Nat) (s t : State) : Prop where
  frame : t = { s with regs := t.regs, sensors := t.sensors }
  regs : ∀ off, off ≠ 0x124 → off ≠ 0x128 → off < 4096 → rget t (sensorPage n) 0 off = rget s (sensorPage n) 0 off

theorem counted_notePseq (s : State) (n e q : Nat) : Counted n s (notePseq (bump s (sensorPage n) 0 0x124 e) n q) := by
  have h1 : ∀ off, off ≠ 0x124 → off < 4096 → rget (bump s (sensorPage n) 0 0x124 e) (sensorPage n) 0 off = rget s (sensorPage n) 0 off :=
    fun off ho hl => rget_bump_other _ _ _ _ _ _ _ _ (by decide) (by decide) (by decide) hl fun h => ho h.2.2
  have h2 : ∀ u : State, ∀ off, off ≠ 0x128 → off < 4096 → rget (bump u (sensorPage n) 0 0x128 1) (sensorPage n) 0 off = rget u (sensorPage n) 0 off :=
    fun u off ho hl => rget_bump_other _ _ _ _ _ _ _ _ (by decide) (by decide) (by decide) hl fun h => ho h.2.2
  unfold notePseq
  extract_lets x s1
  have hs1 : s1 = bump s (sensorPage n) 0 0x124 e ∨ s1 = bump (bump s (sensorPage n) 0 0x124 e) (sensorPage n) 0 0x128 1 := by
    unfold s1
    split
    · split
      · exact .inl rfl
      · exact .inr rfl
    · exact .inl rfl
  clear_value s1
  rcases hs1 with rfl | rfl
  · exact ⟨rfl, fun off h4 _ hl => h1 off h4 hl⟩
  · exact ⟨rfl, fun off h4 h8 hl => (h2 _ off h8 hl).trans (h1 off h4 hl)⟩

theorem Counted.portCtx {n : Nat} (h : Counted n s t) : portCtx t n = portCtx s n := by
  unfold Machine.portCtx rbits rgetN
  rw [h.regs 0x108 (by decide) (by decide) (by decide)]

theorem Counted.ctxs {n : Nat} (h : Counted n s t) : t.ctxs = s.ctxs := by rw [h.frame]

theorem Counted.hdr {n : Nat} (h : Counted n s t) (p : Nat) : Machine.hdr t p = Machine.hdr s p := by rw [h.frame]; rfl

/-- The copy for the Island of a packet whose frame has a colour. -/
theorem tapCopy_coloured {n c : Nat} {pk : List Byte} (h : pktColour s n (Lp.frame pk) = some c) :
    ∃ a, tapCopy s n pk = { s with arbs := a, taps := s.taps ++ [⟨n, nowNs s, c, pk⟩] } := by
  unfold tapCopy
  rw [h]
  exact ⟨_, rfl⟩

theorem pktColour_frame {n : Nat} {x : Ctx} {f : Frame} (hx : getCtx s (portCtx s n) = some x) (hf : x.frame = some f) :
    pktColour s n f.num = some f.colour := by
  unfold pktColour
  rw [hx]
  dsimp only
  rw [hf, Option.filter_some, if_pos (by simp)]

/-- A packet that passed its CRC on a port that is up. -/
theorem linePacket_good {n e : Nat} {pk : List Byte} (hn : n < 8) (hu : sensorUp s n = true) (hc : Lp.crcOk pk = true) :
    ∃ u, Counted n s u ∧ linePacket n e pk s = tapCopy (goodPacket u n pk) n pk := by
  refine ⟨_, counted_notePseq s n e (Lp.pseq pk), (if_neg ?_).trans (if_neg (by simp [hc]))⟩
  rintro (h | h)
  · omega
  · exact absurd (hu.symm.trans h) (by decide)

/-- A packet of the open frame of the context that its port feeds is judged there. -/
theorem goodPacket_open {n : Nat} {pk : List Byte} {x : Ctx} {f : Frame} (he : (hdr s (sensorPage n)).enable = true)
    (hx : getCtx s (portCtx s n) = some x) (hfe : feeds s x = true) (hf : x.frame = some f) (hnum : f.num = Lp.frame pk) :
    goodPacket s n pk = judge s n (portCtx s n) x f pk := by
  unfold goodPacket
  dsimp only
  rw [hx]
  dsimp only
  rw [if_neg (by simp [hfe, he]), hf, Option.filter_some, if_pos (by simp [hnum])]

theorem newFrame_frame {n num : Nat} (h : (s.snaps.filter fun m => m.page == sensorPage n && m.bank == 0) = []) :
    ∃ m, newFrame s n num = { s with sensors := m } := by
  unfold newFrame
  split
  · exact ⟨_, rfl⟩
  · rw [applySnaps_none h]
    exact ⟨_, rfl⟩

/-! ## Frame marks -/

/-- Two equal blocks of a mark not taken before: the mark is taken. -/
theorem fmark_taken {n e : Nat} {a : List Byte} (hn : n < 8) (hu : sensorUp s n = true) (hl : (getSensor s n).lastMark ≠ some a) :
    ∃ u pre, Counted n s u ∧ fmarkOp n e a a s = takeMark u n (byteAt a 0) (beAt a 1 4) pre := by
  refine ⟨setSensor (bump s (sensorPage n) 0 0x124 e) n { getSensor (bump s (sensorPage n) 0 0x124 e) n with lastMark := some a },
    if byteAt a 6 % 4 = 3 then 2 else byteAt a 6 % 4, ⟨rfl, fun off h4 _ hl =>
      rget_bump_other _ _ _ _ _ _ _ _ (by decide) (by decide) (by decide) hl fun h => h4 h.2.2⟩, (if_neg ?_).trans (if_neg ?_)⟩
  · rintro (h | h)
    · omega
    · exact absurd (hu.symm.trans h) (by decide)
  · rintro (h | h)
    · exact h rfl
    · exact hl h

/-- A start mark of a new frame on a context without one opens the frame. -/
theorem takeMark_start {n num pre : Nat} {x : Ctx} (hw : takesWork s (sensorPage n) = true) (hx : getCtx s (portCtx s n) = some x)
    (hfe : feeds s x = true) (hr : x.rel = 0) (hf : x.frame = none) (hl : frameLate x num = false) :
    takeMark s n 1 num pre = openFrame s (portCtx s n) x num pre := by
  have hk : x.kind = .admitted := by
    unfold feeds at hfe
    simp only [Bool.and_eq_true, beq_iff_eq] at hfe
    exact hfe.1.1
  have he : enterFrame s n (portCtx s n) num pre = (openFrame s (portCtx s n) x num pre, true) := by
    unfold enterFrame
    rw [hx]
    dsimp only
    rw [if_neg (by simp [hw]), hf]
    dsimp only
    rw [hx]
    exact if_pos ⟨hk, hr⟩
  unfold takeMark
  dsimp only
  rw [hx]
  dsimp only
  rw [if_neg (by simp [hfe]), if_pos rfl, hf, hl, he]
  rfl

/-- The end mark of a port of the open frame is recorded. -/
theorem takeMark_end {n num pre : Nat} {x : Ctx} {f : Frame} (hx : getCtx s (portCtx s n) = some x) (hfe : feeds s x = true)
    (hf : x.frame = some f) (hnum : f.num = num) (hc : f.endPorts.contains n = false)
    (ha : allEnded x.block { f with endPorts := f.endPorts ++ [n] } = false) :
    takeMark s n 2 num pre = setCtx s (portCtx s n) { x with frame := some { f with endPorts := f.endPorts ++ [n] } } := by
  unfold takeMark
  dsimp only
  rw [hx]
  dsimp only
  rw [if_neg (by simp [hfe]), if_neg (by decide), if_pos rfl, hf]
  dsimp only
  rw [if_neg (by simp [hnum])]
  simp only [hc, Bool.false_eq_true, if_false, ha]

end

/-- Settles O28. -/
theorem sensorFrames : Obligations.SensorFrames := by
  refine ⟨fun s n e pk ha hn hu hc => ?_, fun s n e pk x f ha hn hu hc he hx hfe hf hnum hnew hfit hcod hfull hsn => ?_,
    fun s n e pk x f ha hn hu hc he hx hfe hf hnum hdup => ?_, fun s n e a x ha hn hu hw hl hb hx hfe hr hf hlate => ?_,
    fun s n e a b ha hn hu hab => ?_, fun s n e a x f ha hn hu hl hb hx hfe hf hnum hc hall => ?_, fun s c x f ha hx hf hr hd => ?_⟩
  · refine runs_act_to rfl ha ((if_neg ?_).trans (if_pos (by simp [hc])))
    rintro (h | h)
    · omega
    · exact absurd (hu.symm.trans h) (by decide)
  · obtain ⟨u, hcu, eu⟩ := linePacket_good (e := e) hn hu hc
    have hxu : getCtx u (portCtx u n) = some x := by rw [hcu.portCtx, getCtx_congr hcu.ctxs]; exact hx
    have hfu : feeds u x = true := by rw [hcu.frame]; exact hfe
    rw [goodPacket_open (by rw [hcu.hdr]; exact he) hxu hfu hf hnum, hcu.portCtx] at eu
    obtain ⟨m, hm⟩ := newFrame_frame (s := u) (n := n) (num := f.num) (by rw [hcu.frame]; exact hsn)
    have hj : judge u n (portCtx s n) x f pk = setCtx { u with sensors := m } (portCtx s n) { x with frame := some { f with
        pkts := f.pkts ++ [⟨Lp.plane pk, Lp.line pk, Lp.x0 pk, Lp.samples pk⟩], lastAt := s.dt } } := by
      rw [show s.dt = u.dt by rw [hcu.frame]]
      unfold judge
      dsimp only
      rw [if_neg (by rw [hnew]; decide), if_neg (by simp [hfit, hcod]), hm, hfull]
      rfl
    rw [hj] at eu
    have hcol := pktColour_frame (s := setCtx { u with sensors := m } (portCtx s n) { x with frame := some { f with
        pkts := f.pkts ++ [⟨Lp.plane pk, Lp.line pk, Lp.x0 pk, Lp.samples pk⟩], lastAt := s.dt } }) (n := n)
      ((congrArg (getCtx _) hcu.portCtx).trans ((getCtx_setCtx _ _ _ _).trans (if_pos rfl))) rfl
    obtain ⟨b, hb⟩ := tapCopy_coloured (pk := pk) (by rw [← hnum]; exact hcol)
    refine ⟨_, runs_act_to rfl ha (eu.trans hb), (getCtx_setCtx _ _ _ _).trans (if_pos rfl),
      fun c hc => (getCtx_setCtx _ _ _ _).trans ((if_neg hc).trans (getCtx_congr hcu.ctxs c)), ?_, ?_⟩
    · rw [hcu.frame]; rfl
    · rw [hcu.frame]; rfl
  · obtain ⟨u, hcu, eu⟩ := linePacket_good (e := e) hn hu hc
    have hxu : getCtx u (portCtx u n) = some x := by rw [hcu.portCtx, getCtx_congr hcu.ctxs]; exact hx
    have hfu : feeds u x = true := by rw [hcu.frame]; exact hfe
    have hj : judge u n (portCtx u n) x f pk = bump u (sensorPage n) 0 0x114 1 := if_pos hdup
    rw [goodPacket_open (by rw [hcu.hdr]; exact he) hxu hfu hf hnum, hj] at eu
    have hport : portCtx (bump u (sensorPage n) 0 0x114 1) n = portCtx u n := by
      unfold portCtx rbits rgetN
      rw [rget_bump_other _ _ _ _ _ _ _ _ (by decide) (by decide) (by decide) (by decide) (by simp)]
    have hcol := pktColour_frame (s := bump u (sensorPage n) 0 0x114 1) (n := n) ((congrArg (getCtx _) hport).trans hxu) hf
    obtain ⟨b, hb⟩ := tapCopy_coloured (pk := pk) (by rw [← hnum]; exact hcol)
    refine ⟨_, runs_act_to rfl ha (eu.trans hb), hcu.ctxs, ?_, ?_, ?_⟩
    · refine (rgetN_bump u (sensorPage n) 0 0x114 1).trans ?_
      unfold rgetN
      rw [hcu.regs 0x114 (by decide) (by decide) (by decide)]
    · rw [hcu.frame]; rfl
    · rw [hcu.frame]; rfl
  · obtain ⟨u, pre, hcu, eu⟩ := fmark_taken (e := e) hn hu hl
    have hxu : getCtx u (portCtx u n) = some x := by rw [hcu.portCtx, getCtx_congr hcu.ctxs]; exact hx
    have hfu : feeds u x = true := by rw [hcu.frame]; exact hfe
    have hwu : takesWork u (sensorPage n) = true := by rw [hcu.frame]; exact hw
    rw [hb, takeMark_start hwu hxu hfu hr hf hlate, hcu.portCtx] at eu
    obtain ⟨y, f, hy⟩ := openFrame_frame u (portCtx s n) x (beAt a 1 4) pre
    exact ⟨_, y, f, runs_act_to rfl ha eu, hy⟩
  · refine runs_act_to rfl ha ((if_neg ?_).trans (if_pos (.inl hab)))
    rintro (h | h)
    · omega
    · exact absurd (hu.symm.trans h) (by decide)
  · obtain ⟨u, pre, hcu, eu⟩ := fmark_taken (e := e) hn hu hl
    have hxu : getCtx u (portCtx u n) = some x := by rw [hcu.portCtx, getCtx_congr hcu.ctxs]; exact hx
    have hfu : feeds u x = true := by rw [hcu.frame]; exact hfe
    rw [hb, takeMark_end hxu hfu hf hnum hc hall, hcu.portCtx] at eu
    refine ⟨_, runs_act_to rfl ha eu, (getCtx_setCtx _ _ _ _).trans (if_pos rfl), ?_⟩
    rw [hcu.frame]
    rfl
  · have e : closeTimeout c s = closeFrame s c x f := by
      unfold closeTimeout
      rw [hx]
      dsimp only [Option.bind_some]
      rw [hf]
      exact if_neg (Nat.not_lt.mpr hd)
    obtain ⟨ps, hps⟩ := (closeFrame_pics (s := s) (c := c) (x := x) (f := f) (by omega)).get ((getCtx_setCtx _ _ _ _).trans (if_pos rfl))
    exact ⟨_, _, runs_act_to rfl ha e, hps, rfl, rfl, rfl⟩

end Sys2Proof.Machine

namespace Sys2Proof.Machine

/-! PROOFS. Upkeep of the stacks and of the Commons (R236 to R249). -/

section
variable {s t : State}

theorem setPc_setPc (s : State) (p : Nat) (x y : Pc) : setPc (setPc s p x) p y = setPc s p y :=
  congrArg (fun l => { s with pcs := l }) (nset_nset _ _ _ _)

theorem getPc_congr (h : t.pcs = s.pcs) (p : Nat) : getPc t p = getPc s p := by
  unfold getPc
  rw [h]

theorem Marked.pcs (h : Marked s t) : t.pcs = s.pcs := by rw [h.frame]

theorem Marked.hbm (h : Marked s t) : t.hbm = s.hbm := by rw [h.frame]

theorem Marked.hbmPoison (h : Marked s t) : t.hbmPoison = s.hbmPoison := by rw [h.frame]

theorem Marked.regsOnly (h : Marked s t) {u : State} (e : u = { t with regs := u.regs }) : Marked s u :=
  h.trans ⟨by rw [e], fun p => by rw [e]; rfl, fun p k hk => by rw [e]; exact hk⟩

theorem pageAt_pcPage {pc : Nat} (h : pc < 64) : pageAt (pcPage pc) = some (.hbm, pc / 2) := pageAt_hbmPage (by omega)

theorem hbmFault_marked (s : State) (page src : Nat) : Marked s (hbmFault s page src) :=
  ((Marked.refl s).raiseFault page src 0).setEvt page src

/-- The fault of a memory controller sets its source bit. -/
theorem hbmFault_src {pc src : Nat} (h : pc < 64) (hs : hasFlt .hbm src = true) (h16 : src < 16) :
    (hdr (hbmFault s (pcPage pc) src) (pcPage pc)).fltSrc.getLsbD src = true :=
  ((Marked.refl _).setEvt _ _).src _ _ (raiseFault_src (pageAt_pcPage h) hs h16)

/-- A spare period with no replay and the scrub off. -/
theorem sparePeriod_idle {pc c : Nat} {u : Bool} {v : State} (hp : pc < 64) (hu : blockUp s (pcPage pc) = true) (hr : pcRuns s pc = true)
    (h31 : 31 ≤ (getPc s pc).period) (hl : l24Stalls s pc = false) (hrep : (getPc s pc).replays = [])
    (hoff : rbits s (phyPage 0) 0 0x114 0 0 = 0) (hv : evG 0x107 (setPc s pc { getPc s pc with period := 0, last := none }) = v) :
    sparePeriod pc c u s =
      setPc v pc { getPc v pc with debt := (getPc v pc).debt - 1, debtBad := (getPc v pc).debtBad && decide (1 < (getPc v pc).debt) } := by
  have h1 : rbits (setPc s pc { getPc s pc with period := 0, last := none }) (phyPage 0) 0 0x114 0 0 = 0 := hoff
  have hgo : ¬(64 ≤ pc ∨ (!blockUp s (pcPage pc)) = true ∨ (!pcRuns s pc) = true ∨ (getPc s pc).period < 31 ∨ l24Stalls s pc = true) := by
    simp only [hu, hr, hl, Bool.not_true, Bool.false_eq_true, false_or, or_false]
    omega
  unfold sparePeriod
  dsimp only
  rw [if_neg hgo]
  generalize setPc s pc { getPc s pc with period := 0, last := none } = s0 at *
  rw [hrep]
  dsimp only
  rw [h1, if_neg (show ¬((0 : Nat) = 1 ∧ pcRegion s0 pc ≤ 16) from fun h => absurd h.1 (by decide)), ite_self, hv]

theorem comTakes_frame (l : List Nat) (s : State) : ∃ a, l.foldl (fun s b => comTake s (16 * b) 2) s = { s with arbs := a } := by
  induction l generalizing s with
  | nil => exact ⟨_, rfl⟩
  | cons b l ih =>
    obtain ⟨a, ha⟩ := ih (comTake s (16 * b) 2)
    exact ⟨a, ha⟩

/-- The marks of a bad Commons word in the FIFOs touch contexts only. -/
theorem markWords_frame (l : List Nat) (s : State) (a : Nat) :
    ∃ m, l.foldl (fun s f => markWord s f a) s = { s with ctxs := m } := by
  have h1 : ∀ s f, ∃ m, markWord s f a = { s with ctxs := m } := fun s f => by
    unfold markWord
    extract_lets n x d
    clear_value d
    split
    · exact ⟨_, rfl⟩
    · split
      · exact ⟨_, rfl⟩
      · split <;> exact ⟨_, rfl⟩
  induction l generalizing s with
  | nil => exact ⟨_, rfl⟩
  | cons f l ih =>
    obtain ⟨m, hm⟩ := h1 s f
    obtain ⟨m', hm'⟩ := ih (markWord s f a)
    refine ⟨m', hm'.trans ?_⟩
    rw [hm]

theorem Noted.pcs (h : Noted s t) : t.pcs = s.pcs := by rw [h.frame]

theorem Noted.comPoison (h : Noted s t) : t.comPoison = s.comPoison := by rw [h.frame]

theorem Noted.comScrub (h : Noted s t) : t.comScrub = s.comScrub := by rw [h.frame]

/-- An uncorrectable Commons word is marked and counted (R249). -/
theorem comUe_spec (s : State) (a : Nat) :
    (comUe s a).comPoison = (if s.comPoison.contains a then s.comPoison else s.comPoison ++ [a]) ∧ (comUe s a).comScrub = s.comScrub ∧
    rgetN (comUe s a) fifoPg 0 0x184 = min 0xFFFFFFFF (rgetN s fifoPg 0 0x184 + 1) := by
  obtain ⟨m, hm⟩ := markWords_frame (List.range 216) (rputN (bump s fifoPg 0 0x184 1) fifoPg 0 0x188 a) a
  unfold comUe
  dsimp only
  rw [hm]
  dsimp only
  have hn := fun v => raiseFault_noted v fifoPg 14 0
  refine ⟨(hn _).comPoison, (hn _).comScrub, ?_⟩
  refine (congrArg BitVec.toNat ((hn _).regs fifoPg 0 0x184 (by decide) (by decide) (by decide) (by decide))).trans ?_
  refine (rgetN_rputN_other (bump s fifoPg 0 0x184 1) a (by decide) (by decide) (by decide) (by decide) fun h => absurd h.2.2 (by decide)).trans ?_
  exact rgetN_bump s fifoPg 0 0x184 1

/-- The words of the scrubbed row that show an error, now or before. -/
def scrubWords (errs : List CommonsErr) (s : State) : List CommonsErr :=
  let here := errs.filter fun e => comRow e.addr == s.comScrub
  here ++ (s.comPoison.filter fun b => comRow b == s.comScrub && !here.any fun e => e.addr == b).map fun b => ⟨b, true⟩

theorem commonsScrub_eq (errs : List CommonsErr) (s : State) : ∃ u ar, u = { s with arbs := ar, comScrub := (s.comScrub + 1) % 16384 } ∧
    commonsScrub errs s =
      (scrubWords errs s).foldl (fun s (e : CommonsErr) => if e.double then comUe s e.addr else comCe s e.addr) u := by
  obtain ⟨ar, har⟩ := comTakes_frame (List.range 48) s
  refine ⟨_, ar, rfl, ?_⟩
  unfold commonsScrub
  rw [har]
  rfl

/-- A scrub period whose row shows one uncorrectable word, now or before. -/
theorem commonsScrub_one {errs : List CommonsErr} {a : Nat} (h : scrubWords errs s = [⟨a, true⟩]) :
    ∃ t, commonsScrub errs s = t ∧ t.comPoison = (if s.comPoison.contains a then s.comPoison else s.comPoison ++ [a]) ∧
      t.comScrub = (s.comScrub + 1) % 16384 ∧ rgetN t fifoPg 0 0x184 = min 0xFFFFFFFF (rgetN s fifoPg 0 0x184 + 1) := by
  obtain ⟨u, ar, hu, e⟩ := commonsScrub_eq errs s
  rw [h] at e
  obtain ⟨h1, h2, h3⟩ := comUe_spec u a
  have hp : u.comPoison = s.comPoison := by rw [hu]
  have hs : u.comScrub = (s.comScrub + 1) % 16384 := by rw [hu]
  have hr : u.regs = s.regs := by rw [hu]
  refine ⟨comUe u a, e.trans (by rw [List.foldl_cons, if_pos rfl, List.foldl_nil]), by rw [h1, hp], h2.trans hs, h3.trans ?_⟩
  unfold rgetN rget
  rw [hr]

/-- A retraining that fails a stack's pseudo-channel leaves the count and, at the third in a row, the failure. -/
theorem retrainEnd_fails {pc : Nat} (hp : pc < 64) : ∃ t, retrainEnd pc false s = t ∧
    getPc t pc = { getPc s pc with
      trainFails := (getPc s pc).trainFails + 1, failed := (getPc s pc).failed || decide (2 ≤ (getPc s pc).trainFails) } ∧
    ∀ k, k < 2 → rgetN t (phyPage k) 0 0x11C = min 0xFFFFFFFF (rgetN s (phyPage k) 0 0x11C + 1) := by
  set s1 := bump (bump (setPc s pc { getPc s pc with trainFails := (getPc s pc).trainFails + 1 }) (phyPage 0) 0 0x11C 1) (phyPage 1) 0 0x11C 1
    with hs1
  have hn : Noted s1 (hbmFault s1 (pcPage pc) 4) := (raiseFault_noted _ _ _ _).trans (setEvt_noted _ _ _)
  have hget : getPc (hbmFault s1 (pcPage pc) 4) pc = { getPc s pc with trainFails := (getPc s pc).trainFails + 1 } :=
    (getPc_congr (hbmFault_marked _ _ _).pcs pc).trans ((getPc_setPc _ _ _ _).trans (if_pos rfl))
  have hreg1 : ∀ k, k < 2 → rgetN s1 (phyPage k) 0 0x11C = min 0xFFFFFFFF (rgetN s (phyPage k) 0 0x11C + 1) := fun k hk => by
    obtain rfl | rfl : k = 0 ∨ k = 1 := by omega
    · exact (congrArg BitVec.toNat (rget_bump_other _ _ _ _ _ _ _ _ (by decide) (by decide) (by decide) (by decide) (by decide))).trans
        (rgetN_bump _ _ _ _ _)
    · refine (rgetN_bump _ _ _ _ _).trans ?_
      refine congrArg (fun v => min 0xFFFFFFFF (v + 1)) ?_
      exact congrArg BitVec.toNat (rget_bump_other _ _ _ _ _ _ _ _ (by decide) (by decide) (by decide) (by decide) (by decide))
  have hreg : ∀ t, Noted (hbmFault s1 (pcPage pc) 4) t → ∀ k, k < 2 →
      rgetN t (phyPage k) 0 0x11C = min 0xFFFFFFFF (rgetN s (phyPage k) 0 0x11C + 1) := fun t ht k hk =>
    (congrArg BitVec.toNat ((hn.trans ht).regs (phyPage k) 0 0x11C
      (by obtain rfl | rfl : k = 0 ∨ k = 1 := by omega
          · decide
          · decide)
      (by obtain rfl | rfl : k = 0 ∨ k = 1 := by omega
          · decide
          · decide) (by decide) (by decide))).trans (hreg1 k hk)
  by_cases h3 : 3 ≤ (getPc s pc).trainFails + 1
  · have e : retrainEnd pc false s = containBreach (fencePage (setPc (hbmFault s1 (pcPage pc) 4) pc
        { getPc (hbmFault s1 (pcPage pc) 4) pc with failed := true }) (pcPage pc)) .hbm (pcPage pc) 4 0 := by
      unfold retrainEnd
      dsimp only
      rw [if_neg (by omega), if_neg (by simp), if_pos h3]
    have hc := (fencePage_noted (setPc (hbmFault s1 (pcPage pc) 4) pc { getPc (hbmFault s1 (pcPage pc) 4) pc with failed := true })
      (pcPage pc)).trans (containBreach_noted _ .hbm (pcPage pc) 4 0)
    have hpcs := hc.pcs
    refine ⟨_, e, ?_, fun k hk => ?_⟩
    · rw [getPc_congr hpcs, getPc_setPc, if_pos rfl, hget]
      simp [show 2 ≤ (getPc s pc).trainFails by omega]
    · refine (congrArg BitVec.toNat (hc.regs (phyPage k) 0 0x11C
        (by obtain rfl | rfl : k = 0 ∨ k = 1 := by omega
            · decide
            · decide)
        (by obtain rfl | rfl : k = 0 ∨ k = 1 := by omega
            · decide
            · decide) (by decide) (by decide))).trans (hreg _ (Noted.refl _) k hk)
  · have e : retrainEnd pc false s = hbmFault s1 (pcPage pc) 4 := by
      unfold retrainEnd
      dsimp only
      rw [if_neg (by omega), if_neg (by simp), if_neg h3]
    refine ⟨_, e, ?_, hreg _ (Noted.refl _)⟩
    rw [hget]
    simp [show ¬ 2 ≤ (getPc s pc).trainFails by omega]

end

/-- Settles O15. -/
theorem hbmUpkeep : Obligations.HbmUpkeep := by
  refine ⟨fun s pc c u ha hp hu hr h31 hl hrep hoff => ?_, fun s pc r ha hp hu hl hlast => ?_, fun s pc ha hp hu hl => ?_,
    fun s pc ha hp hl hlast => ?_, fun s ha hsn => ?_, fun s n i ha hsn hpg => ?_, fun s pc ha hp => ?_, fun s pc ha hp => ?_,
    fun s ha hno => ?_, fun s a ha hrow hone => ?_, fun s a ha hone hrow => ?_⟩
  · have e := sparePeriod_idle (c := c) (u := u) hp hu hr h31 hl hrep hoff rfl
    have hev := (evG_told 0x107 (setPc s pc { getPc s pc with period := 0, last := none })).noted
    have hg : getPc (evG 0x107 (setPc s pc { getPc s pc with period := 0, last := none })) pc = { getPc s pc with period := 0, last := none } :=
      (getPc_congr hev.pcs pc).trans ((getPc_setPc _ _ _ _).trans (if_pos rfl))
    refine ⟨_, runs_act_to rfl ha e, ?_, ?_, ?_⟩
    · rw [hev.frame]; rfl
    · rw [hev.frame]; rfl
    · rw [getPc_setPc, if_pos rfl, hg]
  · have hm : ∀ (v : State) (b : Nat), Marked v
        (hbmFault (hbmInfo (bump16 v (pcPage pc) 0 (0x110 + 4 * (pc % 2)) 16 1) pc 3 b) (pcPage pc) 2) := fun v b =>
      ((Marked.refl v).regsOnly rfl).trans (hbmFault_marked _ _ _)
    refine ⟨_, runs_act_to rfl ha ((if_neg ?_).trans ((if_neg ?_).trans (by rw [hlast]))), ?_, hbmFault_src hp (by decide) (by decide), ?_⟩
    · simp only [hu, Bool.not_true, Bool.false_eq_true, or_false]
      omega
    · simp [hl]
    · exact (getPc_congr (hm _ _).pcs pc).trans ((getPc_setPc _ _ _ _).trans (if_pos rfl))
    · exact (hm _ _).hbm
  · have hm : Marked s (hbmFault (hbmInfo (bump16 s (pcPage pc) 0 (0x110 + 4 * (pc % 2)) 16 1) pc 3 0) (pcPage pc) 2) :=
      ((Marked.refl s).regsOnly rfl).trans (hbmFault_marked _ _ _)
    refine ⟨_, runs_act_to rfl ha ((if_neg ?_).trans (if_pos hl)), getPc_congr hm.pcs pc, hbmFault_src hp (by decide) (by decide), hm.hbm⟩
    simp only [hu, Bool.not_true, Bool.false_eq_true, or_false]
    omega
  · refine runs_act_to rfl ha ?_
    unfold parityAlert
    dsimp only
    rw [hl, hlast]
    exact ite_self _
  · exact runs_act_to rfl ha (applySnaps_none (by rw [show ({ carEntryEnd 24 s with hbmHold := false } : State).snaps = [] from hsn]; rfl))
  · refine runs_act_to rfl ha ?_
    have hs : ({ carEntryEnd 24 s with hbmHold := false } : State).snaps = [n] := hsn
    unfold l24Window applySnaps
    rw [hs, List.filter_cons_of_pos (by rw [hpg])]
    rfl
  · exact runs_act_to rfl ha ((if_neg (by omega)).trans (if_pos rfl))
  · obtain ⟨t, e, h⟩ := retrainEnd_fails (s := s) hp
    exact ⟨t, runs_act_to rfl ha e, h⟩
  · obtain ⟨u, ar, hu, e⟩ := commonsScrub_eq [] s
    have hw : scrubWords [] s = [] := by
      simp only [scrubWords, List.filter_nil, List.any_nil, Bool.not_false, Bool.and_true, hno]
      rfl
    rw [hw] at e
    refine ⟨u, runs_act_to rfl ha e, ?_⟩
    rw [hu]
  · have hw : scrubWords [⟨a, true⟩] s = [⟨a, true⟩] := by
      have hhere : ([⟨a, true⟩] : List CommonsErr).filter (fun e => comRow e.addr == s.comScrub) = [⟨a, true⟩] :=
        List.filter_cons_of_pos (by simp [hrow])
      have hold : (s.comPoison.filter fun b => comRow b == s.comScrub && !([⟨a, true⟩] : List CommonsErr).any fun e => e.addr == b) = [] := by
        refine List.filter_eq_nil_iff.mpr fun b hb => ?_
        by_cases hr : comRow b = s.comScrub
        · simp [hone b hb hr]
        · simp [hr]
      simp only [scrubWords, hhere, hold]
      rfl
    obtain ⟨t, e, hpo, hsc, hcnt⟩ := commonsScrub_one hw
    refine ⟨t, runs_act_to rfl ha e, ?_, hsc, hcnt⟩
    rw [hpo]
    split
    next h => exact List.contains_iff_mem.mp h
    next => simp
  · have hw : scrubWords [] s = [⟨a, true⟩] := by
      simp only [scrubWords, List.filter_nil, List.any_nil, Bool.not_false, Bool.and_true, hone]
      rw [List.filter_cons_of_pos (by simp [hrow])]
      rfl
    obtain ⟨t, e, hpo, -, hcnt⟩ := commonsScrub_one hw
    refine ⟨t, runs_act_to rfl ha e, ?_, hcnt⟩
    rw [hpo, hone]
    simp

end Sys2Proof.Machine

namespace Sys2Proof.Machine

/-! PROOFS. Requests to the stacks: the ingress, the queues, issue and completion (R231 to R243). -/

/-! ## The ingress -/

/-- The pieces of a request lie in one block each and keep its context and direction (R231). -/
theorem cutReq_pieces : ∀ (f : Nat) (r : HbmReq), ∀ p ∈ cutReq f r, p.addr % 256 + p.len ≤ 256 ∧ p.ctx = r.ctx ∧ p.wr = r.wr
  | 0, _ => fun _ hp => absurd hp List.not_mem_nil
  | f + 1, r => fun p hp => by
    unfold cutReq at hp
    dsimp only at hp
    have hlt : r.addr % 256 < 256 := Nat.mod_lt _ (by decide)
    split at hp
    · obtain rfl := List.mem_singleton.mp hp
      exact ⟨by omega, rfl, rfl⟩
    · rcases List.mem_cons.mp hp with rfl | hp
      · exact ⟨by dsimp only; omega, rfl, rfl⟩
      · have h := cutReq_pieces f _ p hp
        exact h

section
variable {s t : State}

theorem hbmLocs_zero (s : State) (a : Nat) : hbmLocs s a 0 0 = hbmLoc s a := by
  unfold hbmLocs hbmLoc
  have h : a % 2 ^ 36 + 0 ≤ 2 ^ 36 := Nat.le_of_lt (Nat.mod_lt _ (Nat.two_pow_pos 36))
  rw [if_pos h]
  rfl

theorem reqPc_congr (h : ∀ a n, hbmLocs t a n = hbmLocs s a n) (r : HbmReq) : reqPc t r = reqPc s r := by
  unfold reqPc
  rw [← hbmLocs_zero, ← hbmLocs_zero, h]

/-- Requests of a requester that has one before them are no candidates. -/
theorem ingCands_seen {k : Nat} {seen : List Nat} {l : List HbmReq} (i : Nat) (hk : k ∈ seen) (hl : ∀ r ∈ l, ingKey r = k) :
    ingCands s i l seen = [] := by
  induction l generalizing i seen with
  | nil => rfl
  | cons r l ih =>
    have hr := hl r List.mem_cons_self
    unfold ingCands
    dsimp only
    rw [if_neg (by simp [hr, hk]), ih (i + 1) (List.mem_cons_of_mem _ hk) fun q hq => hl q (List.mem_cons_of_mem _ hq)]

/-- The pieces of one request have its requester. -/
theorem ingKey_pieces {f : Nat} {r p : HbmReq} (h : p ∈ cutReq f r) : ingKey p = ingKey r := by
  unfold ingKey
  rw [(cutReq_pieces f r p h).2.1]

/-- Of one request alone at the ingress the first piece is the candidate when it may pass. -/
theorem ingCands_one {f : Nat} {r p : HbmReq} {q : List HbmReq} (h : cutReq f r = p :: q) :
    ingCands s 0 (p :: q) [] = if mayPass s p then [(0, p)] else [] := by
  have hq : ∀ x ∈ q, ingKey x = ingKey p := fun x hx =>
    (ingKey_pieces (h ▸ List.mem_cons_of_mem _ hx)).trans (ingKey_pieces (h ▸ List.mem_cons_self)).symm
  unfold ingCands
  dsimp only
  rw [ingCands_seen 1 List.mem_cons_self hq]
  simp

/-- The only candidate is granted. -/
theorem ingGrant_one {p : HbmReq} (h : ingCands s 0 s.ingress [] = [(0, p)]) : ∃ lim, ingGrant s = some ((0, p), lim) := by
  unfold ingGrant
  rw [h]
  dsimp only
  rw [List.filter_cons_of_pos (by simp), List.filter_nil]
  by_cases hl : ingLimit s p ≤ ingWait s p
  · refine ⟨true, ?_⟩
    rw [List.filter_cons_of_pos (by simpa using hl)]
    rfl
  · refine ⟨false, ?_⟩
    rw [List.filter_cons_of_neg (by simpa using hl)]
    rfl

/-- What a request that leaves the ingress leaves. -/
theorem ingEnter_spec (s : State) (i : Nat) (r : HbmReq) : (ingEnter s i r).ingress = s.ingress.eraseIdx i ∧
    getPc (ingEnter s i r) (reqPc s r) = { getPc s (reqPc s r) with queue := (getPc s (reqPc s r)).queue ++ [r] } ∧
    (∀ c, c ≠ reqPc s r → getPc (ingEnter s i r) c = getPc s c) ∧
    ingEnter s i r = { s with
      ingress := (ingEnter s i r).ingress, pcs := (ingEnter s i r).pcs, hbmWait := (ingEnter s i r).hbmWait
      hbmGrant := (ingEnter s i r).hbmGrant } :=
  ⟨rfl, (getPc_setPc _ _ _ _).trans (if_pos rfl), fun _ hc => (getPc_setPc _ _ _ _).trans (if_neg hc), rfl⟩

/-- The count of grants that a wait limit decided; it changes no pseudo-channel of a request. -/
theorem grantCount (s : State) (lim : Bool) : ∃ u : State, (if lim then bump s tkbPg 0 0x264 1 else s) = u ∧ u = { s with regs := u.regs } ∧
    (∀ r, reqPc u r = reqPc s r) ∧
    rgetN u tkbPg 0 0x264 = if lim then min 0xFFFFFFFF (rgetN s tkbPg 0 0x264 + 1) else rgetN s tkbPg 0 0x264 := by
  cases lim with
  | false => exact ⟨s, rfl, rfl, fun _ => rfl, rfl⟩
  | true =>
    refine ⟨_, rfl, rfl, reqPc_congr (hbmLocs_congr (fun c hc => ?_) fun o ho => ?_), rgetN_bump _ _ _ _ _⟩
    · have hpage : ∀ c, c < 32 → hbmPage c ≠ tkbPg := by decide
      exact rget_bump_other _ _ _ _ _ _ _ _ (by decide) (by decide) (by decide) (by decide) fun h => hpage c hc h.1
    · exact rget_bump_other _ _ _ _ _ _ _ _ (by decide) (by decide) (by decide) (grainWord_lt o ho) fun h => absurd h.1 (by decide)

/-- The state in which the arbiter looks at a request that comes to an empty ingress. -/
def ingressWith (s : State) (l : List HbmReq) : State :=
  { s with
    ingress := l
    hbmWait := l.foldl (fun m r => if (nget m (ingKey r)).isSome then m else nset m (ingKey r) s.tick) s.hbmWait }

theorem ingressPass_some {r p : HbmReq} {q : List HbmReq} (h0 : s.ingress = []) (hc : cutReq (r.len + 1) r = p :: q) :
    ingressPass (some r) s = match ingGrant (ingressWith s (p :: q)) with
      | some (e, lim) => ingEnter (if lim then bump (ingressWith s (p :: q)) tkbPg 0 0x264 1 else ingressWith s (p :: q)) e.1 e.2
      | none => ingressWith s (p :: q) := by
  unfold ingressPass
  dsimp only [Option.map_some, Option.getD_some]
  rw [hc, h0]
  rfl

/-! ## Stores -/

theorem SameStore.hbmWriteB (h : SameStore s t) (a : Nat) (bs : List Byte) (p : Bool) :
    SameStore (hbmWriteB s a bs p) (hbmWriteB t a bs p) := h.memWrite 1 a bs p

theorem SameStore.storeReq (h : SameStore s t) (r : HbmReq) : SameStore (storeReq s r) (storeReq t r) := by
  unfold Machine.storeReq
  dsimp only
  split
  · exact h.hbmWriteB _ _ _
  · generalize (List.range (r.data.take r.len).length).zip ((r.data.take r.len).zip r.en) = l
    induction l generalizing s t with
    | nil => exact h
    | cons e l ih =>
      rw [List.foldl_cons, List.foldl_cons]
      refine ih ?_
      split
      · exact h.hbmWriteB _ _ _
      · exact h

theorem storeReq_frame (s : State) (r : HbmReq) : ∃ m p, storeReq s r = { s with hbm := m, hbmPoison := p } := by
  unfold storeReq
  dsimp only
  split
  · exact ⟨_, _, rfl⟩
  · generalize (List.range (r.data.take r.len).length).zip ((r.data.take r.len).zip r.en) = l
    induction l generalizing s with
    | nil => exact ⟨_, _, rfl⟩
    | cons e l ih =>
      rw [List.foldl_cons]
      split
      · obtain ⟨m, p, h⟩ := ih (hbmWriteB s (r.addr + e.1) [e.2.1] false)
        exact ⟨m, p, h⟩
      · exact ih s

theorem Told.sameStore (h : Told s t) : SameStore s t := h.noted.memNoted.sameStore

theorem SameStore.hbmRead (h : SameStore s t) (a n : Nat) : (hbmRead t a n).1 = (hbmRead s a n).1 := by
  unfold Machine.hbmRead
  dsimp only
  rw [h.hbm, h.locs]

/-! ## Issue -/

/-- The state in which a request that meets no replay debt does its work. -/
theorem issue_told {pc : Nat} {r : HbmReq} (hd : (getPc s pc).debtBad = false) :
    ∃ v, Told (setPc s pc { getPc s pc with last := some (some r) }) v ∧
      getPc v pc = { getPc s pc with last := some (some r) } ∧
      evG 0x105 (if (getPc (setPc s pc { getPc s pc with last := some (some r) }) pc).debtBad
        then memUe (setPc s pc { getPc s pc with last := some (some r) }) r
        else setPc s pc { getPc s pc with last := some (some r) }) = v := by
  refine ⟨_, evG_told 0x105 (setPc s pc { getPc s pc with last := some (some r) }), ?_, ?_⟩
  · exact (getPc_congr (evG_told 0x105 _).noted.pcs pc).trans ((getPc_setPc _ _ _ _).trans (if_pos rfl))
  · rw [getPc_setPc, if_pos rfl]
    dsimp only
    rw [hd]
    rfl

theorem Told.memory (h : Told s t) : t.hbm = s.hbm ∧ t.hbmPoison = s.hbmPoison ∧ t.ctxs = s.ctxs := by
  rw [h.frame]
  exact ⟨rfl, rfl, rfl⟩

/-- A read samples its bytes when it issues (R233). -/
theorem issue_read {pc : Nat} {r : HbmReq} {l : Nat × Nat} (hd : (getPc s pc).debtBad = false) (hl : hbmLoc s r.addr = some l)
    (hw : r.wr = false) : ∃ t, issue s pc r false = t ∧ t.hbm = s.hbm ∧ t.hbmPoison = s.hbmPoison ∧ t.ctxs = s.ctxs ∧
      getPc t pc = { getPc s pc with
        last := some (some r), reads := (getPc s pc).reads ++ [{ req := r, data := (hbmRead s r.addr r.len).1 }] } := by
  obtain ⟨v, hv, hg, e⟩ := issue_told (r := r) hd
  obtain ⟨h1, h2, h3⟩ := hv.memory
  refine ⟨setPc v pc { getPc v pc with reads := (getPc v pc).reads ++ [{ req := r, data := (hbmRead v r.addr r.len).1 }] }, ?_, h1, h2, h3, ?_⟩
  · unfold issue
    dsimp only
    rw [e, hl]
    dsimp only
    rw [hw]
    rfl
  · rw [getPc_setPc, if_pos rfl, hg, hv.sameStore.hbmRead]
    rfl

/-- A write stores its bytes when it issues (R233, R235). -/
theorem issue_write {pc : Nat} {r : HbmReq} {l : Nat × Nat} (hd : (getPc s pc).debtBad = false) (hl : hbmLoc s r.addr = some l)
    (hw : r.wr = true) : ∃ v, v.hbm = (storeReq s r).hbm ∧ v.ctxs = s.ctxs ∧ getPc v pc = { getPc s pc with last := some (some r) } ∧
      issue s pc r false = if reqOn r < 256 then setPc v pc { getPc v pc with reads := (getPc v pc).reads ++ [{ req := r }] }
        else setPc v pc { getPc v pc with
          writes := (getPc v pc).writes ++ [r]
          reads := (getPc v pc).reads.map fun d => if reqBlock s d.req = reqBlock s r then { d with gone := true } else d
          replays := (getPc v pc).replays.map fun d => { d with
            rd := d.rd.map fun e => if reqBlock s e.req = reqBlock s r then { e with gone := true } else e } } := by
  obtain ⟨v, hv, hg, e⟩ := issue_told (r := r) hd
  obtain ⟨h1, h2, h3⟩ := hv.memory
  obtain ⟨m, p, hst⟩ := storeReq_frame v r
  have h0 : SameStore s (setPc s pc { getPc s pc with last := some (some r) }) := ⟨rfl, rfl, rfl, fun _ _ => rfl⟩
  have hsame : SameStore s v := h0.trans hv.sameStore
  refine ⟨storeReq v r, (hsame.storeReq r).hbm, ?_, ?_, ?_⟩
  · rw [hst]; exact h3
  · rw [hst]; exact hg
  · unfold issue
    dsimp only
    rw [e, hl]
    dsimp only
    rw [hw]
    rfl

/-- The queued request that fits before the spare period issues in its access period (R233, R236). -/
theorem hbmAccess_issues {pc : Nat} {r : HbmReq} {q : List HbmReq} (hp : pc < 64) (hu : blockUp s (pcPage pc) = true)
    (hr : pcRuns s pc = true) (hl : l24Stalls s pc = false) (hrep : (getPc s pc).replays = []) (hq : (getPc s pc).queue = r :: q)
    (h31 : (getPc s pc).period + reqPeriods r ≤ 31) (hpos : 0 < reqPeriods r) (hb : beforeL24 s s.dt (reqPeriods r) = true) :
    hbmAccess pc s = issue (setPc s pc { getPc s pc with period := (getPc s pc).period + reqPeriods r, queue := q }) pc r false := by
  unfold hbmAccess
  dsimp only
  rw [if_neg (by simp only [hu, hr, hl, Bool.not_true, Bool.false_eq_true, false_or, or_false]; omega)]
  split
  next h => exact absurd (hrep.symm.trans h) (by simp)
  next r' t' h1 h2 =>
    obtain ⟨rfl, rfl⟩ := List.cons.inj (hq.symm.trans h2)
    exact if_pos ⟨h31, hb⟩
  next h1 h2 => exact absurd (hq.symm.trans h2) (by simp)

/-! ## Completion -/

theorem hbmCe_none (s : State) (pc b : Nat) : hbmCe s pc 0 b = s := if_pos rfl

theorem memUe_frame (s : State) (r : HbmReq) : ∃ m, memUe s r = { s with ctxs := m } := by
  unfold memUe
  split <;> exact ⟨_, rfl⟩

/-- Data delivered with an uncorrectable error is poisoned, and its block is marked (R241). -/
theorem deliver_bad {pc : Nat} {d : HbmRd} (hg : d.gone = false) (hc : s.hbmPoison.contains (reqBlock s d.req) = false)
    (hw : d.req.wr = false) : ∃ t, deliver s pc d true = t ∧ t.hbmOut = { data := d.data, poison := true } ∧
      t.hbmPoison = s.hbmPoison ++ [reqBlock s d.req] := by
  obtain ⟨m, hm⟩ := memUe_frame (hbmUe s pc (reqBlock s d.req)) d.req
  have hpo : (memUe (hbmUe s pc (reqBlock s d.req)) d.req).hbmPoison = s.hbmPoison := by
    rw [hm]
    exact (((Marked.refl s).regsOnly rfl).trans (hbmFault_marked _ _ _)).hbmPoison
  unfold deliver
  dsimp only
  rw [if_pos rfl, hpo, hg, hc, hw]
  exact ⟨_, rfl, rfl, rfl⟩

theorem readComplete_eq {pc n : Nat} {u b : Bool} {d : HbmRd} {q : List HbmRd} (hr : (getPc s pc).reads = d :: q) :
    readComplete pc n u b s =
      let s1 := hbmCe (setPc s pc { getPc s pc with reads := q }) pc n (reqBlock s d.req)
      let bad := (if d.again then b else u) || (s.hbmPoison.contains (reqBlock s d.req) && !d.gone)
      if bad && !d.again && (getPc s pc).debt == 0 && (getPc s pc).replays.isEmpty then
        setPc (bump16 s1 (pcPage pc) 0 (0x110 + 4 * (pc % 2)) 0 1) pc { getPc s1 pc with replays := [⟨false, some d.req, some d⟩] }
      else deliver s1 pc d bad := by
  unfold readComplete
  dsimp only
  split
  next h => exact absurd (hr.symm.trans h) (by simp)
  next d' t' h =>
    obtain ⟨rfl, rfl⟩ := List.cons.inj (hr.symm.trans h)
    rfl

end

/-- Settles O14. -/
theorem hbmRequests : Obligations.HbmRequests := by
  refine ⟨fun r p hp => cutReq_pieces _ _ p hp, fun s r p q ha h0 hc hm => ?_, fun s r p q ha h0 hc hm => ?_, fun s e lim ha hg => ?_,
    fun s pc r q l ha hp hu hr h31 hl hrep hd hq hw hb hloc => ?_, fun s pc r q l ha hp hu hr h31 hl hrep hd hq hw hlen hdata hon hb hloc => ?_,
    fun s pc r q l ha hp hu hr h31 hl hrep hd hq hw hon hb hloc => ?_, fun s pc ha hp hu hr h31 hl hrep hq => ?_,
    fun s pc d q ha hp hu hrd hw hpo => ?_, fun s pc d q b ha hp hu hrd hag hd hrep => ?_,
    fun s pc d q ha hp hu hrd hw hg hpo hor => ?_, fun s pc r q ha hp hu hw => ?_⟩
  · have hm' : mayPass (ingressWith s (p :: q)) p = true := hm
    have hcand : ingCands (ingressWith s (p :: q)) 0 (ingressWith s (p :: q)).ingress [] = [(0, p)] := (ingCands_one hc).trans (if_pos hm')
    obtain ⟨lim, hg⟩ := ingGrant_one hcand
    obtain ⟨u, hu, huf, hureq, -⟩ := grantCount (ingressWith s (p :: q)) lim
    have e := ingressPass_some h0 hc
    rw [hg] at e
    dsimp only at e
    rw [hu] at e
    obtain ⟨h1, h2, h3, h4⟩ := ingEnter_spec u 0 p
    have hpc : reqPc u p = reqPc s p := hureq p
    have hget : ∀ c, getPc u c = getPc s c := fun c => by rw [huf]; rfl
    rw [hpc] at h2 h3
    refine ⟨_, runs_act_to rfl ha e, ?_, ?_, fun c hc => (h3 c hc).trans (hget c), ?_⟩
    · rw [h1, huf]; rfl
    · rw [h2, hget]
    · rw [h4, huf]; rfl
  · have hcand : ingCands (ingressWith s (p :: q)) 0 (ingressWith s (p :: q)).ingress [] = [] :=
      (ingCands_one hc).trans (if_neg (by rw [show mayPass (ingressWith s (p :: q)) p = false from hm]; decide))
    have hg : ingGrant (ingressWith s (p :: q)) = none := by
      unfold ingGrant
      rw [hcand]
    have e := ingressPass_some h0 hc
    rw [hg] at e
    exact ⟨_, runs_act_to rfl ha e, rfl⟩
  · have he : ingressPass none s = ingEnter (if lim then bump s tkbPg 0 0x264 1 else s) e.1 e.2 := by
      have h0 : ({ s with ingress := s.ingress ++ [] } : State) = s := by rw [List.append_nil]
      unfold ingressPass
      dsimp only [Option.map_none, Option.getD_none, List.foldl_nil]
      rw [h0, hg]
    obtain ⟨u, hu, huf, hureq, hcnt⟩ := grantCount s lim
    rw [hu] at he
    obtain ⟨h1, h2, -, h4⟩ := ingEnter_spec u e.1 e.2
    have hget : ∀ c, getPc u c = getPc s c := fun c => by rw [huf]; rfl
    rw [hureq, hget] at h2
    refine ⟨_, runs_act_to rfl ha he, ?_, h2, ?_⟩
    · rw [h1, huf]
    · rw [← hcnt]
      rw [h4]
      rfl
  · have h1 : reqPeriods r = 1 := by unfold reqPeriods; rw [hw]; rfl
    have e := hbmAccess_issues hp hu hr hl hrep hq (by omega) (by omega) (by rw [h1]; exact hb)
    rw [h1] at e
    set s0 := setPc s pc { getPc s pc with period := (getPc s pc).period + 1, queue := q } with hs0
    have hg0 : getPc s0 pc = { getPc s pc with period := (getPc s pc).period + 1, queue := q } := (getPc_setPc _ _ _ _).trans (if_pos rfl)
    obtain ⟨t, et, h2, h3, h4, h5⟩ := issue_read (s := s0) (pc := pc) (r := r) (l := l) (by rw [hg0]; exact hd) hloc hw
    refine ⟨t, runs_act_to rfl ha (e.trans et), h2, h3, h4, ?_⟩
    rw [h5, hg0]
    rfl
  · have h1 : reqPeriods r = 1 := by unfold reqPeriods; rw [hon]; simp
    have e := hbmAccess_issues hp hu hr hl hrep hq (by omega) (by omega) (by rw [h1]; exact hb)
    rw [h1] at e
    set s0 := setPc s pc { getPc s pc with period := (getPc s pc).period + 1, queue := q } with hs0
    have hg0 : getPc s0 pc = { getPc s pc with period := (getPc s pc).period + 1, queue := q } := (getPc_setPc _ _ _ _).trans (if_pos rfl)
    obtain ⟨v, h2, h3, h4, et⟩ := issue_write (s := s0) (pc := pc) (r := r) (l := l) (by rw [hg0]; exact hd) hloc hw
    rw [if_neg (by omega), h4, hg0] at et
    refine ⟨_, runs_act_to rfl ha (e.trans et), ?_, h3, ?_⟩
    · have hst : storeReq s0 r = hbmWriteB s0 r.addr r.data false := by
        unfold storeReq
        dsimp only
        rw [hlen, List.take_of_length_le (by omega), hon, hdata]
        exact if_pos (by simp)
      exact (h2.trans (congrArg State.hbm hst)).trans rfl
    · rw [getPc_setPc, if_pos rfl]
      dsimp only
      rw [hrep]
      rfl
  · have h1 : reqPeriods r = 2 := by
      unfold reqPeriods
      rw [hw]
      simp [hon]
    have e := hbmAccess_issues hp hu hr hl hrep hq (by omega) (by omega) (by rw [h1]; exact hb)
    rw [h1] at e
    set s0 := setPc s pc { getPc s pc with period := (getPc s pc).period + 2, queue := q } with hs0
    have hg0 : getPc s0 pc = { getPc s pc with period := (getPc s pc).period + 2, queue := q } := (getPc_setPc _ _ _ _).trans (if_pos rfl)
    obtain ⟨v, h2, h3, h4, et⟩ := issue_write (s := s0) (pc := pc) (r := r) (l := l) (by rw [hg0]; exact hd) hloc hw
    rw [if_pos hon, h4, hg0] at et
    have hsame : SameStore s s0 := ⟨rfl, rfl, rfl, fun _ _ => rfl⟩
    refine ⟨_, runs_act_to rfl ha (e.trans et), h2.trans (hsame.storeReq r).hbm, h3, ?_⟩
    rw [getPc_setPc, if_pos rfl]
  · have e : hbmAccess pc s = idlePeriod s pc := by
      unfold hbmAccess
      dsimp only
      rw [if_neg (by simp only [hu, hr, hl, Bool.not_true, Bool.false_eq_true, false_or, or_false]; omega)]
      split
      next h => exact absurd (hrep.symm.trans h) (by simp)
      next h1 h2 => exact absurd (hq.symm.trans h2) (by simp)
      next => rfl
    exact runs_act_to rfl ha e
  · have e := readComplete_eq (n := 0) (u := false) (b := false) hrd
    dsimp only at e
    rw [hbmCe_none, hpo, ite_self, Bool.false_and, Bool.or_false, if_neg (by simp)] at e
    refine runs_act_to rfl ha ((if_pos ⟨hp, hu⟩).trans (e.trans ?_))
    unfold deliver
    dsimp only
    rw [hw]
    rfl
  · have e := readComplete_eq (n := 0) (u := true) (b := b) hrd
    dsimp only at e
    rw [if_pos (by simp [hag, hd, hrep]), hbmCe_none] at e
    refine ⟨_, runs_act_to rfl ha ((if_pos ⟨hp, hu⟩).trans e), rfl, rfl, ?_⟩
    rw [getPc_setPc, if_pos rfl, getPc_setPc, if_pos rfl]
  · have e := readComplete_eq (n := 0) (u := true) (b := true) hrd
    dsimp only at e
    rw [hbmCe_none, ite_self, Bool.true_or, if_neg (by
      rcases hor with h | h | h
      · simp [h]
      · simp [h]
      · simp [List.isEmpty_iff, h])] at e
    obtain ⟨t, et, h1, h2⟩ := deliver_bad (s := setPc s pc { getPc s pc with reads := q }) (pc := pc) hg hpo hw
    exact ⟨t, runs_act_to rfl ha ((if_pos ⟨hp, hu⟩).trans (e.trans et)), h1, h2⟩
  · have e : writeAck pc s = setPc s pc { getPc s pc with writes := q } := by
      unfold writeAck
      rw [hw]
      rfl
    exact runs_act_to rfl ha ((if_pos ⟨hp, hu⟩).trans e)

end Sys2Proof.Machine

namespace Sys2Proof.Machine

/-! PROOFS. Work on buffers, locks and messages, and the configuration entries of encode and decode contexts (R183, R187, R191). -/

/-- `t` is `s` after work on buffers, locks and messages, with the reports it raises: of a context it changes pictures alone. -/
structure Aside (s t : State) : Prop where
  frame : t = { s with emitted := t.emitted, regs := t.regs, hdrs := t.hdrs, crier := t.crier, msix := t.msix, flt := t.flt
                       eports := t.eports, ctxs := t.ctxs, commons := t.commons, comPoison := t.comPoison, fifos := t.fifos
                       pools := t.pools, grnRes := t.grnRes, sfs := t.sfs, arbs := t.arbs, casc := t.casc }
  pics : PicsOnly s t

section
variable {s₀ s t : State}

namespace Aside

protected theorem refl (s : State) : Aside s s := ⟨rfl, .refl s⟩

protected theorem trans (h : Aside s₀ s) (g : Aside s t) : Aside s₀ t := by
  refine ⟨?_, h.pics.trans g.pics⟩
  have e := g.frame
  rw [h.frame] at e
  exact e

protected theorem upd (h : Aside s₀ s) (e : t = { s with
    emitted := t.emitted, regs := t.regs, hdrs := t.hdrs, crier := t.crier, msix := t.msix, flt := t.flt
    eports := t.eports, commons := t.commons, comPoison := t.comPoison, fifos := t.fifos
    pools := t.pools, grnRes := t.grnRes, sfs := t.sfs, arbs := t.arbs, casc := t.casc }) : Aside s₀ t := by
  refine h.trans ⟨?_, (PicsOnly.refl s).ctxs ?_⟩
  · rw [e]
  · rw [e]

protected theorem told (h : Aside s₀ s) (g : Told s t) : Aside s₀ t := h.upd (by rw [g.frame])

protected theorem ite {c : Prop} [Decidable c] (h : Aside s₀ s) (g : Aside s₀ t) : Aside s₀ (if c then s else t) := by
  split <;> assumption

protected theorem foldl {α : Type} {f : State → α → State} {l : List α} (h : Aside s₀ s) (hf : ∀ u x, Aside s₀ u → Aside s₀ (f u x)) :
    Aside s₀ (l.foldl f s) :=
  List.foldlRecOn l f h fun u hu x _ => hf u x hu

end Aside

protected theorem Aside.setEvt {page bit : Nat} (hs : Aside s₀ s) : Aside s₀ (setEvt s page bit) := hs.told (setEvt_told _ _ _)

protected theorem Aside.evG {ev : Nat} (hs : Aside s₀ s) : Aside s₀ (evG ev s) := hs.told (evG_told _ _)

protected theorem Aside.raiseFault {page src info : Nat} (hs : Aside s₀ s) : Aside s₀ (raiseFault s page src info) := by
  refine hs.trans ⟨?_, (PicsOnly.refl s).raiseFault⟩
  rw [(raiseFault_noted s page src info).frame]

protected theorem Aside.markCtxs {which : Nat → Ctx → Bool} {sel : Nat → Pic → Bool} {cause : Nat} (hs : Aside s₀ s) :
    Aside s₀ (markCtxs s which sel cause) := hs.trans ⟨rfl, (PicsOnly.refl s).markCtxs⟩

protected theorem Aside.fifoStore {f : Nat} {x : Fifo} (hs : Aside s₀ s) : Aside s₀ (fifoStore s f x) := hs.upd (by rw [fifoStore_frame])

protected theorem Aside.comPut {a : Nat} {w : LW} (hs : Aside s₀ s) : Aside s₀ (comPut s a w) := hs.upd (by rw [comPut_frame])

protected theorem Aside.rput {page bank off : Nat} {v : U32} (hs : Aside s₀ s) : Aside s₀ (rput s page bank off v) := hs.upd rfl

protected theorem Aside.rputN {page bank off v : Nat} (hs : Aside s₀ s) : Aside s₀ (rputN s page bank off v) := by
  unfold rputN
  exact hs.rput

protected theorem Aside.rput64 {page bank off v : Nat} (hs : Aside s₀ s) : Aside s₀ (rput64 s page bank off v) := by
  unfold rput64
  exact hs.rputN.rputN

protected theorem Aside.bump {page bank off n : Nat} (hs : Aside s₀ s) : Aside s₀ (bump s page bank off n) := by
  unfold bump
  exact hs.rputN

protected theorem Aside.emit {e : Emit} (hs : Aside s₀ s) : Aside s₀ (emit s e) := hs.upd rfl

protected theorem Aside.setPool {p : Nat} {x : Pool} (hs : Aside s₀ s) : Aside s₀ (setPool s p x) := hs.upd rfl

protected theorem Aside.setFifo {f : Nat} {x : Fifo} (hs : Aside s₀ s) : Aside s₀ (setFifo s f x) := hs.upd rfl

protected theorem Aside.setSf {p : Nat} {x : SfPort} (hs : Aside s₀ s) : Aside s₀ (setSf s p x) := hs.upd rfl

protected theorem Aside.arbTake {key r n : Nat} (hs : Aside s₀ s) : Aside s₀ (arbTake s key r n) := hs.upd rfl

protected theorem Aside.comTake {a r : Nat} (hs : Aside s₀ s) : Aside s₀ (comTake s a r) := by
  unfold comTake
  exact hs.arbTake

protected theorem Aside.fifoStall {f k : Nat} (hs : Aside s₀ s) : Aside s₀ (fifoStall s f k) := by
  unfold fifoStall
  extract_lets +onlyGivenNames x
  exact Aside.ite hs hs.setFifo

protected theorem Aside.fifoPut {f : Nat} {w : LW} (hs : Aside s₀ s) : Aside s₀ (fifoPut s f w) := by
  unfold fifoPut
  extract_lets +onlyGivenNames n x
  exact hs.comTake.comPut.fifoStore

protected theorem Aside.fifoPush {f : Nat} {bs : List Byte} (hs : Aside s₀ s) : Aside s₀ (fifoPush s f bs) := by
  unfold fifoPush
  exact hs.foldl fun _ _ hu => hu.fifoPut

protected theorem Aside.sfTransmit {p c : Nat} {t : TxFlit} (hs : Aside s₀ s) : Aside s₀ (sfTransmit s p c t).2 := by
  unfold sfTransmit
  split
  · extract_lets +onlyGivenNames b s1 f s2
    have hs1 : Aside s₀ s1 := hs.fifoPush
    clear_value s1
    have hs2 : Aside s₀ s2 := hs1.setFifo
    clear_value s2
    dsimp only
    exact hs2.emit
  · dsimp only
    exact hs.fifoStall

protected theorem Aside.sfPump {p c : Nat} {l : List TxFlit} (hs : Aside s₀ s) : Aside s₀ (sfPump s p c l).2 := by
  induction l generalizing s with
  | nil => exact hs
  | cons x rest ih =>
    unfold sfPump
    simp only
    split
    · split
      · exact hs.sfTransmit
      · exact ih hs.sfTransmit
    · exact ih hs

protected theorem Aside.setTx {p c : Nat} {t : TxCls} (hs : Aside s₀ s) : Aside s₀ (setTx s p c t) := by
  unfold setTx
  extract_lets +onlyGivenNames x
  exact hs.setSf

protected theorem Aside.sendSrc {p typ cls colour dst src : Nat} {sop eop : Bool} {payload : List Byte}
    {ctx : Option (Nat × Nat)} (hs : Aside s₀ s) :
    Aside s₀ (sendSrc s p typ cls colour dst src sop eop payload ctx) := by
  unfold sendSrc
  refine Aside.ite ?_ ?_
  · exact hs
  · extract_lets +onlyGivenNames t' b r
    have hr : Aside s₀ r.2 := hs.sfPump
    clear_value r
    exact hr.setTx

protected theorem Aside.sendSeq {p typ cls colour dst : Nat} {sop eop : Bool} {payload : List Byte} {ctx : Option (Nat × Nat)}
    (hs : Aside s₀ s) :
    Aside s₀ (sendSeq s p typ cls colour dst sop eop payload ctx) := by
  unfold sendSeq
  exact hs.sendSrc

protected theorem Aside.sendMgmt {p dst : Nat} {msg : List Byte} (hs : Aside s₀ s) : Aside s₀ (sendMgmt s p dst msg) := by
  unfold sendMgmt
  exact hs.sendSeq

protected theorem Aside.mgmtTo {dst : Nat} {msg : List Byte} (hs : Aside s₀ s) : Aside s₀ (mgmtTo s dst msg) := by
  unfold mgmtTo
  split
  · exact hs.sendMgmt
  · exact hs

protected theorem Aside.setRes {r : Nat} {x : GrnRes} (hs : Aside s₀ s) : Aside s₀ (setRes s r x) := hs.upd rfl

protected theorem Aside.grnDone {r code nfreed : Nat} {addr : Option Nat} (hs : Aside s₀ s) :
    Aside s₀ (grnDone s r code nfreed addr) := by
  unfold grnDone
  extract_lets +onlyGivenNames x
  exact hs.setRes.setEvt

protected theorem Aside.answerWaiter {w : Waiter} {code addr : Nat} (hs : Aside s₀ s) : Aside s₀ (answerWaiter s w code addr) := by
  unfold answerWaiter
  split
  · exact hs.grnDone
  · exact hs.mgmtTo

protected theorem Aside.xreqContend {p : Nat} (hs : Aside s₀ s) : Aside s₀ (xreqContend s p) := by
  unfold xreqContend
  extract_lets +onlyGivenNames x
  refine Aside.ite ?_ ?_
  · split
    · exact hs.setPool.evG.answerWaiter.bump
    · exact hs
  · exact hs

protected theorem Aside.testHead {p : Nat} (hs : Aside s₀ s) : Aside s₀ (testHead s p) := by
  unfold testHead
  extract_lets +onlyGivenNames s' x
  have hs' : Aside s₀ s' := hs.xreqContend
  clear_value s'
  split
  · exact hs'
  · split
    · exact hs'.setPool.evG.answerWaiter
    · exact hs'

protected theorem Aside.rejectFree {p a o code : Nat} (hs : Aside s₀ s) : Aside s₀ (rejectFree s p a o code) := by
  unfold rejectFree
  extract_lets +onlyGivenNames off src s1 s2
  have hs1 : Aside s₀ s1 := hs.bump
  clear_value s1
  have hs2 : Aside s₀ s2 := hs1.rputN
  clear_value s2
  exact hs2.rput64.raiseFault

protected theorem Aside.grnFree {p a o : Nat} (hs : Aside s₀ s) : Aside s₀ (grnFree s p a o).2 := by
  unfold grnFree
  extract_lets +onlyGivenNames code
  split
  · dsimp only
    exact hs.setPool.testHead
  · split
    · dsimp only
      exact hs
    · dsimp only
      exact hs.rejectFree.testHead

protected theorem Aside.freeBuf {c : Nat} {b : Option (Nat × Nat)} (hs : Aside s₀ s) : Aside s₀ (freeBuf s c b) := by
  unfold freeBuf
  split
  · exact hs.grnFree
  · exact hs

protected theorem Aside.freeBufs {c : Nat} {bs : List (Nat × Nat)} (hs : Aside s₀ s) : Aside s₀ (freeBufs s c bs) := by
  unfold freeBufs
  exact hs.foldl fun _ _ hu => hu.freeBuf

protected theorem Aside.breakSems {sel : Sem → Bool} (hs : Aside s₀ s) : Aside s₀ (breakSems s sel) := by
  unfold breakSems
  extract_lets +onlyGivenNames l
  exact hs.upd rfl

protected theorem Aside.breakOwner {o : Nat} (hs : Aside s₀ s) : Aside s₀ (breakOwner s o) := by
  unfold breakOwner
  extract_lets +onlyGivenNames s1
  have hs1 : Aside s₀ s1 := (hs.upd rfl)
  clear_value s1
  exact Aside.ite hs1.breakSems (Aside.ite hs1.mgmtTo hs1)

/-! ## Configuration entries -/

theorem breakOwner_ctxs (s : State) (o : Nat) : (breakOwner s o).ctxs = s.ctxs := by
  unfold breakOwner
  dsimp only
  split
  · rfl
  · split
    · rw [((Sends.refl _).mgmtTo).frame]
    · rfl

theorem Aside.queues (h : Aside s t) : t.queues = s.queues := by rw [h.frame]

/-- The completion of a slot is a matter of its queue. -/
theorem finishSlot_queues (h : t.queues = s.queues) (q id : Nat) (ce : List Byte) :
    (finishSlot t q id ce).queues = (finishSlot s q id ce).queues := by
  unfold finishSlot setQ getQ
  rw [h]

theorem finishSlot_ctxs (s : State) (q id : Nat) (ce : List Byte) : (finishSlot s q id ce).ctxs = s.ctxs := rfl

/-- The started entry that is taken leaves the started entries of its queue. -/
theorem takeStarted_frame {q id : Nat} {p : List Byte → Bool} {e : List Byte} {s1 : State} (h : takeStarted s q p = some (id, e, s1)) :
    ∃ m, s1 = { s with queues := m } := by
  unfold takeStarted at h
  dsimp only at h
  split at h
  · obtain ⟨-, -, rfl⟩ := by simpa using h
    exact ⟨_, rfl⟩
  · exact absurd h (by simp)

theorem grnAlloc_frame {p o a : Nat} {s1 : State} (h : grnAlloc s p o = some (a, s1)) : s1.queues = s.queues ∧ s1.ctxs = s.ctxs := by
  unfold grnAlloc at h
  dsimp only at h
  split at h
  · exact absurd h (by simp)
  · split at h
    · next i x1 _ =>
      obtain ⟨-, rfl⟩ := by simpa using h
      have hev := evG_told 0x108 (setPool s p x1)
      rw [hev.frame]
      exact ⟨rfl, rfl⟩
    · exact absurd h (by simp)

/-- The buffers that a decode context takes: as many as asked for, and nothing but pools changes. -/
theorem takeBufs_spec {p o : Nat} : ∀ {n : Nat} {l : List (Nat × Nat)} {s1 : State}, takeBufs s p o n = some (l, s1) →
    l.length = n ∧ s1.queues = s.queues ∧ s1.ctxs = s.ctxs
  | 0, l, s1, h => by
    obtain ⟨rfl, rfl⟩ := by simpa [takeBufs] using h
    exact ⟨rfl, rfl, rfl⟩
  | n + 1, l, s1, h => by
    unfold takeBufs at h
    split at h
    · next l' s' h' =>
      obtain ⟨hl, hq, hc⟩ := takeBufs_spec h'
      obtain ⟨⟨a, s2⟩, ha, he⟩ := Option.map_eq_some_iff.mp h
      obtain ⟨rfl, rfl⟩ := by simpa using he
      obtain ⟨gq, gc⟩ := grnAlloc_frame ha
      exact ⟨by simp [hl], gq.trans hq, gc.trans hc⟩
    · exact absurd h (by simp)

theorem getCtx_ndel (s : State) (c d : Nat) : getCtx { s with ctxs := ndel s.ctxs c } d = if d = c then none else getCtx s d :=
  nget_ndel _ _ _

end

/-- Settles O33. -/
theorem encodeConfigs : Obligations.EncodeConfigs := by
  refine ⟨fun s q id e s1 x ha ht hx hf hq hk hlen hok htile => ?_, fun s q id e s1 ha ht hlt hno hlen hok htile hblk => ?_,
    fun s q id e s1 ha ht hsome => ?_, fun s q id e s1 x i ha ht hx hk hq hp hen hah hfree hse => ?_⟩
  · refine runs_act_to rfl ha ?_
    unfold encConfig
    rw [ht]
    dsimp only
    rw [hx]
    dsimp only
    rw [if_neg (by simp [hf, hq, hk]), if_neg (by omega), if_neg (by simp [hok, htile])]
  · obtain ⟨m, hm⟩ := takeStarted_frame ht
    have e1 : openBulk q s = finishSlot (setCtx s1 (leAt e 2 2) { kind := .bulk, block := cfgBlock e, queue := q, rate := {
        qpPrev := Ct.qpInit (cfgBlock e), mI := Ct.m0 (cfgBlock e), mP := Ct.m0 (cfgBlock e), betaTick := s.tick } }) q id (seCe s e 0) := by
      unfold openBulk
      rw [ht]
      dsimp only
      rw [if_neg (by rw [hno]; simp; omega), if_neg (by omega), if_neg (by simp [hok, htile, hblk])]
    refine ⟨_, _, runs_act_to rfl ha e1, (getCtx_congr (finishSlot_ctxs _ _ _ _) _).trans ((getCtx_setCtx _ _ _ _).trans (if_pos rfl)),
      rfl, rfl, rfl, rfl, rfl, rfl, rfl, finishSlot_queues rfl _ _ _, ?_, fun d hd => ?_⟩
    · rw [hm]; rfl
    · exact (getCtx_setCtx _ _ _ _).trans ((if_neg hd).trans (by rw [hm]; rfl))
  · refine runs_act_to rfl ha ?_
    unfold openBulk
    rw [ht]
    exact if_pos (.inr hsome)
  · obtain ⟨m, hm⟩ := takeStarted_frame ht
    have e1 : encClose q s = finishSlot (breakOwner (dropRec { s1 with ctxs := ndel s1.ctxs (leAt e 2 2) } (leAt e 2 2)) (leAt e 2 2)) q id
        (seCe s e 0) := by
      unfold encClose
      rw [ht]
      dsimp only
      rw [hx]
      dsimp only
      rw [if_neg (by simp [hk, hq]), if_neg (by simp [hp, hen, hah]), hfree]
      dsimp only
      rw [hse, if_neg (by decide), hx]
      dsimp only
      rw [hse]
      rfl
    have hc : ∀ d, getCtx (breakOwner (dropRec { s1 with ctxs := ndel s1.ctxs (leAt e 2 2) } (leAt e 2 2)) (leAt e 2 2)) d =
        if d = leAt e 2 2 then none else getCtx s1 d := fun d =>
      (getCtx_congr (breakOwner_ctxs _ _) d).trans (getCtx_ndel s1 _ d)
    refine ⟨_, runs_act_to rfl ha e1, (hc _).trans (if_pos rfl), finishSlot_queues ?_ _ _ _, fun d hd => ((hc d).trans (if_neg hd)).trans ?_⟩
    · exact ((Aside.refl _).breakOwner).queues
    · rw [hm]; rfl

/-- Settles O35. -/
theorem decodeConfigs : Obligations.DecodeConfigs := by
  refine ⟨fun s q id e s1 l s2 ha ht hf hlt hno hlen hok hing hsz htk => ?_, fun s q id e s1 ha ht hsome => ?_,
    fun s q id e s1 x ha ht hx hk hq hold => ?_⟩
  · obtain ⟨m, hm⟩ := takeStarted_frame ht
    obtain ⟨hl, hqs, hcs⟩ := takeBufs_spec htk
    have e1 : decOpen q s = finishSlot (setCtx s2 (leAt e 2 2) { kind := .decode, block := e.drop 64, queue := q, dec := {
        slotBufs := l, tokC := Db.cbs (e.drop 64) * 1000000, tokP := Db.pbs (e.drop 64) * 1000000, tokTick := s.tick } }) q id (seCe s e 0) := by
      unfold decOpen
      rw [ht]
      dsimp only
      rw [if_neg (by rw [hno]; simp [hf]; omega), if_neg (by omega), if_neg (by simp [hok, hing]; omega), htk]
    refine ⟨_, _, runs_act_to rfl ha e1, (getCtx_congr (finishSlot_ctxs _ _ _ _) _).trans ((getCtx_setCtx _ _ _ _).trans (if_pos rfl)),
      rfl, rfl, rfl, rfl, hl, rfl, rfl, finishSlot_queues hqs _ _ _, fun d hd => ?_⟩
    exact (getCtx_setCtx _ _ _ _).trans ((if_neg hd).trans ((getCtx_congr hcs d).trans (by rw [hm]; rfl)))
  · refine runs_act_to rfl ha ?_
    unfold decOpen
    rw [ht]
    exact if_pos (.inr (.inr hsome))
  · have e1 : ∃ u, Aside s1 u ∧ decClose q s = finishSlot (breakOwner { u with ctxs := ndel u.ctxs (leAt e 2 2) } (leAt e 2 2)) q id (seCe s e 0) := by
      unfold decClose
      rw [ht]
      dsimp only
      rw [hx]
      dsimp only
      rw [if_neg (by simp [hk, hq]), if_neg (by simp [hold])]
      exact ⟨_, Aside.freeBufs (.ite (.refl _) (Aside.bump (.refl _))), rfl⟩
    obtain ⟨u, hu, e1⟩ := e1
    refine ⟨_, runs_act_to rfl ha e1, ?_, finishSlot_queues ?_ _ _ _⟩
    · exact (getCtx_congr (breakOwner_ctxs _ _) _).trans ((getCtx_ndel u _ _).trans (if_pos rfl))
    · exact ((Aside.refl _).breakOwner).queues.trans hu.queues

end Sys2Proof.Machine

namespace Sys2Proof.Machine

/-! PROOFS. A link of an ETH port that goes down while its fault's severity is FATAL (R448, R492). -/

/-- Port 0 sends a packet over its link, and FLT_SEV of its page makes its link fault FATAL. -/
def sendingFatal : State :=
  { State.reset with
    boot := { State.reset.boot with st := 7 }
    eths := [(0, { linkUp := true })]
    eports := [(0, { cur := some { flow := 0, data := [], bytes := [], done := [], ctx := 0, fifo := 0, words := 0, sampled := none } })]
    regs := [(rkey (ethPage 0) 0 0x020, 3)] }

/-- Entering the fault state takes the packet off the port. -/
theorem ethDown_fatal : (getPort (ethDown 0 sendingFatal) 0).cur = none := by decide +kernel

/-- Refutes O43: of a link that goes down the statement says that the packet on its port stays there, marked lost. Where the port's
fault is FATAL (`sendingFatal`) the fault state drops that packet. -/
theorem not_ethernetAndFabric : ¬ Obligations.EthernetAndFabric := by
  unfold Obligations.EthernetAndFabric
  rintro ⟨-, -, hdown, -⟩
  obtain ⟨t, hrun, -, -, -, -, hcur⟩ := hdown sendingFatal 0 (by decide) (by decide) (by decide)
  have ht : ethDown 0 sendingFatal = t := Host.Outcome.next.inj hrun
  rw [← ht, ethDown_fatal] at hcur
  exact absurd hcur (by decide)

end Sys2Proof.Machine

namespace Sys2Proof.Machine

/-! PROOFS. Selfold flits: checks, order, acknowledgement and retry (R349 to R351). -/

theorem sumN_eq (l : List Nat) : sumN l = l.sum := List.sum_eq_foldl.symm

/-- One more flit taken in a class is one more of the link. -/
theorem sumN_take (l : List RxCls) (c : Nat) (r : RxCls) (h : r.taken = (getIx l c {}).taken + 1) :
    sumN ((setIx l c r {}).map (·.taken)) = sumN (l.map (·.taken)) + 1 := by
  rw [sumN_eq, sumN_eq]
  unfold setIx
  split
  next hc =>
    induction l generalizing c with
    | nil => exact absurd hc (by simp)
    | cons a l ih =>
      cases c with
      | zero =>
        have h0 : r.taken = a.taken + 1 := h
        simp only [List.set_cons_zero, List.map_cons, List.sum_cons, h0]
        omega
      | succ c =>
        have hs := ih c h (by simpa using hc)
        simp only [List.set_cons_succ, List.map_cons, List.sum_cons, hs]
        omega
  next hc =>
    have h0 : (getIx l c {} : RxCls) = {} := by
      unfold getIx
      rw [List.getElem?_eq_none (by omega)]
      rfl
    rw [h0] at h
    have hz : ∀ n, ((List.replicate n ({} : RxCls)).map (·.taken)).sum = 0 := fun n => by simp
    simp only [List.map_append, List.sum_append, hz, List.map_cons, List.map_nil, List.sum_cons, List.sum_nil, h]
    omega

theorem typ_linkFlit (d src : Nat) (sop eop : Bool) (pl : List Byte) (ep : Nat) : Flit.typ (flitBytes 2 0 0 0 d src sop eop pl ep) = 2 := by
  have h1 : toBE 1 (2 * 32 + 0 * 4 + 0) = [64] := rfl
  unfold Flit.typ byteAt flitBytes
  dsimp only
  rw [h1]
  simp only [List.append_assoc, List.cons_append, List.getElem?_cons_zero]
  rfl

section
variable {s t : State} {p c : Nat}

theorem setSf_setSf (s : State) (p : Nat) (x y : SfPort) : setSf (setSf s p x) p y = setSf s p y :=
  congrArg (fun l => { s with sfs := l }) (nset_nset _ _ _ _)

theorem sfUp_congr (hl : (getSf t p).link = (getSf s p).link) (hh : t.hdrs = s.hdrs) : sfUp t p = sfUp s p := by
  unfold sfUp blockUp hdr
  rw [hl, hh]

/-- A LINK flit goes out, and every taken flit is acknowledged with it. -/
theorem sendLink_spec (hu : sfUp s p = true) (nak : Option Nat) :
    ∃ e, Flit.typ e = 2 ∧ sendLink s p nak =
      emit (setSf s p { getSf s p with rx := (getSf s p).rx.map fun r => { r with taken := 0 } }) (.flit p e) := by
  have hup : sfUp (setSf s p { getSf s p with rx := (getSf s p).rx.map fun r => { r with taken := 0 } }) p = true := by
    rw [← hu]
    exact sfUp_congr (by rw [getSf_setSf, if_pos rfl]) rfl
  exact ⟨_, typ_linkFlit _ _ _ _ _ _, if_neg (by rw [hup]; decide)⟩

/-- The classes of a port of which a LINK flit says that every flit is taken. -/
theorem taken_zero (l : List RxCls) : ∀ r ∈ l.map fun r => ({ r with taken := 0 } : RxCls), r.taken = 0 := fun r hr => by
  obtain ⟨q, -, rfl⟩ := List.mem_map.mp hr
  rfl

theorem getIx_acked (l : List RxCls) (i : Nat) : getIx (l.map fun r => ({ r with taken := 0 } : RxCls)) i {} = { getIx l i {} with taken := 0 } := by
  unfold getIx
  rw [List.getElem?_map]
  cases l[i]? with
  | none => rfl
  | some r => rfl

/-! ## Received flits -/

/-- A class with its next flit taken. -/
def rxTaken (r : RxCls) : RxCls := { r with next := (r.next + 1) % 256, taken := r.taken + 1, seen := true }

/-- A port with the next flit of a class taken. -/
def takeFlit (s : State) (p c : Nat) : State :=
  setSf s p { getSf s p with rx := setIx (getSf s p).rx c (rxTaken (getIx (getSf s p).rx c {})) {} }

theorem dataFlit_order {b : List Byte} (hp : p < 4) (hu : sfUp s p = true) (hr : flitReject s p b = none) (ht : Flit.typ b < 2) :
    dataFlit p b s = if Flit.seq b ≠ (getIx (getSf s p).rx (Flit.cls b) {}).next then sendNak s p (Flit.cls b)
      else sfTaken (if sumN ((getSf (takeFlit s p (Flit.cls b)) p).rx.map (·.taken)) = 32 then sendLink (takeFlit s p (Flit.cls b)) p none
        else takeFlit s p (Flit.cls b)) p b := by
  unfold dataFlit
  rw [if_neg (by rw [hu]; simp; omega), hr]
  dsimp only
  rw [if_neg (by omega)]
  rfl

theorem getSf_takeFlit : getSf (takeFlit s p c) p = { getSf s p with rx := setIx (getSf s p).rx c (rxTaken (getIx (getSf s p).rx c {})) {} } :=
  (getSf_setSf _ _ _ _).trans (if_pos rfl)

theorem sumN_takeFlit : sumN ((getSf (takeFlit s p c) p).rx.map (·.taken)) = sumN ((getSf s p).rx.map (·.taken)) + 1 := by
  rw [getSf_takeFlit]
  exact sumN_take _ _ _ rfl

theorem sfUp_takeFlit : sfUp (takeFlit s p c) p = sfUp s p := sfUp_congr (by rw [getSf_takeFlit]) rfl

/-- A flit that begins and does not end a packet for this device begins its packet (R359). -/
theorem sfTaken_begins {b : List Byte} (ht : Flit.typ b = 0) (hpol : rbits s (sfPage p) 0 0x100 1 1 = 0) (hd : Flit.dst b = s.casc.devId)
    (hs : Flit.sop b = true) (he : Flit.eop b = false) : sfTaken s p b = { s with casc := { s.casc with
      rxBuf := (s.casc.rxBuf.filter fun r => !(r.port == p && r.cls == Flit.cls b && r.src == Flit.src b)) ++
        [⟨p, Flit.cls b, Flit.src b, Flit.payload b⟩] } } := by
  have h : sfPolice s p b = (Flit.colour b, s) := if_pos hpol
  unfold sfTaken
  rw [if_neg (by omega), h]
  dsimp only
  rw [hpol, if_neg (fun h => absurd h.2 (by decide)), if_pos hd]
  unfold sfCollect
  dsimp only
  rw [hs, he]
  rfl

/-! ## Acknowledgement and retry -/

theorem getTx_setTx (s : State) (p c : Nat) (x : TxCls) : getTx (setTx s p c x) p c = x := by
  unfold getTx setTx
  dsimp only
  rw [getSf_setSf, if_pos rfl]
  exact getIx_setIx_same _ _ _ _ _

/-- Nothing is left to send of a class whose flits have all been sent. -/
theorem sfPump_sent {l : List TxFlit} (h : ∀ g ∈ l, g.sent ≠ 0) : sfPump s p c l = (l, s) := by
  induction l with
  | nil => rfl
  | cons g l ih =>
    unfold sfPump
    rw [if_neg (h g List.mem_cons_self), ih fun x hx => h x (List.mem_cons_of_mem _ hx)]

/-- The oldest flit, acknowledged, leaves the class's retry list. -/
theorem linkCls_ack {b : List Byte} {f : TxFlit} {rest : List TxFlit} (hu : sfUp s p = true) (hb : byteAt b (8 + 2 * c + 1) = 2)
    (ht : (getTx s p c).unacked = f :: rest) (hs : f.seq = byteAt b (8 + 2 * c)) (hg : ∀ g ∈ f :: rest, g.sent ≠ 0) :
    (getTx (linkCls p b s c) p c).unacked = rest := by
  have hfind : findIx (fun f : TxFlit => f.seq == byteAt b (8 + 2 * c) && f.sent != 0) (f :: rest) 0 = some (0, f) := by
    unfold findIx
    exact if_pos (by simp [hs, hg f List.mem_cons_self])
  have hrest : ∀ g ∈ rest, g.sent ≠ 0 := fun g h => hg g (List.mem_cons_of_mem _ h)
  unfold linkCls
  dsimp only
  rw [if_neg (by simp [hu]), hb, ht, hfind]
  dsimp only
  rw [if_pos (show 2 / 2 % 2 = 1 from rfl), if_neg (show ¬((2 % 2 == 1) = true) by decide), if_neg (show ¬((2 % 2 == 1) = true) by decide)]
  generalize sfFree s p c (0 + 1) = v
  have h1 : (getTx (setTx v p c { next := (getTx s p c).next, unacked := (f :: rest).drop (0 + 1) }) p c).unacked = rest := by
    rw [getTx_setTx]
    rfl
  split
  · rw [getTx_setTx]
    dsimp only
    rw [h1, sfPump_sent hrest]
  · exact h1

theorem fifoUes_none {l : List Nat} {f : Nat} (h : ∀ a ∈ l, a ∉ s.comPoison) :
    (l.filter s.comPoison.contains).foldl (fun s a => fifoUe s f a) s = s := by
  rw [List.filter_eq_nil_iff.mpr fun a ha => by simpa using h a ha]
  rfl

/-- Every flit sent of a class goes out again, up to the first that was not sent. -/
theorem resend_spec {l wait : List TxFlit} (hl : ∀ g ∈ l, g.sent ≠ 0) (hw : ∀ g ∈ wait, g.sent = 0) :
    resend s p (l ++ wait) = (l.map (fun g => { g with bytes := restamp s.casc.epoch.toNat g.bytes, sent := g.sent + 1, at_ := s.dt }) ++ wait,
      { s with emitted := s.emitted ++ l.map fun g => .flit p (restamp s.casc.epoch.toNat g.bytes) }) := by
  induction l generalizing s with
  | nil =>
    rw [List.nil_append, List.map_nil, List.map_nil, List.append_nil, List.nil_append]
    cases wait with
    | nil => rfl
    | cons w wait =>
      unfold resend
      exact if_pos (hw w List.mem_cons_self)
  | cons g l ih =>
    rw [List.cons_append]
    unfold resend
    rw [if_neg (hl g List.mem_cons_self)]
    dsimp only
    rw [ih fun x hx => hl x (List.mem_cons_of_mem _ hx)]
    simp only [emit, List.map_cons, List.cons_append, List.append_assoc, List.nil_append]

theorem retryTimeout_due {f : TxFlit} {rest : List TxFlit} (hp : p < 4) (hu : sfUp s p = true) (ht : (getTx s p c).unacked = f :: rest)
    (hf : f.sent ≠ 0) (hd : f.at_ + nsT (sfTmo s p) ≤ s.dt) : retryTimeout p c s = sfRewind s p c := by
  unfold retryTimeout
  rw [ht, List.filter_cons_of_pos (by simpa using hf)]
  exact if_pos ⟨hp, hu, hd⟩

/-- The flits sent of a class, none of them beyond the retry limit, go out again, counted (R351). -/
theorem sfRewind_again {f : TxFlit} {rest wait : List TxFlit} (hp : p < 4) (ht : (getTx s p c).unacked = f :: rest ++ wait)
    (hl : ∀ g ∈ f :: rest, g.sent ≠ 0 ∧ g.sent ≤ sfMax s p) (hw : ∀ g ∈ wait, g.sent = 0)
    (hpo : ∀ i, fifoAddr s (retryFifo p c) i ∉ s.comPoison) (hc : c < 8) :
    sfRewind s p c = setTx { bump s (sfPage p) 0 0x128 1 with
        emitted := s.emitted ++ (f :: rest).map fun g => .flit p (restamp s.casc.epoch.toNat g.bytes) } p c
      { getTx s p c with unacked := (f :: rest).map (fun g =>
        { g with bytes := restamp s.casc.epoch.toNat g.bytes, sent := g.sent + 1, at_ := s.dt }) ++ wait } := by
  have hany : ((f :: rest ++ wait).any (·.sent != 0)) = true := by simp [(hl f List.mem_cons_self).1]
  have hmax : ((f :: rest ++ wait).any fun g => decide (sfMax s p + 1 ≤ g.sent)) = false := by
    refine List.any_eq_false.mpr fun g hg => ?_
    rcases List.mem_append.mp hg with hg | hg
    · have := (hl g hg).2
      simp only [decide_eq_true_eq]
      omega
    · simp [hw g hg]
  have haddr : ∀ i, fifoAddr (bump s (sfPage p) 0 0x128 1) (retryFifo p c) i = fifoAddr s (retryFifo p c) i := fun i => by
    have hb : retryFifo p c < 8192 := by unfold retryFifo; omega
    have hne : sfPage p ≠ fifoPg := fun h => by unfold sfPage fifoPg at h; omega
    unfold fifoAddr fifoLog rbits rgetN
    rw [rget_bump_other _ _ _ _ _ _ _ _ (by decide) hb (by decide) (by decide) (fun h => hne h.1.symm),
      rget_bump_other _ _ _ _ _ _ _ _ (by decide) hb (by decide) (by decide) (fun h => hne h.1.symm)]
  have hread : rereadRetry (bump s (sfPage p) 0 0x128 1) p c = bump s (sfPage p) 0 0x128 1 := by
    refine fifoUes_none fun a ha => ?_
    obtain ⟨i, -, rfl⟩ := List.mem_map.mp ha
    rw [haddr]
    exact hpo _
  unfold sfRewind
  dsimp only
  rw [ht, if_neg (by rw [hany]; decide), if_neg (by rw [hmax]; decide), hread, resend_spec (fun g hg => (hl g hg).1) hw]
  rfl

end

/-- Settles O44. -/
theorem selfoldFlits : Obligations.SelfoldFlits := by
  refine ⟨fun s p b ha hp hu hc => ?_, fun s p b ha hp hu hr ht hs => ?_, fun s p b ha hp hu hr ht hs hsum hpol hd hsop heop => ?_,
    fun s p b ha hp hu hr ht hs hsum hpol hd hsop heop => ?_, fun s p b ha hp hu hr ht => ?_, fun s p b c f rest hp hc hu hb ht hs hg => ?_,
    fun s p ha hp hu hex => ?_, fun s p c f rest wait ha hp hc hu ht hl hw hd hpo => ?_, fun s p c f rest ha hp hc hu ht hf hex hd => ?_⟩
  · have hr : flitReject s p b = some (sendNak (bump s (sfPage p) 0 0x120 1) p (Flit.cls b)) := if_pos (by simp [hc])
    refine runs_act_to rfl ha ?_
    unfold dataFlit
    rw [if_neg (by rw [hu]; simp; omega), hr]
  · exact runs_act_to rfl ha ((dataFlit_order hp hu hr ht).trans (if_pos hs))
  · have e := (dataFlit_order hp hu hr (by omega)).trans (if_neg fun h => h hs)
    rw [sumN_takeFlit, if_neg hsum, sfTaken_begins (s := takeFlit s p (Flit.cls b)) ht hpol hd hsop heop] at e
    have hg : getSf { takeFlit s p (Flit.cls b) with casc := { s.casc with
      rxBuf := (s.casc.rxBuf.filter fun r => !(r.port == p && r.cls == Flit.cls b && r.src == Flit.src b)) ++
        [⟨p, Flit.cls b, Flit.src b, Flit.payload b⟩] } } p = _ := getSf_takeFlit (s := s) (p := p) (c := Flit.cls b)
    refine ⟨_, runs_act_to rfl ha e, ?_, ?_, rfl, rfl⟩
    · refine (congrArg (fun x : SfPort => (getIx x.rx (Flit.cls b) {}).next) hg).trans ?_
      dsimp only
      rw [getIx_setIx_same, hs]
      rfl
    · refine (congrArg (fun x : SfPort => (getIx x.rx (Flit.cls b) {}).taken) hg).trans ?_
      dsimp only
      rw [getIx_setIx_same]
      rfl
  · have e := (dataFlit_order hp hu hr (by omega)).trans (if_neg fun h => h hs)
    obtain ⟨f, hf, hlink⟩ := sendLink_spec (s := takeFlit s p (Flit.cls b)) (sfUp_takeFlit.trans hu) none
    rw [sumN_takeFlit, if_pos hsum, hlink] at e
    generalize hx : ({ getSf (takeFlit s p (Flit.cls b)) p with
      rx := (getSf (takeFlit s p (Flit.cls b)) p).rx.map fun r => { r with taken := 0 } } : SfPort) = x at e
    rw [sfTaken_begins (s := emit (setSf (takeFlit s p (Flit.cls b)) p x) (.flit p f)) ht hpol hd hsop heop] at e
    have hg : getSf (emit (setSf (takeFlit s p (Flit.cls b)) p x) (.flit p f)) p = x :=
      (getSf_setSf (takeFlit s p (Flit.cls b)) p x p).trans (if_pos rfl)
    refine ⟨_, f, runs_act_to rfl ha e, fun r hr => ?_, rfl, hf, ?_, rfl⟩
    · have hr' : r ∈ x.rx := (congrArg SfPort.rx hg) ▸ hr
      rw [← hx] at hr'
      exact taken_zero _ r hr'
    · refine (congrArg (fun x : SfPort => (getIx x.rx (Flit.cls b) {}).next) hg).trans ?_
      rw [← hx]
      dsimp only
      rw [getIx_acked, getSf_takeFlit]
      dsimp only
      rw [getIx_setIx_same, hs]
      rfl
  · refine runs_act_to rfl ha ?_
    unfold linkFlit
    rw [if_neg (by rw [hu]; simp; omega), hr]
    exact if_pos ht
  · exact linkCls_ack hu hb ht hs hg
  · obtain ⟨r, hr, hn⟩ := hex
    obtain ⟨f, hf, hlink⟩ := sendLink_spec hu none
    have e : linkAckTimer p s = sendLink s p none := if_pos ⟨hp, hu, List.any_eq_true.mpr ⟨r, hr, by simpa using hn⟩⟩
    generalize hx : ({ getSf s p with rx := (getSf s p).rx.map fun r => { r with taken := 0 } } : SfPort) = x at hlink
    have hg : getSf (emit (setSf s p x) (.flit p f)) p = x := (getSf_setSf s p x p).trans (if_pos rfl)
    refine ⟨_, f, runs_act_to rfl ha (e.trans hlink), fun q hq => ?_, rfl, hf, rfl⟩
    have hq' : q ∈ x.rx := (congrArg SfPort.rx hg) ▸ hq
    rw [← hx] at hq'
    exact taken_zero _ q hq'
  · have e := (retryTimeout_due hp hu ht (hl f List.mem_cons_self).1 hd).trans (sfRewind_again hp ht hl hw hpo hc)
    have e' : retryTimeout p (c % 8) s = _ := (congrArg (fun k => retryTimeout p k s) (Nat.mod_eq_of_lt hc)).trans e
    refine ⟨_, runs_act_to rfl ha e', rgetN_bump _ _ _ _ _, rfl, ?_⟩
    rw [getTx_setTx]
  · obtain ⟨g, hg, hmax⟩ := hex
    have e := retryTimeout_due hp hu ht hf hd
    have hr : sfRewind s p c = raiseFault (sfLink p .down s) (sfPage p) 1 0 := by
      unfold sfRewind
      dsimp only
      rw [ht, if_neg (by simp [hf]), if_pos (List.any_eq_true.mpr ⟨g, hg, by simpa using hmax⟩)]
    have e' : retryTimeout p (c % 8) s = _ := (congrArg (fun k => retryTimeout p k s) (Nat.mod_eq_of_lt hc)).trans (e.trans hr)
    exact ⟨_, runs_act_to rfl ha e', raiseFault_src (pageAt_sfPage p hp) rfl (by decide)⟩

end Sys2Proof.Machine

namespace Sys2Proof.Machine

/-! PROOFS. The cascade's tree (R352, R355–R358): enumeration, heartbeats, epochs and fencing. What work on homes and contexts leaves
of the cascade's record. -/

/-- `t` is `s` after work on homes and contexts: of the cascade's record it changes homes and semaphores alone, and it clears no fault
source. -/
structure Homing (s t : State) : Prop where
  casc : t.casc = { s.casc with homes := t.casc.homes, sems := t.casc.sems }
  src : ∀ p k, (hdr s p).fltSrc.getLsbD k = true → (hdr t p).fltSrc.getLsbD k = true

section
variable {s₀ s t : State}

namespace Homing

protected theorem refl (s : State) : Homing s s := ⟨rfl, fun _ _ h => h⟩

protected theorem trans (h : Homing s₀ s) (g : Homing s t) : Homing s₀ t := by
  refine ⟨?_, fun p k hk => g.src p k (h.src p k hk)⟩
  rw [g.casc, h.casc]

protected theorem upd (h : Homing s₀ s) (e : (t.casc, t.hdrs) = (s.casc, s.hdrs)) : Homing s₀ t := by
  obtain ⟨hc, hh⟩ := Prod.mk.inj e
  refine h.trans ⟨by rw [hc], fun p k hk => ?_⟩
  unfold hdr at hk ⊢
  rw [hh]
  exact hk

protected theorem noted (h : Homing s₀ s) (g : Noted s t) : Homing s₀ t :=
  h.trans ⟨by rw [g.frame], g.src⟩

protected theorem ite {c : Prop} [Decidable c] (h : Homing s₀ s) (g : Homing s₀ t) : Homing s₀ (if c then s else t) := by
  split <;> assumption

protected theorem foldl {α : Type} {f : State → α → State} {l : List α} (h : Homing s₀ s) (hf : ∀ u x, Homing s₀ u → Homing s₀ (f u x)) :
    Homing s₀ (l.foldl f s) :=
  List.foldlRecOn l f h fun u hu x _ => hf u x hu

end Homing

protected theorem Homing.setEvt {page bit : Nat} (hs : Homing s₀ s) : Homing s₀ (setEvt s page bit) := hs.noted (setEvt_noted _ _ _)

protected theorem Homing.raiseFault {page src info : Nat} (hs : Homing s₀ s) : Homing s₀ (raiseFault s page src info) :=
  hs.noted (raiseFault_noted _ _ _ _)

protected theorem Homing.markCtxs {which : Nat → Ctx → Bool} {sel : Nat → Pic → Bool} {cause : Nat} (hs : Homing s₀ s) :
    Homing s₀ (markCtxs s which sel cause) := hs.upd rfl

protected theorem Homing.fifoStore {f : Nat} {x : Fifo} (hs : Homing s₀ s) : Homing s₀ (fifoStore s f x) := hs.upd (by rw [fifoStore_frame])

protected theorem Homing.mgmtTo {dst : Nat} {msg : List Byte} (hs : Homing s₀ s) : Homing s₀ (mgmtTo s dst msg) :=
  hs.upd (by rw [((Sends.refl s).mgmtTo (dst := dst) (msg := msg)).frame])

protected theorem Homing.setHome {h : Home} (hs : Homing s₀ s) : Homing s₀ (setHome s h) := hs.trans ⟨rfl, fun _ _ h => h⟩

protected theorem Homing.breakSems {sel : Sem → Bool} (hs : Homing s₀ s) : Homing s₀ (breakSems s sel) := hs.trans ⟨rfl, fun _ _ h => h⟩

protected theorem Homing.breakLocks {o : Nat} (hs : Homing s₀ s) : Homing s₀ { s with
    hdrs := s.hdrs.map fun e => if e.2.lockHeld && e.2.lockOwner.toNat == o then (e.1, breakLock e.2) else e } := by
  refine hs.trans ⟨rfl, fun p k hk => ?_⟩
  have h := nget_map s.hdrs (fun _ x => if x.lockHeld && x.lockOwner.toNat == o then breakLock x else x) p
  have hm : nget (s.hdrs.map fun e => if e.2.lockHeld && e.2.lockOwner.toNat == o then (e.1, breakLock e.2) else e) p =
      (nget s.hdrs p).map fun x => if x.lockHeld && x.lockOwner.toNat == o then breakLock x else x := by
    rw [← h]
    refine congrArg (fun m => nget m p) (List.map_congr_left fun e _ => ?_)
    split <;> rfl
  unfold hdr ngetD at hk ⊢
  rw [hm]
  cases hx : nget s.hdrs p with
  | none => rw [hx] at hk; exact hk
  | some x =>
    rw [hx] at hk
    dsimp only [Option.map_some, Option.getD_some]
    split
    · rw [breakLock_frame]; exact hk
    · exact hk

protected theorem Homing.setHdr {page : Nat} {h : PageHdr} (hs : Homing s₀ s) (hf : h.fltSrc = (hdr s page).fltSrc) :
    Homing s₀ (setHdr s page h) := by
  refine hs.trans ⟨rfl, fun p k hk => ?_⟩
  rw [hdr_setHdr]
  split
  · next e => rw [hf, ← e]; exact hk
  · exact hk

protected theorem Homing.rput {page bank off : Nat} {v : U32} (hs : Homing s₀ s) : Homing s₀ (rput s page bank off v) := hs.upd rfl

protected theorem Homing.rputN {page bank off v : Nat} (hs : Homing s₀ s) : Homing s₀ (rputN s page bank off v) := by
  unfold rputN
  exact hs.rput

protected theorem Homing.sput {page bank off : Nat} {v : U32} (hs : Homing s₀ s) : Homing s₀ (sput s page bank off v) := hs.upd rfl

protected theorem Homing.bump {page bank off n : Nat} (hs : Homing s₀ s) : Homing s₀ (bump s page bank off n) := by
  unfold bump
  exact hs.rputN

protected theorem Homing.boothField {page bank off hi lo v : Nat} (hs : Homing s₀ s) :
    Homing s₀ (boothField s page bank off hi lo v) := by
  unfold boothField
  extract_lets +onlyGivenNames shadow
  exact Homing.upd (s := sput (rputN s page bank off (setBits (rgetN s page bank off) hi lo v)) page bank off
      (BitVec.ofNat 32 shadow)) hs.rputN.sput rfl

protected theorem Homing.setCtx {c : Nat} {x : Ctx} (hs : Homing s₀ s) : Homing s₀ (setCtx s c x) := hs.upd rfl

protected theorem Homing.setQ {q : Nat} {x : Queue} (hs : Homing s₀ s) : Homing s₀ (setQ s q x) := hs.upd rfl

protected theorem Homing.setTile {t : Nat} {x : Tile} (hs : Homing s₀ s) : Homing s₀ (setTile s t x) := hs.upd rfl

protected theorem Homing.setPool {p : Nat} {x : Pool} (hs : Homing s₀ s) : Homing s₀ (setPool s p x) := hs.upd rfl

protected theorem Homing.setFifo {f : Nat} {x : Fifo} (hs : Homing s₀ s) : Homing s₀ (setFifo s f x) := hs.upd rfl

protected theorem Homing.setMin {p o m : Nat} (hs : Homing s₀ s) (e : setMin s p o m = some t) : Homing s₀ t := by
  unfold setMin at e
  extract_lets x x1 at e
  split at e
  · cases e
    exact hs.setPool
  · cases e

protected theorem Homing.setMin_getD {p o m : Nat} (hs : Homing s₀ s) : Homing s₀ ((setMin s p o m).getD s) := by
  cases e : setMin s p o m with
  | none => exact hs
  | some t => exact hs.setMin e

protected theorem Homing.breakOwner {o : Nat} (hs : Homing s₀ s) : Homing s₀ (breakOwner s o) := by
  unfold breakOwner
  extract_lets +onlyGivenNames s1
  have hs1 : Homing s₀ s1 := hs.breakLocks
  clear_value s1
  exact Homing.ite hs1.breakSems (Homing.ite hs1.mgmtTo hs1)

protected theorem Homing.losePc {pc : Nat} (hs : Homing s₀ s) : Homing s₀ (losePc s pc) := hs.upd rfl

protected theorem Homing.gateTile {t : Nat} (hs : Homing s₀ s) : Homing s₀ (gateTile s t) := by
  unfold gateTile
  exact hs.setTile

protected theorem Homing.mapPc {pc region : Nat} (hs : Homing s₀ s) : Homing s₀ (mapPc s pc region) := by
  unfold mapPc
  extract_lets +onlyGivenNames pg
  exact Homing.ite hs.boothField hs.boothField

protected theorem Homing.dropPc {pc : Nat} (hs : Homing s₀ s) : Homing s₀ (dropPc s pc) := by
  unfold dropPc
  exact hs.mapPc.losePc

protected theorem Homing.releasePcs {x : Ctx} (hs : Homing s₀ s) : Homing s₀ (releasePcs s x) := by
  unfold releasePcs
  split
  · exact hs.setCtx
  · exact hs.foldl fun _ _ hu => hu.dropPc

protected theorem Homing.releaseDone {c : Nat} (hs : Homing s₀ s) : Homing s₀ (releaseDone s c) := by
  unfold releaseDone
  split
  · exact hs
  · extract_lets +onlyGivenNames b _ s1 s2 p s3 s4 s5 _ s6 s8
    have hs1 : Homing s₀ s1 := (hs.upd rfl)
    clear_value s1
    have hs2 : Homing s₀ s2 := (hs1.foldl fun _ _ hu => hu.gateTile)
    clear_value s2
    have hs3 : Homing s₀ s3 := hs2.setMin_getD
    clear_value s3
    have hs4 : Homing s₀ s4 := (Homing.ite hs3 hs3.boothField)
    clear_value s4
    have hs5 : Homing s₀ s5 := hs4.boothField.setFifo
    clear_value s5
    have hs6 : Homing s₀ s6 := (Homing.ite hs5.setQ hs5)
    clear_value s6
    have hs8 : Homing s₀ s8 := (hs6.upd rfl)
    clear_value s8
    exact hs8.releasePcs.breakOwner

protected theorem Homing.releaseCheck {c : Nat} (hs : Homing s₀ s) : Homing s₀ (releaseCheck s c) := by
  unfold releaseCheck
  split
  · exact Homing.ite hs.releaseDone hs
  · exact hs

protected theorem Homing.releaseBoundary {c : Nat} (hs : Homing s₀ s) : Homing s₀ (releaseBoundary s c) := by
  unfold releaseBoundary
  split
  · extract_lets +onlyGivenNames s1
    have hs1 : Homing s₀ s1 := hs.setCtx
    clear_value s1
    refine Homing.releaseCheck (hs1.foldl fun _ _ hu => ?_)
    extract_lets +onlyGivenNames s'
    have hs' : Homing s₀ s' := hu.boothField
    clear_value s'
    exact hs'.setHdr rfl
  · exact hs

protected theorem Homing.qFault {q src : Nat} (hs : Homing s₀ s) : Homing s₀ (qFault s q src) := by
  unfold qFault
  exact hs.rputN.raiseFault

protected theorem Homing.takeSlot {q : Nat} {se irq : Bool} {limit : Option Time} (hs : Homing s₀ s) :
    Homing s₀ (takeSlot s q se irq limit).2 := by
  unfold takeSlot
  extract_lets +onlyGivenNames x
  dsimp only
  exact Homing.setQ (hs.upd rfl)

protected theorem Homing.finishSlot {q id : Nat} {ce : List Byte} (hs : Homing s₀ s) : Homing s₀ (finishSlot s q id ce) := by
  unfold finishSlot
  extract_lets +onlyGivenNames x
  exact hs.setQ

protected theorem Homing.frameSlot {q : Nat} {limit : Option Time} (hs : Homing s₀ s) : Homing s₀ (frameSlot s q limit).2 := by
  unfold frameSlot
  split
  · dsimp only
    exact hs
  · split
    · dsimp only
      exact hs.bump.qFault
    · extract_lets +onlyGivenNames r
      have hr : Homing s₀ r.2 := hs.takeSlot
      clear_value r
      dsimp only
      exact hr

protected theorem Homing.finishFrame {q : Nat} {id : Option Nat} {ce : List Byte} (hs : Homing s₀ s) :
    Homing s₀ (finishFrame s q id ce) := by
  unfold finishFrame
  split
  · exact hs.finishSlot
  · exact hs

protected theorem Homing.endPic {c id : Nat} {st : Nat × Nat} (hs : Homing s₀ s) : Homing s₀ (endPic s c id st) := by
  unfold endPic
  split
  · exact hs
  · split
    · exact hs
    · extract_lets +onlyGivenNames done s1
      have hs1 : Homing s₀ s1 := hs.finishFrame
      clear_value s1
      exact hs1.setCtx.releaseCheck

protected theorem Homing.numberPics {n : Nat} {h : Home} (hs : Homing s₀ s) : Homing s₀ (numberPics n s h) := by
  induction n generalizing s with
  | zero => exact hs
  | succ n ih =>
    unfold numberPics
    split
    · exact hs
    · split
      · exact hs
      · exact ih hs.setCtx

protected theorem Homing.newPic {h : Home} {x : Ctx} {src : Nat} (hs : Homing s₀ s) : Homing s₀ (newPic s h x src).2 := by
  unfold newPic
  extract_lets +onlyGivenNames t' id p
  have ht' : Homing s₀ t'.2 := hs.frameSlot
  clear_value t'
  dsimp only
  exact Homing.setCtx (Homing.upd (s := t'.2) ht' rfl)

protected theorem Homing.homeLeave {stream : Nat} (hs : Homing s₀ s) : Homing s₀ (homeLeave s stream) := by
  unfold homeLeave
  split
  · exact hs
  · split
    · exact Homing.ite hs.releaseBoundary hs
    · exact hs

protected theorem Homing.lostFrame {stream i : Nat} (hs : Homing s₀ s) : Homing s₀ (lostFrame s stream i) := by
  unfold lostFrame
  split
  · exact hs
  · split
    · extract_lets +onlyGivenNames k src n
      have hn : Homing s₀ n.2 := hs.newPic
      clear_value n
      exact hn.endPic.setHome
    · exact hs

protected theorem Homing.loseRole {stream i : Nat} {hadPic : Bool} (hs : Homing s₀ s) : Homing s₀ (loseRole s stream i hadPic) := by
  unfold loseRole
  split
  · exact hs
  · split
    · extract_lets +onlyGivenNames per s1
      have hs1 : Homing s₀ s1 := hs.setHome
      clear_value s1
      exact Homing.ite hs1 hs1.lostFrame
    · exact hs

protected theorem Homing.lostPeriods (hs : Homing s₀ s) : Homing s₀ (lostPeriods s) := by
  unfold lostPeriods
  refine hs.foldl fun _ _ hu => (hu.foldl fun _ _ hv => ?_)
  split
  · exact hv
  · split
    · extract_lets +onlyGivenNames per
      split
      · exact Homing.ite hv.setHome.lostFrame hv
      · exact hv
    · exact hv

protected theorem Homing.loseMembers {h : Home} {sel : Member → Bool} {dead : Bool} (hs : Homing s₀ s) :
    Homing s₀ (loseMembers s h sel dead) := by
  unfold loseMembers
  split
  · exact hs
  · extract_lets +onlyGivenNames ms ids g s1 s2
    have hs1 : Homing s₀ s1 := (hs.setHome.foldl fun _ _ hu => hu.endPic)
    clear_value s1
    have hs2 : Homing s₀ s2 := hs1.numberPics
    clear_value s2
    exact Homing.ite (hs2.foldl fun _ _ hu => hu.loseRole) hs2

protected theorem Homing.loseAll {sel : Member → Bool} {dead : Bool} (hs : Homing s₀ s) : Homing s₀ (loseAll s sel dead) := by
  unfold loseAll
  exact hs.foldl fun _ _ hu => (Homing.ite hu.loseMembers.homeLeave hu)

end

/-! ## What a message sent keeps of its port -/

section
variable {s t : State} {p c : Nat}

theorem fifoPut_sfs (s : State) (f : Nat) (w : LW) : (fifoPut s f w).sfs = s.sfs := by
  unfold fifoPut
  dsimp only
  rw [fifoStore_frame, comPut_frame]
  rfl

theorem fifoPush_sfs (s : State) (f : Nat) (bs : List Byte) : (fifoPush s f bs).sfs = s.sfs := by
  unfold fifoPush
  exact List.foldlRecOn _ _ (motive := fun u : State => u.sfs = s.sfs) rfl fun u hu _ _ => (fifoPut_sfs _ _ _).trans hu

theorem fifoStall_sfs (s : State) (f k : Nat) : (fifoStall s f k).sfs = s.sfs := by
  unfold fifoStall
  dsimp only
  split <;> rfl

theorem sfTransmit_sfs (s : State) (p c : Nat) (g : TxFlit) : (sfTransmit s p c g).2.sfs = s.sfs := by
  unfold sfTransmit
  split
  · exact fifoPush_sfs _ _ _
  · exact fifoStall_sfs _ _ _

theorem sfPump_sfs (s : State) (p c : Nat) (l : List TxFlit) : (sfPump s p c l).2.sfs = s.sfs := by
  induction l generalizing s with
  | nil => rfl
  | cons g l ih =>
    unfold sfPump
    dsimp only
    split
    · split
      · exact sfTransmit_sfs _ _ _ _
      · exact (ih _).trans (sfTransmit_sfs _ _ _ _)
    · exact ih _

/-- A message sent leaves the role and the peer of its port. -/
theorem sendMgmt_role (s : State) (p dst : Nat) (msg : List Byte) :
    (getSf (sendMgmt s p dst msg) p).role = (getSf s p).role ∧ (getSf (sendMgmt s p dst msg) p).peer = (getSf s p).peer := by
  unfold sendMgmt sendSeq sendSrc
  dsimp only
  split
  · exact ⟨rfl, rfl⟩
  · unfold setTx
    dsimp only
    rw [getSf_setSf, if_pos rfl]
    have h : getSf (sfPump s p 7 ((getTx s p 7).unacked ++ [⟨(getTx s p 7).next,
        flitBytes 1 7 0 (getTx s p 7).next dst s.casc.devId true true msg s.casc.epoch.toNat, 0, s.dt, none⟩])).2 p = getSf s p := by
      unfold getSf
      rw [sfPump_sfs]
    rw [h]
    exact ⟨rfl, rfl⟩

theorem sendMgmt_casc (s : State) (p dst : Nat) (msg : List Byte) : (sendMgmt s p dst msg).casc = s.casc :=
  ((Sends.refl s).sendMgmt (p := p) (dst := dst) (msg := msg)).casc

theorem mgmtTo_casc (s : State) (dst : Nat) (msg : List Byte) : (mgmtTo s dst msg).casc = s.casc :=
  ((Sends.refl s).mgmtTo (dst := dst) (msg := msg)).casc

theorem sendPlain_casc (s : State) (p typ dst : Nat) (b : List Byte) : (sendPlain s p typ dst b).casc = s.casc :=
  ((Sends.refl s).sendPlain (p := p) (typ := typ) (dst := dst) (payload := b)).casc

theorem sendPlains_casc (s : State) (l : List Nat) (b : List Byte) :
    (l.foldl (fun s p => sendPlain s p 5 (getSf s p).peer b) s).casc = s.casc :=
  List.foldlRecOn l _ (motive := fun u : State => u.casc = s.casc) rfl fun _ hu _ _ => (sendPlain_casc _ _ _ _ _).trans hu

theorem getSf_setRole (s : State) (p r d : Nat) : (getSf (setRole s p r d) p).role = r ∧ (getSf (setRole s p r d) p).peer = d := by
  unfold setRole
  rw [getSf_setSf, if_pos rfl]
  exact ⟨rfl, rfl⟩

/-! ## Enumeration (R352) -/

/-- A new role leaves every port's link. -/
theorem setRole_link (s : State) (p q r d : Nat) : (getSf (setRole s p r d) q).link = (getSf s q).link := by
  unfold setRole
  rw [getSf_setSf]
  split
  · next h => rw [h]
  · rfl

theorem setRole_up (s : State) (p q r d : Nat) : sfUp (setRole s p r d) q = sfUp s q := sfUp_congr (setRole_link s p q r d) rfl

/-- Ports without a role are up as before. -/
theorem dropRoles_up (s : State) (l : List Nat) (q : Nat) : sfUp (l.foldl (fun s p => setRole s p 0 0x7FF) s) q = sfUp s q :=
  List.foldlRecOn l _ (motive := fun u => sfUp u q = sfUp s q) rfl fun u hu p _ => (setRole_up u p q 0 0x7FF).trans hu

theorem dropRoles_upPorts (s : State) (l : List Nat) (but : Option Nat) :
    upPorts (l.foldl (fun s p => setRole s p 0 0x7FF) s) but = upPorts s but := by
  unfold upPorts
  exact List.filter_congr fun q _ => by rw [dropRoles_up]

theorem cascDone_casc (s : State) : (cascDone s).casc = { s.casc with cmdBusy := false } := (setEvt_noted _ _ _).casc

theorem enumSend_casc (s : State) (p id d : Nat) (l : List Nat) :
    (enumSend s p id d l).casc = { s.casc with routes := if id < 2048 then nset s.casc.routes id p else s.casc.routes } :=
  sendMgmt_casc _ _ _ _

/-- The next probe keeps the table of devices and the next ID. -/
theorem enumNext_nodes (n : Nat) (s : State) : (enumNext n s).casc.nodes = s.casc.nodes ∧ (enumNext n s).casc.nextId = s.casc.nextId := by
  induction n generalizing s with
  | zero => unfold enumNext; rw [cascDone_casc]; exact ⟨rfl, rfl⟩
  | succ n ih =>
    unfold enumNext
    split
    · rw [cascDone_casc]; exact ⟨rfl, rfl⟩
    · extract_lets depth id s1 s2
      split
      · split
        · rw [enumSend_casc]; exact ⟨rfl, rfl⟩
        · exact ih _
      · rw [mgmtTo_casc]; exact ⟨rfl, rfl⟩

/-- With no probe to send the command is done. -/
theorem enumNext_none {n : Nat} (h : s.casc.enumWork = []) : enumNext (n + 1) s = cascDone (withCasc s fun c => { c with enumCur := none }) := by
  unfold enumNext
  rw [h]

/-- The first probe of the tree goes out on the master's first port that is up. -/
theorem enumNext_first {n : Nat} {rest : List (Nat × Nat)} (h : s.casc.enumWork = (0, p) :: rest) (hn : s.casc.nodes = []) (hi : s.casc.nextId = 1)
    (hu : sfUp s p = true) : (enumNext (n + 1) s).casc = { s.casc with
      enumWork := rest, enumCur := some ⟨0, p, 1, 1⟩, routes := nset s.casc.routes 1 p } := by
  unfold enumNext
  rw [h]
  dsimp only
  have hd : nodeDepth s 0 = 0 := by unfold nodeDepth; rw [hn]; rfl
  rw [if_pos rfl]
  refine (congrArg State.casc (if_pos hu)).trans ?_
  have hid : (if nodeDepth s 0 + 1 ≤ 8 ∧ s.casc.nextId < 2048 then s.casc.nextId else 2048) = 1 := by
    rw [hd, hi]; rfl
  rw [enumSend_casc, hid, hd, if_pos (by decide)]
  rfl

theorem enumNext_none_pend {n : Nat} (h : s.casc.enumWork = []) : (hdr (enumNext (n + 1) s) cascPg).evtPend.getLsbD 0 = true := by
  rw [enumNext_none h]
  exact setEvt_pend _ _ _ (by decide)

/-- ENUMERATE makes the device the root and sends the first probe. -/
theorem enumerateOp_spec (s : State) : (enumerateOp s).casc.devId = 0 ∧ (enumerateOp s).casc.depth = 0 ∧ (enumerateOp s).casc.enumDone = true ∧
    (enumerateOp s).casc.nodes = [] ∧
    (match upPorts s none with
     | [] => (enumerateOp s).casc.cmdBusy = false ∧ (hdr (enumerateOp s) cascPg).evtPend.getLsbD 0 = true
     | p :: rest => (enumerateOp s).casc.cmdBusy = true ∧ (enumerateOp s).casc.enumCur = some ⟨0, p, 1, 1⟩ ∧
        (enumerateOp s).casc.enumWork = rest.map fun q => (0, q)) := by
  unfold enumerateOp
  extract_lets s1 ports
  have hports : ports = upPorts s none := dropRoles_upPorts _ _ _
  have hup : ∀ q, sfUp s1 q = sfUp s q := dropRoles_up _ _
  have hmem : ∀ p ∈ ports, sfUp s1 p = true := fun p hp => by
    rw [hup]
    rw [hports] at hp
    exact (Bool.and_eq_true_iff.mp (List.mem_filter.mp hp).2).1
  rw [← hports]
  clear_value s1
  generalize hw : withCasc s1 _ = w
  have hwork : w.casc.enumWork = ports.map fun p => (0, p) := by rw [← hw]; rfl
  have hrec : w.casc.devId = 0 ∧ w.casc.depth = 0 ∧ w.casc.enumDone = true ∧ w.casc.nodes = [] ∧ w.casc.cmdBusy = true ∧
      w.casc.nextId = 1 := by
    rw [← hw]
    exact ⟨rfl, rfl, rfl, rfl, rfl, rfl⟩
  have hwup : ∀ p ∈ ports, sfUp w p = true := fun p hp => by rw [← hw]; exact hmem p hp
  obtain ⟨hdev, hdepth, hdone, hnodes, hbusy, hid⟩ := hrec
  clear_value ports
  clear hw
  cases ports with
  | nil =>
    have hpend := enumNext_none_pend (n := ([] : List Nat).length) hwork
    rw [enumNext_none hwork] at hpend ⊢
    rw [cascDone_casc]
    exact ⟨hdev, hdepth, hdone, hnodes, rfl, hpend⟩
  | cons p rest =>
    rw [enumNext_first hwork hnodes hid (hwup p List.mem_cons_self)]
    exact ⟨hdev, hdepth, hdone, hnodes, hbusy, rfl, rfl⟩

/-- At a new device, or at its parent's port, ENUM fixes ID, depth and parent. -/
theorem enumOp_new {port id depth parent via : Nat} {sp : List Nat} (hp : port < 4) (hu : sfUp s port = true) (hv : 4 ≤ via)
    (hm : isMaster s = false) (hq : s.casc.parentPort = none ∨ s.casc.parentPort = some port) (hi : id < 2048) :
    (enumOp port id depth parent via sp s).casc = { s.casc with
      devId := id, depth := depth, enumDone := true, parentPort := some port, spare := sp.contains s.fuses.serial
      masterHb := s.dt, masterLost := false, routes := [] } ∧
    (getSf (enumOp port id depth parent via sp s) port).role = 1 ∧ (getSf (enumOp port id depth parent via sp s) port).peer = parent := by
  unfold enumOp
  rw [if_neg (by rw [hu]; simp; omega), if_neg (by omega), if_pos ⟨by rw [hm]; rfl, hq⟩, if_pos hi]
  extract_lets s1
  obtain ⟨h1, h2⟩ := getSf_setRole (withCasc s fun c => { c with
    devId := id, depth := depth, enumDone := true, parentPort := some port, spare := sp.contains s.fuses.serial
    masterHb := s.dt, masterLost := false, routes := [] }) port 1 parent
  have hg : (getSf (setSf s1 port { getSf s1 port with deadPeer := false, heard := false }) port) =
      { getSf s1 port with deadPeer := false, heard := false } := (getSf_setSf _ _ _ _).trans (if_pos rfl)
  rw [sendMgmt_casc, (sendMgmt_role _ _ _ _).1, (sendMgmt_role _ _ _ _).2, hg]
  exact ⟨rfl, h1, h2⟩

/-- At a further port ENUM makes the link a standby one. -/
theorem enumOp_standby {port id depth parent via q : Nat} {sp : List Nat} (hp : port < 4) (hu : sfUp s port = true) (hv : 4 ≤ via)
    (hq : s.casc.parentPort = some q) (hne : q ≠ port) :
    (getSf (enumOp port id depth parent via sp s) port).role = 3 ∧ (getSf (enumOp port id depth parent via sp s) port).peer = parent ∧
      (enumOp port id depth parent via sp s).casc = s.casc := by
  unfold enumOp
  rw [if_neg (by rw [hu]; simp; omega), if_neg (by omega), if_neg (by rw [hq]; simp [hne]), sendMgmt_casc,
    (sendMgmt_role _ _ _ _).1, (sendMgmt_role _ _ _ _).2]
  obtain ⟨h1, h2⟩ := getSf_setRole s port 3 parent
  exact ⟨h1, h2, rfl⟩

/-- A new port role is no part of the cascade's record. -/
theorem setRoleIf_casc {b : Prop} [Decidable b] (s : State) (p r d : Nat) : (if b then setRole s p r d else s).casc = s.casc := by
  split <;> rfl

theorem setRoleIf_dt {b : Prop} [Decidable b] (s : State) (p r d : Nat) : (if b then setRole s p r d else s).dt = s.dt := by
  split <;> rfl

theorem setRoleIf_straps {b : Prop} [Decidable b] (s : State) (p r d : Nat) : (if b then setRole s p r d else s).straps = s.straps := by
  split <;> rfl

theorem addSpare_frame (s : State) (n : Nat) : addSpare s n = { s with regs := (addSpare s n).regs } := by
  unfold addSpare
  split
  · rfl
  · split <;> rfl

/-- The master records the device that a reply names. -/
theorem enumTake_new {serial dev : Nat} {ports : List Nat} {q : Probe} (h : s.casc.enumCur = some q) (hi : q.id < 2048) :
    nget (enumTake serial dev false ports s).casc.nodes q.id =
        some { serial := serial, parent := q.parent, port := q.port, depth := q.depth, last := s.dt } ∧
      (enumTake serial dev false ports s).casc.nextId = s.casc.nextId + 1 := by
  have ha : ∀ b : Bool, (if b then addSpare s serial else s).casc = s.casc := fun b => by
    split
    · rw [addSpare_frame]
    · rfl
  unfold enumTake
  rw [h]
  dsimp only
  rw [if_neg (by decide), if_neg (by omega), (enumNext_nodes _ _).1, (enumNext_nodes _ _).2]
  refine ⟨?_, ?_⟩
  · refine (nget_nset _ _ _ _).trans (if_pos rfl)
  · exact congrArg (fun c => c.nextId + 1) (ha _)

/-- A reply at the master is taken, whatever role it gives the port. -/
theorem enumReplyOp_new {port serial dev : Nat} {ports : List Nat} {q : Probe} (hp : port < 4) (hu : sfUp s port = true)
    (hm : isMaster s = true) (h : s.casc.enumCur = some q) (hi : q.id < 2048) :
    nget (enumReplyOp port serial dev false ports s).casc.nodes q.id =
        some { serial := serial, parent := q.parent, port := q.port, depth := q.depth, last := s.dt } ∧
      (enumReplyOp port serial dev false ports s).casc.nextId = s.casc.nextId + 1 := by
  unfold enumReplyOp
  rw [if_neg (by rw [hu]; simp; omega)]
  extract_lets s1
  have hc : s1.casc = s.casc := setRoleIf_casc _ _ _ _
  have hdt : s1.dt = s.dt := setRoleIf_dt _ _ _ _
  have hst : s1.straps = s.straps := setRoleIf_straps _ _ _ _
  clear_value s1
  rw [if_pos (by unfold isMaster at hm ⊢; rw [hst]; exact hm), ← hdt, ← hc]
  exact enumTake_new (by rw [hc]; exact h) hi

/-! ## Heartbeats, epochs and fencing (R355–R358) -/

theorem bump_src (s : State) (p b o n q k : Nat) (h : (hdr s q).fltSrc.getLsbD k = true) :
    (hdr (bump s p b o n) q).fltSrc.getLsbD k = true := h

/-- A heartbeat timer counts. -/
theorem heartbeatTimer_count (h : s.casc.enumDone = true) : (heartbeatTimer s).casc.hbCount = (s.casc.hbCount + 1) % 2 ^ 32 := by
  have hl : (lostPeriods s).casc.hbCount = s.casc.hbCount := by rw [(Homing.refl s).lostPeriods.casc]
  unfold heartbeatTimer
  rw [if_neg (by rw [h]; decide)]
  extract_lets u s1 b
  have h1 : s1.casc.hbCount = (s.casc.hbCount + 1) % 2 ^ 32 := by rw [← hl]; rfl
  clear_value s1
  split
  · rw [sendPlains_casc, h1]
  · split
    · rw [sendPlain_casc, h1]
    · exact h1

/-- The master's heartbeat restarts the master timer. -/
theorem heartbeatOp_master {port count : Nat} {st : BitVec 32} (hp : port < 4) (hu : sfUp s port = true) (hd : s.casc.enumDone = true)
    (hm : isMaster s = false) : (heartbeatOp port 0 count st s.casc.epoch s).casc = { s.casc with masterHb := s.dt, masterLost := false } := by
  unfold heartbeatOp
  rw [if_neg (by rw [hu]; simp; omega), if_neg (fun h => h rfl), if_neg (by rw [hd]; decide), if_pos rfl, if_neg (by rw [hm]; decide),
    sendPlains_casc]
  rfl

/-- A heartbeat of another device restarts its node's timer at the master, and shows the way to it. -/
theorem heartbeatOp_node {port dev count : Nat} {st : BitVec 32} {n : Node} (hp : port < 4) (hu : sfUp s port = true)
    (hd : s.casc.enumDone = true) (hm : isMaster s = true) (h0 : dev ≠ 0) (hn : nget s.casc.nodes dev = some n) :
    nget (heartbeatOp port dev count st s.casc.epoch s).casc.nodes dev = some { n with last := s.dt } ∧
      nget (heartbeatOp port dev count st s.casc.epoch s).casc.routes dev = some port := by
  have hdt : ∀ b : Prop, ∀ [Decidable b], (if b then setSf s port { getSf s port with role := 2 } else s).dt = s.dt ∧
      (if b then setSf s port { getSf s port with role := 2 } else s).casc = s.casc ∧
      isMaster (if b then setSf s port { getSf s port with role := 2 } else s) = true := fun b _ => by
    split <;> exact ⟨rfl, rfl, hm⟩
  unfold heartbeatOp
  rw [if_neg (by rw [hu]; simp; omega), if_neg (fun h => h rfl), if_neg (by rw [hd]; decide), if_neg h0]
  extract_lets b s1 s2
  obtain ⟨h1, h2, h3⟩ := hdt ((getSf s port).role = 3)
  have hw : withNode s1.casc dev (fun n => { n with last := s.dt }) = { s1.casc with nodes := nset s1.casc.nodes dev { n with last := s.dt } } := by
    unfold withNode
    rw [h2, hn]
  rw [if_pos (show isMaster s2 = true from h3)]
  refine ⟨?_, (nget_nset _ _ _ _).trans (if_pos rfl)⟩
  show nget (withNode s1.casc dev fun n => { n with last := s.dt }).nodes dev = _
  rw [hw]
  exact (nget_nset _ _ _ _).trans (if_pos rfl)

theorem heartbeatOp_stale {port dev count : Nat} {st : BitVec 32} {e : BitVec 8} (hp : port < 4) (hu : sfUp s port = true)
    (he : e ≠ s.casc.epoch) : heartbeatOp port dev count st e s = epochDrop s port := by
  unfold heartbeatOp
  rw [if_neg (by rw [hu]; simp; omega), if_pos he]

/-- Without the master's heartbeat the device raises CASC_MASTER_LOST. -/
theorem masterLostOp_lost (hd : s.casc.enumDone = true) (hm : isMaster s = false) (hl : s.casc.masterLost = false)
    (ht : s.casc.masterHb + usT 32 ≤ s.dt) :
    (masterLostOp s).casc.masterLost = true ∧ (hdr (masterLostOp s) cascPg).fltSrc.getLsbD 3 = true := by
  unfold masterLostOp
  rw [if_neg (by rw [hd, hm, hl]; simpa using ht)]
  extract_lets s1
  have h : Homing s1 (loseAll (markCtxs s1 (fun _ x => x.role == 1) (fun _ _ => true) 4) (fun m => m.dev != s1.casc.devId) false) :=
    (Homing.refl s1).markCtxs.loseAll
  have h1 : s1.casc.masterLost = true := congrArg Casc.masterLost (raiseFault_noted _ _ _ _).casc
  exact ⟨(congrArg Casc.masterLost h.casc).trans h1, h.src _ _ (raiseFault_src (by rfl) (by rfl) (by decide))⟩

/-- What the ports take of a new epoch is no part of the cascade's record. -/
theorem epochPorts_homing {s₀ : State} (h : Homing s₀ s) (dead : List Nat) (l : List Nat) : Homing s₀ (l.foldl (fun s p =>
    let x := getSf s p
    if x.role != 0 && dead.contains x.peer then setSf s p { x with deadPeer := true, role := 0 }
    else if s.casc.parentPort = some p then setSf s p { x with role := 1 }
    else s) s) :=
  h.foldl fun u p hu => by
    extract_lets x
    exact Homing.ite (hu.upd rfl) (Homing.ite (hu.upd rfl) hu)

/-- A device takes the epoch and the dead of a new epoch; it keeps the nodes, the streams and the fault sources. -/
theorem takeEpoch_spec (e : BitVec 8) (dead : List Nat) (s : State) :
    (takeEpoch e dead s).casc.epoch = e ∧
    (takeEpoch e dead s).casc.deadList = (if e = s.casc.epoch then s.casc.deadList ++ dead else dead) ∧
    (takeEpoch e dead s).casc.nodes = s.casc.nodes ∧ (takeEpoch e dead s).casc.streams = s.casc.streams ∧
    (hdr (takeEpoch e dead s) cascPg).evtPend.getLsbD 2 = true := by
  unfold takeEpoch
  extract_lets s1 s2
  have h : Homing s1 (setEvt (loseAll s2 (fun m => dead.contains m.dev) true) cascPg 2) :=
    (epochPorts_homing (Homing.refl s1) dead (List.range 4)).loseAll.setEvt
  rw [h.casc]
  exact ⟨rfl, rfl, rfl, rfl, setEvt_pend _ _ _ (by decide)⟩

theorem forwardEpoch_sends (s : State) (dead : List Nat) (but : Option Nat) : Sends s (forwardEpoch s dead but) := by
  unfold forwardEpoch
  exact (Sends.refl s).foldl fun u p hu => hu.foldl fun v l hv => hv.sendMgmt

theorem Sends.hdr_eq (h : Sends s t) (p : Nat) : Machine.hdr t p = Machine.hdr s p := by rw [h.frame]; rfl

/-- A new epoch is taken, with its event (R357). -/
theorem epochOp_new {port : Nat} {e : BitVec 8} {dead : List Nat} (hp : port < 4) (hu : sfUp s port = true) (hm : isMaster s = false)
    (he : e ≠ s.casc.epoch) : (epochOp port e dead s).casc.epoch = e ∧ (epochOp port e dead s).casc.deadList = dead ∧
      (hdr (epochOp port e dead s) cascPg).evtPend.getLsbD 2 = true := by
  obtain ⟨h1, h2, -, -, h5⟩ := takeEpoch_spec e dead s
  have hs := forwardEpoch_sends (takeEpoch e dead s) dead (some port)
  unfold epochOp
  rw [if_neg (by rw [hu, hm]; simp [he]; omega), hs.casc, hs.hdr_eq]
  exact ⟨h1, h2.trans (if_neg he), h5⟩

/-- The search for the devices that still reach the master leaves a dead one with its entry, and not among them. -/
theorem survivors_keeps (n : Nat) (ns : NMap Node) (d : Nat) (live : List Nat) (h : d ∉ live) :
    nget (survivors n ns [d] live).1 d = nget ns d ∧ d ∉ (survivors n ns [d] live).2 := by
  induction n generalizing ns live with
  | zero => exact ⟨rfl, h⟩
  | succ n ih =>
    have hout : ∀ (e : Nat × Node) (p : Bool), (!live.contains e.1 && !([d] : List Nat).contains e.1 && !e.2.dead && p) = true →
        e.1 ≠ d := by
      rintro e p he rfl
      simp at he
    have hlive : ∀ e : Nat × Node, e.1 ≠ d → d ∉ live ++ [e.1] := fun e he hd => by
      rcases List.mem_append.mp hd with hd | hd
      · exact h hd
      · exact he (List.mem_singleton.mp hd).symm
    unfold survivors
    extract_lets out
    split
    · next e he => exact ih _ _ (hlive e (hout e (live.contains e.2.parent) (List.find?_some (p := fun e => out e && live.contains e.2.parent) he)))
    · split
      · next e he =>
        have hne := hout e (e.2.standby.any live.contains) (List.find?_some (p := fun e => out e && e.2.standby.any live.contains) he)
        obtain ⟨h1, h2⟩ := ih (nset ns e.1 { e.2 with parent := (e.2.standby.find? live.contains).getD 0 }) _ (hlive e hne)
        exact ⟨h1.trans (nget_nset_other _ _ _ _ hne.symm), h2⟩
      · exact ⟨rfl, h⟩

theorem mem_of_nget {α : Type} {m : NMap α} {k : Nat} {v : α} (h : nget m k = some v) : (k, v) ∈ m := by
  induction m with
  | nil => cases h
  | cons e m ih =>
    unfold nget at h
    split at h
    · next hk => cases h; rw [← hk]; exact List.mem_cons_self
    · exact List.mem_cons_of_mem _ (ih h)

/-- The dead among the devices known are marked. -/
theorem nget_markDead (m : NMap Node) (dead : List Nat) (d : Nat) :
    nget (m.map fun e => if dead.contains e.1 then (e.1, { e.2 with dead := true }) else e) d =
      (nget m d).map fun n => if dead.contains d then { n with dead := true } else n := by
  rw [← nget_map m (fun k n => if dead.contains k then { n with dead := true } else n) d]
  refine congrArg (fun l => nget l d) (List.map_congr_left fun e _ => ?_)
  split <;> rfl

/-- With no stream over several devices no one's place is to be taken. -/
theorem promoteAll_none (l : List Nat) (h : s.casc.streams = []) : l.foldl (fun s d => promoteAll s (deadPlaces s [d])) s = s := by
  have h1 : ∀ d, promoteAll s (deadPlaces s [d]) = s := fun d => by
    unfold deadPlaces
    rw [h]
    rfl
  induction l with
  | nil => rfl
  | cons d l ih => rw [List.foldl_cons, h1, ih]

/-- A device whose heartbeats have stopped is declared dead under the next epoch (R356). -/
theorem deviceDead_spec {dev : Nat} {n : Node} (hm : isMaster s = true) (hs : s.casc.streams = []) (h0 : dev ≠ 0)
    (hn : nget s.casc.nodes dev = some n) (hd : n.dead = false) (ht : n.last + nsT (rbits s cascPg 0 0x118 16 0) ≤ s.dt) :
    (deviceDead dev s).casc.epoch = s.casc.epoch + 1 ∧ nget (deviceDead dev s).casc.nodes dev = some { n with dead := true } ∧
      (hdr (deviceDead dev s) cascPg).fltSrc.getLsbD 0 = true ∧ (hdr (deviceDead dev s) cascPg).evtPend.getLsbD 2 = true := by
  obtain ⟨hr1, hr2⟩ := survivors_keeps (2 * s.casc.nodes.length + 2) s.casc.nodes dev [0] (by simpa using h0)
  unfold deviceDead
  split
  · next hx => rw [hn] at hx; cases hx
  next n' hx =>
  obtain rfl : n = n' := Option.some.inj (hn.symm.trans hx)
  rw [if_neg (by rw [hm, hd]; simpa using ht)]
  extract_lets r dead s1 s2 s3 s4
  have hmem : dead.contains dev = true := by
    refine List.contains_iff_mem.mpr (List.mem_map.mpr ⟨(dev, n), List.mem_filter.mpr ⟨mem_of_nget (hr1.trans hn), ?_⟩, rfl⟩)
    have : r.2.contains dev = false := by simpa using hr2
    simp only [this, hd, Bool.not_false, Bool.and_true]
  have h1 : s1.casc.epoch = s.casc.epoch ∧ s1.casc.streams = [] ∧ nget s1.casc.nodes dev = some { n with dead := true } :=
    ⟨rfl, hs, (nget_markDead r.1 dead dev).trans (by rw [hr1, hn, Option.map_some, if_pos hmem])⟩
  clear_value s1 dead r
  obtain ⟨he, -, hnd, hst, hev⟩ := takeEpoch_spec (s1.casc.epoch + 1) dead s1
  have hw := forwardEpoch_sends s2 dead none
  have hf : Noted (forwardEpoch s2 dead none) s3 := raiseFault_noted _ _ _ _
  have hc : s3.casc = s2.casc := hf.casc.trans hw.casc
  have h4 : s4 = s3 := by
    have : s3.casc.streams = [] := by rw [hc]; exact hst.trans h1.2.1
    show List.foldl _ _ _ = _
    rw [this]
    rfl
  rw [h4, promoteAll_none _ (by rw [hc]; exact hst.trans h1.2.1), hc]
  refine ⟨?_, ?_, raiseFault_src (by rfl) (by rfl) (by decide), hf.pend _ _ ?_⟩
  · exact he.trans (by rw [h1.1])
  · exact (congrArg (nget · dev) hnd).trans h1.2.2
  · rw [hw.hdr_eq]
    exact hev

/-- A CASCADE reset leaves a fenced device fenced (R358). -/
theorem cascadeReset_fenced (h : s.casc.fenced = true) : (cascadeReset s).casc.fenced = true := by
  unfold cascadeReset
  split
  · exact h
  · split
    · exact h
    · exact h

theorem fenceOp_spec {port : Nat} (hp : port < 4) (hu : sfUp s port = true) (hd : s.casc.enumDone = true) (hm : isMaster s = false) :
    fenceOp port s.casc.devId s = cascadeReset (raiseFault (withCasc s fun c => { c with fenced := true }) cascPg 1 0) ∧
      (fenceOp port s.casc.devId s).casc.fenced = true := by
  have h : fenceOp port s.casc.devId s = cascadeReset (raiseFault (withCasc s fun c => { c with fenced := true }) cascPg 1 0) :=
    if_neg (by rw [hu, hd, hm]; simp; omega)
  refine ⟨h, ?_⟩
  rw [h]
  exact cascadeReset_fenced (by rw [(raiseFault_noted _ _ _ _).casc]; rfl)

/-! What tells an event takes nothing back that went out. -/

theorem tell_emitted (s : State) (n : Nat) : ∀ e ∈ s.emitted, e ∈ (tell s n).emitted := fun e he => by
  unfold tell
  dsimp only
  split
  · exact he
  · split
    · unfold sendMsix
      split
      · exact he
      · exact List.mem_append_left _ he
    · exact he

theorem setEvt_emitted (s : State) (page bit : Nat) : ∀ e ∈ s.emitted, e ∈ (setEvt s page bit).emitted := fun e he => by
  unfold setEvt setEvts tellPage
  dsimp only
  split
  · split
    · exact tell_emitted _ _ e he
    · exact he
  · exact he

theorem typ_fenceFlit (d src : Nat) (sop eop : Bool) (pl : List Byte) (ep : Nat) : Flit.typ (flitBytes 6 0 0 0 d src sop eop pl ep) = 6 := by
  have h1 : toBE 1 (6 * 32 + 0 * 4 + 0) = [192] := rfl
  unfold Flit.typ byteAt flitBytes
  dsimp only
  rw [h1]
  simp only [List.append_assoc, List.cons_append, List.getElem?_cons_zero]
  rfl

/-- FENCE goes out on the port of a dead peer, with the port's event. -/
theorem sendFence_spec (hu : sfUp s p = true) : ∃ b, (getSf (sendFence s p) p).heard = false ∧ .flit p b ∈ (sendFence s p).emitted ∧
    Flit.typ b = 6 ∧ (hdr (sendFence s p) (sfPage p)).evtPend.getLsbD 2 = true := by
  have hg : getSf (setSf s p { getSf s p with fenceAt := some s.tick, heard := false }) p =
      { getSf s p with fenceAt := some s.tick, heard := false } := (getSf_setSf _ _ _ _).trans (if_pos rfl)
  have hup : sfUp (setSf s p { getSf s p with fenceAt := some s.tick, heard := false }) p = true := by
    rw [← hu]
    exact sfUp_congr (by rw [hg]) rfl
  unfold sendFence sendPlain
  dsimp only
  rw [if_neg (by rw [hup]; decide)]
  refine ⟨_, ?_, setEvt_emitted _ _ _ _ (List.mem_append_right _ List.mem_cons_self), typ_fenceFlit _ _ _ _ _ _, setEvt_pend _ _ _ (by decide)⟩
  rw [setEvt_frame]
  exact congrArg SfPort.heard hg

end

/-- Settles O45: a new epoch's work on homes and contexts (`Homing`) and the messages sent (`Sends`) leave the rest of the cascade's record;
the search for survivors keeps a dead device's entry. -/
theorem cascadeTree : Obligations.CascadeTree := by
  unfold Obligations.CascadeTree
  refine ⟨fun s rq hacc hm hb => ⟨_, runs_reg_to rfl hacc (if_neg (by rw [hm, hb]; decide)), enumerateOp_spec s⟩,
    fun s rq hacc h => runs_reg_to rfl hacc (if_pos (by rcases h with h | h <;> rw [h] <;> simp)), ?_, ?_, ?_, ?_, ?_, ?_, ?_, ?_, ?_, ?_, ?_, ?_,
    fun s rq dev hacc hm hb => runs_reg_to rfl hacc (if_neg (by rw [hm, hb]; decide))⟩
  · intro s port id depth parent via sp ha hp hu hv hm hq hi
    obtain ⟨hc, hr, hpe⟩ := enumOp_new (depth := depth) (parent := parent) (sp := sp) hp hu hv hm hq hi
    exact ⟨_, runs_act_to rfl ha rfl, by rw [hc], by rw [hc], by rw [hc], by rw [hc], by rw [hc], hr, hpe⟩
  · intro s port id depth parent via sp q ha hp hu hv hq hne
    exact ⟨_, runs_act_to rfl ha rfl, enumOp_standby hp hu hv hq hne⟩
  · intro s port serial dev ports q ha hp hu hm hq hi
    obtain ⟨h1, h2⟩ := enumReplyOp_new (serial := serial) (dev := dev) (ports := ports) hp hu hm hq hi
    exact ⟨_, _, runs_act_to rfl ha rfl, h1, rfl, rfl, rfl, rfl, rfl, rfl, h2⟩
  · exact fun s ha hd => ⟨_, runs_act_to rfl ha rfl, heartbeatTimer_count hd⟩
  · exact fun s port count st ha hp hu hd hm => ⟨_, runs_act_to rfl ha rfl, heartbeatOp_master hp hu hd hm⟩
  · exact fun s port dev count st n ha hp hu hd hm h0 hn => ⟨_, runs_act_to rfl ha rfl, heartbeatOp_node hp hu hd hm h0 hn⟩
  · exact fun s port dev count st e ha hp hu he => runs_act_to rfl ha (heartbeatOp_stale hp hu he)
  · exact fun s ha hd hm hl ht => ⟨_, runs_act_to rfl ha rfl, masterLostOp_lost hd hm hl ht⟩
  · exact fun s port e dead ha hp hu hm he => ⟨_, runs_act_to rfl ha rfl, epochOp_new hp hu hm he⟩
  · intro s dev n ha hm hs h0 hn hd ht
    obtain ⟨h1, h2, h3, h4⟩ := deviceDead_spec hm hs h0 hn hd ht
    exact ⟨_, _, runs_act_to rfl ha rfl, h1, h2, rfl, h3, h4⟩
  · intro s port e ha hp hu hd hm
    obtain ⟨h1, h2⟩ := fenceOp_spec hp hu hd hm
    exact ⟨_, runs_act_to rfl ha rfl, h2, h1⟩
  · intro s p ha hp hu hd hh hf
    obtain ⟨b, hb⟩ := sendFence_spec hu
    exact ⟨_, b, runs_act_to rfl ha (if_pos ⟨hp, hd, hh, hf, hu⟩), hb⟩

end Sys2Proof.Machine

namespace Sys2Proof.Machine

/-! PROOFS. The answer to an ADMIT message (R360): its bytes. -/

/-- Port 0 is up and leads to the master; no way to device 5 is known. -/
def wayToMaster : State :=
  { State.reset with
    boot := { State.reset.boot with st := 7 }
    sfs := [(0, { link := { st := 3 } })]
    casc := { State.reset.casc with devId := 3, parentPort := none, routes := [(0, 0)], enumDone := true } }

/-- The answer of a member that knows no way to the home: its PORT is invalid (R360). -/
def noWayReply : List Byte := padTo 64 (invalidReply 0x44)

/-- The lengths of the payloads that wait on port 0 for their acknowledgement. -/
def mgmtLengths (s : State) : List Byte := (getTx s 0 7).unacked.map fun g => byteAt g.bytes 3

/-- The answer to ADMIT has two bytes for the place, so that the numbers of hops fit it. -/
theorem memberReply_length : mgmtLengths (mgmtAdmitOp 0 1 (.member 5) (List.replicate 64 0) (List.replicate 128 0) wayToMaster) = [71] := by decide +kernel

/-- With one byte for the place it is one byte shorter. -/
theorem shortReply_length : mgmtLengths (mgmtTo wayToMaster 0 ([0x05] ++ toLE 4 0 ++ toLE 1 1 ++ noWayReply)) = [70] := by decide +kernel

/-- Refutes O46: of the answer to an ADMIT message the statement says that the place takes one byte. It takes two, as hops
have numbers beyond one byte (`wayToMaster` answers as member 1). -/
theorem not_cascadeStreams : ¬ Obligations.CascadeStreams := by
  unfold Obligations.CascadeStreams
  rintro ⟨-, -, -, -, -, hreply, -⟩
  have hrun := hreply wayToMaster 0 1 (.member 5) (List.replicate 64 0) (List.replicate 128 0) wayToMaster noWayReply (by decide) (by rfl)
  have h := congrArg mgmtLengths (Host.Outcome.next.inj hrun)
  have hop : mgmtLengths (mgmtAdmitOp 0 1 (.member 5) (List.replicate 64 0) (List.replicate 128 0) wayToMaster) = [70] := h.trans shortReply_length
  rw [memberReply_length] at hop
  exact absurd hop (by decide)

end Sys2Proof.Machine

namespace Sys2Proof.Machine

/-! PROOFS. The Island's taps, frames and records (R374–R381). -/

section
variable {s : State} {x : Isl} {f h : IslFrame} {g : Nat}

/-! ## Frames -/

/-- Finalising a row moves packets into row digests and leaves the rest of the frame. -/
theorem finalise_frame (f : IslFrame) (k : Nat × Nat) :
    finalise f k = { f with pkts := (finalise f k).pkts, rows := (finalise f k).rows } := by
  unfold finalise
  dsimp only
  split <;> rfl

theorem finaliseAll_frame (n : Nat) (f : IslFrame) :
    finaliseAll n f = { f with pkts := (finaliseAll n f).pkts, rows := (finaliseAll n f).rows } := by
  induction n generalizing f with
  | zero => rfl
  | succ n ih =>
    unfold finaliseAll
    split
    · rfl
    · next p l _ =>
      have h := ih (finalise f (pktRow f p))
      rw [finalise_frame f (pktRow f p)] at h ⊢
      exact h

theorem finaliseIf_frame {c : Prop} [Decidable c] (f : IslFrame) (k : Nat × Nat) : ∃ pkts rows,
    (if c then finalise f k else f) = { f with pkts := pkts, rows := rows } := by
  split
  · exact ⟨_, _, finalise_frame f k⟩
  · exact ⟨f.pkts, f.rows, rfl⟩

theorem openOf_group (h : openOf x g = some f) : f.group = g ∧ f.closed = false := by
  have := List.find?_some h
  simpa using this

/-- A frame put in the place of a group's open one is that group's open one. -/
theorem openOf_setFrame (ho : openOf x g = some f) (hg : h.group = f.group) (hn : h.num = f.num) (hc : h.closed = false) :
    openOf (setFrame x h) g = some h := by
  have hgrp : h.group = g := hg.trans (openOf_group ho).1
  have hfind : ∀ l : List IslFrame, l.find? (fun f => f.group == g && !f.closed) = some f →
      (l.map fun e => if e.group = h.group ∧ e.num = h.num then h else e).find? (fun f => f.group == g && !f.closed) = some h := ?_
  · exact hfind x.frames ho
  intro l ho
  induction l with
  | nil => cases ho
  | cons e l ih =>
    rw [List.map_cons, List.find?_cons]
    by_cases he : e.group = h.group ∧ e.num = h.num
    · rw [if_pos he]
      simp [hgrp, hc]
    · rw [if_neg he]
      rw [List.find?_cons] at ho
      split at ho
      · cases ho
        exact absurd ⟨hg.symm, hn.symm⟩ he
      · next hp => exact ih ho

/-- A packet digested into the open frame of its group. -/
theorem takePkt_new {dt : Nat} {pk : List Byte} (ho : openOf x f.group = some f) (hsum : sumN (x.frames.map fun f => f.pkts.length) < 4096)
    (hk : f.keys.contains (Lp.plane pk, Lp.line pk, Lp.x0 pk) = false) :
    ∃ pkts rows, takePkt x f dt pk = { setFrame x { f with
      pkts := pkts, rows := rows, keys := f.keys ++ [(Lp.plane pk, Lp.line pk, Lp.x0 pk)], nPkts := f.nPkts + 1, dtLast := dt } with
      ordCtr := x.ordCtr + 1 } := by
  have hroom : hashRoom x = x := if_pos hsum
  unfold takePkt
  extract_lets key x1 f1 p g k h
  rw [if_neg (by rw [hk]; decide)]
  have hf1 : f1 = f := by
    show (openOf (hashRoom x) f.group).getD f = f
    rw [hroom, ho]
    rfl
  obtain ⟨pkts, rows, hh⟩ := finaliseIf_frame (c := Ip.perRow g.params g.group ≤ (g.pkts.filter fun q => pktRow g q == k).length) g k
  refine ⟨pkts, rows, ?_⟩
  have hx1 : x1 = x := hroom
  have hg : h = { g with pkts := pkts, rows := rows } := hh
  show ({ setFrame x1 h with ordCtr := x1.ordCtr + 1 } : Isl) = _
  rw [hx1, hg]
  show ({ setFrame x { f1 with pkts := pkts, rows := rows, keys := f1.keys ++ [key], nPkts := f1.nPkts + 1, dtLast := dt } with
    ordCtr := x.ordCtr + 1 } : Isl) = _
  rw [hf1]

theorem openOf_taken {n : Nat} (x : Isl) (g : Nat) : openOf { x with ordCtr := n } g = openOf x g := rfl

/-! ## Taps -/

/-- The oldest copy is the one the command names. -/
theorem tapNext_head {port dt col : Nat} {pk : List Byte} {room : Bool} {r : List Tap} (h : s.taps = ⟨port, dt, col, pk⟩ :: r) :
    tapNext ⟨port, dt, col, pk⟩ room s = tapPacket port dt col pk room { s with taps := r } := by
  unfold tapNext
  rw [h]
  exact if_pos rfl

theorem tapNext_other {t : Tap} {room : Bool} (h : s.taps.head? ≠ some t) : tapNext t room s = s := by
  unfold tapNext
  split
  · next u r hu =>
    rw [if_neg]
    rintro rfl
    exact h (by rw [hu]; rfl)
  · rfl

theorem islRuns_st (h : islRuns x = true) : x.st ≠ 1 := by
  unfold islRuns at h
  rintro h1
  rw [h1] at h
  exact absurd h (by decide)

section
variable {port dt col : Nat} {pk : List Byte} {room : Bool}

/-- While the Island boots a copy is lost. -/
theorem tapPacket_boot (h : s.isl.st = 1) : tapPacket port dt col pk room s = withIsl s fun x => tapLost x none := if_pos h

/-- A packet of no group is only taken. -/
theorem tapPacket_none (hr : islRuns s.isl = true) (hg : portGroup s.isl port = none) : tapPacket port dt col pk room s = s := by
  unfold tapPacket
  dsimp only
  rw [if_neg (islRuns_st hr), if_neg (by rw [hr]; decide), hg]

theorem tapPacket_full (hr : islRuns s.isl = true) (hg : portGroup s.isl port = some g) :
    tapPacket port dt col pk false s = withIsl s fun x => tapLost x (some g) := by
  unfold tapPacket
  dsimp only
  rw [if_neg (islRuns_st hr), if_neg (by rw [hr]; decide), hg]
  rfl

theorem tapPacket_late (hr : islRuns s.isl = true) (hg : portGroup s.isl port = some g)
    (hn : ∀ f, openOf s.isl g = some f → f.num ≠ Lp.frame pk) (hl : tapLate s.isl g (Lp.frame pk) = true) :
    tapPacket port dt col pk true s = withIsl s fun x => { x with tapLate := min 0xFFFFFFFF (x.tapLate + 1) } := by
  unfold tapPacket
  dsimp only
  rw [if_neg (islRuns_st hr), if_neg (by rw [hr]; decide), hg]
  dsimp only
  rw [if_neg (by decide)]
  split
  · next f hf => rw [if_neg (hn f hf), if_pos hl]
  · exact if_pos hl

theorem tapPacket_open (hr : islRuns s.isl = true) (hg : portGroup s.isl port = some g) (ho : openOf s.isl g = some f)
    (hn : f.num = Lp.frame pk) : tapPacket port dt col pk true s = withIsl s fun x => takePkt x f dt pk := by
  unfold tapPacket
  dsimp only
  rw [if_neg (islRuns_st hr), if_neg (by rw [hr]; decide), hg]
  dsimp only
  rw [if_neg (by decide), ho]
  exact if_pos hn

theorem tapPacket_first (hr : islRuns s.isl = true) (hg : portGroup s.isl port = some g) (ho : openOf s.isl g = none)
    (hl : tapLate s.isl g (Lp.frame pk) = false) (hf : openOf (openIsl s g (Lp.frame pk) col dt).isl g = some f) :
    tapPacket port dt col pk true s = withIsl (openIsl s g (Lp.frame pk) col dt) fun x => takePkt x f dt pk := by
  unfold tapPacket
  dsimp only
  rw [if_neg (islRuns_st hr), if_neg (by rw [hr]; decide), hg]
  dsimp only
  rw [if_neg (by decide), ho]
  dsimp only
  rw [if_neg (by rw [hl]; decide), hf]

end

/-- A lost copy marks the open frame of its group. -/
theorem openOf_tapLost (ho : openOf x g = some f) : openOf (tapLost x (some g)) g = some { f with flags := f.flags ||| 0x80 } := by
  unfold openOf tapLost at *
  dsimp only
  have hp : ((fun f : IslFrame => f.group == g && !f.closed) ∘
      fun f => if !f.closed && some f.group == some g then { f with flags := f.flags ||| 0x80 } else f) = fun f => f.group == g && !f.closed := by
    funext e
    dsimp only [Function.comp]
    split <;> rfl
  rw [List.find?_map, hp, ho, Option.map_some, if_pos]
  have := List.find?_some ho
  simpa [and_comm] using this

/-- The frame that opens: its exposure and its flags are those of the instant. -/
def openedFrame (x : Isl) (g num col dt : Nat) : IslFrame :=
  let e := getIx x.expo (expoSel x.cur.param g) {}
  { group := g, num := num, params := x.cur.param, colour := col
    flags := (if x.st = 3 then 4 else 0) + (if x.sealOpen then 8 else 0) + (if x.tb.lock then 0 else 16) +
      (if e.count = 0 then 32 else 0) + (if 1 < e.count then 64 else 0)
    ppsErr := x.tb.ppsErr, audit := x.cur.audit, dtFirst := dt, dtLast := dt
    expStart := if e.count = 0 then 0 else islStamp x.cur.param (Ip.expo x.cur.param g % 4) e.start
    expEnd := if e.count ≠ 0 ∧ e.hasStop = true then islStamp x.cur.param (Ip.expo x.cur.param g % 4) e.stop else 0
    expRaw := if e.count = 0 then none else some e.start }

theorem openIsl_frames (s : State) (g num col dt : Nat) :
    (openIsl s g num col dt).isl.frames = s.isl.frames ++ [openedFrame s.isl g num col dt] := rfl

/-- A frame that opens is its group's open frame. -/
theorem openOf_openIsl {num col dt : Nat} (ho : openOf s.isl g = none) :
    openOf (openIsl s g num col dt).isl g = some (openedFrame s.isl g num col dt) := by
  unfold openOf at *
  rw [openIsl_frames, List.find?_append, ho, Option.none_or]
  exact List.find?_cons_of_pos (by simp [openedFrame])

/-- The exposure start of a frame that opens is named for it. -/
theorem openIsl_expo (s : State) (g num col dt : Nat) : getIx (openIsl s g num col dt).isl.expoOut g none =
    some (num, (openedFrame s.isl g num col dt).expStart) := by
  have h : (openIsl s g num col dt).isl.expoOut = setIx s.isl.expoOut g (some (num, (openedFrame s.isl g num col dt).expStart)) none := rfl
  rw [h]
  exact getIx_setIx_same _ _ _ _ _

theorem openIsl_frame (s : State) (g num col dt : Nat) : openIsl s g num col dt = { s with
    isl := (openIsl s g num col dt).isl, ctxs := (openIsl s g num col dt).ctxs } := by
  unfold openIsl takeCaptures withIsl
  rfl

/-- The first packet of a frame opens it. -/
theorem firstPacket_spec {port dt col : Nat} {pk : List Byte} (hr : islRuns s.isl = true) (hg : portGroup s.isl port = some g)
    (ho : openOf s.isl g = none) (hl : tapLate s.isl g (Lp.frame pk) = false) (hsum : sumN (s.isl.frames.map fun f => f.pkts.length) < 4096) :
    ∃ t f, tapPacket port dt col pk true s = t ∧ openOf t.isl g = some f ∧ f.num = Lp.frame pk ∧ f.nPkts = 1 ∧ f.colour = col ∧
      f.dtFirst = dt ∧ f.dtLast = dt ∧ f.params = s.isl.cur.param ∧
      getIx t.isl.expoOut g none = some (Lp.frame pk, (openedFrame s.isl g (Lp.frame pk) col dt).expStart) ∧
      t = { s with isl := t.isl, ctxs := t.ctxs } := by
  have hopen := openOf_openIsl (num := Lp.frame pk) (col := col) (dt := dt) ho
  have hex := openIsl_expo s g (Lp.frame pk) col dt
  have hfr := openIsl_frame s g (Lp.frame pk) col dt
  have hsum' : sumN ((openIsl s g (Lp.frame pk) col dt).isl.frames.map fun f => f.pkts.length) < 4096 := by
    rw [openIsl_frames, List.map_append, sumN_eq, List.sum_append, ← sumN_eq]
    exact hsum
  have heq := tapPacket_first hr hg ho hl hopen
  obtain ⟨hgrp, hnum, hc, hkeys, hn, hcol, hfirst, hpar⟩ : ∃ _ : (openedFrame s.isl g (Lp.frame pk) col dt).group = g,
      (openedFrame s.isl g (Lp.frame pk) col dt).num = Lp.frame pk ∧ (openedFrame s.isl g (Lp.frame pk) col dt).closed = false ∧
      (openedFrame s.isl g (Lp.frame pk) col dt).keys = [] ∧ (openedFrame s.isl g (Lp.frame pk) col dt).nPkts = 0 ∧
      (openedFrame s.isl g (Lp.frame pk) col dt).colour = col ∧ (openedFrame s.isl g (Lp.frame pk) col dt).dtFirst = dt ∧
      (openedFrame s.isl g (Lp.frame pk) col dt).params = s.isl.cur.param := ⟨rfl, rfl, rfl, rfl, rfl, rfl, rfl, rfl⟩
  generalize openedFrame s.isl g (Lp.frame pk) col dt = e at *
  generalize openIsl s g (Lp.frame pk) col dt = u at *
  obtain ⟨pkts, rows, ht⟩ := takePkt_new (pk := pk) (dt := dt) (f := e) (hgrp.symm ▸ hopen) hsum' (by rw [hkeys]; rfl)
  have hset := openOf_setFrame (h := { e with
      pkts := pkts, rows := rows, keys := e.keys ++ [(Lp.plane pk, Lp.line pk, Lp.x0 pk)], nPkts := e.nPkts + 1, dtLast := dt })
    hopen rfl rfl hc
  refine ⟨_, _, heq, (congrArg (openOf · g) ht).trans hset, hnum, congrArg (· + 1) hn, hcol, hfirst, rfl, hpar, ?_, ?_⟩
  · exact (congrArg (fun x : Isl => getIx x.expoOut g none) ht).trans hex
  · rw [hfr]
    rfl

/-- A further packet of the open frame adds its digest. -/
theorem nextPacket_spec {port dt col : Nat} {pk : List Byte} (hr : islRuns s.isl = true) (hg : portGroup s.isl port = some g)
    (ho : openOf s.isl g = some f) (hn : f.num = Lp.frame pk) (hsum : sumN (s.isl.frames.map fun f => f.pkts.length) < 4096)
    (hk : f.keys.contains (Lp.plane pk, Lp.line pk, Lp.x0 pk) = false) :
    ∃ t e, tapPacket port dt col pk true s = t ∧ openOf t.isl g = some e ∧ e.nPkts = f.nPkts + 1 ∧ e.dtLast = dt ∧
      e.keys = f.keys ++ [(Lp.plane pk, Lp.line pk, Lp.x0 pk)] ∧ e.flags = f.flags ∧ t = { s with isl := t.isl } := by
  obtain ⟨hgrp, hc⟩ := openOf_group ho
  obtain ⟨pkts, rows, ht⟩ := takePkt_new (pk := pk) (dt := dt) (hgrp.symm ▸ ho) hsum hk
  exact ⟨_, _, tapPacket_open hr hg ho hn, (congrArg (openOf · g) ht).trans (openOf_setFrame ho rfl rfl hc), rfl, rfl, rfl, rfl, rfl⟩

/-- A repeated packet marks the frame. -/
theorem sameAgain_spec {port dt col : Nat} {pk : List Byte} (hr : islRuns s.isl = true) (hg : portGroup s.isl port = some g)
    (ho : openOf s.isl g = some f) (hn : f.num = Lp.frame pk) (hk : f.keys.contains (Lp.plane pk, Lp.line pk, Lp.x0 pk) = true) :
    ∃ t, tapPacket port dt col pk true s = t ∧ openOf t.isl g = some { f with flags := f.flags ||| 0x400 } ∧ t = { s with isl := t.isl } := by
  have ht : takePkt s.isl f dt pk = setFrame s.isl { f with flags := f.flags ||| 0x400 } := if_pos hk
  exact ⟨_, tapPacket_open hr hg ho hn, (congrArg (openOf · g) ht).trans (openOf_setFrame ho rfl rfl (openOf_group ho).2), rfl⟩

/-! ## Coded units (R377) -/

theorem unitNextTap_head {ctx pn fr ports : Nat} {b : List Byte} {last room : Bool} {r : List UnitTap}
    (h : s.unitTaps = ⟨ctx, pn, fr, b, last, ports⟩ :: r) :
    unitNextTap { ctx := ctx, picNum := pn, frame := fr, bytes := b, last := last } room s =
      tapUnit ports pn fr b last room { s with unitTaps := r } := by
  unfold unitNextTap
  rw [h]
  exact if_pos rfl

theorem unitNextTap_other {ctx pn fr : Nat} {b : List Byte} {last room : Bool}
    (h : ∀ ports, s.unitTaps.head? ≠ some ⟨ctx, pn, fr, b, last, ports⟩) :
    unitNextTap { ctx := ctx, picNum := pn, frame := fr, bytes := b, last := last } room s = s := by
  unfold unitNextTap
  split
  · next u r hu =>
    rw [if_neg]
    intro e
    exact h u.ports (by rw [hu, List.head?_cons, ← e])
  · rfl

/-- A unit that does not end its picture joins the coded bytes of the only frame. -/
theorem tapUnit_joins {ports pn fr : Nat} {b : List Byte} (hr : islRuns s.isl = true) (hf : s.isl.frames = [f]) (hn : f.num = fr)
    (hp : Ip.ports f.params f.group &&& ports ≠ 0) (hc : Ip.coded f.params f.group = true) (he : f.codedEnd = false) :
    tapUnit ports pn fr b false true s =
      { s with isl := { s.isl with frames := [{ f with coded := f.coded ++ b, codedPic := pn, codedEnd := false }] } } := by
  have hhit : (s.isl.frames.find? fun f =>
      f.num == fr && Ip.ports f.params f.group &&& ports != 0 && Ip.coded f.params f.group && !f.codedEnd) = some f := by
    rw [hf]
    exact List.find?_cons_of_pos (by simp [hn, hp, hc, he])
  unfold tapUnit
  dsimp only
  rw [if_neg (islRuns_st hr), if_neg (by rw [hr]; decide), hhit]
  dsimp only
  rw [if_neg (by decide), if_neg (by simp)]
  refine congrArg (fun l => ({ s with isl := { s.isl with frames := l } } : State)) ?_
  rw [hf, List.map_singleton]
  exact congrArg (fun e => [e]) (if_pos ⟨rfl, rfl⟩)

/-- A lost copy of no frame held marks the open frame of its group. -/
theorem tapUnit_lost {ports pn fr : Nat} {b : List Byte} {last : Bool} (hr : islRuns s.isl = true)
    (h : ∀ f ∈ s.isl.frames, f.num = fr → Ip.ports f.params f.group &&& ports = 0) (hg : codedGroup s.isl ports = some g) :
    tapUnit ports pn fr b last false s = withIsl s fun x => tapLost x (some g) := by
  have hhit : (s.isl.frames.find? fun f =>
      f.num == fr && Ip.ports f.params f.group &&& ports != 0 && Ip.coded f.params f.group && !f.codedEnd) = none := by
    refine List.find?_eq_none.mpr fun f hf hx => ?_
    simp only [Bool.and_eq_true, beq_iff_eq, bne_iff_ne] at hx
    obtain ⟨⟨⟨hn, hp⟩, -⟩, -⟩ := hx
    exact hp (h f hf hn)
  unfold tapUnit
  dsimp only
  rw [if_neg (islRuns_st hr), if_neg (by rw [hr]; decide), hhit]
  dsimp only
  rw [if_pos (by rw [hg]; rfl)]
  exact congrArg (fun c => withIsl s fun x => tapLost x c) hg

/-! ## Records (R378–R381) -/

theorem islEvent_frame (s : State) (n : Nat) : islEvent s n = { s with
    crier := (islEvent s n).crier, emitted := (islEvent s n).emitted, msix := (islEvent s n).msix } := by
  unfold islEvent
  split
  · rw [setLevel_frame]
  · rfl

/-- The flags of a record. -/
def recordFlags (x : Isl) (f : IslFrame) (missing : Bool) : Nat :=
  f.flags ||| (if (x.recIdx % Ip.signN f.params == 0 || x.recIdx == 0 || x.signDue) && x.signing.isNone then 1 else 0) |||
    (if x.recIdx = 0 then 2 else 0) ||| (if missing then 0x100 else 0) ||| x.tb.todSrc * 2048

/-- A record is written under the next index, chained to the one before. -/
theorem writeRecord_spec (s : State) (f : IslFrame) (missing : Bool) : ∃ t r, writeRecord s f missing = t ∧
    r = finaliseAll (f.pkts.length + 1) f ∧ t.isl.recIdx = (s.isl.recIdx + 1) % 2 ^ 40 ∧
    nget t.isl.ring (s.isl.recIdx % 150) = some (padTo 384 (recordBody s.isl r (recordFlags s.isl r missing))) ∧
    t.isl.prev = blake (recordBody s.isl r (recordFlags s.isl r missing)) ∧
    (∀ e ∈ t.isl.frames, ¬ (e.group = r.group ∧ e.num = r.num)) ∧
    t = { s with isl := t.isl, crier := t.crier, emitted := t.emitted, msix := t.msix } := by
  unfold writeRecord
  extract_lets x r due sign flags body y
  have hy : (islEvent { s with isl := y } 216).isl = y := by rw [islEvent_frame]
  refine ⟨_, r, rfl, rfl, ?_, ?_, ?_, ?_, ?_⟩
  · rw [hy]
  · rw [hy]
    exact (nget_nset _ _ _ _).trans (if_pos rfl)
  · rw [hy]
    rfl
  · rw [hy]
    intro e he
    have hk := (List.mem_filter.mp he).2
    rintro ⟨h1, h2⟩
    rw [h1, h2] at hk
    simp at hk
  · rw [hy]
    exact islEvent_frame _ _

/-- The time-out of an uncoded group closes its frame and writes the record. -/
theorem tapTmo_spec (ho : openOf s.isl g = some f) (hc : Ip.coded f.params f.group = false) : ∃ t r fl, tapTmo g s = t ∧ r.group = f.group ∧
    r.num = f.num ∧ t.isl.recIdx = (s.isl.recIdx + 1) % 2 ^ 40 ∧ nget t.isl.ring (s.isl.recIdx % 150) = some (padTo 384 (recordBody s.isl r fl)) ∧
    t.isl.prev = blake (recordBody s.isl r fl) ∧ (∀ e ∈ t.isl.frames, ¬ (e.group = f.group ∧ e.num = f.num)) ∧
    t = { s with isl := t.isl, crier := t.crier, emitted := t.emitted, msix := t.msix } := by
  have htmo : tapTmo g s = closeIsl s f := by
    unfold tapTmo
    rw [ho]
  have hfr := finaliseAll_frame (f.pkts.length + 1) f
  rw [htmo]
  unfold closeIsl
  extract_lets _ c
  have hcg : c.group = f.group ∧ c.num = f.num ∧ c.params = f.params := by
    show (finaliseAll (f.pkts.length + 1) f).group = _ ∧ (finaliseAll (f.pkts.length + 1) f).num = _ ∧
      (finaliseAll (f.pkts.length + 1) f).params = _
    rw [hfr]
    exact ⟨rfl, rfl, rfl⟩
  obtain ⟨hgrp, hnum, hpar⟩ := hcg
  unfold recordIf
  rw [if_pos (by rw [hpar, hgrp, hc]; rfl)]
  obtain ⟨t, r, ht, hr, hidx, hring, hprev, hfrs, hframe⟩ := writeRecord_spec (withIsl s fun x => { setFrame x c with
    closedFrames := nset x.closedFrames f.group (ngetD x.closedFrames f.group [] ++ [f.num]) }) c false
  have hrf := finaliseAll_frame (c.pkts.length + 1) c
  rw [← hr] at hrf
  have hrg : r.group = f.group := by rw [hrf]; exact hgrp
  have hrn : r.num = f.num := by rw [hrf]; exact hnum
  rw [hrg, hrn] at hfrs
  exact ⟨t, r, _, ht, hrg, hrn, hidx, hring, hprev, hfrs, hframe⟩

theorem recordFlags_missing (x : Isl) (f : IslFrame) : (recordFlags x f true).testBit 8 = true := by
  unfold recordFlags
  rw [if_pos rfl, Nat.testBit_or, Nat.testBit_or]
  simp [show Nat.testBit 256 8 = true by decide]

/-- The coded time-out writes the record without a coded root, with its flag. -/
theorem codedTmo_spec (h : s.isl.frames.find? (fun f => f.group == g && f.closed) = some f) : ∃ t r fl, codedTmo g s = t ∧
    fl.testBit 8 = true ∧ r.coded = [] ∧ r.group = f.group ∧ r.num = f.num ∧ t.isl.recIdx = (s.isl.recIdx + 1) % 2 ^ 40 ∧
    nget t.isl.ring (s.isl.recIdx % 150) = some (padTo 384 (recordBody s.isl r fl)) := by
  have htmo : codedTmo g s = writeRecord s { f with coded := [], codedEnd := false } true := by
    unfold codedTmo
    rw [h]
  obtain ⟨t, r, ht, hr, hidx, hring, -, -, -⟩ := writeRecord_spec s { f with coded := [], codedEnd := false } true
  have hrf := finaliseAll_frame (f.pkts.length + 1) { f with coded := [], codedEnd := false }
  rw [← hr] at hrf
  exact ⟨t, r, _, htmo.trans ht, recordFlags_missing _ _, by rw [hrf], by rw [hrf], by rw [hrf], hidx, hring⟩

/-- A signature done frees the engine and names its record. -/
theorem signatureDone_spec {i : Nat} (h : s.isl.signing = some i) : (signatureDone s).isl.signing = none ∧ (signatureDone s).isl.signedIdx = i ∧
    (signatureDone s).isl.recIdx = s.isl.recIdx ∧ (signatureDone s).isl.prev = s.isl.prev ∧ (signatureDone s).isl.frames = s.isl.frames ∧
    signatureDone s = { s with isl := (signatureDone s).isl, freeCtr := (signatureDone s).freeCtr } := by
  unfold signatureDone
  rw [h]
  exact ⟨rfl, rfl, rfl, rfl, rfl, rfl⟩

theorem signatureDone_none (h : s.isl.signing = none) : signatureDone s = s := by
  unfold signatureDone
  rw [h]

end

/-- Settles O48: a frame put in place of its group's open one is found there again (`openOf_setFrame`), and a record depends on the Island
only by what closing a frame leaves. -/
theorem islandFrames : Obligations.IslandFrames := by
  unfold Obligations.IslandFrames
  refine ⟨?_, fun s port dt col pk room h => runs_next rfl (tapNext_other h), ?_, ?_, ?_, ?_, ?_, ?_, ?_, ?_,
    fun s ctx pn fr b last room h => runs_next rfl (unitNextTap_other h), ?_, ?_, ?_, fun s h => runs_next rfl (signatureDone_none h)⟩
  · intro s port dt col pk r room h hst
    refine ⟨_, runs_next rfl ((tapNext_head h).trans (tapPacket_boot hst)), rfl, rfl, rfl⟩
  · intro s port dt col pk r room h hr hg
    exact runs_next rfl ((tapNext_head h).trans (tapPacket_none hr hg))
  · intro s port dt col pk r g f h hr hg hf hfg hc
    refine ⟨_, runs_next rfl ((tapNext_head h).trans (tapPacket_full hr hg)), rfl, ?_, rfl⟩
    exact List.mem_map.mpr ⟨f, hf, if_pos (by simp [hc, hfg])⟩
  · intro s port dt col pk r g h hr hg hn hl
    exact ⟨_, runs_next rfl ((tapNext_head h).trans (tapPacket_late hr hg hn hl)), rfl⟩
  · intro s port dt col pk r g h hr hg ho hl hsum
    obtain ⟨t, f, ht, hf⟩ := firstPacket_spec (s := { s with taps := r }) (dt := dt) (col := col) hr hg ho hl hsum
    exact ⟨t, f, runs_next rfl ((tapNext_head h).trans ht), hf⟩
  · intro s port dt col pk r g f h hr hg ho hn hsum hk
    obtain ⟨t, e, ht, he⟩ := nextPacket_spec (s := { s with taps := r }) (dt := dt) (col := col) hr hg ho hn hsum hk
    exact ⟨t, e, runs_next rfl ((tapNext_head h).trans ht), he⟩
  · intro s port dt col pk r g f h hr hg ho hn hk
    obtain ⟨t, ht, he⟩ := sameAgain_spec (s := { s with taps := r }) (dt := dt) (col := col) hr hg ho hn hk
    exact ⟨t, runs_next rfl ((tapNext_head h).trans ht), he⟩
  · intro s ctx pn fr b r ports f h hr hf hn hp hc he
    exact runs_next rfl ((unitNextTap_head h).trans (tapUnit_joins (s := { s with unitTaps := r }) hr hf hn hp hc he))
  · intro s ctx pn fr b last r ports g h hr hf hg
    exact ⟨_, runs_next rfl ((unitNextTap_head h).trans (tapUnit_lost (s := { s with unitTaps := r }) hr hf hg)), rfl,
      fun f ho => openOf_tapLost ho, rfl⟩
  · intro s g f ho hc
    obtain ⟨t, r, fl, ht, h⟩ := tapTmo_spec ho hc
    exact ⟨t, r, fl, runs_next rfl ht, h⟩
  · intro s g f ho
    obtain ⟨t, r, fl, ht, h⟩ := codedTmo_spec ho
    exact ⟨t, r, fl, runs_next rfl ht, h⟩
  · exact fun s i h => ⟨_, runs_next rfl rfl, signatureDone_spec h⟩

end Sys2Proof.Machine

namespace Sys2Proof.Machine

/-! PROOFS. The Island's start, its time and its loss of power (R369, R371–R373, R386, R388), and its measurement block (R398, R400). -/

section
variable {s t : State} {x : Isl}

/-! ## What the main die is told leaves the Island -/

theorem islEvent_isl (s : State) (n : Nat) : (islEvent s n).isl = s.isl := by rw [islEvent_frame]

theorem islNote_isl (old s : State) : (islNote old s).isl = s.isl := by
  unfold islNote
  dsimp only
  split
  · rfl
  · split
    · exact islEvent_isl _ _
    · exact islEvent_isl _ _

/-! ## The start (R369, R386) -/

/-- The firmware resolved may run. -/
def startFw (x : Isl) : Bool :=
  (resolveFw x).2.1 && (match Config.islandFw ((resolveFw x).1.getD {}).image with | some v => decide (x.otpSvn ≤ v) | none => false)

/-- The start is in UNVERIFIED. -/
def startUnver (x : Isl) : Bool := !(resolveNvm x).2.1 || ((resolveNvm x).1.getD {}).unver

/-- The non-volatile copy in use after the start. -/
def startNvm (x : Isl) : IslNvm :=
  let n := resolveNvm x
  let base := n.1.getD {}
  { base with unver := startUnver x, boots := (base.boots + 1) % 2 ^ 24, wgen := if n.2.1 then base.wgen + 1 else base.wgen }

/-- What a start makes of the Island. -/
structure Started (x y : Isl) : Prop where
  st : y.st = if !startFw x then 4 else if startUnver x then 3 else 2
  cur : y.cur = startNvm x
  nvm : y.nvm = if (resolveNvm x).2.1 then List.replicate 3 { startNvm x with good := true } else x.nvm
  fw : y.fw = if (resolveFw x).2.1 then List.replicate 3 ((resolveFw x).1.getD {}) else x.fw
  curFw : y.curFw = (resolveFw x).1.getD {}
  recIdx : y.recIdx = 0
  ring : y.ring = []
  frames : y.frames = []
  tb : y.tb = {}

theorem islStart_started (s : State) : Started s.isl (islStart s).isl := by
  unfold islStart
  extract_lets x n f fw fwGood base unver cur y boot
  rw [islNote_isl]
  exact ⟨rfl, rfl, rfl, rfl, rfl, rfl, rfl, rfl, rfl⟩

theorem islReset_starts {p : Bool} (h : p = true ∨ s.isl.st ≠ 0) : islReset p s = islStart s := by
  refine if_neg ?_
  rintro ⟨h0, hp⟩
  rcases h with h | h
  · rw [h] at hp; cases hp
  · exact h h0

theorem startFw_good {f : IslFw} {r : Bool} {v : Nat} (hf : resolveFw x = (some f, true, r)) (hv : Config.islandFw f.image = some v) (ho : x.otpSvn ≤ v) :
    startFw x = true := by
  unfold startFw
  rw [hf]
  simp [hv, ho]

theorem startFw_bad (hf : (resolveFw x).2.1 = false) : startFw x = false := by
  unfold startFw
  rw [hf, Bool.false_and]

/-- Every copy good and equal: the one in use, with one more boot. -/
theorem startNvm_resolved {n : IslNvm} {r : Bool} (h : resolveNvm x = (some n, true, r)) : startUnver x = n.unver ∧
    startNvm x = { n with boots := (n.boots + 1) % 2 ^ 24, wgen := n.wgen + 1 } := by
  have hu : startUnver x = n.unver := by
    unfold startUnver
    rw [h]
    rfl
  refine ⟨hu, ?_⟩
  unfold startNvm
  rw [hu, h]
  rfl

/-! ## Island time (R371, R372) -/

/-- The third good second in a row locks Island time, from device time. -/
theorem ppsEdge_locks {iclk : Nat} {e : Int} (hlo : 399999200 ≤ iclk) (hhi : iclk ≤ 400000800) (hst : s.isl.st = 2) (hseen : s.isl.tb.seen = true) (href : s.isl.tb.refOk = true) (hg : s.isl.tb.good = 2)
    (hl : s.isl.tb.lock = false) (ht : s.isl.tb.todSrc = 0) (hs : s.isl.tb.setPend = none) (hc : clockRuns s = true) :
    (ppsEdge iclk e s).isl.tb.lock = true ∧ (ppsEdge iclk e s).isl.tb.good = 3 ∧
      (ppsEdge iclk e s).isl.tb.secs = dtSeconds s % 2 ^ 64 ∧ (ppsEdge iclk e s).isl.tb.todSrc = 1 ∧
      (ppsEdge iclk e s).isl.tb.iclk = iclk := by
  unfold ppsEdge
  extract_lets x tb ok good lock valid first secs ofs tb1 y
  have hok : ok = true := by
    show (decide (399999200 ≤ iclk) && decide (iclk ≤ 400000800)) = true
    rw [decide_eq_true hlo, decide_eq_true hhi, Bool.and_true]
  have hgood : good = 3 := by
    show (if !tb.seen then 0 else if ok then min 255 (tb.good + 1) else 0) = 3
    rw [hok, show tb.seen = true from hseen, show tb.good = 2 from hg]
    rfl
  have hlock : lock = true := by
    show (tb.refOk && (if tb.seen then ok && (tb.lock || decide (3 ≤ good)) else tb.lock)) = true
    rw [hgood, hok, show tb.refOk = true from href, show tb.seen = true from hseen, show tb.lock = false from hl]
    rfl
  have hfirst : first = true := by
    show (lock && tb.todSrc == 0 && tb.setPend.isNone && valid) = true
    rw [hlock, show tb.todSrc = 0 from ht, show tb.setPend = none from hs, show valid = true from hc]
    rfl
  have hsecs : secs = dtSeconds s := by
    show (match tb.setPend with | some v => v | none => if first then dtSeconds s else tb.secs + 1) = _
    rw [show tb.setPend = none from hs]
    exact if_pos hfirst
  rw [if_neg (by rw [show x.st = 2 from hst]; decide), islNote_isl, if_pos hlock]
  refine ⟨hlock, hgood, congrArg (· % 2 ^ 64) hsecs, ?_, ?_⟩
  · show (if tb.setPend.isSome then 2 else if first then 1 else tb.todSrc) = 1
    rw [show tb.setPend = none from hs, hfirst]
    rfl
  · show (if tb.seen then iclk else tb.iclk) = iclk
    rw [show tb.seen = true from hseen]
    rfl

/-- An edge keeps or marks the frames, with the time it makes. -/
theorem ppsEdge_flags {b : Bool} (y : Isl) : (if b then y else flagOpen y 4).tb = y.tb := by
  split <;> rfl

/-- A bad second unlocks. -/
theorem ppsEdge_unlocks {iclk : Nat} {e : Int} (hst : 2 ≤ s.isl.st) (hseen : s.isl.tb.seen = true) (hb : iclk < 399999200 ∨ 400000800 < iclk) :
    (ppsEdge iclk e s).isl.tb.lock = false ∧ (ppsEdge iclk e s).isl.tb.good = 0 ∧ (ppsEdge iclk e s).isl.tb.ppsOk = false := by
  unfold ppsEdge
  extract_lets x tb ok good lock valid first secs ofs tb1 y
  have hok : ok = false := by
    show (decide (399999200 ≤ iclk) && decide (iclk ≤ 400000800)) = false
    simp only [Bool.and_eq_false_iff, decide_eq_false_iff_not]
    omega
  rw [if_neg (by show ¬ (s.isl.st = 0 ∨ s.isl.st = 1); omega), islNote_isl]
  refine ⟨(congrArg IslTb.lock (ppsEdge_flags y)).trans ?_, (congrArg IslTb.good (ppsEdge_flags y)).trans ?_,
    (congrArg IslTb.ppsOk (ppsEdge_flags y)).trans ?_⟩
  · show (tb.refOk && (if tb.seen then ok && (tb.lock || decide (3 ≤ good)) else tb.lock)) = false
    rw [hok, show tb.seen = true from hseen, Bool.false_and, if_pos rfl, Bool.and_false]
  · show (if !tb.seen then 0 else if ok then min 255 (tb.good + 1) else 0) = 0
    rw [hok, show tb.seen = true from hseen]
    rfl
  · show (tb.seen && ok) = false
    rw [hok, Bool.and_false]

/-- A waiting SET_TIME sets the count. -/
theorem ppsEdge_sets {iclk v : Nat} {e : Int} (hst : 2 ≤ s.isl.st) (hs : s.isl.tb.setPend = some v) (hv : v < 2 ^ 64) :
    (ppsEdge iclk e s).isl.tb.secs = v ∧ (ppsEdge iclk e s).isl.tb.todSrc = 2 ∧ (ppsEdge iclk e s).isl.tb.setPend = none := by
  unfold ppsEdge
  extract_lets x tb ok good lock valid first secs ofs tb1 y
  have hsecs : secs = v := by
    show (match tb.setPend with | some v => v | none => if first then dtSeconds s else tb.secs + 1) = _
    rw [show tb.setPend = some v from hs]
  rw [if_neg (by show ¬ (s.isl.st = 0 ∨ s.isl.st = 1); omega), islNote_isl]
  refine ⟨(congrArg IslTb.secs (ppsEdge_flags y)).trans ?_, (congrArg IslTb.todSrc (ppsEdge_flags y)).trans ?_,
    (congrArg IslTb.setPend (ppsEdge_flags y)).trans rfl⟩
  · show secs % 2 ^ 64 = v
    rw [hsecs, Nat.mod_eq_of_lt hv]
  · show (if tb.setPend.isSome then 2 else if first then 1 else tb.todSrc) = 2
    rw [show tb.setPend = some v from hs]
    rfl

/-- A flag set on the open frames stands in each of them. -/
theorem mem_flagOpen {f : IslFrame} {bit : Nat} (hf : f ∈ x.frames) (hc : f.closed = false) :
    { f with flags := f.flags ||| 2 ^ bit } ∈ (flagOpen x bit).frames :=
  List.mem_map.mpr ⟨f, hf, if_neg (by rw [hc]; decide)⟩

/-! ## Exposures (R373) -/

/-- An edge's step at one entry. -/
def expoAt (l : List Expo) (k : Nat) (start : Bool) (t : Nat) : List Expo := setIx l k (expoStep start t (getIx l k {})) {}

/-- The edge's steps in group `g`: the high phase, then the low one. -/
def expoGroup (input : Nat) (rising : Bool) (t : Nat) (l : List Expo) (g : Nat) : List Expo :=
  expoAt (expoAt l (expoIx g input false) (rising != false) t) (expoIx g input true) (rising != true) t

theorem expoIx_ne {g h i : Nat} {low low' : Bool} (hne : g ≠ h ∨ low ≠ low') : expoIx g i low ≠ expoIx h i low' := by
  unfold expoIx
  cases low <;> cases low' <;> simp at hne ⊢ <;> omega

theorem getIx_expoAt (l : List Expo) (k j : Nat) (start : Bool) (t : Nat) :
    getIx (expoAt l k start t) j {} = if j = k then expoStep start t (getIx l k {}) else getIx l j {} := by
  unfold expoAt
  split
  · next h => rw [h, getIx_setIx_same]
  · next h => exact getIx_setIx_other _ _ _ _ _ h

/-- The steps of one group at its entries, and at every other. -/
theorem getIx_expoGroup (input : Nat) (rising : Bool) (t : Nat) (l : List Expo) (g : Nat) :
    (∀ low, getIx (expoGroup input rising t l g) (expoIx g input low) {} = expoStep (rising != low) t (getIx l (expoIx g input low) {})) ∧
    ∀ j, j ≠ expoIx g input false → j ≠ expoIx g input true → getIx (expoGroup input rising t l g) j {} = getIx l j {} := by
  have hne : expoIx g input true ≠ expoIx g input false := expoIx_ne (.inr (by decide))
  unfold expoGroup
  refine ⟨fun low => ?_, fun j h1 h2 => ?_⟩
  · cases low with
    | false => rw [getIx_expoAt, if_neg hne.symm, getIx_expoAt, if_pos rfl]
    | true => rw [getIx_expoAt, if_pos rfl, getIx_expoAt, if_neg hne]
  · rw [getIx_expoAt, if_neg h2, getIx_expoAt, if_neg h1]

/-- The steps of some groups: at the entries of one of them, and at every entry of none. -/
theorem getIx_expoGroups (input : Nat) (rising : Bool) (t : Nat) (gs : List Nat) (hd : gs.Nodup) (l : List Expo) :
    (∀ g ∈ gs, ∀ low, getIx (gs.foldl (expoGroup input rising t) l) (expoIx g input low) {} =
      expoStep (rising != low) t (getIx l (expoIx g input low) {})) ∧
    ∀ j, (∀ g ∈ gs, ∀ low, j ≠ expoIx g input low) → getIx (gs.foldl (expoGroup input rising t) l) j {} = getIx l j {} := by
  induction gs generalizing l with
  | nil => exact ⟨fun g hg => absurd hg List.not_mem_nil, fun _ _ => rfl⟩
  | cons h gs ih =>
    obtain ⟨hnot, hd'⟩ := List.nodup_cons.mp hd
    obtain ⟨h1, h2⟩ := ih hd' (expoGroup input rising t l h)
    obtain ⟨e1, e2⟩ := getIx_expoGroup input rising t l h
    refine ⟨fun g hg low => ?_, fun j hj => ?_⟩
    · rw [List.foldl_cons]
      rcases List.mem_cons.mp hg with rfl | hg
      · rw [h2 _ fun g' hg' low' => expoIx_ne (.inl (by rintro rfl; exact hnot hg')), e1]
      · have hne : g ≠ h := fun e => hnot (e ▸ hg)
        rw [h1 g hg, e2 _ (expoIx_ne (.inl hne)) (expoIx_ne (.inl hne))]
    · rw [List.foldl_cons, h2 j fun g hg => hj g (List.mem_cons_of_mem _ hg),
        e2 j (hj h List.mem_cons_self false) (hj h List.mem_cons_self true)]

theorem expoEdge_eq {i n : Nat} {rising : Bool} (h : islRuns s.isl = true) : expoEdge i rising n s = { s with isl := { s.isl with
    expo := (List.range 4).foldl (expoGroup i rising (islRaw s.isl n)) s.isl.expo
    frames := s.isl.frames.map (frameEnd s.isl.expo i (islRaw s.isl n) rising) } } := by
  have hne : ¬ ((!islRuns s.isl) = true) := by rw [h]; decide
  exact congrArg (fun x => ({ s with isl := x } : State)) (if_neg hne)

/-- An edge begins the exposure of its phase in every group, and is the first end of the other phase's. -/
theorem expoEdge_spec {i n g : Nat} {low : Bool} (h : islRuns s.isl = true) (hi : i < 4) (hg : g < 4) :
    expoEdge i (!low) n s = { s with isl := { s.isl with expo := (expoEdge i (!low) n s).isl.expo, frames := (expoEdge i (!low) n s).isl.frames } } ∧
    getIx (expoEdge i (!low) n s).isl.expo (expoIx g i low) {} =
      { start := islRaw s.isl n, stop := 0, hasStop := false, count := (getIx s.isl.expo (expoIx g i low) {}).count + 1 } ∧
    ((getIx s.isl.expo (expoIx g i (!low)) {}).start ≠ 0 → (getIx s.isl.expo (expoIx g i (!low)) {}).hasStop = false →
      getIx (expoEdge i (!low) n s).isl.expo (expoIx g i (!low)) {} =
        { getIx s.isl.expo (expoIx g i (!low)) {} with stop := islRaw s.isl n, hasStop := true }) ∧
    ∀ k, k % 4 ≠ i → getIx (expoEdge i (!low) n s).isl.expo k {} = getIx s.isl.expo k {} := by
  have he := expoEdge_eq (i := i) (n := n) (rising := !low) h
  obtain ⟨h1, h2⟩ := getIx_expoGroups i (!low) (islRaw s.isl n) (List.range 4) List.nodup_range s.isl.expo
  generalize (List.range 4).foldl (expoGroup i (!low) (islRaw s.isl n)) s.isl.expo = l at he h1 h2
  generalize s.isl.frames.map (frameEnd s.isl.expo i (islRaw s.isl n) (!low)) = fr at he
  generalize islRaw s.isl n = t at h1 ⊢
  generalize expoEdge i (!low) n s = u at he
  subst he
  refine ⟨rfl, ?_⟩
  dsimp only
  have hmem : g ∈ List.range 4 := List.mem_range.mpr hg
  have hstart : ((!low) != low) = true := by cases low <;> rfl
  have hstop : ((!low) != (!low)) = false := by cases low <;> rfl
  refine ⟨?_, fun h0 hs => ?_, fun k hk => h2 k fun g' _ low' e => hk ?_⟩
  · rw [h1 g hmem low, hstart]
    exact if_pos rfl
  · rw [h1 g hmem (!low), hstop]
    exact (if_neg (by decide)).trans (if_neg (by simp [h0, hs]))
  · rw [e]
    unfold expoIx
    split <;> omega

/-! ## The measurement block (R398, R400) -/

/-- After boot a changed block is measured and raises its fault. -/
theorem relayBlock_spec (s : State) (b : List Byte) :
    (relayBlock s b).boot = (extend 1 6 (sha b) { s with boot := { s.boot with islBlock := b } }).boot ∧
      (hdr (relayBlock s b) bootPg).fltSrc.getLsbD 2 = true :=
  ⟨(raiseFault_noted _ _ _ _).boot, raiseFault_src (by rfl) (by rfl) (by decide)⟩

theorem islRelay_before {b : List Byte} (hb : b ≠ s.boot.islBlock) (hp : s.boot.islPend = []) (hst : s.boot.st = 0) :
    islRelay b s = { s with boot := { s.boot with islBlock := b } } := by
  unfold islRelay
  dsimp only
  rw [if_neg (by rw [hp]; exact hb), if_neg (by rw [hst]; decide), if_pos hst]

theorem islRelay_during {b : List Byte} (hb : b ≠ s.boot.islPend.getLast?.getD s.boot.islBlock) (h0 : s.boot.st ≠ 0) (h7 : s.boot.st ≠ 7) :
    islRelay b s = { s with boot := { s.boot with islPend := s.boot.islPend ++ [b] } } := by
  unfold islRelay
  dsimp only
  rw [if_neg hb, if_neg h7, if_neg h0]

theorem islRelay_after {b : List Byte} (hb : b ≠ s.boot.islBlock) (hp : s.boot.islPend = []) (hst : s.boot.st = 7) :
    islRelay b s = relayBlock s b := by
  unfold islRelay
  dsimp only
  rw [if_neg (by rw [hp]; exact hb), if_pos hst]

end

/-- Settles O49: what a start makes of the Island (`Started`), the record of a second edge, and the steps of an exposure edge at each entry
(`getIx_expoGroups`). -/
theorem islandLife : Obligations.IslandLife := by
  unfold Obligations.IslandLife
  refine ⟨?_, ?_, ?_, fun s h => runs_next rfl (if_pos ⟨h, rfl⟩), fun s => ⟨_, runs_next rfl rfl, islNote_isl _ _⟩, ?_, ?_, ?_,
    fun s => ⟨_, runs_next rfl rfl, by rw [ppsMissing, islNote_isl]; exact ⟨rfl, rfl, rfl⟩⟩, ?_, fun s => runs_next rfl rfl, ?_,
    fun s => runs_next rfl rfl, fun s => ⟨_, runs_next rfl rfl, rfl, rfl, rfl⟩, ?_, ?_, ?_⟩
  · intro s p n f v hp hn hf hv ho
    have h := islStart_started s
    obtain ⟨hu, hc⟩ := startNvm_resolved hn
    refine ⟨_, runs_next rfl (islReset_starts hp), ?_, ?_, ?_, h.recIdx, h.ring, h.frames, by rw [h.tb], by rw [h.tb], ?_⟩
    · rw [h.st, startFw_good hf hv ho, hu]
      rfl
    · rw [h.cur, hc]
    · rw [h.cur, hc]
    · rw [h.nvm, hn, h.cur]
      rfl
  · intro s p f v hp hn hf hv ho
    have h := islStart_started s
    have hu : startUnver s.isl = true := by
      unfold startUnver
      rw [hn]
      rfl
    refine ⟨_, runs_next rfl (islReset_starts hp), ?_, ?_, ?_, by rw [h.tb]⟩
    · rw [h.st, startFw_good hf hv ho, hu]
      rfl
    · rw [h.nvm, hn]
      rfl
    · rw [h.cur]
      exact hu
  · intro s p hp hf
    have h := islStart_started s
    refine ⟨_, runs_next rfl (islReset_starts hp), ?_, ?_⟩
    · rw [h.st, startFw_bad hf]
      rfl
    · rw [h.fw, hf]
      rfl
  · exact fun s e hst hseen href hg hl ht hs hc => ⟨_, runs_next rfl rfl, ppsEdge_locks (by decide) (by decide) hst hseen href hg hl ht hs hc⟩
  · exact fun s iclk e hst hseen hb => ⟨_, runs_next rfl rfl, ppsEdge_unlocks hst hseen hb⟩
  · exact fun s iclk e v hst hs hv => ⟨_, runs_next rfl rfl, ppsEdge_sets hst hs hv⟩
  · intro s
    refine ⟨_, runs_next rfl rfl, ?_⟩
    rw [refLoss, islNote_isl]
    exact ⟨rfl, rfl, fun f hf hc => mem_flagOpen (x := { s.isl with tb := { s.isl.tb with refOk := false, lock := false, good := 0 } }) hf hc⟩
  · exact fun s i g n low h hi hg => ⟨_, runs_next rfl rfl, expoEdge_spec h hi hg⟩
  · exact fun s b hb hne hp hst => runs_actBus_to rfl hb (islRelay_before hne hp hst)
  · exact fun s b hb hne h0 h7 => runs_actBus_to rfl hb (islRelay_during hne h0 h7)
  · exact fun s b hb hne hp hst => ⟨_, runs_actBus_to rfl hb (islRelay_after hne hp hst), relayBlock_spec s b⟩

end Sys2Proof.Machine

namespace Sys2Proof.Machine

/-! PROOFS. The verifier port's commands (R385–R388). -/

section
variable {s : State} {f : SpiFrame} {c : Nat} {fw needOpen : Bool} {op : List Byte → State → State}

/-! ## What a command meets before its action (R388) -/

/-- An Island that is off or starting answers nothing. -/
theorem spi_off (h : s.isl.st = 0 ∨ s.isl.st = 1) : spi c f fw needOpen op s = s :=
  if_pos (h.imp_right Or.inl)

/-- Without firmware a command that needs it is not answered. -/
theorem spi_noFw (h : s.isl.st = 4) : spi c f true needOpen op s = s :=
  if_pos (.inr (.inr ⟨h, rfl⟩))

theorem spi_answers (h : s.isl.st = 2 ∨ s.isl.st = 3 ∨ 2 ≤ s.isl.st ∧ fw = false) :
    spi c f fw needOpen op s = if f.args.length ≠ f.len ∨ crc32c (toBE 1 c ++ toBE 2 f.len ++ f.args) ≠ f.crc.toNat then spiOut s 2 []
      else if needOpen && !s.isl.sealOpen then spiOut s 1 [] else op f.args s := by
  refine if_neg ?_
  rintro (h0 | h0 | ⟨h0, hf⟩)
  · omega
  · omega
  · rcases h with h | h | ⟨-, h⟩
    · omega
    · omega
    · rw [hf] at h; cases h

theorem spi_badFrame (h : s.isl.st = 2 ∨ s.isl.st = 3 ∨ 2 ≤ s.isl.st ∧ fw = false) (hg : ¬ SpiGood c f) :
    spi c f fw needOpen op s = emit s (spiAns 2 []) := by
  rw [spi_answers h]
  exact if_pos (Decidable.not_and_iff_or_not.mp hg)

theorem spi_sealed (h : s.isl.st = 2 ∨ s.isl.st = 3 ∨ 2 ≤ s.isl.st ∧ fw = false) (hg : SpiGood c f) (ho : s.isl.sealOpen = false) :
    spi c f fw true op s = emit s (spiAns 1 []) := by
  rw [spi_answers h, if_neg (not_or.mpr ⟨not_not.mpr hg.1, not_not.mpr hg.2⟩), if_pos (by rw [ho]; rfl)]
  rfl

/-- A good frame is acted on, by a command that changes something while the seal is open. -/
theorem spi_acts (h : s.isl.st = 2 ∨ s.isl.st = 3 ∨ 2 ≤ s.isl.st ∧ fw = false) (hg : SpiGood c f)
    (ho : needOpen = false ∨ s.isl.sealOpen = true) : spi c f fw needOpen op s = op f.args s := by
  rw [spi_answers h, if_neg (not_or.mpr ⟨not_not.mpr hg.1, not_not.mpr hg.2⟩), if_neg]
  rcases ho with ho | ho <;> rw [ho] <;> simp

/-- What a command without arguments answers to. -/
theorem noArgs_none {g : State → State} (h : f.args = []) : noArgs g f.args s = g s := by rw [h]; rfl

/-- A command's state of the Island: running, or with no firmware for a command that does not need it. -/
theorem runs_or_up (h : s.isl.st = 2 ∨ s.isl.st = 3) : s.isl.st = 2 ∨ s.isl.st = 3 ∨ 2 ≤ s.isl.st ∧ fw = false := h.imp_right .inl

theorem up_noFw (h : 2 ≤ s.isl.st) : s.isl.st = 2 ∨ s.isl.st = 3 ∨ 2 ≤ s.isl.st ∧ false = false := .inr (.inr ⟨h, rfl⟩)

/-- A command of ISL_SPI is an action behind `spi`; only the named ones need no firmware. -/
theorem spiCommands_exec {i : Instr} (h : (c, i) ∈ spiCommands f) : ∃ fw needOpen op,
    (c ∈ [0x01, 0x03, 0x20, 0x21, 0x30] → fw = false) ∧ ∀ s, exec i s = .next (spi c f fw needOpen op s) := by
  simp only [spiCommands, List.mem_cons, Prod.mk.injEq, List.not_mem_nil, or_false] at h
  rcases h with ⟨rfl, rfl⟩ | ⟨rfl, rfl⟩ | ⟨rfl, rfl⟩ | ⟨rfl, rfl⟩ | ⟨rfl, rfl⟩ | ⟨rfl, rfl⟩ | ⟨rfl, rfl⟩ | ⟨rfl, rfl⟩ | ⟨rfl, rfl⟩ | ⟨rfl, rfl⟩ |
    ⟨rfl, rfl⟩ | ⟨rfl, rfl⟩
  all_goals exact ⟨_, _, _, by decide, fun s => rfl⟩

/-- Those that change something need the seal open. -/
theorem spiSealed_exec {i : Instr} (h : (c, i) ∈ spiSealed f) : ∃ fw op,
    (c ∈ [0x20, 0x21, 0x30] → fw = false) ∧ ∀ s, exec i s = .next (spi c f fw true op s) := by
  simp only [spiSealed, List.mem_cons, Prod.mk.injEq, List.not_mem_nil, or_false] at h
  rcases h with ⟨rfl, rfl⟩ | ⟨rfl, rfl⟩ | ⟨rfl, rfl⟩ | ⟨rfl, rfl⟩ | ⟨rfl, rfl⟩ | ⟨rfl, rfl⟩
  all_goals exact ⟨_, _, by decide, fun s => rfl⟩

theorem up_of {l : List Nat} (h : s.isl.st = 2 ∨ s.isl.st = 3 ∨ (s.isl.st = 4 ∧ c ∈ l)) (hf : c ∈ l → fw = false) :
    s.isl.st = 2 ∨ s.isl.st = 3 ∨ 2 ≤ s.isl.st ∧ fw = false :=
  h.imp_right (Or.imp_right fun ⟨h4, hc⟩ => ⟨by omega, hf hc⟩)

/-! ## Staged bytes -/

theorem leNat_toLE (n v : Nat) : leNat (toLE n v) = v % 256 ^ n := by
  induction n generalizing v with
  | zero => rw [Nat.pow_zero, Nat.mod_one]; rfl
  | succ n ih =>
    unfold toLE leNat
    rw [ih, BitVec.toNat_ofNat, show 256 ^ (n + 1) = 2 ^ 8 * 256 ^ n from Nat.pow_succ', Nat.mod_mul]
    rfl

/-- The number at the front of a frame's bytes. -/
theorem leAt_toLE {n v : Nat} (h : v < 256 ^ n) (b : List Byte) : leAt (toLE n v ++ b) 0 n = v := by
  unfold leAt
  rw [List.drop_zero, List.take_left' (length_toLE n v), leNat_toLE, Nat.mod_eq_of_lt h]

/-- A staged table holds the bytes put into it, and the others as before. -/
theorem nget_stage (m : NMap Byte) (a : Nat) (l : List Byte) :
    (∀ j, j < l.length → nget (stage m a l) (a + j) = l[j]?) ∧
    ∀ k, k < a ∨ a + l.length ≤ k → nget (stage m a l) k = nget m k := by
  induction l generalizing m a with
  | nil => exact ⟨fun j hj => absurd hj (Nat.not_lt_zero j), fun _ _ => rfl⟩
  | cons b t ih =>
    obtain ⟨h1, h2⟩ := ih (nset m a b) (a + 1)
    refine ⟨fun j hj => ?_, fun k hk => ?_⟩
    · cases j with
      | zero =>
        refine (h2 a (.inl (by omega))).trans ?_
        rw [nget_nset_same]
        rfl
      | succ j =>
        rw [List.getElem?_cons_succ, ← h1 j (by simpa using hj)]
        exact congrArg (nget _) (by omega)
    · rw [List.length_cons] at hk
      exact (h2 k (by omega)).trans (nget_nset_other _ _ _ _ (by omega))

/-! ## The commands -/

theorem readRecordOp_spec {a : List Byte} {i : Nat} (ha : a.length = 8) (hi : leNat a = i) : readRecordOp a s =
    emit s (if i < s.isl.recIdx ∧ s.isl.recIdx ≤ i + 150 then spiAns 0 (ngetD s.isl.ring (i % 150) []) else spiAns 5 []) := by
  unfold readRecordOp
  rw [if_neg (not_not.mpr ha)]
  dsimp only
  rw [hi]
  split <;> rfl

theorem readAuditOp_spec {n : Byte} {e : List Byte} (hn : n.toNat < 32) (he : s.isl.cur.log[n.toNat]? = some e) :
    readAuditOp [n] s = emit s (spiAns 0 e) := by
  have hb : byteAt [n] 0 = n.toNat := rfl
  unfold readAuditOp
  rw [hb, if_neg (by simp; omega), he]
  rfl

/-- WRITE_PARAM stages its bytes at its offset. -/
theorem writeParamOp_spec {o : Nat} {b : List Byte} (hb : b ≠ []) (hlen : o + b.length ≤ 256) : writeParamOp (toLE 2 o ++ b) s =
    emit { s with isl := { s.isl with stParam := stage s.isl.stParam o b, staged := true } } (spiAns 0 []) := by
  have hpos : 0 < b.length := List.length_pos_iff.mpr hb
  have hl : (toLE 2 o).length = 2 := length_toLE 2 o
  have ho : leAt (toLE 2 o ++ b) 0 2 = o := leAt_toLE (by omega) b
  have hd : (toLE 2 o ++ b).drop 2 = b := List.drop_left' hl
  unfold writeParamOp
  dsimp only
  rw [ho, hd, if_neg (by rw [List.length_append, hl]; omega)]
  rfl

/-- LOAD_FW likewise. -/
theorem loadFwOp_spec {o : Nat} {b : List Byte} (hb : b ≠ []) (hlen : o < 2 ^ 32) : loadFwOp (toLE 4 o ++ b) s =
    emit { s with isl := { s.isl with stFw := stage s.isl.stFw o b, staged := true } } (spiAns 0 []) := by
  have hpos : 0 < b.length := List.length_pos_iff.mpr hb
  have hl : (toLE 4 o).length = 4 := length_toLE 4 o
  have ho : leAt (toLE 4 o ++ b) 0 4 = o := leAt_toLE (by omega) b
  have hd : (toLE 4 o ++ b).drop 4 = b := List.drop_left' hl
  unfold loadFwOp
  rw [ho, hd, if_neg (by rw [List.length_append, hl]; omega)]
  rfl

/-- What a change writes to the three copies. -/
theorem putNvm_spec (x : Isl) (n : IslNvm) : (putNvm x n).cur = { n with wgen := x.cur.wgen + 1, good := true } ∧
    (putNvm x n).nvm = List.replicate 3 (putNvm x n).cur := ⟨rfl, rfl⟩

/-- COMMIT_PARAM of a complete allowed block. -/
theorem commitParamOp_spec {b : List Byte} (hst : s.isl.st = 2 ∨ s.isl.st = 3) (hb : staged s.isl.stParam = some b) (hp : paramOk b = true)
    (ha : auditFull s = false) : (commitParamOp s).isl.st = 2 ∧ (commitParamOp s).isl.cur.param = b ∧
    (commitParamOp s).isl.cur.audit = s.isl.cur.audit + 1 ∧ (commitParamOp s).isl.cur.unver = false ∧
    (commitParamOp s).isl.nvm = List.replicate 3 (commitParamOp s).isl.cur ∧ (commitParamOp s).isl.stParam = [] ∧
    (commitParamOp s).isl.frames = s.isl.frames := by
  have he : commitParamOp s = spiOut (islNote s { s with isl := {
      putNvm s.isl (audited s.isl 0x11 (paramDigest b) { s.isl.cur with param := b, unver := false }) with
      stParam := [], staged := !s.isl.stFw.isEmpty, st := if s.isl.st = 3 then 2 else s.isl.st } }) 0 [] := by
    unfold commitParamOp
    rw [hb]
    exact (if_neg (by rw [hp]; decide)).trans (if_neg (by rw [ha]; decide))
  have hi : (commitParamOp s).isl = { putNvm s.isl (audited s.isl 0x11 (paramDigest b) { s.isl.cur with param := b, unver := false }) with
      stParam := [], staged := !s.isl.stFw.isEmpty, st := if s.isl.st = 3 then 2 else s.isl.st } := by
    rw [he]
    exact islNote_isl _ _
  have hst2 : (if s.isl.st = 3 then 2 else s.isl.st) = 2 := by split <;> omega
  rw [hi]
  exact ⟨hst2, rfl, rfl, rfl, rfl, rfl, rfl⟩

theorem commitParamOp_bad {b : List Byte} (hb : staged s.isl.stParam = some b) (hp : paramOk b = false) :
    commitParamOp s = emit s (spiAns 3 []) := by
  unfold commitParamOp
  rw [hb]
  exact if_pos (by rw [hp]; rfl)

/-- SET_TIME keeps the seconds for the next edge. -/
theorem setTimeOp_spec {a : List Byte} (hl : a.length = 8) (ha : auditFull s = false) : setTimeOp a s =
    emit { s with isl := { putNvm s.isl (audited s.isl 0x13 (paramDigest s.isl.cur.param) s.isl.cur) with
      tb := { s.isl.tb with setPend := some (leNat a) } } } (spiAns 0 []) := by
  unfold setTimeOp
  rw [if_neg (not_not.mpr hl), if_neg (by rw [ha]; decide)]
  rfl

/-- Three good copies alike are one. -/
theorem resolve_same {α : Type} [DecidableEq α] {good : α → Bool} {wgen : α → Nat} {eq : α → α → Bool} {a : α} (hg : good a = true)
    (he : eq a a = true) : resolve good wgen eq (List.replicate 3 a) = (some a, true, false) := by
  have hl : (List.replicate 3 a).filter good = [a, a, a] := List.filter_eq_self.mpr fun b hb => by rw [List.eq_of_mem_replicate hb]; exact hg
  unfold resolve
  rw [hl]
  exact if_pos (by rw [he]; rfl)

/-- COMMIT_FW of a good image writes it and starts the Island from the copies written. -/
theorem commitFwOp_spec {b : List Byte} {v : Nat} (hst : 2 ≤ s.isl.st) (hb : staged s.isl.stFw = some b) (hne : b ≠ [])
    (hv : Config.islandFw b = some v) (ho : s.isl.otpSvn ≤ v) (ha : auditFull s = false) :
    (commitFwOp s).isl.curFw = { image := b, svn := v, wgen := s.isl.curFw.wgen + 1, good := true } ∧
    (commitFwOp s).isl.fw = List.replicate 3 (commitFwOp s).isl.curFw ∧ (commitFwOp s).isl.cur.audit = s.isl.cur.audit + 1 ∧
    (commitFwOp s).isl.recIdx = 0 := by
  have hne' : b.isEmpty ≠ true := by simpa using hne
  have he : commitFwOp s = islStart (spiOut { s with isl := { putNvm s.isl (audited s.isl 0x21 (sha b) s.isl.cur) with
      fw := List.replicate 3 { image := b, svn := v, wgen := s.isl.curFw.wgen + 1, good := true } } } 0 []) := by
    unfold commitFwOp
    rw [hb]
    dsimp only
    rw [hv]
    dsimp only
    rw [if_neg (by rintro (h | h); exacts [absurd h (Nat.not_lt.mpr ho), hne' h]), if_neg (by rw [ha]; decide)]
    exact islReset_starts (.inr (by show s.isl.st ≠ 0; omega))
  have hs := islStart_started (spiOut { s with isl := { putNvm s.isl (audited s.isl 0x21 (sha b) s.isl.cur) with
      fw := List.replicate 3 { image := b, svn := v, wgen := s.isl.curFw.wgen + 1, good := true } } } 0 [])
  rw [← he] at hs
  generalize hx : (spiOut { s with isl := { putNvm s.isl (audited s.isl 0x21 (sha b) s.isl.cur) with
      fw := List.replicate 3 { image := b, svn := v, wgen := s.isl.curFw.wgen + 1, good := true } } } 0 []).isl = x at hs
  have hfw : resolveFw x = (some { image := b, svn := v, wgen := s.isl.curFw.wgen + 1, good := true }, true, false) := by
    rw [← hx]
    exact resolve_same rfl (by simp)
  have hnvm : resolveNvm x = (some (putNvm s.isl (audited s.isl 0x21 (sha b) s.isl.cur)).cur, true, false) := by
    rw [← hx]
    exact resolve_same rfl (by simp)
  have hc : (commitFwOp s).isl.curFw = { image := b, svn := v, wgen := s.isl.curFw.wgen + 1, good := true } := by
    rw [hs.curFw, hfw]
    rfl
  refine ⟨hc, ?_, ?_, hs.recIdx⟩
  · rw [hs.fw, hs.curFw, hfw]
    rfl
  · rw [hs.cur, (startNvm_resolved hnvm).2]
    rfl

end

/-- Settles O50: what a command meets before its action is proved once for `spi`, and each action for itself. -/
theorem islandCommands : Obligations.IslandCommands := by
  unfold Obligations.IslandCommands
  refine ⟨?_, fun s f h => ⟨runs_next rfl (spi_noFw h), runs_next rfl (spi_noFw h), runs_next rfl (spi_noFw h), runs_next rfl (spi_noFw h),
    runs_next rfl (spi_noFw h), runs_next rfl (spi_noFw h), runs_next rfl (spi_noFw h)⟩, ?_, ?_, ?_, ?_, ?_, ?_, ?_, ?_, ?_, ?_, ?_, ?_, ?_, ?_, ?_⟩
  · intro s f c i hi h
    obtain ⟨fw, needOpen, op, -, he⟩ := spiCommands_exec hi
    exact runs_next (he s) (spi_off h)
  · intro s f c i hi h hg
    obtain ⟨fw, needOpen, op, hf, he⟩ := spiCommands_exec hi
    exact runs_next (he s) (spi_badFrame (up_of h hf) hg)
  · intro s f c i hi h hg ho
    obtain ⟨fw, op, hf, he⟩ := spiSealed_exec hi
    exact runs_next (he s) (spi_sealed (up_of h hf) hg ho)
  · exact fun s f h hg ha => runs_next rfl ((spi_acts (up_noFw h) hg (.inl rfl)).trans (noArgs_none ha))
  · exact fun s f i h hg ha hi => runs_next rfl ((spi_acts (runs_or_up h) hg (.inl rfl)).trans (readRecordOp_spec ha hi))
  · exact fun s f h hg ha => runs_next rfl ((spi_acts (up_noFw h) hg (.inl rfl)).trans (noArgs_none ha))
  · exact fun s f h hg ha => runs_next rfl ((spi_acts (runs_or_up h) hg (.inl rfl)).trans (noArgs_none ha))
  · intro s f n e h hg ha hn he
    refine runs_next rfl ((spi_acts (runs_or_up h) hg (.inl rfl)).trans ?_)
    rw [ha]
    exact readAuditOp_spec hn he
  · intro s f o b h ho hg ha hb hlen
    obtain ⟨h1, h2⟩ := nget_stage s.isl.stParam o b
    have he := writeParamOp_spec (s := s) hb hlen
    rw [← ha] at he
    exact ⟨_, runs_next rfl ((spi_acts (runs_or_up h) hg (.inr ho)).trans he), rfl, rfl, h1, fun a => h2 a⟩
  · intro s f b h ho hg ha hb hp hf
    exact ⟨_, runs_next rfl ((spi_acts (runs_or_up h) hg (.inr ho)).trans (noArgs_none ha)), commitParamOp_spec h hb hp hf⟩
  · exact fun s f b h ho hg ha hb hp => runs_next rfl ((spi_acts (runs_or_up h) hg (.inr ho)).trans
      ((noArgs_none ha).trans (commitParamOp_bad hb hp)))
  · exact fun s f h hg ha => runs_next rfl ((spi_acts (runs_or_up h) hg (.inl rfl)).trans (noArgs_none ha))
  · exact fun s f h ho hg ha hf => ⟨_, runs_next rfl ((spi_acts (runs_or_up h) hg (.inr ho)).trans (setTimeOp_spec ha hf)),
      rfl, rfl, rfl, rfl, rfl, rfl⟩
  · intro s f o b h ho hg ha hb hlen
    obtain ⟨h1, -⟩ := nget_stage s.isl.stFw o b
    have he := loadFwOp_spec (s := s) hb hlen
    rw [← ha] at he
    exact ⟨_, runs_next rfl ((spi_acts (up_noFw h) hg (.inr ho)).trans he), rfl, rfl, h1⟩
  · intro s f b v h ho hg ha hb hne hv hsvn hf
    obtain ⟨h1, h2, h3, h4⟩ := commitFwOp_spec h hb hne hv hsvn hf
    exact ⟨_, runs_next rfl ((spi_acts (up_noFw h) hg (.inr ho)).trans (noArgs_none ha)), by rw [h1], h2, by rw [h1], h3, h4⟩
  · intro s f h ho hg ha
    have he : islReset false (spiOut s 0 []) = islStart (spiOut s 0 []) := islReset_starts (.inr (by show s.isl.st ≠ 0; omega))
    have hs := islStart_started (spiOut s 0 [])
    exact ⟨_, runs_next rfl ((spi_acts (up_noFw h) hg (.inr ho)).trans ((noArgs_none ha).trans he)), rfl, hs.recIdx, hs.frames⟩

end Sys2Proof.Machine

namespace Sys2Proof.Machine

/-! PROOFS. Pictures from the network: packets counted, policed and put together (R205, R206, R331). -/

section
variable {s : State} {x : Ctx} {k : NetPacket} {c port : Nat}

/-- Counting at one offset leaves the registers at every other, in any bank. -/
theorem rgetN_bump_off (s : State) {o o' : Nat} (p b n p' b' : Nat) (ho : o < 4096) (ho' : o' < 4096) (h : o' ≠ o) :
    rgetN (bump s p b o n) p' b' o' = rgetN s p' b' o' := by
  unfold bump rputN rgetN
  rw [rget_rput_key, if_neg]
  unfold rkey
  omega

theorem ingColour_dec (s : State) (x : Ctx) (k : NetPacket) : ∃ tc tp, (ingColour s x k).2 =
    { x with dec := { x.dec with tokC := tc, tokP := tp, tokTick := s.tick } } := ⟨_, _, rfl⟩

theorem getCtx_setCtx_self (s : State) (c : Nat) (x : Ctx) : getCtx (setCtx s c x) c = some x := nget_nset_same _ _ _

theorem getCtx_setCtx_other (s : State) (c : Nat) (x : Ctx) : ∀ d, d ≠ c → getCtx (setCtx s c x) d = getCtx s d :=
  fun _ h => nget_nset_other _ _ _ _ h

/-- A packet's count of the packets missing before it. -/
def gapBumped (s : State) (c : Nat) (b : List Byte) (last : Option Nat) (seq : Nat) : State :=
  let gap := match last with
    | some l => (seq + 65535 - l) % 65536
    | none => 0
  if 0 < gap ∧ gap < 32768 then ingBump s c b 0x414 gap else s

theorem gapBumped_regs (s : State) (c : Nat) (b : List Byte) (last : Option Nat) (seq : Nat) :
    gapBumped s c b last seq = { s with regs := (gapBumped s c b last seq).regs } ∧
    ∀ p b' o, o < 4096 → o ≠ 0x414 → rgetN (gapBumped s c b last seq) p b' o = rgetN s p b' o := by
  unfold gapBumped
  extract_lets gap
  clear_value gap
  split
  · exact ⟨rfl, fun p b' o ho hne => rgetN_bump_off _ _ _ _ _ _ (by decide) ho hne⟩
  · exact ⟨rfl, fun _ _ _ _ _ => rfl⟩

/-- A packet while the port receives: it waits for no state. -/
theorem ingressPacket_match {x : Ctx} (hp : port < 2) (hu : blockUp s (ethPage port) = true) (hr : rbits s (ethPage port) 0 0x100 1 1 = 1)
    (hm : (s.ctxs.find? fun e => ingMatch port k e.2) = some (c, x)) : ingressPacket port k s =
      if (ingColour s x k).1 = 2 then setCtx (ingBump (gapBumped s c x.block x.dec.lastSeq (Rtp.seq k.payload)) c x.block 0x40C 1) c
        { (ingColour s x k).2 with dec := { (ingColour s x k).2.dec with lastSeq := some (Rtp.seq k.payload) } }
      else if (ingColour s x k).1 = 1 ∧ Db.ingFlags x.block / 8 % 2 = 1 then
        setCtx (ingBump (gapBumped s c x.block x.dec.lastSeq (Rtp.seq k.payload)) c x.block 0x410 1) c
          { (ingColour s x k).2 with dec := { (ingColour s x k).2.dec with lastSeq := some (Rtp.seq k.payload) } }
      else ingTake (ingBump (gapBumped s c x.block x.dec.lastSeq (Rtp.seq k.payload)) c x.block (if (ingColour s x k).1 = 0 then 0x404 else 0x408) 1) c
        { (ingColour s x k).2 with dec := { (ingColour s x k).2.dec with
          lastSeq := some (Rtp.seq k.payload), accSeq := some (Rtp.seq k.payload) } }
        (match x.dec.accSeq with
          | some l => Rtp.seq k.payload == (l + 1) % 65536
          | none => true) k.payload := by
  unfold ingressPacket
  rw [if_neg (by rw [hu, hr]; simp; omega), hm]
  rfl

theorem ingressPacket_off (h : rbits s (ethPage port) 0 0x100 1 1 = 0) : ingressPacket port k s = s := if_pos (.inr (.inr h))

theorem ingressPacket_unmatched (hp : port < 2) (hu : blockUp s (ethPage port) = true) (hr : rbits s (ethPage port) 0 0x100 1 1 = 1)
    (hm : (s.ctxs.find? fun e => ingMatch port k e.2) = none) (hk : k.ptp = false) :
    ingressPacket port k s = bump s (ethPage port) 0 0x424 1 := by
  unfold ingressPacket
  rw [if_neg (by rw [hu, hr]; simp; omega), hm]
  exact if_neg (by rw [hk]; decide)

theorem ingMatch_port (h : ingMatch port k x = true) : Db.ingPort x.block = port := by
  unfold ingMatch at h
  simp only [Bool.and_eq_true, beq_iff_eq] at h
  exact h.1.1.1.1.1.1.2

/-- A picture that holds the whole units of a packet too. -/
def joined (h : HeldPic) (p : List Byte) : HeldPic :=
  { h with units := h.units ++ (cutUnits (Rtp.nunits p) (p.drop 20)).1, bad := h.bad ++ (cutUnits (Rtp.nunits p) (p.drop 20)).2.2 }

theorem ingBumpIf_regs (s : State) (c : Nat) (b : List Byte) (o n : Nat) : ∃ m, (if n = 0 then s else ingBump s c b o n) = { s with regs := m } := by
  split
  · exact ⟨s.regs, rfl⟩
  · exact ⟨_, rfl⟩

theorem ingBumpIf_pool (s : State) (c : Nat) (b : List Byte) (n p : Nat) :
    poolSize (if n = 0 then s else ingBump s c b 0x418 n) p = poolSize s p := by
  split
  · rfl
  · unfold poolSize rbits ingBump
    rw [rgetN_bump_off _ _ _ _ _ _ (by decide) (by decide) (by decide)]

/-- A packet of whole units joins the picture of its tag, which has room; with the marker the picture is held. -/
theorem ingTake_joins {inSeq : Bool} {p : List Byte} {h : HeldPic} (hf : Db.format x.block ≠ 1) (hc : x.dec.cur = some h)
    (ht : h.tag = Rtp.picTag p) (hfr : Rtp.frag p = 0)
    (hroom : cdiv (heldBytes h + fragBytes x.dec.frag + (p.length - 20)) (poolSize s (Db.ingPool x.block)) ≤ h.bufs.length) :
    ∃ m y, ingTake s c x inSeq p = setCtx { s with regs := m } c y ∧
      if Rtp.marker p then y.dec.cur = none ∧ y.dec.held = x.dec.held ++ [{ joined h p with peMissing := false }]
      else y.dec.held = x.dec.held ∧ y.dec.cur = some (joined h p) := by
  unfold ingTake
  extract_lets tag hevc same a y r _ z s1 _ h0
  have hsame : same = true := by
    show (x.dec.cur.any fun h => h.tag == pktTag x p) = true
    rw [hc]
    simp [pktTag, hf, ht]
  have ha : a = (s, x) := if_neg (by rw [hsame, Bool.not_true, Bool.and_false]; decide)
  have hy : y = x := congrArg Prod.snd ha
  have hhevc : hevc = false := by simpa [hevc] using hf
  have hr : r = acsPacket (inSeq && same) x.dec.frag p := by
    show (if hevc then hevcPacket (inSeq && same) y.dec.frag p else acsPacket (inSeq && same) y.dec.frag p) = _
    rw [hhevc, hy]
    rfl
  have hr' : r.units = (cutUnits (Rtp.nunits p) (p.drop 20)).1 ∧ r.bad = (cutUnits (Rtp.nunits p) (p.drop 20)).2.2 ∧ r.frag = none := by
    rw [hr]
    unfold acsPacket
    dsimp only
    rw [hfr]
    exact ⟨rfl, rfl, rfl⟩
  have hz : z = { x with dec := { x.dec with lastPkt := s.dt } } := congrArg (fun u : Ctx => { u with dec := { u.dec with lastPkt := s.dt } }) hy
  have hzc : z.dec.cur = some h := by rw [hz]; exact hc
  have hzf : z.dec.frag = x.dec.frag := by rw [hz]
  have hzb : z.block = x.block := by rw [hz]
  have hzh : z.dec.held = x.dec.held := by rw [hz]
  obtain ⟨m, hm⟩ : ∃ m, s1 = { s with regs := m } := by
    show ∃ m, (if r.drop = 0 then a.1 else ingBump a.1 c z.block 0x418 r.drop) = { s with regs := m }
    rw [ha]
    exact ingBumpIf_regs s c z.block 0x418 r.drop
  have hpool : poolSize s1 (Db.ingPool x.block) = poolSize s (Db.ingPool x.block) := by
    show poolSize (if r.drop = 0 then a.1 else ingBump a.1 c z.block 0x418 r.drop) _ = _
    rw [ha]
    exact ingBumpIf_pool s c z.block r.drop _
  have h0e : h0 = h := by
    show z.dec.cur.getD _ = h
    rw [hzc]
    rfl
  have hfits : ingRoom s1 c z.block h0 z.dec.frag (p.length - (if hevc then 12 else 20)) = some (h, s1) := by
    rw [hhevc, h0e, hzf, hzb]
    unfold ingRoom
    dsimp only
    rw [hpool, if_neg (by decide), Nat.sub_eq_zero_of_le hroom]
    show some (({ h with bufs := h.bufs ++ [] } : HeldPic), s1) = _
    rw [List.append_nil]
  have hnone : z.dec.cur.isNone = false := by rw [hzc]; rfl
  rw [if_neg (by rw [hnone]; simp), if_neg (by rw [hnone]; simp), if_neg (by rw [hnone]; simp), hfits]
  obtain ⟨hru, hrb, hrf⟩ := hr'
  dsimp only
  rw [hru, hrb, hrf, ← hzh]
  clear_value s1 z
  subst hm
  cases Rtp.marker p with
  | true => exact ⟨m, _, rfl, rfl, rfl⟩
  | false => exact ⟨m, _, rfl, rfl, rfl⟩

/-- A red packet is counted and dropped. -/
theorem ingressPacket_red {x : Ctx} (hp : port < 2) (hu : blockUp s (ethPage port) = true) (hr : rbits s (ethPage port) 0 0x100 1 1 = 1)
    (hm : (s.ctxs.find? fun e => ingMatch port k e.2) = some (c, x)) (hc : (ingColour s x k).1 = 2) : ∃ t y,
    ingressPacket port k s = t ∧ getCtx t c = some y ∧ y.dec.lastSeq = some (Rtp.seq k.payload) ∧ y.dec.cur = x.dec.cur ∧
    y.dec.held = x.dec.held ∧ rgetN t (ethPage port) c 0x40C = min 0xFFFFFFFF (rgetN s (ethPage port) c 0x40C + 1) ∧
    t = { s with ctxs := t.ctxs, regs := t.regs } ∧ ∀ d, d ≠ c → getCtx t d = getCtx s d := by
  obtain ⟨tc, tp, hx⟩ := ingColour_dec s x k
  obtain ⟨hg, hregs⟩ := gapBumped_regs s c x.block x.dec.lastSeq (Rtp.seq k.payload)
  have hport : Db.ingPort x.block = port := ingMatch_port (k := k) (List.find?_some (p := fun e : Nat × Ctx => ingMatch port k e.2) hm)
  refine ⟨_, _, (ingressPacket_match hp hu hr hm).trans (if_pos hc), getCtx_setCtx_self _ _ _, rfl, by rw [hx], by rw [hx], ?_, ?_, fun d hd => ?_⟩
  · show rgetN (ingBump (gapBumped s c x.block x.dec.lastSeq (Rtp.seq k.payload)) c x.block 0x40C 1) _ _ _ = _
    unfold ingBump
    rw [hport, rgetN_bump, hregs _ _ _ (by decide) (by decide)]
  · rw [hg]
    rfl
  · rw [getCtx_setCtx_other _ _ _ d hd]
    unfold getCtx
    rw [hg]
    rfl

/-- A green packet of whole units joins the picture in reassembly. -/
theorem ingressPacket_green {x : Ctx} {h : HeldPic} (hp : port < 2) (hu : blockUp s (ethPage port) = true)
    (hr : rbits s (ethPage port) 0 0x100 1 1 = 1) (hm : (s.ctxs.find? fun e => ingMatch port k e.2) = some (c, x))
    (hc : (ingColour s x k).1 = 0) (hf : Db.format x.block ≠ 1) (hcur : x.dec.cur = some h) (ht : h.tag = Rtp.picTag k.payload)
    (hfr : Rtp.frag k.payload = 0)
    (hroom : cdiv (heldBytes h + fragBytes x.dec.frag + (k.payload.length - 20)) (poolSize s (Db.ingPool x.block)) ≤ h.bufs.length) :
    ∃ t y, ingressPacket port k s = t ∧ getCtx t c = some y ∧
      (if Rtp.marker k.payload then y.dec.cur = none ∧ y.dec.held = x.dec.held ++ [{ joined h k.payload with peMissing := false }]
       else y.dec.held = x.dec.held ∧ y.dec.cur = some (joined h k.payload)) ∧
      t = { s with ctxs := t.ctxs, regs := t.regs } ∧ ∀ d, d ≠ c → getCtx t d = getCtx s d := by
  obtain ⟨tc, tp, hx⟩ := ingColour_dec s x k
  obtain ⟨hg, hregs⟩ := gapBumped_regs s c x.block x.dec.lastSeq (Rtp.seq k.payload)
  have heq := ingressPacket_match (k := k) hp hu hr hm
  rw [if_neg (by rw [hc]; decide), if_neg (by rw [hc]; simp), hx, hc] at heq
  generalize hw : ingBump (gapBumped s c x.block x.dec.lastSeq (Rtp.seq k.payload)) c x.block (if 0 = 0 then 0x404 else 0x408) 1 = w at heq
  obtain ⟨m, hwr⟩ : ∃ m, w = { s with regs := m } := by
    rw [← hw, hg]
    exact ⟨_, rfl⟩
  have hpool : poolSize w (Db.ingPool x.block) = poolSize s (Db.ingPool x.block) := by
    rw [← hw]
    unfold poolSize rbits ingBump
    rw [rgetN_bump_off _ _ _ _ _ _ (by decide) (by decide) (by decide), hregs _ _ _ (by decide) (by decide)]
  obtain ⟨n, y, ht', hy⟩ := ingTake_joins (s := w) (c := c) (p := k.payload) (inSeq := match x.dec.accSeq with
      | some l => Rtp.seq k.payload == (l + 1) % 65536
      | none => true) (x := { x with dec := { x.dec with
        tokC := tc, tokP := tp, tokTick := s.tick, lastSeq := some (Rtp.seq k.payload), accSeq := some (Rtp.seq k.payload) } })
    hf hcur ht hfr (by rw [hpool]; exact hroom)
  refine ⟨_, y, heq.trans ht', getCtx_setCtx_self _ _ _, hy, ?_, fun d hd => ?_⟩
  · rw [hwr]
    rfl
  · rw [getCtx_setCtx_other _ _ _ d hd, hwr]
    rfl

/-- After its time-out the picture in reassembly is held with its end missing. -/
theorem ingressPicTimeout_spec {x : Ctx} {h : HeldPic} (hx : getCtx s c = some x) (hk : x.kind = .decode) (hcur : x.dec.cur = some h)
    (ht : x.dec.lastPkt + nsT (Db.picTmo x.block) ≤ s.dt) : ∃ t y, ingressPicTimeout c s = t ∧ getCtx t c = some y ∧ y.dec.cur = none ∧
    y.dec.frag = none ∧ y.dec.held = x.dec.held ++ [{ h with peMissing := true }] ∧ t = { s with ctxs := t.ctxs, regs := t.regs } := by
  have hclose : ingClose s c x true = (if x.dec.frag.any fun f => !f.bad then ingBump s c x.block 0x418 1 else s,
      { x with dec := { x.dec with cur := none, frag := none, held := x.dec.held ++ [{ h with peMissing := true }] } }) := by
    unfold ingClose
    rw [hcur]
  have he : ingressPicTimeout c s = setCtx (ingClose s c x true).1 c (ingClose s c x true).2 := by
    unfold ingressPicTimeout
    rw [hx]
    exact if_pos ⟨hk, by rw [hcur]; rfl, ht⟩
  rw [hclose] at he
  refine ⟨_, _, he, getCtx_setCtx_self _ _ _, rfl, rfl, rfl, ?_⟩
  split <;> rfl

end

/-- Settles O36: a packet's outcome is that of its colour (`ingressPacket_match`), and a packet of whole units joins the picture with room
(`ingTake_joins`). -/
theorem ingressPackets : Obligations.IngressPackets := by
  unfold Obligations.IngressPackets
  refine ⟨fun s port k ha _ hr => runs_act_to rfl ha (ingressPacket_off hr),
    fun s port k ha hp hu hr hm hk => runs_act_to rfl ha (ingressPacket_unmatched hp hu hr hm hk), ?_, ?_, ?_⟩
  · intro s port k c x ha hp hu hr hm hc
    obtain ⟨t, y, ht, h⟩ := ingressPacket_red hp hu hr hm hc
    exact ⟨t, y, runs_act_to rfl ha ht, h⟩
  · intro s port k c x h ha hp hu hr hm hc hf hcur htag hfr hroom
    obtain ⟨t, y, ht, h⟩ := ingressPacket_green hp hu hr hm hc hf hcur htag hfr hroom
    exact ⟨t, y, runs_act_to rfl ha ht, h⟩
  · intro s c x h ha hx hk hcur ht
    obtain ⟨t, y, ht, h⟩ := ingressPicTimeout_spec hx hk hcur ht
    exact ⟨t, y, runs_act_to rfl ha ht, h⟩

end Sys2Proof.Machine

namespace Sys2Proof.Machine

/-! PROOFS. Commands to a tile and debug reads of its store (R221, R223, R226–R228). -/

section
variable {s : State} {k : Nat}

theorem tileCmd_steward {n : Fin 4} {op : State → State} (hk : k < 104) (h : Accepts s (.steward n) (tilePage k) 0x104) :
    tileCmd (.steward n) k op s = op s := by
  unfold tileCmd
  rw [if_neg (by omega), regOp_accepts _ h]
  exact if_pos rfl

/-- A command that no Steward gives, or whose condition fails, is counted. -/
theorem tileCmd_denied {rq : Requester} {op : State → State} (hk : k < 104) (h : Accepts s rq (tilePage k) 0x104)
    (hd : isSteward rq = false ∨ op s = tileDeny s k) : tileCmd rq k op s = tileDeny s k := by
  unfold tileCmd
  rw [if_neg (by omega), regOp_accepts _ h]
  split
  · next hs =>
    rcases hd with hd | hd
    · rw [hs] at hd; cases hd
    · exact hd
  · rfl

/-- General registers loaded from the resume record. -/
theorem getIx_loaded (x : Tile) (l : List LW) (n i : Nat) :
    getIx ((List.range n).foldl (fun l i => setIx l i (tsGet x (0x12 + i)) 0) l) i 0 = if i < n then tsGet x (0x12 + i) else getIx l i 0 := by
  induction n with
  | zero => rfl
  | succ n ih =>
    rw [List.range_succ, List.foldl_append, List.foldl_cons, List.foldl_nil]
    by_cases h : i = n
    · rw [h, getIx_setIx_same, if_pos (by omega)]
    · rw [getIx_setIx_other _ _ _ _ _ h, ih]
      refine if_congr ?_ rfl rfl
      omega

theorem spend_frame (x : Tile) (n : Nat) (b : Bool) : spend x n b = { x with used := (spend x n b).used, reqAge := (spend x n b).reqAge } := by
  unfold spend
  rfl

/-- The sequencer moves on, through a match register or not: the microaddress changes, and the TCLK counted. -/
theorem goTo_frame (x : Tile) (a : Nat) : goTo x a = { x with upc := (goTo x a).upc, used := (goTo x a).used, reqAge := (goTo x a).reqAge } := by
  unfold goTo
  split
  · rw [spend_frame]
  · rfl

theorem nextWord_frame (x : Tile) :
    nextWord x = { x with upc := (nextWord x).upc, used := (nextWord x).used, reqAge := (nextWord x).reqAge } := goTo_frame _ _

theorem nextWord_keeps (x : Tile) : (nextWord x).run = x.run ∧ (nextWord x).stepping = x.stepping ∧ (nextWord x).g = x.g ∧
    (nextWord x).store = x.store := by
  rw [nextWord_frame]
  exact ⟨rfl, rfl, rfl, rfl⟩

/-- A tile loaded from its resume record (R223). -/
def resumed (x : Tile) : Tile :=
  { x with
    run := 1, stepping := false, g := (List.range 8).foldl (fun l i => setIx l i (tsGet x (0x12 + i)) 0) x.g
    upc := bits (tsGet x 0x10).toNat 16 0
    stack := [bits (tsGet x 0x11).toNat 16 0, bits (tsGet x 0x11).toNat 33 17].take (bits (tsGet x 0x10).toNat 30 29) }

theorem gReg_resumed (x : Tile) (i : Nat) : gReg (resumed x) i = if i < 8 then tsGet x (0x12 + i) else gReg x i := by
  unfold gReg resumed
  dsimp only
  exact getIx_loaded x x.g 8 i

theorem resumeOp_spec (h : (getTile s k).run = 2 ∨ (getTile s k).run = 3) : ∃ x, resumeOp k s = setTile s k x ∧ x.run = 1 ∧ x.stepping = false ∧
    (∀ i, i < 8 → gReg x i = tsGet (getTile s k) (0x12 + i)) ∧ (∀ i, 8 ≤ i → i < 32 → gReg x i = gReg (getTile s k) i) ∧
    x.store = (getTile s k).store := by
  have he : resumeOp k s = setTile s k (nextWord (resumed (getTile s k))) := if_neg (by omega)
  obtain ⟨h1, h2, h3, h4⟩ := nextWord_keeps (resumed (getTile s k))
  have hg : ∀ i, gReg (nextWord (resumed (getTile s k))) i = gReg (resumed (getTile s k)) i := fun i => congrArg (fun l => getIx l i 0) h3
  exact ⟨_, he, h1, h2, fun i hi => (hg i).trans ((gReg_resumed _ _).trans (if_pos hi)),
    fun i hi _ => (hg i).trans ((gReg_resumed _ _).trans (if_neg (by omega))), h4⟩

theorem setTile_others (s : State) (k : Nat) (x : Tile) : getTile (setTile s k x) k = x ∧ ∀ m, m ≠ k → getTile (setTile s k x) m = getTile s m :=
  ⟨(getTile_setTile _ _ _ _).trans (if_pos rfl), fun _ hm => (getTile_setTile _ _ _ _).trans (if_neg hm)⟩

/-- RETIRE of a fenced tile without a job. -/
theorem retireOp_spec (perm : Bool) (hf : (hdr s (tilePage k)).fenced = true) (hj : tileJob s k = none) :
    getTile (retireOp k perm s) k = { getTile s k with enabled := false, run := 6, ungated := false, retired := true } ∧
    isSpare (retireOp k perm s) k = false ∧
    (retireOp k perm s).fuses = (if perm then { s.fuses with retBurnt := s.fuses.retBurnt ||| BitVec.ofNat 104 (2 ^ k) } else s.fuses) ∧
    retireOp k perm s = { s with tiles := (retireOp k perm s).tiles, fuses := (retireOp k perm s).fuses } ∧
    ∀ m, m ≠ k → getTile (retireOp k perm s) m = getTile s m := by
  obtain ⟨h1, h2⟩ := setTile_others s k { getTile s k with enabled := false, run := 6, ungated := false, retired := true }
  have he : retireOp k perm s = if perm then { setTile s k { getTile s k with enabled := false, run := 6, ungated := false, retired := true } with
      fuses := { s.fuses with retBurnt := s.fuses.retBurnt ||| BitVec.ofNat 104 (2 ^ k) } }
      else setTile s k { getTile s k with enabled := false, run := 6, ungated := false, retired := true } := by
    unfold retireOp
    rw [if_neg (by rw [hf]; decide)]
    have hd : (if (tileJob s k).isSome then tileDropJob s k else s) = s := if_neg (by rw [hj]; decide)
    rw [hd]
    rfl
  have hs : ∀ u : State, (getTile u k).retired = true → isSpare u k = false := fun u h => by
    unfold isSpare
    rw [h, Bool.not_true, Bool.and_false]
  rw [he]
  cases perm with
  | true => exact ⟨h1, hs _ (congrArg Tile.retired h1), rfl, rfl, h2⟩
  | false => exact ⟨h1, hs _ (congrArg Tile.retired h1), rfl, rfl, h2⟩

/-- A refused read of the store gives 0 and is counted. -/
theorem tsRead_denied {rq : Requester} {hi : Bool} (hk : k < 104) (hr : readable s (tilePage k) = true)
    (h : debugUnlocked s = false ∨ (getTile s k).run = 1) : tsRead rq k hi s = tileDeny { s with out := 0 } k := by
  unfold tsRead
  dsimp only
  rw [if_neg (by rw [hr]; simp; omega), if_pos (by rcases h with h | h <;> rw [h] <;> simp)]

theorem tsRead_unlocked {rq : Requester} {hi : Bool} (hk : k < 104) (hr : readable s (tilePage k) = true) (hu : debugUnlocked s = true)
    (hn : (getTile s k).run ≠ 1) : tsRead rq k hi s =
      if hi then
        match nget s.latches (latchKey rq (tilePage k) 0x138) with
        | some v => { s with out := v.toNat, latches := ndel s.latches (latchKey rq (tilePage k) 0x138) }
        | none => { (tsWord s k).2 with out := (tsWord s k).1 / 2 ^ 32 }
      else { (tsWord s k).2 with
        out := (tsWord s k).1 % 2 ^ 32
        latches := nset s.latches (latchKey rq (tilePage k) 0x138) (BitVec.ofNat 32 ((tsWord s k).1 / 2 ^ 32)) } := by
  unfold tsRead
  dsimp only
  exact (if_neg (by rw [hr]; simp; omega)).trans (if_neg (by rw [hu]; simpa using hn))

theorem tsWord_in (h : rbits s (tilePage k) 0 0x130 18 0 < tsSize) :
    tsWord s k = ((tsGet (getTile s k) (rbits s (tilePage k) 0 0x130 18 0)).toNat, s) := if_pos h

/-- The low half of a lane word, whose high half waits in the latch. -/
theorem tsRead_low {rq : Requester} (hk : k < 104) (hr : readable s (tilePage k) = true) (hu : debugUnlocked s = true)
    (hn : (getTile s k).run ≠ 1) (ha : rbits s (tilePage k) 0 0x130 18 0 < tsSize) : tsRead rq k false s = { s with
      out := (tsGet (getTile s k) (rbits s (tilePage k) 0 0x130 18 0)).toNat % 2 ^ 32
      latches := nset s.latches (latchKey rq (tilePage k) 0x138)
        (BitVec.ofNat 32 ((tsGet (getTile s k) (rbits s (tilePage k) 0 0x130 18 0)).toNat / 2 ^ 32)) } := by
  rw [tsRead_unlocked hk hr hu hn, tsWord_in ha]
  rfl

theorem tsRead_high {rq : Requester} {v : U32} (hk : k < 104) (hr : readable s (tilePage k) = true) (hu : debugUnlocked s = true)
    (hn : (getTile s k).run ≠ 1) (hl : nget s.latches (latchKey rq (tilePage k) 0x138) = some v) : tsRead rq k true s =
      { s with out := v.toNat, latches := ndel s.latches (latchKey rq (tilePage k) 0x138) } := by
  rw [tsRead_unlocked hk hr hu hn, hl]
  rfl

end

/-- Settles O41: a Steward's command is its own operation (`tileCmd_steward`), any other one is counted (`tileCmd_denied`). -/
theorem tileCommands : Obligations.TileCommands := by
  unfold Obligations.TileCommands
  refine ⟨?_, ?_, ?_, ?_, ?_, ?_, ?_, fun s rq k hk hr hu hn ha => runs_next rfl (tsRead_low hk hr hu hn ha),
    fun s rq k hi hk hr h => runs_next rfl (tsRead_denied hk hr h), fun s rq k v hk hr hu hn hl => runs_next rfl (tsRead_high hk hr hu hn hl)⟩
  · intro s n k hk hacc hb hkind
    refine runs_next rfl ((tileCmd_steward hk hacc).trans ?_)
    exact (if_neg (by rw [hb]; decide)).trans (if_neg (not_not.mpr hkind))
  · intro s n k hk hacc hb hu hp
    refine runs_next rfl ((tileCmd_steward hk hacc).trans ?_)
    exact (if_neg (by rw [hb]; decide)).trans (if_neg (by rw [hu, hp]; decide))
  · intro s n k hk hacc hrun
    obtain ⟨x, hx, h1, h2, h3, h4, h5⟩ := resumeOp_spec hrun
    obtain ⟨hg, ho⟩ := setTile_others s k x
    refine ⟨_, runs_next rfl ((tileCmd_steward hk hacc).trans hx), ?_, ?_, ?_, ?_, ?_, rfl, ho⟩
    all_goals rw [hg]; assumption
  · exact fun s n k hk hacc hrun => runs_next rfl ((tileCmd_steward hk hacc).trans (if_neg (not_not.mpr hrun)))
  · exact fun s n k perm hk hacc hf hj => ⟨_, runs_next rfl (tileCmd_steward hk hacc), retireOp_spec perm hf hj⟩
  · intro s n k hk hacc hs hl hn
    exact runs_next rfl ((tileCmd_steward hk hacc).trans (if_pos (by rw [hs, hl]; simpa using hn)))
  · rintro s rq k c hk hacc (⟨hs, hc⟩ | ⟨rfl, hr⟩ | ⟨rfl, h2, h3⟩ | ⟨rfl, hf⟩ | ⟨rfl, hs⟩)
    · simp only [List.mem_cons, List.not_mem_nil, or_false] at hc
      rcases hc with rfl | rfl | rfl | rfl | rfl | rfl | rfl
      all_goals exact runs_next rfl (tileCmd_denied hk hacc (.inl hs))
    · exact runs_next rfl (tileCmd_denied hk hacc (.inr (if_pos hr)))
    · exact runs_next rfl (tileCmd_denied hk hacc (.inr (if_pos ⟨h2, h3⟩)))
    · exact runs_next rfl (tileCmd_denied hk hacc (.inr (if_pos (by rw [hf]; rfl))))
    · exact runs_next rfl (tileCmd_denied hk hacc (.inr (if_neg (by rw [hs]; simp))))

end Sys2Proof.Machine

namespace Sys2Proof.Machine

/-! PROOFS. Safe points, budgets and machine checks of a tile (R214, R221–R225). -/

/-- `t` keeps the tiles of `s` and what is noted of each page (pending events, fault sources, a fence), and has no new job. -/
structure Marks (s t : State) : Prop where
  tiles : t.tiles = s.tiles
  jobs : ∀ i ∈ t.jobs, i ∈ s.jobs
  pend : ∀ p b, (hdr s p).evtPend.getLsbD b = true → (hdr t p).evtPend.getLsbD b = true
  src : ∀ p b, (hdr s p).fltSrc.getLsbD b = true → (hdr t p).fltSrc.getLsbD b = true
  fence : ∀ p, (hdr s p).fenced = true → (hdr t p).fenced = true

section
variable {s₀ s t : State}

namespace Marks

protected theorem refl (s : State) : Marks s s := ⟨rfl, fun _ h => h, fun _ _ h => h, fun _ _ h => h, fun _ h => h⟩

protected theorem trans (h : Marks s₀ s) (g : Marks s t) : Marks s₀ t :=
  ⟨g.tiles.trans h.tiles, fun i hi => h.jobs i (g.jobs i hi), fun p b hb => g.pend p b (h.pend p b hb),
    fun p b hb => g.src p b (h.src p b hb), fun p hb => g.fence p (h.fence p hb)⟩

/-- The headers and the tiles stand, and no job is new. -/
theorem of_hdrs (hh : t.hdrs = s.hdrs) (ht : t.tiles = s.tiles) (hj : ∀ i ∈ t.jobs, i ∈ s.jobs) : Marks s t := by
  have hp : ∀ p, hdr t p = hdr s p := fun p => by unfold hdr; rw [hh]
  exact ⟨ht, hj, fun p b hb => by rw [hp]; exact hb, fun p b hb => by rw [hp]; exact hb, fun p hb => by rw [hp]; exact hb⟩

protected theorem upd (h : Marks s₀ s) (e : (t.hdrs, t.tiles, t.jobs) = (s.hdrs, s.tiles, s.jobs)) : Marks s₀ t := by
  simp only [Prod.mk.injEq] at e
  obtain ⟨hh, ht, hj⟩ := e
  exact h.trans (of_hdrs hh ht (hj ▸ fun _ hi => hi))

protected theorem noted (h : Marks s₀ s) (g : Noted s t) : Marks s₀ t := by
  refine h.trans ⟨?_, ?_, g.pend, g.src, g.fence⟩
  · rw [g.frame]
  · rw [g.frame]
    exact fun _ hi => hi

theorem getTile (h : Marks s t) (k : Nat) : getTile t k = getTile s k := by
  unfold Machine.getTile
  rw [h.tiles]

protected theorem ite {c : Prop} [Decidable c] (h : Marks s₀ s) (g : Marks s₀ t) : Marks s₀ (if c then s else t) := by
  split <;> assumption

protected theorem foldl {α : Type} {f : State → α → State} {l : List α} (h : Marks s₀ s) (hf : ∀ u x, Marks s₀ u → Marks s₀ (f u x)) :
    Marks s₀ (l.foldl f s) :=
  List.foldlRecOn l f h fun u hu x _ => hf u x hu

end Marks

protected theorem Marks.setEvt {page bit : Nat} (hs : Marks s₀ s) : Marks s₀ (setEvt s page bit) := hs.noted (setEvt_noted _ _ _)

protected theorem Marks.evG {ev : Nat} (hs : Marks s₀ s) : Marks s₀ (evG ev s) := hs.noted (evG_told _ _).noted

protected theorem Marks.raiseFault {page src info : Nat} (hs : Marks s₀ s) : Marks s₀ (raiseFault s page src info) :=
  hs.noted (raiseFault_noted _ _ _ _)

protected theorem Marks.mgmtTo {dst : Nat} {msg : List Byte} (hs : Marks s₀ s) : Marks s₀ (mgmtTo s dst msg) :=
  hs.upd (by rw [((Sends.refl s).mgmtTo (dst := dst) (msg := msg)).frame])

protected theorem Marks.fifoStore {f : Nat} {x : Fifo} (hs : Marks s₀ s) : Marks s₀ (fifoStore s f x) := hs.upd (by rw [fifoStore_frame])

protected theorem Marks.rput {page bank off : Nat} {v : U32} (hs : Marks s₀ s) : Marks s₀ (rput s page bank off v) := hs.upd rfl

protected theorem Marks.rputN {page bank off v : Nat} (hs : Marks s₀ s) : Marks s₀ (rputN s page bank off v) := by
  unfold rputN
  exact hs.rput

protected theorem Marks.rput64 {page bank off v : Nat} (hs : Marks s₀ s) : Marks s₀ (rput64 s page bank off v) := by
  unfold rput64
  exact hs.rputN.rputN

protected theorem Marks.bump {page bank off n : Nat} (hs : Marks s₀ s) : Marks s₀ (bump s page bank off n) := by
  unfold bump
  exact hs.rputN

protected theorem Marks.setCtx {c : Nat} {x : Ctx} (hs : Marks s₀ s) : Marks s₀ (setCtx s c x) := hs.upd rfl

protected theorem Marks.setPool {p : Nat} {x : Pool} (hs : Marks s₀ s) : Marks s₀ (setPool s p x) := hs.upd rfl

protected theorem Marks.setRes {r : Nat} {x : GrnRes} (hs : Marks s₀ s) : Marks s₀ (setRes s r x) := hs.upd rfl

protected theorem Marks.grnDone {r code nfreed : Nat} {addr : Option Nat} (hs : Marks s₀ s) :
    Marks s₀ (grnDone s r code nfreed addr) := by
  unfold grnDone
  extract_lets +onlyGivenNames x
  exact hs.setRes.setEvt

protected theorem Marks.answerWaiter {w : Waiter} {code addr : Nat} (hs : Marks s₀ s) : Marks s₀ (answerWaiter s w code addr) := by
  unfold answerWaiter
  split
  · exact hs.grnDone
  · exact hs.mgmtTo

protected theorem Marks.xreqContend {p : Nat} (hs : Marks s₀ s) : Marks s₀ (xreqContend s p) := by
  unfold xreqContend
  extract_lets +onlyGivenNames x
  refine Marks.ite ?_ ?_
  · split
    · exact hs.setPool.evG.answerWaiter.bump
    · exact hs
  · exact hs

protected theorem Marks.testHead {p : Nat} (hs : Marks s₀ s) : Marks s₀ (testHead s p) := by
  unfold testHead
  extract_lets +onlyGivenNames s' x
  have hs' : Marks s₀ s' := hs.xreqContend
  clear_value s'
  split
  · exact hs'
  · split
    · exact hs'.setPool.evG.answerWaiter
    · exact hs'

protected theorem Marks.rejectFree {p a o code : Nat} (hs : Marks s₀ s) : Marks s₀ (rejectFree s p a o code) := by
  unfold rejectFree
  extract_lets +onlyGivenNames off src s1 s2
  have hs1 : Marks s₀ s1 := hs.bump
  clear_value s1
  have hs2 : Marks s₀ s2 := hs1.rputN
  clear_value s2
  exact hs2.rput64.raiseFault

protected theorem Marks.grnFree {p a o : Nat} (hs : Marks s₀ s) : Marks s₀ (grnFree s p a o).2 := by
  unfold grnFree
  extract_lets +onlyGivenNames code
  split
  · dsimp only
    exact hs.setPool.testHead
  · split
    · dsimp only
      exact hs
    · dsimp only
      exact hs.rejectFree.testHead

protected theorem Marks.freeBuf {c : Nat} {b : Option (Nat × Nat)} (hs : Marks s₀ s) : Marks s₀ (freeBuf s c b) := by
  unfold freeBuf
  split
  · exact hs.grnFree
  · exact hs

protected theorem Marks.freeRect {w h d : Nat} (hs : Marks s₀ s) : Marks s₀ (freeRect s w h d).2 := by
  unfold freeRect
  dsimp only
  exact hs.upd rfl

protected theorem Marks.picCoded {c id : Nat} (hs : Marks s₀ s) : Marks s₀ (picCoded s c id) := by
  unfold picCoded
  split
  · exact hs
  · split
    · exact hs
    · refine Marks.ite ?_ ?_
      · exact hs
      · extract_lets +onlyGivenNames n x1 s1
        have hs1 : Marks s₀ s1 := (Marks.setCtx (hs.upd rfl))
        clear_value s1
        exact Marks.ite hs1 hs1.setCtx

protected theorem Marks.lostOuts {p : Pic} {j : Job} (hs : Marks s₀ s) : Marks s₀ (lostOuts s p j).2 := by
  unfold lostOuts
  exact List.foldlRecOn (motive := fun a : List SegOut × State => Marks s₀ a.2) _ _ hs fun _ hu _ _ =>
    Marks.freeRect (d := Ct.depth p.cfg) hu

protected theorem Marks.jobOut {c : Nat} {x : Ctx} {p : Pic} {j : Job} {outs : List SegOut} {lost : Bool} (hs : Marks s₀ s) :
    Marks s₀ (jobOut s c x p j outs lost) := by
  unfold jobOut
  extract_lets n ok upd p1 x1 r
  refine Marks.picCoded (hs.trans (Marks.of_hdrs rfl rfl ?_))
  exact fun i hi => (List.mem_filter.mp hi).1

/-- A job lost is gone from the list. -/
theorem loseJob_marks (s : State) (j : Job) (cause : Nat) : Marks { s with jobs := s.jobs.filter fun i => i.id != j.id } (loseJob s j cause) := by
  unfold loseJob
  extract_lets s0 f
  change Marks s0 _
  have h0 : Marks s0 s0 := .refl s0
  split
  · split
    · split
      · exact h0.upd rfl
      · exact h0
    · exact h0
  · split
    · exact h0.freeBuf
    · extract_lets p1 x1 l cut l2
      have hl : Marks s0 l.2 := Marks.lostOuts (Marks.upd (t := f.2) h0 rfl)
      clear_value l
      split
      · split
        · exact hl.freeBuf.jobOut
        · refine Marks.jobOut ?_
          exact hl.upd rfl
      · exact hl.freeBuf.jobOut

theorem loseJob_gone (s : State) (j : Job) (cause : Nat) : ∀ i ∈ (loseJob s j cause).jobs, i.id ≠ j.id := fun i hi => by
  simpa using (List.mem_filter.mp ((loseJob_marks s j cause).jobs i hi)).2

theorem filterJobs_marks (s : State) (j : Job) : Marks s { s with jobs := s.jobs.filter fun i => i.id != j.id } :=
  .of_hdrs rfl rfl fun _ hi => (List.mem_filter.mp hi).1

protected theorem Marks.loseJob {j : Job} {cause : Nat} (hs : Marks s₀ s) : Marks s₀ (loseJob s j cause) :=
  (hs.trans (filterJobs_marks s j)).trans (loseJob_marks s j cause)

/-! ## A tile set free (R68) -/

/-- A snapshot of a tile's page writes registers and the generation of its commit. -/
theorem snapApply_tile_marks {n : Snap} {i : Nat} (h : pageAt n.page = some (.tile, i)) : Marks s (snapApply s n) := by
  have hgen : ∀ (u : State) g, Marks u (genSet u n.page g) := fun u g => by
    have hp : ∀ p, (hdr (genSet u n.page g) p).evtPend = (hdr u p).evtPend ∧ (hdr (genSet u n.page g) p).fltSrc = (hdr u p).fltSrc ∧
        (hdr (genSet u n.page g) p).fenced = (hdr u p).fenced := fun p => by
      unfold genSet
      rw [hdr_setHdr]
      split
      · next e => rw [e]; exact ⟨rfl, rfl, rfl⟩
      · exact ⟨rfl, rfl, rfl⟩
    exact ⟨rfl, fun _ hi => hi, fun p b hb => by rw [(hp p).1]; exact hb, fun p b hb => by rw [(hp p).2.1]; exact hb,
      fun p hb => by rw [(hp p).2.2]; exact hb⟩
  unfold snapApply
  simp only [h]
  refine Marks.trans ?_ (hgen _ _)
  exact Marks.of_hdrs rfl rfl fun _ hi => hi

theorem applySnaps_tile_marks {k : Nat} (h : k < 104) (s : State) : Marks s (applySnaps s fun n => n.page == tilePage k) := by
  unfold applySnaps
  refine List.foldlRecOn _ _ (Marks.refl s) fun u hu n hn => ?_
  have hpage : n.page = tilePage k := by simpa using (List.mem_filter.mp hn).2
  exact hu.trans (snapApply_tile_marks (hpage ▸ pageAt_tilePage h))

/-- A tile set free: idle, without job or request, what its last machine check recorded kept. -/
theorem tileFree_spec {k : Nat} (h : k < 104) (s : State) : ((getTile (tileFree s k) k).run = 0 ∧ (getTile (tileFree s k) k).job = none ∧
      reqPending (getTile (tileFree s k) k) = false ∧ (getTile (tileFree s k) k).mchk = (getTile s k).mchk ∧
      (getTile (tileFree s k) k).mchkU = (getTile s k).mchkU ∧ (getTile (tileFree s k) k).mchkTs = (getTile s k).mchkTs) ∧
    (∀ m, m ≠ k → getTile (tileFree s k) m = getTile s m) ∧ (∀ i ∈ (tileFree s k).jobs, i ∈ s.jobs) ∧
    (∀ p b, (hdr s p).evtPend.getLsbD b = true → (hdr (tileFree s k) p).evtPend.getLsbD b = true) ∧
    (∀ p b, (hdr s p).fltSrc.getLsbD b = true → (hdr (tileFree s k) p).fltSrc.getLsbD b = true) ∧
    ∀ p, (hdr s p).fenced = true → (hdr (tileFree s k) p).fenced = true := by
  have hm := applySnaps_tile_marks h (setTile s k { getTile s k with
    run := 0, job := none, kind := 0, ctx := 0x7FF, budget := none, used := 0, wait := none, stack := []
    reqP := false, reqH := false, reqA := false, reqB := false, reqAge := 0, stepping := false, poisonFlag := false, toFlag := false
    idleAt := s.tick })
  obtain ⟨hself, hother⟩ := setTile_others s k { getTile s k with
    run := 0, job := none, kind := 0, ctx := 0x7FF, budget := none, used := 0, wait := none, stack := []
    reqP := false, reqH := false, reqA := false, reqB := false, reqAge := 0, stepping := false, poisonFlag := false, toFlag := false
    idleAt := s.tick }
  unfold tileFree
  refine ⟨?_, fun m hne => (hm.getTile m).trans (hother m hne), hm.jobs, hm.pend, hm.src, hm.fence⟩
  rw [hm.getTile, hself]
  exact ⟨rfl, rfl, rfl, rfl, rfl, rfl⟩

/-! ## The machine check (R225) -/

/-- The tile stops with its cause, its microaddress and its lane word, its job has ended, and its page has the event, the fault and the fence. -/
structure Stopped (s t : State) (k cause word : Nat) : Prop where
  run : (getTile t k).run = 4
  mchk : (getTile t k).mchk = cause
  mchkU : (getTile t k).mchkU = (getTile s k).upc
  mchkTs : (getTile t k).mchkTs = word
  job : (getTile t k).job = none
  fenced : (hdr t (tilePage k)).fenced = true
  src : (hdr t (tilePage k)).fltSrc.getLsbD 0 = true
  pend : (hdr t (tilePage k)).evtPend.getLsbD 1 = true
  gone : ∀ j, tileJob s k = some j → ∀ i ∈ t.jobs, i.id ≠ j.id
  others : ∀ m, m ≠ k → getTile t m = getTile s m

theorem tileJob_congr {k : Nat} (hj : (getTile t k).job = (getTile s k).job) (h : t.jobs = s.jobs) : tileJob t k = tileJob s k := by
  unfold tileJob
  rw [hj, h]

theorem tileMchk_stopped {k : Nat} (h : k < 104) (s : State) (cause addr : Nat) : Stopped s (tileMchk s k cause addr) k (cause % 256)
    (if cause = 4 ∨ cause = 9 then addr % 2 ^ 19 else 0) := by
  unfold tileMchk
  extract_lets x s1 s2 s3
  obtain ⟨hself, hother⟩ := setTile_others s k { x with
    mchk := cause % 256, mchkU := x.upc, mchkTs := if cause = 4 ∨ cause = 9 then addr % 2 ^ 19 else 0 }
  have h1 : Noted (setTile s k { x with
      mchk := cause % 256, mchkU := x.upc, mchkTs := if cause = 4 ∨ cause = 9 then addr % 2 ^ 19 else 0 }) s1 := setEvt_noted _ _ _
  have hn2 : Noted s1 s2 := (raiseFault_noted _ _ _ _).trans (fencePage_noted _ _)
  have h2 : Marks s1 s2 := (Marks.refl s1).noted hn2
  have hp1 : (hdr s1 (tilePage k)).evtPend.getLsbD 1 = true := setEvt_pend _ _ _ (by decide)
  have hf2 : (hdr s2 (tilePage k)).fenced = true := by
    show (hdr (fencePage _ _) _).fenced = true
    unfold fencePage
    rw [hdr_setHdr, if_pos rfl]
  have hs2 : (hdr s2 (tilePage k)).fltSrc.getLsbD 0 = true :=
    (fencePage_noted _ _).src _ _ (raiseFault_src (pageAt_tilePage h) (by decide) (by decide))
  have h12 : Marks (setTile s k { x with
      mchk := cause % 256, mchkU := x.upc, mchkTs := if cause = 4 ∨ cause = 9 then addr % 2 ^ 19 else 0 }) s2 :=
    ((Marks.refl _).noted h1).trans h2
  have hjobs : s2.jobs = s.jobs := by rw [hn2.frame, h1.frame]; rfl
  have hjob : tileJob s2 k = tileJob s k := tileJob_congr (by rw [h12.getTile, hself]) hjobs
  have h3 : Marks s2 s3 := by
    unfold s3
    split
    · exact (Marks.refl s2).loseJob
    · exact .refl s2
  have hgone : ∀ j, tileJob s k = some j → ∀ i ∈ s3.jobs, i.id ≠ j.id := fun j hj => by
    unfold s3
    rw [hjob, hj]
    exact loseJob_gone _ _ _
  clear_value s3
  obtain ⟨⟨-, fjob, -, fm, fu, fw⟩, fother, fjobs, fpend, fsrc, ffence⟩ := tileFree_spec h s3
  obtain ⟨gself, gother⟩ := setTile_others (tileFree s3 k) k { getTile (tileFree s3 k) k with run := 4 }
  have h3t : getTile s3 k = _ := (h3.getTile k).trans ((h12.getTile k).trans hself)
  refine ⟨by rw [gself], ?_, ?_, ?_, ?_, ffence _ (h3.fence _ hf2), fsrc _ _ (h3.src _ _ hs2), fpend _ _ (h3.pend _ _ (h2.pend _ _ hp1)),
    fun j hj i hi => hgone j hj i (fjobs i hi), fun m hm => ?_⟩
  · rw [gself]
    exact fm.trans (by rw [h3t])
  · rw [gself]
    exact fu.trans (by rw [h3t])
  · rw [gself]
    exact fw.trans (by rw [h3t])
  · rw [gself]
    exact fjob
  · rw [gother m hm, fother m hm, h3.getTile, h12.getTile, hother m hm]

/-! ## The tile store -/

theorem tsGet_tsPut (x : Tile) (a b : Nat) (w : LW) : tsGet (tsPut x a w) b = if b = a then w else tsGet x b := by
  unfold tsGet tsPut
  dsimp only
  split
  · next h0 =>
    unfold ngetD
    rw [nget_ndel]
    split
    · exact h0.symm
    · rfl
  · exact ngetD_nset _ _ _ _ _

theorem tsPutAll_frame (x : Tile) (a : Nat) (l : List LW) :
    tsPutAll x a l = { x with store := (tsPutAll x a l).store, poison := (tsPutAll x a l).poison } := by
  induction l generalizing x a with
  | nil => rfl
  | cons w l ih =>
    unfold tsPutAll
    have h := ih (tsPut x a w) (a + 1)
    exact h

/-- Consecutive lane words written. -/
theorem tsGet_tsPutAll (x : Tile) (a b : Nat) (l : List LW) :
    tsGet (tsPutAll x a l) b = if a ≤ b ∧ b < a + l.length then l.getD (b - a) 0 else tsGet x b := by
  induction l generalizing x a with
  | nil => rw [if_neg (by simp)]; rfl
  | cons w l ih =>
    unfold tsPutAll
    rw [ih, tsGet_tsPut, List.length_cons]
    by_cases h : b = a
    · rw [if_neg (by omega), if_pos h, if_pos (by omega), h, Nat.sub_self]
      rfl
    · rw [if_neg h]
      by_cases hb : a + 1 ≤ b ∧ b < a + 1 + l.length
      · rw [if_pos hb, if_pos (by omega), show b - a = (b - (a + 1)) + 1 by omega]
        rfl
      · rw [if_neg hb, if_neg (by omega)]

/-- The first word of a resume record (R223). -/
theorem tsGet_putRecord (x : Tile) (req : Nat) : tsGet (putRecord x req) 0x10 =
    BitVec.ofNat 36 (x.upc + x.opaddr * 2 ^ 17 + req * 2 ^ 27 + x.stack.length * 2 ^ 29) := by
  unfold putRecord
  rw [tsGet_tsPutAll, if_pos ⟨Nat.le_refl _, by unfold resumeRec; simp⟩, Nat.sub_self]
  rfl

theorem putRecord_frame (x : Tile) (req : Nat) :
    putRecord x req = { x with store := (putRecord x req).store, poison := (putRecord x req).poison } := tsPutAll_frame _ _ _

/-! ## Safe points (R221, R223) -/

/-- SAFEPT without a request. -/
theorem safePoint_none {k : Nat} (h : reqPending (getTile s k) = false) : safePoint k s = setTile s k (nextWord (spend (getTile s k) 1 true)) := by
  have hr := h
  unfold reqPending at hr
  simp only [Bool.or_eq_false_iff] at hr
  obtain ⟨⟨⟨hp, hh⟩, ha⟩, hb⟩ := hr
  unfold safePoint
  dsimp only
  rw [h, ha, hb, hh, hp]
  rfl

theorem arbTake_marks (s : State) (key r n : Nat) : Marks s (arbTake s key r n) := .of_hdrs rfl rfl fun _ hi => hi

/-- The port's grant to a record leaves tiles, headers and jobs. -/
theorem safePort_frame (s : State) (b : Bool) (key n : Nat) : ∃ l, (if b then arbTake s key 0 n else s) = { s with arbs := l } := by
  split
  · exact ⟨_, rfl⟩
  · exact ⟨s.arbs, rfl⟩

/-- SAFEPT with a request takes it after the port's grant. -/
theorem safePoint_takes (k : Nat) (s : State) : ∃ u, (∃ l, u = { s with arbs := l }) ∧ safePoint k s =
    (if (getTile s k).reqA || (getTile s k).reqB then takeAbort u k
      else if (getTile s k).reqH then
        evT k 0x00A <| setEvt (setTile u k { putRecord (spend (getTile s k) 12 true) 2 with
          run := 3, reqH := false, reqAge := 0, stepping := false }) (tilePage k) 3
      else if (getTile s k).reqP then
        evT k 0x00A <| setEvt (setTile u k { putRecord (spend (getTile s k) 12 true) 1 with run := 2, reqP := false, reqAge := 0 }) (tilePage k) 2
      else setTile u k (nextWord (spend (getTile s k) 1 true))) :=
  ⟨_, safePort_frame s (reqPending (getTile s k)) (128 + k) (rbits s tkbPg 0 0x200 6 0), rfl⟩

/-- A tile written with an event of its page, seen after the counters. -/
theorem setTile_told {k bit ev : Nat} (hk : k < 104) (hb : bit < 32) (u : State) (x : Tile) :
    getTile (evT k ev (setEvt (setTile u k x) (tilePage k) bit)) k = x ∧
    (∀ m, m ≠ k → getTile (evT k ev (setEvt (setTile u k x) (tilePage k) bit)) m = getTile u m) ∧
    (hdr (evT k ev (setEvt (setTile u k x) (tilePage k) bit)) (tilePage k)).evtPend.getLsbD bit = true ∧
    (evT k ev (setEvt (setTile u k x) (tilePage k) bit)).jobs = u.jobs := by
  obtain ⟨h1, h2⟩ := setTile_others u k x
  have hm : Told (setEvt (setTile u k x) (tilePage k) bit) (evT k ev (setEvt (setTile u k x) (tilePage k) bit)) := evT_told k _ _ (by omega)
  have ht : Marks (setTile u k x) (evT k ev (setEvt (setTile u k x) (tilePage k) bit)) := ((Marks.refl _).setEvt).noted hm.noted
  refine ⟨(ht.getTile k).trans h1, fun m hne => (ht.getTile m).trans (h2 m hne), hm.pend _ _ (setEvt_pend _ _ _ hb), ?_⟩
  rw [hm.frame, setEvt_frame]
  rfl

theorem timeoutJob_marks (s : State) (j : Job) (ends : Bool) :
    Marks (if ends then { s with jobs := s.jobs.filter fun i => i.id != j.id } else s) (timeoutJob s j ends) := by
  unfold timeoutJob
  extract_lets s0
  change Marks s0 _
  have h0 : Marks s0 s0 := .refl s0
  split
  · split
    · exact h0.setCtx
    · exact h0
  · exact h0

protected theorem Marks.timeoutJob {j : Job} {ends : Bool} (hs : Marks s₀ s) : Marks s₀ (timeoutJob s j ends) := by
  refine Marks.trans ?_ (timeoutJob_marks s j ends)
  split
  · exact hs.trans (filterJobs_marks s j)
  · exact hs

/-- The job of a tile that takes an abort: lost to a host's abort, ended by its spent budget. -/
def abortJob (s : State) (x : Tile) (j : Job) : State :=
  if x.reqA then loseJob (if x.reqB then timeoutJob s j (!x.reqA) else s) j 0 else if x.reqB then timeoutJob s j (!x.reqA) else s

theorem abortJob_marks (s : State) (x : Tile) (j : Job) : Marks s (abortJob s x j) := by
  have h : Marks s (if x.reqB then timeoutJob s j (!x.reqA) else s) := by
    split
    · exact (Marks.refl s).timeoutJob
    · exact .refl s
  unfold abortJob
  split
  · exact h.loseJob
  · exact h

theorem abortJob_gone {x : Tile} (h : x.reqA = true ∨ x.reqB = true) (s : State) (j : Job) : ∀ i ∈ (abortJob s x j).jobs, i.id ≠ j.id := by
  unfold abortJob
  split
  · exact loseJob_gone _ _ _
  · next ha =>
    have ha' : x.reqA = false := by simpa using ha
    rw [if_pos (by simpa [ha'] using h), ha']
    exact fun i hi => by simpa using (List.mem_filter.mp ((timeoutJob_marks s j true).jobs i hi)).2

/-- A tile that takes an abort is free, and its job is gone. -/
theorem takeAbort_spec {k : Nat} (hk : k < 104) (h : (getTile s k).reqA = true ∨ (getTile s k).reqB = true) :
    (getTile (takeAbort s k) k).run = 0 ∧ (getTile (takeAbort s k) k).job = none ∧ reqPending (getTile (takeAbort s k) k) = false ∧
      (∀ j, tileJob s k = some j → ∀ i ∈ (takeAbort s k).jobs, i.id ≠ j.id) ∧ ∀ m, m ≠ k → getTile (takeAbort s k) m = getTile s m := by
  unfold takeAbort
  extract_lets x s1 s2
  obtain ⟨hself, hother⟩ := setTile_others s k (putRecord (spend x 12 true) 3)
  have hjob : tileJob s1 k = tileJob s k :=
    tileJob_congr ((congrArg Tile.job hself).trans (by rw [putRecord_frame, spend_frame])) rfl
  have h2 : Marks s1 s2 ∧ ∀ j, tileJob s k = some j → ∀ i ∈ s2.jobs, i.id ≠ j.id := by
    unfold s2
    rw [hjob]
    cases hj : tileJob s k with
    | none => exact ⟨.refl s1, nofun⟩
    | some j => exact ⟨abortJob_marks s1 x j, fun j' e => Option.some.inj e ▸ abortJob_gone h s1 j⟩
  clear_value s2
  obtain ⟨hm2, hgone⟩ := h2
  obtain ⟨⟨frun, fjob, freq, -, -⟩, fother, fjobs, -⟩ := tileFree_spec hk s2
  have hn : Noted (tileFree s2 k) (evT k 0x00B (evT k 0x00A (setEvt (tileFree s2 k) (tilePage k) 0))) :=
    ((setEvt_noted _ _ _).trans (evT_told k _ _ (by omega)).noted).trans (evT_told k _ _ (by omega)).noted
  have ht := (Marks.refl _).noted hn
  refine ⟨?_, ?_, ?_, fun j hj i hi => hgone j hj i (fjobs i (ht.jobs i hi)), fun m hm => ?_⟩
  · rw [ht.getTile]; exact frun
  · rw [ht.getTile]; exact fjob
  · rw [ht.getTile]; exact freq
  · rw [ht.getTile, fother m hm, hm2.getTile]; exact hother m hm

/-! ## The time-out of a request, the budget (R214, R222) -/

/-- What a running WAIT is charged up to its `n`-th TCLK. -/
theorem waitSpend_eq (s : State) (k : Nat) (w : WaitSt) (n : Nat) : ∃ f a, waitSpend s k w n =
    ({ getTile s k with used := if waitCounts (getTile s k) w.exp then (getTile s k).used + n else (getTile s k).used, reqAge := a },
      { s with freeCtr := f }) := by
  unfold waitSpend
  dsimp only
  split
  · exact ⟨s.freeCtr, _, rfl⟩
  · split
    · exact ⟨_, _, rfl⟩
    · exact ⟨s.freeCtr, (getTile s k).reqAge, rfl⟩

/-- A budget reached in a WAIT: the TCLK up to then are counted, and the tile waits on. -/
theorem reachBudget_wait {k b : Nat} {w : WaitSt} (hw : (getTile s k).wait = some w) : ∃ f a v, reachBudget s k b =
    setTile { s with freeCtr := f } k { getTile s k with
      used := if waitCounts (getTile s k) w.exp then (getTile s k).used + (b - (getTile s k).used) else (getTile s k).used
      reqAge := a, wait := some v } := by
  obtain ⟨f, a, e⟩ := waitSpend_eq s k w (b - (getTile s k).used)
  refine ⟨f, a, { w with gone := w.gone + (b - (getTile s k).used), req := w.req || reqPending (getTile s k) }, ?_⟩
  unfold reachBudget
  dsimp only
  split
  · next w' hw' =>
    cases Option.some.inj (hw.symm.trans hw')
    rw [e]
  · next hw' => exact nomatch hw.symm.trans hw'

/-- A budget reached outside a WAIT. -/
theorem reachBudget_running {k : Nat} (b : Nat) (hw : (getTile s k).wait = none) : reachBudget s k b = s := by
  unfold reachBudget
  dsimp only
  split
  · next w' hw' => exact nomatch hw.symm.trans hw'
  · rfl

/-- A budget reached leaves the tile's job and its microaddress, the other tiles and the jobs. -/
theorem reachBudget_keeps (s : State) (k b : Nat) : (getTile (reachBudget s k b) k).upc = (getTile s k).upc ∧
    (∀ m, m ≠ k → getTile (reachBudget s k b) m = getTile s m) ∧ tileJob (reachBudget s k b) k = tileJob s k := by
  cases hw : (getTile s k).wait with
  | none =>
    rw [reachBudget_running b hw]
    exact ⟨rfl, fun _ _ => rfl, rfl⟩
  | some w =>
    obtain ⟨f, a, v, e⟩ := reachBudget_wait (b := b) hw
    rw [e]
    obtain ⟨hself, hother⟩ := setTile_others { s with freeCtr := f } k { getTile s k with
      used := if waitCounts (getTile s k) w.exp then (getTile s k).used + (b - (getTile s k).used) else (getTile s k).used
      reqAge := a, wait := some v }
    exact ⟨by rw [hself], hother, tileJob_congr (by rw [hself]) rfl⟩

/-- The TCLK left in a counted WAIT, which a budget may reach. -/
def budgetRoom (x : Tile) : Nat := if x.wait.any fun w => waitCounts x w.exp then waitLeft x else 0

theorem budgetEnds_encode {k b : Nat} (hr : tileRuns s k = true) (hk : (getTile s k).kind = 0) (hb : (getTile s k).budget = some b)
    (hle : b ≤ (getTile s k).used + budgetRoom (getTile s k)) : budgetEnds k s = tileMchk (reachBudget s k b) k 7 0 := by
  unfold budgetEnds
  dsimp only
  rw [hr, if_pos rfl, hb, hk]
  exact if_neg (Nat.not_lt.mpr hle)

theorem budgetEnds_decode {k b : Nat} (hr : tileRuns s k = true) (hk : (getTile s k).kind = 1) (hb : (getTile s k).budget = some b)
    (hle : b ≤ (getTile s k).used + budgetRoom (getTile s k)) : budgetEnds k s = setTile (reachBudget s k b) k { getTile (reachBudget s k b) k with
      reqB := true, wait := (getTile (reachBudget s k b) k).wait.map fun w => { w with req := true } } := by
  unfold budgetEnds
  dsimp only
  rw [hr, if_pos rfl, hb, hk]
  exact if_neg (Nat.not_lt.mpr hle)

end

/-! ## The obligation -/

/-- The state on which SAFEPT acts: the microword and the safe point are counted. -/
theorem runs_safept {s : State} {k : Nat} (ha : alive s = true) (hm : microOk s k (mopWord 0x0D []) = true) :
    k < 104 ∧ ∃ u, Told s u ∧ (∀ m, getTile u m = getTile s m) ∧ Runs (.safept k) s (safePoint k u) := by
  have hk : k < 104 := lt_of_microOk hm
  have hu : Told s (evT k 0x009 (counted s k)) := (counted_told hk s).trans (evT_told k _ _ (by omega))
  have hrun : Runs (.safept k) s (safePoint k (evT k 0x009 (counted s k))) := runs_micro (op := fun u => safePoint k (evT k 0x009 u)) rfl ha hm
  exact ⟨hk, evT k 0x009 (counted s k), hu, fun m => (KeepsTiles.of_noted hu.noted).getTile m, hrun⟩

/-- A safe point that suspends or halts its tile: the record is in the store, the page has the event, and the job stands. -/
theorem record_spec {s t : State} {k bit req : Nat} {x : Tile} (hu : Told s t) (hk : k < 104) (hb : bit < 32)
    (hx : x.job = (getTile s k).job ∧ x.store = (putRecord (spend (getTile s k) 12 true) req).store) (l : NMap SmallArb) :
    let v := evT k 0x00A (setEvt (setTile { t with arbs := l } k x) (tilePage k) bit)
    getTile v k = x ∧ (getTile v k).job = (getTile s k).job ∧
      tsGet (getTile v k) 0x10 = BitVec.ofNat 36 ((getTile s k).upc + (getTile s k).opaddr * 2 ^ 17 + req * 2 ^ 27 + (getTile s k).stack.length * 2 ^ 29) ∧
      (hdr v (tilePage k)).evtPend.getLsbD bit = true ∧ v.jobs = s.jobs := by
  intro v
  obtain ⟨h1, -, h3, h4⟩ := setTile_told (ev := 0x00A) hk hb { t with arbs := l } x
  refine ⟨h1, h1 ▸ hx.1, ?_, h3, h4.trans ?_⟩
  · rw [h1]
    unfold tsGet
    rw [hx.2]
    exact tsGet_putRecord _ _
  · show t.jobs = s.jobs
    rw [hu.frame]

/-- An encode job whose budget is reached stops its tile. -/
theorem reachBudget_stopped {k : Nat} (hk : k < 104) (s : State) (b : Nat) : Stopped s (tileMchk (reachBudget s k b) k 7 0) k 7 0 := by
  obtain ⟨hu, ho, hj⟩ := reachBudget_keeps s k b
  obtain ⟨h1, h2, h3, hw, h4, h5, h6, h7, h8, h9⟩ := tileMchk_stopped hk (reachBudget s k b) 7 0
  exact ⟨h1, h2, h3.trans hu, hw, h4, h5, h6, h7, fun j e => h8 j (hj.trans e), fun m hm => (h9 m hm).trans (ho m hm)⟩

/-- The decode job of a spent budget is asked to abort (R214). -/
theorem budgetEnds_asks {s : State} {k b : Nat} (hr : tileRuns s k = true) (hk : (getTile s k).kind = 1) (hb : (getTile s k).budget = some b)
    (hle : b ≤ (getTile s k).used + budgetRoom (getTile s k)) :
    budgetEnds k s = { s with tiles := (budgetEnds k s).tiles, freeCtr := (budgetEnds k s).freeCtr } ∧
    (∀ m, m ≠ k → getTile (budgetEnds k s) m = getTile s m) ∧ (getTile (budgetEnds k s) k).reqB = true ∧
    ((getTile s k).wait = none → getTile (budgetEnds k s) k = { getTile s k with reqB := true }) ∧
    ((getTile s k).wait ≠ none → (getTile (budgetEnds k s) k).used = max b (getTile s k).used ∧ (getTile (budgetEnds k s) k).wait.isSome = true) := by
  rw [budgetEnds_decode hr hk hb hle]
  obtain ⟨hself, hother⟩ := setTile_others (reachBudget s k b) k { getTile (reachBudget s k b) k with
    reqB := true, wait := (getTile (reachBudget s k b) k).wait.map fun w => { w with req := true } }
  refine ⟨?_, fun m hm => (hother m hm).trans ((reachBudget_keeps s k b).2.1 m hm), congrArg Tile.reqB hself, fun hw => ?_, fun hw => ?_⟩
  · cases hw : (getTile s k).wait with
    | none => rw [reachBudget_running b hw]; rfl
    | some w =>
      obtain ⟨f, a, v, e⟩ := reachBudget_wait (b := b) hw
      rw [e]
      rfl
  · rw [hself, reachBudget_running b hw, hw]
    cases hx : getTile s k
    cases hx ▸ hw
    rfl
  · obtain ⟨w, hw⟩ := Option.ne_none_iff_exists'.mp hw
    obtain ⟨f, a, v, e⟩ := reachBudget_wait (b := b) hw
    rw [hself, e, getTile_setTile, if_pos rfl]
    refine ⟨?_, rfl⟩
    dsimp only
    unfold budgetRoom at hle
    rw [hw, Option.any_some] at hle
    split
    · omega
    · next hc =>
      rw [if_neg hc] at hle
      omega

/-- Settles O40: a safe point's arms by the request, and the machine check that a time-out, a spent budget or a cause leads to. -/
theorem tileSafePoints : Obligations.TileSafePoints := by
  unfold Obligations.TileSafePoints
  refine ⟨fun s k ha hm hq => ?_, fun s k ha hm hq => ?_, fun s k ha hm hA hB hH => ?_, fun s k ha hm hA hB hH hP => ?_,
    fun s k c cause hc ha hr => ?_, fun s k b ha hr hk hb hle => ?_⟩
  · obtain ⟨-, u, hu, ht, hrun⟩ := runs_safept ha hm
    obtain ⟨hself, hother⟩ := setTile_others u k (nextWord (spend (getTile s k) 1 true))
    rw [safePoint_none (by rw [ht]; exact hq), ht] at hrun
    exact ⟨_, hrun, hself, fun m hne => (hother m hne).trans (ht m)⟩
  · obtain ⟨hk, u, hu, ht, hrun⟩ := runs_safept ha hm
    obtain ⟨v, ⟨l, hv⟩, e⟩ := safePoint_takes k u
    have hvt : ∀ m, getTile v m = getTile s m := fun m => by rw [hv]; exact ht m
    have hj : tileJob v k = tileJob s k := tileJob_congr (congrArg Tile.job (hvt k)) (by rw [hv, hu.frame])
    obtain ⟨h1, h2, h3, h4, h5⟩ := takeAbort_spec (s := v) hk (by rw [hvt]; exact hq)
    rw [e, if_pos (by rw [ht]; simpa using hq)] at hrun
    exact ⟨_, hrun, h1, h2, h3, fun j hjs => h4 j (hj.trans hjs), fun m hne => (h5 m hne).trans (hvt m)⟩
  · obtain ⟨hk, u, hu, ht, hrun⟩ := runs_safept ha hm
    obtain ⟨v, ⟨l, hv⟩, e⟩ := safePoint_takes k u
    rw [e, ht, hA, hB, hH, hv, if_neg (by decide), if_pos rfl] at hrun
    obtain ⟨h1, h2, h3, h4, h5⟩ := record_spec (bit := 3) (req := 2) (x := { putRecord (spend (getTile s k) 12 true) 2 with
      run := 3, reqH := false, reqAge := 0, stepping := false }) hu hk (by decide)
      ⟨by rw [putRecord_frame, spend_frame], rfl⟩ l
    exact ⟨_, hrun, congrArg Tile.run h1, congrArg Tile.reqH h1, h2, h3, h4, h5⟩
  · obtain ⟨hk, u, hu, ht, hrun⟩ := runs_safept ha hm
    obtain ⟨v, ⟨l, hv⟩, e⟩ := safePoint_takes k u
    rw [e, ht, hA, hB, hH, hP, hv, if_neg (by decide), if_neg (by decide), if_pos rfl] at hrun
    obtain ⟨h1, h2, h3, h4, h5⟩ := record_spec (bit := 2) (req := 1) (x := { putRecord (spend (getTile s k) 12 true) 1 with
      run := 2, reqP := false, reqAge := 0 }) hu hk (by decide) ⟨by rw [putRecord_frame, spend_frame], rfl⟩ l
    exact ⟨_, hrun, congrArg Tile.run h1, congrArg Tile.reqP h1, h2, h3, h4, h5⟩
  · have hk : k < 104 := by
      unfold tileRuns at hr
      simp only [Bool.and_eq_true, decide_eq_true_eq] at hr
      exact hr.1.1
    suffices h : ∃ t w, Runs c s t ∧ Stopped s t k cause w by
      obtain ⟨t, w, hrun, ⟨h1, h2, h3, -, h4, h5, h6, h7, h8, h9⟩⟩ := h
      exact ⟨t, hrun, h1, h2, h3, h4, h5, h6, h7, h8, h9⟩
    obtain ⟨rfl, hq, hage, rfl⟩ | ⟨rfl, hkind, ⟨b, hb, hle⟩, rfl⟩ | ⟨⟨addr, rfl⟩, h1, h2⟩ := hc
    · refine ⟨_, _, runs_act_to rfl ha (if_pos ?_), tileMchk_stopped hk s 8 0⟩
      rw [hr, hq, decide_eq_true hage]
      rfl
    · exact ⟨_, _, runs_act_to rfl ha (budgetEnds_encode hr hkind hb hle), reachBudget_stopped hk s b⟩
    · have h := tileMchk_stopped hk s cause addr
      rw [Nat.mod_eq_of_lt (by omega : cause < 256)] at h
      refine ⟨_, _, runs_act_to rfl ha (if_pos ?_), h⟩
      rw [hr, decide_eq_true h1, decide_eq_true h2]
      rfl
  · exact ⟨_, runs_act rfl ha, budgetEnds_asks hr hk hb hle⟩

end Sys2Proof.Machine

namespace Sys2Proof.Machine

/-! PROOFS. Branches, waits and the ends of operations and jobs of a tile program (R212, R215, R217). -/

section
variable {s t u : State} {k : Nat}

/-- Reports leave what a WAIT asks for. -/
theorem condHolds_told (h : Told s u) (k cond : Nat) (holds : Bool) : condHolds u k cond holds = condHolds s k cond holds := by
  have hd : tileDeps u k = tileDeps s k := by rw [h.frame]; rfl
  have ht : getTile u k = getTile s k := (KeepsTiles.of_noted h.noted).getTile k
  unfold condHolds
  rw [hd, ht]

theorem waiting_some {w : WaitSt} (h : waiting s k = some w) : k < 104 := by
  unfold waiting at h
  split at h
  · next hc => exact hc.1
  · exact nomatch h

/-- A tile written, seen after reports. -/
theorem told_setTile {x : Tile} (h : Told (setTile s k x) t) : getTile t k = x ∧ ∀ m, m ≠ k → getTile t m = getTile s m := by
  obtain ⟨h1, h2⟩ := setTile_others s k x
  have ht := (KeepsTiles.of_noted h.noted).getTile
  exact ⟨(ht k).trans h1, fun m hm => (ht m).trans (h2 m hm)⟩

theorem branch_spec {cond g target : Nat} {v : Bool} (h : brHolds (getTile s k) cond g = some v) :
    branch k cond g target s = setTile s k (if v then goTo (spend (getTile s k) 2 true) target else nextWord (spend (getTile s k) 1 true)) := by
  unfold branch
  dsimp only
  rw [h]
  cases v <;> rfl

/-- The tile after a WAIT that `holds` or not begins. -/
def waitTile (x : Tile) (cond : Nat) (exp : Bool) (timeout : Nat) (holds : Bool) : Tile :=
  if holds then waitEnd (spend x 1 (waitCounts x exp)) false
  else if timeout = 0 then waitEnd (spend x 1 (waitCounts x exp)) true
  else { spend x 1 (waitCounts x exp) with wait := some ⟨cond, exp, timeout, 0, reqPending x⟩ }

theorem Marks.withPic {s₀ : State} {c id : Nat} {f : Pic → Pic} (hs : Marks s₀ s) : Marks s₀ (withPic s c id f) := by
  unfold Machine.withPic
  split
  · exact hs.setCtx
  · exact hs

theorem waitOn_told {cond timeout : Nat} {exp holds : Bool} (hk : k < 104) (hc : cond < 0x0C) :
    Told (setTile s k (waitTile (getTile s k) cond exp timeout (condHolds s k cond holds))) (waitOn k cond exp timeout holds s) := by
  unfold waitOn waitTile
  dsimp only
  rw [if_neg (Nat.not_le.mpr hc)]
  cases condHolds s k cond holds with
  | true => exact .refl _
  | false =>
    rw [if_neg Bool.false_ne_true, if_neg Bool.false_ne_true]
    split
    · exact evT_told k _ _ (by omega)
    · exact .refl _

/-- A WAIT whose condition came, its TCLK counted. -/
theorem waitMet_told {n : Nat} {w : WaitSt} (hw : waiting s k = some w) (h1 : w.gone ≤ n) (h2 : n ≤ w.timeout) (hc : condHolds s k w.cond true = true) :
    Told (setTile (waitSpend s k w (n - w.gone)).2 k (waitEnd (waitSpend s k w (n - w.gone)).1 false)) (waitMet k n s) := by
  have hk := waiting_some hw
  unfold waitMet
  rw [hw]
  dsimp only
  rw [if_neg (by rw [hc, not_or, not_or]; exact ⟨Nat.not_lt.mpr h2, Nat.not_lt.mpr h1, by decide⟩)]
  exact perfEvt_told (some k) (by simp [perfBank]; omega) _ _ _

/-- A WAIT at its last TCLK. -/
theorem waitExpires_told {w : WaitSt} (hw : waiting s k = some w) :
    Told (setTile (waitSpend s k w (w.timeout - w.gone)).2 k (waitEnd (waitSpend s k w (w.timeout - w.gone)).1 (!condHolds s k w.cond false)))
      (waitExpires k s) := by
  have hk := waiting_some hw
  have hev : ∀ v : State, Told v (waitEv k w w.timeout v) := fun v => perfEvt_told (some k) (by simp [perfBank]; omega) _ _ _
  unfold waitExpires
  rw [hw]
  dsimp only
  cases condHolds s k w.cond false with
  | true => exact hev _
  | false => exact (hev _).trans (evT_told k _ _ (by omega))

theorem getTile_waitSpend (s : State) (k : Nat) (w : WaitSt) (n m : Nat) : getTile (waitSpend s k w n).2 m = getTile s m := by
  obtain ⟨f, a, e⟩ := waitSpend_eq s k w n
  rw [e]
  rfl

/-! ## OPDONE (R212, R228) -/

/-- The tile whose next operation begins at microaddress `a`. -/
def opBegun (x : Tile) (a : Nat) : Tile := goTo (spend { x with opaddr := (x.opaddr + 1) % 1024 } 2 true) a

theorem opBegun_frame (x : Tile) (a : Nat) : opBegun x a = { x with
    opaddr := (x.opaddr + 1) % 1024, upc := (opBegun x a).upc, used := (opBegun x a).used, reqAge := (opBegun x a).reqAge } := by
  unfold opBegun
  rw [goTo_frame, spend_frame]

/-- OPDONE with a next operation: it begins, and a tile that steps halts. -/
theorem opDone_told (hf : opFault (getTile s k) (((getTile s k).opaddr + 1) % 1024) = none) : ∃ v x, v.tiles = s.tiles ∧
    Told (setTile v k x) (opDone k s) ∧ x.opaddr = ((getTile s k).opaddr + 1) % 1024 ∧
    x.run = (if (getTile s k).stepping then 3 else (getTile s k).run) ∧ x.stepping = false ∧ x.g = (getTile s k).g ∧ x.job = (getTile s k).job := by
  unfold opDone
  dsimp only
  rw [hf]
  dsimp only
  have hb := opBegun_frame (getTile s k) ((Config.freeWord (fresh s).1).toNat % 2 ^ 17)
  unfold opBegun at hb
  generalize goTo _ _ = y at hb ⊢
  cases hs : (getTile s k).stepping with
  | true =>
    rw [if_pos rfl]
    refine ⟨(fresh s).2, _, rfl, setEvt_told _ _ _, ?_⟩
    rw [putRecord_frame, hb]
    exact ⟨rfl, rfl, rfl, rfl, rfl⟩
  | false =>
    rw [if_neg Bool.false_ne_true]
    refine ⟨(fresh s).2, y, rfl, .refl _, ?_⟩
    rw [hb]
    exact ⟨rfl, rfl, hs, rfl, rfl⟩

theorem opFault_eq {x : Tile} {a c : Nat} (h : opFault x a = some c) : c = 3 ∨ c = 5 := by
  unfold opFault at h
  dsimp only at h
  split at h
  · exact .inl (Option.some.inj h).symm
  · split at h
    · exact .inr (Option.some.inj h).symm
    · exact nomatch h

theorem opDone_fault {c : Nat} (hf : opFault (getTile s k) (((getTile s k).opaddr + 1) % 1024) = some c) : opDone k s = tileMchk s k c 0 := by
  unfold opDone
  dsimp only
  rw [hf]

/-! ## JEND (R215) -/

theorem tileJob_spent (s : State) (k : Nat) : tileJob (setTile s k (spend (getTile s k) 4 true)) k = tileJob s k :=
  tileJob_congr (by rw [getTile_setTile, if_pos rfl]; rfl) rfl

theorem jobEndWord_delivers {g : Nat} {j : Job} (hj : tileJob s k = some j) (hst : (gReg (getTile s k) g).toNat % 256 ≤ 2) :
    jobEndWord k g s = jobEnd j.id (setTile s k (spend (getTile s k) 4 true)) := by
  unfold jobEndWord
  dsimp only
  rw [tileJob_spent, hj]
  exact if_pos hst

/-- A job that ends by its status without output. -/
theorem jobFails_marks (s : State) (j : Job) (st : Nat) : Marks s (jobFails s j st) ∧ ∀ i ∈ (jobFails s j st).jobs, i.id ≠ j.id := by
  unfold jobFails
  split
  · refine ⟨Marks.loseJob (Marks.refl s |>.withPic), loseJob_gone _ _ _⟩
  · exact ⟨(Marks.refl s).loseJob, loseJob_gone _ _ _⟩

/-- The tile set free by JEND, its job without output. -/
theorem jobEndWord_frees {g : Nat} (hk : k < 104) (hst : ∀ j, tileJob s k = some j → 2 < (gReg (getTile s k) g).toNat % 256) :
    (getTile (jobEndWord k g s) k).run = 0 ∧ (getTile (jobEndWord k g s) k).job = none ∧
      (hdr (jobEndWord k g s) (tilePage k)).evtPend.getLsbD 0 = true ∧
      (∀ j, tileJob s k = some j → ∀ i ∈ (jobEndWord k g s).jobs, i.id ≠ j.id) ∧ ∀ m, m ≠ k → getTile (jobEndWord k g s) m = getTile s m := by
  obtain ⟨v, hm, hgone, e⟩ : ∃ v, Marks (setTile s k (spend (getTile s k) 4 true)) v ∧ (∀ j, tileJob s k = some j → ∀ i ∈ v.jobs, i.id ≠ j.id) ∧
      jobEndWord k g s = evT k 0x00B (setEvt (tileFree v k) (tilePage k) 0) := by
    unfold jobEndWord
    dsimp only
    rw [tileJob_spent]
    cases hj : tileJob s k with
    | none => exact ⟨_, .refl _, nofun, rfl⟩
    | some j =>
      obtain ⟨hm, hg⟩ := jobFails_marks (setTile s k (spend (getTile s k) 4 true)) j ((gReg (getTile s k) g).toNat % 256)
      exact ⟨_, hm, fun j' e => Option.some.inj e ▸ hg, if_neg (Nat.not_le.mpr (hst j hj))⟩
  obtain ⟨-, hother⟩ := setTile_others s k (spend (getTile s k) 4 true)
  obtain ⟨⟨frun, fjob, -⟩, fother, fjobs, -⟩ := tileFree_spec hk v
  have htold : Told (setEvt (tileFree v k) (tilePage k) 0) (jobEndWord k g s) := e ▸ evT_told k _ _ (by omega)
  have ht := (Marks.refl (tileFree v k)).setEvt.noted htold.noted
  refine ⟨?_, ?_, htold.pend _ _ (setEvt_pend _ _ _ (by decide)), fun j hj i hi => hgone j hj i (fjobs i (ht.jobs i hi)), fun m hne => ?_⟩
  · rw [ht.getTile]; exact frun
  · rw [ht.getTile]; exact fjob
  · rw [ht.getTile, fother m hne, hm.getTile]; exact hother m hne

end

/-- OPDONE acts on a state that the counters have counted. -/
theorem runs_opdone {s : State} {k : Nat} (ha : alive s = true) (hm : microOk s k (mopWord 0x0E []) = true) :
    ∃ u, (∀ m, getTile u m = getTile s m) ∧ Runs (.opdone k) s (opDone k u) := by
  have hk := lt_of_microOk hm
  have hrun : Runs (.opdone k) s (opDone k (evT k 0x005 (counted s k))) := runs_micro (op := fun u => opDone k (evT k 0x005 u)) rfl ha hm
  exact ⟨evT k 0x005 (counted s k), fun m => ((KeepsTiles.of_noted (evT_told k _ _ (by omega)).noted).getTile m).trans (getTile_counted hk s m), hrun⟩

theorem run_of_microOk {s : State} {k w : Nat} (h : microOk s k w = true) : (getTile s k).run = 1 := by
  simp only [microOk, sequencing, Bool.and_eq_true, decide_eq_true_eq, beq_iff_eq] at h
  obtain ⟨⟨⟨⟨⟨-, hr⟩, -⟩, -⟩, -⟩, -⟩ := h
  exact hr

/-- Settles O39: the arms of each microword, one lemma a word. -/
theorem tileControl : Obligations.TileControl := by
  unfold Obligations.TileControl
  refine ⟨fun s k cond g target v ha hm hb => ?_, fun s k cond exp tmo tsh holds ha hm hc => ?_, fun s k n w ha hw h1 h2 hc => ?_,
    fun s k w ha hw => ?_, fun s k ha hm hf => ?_, fun s k c ha hm hf => ?_, fun s k g j ha hm hj hst => ?_, fun s k g ha hm hst => ?_⟩
  · have hk := lt_of_microOk hm
    have ht := getTile_counted hk s
    obtain ⟨h1, h2⟩ := setTile_others (counted s k) k
      (if v then goTo (spend (getTile s k) 2 true) target.toNat else nextWord (spend (getTile s k) 1 true))
    refine ⟨_, runs_micro rfl ha hm, ?_⟩
    rw [branch_spec (by rw [ht]; exact hb), ht]
    exact ⟨h1, fun m hne => (h2 m hne).trans (ht m)⟩
  · have hk := lt_of_microOk hm
    have ht := getTile_counted hk s
    obtain ⟨h1, h2⟩ := told_setTile (waitOn_told (s := counted s k) (timeout := tmo.toNat * 2 ^ tsh.toNat) (exp := exp) (holds := holds) hk hc)
    rw [ht, condHolds_told (counted_told hk s)] at h1
    exact ⟨_, runs_micro rfl ha hm, h1, fun m hne => (h2 m hne).trans (ht m)⟩
  · obtain ⟨h3, h4⟩ := told_setTile (waitMet_told hw h1 h2 hc)
    exact ⟨_, runs_act rfl ha, h3, fun m hne => (h4 m hne).trans (getTile_waitSpend _ _ _ _ _)⟩
  · obtain ⟨h3, h4⟩ := told_setTile (waitExpires_told hw)
    exact ⟨_, runs_act rfl ha, h3, fun m hne => (h4 m hne).trans (getTile_waitSpend _ _ _ _ _)⟩
  · obtain ⟨u, ht, hrun⟩ := runs_opdone ha hm
    obtain ⟨v, x, hv, htold, h1, h2, h3, h4, h5⟩ := opDone_told (by rw [ht]; exact hf)
    obtain ⟨h6, h7⟩ := told_setTile htold
    rw [ht] at h1 h2 h4 h5
    rw [run_of_microOk hm] at h2
    have hvt : ∀ m, getTile v m = getTile u m := fun m => by unfold getTile; rw [hv]
    exact ⟨_, hrun, by rw [h6]; exact h1, by rw [h6]; exact h2, by rw [h6]; exact h3, by rw [h6]; exact h4, by rw [h6]; exact h5,
      fun m hne => (h7 m hne).trans ((hvt m).trans (ht m))⟩
  · obtain ⟨u, ht, hrun⟩ := runs_opdone ha hm
    have hst := tileMchk_stopped (lt_of_microOk hm) u c 0
    rw [opDone_fault (by rw [ht]; exact hf)] at hrun
    have hc := opFault_eq hf
    exact ⟨_, hrun, hst.run, hst.mchk.trans (Nat.mod_eq_of_lt (by omega)), hc⟩
  · have hk := lt_of_microOk hm
    have htold := counted_told hk s
    have ht := getTile_counted hk s
    have hju : tileJob (counted s k) k = some j := (tileJob_congr (congrArg Tile.job (ht k)) (by rw [htold.frame])).trans hj
    have hrun := runs_micro (c := .jend k g) (op := jobEndWord k g.val) rfl ha hm
    rw [jobEndWord_delivers hju (by rw [ht]; exact hst), ht] at hrun
    refine ⟨_, hrun, (setTile_others _ _ _).1, ?_, ?_⟩
    · show (counted s k).jobs = s.jobs
      rw [htold.frame]
    · show (counted s k).ctxs = s.ctxs
      rw [htold.frame]
  · have hk := lt_of_microOk hm
    have ht := getTile_counted hk s
    have hj : tileJob (counted s k) k = tileJob s k := tileJob_congr (congrArg Tile.job (ht k)) (by rw [(counted_told hk s).frame])
    obtain ⟨h1, h2, h3, h4, h5⟩ := jobEndWord_frees (s := counted s k) (g := g.val) hk (by rw [hj, ht]; exact hst)
    exact ⟨_, runs_micro rfl ha hm, h1, h2, h3, fun j e => h4 j (hj.trans e), fun m hne => (h5 m hne).trans (ht m)⟩

end Sys2Proof.Machine

namespace Sys2Proof.Machine

/-! PROOFS. The microwords that compute, load and store (R209, R210, R215). -/

section
variable {s t u v : State} {k n : Nat} {f : Tile → Tile}

/-- `t` is `s` after one tile has changed, beside what the counters, a free value and an arbiter's turn change. -/
def TileMoved (s t : State) (k : Nat) : Prop :=
  t = { s with tiles := nset s.tiles k (getTile t k), regs := t.regs, hdrs := t.hdrs, crier := t.crier, emitted := t.emitted, msix := t.msix
               freeCtr := t.freeCtr, arbs := t.arbs }

theorem TileMoved.plain (h : TileMoved s t k) (hf : t.freeCtr = s.freeCtr) (ha : t.arbs = s.arbs) :
    t = { s with tiles := nset s.tiles k (getTile t k), regs := t.regs, hdrs := t.hdrs, crier := t.crier, emitted := t.emitted, msix := t.msix } := by
  have e := h
  unfold TileMoved at e
  rw [hf, ha] at e
  exact e

theorem TileMoved.port (h : TileMoved s t k) (hf : t.freeCtr = s.freeCtr) :
    t = { s with tiles := nset s.tiles k (getTile t k), regs := t.regs, hdrs := t.hdrs, crier := t.crier, emitted := t.emitted, msix := t.msix
                 arbs := t.arbs } := by
  have e := h
  unfold TileMoved at e
  rw [hf] at e
  exact e

/-- A tile that goes on to the next word, `n` TCLK later. -/
theorem thenNext_spec (v : State) (k n : Nat) (f : Tile → Tile) : getTile (thenNext k n f v) k = nextWord (spend (f (getTile v k)) n true) ∧
    (∀ m, m ≠ k → getTile (thenNext k n f v) m = getTile v m) ∧
    thenNext k n f v = { v with tiles := nset v.tiles k (nextWord (spend (f (getTile v k)) n true)) } :=
  ⟨(setTile_others v k _).1, (setTile_others v k _).2, rfl⟩

theorem thenNext_moved (hu : u = { s with regs := u.regs, hdrs := u.hdrs, crier := u.crier, emitted := u.emitted, msix := u.msix
                                          freeCtr := u.freeCtr, arbs := u.arbs }) (k n : Nat) (f : Tile → Tile) :
    getTile (thenNext k n f u) k = nextWord (spend (f (getTile s k)) n true) ∧ (∀ m, m ≠ k → getTile (thenNext k n f u) m = getTile s m) ∧
      TileMoved s (thenNext k n f u) k := by
  have ht : ∀ m, getTile u m = getTile s m := fun m => by rw [hu]; rfl
  obtain ⟨h1, h2, h3⟩ := thenNext_spec u k n f
  refine ⟨h1.trans (by rw [ht]), fun m hm => (h2 m hm).trans (ht m), ?_⟩
  unfold TileMoved
  rw [h1, h3]
  generalize nextWord (spend (f (getTile u k)) n true) = y
  rw [hu]

theorem runs_plain {c : Instr} {w : Nat} (e : exec c s = act (plain k w n f) s) (ha : alive s = true) (hm : microOk s k w = true) :
    ∃ t, Runs c s t ∧ getTile t k = nextWord (spend (f (getTile s k)) n true) ∧
      t = { s with tiles := nset s.tiles k (getTile t k), regs := t.regs, hdrs := t.hdrs, crier := t.crier, emitted := t.emitted, msix := t.msix } := by
  have hu := (counted_told (lt_of_microOk hm) s).frame
  obtain ⟨h1, -, h3⟩ := thenNext_moved (u := counted s k) (s := s) (by rw [hu]) k n f
  refine ⟨_, runs_micro e ha hm, h1, h3.plain ?_ ?_⟩
  · show (counted s k).freeCtr = s.freeCtr
    rw [hu]
  · show (counted s k).arbs = s.arbs
    rw [hu]

/-! ## The store's port -/

theorem access_ok {a err : Nat} (op : State → State) (h : a + n ≤ tsSize) (he : err ≠ 2) : access k a n err op s =
    op (arbTake (if err = 1 then tileCe s k else s) (128 + k) 0 (rbits s tkbPg 0 0x200 6 0)) := by
  unfold access
  rw [if_neg (Nat.not_lt.mpr h), if_neg he]

theorem access_fault {a err : Nat} (op : State → State) (h : tsSize < a + n ∨ err = 2) : access k a n err op s =
    tileMchk s k (if tsSize < a + n then 9 else 4) (if tsSize < a + n then max a tsSize else a) := by
  unfold access
  by_cases hs : tsSize < a + n
  · rw [if_pos hs, if_pos hs, if_pos hs]
    rw [Nat.max_comm, Nat.max_def]
  · rw [if_neg hs, if_neg hs, if_neg hs, if_pos (h.resolve_left hs)]

/-- A corrected error of the store is counted, and reported at its limit. -/
theorem tileCe_marked (hk : k < 104) (s : State) : Marked s (tileCe s k) := by
  have hev := evT_told k 0x010 s (by omega)
  have h : Marked s (bump (evT k 0x010 s) (tilePage k) 0 0x11C 1) := (Marked.mk hev.noted.frame hev.noted.hdr hev.noted.src).bump _ _ _ _
  unfold tileCe
  dsimp only
  split
  · exact (h.setEvt _ _).raiseFault _ _ _
  · exact h

/-- The state on which a load or a store acts when its words are in the store. -/
theorem port_marked (hk : k < 104) (hu : Told s u) (err : Nat) : ∃ v l, Marked s v ∧ (err ≠ 1 → v = u) ∧
    arbTake (if err = 1 then tileCe u k else u) (128 + k) 0 (rbits u tkbPg 0 0x200 6 0) = { v with arbs := l } := by
  have h : Marked s u := ⟨hu.noted.frame, hu.noted.hdr, hu.noted.src⟩
  split
  · next e => exact ⟨_, _, h.trans (tileCe_marked hk u), fun hne => absurd e hne, rfl⟩
  · exact ⟨u, _, h, fun _ => rfl, rfl⟩

/-- A load whose words are in the store. -/
theorem load_spec {a err : Nat} (hk : k < 104) (hu : Told s u) (h : a + n ≤ tsSize) (he : err ≠ 2) {c : Nat} (f : Tile → Tile) :
    getTile (access k a n err (thenNext k c f) u) k = nextWord (spend (f (getTile s k)) c true) ∧
      (∀ m, m ≠ k → getTile (access k a n err (thenNext k c f) u) m = getTile s m) ∧
      (access k a n err (thenNext k c f) u).hostMem = s.hostMem ∧ (access k a n err (thenNext k c f) u).hbm = s.hbm ∧
      (access k a n err (thenNext k c f) u).commons = s.commons ∧ (access k a n err (thenNext k c f) u).jobs = s.jobs ∧
      (err ≠ 1 → access k a n err (thenNext k c f) u = { s with
        tiles := nset s.tiles k (getTile (access k a n err (thenNext k c f) u) k), regs := (access k a n err (thenNext k c f) u).regs
        hdrs := (access k a n err (thenNext k c f) u).hdrs, crier := (access k a n err (thenNext k c f) u).crier
        emitted := (access k a n err (thenNext k c f) u).emitted, msix := (access k a n err (thenNext k c f) u).msix
        arbs := (access k a n err (thenNext k c f) u).arbs }) := by
  rw [access_ok _ h he]
  obtain ⟨v, l, hv, hvu, e⟩ := port_marked hk hu err
  rw [e]
  obtain ⟨h1, h2, h3⟩ := thenNext_spec { v with arbs := l } k c f
  have ht : ∀ m, getTile { v with arbs := l } m = getTile s m := fun m => by rw [hv.frame]; rfl
  refine ⟨h1.trans (by rw [ht]), fun m hm => (h2 m hm).trans (ht m), ?_, ?_, ?_, ?_, fun hne => ?_⟩
  · rw [h3, hv.frame]
  · rw [h3, hv.frame]
  · rw [h3, hv.frame]
  · rw [h3, hv.frame]
  · cases hvu hne
    exact (thenNext_moved (u := { u with arbs := l }) (s := s) (by rw [hu.frame]) k c f).2.2.port (by
      show u.freeCtr = s.freeCtr
      rw [hu.frame])

/-- A store whose words are in the store. -/
theorem store_spec {a : Nat} (hk : k < 104) (hu : Told s u) (h : a + n ≤ tsSize) {c : Nat} (f : Tile → Tile) :
    getTile (access k a n 0 (thenNext k c f) u) k = nextWord (spend (f (getTile s k)) c true) ∧
      access k a n 0 (thenNext k c f) u = { s with
        tiles := nset s.tiles k (getTile (access k a n 0 (thenNext k c f) u) k), regs := (access k a n 0 (thenNext k c f) u).regs
        hdrs := (access k a n 0 (thenNext k c f) u).hdrs, crier := (access k a n 0 (thenNext k c f) u).crier
        emitted := (access k a n 0 (thenNext k c f) u).emitted, msix := (access k a n 0 (thenNext k c f) u).msix
        arbs := (access k a n 0 (thenNext k c f) u).arbs } := by
  obtain ⟨h1, -, -, -, -, -, h7⟩ := load_spec (err := 0) hk hu h (by decide) f
  exact ⟨h1, h7 (by decide)⟩

/-- A word of the four that address the store, on the counted state: its access. -/
theorem runs_access {c : Instr} {w a err : Nat} {op : State → State} {g : State → State} (e : exec c s = act (micro k w op) s) (ha : alive s = true)
    (hm : microOk s k w = true) (hop : op (counted s k) = access k a n err g (counted s k)) :
    Runs c s (access k a n err g (counted s k)) := hop ▸ runs_micro e ha hm

/-- The machine check of an access outside the store, or of a word with a double-bit error. -/
theorem access_stops {c : Instr} {w a err : Nat} {op : State → State} (e : exec c s = act (micro k w op) s) (ha : alive s = true)
    (hm : microOk s k w = true) (hop : ∃ g, op (counted s k) = access k a n err g (counted s k)) (h : tsSize < a + n ∨ err = 2) :
    ∃ t, Runs c s t ∧ (getTile t k).run = 4 ∧ (getTile t k).mchk = (if tsSize < a + n then 9 else 4) ∧
      (getTile t k).mchkTs = (if tsSize < a + n then max a tsSize else a) % 2 ^ 19 ∧ (getTile t k).mchkU = (getTile s k).upc := by
  have hk := lt_of_microOk hm
  obtain ⟨g, hop⟩ := hop
  have hrun := runs_access e ha hm hop
  rw [access_fault g h] at hrun
  have hs := tileMchk_stopped hk (counted s k) (if tsSize < a + n then 9 else 4) (if tsSize < a + n then max a tsSize else a)
  refine ⟨_, hrun, hs.run, hs.mchk.trans ?_, ?_, hs.mchkU.trans (by rw [getTile_counted hk])⟩
  · split <;> rfl
  · refine hs.mchkTs.trans (if_pos ?_)
    split
    · exact .inr rfl
    · exact .inl rfl

/-! ## Units -/

/-- The load engine's output leaves everything but HBM, the Commons, their arbiters and what a report of an error changes. -/
theorem loadOut_keeps (s : State) (x : Tile) (u cmd : Nat) (par : List LW) : (loadOut s x u cmd par).tiles = s.tiles ∧
    (loadOut s x u cmd par).hostMem = s.hostMem ∧ (loadOut s x u cmd par).jobs = s.jobs := by
  unfold loadOut
  split
  · exact ⟨rfl, rfl, rfl⟩
  · dsimp only
    refine List.foldlRecOn (motive := fun t : State => t.tiles = s.tiles ∧ t.hostMem = s.hostMem ∧ t.jobs = s.jobs) _ _ ?_ fun t ht i _ => ?_
    · split
      · exact ⟨rfl, rfl, rfl⟩
      · rw [(writeLoc_memNoted _ _ _ _ _).frame]
        exact ⟨rfl, rfl, rfl⟩
    · rw [comPut_frame]
      exact ht

/-- The state after a unit has taken its parameters. -/
def parsTaken (u : State) : State := { u with freeCtr := u.freeCtr + 4 }

/-- A tile on which a unit has acted. -/
def unitActed (m : State) (x c : Nat) (l : List LW) (y : Tile) : Tile := { unitAct m y x c l with units := nset y.units x (c, l) }

/-- UNIT with a command that its unit has. -/
theorem unitCmd_known {x c p : Nat} (u : State) (k : Nat) (hx : ¬ 6 < x) :
    unitCmd k x false c p u = if unitFits x c (unitPar (getTile u k) p u.freeCtr) then
        thenNext k 1 (unitActed (parsTaken u) x c (unitPar (getTile u k) p u.freeCtr))
          (loadOut (arbTake (parsTaken u) (128 + k) 1 (rbits (parsTaken u) tkbPg 0 0x200 6 0)) (getTile (parsTaken u) k) x c
            (unitPar (getTile u k) p u.freeCtr))
      else tileMchk (parsTaken u) k 9 (max (Config.unitMove x c (unitPar (getTile u k) p u.freeCtr)).lw tsSize) := by
  unfold unitCmd
  exact if_neg (not_or.mpr ⟨hx, Bool.false_ne_true⟩)

theorem unitPar_spec (x : Tile) (p c : Nat) : (unitPar x p c).length = 4 ∧
    ∀ i, i < 4 → p + i < 32 → (unitPar x p c)[i]? = some (gReg x (p + i)) := by
  unfold unitPar
  refine ⟨rfl, fun i hi hp => ?_⟩
  rw [List.getElem?_map, List.getElem?_range hi, Option.map_some, if_pos hp]

/-- What a unit's command leaves on its tile, in the memories and elsewhere. -/
theorem unitNext_spec {m : State} {x c : Nat} {l : List LW} (y : Tile) (a : NMap SmallArb) (k : Nat) (f : Tile → Tile) :
    getTile (thenNext k 1 f (loadOut { m with arbs := a } y x c l)) k = nextWord (spend (f (getTile m k)) 1 true) ∧
    (∀ n, n ≠ k → getTile (thenNext k 1 f (loadOut { m with arbs := a } y x c l)) n = getTile m n) ∧
    (thenNext k 1 f (loadOut { m with arbs := a } y x c l)).hbm = (loadOut { m with arbs := a } y x c l).hbm ∧
    (thenNext k 1 f (loadOut { m with arbs := a } y x c l)).commons = (loadOut { m with arbs := a } y x c l).commons ∧
    (thenNext k 1 f (loadOut { m with arbs := a } y x c l)).hostMem = m.hostMem ∧
    (thenNext k 1 f (loadOut { m with arbs := a } y x c l)).jobs = m.jobs := by
  obtain ⟨ht, hm, hj⟩ := loadOut_keeps { m with arbs := a } y x c l
  generalize loadOut { m with arbs := a } y x c l = v at ht hm hj
  obtain ⟨h1, h2, h3⟩ := thenNext_spec v k 1 f
  have hv : ∀ n, getTile v n = getTile m n := fun n => by unfold getTile; rw [ht]
  exact ⟨h1.trans (by rw [hv]), fun n hn => (h2 n hn).trans (hv n), by rw [h3], by rw [h3], (by rw [h3]; exact hm), (by rw [h3]; exact hj)⟩

/-- Only the load engine, unit 4, writes memory. -/
theorem loadOut_other {x : Nat} (hx : x ≠ 4) (s : State) (y : Tile) (c : Nat) (l : List LW) : loadOut s y x c l = s := if_pos hx

theorem parsTaken_frame (hu : Told s u) : parsTaken u = { s with
    regs := (parsTaken u).regs, hdrs := (parsTaken u).hdrs, crier := (parsTaken u).crier, emitted := (parsTaken u).emitted
    msix := (parsTaken u).msix, freeCtr := (parsTaken u).freeCtr } := by
  unfold parsTaken
  rw [hu.frame]

end

/-- Settles O37: the rule of a word that only changes its tile, the rules of the store's port, and the unit's. -/
theorem tileMicrowords : Obligations.TileMicrowords := by
  unfold Obligations.TileMicrowords
  refine ⟨fun s k ha hm => runs_plain (f := id) rfl ha hm, fun s k d a b fn ha hm => runs_plain (f := fun x => setG x d (Config.aluFn fn (gReg x a) (gReg x b))) rfl ha hm,
fun s k d a imm ha hm => runs_plain (f := fun x => setG x d (gReg x a + imm.signExtend 36)) rfl ha hm,
    fun s k d a b fn ha hm => runs_plain (f := fun x => setV x d (vUnpack (Config.vopFn fn (vPack (vReg x a)) (vPack (vReg x b))))) rfl ha hm,
    fun s k g base off err a ha hm he hadr hlt => ?_, fun s k g base off a ha hm hadr hlt => ?_,
    fun s k v base off err a ha hm he hadr hlt => ?_, fun s k v base off a ha hm hadr hlt => ?_, fun s k u cmd p ha hm hu hr => ?_,
    fun s k c w a n err hc ha hm h => ?_⟩
  · have hk := lt_of_microOk hm
    refine ⟨_, runs_access (a := a) (n := 1) (err := err) rfl ha hm ?_, load_spec (c := 3) hk (counted_told hk s) hlt he fun x => setG (notePoison x a 1) g (tsGet x a)⟩
    rw [hadr, ← getTile_counted hk s]
    rfl
  · have hk := lt_of_microOk hm
    refine ⟨_, runs_access (a := a) (n := 1) (err := 0) rfl ha hm ?_, store_spec (c := 2) hk (counted_told hk s) hlt fun x => tsPut x a (gReg x g)⟩
    rw [hadr, ← getTile_counted hk s]
    rfl
  · have hk := lt_of_microOk hm
    refine ⟨_, runs_access (a := a) (n := 16) (err := err) rfl ha hm ?_, load_spec (c := 2) hk (counted_told hk s) hlt he fun x => setV (notePoison x a 16) v ((List.range 16).map fun i => tsGet x (a + i))⟩
    rw [hadr, ← getTile_counted hk s]
    rfl
  · have hk := lt_of_microOk hm
    refine ⟨_, runs_access (a := a) (n := 16) (err := 0) rfl ha hm ?_, store_spec (c := 2) hk (counted_told hk s) hlt fun x => tsPutAll x a (vReg x v)⟩
    rw [hadr, ← getTile_counted hk s]
    rfl
  · have hk := lt_of_microOk hm
    have hrun : Runs (.unit k u cmd p) s (unitCmd k u.toNat (Config.unitReserved u cmd) cmd.toNat p (counted s k)) := runs_micro rfl ha hm
    rw [hr, unitCmd_known _ _ (by omega)] at hrun
    have hm := parsTaken_frame (counted_told hk s)
    have ht : getTile (counted s k) k = getTile s k := getTile_counted hk s k
    have hmt : ∀ n, getTile (parsTaken (counted s k)) n = getTile s n := fun n => getTile_counted hk s n
    rw [ht, hmt] at hrun
    obtain ⟨hlen, hpar⟩ := unitPar_spec (getTile s k) p.val (counted s k).freeCtr
    generalize unitPar (getTile s k) p.val (counted s k).freeCtr = l at hrun hlen hpar
    generalize parsTaken (counted s k) = m at hrun hm hmt
    refine ⟨_, m, (arbTake m (128 + k) 1 (rbits m tkbPg 0 0x200 6 0)).arbs, l, hrun, hm, hlen, hpar, fun hf => ?_, fun hf => ?_⟩
    · rw [hf, if_pos rfl]
      obtain ⟨h1, h2, h3, h4, h5, h6⟩ := unitNext_spec (m := m) (x := u.toNat) (c := cmd.toNat) (l := l) (getTile s k)
        (arbTake m (128 + k) 1 (rbits m tkbPg 0 0x200 6 0)).arbs k (unitActed m u.toNat cmd.toNat l)
      refine ⟨h1.trans (by rw [hmt]; rfl), fun n hn => (h2 n hn).trans (hmt n), h3, h4, h5.trans (by rw [hm]), h6.trans (by rw [hm]), fun hne => ?_⟩
      have hv : ({ m with arbs := (arbTake m (128 + k) 1 (rbits m tkbPg 0 0x200 6 0)).arbs } : State) = { s with
          regs := m.regs, hdrs := m.hdrs, crier := m.crier, emitted := m.emitted, msix := m.msix, freeCtr := m.freeCtr
          arbs := (arbTake m (128 + k) 1 (rbits m tkbPg 0 0x200 6 0)).arbs } := by rw [hm]
      have h7 := (thenNext_moved hv k 1 (unitActed m u.toNat cmd.toNat l)).2.2
      rw [loadOut_other hne (arbTake m (128 + k) 1 (rbits m tkbPg 0 0x200 6 0))]
      exact h7
    · rw [hf, if_neg Bool.false_ne_true]
      obtain ⟨h1, h2, h3, h4, -⟩ := tileMchk_stopped hk m 9 (max (Config.unitMove u.toNat cmd.toNat l).lw tsSize)
      exact ⟨h1, h2, h4, h3.trans (by rw [hmt])⟩
  · have ht := getTile_counted (lt_of_microOk hm) s k
    obtain ⟨g, base, off, rfl, rfl, rfl, rfl⟩ | ⟨g, base, off, rfl, rfl, rfl, rfl, rfl⟩ | ⟨v, base, off, rfl, rfl, rfl, rfl⟩ |
      ⟨v, base, off, rfl, rfl, rfl, rfl, rfl⟩ := hc
    · refine access_stops rfl ha hm ?_ h
      rw [← ht]
      exact ⟨_, rfl⟩
    · refine access_stops rfl ha hm ?_ h
      rw [← ht]
      exact ⟨_, rfl⟩
    · refine access_stops rfl ha hm ?_ h
      rw [← ht]
      exact ⟨_, rfl⟩
    · refine access_stops rfl ha hm ?_ h
      rw [← ht]
      exact ⟨_, rfl⟩

end Sys2Proof.Machine

namespace Sys2Proof.Machine

/-! PROOFS. Snapshots that apply and counters that count leave the tiles and the jobs, and clear no event or fault (R68, R460). -/

section
variable {s₀ s t : State}

protected theorem Marks.genSet {page : Nat} {g : BitVec 16} (hs : Marks s₀ s) : Marks s₀ (genSet s page g) := by
  have hp : ∀ p, (hdr (genSet s page g) p).evtPend = (hdr s p).evtPend ∧ (hdr (genSet s page g) p).fltSrc = (hdr s p).fltSrc ∧
      (hdr (genSet s page g) p).fenced = (hdr s p).fenced := fun p => by
    unfold genSet
    rw [hdr_setHdr]
    split
    · next e => rw [e]; exact ⟨rfl, rfl, rfl⟩
    · exact ⟨rfl, rfl, rfl⟩
  exact hs.trans ⟨rfl, fun _ hi => hi, fun p b hb => by rw [(hp p).1]; exact hb, fun p b hb => by rw [(hp p).2.1]; exact hb,
    fun p hb => by rw [(hp p).2.2]; exact hb⟩

protected theorem Marks.setFifo {f : Nat} {x : Fifo} (hs : Marks s₀ s) : Marks s₀ (setFifo s f x) := hs.upd rfl

protected theorem Marks.setDma {c : Nat} {x : Dma} (hs : Marks s₀ s) : Marks s₀ (setDma s c x) := hs.upd rfl

protected theorem Marks.setFlow {f : Nat} {x : Machine.Flow} (hs : Marks s₀ s) : Marks s₀ (setFlow s f x) := hs.upd rfl

protected theorem Marks.setSvc {v : Nat} {x : Svc} (hs : Marks s₀ s) : Marks s₀ (setSvc s v x) := hs.upd rfl

protected theorem Marks.setRing {r : Nat} {x : Machine.Ring} (hs : Marks s₀ s) : Marks s₀ (setRing s r x) := hs.upd rfl

protected theorem Marks.setSf {p : Nat} {x : SfPort} (hs : Marks s₀ s) : Marks s₀ (setSf s p x) := hs.upd rfl

protected theorem Marks.setSensor {p : Nat} {x : Sensor} (hs : Marks s₀ s) : Marks s₀ (setSensor s p x) := hs.upd rfl

protected theorem Marks.overflow {t : Option Nat} {n : Nat} (hs : Marks s₀ s) : Marks s₀ (overflow s t n) := by
  unfold overflow
  extract_lets +onlyGivenNames b s1
  have hs1 : Marks s₀ s1 := hs.rputN
  clear_value s1
  refine Marks.ite ?_ ?_
  · extract_lets +onlyGivenNames s2
    have hs2 : Marks s₀ s2 := hs1.setEvt
    clear_value s2
    exact Marks.ite hs2.rputN hs2
  · exact hs1

protected theorem Marks.perfAdd {t : Option Nat} {f n k : Nat} (hs : Marks s₀ s) : Marks s₀ (perfAdd t f s n k) := by
  induction f generalizing s n k with
  | zero => exact hs
  | succ f ih =>
    unfold perfAdd
    simp only
    split
    · exact hs.rputN
    · exact (Marks.ite (ih hs.rputN) hs.rputN).overflow

protected theorem Marks.perfEvt {t : Option Nat} {ev k : Nat} (hs : Marks s₀ s) : Marks s₀ (perfEvt t ev k s) := by
  unfold perfEvt
  exact Marks.ite hs (hs.foldl fun _ _ hu => hu.perfAdd)

protected theorem Marks.fifoSkip {f k : Nat} (hs : Marks s₀ s) : Marks s₀ (fifoSkip s f k) := by
  unfold fifoSkip
  extract_lets +onlyGivenNames n x k
  exact hs.fifoStore

protected theorem Marks.applyVals {vals : NMap U32} (hs : Marks s₀ s) : Marks s₀ (applyVals s vals) := hs.upd rfl

protected theorem Marks.cfgBad (hs : Marks s₀ s) : Marks s₀ (cfgBad s) := by
  unfold cfgBad
  exact hs.bump.setEvt

protected theorem Marks.dropUnits {f : Nat} (hs : Marks s₀ s) : Marks s₀ (dropUnits s f) := by
  unfold dropUnits
  extract_lets +onlyGivenNames x v s0 left _ s1
  have hs0 : Marks s₀ s0 := hs.setFlow
  clear_value s0
  have hs1 : Marks s₀ s1 := (Marks.ite hs0 hs0.setSvc).bump
  clear_value s1
  exact hs1.foldl fun _ _ hu => hu.freeBuf.fifoSkip

protected theorem Marks.applyFlow {f : Nat} {n : Snap} (hs : Marks s₀ s) : Marks s₀ (applyFlow s f n) := by
  unfold applyFlow
  extract_lets +onlyGivenNames old new ring
  refine Marks.ite ?_ ?_
  · exact hs.cfgBad
  · extract_lets +onlyGivenNames was isV s1 x cap x1 s2
    have hs1 : Marks s₀ s1 := hs.applyVals
    clear_value s1
    have hs2 : Marks s₀ s2 := hs1.setFlow
    clear_value s2
    exact (Marks.ite hs2.dropUnits hs2).genSet

protected theorem Marks.applySvc {v : Nat} {n : Snap} (hs : Marks s₀ s) : Marks s₀ (applySvc s v n) := by
  unfold applySvc
  extract_lets +onlyGivenNames old new keeps
  refine Marks.ite ?_ ?_
  · exact hs.cfgBad
  · extract_lets +onlyGivenNames x cap s1 tok
    have hs1 : Marks s₀ s1 := hs.applyVals
    clear_value s1
    exact hs1.setSvc.genSet

protected theorem Marks.applySf {page p : Nat} {n : Snap} (hs : Marks s₀ s) : Marks s₀ (applySf s page p n) := by
  unfold applySf
  extract_lets +onlyGivenNames x tok s1
  have hs1 : Marks s₀ s1 := hs.applyVals
  clear_value s1
  exact hs1.setSf.genSet

protected theorem Marks.applyRing {r : Nat} {n : Snap} (hs : Marks s₀ s) : Marks s₀ (applyRing s r n) := by
  unfold applyRing
  extract_lets +onlyGivenNames moved s1
  have hs1 : Marks s₀ s1 := hs.applyVals
  clear_value s1
  exact (Marks.ite hs1.setRing hs1).genSet

protected theorem Marks.dropFifo {f : Nat} (hs : Marks s₀ s) : Marks s₀ (dropFifo s f) := hs.upd rfl

protected theorem Marks.applyFifo {f : Nat} {n : Snap} (hs : Marks s₀ s) : Marks s₀ (applyFifo s f n) := by
  unfold applyFifo
  extract_lets +onlyGivenNames moved s1 s2 x lvl s3
  have hs1 : Marks s₀ s1 := hs.applyVals
  clear_value s1
  have hs2 : Marks s₀ s2 := (Marks.ite hs1.setFifo.dropFifo hs1)
  clear_value s2
  have hs3 : Marks s₀ s3 := hs2.setFifo
  clear_value s3
  exact hs3.rputN.genSet

protected theorem Marks.applyDma {page ch : Nat} {n : Snap} (hs : Marks s₀ s) : Marks s₀ (applyDma s page ch n) := by
  unfold applyDma
  extract_lets +onlyGivenNames moved s1 x s2
  have hs1 : Marks s₀ s1 := hs.applyVals
  clear_value s1
  have hs2 : Marks s₀ s2 := (Marks.ite hs1.setDma.rputN hs1)
  clear_value s2
  exact hs2.genSet

protected theorem Marks.applyTimers {n : Snap} (hs : Marks s₀ s) : Marks s₀ (applyTimers s n) := by
  unfold applyTimers
  extract_lets +onlyGivenNames s1
  have hs1 : Marks s₀ s1 := hs.applyVals.genSet
  clear_value s1
  refine hs1.foldl fun _ _ hu => ?_
  extract_lets +onlyGivenNames x same nx
  exact hu.upd rfl

protected theorem Marks.losePc {pc : Nat} (hs : Marks s₀ s) : Marks s₀ (losePc s pc) := hs.upd rfl

protected theorem Marks.applyHbm {page c : Nat} {n : Snap} (hs : Marks s₀ s) : Marks s₀ (applyHbm s page c n) := by
  unfold applyHbm
  extract_lets +onlyGivenNames w r0 r1 s1 s2
  have hs1 : Marks s₀ s1 := hs.applyVals.genSet.rputN
  clear_value s1
  have hs2 : Marks s₀ s2 := (Marks.ite hs1.losePc hs1)
  clear_value s2
  exact Marks.ite hs2.losePc hs2

protected theorem Marks.applyFsync {page i : Nat} {n : Snap} (hs : Marks s₀ s) : Marks s₀ (applyFsync s page i n) := by
  unfold applyFsync
  extract_lets +onlyGivenNames s1 nx x
  have hs1 : Marks s₀ s1 := hs.applyVals.genSet
  clear_value s1
  exact hs1.setSensor

protected theorem Marks.snapApply {n : Snap} (hs : Marks s₀ s) : Marks s₀ (snapApply s n) := by
  unfold snapApply
  extract_lets +onlyGivenNames page bank s1
  have hs1 : Marks s₀ s1 := (hs.upd rfl)
  clear_value s1
  split
  · exact Marks.ite hs1.applyFlow (Marks.ite hs1.applySvc hs1.applyRing)
  · exact hs1.applyFifo
  · exact hs1.applyVals.rputN.genSet
  · exact Marks.ite hs1.applyFsync hs1.applyVals.genSet
  · exact Marks.ite hs1.applyTimers hs1.applyDma
  · exact hs1.applyHbm
  · exact hs1.applySf
  · exact hs1.applyVals.genSet
  · exact hs1

protected theorem Marks.applySnaps {sel : Snap → Bool} (hs : Marks s₀ s) : Marks s₀ (applySnaps s sel) := by
  unfold applySnaps
  exact hs.foldl fun _ _ hu => hu.snapApply

end

end Sys2Proof.Machine

namespace Sys2Proof.Machine

/-! PROOFS. Row events, row tickets and the ends of jobs (R164, R165, R211, R214, R342). -/

section
variable {s₀ s t u : State} {c k id : Nat} {x : Ctx} {p : Pic}

/-! ## Pictures of a context -/

theorem id_of_getPic (h : getPic x id = some p) : p.id = id := by
  simpa using List.find?_some (p := fun q : Pic => q.id == id) h

/-- Pictures changed, which keep their identities. -/
theorem getPic_map {g : Pic → Pic} (hg : ∀ q, (g q).id = q.id) (x : Ctx) (id : Nat) :
    getPic { x with pics := x.pics.map g } id = (getPic x id).map g := by
  unfold getPic
  dsimp only
  rw [List.find?_map]
  have e : ((fun q : Pic => q.id == id) ∘ g) = fun q => q.id == id := funext fun q => by rw [Function.comp, hg]
  rw [e]

/-- A picture changed, which keeps its identity. -/
theorem getPic_updPic {f : Pic → Pic} (hf : ∀ q, q.id = id → (f q).id = id) (h : getPic x id = some p) :
    getPic (updPic x id f) id = some (f p) := by
  have hp := id_of_getPic h
  unfold getPic updPic at *
  dsimp only
  rw [List.find?_map]
  have e : ((fun q : Pic => q.id == id) ∘ fun q => if q.id = id then f q else q) = fun q => q.id == id := by
    funext q
    by_cases hq : q.id = id
    · simp [hq, hf q hq]
    · simp [hq]
  rw [e, h, Option.map_some, if_pos hp]

/-! ## The next event fires (R164, R175) -/

theorem evComplexity_frame (s : State) (x : Ctx) (p : Pic) (k : Nat) : (evComplexity s x p k).2 = { s with freeCtr := (evComplexity s x p k).2.freeCtr } := by
  unfold evComplexity
  dsimp only
  split
  · exact List.foldlRecOn (motive := fun a : List Nat × State => a.2 = { s with freeCtr := a.2.freeCtr }) _ _ rfl fun a ha _ _ => by
      dsimp only [fresh]
      rw [ha]
  · rfl

/-- What the release of an event leaves: the picture with one event more, its jobs at the end of the list. -/
structure Fired (s t : State) (c id k : Nat) (p : Pic) : Prop where
  ctx : ∃ y q, getCtx t c = some y ∧ getPic y id = some q ∧ q.fired = k + 1 ∧ q.begun = p.begun
  jobs : ∃ js, t.jobs = s.jobs ++ js ∧ ∀ j ∈ js, j.ctx = c ∧ j.pic = id ∧ j.key = k ∧ j.tile = none
  others : ∀ d, d ≠ c → getCtx t d = getCtx s d
  rest : (t.tiles, t.queues, t.hostMem, t.hbm) = (s.tiles, s.queues, s.hostMem, s.hbm)

theorem mkJobs_spec (s : State) (c : Nat) (p : Pic) (k : Nat) (e : EvRate) (cs : List Nat) (pr : Prog) :
    ∀ j ∈ mkJobs s c p k e cs pr, j.ctx = c ∧ j.pic = p.id ∧ j.key = k ∧ j.tile = none := by
  intro j hj
  unfold mkJobs at hj
  obtain ⟨a, -, rfl⟩ := List.mem_map.mp hj
  exact ⟨rfl, rfl, rfl, rfl⟩

theorem fireEvent_fired (hp : getPic x p.id = some p) : Fired s (fireEvent s c x p k) c p.id k p := by
  unfold fireEvent
  extract_lets pr nr cc cs s1 fixed x1 exact e js ev p1 _ r1 r2 x2
  have hs1 : s1 = { s with freeCtr := s1.freeCtr } := evComplexity_frame s x p k
  have ht := (evG_told 0x103 (setCtx { s1 with jobs := s1.jobs ++ js, nextId := s1.nextId + js.length } c x2)).frame
  have hx1 : x1.pics = x.pics := by
    unfold x1
    split <;> rfl
  have hx2 : getPic x2 p.id = some p1 := by
    refine getPic_updPic (f := fun _ => p1) (p := p) (fun _ _ => rfl) ?_
    unfold getPic at hp ⊢
    dsimp only
    rw [hx1]
    exact hp
  have hctx : ∀ d, getCtx (evG 0x103 (setCtx { s1 with jobs := s1.jobs ++ js, nextId := s1.nextId + js.length } c x2)) d =
      if d = c then some x2 else getCtx s d := fun d => by
    refine (getCtx_congr (by rw [ht]) d).trans ((getCtx_setCtx _ _ _ _).trans ?_)
    rw [hs1]
    rfl
  refine ⟨⟨x2, p1, (hctx c).trans (if_pos rfl), hx2, rfl, rfl⟩, ⟨js, ?_, mkJobs_spec _ _ _ _ _ _ _⟩, fun d hd => (hctx d).trans (if_neg hd), ?_⟩
  · rw [ht]
    show s1.jobs ++ js = s.jobs ++ js
    rw [hs1]
  · rw [ht]
    show (s1.tiles, s1.queues, s1.hostMem, s1.hbm) = _
    rw [hs1]

theorem fireN_one (hx : getCtx s c = some x) (hp : getPic x id = some p) (hf : p.fired < (ctGeo x.block).nr 0) :
    fireN 1 s c id = fireEvent s c x p p.fired := by
  unfold fireN
  rw [hx]
  dsimp only
  rw [hp]
  exact (if_pos hf).trans rfl

/-! ## A picture begins (R94, R179) -/

/-- The pictures of `t` are those of `s` as far as their events and their contexts' configurations go. -/
def PicsStand (s t : State) : Prop := ∀ c x id p, getCtx s c = some x → getPic x id = some p →
  ∃ y q, getCtx t c = some y ∧ getPic y id = some q ∧ y.block = x.block ∧ y.cfgPend = x.cfgPend ∧ q.fired = p.fired ∧ q.begun = p.begun

namespace PicsStand

protected theorem refl (s : State) : PicsStand s s := fun _ x _ p hx hp => ⟨x, p, hx, hp, rfl, rfl, rfl, rfl⟩

protected theorem trans (h : PicsStand s₀ s) (g : PicsStand s t) : PicsStand s₀ t := fun c x id p hx hp => by
  obtain ⟨y, q, hy, hq, hb, hc, hf, hg⟩ := h c x id p hx hp
  obtain ⟨z, r, hz, hr, hb', hc', hf', hg'⟩ := g c y id q hy hq
  exact ⟨z, r, hz, hr, hb'.trans hb, hc'.trans hc, hf'.trans hf, hg'.trans hg⟩

theorem ctxs (h : PicsStand s₀ s) (e : t.ctxs = s.ctxs) : PicsStand s₀ t :=
  h.trans fun c x _ p hx hp => ⟨x, p, (getCtx_congr e c).trans hx, hp, rfl, rfl, rfl, rfl⟩

/-- A change of one picture that keeps what its events say. -/
theorem setPic {f : Pic → Pic} (hf : ∀ q, (f q).id = q.id ∧ (f q).fired = q.fired ∧ (f q).begun = q.begun) (c id : Nat) (s : State) :
    PicsStand s (withPic s c id f) := by
  unfold withPic
  split
  · next z hz =>
    intro d x i p hx hp
    by_cases hd : d = c
    · subst hd
      cases hz.symm.trans hx
      have hg : ∀ q : Pic, (if q.id = id then f q else q).id = q.id ∧ (if q.id = id then f q else q).fired = q.fired ∧
          (if q.id = id then f q else q).begun = q.begun := fun q => by
        split
        · exact hf q
        · exact ⟨rfl, rfl, rfl⟩
      refine ⟨updPic z id f, if p.id = id then f p else p, (getCtx_setCtx _ _ _ _).trans (if_pos rfl), ?_, rfl, rfl, (hg p).2⟩
      exact (getPic_map (fun q => (hg q).1) z i).trans (by rw [hp]; rfl)
    · exact ⟨x, p, ((getCtx_setCtx _ _ _ _).trans (if_neg hd)).trans hx, hp, rfl, rfl, rfl, rfl⟩
  · exact .refl s

theorem markCtxs (which : Nat → Ctx → Bool) (sel : Nat → Pic → Bool) (cause : Nat) (s : State) : PicsStand s (markCtxs s which sel cause) := by
  have hm := nget_map s.ctxs (fun k x => if x.kind = .admitted ∧ which k x = true then markPics x (sel k) cause else x)
  have hctx : ∀ c, getCtx (Machine.markCtxs s which sel cause) c =
      (getCtx s c).map fun x => if x.kind = .admitted ∧ which c x = true then markPics x (sel c) cause else x := fun c => by
    refine (congrArg (fun m => nget m c) ?_).trans (hm c)
    refine List.map_congr_left fun e _ => ?_
    split <;> rfl
  intro c x id p hx hp
  rw [hctx, hx]
  by_cases hk : x.kind = .admitted ∧ which c x = true
  · have hg : ∀ q : Pic, (if !q.done && q.cause == 0 && sel c q then { q with cause := cause } else q).id = q.id ∧
        (if !q.done && q.cause == 0 && sel c q then { q with cause := cause } else q).fired = q.fired ∧
        (if !q.done && q.cause == 0 && sel c q then { q with cause := cause } else q).begun = q.begun := fun q => by
      split <;> exact ⟨rfl, rfl, rfl⟩
    exact ⟨markPics x (sel c) cause, _, by rw [Option.map_some, if_pos hk],
      (getPic_map (fun q => (hg q).1) x id).trans (by rw [hp]; rfl), rfl, rfl, (hg p).2⟩
  · exact ⟨x, p, by rw [Option.map_some, if_neg hk], hp, rfl, rfl, rfl, rfl⟩

theorem raiseFault (h : PicsStand s₀ s) (page src info : Nat) : PicsStand s₀ (raiseFault s page src info) := by
  refine h.trans ?_
  have hb : ∀ p i, PicsStand s (raiseBase s p src i) := fun p i => (PicsStand.refl s).ctxs (raiseBase_ctxs s p src i)
  unfold Machine.raiseFault
  split
  · exact .refl s
  · dsimp only
    split
    · unfold containBreach
      split
      · exact (hb _ _).trans (markCtxs _ _ _ _)
      · split
        · exact (hb _ _).trans (markCtxs _ _ _ _)
        · exact hb _ _
      · split
        · exact (hb _ _).trans (markCtxs _ _ _ _)
        · exact hb _ _
    · exact hb _ _

end PicsStand

/-- The slot of a picture reserves a place in its queue. -/
theorem slotPic_stands (s : State) (c : Nat) (x : Ctx) (p : Pic) : PicsStand s (slotPic s c x p) ∧ (slotPic s c x p).jobs = s.jobs := by
  have hslot : ∀ q l, PicsStand s (frameSlot s q l).2 ∧ (frameSlot s q l).2.jobs = s.jobs := fun q l => by
    unfold frameSlot
    split
    · exact ⟨.refl s, rfl⟩
    · split
      · refine ⟨PicsStand.raiseFault (s := rputN (bump s qmgrPg q 0x250 1) qmgrPg 0 0x104 q) ((PicsStand.refl s).ctxs rfl) _ _ _, ?_⟩
        show (raiseFault _ _ _ _).jobs = _
        rw [(raiseFault_noted _ _ _ _).frame]
        rfl
      · exact ⟨(PicsStand.refl s).ctxs rfl, rfl⟩
  unfold slotPic
  split
  · exact ⟨.refl s, rfl⟩
  · dsimp only
    obtain ⟨h1, h2⟩ := hslot x.queue (p.t0.map fun t => t + nsT x.adm.dAdm - nsT 1500)
    refine ⟨h1.trans (PicsStand.setPic ?_ _ _ _), Eq.trans ?_ h2⟩
    · exact fun q => ⟨rfl, rfl, rfl⟩
    unfold withPic
    split <;> rfl

theorem applyCfg_none (hc : x.cfgPend = []) (p : Pic) : applyCfg x p = { x with cfgPend := [] } := by
  unfold applyCfg
  rw [hc]
  rfl

theorem capOf_spec (s : State) (x : Ctx) (b : List Byte) (p : Pic) : (capOf s x b p).1.id = p.id ∧ (capOf s x b p).1.fired = p.fired ∧
    (capOf s x b p).2 = { s with freeCtr := (capOf s x b p).2.freeCtr } := by
  unfold capOf
  split <;> exact ⟨rfl, rfl, rfl⟩

/-- A picture that begins under the configuration it finds. -/
theorem beginPic_spec {q₀ : Pic} (hc : x.cfgPend = []) (hp : getPic x p.id = some q₀) : ∃ y q, getCtx (beginPic s c x p) c = some y ∧
    getPic y p.id = some q ∧ y.block = x.block ∧ q.fired = p.fired ∧ q.begun = true ∧ (beginPic s c x p).jobs = s.jobs := by
  obtain ⟨hid, hfired, hs⟩ := capOf_spec s x x.block p
  have hjobs : ∀ y, (setCtx (capOf s x x.block p).2 c y).jobs = s.jobs := fun y => by
    show (capOf s x x.block p).2.jobs = s.jobs
    rw [hs]
  have hset : ∀ y q, y.pics = x.pics → y.block = x.block → q.id = p.id → q.fired = p.fired → q.begun = true →
      ∃ z r, getCtx (setCtx (capOf s x x.block p).2 c (updPic y p.id fun _ => q)) c = some z ∧ getPic z p.id = some r ∧ z.block = x.block ∧
        r.fired = p.fired ∧ r.begun = true ∧ (setCtx (capOf s x x.block p).2 c (updPic y p.id fun _ => q)).jobs = s.jobs :=
    fun y q hy hb hi hf hg => ⟨_, q, (getCtx_setCtx _ _ _ _).trans (if_pos rfl),
      getPic_updPic (f := fun _ => q) (p := q₀) (fun _ _ => hi) (by unfold getPic at hp ⊢; rw [hy]; exact hp), hb, hf, hg, hjobs _⟩
  unfold beginPic
  dsimp only
  rw [applyCfg_none hc]
  split
  · exact hset _ _ rfl rfl hid hfired rfl
  · exact hset _ _ rfl rfl hid hfired rfl

/-- A picture of which no event had fired begins with its slot. -/
theorem startPic_spec {r : Pic} (hx : getCtx s c = some x) (hp : getPic x r.id = some p) (hb : p.begun = false) (hc : x.cfgPend = []) :
    ∃ y q, getCtx (startPic s c x r) c = some y ∧ getPic y r.id = some q ∧ y.block = x.block ∧ q.fired = p.fired ∧ q.begun = true ∧
      (startPic s c x r).jobs = s.jobs := by
  obtain ⟨hst, hj⟩ := slotPic_stands s c x r
  obtain ⟨y, q, hy, hq, hyb, hyc, hqf, hqb⟩ := hst c x r.id p hx hp
  unfold startPic
  dsimp only
  rw [hy]
  dsimp only
  rw [hq]
  dsimp only
  rw [if_neg (by rw [hqb, hb]; decide), ← id_of_getPic hq]
  obtain ⟨z, w, hz, hw, hzb, hwf, hwg, hzj⟩ := beginPic_spec (s := slotPic s c x r) (c := c)
    (p := { q with fifo := if y.kind = .admitted then y.adm.fifo else q.fifo }) (hyc.trans hc) ((id_of_getPic hq).symm ▸ hq)
  exact ⟨z, w, hz, hw, hzb.trans hyb, hwf.trans hqf, hwg, hzj.trans hj⟩

theorem rowComplete_fires {src : Nat} {r : Pic} (hx : getCtx s c = some x) (hr : firePic x src = some r) (hrole : x.role ≠ 3)
    (he : eventReady x r = true) (hrot : rot90 x.block = false) :
    rowComplete c src s = fireN 1 (if r.begun then s else startPic s c x r) c r.id := by
  unfold rowComplete
  rw [hx]
  dsimp only
  rw [hr]
  dsimp only
  rw [hrot, he, if_neg (by simpa using hrole)]
  rfl

/-! ## A job starts (R165, R211, R214) -/

theorem goTo_used (y : Tile) (a : Nat) : (goTo y a).used ≤ y.used + 1 := by
  unfold goTo
  split
  · exact Nat.le_refl _
  · exact Nat.le_succ _

/-- A job put on a tile: the tile runs it with its budget, and the list shows where it is. -/
theorem putJob_spec {j : Job} {entry w h d m : Nat} (e : t = putJob s k j entry w h d m) :
    ((getTile t k).run = 1 ∧ (getTile t k).job = some j.id ∧ (getTile t k).budget = some j.budget ∧ (getTile t k).used ≤ 1 ∧
      (getTile t k).ctx = j.ctx) ∧ (∀ n, n ≠ k → getTile t n = getTile s n) ∧
    t.jobs = (s.jobs.map fun i => if i.id = j.id then { j with tile := some k } else i) ∧
    opFault (getTile t k) (getTile t k).opaddr = opFault (getTile s k) ((Config.freeWord s.freeCtr).toNat % 1024) := by
  subst e
  unfold putJob
  extract_lets f ps de x y s1
  have hl := goTo_frame y ((Config.freeWord (f + 9)).toNat % 2 ^ 17)
  have hu := goTo_used y ((Config.freeWord (f + 9)).toNat % 2 ^ 17)
  obtain ⟨h1, h2⟩ := setTile_others { s with freeCtr := f + 10 } k (goTo y ((Config.freeWord (f + 9)).toNat % 2 ^ 17))
  change getTile s1 k = _ at h1
  have hf := (evG_told 0x102 { s1 with jobs := s1.jobs.map fun i => if i.id = j.id then { j with tile := some k } else i }).frame
  have ht : ∀ n, getTile (evG 0x102 { s1 with jobs := s1.jobs.map fun i => if i.id = j.id then { j with tile := some k } else i }) n = getTile s1 n :=
    fun n => by rw [hf]; rfl
  refine ⟨?_, fun n hn => (ht n).trans (h2 n hn), congrArg State.jobs hf, ?_⟩
  · rw [ht, h1]
    refine ⟨by rw [hl], by rw [hl], by rw [hl], hu, by rw [hl]⟩
  · rw [ht, h1, hl]
    rfl

theorem startJob_runs {j : Job} (hf : opFault (getTile s k) ((Config.freeWord s.freeCtr).toNat % 1024) = none) (entry w h d m : Nat) :
    startJob s k j entry w h d m = putJob s k j entry w h d m := by
  unfold startJob
  dsimp only
  rw [(putJob_spec rfl).2.2.2, hf]

theorem grnAlloc_keeps {o a pool : Nat} {s1 : State} (h : grnAlloc s pool o = some (a, s1)) :
    (s1.tiles, s1.freeCtr, s1.jobs) = (s.tiles, s.freeCtr, s.jobs) := by
  unfold grnAlloc at h
  dsimp only at h
  split at h
  · exact absurd h (by simp)
  · split at h
    · next i x1 _ =>
      obtain ⟨-, rfl⟩ := by simpa using h
      rw [(evG_told 0x108 (setPool s pool x1)).frame]
      rfl
    · exact absurd h (by simp)

/-- A job that a ticket starts with a buffer. -/
theorem startEnc_spec {j : Job} {o a pool : Nat} {s1 : State} (hg : grnAlloc s pool o = some (a, s1))
    (hf : opFault (getTile s k) ((Config.freeWord s.freeCtr).toNat % 1024) = none) (e : t = startEnc s1 k p { j with buf := some (pool, a) }) :
    ((getTile t k).run = 1 ∧ (getTile t k).job = some j.id ∧ (getTile t k).budget = some j.budget ∧ (getTile t k).used ≤ 1 ∧
      (getTile t k).ctx = j.ctx) ∧ (∀ n, n ≠ k → getTile t n = getTile s n) ∧
    t.jobs = s.jobs.map fun i => if i.id = j.id then { j with buf := some (pool, a), tile := some k } else i := by
  have hs := grnAlloc_keeps hg
  simp only [Prod.mk.injEq] at hs
  obtain ⟨ht, hc, hj⟩ := hs
  have htile : ∀ n, getTile s1 n = getTile s n := fun n => by unfold getTile; rw [ht]
  unfold startEnc at e
  dsimp only at e
  rw [startJob_runs (by rw [htile, hc]; exact hf)] at e
  obtain ⟨h1, h2, h3, -⟩ := putJob_spec e
  exact ⟨h1, fun n hn => (h2 n hn).trans (htile n), h3.trans (by rw [hj])⟩

theorem guarTicket_starts {j : Job} {a : Nat} {s1 : State} (hx : getCtx s c = some x)
    (hj : (s.jobs.find? fun j => j.ctx == c && j.tile.isNone && !j.dec && ((getPic x j.pic).any fun p => !p.bulk)) = some j)
    (hp : getPic x j.pic = some p) (hk : idleTile s x.adm.tiles = some k) (hd : depsDone s p.cfg j = true)
    (hg : guarOnTiles s c x < x.adm.tiles.length) (hpl : placesUsed s c x < x.adm.grnMin)
    (ha : grnAlloc s (Ct.pool x.block) c = some (a, s1)) : guarTicket c s = startEnc s1 k p { j with buf := some (Ct.pool x.block, a) } := by
  unfold guarTicket
  rw [hx]
  dsimp only
  rw [hj]
  dsimp only
  rw [hp, hk]
  dsimp only
  rw [hd, decide_eq_true hg, decide_eq_true hpl, ha]
  rfl

theorem bulkTicket_starts {j : Job} {a : Nat} {s1 : State}
    (hj : (s.jobs.find? fun j => j.tile.isNone && (j.dec || ((jobPic s j).any fun e => e.2.bulk))) = some j) (hdec : j.dec = false)
    (hk : bulkPick s = some k) (hp : jobPic s j = some (x, p)) (hd : depsDone s p.cfg j = true) (ho : bulkOverdue s j = false)
    (hpool : poolUp (getPool s (Ct.pool x.block)) = true) (hup : blockUp s grnPg = true)
    (ha : grnAlloc s (Ct.pool x.block) j.ctx = some (a, s1)) : bulkTicket s = startEnc s1 k p { j with buf := some (Ct.pool x.block, a) } := by
  unfold bulkTicket
  rw [hj]
  dsimp only
  rw [hk]
  dsimp only
  rw [hdec, if_neg Bool.false_ne_true, hp]
  dsimp only
  rw [hd, hpool, hup, ho, ha]
  rfl

/-! ## A job ends (R133, R165) -/

/-- A tile set free at the end of its job, without it. -/
structure Ended (s t : State) (k i : Nat) : Prop where
  run : (getTile t k).run = 0
  job : (getTile t k).job = none
  ctx : (getTile t k).ctx = 0x7FF
  gone : ∀ h ∈ t.jobs, h.id ≠ i
  pend : (hdr t (tilePage k)).evtPend.getLsbD 0 = true
  others : ∀ m, m ≠ k → getTile t m = getTile s m

/-- The tile is set free in a state without the job. -/
theorem tileFree_ends {i : Nat} (k : Nat) (ht : t.tiles = s.tiles) (hj : ∀ h ∈ t.jobs, h.id ≠ i) :
    Ended s (evT k 0x00B (setEvt (tileFree t k) (tilePage k) 0)) k i := by
  have hm : Marks (tileFree t k) (evT k 0x00B (setEvt (tileFree t k) (tilePage k) 0)) := (Marks.refl _).setEvt.perfEvt
  have hp := ((Marks.refl (setEvt (tileFree t k) (tilePage k) 0)).perfEvt (t := some k) (ev := 0x00B) (k := 1)).pend
  have hs : Marks (setTile t k _) (tileFree t k) := (Marks.refl _).applySnaps
  have hm2 := hs.trans hm
  obtain ⟨hself, hother⟩ := setTile_others t k { getTile t k with
    run := 0, job := none, kind := 0, ctx := 0x7FF, budget := none, used := 0, wait := none, stack := []
    reqP := false, reqH := false, reqA := false, reqB := false, reqAge := 0, stepping := false, poisonFlag := false, toFlag := false
    idleAt := t.tick }
  have hk := (hm2.getTile k).trans hself
  refine ⟨by rw [hk], by rw [hk], by rw [hk], fun h hh => hj h (hm2.jobs h hh), hp _ _ (setEvt_pend _ _ _ (by decide)), fun m hne => ?_⟩
  rw [hm2.getTile, hother m hne]
  unfold getTile
  rw [ht]

/-- A job's output leaves the list without the job. -/
theorem jobOut_marks (s : State) (c : Nat) (x : Ctx) (p : Pic) (j : Job) (outs : List SegOut) (lost : Bool) :
    Marks { s with jobs := s.jobs.filter fun i => i.id != j.id } (jobOut s c x p j outs lost) := by
  unfold jobOut
  extract_lets n ok upd p1 x1 r
  exact Marks.picCoded ((Marks.refl _).upd rfl)

/-- The job's output goes to its buffer, or it had none. -/
theorem jobEnd_ends {i : Nat} {j : Job} (hj : (s.jobs.find? fun j => j.id == i) = some j) (ht : j.tile = some k)
    (hrun : (getTile s k).run = 1) (hjob : (getTile s k).job = some i) (hup : blockUp s (tilePage k) = true)
    (hout : ∀ x p, j.dec = false → jobPic s j = some (x, p) → (p.isP = false ∨ refsReady x p = true) ∧
      ∀ pool a, j.buf = some (pool, a) → ((codeJob s x p j).flatMap fun o => o.unit.getD []).length ≤ poolSize s pool) :
    Ended s (jobEnd i s) k i := by
  have hid : j.id = i := by simpa using List.find?_some (p := fun h : Job => h.id == i) hj
  have hfilter : ∀ h ∈ s.jobs.filter fun h => h.id != i, h.id ≠ i := fun h hh => by simpa using (List.mem_filter.mp hh).2
  have hends : ∀ u : State, u.tiles = s.tiles → (∀ h ∈ u.jobs, h.id ≠ i) →
      Ended s (evT k 0x00B (setEvt (tileFree u k) (tilePage k) 0)) k i := fun u hu hg => tileFree_ends k hu hg
  unfold jobEnd
  rw [hj]
  dsimp only
  rw [ht]
  dsimp only
  rw [if_neg (by rw [hrun, hjob, hup]; simp)]
  cases hdec : j.dec with
  | true =>
    rw [if_pos rfl]
    split
    · split
      · exact hends _ rfl hfilter
      · exact hends _ rfl hfilter
    · exact hends _ rfl hfilter
  | false =>
    rw [if_neg Bool.false_ne_true]
    split
    · have hm := (Marks.refl { s with jobs := s.jobs.filter fun h => h.id != i }).freeBuf (c := j.ctx) (b := j.buf)
      exact hends _ hm.tiles fun h hh => hfilter h (hm.jobs h hh)
    · next x p hp =>
      obtain ⟨href, hsize⟩ := hout x p hdec hp
      rw [if_neg (by rcases href with h | h <;> rw [h] <;> simp)]
      have hout : ∀ (u : State) q, u.tiles = s.tiles → u.jobs = s.jobs → (jobOut u j.ctx x q j (codeJob s x p j) false).tiles = s.tiles ∧
          ∀ h ∈ (jobOut u j.ctx x q j (codeJob s x p j) false).jobs, h.id ≠ i := fun u q ht hj => by
        have hm := jobOut_marks u j.ctx x q j (codeJob s x p j) false
        exact ⟨hm.tiles.trans ht, fun h hh => hid ▸ by simpa using (List.mem_filter.mp (hm.jobs h hh)).2⟩
      split
      · next pool a hb =>
        rw [if_neg (Nat.not_lt.mpr (hsize pool a hb))]
        have hw : (writeLoc s (poolLoc s pool) a ((codeJob s x p j).flatMap fun o => o.unit.getD []) false).tiles = s.tiles ∧
            (writeLoc s (poolLoc s pool) a ((codeJob s x p j).flatMap fun o => o.unit.getD []) false).jobs = s.jobs := by
          rw [(writeLoc_memNoted _ _ _ _ _).frame, memWrite_frame]
          exact ⟨rfl, rfl⟩
        obtain ⟨h1, h2⟩ := hout _ (poisonMark s k x p) hw.1 hw.2
        have hm := (Marks.refl (jobOut (writeLoc s (poolLoc s pool) a ((codeJob s x p j).flatMap fun o => o.unit.getD []) false) j.ctx x
          (poisonMark s k x p) j (codeJob s x p j) false)).perfEvt (t := some k) (ev := 0x00F) (k := ((codeJob s x p j).filter (·.emerg)).length)
        exact hends _ (hm.tiles.trans h1) fun h hh => h2 h (hm.jobs h hh)
      · obtain ⟨h1, h2⟩ := hout s (poisonMark s k x p) rfl rfl
        exact hends _ h1 h2

end

/-- Settles O30: an event that fires, a job that a ticket starts, and a job that ends. -/
theorem rowEventsAndJobs : Obligations.RowEventsAndJobs := by
  unfold Obligations.RowEventsAndJobs
  refine ⟨fun s c src x r p ha hx hr hp hf hb hrole he hrot => ?_, fun s c src x r p ha hx hr hp hf hb hpb hc hrole he hrot => ?_,
    fun s c x j p k a s1 ha hx hj hp hk hd hg hpl hgr hf => ?_, fun s c j x p k a s1 ha hj hdec hk hp hd ho hpool hup hgr hf => ?_,
    fun s i j k ha hj ht hrun hjob hup hout => ?_⟩
  · have e := rowComplete_fires hx hr hrole he hrot
    rw [hb, if_pos rfl, fireN_one hx hp hf] at e
    have hid := id_of_getPic hp
    have h := fireEvent_fired (s := s) (c := c) (k := p.fired) (hid.symm ▸ hp)
    rw [hid] at h
    obtain ⟨⟨y, q, hy, hq, hqf, -⟩, ⟨js, hjs, hall⟩, hother, hrest⟩ := h
    simp only [Prod.mk.injEq] at hrest
    obtain ⟨h1, h2, h3, h4⟩ := hrest
    exact ⟨_, y, q, js, runs_act_to rfl ha e, hy, hq, hqf, hjs, hall, hother, h1, h2, h3, h4⟩
  · obtain ⟨y, q, hy, hq, hyb, hqf, hqb, hj⟩ := startPic_spec hx hp hpb hc
    have e := rowComplete_fires hx hr hrole he hrot
    rw [hb, if_neg Bool.false_ne_true, fireN_one hy hq (by rw [hqf, hyb]; exact hf)] at e
    have hid := id_of_getPic hq
    have h := fireEvent_fired (s := startPic s c x r) (c := c) (k := q.fired) (hid.symm ▸ hq)
    rw [hid] at h
    obtain ⟨⟨z, w, hz, hw, hwf, hwb⟩, ⟨js, hjs, hall⟩, -, -⟩ := h
    rw [hqf] at hwf hall
    exact ⟨_, z, w, js, runs_act_to rfl ha e, hz, hw, hwf, hwb.trans hqb, hjs.trans (by rw [hj]), hall⟩
  · obtain ⟨⟨h1, h2, h3, h4, h5⟩, h6, h7⟩ := startEnc_spec (j := j) (k := k) hgr hf rfl
    exact ⟨_, runs_act_to rfl ha (guarTicket_starts hx hj hp hk hd hg hpl hgr), h1, h2, h3, h4, h5, h6, h7⟩
  · obtain ⟨⟨h1, h2, h3, -, -⟩, h6, -⟩ := startEnc_spec (j := j) (k := k) hgr hf rfl
    exact ⟨_, runs_act_to rfl ha (bulkTicket_starts hj hdec hk hp hd ho hpool hup hgr), h1, h2, h3, h6⟩
  · obtain ⟨h1, h2, h3, h4, h5, h6⟩ := jobEnd_ends hj ht hrun hjob hup hout
    exact ⟨_, runs_act rfl ha, h1, h2, h3, h4, h5, h6⟩

end Sys2Proof.Machine

namespace Sys2Proof.Machine

/-! PROOFS. A unit that enters a flow gives a tag to another flow of the port (R318, R323). -/

/-- A small contract, and its picture that has its number and no unit in the FIFO yet. -/
def enterBlock : List Byte := (((List.replicate 256 0).set 4 16).set 6 16).set 0xA 8 |>.set 0x10 16 |>.set 0x12 16 |>.set 0x39 0xFF |>.set 0x54 1
def enterPicture : Pic := { id := 1, src := 5, cfg := enterBlock, begun := true, closed := true, picNum := some 0, capKnown := true }
def enterCtx : Ctx := { kind := .admitted, queue := 0, block := enterBlock, pics := [enterPicture] }

/-- The unit that waits in bulk flow 1. -/
def waitingUnit : EgUnit := { ctx := 4, pic := 2, num := 0, ts := 0, bytes := [1], first := true, last := true, buf := none, fifo := 1, at_ := 0 }

/-- Flows 0, that of the picture, and 1 lead to the PCIe port. A unit waits in flow 1, which has no tag yet. -/
def untagged : State :=
  { State.reset with
    boot := { State.reset.boot with st := 7 }
    clk := { State.reset.clk with rootLock := true, coreOk := true }
    ctxs := [(3, enterCtx)]
    flows := [(1, { units := [waitingUnit] })]
    regs := [(rkey fifoPg 0 0x200, 0x801), (rkey schedPg 0 0x200, 0x200), (rkey schedPg 1 0x200, 0x201)] }

theorem untagged_waits : (getFlow untagged 1).tagSet = false := by decide +kernel

/-- The unit's entry brings every tag of its port up to date. -/
theorem untagged_tags : (getFlow (unitEnterAny 3 untagged) 1).tagSet = true := by decide +kernel

theorem untagged_enters : alive untagged = true ∧ getCtx untagged 3 = some enterCtx ∧ blockUp untagged fifoPg = true ∧
    enterPic enterCtx = some enterPicture ∧ enterCtx.role ≠ 2 ∧ enterCtx.role ≠ 3 ∧
    (nextUnit enterPicture).isSome = true ∧ (∀ u, nextUnit enterPicture = some u → u.bytes ≠ []) ∧
    flowOf untagged 3 enterCtx = some 0 ∧
    (∀ u, nextUnit enterPicture = some u → fifoFits untagged enterPicture.fifo u.bytes.length = true) := by decide +kernel

/-- Refutes O31: no other flow is said to change when a unit enters flow 0, but flow 1 of the same port, which waits without a
tag, gets its tag then (`untagged`; R323). -/
theorem not_unitsLeaveInOrder : ¬ Obligations.UnitsLeaveInOrder := by
  unfold Obligations.UnitsLeaveInOrder
  rintro ⟨henter, -, -⟩
  obtain ⟨ha, hx, hup, hp, hr2, hr3, hu, hne, hf, hfit⟩ := untagged_enters
  obtain ⟨u, hu⟩ := Option.isSome_iff_exists.mp hu
  obtain ⟨t, g, hrun, -, -, -, -, -, -, -, hother, -⟩ := henter untagged 3 _ _ u 0 ha hx hr2 hr3 hup hp hu (hne u hu) hf (hfit u hu)
  have ht : unitEnterAny 3 untagged = t := Host.Outcome.next.inj ((runs_act (c := .unitEnterFifo 3) rfl ha).symm.trans hrun)
  have h := congrArg Flow.tagSet (hother 1 (by decide))
  rw [← ht, untagged_tags, untagged_waits] at h
  exact absurd h (by decide)

end Sys2Proof.Machine

namespace Sys2Proof.Machine

/-! PROOFS. ENCODE entries, their input, and the bulk slots (R184, R185, R188). -/

section
variable {s t : State} {c i : Nat} {x : Ctx} {p : Pic}

/-! ## The entry -/

theorem encode_queued {q id : Nat} {e : List Byte} {s1 : State} (hs : takeStarted s q (fun se => byteAt se 0 == 0x10) = some (id, e, s1))
    (ha : cfgAhead s q id (leAt e 2 2) = false) (hb : encBad s q e = false) (hx : getCtx s1 (leAt e 2 2) = some x) :
    encodeOp q s = if x.rel ≠ 0 then finishSlot s1 q id (seCe s e 0x0D) else setCtx s1 (leAt e 2 2) { x with encQ := x.encQ ++ [(id, e)] } := by
  unfold encodeOp
  rw [hs]
  dsimp only
  rw [ha, hb, hx]
  rfl

theorem encode_malformed {q id : Nat} {e : List Byte} {s1 : State} (hs : takeStarted s q (fun se => byteAt se 0 == 0x10) = some (id, e, s1))
    (ha : cfgAhead s q id (leAt e 2 2) = false) (hb : encBad s q e = true) : encodeOp q s = finishSlot s1 q id (seCe s e 0x08) := by
  unfold encodeOp
  rw [hs]
  dsimp only
  rw [ha, hb]
  rfl

/-! ## The input of a host-fed stream (R188) -/

/-- The picture of an entry whose input DMA begins. -/
def encStartPic (s : State) (c : Nat) (x : Ctx) (id : Nat) (e : List Byte) : Pic :=
  { encPic s id e with
    cause := (if fenceCause s c x = 0 then needCause s x else fenceCause s c x), capD := widenCap x (encPic s id e).src }

theorem encodeStart_begins {id : Nat} {e : List Byte} {rest : List (Nat × List Byte)} {t0 : Time} (hx : getCtx s c = some x)
    (he : x.encQ = (id, e) :: rest) (hk : x.kind = .admitted) (hd : x.dma = none) (hl : x.lastStart = some t0)
    (ht : t0 + Ct.period x.block ≤ s.dt) (ho : slotOpen s x = true) :
    encodeStart c s = setCtx { s with nextId := s.nextId + 1 } c { replaceTiles s x with
      encQ := rest, pics := x.pics ++ [encStartPic s c (replaceTiles s x) id e], dma := some s.nextId, lastStart := some s.dt } := by
  have hfree : encodeFree s x = true := by
    unfold encodeFree startDue
    simp [ho, hd, hl, ht]
  unfold encodeStart
  rw [hx]
  dsimp only
  rw [he]
  dsimp only
  rw [if_neg (by rw [hk, hfree]; simp)]
  rfl

theorem readEffects_clean {b e : List Byte} {pic : PicBuf} (h : readPlanes s b e = (pic, false, false)) : readEffects s b e = s := by
  have herr := congrArg (fun r => r.2.1) h
  have hpsn := congrArg (fun r => r.2.2) h
  unfold readPlanes at herr hpsn
  dsimp only at herr hpsn
  have hline : ∀ q ∈ List.range (srcPlanes b), ∀ y ∈ List.range (srcH b q),
      (readLoc s (En.loc e) (En.plane e q + y * En.pitch e) (lineBytes (En.fmt e) (srcW b q))).2 = s := fun q hq y hy => by
    have h1 := List.any_eq_false.mp herr _ (List.mem_map.mpr ⟨q, hq, rfl⟩)
    have h2 := List.any_eq_false.mp hpsn _ (List.mem_map.mpr ⟨q, hq, rfl⟩)
    have h3 := List.any_eq_false.mp (Bool.eq_false_iff.mpr h1) _ (List.mem_map.mpr ⟨y, hy, rfl⟩)
    have h4 := List.any_eq_false.mp (Bool.eq_false_iff.mpr h2) _ (List.mem_map.mpr ⟨y, hy, rfl⟩)
    rw [readLoc_clean (d := (memRead s (En.loc e) (En.plane e q + y * En.pitch e) (lineBytes (En.fmt e) (srcW b q))).1)]
    refine Prod.ext rfl (Prod.ext ?_ ?_)
    · simpa using h3
    · simpa using h4
  unfold readEffects
  refine List.foldlRecOn (motive := fun u : State => u = s) _ _ rfl fun u hu q hq => ?_
  refine List.foldlRecOn (motive := fun u : State => u = s) _ _ hu fun v hv y hy => ?_
  rw [hv]
  exact hline q hq y hy

/-- Input read without error or poison is the picture's (R24, R50). -/
theorem encodeInputDone_closes {pic : PicBuf} (hx : getCtx s c = some x) (hd : x.dma = some i) (hp : getPic x i = some p)
    (hr : readPlanes s x.block p.se = (pic, false, false)) :
    ∃ y q, getCtx (encodeInputDone c s) c = some y ∧ y.dma = none ∧ getPic y i = some q ∧ q.closed = true ∧
      q.input = condition s x.block pic ∧ q.t0 = some s.dt ∧
      q.cause = (if p.cause = 0 ∧ x.kind = .admitted ∧ Ct.timeSrc x.block = 1 ∧ islLost s = true then 5 else p.cause) ∧
      encodeInputDone c s = { s with ctxs := (encodeInputDone c s).ctxs, queues := (encodeInputDone c s).queues } ∧
      ∀ d, d ≠ c → getCtx (encodeInputDone c s) d = getCtx s d := by
  have hid := id_of_getPic hp
  have e : ∃ m f, encodeInputDone c s = { setCtx s c (updPic { x with dma := none } p.id f) with queues := m } ∧ (∀ q, (f q).id = q.id) ∧
      (f p).closed = true ∧ (f p).input = condition s x.block pic ∧ (f p).t0 = some s.dt ∧
      (f p).cause = (if p.cause = 0 ∧ x.kind = .admitted ∧ Ct.timeSrc x.block = 1 ∧ islLost s = true then 5 else p.cause) := by
    have hcause : (if p.cause ≠ 0 ∨ x.kind ≠ .admitted then p.cause else if Ct.timeSrc x.block = 1 ∧ islLost s = true then 5 else 0) =
        if p.cause = 0 ∧ x.kind = .admitted ∧ Ct.timeSrc x.block = 1 ∧ islLost s = true then 5 else p.cause := by
      by_cases h : p.cause = 0 ∧ x.kind = .admitted
      · rw [if_neg (by simp [h]), h.1]
        simp [h.2]
      · rw [if_pos (by by_cases hc : p.cause = 0 <;> simp_all), if_neg fun g => h ⟨g.1, g.2.1⟩]
    unfold encodeInputDone
    rw [hx]
    dsimp only
    rw [hd, Option.bind_some, hp]
    dsimp only
    rw [hr, if_neg Bool.false_ne_true, readEffects_clean hr]
    dsimp only
    split
    · unfold slotLimit
      split
      · exact ⟨_, _, rfl, fun _ => rfl, rfl, rfl, rfl, hcause⟩
      · exact ⟨s.queues, _, rfl, fun _ => rfl, rfl, rfl, rfl, hcause⟩
    · exact ⟨s.queues, _, rfl, fun _ => rfl, rfl, rfl, rfl, hcause⟩
  obtain ⟨m, f, e, hf, h1, h2, h3, h4⟩ := e
  rw [e]
  have hg : ∀ d, getCtx { setCtx s c (updPic { x with dma := none } p.id f) with queues := m } d =
      if d = c then some (updPic { x with dma := none } p.id f) else getCtx s d := fun d => getCtx_setCtx _ _ _ _
  exact ⟨updPic { x with dma := none } p.id f, f p, (hg c).trans (if_pos rfl), rfl,
    hid ▸ getPic_updPic (x := { x with dma := none }) (fun q hq => (hf q).trans hq) (hid.symm ▸ hp), h1, h2, h3, h4, rfl,
    fun d hd => (hg d).trans (if_neg hd)⟩

/-! ## A picture that ends -/

theorem setMin_ctxs (s : State) (p o m : Nat) : ((setMin s p o m).getD s).ctxs = s.ctxs := by
  cases e : setMin s p o m with
  | none => rfl
  | some t =>
    unfold setMin at e
    extract_lets x x1 at e
    split at e
    · cases e
      rfl
    · cases e

theorem dropPc_ctxs (s : State) (pc : Nat) : (dropPc s pc).ctxs = s.ctxs := by
  unfold dropPc mapPc
  dsimp only
  split <;> rfl

theorem releaseDone_gone (hx : getCtx s c = some x) : getCtx (releaseDone s c) c = none := by
  unfold releaseDone
  split
  · next h => exact nomatch h.symm.trans hx
  extract_lets b _ s1 s2 p s3 s4 s5 _ s6 s8
  have h1 : s1.ctxs = ndel s.ctxs c := rfl
  clear_value s1
  have h2 : s2.ctxs = ndel s.ctxs c := List.foldlRecOn (motive := fun u : State => u.ctxs = ndel s.ctxs c) _ _ h1 fun u hu _ _ => hu
  clear_value s2
  have h3 : s3.ctxs = ndel s.ctxs c := (setMin_ctxs s2 p c 0).trans h2
  clear_value s3
  have h4 : s4.ctxs = ndel s.ctxs c := (apply_ite State.ctxs _ _ _).trans ((ite_congr rfl (fun _ => rfl) fun _ => rfl).trans ((ite_self _).trans h3))
  clear_value s4
  have h5 : s5.ctxs = ndel s.ctxs c := h4
  clear_value s5
  have h6 : s6.ctxs = ndel s.ctxs c := by
    unfold s6
    split <;> exact h5
  clear_value s6
  have h8 : s8.ctxs = ndel s.ctxs c := h6
  clear_value s8
  rw [getCtx_congr (breakOwner_ctxs _ _)]
  have hnone : getCtx s8 c = none := by
    unfold getCtx
    rw [h8, nget_ndel_same]
  unfold releasePcs
  split
  · next d y hd =>
    have hm := List.mem_of_find?_eq_some hd
    rw [h8] at hm
    have hne : d ≠ c := by simpa using (List.mem_filter.mp hm).2
    rw [getCtx_setCtx, if_neg (Ne.symm hne)]
    exact hnone
  · exact List.foldlRecOn (motive := fun u : State => getCtx u c = none) _ _ hnone fun u hu _ _ =>
      (getCtx_congr (dropPc_ctxs u _) c).trans hu

/-- After its end a picture is no more in its context, whose contract may end with it. -/
theorem endPic_gone (st : Nat × Nat) (hx : getCtx s c = some x) (hp : getPic x i = some p) :
    ∀ y, getCtx (endPic s c i st) c = some y → getPic y i = none := by
  have hfilter : getPic { x with pics := x.pics.filter fun q => q.id != i } i = none := by
    unfold getPic
    simp
  unfold endPic
  rw [hx]
  dsimp only
  rw [hp]
  dsimp only
  generalize finishFrame s x.queue p.slot _ = s1
  have hc : getCtx (setCtx s1 c { x with pics := x.pics.filter fun q => q.id != i }) c = some { x with pics := x.pics.filter fun q => q.id != i } :=
    (getCtx_setCtx _ _ _ _).trans (if_pos rfl)
  intro y hy
  unfold releaseCheck at hy
  rw [hc] at hy
  dsimp only at hy
  split at hy
  · rw [releaseDone_gone hc] at hy
    exact nomatch hy
  · rw [hc] at hy
    exact Option.some.inj hy ▸ hfilter

theorem encodeInputDone_fails {pic : PicBuf} {psn : Bool} (hx : getCtx s c = some x) (hd : x.dma = some i) (hp : getPic x i = some p)
    (hr : readPlanes s x.block p.se = (pic, true, psn)) : ∀ y, getCtx (encodeInputDone c s) c = some y → getPic y i = none := by
  have hid := id_of_getPic hp
  unfold encodeInputDone
  rw [hx]
  dsimp only
  rw [hd, Option.bind_some, hp]
  dsimp only
  rw [hr, if_pos rfl, hid]
  exact endPic_gone (x := { x with dma := none }) _ ((getCtx_setCtx _ _ _ _).trans (if_pos rfl)) hp

/-! ## Bulk slots (R184) -/

/-- The slot holds the context it is switched to; the record changes no other context. -/
theorem slotSwitch_spec (s : State) (k c : Nat) : nget (slotSwitch s k c).slotCtx k = some c ∧ (slotSwitch s k c).nextId = s.nextId ∧
    ∀ d, d ≠ c → getCtx (slotSwitch s k c) d = getCtx s d := by
  unfold slotSwitch
  split
  · next h => exact ⟨h, rfl, fun _ _ => rfl⟩
  · extract_lets s1
    have h1 : s1.ctxs = s.ctxs ∧ s1.nextId = s.nextId := by
      refine List.foldlRecOn (motive := fun u : State => u.ctxs = s.ctxs ∧ u.nextId = s.nextId) _ _ ⟨rfl, rfl⟩ fun u hu e _ => ?_
      unfold saveRec
      split
      · split <;> exact hu
      · exact hu
    clear_value s1
    have hslot : nget (nset (s.slotCtx.filter fun e => e.2 != c) k c) k = some c := by rw [nget_nset, if_pos rfl]
    have hctx : ∀ d, getCtx { s1 with slotCtx := nset (s.slotCtx.filter fun e => e.2 != c) k c } d = getCtx s d :=
      fun d => (getCtx_congr (s := s1) rfl d).trans (getCtx_congr h1.1 d)
    unfold loadRec
    split
    · exact ⟨hslot, h1.2, fun d hd => ((getCtx_setCtx _ _ _ _).trans (if_neg hd)).trans (hctx d)⟩
    · exact ⟨hslot, h1.2, fun d _ => hctx d⟩

theorem slotCt_frame (s : State) (k c : Nat) (x : Ctx) :
    slotCt s k c x = { s with regs := (slotCt s k c x).regs, shadow := (slotCt s k c x).shadow, snaps := (slotCt s k c x).snaps } := by
  unfold slotCt
  split <;> rfl

/-- The picture of an entry that a bulk slot takes. -/
def bulkPicture (s : State) (k id : Nat) (e : List Byte) : Pic := { encPic s id e with bulk := true, fifo := 216 + k }

theorem bulkSlotTake_begins {k id : Nat} {e : List Byte} {rest : List (Nat × List Byte)} (hk : k < 8) (hfree : nget s.bulkSlots k = none)
    (hp : s.pwr.st = 0) (hw : s.pwr.want = false) (hn : nextBulk s = some c) (hx : getCtx (slotSwitch s k c) c = some x)
    (hd : x.kind ≠ .decode) (he : x.encQ = (id, e) :: rest) (hf : bulkFenced (slotSwitch s k c) = false) :
    bulkSlotTake k s = setCtx { slotCt (slotSwitch s k c) k c x with
        nextId := (slotSwitch s k c).nextId + 1
        bulkSlots := nset (slotSwitch s k c).bulkSlots k (c, (slotSwitch s k c).nextId) } c
      { x with encQ := rest, pics := x.pics ++ [bulkPicture (slotSwitch s k c) k id e], dma := some (slotSwitch s k c).nextId } := by
  unfold bulkSlotTake
  rw [if_neg (by rw [hfree, hp, hw]; simpa using hk), hn]
  dsimp only
  rw [hx]
  dsimp only
  rw [if_neg hd, he]
  dsimp only
  rw [hf]
  rfl

end

/-- Settles O32: a lemma for each step of an entry, from its queue to the slot or the stream that takes its input. -/
theorem encodeEntries : Obligations.EncodeEntries := by
  unfold Obligations.EncodeEntries
  refine ⟨fun s q id e s1 x ha hs hc hb hx hr => ?_, fun s q id e s1 x ha hs hc hb hx hr => ?_,
    fun s q id e s1 ha hs hc hb => runs_act_to rfl ha (encode_malformed hs hc hb),
    fun s c x id e rest t0 ha hx he hk hd hl ht ho => ?_, fun s c x i p pic ha hx hd hp hr => ?_,
    fun s c x i p pic psn ha hx hd hp hr => ⟨_, runs_act rfl ha, encodeInputDone_fails hx hd hp hr⟩,
    fun s k c x id e rest ha hk hfree hp hw hn hx hd he hf => ?_⟩
  · exact runs_act_to rfl ha ((encode_queued hs hc hb hx).trans (if_neg (by simpa using hr)))
  · exact runs_act_to rfl ha ((encode_queued hs hc hb hx).trans (if_pos hr))
  · refine ⟨_, _, encStartPic s c (replaceTiles s x) id e, runs_act_to rfl ha (encodeStart_begins hx he hk hd hl ht ho),
      (getCtx_setCtx _ _ _ _).trans (if_pos rfl), rfl, rfl, rfl, rfl, rfl, rfl, rfl, rfl, rfl, fun d hd => (getCtx_setCtx _ _ _ _).trans (if_neg hd)⟩
  · obtain ⟨y, q, h⟩ := encodeInputDone_closes hx hd hp hr
    exact ⟨_, y, q, runs_act rfl ha, h⟩
  · obtain ⟨h1, h2, h3⟩ := slotSwitch_spec s k c
    have hrun := runs_act_to (c := .bulkSlotTake k) rfl ha (bulkSlotTake_begins hk hfree hp hw hn hx hd he hf)
    rw [slotCt_frame, h2] at hrun
    refine ⟨_, _, hrun, ?_, h1, (getCtx_setCtx _ _ _ _).trans (if_pos rfl), rfl, rfl, ?_, fun d hd => ?_⟩
    · exact (nget_nset _ _ _ _).trans (if_pos rfl)
    · rfl
    · exact ((getCtx_setCtx _ _ _ _).trans (if_neg hd)).trans (h3 d hd)

end Sys2Proof.Machine

namespace Sys2Proof.Machine

/-! PROOFS. DECODE entries, their jobs, and the end of their pictures (R192 to R204). -/

section
variable {s₀ s t : State} {c : Nat} {x : Ctx}

/-! ## Buffers returned change no context but the causes of its pictures -/

protected theorem PicsOnly.upd (h : PicsOnly s₀ s) (e : t.ctxs = s.ctxs) : PicsOnly s₀ t := h.ctxs e

protected theorem PicsOnly.foldl {α : Type} {f : State → α → State} {l : List α} (h : PicsOnly s₀ s)
    (hf : ∀ u x, PicsOnly s₀ u → PicsOnly s₀ (f u x)) : PicsOnly s₀ (l.foldl f s) :=
  List.foldlRecOn l f h fun u hu x _ => hf u x hu

protected theorem PicsOnly.evG {ev : Nat} (hs : PicsOnly s₀ s) : PicsOnly s₀ (evG ev s) := hs.ctxs (by rw [(evG_told _ _).frame])

protected theorem PicsOnly.setEvt {page bit : Nat} (hs : PicsOnly s₀ s) : PicsOnly s₀ (setEvt s page bit) := hs.ctxs (setEvt_ctxs _ _ _)

protected theorem PicsOnly.mgmtTo {dst : Nat} {msg : List Byte} (hs : PicsOnly s₀ s) : PicsOnly s₀ (mgmtTo s dst msg) :=
  hs.ctxs (by rw [((Sends.refl s).mgmtTo (dst := dst) (msg := msg)).frame])

protected theorem PicsOnly.rputN {page bank off v : Nat} (hs : PicsOnly s₀ s) : PicsOnly s₀ (rputN s page bank off v) := hs.ctxs rfl

protected theorem PicsOnly.rput64 {page bank off v : Nat} (hs : PicsOnly s₀ s) : PicsOnly s₀ (rput64 s page bank off v) := hs.ctxs rfl

protected theorem PicsOnly.bump {page bank off n : Nat} (hs : PicsOnly s₀ s) : PicsOnly s₀ (bump s page bank off n) := hs.ctxs rfl

protected theorem PicsOnly.setPool {p : Nat} {x : Pool} (hs : PicsOnly s₀ s) : PicsOnly s₀ (setPool s p x) := hs.upd rfl

protected theorem PicsOnly.setRes {r : Nat} {x : GrnRes} (hs : PicsOnly s₀ s) : PicsOnly s₀ (setRes s r x) := hs.upd rfl

protected theorem PicsOnly.grnDone {r code nfreed : Nat} {addr : Option Nat} (hs : PicsOnly s₀ s) :
    PicsOnly s₀ (grnDone s r code nfreed addr) := by
  unfold grnDone
  extract_lets +onlyGivenNames x
  exact hs.setRes.setEvt

protected theorem PicsOnly.answerWaiter {w : Waiter} {code addr : Nat} (hs : PicsOnly s₀ s) : PicsOnly s₀ (answerWaiter s w code addr) := by
  unfold answerWaiter
  split
  · exact hs.grnDone
  · exact hs.mgmtTo

protected theorem PicsOnly.xreqContend {p : Nat} (hs : PicsOnly s₀ s) : PicsOnly s₀ (xreqContend s p) := by
  unfold xreqContend
  extract_lets +onlyGivenNames x
  refine PicsOnly.ite ?_ ?_
  · split
    · exact hs.setPool.evG.answerWaiter.bump
    · exact hs
  · exact hs

protected theorem PicsOnly.testHead {p : Nat} (hs : PicsOnly s₀ s) : PicsOnly s₀ (testHead s p) := by
  unfold testHead
  extract_lets +onlyGivenNames s' x
  have hs' : PicsOnly s₀ s' := hs.xreqContend
  clear_value s'
  split
  · exact hs'
  · split
    · exact hs'.setPool.evG.answerWaiter
    · exact hs'

protected theorem PicsOnly.rejectFree {p a o code : Nat} (hs : PicsOnly s₀ s) : PicsOnly s₀ (rejectFree s p a o code) := by
  unfold rejectFree
  extract_lets +onlyGivenNames off src s1 s2
  have hs1 : PicsOnly s₀ s1 := hs.bump
  clear_value s1
  have hs2 : PicsOnly s₀ s2 := hs1.rputN
  clear_value s2
  exact hs2.rput64.raiseFault

protected theorem PicsOnly.grnFree {p a o : Nat} (hs : PicsOnly s₀ s) : PicsOnly s₀ (grnFree s p a o).2 := by
  unfold grnFree
  extract_lets +onlyGivenNames code
  split
  · dsimp only
    exact hs.setPool.testHead
  · split
    · dsimp only
      exact hs
    · dsimp only
      exact hs.rejectFree.testHead

protected theorem PicsOnly.freeBuf {c : Nat} {b : Option (Nat × Nat)} (hs : PicsOnly s₀ s) : PicsOnly s₀ (freeBuf s c b) := by
  unfold freeBuf
  split
  · exact hs.grnFree
  · exact hs

protected theorem PicsOnly.freeBufs {c : Nat} {bs : List (Nat × Nat)} (hs : PicsOnly s₀ s) : PicsOnly s₀ (freeBufs s c bs) := by
  unfold freeBufs
  exact hs.foldl fun _ _ hu => hu.freeBuf

/-! ## The entry -/

theorem decode_malformed {q id : Nat} {e : List Byte} {s1 : State} (hs : takeStarted s q (fun se => byteAt se 0 == 0x20) = some (id, e, s1))
    (ha : cfgAhead s q id (leAt e 2 2) = false) (hb : decBad s q e = true) : decodeOp q s = finishSlot s1 q id (decCe s e 0x08 (decNone 0)) := by
  unfold decodeOp
  rw [hs]
  dsimp only
  rw [ha, hb]
  rfl

/-- A picture of the context is in progress: nothing more starts. -/
theorem decStart_busy {k : Nat} (h : x.dec.run.isSome = true) : decStart s k c x = s := by
  obtain ⟨r, hr⟩ := Option.isSome_iff_exists.mp h
  unfold decStart
  rw [hr]
  cases x.dec.queue <;> rfl

theorem decode_queued {q id : Nat} {e : List Byte} {s1 : State} (hs : takeStarted s q (fun se => byteAt se 0 == 0x20) = some (id, e, s1))
    (ha : cfgAhead s q id (leAt e 2 2) = false) (hb : decBad s q e = false) (hx : getCtx s1 (leAt e 2 2) = some x)
    (h : freeSlot s = none ∨ x.dec.run.isSome = true) :
    decodeOp q s = setCtx s1 (leAt e 2 2) { x with dec := { x.dec with queue := x.dec.queue ++ [(id, e)] } } := by
  obtain ⟨m, hm⟩ := takeStarted_frame hs
  unfold decodeOp
  rw [hs]
  dsimp only
  rw [ha, hb, if_neg Bool.false_ne_true, if_neg Bool.false_ne_true, hx]
  dsimp only
  split
  · next i hi =>
    have hslot : freeSlot s = some i := by rw [hm] at hi; exact hi
    exact decStart_busy (x := { x with dec := { x.dec with queue := x.dec.queue ++ [(id, e)] } })
      (h.resolve_left (by rw [hslot]; exact Option.some_ne_none i))
  · rfl

/-! ## The picture's input -/

/-- What a picture in progress starts with. -/
def acsRun (id : Nat) (e d : List Byte) (r : DecParse) (n : Nat) : DecRun :=
  { slot := id, se := e, input := d, parse := r, left := n, peMissing := false, bufs := [] }

theorem decStart_acs {k id : Nat} {e : List Byte} {rest : List (Nat × List Byte)} {d : List Byte} {psn : Bool} {y : Ctx} {r : DecParse}
    (hq : x.dec.queue = (id, e) :: rest) (hrun : x.dec.run = none) (hn : De.inLen e ≠ 0)
    (hm : memRead s (De.inLoc e) (De.inAddr e) (De.inLen e) = (d, none, psn))
    (hb : bulkFenced (readLoc s (De.inLoc e) (De.inAddr e) (De.inLen e)).2 = false) (hf : Db.format x.block ≠ 1)
    (hp : parseUnits (d.length + 1) d { x with dec := { x.dec with queue := rest } } {} = (y, r)) (herr : acsErr y e r = 0) :
    let u := (readLoc s (De.inLoc e) (De.inAddr e) (De.inLen e)).2
    let js := acsJobs c id u.nextId (y.dec.firstSh.getD []) r
    decStart s k c x = setCtx { u with nextId := u.nextId + js.length, jobs := u.jobs ++ js, bulkSlots := nset u.bulkSlots k (c, id) } c
      { y with dec := { y.dec with run := some (acsRun id e d r js.length) } } := by
  have hrd : (readLoc s (De.inLoc e) (De.inAddr e) (De.inLen e)).1 = (d, none, psn) := hm
  unfold decStart
  rw [hq, hrun]
  simp only [if_neg hn]
  generalize readLoc s (De.inLoc e) (De.inAddr e) (De.inLen e) = ac at hb hrd ⊢
  obtain ⟨a, u⟩ := ac
  cases hrd
  dsimp only at hb ⊢
  refine (if_neg (by rw [hb]; exact Bool.false_ne_true)).trans ((if_neg Bool.false_ne_true).trans ((if_neg hf).trans ?_))
  rw [hp]
  dsimp only
  cases y.dec.firstSh
  · exact if_neg (not_not.mpr herr)
  · exact if_neg (not_not.mpr herr)

/-- The input is not readable: the entry ends and nothing of it starts. -/
theorem decStart_unread {k id cls : Nat} {e : List Byte} {rest : List (Nat × List Byte)} {d : List Byte} {psn : Bool}
    (hq : x.dec.queue = (id, e) :: rest) (hrun : x.dec.run = none) (hn : De.inLen e ≠ 0)
    (hm : memRead s (De.inLoc e) (De.inAddr e) (De.inLen e) = (d, some cls, psn))
    (hb : bulkFenced (readLoc s (De.inLoc e) (De.inAddr e) (De.inLen e)).2 = false) :
    let u := (readLoc s (De.inLoc e) (De.inAddr e) (De.inLen e)).2
    decStart s k c x = decEnd (setCtx u c { x with dec := { x.dec with queue := rest } }) c x.queue id [] (decCe u e 0x09 (decNone 0)) := by
  have hrd : (readLoc s (De.inLoc e) (De.inAddr e) (De.inLen e)).1 = (d, some cls, psn) := hm
  unfold decStart
  rw [hq, hrun]
  simp only [if_neg hn]
  generalize readLoc s (De.inLoc e) (De.inAddr e) (De.inLen e) = ac at hb hrd ⊢
  obtain ⟨a, u⟩ := ac
  cases hrd
  dsimp only at hb ⊢
  exact (if_neg (by rw [hb]; exact Bool.false_ne_true)).trans (if_pos rfl)

theorem slotSwitch_frame (s : State) (k c : Nat) : slotSwitch s k c = { s with
    slotRecs := (slotSwitch s k c).slotRecs, slotCtx := (slotSwitch s k c).slotCtx, ctxs := (slotSwitch s k c).ctxs } := by
  unfold slotSwitch
  split
  · rfl
  · extract_lets s1
    have h1 : s1 = { s with slotRecs := s1.slotRecs } := by
      refine List.foldlRecOn (motive := fun u : State => u = { s with slotRecs := u.slotRecs }) _ _ rfl fun u hu e _ => ?_
      unfold saveRec
      split
      · split
        · rw [hu]
        · exact hu
      · exact hu
    clear_value s1
    unfold loadRec
    split
    · rw [h1]
      rfl
    · rw [h1]

/-- A free bulk slot whose next context decodes starts its next entry. -/
theorem bulkSlotTake_decodes {k : Nat} (hk : k < 8) (hfree : nget s.bulkSlots k = none) (hp : s.pwr.st = 0) (hw : s.pwr.want = false)
    (hn : nextBulk s = some c) (hx : getCtx (slotSwitch s k c) c = some x) (hd : x.kind = .decode) :
    bulkSlotTake k s = decStart (slotSwitch s k c) k c x := by
  unfold bulkSlotTake
  rw [if_neg (by rw [hfree, hp, hw]; simpa using hk), hn]
  dsimp only
  rw [hx]
  exact if_pos hd

/-- What a slot that reads its entry's input leaves of the device. -/
theorem slotRead_keeps (s : State) (k c loc a n : Nat) : (readLoc (slotSwitch s k c) loc a n).2.nextId = s.nextId ∧
    (readLoc (slotSwitch s k c) loc a n).2.jobs = s.jobs ∧ (readLoc (slotSwitch s k c) loc a n).2.bulkSlots = s.bulkSlots ∧
    (readLoc (slotSwitch s k c) loc a n).2.queues = s.queues ∧ (readLoc (slotSwitch s k c) loc a n).2.dt = s.dt := by
  have h := (readLoc_memNoted (slotSwitch s k c) loc a n).frame
  have g := slotSwitch_frame s k c
  generalize slotSwitch s k c = v at h g ⊢
  generalize (readLoc v loc a n).2 = u at h ⊢
  have hu : u.nextId = v.nextId ∧ u.jobs = v.jobs ∧ u.bulkSlots = v.bulkSlots ∧ u.queues = v.queues ∧ u.dt = v.dt := by
    rw [h]
    exact ⟨rfl, rfl, rfl, rfl, rfl⟩
  have hv : v.nextId = s.nextId ∧ v.jobs = s.jobs ∧ v.bulkSlots = s.bulkSlots ∧ v.queues = s.queues ∧ v.dt = s.dt := by
    rw [g]
    exact ⟨rfl, rfl, rfl, rfl, rfl⟩
  obtain ⟨u1, u2, u3, u4, u5⟩ := hu
  obtain ⟨v1, v2, v3, v4, v5⟩ := hv
  exact ⟨u1.trans v1, u2.trans v2, u3.trans v3, u4.trans v4, u5.trans v5⟩

/-! ## The end of a picture -/

/-- What the end of an entry leaves of a context: all but its pictures. -/
theorem decEnd_get {q id : Nat} {bufs : List (Nat × Nat)} {ce : List Byte} :
    ∃ ps, getCtx (decEnd (setCtx s c x) c q id bufs ce) c = some { x with pics := ps } := by
  refine PicsOnly.get (s := setCtx s c x) ?_ ((getCtx_setCtx _ _ _ _).trans (if_pos rfl))
  have h : PicsOnly (setCtx s c x) { setCtx s c x with bulkSlots := (setCtx s c x).bulkSlots.filter fun e => e.2 != (c, id) } :=
    (PicsOnly.refl _).upd rfl
  exact h.freeBufs.upd (finishSlot_ctxs _ _ _ _)

theorem decOutput_get {r : DecRun} {nums : Nat × Nat} {flags miss : Nat} {kinds : List Nat} {sizes : List (Nat × Nat)} {ls : List OutLine} :
    ∃ ps, getCtx (decOutput s c x r nums flags miss kinds sizes ls) c =
      some { x with dec := { x.dec with run := none, count := x.dec.count + 1 }, pics := ps } := by
  unfold decOutput
  extract_lets
  exact decEnd_get (x := { x with dec := { x.dec with run := none, count := x.dec.count + 1 } })

/-- The pictures of the segments, each concealed first if it wrote outside its place. -/
theorem acsFinish_done {r : DecRun} {sh ph : List Byte} (ha : r.aborted = false) :
    let prev := if De.grey r.se then none else x.dec.prev
    let d := decSegs sh ph (phRefs x.slots ph) prev r.parse r.timeouts
    ∃ y, getCtx (acsFinish s c x r sh ph) c = some y ∧ y.dec.run = none ∧ y.dec.count = x.dec.count + 1 ∧
      y.dec.prev = some (segsPic (Sh.geo sh) ((d.1.zip d.2).map fun t => (guardOob r.se (Sh.geo sh) prev t.1 t.2).1)) ∧
      y.dec.queue = x.dec.queue ∧ y.block = x.block := by
  intro prev d
  unfold acsFinish
  dsimp only
  rw [ha, if_neg Bool.false_ne_true]
  obtain ⟨ps, hps⟩ := decOutput_get
  refine ⟨_, hps, rfl, rfl, ?_, rfl, rfl⟩
  dsimp only
  rw [List.unzip_fst, List.map_map]
  rfl

theorem hevcFinish_unparsed {r : DecRun} (h : Config.hevcParse x.block r.input = none) : hevcFinish s c x r = s := by
  simp only [hevcFinish, h]

theorem hevcFinish_done {r : DecRun} {p : Config.HevcSyn} (h : Config.hevcParse x.block r.input = some p) :
    ∃ y, getCtx (hevcFinish s c x r) c = some y ∧ y.dec.run = none ∧ y.block = x.block ∧
      y.dec.count = x.dec.count + if r.aborted then 0 else 1 := by
  simp only [hevcFinish, h]
  split
  · obtain ⟨ps, hps⟩ := decEnd_get
    exact ⟨_, hps, rfl, rfl, rfl⟩
  · obtain ⟨ps, hps⟩ := decOutput_get
    exact ⟨_, hps, rfl, rfl, rfl⟩

theorem decodeFinish_acs {r : DecRun} {sh ph : List Byte} (hx : getCtx s c = some x) (hr : x.dec.run = some r) (hl : r.left = 0)
    (hf : Db.format x.block ≠ 1) (hs : x.dec.firstSh = some sh) (hp : r.parse.ph = some ph) :
    decodeFinish c s = acsFinish s c x r sh ph := by
  unfold decodeFinish
  rw [hx]
  dsimp only
  rw [hr]
  dsimp only
  rw [hs, hp]
  exact (if_neg (not_not.mpr hl)).trans (if_neg hf)

theorem decodeFinish_hevc {r : DecRun} (hx : getCtx s c = some x) (hr : x.dec.run = some r) (hl : r.left = 0)
    (hf : Db.format x.block = 1) : decodeFinish c s = hevcFinish s c x r := by
  unfold decodeFinish
  rw [hx]
  dsimp only
  rw [hr]
  exact (if_neg (not_not.mpr hl)).trans (if_pos hf)

end

/-- Settles O34: an entry is judged before anything starts, a slot's read decides between jobs and an end, and the end of a picture
changes its context in the fields that it names. -/
theorem decodePictures : Obligations.DecodePictures := by
  unfold Obligations.DecodePictures
  refine ⟨fun s q id e s1 ha hs hc hb => runs_act_to rfl ha (decode_malformed hs hc hb),
    fun s q id e s1 x ha hs hc hb hx h => runs_act_to rfl ha (decode_queued hs hc hb hx h), ?_, ?_, ?_, ?_⟩
  · intro s k c x id e rest d psn y r ha hk hfree hp hw hn hx hd hq hrun hlen hm hb hf hpar herr
    have hgo := runs_act_to (c := .bulkSlotTake k) rfl ha
      ((bulkSlotTake_decodes hk hfree hp hw hn hx hd).trans (decStart_acs hq hrun hlen hm hb hf hpar herr))
    obtain ⟨hid, hjobs, hslots, -, -⟩ := slotRead_keeps s k c (De.inLoc e) (De.inAddr e) (De.inLen e)
    generalize (readLoc (slotSwitch s k c) (De.inLoc e) (De.inAddr e) (De.inLen e)).2 = u at hgo hid hjobs hslots ⊢
    rw [hid, hjobs, hslots] at hgo
    exact ⟨_, _, _, _, hgo, (getCtx_setCtx _ _ _ _).trans (if_pos rfl), rfl, rfl, rfl, rfl, rfl, rfl, rfl, rfl, rfl⟩
  · intro s k c x id e rest d cls psn ha hk hfree hp hw hn hx hd hq hrun hlen hm hb
    have hgo := runs_act_to (c := .bulkSlotTake k) rfl ha
      ((bulkSlotTake_decodes hk hfree hp hw hn hx hd).trans (decStart_unread hq hrun hlen hm hb))
    obtain ⟨-, hjobs, -, hqs, hdt⟩ := slotRead_keeps s k c (De.inLoc e) (De.inAddr e) (De.inLen e)
    generalize (readLoc (slotSwitch s k c) (De.inLoc e) (De.inAddr e) (De.inLen e)).2 = u at hgo hjobs hqs hdt
    have hce : decCe u e 0x09 (decNone 0) = decCe s e 0x09 (decNone 0) := by
      unfold decCe nowNs
      rw [hdt]
    rw [hce] at hgo
    exact ⟨_, _, hgo, (getCtx_setCtx u _ _ _).trans (if_pos rfl), rfl, hrun, hjobs, finishSlot_queues hqs _ _ _⟩
  · intro s c x r sh ph ha hx hr hl hf hs hp hab
    obtain ⟨y, h⟩ := acsFinish_done (s := s) (c := c) (x := x) (sh := sh) (ph := ph) hab
    exact ⟨_, y, runs_act_to rfl ha (decodeFinish_acs hx hr hl hf hs hp), h⟩
  · intro s c x r ha hx hr hl hf
    refine ⟨_, runs_act_to rfl ha (decodeFinish_hevc hx hr hl hf), ?_⟩
    split
    · next hn => exact hevcFinish_unparsed hn
    · next p hp => exact hevcFinish_done hp

end Sys2Proof.Machine

namespace Sys2Proof.Machine

/-! PROOFS. What is emitted stays emitted and an idle port stays idle while packets are handed over (R312, R314, R451). -/

/-- What `s` has emitted stays in `t`, and a port that is idle in `s` is idle in `t`. -/
structure Handed (s t : State) : Prop where
  emitted : ∀ m ∈ s.emitted, m ∈ t.emitted
  idle : ∀ p, (getPort s p).cur = none → (getPort t p).cur = none

section
variable {s₀ s t : State}


protected theorem Handed.refl (s : State) : Handed s s := ⟨fun _ h => h, fun _ h => h⟩

protected theorem Handed.trans (h : Handed s₀ s) (g : Handed s t) : Handed s₀ t :=
  ⟨fun m hm => g.emitted m (h.emitted m hm), fun p hp => g.idle p (h.idle p hp)⟩

protected theorem Handed.upd (h : Handed s₀ s) (e : (t.emitted, t.eports) = (s.emitted, s.eports)) : Handed s₀ t := by
  simp only [Prod.mk.injEq] at e
  obtain ⟨hm, hp⟩ := e
  refine h.trans ⟨fun m h => hm ▸ h, fun p h => ?_⟩
  unfold getPort
  rw [hp]
  exact h

protected theorem Handed.ite {c : Prop} [Decidable c] (h : Handed s₀ s) (g : Handed s₀ t) : Handed s₀ (if c then s else t) := by
  split <;> assumption

protected theorem Handed.foldl {α : Type} {f : State → α → State} {l : List α} (h : Handed s₀ s)
    (hf : ∀ u x, Handed s₀ u → Handed s₀ (f u x)) : Handed s₀ (l.foldl f s) :=
  List.foldlRecOn l f h fun u hu x _ => hf u x hu

protected theorem Handed.emit {e : Emit} (hs : Handed s₀ s) : Handed s₀ (emit s e) :=
  hs.trans ⟨fun _ h => List.mem_append_left _ h, fun _ h => h⟩

/-- A port is left idle. -/
protected theorem Handed.setIdle {p : Nat} {x : EPort} (hs : Handed s₀ s) (hx : x.cur = none) : Handed s₀ (setPort s p x) := by
  refine hs.trans ⟨fun _ h => h, fun q hq => ?_⟩
  rw [getPort_setPort]
  split
  · exact hx
  · exact hq


protected theorem Handed.dropFrames (hs : Handed s₀ s) : Handed s₀ (dropFrames s) := by
  unfold dropFrames
  refine hs.foldl fun u p hu => ?_
  exact Handed.ite (Handed.setIdle (Handed.ite hu.emit hu) rfl) hu

protected theorem Handed.rput {page bank off : Nat} {v : U32} (hs : Handed s₀ s) : Handed s₀ (rput s page bank off v) := hs.upd rfl

protected theorem Handed.rputN {page bank off v : Nat} (hs : Handed s₀ s) : Handed s₀ (rputN s page bank off v) := by
  unfold rputN
  exact hs.rput

protected theorem Handed.rput64 {page bank off v : Nat} (hs : Handed s₀ s) : Handed s₀ (rput64 s page bank off v) := by
  unfold rput64
  exact hs.rputN.rputN

protected theorem Handed.sput {page bank off : Nat} {v : U32} (hs : Handed s₀ s) : Handed s₀ (sput s page bank off v) := hs.upd rfl

protected theorem Handed.bump {page bank off n : Nat} (hs : Handed s₀ s) : Handed s₀ (bump s page bank off n) := by
  unfold bump
  exact hs.rputN

protected theorem Handed.bump16 {page bank off lo n : Nat} (hs : Handed s₀ s) : Handed s₀ (bump16 s page bank off lo n) := by
  unfold bump16
  extract_lets +onlyGivenNames v
  exact hs.rputN

protected theorem Handed.boothField {page bank off hi lo v : Nat} (hs : Handed s₀ s) :
    Handed s₀ (boothField s page bank off hi lo v) := by
  unfold boothField
  extract_lets +onlyGivenNames shadow
  exact Handed.upd (s := sput (rputN s page bank off (setBits (rgetN s page bank off) hi lo v)) page bank off
      (BitVec.ofNat 32 shadow)) hs.rputN.sput rfl

protected theorem Handed.setHdr {page : Nat} {h : PageHdr} (hs : Handed s₀ s) : Handed s₀ (setHdr s page h) := hs.upd rfl

protected theorem Handed.sendMsix {v : Nat} (hs : Handed s₀ s) : Handed s₀ (sendMsix s v) := by
  unfold sendMsix
  exact Handed.ite (hs.upd rfl) hs.emit

protected theorem Handed.fresh (hs : Handed s₀ s) : Handed s₀ (fresh s).2 := by
  unfold fresh
  dsimp only
  exact hs.upd rfl

protected theorem Handed.setCtx {c : Nat} {x : Ctx} (hs : Handed s₀ s) : Handed s₀ (setCtx s c x) := hs.upd rfl

protected theorem Handed.setQ {q : Nat} {x : Queue} (hs : Handed s₀ s) : Handed s₀ (setQ s q x) := hs.upd rfl

protected theorem Handed.setTile {t : Nat} {x : Tile} (hs : Handed s₀ s) : Handed s₀ (setTile s t x) := hs.upd rfl

protected theorem Handed.setPool {p : Nat} {x : Pool} (hs : Handed s₀ s) : Handed s₀ (setPool s p x) := hs.upd rfl

protected theorem Handed.setFifo {f : Nat} {x : Fifo} (hs : Handed s₀ s) : Handed s₀ (setFifo s f x) := hs.upd rfl

protected theorem Handed.setFlow {f : Nat} {x : Machine.Flow} (hs : Handed s₀ s) : Handed s₀ (setFlow s f x) := hs.upd rfl

protected theorem Handed.setRing {r : Nat} {x : Machine.Ring} (hs : Handed s₀ s) : Handed s₀ (setRing s r x) := hs.upd rfl

protected theorem Handed.setSf {p : Nat} {x : SfPort} (hs : Handed s₀ s) : Handed s₀ (setSf s p x) := hs.upd rfl

protected theorem Handed.setSrc {n : Nat} {x : CSrc} (hs : Handed s₀ s) : Handed s₀ (setSrc s n x) := hs.upd rfl

protected theorem Handed.hostWrite {a : Nat} {bs : List Byte} (hs : Handed s₀ s) : Handed s₀ (hostWrite s a bs) := hs.upd rfl

protected theorem Handed.hbmWriteB {a : Nat} {bs : List Byte} {poison : Bool} (hs : Handed s₀ s) :
    Handed s₀ (hbmWriteB s a bs poison) := hs.upd rfl

protected theorem Handed.hostPut {a : Nat} {bs : List Byte} {poison : Bool} (hs : Handed s₀ s) : Handed s₀ (hostPut s a bs poison) := by
  unfold hostPut
  extract_lets +onlyGivenNames s1
  have hs1 : Handed s₀ s1 := hs.hostWrite
  clear_value s1
  exact hs1.upd rfl

protected theorem Handed.memWrite {loc addr : Nat} {bs : List Byte} {poison : Bool} (hs : Handed s₀ s) :
    Handed s₀ (memWrite s loc addr bs poison) := by
  unfold memWrite
  exact Handed.ite (Handed.ite hs hs.hostPut) hs.hbmWriteB

protected theorem Handed.arbTake {key r n : Nat} (hs : Handed s₀ s) : Handed s₀ (arbTake s key r n) := hs.upd rfl

protected theorem Handed.comTake {a r : Nat} (hs : Handed s₀ s) : Handed s₀ (comTake s a r) := by
  unfold comTake
  exact hs.arbTake

protected theorem Handed.comPut {a : Nat} {w : LW} (hs : Handed s₀ s) : Handed s₀ (comPut s a w) := by
  unfold comPut
  split
  · exact hs
  · exact hs.upd rfl

protected theorem Handed.tell {n : Nat} (hs : Handed s₀ s) : Handed s₀ (tell s n) := by
  unfold tell
  extract_lets +onlyGivenNames c l
  refine Handed.ite ?_ ?_
  · exact hs
  · extract_lets +onlyGivenNames s1
    have hs1 : Handed s₀ s1 := hs.setSrc
    clear_value s1
    exact Handed.ite hs1.sendMsix hs1

protected theorem Handed.tellPage {page : Nat} (hs : Handed s₀ s) : Handed s₀ (tellPage s page) := by
  unfold tellPage
  split
  · split
    · exact hs.tell
    · exact hs
  · exact hs

protected theorem Handed.setEvts {page : Nat} {mask : U32} (hs : Handed s₀ s) : Handed s₀ (setEvts s page mask) := by
  unfold setEvts
  extract_lets +onlyGivenNames h
  exact hs.setHdr.tellPage

protected theorem Handed.setEvt {page bit : Nat} (hs : Handed s₀ s) : Handed s₀ (setEvt s page bit) := by
  unfold setEvt
  exact hs.setEvts

protected theorem Handed.setLevel {n : Nat} {l : Bool} (hs : Handed s₀ s) : Handed s₀ (setLevel s n l) := by
  unfold setLevel
  exact hs.setSrc.tell

protected theorem Handed.logFault {e : LogEnt} (hs : Handed s₀ s) : Handed s₀ (logFault s e) := by
  unfold logFault
  extract_lets +onlyGivenNames f full s1
  have hs1 : Handed s₀ s1 := (Handed.setEvt (hs.upd rfl))
  clear_value s1
  exact Handed.ite hs1.setEvt hs1

protected theorem Handed.enterFault {id : Nat} (hs : Handed s₀ s) : Handed s₀ (enterFault s id) := by
  unfold enterFault
  refine Handed.ite ?_ ?_
  · exact hs
  · extract_lets +onlyGivenNames s1
    have hs1 : Handed s₀ s1 := hs.dropFrames
    clear_value s1
    exact Handed.emit (hs1.upd rfl)

protected theorem Handed.fencePage {page : Nat} (hs : Handed s₀ s) : Handed s₀ (fencePage s page) := by
  unfold fencePage
  exact hs.setHdr

protected theorem Handed.applySev {k : PageKind} {page src info sev : Nat} (hs : Handed s₀ s) :
    Handed s₀ (applySev s k page src info sev) := by
  unfold applySev
  extract_lets +onlyGivenNames s1 s2
  have hs1 : Handed s₀ s1 := (Handed.ite hs.setLevel hs)
  clear_value s1
  have hs2 : Handed s₀ s2 := by
    unfold s2
    refine Handed.ite ?_ ?_
    · refine Handed.setLevel ?_
      split
      · exact hs1.fencePage
      · exact hs1
    · exact hs1
  clear_value s2
  exact Handed.ite hs2.enterFault hs2

protected theorem Handed.breakClass {rq : Requester} (hs : Handed s₀ s) : Handed s₀ (breakClass s rq) := hs.upd rfl

protected theorem Handed.lockstepBreak {page src info : Nat} (hs : Handed s₀ s) : Handed s₀ (lockstepBreak s page src info) := by
  unfold lockstepBreak
  refine Handed.ite ?_ ?_
  · split
    · exact hs.breakClass
    · exact hs
  · exact hs

protected theorem Handed.raiseBase {page src info : Nat} (hs : Handed s₀ s) : Handed s₀ (raiseBase s page src info) := by
  unfold raiseBase
  split
  · exact hs
  · refine Handed.ite ?_ ?_
    · exact hs
    · extract_lets +onlyGivenNames sev h s1
      have hs1 : Handed s₀ s1 := (Handed.ite hs.setHdr.bump hs.setHdr.logFault)
      clear_value s1
      exact hs1.applySev.lockstepBreak

protected theorem Handed.markCtxs {which : Nat → Ctx → Bool} {sel : Nat → Pic → Bool} {cause : Nat} (hs : Handed s₀ s) :
    Handed s₀ (markCtxs s which sel cause) := hs.upd rfl

protected theorem Handed.containBreach {k : PageKind} {page src info : Nat} (hs : Handed s₀ s) :
    Handed s₀ (containBreach s k page src info) := by
  unfold containBreach
  split
  · exact hs.markCtxs
  · exact Handed.ite hs.markCtxs hs
  · exact Handed.ite hs.markCtxs hs

protected theorem Handed.raiseFault {page src info : Nat} (hs : Handed s₀ s) : Handed s₀ (raiseFault s page src info) := by
  unfold raiseFault
  split
  · exact hs
  · extract_lets +onlyGivenNames sev s1
    have hs1 : Handed s₀ s1 := hs.raiseBase
    clear_value s1
    exact Handed.ite hs1.containBreach hs1

protected theorem Handed.hbmFault {page src : Nat} (hs : Handed s₀ s) : Handed s₀ (hbmFault s page src) := by
  unfold hbmFault
  exact hs.raiseFault.setEvt

protected theorem Handed.hbmInfo {pc kind block : Nat} (hs : Handed s₀ s) : Handed s₀ (hbmInfo s pc kind block) := by
  unfold hbmInfo
  exact hs.rputN.rput64

protected theorem Handed.hbmUe {pc block : Nat} (hs : Handed s₀ s) : Handed s₀ (hbmUe s pc block) := by
  unfold hbmUe
  exact hs.bump16.hbmInfo.hbmFault

protected theorem Handed.rangeFault (hs : Handed s₀ s) : Handed s₀ (rangeFault s) := by
  unfold rangeFault
  exact hs.hbmFault

protected theorem Handed.noteRange {loc : Nat} {err : Option Nat} (hs : Handed s₀ s) : Handed s₀ (noteRange s loc err) := by
  unfold noteRange
  exact Handed.ite hs.rangeFault hs

protected theorem Handed.ueBlocks {l : List Nat} (hs : Handed s₀ s) : Handed s₀ (ueBlocks s l) := by
  unfold ueBlocks
  exact hs.foldl fun _ _ hu => hu.hbmUe

protected theorem Handed.markUe {c pic : Nat} (hs : Handed s₀ s) : Handed s₀ (markUe s c pic) := by
  unfold markUe
  exact hs.markCtxs

protected theorem Handed.writeLoc {loc addr : Nat} {bs : List Byte} {poison : Bool} (hs : Handed s₀ s) :
    Handed s₀ (writeLoc s loc addr bs poison) := by
  unfold writeLoc
  exact hs.memWrite.ueBlocks.noteRange

protected theorem Handed.overflow {t : Option Nat} {n : Nat} (hs : Handed s₀ s) : Handed s₀ (overflow s t n) := by
  unfold overflow
  extract_lets +onlyGivenNames b s1
  have hs1 : Handed s₀ s1 := hs.rputN
  clear_value s1
  refine Handed.ite ?_ ?_
  · extract_lets +onlyGivenNames s2
    have hs2 : Handed s₀ s2 := hs1.setEvt
    clear_value s2
    exact Handed.ite hs2.rputN hs2
  · exact hs1

protected theorem Handed.perfAdd {t : Option Nat} {f n k : Nat} (hs : Handed s₀ s) : Handed s₀ (perfAdd t f s n k) := by
  induction f generalizing s n k with
  | zero => exact hs
  | succ f ih =>
    unfold perfAdd
    simp only
    split
    · exact hs.rputN
    · exact (Handed.ite (ih hs.rputN) hs.rputN).overflow

protected theorem Handed.perfEvt {t : Option Nat} {ev k : Nat} (hs : Handed s₀ s) : Handed s₀ (perfEvt t ev k s) := by
  unfold perfEvt
  exact Handed.ite hs (hs.foldl fun _ _ hu => hu.perfAdd)

protected theorem Handed.evG {ev : Nat} (hs : Handed s₀ s) : Handed s₀ (evG ev s) := by
  unfold evG
  exact hs.perfEvt

protected theorem Handed.markWord {f a : Nat} (hs : Handed s₀ s) : Handed s₀ (markWord s f a) := by
  unfold markWord
  extract_lets +onlyGivenNames n x d
  refine Handed.ite ?_ ?_
  · exact hs
  · refine Handed.ite ?_ ?_
    · exact hs.markCtxs
    · split
      · exact hs.markCtxs
      · exact hs

protected theorem Handed.comUe {a : Nat} (hs : Handed s₀ s) : Handed s₀ (comUe s a) := by
  unfold comUe
  extract_lets +onlyGivenNames s1 s2
  have hs1 : Handed s₀ s1 := hs.bump.rputN
  clear_value s1
  have hs2 : Handed s₀ s2 := (hs1.foldl fun _ _ hu => hu.markWord)
  clear_value s2
  exact Handed.raiseFault (hs2.upd rfl)

protected theorem Handed.fifoStore {f : Nat} {x : Fifo} (hs : Handed s₀ s) : Handed s₀ (fifoStore s f x) := by
  unfold fifoStore
  extract_lets +onlyGivenNames n occ lvl up x1 s1 i s2
  have hs1 : Handed s₀ s1 := hs.setFifo
  clear_value s1
  have hs2 : Handed s₀ s2 := (Handed.ite hs1.rputN hs1)
  clear_value s2
  exact Handed.ite hs2.rputN hs2

protected theorem Handed.fifoStall {f k : Nat} (hs : Handed s₀ s) : Handed s₀ (fifoStall s f k) := by
  unfold fifoStall
  extract_lets +onlyGivenNames x
  exact Handed.ite hs hs.setFifo

protected theorem Handed.fifoPut {f : Nat} {w : LW} (hs : Handed s₀ s) : Handed s₀ (fifoPut s f w) := by
  unfold fifoPut
  extract_lets +onlyGivenNames n x
  exact hs.comTake.comPut.fifoStore

protected theorem Handed.fifoPush {f : Nat} {bs : List Byte} (hs : Handed s₀ s) : Handed s₀ (fifoPush s f bs) := by
  unfold fifoPush
  exact hs.foldl fun _ _ hu => hu.fifoPut

protected theorem Handed.fifoFault {f src : Nat} (hs : Handed s₀ s) : Handed s₀ (fifoFault s f src) := by
  unfold fifoFault
  exact hs.rputN.raiseFault

protected theorem Handed.fifoUe {f a : Nat} (hs : Handed s₀ s) : Handed s₀ (fifoUe s f a) := by
  unfold fifoUe
  exact hs.bump.comUe.fifoFault

protected theorem Handed.fifoTake {f k : Nat} (hs : Handed s₀ s) : Handed s₀ (fifoTake s f k) := by
  unfold fifoTake
  extract_lets +onlyGivenNames n x k s0 s1
  have hs0 : Handed s₀ s0 := (hs.foldl fun _ _ hu => hu.comTake)
  clear_value s0
  have hs1 : Handed s₀ s1 := (hs0.foldl fun _ _ hu => hu.fifoUe)
  clear_value s1
  exact hs1.fifoStore

protected theorem Handed.sfTransmit {p c : Nat} {t : TxFlit} (hs : Handed s₀ s) : Handed s₀ (sfTransmit s p c t).2 := by
  unfold sfTransmit
  split
  · extract_lets +onlyGivenNames b s1 f s2
    have hs1 : Handed s₀ s1 := hs.fifoPush
    clear_value s1
    have hs2 : Handed s₀ s2 := hs1.setFifo
    clear_value s2
    dsimp only
    exact hs2.emit
  · dsimp only
    exact hs.fifoStall

protected theorem Handed.sfPump {p c : Nat} {l : List TxFlit} (hs : Handed s₀ s) : Handed s₀ (sfPump s p c l).2 := by
  induction l generalizing s with
  | nil => exact hs
  | cons x rest ih =>
    unfold sfPump
    simp only
    split
    · split
      · exact hs.sfTransmit
      · exact ih hs.sfTransmit
    · exact ih hs

protected theorem Handed.setTx {p c : Nat} {t : TxCls} (hs : Handed s₀ s) : Handed s₀ (setTx s p c t) := by
  unfold setTx
  extract_lets +onlyGivenNames x
  exact hs.setSf

protected theorem Handed.sendSrc {p typ cls colour dst src : Nat} {sop eop : Bool} {payload : List Byte}
    {ctx : Option (Nat × Nat)} (hs : Handed s₀ s) :
    Handed s₀ (sendSrc s p typ cls colour dst src sop eop payload ctx) := by
  unfold sendSrc
  refine Handed.ite ?_ ?_
  · exact hs
  · extract_lets +onlyGivenNames t' b r
    have hr : Handed s₀ r.2 := hs.sfPump
    clear_value r
    exact hr.setTx

protected theorem Handed.sendSeq {p typ cls colour dst : Nat} {sop eop : Bool} {payload : List Byte} {ctx : Option (Nat × Nat)}
    (hs : Handed s₀ s) :
    Handed s₀ (sendSeq s p typ cls colour dst sop eop payload ctx) := by
  unfold sendSeq
  exact hs.sendSrc

protected theorem Handed.sendMgmt {p dst : Nat} {msg : List Byte} (hs : Handed s₀ s) : Handed s₀ (sendMgmt s p dst msg) := by
  unfold sendMgmt
  exact hs.sendSeq

protected theorem Handed.mgmtTo {dst : Nat} {msg : List Byte} (hs : Handed s₀ s) : Handed s₀ (mgmtTo s dst msg) := by
  unfold mgmtTo
  split
  · exact hs.sendMgmt
  · exact hs

protected theorem Handed.setRes {r : Nat} {x : GrnRes} (hs : Handed s₀ s) : Handed s₀ (setRes s r x) := hs.upd rfl

protected theorem Handed.grnDone {r code nfreed : Nat} {addr : Option Nat} (hs : Handed s₀ s) :
    Handed s₀ (grnDone s r code nfreed addr) := by
  unfold grnDone
  extract_lets +onlyGivenNames x
  exact hs.setRes.setEvt

protected theorem Handed.answerWaiter {w : Waiter} {code addr : Nat} (hs : Handed s₀ s) : Handed s₀ (answerWaiter s w code addr) := by
  unfold answerWaiter
  split
  · exact hs.grnDone
  · exact hs.mgmtTo

protected theorem Handed.xreqContend {p : Nat} (hs : Handed s₀ s) : Handed s₀ (xreqContend s p) := by
  unfold xreqContend
  extract_lets +onlyGivenNames x
  refine Handed.ite ?_ ?_
  · split
    · exact hs.setPool.evG.answerWaiter.bump
    · exact hs
  · exact hs

protected theorem Handed.testHead {p : Nat} (hs : Handed s₀ s) : Handed s₀ (testHead s p) := by
  unfold testHead
  extract_lets +onlyGivenNames s' x
  have hs' : Handed s₀ s' := hs.xreqContend
  clear_value s'
  split
  · exact hs'
  · split
    · exact hs'.setPool.evG.answerWaiter
    · exact hs'

protected theorem Handed.rejectFree {p a o code : Nat} (hs : Handed s₀ s) : Handed s₀ (rejectFree s p a o code) := by
  unfold rejectFree
  extract_lets +onlyGivenNames off src s1 s2
  have hs1 : Handed s₀ s1 := hs.bump
  clear_value s1
  have hs2 : Handed s₀ s2 := hs1.rputN
  clear_value s2
  exact hs2.rput64.raiseFault

protected theorem Handed.grnFree {p a o : Nat} (hs : Handed s₀ s) : Handed s₀ (grnFree s p a o).2 := by
  unfold grnFree
  extract_lets +onlyGivenNames code
  split
  · dsimp only
    exact hs.setPool.testHead
  · split
    · dsimp only
      exact hs
    · dsimp only
      exact hs.rejectFree.testHead

protected theorem Handed.freeBuf {c : Nat} {b : Option (Nat × Nat)} (hs : Handed s₀ s) : Handed s₀ (freeBuf s c b) := by
  unfold freeBuf
  split
  · exact hs.grnFree
  · exact hs

protected theorem Handed.setMin {p o m : Nat} (hs : Handed s₀ s) (e : setMin s p o m = some t) : Handed s₀ t := by
  unfold setMin at e
  extract_lets x x1 at e
  split at e
  · cases e
    exact hs.setPool
  · cases e

protected theorem Handed.setMin_getD {p o m : Nat} (hs : Handed s₀ s) : Handed s₀ ((setMin s p o m).getD s) := by
  cases e : setMin s p o m with
  | none => exact hs
  | some t => exact hs.setMin e

protected theorem Handed.breakSems {sel : Sem → Bool} (hs : Handed s₀ s) : Handed s₀ (breakSems s sel) := by
  unfold breakSems
  extract_lets +onlyGivenNames l
  exact hs.upd rfl

protected theorem Handed.breakOwner {o : Nat} (hs : Handed s₀ s) : Handed s₀ (breakOwner s o) := by
  unfold breakOwner
  extract_lets +onlyGivenNames s1
  have hs1 : Handed s₀ s1 := (hs.upd rfl)
  clear_value s1
  exact Handed.ite hs1.breakSems (Handed.ite hs1.mgmtTo hs1)

protected theorem Handed.losePc {pc : Nat} (hs : Handed s₀ s) : Handed s₀ (losePc s pc) := hs.upd rfl

protected theorem Handed.gateTile {t : Nat} (hs : Handed s₀ s) : Handed s₀ (gateTile s t) := by
  unfold gateTile
  exact hs.setTile

protected theorem Handed.mapPc {pc region : Nat} (hs : Handed s₀ s) : Handed s₀ (mapPc s pc region) := by
  unfold mapPc
  extract_lets +onlyGivenNames pg
  exact Handed.ite hs.boothField hs.boothField

protected theorem Handed.dropPc {pc : Nat} (hs : Handed s₀ s) : Handed s₀ (dropPc s pc) := by
  unfold dropPc
  exact hs.mapPc.losePc

protected theorem Handed.releasePcs {x : Ctx} (hs : Handed s₀ s) : Handed s₀ (releasePcs s x) := by
  unfold releasePcs
  split
  · exact hs.setCtx
  · exact hs.foldl fun _ _ hu => hu.dropPc

protected theorem Handed.releaseDone {c : Nat} (hs : Handed s₀ s) : Handed s₀ (releaseDone s c) := by
  unfold releaseDone
  split
  · exact hs
  · extract_lets +onlyGivenNames b _ s1 s2 p s3 s4 s5 _ s6 s8
    have hs1 : Handed s₀ s1 := (hs.upd rfl)
    clear_value s1
    have hs2 : Handed s₀ s2 := (hs1.foldl fun _ _ hu => hu.gateTile)
    clear_value s2
    have hs3 : Handed s₀ s3 := hs2.setMin_getD
    clear_value s3
    have hs4 : Handed s₀ s4 := (Handed.ite hs3 hs3.boothField)
    clear_value s4
    have hs5 : Handed s₀ s5 := hs4.boothField.setFifo
    clear_value s5
    have hs6 : Handed s₀ s6 := (Handed.ite hs5.setQ hs5)
    clear_value s6
    have hs8 : Handed s₀ s8 := (hs6.upd rfl)
    clear_value s8
    exact hs8.releasePcs.breakOwner

protected theorem Handed.releaseCheck {c : Nat} (hs : Handed s₀ s) : Handed s₀ (releaseCheck s c) := by
  unfold releaseCheck
  split
  · exact Handed.ite hs.releaseDone hs
  · exact hs

protected theorem Handed.finishSlot {q id : Nat} {ce : List Byte} (hs : Handed s₀ s) : Handed s₀ (finishSlot s q id ce) := by
  unfold finishSlot
  extract_lets +onlyGivenNames x
  exact hs.setQ

protected theorem Handed.finishFrame {q : Nat} {id : Option Nat} {ce : List Byte} (hs : Handed s₀ s) :
    Handed s₀ (finishFrame s q id ce) := by
  unfold finishFrame
  split
  · exact hs.finishSlot
  · exact hs

protected theorem Handed.withPic {c id : Nat} {f : Pic → Pic} (hs : Handed s₀ s) : Handed s₀ (withPic s c id f) := by
  unfold withPic
  split
  · exact hs.setCtx
  · exact hs

protected theorem Handed.endPic {c id : Nat} {st : Nat × Nat} (hs : Handed s₀ s) : Handed s₀ (endPic s c id st) := by
  unfold endPic
  split
  · exact hs
  · split
    · exact hs
    · extract_lets +onlyGivenNames done s1
      have hs1 : Handed s₀ s1 := hs.finishFrame
      clear_value s1
      exact hs1.setCtx.releaseCheck

protected theorem Handed.finishPic {c id : Nat} (hs : Handed s₀ s) : Handed s₀ (finishPic s c id) := by
  unfold finishPic
  split
  · exact hs.endPic
  · exact hs

protected theorem Handed.unitDone {port : Nat} {u : EgUnit} (hs : Handed s₀ s) : Handed s₀ (unitDone port s u) := by
  unfold unitDone
  extract_lets +onlyGivenNames s1 a b s2
  have hs1 : Handed s₀ s1 := hs.freeBuf
  clear_value s1
  have ha : Handed s₀ a := hs1.bump
  clear_value a
  have hb : Handed s₀ b := (Handed.ite ha.bump ha)
  clear_value b
  have hs2 : Handed s₀ s2 := (Handed.ite hb.raiseFault.setEvt hs1)
  clear_value s2
  exact Handed.ite hs2.withPic.finishPic (Handed.ite hs2.releaseCheck hs2)

protected theorem Handed.sample {pk : Pkt} (hs : Handed s₀ s) : Handed s₀ (sample s pk) := by
  unfold sample
  split
  · extract_lets +onlyGivenNames x d
    exact hs.setFlow
  · exact hs

protected theorem Handed.lostOn {port : Nat} (hs : Handed s₀ s) : Handed s₀ (lostOn s port) := by
  unfold lostOn
  exact hs.markCtxs

protected theorem Handed.ringDrops {r n : Nat} (hs : Handed s₀ s) : Handed s₀ (ringDrops s r n) := by
  induction n generalizing s with
  | zero => exact hs
  | succ n ih => exact ih hs.bump.setEvt.raiseFault

protected theorem Handed.wrBlocks {f loc a : Nat} {bs : List (Byte × Bool)} {lost : Nat → Bool} (hs : Handed s₀ s) :
    Handed s₀ (wrBlocks f s loc a bs lost) := by
  induction f generalizing s a bs with
  | zero => exact hs
  | succ f ih =>
    unfold wrBlocks
    simp only
    split
    · exact hs
    · exact ih (Handed.ite hs hs.writeLoc)

protected theorem Handed.ringStore {r w : Nat} {bs : List (Byte × Bool)} {lost : Nat → Bool} (hs : Handed s₀ s) :
    Handed s₀ (ringStore s r w bs lost) := by
  unfold ringStore
  extract_lets +onlyGivenNames n base o k
  exact hs.wrBlocks.wrBlocks

protected theorem Handed.ringPut {r w : Nat} {busErr : Bool} {u : EgUnit} {bad : List Bool} (hs : Handed s₀ s) :
    Handed s₀ (ringPut s r w busErr u bad) := by
  unfold ringPut
  extract_lets +onlyGivenNames host s0 s1 s2
  have hs0 : Handed s₀ s0 := (Handed.ite hs.rangeFault hs)
  clear_value s0
  have hs1 : Handed s₀ s1 := (Handed.ite hs0.fresh hs0).ringStore
  clear_value s1
  have hs2 : Handed s₀ s2 := (Handed.ite hs1.markUe hs1)
  clear_value s2
  exact Handed.ite ((Handed.ite hs2.emit hs2).withPic) hs2

protected theorem Handed.ringStatus {r num : Nat} (hs : Handed s₀ s) : Handed s₀ (ringStatus s r num) := by
  unfold ringStatus
  extract_lets +onlyGivenNames z a
  exact Handed.ite hs hs.writeLoc

protected theorem Handed.ringEnd {r num : Nat} (hs : Handed s₀ s) : Handed s₀ (ringEnd s r num) := by
  unfold ringEnd
  extract_lets +onlyGivenNames y
  exact hs.setRing.ringStatus

protected theorem Handed.ringUnit {r : Nat} {busErr : Bool} {bad : List Bool} {u : EgUnit} (hs : Handed s₀ s) :
    Handed s₀ (ringUnit r busErr bad s u) := by
  unfold ringUnit
  extract_lets +onlyGivenNames n x x0 w m s1 _ s2
  have hs1 : Handed s₀ s1 := hs.ringPut.ringDrops
  clear_value s1
  have hs2 : Handed s₀ s2 := hs1.setRing
  clear_value s2
  exact Handed.ite hs2.ringEnd hs2

protected theorem Handed.sendPacket {p cls dest : Nat} {bs : List Byte} {ctx : Option (Nat × Nat)} (hs : Handed s₀ s) :
    Handed s₀ (sendPacket s p cls dest bs ctx) := by
  unfold sendPacket
  extract_lets +onlyGivenNames parts
  exact hs.foldl fun _ _ hu => hu.sendSeq

end

end Sys2Proof.Machine

namespace Sys2Proof.Machine

/-! PROOFS. A port's packets: which starts and where it goes when it is done (R312–R324, R492). -/

section
variable {s s₀ t : State}

/-! ## Tags -/

/-- `t` is `s` but for the tags of flows and services. -/
structure Tagged (s t : State) : Prop where
  frame : t = { s with flows := t.flows, svcs := t.svcs }
  flow : ∀ f, getFlow t f = { getFlow s f with tag := (getFlow t f).tag, tagSet := (getFlow t f).tagSet }

namespace Tagged

protected theorem refl (s : State) : Tagged s s := ⟨rfl, fun _ => rfl⟩

protected theorem trans (h : Tagged s₀ s) (g : Tagged s t) : Tagged s₀ t := by
  refine ⟨?_, fun f => ?_⟩
  · have e := g.frame
    rw [h.frame] at e
    exact e
  · have e := g.flow f
    rw [h.flow f] at e
    exact e

protected theorem foldl {α : Type} {f : State → α → State} {l : List α} (h : Tagged s₀ s) (hf : ∀ u x, Tagged u (f u x)) :
    Tagged s₀ (l.foldl f s) :=
  List.foldlRecOn l f h fun u hu x _ => hu.trans (hf u x)

end Tagged

theorem tagFlow_tagged (s : State) (e : Nat × List Byte) : Tagged s (tagFlow s e) := by
  unfold tagFlow
  dsimp only
  split
  · refine ⟨rfl, fun f => ?_⟩
    rw [getFlow_setFlow]
    split
    · next h =>
      rw [h]
    · rfl
  · exact .refl s

theorem tagSvc_tagged (s : State) (port v : Nat) (fl : List (Nat × List Byte)) : Tagged s (tagSvc s port v fl) := by
  unfold tagSvc
  dsimp only
  split
  · exact .refl s
  · split
    · exact ⟨rfl, fun _ => rfl⟩
    · exact .refl s

theorem tagAll_tagged (s : State) (port : Nat) : Tagged s (tagAll s port) := by
  unfold tagAll
  exact ((Tagged.refl s).foldl tagFlow_tagged).foldl fun u v => tagSvc_tagged u port v _

theorem Tagged.getPort (h : Tagged s t) (p : Nat) : getPort t p = getPort s p := by
  rw [h.frame]
  rfl

/-! ## A packet starts -/

theorem startPkt_frame (s : State) (port f : Nat) (b : List Byte) (h : Head) :
    startPkt s port f b h = { s with flows := (startPkt s port f b h).flows, eports := (startPkt s port f b h).eports } := rfl

theorem startPkt_port (s : State) (port f : Nat) (b : List Byte) (h : Head) :
    (getPort (startPkt s port f b h) port).v = (getPort s port).v ∧
    ∃ pk, (getPort (startPkt s port f b h) port).cur = some pk ∧ pk.flow = f ∧ pk.data = h.data ∧ pk.done = h.done ∧ pk.ctx = h.lead.ctx ∧
      pk.bytes = if isEth port then ethFrame f b (udpPayload b (getFlow s f).seq h) else h.data := by
  unfold startPkt
  dsimp only
  rw [getPort_setPort, if_pos rfl]
  exact ⟨rfl, _, rfl, rfl, rfl, rfl, rfl, rfl⟩

theorem startPkt_otherPort (s : State) (port f : Nat) (b : List Byte) (h : Head) {q : Nat} (hq : q ≠ port) :
    getPort (startPkt s port f b h) q = getPort s q := by
  unfold startPkt
  dsimp only
  rw [getPort_setPort, if_neg hq]
  rfl

theorem startPkt_flow (s : State) (port f : Nat) (b : List Byte) (h : Head) : getFlow (startPkt s port f b h) f =
    { getFlow s f with units := h.rest, seq := ((getFlow s f).seq + 1) % 65536, pkts := (getFlow s f).pkts + 1,
                       total := (getFlow s f).total + 1, tagSet := false } := by
  unfold startPkt
  dsimp only
  exact (getFlow_setFlow _ _ _ _).trans (if_pos rfl)

theorem startGuar_frame (s : State) (port : Nat) (q : Nat × List Byte × Head) :
    startGuar s port q = { s with flows := (startGuar s port q).flows, eports := (startGuar s port q).eports } := rfl

theorem startBulkPkt_frame (s : State) (port v : Nat) (q : Nat × List Byte × Head) : startBulkPkt s port v q =
    { s with flows := (startBulkPkt s port v q).flows, svcs := (startBulkPkt s port v q).svcs, eports := (startBulkPkt s port v q).eports } := by
  unfold startBulkPkt
  extract_lets c x y s1 s2 _ s3
  have h3 : s3 = { s with flows := s3.flows, svcs := s3.svcs, eports := s3.eports } := rfl
  clear_value s3
  have hp := startPkt_frame s3 port q.1 q.2.1 q.2.2
  generalize startPkt s3 port q.1 q.2.1 q.2.2 = u at hp ⊢
  have hu : u = { s with flows := u.flows, svcs := u.svcs, eports := u.eports } := by
    rw [hp, h3]
  have ht := (tagAll_tagged u port).frame
  generalize tagAll u port = w at ht ⊢
  rw [ht, hu]

/-- On an idle port whose link takes packets the tier's packet starts. -/
theorem packetStart_eq {p : Nat} {u : State} (h8 : p < 8) (hc : (getPort s p).cur = none) (hup : isSf p = false ∨ sfUp s (p - 3) = true)
    (hu : u = match pickGuar (tagAll s p) (portFlows (tagAll s p) p) with
      | some q => startGuar (tagAll s p) p q
      | none => match pickBulk (tagAll s p) (portFlows (tagAll s p) p) (svcsOf (portFlows (tagAll s p) p)) with
        | some (v, q) => startBulkPkt (tagAll s p) p v q
        | none => tagAll s p)
    (hf : u = { s with flows := u.flows, svcs := u.svcs, eports := u.eports }) : packetStart p s = u := by
  have hlink : (isSf p && !sfUp u (p - 3)) = false := by
    have hs : sfUp u (p - 3) = sfUp s (p - 3) := by
      rw [hf]
      rfl
    rw [hs]
    rcases hup with h | h <;> simp [h]
  unfold packetStart
  rw [if_neg (by rw [hc]; simpa using h8)]
  extract_lets s0 fl s1
  have h1 : s1 = u := hu.symm
  rw [h1]
  split
  · rw [hlink]
    exact if_neg Bool.false_ne_true
  · rfl

theorem packetStart_guar {p f : Nat} {b : List Byte} {h : Head} (h8 : p < 8) (hc : (getPort s p).cur = none)
    (hup : isSf p = false ∨ sfUp s (p - 3) = true) (hg : pickGuar (tagAll s p) (portFlows (tagAll s p) p) = some (f, b, h)) :
    packetStart p s = startGuar (tagAll s p) p (f, b, h) := by
  refine packetStart_eq h8 hc hup (by rw [hg]) ?_
  rw [startGuar_frame, (tagAll_tagged s p).frame]

theorem packetStart_bulk {p v f : Nat} {b : List Byte} {h : Head} (h8 : p < 8) (hc : (getPort s p).cur = none)
    (hup : isSf p = false ∨ sfUp s (p - 3) = true) (hg : pickGuar (tagAll s p) (portFlows (tagAll s p) p) = none)
    (hb : pickBulk (tagAll s p) (portFlows (tagAll s p) p) (svcsOf (portFlows (tagAll s p) p)) = some (v, f, b, h)) :
    packetStart p s = startBulkPkt (tagAll s p) p v (f, b, h) := by
  refine packetStart_eq h8 hc hup (by rw [hg, hb]) ?_
  rw [startBulkPkt_frame, (tagAll_tagged s p).frame]

/-- What the start of a guaranteed packet leaves: the packet on its port, and the flow without it, its clock at the finish time. -/
theorem startGuar_spec (s : State) (p f : Nat) (b : List Byte) (h : Head) :
    (∃ pk, (getPort (startGuar s p (f, b, h)) p).cur = some pk ∧ pk.flow = f ∧ pk.data = h.data ∧ pk.done = h.done ∧ pk.ctx = h.lead.ctx ∧
      pk.bytes = if isEth p then ethFrame f b (udpPayload b (getFlow s f).seq h) else h.data) ∧
    (getFlow (startGuar s p (f, b, h)) f).units = h.rest ∧
    (getFlow (startGuar s p (f, b, h)) f).seq = ((getFlow s f).seq + 1) % 65536 ∧
    (getFlow (startGuar s p (f, b, h)) f).fLast = gFinish s f b h ∧
    ∀ q, q ≠ p → getPort (startGuar s p (f, b, h)) q = getPort s q := by
  unfold startGuar
  dsimp only
  have hx : getFlow (setFlow s f { getFlow s f with fLast := gFinish s f b h }) f = { getFlow s f with fLast := gFinish s f b h } :=
    (getFlow_setFlow _ _ _ _).trans (if_pos rfl)
  obtain ⟨-, hpk⟩ := startPkt_port (setFlow s f { getFlow s f with fLast := gFinish s f b h }) p f b h
  rw [hx] at hpk
  refine ⟨hpk, ?_, ?_, ?_, fun q hq => startPkt_otherPort _ p f b h hq⟩
  all_goals rw [startPkt_flow, hx]

/-- What the start of a bulk packet leaves: the packet on its port, the flow without it, and the port's virtual time at the
service's tag. -/
theorem startBulkPkt_spec (s : State) (p v f : Nat) (b : List Byte) (h : Head) :
    (∃ pk, (getPort (startBulkPkt s p v (f, b, h)) p).cur = some pk ∧ pk.flow = f ∧ pk.data = h.data ∧ pk.done = h.done ∧
      pk.bytes = if isEth p then ethFrame f b (udpPayload b (getFlow s f).seq h) else h.data) ∧
    (getFlow (startBulkPkt s p v (f, b, h)) f).units = h.rest ∧
    (getPort (startBulkPkt s p v (f, b, h)) p).v = max (getPort s p).v (getSvc s v).tag := by
  unfold startBulkPkt
  extract_lets c x y s1 s2 _ s3
  have hx : getFlow s3 f = { x with fLast := x.tag, tok := flowTok s f b - c, tokTick := s.tick } :=
    (getFlow_setFlow _ _ _ _).trans (if_pos rfl)
  have hv : (getPort s3 p).v = max (getPort s p).v y.tag := congrArg EPort.v ((getPort_setPort _ _ _ _).trans (if_pos rfl))
  clear_value s3
  obtain ⟨hpv, pk, hpk, h1, h2, h3, -, h4⟩ := startPkt_port s3 p f b h
  rw [hx] at h4
  have htag := tagAll_tagged (startPkt s3 p f b h) p
  refine ⟨⟨pk, ?_, h1, h2, h3, h4⟩, ?_, ?_⟩
  · rw [htag.getPort, hpk]
  · rw [htag.flow, startPkt_flow]
  · rw [htag.getPort, hpv, hv]

/-! ## The packet's words leave their FIFO -/

/-- `t` is `s` after words have left a FIFO: no register changes but those of the FIFOs, the faults and the counters. -/
structure Drawn (s t : State) : Prop where
  frame : t = { s with regs := t.regs, hdrs := t.hdrs, crier := t.crier, emitted := t.emitted, msix := t.msix, flt := t.flt,
                       eports := t.eports, ctxs := t.ctxs, arbs := t.arbs, fifos := t.fifos, comPoison := t.comPoison, flows := t.flows }
  regs : ∀ page bank off, page ≠ perfPg → page ≠ fltPg → page ≠ fifoPg → off ≠ 0x230 → bank < 8192 → off < 4096 →
    rget t page bank off = rget s page bank off

namespace Drawn

protected theorem refl (s : State) : Drawn s s := ⟨rfl, fun _ _ _ _ _ _ _ _ _ => rfl⟩

protected theorem trans (h : Drawn s₀ s) (g : Drawn s t) : Drawn s₀ t := by
  refine ⟨?_, fun p b o hp hf hq ho hb hoff => (g.regs p b o hp hf hq ho hb hoff).trans (h.regs p b o hp hf hq ho hb hoff)⟩
  have e := g.frame
  rw [h.frame] at e
  exact e

protected theorem noted (h : Drawn s₀ s) (g : Noted s t) : Drawn s₀ t := by
  refine h.trans ⟨?_, fun p b o hp hf _ _ hb ho => g.regs p b o hp hf hb ho⟩
  rw [g.frame]

protected theorem foldl {α : Type} {f : State → α → State} {l : List α} (h : Drawn s₀ s) (hf : ∀ u x, Drawn s₀ u → Drawn s₀ (f u x)) :
    Drawn s₀ (l.foldl f s) :=
  List.foldlRecOn l f h fun u hu x _ => hf u x hu

protected theorem ite {c : Prop} [Decidable c] (h : Drawn s₀ s) (g : Drawn s₀ t) : Drawn s₀ (if c then s else t) := by
  split <;> assumption

/-- A word of the FIFOs' own page. -/
protected theorem rputN (h : Drawn s₀ s) {b o : Nat} (v : Nat) (hb : b < 8192) (ho : o < 4096) : Drawn s₀ (rputN s fifoPg b o v) :=
  h.trans ⟨rfl, fun _ _ _ _ _ hq _ hb' ho' => (rget_rput _ _ _ _ _ _ _ _ hb hb' ho ho').trans (if_neg fun e => hq e.1)⟩

/-- The count of words found bad, of any FIFO. -/
protected theorem bumpUe (h : Drawn s₀ s) (f n : Nat) : Drawn s₀ (bump s fifoPg f 0x230 n) := by
  refine h.trans ⟨rfl, fun _ _ _ _ _ _ hne _ ho' => (rget_rput_key _ _ _ _ _ _ _ _).trans (if_neg fun e => hne ?_)⟩
  unfold rkey at e
  omega

end Drawn

theorem markWord_noted (s : State) (f a : Nat) : Noted s (markWord s f a) := by
  unfold markWord
  extract_lets n x d
  split
  · exact .refl s
  · split
    · exact markCtxs_noted _ _ _ _
    · split
      · exact markCtxs_noted _ _ _ _
      · exact .refl s

theorem Drawn.comUe (h : Drawn s₀ s) (a : Nat) : Drawn s₀ (comUe s a) := by
  unfold Machine.comUe
  extract_lets s1 s2
  have h1 : Drawn s₀ s1 := (h.rputN _ (by decide) (by decide)).rputN a (by decide) (by decide)
  clear_value s1
  have h2 : Drawn s₀ s2 := h1.foldl fun u f hu => hu.noted (markWord_noted u f a)
  clear_value s2
  have h3 : Drawn s₀ { s2 with comPoison := if s2.comPoison.contains a then s2.comPoison else s2.comPoison ++ [a] } :=
    h2.trans ⟨rfl, fun _ _ _ _ _ _ _ _ _ => rfl⟩
  exact h3.noted (raiseFault_noted _ _ _ _)

theorem Drawn.fifoUe (h : Drawn s₀ s) (f a : Nat) : Drawn s₀ (fifoUe s f a) := by
  unfold Machine.fifoUe fifoFault
  exact (((h.bumpUe f 1).comUe a).rputN f (by decide) (by decide)).noted (raiseFault_noted _ _ _ _)

theorem Drawn.fifoStore (h : Drawn s₀ s) (f : Nat) (x : Fifo) : Drawn s₀ (fifoStore s f x) := by
  have hi : f % 256 < 256 := Nat.mod_lt _ (by decide)
  unfold Machine.fifoStore
  extract_lets n occ lvl up x1 s1 i s2
  have h1 : Drawn s₀ s1 := h.trans ⟨rfl, fun _ _ _ _ _ _ _ _ _ => rfl⟩
  clear_value s1
  have h2 : Drawn s₀ s2 := Drawn.ite (h1.rputN _ (by omega) (by decide)) h1
  clear_value s2
  exact Drawn.ite (h2.rputN _ (by decide) (by omega)) h2

theorem fifoTake_drawn (s : State) (f k : Nat) : Drawn s (fifoTake s f k) := by
  unfold fifoTake
  extract_lets n x k s0 s1
  have h0 : Drawn s s0 := (Drawn.refl s).foldl fun u a hu => hu.trans ⟨rfl, fun _ _ _ _ _ _ _ _ _ => rfl⟩
  clear_value s0
  have h1 : Drawn s s1 := h0.foldl fun u a hu => hu.fifoUe f a
  clear_value s1
  exact h1.fifoStore f _

theorem Drawn.sameStore (h : Drawn s t) : SameStore s t := by
  have hpage : ∀ c, c < 32 → hbmPage c ≠ perfPg ∧ hbmPage c ≠ fltPg ∧ hbmPage c ≠ fifoPg := by decide
  refine ⟨by rw [h.frame], by rw [h.frame], by rw [h.frame], hbmLocs_congr (fun c hc => ?_) fun o ho => ?_⟩
  · obtain ⟨h1, h2, h3⟩ := hpage c hc
    exact h.regs _ _ _ h1 h2 h3 (by decide) (by decide) (by decide)
  · refine h.regs _ _ _ (by decide) (by decide) (by decide) ?_ (by decide) (grainWord_lt o ho)
    rintro rfl
    exact absurd ho (by decide)

/-- The port when its packet is done: idle, the packet's words gone from their FIFO. -/
def portTaken (s : State) (p : Nat) (pk : Pkt) : State :=
  setPort (sample (fifoTake s pk.fifo pk.words) pk) p { getPort s p with cur := none }

theorem portTaken_drawn (s : State) (p : Nat) (pk : Pkt) : Drawn s (portTaken s p pk) := by
  have hs : ∀ u, Drawn u (sample u pk) := fun u => by
    unfold sample
    split
    · exact ⟨rfl, fun _ _ _ _ _ _ _ _ _ => rfl⟩
    · exact .refl u
  exact ((fifoTake_drawn s pk.fifo pk.words).trans (hs _)).trans ⟨rfl, fun _ _ _ _ _ _ _ _ _ => rfl⟩

theorem portTaken_idle (s : State) (p : Nat) (pk : Pkt) : (getPort (portTaken s p pk) p).cur = none :=
  congrArg EPort.cur ((getPort_setPort _ _ _ _).trans (if_pos rfl))

/-! ## The packet goes to its destination -/

theorem packetDone_eth {p : Nat} {e : Bool} {pk : Pkt} (hp : p < 2) (hc : (getPort s p).cur = some pk) :
    packetDone p e s = pk.done.foldl (unitDone p) (if !pk.wire then bump (portTaken s p pk) (ethPage p) 0 0x128 1
      else if (getEth (portTaken s p pk) p).linkUp && !pk.lost then evG (0x10C + p) (emit (portTaken s p pk) (.frame p pk.bytes))
      else portTaken s p pk) := by
  unfold packetDone
  rw [hc]
  dsimp only
  rw [if_neg (by omega), if_pos (show isEth p = true from decide_eq_true hp)]
  rfl

theorem packetDone_unitless {p : Nat} {e : Bool} {pk : Pkt} (hp : p < 8) (hc : (getPort s p).cur = some pk) (hd : pk.done = []) :
    (getPort (packetDone p e s) p).cur = none := by
  unfold packetDone
  rw [hc]
  dsimp only
  rw [if_neg (by omega), hd]
  have h := Handed.refl (portTaken s p pk)
  refine Handed.idle (s := portTaken s p pk) ?_ p (portTaken_idle s p pk)
  refine Handed.ite (Handed.ite h.bump (Handed.ite h.emit.evG h)) (Handed.ite (Handed.ite h.sendPacket h.bump.lostOn) h)

theorem packetDone_wired {p : Nat} {e : Bool} {pk : Pkt} (hp : p < 2) (hc : (getPort s p).cur = some pk) (hw : pk.wire = true)
    (hl : pk.lost = false) (hup : (getEth s p).linkUp = true) :
    (getPort (packetDone p e s) p).cur = none ∧ .frame p pk.bytes ∈ (packetDone p e s).emitted := by
  have he : (getEth (portTaken s p pk) p).linkUp = true := by
    rw [(portTaken_drawn s p pk).frame]
    exact hup
  have hidle := portTaken_idle s p pk
  rw [packetDone_eth hp hc, hw, hl, he]
  generalize portTaken s p pk = u at hidle
  have h : Handed (emit u (.frame p pk.bytes)) (pk.done.foldl (unitDone p) (evG (0x10C + p) (emit u (.frame p pk.bytes)))) :=
    (Handed.refl _).evG.foldl fun _ _ hu => hu.unitDone
  exact ⟨h.idle p hidle, h.emitted _ (List.mem_append_right _ (List.mem_singleton_self _))⟩

theorem packetDone_offWire {p : Nat} {e : Bool} {pk : Pkt} (hp : p < 2) (hc : (getPort s p).cur = some pk) (hw : pk.wire = false)
    (hd : pk.done = []) : rgetN (packetDone p e s) (ethPage p) 0 0x128 = min 0xFFFFFFFF (rgetN s (ethPage p) 0 0x128 + 1) := by
  have hpage : ∀ q, q < 2 → ethPage q ≠ perfPg ∧ ethPage q ≠ fltPg ∧ ethPage q ≠ fifoPg := by decide
  obtain ⟨h1, h2, h3⟩ := hpage p hp
  have hreg : rgetN (portTaken s p pk) (ethPage p) 0 0x128 = rgetN s (ethPage p) 0 0x128 :=
    congrArg BitVec.toNat ((portTaken_drawn s p pk).regs _ _ _ h1 h2 h3 (by decide) (by decide) (by decide))
  rw [packetDone_eth hp hc, hw, hd, ← hreg]
  exact rgetN_bump _ _ _ _ _

/-! ## An output ring -/

/-- `t` keeps what `s` has in host memory and the stacks, and its output rings. -/
structure RingsKept (s t : State) : Prop where
  hostMem : t.hostMem = s.hostMem
  hbm : t.hbm = s.hbm
  rings : t.rings = s.rings

namespace RingsKept

protected theorem refl (s : State) : RingsKept s s := ⟨rfl, rfl, rfl⟩

protected theorem trans (h : RingsKept s₀ s) (g : RingsKept s t) : RingsKept s₀ t :=
  ⟨g.hostMem.trans h.hostMem, g.hbm.trans h.hbm, g.rings.trans h.rings⟩

protected theorem upd (h : RingsKept s₀ s) (e : (t.hostMem, t.hbm, t.rings) = (s.hostMem, s.hbm, s.rings)) : RingsKept s₀ t := by
  simp only [Prod.mk.injEq] at e
  exact h.trans ⟨e.1, e.2.1, e.2.2⟩

protected theorem noted (h : RingsKept s₀ s) (g : Noted s t) : RingsKept s₀ t := h.upd (by rw [g.frame])

protected theorem ite {c : Prop} [Decidable c] (h : RingsKept s₀ s) (g : RingsKept s₀ t) : RingsKept s₀ (if c then s else t) := by
  split <;> assumption

protected theorem raiseFault {page src info : Nat} (hs : RingsKept s₀ s) : RingsKept s₀ (raiseFault s page src info) :=
  hs.noted (raiseFault_noted _ _ _ _)

protected theorem evG {ev : Nat} (hs : RingsKept s₀ s) : RingsKept s₀ (evG ev s) := hs.noted (evG_told _ _).noted

protected theorem setEvt {page bit : Nat} (hs : RingsKept s₀ s) : RingsKept s₀ (setEvt s page bit) := hs.noted (setEvt_noted _ _ _)

protected theorem rputN {page bank off v : Nat} (hs : RingsKept s₀ s) : RingsKept s₀ (rputN s page bank off v) := hs.upd rfl

protected theorem rput64 {page bank off v : Nat} (hs : RingsKept s₀ s) : RingsKept s₀ (rput64 s page bank off v) := hs.upd rfl

protected theorem bump {page bank off n : Nat} (hs : RingsKept s₀ s) : RingsKept s₀ (bump s page bank off n) := hs.upd rfl

protected theorem mgmtTo {dst : Nat} {msg : List Byte} (hs : RingsKept s₀ s) : RingsKept s₀ (mgmtTo s dst msg) :=
  hs.upd (by rw [((Sends.refl s).mgmtTo (dst := dst) (msg := msg)).frame])

end RingsKept

protected theorem RingsKept.setPool {p : Nat} {x : Pool} (hs : RingsKept s₀ s) : RingsKept s₀ (setPool s p x) := hs.upd rfl

protected theorem RingsKept.setRes {r : Nat} {x : GrnRes} (hs : RingsKept s₀ s) : RingsKept s₀ (setRes s r x) := hs.upd rfl

protected theorem RingsKept.grnDone {r code nfreed : Nat} {addr : Option Nat} (hs : RingsKept s₀ s) :
    RingsKept s₀ (grnDone s r code nfreed addr) := by
  unfold grnDone
  extract_lets +onlyGivenNames x
  exact hs.setRes.setEvt

protected theorem RingsKept.answerWaiter {w : Waiter} {code addr : Nat} (hs : RingsKept s₀ s) : RingsKept s₀ (answerWaiter s w code addr) := by
  unfold answerWaiter
  split
  · exact hs.grnDone
  · exact hs.mgmtTo

protected theorem RingsKept.xreqContend {p : Nat} (hs : RingsKept s₀ s) : RingsKept s₀ (xreqContend s p) := by
  unfold xreqContend
  extract_lets +onlyGivenNames x
  refine RingsKept.ite ?_ ?_
  · split
    · exact hs.setPool.evG.answerWaiter.bump
    · exact hs
  · exact hs

protected theorem RingsKept.testHead {p : Nat} (hs : RingsKept s₀ s) : RingsKept s₀ (testHead s p) := by
  unfold testHead
  extract_lets +onlyGivenNames s' x
  have hs' : RingsKept s₀ s' := hs.xreqContend
  clear_value s'
  split
  · exact hs'
  · split
    · exact hs'.setPool.evG.answerWaiter
    · exact hs'

protected theorem RingsKept.rejectFree {p a o code : Nat} (hs : RingsKept s₀ s) : RingsKept s₀ (rejectFree s p a o code) := by
  unfold rejectFree
  extract_lets +onlyGivenNames off src s1 s2
  have hs1 : RingsKept s₀ s1 := hs.bump
  clear_value s1
  have hs2 : RingsKept s₀ s2 := hs1.rputN
  clear_value s2
  exact hs2.rput64.raiseFault

protected theorem RingsKept.grnFree {p a o : Nat} (hs : RingsKept s₀ s) : RingsKept s₀ (grnFree s p a o).2 := by
  unfold grnFree
  extract_lets +onlyGivenNames code
  split
  · dsimp only
    exact hs.setPool.testHead
  · split
    · dsimp only
      exact hs
    · dsimp only
      exact hs.rejectFree.testHead

protected theorem RingsKept.freeBuf {c : Nat} {b : Option (Nat × Nat)} (hs : RingsKept s₀ s) : RingsKept s₀ (freeBuf s c b) := by
  unfold freeBuf
  split
  · exact hs.grnFree
  · exact hs

protected theorem RingsKept.withPic {c id : Nat} {f : Pic → Pic} (hs : RingsKept s₀ s) : RingsKept s₀ (withPic s c id f) := by
  unfold withPic
  split
  · exact hs.upd rfl
  · exact hs

protected theorem RingsKept.ringDrops {r n : Nat} (hs : RingsKept s₀ s) : RingsKept s₀ (ringDrops s r n) := by
  induction n generalizing s with
  | zero => exact hs
  | succ n ih => exact ih hs.bump.setEvt.raiseFault

/-- The end of a unit that ends neither its picture nor the stream. -/
theorem unitDone_inner {p : Nat} {u : EgUnit} (hl : u.last = false) (he : u.se = false) : RingsKept s (unitDone p s u) := by
  unfold unitDone
  extract_lets s1 a b s2
  have h1 : RingsKept s s1 := (RingsKept.refl s).freeBuf
  clear_value s1
  have hb : RingsKept s b := RingsKept.ite h1.bump.bump h1.bump
  clear_value b
  have h2 : RingsKept s s2 := RingsKept.ite hb.raiseFault.setEvt h1
  clear_value s2
  rw [hl, he]
  exact h2

theorem wrBlocks_sameStore {f loc a : Nat} {bs : List (Byte × Bool)} {lost : Nat → Bool} (h : SameStore s t) :
    SameStore (wrBlocks f s loc a bs lost) (wrBlocks f t loc a bs lost) := by
  induction f generalizing s t a bs with
  | zero => exact h
  | succ f ih =>
    unfold wrBlocks
    dsimp only
    split
    · exact h
    · refine ih ?_
      split
      · exact h
      · exact h.writeLoc _ _ _ _

/-- The words of a ring's entry that say where it lies. -/
theorem Drawn.ringWords (h : Drawn s t) {r : Nat} (hr : r < 32) :
    ringLog t r = ringLog s r ∧ ringLoc t r = ringLoc s r ∧ rget64 t schedPg r 0x380 = rget64 s schedPg r 0x380 := by
  have hw : ∀ o, o < 4096 → o ≠ 0x230 → rgetN t schedPg r o = rgetN s schedPg r o := fun o ho hne =>
    congrArg BitVec.toNat (h.regs schedPg r o (by decide) (by decide) (by decide) hne (by omega) ho)
  unfold ringLog ringLoc rbits rget64
  rw [hw 0x388 (by decide) (by decide), hw 0x380 (by decide) (by decide), hw 0x384 (by decide) (by decide)]
  exact ⟨rfl, rfl, rfl⟩

theorem ringStore_sameStore {r w : Nat} {bs : List (Byte × Bool)} {lost : Nat → Bool} (h : Drawn s t) (hr : r < 32) :
    SameStore (ringStore s r w bs lost) (ringStore t r w bs lost) := by
  obtain ⟨h1, h2, h3⟩ := h.ringWords hr
  unfold ringStore
  rw [h1, h2, h3]
  exact wrBlocks_sameStore (wrBlocks_sameStore h.sameStore)

/-- The bytes of a unit with the marks of the poisoned words they lie in (R241). -/
def markedBytes (u : EgUnit) (bad : List Bool) : List (Byte × Bool) :=
  (List.range u.bytes.length).zip u.bytes |>.map fun e => (e.2, getIx bad (e.1 / 4) false)

theorem ringPut_ringsKept {r w : Nat} {u : EgUnit} {bad : List Bool} :
    RingsKept (ringStore s r w (markedBytes u bad) fun _ => false) (ringPut s r w false u bad) := by
  unfold ringPut
  extract_lets host s0 s1 s2
  have h1 : s1 = ringStore s r w (markedBytes u bad) fun _ => false := rfl
  clear_value s1
  rw [← h1]
  have h2 : RingsKept s1 s2 := RingsKept.ite ((RingsKept.refl s1).noted (markCtxs_noted _ _ _ _)) (.refl s1)
  clear_value s2
  have h3 : RingsKept s1 (emit s2 .aer) := h2.upd rfl
  exact RingsKept.ite (RingsKept.ite h3 h2).withPic h2

/-- A unit that does not end its picture moves the ring's position on; its bytes are stored. -/
theorem ringUnit_inner {r : Nat} {bad : List Bool} {u : EgUnit} (hl : u.last = false) :
    (getRing (ringUnit r false bad s u) r).wr = ((getRing s r).wr + u.bytes.length) % 2 ^ (ringLog s r + 1) ∧
    (ringUnit r false bad s u).hostMem = (ringStore s r (getRing s r).wr (markedBytes u bad) fun _ => false).hostMem ∧
    (ringUnit r false bad s u).hbm = (ringStore s r (getRing s r).wr (markedBytes u bad) fun _ => false).hbm := by
  unfold ringUnit
  extract_lets n x x0 w m s1 s2
  have h1 : RingsKept (ringStore s r x.wr (markedBytes u bad) fun _ => false) s1 := ringPut_ringsKept.ringDrops
  clear_value s1
  rw [hl, if_neg Bool.false_ne_true]
  exact ⟨congrArg Machine.Ring.wr ((getRing_setRing _ _ _ _).trans (if_pos rfl)), h1.hostMem, h1.hbm⟩

theorem packetDone_ring {p : Nat} {e : Bool} {pk : Pkt} (hp : p = 2 ∨ p = 7) (hc : (getPort s p).cur = some pk) :
    packetDone p e s = pk.done.foldl (unitDone p) (pk.done.foldl
      (ringUnit (Fl.ring (flowBytes s pk.flow)) e ((fifoNext s pk.fifo pk.words).map s.comPoison.contains)) (portTaken s p pk)) := by
  have hport : ∀ q, q = 2 ∨ q = 7 → isEth q = false ∧ isSf q = false := by
    rintro q (rfl | rfl) <;> decide
  obtain ⟨h1, h2⟩ := hport p hp
  unfold packetDone
  rw [hc]
  dsimp only
  rw [if_neg (by omega), h1, h2, if_neg Bool.false_ne_true, if_neg Bool.false_ne_true]
  rfl

theorem packetDone_ringUnit {p : Nat} {pk : Pkt} {u : EgUnit} {r : Nat} (hp : p = 2 ∨ p = 7) (hc : (getPort s p).cur = some pk)
    (hd : pk.done = [u]) (hl : u.last = false) (he : u.se = false) (hr : Fl.ring (flowBytes s pk.flow) = r) :
    (getPort (packetDone p false s) p).cur = none ∧
    (getRing (packetDone p false s) r).wr = ((getRing s r).wr + u.bytes.length) % 2 ^ (ringLog s r + 1) ∧
    (packetDone p false s).hostMem = (ringStore s r (getRing s r).wr
      (markedBytes u ((fifoNext s pk.fifo pk.words).map s.comPoison.contains)) fun _ => false).hostMem ∧
    (packetDone p false s).hbm = (ringStore s r (getRing s r).wr
      (markedBytes u ((fifoNext s pk.fifo pk.words).map s.comPoison.contains)) fun _ => false).hbm := by
  have hlt : r < 32 := hr ▸ Nat.mod_lt _ (by decide)
  have hdrawn := portTaken_drawn s p pk
  obtain ⟨hlog, -, -⟩ := hdrawn.ringWords hlt
  have hring : getRing (portTaken s p pk) r = getRing s r := by
    unfold getRing
    rw [hdrawn.frame]
  have hidle := portTaken_idle s p pk
  rw [packetDone_ring hp hc, hd, hr]
  generalize portTaken s p pk = v at hdrawn hlog hring hidle
  generalize (fifoNext s pk.fifo pk.words).map s.comPoison.contains = bad
  obtain ⟨hwr, hhost, hhbm⟩ := ringUnit_inner (s := v) (r := r) (bad := bad) hl
  have hidle' : Handed v (unitDone p (ringUnit r false bad v u) u) := (Handed.refl v).ringUnit.unitDone
  have hend : RingsKept (ringUnit r false bad v u) (unitDone p (ringUnit r false bad v u) u) := unitDone_inner hl he
  have hsame := ringStore_sameStore (w := (getRing s r).wr) (bs := markedBytes u bad) (lost := fun _ => false) hdrawn hlt
  rw [hring] at hwr hhost hhbm
  rw [hlog] at hwr
  refine ⟨hidle'.idle p hidle, ?_, (hend.hostMem.trans hhost).trans hsame.hostMem, (hend.hbm.trans hhbm).trans hsame.hbm⟩
  have hget : getRing (unitDone p (ringUnit r false bad v u) u) r = getRing (ringUnit r false bad v u) r := by
    unfold getRing
    rw [hend.rings]
  exact (congrArg Machine.Ring.wr hget).trans hwr

end

/-- Settles O42: the tier's choice becomes the port's packet, and a packet that is done goes out as a frame, into a ring, or is counted. -/
theorem egressPackets : Obligations.EgressPackets := by
  unfold Obligations.EgressPackets
  refine ⟨?_, ?_, ?_, ?_, ?_, ?_⟩
  · intro s p f b h ha h8 hc hup hg
    have htag := tagAll_tagged s p
    obtain ⟨⟨pk, hpk, h1, h2, h3, h4, h5⟩, hunits, hseq, hlast, hother⟩ := startGuar_spec (tagAll s p) p f b h
    have hf := htag.flow f
    have hframe : startGuar (tagAll s p) p (f, b, h) = { s with
        flows := (startGuar (tagAll s p) p (f, b, h)).flows
        svcs := (startGuar (tagAll s p) p (f, b, h)).svcs
        eports := (startGuar (tagAll s p) p (f, b, h)).eports } := by
      rw [startGuar_frame, htag.frame]
    rw [hf] at h5 hseq
    exact ⟨_, pk, runs_act_to rfl ha (packetStart_guar h8 hc hup hg), hpk, h1, h2, h3, h5, h4, hunits, hseq, hlast,
      fun q hq => (hother q hq).trans (htag.getPort q), hframe⟩
  · intro s p v f b h ha h8 hc hup hg hb
    have htag := tagAll_tagged s p
    obtain ⟨⟨pk, hpk, h1, h2, h3, h4⟩, hunits, hv⟩ := startBulkPkt_spec (tagAll s p) p v f b h
    have hf := htag.flow f
    have hframe : startBulkPkt (tagAll s p) p v (f, b, h) = { s with
        flows := (startBulkPkt (tagAll s p) p v (f, b, h)).flows
        svcs := (startBulkPkt (tagAll s p) p v (f, b, h)).svcs
        eports := (startBulkPkt (tagAll s p) p v (f, b, h)).eports } := by
      rw [startBulkPkt_frame, htag.frame]
    rw [hf] at h4
    rw [htag.getPort] at hv
    exact ⟨_, pk, runs_act_to rfl ha (packetStart_bulk h8 hc hup hg hb), hpk, h1, h2, h3, h4, hunits, hv, hframe⟩
  · intro s p e pk ha hp hc hw hl hup
    exact ⟨_, runs_act rfl ha, packetDone_wired hp hc hw hl hup⟩
  · intro s p e pk ha hp hc hd
    exact ⟨_, runs_act rfl ha, packetDone_unitless hp hc hd⟩
  · intro s p e pk ha hp hc hw hd
    exact ⟨_, runs_act rfl ha, packetDone_unitless (by omega) hc hd, packetDone_offWire hp hc hw hd⟩
  · rintro s p e pk u ha hp hc hd hl he rfl -
    exact ⟨_, runs_act rfl ha, packetDone_ringUnit hp hc hd hl he rfl⟩

end Sys2Proof.Machine

namespace Sys2Proof.Machine

/-! PROOFS. ADMIT at the booth: its replies, and what an admitted contract installs (R27–R33). -/

section
variable {s : State}

/-! ## Replies -/

/-- A reply is stored where TKB_RSP_ADDR says, CMD_DONE is set, and a refusal is counted. -/
theorem boothReply_shows (s : State) (b : List Byte) :
    (boothReply s b).hostMem = (memWrite s 0 (rget64 s tkbPg 0 0x110) (padTo 64 b) false).hostMem ∧
    (hdr (boothReply s b) tkbPg).evtPend = (hdr s tkbPg).evtPend ||| 1 ∧
    (byteAt (padTo 64 b) 0 = 1 → rgetN (boothReply s b) tkbPg 0 0x124 = min 0xFFFFFFFF (rgetN s tkbPg 0 0x124 + 1)) := by
  unfold boothReply
  extract_lets r s1 s2
  have h1 : s1 = memWrite s 0 (rget64 s tkbPg 0 0x110) r false := writeLoc_host _ _ _ _
  have h1r : s1.hdrs = s.hdrs ∧ s1.regs = s.regs := by
    rw [h1, memWrite_frame]
    exact ⟨rfl, rfl⟩
  obtain ⟨hh, hr⟩ := h1r
  rw [← h1]
  clear_value s1
  have h2 : s2.hostMem = s1.hostMem ∧ s2.hdrs = s1.hdrs := by
    unfold s2
    split <;> exact ⟨rfl, rfl⟩
  have h2r : byteAt r 0 = 1 → rgetN s2 tkbPg 0 0x124 = min 0xFFFFFFFF (rgetN s tkbPg 0 0x124 + 1) := fun h => by
    have hs : rgetN s1 tkbPg 0 0x124 = rgetN s tkbPg 0 0x124 := by
      unfold rgetN rget
      rw [hr]
    have e : s2 = bump s1 tkbPg 0 0x124 1 := if_pos h
    rw [e, rgetN_bump, hs]
  obtain ⟨hm, hd⟩ := h2
  clear_value s2
  generalize hv : ({ s2 with booth := { s2.booth with
    busy := false, seq := s2.booth.seq + 1, lastResult := byteAt r 0, lastFail := byteAt r 1 } } : State) = v
  have hvm : v.hostMem = s2.hostMem ∧ v.hdrs = s2.hdrs ∧ v.regs = s2.regs := by
    rw [← hv]
    exact ⟨rfl, rfl, rfl⟩
  obtain ⟨vm, vh, vr⟩ := hvm
  refine ⟨?_, ?_, fun h => ?_⟩
  · rw [setEvt_frame]
    exact vm.trans hm
  · have hp : (hdr v tkbPg) = hdr s tkbPg := by
      unfold hdr
      rw [vh, hd, hh]
    have he := congrArg PageHdr.evtPend (setEvts_spec v tkbPg (BitVec.ofNat 32 (2 ^ 0))).2.1
    rw [hp] at he
    exact he
  · refine Eq.trans ?_ (h2r h)
    unfold rgetN rget
    rw [setEvt_frame, ← vr]

theorem grantReply_head (b : List Byte) (pl : Plan) (d : Nat) (first : Time) :
    byteAt (padTo 64 (grantReply b pl d first)) 0 = 0 ∧ byteAt (padTo 64 (grantReply b pl d first)) 1 = 0 := by
  unfold grantReply
  simp only [List.append_assoc]
  exact padTo_head _ _ _ (by decide)

theorem refusedReply_head (fail short d : Nat) :
    byteAt (padTo 64 (refusedReply fail short d)) 0 = 1 ∧ byteAt (padTo 64 (refusedReply fail short d)) 1 = fail % 256 := by
  unfold refusedReply
  simp only [List.append_assoc]
  obtain ⟨h0, h1⟩ := padTo_head (n := 64) 1 (BitVec.ofNat 8 fail)
    (toLE 2 0 ++ (toLE 4 (min 0xFFFFFFFF short) ++ (toLE 4 0 ++ toLE 4 d))) (by decide)
  exact ⟨h0, h1.trans (BitVec.toNat_ofNat _ _)⟩

theorem invalidReply_head (off : Nat) :
    byteAt (padTo 64 (invalidReply off)) 0 = 2 ∧ byteAt (padTo 64 (invalidReply off)) 1 = 0 := padTo_head _ _ _ (by decide)

/-! ## The command -/

theorem admitOp_unread {n : Nat} (h : (memRead s 0 (reqAddr s) 128).2.1.isSome = true ∨ (memRead s 0 (reqAddr s) 128).2.2 = true) :
    admitOp n s = boothReply s (invalidReply 0) := by
  unfold admitOp
  exact if_pos (by simpa using h)

theorem admitOp_read {n : Nat} {b : List Byte} (h : memRead s 0 (reqAddr s) 128 = (b, none, false)) :
    admitOp n s = boothReply (decide_ s n 0 b).1 (decide_ s n 0 b).2 := by
  unfold admitOp
  rw [h]
  rfl

theorem decide_invalid {n role off : Nat} {b : List Byte} (h : validate s role b = .inl off) : decide_ s n role b = (s, invalidReply off) := by
  unfold decide_
  rw [h]

theorem decide_refused {n role fail short d : Nat} {b : List Byte} {p : Prog} (h : validate s role b = .inr p)
    (hc : checks s n role b p = .inl (fail, short, d)) : decide_ s n role b = (s, refusedReply fail short d) := by
  unfold decide_
  rw [h]
  dsimp only
  rw [hc]

theorem decide_granted {n role : Nat} {b : List Byte} {p : Prog} {pl : Plan} (h : validate s role b = .inr p)
    (hc : checks s n role b p = .inr pl) :
    decide_ s n role b = (grantState s role b pl, grantReply b pl (planAdm b pl) (firstDt s pl)) := by
  unfold decide_
  rw [h]
  dsimp only
  rw [hc]

/-! ## What is installed -/

/-- The contexts and the booth stand. -/
def BoothStands (s t : State) : Prop := t.ctxs = s.ctxs ∧ t.booth = s.booth

theorem BoothStands.foldl {α : Type} {f : State → α → State} {l : List α} {s₀ s : State} (h : BoothStands s₀ s)
    (hf : ∀ u x, BoothStands s₀ u → BoothStands s₀ (f u x)) : BoothStands s₀ (l.foldl f s) :=
  List.foldlRecOn l f h fun u hu x _ => hf u x hu

theorem mapPc_stands {s₀ s : State} (p m : Nat) (h : BoothStands s₀ s) : BoothStands s₀ (mapPc s p m) := by
  unfold mapPc
  dsimp only
  split <;> exact h

theorem setMin_stands {s₀ s : State} (p o m : Nat) (h : BoothStands s₀ s) : BoothStands s₀ ((setMin s p o m).getD s) := by
  unfold setMin
  extract_lets x x1
  split <;> exact h

theorem boothField_stands {s₀ s : State} (page bank off hi lo v : Nat) (h : BoothStands s₀ s) :
    BoothStands s₀ (boothField s page bank off hi lo v) := h

theorem grantFlow_stands {s₀ s : State} (b : List Byte) (c : Nat) (h : BoothStands s₀ s) : BoothStands s₀ (grantFlow s b c) := by
  unfold grantFlow boothPut
  extract_lets s5 s6 s7
  have h7 : BoothStands s₀ s7 := boothField_stands _ _ _ _ _ _ (boothField_stands _ _ _ _ _ _ (boothField_stands _ _ _ _ _ _ h))
  clear_value s7
  exact h7

theorem setupFifo_stands {s₀ s : State} (f n base ct : Nat) (h : BoothStands s₀ s) : BoothStands s₀ (setupFifo s f n base ct) := by
  unfold setupFifo boothPut
  extract_lets s1 s2
  have h1 : BoothStands s₀ s1 := boothField_stands _ _ _ _ _ _ h
  clear_value s1
  have h2 : BoothStands s₀ s2 := boothField_stands _ _ _ _ _ _ (boothField_stands _ _ _ _ _ _ h1)
  clear_value s2
  have h3 := boothField_stands fifoPg f 0x200 12 0 (n * 256 + 1) (boothField_stands fifoPg f 0x210 31 0 0x640 h2)
  exact h3

theorem joinPort_stands {s₀ s : State} (c ports n : Nat) (h : BoothStands s₀ s) : BoothStands s₀ (joinPort c ports s n) := by
  unfold joinPort
  extract_lets s1
  have h1 : BoothStands s₀ s1 := boothField_stands _ _ _ _ _ _ (boothField_stands _ _ _ _ _ _ h)
  clear_value s1
  exact h1

theorem bindDma_stands {s₀ s : State} (c : Nat) (h : BoothStands s₀ s) : BoothStands s₀ (bindDma s c) := by
  unfold bindDma
  split <;> exact h

/-- An admitted contract changes no other context and adds its power. -/
theorem grantState_spec (s : State) (role : Nat) (b : List Byte) (pl : Plan) :
    ∃ x, (grantState s role b pl).ctxs = nset s.ctxs pl.ctx x ∧ x.kind = .admitted ∧ x.block = b ++ List.replicate 128 0 ∧
      x.adm.tiles = pl.tiles ∧ x.adm.mp = pl.mp ∧ x.adm.grp = pl.grp ∧ x.adm.dAdm = planAdm b pl ∧ x.pics = [] ∧
      (grantState s role b pl).booth = { s.booth with admMw := s.booth.admMw + pl.mw } := by
  unfold grantState
  extract_lets c f first dAdm adm x s0 s1 _ _ s2 s3 s4 fl s8 s9 _ s10 s11
  refine ⟨x, ?_⟩
  have h0 : BoothStands s s0 := by
    unfold s0
    split <;> exact ⟨rfl, rfl⟩
  clear_value s0
  have h1 : BoothStands s s1 := h0.foldl fun u p hu => mapPc_stands p _ hu
  clear_value s1
  obtain ⟨hc, hb⟩ := h1
  have hc2 : s2.ctxs = nset s.ctxs c x := congrArg (fun m => nset m c x) hc
  have hb2 : s2.booth = { s.booth with admMw := s.booth.admMw + pl.mw } := by
    rw [← hb]
  clear_value s2
  have h3 : BoothStands s2 s3 := BoothStands.foldl ⟨rfl, rfl⟩ fun u t hu => hu
  clear_value s3
  have h4 : BoothStands s2 s4 := setMin_stands _ _ _ h3
  clear_value s4
  have h8 : BoothStands s2 s8 := by
    unfold s8
    split
    · exact h4
    · exact grantFlow_stands b c h4
  clear_value s8
  have h9 : BoothStands s2 s9 := setupFifo_stands _ _ _ _ h8
  clear_value s9
  have h10 : BoothStands s2 s10 := by
    unfold s10
    split <;> exact h9
  clear_value s10
  have h11 : BoothStands s2 s11 := h10.foldl fun u n hu => joinPort_stands c _ n hu
  clear_value s11
  have hend : BoothStands s2 (if Ct.source b = 1 then bindDma s11 c else s11) := by
    split
    · exact bindDma_stands c h11
    · exact h11
  exact ⟨hend.1.trans hc2, rfl, rfl, rfl, rfl, rfl, rfl, rfl, hend.2.trans hb2⟩

end

/-- Settles O11: the contract is read, judged and checked; a reply ends the command, and only an admission changes more than the reply. -/
theorem boothAdmit : Obligations.BoothAdmit := by
  unfold Obligations.BoothAdmit
  refine ⟨?_, ?_, ?_, ?_, ?_⟩
  · intro s rq ctx b p pl hacc hi hm hv hc
    have hrun := runs_reg_to (c := .tkbAdmit rq ctx) rfl hacc ((boothCmd_idle (admitOp (ctx % 2048)) hi).trans (admitOp_read hm))
    rw [decide_granted hv hc] at hrun
    obtain ⟨x, hctx, hk, hbl, ht, hmp, hg, hd, hp, hbooth⟩ := grantState_spec s 0 b pl
    obtain ⟨h0, h1⟩ := grantReply_head b pl (planAdm b pl) (firstDt s pl)
    generalize grantReply b pl (planAdm b pl) (firstDt s pl) = rep at hrun h0 h1
    generalize grantState s 0 b pl = u at hrun hctx hbooth
    obtain ⟨hfr, hbo, -⟩ := boothReply_spec u rep
    obtain ⟨-, hev, -⟩ := boothReply_shows u rep
    have hget : ∀ c, getCtx (boothReply u rep) c = if c = pl.ctx then some x else getCtx s c := fun c => by
      refine (getCtx_congr (s := u) (by rw [hfr]) c).trans ?_
      unfold getCtx
      rw [hctx, nget_nset]
    refine ⟨_, x, hrun, (hget _).trans (if_pos rfl), hk, hbl, ht, hmp, hg, hd, hp, ?_, ?_, ?_, ?_, ?_, fun c hc => (hget c).trans (if_neg hc)⟩
    · rw [hbo, hbooth]
    · rw [hbo, hbooth]
    · rw [hbo, h0]
    · rw [hbo, h1]
    · rw [hev, BitVec.getLsbD_or]
      exact Bool.or_true _
  · intro s rq ctx b p fail short d hacc hi hm hv hc
    have hrun := runs_reg_to (c := .tkbAdmit rq ctx) rfl hacc ((boothCmd_idle (admitOp (ctx % 2048)) hi).trans (admitOp_read hm))
    rw [decide_refused hv hc] at hrun
    obtain ⟨h0, h1⟩ := refusedReply_head fail short d
    obtain ⟨hfr, hbo, -⟩ := boothReply_spec s (refusedReply fail short d)
    obtain ⟨hmem, hev, hcnt⟩ := boothReply_shows s (refusedReply fail short d)
    refine ⟨_, hrun, ?_, ?_, ?_, hmem, ?_, hcnt h0, hev, hfr⟩
    · rw [hbo, h0]
    · rw [hbo, h1]
    · rw [hbo]
    · rw [hbo]
  · intro s rq ctx b off hacc hi hm hv
    have hrun := runs_reg_to (c := .tkbAdmit rq ctx) rfl hacc ((boothCmd_idle (admitOp (ctx % 2048)) hi).trans (admitOp_read hm))
    rw [decide_invalid hv] at hrun
    obtain ⟨h0, h1⟩ := invalidReply_head off
    obtain ⟨hfr, hbo, hreg⟩ := boothReply_spec s (invalidReply off)
    obtain ⟨hmem, hev, -⟩ := boothReply_shows s (invalidReply off)
    rw [hreg (by rw [h0]; decide)] at hfr
    refine ⟨_, hrun, ?_, ?_, ?_, hmem, hev, hfr⟩
    · rw [hbo, h0]
    · rw [hbo, h1]
    · rw [hbo]
  · intro s rq ctx hacc hi hm
    have hrun := runs_reg_to (c := .tkbAdmit rq ctx) rfl hacc ((boothCmd_idle (admitOp (ctx % 2048)) hi).trans (admitOp_unread hm))
    obtain ⟨h0, h1⟩ := invalidReply_head 0
    obtain ⟨hfr, hbo, hreg⟩ := boothReply_spec s (invalidReply 0)
    obtain ⟨-, hev, -⟩ := boothReply_shows s (invalidReply 0)
    rw [hreg (by rw [h0]; decide)] at hfr
    refine ⟨_, hrun, ?_, ?_, ?_, hev, hfr⟩
    · rw [hbo, h0]
    · rw [hbo, h1]
    · rw [hbo]
  · intro s rq ctx hacc hb
    have hop : boothCmd (admitOp (ctx % 2048)) s = setEvt s tkbPg 1 := if_pos hb
    exact ⟨_, runs_reg_to rfl hacc hop, congrArg PageHdr.evtPend (setEvts_spec s tkbPg _).2.1, setEvt_frame s tkbPg 1⟩

end Sys2Proof.Machine
